-- ==== Sys2Proof/Word.lean ====
section
/-! DEFINITION. The machine words and the plainest arithmetic on them. -/

namespace Sys2Proof

/-- A 32-bit register word. -/
abbrev Word := BitVec 32

/-- A byte of a memory, a frame or a packet. -/
abbrev Byte := BitVec 8

/-- A map from numbers to values, kept as a list whose keys rise. -/
abbrev SMap (α : Type) := List (Nat × α)

end Sys2Proof
end

