-- ==== Sys2Proof/Syntax.lean ====
section
/-! DEFINITION. The commands of the block: one constructor for each row of spec/opcode_table.json, with the operands the row's rule gives it. -/

namespace Sys2Proof

/-- Who makes a register access (R19). A DMA engine uses the fabric TC4 bank (R74). -/
inductive Initiator where
  | yarder | bar0 | tc4 | dma
  deriving DecidableEq, Repr

/-- A Collyn frame: the header of R257 and its payload. DEST and SRC hold station · 4 + hub position; `ringB` is the ring of
origin in SA (R256); `corr` is in 2^-16 ns. -/
structure Frame where
  typ : Nat
  tc : Nat
  dup : Bool := false
  dest : Nat
  src : Nat := 0
  hopSeq : Nat := 0
  flowSeq : Nat := 0
  ctx : Nat := 0
  kepoch : Nat := 0
  epoch : Nat := 0
  kslot : Nat := 0
  ringB : Bool := false
  corr : Int := 0
  payload : List Nat := []
  /-- The GCM tag of a secured frame, once it is encrypted (R256); empty while the payload is plaintext. -/
  tag : List Nat := []
  deriving DecidableEq, Repr

/-- What the frame check of R260 step 1 finds: good, stomped, or failing in length, FCS or coding. -/
inductive Fcs where
  | good | stomped | bad
  deriving DecidableEq, Repr

/-- A frame as it arrives: whether its addresses and EtherType are those of R256, its checks, whether a reserved bit or
byte is set, and the LEN its header gives. -/
structure WireFrame where
  frame : Frame
  ours : Bool := true
  fcs : Fcs := .good
  hcrcGood : Bool := true
  reservedSet : Bool := false
  len : Nat
  deriving DecidableEq, Repr

/-- What an EPOCH frame says (R284); positions by station, absent stations not in the map. -/
structure EpochInfo where
  newEpoch : Nat
  prevEpoch : Nat
  effectCycle : Nat
  hper : Nat
  happly : Nat
  hlaunch : Nat
  hops : Nat
  cut0 : Nat
  cut1 : Nat
  drain : Nat
  kepTx : Nat
  kepNext : Nat
  resets : List Nat
  posmap : List (Nat × Nat)
  deriving DecidableEq, Repr

/-- One hub's 64-byte record of a JOIN (R279). -/
structure JoinHub where
  serial : Nat
  pos : Nat
  flags : Nat
  inLen : Nat
  outLen : Nat
  hash : List Nat
  deriving DecidableEq, Repr

/-- What a JOIN says (R279). -/
structure JoinInfo where
  /-- Hub position of its sender, the ring hub. -/
  ringPos : Nat
  station : Nat
  epochHeld : Nat
  stepsA : Nat
  stepsB : Nat
  hubs : List JoinHub
  deriving DecidableEq, Repr

/-- Why a port goes DOWN (R255). -/
inductive LinkCause where
  | localFault | remoteFault | heartbeat | replay
  deriving DecidableEq, Repr

/-- What a LINK frame says (R262): ACK, NAKSEQ with its flag, HELLO with its flag, ADMITTED and SERIAL. -/
structure LinkInfo where
  ack : Nat
  nak : Option Nat := none
  hello : Bool := true
  admitted : Bool
  serial : Nat
  deriving DecidableEq, Repr

/-- A CAN frame: ID word (XTD, RTR, identifier), format, DLC and data (R206, R214). -/
structure CanFrame where
  id : Nat
  fdf : Bool := false
  brs : Bool := false
  esi : Bool := false
  dlc : Nat := 0
  data : List Nat := []
  deriving DecidableEq, Repr

/-- What a CAN frame is besides its data. -/
structure CanHead where
  id : Nat
  fdf : Bool := false
  brs : Bool := false
  esi : Bool := false
  dlc : Nat := 0
  deriving DecidableEq, Repr

/-- The frame with a head and data. -/
def CanHead.frame (h : CanHead) (data : List Byte) : CanFrame :=
  { id := h.id, fdf := h.fdf, brs := h.brs, esi := h.esi, dlc := h.dlc, data := data.map BitVec.toNat }

/-- Occurrences of 11 recessive bits on a channel's bus in bus-off (R222). -/
structure CanRecovery where
  channel : Fin 16
  sequences : BitVec 8
  deriving DecidableEq, Repr

/-- The bytes that a read asks for: how many, and whether all of them are enabled (R30). -/
structure ReadBytes where
  len : Nat
  enabled : Bool
  deriving DecidableEq, Repr

/-- The bytes of a write, and whether all of them are enabled (R30). -/
structure WriteBytes where
  bytes : List Byte
  enabled : Bool
  deriving DecidableEq, Repr

/-- The seating contacts of a feed that close (R160). -/
structure SeatContacts where
  feed : Fin 16
  first : Bool
  second : Bool
  deriving DecidableEq, Repr

/-- How an I²C transaction ends: its status byte (R182), and how many steps that could have failed with it went well before. -/
structure I2cEnd where
  status : Fin 5
  after : Nat
  deriving DecidableEq, Repr

/-- The data set of an Announce message, in the order in which the standard's algorithm compares it (R86). -/
structure PtpDataset where
  priority1 : BitVec 8
  clockClass : BitVec 8
  accuracy : BitVec 8
  variance : BitVec 16
  priority2 : BitVec 8
  gm : BitVec 64
  steps : BitVec 16
  deriving DecidableEq, Repr

/-- What a PTP message says. Timestamps are FT96 patterns, corrections in 2^-16 ns. A two-step message leaves its timestamp to the
follow-up. -/
inductive PtpBody where
  | announce (dataset : PtpDataset) (utc : BitVec 16)
  | sync (twoStep : Bool) (origin : BitVec 96) (corr : Int)
  | followUp (origin : BitVec 96) (corr : Int)
  | delayRequest
  | delayAnswer (t4 : BitVec 96) (corr : Int)
  | peerRequest
  | peerAnswer (twoStep : Bool) (t2 : BitVec 96) (corr : Int)
  | peerFollowUp (t3 : BitVec 96) (corr : Int)
  | management
  | other
  deriving DecidableEq, Repr

/-- A PTP message on PL0 (R86): of IEEE 802.1AS or of IEEE 1588, over UDP/IPv4 or IEEE 802.3, its domain, the identity of the port that
sent it, its sequence number and its body. -/
structure PtpMessage where
  gptp : Bool
  udp : Bool
  domain : BitVec 8
  source : BitVec 80
  seq : BitVec 16
  body : PtpBody
  deriving DecidableEq, Repr

/-- The commands of the block, in the order of the opcode table. Register-write commands carry the initiator whose bank or capture they
use; events carry what the outside world decides. -/
inductive Instr where
  /-- A write to a register that has no row of its own sets its RW fields or is ignored, as its access codes give (R32). -/
  | registerWrite (init : Initiator) (off : BitVec 40) (data : List Byte)
  /-- A read of an RC field returns the bits set since the previous read and clears exactly those bits (R37). -/
  | clearOnRead (init : Initiator) (off : BitVec 40) (len : Nat)
  /-- The first read of a completed result returns STALE = 0, and every later read until the next start returns STALE = 1 (R41). -/
  | resultRegisterRead (init : Initiator) (off : BitVec 40)
  /-- A write of the _LO half of a 64-bit RW pair places the value in the pair's staging register (R35). -/
  | write64Lo (init : Initiator) (off : BitVec 40) (word : Word)
  /-- A write of the _HI half loads the staged low half and the written high half into the register in one cycle (R35). -/
  | write64Hi (init : Initiator) (off : BitVec 40) (word : Word)
  /-- A write of 1 to GLB_DRIFT_ACK.ACK clears GLB_HEALTH.DRIFT (R67). -/
  | driftAck
  /-- A write of 1 to GLB_CTL.PAIR1_REL releases Yarder pair 1 (R15). -/
  | pair1Release (init : Initiator)
  /-- POR_N low clears all main-die state outside Vigil, and its release resamples the straps and starts the hub (R438). -/
  | porNAssert (stnPos bootSrc : Fin 4)
  /-- SYS_RST_N low resets the main die as POR_N does, but keeps the Boom, BOM_WPTR and GLB_POS (R438). -/
  | sysRstNAssert (bootSrc : Fin 4)
  /-- A write of 1 to UPD_CTL.SYSRST resets the hub as SYS_RST_N does (R438). -/
  | sysrst (bootSrc : Fin 4)
  /-- PERST_N low resets the PCIe endpoint and the window enables, and discards the prefetch slots (R438). -/
  | perstNAssert
  /-- A write to ALM_STAGE_DATA stores the word at PTR and advances PTR, or is ignored with STAGE_OVR or WR_BUSY (R57). -/
  | almStageDataWrite (data : Word)
  /-- A write to ALM_STAGE_PTR sets the staging pointer, and a value above 0x2_0000 is ignored with STAGE_OVR (R69). -/
  | almStagePtrWrite (ptr : BitVec 18)
  /-- ALM_CTL.CLR_STAGE zeroes the staging RAM and ALM_STAGE_PTR when STATE is NONE or IDLE (R57). -/
  | clrStage
  /-- ALM_CTL.ENABLE starts the consistency check of the staged image, taking the hub's own state for the check (R57). -/
  | almanacEnable
  /-- ALM_CTL.CANCEL withdraws a PENDING image with 0x0148 and discards its shadow structure (R57). -/
  | almanacCancel
  /-- The consistency check ends, refusing the image or accepting it into APPLYING or PENDING (R60). -/
  | almanacCheckDone
  /-- Application completes, the new structure and hash take effect, and ALM_OK and APPLIED are set (R481). -/
  | almanacApplied
  /-- TIM_CTL.CAP copies the counter into the writing initiator's capture bank (R74). -/
  | timCapture (init : Initiator)
  /-- TIM_CTL.SET loads TIM_SET_* into the counter on a FREE grandmaster as a step, or is refused (R85). -/
  | timSet
  /-- Every TIM_PD_INT, a ring or stitch port whose link is up sends a delay request to its neighbour (R77). -/
  | pdelayRequestSend (port : Fin 7)
  /-- A received delay request is answered with t2 and t3 (R77). -/
  | pdelayRequestReceived (port : Fin 7) (reqSeq : BitVec 16)
  /-- A received delay answer yields one delay exchange, which is kept or discarded, and TIM_Pn_DELAY is updated (R77). -/
  | pdelayAnswerReceived (port : Fin 7) (payload : List Byte)
  /-- An answer not arrived 1 ms after t1 discards the exchange, and three discards make the delay invalid (R78). -/
  | pdelayAnswerTimeout (port : Fin 7)
  /-- Every TIM_SYNC_INT, the grandmaster sends one one-step sync frame on each ring (R80). -/
  | syncSend
  /-- A sync delivered to the time unit is discarded, or accepted and fed to the servo when it comes from the upstream (R82). -/
  | syncReceived (port : Fin 8) (payload : List Byte) (corr : Int)
  /-- Three sync intervals after the first sync, the provisional upstream selection becomes final (R82). -/
  | upstreamFinal
  /-- With no accepted sync for HOLD_TMO intervals, the servo enters HOLDOVER with a frozen frequency (R84). -/
  | servoHoldover
  /-- A PTP message on PL0 feeds the grandmaster's slave-only ordinary clock or is discarded and counted (R86). -/
  | ptpMessageReceived (message : PtpMessage)
  /-- At each cycle start, every admitted hub samples its whole input image (R273). -/
  | harvestCycleStart
  /-- An arriving tally sample is classified and discarded, inserted or accepted as newest (R95). -/
  | tallyReceived (payload : List Byte)
  /-- A new fit comes into force in one cycle and the slot signals the Calendar (R93). -/
  | tallyFitInForce (slot : Fin 32)
  /-- At a cycle's deadline with no FRESH valid sample, a miss is counted and the slot may coast or be lost (R96). -/
  | tallyDeadline (slot : Fin 32)
  /-- A POS_AT query returns p(t) from the slot's fit (R94). -/
  | posAt (init : Initiator) (slot : Fin 32)
  /-- A TIME_OF query returns the earliest crossing of x in the direction given, within HORIZON (R94). -/
  | timeOf (init : Initiator) (slot : Fin 32) (dir : Fin 4)
  /-- A READ_FIT query returns tref, P, V and A of the slot's fit (R104). -/
  | readFit (init : Initiator) (slot : Fin 32)
  /-- A query completes within 100 ns and writes TLY_Q_RES and its outputs (R104). -/
  | tallyQueryComplete (bank : Fin 3)
  /-- A write to region 0x7 fills an entry, or is refused for a live entry or a bad form (R110). -/
  | calendarEntryWrite (init : Initiator) (off : BitVec 18) (data : WriteBytes)
  /-- An ARM command checks the entry and arms it in ARMED, COMMITTED or WAITING (R111). -/
  | arm (init : Initiator) (index : Fin 8192)
  /-- A RETRACT command makes a live entry RETRACTED with FLAGS.FW (R112). -/
  | retract (init : Initiator) (index : Fin 8192)
  /-- An SCH command completes within 200 ns and writes SCH_CMD_RES (R111). -/
  | schCmdComplete (bank : Fin 3)
  /-- A write of 1 to bit g of SCH_RETRACT_GRP retracts every live entry of group g (R112). -/
  | retractGroup (groups : Word)
  /-- At I − W an ARMED entry commits, fixing its edge and queueing it or ending NOPOWER or OVERRUN (R113). -/
  | entryCommit (index : Fin 8192)
  /-- At its instant a committed entry fires its edge or launch and becomes DONE, FIRED or PULSING (R113). -/
  | entryInstant (index : Fin 8192)
  /-- At the trailing instant a PULSING entry fires its trailing edge (R113). -/
  | pulseTrailingEdge (index : Fin 8192)
  /-- When the arming instant plus EXPIRY passes, a WAITING or ARMED entry becomes EXPIRED (R113). -/
  | entryExpiry (index : Fin 8192)
  /-- A fast-line input pad changes, and every Sluice term and output it feeds follows without a register (R134). -/
  | fastLineInputChange (line : Fin 32) (level : Bool)
  /-- On an event's rising edge, its groups are retracted and its banks forced, and its interrupt may be set (R135). -/
  | sluiceEventRise (event : Fin 32)
  /-- When a MODE 0b01 event falls, its force on the banks ends (R135). -/
  | sluiceEventFall (event : Fin 32)
  /-- A write of 1 to SLC_FORCE_REL bit e, made while e is 0, releases the latched force of event e (R135). -/
  | forceRelease (events : Word)
  /-- A write of 0 to SLC_CTL.HOLD applies every staged class A write in one cycle (R137). -/
  | slcHoldRelease
  /-- With no output image applied for SLC_HWD µs, Sluice source S63 rises (R132). -/
  | harvestWatchdogExpiry
  /-- After 4–5 µs of silence, or with fewer than two good lanes, the HV link is down (R144). -/
  | hvLinkLost (lanes : Fin 5)
  /-- The HV link comes up on two or more good lanes (R144). -/
  | hvLinkUp (lanes : Fin 5)
  /-- TWN_FENCE_N low puts every NORMAL bank keeper into KEEP (R146). -/
  | twnFenceNFall
  /-- TWN_FENCE_N returns high (R146). -/
  | twnFenceNRise
  /-- At the end of KEEP_TMO a KEEP bank goes to SAFE, or to RELEASED while fenced (R146). -/
  | keepTmoExpiry (bank : Fin 16)
  /-- When the link is up, the firmware loaded, BANK applied and the fence high, the keeper returns to NORMAL (R146). -/
  | keeperResume (bank : Fin 16)
  /-- The rail below the HV die reset threshold resets the HV die, and every keeper goes RELEASED (R146). -/
  | hvDieReset
  /-- The rail above the rising threshold starts the HV die and activates the keepers (R461). -/
  | hvDieStart
  /-- A field input level that holds for the filter time passes to FLD_INk, the image and the Sluice (R149). -/
  | fieldInputChange (line : Fin 128) (level : Bool)
  /-- Current below the wire-break threshold for the filter time sets STAT.WB, and its return clears it (R150). -/
  | wireBreak (line : Fin 128) (broken : Bool)
  /-- A zero crossing is timestamped and counted, and the line is ignored for 1 ms after it (R151). -/
  | zeroCrossing (line : Fin 128)
  /-- A line in current limit for 500 µs, or overheated, latches off with SC (R154). -/
  | lineLatchOff (line : Fin 128) (thermal : Bool)
  /-- A write of 1 to a line's bit in FLD_CLRk clears its latch-off (R154). -/
  | lineLatchClear (init : Initiator) (k : Fin 4) (lines : BitVec 32)
  /-- Open load in the off state, or under-current for 10 ms in the on state, sets STAT.OL (R155). -/
  | openLoad (line : Fin 128) (present : Bool)
  /-- After power-good, each output line is restored in turn, 20 µs apart (R153). -/
  | lineRestore (line : Fin 128)
  /-- After SEAT_DB of seating, the feed goes to PRECHARGE or COOLOFF, with INSERTED (R160). -/
  | seatDebounceExpiry (feed : Fin 16)
  /-- A seating contact opening removes the feed's power and starts the removal timer (R160). -/
  | seatContactOpen (feed : Fin 16) (second : Bool)
  /-- Both seating contacts closed return a removed feed to SEATING, with NEW_MODULE after 2 s (R160). -/
  | seatContactsClosed (contacts : SeatContacts)
  /-- Fn_SRC within 1.5 V of the rail moves the feed from PRECHARGE to GATE (R160). -/
  | prechargeReached (feed : Fin 16)
  /-- Pre-charge timing out fails the attempt as a retry with PRE_FAIL (R160). -/
  | preTmoExpiry (feed : Fin 16)
  /-- The gate exceeding source + 7 V moves the feed from GATE to QUALIFY (R160). -/
  | gateRise (feed : Fin 16)
  /-- 2 ms in GATE without the gate rise sends the feed to LOCKOUT (R160). -/
  | gateRiseTimeout (feed : Fin 16)
  /-- 5 ms in window with the fault timer idle makes the feed ON with power-good (R160). -/
  | qualifyComplete (feed : Fin 16)
  /-- Sense at ILIM starts the fault timer and regulates the current at ILIM (R161). -/
  | faultTimerStart (feed : Fin 16)
  /-- Sense below 90 % of ILIM returns the fault timer to idle (R161). -/
  | faultTimerStop (feed : Fin 16)
  /-- Fault timer expiry turns the gate off as a retry with TRIP_TMR (R160). -/
  | faultTimerExpiry (feed : Fin 16)
  /-- Sense at or above TRIP turns the gates off as a retry with TRIP_FAST (R160). -/
  | fastTrip (feed : Fin 16)
  /-- Expiry of COOL while seated moves a COOLOFF feed to PRECHARGE (R160). -/
  | cooloffExpiry (feed : Fin 16)
  /-- Power-good held for RETRY_CLR clears the retry count (R160). -/
  | retryClrExpiry (feed : Fin 16)
  /-- Loss of the ORed rail sends every running feed to SUPPLY with no retry (R160). -/
  | railLost
  /-- The rail's return sends a SUPPLY feed to SEATING (R160). -/
  | railBack
  /-- CHK_Fn_CTL.CLR clears LATCHED or LOCKOUT to SEATING with the retry count at 0 (R160). -/
  | feedClr (init : Initiator) (feed : Fin 16)
  /-- VHVA or VHVB entering or leaving 18–32 V changes its window status (R164). -/
  | supplyInWindow (supplyB inWindow : Bool) (volts : BitVec 12)
  /-- An input in window for INS_DLY turns its ORing FET on (R164). -/
  | insDlyExpiry (supplyB : Bool)
  /-- An input above 32 V for 10 µs turns its FET off (R164). -/
  | supplyOvervoltage (supplyB : Bool)
  /-- With the rail 20 mV above an input, that input's FET turns off as an ideal diode (R164). -/
  | oringReverse (supplyB : Bool)
  /-- CHK_CAL.GO starts sense-amplifier offset calibration over the named feeds, or is refused (R166). -/
  | chkCal (init : Initiator) (maint : Bool) (feeds : BitVec 16)
  /-- Calibration ends with success, 0x0903 or an abort, and writes CHK_CAL_RES (R166). -/
  | chkCalComplete (offsets : List (Fin 16 × Int))
  /-- FLD_LB.GO starts line-cell loopback over the named banks, or is refused (R167). -/
  | fldLb (init : Initiator) (maint : Bool) (banks : BitVec 16)
  /-- Loopback ends with pass, failing lines or an abort, and writes FLD_LB_RES (R167). -/
  | fldLbComplete (levels : BitVec 128)
  /-- A write of 1 to PSL_Sn_CTL.START gives the slice a start, held pending or lost (R177). -/
  | sliceStart (slice : Fin 48)
  /-- A write of PSL_Sn_CTL.EN starts or stops the personality, keeping both flumes (R197). -/
  | sliceEnable (slice : Fin 48) (en : Bool)
  /-- PSL_Sn_CTL.RX_FLUSH requests an RX flush at the next packet boundary (R194). -/
  | rxFlush (slice : Fin 48)
  /-- PSL_Sn_CTL.TX_FLUSH requests a TX flush at the next packet boundary (R194). -/
  | txFlush (slice : Fin 48)
  /-- At the packet boundary the flume is emptied and the flush completes (R194). -/
  | flushEffect (slice : Fin 48)
  /-- PSL_FLUSH_TMO expiry ends the packet in progress, and the flush completes with 0x0A03 (R194). -/
  | flushTmoExpiry (slice : Fin 48)
  /-- Each 64-bit unit read from an RX port returns and removes the oldest closed item, or the idle item (R190). -/
  | rxPortRead (init : Initiator) (slice : Fin 48) (off : Nat) (bytes : ReadBytes)
  /-- Each 64-bit unit written to a TX port appends an item, or is discarded (R190). -/
  | txPortWrite (init : Initiator) (slice : Fin 48) (off : Nat) (data : WriteBytes)
  /-- A received character is stored, and a delimiter or LEN ends the RX packet (R179). -/
  | uartCharacterReceived (slice : Fin 48) (char : BitVec 9) (bad brk : Bool)
  /-- A line idle for GAP character times ends the RX packet (R179). -/
  | uartGapExpiry (slice : Fin 48)
  /-- A personality starts sending a TX packet once its END item is in the flume (R193). -/
  | txPacketSend (slice : Fin 48)
  /-- A TX packet finishes, and TXDONE is set (R193). -/
  | txPacketDone (slice : Fin 48)
  /-- An SPI master performs one transfer per TX packet and produces an RX packet of equal length (R180). -/
  | spiMasterTransfer (slice : Fin 48) (miso : List Byte)
  /-- A CS_N assertion by the remote master is one packet in each direction (R181). -/
  | spiSlaveSelect (slice : Fin 48) (mosi : List Byte) (partialWord : Bool)
  /-- An I²C TX packet runs one transaction and produces an RX packet ending with a status byte (R182). -/
  | i2cTransaction (slice : Fin 48) (outcome : I2cEnd) (reads : List Byte)
  /-- An SSI transfer clocks data, error and parity bits and decodes the value into P2 and P3 (R183). -/
  | ssiTransfer (slice : Fin 48) (data : BitVec 64) (ebits : Fin 8) (parityBad timeout : Bool)
  /-- A qualified phase edge changes the count and its timestamp, or a state error sets QERR (R184). -/
  | quadratureEdge (slice : Fin 48) (a b : Bool)
  /-- An index rising edge latches the count, and may reset it to 0 (R184). -/
  | quadratureIndex (slice : Fin 48)
  /-- A write to P2 commits PERIOD and HIGH at the next period start, or is ignored with REFUSED (R185). -/
  | pulsePeriodWrite (slice : Fin 48) (high : BitVec 32)
  /-- With GATE_EN = 1, pin C low suspends, and high resumes, the generator at a period boundary (R185). -/
  | pulseGate (slice : Fin 48) (high : Bool)
  /-- The generator emits its COUNT pulses and sets DONE (R185). -/
  | pulseBurstDone (slice : Fin 48)
  /-- The paired line's feed going off or on moves the IO-Link port to NOPOWER or out of it (R186). -/
  | iolFeedChange (slice : Fin 48) (on : Bool)
  /-- In STARTUP a wake-up is sent every 500 ms until the device answers and the rate is found (R186). -/
  | iolWakeup (slice : Fin 48) (rate : Option (Fin 4))
  /-- In PREOPERATE validation passes to OPERATE or fails to MISMATCH (R186). -/
  | iolValidation (slice : Fin 48) (vid : BitVec 16) (did : BitVec 24)
  /-- A failed M-sequence is repeated, and a third consecutive failure enters COMLOST (R186). -/
  | iolMessageFailure (slice : Fin 48)
  /-- 500 ms after COMLOST the port returns to STARTUP (R186). -/
  | iolComlostExpiry (slice : Fin 48)
  /-- A write of P0, P1 or P2 moves a MISMATCH port to STARTUP (R186). -/
  | iolConfigWrite (init : Initiator) (slice : Fin 48) (k : Fin 3) (word : Word)
  /-- A write of TXREQ sets PEND on a TX buffer, or counts a duplicate or a bad request (R208). -/
  | canTxRequest (channel : Fin 16) (k : Fin 2) (buffers : BitVec 32)
  /-- When the bus allows, the channel offers the candidate that wins arbitration (R209). -/
  | canStartOfFrame (channel : Fin 16)
  /-- Successful transmission clears PEND, sets SENT and TS, and applies any deferred write (R209). -/
  | canTxComplete (channel : Fin 16)
  /-- Lost arbitration or an error leads to a retry, or in one-shot mode ends with ARBLOST or TXERR (R218). -/
  | canTxAttemptFailed (channel : Fin 16) (arbitration error : Bool)
  /-- A pending buffer whose deadline passes is withdrawn with EXPIRED (R210). -/
  | canDeadlineExpiry (channel : Fin 16) (buffer : Fin 64)
  /-- A correctly received frame is matched to an RX buffer or a filter and FIFO, or discarded (R212). -/
  | canFrameReceived (channel : Fin 16) (head : CanHead) (data : List Byte)
  /-- A write of 1 to RXACK clears FULL and OVR of the buffer (R212). -/
  | canRxack (channel : Fin 16) (k : Fin 2) (buffers : BitVec 32)
  /-- A write of 1 to CAN_Cc_POP bit k removes the head of FIFO k (R214). -/
  | canPop (channel : Fin 16) (fifos : BitVec 2)
  /-- A write to a buffer or filter element updates it, or is refused when the buffer is pending (R207). -/
  | canBufferWrite (init : Initiator) (channel : Fin 16) (off : BitVec 14) (data : WriteBytes)
  /-- A detected error changes the error counters and the error state, as ISO 11898-1 defines (R220). -/
  | canErrorDetected (channel : Fin 16) (lec : Fin 8) (dataPhase sending special : Bool)
  /-- A guardian copy completes on the guardian bus, or its TC7 frame leaves, setting GUARD_SENT (R221). -/
  | guardianCopySent (channel : Fin 16) (buffer : Fin 64)
  /-- A write of 1 to CTL.RECOVER starts bus-off recovery when RECOV = 1 (R222). -/
  | canRecover (channel : Fin 16)
  /-- After 128 sequences of 11 recessive bits, the channel is error active again and its held buffers resume (R222). -/
  | canRecoveryDone (recovery : CanRecovery)
  /-- RXD dominant for more than 256 nominal bit times sets STUCK (R223). -/
  | canStuckDominant (channel : Fin 16)
  /-- A write of LOM enters or leaves listen-only mode after the frame in progress (R217). -/
  | canLomWrite (channel : Fin 16) (lom : Bool)
  /-- A write of CAN_Cc_CTL.EN starts the channel, or stops it at the end of any frame (R224). -/
  | canEnable (channel : Fin 16) (en : Bool)
  /-- ABD_GO starts automatic bit-rate detection, or is refused (R219). -/
  | abdGo (init : Initiator) (channel : Fin 16)
  /-- ABD_STOP ends rate detection with 0x0B06 (R219). -/
  | abdStop (channel : Fin 16)
  /-- The end of a candidate's dwell moves detection to the next candidate, or ends it after PASSES (R219). -/
  | abdDwellExpiry (channel : Fin 16)
  /-- A guardian copy or a tunnelled or guard CAN frame enters a channel's remote queue, or is dropped (R215). -/
  | remoteQueueEntry (channel : Fin 16) (frame : CanFrame)
  /-- BR sets PC to TARGET when COND holds (R238). -/
  | br (sawyer : Fin 128) (pads : BitVec 16)
  /-- LOOP decrements LC and jumps while LC is not 0 (R238). -/
  | loop (sawyer : Fin 128) (pads : BitVec 16)
  /-- WAIT completes when its condition holds, and otherwise stalls the sawyer (R240). -/
  | wait (sawyer : Fin 128) (pads : BitVec 16)
  /-- SHI shifts N bits of its source into ISR (R239). -/
  | shi (sawyer : Fin 128) (pads : BitVec 16)
  /-- SHO shifts N bits out of OSR to its destination (R239). -/
  | sho (sawyer : Fin 128) (pads : BitVec 16)
  /-- SEND moves ISR into the RX FIFO, stalls, or discards the word and sets F (R238). -/
  | send (sawyer : Fin 128) (pads : BitVec 16)
  /-- TAKE loads OSR from the TX FIFO, stalls, or sets F (R238). -/
  | take (sawyer : Fin 128) (pads : BitVec 16)
  /-- COPY writes XFORM(SRC) to DST (R238). -/
  | copy (sawyer : Fin 128) (pads : BitVec 16)
  /-- LDI loads or appends an immediate into X, Y or LC (R238). -/
  | ldi (sawyer : Fin 128) (pads : BitVec 16)
  /-- PINSET writes levels or directions to up to 8 pins from WBASE (R238). -/
  | pinset (sawyer : Fin 128) (pads : BitVec 16)
  /-- CALC performs the arithmetic or logic function FN on X, Y or LC and sets F (R238). -/
  | calc (sawyer : Fin 128) (pads : BitVec 16)
  /-- POST updates TALLY from X and records the post time (R243). -/
  | post (sawyer : Fin 128) (pads : BitVec 16)
  /-- FLAG sets or clears a grove flag, or raises FLAGIRQ (R238). -/
  | flag (sawyer : Fin 128) (pads : BitVec 16)
  /-- STAMP records the FT96 of the issue cycle (R238). -/
  | stamp (sawyer : Fin 128) (pads : BitVec 16)
  /-- NOP does nothing but its side effect and delay (R238). -/
  | nop (sawyer : Fin 128) (pads : BitVec 16)
  /-- HALT enters HALTED and sets IRQ.HALT (R244). -/
  | halt (sawyer : Fin 128) (pads : BitVec 16)
  /-- Fetching an invalid instruction, or a WAIT on an unbound slot, sends the sawyer to FAULT (R244). -/
  | invalidInstruction (sawyer : Fin 128) (pads : BitVec 16)
  /-- A stalled instruction's condition comes true, it completes, and the divider is re-phased (R241). -/
  | stallRelease (sawyer : Fin 128) (pads : BitVec 16)
  /-- A write of SAW_Sn_CTL.EN moves the sawyer between STOPPED and RUN (R244). -/
  | sawyerEnable (sawyer : Fin 128) (en : Bool)
  /-- A write to SAW_Sn_INJ queues an instruction to run at the next tick (R246). -/
  | sawyerInject (init : Initiator) (sawyer : Fin 128) (word : Word)
  /-- A write to SAW_Sn_TXF appends a word to the TX FIFO, or is discarded when the FIFO is full (R245). -/
  | sawyerTxfWrite (sawyer : Fin 128) (word : Word)
  /-- A read of SAW_Sn_RXF returns and removes the head word (R245). -/
  | sawyerRxfRead (sawyer : Fin 128)
  /-- A write of SAW_Sn_DROP, or a harvest output point, sets DROP (R245). -/
  | sawyerDropWrite (sawyer : Fin 128) (word : Word)
  /-- A write of SAW_Gg_FLAGS sets the grove flags (R248). -/
  | groveFlagsWrite (grove : Fin 16) (flags : BitVec 8)
  /-- SAW_Gg_RELOAD.GO starts freezing and reloading the named sawyers, or is refused (R247). -/
  | reload (init : Initiator) (grove : Fin 16) (mask : BitVec 8) (clean : Bool)
  /-- When every named sawyer has frozen and been loaded, all resume at ENTRY in one cycle (R247). -/
  | reloadComplete (grove : Fin 16)
  /-- A write to region 0x3 replaces words of a grove's program memory (R229). -/
  | groveMemoryWrite (init : Initiator) (off : BitVec 15) (data : WriteBytes)
  /-- Block lock without faults moves a DOWN port to SETTLE (R255). -/
  | blockLock (port : Fin 8)
  /-- After 100 ms without fault a port goes to UP or READY (R255). -/
  | settleExpiry (port : Fin 8)
  /-- A fault, 8 µs without heartbeats, or replay exhausted takes a port DOWN, wraps and sends LINKRPT (R255). -/
  | portDown (port : Fin 8) (cause : LinkCause)
  /-- Each port sends a LINK frame at least every 1 µs (R255). -/
  | heartbeatSend (port : Fin 7)
  /-- A frame at a ring port passes the length, FCS, HCRC and HOPSEQ checks, or is stomped or NAKed (R260). -/
  | ringFrameReceived (port : Fin 7) (frame : WireFrame)
  /-- 2 µs after a NAK with the expected frame still absent, the receiver NAKs again (R260). -/
  | hopNakRetry (port : Fin 7)
  /-- A LINK frame's ACK releases replay frames, and its NAK starts go-back-N replay (R261). -/
  | linkFrameReceived (port : Fin 7) (info : LinkInfo)
  /-- The receiver sends an ACK after 32 accepted frames, or every 1 µs while frames are unacknowledged (R261). -/
  | ackSend (port : Fin 7)
  /-- With no ACK covering the oldest buffered frame for 100 µs, replay is exhausted (R263). -/
  | ackTimeout (port : Fin 7)
  /-- An originated frame is sent on the ring direction chosen, on both rings, or refused with 0x1004 (R267). -/
  | frameOriginate (port : Fin 16) (frame : Frame)
  /-- At the end of DRAIN, the frames held at a healed link are released (R272). -/
  | drainExpiry (port : Fin 4)
  /-- At T + HLAUNCH the head launches one harvest train on AE and one on BW (R274). -/
  | harvestLaunch (images : List (Nat × List Byte))
  /-- At T + HAPPLY each hub closes extraction and applies the output image it has taken, or counts a miss (R273). -/
  | harvestBoundary
  /-- The head completes the cycle and writes the input images, status table and cycle record to the host (R277). -/
  | harvestCycleComplete
  /-- An unadmitted or quarantined ring hub sends JOIN every JOIN_INT, or every 1 s after a REFUSE (R280). -/
  | joinSend
  /-- The head answers a JOIN by assigning an ID, announcing an epoch and sending GRANT, or with REFUSE (R280). -/
  | join (info : JoinInfo) (expected : Bool)
  /-- On GRANT the hub takes its station ID and epoch, restarts FLOWSEQ and stays quarantined (R280). -/
  | grant (station : Fin 1023) (epoch : BitVec 16) (serial : BitVec 64)
  /-- On RELEASE the station leaves quarantine at the next harvest boundary (R280). -/
  | release (epoch : BitVec 16)
  /-- A hub receiving REFUSE stays at station 0 and slows its JOINs (R281). -/
  | refuse (code : BitVec 16) (serial : BitVec 64)
  /-- The head receives a link report of a port DOWN or READY and may bump the epoch (R283). -/
  | linkrpt (station : Fin 1023) (port : Fin 4) (ready : Bool) (serial : BitVec 64)
  /-- An EPOCH frame is taken for its effect boundary, ignored, or reveals the hub as stale (R285). -/
  | epochReceived (info : EpochInfo)
  /-- At the boundary of EFFECT_CYCLE the hub takes the new epoch, map, cuts, harvest values and key epochs (R285). -/
  | epochEffect
  /-- The head repeats the current EPOCH frame every 100 cycles (R284). -/
  | epochRepeat
  /-- MAXAGE after an epoch change, frames stamped with the previous epoch are no longer accepted (R285). -/
  | graceExpiry
  /-- A write of 1 to CRL_CTL.REKEY at the head starts a rekey (R286). -/
  | rekey (init : Initiator)
  /-- The head receives a REKEY_REQ and announces KEP_NEXT, or counts the request (R286). -/
  | rekeyReq
  /-- The head receives a hub's REKEY_READY, and when all have answered it announces the switch (R286). -/
  | rekeyReady (hub : Fin 4096) (kepoch : Fin 16)
  /-- At REKEY_TMO the head switches key epochs and quarantines the hubs that have not answered (R286). -/
  | rekeyTmoExpiry
  /-- When every master has been derived, the hub answers REKEY_READY (R368). -/
  | epochKeysDerived
  /-- MAXAGE after the key-epoch switch, the old bank is zeroised (R286). -/
  | oldKeyZeroise
  /-- A CMD READ is served at its target and answered by an RSP with data, or by a NAK (R287). -/
  | read (frame : Frame)
  /-- A CMD WRITE is performed at its target and answered by an RSP (R348). -/
  | write (frame : Frame)
  /-- A CMD POSTED_WRITE is performed at its target with no answer on success (R287). -/
  | postedWrite (frame : Frame)
  /-- A LOCK_ACQ is granted, answered busy, or resolved as a crossed lock at the hub holding the page (R330). -/
  | lockAcq (frame : Frame) (holderWaits : Bool)
  /-- A LOCK_REL releases a semaphore held by the requester, or is answered with 0x120D (R329). -/
  | lockRel (frame : Frame)
  /-- A CMD ATOMIC performs an indivisible read-modify-write and returns the old value (R333). -/
  | atomic (frame : Frame)
  /-- An RSP completes the split transaction with the same tag, or is discarded as late (R318). -/
  | rsp (frame : Frame)
  /-- An end-to-end NAK ends the request it answers with its code and is recorded in CRL_NAK (R289). -/
  | nak (frame : Frame)
  /-- A TUNNEL frame enters a CAN remote queue or a slice's TX flume (R288). -/
  | tunnel (frame : Frame)
  /-- A GUARD frame carries a CAN frame into the named channel's remote queue (R288). -/
  | guard (frame : Frame)
  /-- The head receives an EVENT frame of Boom records (R422). -/
  | event (frame : Frame)
  /-- An arriving frame is placed from its guarantee or the shared pool, pushes out others, waits, or is discarded (R299). -/
  | switchAdmit (port : Fin 16)
  /-- A free output starts the next frame in priority, DRR and rotation order (R297). -/
  | outputServe (port : Fin 16)
  /-- One maximum-frame time before a LAUNCH instant, the egress holds off lower-class starts (R305). -/
  | launchWindowOpen (index : Fin 8192)
  /-- A frame placed in a launch queue is held with the hold attribute, or refused with 0x1102 (R304). -/
  | launchQueuePlace (queue : Fin 16) (frame : Frame)
  /-- A secured frame refused at the usage limit is moved into its slot's hold list (R306). -/
  | keyLimitHold (slot : Fin 256)
  /-- A host MRd through BAR2 is cut into CMD READs and completed in address order (R318). -/
  | hostMrd (tag : BitVec 10) (off : BitVec 32) (bytes : ReadBytes)
  /-- A host MWr through BAR2 is translated by its window and sent as a posted write (R316). -/
  | hostMwr (off : BitVec 32) (data : List (Option Byte))
  /-- A host AtomicOp to BAR2 becomes a CMD ATOMIC (R333). -/
  | hostAtomicop (tag : BitVec 10) (kind : Fin 6) (off : BitVec 32) (data : BitVec 128)
  /-- A host access to BAR0 reaches this hub's region 0 under the CSR rules (R315). -/
  | bar0Access (dw : BitVec 24) (dws : BitVec 10) (be : BitVec 4) (tag : BitVec 10) (word : Option Word)
  /-- Any other PCIe request is answered with Unsupported Request and 0x1209 (R314). -/
  | unsupportedTlp (tag : Option (BitVec 10))
  /-- A read without answer after SR_TMO ends with 0x1202 and its tag is quarantined (R320). -/
  | splitReadTimeout (tag : Fin 256)
  /-- SR_TMO after a time-out the quarantined tag returns to the pool (R320). -/
  | tagQuarantineExpiry (tag : Fin 256)
  /-- A freed tag lets a request waiting for one proceed (R319). -/
  | tagFreed
  /-- PF_TMO after it filled, a prefetch slot is discarded (R326). -/
  | prefetchSlotExpiry (slot : Fin 16)
  /-- A NAK 0x1203 frees the prefetch slot, and the demand read is sent as a demand read (R328). -/
  | prefetchNak (tag : Fin 256)
  /-- BRG_SRD_CTL OP READ issues a register-driven split read (R318). -/
  | srdRead (init : Initiator) (bytes : Fin 16)
  /-- BRG_SRD_CTL OP WRITE issues a write answered by an RSP (R348). -/
  | srdWrite (init : Initiator) (bytes : Fin 16)
  /-- BRG_SRD_CTL OP POSTED_WRITE issues a posted write (R323). -/
  | srdPostedWrite (init : Initiator) (bytes : Fin 16)
  /-- BRG_SRD_CTL OP LOCK_ACQ acquires a page semaphore with retries (R331). -/
  | srdLockAcq (init : Initiator) (holderWaits : Bool)
  /-- BRG_SRD_CTL OP LOCK_REL releases a page semaphore (R329). -/
  | srdLockRel (init : Initiator)
  /-- BRG_SRD_CTL OP ATOMIC issues an atomic operation (R333). -/
  | srdAtomic (init : Initiator) (kind : Fin 8)
  /-- After the random back-off, the bridge retries the LOCK_ACQ, or ends it with 0x1206 (R331). -/
  | lockBackoffExpiry (who : Nat) (holderWaits : Bool)
  /-- A semaphore held longer than LOCK_TMO is released by its hub (R332). -/
  | lockTmoExpiry (page : BitVec 44)
  /-- A doorbell sets DTAIL, and an IDLE context with work becomes READY (R339). -/
  | dmxDb (context tail : Fin 4096)
  /-- DMX_CMD ENABLE moves an OFF context to IDLE, or refuses an invalid record (R344). -/
  | enable (init : Initiator) (context : Fin 4096)
  /-- DMX_CMD RESUME makes a FAULTED context READY (R344). -/
  | resume (init : Initiator) (context : Fin 4096)
  /-- DMX_CMD ABORT discards pending descriptors and makes the context IDLE (R344). -/
  | abort (init : Initiator) (context : Fin 4096)
  /-- DMX_CMD DISABLE makes an IDLE or ERROR context OFF (R344). -/
  | disable (init : Initiator) (context : Fin 4096)
  /-- DMX_CMD INVAL drops a context's unlocked translation-cache entries (R341). -/
  | inval (init : Initiator) (context : Fin 4096)
  /-- A write to a context record in region 0x6 sets its fields, or is refused unless the context is OFF (R337). -/
  | contextRecordWrite (init : Initiator) (off : BitVec 18) (data : List Byte)
  /-- A free engine takes the highest-ranked READY context (R343). -/
  | engineTakeContext (engine : Fin 16)
  /-- An outranked running context stops at the next 64-byte boundary and starts SAVING (R343). -/
  | preempt (engine : Fin 16)
  /-- A save completes, and the context becomes READY, or FAULTED when a fault is held (R344). -/
  | saveComplete (engine : Fin 16)
  /-- The engine fetches and checks a descriptor, ending the context in ERROR when it is invalid (R338). -/
  | descriptorFetch (engine : Fin 16) (host : List Byte)
  /-- With ACKED = LEN the hub writes STATUS, advances DHEAD, and may raise an interrupt (R339). -/
  | descriptorComplete (context : Fin 4096)
  /-- A translation walk reads the level-1 and level-2 entries, maps the page or finds a fault (R340). -/
  | tableWalk (engine : Fin 16) (dest : Bool) (given1 given2 : Option (BitVec 64))
  /-- When DONE comes within 256 bytes of a page end, a walk for the next page begins (R342). -/
  | lookaheadWalk (engine : Fin 16) (dest : Bool) (given1 given2 : Option (BitVec 64))
  /-- A fault takes effect at its offset, parks the context FAULTED and queues a fault record (R344). -/
  | dmaFaultEffect (engine : Fin 16)
  /-- An RSP to a DMA write advances ACKED in the context record (R348). -/
  | dmaAckRsp (tag : Fin 256)
  /-- With no progress for DMA_TMO, the context rewinds DONE to ACKED, or enters ERROR after DMA_RETRY (R348). -/
  | dmaTmoRewind (context : Fin 4096)
  /-- A write of 1 to DMX_FQ_POP removes the head fault record (R345). -/
  | dmxFqPop
  /-- KEY_CMD LOAD_FLASH loads a slot from a blob record in flash (R363). -/
  | loadFlash (init : Initiator) (slot record : Fin 256)
  /-- KEY_CMD LOAD_STAGE loads a slot from the blob in KEY_STAGE (R363). -/
  | loadStage (init : Initiator) (slot : Fin 256)
  /-- KEY_CMD STORE trial-unwraps the staged blob and writes it to the record's non-winning half (R366). -/
  | store (init : Initiator) (record : Fin 256)
  /-- KEY_CMD SEAL wraps a plaintext key into a blob, stores it in flash and zeroes KEY_STAGE (R364). -/
  | seal (init : Initiator) (record : Fin 256)
  /-- KEY_CMD ZERO empties one slot (R360). -/
  | zero (init : Initiator) (slot : Fin 256)
  /-- KEY_CMD ZERO_ALL empties every slot (R360). -/
  | zeroAll (init : Initiator)
  /-- KEY_CMD LC applies a signed transition record to move the lifecycle or acknowledge tamper (R356). -/
  | lc (init : Initiator)
  /-- A key command completes and writes KEY_RES and KEY_IRQ.DONE (R374). -/
  | keyCmdComplete (bank : Fin 3)
  /-- A write to KEY_STAGE stores words of a blob, a SEAL input or a record (R384). -/
  | keyStageWrite (word : Fin 64) (data : Word)
  /-- CPH_OP ENC encrypts a region 0x4 buffer under an ENC_ONLY key and returns the nonce and tag (R372). -/
  | enc (init : Initiator) (slot : Fin 256)
  /-- CPH_OP DEC decrypts and verifies a buffer under a DEC_ONLY key (R372). -/
  | dec (init : Initiator) (slot : Fin 256)
  /-- A host GCM operation completes, writing its output only on success, and CPH_RES (R372). -/
  | cphOpComplete (bank : Fin 3)
  /-- A secured frame is encrypted or decrypted on one core, counting one use of its key (R371). -/
  | gcmFrameJob
  /-- An active tamper source latches TLATCH, logs the event and zeroises keys as its phase gives (R376). -/
  | tamperEvent (active : BitVec 8)
  /-- A write of 1 to VGL_CTL.TSAFE_CLR ends TSAFE (R379). -/
  | tsafeClr
  /-- A write to VGL_TCFG.EN sets sticky enables, and clearing one is refused with 0x1801 (R375). -/
  | tamperEnableWrite (init : Initiator) (en : BitVec 8)
  /-- A stitched hub sends its own JOIN over its uplink every JOIN_INT (R390). -/
  | stitchJoin
  /-- The ring hub keeps a stitched hub's record and includes it in its own JOIN (R390). -/
  | stitchJoinReceived (hub : JoinHub)
  /-- A stitch image is held for insertion, or an output image is applied at the boundary (R393). -/
  | stitchImageReceived (payload : List Byte)
  /-- On END with a matching count, the standby commits the copy and writes its health report (R399). -/
  | copyCommit
  /-- ST0 down, or 4 µs without heartbeat, makes a SYNC standby send a claim (R396). -/
  | st0Silence
  /-- A standby sends its claim word to the referee as a TC7 posted write (R400). -/
  | claimSend (reason : Fin 16)
  /-- Every 50 µs without an answer the claim is sent again, with CLAIMTMO after 20 (R400). -/
  | claimResend
  /-- An UNSYNC twin without a copy stream sends a start claim every 10 ms (R400). -/
  | startClaim
  /-- The referee decides a claim and answers with GRANT and FENCE, DESIGNATE, REFUSE, or nothing (R401). -/
  | claimReceived (init : Initiator) (word : Word)
  /-- A write to STT_ORDER makes the referee send the ordered command (R401). -/
  | sttOrder (init : Initiator) (word : Word)
  /-- On GRANT a SYNC standby drives TWN_FDRV_N low and takes up its last committed copy (R402). -/
  | grantReceived (src named : Fin 4096)
  /-- With its drivers enabled, the new active becomes ACTIVE and records STT_TAKE (R402). -/
  | takeoverComplete
  /-- A FENCE from the referee makes an ACTIVE or TAKING twin FENCED (R396). -/
  | fenceReceived (src named : Fin 4096)
  /-- A DESIGNATE makes an UNSYNC twin ACTIVE (R396). -/
  | designateReceived (src named : Fin 4096)
  /-- A REFUSE answers the twin's claim and sets CLAIMREF (R401). -/
  | refuseReceived (src named : Fin 4096)
  /-- A PROMPT makes a SYNC standby send a claim (R396). -/
  | promptReceived (src named : Fin 4096)
  /-- At the end of FENCE_HOLD a FENCED hub releases its pins to high-impedance (R397). -/
  | fenceHoldExpiry
  /-- STT_CTL.RESIGN makes the active resign by holding ST0 in local fault (R399). -/
  | resign (init : Initiator)
  /-- STT_CTL.RESYNC makes the active send a full copy at the next boundary (R399). -/
  | resync (init : Initiator)
  /-- STT_CTL.FREL releases TWN_FDRV_N (R402). -/
  | frel (init : Initiator)
  /-- A write to STT_REFQ_POP removes the head entry of the referee queue (R408). -/
  | sttRefqPop
  /-- An error pin sets its class in the block's fault word, captures BOM_FIRST and takes its reaction (R409). -/
  | faultDetected (subsys : Fin 27) (cls : Fin 7) (unit : Option (Fin 256))
  /-- A read finding a single-bit error corrects it, and an uncorrectable one poisons the word (R411). -/
  | memoryError (region : Fin 18) (off : BitVec 40) (double : Bool)
  /-- The scrubber reads each memory word once per PERIOD in idle cycles (R412). -/
  | scrub (region : Fin 18) (off : BitVec 40)
  /-- A lockstep compare failure sets PAIRk and LOCK, and the pair takes a machine-check trap (R413). -/
  | lockstepMismatch (pair : Fin 2)
  /-- BOM_INJ.GO arms an injection for the next full write to a memory of the subsystem (R415). -/
  | bomInj (subsys : BitVec 5) (double : Bool)
  /-- BOM_TEST OP 0x1 starts MBIST of the idle memory banks (R416). -/
  | mbist (init : Initiator)
  /-- BOM_TEST OP 0x2 starts a SerDes margin scan of a port, or is refused while exclusive (R416). -/
  | serdesMarginScan (init : Initiator) (port : Fin 8) (maint : Bool)
  /-- BOM_TEST OP 0x3 retrains each HV link lane in turn (R416). -/
  | hvLaneTest (init : Initiator)
  /-- A test ends, writes BOM_TEST_RES, and sets BIST in the fault word on a failure (R416). -/
  | selfTestComplete (failed : Bool) (memory : Fin 27)
  /-- With BG_EN = 1, the next background test of the rotation starts (R417). -/
  | backgroundTestRotation
  /-- A queued record is written to the Boom at WPTR, or lost when the queue is full (R419). -/
  | boomRecordWrite
  /-- BOM_CMD OP MARK sets a rewind mark at WPTR and writes a mark record (R420). -/
  | mark (n : Fin 8)
  /-- BOM_CMD OP FREE sets a mark to FREE (R420). -/
  | free (n : Fin 8)
  /-- BOM_CMD OP REWIND sets the stream cursor from a mark or the oldest valid index (R421). -/
  | rewind (n : Fin 8)
  /-- A write to BOM_FWREC writes a firmware record of KIND 0x05 (R419). -/
  | bomFwrec (unit code : BitVec 16)
  /-- When 63 records wait, or 1 ms after the oldest, the hub sends an EVENT frame and advances the cursor (R422). -/
  | eventFrameSend
  /-- A read of region 0x5 returns whole records, and any other access is refused with 0x1A06 (R419). -/
  | boomRead (init : Initiator) (off : BitVec 20) (bytes : ReadBytes)
  /-- When a power slice becomes idle, the governor puts it into the deepest allowed state (R429). -/
  | powerSliceIdle (slice : Fin 64)
  /-- At N − wake − guard, or when work arrives, a sleeping power slice starts to wake (R429). -/
  | wakeStart (slice : Fin 64)
  /-- An edge on a wake-on-edge pin starts the power slice's wake (R432). -/
  | wakeOnEdge (slice : Fin 64) (pin : Fin 16)
  /-- The power slice reaches RUN, restoring or reloading state, and held triggers take effect (R434). -/
  | wakeComplete (slice : Fin 64)
  /-- A write of PWR_Sn_LIST checks the reload list header and sets LISTOK (R435). -/
  | pwrListWrite (init : Initiator) (slice : Fin 64) (off : BitVec 22)
  /-- PWR_CTL.STANDBY starts entry to STANDBY, or is refused with 0x1702 (R437). -/
  | standby
  /-- A wake timer expiry, tamper, SYS_RST_N or POR_N makes Vigil raise CORE_PWR_EN (R437). -/
  | standbyWake (source bootSrc stnPos : Fin 4)
  /-- At a start, Vigil regenerates the PUF secret, derives the root and checks tamper (R439). -/
  | bootVigilStage
  /-- ROM verifies and starts Stump, or enters ROM recovery (R439). -/
  | bootRomStage
  /-- Stump verifies the images and their combination and starts Yarder pair 0, or enters net recovery (R439). -/
  | bootStumpStage
  /-- UPD_ELOAD.GO verifies an engine image and loads it into its target (R440). -/
  | updEload (init : Initiator) (cls : Fin 8)
  /-- An engine image load ends and writes UPD_ELOAD_RES (R440). -/
  | updEloadComplete
  /-- The Stump service INSTALL checks the staged images and writes them to flash (R450). -/
  | install (block : BitVec 22) (bad : Option (Fin 6))
  /-- The Stump service SVNRAISE burns SVN fuses up to a new floor (R446). -/
  | svnraise (block : BitVec 22)
  /-- The Stump service KEYREC applies a provision or revocation record from KEY_STAGE (R444). -/
  | keyrec
  /-- UPD_MBOX_GO hands an INSTALL argument block to Stump in NETREC (R452). -/
  | updMboxGo
  /-- Stump joins the ring, quarantined, and publishes the classes it needs in UPD_RECOV (R452). -/
  | netrec
  /-- ROM recovery enters and sends HELLO on its paths (R453). -/
  | romrec
  /-- A recovery INFO packet is answered with HELLO (R453). -/
  | info (uart : Bool) (seq : Byte)
  /-- A recovery SETBAUD packet changes the service UART rate (R453). -/
  | setbaud (uart : Bool) (seq : Byte) (baud : Word)
  /-- A recovery BEGIN packet opens a download of an image (R453). -/
  | begin (uart : Bool) (seq cls mode : Byte) (total : Word)
  /-- A recovery DATA packet stores bytes of the download in SRAM (R453). -/
  | data (uart : Bool) (seq : Byte) (off : Word) (data : List Byte)
  /-- A recovery END packet verifies the image and writes it to flash in MODE 0 (R453). -/
  | endImage (uart : Bool) (seq : Byte)
  /-- A recovery RUN packet restarts the hub, or starts the received firmware (R453). -/
  | run (uart : Bool) (seq : Byte)
  /-- A recovery RECORD packet applies a transition or key record (R453). -/
  | record (uart : Bool) (seq : Byte) (record : List Byte)
  /-- A bank supply leaving or entering its window makes the bank's pads high-impedance or releases them (R463). -/
  | bankSupplyWindow (bank : Fin 2) (inside : Bool)
  /-- Loss of VAUX is treated as a main-die reset, and Vigil runs from VBAT alone (R462). -/
  | vauxLost
  /-- An ageing monitor takes a reading and compares it with its warning and limit values (R472). -/
  | ageingMeasure (monitor : Fin 3) (place : Fin 8) (value : BitVec 16)
  /-- Once per 24 hours and at every crossing, the hub writes an ageing record to the Boom (R473). -/
  | ageingRecord (monitor : Fin 3)
  /-- While no harvest runs, every whole millisecond of fabric time is a tally sampling instant and a slot cycle start (R89). -/
  | wholeMillisecond
  /-- The grandmaster's PTP port on PL0 loses its master, setting TIM_IRQ.PL0_LOST and dropping the servo out of lock to PL0 (R86). -/
  | pl0MasterLost
  /-- A Collyn frame arriving on PL0 is admitted to the switch core under R300, without hop replay, or is discarded and counted (R388). -/
  | pl0FrameReceived (frame : WireFrame)
  /-- The PCIe data link comes up or goes down, changing BRG_STATUS.DL_UP, SPEED and WIDTH and setting BRG_IRQ.LINK (R314). -/
  | pcieLinkChange (up : Bool) (speed width : Fin 8)
  /-- An overheated line cell cools, STAT.OT returns to 0, and a latch clear already requested takes effect (R154). -/
  | cellCooled (line : Fin 128)
  /-- After a stuck-dominant episode, RXD is recessive for 11 bits and STATUS.STUCK clears (R223). -/
  | canStuckCleared (channel : Fin 16)
  /-- At each master cycle an IO-Link port exchanges an M-sequence with its device, updating process data, PDVALID, device events and ISDU
  responses (R186). -/
  | iolMessageExchange (slice : Fin 48) (pd : List Byte) (valid : Bool) (event : Option (Byte × BitVec 16)) (isdu : Option (List Byte))
  /-- Vigil's 1 s measurement of VBAT finds it below 2.2 V, setting VGL_STATUS.VBAT_LOW and VGL_IRQ.VBATLOW (R385). -/
  | vbatLow (mv : BitVec 16)
  /-- With no harvest train seen within 3 HPER, CRL_STATUS.HV_RUN clears, and the hub counts as having no harvest running (R294). -/
  | hvRunTimeout
  /-- The ring hub drops a stitched hub's JOIN record that has not been renewed for three JOIN_INT (R390). -/
  | stitchRecordExpiry (pos : Fin 4)
  /-- A standby twin starts its periodic self-tests: line-cell loopback every second and a SerDes margin scan every 10 s (R405). -/
  | standbySelfTestStart (bank : Option (Fin 16)) (port : Fin 8)
  /-- A frame finishes leaving an output, its cells are freed when it was the last output to send it, and the output becomes free (R296). -/
  | frameTransmitted (port : Fin 16)
  deriving DecidableEq, Repr

end Sys2Proof
end

