-- ==== Sys2Proof/Machine/Sparse.lean ====
section
/-! DEFINITION. Sparse maps: lists of keys and values with strictly rising keys. -/

namespace Sys2Proof

/-- The value at `k`, if one is listed. -/
def SMap.get? {α : Type} : SMap α → Nat → Option α
  | [], _ => none
  | (j, a) :: m, k => if j = k then some a else SMap.get? m k

/-- The value at `k`, or `d` where none is listed. -/
def SMap.getD {α : Type} (m : SMap α) (k : Nat) (d : α) : α := (SMap.get? m k).getD d

/-- Lists `a` at `k`. -/
def SMap.insert {α : Type} : SMap α → Nat → α → SMap α
  | [], k, a => [(k, a)]
  | (j, b) :: m, k, a =>
    if k < j then (k, a) :: (j, b) :: m
    else if k = j then (k, a) :: m
    else (j, b) :: SMap.insert m k a

/-- Lists nothing at `k` any more. -/
def SMap.erase {α : Type} (m : SMap α) (k : Nat) : SMap α := m.filter (fun p => p.1 != k)

/-- The canonical write: a value that an unlisted key reads as is not listed. -/
def SMap.put {α : Type} [DecidableEq α] (m : SMap α) (k : Nat) (a d : α) : SMap α :=
  if a = d then SMap.erase m k else SMap.insert m k a

/-- Every key lies above `b`, and the keys rise. -/
def SMap.risesFrom {α : Type} : Option Nat → SMap α → Bool
  | _, [] => true
  | none, (j, _) :: m => SMap.risesFrom (some j) m
  | some b, (j, _) :: m => decide (b < j) && SMap.risesFrom (some j) m

/-- The keys rise strictly. -/
def SMap.rises {α : Type} (m : SMap α) : Bool := SMap.risesFrom none m

end Sys2Proof
end

