-- ==== Sys2Proof/Machine/Fields.lean ====
section
/-!
DEFINITION. The register fields of the hub, one handle for each named field of chapters 02 to 17 of the manual,
under the manual's own names: F.<register>_<field>, with the instance numbers as arguments (a banked register's first
argument is the initiator's bank). A handle gives the register's region 0 offset, the field's lowest bit, its width and its
value at reset. Bank b of a banked register lies at its offset plus b times 2^28, and the registers of personality p of a
slice at their offset plus p times 2^28; both are the model's own places.
-/

namespace Sys2Proof.Machine

/-- A register field: where it stands, how wide it is, and what it holds at reset. -/
structure Fld where
  off : Nat
  lo : Nat
  w : Nat
  rst : Nat
  deriving DecidableEq, Repr

/-- The number a field is filed under. -/
def Fld.key (f : Fld) : Nat := 32 * f.off + f.lo

/-! GLB, 02_register_access.md -/

def F.GLB_ID_PART : Fld := ⟨0, 16, 16, 0x8512⟩
def F.GLB_ID_VENDOR : Fld := ⟨0, 0, 16, 0xa0c5⟩
def F.GLB_REV_STEP : Fld := ⟨4, 8, 8, 0xc0⟩
def F.GLB_REV_GRADE : Fld := ⟨4, 4, 4, 1⟩
def F.GLB_REV_PKG : Fld := ⟨4, 0, 4, 1⟩
def F.GLB_SERIAL_LO_SERIAL : Fld := ⟨8, 0, 32, 0⟩
def F.GLB_SERIAL_HI_SERIAL : Fld := ⟨0xc, 0, 32, 0⟩
def F.GLB_POS_STATION : Fld := ⟨0x10, 16, 10, 0⟩
def F.GLB_POS_HUBPOS : Fld := ⟨0x10, 0, 2, 0⟩
def F.GLB_HEALTH_DRIFT : Fld := ⟨0x14, 31, 1, 0⟩
def F.GLB_HEALTH_ALM_OK : Fld := ⟨0x14, 30, 1, 0⟩
def F.GLB_HEALTH_QUAR : Fld := ⟨0x14, 29, 1, 0⟩
def F.GLB_HEALTH_TWIN : Fld := ⟨0x14, 27, 2, 0⟩
def F.GLB_HEALTH_TIME_LOCK : Fld := ⟨0x14, 26, 1, 0⟩
def F.GLB_HEALTH_LOCKSTEP : Fld := ⟨0x14, 25, 1, 0⟩
def F.GLB_HEALTH_FEED : Fld := ⟨0x14, 24, 1, 0⟩
def F.GLB_HEALTH_TALLY : Fld := ⟨0x14, 23, 1, 0⟩
def F.GLB_HEALTH_TAMPER : Fld := ⟨0x14, 22, 1, 0⟩
def F.GLB_HEALTH_AGEING : Fld := ⟨0x14, 21, 1, 0⟩
def F.GLB_HEALTH_KEY_WARN : Fld := ⟨0x14, 20, 1, 0⟩
def F.GLB_HEALTH_BOOM_OVT : Fld := ⟨0x14, 19, 1, 0⟩
def F.GLB_HEALTH_SELFTEST : Fld := ⟨0x14, 18, 1, 0⟩
def F.GLB_HEALTH_ALM_HASH : Fld := ⟨0x14, 0, 16, 0⟩
def F.GLB_IRQ_SUM_PEND : Fld := ⟨0x18, 0, 27, 0⟩
def F.GLB_IRQ_EN_EN : Fld := ⟨0x1c, 0, 27, 0⟩
def F.GLB_DRIFT_ACK_ACK : Fld := ⟨0x20, 0, 1, 0⟩
def F.GLB_LOCKSTEP_COUNT : Fld := ⟨0x24, 16, 8, 0⟩
def F.GLB_LOCKSTEP_PAIR1 : Fld := ⟨0x24, 1, 1, 0⟩
def F.GLB_LOCKSTEP_PAIR0 : Fld := ⟨0x24, 0, 1, 0⟩
def F.GLB_ACC_ERR_CAPT : Fld := ⟨0x28, 31, 1, 0⟩
def F.GLB_ACC_ERR_OVF : Fld := ⟨0x28, 30, 1, 0⟩
def F.GLB_ACC_ERR_INIT : Fld := ⟨0x28, 28, 2, 0⟩
def F.GLB_ACC_ERR_CODE : Fld := ⟨0x28, 0, 16, 0⟩
def F.GLB_ACC_ADDR_LO_ADDR : Fld := ⟨0x2c, 0, 32, 0⟩
def F.GLB_ACC_ADDR_HI_ADDR : Fld := ⟨0x30, 0, 24, 0⟩
def F.GLB_CTL_PAIR1_REL : Fld := ⟨0x34, 0, 1, 0⟩
/-! ALM, 03_almanac.md -/

def F.ALM_CTL_CANCEL : Fld := ⟨0x10000, 2, 1, 0⟩
def F.ALM_CTL_CLR_STAGE : Fld := ⟨0x10000, 1, 1, 0⟩
def F.ALM_CTL_ENABLE : Fld := ⟨0x10000, 0, 1, 0⟩
def F.ALM_STAGE_PTR_PTR : Fld := ⟨0x10004, 2, 18, 0⟩
def F.ALM_STAGE_DATA_DATA : Fld := ⟨0x10008, 0, 32, 0⟩
def F.ALM_STATUS_STATE : Fld := ⟨0x1000c, 29, 3, 0⟩
def F.ALM_STATUS_ACCEPTED : Fld := ⟨0x1000c, 28, 1, 0⟩
def F.ALM_STATUS_SEQ : Fld := ⟨0x1000c, 16, 8, 0⟩
def F.ALM_STATUS_CODE : Fld := ⟨0x1000c, 0, 16, 0⟩
def F.ALM_ERR_SECT_SECT : Fld := ⟨0x10010, 0, 16, 0⟩
def F.ALM_ERR_OFF_OFF : Fld := ⟨0x10014, 0, 19, 0⟩
def F.ALM_IRQ_DRIFT : Fld := ⟨0x10018, 5, 1, 0⟩
def F.ALM_IRQ_WR_BUSY : Fld := ⟨0x10018, 4, 1, 0⟩
def F.ALM_IRQ_STAGE_OVR : Fld := ⟨0x10018, 3, 1, 0⟩
def F.ALM_IRQ_APPLIED : Fld := ⟨0x10018, 2, 1, 0⟩
def F.ALM_IRQ_REFUSED : Fld := ⟨0x10018, 1, 1, 0⟩
def F.ALM_IRQ_DONE : Fld := ⟨0x10018, 0, 1, 0⟩
def F.ALM_IRQ_EN_EN : Fld := ⟨0x1001c, 0, 6, 0⟩
def F.ALM_VERSION_VERSION : Fld := ⟨0x10020, 0, 32, 0⟩
def F.ALM_KIND_SVN : Fld := ⟨0x10024, 16, 8, 0⟩
def F.ALM_KIND_SCHEMA : Fld := ⟨0x10024, 0, 16, 0⟩
def F.ALM_DRIFT_CNT_COUNT : Fld := ⟨0x10028, 0, 16, 0⟩
def F.ALM_DRIFT_ADDR_VALID : Fld := ⟨0x1002c, 31, 1, 0⟩
def F.ALM_DRIFT_ADDR_OFFSET : Fld := ⟨0x1002c, 0, 24, 0⟩
def F.ALM_HASH_DIGEST (n : Nat) : Fld := ⟨0x10040 + 4 * n, 0, 32, 0⟩
/-! TIM, 04_fabric_time_and_tallies.md -/

def F.TIM_CTL_SOURCE : Fld := ⟨0x40000, 6, 2, 0⟩
def F.TIM_CTL_ROLE : Fld := ⟨0x40000, 5, 1, 0⟩
def F.TIM_CTL_STEP_EN : Fld := ⟨0x40000, 4, 1, 0⟩
def F.TIM_CTL_SET : Fld := ⟨0x40000, 1, 1, 0⟩
def F.TIM_CTL_CAP : Fld := ⟨0x40000, 0, 1, 0⟩
def F.TIM_STATUS_SERVO : Fld := ⟨0x40004, 29, 3, 0⟩
def F.TIM_STATUS_TIME_LOCK : Fld := ⟨0x40004, 28, 1, 0⟩
def F.TIM_STATUS_PL0_LOCK : Fld := ⟨0x40004, 27, 1, 0⟩
def F.TIM_STATUS_UPPORT : Fld := ⟨0x40004, 24, 3, 0⟩
def F.TIM_STATUS_STEPS : Fld := ⟨0x40004, 0, 16, 0⟩
def F.TIM_IRQ_BADSYNC : Fld := ⟨0x40008, 7, 1, 0⟩
def F.TIM_IRQ_PL0_LOST : Fld := ⟨0x40008, 6, 1, 0⟩
def F.TIM_IRQ_PDINV : Fld := ⟨0x40008, 5, 1, 0⟩
def F.TIM_IRQ_UPSW : Fld := ⟨0x40008, 4, 1, 0⟩
def F.TIM_IRQ_HOLDOVER : Fld := ⟨0x40008, 3, 1, 0⟩
def F.TIM_IRQ_STEP : Fld := ⟨0x40008, 2, 1, 0⟩
def F.TIM_IRQ_UNLOCK : Fld := ⟨0x40008, 1, 1, 0⟩
def F.TIM_IRQ_LOCK : Fld := ⟨0x40008, 0, 1, 0⟩
def F.TIM_IRQ_EN_EN : Fld := ⟨0x4000c, 0, 8, 0⟩
def F.TIM_CAP_SEC_HI_SEC (b : Nat) : Fld := ⟨0x40010 + 0x10000000 * b, 0, 16, 0⟩
def F.TIM_CAP_SEC_LO_SEC (b : Nat) : Fld := ⟨0x40014 + 0x10000000 * b, 0, 32, 0⟩
def F.TIM_CAP_NS_NS (b : Nat) : Fld := ⟨0x40018 + 0x10000000 * b, 0, 30, 0⟩
def F.TIM_CAP_FRAC_FRAC (b : Nat) : Fld := ⟨0x4001c + 0x10000000 * b, 0, 16, 0⟩
def F.TIM_SET_SEC_HI_SEC : Fld := ⟨0x40020, 0, 16, 0⟩
def F.TIM_SET_SEC_LO_SEC : Fld := ⟨0x40024, 0, 32, 0⟩
def F.TIM_SET_NS_NS : Fld := ⟨0x40028, 0, 30, 0⟩
def F.TIM_SET_RES_VALID : Fld := ⟨0x4002c, 31, 1, 0⟩
def F.TIM_SET_RES_STALE : Fld := ⟨0x4002c, 30, 1, 0⟩
def F.TIM_SET_RES_SEQ : Fld := ⟨0x4002c, 16, 8, 0⟩
def F.TIM_SET_RES_CODE : Fld := ⟨0x4002c, 0, 16, 0⟩
/-- Result register (R40), 04_fabric_time_and_tallies.md R85. -/
def RR.TIM_SET_RES : Nat := 0x4002c
def F.TIM_OFFSET_THETA : Fld := ⟨0x40030, 0, 32, 0⟩
def F.TIM_FREQ_FREQ : Fld := ⟨0x40034, 0, 32, 0⟩
def F.TIM_RATE_RATE : Fld := ⟨0x40038, 0, 32, 0xcccccccd⟩
def F.TIM_SERVO0_KP : Fld := ⟨0x4003c, 16, 16, 0x1900⟩
def F.TIM_SERVO0_KI : Fld := ⟨0x4003c, 0, 16, 0x140⟩
def F.TIM_SERVO1_FREQ_LIM : Fld := ⟨0x40040, 16, 16, 0x4e20⟩
def F.TIM_SERVO1_LOCK_THR : Fld := ⟨0x40040, 0, 16, 0x140⟩
def F.TIM_SERVO2_STEP_THR : Fld := ⟨0x40044, 0, 32, 0x3e8⟩
def F.TIM_SERVO3_HOLD_TMO : Fld := ⟨0x40048, 16, 16, 8⟩
def F.TIM_SERVO3_LOCK_CNT : Fld := ⟨0x40048, 0, 8, 0x10⟩
def F.TIM_INT_SYNC_INT : Fld := ⟨0x4004c, 16, 16, 0x1f4⟩
def F.TIM_INT_PD_INT : Fld := ⟨0x4004c, 0, 16, 8⟩
def F.TIM_UTC_OFS_UTC_OFS : Fld := ⟨0x40050, 0, 16, 0⟩
def F.TIM_CNT_MGMT : Fld := ⟨0x40054, 16, 16, 0⟩
def F.TIM_CNT_BAD : Fld := ⟨0x40054, 0, 16, 0⟩
def F.TIM_GMID_LO_GMID : Fld := ⟨0x40058, 0, 32, 0⟩
def F.TIM_GMID_HI_GMID : Fld := ⟨0x4005c, 0, 32, 0⟩
def F.TIM_Pn_TXCOR_TXCOR (n : Nat) : Fld := ⟨0x40100 + 0x20 * n, 0, 32, 0⟩
def F.TIM_Pn_RXCOR_RXCOR (n : Nat) : Fld := ⟨0x40104 + 0x20 * n, 0, 32, 0⟩
def F.TIM_Pn_ASYM_ASYM (n : Nat) : Fld := ⟨0x40108 + 0x20 * n, 0, 32, 0⟩
def F.TIM_Pn_DELAY_DELAY (n : Nat) : Fld := ⟨0x4010c + 0x20 * n, 0, 32, 0⟩
def F.TIM_Pn_STAT_INVALID (n : Nat) : Fld := ⟨0x40110 + 0x20 * n, 31, 1, 1⟩
def F.TIM_Pn_STAT_DISC (n : Nat) : Fld := ⟨0x40110 + 0x20 * n, 0, 16, 0⟩
/-! TLY, 04_fabric_time_and_tallies.md -/

def F.TLY_STATE_IRQ_SLOT : Fld := ⟨0x50000, 0, 32, 0⟩
def F.TLY_RES_IRQ_SLOT : Fld := ⟨0x50004, 0, 32, 0⟩
def F.TLY_STATE_EN_EN : Fld := ⟨0x50008, 0, 32, 0⟩
def F.TLY_RES_EN_EN : Fld := ⟨0x5000c, 0, 32, 0⟩
def F.TLY_SUMMARY_SLOT : Fld := ⟨0x50010, 0, 32, 0⟩
def F.TLY_Q_CTL_GO (b : Nat) : Fld := ⟨0x50020 + 0x10000000 * b, 31, 1, 0⟩
def F.TLY_Q_CTL_OP (b : Nat) : Fld := ⟨0x50020 + 0x10000000 * b, 12, 3, 0⟩
def F.TLY_Q_CTL_DIR (b : Nat) : Fld := ⟨0x50020 + 0x10000000 * b, 8, 2, 0⟩
def F.TLY_Q_CTL_SLOT (b : Nat) : Fld := ⟨0x50020 + 0x10000000 * b, 0, 5, 0⟩
def F.TLY_Q_RES_VALID (b : Nat) : Fld := ⟨0x50024 + 0x10000000 * b, 31, 1, 0⟩
def F.TLY_Q_RES_STALE (b : Nat) : Fld := ⟨0x50024 + 0x10000000 * b, 30, 1, 0⟩
def F.TLY_Q_RES_SEQ (b : Nat) : Fld := ⟨0x50024 + 0x10000000 * b, 16, 8, 0⟩
def F.TLY_Q_RES_CODE (b : Nat) : Fld := ⟨0x50024 + 0x10000000 * b, 0, 16, 0⟩
/-- Result register (R40), 04_fabric_time_and_tallies.md R104. -/
def RR.TLY_Q_RES (b : Nat) : Nat := 0x50024 + 0x10000000 * b
def F.TLY_Q_ARG_ARG (b n : Nat) : Fld := ⟨0x50028 + 0x10000000 * b + 4 * n, 0, 32, 0⟩
def F.TLY_Q_OUT_OUT (b n : Nat) : Fld := ⟨0x50040 + 0x10000000 * b + 4 * n, 0, 32, 0⟩
def F.TLY_Sn_CFG_EN (n : Nat) : Fld := ⟨0x50100 + 0x40 * n, 31, 1, 0⟩
def F.TLY_Sn_CFG_OWNER (n : Nat) : Fld := ⟨0x50100 + 0x40 * n, 30, 1, 0⟩
def F.TLY_Sn_CFG_GUARD (n : Nat) : Fld := ⟨0x50100 + 0x40 * n, 29, 1, 0⟩
def F.TLY_Sn_CFG_ORDER (n : Nat) : Fld := ⟨0x50100 + 0x40 * n, 28, 1, 0⟩
def F.TLY_Sn_CFG_SRC (n : Nat) : Fld := ⟨0x50100 + 0x40 * n, 24, 4, 0⟩
def F.TLY_Sn_CFG_TALLY_ID (n : Nat) : Fld := ⟨0x50100 + 0x40 * n, 16, 8, 0⟩
def F.TLY_Sn_CFG_HORIZON (n : Nat) : Fld := ⟨0x50100 + 0x40 * n, 0, 16, 0x3e8⟩
def F.TLY_Sn_SRC_OWNER (n : Nat) : Fld := ⟨0x50104 + 0x40 * n, 16, 12, 0⟩
def F.TLY_Sn_SRC_UNIT (n : Nat) : Fld := ⟨0x50104 + 0x40 * n, 0, 16, 0⟩
def F.TLY_Sn_TOL_TOL (n : Nat) : Fld := ⟨0x50108 + 0x40 * n, 0, 32, 0x10000⟩
def F.TLY_Sn_LATE_COAST_MAX (n : Nat) : Fld := ⟨0x5010c + 0x40 * n, 24, 8, 4⟩
def F.TLY_Sn_LATE_LATE (n : Nat) : Fld := ⟨0x5010c + 0x40 * n, 0, 24, 0xfa⟩
def F.TLY_Sn_STATE_STATE (n : Nat) : Fld := ⟨0x50110 + 0x40 * n, 29, 3, 0⟩
def F.TLY_Sn_STATE_HELD (n : Nat) : Fld := ⟨0x50110 + 0x40 * n, 24, 4, 0⟩
def F.TLY_Sn_STATE_MISS (n : Nat) : Fld := ⟨0x50110 + 0x40 * n, 16, 8, 0⟩
def F.TLY_Sn_STATE_SSEQ (n : Nat) : Fld := ⟨0x50110 + 0x40 * n, 0, 16, 0⟩
def F.TLY_Sn_RESID_RESID (n : Nat) : Fld := ⟨0x50114 + 0x40 * n, 0, 32, 0⟩
def F.TLY_Sn_CNT_LATE (n : Nat) : Fld := ⟨0x50118 + 0x40 * n, 24, 8, 0⟩
def F.TLY_Sn_CNT_DUP (n : Nat) : Fld := ⟨0x50118 + 0x40 * n, 16, 8, 0⟩
def F.TLY_Sn_CNT_OOO (n : Nat) : Fld := ⟨0x50118 + 0x40 * n, 8, 8, 0⟩
def F.TLY_Sn_CNT_BAD (n : Nat) : Fld := ⟨0x50118 + 0x40 * n, 0, 8, 0⟩
def F.TLY_Sn_WGT_LO_WGT (n : Nat) : Fld := ⟨0x5011c + 0x40 * n, 0, 32, 0xa0c0e0ff⟩
def F.TLY_Sn_WGT_HI_WGT (n : Nat) : Fld := ⟨0x50120 + 0x40 * n, 0, 32, 0x20406080⟩
/-! SCH, 05_calendar_and_sluice.md -/

def F.SCH_CTL_STEP_LATE : Fld := ⟨0x60000, 8, 1, 0⟩
def F.SCH_CTL_DEF_COMMIT : Fld := ⟨0x60000, 0, 8, 4⟩
def F.SCH_STATUS_LIVE : Fld := ⟨0x60004, 16, 14, 0⟩
def F.SCH_STATUS_WAITING : Fld := ⟨0x60004, 0, 14, 0⟩
def F.SCH_IRQ_STEP : Fld := ⟨0x60008, 9, 1, 0⟩
def F.SCH_IRQ_CATCHUP : Fld := ⟨0x60008, 8, 1, 0⟩
def F.SCH_IRQ_LQ_EMPTY : Fld := ⟨0x60008, 7, 1, 0⟩
def F.SCH_IRQ_LAUNCH_LATE : Fld := ⟨0x60008, 6, 1, 0⟩
def F.SCH_IRQ_INHIBITED : Fld := ⟨0x60008, 5, 1, 0⟩
def F.SCH_IRQ_NOPOWER : Fld := ⟨0x60008, 4, 1, 0⟩
def F.SCH_IRQ_SLC_RETRACT : Fld := ⟨0x60008, 3, 1, 0⟩
def F.SCH_IRQ_WITHDRAWN : Fld := ⟨0x60008, 2, 1, 0⟩
def F.SCH_IRQ_EXPIRED : Fld := ⟨0x60008, 1, 1, 0⟩
def F.SCH_IRQ_LATECOR : Fld := ⟨0x60008, 0, 1, 0⟩
def F.SCH_IRQ_EN_EN : Fld := ⟨0x6000c, 0, 10, 0⟩
def F.SCH_CMD_GO (b : Nat) : Fld := ⟨0x60010 + 0x10000000 * b, 31, 1, 0⟩
def F.SCH_CMD_OP (b : Nat) : Fld := ⟨0x60010 + 0x10000000 * b, 16, 2, 0⟩
def F.SCH_CMD_INDEX (b : Nat) : Fld := ⟨0x60010 + 0x10000000 * b, 0, 13, 0⟩
def F.SCH_CMD_RES_VALID (b : Nat) : Fld := ⟨0x60014 + 0x10000000 * b, 31, 1, 0⟩
def F.SCH_CMD_RES_STALE (b : Nat) : Fld := ⟨0x60014 + 0x10000000 * b, 30, 1, 0⟩
def F.SCH_CMD_RES_SEQ (b : Nat) : Fld := ⟨0x60014 + 0x10000000 * b, 16, 8, 0⟩
def F.SCH_CMD_RES_CODE (b : Nat) : Fld := ⟨0x60014 + 0x10000000 * b, 0, 16, 0⟩
/-- Result register (R40), 05_calendar_and_sluice.md R111. -/
def RR.SCH_CMD_RES (b : Nat) : Nat := 0x60014 + 0x10000000 * b
def F.SCH_RETRACT_GRP_GRP : Fld := ⟨0x60018, 0, 32, 0⟩
def F.SCH_CNT0_MOVED : Fld := ⟨0x6001c, 16, 16, 0⟩
def F.SCH_CNT0_WITHDRAWN : Fld := ⟨0x6001c, 0, 16, 0⟩
def F.SCH_CNT1_LATECOR : Fld := ⟨0x60020, 16, 16, 0⟩
def F.SCH_CNT1_EXPIRED : Fld := ⟨0x60020, 0, 16, 0⟩
def F.SCH_CNT2_INHIBITED : Fld := ⟨0x60024, 16, 16, 0⟩
def F.SCH_CNT2_NOPOWER : Fld := ⟨0x60024, 0, 16, 0⟩
def F.SCH_LATE_IDX_VALID : Fld := ⟨0x60028, 31, 1, 0⟩
def F.SCH_LATE_IDX_INDEX : Fld := ⟨0x60028, 0, 13, 0⟩
def F.SCH_LATE_ERR_ERR : Fld := ⟨0x6002c, 0, 16, 0⟩
def F.SCH_NEXT_LO_NEXT : Fld := ⟨0x60030, 0, 32, 0xffffffff⟩
def F.SCH_NEXT_HI_NEXT : Fld := ⟨0x60034, 0, 32, 0xffffffff⟩
def F.SCH_PARTn_BASE (n : Nat) : Fld := ⟨0x60040 + 4 * n, 16, 14, 0⟩
def F.SCH_PARTn_SIZE (n : Nat) : Fld := ⟨0x60040 + 4 * n, 0, 14, 0⟩
def F.SCH_LQq_DEPTH (n : Nat) : Fld := ⟨0x60080 + 4 * n, 24, 8, 0⟩
def F.SCH_LQq_DEV (n : Nat) : Fld := ⟨0x60080 + 4 * n, 0, 16, 0⟩
/-! SLC, 05_calendar_and_sluice.md -/

def F.SLC_CTL_HOLD : Fld := ⟨0x70000, 0, 1, 0⟩
def F.SLC_SRC_LO_VAL : Fld := ⟨0x70008, 0, 32, 0⟩
def F.SLC_SRC_HI_VAL : Fld := ⟨0x7000c, 0, 32, 0⟩
def F.SLC_TVk_VAL (n : Nat) : Fld := ⟨0x70010 + 4 * n, 0, 32, 0⟩
def F.SLC_EVT_VAL : Fld := ⟨0x70020, 0, 32, 0⟩
def F.SLC_EVT_IRQ_EVT : Fld := ⟨0x70024, 0, 32, 0⟩
def F.SLC_EVT_EN_EN : Fld := ⟨0x70028, 0, 32, 0⟩
def F.SLC_FORCE_REL_REL : Fld := ⟨0x7002c, 0, 32, 0⟩
def F.SLC_FORCED_BANKS : Fld := ⟨0x70030, 0, 16, 0⟩
def F.SLC_FILTk_FILT (n : Nat) : Fld := ⟨0x70040 + 4 * n, 0, 32, 0⟩
def F.SLC_WATCH0_SEL : Fld := ⟨0x70080, 0, 32, 0⟩
def F.SLC_WATCH1_SEL : Fld := ⟨0x70084, 0, 32, 0⟩
def F.SLC_TWATCH_SEL : Fld := ⟨0x70088, 0, 32, 0⟩
def F.SLC_HWD_TMO : Fld := ⟨0x7008c, 0, 16, 0x7d0⟩
def F.SLC_OUTMODE0_MODE : Fld := ⟨0x70090, 0, 32, 0⟩
def F.SLC_OUTMODE1_MODE : Fld := ⟨0x70094, 0, 32, 0⟩
def F.SLC_Tt_TRUE_LO_MASK (n : Nat) : Fld := ⟨0x71000 + 0x10 * n, 0, 32, 0⟩
def F.SLC_Tt_TRUE_HI_MASK (n : Nat) : Fld := ⟨0x71004 + 0x10 * n, 0, 32, 0⟩
def F.SLC_Tt_COMP_LO_MASK (n : Nat) : Fld := ⟨0x71008 + 0x10 * n, 0, 32, 0⟩
def F.SLC_Tt_COMP_HI_MASK (n : Nat) : Fld := ⟨0x7100c + 0x10 * n, 0, 32, 0⟩
def F.SLC_Oo_M0_MASK (n : Nat) : Fld := ⟨0x71800 + 0x10 * n, 0, 32, 0⟩
def F.SLC_Oo_M1_MASK (n : Nat) : Fld := ⟨0x71804 + 0x10 * n, 0, 32, 0⟩
def F.SLC_Oo_M2_MASK (n : Nat) : Fld := ⟨0x71808 + 0x10 * n, 0, 32, 0⟩
def F.SLC_Oo_M3_MASK (n : Nat) : Fld := ⟨0x7180c + 0x10 * n, 0, 32, 0⟩
def F.SLC_Ee_M0_MASK (n : Nat) : Fld := ⟨0x71a00 + 0x10 * n, 0, 32, 0⟩
def F.SLC_Ee_M1_MASK (n : Nat) : Fld := ⟨0x71a04 + 0x10 * n, 0, 32, 0⟩
def F.SLC_Ee_M2_MASK (n : Nat) : Fld := ⟨0x71a08 + 0x10 * n, 0, 32, 0⟩
def F.SLC_Ee_M3_MASK (n : Nat) : Fld := ⟨0x71a0c + 0x10 * n, 0, 32, 0⟩
def F.SLC_Ee_GRP_GRP (n : Nat) : Fld := ⟨0x71c00 + 8 * n, 0, 32, 0⟩
def F.SLC_Ee_CFG_IRQ (n : Nat) : Fld := ⟨0x71c04 + 8 * n, 31, 1, 0⟩
def F.SLC_Ee_CFG_MODE (n : Nat) : Fld := ⟨0x71c04 + 8 * n, 16, 2, 0⟩
def F.SLC_Ee_CFG_BANKS (n : Nat) : Fld := ⟨0x71c04 + 8 * n, 0, 16, 0⟩
/-! FLD, 06_field_lines_and_chokers.md -/

def F.FLD_STATUS_LINK : Fld := ⟨0x80000, 31, 1, 0⟩
def F.FLD_STATUS_FW_OK : Fld := ⟨0x80000, 30, 1, 0⟩
def F.FLD_STATUS_FENCE : Fld := ⟨0x80000, 29, 1, 0⟩
def F.FLD_STATUS_LANES : Fld := ⟨0x80000, 24, 3, 0⟩
def F.FLD_STATUS_FW_VER : Fld := ⟨0x80000, 0, 16, 0⟩
def F.FLD_IRQ_HVRST : Fld := ⟨0x80004, 5, 1, 0⟩
def F.FLD_IRQ_KEEP_END : Fld := ⟨0x80004, 4, 1, 0⟩
def F.FLD_IRQ_KEEP : Fld := ⟨0x80004, 3, 1, 0⟩
def F.FLD_IRQ_LINK_UP : Fld := ⟨0x80004, 2, 1, 0⟩
def F.FLD_IRQ_LINK_DOWN : Fld := ⟨0x80004, 1, 1, 0⟩
def F.FLD_IRQ_FAULT : Fld := ⟨0x80004, 0, 1, 0⟩
def F.FLD_IRQ_EN_EN : Fld := ⟨0x80008, 0, 6, 0⟩
def F.FLD_INk_LINES (n : Nat) : Fld := ⟨0x80010 + 4 * n, 0, 32, 0⟩
def F.FLD_CMDk_LINES (n : Nat) : Fld := ⟨0x80020 + 4 * n, 0, 32, 0⟩
def F.FLD_DRVk_LINES (n : Nat) : Fld := ⟨0x80030 + 4 * n, 0, 32, 0⟩
def F.FLD_FAULTk_LINES (n : Nat) : Fld := ⟨0x80040 + 4 * n, 0, 32, 0⟩
def F.FLD_CLRk_LINES (n : Nat) : Fld := ⟨0x80050 + 4 * n, 0, 32, 0⟩
def F.FLD_LB_GO : Fld := ⟨0x80060, 31, 1, 0⟩
def F.FLD_LB_MAINT : Fld := ⟨0x80060, 30, 1, 0⟩
def F.FLD_LB_BANKS : Fld := ⟨0x80060, 0, 16, 0⟩
def F.FLD_LB_RES_VALID : Fld := ⟨0x80064, 31, 1, 0⟩
def F.FLD_LB_RES_STALE : Fld := ⟨0x80064, 30, 1, 0⟩
def F.FLD_LB_RES_SEQ : Fld := ⟨0x80064, 16, 8, 0⟩
def F.FLD_LB_RES_CODE : Fld := ⟨0x80064, 0, 16, 0⟩
/-- Result register (R40), 06_field_lines_and_chokers.md R167. -/
def RR.FLD_LB_RES : Nat := 0x80064
def F.FLD_LB_FAILk_LINES (n : Nat) : Fld := ⟨0x80070 + 4 * n, 0, 32, 0⟩
def F.FLD_Bb_CFG_KSTATE (n : Nat) : Fld := ⟨0x80200 + 4 * n, 30, 2, 3⟩
def F.FLD_Bb_CFG_BEN (n : Nat) : Fld := ⟨0x80200 + 4 * n, 17, 1, 0⟩
def F.FLD_Bb_CFG_RESTORE (n : Nat) : Fld := ⟨0x80200 + 4 * n, 16, 1, 0⟩
def F.FLD_Bb_CFG_KEEP_TMO (n : Nat) : Fld := ⟨0x80200 + 4 * n, 0, 16, 0x32⟩
def F.FLD_Ln_CFG_MODE (n : Nat) : Fld := ⟨0x80400 + 8 * n, 13, 3, 0⟩
def F.FLD_Ln_CFG_SAFE (n : Nat) : Fld := ⟨0x80400 + 8 * n, 11, 2, 0⟩
def F.FLD_Ln_CFG_OL_EN (n : Nat) : Fld := ⟨0x80400 + 8 * n, 10, 1, 0⟩
def F.FLD_Ln_CFG_WB_EN (n : Nat) : Fld := ⟨0x80400 + 8 * n, 9, 1, 0⟩
def F.FLD_Ln_CFG_FILT (n : Nat) : Fld := ⟨0x80400 + 8 * n, 0, 3, 0⟩
def F.FLD_Ln_STAT_FEEDOFF (n : Nat) : Fld := ⟨0x80404 + 8 * n, 31, 1, 1⟩
def F.FLD_Ln_STAT_KEEP (n : Nat) : Fld := ⟨0x80404 + 8 * n, 30, 1, 0⟩
def F.FLD_Ln_STAT_FORCED (n : Nat) : Fld := ⟨0x80404 + 8 * n, 29, 1, 0⟩
def F.FLD_Ln_STAT_SC (n : Nat) : Fld := ⟨0x80404 + 8 * n, 28, 1, 0⟩
def F.FLD_Ln_STAT_OT (n : Nat) : Fld := ⟨0x80404 + 8 * n, 27, 1, 0⟩
def F.FLD_Ln_STAT_OL (n : Nat) : Fld := ⟨0x80404 + 8 * n, 26, 1, 0⟩
def F.FLD_Ln_STAT_WB (n : Nat) : Fld := ⟨0x80404 + 8 * n, 25, 1, 0⟩
def F.FLD_Ln_STAT_CMD (n : Nat) : Fld := ⟨0x80404 + 8 * n, 2, 1, 0⟩
def F.FLD_Ln_STAT_DRV (n : Nat) : Fld := ⟨0x80404 + 8 * n, 1, 1, 0⟩
def F.FLD_Ln_STAT_IN (n : Nat) : Fld := ⟨0x80404 + 8 * n, 0, 1, 0⟩
/-! CHK, 06_field_lines_and_chokers.md -/

def F.CHK_SUP_A_WIN : Fld := ⟨0x90000, 31, 1, 0⟩
def F.CHK_SUP_B_WIN : Fld := ⟨0x90000, 30, 1, 0⟩
def F.CHK_SUP_A_ON : Fld := ⟨0x90000, 29, 1, 0⟩
def F.CHK_SUP_B_ON : Fld := ⟨0x90000, 28, 1, 0⟩
def F.CHK_SUP_RAIL : Fld := ⟨0x90000, 27, 1, 0⟩
def F.CHK_SUP_VA : Fld := ⟨0x90000, 12, 12, 0⟩
def F.CHK_SUP_VB : Fld := ⟨0x90000, 0, 12, 0⟩
def F.CHK_SUP_CFG_INS_DLY : Fld := ⟨0x90004, 0, 16, 0x64⟩
def F.CHK_IRQ_SUPB : Fld := ⟨0x90008, 17, 1, 0⟩
def F.CHK_IRQ_SUPA : Fld := ⟨0x90008, 16, 1, 0⟩
def F.CHK_IRQ_FEED : Fld := ⟨0x90008, 0, 16, 0⟩
def F.CHK_IRQ_EN_EN : Fld := ⟨0x9000c, 0, 18, 0⟩
def F.CHK_PG_PG : Fld := ⟨0x90010, 0, 16, 0⟩
def F.CHK_CAL_GO : Fld := ⟨0x90014, 31, 1, 0⟩
def F.CHK_CAL_MAINT : Fld := ⟨0x90014, 30, 1, 0⟩
def F.CHK_CAL_FEEDS : Fld := ⟨0x90014, 0, 16, 0⟩
def F.CHK_CAL_RES_VALID : Fld := ⟨0x90018, 31, 1, 0⟩
def F.CHK_CAL_RES_STALE : Fld := ⟨0x90018, 30, 1, 0⟩
def F.CHK_CAL_RES_SEQ : Fld := ⟨0x90018, 16, 8, 0⟩
def F.CHK_CAL_RES_CODE : Fld := ⟨0x90018, 0, 16, 0⟩
/-- Result register (R40), 06_field_lines_and_chokers.md R166. -/
def RR.CHK_CAL_RES : Nat := 0x90018
def F.CHK_Fn_CTL_CLR (n : Nat) : Fld := ⟨0x90100 + 0x20 * n, 2, 1, 0⟩
def F.CHK_Fn_CTL_EN (n : Nat) : Fld := ⟨0x90100 + 0x20 * n, 0, 1, 0⟩
def F.CHK_Fn_CFG0_TRIP (n : Nat) : Fld := ⟨0x90104 + 0x20 * n, 16, 16, 0x190⟩
def F.CHK_Fn_CFG0_ILIM (n : Nat) : Fld := ⟨0x90104 + 0x20 * n, 0, 16, 0xc8⟩
def F.CHK_Fn_CFG1_RETRY_MAX (n : Nat) : Fld := ⟨0x90108 + 0x20 * n, 28, 4, 3⟩
def F.CHK_Fn_CFG1_COOL (n : Nat) : Fld := ⟨0x90108 + 0x20 * n, 16, 12, 0x64⟩
def F.CHK_Fn_CFG1_FLT_TMO (n : Nat) : Fld := ⟨0x90108 + 0x20 * n, 0, 16, 0xc8⟩
def F.CHK_Fn_CFG2_PRE_TMO (n : Nat) : Fld := ⟨0x9010c + 0x20 * n, 24, 8, 0x32⟩
def F.CHK_Fn_CFG2_RETRY_CLR (n : Nat) : Fld := ⟨0x9010c + 0x20 * n, 16, 8, 0xa⟩
def F.CHK_Fn_CFG2_SEAT_DB (n : Nat) : Fld := ⟨0x9010c + 0x20 * n, 0, 12, 0x64⟩
def F.CHK_Fn_STATUS_STATE (n : Nat) : Fld := ⟨0x90110 + 0x20 * n, 28, 4, 0⟩
def F.CHK_Fn_STATUS_PG (n : Nat) : Fld := ⟨0x90110 + 0x20 * n, 27, 1, 0⟩
def F.CHK_Fn_STATUS_FTMR (n : Nat) : Fld := ⟨0x90110 + 0x20 * n, 26, 1, 0⟩
def F.CHK_Fn_STATUS_COOL (n : Nat) : Fld := ⟨0x90110 + 0x20 * n, 25, 1, 0⟩
def F.CHK_Fn_STATUS_SEAT1 (n : Nat) : Fld := ⟨0x90110 + 0x20 * n, 24, 1, 0⟩
def F.CHK_Fn_STATUS_SEAT2 (n : Nat) : Fld := ⟨0x90110 + 0x20 * n, 23, 1, 0⟩
def F.CHK_Fn_STATUS_FITTED (n : Nat) : Fld := ⟨0x90110 + 0x20 * n, 22, 1, 0⟩
def F.CHK_Fn_STATUS_SEAT_EN (n : Nat) : Fld := ⟨0x90110 + 0x20 * n, 21, 1, 0⟩
def F.CHK_Fn_STATUS_RETRY (n : Nat) : Fld := ⟨0x90110 + 0x20 * n, 16, 4, 0⟩
def F.CHK_Fn_EVT_SUPPLY (n : Nat) : Fld := ⟨0x90114 + 0x20 * n, 10, 1, 0⟩
def F.CHK_Fn_EVT_NEW_MODULE (n : Nat) : Fld := ⟨0x90114 + 0x20 * n, 9, 1, 0⟩
def F.CHK_Fn_EVT_QUAL_RESTART (n : Nat) : Fld := ⟨0x90114 + 0x20 * n, 8, 1, 0⟩
def F.CHK_Fn_EVT_INSERTED (n : Nat) : Fld := ⟨0x90114 + 0x20 * n, 7, 1, 0⟩
def F.CHK_Fn_EVT_REMOVED (n : Nat) : Fld := ⟨0x90114 + 0x20 * n, 6, 1, 0⟩
def F.CHK_Fn_EVT_LOCKOUT (n : Nat) : Fld := ⟨0x90114 + 0x20 * n, 5, 1, 0⟩
def F.CHK_Fn_EVT_LATCHED (n : Nat) : Fld := ⟨0x90114 + 0x20 * n, 4, 1, 0⟩
def F.CHK_Fn_EVT_PRE_FAIL (n : Nat) : Fld := ⟨0x90114 + 0x20 * n, 3, 1, 0⟩
def F.CHK_Fn_EVT_TRIP_TMR (n : Nat) : Fld := ⟨0x90114 + 0x20 * n, 2, 1, 0⟩
def F.CHK_Fn_EVT_TRIP_FAST (n : Nat) : Fld := ⟨0x90114 + 0x20 * n, 1, 1, 0⟩
def F.CHK_Fn_EVT_PG_UP (n : Nat) : Fld := ⟨0x90114 + 0x20 * n, 0, 1, 0⟩
def F.CHK_Fn_MEAS_VOUT (n : Nat) : Fld := ⟨0x90118 + 0x20 * n, 16, 16, 0⟩
def F.CHK_Fn_MEAS_ISENSE (n : Nat) : Fld := ⟨0x90118 + 0x20 * n, 0, 16, 0⟩
def F.CHK_Fn_CALOFS_OFS (n : Nat) : Fld := ⟨0x9011c + 0x20 * n, 0, 16, 0⟩
/-! PSL, 07_port_slices_and_flumes.md -/

def F.PSL_FLUSH_TMO_TMO : Fld := ⟨0xa0000, 0, 16, 0x64⟩
def F.PSL_BANK_A_33 : Fld := ⟨0xa0004, 31, 1, 0⟩
def F.PSL_BANK_B_33 : Fld := ⟨0xa0004, 30, 1, 0⟩
def F.PSL_BANK_A_OK : Fld := ⟨0xa0004, 29, 1, 0⟩
def F.PSL_BANK_B_OK : Fld := ⟨0xa0004, 28, 1, 0⟩
def F.PSL_IRQ_SUM0_SLICE : Fld := ⟨0xa0008, 0, 32, 0⟩
def F.PSL_IRQ_SUM1_SLICE : Fld := ⟨0xa000c, 0, 16, 0⟩
def F.PSL_FL_IN_LINES : Fld := ⟨0xa0010, 0, 32, 0⟩
def F.PSL_FL_OUT_LINES : Fld := ⟨0xa0014, 0, 32, 0⟩
def F.PSL_FLn_CFG_DIR (n : Nat) : Fld := ⟨0xa0100 + 4 * n, 7, 1, 0⟩
def F.PSL_FLn_CFG_SRC (n : Nat) : Fld := ⟨0xa0100 + 4 * n, 6, 1, 0⟩
def F.PSL_FLn_CFG_SAFE (n : Nat) : Fld := ⟨0xa0100 + 4 * n, 2, 2, 2⟩
def F.PSL_FLn_CFG_DRIVE (n : Nat) : Fld := ⟨0xa0100 + 4 * n, 0, 2, 0⟩
def F.PSL_Sn_CFG_PERS (n : Nat) : Fld := ⟨0xa1000 + 0x100 * n, 28, 4, 0⟩
def F.PSL_Sn_CFG_PINS (n : Nat) : Fld := ⟨0xa1000 + 0x100 * n, 24, 4, 0⟩
def F.PSL_Sn_CFG_BANK (n : Nat) : Fld := ⟨0xa1000 + 0x100 * n, 23, 1, if n < 24 then 0 else 1⟩
def F.PSL_Sn_CFG_LINK (n : Nat) : Fld := ⟨0xa1000 + 0x100 * n, 8, 8, 0xff⟩
def F.PSL_Sn_CFG_SAFE (n : Nat) : Fld := ⟨0xa1000 + 0x100 * n, 0, 8, 0⟩
def F.PSL_Sn_PAD_PULL (n : Nat) : Fld := ⟨0xa1004 + 0x100 * n, 8, 8, 0⟩
def F.PSL_Sn_PAD_DRIVE (n : Nat) : Fld := ⟨0xa1004 + 0x100 * n, 0, 8, 0⟩
def F.PSL_Sn_CTL_EN (n : Nat) : Fld := ⟨0xa1008 + 0x100 * n, 31, 1, 0⟩
def F.PSL_Sn_CTL_TX_FLUSH (n : Nat) : Fld := ⟨0xa1008 + 0x100 * n, 3, 1, 0⟩
def F.PSL_Sn_CTL_RX_FLUSH (n : Nat) : Fld := ⟨0xa1008 + 0x100 * n, 2, 1, 0⟩
def F.PSL_Sn_CTL_START (n : Nat) : Fld := ⟨0xa1008 + 0x100 * n, 1, 1, 0⟩
def F.PSL_Sn_STATUS_FLUSHING (n : Nat) : Fld := ⟨0xa100c + 0x100 * n, 29, 1, 0⟩
def F.PSL_Sn_STATUS_TXBUSY (n : Nat) : Fld := ⟨0xa100c + 0x100 * n, 28, 1, 0⟩
def F.PSL_Sn_STATUS_RXBUSY (n : Nat) : Fld := ⟨0xa100c + 0x100 * n, 27, 1, 0⟩
def F.PSL_Sn_STATUS_START_PEND (n : Nat) : Fld := ⟨0xa100c + 0x100 * n, 26, 1, 0⟩
def F.PSL_Sn_STATUS_TXFREE (n : Nat) : Fld := ⟨0xa100c + 0x100 * n, 16, 9, 0x100⟩
def F.PSL_Sn_STATUS_RXITEMS (n : Nat) : Fld := ⟨0xa100c + 0x100 * n, 0, 9, 0⟩
def F.PSL_Sn_RXPKT_PKT (n : Nat) : Fld := ⟨0xa1010 + 0x100 * n, 0, 9, 0⟩
def F.PSL_Sn_TXPKT_PKT (n : Nat) : Fld := ⟨0xa1014 + 0x100 * n, 0, 9, 0⟩
def F.PSL_Sn_IRQ_IOL (n : Nat) : Fld := ⟨0xa1018 + 0x100 * n, 8, 1, 0⟩
def F.PSL_Sn_IRQ_START_OVR (n : Nat) : Fld := ⟨0xa1018 + 0x100 * n, 7, 1, 0⟩
def F.PSL_Sn_IRQ_TXOVF (n : Nat) : Fld := ⟨0xa1018 + 0x100 * n, 6, 1, 0⟩
def F.PSL_Sn_IRQ_TXBAD (n : Nat) : Fld := ⟨0xa1018 + 0x100 * n, 5, 1, 0⟩
def F.PSL_Sn_IRQ_ERR (n : Nat) : Fld := ⟨0xa1018 + 0x100 * n, 4, 1, 0⟩
def F.PSL_Sn_IRQ_TRUNC (n : Nat) : Fld := ⟨0xa1018 + 0x100 * n, 3, 1, 0⟩
def F.PSL_Sn_IRQ_FLUSHED (n : Nat) : Fld := ⟨0xa1018 + 0x100 * n, 2, 1, 0⟩
def F.PSL_Sn_IRQ_TXDONE (n : Nat) : Fld := ⟨0xa1018 + 0x100 * n, 1, 1, 0⟩
def F.PSL_Sn_IRQ_RXPKT (n : Nat) : Fld := ⟨0xa1018 + 0x100 * n, 0, 1, 0⟩
def F.PSL_Sn_IRQ_EN_EN (n : Nat) : Fld := ⟨0xa101c + 0x100 * n, 0, 9, 0⟩
def F.PSL_Sn_FLUSH_RES_VALID (n : Nat) : Fld := ⟨0xa1020 + 0x100 * n, 31, 1, 0⟩
def F.PSL_Sn_FLUSH_RES_STALE (n : Nat) : Fld := ⟨0xa1020 + 0x100 * n, 30, 1, 0⟩
def F.PSL_Sn_FLUSH_RES_SEQ (n : Nat) : Fld := ⟨0xa1020 + 0x100 * n, 16, 8, 0⟩
def F.PSL_Sn_FLUSH_RES_CODE (n : Nat) : Fld := ⟨0xa1020 + 0x100 * n, 0, 16, 0⟩
/-- Result register (R40), 07_port_slices_and_flumes.md R194. -/
def RR.PSL_Sn_FLUSH_RES (n : Nat) : Nat := 0xa1020 + 0x100 * n
def F.PSL_Sn_CNT_TRUNC (n : Nat) : Fld := ⟨0xa1024 + 0x100 * n, 24, 8, 0⟩
def F.PSL_Sn_CNT_ERR (n : Nat) : Fld := ⟨0xa1024 + 0x100 * n, 16, 8, 0⟩
def F.PSL_Sn_CNT_TXBAD (n : Nat) : Fld := ⟨0xa1024 + 0x100 * n, 8, 8, 0⟩
def F.PSL_Sn_CNT_START_OVR (n : Nat) : Fld := ⟨0xa1024 + 0x100 * n, 0, 8, 0⟩
/-! CAN, 08_can_channels.md -/

def F.CAN_IRQ_SUM_CH : Fld := ⟨0xb0000, 0, 16, 0⟩
def F.CAN_Cc_CTL_EN (n : Nat) : Fld := ⟨0xb1000 + 0x100 * n, 31, 1, 0⟩
def F.CAN_Cc_CTL_LOM (n : Nat) : Fld := ⟨0xb1000 + 0x100 * n, 30, 1, 0⟩
def F.CAN_Cc_CTL_OSM (n : Nat) : Fld := ⟨0xb1000 + 0x100 * n, 29, 1, 0⟩
def F.CAN_Cc_CTL_RECOV (n : Nat) : Fld := ⟨0xb1000 + 0x100 * n, 28, 1, 0⟩
def F.CAN_Cc_CTL_FDOE (n : Nat) : Fld := ⟨0xb1000 + 0x100 * n, 27, 1, 0⟩
def F.CAN_Cc_CTL_BRSE (n : Nat) : Fld := ⟨0xb1000 + 0x100 * n, 26, 1, 0⟩
def F.CAN_Cc_CTL_PXHD (n : Nat) : Fld := ⟨0xb1000 + 0x100 * n, 25, 1, 0⟩
def F.CAN_Cc_CTL_ABD_STOP (n : Nat) : Fld := ⟨0xb1000 + 0x100 * n, 4, 1, 0⟩
def F.CAN_Cc_CTL_ABD_GO (n : Nat) : Fld := ⟨0xb1000 + 0x100 * n, 3, 1, 0⟩
def F.CAN_Cc_CTL_RECOVER (n : Nat) : Fld := ⟨0xb1000 + 0x100 * n, 2, 1, 0⟩
def F.CAN_Cc_NBT_NBRP (n : Nat) : Fld := ⟨0xb1004 + 0x100 * n, 23, 9, 3⟩
def F.CAN_Cc_NBT_NTSEG1 (n : Nat) : Fld := ⟨0xb1004 + 0x100 * n, 15, 8, 0x3e⟩
def F.CAN_Cc_NBT_NTSEG2 (n : Nat) : Fld := ⟨0xb1004 + 0x100 * n, 8, 7, 0xf⟩
def F.CAN_Cc_NBT_NSJW (n : Nat) : Fld := ⟨0xb1004 + 0x100 * n, 1, 7, 0xf⟩
def F.CAN_Cc_DBT_DBRP (n : Nat) : Fld := ⟨0xb1008 + 0x100 * n, 27, 5, 0⟩
def F.CAN_Cc_DBT_DTSEG1 (n : Nat) : Fld := ⟨0xb1008 + 0x100 * n, 22, 5, 0xe⟩
def F.CAN_Cc_DBT_DTSEG2 (n : Nat) : Fld := ⟨0xb1008 + 0x100 * n, 18, 4, 3⟩
def F.CAN_Cc_DBT_DSJW (n : Nat) : Fld := ⟨0xb1008 + 0x100 * n, 14, 4, 3⟩
def F.CAN_Cc_TDC_TDC_EN (n : Nat) : Fld := ⟨0xb100c + 0x100 * n, 31, 1, 0⟩
def F.CAN_Cc_TDC_TDCO (n : Nat) : Fld := ⟨0xb100c + 0x100 * n, 16, 7, 0x10⟩
def F.CAN_Cc_TDC_TDCF (n : Nat) : Fld := ⟨0xb100c + 0x100 * n, 8, 7, 0⟩
def F.CAN_Cc_TDC_TDCV (n : Nat) : Fld := ⟨0xb100c + 0x100 * n, 0, 7, 0⟩
def F.CAN_Cc_STATUS_ESTATE (n : Nat) : Fld := ⟨0xb1010 + 0x100 * n, 30, 2, 0⟩
def F.CAN_Cc_STATUS_EWARN (n : Nat) : Fld := ⟨0xb1010 + 0x100 * n, 29, 1, 0⟩
def F.CAN_Cc_STATUS_STUCK (n : Nat) : Fld := ⟨0xb1010 + 0x100 * n, 28, 1, 0⟩
def F.CAN_Cc_STATUS_ACT (n : Nat) : Fld := ⟨0xb1010 + 0x100 * n, 26, 2, 0⟩
def F.CAN_Cc_STATUS_LOMST (n : Nat) : Fld := ⟨0xb1010 + 0x100 * n, 25, 1, 0⟩
def F.CAN_Cc_STATUS_ABDRUN (n : Nat) : Fld := ⟨0xb1010 + 0x100 * n, 24, 1, 0⟩
def F.CAN_Cc_STATUS_TEC (n : Nat) : Fld := ⟨0xb1010 + 0x100 * n, 16, 8, 0⟩
def F.CAN_Cc_STATUS_REC (n : Nat) : Fld := ⟨0xb1010 + 0x100 * n, 8, 8, 0⟩
def F.CAN_Cc_STATUS_RECSEQ (n : Nat) : Fld := ⟨0xb1010 + 0x100 * n, 0, 8, 0⟩
def F.CAN_Cc_IRQ_EWARN (n : Nat) : Fld := ⟨0xb1014 + 0x100 * n, 16, 1, 0⟩
def F.CAN_Cc_IRQ_STUCK (n : Nat) : Fld := ⟨0xb1014 + 0x100 * n, 15, 1, 0⟩
def F.CAN_Cc_IRQ_PXE (n : Nat) : Fld := ⟨0xb1014 + 0x100 * n, 14, 1, 0⟩
def F.CAN_Cc_IRQ_ABD (n : Nat) : Fld := ⟨0xb1014 + 0x100 * n, 13, 1, 0⟩
def F.CAN_Cc_IRQ_BADREQ (n : Nat) : Fld := ⟨0xb1014 + 0x100 * n, 12, 1, 0⟩
def F.CAN_Cc_IRQ_GUARD_FAIL (n : Nat) : Fld := ⟨0xb1014 + 0x100 * n, 11, 1, 0⟩
def F.CAN_Cc_IRQ_GUARD (n : Nat) : Fld := ⟨0xb1014 + 0x100 * n, 10, 1, 0⟩
def F.CAN_Cc_IRQ_EXPIRED (n : Nat) : Fld := ⟨0xb1014 + 0x100 * n, 9, 1, 0⟩
def F.CAN_Cc_IRQ_OSFAIL (n : Nat) : Fld := ⟨0xb1014 + 0x100 * n, 8, 1, 0⟩
def F.CAN_Cc_IRQ_TXDONE (n : Nat) : Fld := ⟨0xb1014 + 0x100 * n, 7, 1, 0⟩
def F.CAN_Cc_IRQ_FLOSS (n : Nat) : Fld := ⟨0xb1014 + 0x100 * n, 6, 1, 0⟩
def F.CAN_Cc_IRQ_FIFO1 (n : Nat) : Fld := ⟨0xb1014 + 0x100 * n, 5, 1, 0⟩
def F.CAN_Cc_IRQ_FIFO0 (n : Nat) : Fld := ⟨0xb1014 + 0x100 * n, 4, 1, 0⟩
def F.CAN_Cc_IRQ_RXNEW (n : Nat) : Fld := ⟨0xb1014 + 0x100 * n, 3, 1, 0⟩
def F.CAN_Cc_IRQ_RECOVERED (n : Nat) : Fld := ⟨0xb1014 + 0x100 * n, 2, 1, 0⟩
def F.CAN_Cc_IRQ_EPASS (n : Nat) : Fld := ⟨0xb1014 + 0x100 * n, 1, 1, 0⟩
def F.CAN_Cc_IRQ_BOFF (n : Nat) : Fld := ⟨0xb1014 + 0x100 * n, 0, 1, 0⟩
def F.CAN_Cc_IRQ_EN_EN (n : Nat) : Fld := ⟨0xb1018 + 0x100 * n, 0, 17, 0⟩
def F.CAN_Cc_TXREQ0_BUF (n : Nat) : Fld := ⟨0xb101c + 0x100 * n, 0, 32, 0⟩
def F.CAN_Cc_TXREQ1_BUF (n : Nat) : Fld := ⟨0xb1020 + 0x100 * n, 0, 32, 0⟩
def F.CAN_Cc_TXPEND0_BUF (n : Nat) : Fld := ⟨0xb1024 + 0x100 * n, 0, 32, 0⟩
def F.CAN_Cc_TXPEND1_BUF (n : Nat) : Fld := ⟨0xb1028 + 0x100 * n, 0, 32, 0⟩
def F.CAN_Cc_RXNEW0_BUF (n : Nat) : Fld := ⟨0xb102c + 0x100 * n, 0, 32, 0⟩
def F.CAN_Cc_RXNEW1_BUF (n : Nat) : Fld := ⟨0xb1030 + 0x100 * n, 0, 32, 0⟩
def F.CAN_Cc_RXACK0_BUF (n : Nat) : Fld := ⟨0xb1034 + 0x100 * n, 0, 32, 0⟩
def F.CAN_Cc_RXACK1_BUF (n : Nat) : Fld := ⟨0xb1038 + 0x100 * n, 0, 32, 0⟩
def F.CAN_Cc_FIFO0_OVWR (n : Nat) : Fld := ⟨0xb103c + 0x100 * n, 31, 1, 0⟩
def F.CAN_Cc_FIFO0_LEVEL (n : Nat) : Fld := ⟨0xb103c + 0x100 * n, 8, 6, 0⟩
def F.CAN_Cc_FIFO0_LOSS (n : Nat) : Fld := ⟨0xb103c + 0x100 * n, 0, 8, 0⟩
def F.CAN_Cc_FIFO1_OVWR (n : Nat) : Fld := ⟨0xb1040 + 0x100 * n, 31, 1, 0⟩
def F.CAN_Cc_FIFO1_TUNNEL (n : Nat) : Fld := ⟨0xb1040 + 0x100 * n, 30, 1, 0⟩
def F.CAN_Cc_FIFO1_LEVEL (n : Nat) : Fld := ⟨0xb1040 + 0x100 * n, 8, 6, 0⟩
def F.CAN_Cc_FIFO1_LOSS (n : Nat) : Fld := ⟨0xb1040 + 0x100 * n, 0, 8, 0⟩
def F.CAN_Cc_POP_POP (n : Nat) : Fld := ⟨0xb1044 + 0x100 * n, 0, 2, 0⟩
def F.CAN_Cc_CNT0_BOFF (n : Nat) : Fld := ⟨0xb1048 + 0x100 * n, 24, 8, 0⟩
def F.CAN_Cc_CNT0_ERRFRM (n : Nat) : Fld := ⟨0xb1048 + 0x100 * n, 16, 8, 0⟩
def F.CAN_Cc_CNT0_NOMATCH (n : Nat) : Fld := ⟨0xb1048 + 0x100 * n, 8, 8, 0⟩
def F.CAN_Cc_CNT0_PXE (n : Nat) : Fld := ⟨0xb1048 + 0x100 * n, 0, 8, 0⟩
def F.CAN_Cc_CNT1_ARBLOST (n : Nat) : Fld := ⟨0xb104c + 0x100 * n, 24, 8, 0⟩
def F.CAN_Cc_CNT1_EXPIRED (n : Nat) : Fld := ⟨0xb104c + 0x100 * n, 16, 8, 0⟩
def F.CAN_Cc_CNT1_RQ_DROP (n : Nat) : Fld := ⟨0xb104c + 0x100 * n, 8, 8, 0⟩
def F.CAN_Cc_CNT1_STUCK (n : Nat) : Fld := ⟨0xb104c + 0x100 * n, 0, 8, 0⟩
def F.CAN_Cc_ABD_CFG_NCAND (n : Nat) : Fld := ⟨0xb1050 + 0x100 * n, 28, 4, 0⟩
def F.CAN_Cc_ABD_CFG_MATCH_N (n : Nat) : Fld := ⟨0xb1050 + 0x100 * n, 24, 4, 2⟩
def F.CAN_Cc_ABD_CFG_PASSES (n : Nat) : Fld := ⟨0xb1050 + 0x100 * n, 16, 8, 4⟩
def F.CAN_Cc_ABD_CFG_DWELL (n : Nat) : Fld := ⟨0xb1050 + 0x100 * n, 0, 16, 0x64⟩
def F.CAN_Cc_ABD_RES_VALID (n : Nat) : Fld := ⟨0xb1054 + 0x100 * n, 31, 1, 0⟩
def F.CAN_Cc_ABD_RES_STALE (n : Nat) : Fld := ⟨0xb1054 + 0x100 * n, 30, 1, 0⟩
def F.CAN_Cc_ABD_RES_SEQ (n : Nat) : Fld := ⟨0xb1054 + 0x100 * n, 16, 8, 0⟩
def F.CAN_Cc_ABD_RES_CODE (n : Nat) : Fld := ⟨0xb1054 + 0x100 * n, 0, 16, 0⟩
/-- Result register (R40), 08_can_channels.md R219. -/
def RR.CAN_Cc_ABD_RES (n : Nat) : Nat := 0xb1054 + 0x100 * n
def F.CAN_Cc_ABD_STAT_PASS (n : Nat) : Fld := ⟨0xb1058 + 0x100 * n, 24, 8, 0⟩
def F.CAN_Cc_ABD_STAT_CUR (n : Nat) : Fld := ⟨0xb1058 + 0x100 * n, 20, 4, 0⟩
def F.CAN_Cc_ABD_STAT_INDEX (n : Nat) : Fld := ⟨0xb1058 + 0x100 * n, 16, 4, 0⟩
def F.CAN_Cc_GUARD_GUARD (n : Nat) : Fld := ⟨0xb105c + 0x100 * n, 24, 8, 0xff⟩
def F.CAN_Cc_GUARD_RQLEVEL (n : Nat) : Fld := ⟨0xb105c + 0x100 * n, 16, 5, 0⟩
def F.CAN_Cc_GUARD_GUARD_CH (n : Nat) : Fld := ⟨0xb105c + 0x100 * n, 12, 4, 0⟩
def F.CAN_Cc_GUARD_GUARD_DEST (n : Nat) : Fld := ⟨0xb105c + 0x100 * n, 0, 12, 0⟩
def F.CAN_Cc_ERR_LEC (n : Nat) : Fld := ⟨0xb1060 + 0x100 * n, 29, 3, 0⟩
def F.CAN_Cc_ERR_DPH (n : Nat) : Fld := ⟨0xb1060 + 0x100 * n, 28, 1, 0⟩
def F.CAN_Cc_CNT2_REQ_DUP (n : Nat) : Fld := ⟨0xb1064 + 0x100 * n, 0, 8, 0⟩
def F.CAN_Cc_CANDk_NBT_NBRP (n k : Nat) : Fld := ⟨0xb1080 + 0x100 * n + 8 * k, 23, 9, 3⟩
def F.CAN_Cc_CANDk_NBT_NTSEG1 (n k : Nat) : Fld := ⟨0xb1080 + 0x100 * n + 8 * k, 15, 8, 0x3e⟩
def F.CAN_Cc_CANDk_NBT_NTSEG2 (n k : Nat) : Fld := ⟨0xb1080 + 0x100 * n + 8 * k, 8, 7, 0xf⟩
def F.CAN_Cc_CANDk_NBT_NSJW (n k : Nat) : Fld := ⟨0xb1080 + 0x100 * n + 8 * k, 1, 7, 0xf⟩
def F.CAN_Cc_CANDk_DBT_DBRP (n k : Nat) : Fld := ⟨0xb1084 + 0x100 * n + 8 * k, 27, 5, 0⟩
def F.CAN_Cc_CANDk_DBT_DTSEG1 (n k : Nat) : Fld := ⟨0xb1084 + 0x100 * n + 8 * k, 22, 5, 0xe⟩
def F.CAN_Cc_CANDk_DBT_DTSEG2 (n k : Nat) : Fld := ⟨0xb1084 + 0x100 * n + 8 * k, 18, 4, 3⟩
def F.CAN_Cc_CANDk_DBT_DSJW (n k : Nat) : Fld := ⟨0xb1084 + 0x100 * n + 8 * k, 14, 4, 3⟩
def F.CAN_Cc_CANDk_DBT_REQ_FD (n k : Nat) : Fld := ⟨0xb1084 + 0x100 * n + 8 * k, 0, 1, 0⟩
/-! SAW, 09_sawyers.md -/

def F.SAW_IRQ_SUMk_SAW (n : Nat) : Fld := ⟨0xc0000 + 4 * n, 0, 32, 0⟩
def F.SAW_Gg_RELOAD_GO (n : Nat) : Fld := ⟨0xc0100 + 0x20 * n, 31, 1, 0⟩
def F.SAW_Gg_RELOAD_CLEAN (n : Nat) : Fld := ⟨0xc0100 + 0x20 * n, 8, 1, 0⟩
def F.SAW_Gg_RELOAD_MASK (n : Nat) : Fld := ⟨0xc0100 + 0x20 * n, 0, 8, 0⟩
def F.SAW_Gg_RELOAD_RES_VALID (n : Nat) : Fld := ⟨0xc0104 + 0x20 * n, 31, 1, 0⟩
def F.SAW_Gg_RELOAD_RES_STALE (n : Nat) : Fld := ⟨0xc0104 + 0x20 * n, 30, 1, 0⟩
def F.SAW_Gg_RELOAD_RES_SEQ (n : Nat) : Fld := ⟨0xc0104 + 0x20 * n, 16, 8, 0⟩
def F.SAW_Gg_RELOAD_RES_CODE (n : Nat) : Fld := ⟨0xc0104 + 0x20 * n, 0, 16, 0⟩
/-- Result register (R40), 09_sawyers.md R247. -/
def RR.SAW_Gg_RELOAD_RES (n : Nat) : Nat := 0xc0104 + 0x20 * n
def F.SAW_Gg_FLAGS_FLAGS (n : Nat) : Fld := ⟨0xc0108 + 0x20 * n, 0, 8, 0⟩
def F.SAW_Gg_LEN_LENGTH (n : Nat) : Fld := ⟨0xc010c + 0x20 * n, 0, 10, 0⟩
def F.SAW_Sn_CTL_EN (n : Nat) : Fld := ⟨0xc1000 + 0x80 * n, 31, 1, 0⟩
def F.SAW_Sn_CLKDIV_DIV (n : Nat) : Fld := ⟨0xc1004 + 0x80 * n, 0, 24, 0x500⟩
def F.SAW_Sn_PROG_WRAP_END (n : Nat) : Fld := ⟨0xc1008 + 0x80 * n, 18, 9, 0x1ff⟩
def F.SAW_Sn_PROG_WRAP_START (n : Nat) : Fld := ⟨0xc1008 + 0x80 * n, 9, 9, 0⟩
def F.SAW_Sn_PROG_ENTRY (n : Nat) : Fld := ⟨0xc1008 + 0x80 * n, 0, 9, 0⟩
def F.SAW_Sn_SHIFT_OUT_RIGHT (n : Nat) : Fld := ⟨0xc100c + 0x80 * n, 17, 1, 0⟩
def F.SAW_Sn_SHIFT_IN_RIGHT (n : Nat) : Fld := ⟨0xc100c + 0x80 * n, 16, 1, 0⟩
def F.SAW_Sn_SHIFT_OUT_WIDTH (n : Nat) : Fld := ⟨0xc100c + 0x80 * n, 8, 5, 0⟩
def F.SAW_Sn_SHIFT_IN_WIDTH (n : Nat) : Fld := ⟨0xc100c + 0x80 * n, 0, 5, 0⟩
def F.SAW_Sn_WIN_TPIN (n : Nat) : Fld := ⟨0xc1010 + 0x80 * n, 24, 4, 0⟩
def F.SAW_Sn_WIN_WBASE (n : Nat) : Fld := ⟨0xc1010 + 0x80 * n, 20, 4, 0⟩
def F.SAW_Sn_WIN_RBASE (n : Nat) : Fld := ⟨0xc1010 + 0x80 * n, 16, 4, 0⟩
def F.SAW_Sn_WIN_SIDE3 (n : Nat) : Fld := ⟨0xc1010 + 0x80 * n, 12, 4, 3⟩
def F.SAW_Sn_WIN_SIDE2 (n : Nat) : Fld := ⟨0xc1010 + 0x80 * n, 8, 4, 2⟩
def F.SAW_Sn_WIN_SIDE1 (n : Nat) : Fld := ⟨0xc1010 + 0x80 * n, 4, 4, 1⟩
def F.SAW_Sn_WIN_SIDE0 (n : Nat) : Fld := ⟨0xc1010 + 0x80 * n, 0, 4, 0⟩
def F.SAW_Sn_STATUS_STATE (n : Nat) : Fld := ⟨0xc1014 + 0x80 * n, 29, 3, 0⟩
def F.SAW_Sn_STATUS_INJ_PEND (n : Nat) : Fld := ⟨0xc1014 + 0x80 * n, 28, 1, 0⟩
def F.SAW_Sn_STATUS_TRIG_PEND (n : Nat) : Fld := ⟨0xc1014 + 0x80 * n, 27, 1, 0⟩
def F.SAW_Sn_STATUS_TXLEVEL (n : Nat) : Fld := ⟨0xc1014 + 0x80 * n, 24, 3, 0⟩
def F.SAW_Sn_STATUS_RXLEVEL (n : Nat) : Fld := ⟨0xc1014 + 0x80 * n, 21, 3, 0⟩
def F.SAW_Sn_STATUS_ISRCNT (n : Nat) : Fld := ⟨0xc1014 + 0x80 * n, 15, 6, 0⟩
def F.SAW_Sn_STATUS_OSRCNT (n : Nat) : Fld := ⟨0xc1014 + 0x80 * n, 9, 6, 0x20⟩
def F.SAW_Sn_STATUS_PC (n : Nat) : Fld := ⟨0xc1014 + 0x80 * n, 0, 9, 0⟩
def F.SAW_Sn_IRQ_CLEAN (n : Nat) : Fld := ⟨0xc1018 + 0x80 * n, 7, 1, 0⟩
def F.SAW_Sn_IRQ_INJ_BAD (n : Nat) : Fld := ⟨0xc1018 + 0x80 * n, 6, 1, 0⟩
def F.SAW_Sn_IRQ_RXDROP (n : Nat) : Fld := ⟨0xc1018 + 0x80 * n, 5, 1, 0⟩
def F.SAW_Sn_IRQ_TXOVF (n : Nat) : Fld := ⟨0xc1018 + 0x80 * n, 4, 1, 0⟩
def F.SAW_Sn_IRQ_TRIG_OVR (n : Nat) : Fld := ⟨0xc1018 + 0x80 * n, 3, 1, 0⟩
def F.SAW_Sn_IRQ_FLAGIRQ (n : Nat) : Fld := ⟨0xc1018 + 0x80 * n, 2, 1, 0⟩
def F.SAW_Sn_IRQ_FAULT (n : Nat) : Fld := ⟨0xc1018 + 0x80 * n, 1, 1, 0⟩
def F.SAW_Sn_IRQ_HALT (n : Nat) : Fld := ⟨0xc1018 + 0x80 * n, 0, 1, 0⟩
def F.SAW_Sn_IRQ_EN_EN (n : Nat) : Fld := ⟨0xc101c + 0x80 * n, 0, 8, 0⟩
def F.SAW_Sn_INJ_WORD (n : Nat) : Fld := ⟨0xc1020 + 0x80 * n, 0, 32, 0⟩
def F.SAW_Sn_TXF_WORD (n : Nat) : Fld := ⟨0xc1024 + 0x80 * n, 0, 32, 0⟩
def F.SAW_Sn_RXF_WORD (n : Nat) : Fld := ⟨0xc1028 + 0x80 * n, 0, 32, 0⟩
def F.SAW_Sn_X_VALUE (n : Nat) : Fld := ⟨0xc102c + 0x80 * n, 0, 32, 0⟩
def F.SAW_Sn_Y_VALUE (n : Nat) : Fld := ⟨0xc1030 + 0x80 * n, 0, 32, 0⟩
def F.SAW_Sn_ISR_VALUE (n : Nat) : Fld := ⟨0xc1034 + 0x80 * n, 0, 32, 0⟩
def F.SAW_Sn_OSR_VALUE (n : Nat) : Fld := ⟨0xc1038 + 0x80 * n, 0, 32, 0⟩
def F.SAW_Sn_DROP_DROP (n : Nat) : Fld := ⟨0xc103c + 0x80 * n, 0, 32, 0⟩
def F.SAW_Sn_TALLY_LO_TALLY (n : Nat) : Fld := ⟨0xc1040 + 0x80 * n, 0, 32, 0⟩
def F.SAW_Sn_TALLY_HI_TALLY (n : Nat) : Fld := ⟨0xc1044 + 0x80 * n, 0, 32, 0⟩
def F.SAW_Sn_TCMP_LO_TCMP (n : Nat) : Fld := ⟨0xc1048 + 0x80 * n, 0, 32, 0⟩
def F.SAW_Sn_TCMP_HI_TCMP (n : Nat) : Fld := ⟨0xc104c + 0x80 * n, 0, 32, 0⟩
def F.SAW_Sn_STAMP0_STAMP (n : Nat) : Fld := ⟨0xc1050 + 0x80 * n, 0, 32, 0⟩
def F.SAW_Sn_STAMP1_STAMP (b n : Nat) : Fld := ⟨0xc1054 + 0x10000000 * b + 0x80 * n, 0, 32, 0⟩
def F.SAW_Sn_STAMP2_STAMP (b n : Nat) : Fld := ⟨0xc1058 + 0x10000000 * b + 0x80 * n, 0, 32, 0⟩
def F.SAW_Sn_FAULT_PC (n : Nat) : Fld := ⟨0xc105c + 0x80 * n, 16, 9, 0⟩
def F.SAW_Sn_FAULT_CODE (n : Nat) : Fld := ⟨0xc105c + 0x80 * n, 0, 16, 0⟩
def F.SAW_Sn_CNT_TRIG_OVR (n : Nat) : Fld := ⟨0xc1060 + 0x80 * n, 24, 8, 0⟩
def F.SAW_Sn_CNT_TXOVF (n : Nat) : Fld := ⟨0xc1060 + 0x80 * n, 16, 8, 0⟩
def F.SAW_Sn_CNT_RXDROP (n : Nat) : Fld := ⟨0xc1060 + 0x80 * n, 8, 8, 0⟩
def F.SAW_Sn_CNT_RXUND (n : Nat) : Fld := ⟨0xc1060 + 0x80 * n, 0, 8, 0⟩
def F.SAW_Sn_PINS_DIR (n : Nat) : Fld := ⟨0xc1064 + 0x80 * n, 16, 16, 0⟩
def F.SAW_Sn_PINS_LEVEL (n : Nat) : Fld := ⟨0xc1064 + 0x80 * n, 0, 16, 0⟩
def F.SAW_Sn_LC_F (n : Nat) : Fld := ⟨0xc1068 + 0x80 * n, 16, 1, 0⟩
def F.SAW_Sn_LC_LC (n : Nat) : Fld := ⟨0xc1068 + 0x80 * n, 0, 16, 0⟩
/-! CRL, 10_collyn_ring.md -/

def F.CRL_CTL_RING_EN : Fld := ⟨0x100000, 31, 1, 0⟩
def F.CRL_CTL_HEAD : Fld := ⟨0x100000, 30, 1, 0⟩
def F.CRL_CTL_REKEY : Fld := ⟨0x100000, 0, 1, 0⟩
def F.CRL_STATUS_ADMITTED : Fld := ⟨0x100004, 31, 1, 0⟩
def F.CRL_STATUS_QUAR : Fld := ⟨0x100004, 30, 1, 0⟩
def F.CRL_STATUS_WRAP_E : Fld := ⟨0x100004, 29, 1, 0⟩
def F.CRL_STATUS_WRAP_W : Fld := ⟨0x100004, 28, 1, 0⟩
def F.CRL_STATUS_HV_RUN : Fld := ⟨0x100004, 27, 1, 0⟩
def F.CRL_STATUS_REKEY : Fld := ⟨0x100004, 26, 1, 0⟩
def F.CRL_STATUS_POS : Fld := ⟨0x100004, 16, 10, 0⟩
def F.CRL_IRQ_HDONE : Fld := ⟨0x100008, 13, 1, 0⟩
def F.CRL_IRQ_REFUSED : Fld := ⟨0x100008, 12, 1, 0⟩
def F.CRL_IRQ_REKEY : Fld := ⟨0x100008, 11, 1, 0⟩
def F.CRL_IRQ_VIOL : Fld := ⟨0x100008, 10, 1, 0⟩
def F.CRL_IRQ_NAKRX : Fld := ⟨0x100008, 9, 1, 0⟩
def F.CRL_IRQ_HLATE : Fld := ⟨0x100008, 8, 1, 0⟩
def F.CRL_IRQ_HMISS : Fld := ⟨0x100008, 7, 1, 0⟩
def F.CRL_IRQ_RELEASE : Fld := ⟨0x100008, 6, 1, 0⟩
def F.CRL_IRQ_QUAR : Fld := ⟨0x100008, 5, 1, 0⟩
def F.CRL_IRQ_EPOCH : Fld := ⟨0x100008, 4, 1, 0⟩
def F.CRL_IRQ_UNWRAP : Fld := ⟨0x100008, 3, 1, 0⟩
def F.CRL_IRQ_WRAP : Fld := ⟨0x100008, 2, 1, 0⟩
def F.CRL_IRQ_LINKUP : Fld := ⟨0x100008, 1, 1, 0⟩
def F.CRL_IRQ_LINKDN : Fld := ⟨0x100008, 0, 1, 0⟩
def F.CRL_IRQ_EN_EN : Fld := ⟨0x10000c, 0, 14, 0⟩
def F.CRL_EPOCH_PREV : Fld := ⟨0x100010, 16, 16, 0⟩
def F.CRL_EPOCH_CUR : Fld := ⟨0x100010, 0, 16, 0⟩
def F.CRL_MAP_HOPS : Fld := ⟨0x100014, 16, 10, 0⟩
def F.CRL_MAP_DRAIN : Fld := ⟨0x100014, 0, 16, 0⟩
def F.CRL_HPER_VALUE : Fld := ⟨0x100018, 0, 19, 0xfa0⟩
def F.CRL_HLAUNCH_VALUE : Fld := ⟨0x10001c, 0, 19, 8⟩
def F.CRL_HAPPLY_VALUE : Fld := ⟨0x100020, 0, 19, 0x3e8⟩
def F.CRL_HCYCLE_CYCLE : Fld := ⟨0x100024, 0, 32, 0⟩
def F.CRL_HCNT_MISS : Fld := ⟨0x100028, 16, 16, 0⟩
def F.CRL_HCNT_LATE : Fld := ⟨0x100028, 0, 16, 0⟩
def F.CRL_TMO0_MAXAGE : Fld := ⟨0x100030, 16, 16, 0x7d0⟩
def F.CRL_TMO0_REKEY_TMO : Fld := ⟨0x100030, 0, 16, 0x64⟩
def F.CRL_TMO1_LOSS_CYCLES : Fld := ⟨0x100034, 8, 8, 3⟩
def F.CRL_TMO1_JOIN_INT : Fld := ⟨0x100034, 0, 8, 0xa⟩
def F.CRL_CNT0_DUP : Fld := ⟨0x100038, 16, 16, 0⟩
def F.CRL_CNT0_STALE : Fld := ⟨0x100038, 0, 16, 0⟩
def F.CRL_CNT1_HDR : Fld := ⟨0x10003c, 16, 16, 0⟩
def F.CRL_CNT1_EPOCH : Fld := ⟨0x10003c, 0, 16, 0⟩
def F.CRL_CNT2_AGED : Fld := ⟨0x100040, 16, 16, 0⟩
def F.CRL_CNT2_UNREACH : Fld := ⟨0x100040, 0, 16, 0⟩
def F.CRL_NAK_SRC : Fld := ⟨0x100044, 20, 12, 0⟩
def F.CRL_NAK_TYPE : Fld := ⟨0x100044, 16, 4, 0⟩
def F.CRL_NAK_CODE : Fld := ⟨0x100044, 0, 16, 0⟩
def F.CRL_KEY_NEXT_VALID : Fld := ⟨0x100048, 8, 1, 0⟩
def F.CRL_KEY_NEXT : Fld := ⟨0x100048, 4, 4, 0⟩
def F.CRL_KEY_TX : Fld := ⟨0x100048, 0, 4, 0⟩
def F.CRL_CNT3_NAKSUP : Fld := ⟨0x10004c, 16, 16, 0⟩
def F.CRL_HIN_LO_BASE : Fld := ⟨0x100050, 0, 32, 0⟩
def F.CRL_HIN_HI_BASE : Fld := ⟨0x100054, 0, 32, 0⟩
def F.CRL_HOUT_LO_BASE : Fld := ⟨0x100058, 0, 32, 0⟩
def F.CRL_HOUT_HI_BASE : Fld := ⟨0x10005c, 0, 32, 0⟩
def F.CRL_HSTAT_LO_BASE : Fld := ⟨0x100060, 0, 32, 0⟩
def F.CRL_HSTAT_HI_BASE : Fld := ⟨0x100064, 0, 32, 0⟩
def F.CRL_HDONE_FRESH : Fld := ⟨0x100068, 16, 12, 0⟩
def F.CRL_HDONE_MISSED : Fld := ⟨0x100068, 0, 12, 0⟩
def F.CRL_HDONE_CYC_CYCLE : Fld := ⟨0x10006c, 0, 32, 0⟩
def F.CRL_Pp_CFG_USED (n : Nat) : Fld := ⟨0x100100 + 0x40 * n, 31, 1, 0⟩
def F.CRL_Pp_CFG_RATE (n : Nat) : Fld := ⟨0x100100 + 0x40 * n, 29, 2, 0⟩
def F.CRL_Pp_CFG_FEC (n : Nat) : Fld := ⟨0x100100 + 0x40 * n, 27, 2, 0⟩
def F.CRL_Pp_STATUS_STATE (n : Nat) : Fld := ⟨0x100104 + 0x40 * n, 30, 2, 0⟩
def F.CRL_Pp_STATUS_LOCK (n : Nat) : Fld := ⟨0x100104 + 0x40 * n, 29, 1, 0⟩
def F.CRL_Pp_STATUS_LF (n : Nat) : Fld := ⟨0x100104 + 0x40 * n, 28, 1, 0⟩
def F.CRL_Pp_STATUS_RF (n : Nat) : Fld := ⟨0x100104 + 0x40 * n, 27, 1, 0⟩
def F.CRL_Pp_STATUS_HB (n : Nat) : Fld := ⟨0x100104 + 0x40 * n, 26, 1, 0⟩
def F.CRL_Pp_STATUS_RPL_USED (n : Nat) : Fld := ⟨0x100104 + 0x40 * n, 0, 15, 0⟩
def F.CRL_Pp_SEQ_TXNEXT (n : Nat) : Fld := ⟨0x100108 + 0x40 * n, 16, 16, 0⟩
def F.CRL_Pp_SEQ_RXEXP (n : Nat) : Fld := ⟨0x100108 + 0x40 * n, 0, 16, 0⟩
def F.CRL_Pp_CNT0_NAKTX (n : Nat) : Fld := ⟨0x10010c + 0x40 * n, 16, 16, 0⟩
def F.CRL_Pp_CNT0_REPLAY (n : Nat) : Fld := ⟨0x10010c + 0x40 * n, 0, 16, 0⟩
def F.CRL_Pp_CNT1_STOMPRX (n : Nat) : Fld := ⟨0x100110 + 0x40 * n, 16, 16, 0⟩
def F.CRL_Pp_CNT1_STOMPTX (n : Nat) : Fld := ⟨0x100110 + 0x40 * n, 0, 16, 0⟩
def F.CRL_Pp_CNT2_FCS (n : Nat) : Fld := ⟨0x100114 + 0x40 * n, 16, 16, 0⟩
def F.CRL_Pp_CNT2_HCRC (n : Nat) : Fld := ⟨0x100114 + 0x40 * n, 0, 16, 0⟩
def F.CRL_Pp_FEC_CORR (n : Nat) : Fld := ⟨0x100118 + 0x40 * n, 16, 16, 0⟩
def F.CRL_Pp_FEC_UNCORR (n : Nat) : Fld := ⟨0x100118 + 0x40 * n, 0, 16, 0⟩
/-! SWC, 11_switch_core.md -/

def F.SWC_CTL_CT_EN : Fld := ⟨0x110000, 0, 1, 1⟩
def F.SWC_IRQ_HOLD : Fld := ⟨0x110004, 5, 1, 0⟩
def F.SWC_IRQ_LQFULL : Fld := ⟨0x110004, 4, 1, 0⟩
def F.SWC_IRQ_OVF : Fld := ⟨0x110004, 3, 1, 0⟩
def F.SWC_IRQ_MIRDROP : Fld := ⟨0x110004, 2, 1, 0⟩
def F.SWC_IRQ_PUSHOUT : Fld := ⟨0x110004, 1, 1, 0⟩
def F.SWC_IRQ_DROP : Fld := ⟨0x110004, 0, 1, 0⟩
def F.SWC_IRQ_EN_EN : Fld := ⟨0x110008, 0, 6, 0⟩
def F.SWC_FREE_CELLS : Fld := ⟨0x11000c, 0, 17, 0x18000⟩
def F.SWC_SHFREE_CELLS : Fld := ⟨0x110010, 0, 17, 0x17800⟩
def F.SWC_HELD_CELLS : Fld := ⟨0x110014, 0, 17, 0⟩
def F.SWC_FWD_FWD : Fld := ⟨0x110018, 0, 32, 0⟩
def F.SWC_UPLINK_VALID : Fld := ⟨0x11001c, 7, 1, 0⟩
def F.SWC_UPLINK_PORT : Fld := ⟨0x11001c, 0, 4, 0⟩
def F.SWC_WGT_WGT : Fld := ⟨0x110020, 0, 32, 0x1010101⟩
def F.SWC_MIR_CFG_ANPORT : Fld := ⟨0x110024, 30, 2, 0⟩
def F.SWC_MIR_CFG_TRUNC : Fld := ⟨0x110024, 16, 12, 0⟩
def F.SWC_MIR_SRC_EGRESS : Fld := ⟨0x110028, 16, 16, 0⟩
def F.SWC_MIR_SRC_INGRESS : Fld := ⟨0x110028, 0, 16, 0⟩
def F.SWC_MIR_CTX_EN : Fld := ⟨0x11002c, 31, 1, 0⟩
def F.SWC_MIR_CTX_BRCTX : Fld := ⟨0x11002c, 16, 12, 0⟩
def F.SWC_MIR_CTX_CTX : Fld := ⟨0x11002c, 0, 12, 0⟩
def F.SWC_MIR_FLOOR_FLOOR : Fld := ⟨0x110030, 0, 17, 0x2000⟩
def F.SWC_CNT0_MIRDROP : Fld := ⟨0x110034, 16, 16, 0⟩
def F.SWC_CNT0_PUSHOUT : Fld := ⟨0x110034, 0, 16, 0⟩
def F.SWC_CNT1_OVF : Fld := ⟨0x110038, 16, 16, 0⟩
def F.SWC_CNT1_LQFULL : Fld := ⟨0x110038, 10, 6, 0⟩
def F.SWC_CNT1_NOFWD : Fld := ⟨0x110038, 5, 5, 0⟩
def F.SWC_CNT1_HELDDROP : Fld := ⟨0x110038, 0, 5, 0⟩
def F.SWC_Cc_GUAR_GUAR (n : Nat) : Fld := ⟨0x110100 + 0x10 * n, 0, 17, if n = 7 then 0x800 else 0⟩
def F.SWC_Cc_MAX_MAX (n : Nat) : Fld := ⟨0x110104 + 0x10 * n, 0, 17, 0x18000⟩
def F.SWC_Cc_USED_USED (n : Nat) : Fld := ⟨0x110108 + 0x10 * n, 0, 17, 0⟩
def F.SWC_Cc_DROP_FRAMES (n : Nat) : Fld := ⟨0x11010c + 0x10 * n, 0, 32, 0⟩
def F.SWC_Pp_OQ_CELLS (n : Nat) : Fld := ⟨0x110200 + 8 * n, 0, 17, 0⟩
def F.SWC_Pp_CNT_CT (n : Nat) : Fld := ⟨0x110204 + 8 * n, 16, 16, 0⟩
def F.SWC_Pp_CNT_SF (n : Nat) : Fld := ⟨0x110204 + 8 * n, 0, 16, 0⟩
def F.SWC_LQq_CFG_EN (n : Nat) : Fld := ⟨0x110300 + 4 * n, 31, 1, 0⟩
def F.SWC_LQq_CFG_PORT (n : Nat) : Fld := ⟨0x110300 + 4 * n, 0, 3, 0⟩
/-! BRG, 12_bridge_and_dma.md -/

def F.BRG_STATUS_EP : Fld := ⟨0x120000, 31, 1, 0⟩
def F.BRG_STATUS_DL_UP : Fld := ⟨0x120000, 30, 1, 0⟩
def F.BRG_STATUS_SPEED : Fld := ⟨0x120000, 27, 3, 0⟩
def F.BRG_STATUS_WIDTH : Fld := ⟨0x120000, 24, 3, 0⟩
def F.BRG_STATUS_TAGS : Fld := ⟨0x120000, 0, 9, 0⟩
def F.BRG_IRQ_PERST : Fld := ⟨0x120004, 7, 1, 0⟩
def F.BRG_IRQ_LINK : Fld := ⟨0x120004, 6, 1, 0⟩
def F.BRG_IRQ_AER : Fld := ⟨0x120004, 5, 1, 0⟩
def F.BRG_IRQ_LOCKTMO : Fld := ⟨0x120004, 4, 1, 0⟩
def F.BRG_IRQ_XLOCK : Fld := ⟨0x120004, 3, 1, 0⟩
def F.BRG_IRQ_PFNAK : Fld := ⟨0x120004, 2, 1, 0⟩
def F.BRG_IRQ_SRTMO : Fld := ⟨0x120004, 1, 1, 0⟩
def F.BRG_IRQ_PWERR : Fld := ⟨0x120004, 0, 1, 0⟩
def F.BRG_IRQ_EN_EN : Fld := ⟨0x120008, 0, 8, 0⟩
def F.BRG_TMO_SR_TMO : Fld := ⟨0x12000c, 16, 16, 0xc8⟩
def F.BRG_TMO_PF_TMO : Fld := ⟨0x12000c, 8, 8, 0xa⟩
def F.BRG_TMO_RUNAHEAD : Fld := ⟨0x12000c, 0, 6, 8⟩
def F.BRG_TAGS_DMALIM : Fld := ⟨0x120010, 0, 8, 0xc0⟩
def F.BRG_LOCKCFG_LOCK_TRIES : Fld := ⟨0x120014, 24, 8, 0x40⟩
def F.BRG_LOCKCFG_LOCK_TMO : Fld := ⟨0x120014, 0, 16, 0x64⟩
def F.BRG_VEC_LOCAL : Fld := ⟨0x120018, 24, 6, 0⟩
def F.BRG_VEC_HDONE : Fld := ⟨0x120018, 16, 6, 1⟩
def F.BRG_VEC_ERR : Fld := ⟨0x120018, 8, 6, 2⟩
def F.BRG_VEC_DMX : Fld := ⟨0x120018, 0, 6, 3⟩
def F.BRG_PWERR_CAPT : Fld := ⟨0x12001c, 31, 1, 0⟩
def F.BRG_PWERR_OVF : Fld := ⟨0x12001c, 30, 1, 0⟩
def F.BRG_PWERR_INIT : Fld := ⟨0x12001c, 28, 2, 0⟩
def F.BRG_PWERR_CODE : Fld := ⟨0x12001c, 0, 16, 0⟩
def F.BRG_PWERR_ADDR_LO_ADDR : Fld := ⟨0x120020, 0, 32, 0⟩
def F.BRG_PWERR_ADDR_HI_ADDR : Fld := ⟨0x120024, 0, 24, 0⟩
def F.BRG_CNT0_TAGWAIT : Fld := ⟨0x12002c, 16, 16, 0⟩
def F.BRG_CNT0_PFNAK : Fld := ⟨0x12002c, 0, 16, 0⟩
def F.BRG_CNT1_XLOCK : Fld := ⟨0x120030, 16, 16, 0⟩
def F.BRG_CNT1_LOCKBUSY : Fld := ⟨0x120030, 0, 16, 0⟩
def F.BRG_CNT2_SRTMO : Fld := ⟨0x120034, 16, 16, 0⟩
def F.BRG_CNT2_LATE_RSP : Fld := ⟨0x120034, 0, 16, 0⟩
def F.BRG_RPEND_LO_BASE : Fld := ⟨0x120038, 0, 32, 0⟩
def F.BRG_RPEND_HI_BASE : Fld := ⟨0x12003c, 0, 32, 0⟩
def F.BRG_HMASK_MASK : Fld := ⟨0x120040, 0, 32, 0xfffc0000⟩
def F.BRG_SEM_HELD : Fld := ⟨0x120044, 0, 6, 0⟩
def F.BRG_RGRPg_EN (n : Nat) : Fld := ⟨0x120080 + 4 * n, 31, 1, 0⟩
def F.BRG_RGRPg_VEC (n : Nat) : Fld := ⟨0x120080 + 4 * n, 0, 6, 0⟩
def F.BRG_Wn_BASE_LO_BASE (n : Nat) : Fld := ⟨0x120200 + 0x10 * n, 12, 20, 0⟩
def F.BRG_Wn_BASE_HI_BASE (n : Nat) : Fld := ⟨0x120204 + 0x10 * n, 0, 24, 0⟩
def F.BRG_Wn_CFG_EN (n : Nat) : Fld := ⟨0x120208 + 0x10 * n, 31, 1, 0⟩
def F.BRG_Wn_CFG_P (n : Nat) : Fld := ⟨0x120208 + 0x10 * n, 30, 1, 0⟩
def F.BRG_Wn_CFG_POLL (n : Nat) : Fld := ⟨0x120208 + 0x10 * n, 29, 1, 0⟩
def F.BRG_Wn_CFG_LIMIT (n : Nat) : Fld := ⟨0x120208 + 0x10 * n, 0, 16, 0xffff⟩
def F.BRG_SRD_CTL_GO (b : Nat) : Fld := ⟨0x120300 + 0x10000000 * b, 31, 1, 0⟩
def F.BRG_SRD_CTL_OP (b : Nat) : Fld := ⟨0x120300 + 0x10000000 * b, 16, 3, 0⟩
def F.BRG_SRD_CTL_ATOM (b : Nat) : Fld := ⟨0x120300 + 0x10000000 * b, 12, 3, 0⟩
def F.BRG_SRD_CTL_BYTES (b : Nat) : Fld := ⟨0x120300 + 0x10000000 * b, 0, 4, 0⟩
def F.BRG_SRD_ADDR_LO_ADDR (b : Nat) : Fld := ⟨0x120304 + 0x10000000 * b, 0, 32, 0⟩
def F.BRG_SRD_ADDR_HI_ADDR (b : Nat) : Fld := ⟨0x120308 + 0x10000000 * b, 0, 32, 0⟩
def F.BRG_SRD_WDATA_LO_WDATA (b : Nat) : Fld := ⟨0x12030c + 0x10000000 * b, 0, 32, 0⟩
def F.BRG_SRD_WDATA_HI_WDATA (b : Nat) : Fld := ⟨0x120310 + 0x10000000 * b, 0, 32, 0⟩
def F.BRG_SRD_RES_VALID (b : Nat) : Fld := ⟨0x120314 + 0x10000000 * b, 31, 1, 0⟩
def F.BRG_SRD_RES_STALE (b : Nat) : Fld := ⟨0x120314 + 0x10000000 * b, 30, 1, 0⟩
def F.BRG_SRD_RES_SEQ (b : Nat) : Fld := ⟨0x120314 + 0x10000000 * b, 16, 8, 0⟩
def F.BRG_SRD_RES_CODE (b : Nat) : Fld := ⟨0x120314 + 0x10000000 * b, 0, 16, 0⟩
/-- Result register (R40), 12_bridge_and_dma.md R323. -/
def RR.BRG_SRD_RES (b : Nat) : Nat := 0x120314 + 0x10000000 * b
def F.BRG_SRD_RDATA_LO_RDATA (b : Nat) : Fld := ⟨0x120318 + 0x10000000 * b, 0, 32, 0⟩
def F.BRG_SRD_RDATA_HI_RDATA (b : Nat) : Fld := ⟨0x12031c + 0x10000000 * b, 0, 32, 0⟩
/-! DMX, 12_bridge_and_dma.md -/

def F.DMX_CTL_ENG_EN : Fld := ⟨0x130000, 0, 16, 0xffff⟩
def F.DMX_STATUS_READY : Fld := ⟨0x130004, 20, 12, 0⟩
def F.DMX_STATUS_FAULTED : Fld := ⟨0x130004, 8, 12, 0⟩
def F.DMX_STATUS_RUNNING : Fld := ⟨0x130004, 0, 5, 0⟩
def F.DMX_IRQ_REWIND : Fld := ⟨0x130008, 4, 1, 0⟩
def F.DMX_IRQ_FQOVF : Fld := ⟨0x130008, 3, 1, 0⟩
def F.DMX_IRQ_ERROR : Fld := ⟨0x130008, 2, 1, 0⟩
def F.DMX_IRQ_DONE : Fld := ⟨0x130008, 1, 1, 0⟩
def F.DMX_IRQ_FAULT : Fld := ⟨0x130008, 0, 1, 0⟩
def F.DMX_IRQ_EN_EN : Fld := ⟨0x13000c, 0, 5, 0⟩
def F.DMX_DB_CTX : Fld := ⟨0x130010, 16, 12, 0⟩
def F.DMX_DB_TAIL : Fld := ⟨0x130010, 0, 12, 0⟩
def F.DMX_CMD_GO (b : Nat) : Fld := ⟨0x130014 + 0x10000000 * b, 31, 1, 0⟩
def F.DMX_CMD_OP (b : Nat) : Fld := ⟨0x130014 + 0x10000000 * b, 16, 3, 0⟩
def F.DMX_CMD_CTX (b : Nat) : Fld := ⟨0x130014 + 0x10000000 * b, 0, 12, 0⟩
def F.DMX_CMD_RES_VALID (b : Nat) : Fld := ⟨0x130018 + 0x10000000 * b, 31, 1, 0⟩
def F.DMX_CMD_RES_STALE (b : Nat) : Fld := ⟨0x130018 + 0x10000000 * b, 30, 1, 0⟩
def F.DMX_CMD_RES_SEQ (b : Nat) : Fld := ⟨0x130018 + 0x10000000 * b, 16, 8, 0⟩
def F.DMX_CMD_RES_CODE (b : Nat) : Fld := ⟨0x130018 + 0x10000000 * b, 0, 16, 0⟩
/-- Result register (R40), 12_bridge_and_dma.md R344. -/
def RR.DMX_CMD_RES (b : Nat) : Nat := 0x130018 + 0x10000000 * b
def F.DMX_TMO_DMA_TMO : Fld := ⟨0x13001c, 16, 16, 0x1f4⟩
def F.DMX_TMO_DMA_RETRY : Fld := ⟨0x13001c, 0, 8, 8⟩
def F.DMX_FQ_LEVEL_OVF : Fld := ⟨0x130020, 16, 16, 0⟩
def F.DMX_FQ_LEVEL_LEVEL : Fld := ⟨0x130020, 0, 7, 0⟩
def F.DMX_FQ_POP_POP : Fld := ⟨0x130024, 0, 1, 0⟩
def F.DMX_FQ_REC (n : Nat) : Fld := ⟨0x130040 + 4 * n, 0, 32, 0⟩
def F.DMX_TCACHE_LOCKED : Fld := ⟨0x130060, 24, 8, 0⟩
def F.DMX_TCACHE_VALID : Fld := ⟨0x130060, 0, 10, 0⟩
def F.DMX_CNT0_PREEMPT : Fld := ⟨0x130064, 16, 16, 0⟩
def F.DMX_CNT0_FAULT : Fld := ⟨0x130064, 0, 16, 0⟩
def F.DMX_CNT1_REWIND : Fld := ⟨0x130068, 16, 16, 0⟩
def F.DMX_CNT1_WALK : Fld := ⟨0x130068, 0, 16, 0⟩
def F.DMX_Ee_BUSY (n : Nat) : Fld := ⟨0x130100 + 4 * n, 31, 1, 0⟩
def F.DMX_Ee_CTX (n : Nat) : Fld := ⟨0x130100 + 4 * n, 0, 12, 0⟩
/-! CPH, 13_security.md -/

def F.CPH_CTL_HOSTW : Fld := ⟨0x140000, 8, 4, 4⟩
def F.CPH_CTL_CORE_EN : Fld := ⟨0x140000, 0, 8, 0xff⟩
def F.CPH_STATUS_BUSY : Fld := ⟨0x140004, 24, 8, 0⟩
def F.CPH_STATUS_QFRM : Fld := ⟨0x140004, 8, 8, 0⟩
def F.CPH_STATUS_QHOST : Fld := ⟨0x140004, 0, 2, 0⟩
def F.CPH_IRQ_HOSTDONE : Fld := ⟨0x140008, 3, 1, 0⟩
def F.CPH_IRQ_LIMIT : Fld := ⟨0x140008, 2, 1, 0⟩
def F.CPH_IRQ_TAMPDROP : Fld := ⟨0x140008, 1, 1, 0⟩
def F.CPH_IRQ_AUTHFAIL : Fld := ⟨0x140008, 0, 1, 0⟩
def F.CPH_IRQ_EN_EN : Fld := ⟨0x14000c, 0, 4, 0⟩
def F.CPH_CNT0_AUTHFAIL : Fld := ⟨0x140010, 16, 16, 0⟩
def F.CPH_CNT0_LIMIT : Fld := ⟨0x140010, 0, 16, 0⟩
def F.CPH_CNT1_TAMPDROP : Fld := ⟨0x140014, 16, 16, 0⟩
def F.CPH_CNT1_HOSTFAIL : Fld := ⟨0x140014, 0, 16, 0⟩
def F.CPH_AUTH_SRC : Fld := ⟨0x140018, 20, 12, 0⟩
def F.CPH_AUTH_KEPOCH : Fld := ⟨0x140018, 16, 4, 0⟩
def F.CPH_AUTH_SLOT : Fld := ⟨0x140018, 0, 8, 0⟩
def F.CPH_OP_GO (b : Nat) : Fld := ⟨0x140100 + 0x10000000 * b, 31, 1, 0⟩
def F.CPH_OP_OP (b : Nat) : Fld := ⟨0x140100 + 0x10000000 * b, 16, 2, 0⟩
def F.CPH_OP_SLOT (b : Nat) : Fld := ⟨0x140100 + 0x10000000 * b, 0, 8, 0⟩
def F.CPH_SRC_OFFSET (b : Nat) : Fld := ⟨0x140104 + 0x10000000 * b, 0, 22, 0⟩
def F.CPH_DST_OFFSET (b : Nat) : Fld := ⟨0x140108 + 0x10000000 * b, 0, 22, 0⟩
def F.CPH_LEN_AADLEN (b : Nat) : Fld := ⟨0x14010c + 0x10000000 * b, 16, 11, 0⟩
def F.CPH_LEN_LEN (b : Nat) : Fld := ⟨0x14010c + 0x10000000 * b, 0, 15, 0⟩
def F.CPH_NONCE_NONCE (b n : Nat) : Fld := ⟨0x140110 + 0x10000000 * b + 4 * n, 0, 32, 0⟩
def F.CPH_TAG_TAG (b n : Nat) : Fld := ⟨0x140120 + 0x10000000 * b + 4 * n, 0, 32, 0⟩
def F.CPH_RES_VALID (b : Nat) : Fld := ⟨0x140130 + 0x10000000 * b, 31, 1, 0⟩
def F.CPH_RES_STALE (b : Nat) : Fld := ⟨0x140130 + 0x10000000 * b, 30, 1, 0⟩
def F.CPH_RES_SEQ (b : Nat) : Fld := ⟨0x140130 + 0x10000000 * b, 16, 8, 0⟩
def F.CPH_RES_CODE (b : Nat) : Fld := ⟨0x140130 + 0x10000000 * b, 0, 16, 0⟩
/-- Result register (R40), 13_security.md R372. -/
def RR.CPH_RES (b : Nat) : Nat := 0x140130 + 0x10000000 * b
/-! KEY, 13_security.md -/

def F.KEY_STATUS_LC : Fld := ⟨0x150000, 29, 3, 0⟩
def F.KEY_STATUS_ROOT_OK : Fld := ⟨0x150000, 28, 1, 0⟩
def F.KEY_STATUS_TLATCH : Fld := ⟨0x150000, 27, 1, 0⟩
def F.KEY_STATUS_BUSY : Fld := ⟨0x150000, 26, 1, 0⟩
def F.KEY_STATUS_LOADED : Fld := ⟨0x150000, 16, 9, 0⟩
def F.KEY_IRQ_ZEROISED : Fld := ⟨0x150004, 5, 1, 0⟩
def F.KEY_IRQ_DERIVED : Fld := ⟨0x150004, 4, 1, 0⟩
def F.KEY_IRQ_LOADFAIL : Fld := ⟨0x150004, 3, 1, 0⟩
def F.KEY_IRQ_EXHAUST : Fld := ⟨0x150004, 2, 1, 0⟩
def F.KEY_IRQ_WARN : Fld := ⟨0x150004, 1, 1, 0⟩
def F.KEY_IRQ_DONE : Fld := ⟨0x150004, 0, 1, 0⟩
def F.KEY_IRQ_EN_EN : Fld := ⟨0x150008, 0, 6, 0⟩
def F.KEY_CMD_GO (b : Nat) : Fld := ⟨0x15000c + 0x10000000 * b, 31, 1, 0⟩
def F.KEY_CMD_OP (b : Nat) : Fld := ⟨0x15000c + 0x10000000 * b, 16, 4, 0⟩
def F.KEY_CMD_RECORD (b : Nat) : Fld := ⟨0x15000c + 0x10000000 * b, 8, 8, 0⟩
def F.KEY_CMD_SLOT (b : Nat) : Fld := ⟨0x15000c + 0x10000000 * b, 0, 8, 0⟩
def F.KEY_RES_VALID (b : Nat) : Fld := ⟨0x150010 + 0x10000000 * b, 31, 1, 0⟩
def F.KEY_RES_STALE (b : Nat) : Fld := ⟨0x150010 + 0x10000000 * b, 30, 1, 0⟩
def F.KEY_RES_SEQ (b : Nat) : Fld := ⟨0x150010 + 0x10000000 * b, 16, 8, 0⟩
def F.KEY_RES_CODE (b : Nat) : Fld := ⟨0x150010 + 0x10000000 * b, 0, 16, 0⟩
/-- Result register (R40), 13_security.md R374. -/
def RR.KEY_RES (b : Nat) : Nat := 0x150010 + 0x10000000 * b
def F.KEY_LC_NONCE_NONCE (n : Nat) : Fld := ⟨0x150020 + 4 * n, 0, 32, 0⟩
def F.KEY_WARNk_SLOT (n : Nat) : Fld := ⟨0x150040 + 4 * n, 0, 32, 0⟩
def F.KEY_EXHk_SLOT (n : Nat) : Fld := ⟨0x150060 + 4 * n, 0, 32, 0⟩
def F.KEY_STAGE_DATA (n : Nat) : Fld := ⟨0x150800 + 4 * n, 0, 32, 0⟩
def F.KEY_Sn_INFO_VALID (n : Nat) : Fld := ⟨0x151000 + 0x20 * n, 31, 1, 0⟩
def F.KEY_Sn_INFO_ATTR (n : Nat) : Fld := ⟨0x151000 + 0x20 * n, 28, 3, 0⟩
def F.KEY_Sn_INFO_DATTR (n : Nat) : Fld := ⟨0x151000 + 0x20 * n, 24, 3, 0⟩
def F.KEY_Sn_INFO_E0 (n : Nat) : Fld := ⟨0x151000 + 0x20 * n, 20, 4, 0⟩
def F.KEY_Sn_INFO_E1 (n : Nat) : Fld := ⟨0x151000 + 0x20 * n, 16, 4, 0⟩
def F.KEY_Sn_INFO_E0V (n : Nat) : Fld := ⟨0x151000 + 0x20 * n, 15, 1, 0⟩
def F.KEY_Sn_INFO_E1V (n : Nat) : Fld := ⟨0x151000 + 0x20 * n, 14, 1, 0⟩
def F.KEY_Sn_INFO_RECORD (n : Nat) : Fld := ⟨0x151000 + 0x20 * n, 0, 8, 0⟩
def F.KEY_Sn_ID_LO_KEY_ID (n : Nat) : Fld := ⟨0x151004 + 0x20 * n, 0, 32, 0⟩
def F.KEY_Sn_ID_HI_KEY_ID (n : Nat) : Fld := ⟨0x151008 + 0x20 * n, 0, 32, 0⟩
def F.KEY_Sn_LIMIT_LIMIT (n : Nat) : Fld := ⟨0x15100c + 0x20 * n, 0, 32, 0⟩
def F.KEY_Sn_USE0_USE (n : Nat) : Fld := ⟨0x151010 + 0x20 * n, 0, 32, 0⟩
def F.KEY_Sn_USE1_USE (n : Nat) : Fld := ⟨0x151014 + 0x20 * n, 0, 32, 0⟩
/-! STT, 14_stations_and_twins.md -/

def F.STT_CTL_FREL : Fld := ⟨0x160000, 2, 1, 0⟩
def F.STT_CTL_RESYNC : Fld := ⟨0x160000, 1, 1, 0⟩
def F.STT_CTL_RESIGN : Fld := ⟨0x160000, 0, 1, 0⟩
def F.STT_STATUS_ROLE : Fld := ⟨0x160004, 29, 3, 0⟩
def F.STT_STATUS_FENCE_IN : Fld := ⟨0x160004, 28, 1, 0⟩
def F.STT_STATUS_RFENCE : Fld := ⟨0x160004, 27, 1, 0⟩
def F.STT_STATUS_FDRV : Fld := ⟨0x160004, 26, 1, 0⟩
def F.STT_STATUS_CLAIM : Fld := ⟨0x160004, 25, 1, 0⟩
def F.STT_STATUS_HASHMM : Fld := ⟨0x160004, 24, 1, 0⟩
def F.STT_STATUS_PARTNER : Fld := ⟨0x160004, 22, 2, 0⟩
def F.STT_STATUS_RINGPOS : Fld := ⟨0x160004, 20, 2, 0⟩
def F.STT_STATUS_TWIN_EN : Fld := ⟨0x160004, 19, 1, 0⟩
def F.STT_STATUS_REF : Fld := ⟨0x160004, 18, 1, 0⟩
def F.STT_STATUS_COPY_AGE : Fld := ⟨0x160004, 0, 8, 0⟩
def F.STT_IRQ_NOIMG : Fld := ⟨0x160008, 10, 1, 0⟩
def F.STT_IRQ_REFOVF : Fld := ⟨0x160008, 9, 1, 0⟩
def F.STT_IRQ_REFQ : Fld := ⟨0x160008, 8, 1, 0⟩
def F.STT_IRQ_STLINK : Fld := ⟨0x160008, 7, 1, 0⟩
def F.STT_IRQ_ELIGLOST : Fld := ⟨0x160008, 6, 1, 0⟩
def F.STT_IRQ_COPYLATE : Fld := ⟨0x160008, 5, 1, 0⟩
def F.STT_IRQ_CLAIMTMO : Fld := ⟨0x160008, 4, 1, 0⟩
def F.STT_IRQ_CLAIMREF : Fld := ⟨0x160008, 3, 1, 0⟩
def F.STT_IRQ_FENCED : Fld := ⟨0x160008, 2, 1, 0⟩
def F.STT_IRQ_TAKEOVER : Fld := ⟨0x160008, 1, 1, 0⟩
def F.STT_IRQ_ROLE : Fld := ⟨0x160008, 0, 1, 0⟩
def F.STT_IRQ_EN_EN : Fld := ⟨0x16000c, 0, 11, 0⟩
def F.STT_HREP_ELIG : Fld := ⟨0x160010, 31, 1, 0⟩
def F.STT_HREP_SNAP : Fld := ⟨0x160010, 9, 1, 0⟩
def F.STT_HREP_HV : Fld := ⟨0x160010, 8, 1, 0⟩
def F.STT_HREP_ALM : Fld := ⟨0x160010, 7, 1, 0⟩
def F.STT_HREP_TIME : Fld := ⟨0x160010, 6, 1, 0⟩
def F.STT_HREP_TWINHASH : Fld := ⟨0x160010, 5, 1, 0⟩
def F.STT_HREP_COPY : Fld := ⟨0x160010, 4, 1, 0⟩
def F.STT_HREP_SERDES : Fld := ⟨0x160010, 3, 1, 0⟩
def F.STT_HREP_LOOP : Fld := ⟨0x160010, 2, 1, 0⟩
def F.STT_HREP_LOCKSTEP : Fld := ⟨0x160010, 1, 1, 0⟩
def F.STT_HREP_MBIST : Fld := ⟨0x160010, 0, 1, 0⟩
def F.STT_PEER_ELIG : Fld := ⟨0x160014, 31, 1, 0⟩
def F.STT_PEER_SNAP : Fld := ⟨0x160014, 9, 1, 0⟩
def F.STT_PEER_HV : Fld := ⟨0x160014, 8, 1, 0⟩
def F.STT_PEER_ALM : Fld := ⟨0x160014, 7, 1, 0⟩
def F.STT_PEER_TIME : Fld := ⟨0x160014, 6, 1, 0⟩
def F.STT_PEER_TWINHASH : Fld := ⟨0x160014, 5, 1, 0⟩
def F.STT_PEER_COPY : Fld := ⟨0x160014, 4, 1, 0⟩
def F.STT_PEER_SERDES : Fld := ⟨0x160014, 3, 1, 0⟩
def F.STT_PEER_LOOP : Fld := ⟨0x160014, 2, 1, 0⟩
def F.STT_PEER_LOCKSTEP : Fld := ⟨0x160014, 1, 1, 0⟩
def F.STT_PEER_MBIST : Fld := ⟨0x160014, 0, 1, 0⟩
def F.STT_PEER_IN_REPORT : Fld := ⟨0x160018, 0, 32, 0⟩
def F.STT_COPY_VALUE : Fld := ⟨0x16001c, 0, 32, 0⟩
def F.STT_THASH_VALUE : Fld := ⟨0x160020, 0, 32, 0⟩
def F.STT_CFG_FENCE_HOLD : Fld := ⟨0x160024, 0, 16, 0x14⟩
def F.STT_CNT0_COPYLATE : Fld := ⟨0x160028, 16, 16, 0⟩
def F.STT_CNT0_CLAIMS : Fld := ⟨0x160028, 0, 16, 0⟩
def F.STT_CNT1_NOIMG : Fld := ⟨0x16002c, 16, 16, 0⟩
def F.STT_CNT1_OUTLATE : Fld := ⟨0x16002c, 8, 8, 0⟩
def F.STT_CNT1_BADREF : Fld := ⟨0x16002c, 0, 8, 0⟩
def F.STT_TAKE_CYC_VALUE : Fld := ⟨0x160030, 0, 32, 0⟩
def F.STT_TAKE_TIME (n : Nat) : Fld := ⟨0x160034 + 4 * n, 0, 32, 0⟩
def F.STT_CLAIM_WORD : Fld := ⟨0x160040, 0, 32, 0⟩
def F.STT_REFCMD_WORD : Fld := ⟨0x160044, 0, 32, 0⟩
def F.STT_REFQ0_CLAIM : Fld := ⟨0x160048, 0, 32, 0⟩
def F.STT_REFQ1_VALID : Fld := ⟨0x16004c, 31, 1, 0⟩
def F.STT_REFQ1_DECISION : Fld := ⟨0x16004c, 28, 3, 0⟩
def F.STT_REFQ1_CODE : Fld := ⟨0x16004c, 0, 16, 0⟩
def F.STT_REFQ_POP_POP : Fld := ⟨0x160050, 0, 1, 0⟩
def F.STT_ORDER_WORD : Fld := ⟨0x160054, 0, 32, 0⟩
def F.STT_REF_LO_REFBASE : Fld := ⟨0x160058, 0, 32, 0⟩
def F.STT_REF_HI_REFBASE : Fld := ⟨0x16005c, 0, 32, 0⟩
def F.STT_Pk_CFG_USED (n : Nat) : Fld := ⟨0x160100 + 0x20 * n, 31, 1, 0⟩
def F.STT_Pk_CFG_GBX (n : Nat) : Fld := ⟨0x160100 + 0x20 * n, 30, 1, 0⟩
def F.STT_Pk_CFG_FEC (n : Nat) : Fld := ⟨0x160100 + 0x20 * n, 29, 1, 0⟩
def F.STT_Pk_CFG_AN (n : Nat) : Fld := ⟨0x160100 + 0x20 * n, 28, 1, 0⟩
def F.STT_Pk_CFG_PEER (n : Nat) : Fld := ⟨0x160100 + 0x20 * n, 22, 2, 0⟩
def F.STT_Pk_STATUS_STATE (n : Nat) : Fld := ⟨0x160104 + 0x20 * n, 30, 2, 0⟩
def F.STT_Pk_STATUS_LOCK (n : Nat) : Fld := ⟨0x160104 + 0x20 * n, 29, 1, 0⟩
def F.STT_Pk_STATUS_LF (n : Nat) : Fld := ⟨0x160104 + 0x20 * n, 28, 1, 0⟩
def F.STT_Pk_STATUS_RF (n : Nat) : Fld := ⟨0x160104 + 0x20 * n, 27, 1, 0⟩
def F.STT_Pk_STATUS_HB (n : Nat) : Fld := ⟨0x160104 + 0x20 * n, 26, 1, 0⟩
def F.STT_Pk_STATUS_RPL_USED (n : Nat) : Fld := ⟨0x160104 + 0x20 * n, 0, 13, 0⟩
def F.STT_Pk_CNT0_NAKTX (n : Nat) : Fld := ⟨0x160108 + 0x20 * n, 16, 16, 0⟩
def F.STT_Pk_CNT0_REPLAY (n : Nat) : Fld := ⟨0x160108 + 0x20 * n, 0, 16, 0⟩
def F.STT_Pk_CNT1_FCS (n : Nat) : Fld := ⟨0x16010c + 0x20 * n, 16, 16, 0⟩
def F.STT_Pk_CNT1_HCRC (n : Nat) : Fld := ⟨0x16010c + 0x20 * n, 0, 16, 0⟩
/-! PWR, 16_power_boot_update.md -/

def F.PWR_CTL_STANDBY : Fld := ⟨0x170000, 1, 1, 0⟩
def F.PWR_CTL_GOV_EN : Fld := ⟨0x170000, 0, 1, 0⟩
def F.PWR_GUARD_GUARD : Fld := ⟨0x170004, 0, 16, 0x64⟩
def F.PWR_IRQ_LISTBAD : Fld := ⟨0x170008, 2, 1, 0⟩
def F.PWR_IRQ_STALE : Fld := ⟨0x170008, 1, 1, 0⟩
def F.PWR_IRQ_WAKELATE : Fld := ⟨0x170008, 0, 1, 0⟩
def F.PWR_IRQ_EN_EN : Fld := ⟨0x17000c, 0, 3, 0⟩
def F.PWR_RES_VALID : Fld := ⟨0x170010, 31, 1, 0⟩
def F.PWR_RES_STALE : Fld := ⟨0x170010, 30, 1, 0⟩
def F.PWR_RES_SEQ : Fld := ⟨0x170010, 16, 8, 0⟩
def F.PWR_RES_CODE : Fld := ⟨0x170010, 0, 16, 0⟩
/-- Result register (R40), 16_power_boot_update.md R437. -/
def RR.PWR_RES : Nat := 0x170010
def F.PWR_WAKE_TMR_MS : Fld := ⟨0x170014, 0, 32, 0⟩
def F.PWR_CNT_WAKELATE : Fld := ⟨0x170018, 16, 16, 0⟩
def F.PWR_CNT_STALE : Fld := ⟨0x170018, 0, 16, 0⟩
def F.PWR_STATEk_STATE (n : Nat) : Fld := ⟨0x170020 + 4 * n, 0, 32, 0xffffffff⟩
def F.PWR_Sn_CFG_MAXST (n : Nat) : Fld := ⟨0x170100 + 0x10 * n, 30, 2, 3⟩
def F.PWR_Sn_CFG_WOE (n : Nat) : Fld := ⟨0x170100 + 0x10 * n, 0, 16, 0⟩
def F.PWR_Sn_STAT_STATE (n : Nat) : Fld := ⟨0x170104 + 0x10 * n, 30, 2, 3⟩
def F.PWR_Sn_STAT_STALE (n : Nat) : Fld := ⟨0x170104 + 0x10 * n, 29, 1, 0⟩
def F.PWR_Sn_STAT_LISTOK (n : Nat) : Fld := ⟨0x170104 + 0x10 * n, 28, 1, 0⟩
def F.PWR_Sn_STAT_RSEQ (n : Nat) : Fld := ⟨0x170104 + 0x10 * n, 8, 8, 0⟩
def F.PWR_Sn_LIST_OFFSET (n : Nat) : Fld := ⟨0x170108 + 0x10 * n, 0, 22, 0⟩
def F.PWR_Sn_CNT_DOZE (n : Nat) : Fld := ⟨0x17010c + 0x10 * n, 24, 8, 0⟩
def F.PWR_Sn_CNT_NAP (n : Nat) : Fld := ⟨0x17010c + 0x10 * n, 16, 8, 0⟩
def F.PWR_Sn_CNT_HIB (n : Nat) : Fld := ⟨0x17010c + 0x10 * n, 8, 8, 0⟩
def F.PWR_Sn_CNT_WAKELATE (n : Nat) : Fld := ⟨0x17010c + 0x10 * n, 0, 8, 0⟩
/-! VGL, 13_security.md -/

def F.VGL_STATUS_TLATCH : Fld := ⟨0x180000, 31, 1, 0⟩
def F.VGL_STATUS_TSAFE : Fld := ⟨0x180000, 30, 1, 0⟩
def F.VGL_STATUS_PHASE : Fld := ⟨0x180000, 28, 2, 0⟩
def F.VGL_STATUS_VBAT_LOW : Fld := ⟨0x180000, 27, 1, 0⟩
def F.VGL_STATUS_ACTIVE : Fld := ⟨0x180000, 8, 8, 0⟩
def F.VGL_IRQ_TSAFE_END : Fld := ⟨0x180004, 2, 1, 0⟩
def F.VGL_IRQ_VBATLOW : Fld := ⟨0x180004, 1, 1, 0⟩
def F.VGL_IRQ_TAMPER : Fld := ⟨0x180004, 0, 1, 0⟩
def F.VGL_IRQ_EN_EN : Fld := ⟨0x180008, 0, 3, 0⟩
def F.VGL_CTL_TSAFE_CLR : Fld := ⟨0x18000c, 0, 1, 0⟩
def F.VGL_TCFG_EN : Fld := ⟨0x180010, 16, 8, 0xf0⟩
def F.VGL_TCFG_POL : Fld := ⟨0x180010, 12, 4, 0⟩
def F.VGL_TCFG_DEB : Fld := ⟨0x180010, 0, 8, 0xa⟩
def F.VGL_TEMP_THIGH : Fld := ⟨0x180014, 16, 16, 0x87⟩
def F.VGL_TEMP_TLOW : Fld := ⟨0x180014, 0, 16, 0xffce⟩
def F.VGL_TLOG_COUNT : Fld := ⟨0x180018, 16, 8, 0⟩
def F.VGL_TLOG_CODE : Fld := ⟨0x180018, 0, 16, 0⟩
def F.VGL_TTIME_TIME (n : Nat) : Fld := ⟨0x18001c + 4 * n, 0, 32, 0⟩
def F.VGL_VBAT_MV : Fld := ⟨0x180028, 0, 16, 0⟩
/-! UPD, 16_power_boot_update.md -/

def F.UPD_BOOT_REASON : Fld := ⟨0x190000, 28, 4, 0⟩
def F.UPD_BOOT_BOOT_SRC : Fld := ⟨0x190000, 26, 2, 0⟩
def F.UPD_BOOT_STAGE : Fld := ⟨0x190000, 23, 3, 0⟩
def F.UPD_BOOT_CODE : Fld := ⟨0x190000, 0, 16, 0⟩
def F.UPD_CTL_LEGACY : Fld := ⟨0x190004, 2, 1, 0⟩
def F.UPD_CTL_SYSRST : Fld := ⟨0x190004, 0, 1, 0⟩
def F.UPD_IRQ_SVN : Fld := ⟨0x190008, 2, 1, 0⟩
def F.UPD_IRQ_MBOX : Fld := ⟨0x190008, 1, 1, 0⟩
def F.UPD_IRQ_ELDONE : Fld := ⟨0x190008, 0, 1, 0⟩
def F.UPD_IRQ_EN_EN : Fld := ⟨0x19000c, 0, 3, 0⟩
def F.UPD_ELOAD_GO : Fld := ⟨0x190010, 31, 1, 0⟩
def F.UPD_ELOAD_CLASS : Fld := ⟨0x190010, 16, 3, 0⟩
def F.UPD_ELOAD_SRC_OFFSET : Fld := ⟨0x190014, 0, 22, 0⟩
def F.UPD_ELOAD_RES_VALID : Fld := ⟨0x190018, 31, 1, 0⟩
def F.UPD_ELOAD_RES_STALE : Fld := ⟨0x190018, 30, 1, 0⟩
def F.UPD_ELOAD_RES_SEQ : Fld := ⟨0x190018, 16, 8, 0⟩
def F.UPD_ELOAD_RES_CODE : Fld := ⟨0x190018, 0, 16, 0⟩
/-- Result register (R40), 16_power_boot_update.md R440. -/
def RR.UPD_ELOAD_RES : Nat := 0x190018
def F.UPD_VERc_VERSION (n : Nat) : Fld := ⟨0x190020 + 4 * n, 0, 32, 0⟩
def F.UPD_SVNc_IMG (n : Nat) : Fld := ⟨0x190040 + 4 * n, 8, 8, 0⟩
def F.UPD_SVNc_FLOOR (n : Nat) : Fld := ⟨0x190040 + 4 * n, 0, 8, 0⟩
def F.UPD_KEYS_REVOKED : Fld := ⟨0x190060, 4, 4, 0⟩
def F.UPD_KEYS_PROV : Fld := ⟨0x190060, 0, 4, 0⟩
def F.UPD_SVC_ADDR : Fld := ⟨0x190064, 0, 32, 0⟩
def F.UPD_RECOV_NEED : Fld := ⟨0x190068, 1, 5, 0⟩
def F.UPD_MBOX_ARG (n : Nat) : Fld := ⟨0x190070 + 4 * n, 0, 32, 0⟩
def F.UPD_MBOX_GO_GO : Fld := ⟨0x190090, 0, 1, 0⟩
def F.UPD_MBOX_RES_RES : Fld := ⟨0x190094, 0, 32, 0⟩
def F.UPD_RCMD_GO : Fld := ⟨0x1900a0, 31, 1, 0⟩
def F.UPD_RCMD_LEN : Fld := ⟨0x1900a0, 0, 12, 0⟩
def F.UPD_RRES_VALID : Fld := ⟨0x1900a4, 31, 1, 0⟩
def F.UPD_RRES_STALE : Fld := ⟨0x1900a4, 30, 1, 0⟩
def F.UPD_RRES_SEQ : Fld := ⟨0x1900a4, 16, 8, 0⟩
def F.UPD_RRES_CODE : Fld := ⟨0x1900a4, 0, 16, 0⟩
/-- Result register (R40), 16_power_boot_update.md R453. -/
def RR.UPD_RRES : Nat := 0x1900a4
def F.UPD_RBUF_DATA (n : Nat) : Fld := ⟨0x191000 + 4 * n, 0, 32, 0⟩
def F.UPD_ROUT_DATA (n : Nat) : Fld := ⟨0x192000 + 4 * n, 0, 32, 0⟩
/-! BOM, 15_faults_and_boom.md -/

def F.BOM_CTL_BG_EN : Fld := ⟨0x1a0000, 1, 1, 0⟩
def F.BOM_CTL_STREAM_EN : Fld := ⟨0x1a0000, 0, 1, 0⟩
def F.BOM_WPTR_INDEX : Fld := ⟨0x1a0004, 0, 32, 0⟩
def F.BOM_IRQ_TEST : Fld := ⟨0x1a0008, 3, 1, 0⟩
def F.BOM_IRQ_QLOST : Fld := ⟨0x1a0008, 2, 1, 0⟩
def F.BOM_IRQ_OVT : Fld := ⟨0x1a0008, 1, 1, 0⟩
def F.BOM_IRQ_FAULT : Fld := ⟨0x1a0008, 0, 1, 0⟩
def F.BOM_IRQ_EN_EN : Fld := ⟨0x1a000c, 0, 4, 0⟩
def F.BOM_CMD_GO : Fld := ⟨0x1a0010, 31, 1, 0⟩
def F.BOM_CMD_OP : Fld := ⟨0x1a0010, 16, 2, 0⟩
def F.BOM_CMD_MARK : Fld := ⟨0x1a0010, 0, 3, 0⟩
def F.BOM_CMD_RES_VALID : Fld := ⟨0x1a0014, 31, 1, 0⟩
def F.BOM_CMD_RES_STALE : Fld := ⟨0x1a0014, 30, 1, 0⟩
def F.BOM_CMD_RES_SEQ : Fld := ⟨0x1a0014, 16, 8, 0⟩
def F.BOM_CMD_RES_CODE : Fld := ⟨0x1a0014, 0, 16, 0⟩
/-- Result register (R40), 15_faults_and_boom.md R421. -/
def RR.BOM_CMD_RES : Nat := 0x1a0014
def F.BOM_REW_IDX_INDEX : Fld := ⟨0x1a0018, 0, 32, 0⟩
def F.BOM_SCUR_INDEX : Fld := ⟨0x1a001c, 0, 32, 0⟩
def F.BOM_STREAM_KIND : Fld := ⟨0x1a0020, 1, 6, 0x3f⟩
def F.BOM_STAT_QLOST : Fld := ⟨0x1a0024, 16, 16, 0⟩
def F.BOM_STAT_INJLOST : Fld := ⟨0x1a0024, 8, 8, 0⟩
def F.BOM_FIRST_CAPT : Fld := ⟨0x1a0028, 31, 1, 0⟩
def F.BOM_FIRST_OVF : Fld := ⟨0x1a0028, 30, 1, 0⟩
def F.BOM_FIRST_SUBSYS : Fld := ⟨0x1a0028, 8, 5, 0⟩
def F.BOM_FIRST_CLASS : Fld := ⟨0x1a0028, 0, 3, 0⟩
def F.BOM_FIRST_T_TIME (n : Nat) : Fld := ⟨0x1a002c + 4 * n, 0, 32, 0⟩
def F.BOM_INJ_GO : Fld := ⟨0x1a0038, 31, 1, 0⟩
def F.BOM_INJ_ARMED : Fld := ⟨0x1a0038, 30, 1, 0⟩
def F.BOM_INJ_DOUBLE : Fld := ⟨0x1a0038, 29, 1, 0⟩
def F.BOM_INJ_SUBSYS : Fld := ⟨0x1a0038, 0, 5, 0⟩
def F.BOM_TEST_GO : Fld := ⟨0x1a003c, 31, 1, 0⟩
def F.BOM_TEST_MAINT : Fld := ⟨0x1a003c, 30, 1, 0⟩
def F.BOM_TEST_PORT : Fld := ⟨0x1a003c, 8, 3, 0⟩
def F.BOM_TEST_OP : Fld := ⟨0x1a003c, 0, 4, 0⟩
def F.BOM_TEST_RES_VALID : Fld := ⟨0x1a0040, 31, 1, 0⟩
def F.BOM_TEST_RES_STALE : Fld := ⟨0x1a0040, 30, 1, 0⟩
def F.BOM_TEST_RES_SEQ : Fld := ⟨0x1a0040, 16, 8, 0⟩
def F.BOM_TEST_RES_CODE : Fld := ⟨0x1a0040, 0, 16, 0⟩
/-- Result register (R40), 15_faults_and_boom.md R416. -/
def RR.BOM_TEST_RES : Nat := 0x1a0040
def F.BOM_SCRUB_PERIOD : Fld := ⟨0x1a0044, 0, 12, 0xa⟩
def F.BOM_FWREC_UNIT : Fld := ⟨0x1a0048, 16, 16, 0⟩
def F.BOM_FWREC_CODE : Fld := ⟨0x1a0048, 0, 16, 0⟩
def F.BOM_FWREC_DATA_LO_DATA : Fld := ⟨0x1a004c, 0, 32, 0⟩
def F.BOM_FWREC_DATA_HI_DATA : Fld := ⟨0x1a0050, 0, 32, 0⟩
def F.BOM_MARKn_IDX_INDEX (n : Nat) : Fld := ⟨0x1a0060 + 8 * n, 0, 32, 0⟩
def F.BOM_MARKn_ST_ST (n : Nat) : Fld := ⟨0x1a0064 + 8 * n, 0, 2, 0⟩
def F.BOM_FWs_COUNT (n : Nat) : Fld := ⟨0x1a0100 + 4 * n, 24, 8, 0⟩
def F.BOM_FWs_INJ (n : Nat) : Fld := ⟨0x1a0100 + 4 * n, 7, 1, 0⟩
def F.BOM_FWs_CLASS (n : Nat) : Fld := ⟨0x1a0100 + 4 * n, 0, 7, 0⟩
def F.BOM_REACTs_REACT (n : Nat) : Fld := ⟨0x1a0180 + 4 * n, 0, 14, 0x2aaa⟩

/-! PSL_Sn_Pk by personality, 07_port_slices_and_flumes.md -/

def F.PSL_UART_P0_DUPLEX (n : Nat) : Fld := ⟨0x100a1040 + 0x100 * n, 30, 2, 0⟩
def F.PSL_UART_P0_START_MODE (n : Nat) : Fld := ⟨0x100a1040 + 0x100 * n, 28, 2, 0⟩
def F.PSL_UART_P0_GAP (n : Nat) : Fld := ⟨0x100a1040 + 0x100 * n, 16, 8, 0⟩
def F.PSL_UART_P0_DELIM (n : Nat) : Fld := ⟨0x100a1040 + 0x100 * n, 8, 8, 0xd⟩
def F.PSL_UART_P0_DELIM_EN (n : Nat) : Fld := ⟨0x100a1040 + 0x100 * n, 7, 1, 0⟩
def F.PSL_UART_P0_STRIP (n : Nat) : Fld := ⟨0x100a1040 + 0x100 * n, 6, 1, 0⟩
def F.PSL_UART_P0_PARITY (n : Nat) : Fld := ⟨0x100a1040 + 0x100 * n, 4, 2, 0⟩
def F.PSL_UART_P0_STOP2 (n : Nat) : Fld := ⟨0x100a1040 + 0x100 * n, 3, 1, 0⟩
def F.PSL_UART_P0_DBITS (n : Nat) : Fld := ⟨0x100a1040 + 0x100 * n, 0, 3, 3⟩
def F.PSL_UART_P1_BAUD (n : Nat) : Fld := ⟨0x100a1044 + 0x100 * n, 0, 32, 0x60a30⟩
def F.PSL_UART_P2_TURN (n : Nat) : Fld := ⟨0x100a1048 + 0x100 * n, 16, 16, 0x10⟩
def F.PSL_UART_P2_LEN (n : Nat) : Fld := ⟨0x100a1048 + 0x100 * n, 0, 16, 0⟩
def F.PSL_SPI_P0_LSB_FIRST (n : Nat) : Fld := ⟨0x200a1040 + 0x100 * n, 31, 1, 0⟩
def F.PSL_SPI_P0_CPOL (n : Nat) : Fld := ⟨0x200a1040 + 0x100 * n, 30, 1, 0⟩
def F.PSL_SPI_P0_CPHA (n : Nat) : Fld := ⟨0x200a1040 + 0x100 * n, 29, 1, 0⟩
def F.PSL_SPI_P0_WORD16 (n : Nat) : Fld := ⟨0x200a1040 + 0x100 * n, 28, 1, 0⟩
def F.PSL_SPI_P0_CSPOL (n : Nat) : Fld := ⟨0x200a1040 + 0x100 * n, 27, 1, 0⟩
def F.PSL_SPI_P0_START_MODE (n : Nat) : Fld := ⟨0x200a1040 + 0x100 * n, 25, 2, 0⟩
def F.PSL_SPI_P0_FILL (n : Nat) : Fld := ⟨0x200a1040 + 0x100 * n, 16, 8, 0xff⟩
def F.PSL_SPI_P0_DIV (n : Nat) : Fld := ⟨0x200a1040 + 0x100 * n, 0, 16, 0x18⟩
def F.PSL_SPI_P1_CS_SETUP (n : Nat) : Fld := ⟨0x200a1044 + 0x100 * n, 16, 16, 8⟩
def F.PSL_SPI_P1_CS_HOLD (n : Nat) : Fld := ⟨0x200a1044 + 0x100 * n, 0, 16, 8⟩
def F.PSL_I2C_P0_DIV (n : Nat) : Fld := ⟨0x400a1040 + 0x100 * n, 16, 16, 0x30c⟩
def F.PSL_I2C_P0_STRETCH_TMO (n : Nat) : Fld := ⟨0x400a1040 + 0x100 * n, 8, 8, 0xa⟩
def F.PSL_SSI_P0_BITS (n : Nat) : Fld := ⟨0x500a1040 + 0x100 * n, 26, 6, 0x18⟩
def F.PSL_SSI_P0_GRAY (n : Nat) : Fld := ⟨0x500a1040 + 0x100 * n, 25, 1, 1⟩
def F.PSL_SSI_P0_ERRBITS (n : Nat) : Fld := ⟨0x500a1040 + 0x100 * n, 23, 2, 0⟩
def F.PSL_SSI_P0_PARITY (n : Nat) : Fld := ⟨0x500a1040 + 0x100 * n, 21, 2, 0⟩
def F.PSL_SSI_P0_TRIG (n : Nat) : Fld := ⟨0x500a1040 + 0x100 * n, 19, 2, 0⟩
def F.PSL_SSI_P0_FLUME (n : Nat) : Fld := ⟨0x500a1040 + 0x100 * n, 18, 1, 0⟩
def F.PSL_SSI_P0_DIV (n : Nat) : Fld := ⟨0x500a1040 + 0x100 * n, 0, 16, 0x7c⟩
def F.PSL_SSI_P1_MONO (n : Nat) : Fld := ⟨0x500a1044 + 0x100 * n, 16, 16, 0xc8⟩
def F.PSL_SSI_P1_PERIOD (n : Nat) : Fld := ⟨0x500a1044 + 0x100 * n, 0, 16, 0x3e8⟩
def F.PSL_SSI_P2_VALUE_LO (n : Nat) : Fld := ⟨0x500a1048 + 0x100 * n, 0, 32, 0⟩
def F.PSL_SSI_P3_VALUE_HI (n : Nat) : Fld := ⟨0x500a104c + 0x100 * n, 0, 32, 0⟩
def F.PSL_SSI_P4_TS0 (n : Nat) : Fld := ⟨0x500a1050 + 0x100 * n, 0, 32, 0⟩
def F.PSL_SSI_P5_TS1 (n : Nat) : Fld := ⟨0x500a1054 + 0x100 * n, 0, 32, 0⟩
def F.PSL_SSI_P6_TS2 (n : Nat) : Fld := ⟨0x500a1058 + 0x100 * n, 0, 16, 0⟩
def F.PSL_SSI_P7_EBITS (n : Nat) : Fld := ⟨0x500a105c + 0x100 * n, 16, 8, 0⟩
def F.PSL_SSI_P7_TIMEOUT (n : Nat) : Fld := ⟨0x500a105c + 0x100 * n, 2, 1, 0⟩
def F.PSL_SSI_P7_ERRB (n : Nat) : Fld := ⟨0x500a105c + 0x100 * n, 1, 1, 0⟩
def F.PSL_SSI_P7_PERR (n : Nat) : Fld := ⟨0x500a105c + 0x100 * n, 0, 1, 0⟩
def F.PSL_QUAD_P0_MODE (n : Nat) : Fld := ⟨0x600a1040 + 0x100 * n, 30, 2, 2⟩
def F.PSL_QUAD_P0_IDX (n : Nat) : Fld := ⟨0x600a1040 + 0x100 * n, 28, 2, 0⟩
def F.PSL_QUAD_P0_INV_DIR (n : Nat) : Fld := ⟨0x600a1040 + 0x100 * n, 27, 1, 0⟩
def F.PSL_QUAD_P0_FILT (n : Nat) : Fld := ⟨0x600a1040 + 0x100 * n, 20, 4, 1⟩
def F.PSL_QUAD_P1_COUNT_LO (n : Nat) : Fld := ⟨0x600a1044 + 0x100 * n, 0, 32, 0⟩
def F.PSL_QUAD_P2_COUNT_HI (n : Nat) : Fld := ⟨0x600a1048 + 0x100 * n, 0, 32, 0⟩
def F.PSL_QUAD_P3_LATCH_LO (n : Nat) : Fld := ⟨0x600a104c + 0x100 * n, 0, 32, 0⟩
def F.PSL_QUAD_P4_LATCH_HI (n : Nat) : Fld := ⟨0x600a1050 + 0x100 * n, 0, 32, 0⟩
def F.PSL_QUAD_P5_TS0 (n : Nat) : Fld := ⟨0x600a1054 + 0x100 * n, 0, 32, 0⟩
def F.PSL_QUAD_P6_TS1 (n : Nat) : Fld := ⟨0x600a1058 + 0x100 * n, 0, 32, 0⟩
def F.PSL_QUAD_P7_TS2 (n : Nat) : Fld := ⟨0x600a105c + 0x100 * n, 0, 16, 0⟩
def F.PSL_QUAD_P8_DIR (n : Nat) : Fld := ⟨0x600a1060 + 0x100 * n, 31, 1, 0⟩
def F.PSL_QUAD_P8_STARTLAT (n : Nat) : Fld := ⟨0x600a1060 + 0x100 * n, 2, 1, 0⟩
def F.PSL_QUAD_P8_IDXSEEN (n : Nat) : Fld := ⟨0x600a1060 + 0x100 * n, 1, 1, 0⟩
def F.PSL_QUAD_P8_QERR (n : Nat) : Fld := ⟨0x600a1060 + 0x100 * n, 0, 1, 0⟩
def F.PSL_PULSE_P0_MODE (n : Nat) : Fld := ⟨0x700a1040 + 0x100 * n, 30, 2, 0⟩
def F.PSL_PULSE_P0_POL (n : Nat) : Fld := ⟨0x700a1040 + 0x100 * n, 29, 1, 0⟩
def F.PSL_PULSE_P0_BMODE (n : Nat) : Fld := ⟨0x700a1040 + 0x100 * n, 28, 1, 0⟩
def F.PSL_PULSE_P0_GATE_EN (n : Nat) : Fld := ⟨0x700a1040 + 0x100 * n, 27, 1, 0⟩
def F.PSL_PULSE_P0_DEAD (n : Nat) : Fld := ⟨0x700a1040 + 0x100 * n, 16, 8, 0⟩
def F.PSL_PULSE_P1_PERIOD (n : Nat) : Fld := ⟨0x700a1044 + 0x100 * n, 0, 32, 0x4e2⟩
def F.PSL_PULSE_P2_HIGH (n : Nat) : Fld := ⟨0x700a1048 + 0x100 * n, 0, 32, 0x271⟩
def F.PSL_PULSE_P3_COUNT (n : Nat) : Fld := ⟨0x700a104c + 0x100 * n, 0, 32, 1⟩
def F.PSL_PULSE_P4_DIR (n : Nat) : Fld := ⟨0x700a1050 + 0x100 * n, 0, 1, 0⟩
def F.PSL_PULSE_P5_RUN (n : Nat) : Fld := ⟨0x700a1054 + 0x100 * n, 31, 1, 0⟩
def F.PSL_PULSE_P5_DONE (n : Nat) : Fld := ⟨0x700a1054 + 0x100 * n, 30, 1, 0⟩
def F.PSL_PULSE_P5_REFUSED (n : Nat) : Fld := ⟨0x700a1054 + 0x100 * n, 29, 1, 0⟩
def F.PSL_PULSE_P6_PCOUNT (n : Nat) : Fld := ⟨0x700a1058 + 0x100 * n, 0, 32, 0⟩
def F.PSL_IOL_P0_MODE (n : Nat) : Fld := ⟨0x800a1040 + 0x100 * n, 29, 3, 0⟩
def F.PSL_IOL_P0_COM (n : Nat) : Fld := ⟨0x800a1040 + 0x100 * n, 27, 2, 0⟩
def F.PSL_IOL_P0_VALIDATE (n : Nat) : Fld := ⟨0x800a1040 + 0x100 * n, 26, 1, 0⟩
def F.PSL_IOL_P0_CYCLE (n : Nat) : Fld := ⟨0x800a1040 + 0x100 * n, 16, 8, 0⟩
def F.PSL_IOL_P0_PDOUT (n : Nat) : Fld := ⟨0x800a1040 + 0x100 * n, 8, 8, 0⟩
def F.PSL_IOL_P0_PDIN (n : Nat) : Fld := ⟨0x800a1040 + 0x100 * n, 0, 8, 0⟩
def F.PSL_IOL_P1_VID (n : Nat) : Fld := ⟨0x800a1044 + 0x100 * n, 16, 16, 0⟩
def F.PSL_IOL_P2_DID (n : Nat) : Fld := ⟨0x800a1048 + 0x100 * n, 0, 24, 0⟩
def F.PSL_IOL_P3_STATE (n : Nat) : Fld := ⟨0x800a104c + 0x100 * n, 28, 4, 0⟩
def F.PSL_IOL_P3_COMUSED (n : Nat) : Fld := ⟨0x800a104c + 0x100 * n, 26, 2, 0⟩
def F.PSL_IOL_P3_PDVALID (n : Nat) : Fld := ⟨0x800a104c + 0x100 * n, 25, 1, 0⟩
def F.PSL_IOL_P3_RETRY (n : Nat) : Fld := ⟨0x800a104c + 0x100 * n, 8, 8, 0⟩
def F.PSL_IOL_P3_LOST (n : Nat) : Fld := ⟨0x800a104c + 0x100 * n, 0, 8, 0⟩

end Sys2Proof.Machine
end

