-- ==== Sys2Proof/Config.lean ====
section
/-!
DEFINITION. What an implementation fixes and the spec leaves open: opaque constants without a body, so that nothing can be
proved about their values (notes/assumptions/5.md and 8.md), and the cryptographic functions the manual names
without defining them (notes/assumptions/9.md).
-/

namespace Sys2Proof.Config

/-- A value the manual leaves free, drawn at the state's counter of free values. -/
opaque freeValue : Nat → Nat

/-- Whether a quotient whose rounding the manual does not state is rounded up. -/
opaque roundUp : Int → Nat → Bool

/-- The fit of a history whose normal equations have no single solution (R92 states none): position, velocity, acceleration. -/
opaque degenerateFit : List (Int × Int × Nat) → Int × Int × Int

/-- SHA-384 of a byte string, as 48 bytes. -/
opaque sha384 : List Nat → List Nat

/-- Whether an ECDSA P-384 signature (second argument) of a byte string (third) verifies under a public key (first). -/
opaque ecdsaVerify : List Nat → List Nat → List Nat → Bool

/-- The public signing key of an index that was provisioned at manufacture, 4 the factory key (R444). -/
opaque signingKey : Nat → List Nat

/-- AES-256-GCM encryption: key, nonce, additional data, plaintext to ciphertext and 16-byte tag. -/
opaque gcmEncrypt : Nat → List Nat → List Nat → List Nat → List Nat × List Nat

/-- AES-256-GCM decryption: key, nonce, additional data, ciphertext, tag to the plaintext where the tag verifies. -/
opaque gcmDecrypt : Nat → List Nat → List Nat → List Nat → List Nat → Option (List Nat)

/-- The key derivation function: key, label, context to a 256-bit key. -/
opaque kdf : Nat → Nat → List Nat → Nat

/-- AES key wrap of a key blob under a root. -/
opaque keyWrap : Nat → List Nat → List Nat

/-- AES key unwrap: the plaintext where the integrity check passes. -/
opaque keyUnwrap : Nat → List Nat → Option (List Nat)

/-- The body version that the stepping supports of each section type (R52). -/
opaque sectionVersion : Nat → Nat

/-- Where in region 0x4 ROM keeps a download of recovery, by image class (R453 states no place). -/
opaque downloadBase : Nat → Nat

/-- The secret that the PUF regenerates. -/
opaque pufSecret : Nat

end Sys2Proof.Config
end

