-- ==== Sys2Proof/Machine/Numeric.lean ====
section
/-! DEFINITION. Bit fields, signed fields, byte strings, and the time and position formats of R70 and R71. -/

namespace Sys2Proof.Machine

/-- Bits lo + w − 1 to lo of a number. -/
def bits (v lo w : Nat) : Nat := (v >>> lo) % 2 ^ w

/-- Whether bit n of a number is set. -/
def bit (v n : Nat) : Bool := (v >>> n) % 2 == 1

/-- A number with bit n set or cleared. -/
def setBit (v n : Nat) (b : Bool) : Nat :=
  if bit v n == b then v else if b then v + 2 ^ n else v - 2 ^ n

/-- One bit as a number. -/
def b2n (b : Bool) : Nat := if b then 1 else 0

/-- A w-bit field read as a signed number. -/
def toSigned (w v : Nat) : Int :=
  if v % 2 ^ w < 2 ^ (w - 1) then (v % 2 ^ w : Nat) else (v % 2 ^ w : Nat) - (2 ^ w : Nat)

/-- The w-bit two's complement pattern of a number. -/
def ofSigned (w : Nat) (i : Int) : Nat := (i % (2 ^ w : Nat)).toNat

/-- A number held within a signed field of w bits (R72: durations and differences saturate). -/
def satSigned (w : Nat) (i : Int) : Int :=
  max (-(2 ^ (w - 1) : Nat)) (min ((2 ^ (w - 1) : Nat) - 1) i)

/-- The saturated pattern of a signed number. -/
def satPattern (w : Nat) (i : Int) : Nat := ofSigned w (satSigned w i)

/-- A quotient; where it is not exact and the manual states no rounding, the direction is free (Config.roundUp). -/
def roundDiv (n : Int) (d : Nat) : Int :=
  if n % d = 0 then n / d else n / d + (if Config.roundUp n d then 1 else 0)

/-- The n low bytes of a number, least significant first. -/
def leBytes : Nat → Nat → List Nat
  | 0, _ => []
  | n + 1, v => v % 256 :: leBytes n (v / 256)

/-- The number that bytes give, least significant first. -/
def ofLe : List Nat → Nat
  | [] => 0
  | b :: bs => b + 256 * ofLe bs

/-- n bytes of a byte string from an offset, absent bytes read as 0. -/
def bytesAt (bs : List Nat) (off n : Nat) : List Nat :=
  let t := (bs.drop off).take n
  t ++ List.replicate (n - t.length) 0

/-- The little-endian number of n bytes at an offset of a byte string. -/
def leAt (bs : List Nat) (off n : Nat) : Nat := ofLe (bytesAt bs off n)

/-- One second in units of 2^-16 ns. -/
def second16 : Nat := 65536000000000

/-- The FT96 pattern (R70) of a time counted in units of 2^-16 ns. -/
def ft96 (t : Nat) : Nat :=
  (t / second16) % 2 ^ 48 * 2 ^ 48 + t % second16

/-- The time in units of 2^-16 ns of an FT96 pattern. -/
def ofFt96 (v : Nat) : Nat := bits v 48 48 * second16 + bits v 0 48

/-- Whether the NS field of an FT96 pattern is below 1,000,000,000 (R70). -/
def ft96Valid (v : Nat) : Bool := decide (bits v 16 32 < 1000000000)

/-- Nanoseconds in units of 2^-16 ns. -/
def ns16 (n : Nat) : Nat := n * 65536

/-- Microseconds in units of 2^-16 ns. -/
def us16 (n : Nat) : Nat := n * 65536000

/-- CCLK cycles of 0.8 ns in n nanoseconds. -/
def nsClk (n : Nat) : Nat := n * 5 / 4

/-- CCLK cycles in n microseconds. -/
def usClk (n : Nat) : Nat := n * 1250

/-- CCLK cycles in n milliseconds. -/
def msClk (n : Nat) : Nat := n * 1250000

/-- One more, within a field of w bits (the manual's saturating counters). -/
def satAdd (w v n : Nat) : Nat := min (v + n) (2 ^ w - 1)

/-- The indexes below n whose bit is set. -/
def setBits (v n : Nat) : List Nat := (List.range n).filter (bit v)

end Sys2Proof.Machine
end

