-- ==== Sys2Proof/Machine/Predict.lean ====
section
/-! DEFINITION. The extrapolator of a tally slot: samples, fits and predictions (04 R92 to R94, R98). -/

namespace Sys2Proof.Machine

/-- A tally sample as it is held (R91): sequence number, position in 2^-16 count, time in 2^-16 ns. -/
structure Sample where
  sseq : Nat
  pos : Int
  ts : Nat
  deriving DecidableEq, Repr

/-- A fit p(t) = P + V·(t − tref) + (A/2)·(t − tref)², in counts and seconds (R92). -/
structure Fit where
  tref : Nat
  p : Rat
  v : Rat
  a : Rat
  deriving DecidableEq, Repr

/-- The seconds from `tref` to `t`. -/
def secondsFrom (tref t : Nat) : Rat := ((t : Int) - (tref : Int) : Int) / (second16 : Int)

/-- POS_AT: the position of a fit at a time (R94). -/
def Fit.posAt (f : Fit) (t : Nat) : Rat :=
  let d := secondsFrom f.tref t
  (f.p + f.v * d + f.a / 2 * (d * d) : Rat)

/-- The integer square root, bit by bit from bit k. -/
def isqrtFrom : Nat → Nat → Nat → Nat
  | 0, _, r => r
  | k + 1, n, r => if (r + 2 ^ k) * (r + 2 ^ k) ≤ n then isqrtFrom k n (r + 2 ^ k) else isqrtFrom k n r

/-- The integer square root. -/
def isqrt (n : Nat) : Nat := isqrtFrom (Nat.log2 n / 2 + 1) n 0

/-- The square root of a non-negative rational, to 2^-64 of its denominator's unit. -/
def sqrtQ (q : Rat) : Rat :=
  mkRat (isqrt (q.num.toNat * q.den * 2 ^ 128)) (q.den * 2 ^ 64)

/-- The times, in seconds from tref, at which the fit is at x, each with its velocity's sign. -/
def Fit.crossings (f : Fit) (x : Rat) : List (Rat × Rat) :=
  if f.a = 0 then
    if f.v = 0 then [] else [((x - f.p) / f.v, f.v)]
  else
    let disc := f.v * f.v - 2 * f.a * (f.p - x)
    if disc < 0 then []
    else
      let r := sqrtQ disc
      [((-f.v + r) / f.a, r), ((-f.v - r) / f.a, -r)]

/-- Whether a movement of velocity v is in direction dir: 0 either, 1 increasing, 2 decreasing. -/
def inDirection (dir : Nat) (v : Rat) : Bool :=
  if dir = 1 then decide (0 < v) else if dir = 2 then decide (v < 0) else true

/-- TIME_OF: the earliest time from `t0` to `t1` at which the fit reaches x moving in direction dir (R94).
The manual bounds the error at 1 ns; the model rounds to the format's unit (log entry 10). -/
def Fit.timeOf (f : Fit) (x : Rat) (dir t0 t1 : Nat) : Option Nat :=
  let d0 := secondsFrom f.tref t0
  let d1 := secondsFrom f.tref t1
  let ok := (f.crossings x).filter (fun c => inDirection dir c.2 && decide (d0 ≤ c.1) && decide (c.1 ≤ d1))
  let best := ok.foldl (fun (b : Option Rat) c => match b with
    | none => some c.1
    | some y => some (if c.1 < y then c.1 else y)) none
  best.map (fun (d : Rat) =>
    let q : Rat := d * ((second16 : Int) : Rat)
    ((f.tref : Int) + roundDiv q.num q.den).toNat)

/-- A held sample with its weight: seconds from tref, position in counts, weight. -/
abbrev Weighted := Rat × Rat × Rat

/-- Σ w·dⁿ·pᵐ over weighted samples. -/
def momentSum (l : List Weighted) (n m : Nat) : Rat :=
  l.foldl (fun acc x => acc + x.2.2 * x.1 ^ n * x.2.1 ^ m) 0

/-- Position of a TP80 number in counts. -/
def counts (pos : Int) : Rat := pos / (65536 : Int)

/-- The fit that has no single solution (Config.degenerateFit). -/
def degenerate (tref : Nat) (hist : List Sample) : Fit :=
  let r := Config.degenerateFit (hist.map (fun s => ((s.sseq : Int), s.pos, s.ts)))
  ⟨tref, counts r.1, counts r.2.1, counts r.2.2⟩

/-- The first-order least-squares fit. -/
def fitLine (tref : Nat) (hist : List Sample) (l : List Weighted) : Fit :=
  let s0 := momentSum l 0 0
  let s1 := momentSum l 1 0
  let s2 := momentSum l 2 0
  let t0 := momentSum l 0 1
  let t1 := momentSum l 1 1
  let det := s0 * s2 - s1 * s1
  if det = 0 then degenerate tref hist
  else ⟨tref, (t0 * s2 - t1 * s1) / det, (s0 * t1 - s1 * t0) / det, 0⟩

/-- The second-order least-squares fit, by Cramer's rule. -/
def fitCurve (tref : Nat) (hist : List Sample) (l : List Weighted) : Fit :=
  let s0 := momentSum l 0 0
  let s1 := momentSum l 1 0
  let s2 := momentSum l 2 0
  let s3 := momentSum l 3 0
  let s4 := momentSum l 4 0
  let t0 := momentSum l 0 1
  let t1 := momentSum l 1 1
  let t2 := momentSum l 2 1
  let det := s0 * (s2 * s4 - s3 * s3) - s1 * (s1 * s4 - s3 * s2) + s2 * (s1 * s3 - s2 * s2)
  if det = 0 then degenerate tref hist
  else
    let p := t0 * (s2 * s4 - s3 * s3) - s1 * (t1 * s4 - s3 * t2) + s2 * (t1 * s3 - s2 * t2)
    let v := s0 * (t1 * s4 - t2 * s3) - t0 * (s1 * s4 - s3 * s2) + s2 * (s1 * t2 - t1 * s2)
    let c := s0 * (s2 * t2 - s3 * t1) - s1 * (s1 * t2 - t1 * s2) + t0 * (s1 * s3 - s2 * s2)
    ⟨tref, p / det, v / det, 2 * (c / det)⟩

/-- The fit over held samples, newest first, under weights w_0 to w_7 (R92). -/
def fitOf (order1 : Bool) (weights : List Nat) (hist : List Sample) : Option Fit :=
  match hist with
  | [] => none
  | s :: _ =>
    let l : List Weighted := (hist.zip weights).filterMap (fun p =>
      if p.2 = 0 then none else some (secondsFrom s.ts p.1.ts, counts p.1.pos, ((p.2 : Int) : Rat)))
    match l with
    | [] => some ⟨s.ts, counts s.pos, 0, 0⟩
    | [x] => some ⟨s.ts, x.2.1, 0, 0⟩
    | [_, _] => some (fitLine s.ts hist l)
    | _ => some (if order1 then fitLine s.ts hist l else fitCurve s.ts hist l)

/-- A rational number in units of 2^-n, rounded as roundDiv rounds. -/
def inUnits (n : Nat) (q : Rat) : Int :=
  let r : Rat := q * (((2 ^ n : Nat) : Int) : Rat)
  roundDiv r.num r.den

end Sys2Proof.Machine
end

