-- ==== Sys2Proof/Machine/Types.lean ====
section
/-!
DEFINITION. The records that State is made of: what the spec gives the hub beside its registers, block by block. Plain data.
-/

namespace Sys2Proof.Machine

/-! Pins -/

/-- What a pin carries. -/
inductive PinDrive where
  /-- Nothing drives it; the pad's pull: 0 none, 1 up, 2 down, 3 bus keeper. -/
  | highZ (pull : Nat)
  | level (high : Bool)
  /-- The bits that the personality is sending. -/
  | signal
  deriving DecidableEq, Repr

/-! Coincidences -/

/-- A happening of the present CCLK cycle that a later one of the same cycle may meet, where a rule names the winner. -/
inductive Mark where
  /-- CLR ended a feed's LATCHED state; a seating contact of a feed opened (R162). -/
  | feedCleared (feed : Nat)
  | contactOpened (feed : Nat)
  /-- An RX item of a slice was closed; its RX flume was emptied by a flush, from these items; a unit was appended to its TX flume; the
  slice is to stop once the END item of this cycle is written (R196). -/
  | rxClosed (slice : Nat)
  | rxFlushed (slice : Nat) (items : List Nat)
  | txAppended (slice unit : Nat)
  | stopAfterEnd (slice : Nat)
  /-- A sawyer stored a word in its RX FIFO, took the word that a write of this cycle brings, or had its DROP written by the harvest; a FLAG
  instruction set or cleared a grove flag (R248). -/
  | sawSent (sawyer : Nat)
  | txfTaken (sawyer : Nat)
  | dropHarvested (sawyer : Nat)
  | flagSet (grove flag : Nat)
  | flagCleared (grove flag : Nat)
  /-- A frame was stored in an RX buffer; an element left a FIFO for the POP of this cycle; a buffer's copy entered a guardian's queue
  (R224). -/
  | rxStored (channel buffer : Nat)
  | popped (channel fifo : Nat)
  | copyPlaced (guardian channel buffer : Nat)
  /-- An entry's edge or launch took place; an edge set a fast line's normal value (R120, R122). -/
  | entryFired (index : Nat)
  | edgeOn (line : Nat)
  /-- An expert write departed from the Almanac (R46); a class A field, by key, was loaded by an application (R68). -/
  | departed
  | loaded (key : Nat)
  /-- The epoch of this boundary has taken effect (R291). -/
  | epochTaken
  /-- A record joined the Boom's queue; a written record took the place of these bytes; a fault was captured; a fault waits for a read
  of BOM_FIRST (R410, R419, R423). -/
  | recordQueued
  | recordOver (off : Nat) (old : List Nat)
  | faultTaken
  | faultWaits (subsys cls : Nat)
  /-- An edge or work reached a power slice; its reload list was replaced, from this offset and validity (R436). -/
  | roused (slice : Nat)
  | listWas (slice off : Nat) (ok : Bool)
  /-- The harvest boundary has passed (R404). -/
  | boundaryPassed
  /-- Every key slot was emptied by ZERO_ALL (R380). -/
  | zeroedAll
  /-- A frame had left an output before an arrival of the cycle was judged (R309). -/
  | sent (port : Nat)
  deriving DecidableEq, Repr

/-! Boom and faults (15) -/

/-- A Boom record before it is given its index and time (R418). -/
structure BoomRec where
  code : Nat
  kind : Nat
  flags : Nat := 0
  unit : Nat
  suppr : Nat := 0
  data : Nat := 0
  /-- The subsystem that writes it, where its CODE does not say so. -/
  writer : Nat := 0
  deriving DecidableEq, Repr

/-- A record source that is limited in rate (R414, R221): when it last wrote, how often it was suppressed since. -/
structure Limited where
  lastClk : Nat
  suppressed : Nat
  deriving DecidableEq, Repr

/-- The Boom recorder and the fault collectors (R409 to R422). -/
structure BomState where
  /-- Records waiting, oldest first, at most 16 (R419). -/
  queue : List BoomRec := []
  /-- Suppression counters, filed by 8·subsystem + class (R414) or by the recording chapter's own number. -/
  limits : SMap Limited := []
  /-- Records skipped since the last EVENT frame (R422). -/
  lost : Nat := 0
  /-- Poisoned words, by memory address (R411). -/
  poisoned : List Nat := []
  /-- Words stored with an injected error, by memory address; the number of wrong check bits (R415). -/
  injected : SMap Nat := []
  /-- The running self-test: its OP and PORT, and whether the background rotation started it (R416, R417). -/
  test : Option (Nat × Nat × Bool) := none
  /-- The next background test of the rotation (R417). -/
  rotation : Nat := 0
  /-- Background tests whose last run failed, as bits (R417). -/
  bgFailed : Nat := 0
  deriving DecidableEq, Repr

/-! Fabric time (04) -/

/-- Link-delay measurement of one port (R77, R78). -/
structure DelayPort where
  /-- Kept exchanges in 2^-16 ns, newest first, at most 16. -/
  kept : List Nat := []
  /-- Consecutive discarded exchanges. -/
  bad : Nat := 0
  /-- Request sequence number of the next request. -/
  reqSeq : Nat := 0
  /-- The requests in flight, oldest first: sequence number and t1. -/
  asked : List (Nat × Nat) := []
  deriving DecidableEq, Repr

/-- What is known of one ring's syncs (R82). -/
structure RingSync where
  /-- Cycle (CCLK) of the last sync, if one was delivered since the selection began. -/
  last : Option Nat := none
  steps : Nat := 0
  /-- Consecutive syncs whose STEPS lay below the upstream's. -/
  lower : Nat := 0
  deriving DecidableEq, Repr

/-- A master heard on PL0 (R86): its port identity, its data set, the UTC offset it announced, and its Announce messages so far. -/
structure PtpMaster where
  source : Nat
  dataset : PtpDataset
  utc : Nat
  heard : Nat := 1
  deriving DecidableEq, Repr

/-- The clock on PL0 (R86). Times in 2^-16 ns. -/
structure PtpState where
  /-- PTP_DOMAIN and PTP_FLAGS of the TIME section in force (R100). -/
  domain : Nat := 0
  flags : Nat := 0
  masters : List PtpMaster := []
  /-- The master followed. -/
  parent : Option Nat := none
  /-- A two-step sync that waits for its follow-up: sequence number, arrival, correction. -/
  waiting : Option (Nat × Int × Int) := none
  /-- Master-to-slave delay of the last sync. -/
  toSlave : Option Int := none
  /-- The delay request in flight: sequence number and departure; the number of the next one. -/
  asked : Option (Nat × Int) := none
  reqSeq : Nat := 0
  /-- A peer answer that waits for its follow-up: sequence number, t2, t4, correction. -/
  peerWaiting : Option (Nat × Int × Int × Int) := none
  /-- t3 and t4 of the peer exchange before, for the neighbour rate ratio. -/
  peerLast : Option (Int × Int) := none
  /-- Mean path or link delay. -/
  delay : Option Int := none
  /-- Consecutive peer requests without an answer. -/
  unanswered : Nat := 0
  asCapable : Bool := false
  deriving DecidableEq, Repr

/-- The time unit (R73 to R86). -/
structure TimState where
  /-- The fabric time counter in 2^-32 ns (R73). -/
  counter : Nat := 0
  /-- Integral term of the loop, in 2^-20 ppb (R83). -/
  integ : Int := 0
  /-- Frequency output, in 2^-20 ppb (R83). -/
  freq : Int := 0
  /-- The last frequency outputs, newest first, at most 16 (R84). -/
  freqs : List Int := []
  /-- Consecutive syncs within LOCK_THR, and beyond it. -/
  good : Nat := 0
  off : Nat := 0
  /-- Upstream: none, ring A (port 1 or the stitch port) or ring B. -/
  upstream : Option Bool := none
  provisional : Bool := true
  /-- Cycle of the first sync of the selection. -/
  firstSync : Option Nat := none
  ringA : RingSync := {}
  ringB : RingSync := {}
  /-- Next SYNC_SEQ for ring A and ring B (R80). -/
  seqA : Nat := 0
  seqB : Nat := 0
  /-- Syncs sent since the grandmaster's time last stepped, counted to 16 (R80 STEPPED). -/
  sinceStep : Nat := 16
  /-- Cycle of the last sync or PL0 offset that the servo took (R84). -/
  lastFed : Option Nat := none
  /-- The clock on PL0 (R86). -/
  ptp : PtpState := {}
  /-- Start of the present harvest cycle or millisecond, in 2^-16 ns (R96). -/
  cycleStart : Nat := 0
  /-- Link-delay measurement, by port. -/
  delays : SMap DelayPort := []
  deriving DecidableEq, Repr

/-! Tallies (04) -/

/-- A query running in a bank: what it asks, of which slot, with which direction and argument (R104). -/
structure Query where
  op : Nat
  slot : Nat
  dir : Nat
  arg : Nat
  deriving DecidableEq, Repr

/-- A fit and slot state waiting to come into force (R93), and the newest sample that made it:
its time, when it was FRESH or LATE with VALID = 1. -/
structure NextFit where
  state : Nat
  fit : Option Fit
  sampleTs : Option Nat
  /-- Made by a sample with REBASE or TSTEP. -/
  cut : Bool := false
  deriving DecidableEq, Repr

/-- One tally slot (R88 to R98). -/
structure TallySlot where
  /-- Held samples, newest first by timestamp, at most 8. -/
  held : List Sample := []
  /-- The reference SSEQ of a VALID = 0 sample (R95). -/
  refSseq : Option Nat := none
  fit : Option Fit := none
  next : Option NextFit := none
  /-- Whether a FRESH sample with VALID = 1 arrived in this cycle (R96). -/
  fresh : Bool := false
  /-- Whether this cycle's deadline has passed. -/
  deadlinePassed : Bool := false
  /-- The last residual, in 2^-16 count (R98, R99). -/
  resid : Rat := 0
  /-- Owner: next SSEQ, previous position in 2^-16 count, TSTEP to be carried, first sampling instant t0 (R89 to R91). -/
  ownSseq : Nat := 0
  ownPos : Int := 0
  tstep : Bool := false
  t0 : Option Nat := none
  /-- Owner: the source's counts of edges or posts, faults and resets at the last sample (R90). -/
  seen : Nat := 0
  seenFault : Nat := 0
  seenRebase : Nat := 0
  /-- Owner: VSPEED and SRC_LAT of the slot's entry in the TALLY section (R101). -/
  vspeed : Int := 0
  srcLat : Nat := 0
  /-- Owner: the first publication under a changed entry carries REBASE (R59). -/
  rebase : Bool := false
  deriving DecidableEq, Repr

/-! Calendar (05) -/

/-- One Calendar entry: its 32 bytes (R105), and the hub's own instants. -/
structure CalEntry where
  trigger : Nat := 0
  target : Nat := 0
  expiry : Nat := 0
  param : Nat := 0
  ctrl : Nat := 0
  slot : Nat := 0
  commit : Nat := 0
  tol : Nat := 0
  group : Nat := 0
  rsv : Nat := 0
  flags : Nat := 0
  state : Nat := 0
  err : Nat := 0
  /-- Arming instant, 2^-16 ns. -/
  armed : Nat := 0
  /-- Current predicted instant I, 2^-16 ns. -/
  inst : Nat := 0
  /-- CCLK cycle of the fixed edge (R114), and of a pulse's trailing edge. -/
  dueClk : Nat := 0
  trailClk : Nat := 0
  /-- Whether a late-correction check is pending (R121). -/
  check : Bool := false
  /-- Whether a keeper discarded the edges committed and not yet applied (R146). -/
  dropped : Bool := false
  deriving DecidableEq, Repr

/-- The Calendar beside its registers (R105 to R131). -/
structure SchState where
  entries : SMap CalEntry := []
  /-- Commands running or waiting in each bank, oldest first: the outcome once performed (R111). -/
  banks : SMap (List (Nat × Nat × Option Nat)) := []
  deriving DecidableEq, Repr

/-! Sluice (05) -/

/-- The Sluice beside its registers (R132 to R137). -/
structure SlcState where
  /-- Registered event levels, and latched forces of MODE 0b10, as bits (R135). -/
  events : Nat := 0
  latched : Nat := 0
  /-- S63 as registered; the cycle in which an output image was last applied (R132). -/
  watchdog : Bool := true
  imageClk : Option Nat := none
  /-- Sources behind a filter, by number: the level that has passed, and the cycles for which the source has differed from it (R135). -/
  filtered : SMap (Bool × Nat) := []
  /-- Staged class A writes by field (R137): the field's key, its reset value, and the value. -/
  staged : SMap (Nat × Nat) := []
  /-- Rising edges counted on fast lines, and the time of the last (R89 source 0x3). -/
  pulses : SMap (Nat × Nat) := []
  /-- Fast lines driven when the hub was fenced, and their levels; the same of the slice pins; until FENCE_HOLD ends (R397). -/
  fence : Option (Nat × Nat) := none
  fencePins : Option (Nat × Nat) := none
  /-- Fast lines left undriven by a SAFE of high-impedance, until their normal value is written (R59). -/
  undriven : Nat := 0
  deriving DecidableEq, Repr

/-! Field lines, feeds and the HV link (06) -/

/-- One field line beside its registers (R146 to R155). -/
structure FldLine where
  /-- Level held by the bank's keeper, level driven at the start of a Sluice force, level driven on entry to quarantine. -/
  held : Bool := false
  forceHeld : Bool := false
  quarHeld : Bool := false
  /-- A latch clear was requested while the cell was overheated (R154). -/
  clearReq : Bool := false
  /-- The line waits for its restore instant (R153). -/
  restore : Bool := false
  /-- Crossings counted, time of the last in 2^-16 ns, and the cycle until which the line is ignored (R151). -/
  crossings : Nat := 0
  crossTs : Nat := 0
  crossClk : Option Nat := none
  deriving DecidableEq, Repr

/-- The FLD block beside its registers. -/
structure FldState where
  lines : SMap FldLine := []
  /-- BANK sections applied, as bits (R146). -/
  applied : Nat := 0
  /-- The status fields last received, by key, while the link is down (R145). -/
  snap : SMap Nat := []
  /-- Status bits that the HV die sets and the main die receives when the link returns: field and bit. -/
  late : List (Fld × Nat) := []
  /-- The banks under loopback, and the cycle at which it began (R167). -/
  loopback : Option (Nat × Nat) := none
  deriving DecidableEq, Repr

/-- The CHK block beside its registers. -/
structure ChkState where
  /-- Cycle at which a feed's seating contact opened, by feed (R160). -/
  removedClk : SMap Nat := []
  /-- The feeds under calibration, and the cycle at which it began (R166). -/
  calibrating : Option (Nat × Nat) := none
  /-- Whether the HV die runs (R146, R461). -/
  hvRunning : Bool := false
  deriving DecidableEq, Repr

/-! Frames and the switch core (10, 11) -/

/-- An arrival window of R268: the highest FLOWSEQ accepted and the mask of the 64 numbers below it. -/
structure Window where
  high : Nat
  mask : Nat
  deriving DecidableEq, Repr

/-- A frame whose header is checked and which waits to be placed in the buffer (R295, R299). -/
structure Arrival where
  inPort : Nat
  outs : List Nat
  /-- The launch queue it is for (R304). -/
  lq : Option Nat := none
  frame : Frame
  /-- What the arrival window of its flow held before, should the frame count as not received (R300). -/
  undo : Option (Nat × Option Window) := none
  /-- Originated onto both rings (R267). -/
  dual : Bool := false
  /-- Time of its arrival, 2^-16 ns (R79). -/
  ingress : Nat := 0
  deriving DecidableEq, Repr

/-- A frame in the shared buffer (R295, R296). -/
structure BufFrame where
  id : Nat
  inPort : Nat
  /-- Outputs still to send it. -/
  outs : List Nat
  /-- Outputs on which it has begun to leave. -/
  leaving : List Nat := []
  cells : Nat
  /-- Of its cells, those from its class's guarantee (R299). -/
  guar : Nat
  mirror : Bool := false
  /-- Its launch queue, and the cycle and Calendar entry of the LAUNCH that released it (R304). -/
  lq : Option Nat := none
  launched : Option (Nat × Nat) := none
  /-- The key slot whose hold list it is in (R306). -/
  hold : Option Nat := none
  /-- A copy of it has been mirrored (R307). -/
  mirrored : Bool := false
  dual : Bool := false
  /-- The outputs on which it leaves cut-through, as judged when its header completed its check (R303). -/
  cut : List Nat := []
  ingress : Nat := 0
  frame : Frame
  deriving DecidableEq, Repr

/-- The switch core beside its registers (R295 to R309). -/
structure SwcState where
  arrivals : List Arrival := []
  /-- Buffered frames in order of entry. -/
  frames : List BufFrame := []
  nextId : Nat := 0
  /-- The input each output served last within a class, by 8·output + class (R297). -/
  rotation : SMap Nat := []
  /-- Bytes of credit of each output's TC0 to TC3, by 4·output + class, and the class whose turn it is (R297). -/
  credit : SMap Nat := []
  turn : SMap Nat := []
  /-- Open hold windows: egress and Calendar entry (R305). -/
  windows : List (Nat × Nat) := []
  deriving DecidableEq, Repr

/-! The ring (10) and its stitch ports (14) -/

/-- A frame in a replay buffer: its HOPSEQ, and the frame as it was buffered, since its header is made anew whenever it leaves (R79). -/
structure Sent where
  hopSeq : Nat
  buf : BufFrame
  deriving DecidableEq, Repr

/-- The hop state of one ring or stitch port (R260 to R263). -/
structure MacState where
  txNext : Nat := 0
  rxExp : Nat := 0
  /-- Sent frames not yet acknowledged, oldest first. -/
  replay : List Sent := []
  /-- Frames accepted since the last ACK. -/
  unacked : Nat := 0
  /-- Cycle at which a NAK was sent for the frame still expected. -/
  nakClk : Option Nat := none
  /-- The HOPSEQ last NAKed by the neighbour, and how often. -/
  naked : Nat := 0
  nakCount : Nat := 0
  /-- What the neighbour's HELLO said. -/
  helloSerial : Nat := 0
  helloAdmitted : Bool := false
  /-- Held at this port until DRAIN ends (R272). -/
  draining : Bool := false
  deriving DecidableEq, Repr

/-- A harvest slot as it passes (R275). -/
structure SlotData where
  hub : Nat
  outLen : Nat
  inLen : Nat
  flags : Nat
  body : List Nat
  deriving DecidableEq, Repr

/-- The harvest on this hub (R273 to R276). -/
structure HarvestState where
  /-- Number and start (2^-16 ns) of the latest cycle. -/
  cycle : Nat := 0
  start : Nat := 0
  /-- The input image sampled at its start. -/
  sampled : List Nat := []
  /-- The output image taken in this cycle (R276). -/
  staged : Option (List Nat) := none
  /-- Whether this cycle's boundary has passed. -/
  closed : Bool := true
  /-- Output image bytes that another initiator wrote wait for a boundary (R273). -/
  written : Bool := false
  /-- Stitched hubs' input images held for this cycle, by hub position, with QUAR (R393). -/
  images : SMap (Bool × List Nat) := []
  /-- Positions whose output was sent on as a stitch image this cycle. -/
  passedOn : List Nat := []
  deriving DecidableEq, Repr

/-- The head's admission and harvest records (R277 to R286). -/
structure HeadState where
  /-- Station IDs given, by ring hub serial (R280). -/
  roster : SMap Nat := []
  /-- Hubs of admitted stations, by station · 4 + position. -/
  hubs : SMap JoinHub := []
  /-- Cycles in which a hub was MISSED without a break (R283). -/
  missed : SMap Nat := []
  /-- Slots returned with input this cycle: status and image by hub; frames returned, by 256 · ring + index (R277). -/
  returned : SMap (Nat × List Nat) := []
  framesBack : List Nat := []
  /-- Frames of each train, and whether a cycle is to be completed. -/
  trainLen : Nat := 0
  trainOpen : Bool := false
  /-- Stations' ring-A positions, links cut and RING_HOPS, as the next epoch will give them. -/
  positions : SMap Nat := []
  cuts : List Nat := []
  hops : Nat := 1
  /-- Key epochs, as the next epoch will give them; the ring epoch of the last switch (R369). -/
  kepTx : Nat := 0
  kepNext : Option Nat := none
  switchEpoch : Nat := 0
  /-- Stations to be listed for window reset; a bump waits for the effect of the one announced. -/
  resets : List Nat := []
  dirty : Bool := false
  /-- Link ends reported DOWN with the neighbour's serial, and READY: station · 4 + port. -/
  downs : SMap Nat := []
  readies : List Nat := []
  /-- Hubs that answered REKEY_READY; counted requests that met a running rekey (R291). -/
  rekeyed : List Nat := []
  rekeyReqs : Nat := 0
  /-- The EPOCH frame announced last (R284). -/
  announced : Option EpochInfo := none
  deriving DecidableEq, Repr

/-- The Collyn ring beside its registers. -/
structure RingState where
  macs : SMap MacState := []
  /-- Next FLOWSEQ by class (R257). -/
  flowTx : SMap Nat := []
  /-- Arrival windows by 8 · originator + class (R268). -/
  windows : SMap Window := []
  /-- Ring-A positions by station, and the links cut, of the epoch in force (R284). -/
  posmap : SMap Nat := []
  cuts : List Nat := []
  /-- Whether the previous epoch is still accepted (R285). -/
  grace : Bool := false
  /-- The EPOCH taken for its effect boundary (R285). -/
  coming : Option EpochInfo := none
  /-- Cycle of the last NAK, by source · 2^16 + code (R289). -/
  naks : SMap Nat := []
  /-- A REFUSE slows the JOINs (R280); a RELEASE waits for the boundary. -/
  refused : Bool := false
  released : Bool := false
  /-- A key epoch is being derived, and the old one is kept for MAXAGE (R286, R368). -/
  preparing : Bool := false
  oldKeys : Bool := false
  harvest : HarvestState := {}
  head : HeadState := {}
  /-- Cycle of the last read of a port's FEC counts, by port (R37). -/
  fecRead : SMap Nat := []
  deriving DecidableEq, Repr

/-! Port slices (07) -/

/-- One port slice beside its registers (R177 to R197). -/
structure SliceState where
  /-- Closed items of the RX flume and items of the TX flume, oldest first (R187). -/
  rx : List Nat := []
  tx : List Nat := []
  /-- The RX item being filled: its bytes, and whether it takes ERR and ATTR. -/
  fill : List Nat := []
  fillErr : Bool := false
  fillAttr : Bool := false
  /-- An RX packet is in progress; the rest of it is discarded (R192); bytes received of it so far (R179). -/
  rxBusy : Bool := false
  dropping : Bool := false
  stored : Nat := 0
  /-- A TX packet is being sent. -/
  sending : Bool := false
  /-- Items already taken of a TX packet that began before its END was there (R193). -/
  begun : List Nat := []
  /-- Values still in force of class A fields written during a packet, by key (R178). -/
  kept : SMap Nat := []
  /-- A start is pending (R177). -/
  start : Bool := false
  /-- Directions of a waiting flush (R194). -/
  flushRx : Bool := false
  flushTx : Bool := false
  /-- Faults that the source reported, resets of its count, and edges or transfers, for the tally samples (R89, R90, R184). -/
  faults : Nat := 0
  rebases : Nat := 0
  edges : Nat := 0
  /-- Time of the last counted edge or latch, 2^-16 ns (R89). -/
  edgeTs : Nat := 0
  /-- Levels of the phases (R184). -/
  phaseA : Bool := false
  phaseB : Bool := false
  /-- PERIOD and HIGH as committed, and as they run; pin C low; suspended by it; DIR as sampled; cycles of the running period (R185). -/
  pair : Option (Nat × Nat) := none
  running : Option (Nat × Nat) := none
  gateLow : Bool := false
  suspended : Bool := false
  dir : Bool := false
  phase : Nat := 0
  /-- Consecutive failures of the IO-Link message, and the device's process data (R186). -/
  failures : Nat := 0
  pdIn : List Nat := []
  pdOut : List Nat := []
  deriving DecidableEq, Repr

/-! CAN channels (08) -/

/-- An entry of a channel's remote queue (R215), with its number in the channel, the channel and buffer a guardian copy comes from, and
the cycle of the deadline it keeps. -/
structure RemoteEntry where
  frame : CanFrame
  source : Option (Nat × Nat) := none
  deadline : Option Nat := none
  serial : Nat := 0
  deriving DecidableEq, Repr

/-- What a channel offers to its bus (R209): a TX buffer, or an entry of its remote queue. -/
inductive CanSource where
  | buffer (b : Nat)
  | entry (serial : Nat)
  deriving DecidableEq, Repr

/-- One channel beside its registers and its window of region 0x2 (R205 to R224). -/
structure CanState where
  /-- FIFO elements as 96 bytes each, oldest first, and whether the next stored one carries LOSS (R214). -/
  fifo0 : List (List Nat) := []
  fifo1 : List (List Nat) := []
  loss0 : Bool := false
  loss1 : Bool := false
  remote : List RemoteEntry := []
  nextEntry : Nat := 0
  /-- Cycles of the requests of pending buffers (R210). -/
  asked : SMap Nat := []
  /-- Harvest bytes deferred by a pending buffer: buffer to offset and value (R211). -/
  deferred : SMap (List (Nat × Nat)) := []
  /-- Buffers passed to the guardian in this bus-off, those whose local copy was sent on its bus, and those whose guard frame is on its
  way, as bits (R221). -/
  passed : Nat := 0
  copied : Nat := 0
  guarding : Nat := 0
  /-- Start of the frame on the bus, as FT96, and what the channel itself offered with it (R209, R216). -/
  sof : Option Nat := none
  attempt : Option CanSource := none
  /-- EN was written 0, LOM was written 1 during it (R224, R217); filter elements as they were at its start, where written since (R213). -/
  stopping : Bool := false
  lomLate : Bool := false
  oldFilters : SMap (List Nat) := []
  /-- Recovery from bus-off has begun (R222). -/
  recovering : Bool := false
  /-- Consecutive good frames of the candidate under trial (R219). -/
  abdGood : Nat := 0
  /-- TUN_DEST (R226). -/
  tunDest : Nat := 0
  deriving DecidableEq, Repr

/-! Sawyers (09) -/

/-- One sawyer beside its registers (R232 to R247). -/
structure SawState where
  /-- A GROVE section marks it used, and its pin map: 0xFFFF none, 0 to 0xBF a slice pin, 0x100 to 0x11F a fast line (R250). -/
  used : Bool := false
  pins : List Nat := []
  /-- FIFOs, oldest word first. -/
  tx : List Nat := []
  rx : List Nat := []
  /-- Who queued the injection that waits (R246). -/
  injInit : Initiator := .yarder
  /-- Levels last written to the group pins, as bits. -/
  out : Nat := 0
  /-- The edge of a stalled edge wait has occurred, or a stalled WAIT has been satisfied (R240, R248). -/
  edge : Bool := false
  /-- Ticks left of the delay that runs (R237); the SAFE codes of its pins, two bits each (R234). -/
  delay : Nat := 0
  safe : Nat := 0
  /-- WRAP_START and WRAP_END in effect (R247). -/
  wrapStart : Nat := 0
  wrapEnd : Nat := 0x1FF
  /-- STAMP (R235), as FT96. -/
  stamp : Nat := 0
  /-- Time of the last post, 2^-16 ns, and the posts so far (R89, R243). -/
  postTs : Nat := 0
  posts : Nat := 0
  deriving DecidableEq, Repr

/-! The Almanac (03) -/

/-- A point entry (R56). -/
structure Point where
  kind : Nat
  unit : Nat
  sub : Nat
  output : Bool
  width : Nat
  bitoff : Nat
  deriving DecidableEq, Repr

/-- A section (R51). -/
structure Section where
  typ : Nat
  inst : Nat
  sver : Nat
  flags : Nat
  body : List Nat
  deriving DecidableEq, Repr

/-- An accepted image: the structure that results from it, and what its header says of it. -/
structure Image where
  sections : List Section
  /-- Type and instance of its sections, and for each its ordinal and the offset of its header in the image. -/
  named : List (Nat × Nat)
  places : List ((Nat × Nat) × (Nat × Nat))
  full : Bool
  version : Nat
  svn : Nat
  schema : Nat
  tgtStation : Nat
  hash : List Nat
  deriving DecidableEq, Repr

/-- What a check finds; a code, section or offset that no rule states is none. -/
inductive Verdict where
  | passed (image : Image)
  | refused (code sect off : Option Nat)
  deriving DecidableEq, Repr

/-- The Almanac beside its registers. -/
structure AlmState where
  /-- Structure RAM: the sections in force, in canonical order. -/
  force : List Section := []
  /-- What the check in progress will find, from what was taken at ENABLE (R60). -/
  checking : Option Verdict := none
  /-- The image in PENDING or APPLYING, and whether its global sections have switched (R481). -/
  coming : Option Image := none
  switched : Bool := false
  /-- TGT_STATION of the Almanac in force, and whether the hub treats it as foreign (R63). -/
  tgtStation : Nat := 0
  foreign : Bool := false
  /-- POINTMAP: lengths of the images and the point entries (R55, R56). -/
  inLen : Nat := 0
  outLen : Nat := 0
  points : List Point := []
  /-- The Almanac's value of every class A field, by key, where it is not the reset value (R66). -/
  values : SMap Nat := []
  /-- Keys of the class A fields that depart (R66). -/
  departing : List Nat := []
  deriving DecidableEq, Repr

/-! Bridge, locks, contexts and engines (12) -/

/-- What a tag of the split-transaction pool is used for (R318, R319). -/
inductive TagUse where
  /-- A register-driven command of a bank; a LOCK_ACQ of a bank for a page; a LOCK_REL that nobody waits for. -/
  | srd (bank : Nat)
  | lock (bank page : Nat)
  | unlock
  /-- A part of a host read; a host AtomicOp. -/
  | host (req part : Nat)
  | hostAtomic (req : Nat)
  /-- A prefetch into a slot. -/
  | prefetch (slot : Nat)
  /-- A read and a write of an engine's context: bytes. -/
  | dmaRead (ctx bytes : Nat)
  | dmaWrite (ctx bytes : Nat)
  deriving DecidableEq, Repr

/-- A command for another hub that is to leave with a tag: OP, byte 1, byte count, fabric address, class, data, and the context and
key slot of an engine's. -/
structure Request where
  use : TagUse
  op : Nat
  b1 : Nat := 0
  bytes : Nat
  fa : Nat
  tc : Nat := 4
  data : List Nat := []
  ctx : Nat := 0
  kslot : Nat := 0
  deriving DecidableEq, Repr

/-- A host read in progress: its PCIe tag, its address and length, the parts received and expected, and the prefetch slot it waits
for. -/
structure HostRead where
  ptag : Nat
  fa : Nat
  len : Nat
  parts : List (Option (List Nat))
  slot : Option Nat := none
  deriving DecidableEq, Repr

/-- A host AtomicOp in progress (R333): its PCIe tag, address, kind, operands, and attempts so far (R331). -/
structure HostAtomic where
  ptag : Nat
  fa : Nat
  kind : Nat
  data : List Nat
  tries : Nat := 0
  deriving DecidableEq, Repr

/-- A register-driven command that runs in a bank: OP, byte 1, bytes, address, data, and attempts so far (R331). -/
structure SrdRun where
  op : Nat
  b1 : Nat
  bytes : Nat
  fa : Nat
  data : List Nat
  tries : Nat := 0
  deriving DecidableEq, Repr

/-- A prefetch slot (R326, R327): what it holds or will hold, by window. -/
structure PrefetchSlot where
  fa : Nat
  len : Nat
  window : Nat
  poll : Bool
  data : Option (List Nat) := none
  deriving DecidableEq, Repr

/-- A posted write that left, for the NAK that may answer it (R323): who sent it (0 to 2 an SRD bank, 3 the host, 4 + c context c). -/
structure Posted where
  who : Nat
  dest : Nat
  tc : Nat
  flowSeq : Nat
  fa : Nat
  deriving DecidableEq, Repr

/-- The bridge beside its registers. -/
structure BrgState where
  tags : SMap TagUse := []
  /-- Tags in quarantine after a time-out (R320). -/
  quarantined : List Nat := []
  /-- Requests that wait for a tag, oldest first. -/
  waiting : List Request := []
  hostReads : SMap HostRead := []
  hostAtomics : SMap HostAtomic := []
  nextReq : Nat := 0
  slots : SMap PrefetchSlot := []
  posted : List Posted := []
  /-- Running SRD commands by bank. -/
  srd : SMap SrdRun := []
  /-- Who waits for its back-off to end (R331): an SRD bank, or 3 + r the host's AtomicOp r. -/
  backoff : List Nat := []
  /-- Pages each requester holds, by bank; losers of a crossed lock whose next acquisition is still refused (R331). -/
  locks : SMap (List Nat) := []
  lost : List Nat := []
  /-- Semaphores held here, by page number of the fabric address: the requester as 2 · hub + REQ. -/
  sems : SMap Nat := []
  /-- What a requester was last answered busy for here: page, and whether it has lost that acquisition in a crossing (R330). -/
  waits : SMap (Nat × Bool) := []
  /-- Page attributes of the BRIDGE section: region, first page, pages, S, P (R324). -/
  attrs : List (Nat × Nat × Nat × Bool × Bool) := []
  /-- Each hub's GLB_HEALTH and attention at its last FRESH cycle, by index (R335). -/
  lastHealth : SMap Nat := []
  attention : List Nat := []
  deriving DecidableEq, Repr

/-- A fault found for a context: cause, side, found by look-ahead, virtual address. -/
structure HeldFault where
  cause : Nat
  dest : Bool
  ahead : Bool
  va : Nat
  deriving DecidableEq, Repr

/-- An engine that holds a context (R343). -/
structure Engine where
  ctx : Nat
  /-- A descriptor is fetched; a read is outstanding. -/
  fetched : Bool := false
  reading : Bool := false
  deriving DecidableEq, Repr

/-- An entry of the translation cache (R341): context, first 4 KiB page number, 2 MiB page, fabric address, R, W, locked. -/
structure Translation where
  ctx : Nat
  page : Nat
  big : Bool
  fa : Nat
  r : Bool
  w : Bool
  locked : Bool
  deriving DecidableEq, Repr

/-- Contexts and engines beside their registers and records. -/
structure DmxState where
  engines : SMap Engine := []
  cache : List Translation := []
  queue : List (List Nat) := []
  /-- Held faults, rewinds without progress, by context. -/
  held : SMap HeldFault := []
  /-- Bytes gathered for a frame of a launch queue, by context (R338). -/
  gather : SMap (List Nat) := []
  retries : SMap Nat := []
  /-- ABORTs to be completed, by context: the bank that asked. -/
  aborts : SMap Nat := []
  /-- HV_CTX of the BRIDGE section. -/
  hvCtx : Nat := 0
  deriving DecidableEq, Repr

/-! Power, start-up and update (16) -/

/-- A Calendar trigger that waits for its unit's power slice (R433): when it came, and the entry's kind, unit and PARAM. -/
structure HeldTrigger where
  slice : Nat
  clk : Nat
  kind : Nat
  unit : Nat
  param : Nat
  deriving DecidableEq, Repr

/-- The PWR block beside its registers. -/
structure PwrState where
  /-- The main die is off in STANDBY (R437). -/
  standby : Bool := false
  /-- VAUX is lost and Vigil runs from VBAT alone (R462). -/
  vbat : Bool := false
  /-- Power slices on their way to RUN. -/
  waking : List Nat := []
  /-- RSEQ at entry to NAP, by power slice (R434). -/
  stamps : SMap Nat := []
  /-- What the pins of sleeping power slices carried at entry: pin A+k of slice n is 4n + k (R428). -/
  pins : SMap PinDrive := []
  /-- The cycle of the entry to STANDBY, from which the wake timer counts (R437). -/
  since : Nat := 0
  held : List HeldTrigger := []
  deriving DecidableEq, Repr

/-- A download of ROM recovery (R453): class, mode, bytes in all and received. -/
structure Download where
  cls : Nat
  mode : Nat
  total : Nat
  got : Nat
  deriving DecidableEq, Repr

/-- The UPD block beside its registers. -/
structure UpdState where
  /-- The engine image being loaded: class and region 0x4 offset (R440). -/
  loading : Option (Nat × Nat) := none
  /-- Slice microcode is loaded. -/
  microcode : Bool := false
  /-- Stump runs, with its RAM and flash area locked (R439). -/
  stumpLocked : Bool := false
  /-- Yarder pair 0 runs firmware from this region 0x4 offset; the firmware image that net recovery placed in SRAM. -/
  firmware : Option Nat := none
  netImage : Option Nat := none
  /-- Recovery: the open download, the classes complete in SRAM, the last SEQ with its answers, the UART's rate. -/
  download : Option Download := none
  received : List Nat := []
  last : Option (Nat × List (List Nat)) := none
  baud : Nat := 115200
  deriving DecidableEq, Repr

/-- An ageing monitor's latest reading (R472, R473): the reading, the port or die, whether beyond warning and beyond limit. -/
structure AgeReading where
  value : Nat
  place : Nat
  warn : Bool
  limit : Bool
  deriving DecidableEq, Repr

/-! Stations and twins (14) -/

/-- The STT block beside its registers. -/
structure SttState where
  /-- Stitched hubs' JOIN records by position, and the positions that the last JOIN carried (R390). -/
  records : SMap JoinHub := []
  carried : List Nat := []
  /-- The active holds ST0 in local fault until it is fenced (R399). -/
  resigning : Bool := false
  /-- REFEREE of the STATION section, and the twin hash (R395, R406). -/
  referee : Nat := 0
  twinHash : List Nat := []
  /-- Cycle of the latest harvest boundary, and the slices' quadrature counts and owner slots' next SSEQ at it (R398, R399). -/
  boundary : Nat := 0
  quadBase : SMap Nat := []
  sseqBase : SMap Nat := []
  /-- Active: items of the copy the standby is known to hold, and of it with the latest copy sent; a full copy is due (R398). -/
  base : SMap (List Nat) := []
  sent : SMap (List Nat) := []
  wantFull : Bool := false
  /-- Standby: the copied state, the cycle of the last committed copy, and the SSEQ base at it (R399). -/
  shadow : SMap (List Nat) := []
  committed : Option Nat := none
  copySseq : SMap Nat := []
  /-- Consecutive copies abandoned, and consecutive boundaries at which no copy began (R396). -/
  abandoned : Nat := 0
  absent : Nat := 0
  /-- The claim that waits for its answer: REASON, sends so far (R400); sends of start claims. -/
  claim : Option (Nat × Nat) := none
  starts : Nat := 0
  /-- Referee queue: claim, decision, code, oldest first (R401). -/
  refq : List (Nat × Nat × Nat) := []
  /-- Consecutive cycles in which a pair's ACTIVE was MISSED, by station (R401). -/
  missWatch : SMap Nat := []
  /-- Reports of the standby since the latest copy was sent. -/
  reports : Nat := 0
  /-- Time of the last GRANT taken (R402). -/
  grantTime : Nat := 0
  /-- Output image staged at a boundary since GRANT (R402). -/
  grantImage : Option (List Nat) := none
  /-- A lockstep mismatch since the last report (R405). -/
  lockMiss : Bool := false
  deriving DecidableEq, Repr

/-! Keys, cipher and tamper (13) -/

/-- The key of a slot and its epoch keys, with their use counts (R359, R367). -/
structure KeySlot where
  key : Nat
  bank0 : Nat := 0
  bank1 : Nat := 0
  uses : Nat := 0
  use0 : Nat := 0
  use1 : Nat := 0
  deriving DecidableEq, Repr

/-- A key command that runs in a bank (R384). -/
structure KeyRun where
  op : Nat
  record : Nat
  slot : Nat
  deriving DecidableEq, Repr

/-- A host GCM operation that runs in a bank (R372). -/
structure HostOp where
  op : Nat
  slot : Nat
  src : Nat
  dst : Nat
  aad : Nat
  len : Nat
  nonce : List Nat
  tag : List Nat
  deriving DecidableEq, Repr

/-- A reference of the SECURITY section (R381). -/
structure SecRef where
  slot : Nat
  attr : Nat
  dattr : Nat
  record : Nat
  keyId : Nat
  deriving DecidableEq, Repr

/-- CPH, KEY and VGL beside their registers. -/
structure SecState where
  slots : SMap KeySlot := []
  /-- Running commands and host operations, by bank. -/
  cmds : SMap KeyRun := []
  ops : SMap HostOp := []
  /-- Salts burned, by state code (R357), and public keys provisioned by record (R444). -/
  salts : SMap Nat := []
  pubKeys : SMap (List Nat) := []
  /-- RSPMAP and references of the SECURITY section in force. -/
  rspMap : List Nat := []
  refs : List SecRef := []
  /-- The class of TC3 to TC0 whose frame job ran last (R371). -/
  lastClass : Nat := 0
  /-- A SECURITY section has set the tamper enables since POR_N (R375). -/
  enablesSet : Bool := false
  deriving DecidableEq, Repr

end Sys2Proof.Machine
end

