-- ==== Sys2Proof/Machine/State.lean ====
section
/-! DEFINITION. The state of the hub as plain data, its state right after reset, and the ways a step can stop. -/

namespace Sys2Proof.Machine

/-- What the last access gave its initiator. -/
inductive Answer where
  /-- No access has been answered yet, or the last one was a write that was performed. -/
  | done
  /-- The words a read returned. -/
  | data (words : List Nat)
  /-- A bus error, an error completion or an error NAK (R30), with its reason code. -/
  | error (code : Nat)
  deriving DecidableEq, Repr

/-- What the block has sent to the outside, or handed to a unit that a later command stands for. -/
inductive Out where
  /-- A Collyn frame leaves on a switch port 0 to 7. -/
  | wire (port : Nat) (frame : Frame)
  /-- A frame already leaving is ended with the stomp FCS (R264). -/
  | stomp (port : Nat)
  /-- A frame is handed to the consumer behind an internal port, or (16) to a unit of the die that takes it directly. -/
  | deliver (port : Nat) (frame : Frame)
  /-- A mirror copy that the bridge writes to host memory by a flow context: the context, and the frame (R307). -/
  | mirror (ctx : Nat) (frame : Frame)
  /-- A write to host memory: address and bytes. -/
  | hostWrite (addr : Nat) (bytes : List Nat)
  /-- A PCIe completion: tag, status, bytes. -/
  | completion (tag status : Nat) (bytes : List Nat)
  /-- An MSI-X message: vector. -/
  | msix (vector : Nat)
  /-- What a port slice sent: slice, items. -/
  | serial (slice : Nat) (items : List Nat)
  /-- A frame on a CAN bus: channel, buffer, identifier word, control word, data. -/
  | can (channel buffer ident ctl : Nat) (data : List Nat)
  /-- The dominant acknowledgement of a received CAN frame; an error flag, dominant or recessive. -/
  | canAck (channel : Nat)
  | canFlag (channel : Nat) (dominant : Bool)
  /-- A PTP message on PL0: a delay request, a peer delay request or answer (R86). -/
  | ptp (message : PtpMessage)
  /-- A recovery packet. -/
  | packet (bytes : List Nat)
  deriving DecidableEq, Repr

structure State where
  /-- Commands waiting, first in, first out. -/
  pending : List Instr
  /-- Register fields that differ from their reset values, by Fld.key. -/
  regs : SMap Nat
  /-- Low halves staged for 64-bit registers, by the offset of the _LO register (R35). -/
  staged : SMap Nat
  /-- CCLK cycles since reset. -/
  clk : Nat
  /-- What has happened in the present cycle, as far as a table of coincidences asks for it; how many of the commands at the front of the
  queue fall in the same cycle as the command before them, as their sender says (notes/assumptions/35.md). -/
  cycle : List Mark
  together : Nat
  /-- Byte-addressed memories, by region · 2^40 + offset; unlisted bytes read 0 (log entry 2). -/
  mem : List Host.Cell
  /-- An RWB field was written with a value other than the one it held (R36). -/
  voided : Bool
  answer : Answer
  /-- What the block has sent, oldest first. -/
  egress : List Out
  /-- Draws of free values so far. -/
  freeCtr : Nat
  bom : BomState
  tim : TimState
  tly : SMap TallySlot
  /-- Queries running, by bank (R104). -/
  queries : SMap Query
  sch : SchState
  slc : SlcState
  fld : FldState
  chk : ChkState
  swc : SwcState
  ring : RingState
  /-- Port slices, and which have a PORT section, as bits. -/
  slices : SMap SliceState
  ported : Nat
  /-- CAN channels, and which have a CANCH section, as bits. -/
  cans : SMap CanState
  canned : Nat
  /-- Sawyers; and running reloads by grove: MASK and CLEAN (R247). -/
  saws : SMap SawState
  reloads : SMap (Nat × Bool)
  alm : AlmState
  sec : SecState
  stt : SttState
  brg : BrgState
  dmx : DmxState
  pwr : PwrState
  upd : UpdState
  /-- Latest readings of the ageing monitors (R472). -/
  ageing : SMap AgeReading
  /-- Bank supplies VIOA and VIOB outside their windows, as bits (R463). -/
  banksOut : Nat
  deriving DecidableEq, Repr

/-- Why the block stops. -/
inductive Fault where
  /-- Raised by every command but POR_N_ASSERT, SYS_RST_N_ASSERT and the read of a register with an RWB field, after such a field was
  written with another value (R36: the manual guarantees nothing about any part of the hub until the next reset). Safe: nothing is
  claimed there. -/
  | guaranteeVoid
  deriving DecidableEq, Repr

/-- Why a command has no answer. -/
inductive Refusal where
  /-- Raised by the dispatch for a command that has no meaning yet. Safe. -/
  | notModelled (mnemonic : String)
  deriving DecidableEq, Repr

/-- The machine right after reset: every register field at its reset value (none listed), every engine at rest. -/
def State.reset : State where
  pending := []
  regs := []
  staged := []
  clk := 0
  cycle := []
  together := 0
  mem := []
  voided := false
  answer := .done
  egress := []
  freeCtr := 0
  bom := {}
  tim := {}
  tly := []
  queries := []
  sch := {}
  slc := {}
  fld := {}
  chk := {}
  swc := {}
  ring := {}
  slices := []
  ported := 0
  cans := []
  canned := 0
  saws := []
  reloads := []
  alm := {}
  sec := {}
  stt := {}
  brg := {}
  dmx := {}
  pwr := {}
  upd := {}
  ageing := []
  banksOut := 0

end Sys2Proof.Machine
end

