-- ==== Sys2Proof/Machine/Ops.lean ====
section
/-!
DEFINITION. The operations every family shares: register fields, interrupts and counters, result registers, refused accesses,
memories, fabric time, fault words, Boom records and what leaves the block.
A block has no exception entry: an error flag, a refusal or an interrupt is an effect on State (R30, R47, R409).
-/

namespace Sys2Proof.Machine

/-- What a meaning answers. -/
abbrev Res := Host.Outcome State Fault Refusal

/-! Register fields -/

/-- The value a field holds. -/
def State.rd (s : State) (f : Fld) : Nat := s.regs.getD f.key f.rst

/-- A field takes a value, cut to its width. -/
def State.wr (s : State) (f : Fld) (v : Nat) : State :=
  { s with regs := s.regs.put f.key (v % 2 ^ f.w) f.rst }

/-- Whether a one-bit field is 1. -/
def State.on (s : State) (f : Fld) : Bool := s.rd f != 0

/-- A one-bit field takes a truth value. -/
def State.wrB (s : State) (f : Fld) (b : Bool) : State := s.wr f (b2n b)

/-- Sets a one-bit field (an interrupt or event bit). -/
def State.raise (s : State) (f : Fld) : State := s.wr f 1

/-- Sets bit n of a field that holds one bit per unit. -/
def State.raiseBit (s : State) (f : Fld) (n : Nat) : State := s.wr f (setBit (s.rd f) n true)

/-- Sets or clears bit n of such a field. -/
def State.wrBit (s : State) (f : Fld) (n : Nat) (b : Bool) : State := s.wr f (setBit (s.rd f) n b)

/-- Adds to a saturating counter. -/
def State.bump (s : State) (f : Fld) (n : Nat := 1) : State := s.wr f (satAdd f.w (s.rd f) n)

/-- Two 32-bit fields as one 64-bit number. -/
def State.rd64 (s : State) (lo hi : Fld) : Nat := s.rd hi * 2 ^ 32 + s.rd lo

/-- A 64-bit number into two 32-bit fields. -/
def State.wr64 (s : State) (lo hi : Fld) (v : Nat) : State := (s.wr lo v).wr hi (v / 2 ^ 32)

/-- A 96-bit number into three 32-bit fields, lowest first. -/
def State.wr96 (s : State) (f : Nat → Fld) (v : Nat) : State :=
  ((s.wr (f 0) v).wr (f 1) (v / 2 ^ 32)).wr (f 2) (v / 2 ^ 64)

/-- Three 32-bit fields as one number. -/
def State.rd96 (s : State) (f : Nat → Fld) : Nat := s.rd (f 0) + s.rd (f 1) * 2 ^ 32 + s.rd (f 2) * 2 ^ 64

/-- The bank of banked registers that an initiator uses (R74). -/
def bankOf : Initiator → Nat
  | .yarder => 0
  | .bar0 => 1
  | .tc4 => 2
  | .dma => 2

/-- The code of an initiator in GLB_ACC_ERR.INIT. -/
def initCode : Initiator → Nat
  | .yarder => 0
  | .bar0 => 1
  | .tc4 => 2
  | .dma => 3

/-- A truth value per index below n, as bits. -/
def packBits (n : Nat) (p : Nat → Bool) : Nat := (List.range n).foldl (fun acc k => acc + b2n (p k) * 2 ^ k) 0

/-! GLB_IRQ_SUM -/

/-- The stored word at a register offset whose fields all reset to 0. -/
def State.word0 (s : State) (off : Nat) : Nat :=
  (s.regs.filter (fun p => p.1 / 32 == off)).foldl (fun n p => n + p.2 * 2 ^ (p.1 % 32)) 0

/-- Whether an interrupt register has a bit that is pending and enabled. -/
def State.irqAt (s : State) (irq en : Nat) : Bool := Nat.land (s.word0 irq) (s.word0 en) != 0

/-- Enabled pending interrupts of slices, channels and sawyers. -/
def State.sliceIrq (s : State) (n : Nat) : Bool := s.irqAt (F.PSL_Sn_IRQ_RXPKT n).off (F.PSL_Sn_IRQ_EN_EN n).off
def State.canIrq (s : State) (c : Nat) : Bool := s.irqAt (F.CAN_Cc_IRQ_BOFF c).off (F.CAN_Cc_IRQ_EN_EN c).off
def State.sawIrq (s : State) (n : Nat) : Bool := s.irqAt (F.SAW_Sn_IRQ_HALT n).off (F.SAW_Sn_IRQ_EN_EN n).off

/-- Whether block n has an interrupt that is pending and enabled in the block. -/
def State.blockIrq (s : State) (n : Nat) : Bool :=
  match n with
  | 1 => s.irqAt F.ALM_IRQ_DONE.off F.ALM_IRQ_EN_EN.off
  | 4 => s.irqAt F.TIM_IRQ_LOCK.off F.TIM_IRQ_EN_EN.off
  | 5 => s.irqAt F.TLY_STATE_IRQ_SLOT.off F.TLY_STATE_EN_EN.off || s.irqAt F.TLY_RES_IRQ_SLOT.off F.TLY_RES_EN_EN.off
  | 6 => s.irqAt F.SCH_IRQ_LATECOR.off F.SCH_IRQ_EN_EN.off
  | 7 => s.irqAt F.SLC_EVT_IRQ_EVT.off F.SLC_EVT_EN_EN.off
  | 8 => s.irqAt F.FLD_IRQ_FAULT.off F.FLD_IRQ_EN_EN.off
  | 9 => s.irqAt F.CHK_IRQ_FEED.off F.CHK_IRQ_EN_EN.off
  | 10 => (List.range 48).any s.sliceIrq
  | 11 => (List.range 16).any s.canIrq
  | 12 => (List.range 128).any s.sawIrq
  | 16 => s.irqAt F.CRL_IRQ_HDONE.off F.CRL_IRQ_EN_EN.off
  | 17 => s.irqAt F.SWC_IRQ_DROP.off F.SWC_IRQ_EN_EN.off
  | 18 => s.irqAt F.BRG_IRQ_PWERR.off F.BRG_IRQ_EN_EN.off
  | 19 => s.irqAt F.DMX_IRQ_FAULT.off F.DMX_IRQ_EN_EN.off
  | 20 => s.irqAt F.CPH_IRQ_AUTHFAIL.off F.CPH_IRQ_EN_EN.off
  | 21 => s.irqAt F.KEY_IRQ_DONE.off F.KEY_IRQ_EN_EN.off
  | 22 => s.irqAt F.STT_IRQ_ROLE.off F.STT_IRQ_EN_EN.off
  | 23 => s.irqAt F.PWR_IRQ_WAKELATE.off F.PWR_IRQ_EN_EN.off
  | 24 => s.irqAt F.VGL_IRQ_TAMPER.off F.VGL_IRQ_EN_EN.off
  | 25 => s.irqAt F.UPD_IRQ_ELDONE.off F.UPD_IRQ_EN_EN.off
  | 26 => s.irqAt F.BOM_IRQ_FAULT.off F.BOM_IRQ_EN_EN.off
  | _ => false

/-- GLB_IRQ_SUM.PEND: block n pending and enabled in GLB_IRQ_EN. -/
def State.irqSum (s : State) : Nat := packBits 27 (fun n => bit (s.rd F.GLB_IRQ_EN_EN) n && s.blockIrq n)

/-! What every command does around its effect -/

/-- The enabled pending bits of BRG_IRQ and DMX_IRQ. -/
def State.brgPending (s : State) : Nat := Nat.land (s.word0 F.BRG_IRQ_PWERR.off) (s.word0 F.BRG_IRQ_EN_EN.off)
def State.dmxPending (s : State) : Nat := Nat.land (s.word0 F.DMX_IRQ_FAULT.off) (s.word0 F.DMX_IRQ_EN_EN.off)

/-- Whether b has a bit that a has not. -/
def newBits (a b : Nat) : Bool := Nat.lor a b != a

/-- The vectors that an active endpoint raises when the state goes from `a` to `b` (R334): LOCAL on each change of GLB_IRQ_SUM from
zero, ERR and DMX on each enabled bit set. -/
def newVectors (a b : State) : List Out :=
  if b.on F.BRG_STATUS_EP then
    (if a.irqSum = 0 ∧ b.irqSum ≠ 0 then [.msix (b.rd F.BRG_VEC_LOCAL)] else []) ++
      (if newBits a.brgPending b.brgPending then [.msix (b.rd F.BRG_VEC_ERR)] else []) ++
      (if newBits a.dmxPending b.dmxPending then [.msix (b.rd F.BRG_VEC_DMX)] else [])
  else []

/-- The state after a command's effect, with the vectors it raises. The command ends its cycle unless the next one falls in it too. -/
def State.settle (a b : State) : State :=
  { b with egress := b.egress ++ newVectors a b, cycle := if b.together = 0 then [] else b.cycle, together := b.together - 1 }

/-- The effect `k` of a command that acts on Vigil, the HV die (R13), the supplies or the resets too, while the manual still guarantees the hub's
behaviour (R36). -/
def guardedVigil (s : State) (k : State → State) : Res :=
  if s.voided then .fault .guaranteeVoid else .next (s.settle (k s))

/-- The effect `k` on the main die; in STANDBY, where the main die is without supply (R437), there is none. -/
def guarded (s : State) (k : State → State) : Res :=
  guardedVigil s (fun s => if s.pwr.standby then s else k s)

/-! Result registers (R40, R41) -/

/-- The fields of the result register at an offset. -/
def resValid (off : Nat) : Fld := ⟨off, 31, 1, 0⟩
def resStale (off : Nat) : Fld := ⟨off, 30, 1, 0⟩
def resSeq (off : Nat) : Fld := ⟨off, 16, 8, 0⟩
def resCode (off : Nat) : Fld := ⟨off, 0, 16, 0⟩

/-- Starting an operation: SEQ one up modulo 256, VALID and STALE 0 (R41). -/
def State.resStart (s : State) (off : Nat) : State :=
  ((s.wr (resSeq off) (s.rd (resSeq off) + 1)).wr (resValid off) 0).wr (resStale off) 0

/-- Completing an operation with a code (R41). -/
def State.resDone (s : State) (off code : Nat) : State :=
  ((s.wr (resCode off) code).wr (resValid off) 1).wr (resStale off) 0

/-! Addresses and refused accesses -/

/-- The fabric address of an offset of a region of this hub (R21). -/
def State.ownFa (s : State) (region off : Nat) : Nat :=
  s.rd F.GLB_POS_STATION * 2 ^ 46 + s.rd F.GLB_POS_HUBPOS * 2 ^ 44 + region * 2 ^ 40 + off

/-- Captures a refused access (R47): the first is held, a later one sets OVF. -/
def State.capture (s : State) (init : Initiator) (fa code : Nat) : State :=
  if s.on F.GLB_ACC_ERR_CAPT then s.raise F.GLB_ACC_ERR_OVF
  else
    ((((s.raise F.GLB_ACC_ERR_CAPT).wr F.GLB_ACC_ERR_INIT (initCode init)).wr F.GLB_ACC_ERR_CODE code).wr
      F.GLB_ACC_ADDR_LO_ADDR fa).wr F.GLB_ACC_ADDR_HI_ADDR (fa / 2 ^ 32)

/-- A refused access: captured, and answered with an error (R30). -/
def State.refuse (s : State) (init : Initiator) (fa code : Nat) : State :=
  { s.capture init fa code with answer := .error code }

/-- A refused access to a register of this hub. -/
def State.refuseReg (s : State) (init : Initiator) (off code : Nat) : State :=
  s.refuse init (s.ownFa 0 off) code

/-- An access performed without data to return. -/
def State.ack (s : State) : State := { s with answer := .done }

/-- An access that returned words. -/
def State.give (s : State) (ws : List Nat) : State := { s with answer := .data ws }

/-- Something leaves the block. -/
def State.emit (s : State) (o : Out) : State := { s with egress := s.egress ++ [o] }

/-! Coincidences within one cycle -/

/-- A happening of the present cycle is noted; the next cycle forgets it. -/
def State.mark (s : State) (m : Mark) : State := { s with cycle := m :: s.cycle }

/-- Whether it has happened in the present cycle. -/
def State.marked (s : State) (m : Mark) : Bool := s.cycle.contains m

/-- Whether a command that satisfies `p` follows in the present cycle. -/
def State.ahead (s : State) (p : Instr → Bool) : Bool := (s.pending.take s.together).any p

/-! Free values -/

/-- The next free value (notes/assumptions/5.md). -/
def State.free (s : State) : Nat := Config.freeValue s.freeCtr

/-- A free member of a list: what is left open is one of the values that a rule lists. -/
def State.freeOf (s : State) (l : List Nat) : Nat := l.getD (s.free % l.length) 0

/-- The free value is drawn. -/
def State.draw (s : State) : State := { s with freeCtr := s.freeCtr + 1 }

/-! Time -/

/-- Fabric time in 2^-16 ns. -/
def State.now (s : State) : Nat := s.tim.counter / 65536

/-- Fabric time runs once an Almanac is in force and the servo has left FREE, or when the counter has been set;
before, records carry time 0 (R418). -/
def State.timeRuns (s : State) : Bool := s.rd F.TIM_STATUS_SERVO != 0

/-- The present FT96 stamp. -/
def State.stamp (s : State) : Nat := ft96 s.now

/-! Memories -/

/-- The byte at an address; a byte not listed reads 0 (log entry 2). -/
def Mem.get (m : List Host.Cell) (a : Nat) : Byte := SMap.getD m a 0

/-- The byte at an address takes a value; the canonical form is kept. -/
def Mem.set (m : List Host.Cell) (a : Nat) (v : Byte) : List Host.Cell := SMap.put m a v 0

/-- The canonical form: addresses rise, and no entry holds what an unlisted address reads as. -/
def Memory.wf (m : List Host.Cell) : Bool := SMap.rises m && m.all (fun c => c.2 != 0)

/-- The address of an offset of a region's memory. -/
def memAddr (region off : Nat) : Nat := region * 2 ^ 40 + off

/-- The regions of memories that no fabric address reaches: staging RAM and flash. -/
def stagingRegion : Nat := 16
def flashRegion : Nat := 17

/-- n bytes from an address. -/
def Mem.bytes (m : List Host.Cell) (a : Nat) : Nat → List Nat
  | 0 => []
  | n + 1 => (Mem.get m a).toNat :: Mem.bytes m (a + 1) n

/-- Bytes stored from an address. -/
def Mem.store (m : List Host.Cell) (a : Nat) : List Nat → List Host.Cell
  | [] => m
  | b :: bs => Mem.store (Mem.set m a (BitVec.ofNat 8 b)) (a + 1) bs

/-- n bytes of a region. -/
def State.bytes (s : State) (region off n : Nat) : List Nat := Mem.bytes s.mem (memAddr region off) n

/-- A little-endian number of n bytes of a region. -/
def State.le (s : State) (region off n : Nat) : Nat := ofLe (s.bytes region off n)

/-- Bytes stored into a region. -/
def State.store (s : State) (region off : Nat) (bs : List Nat) : State :=
  { s with mem := Mem.store s.mem (memAddr region off) bs }

/-! Boom records (R418, R419) -/

/-- The subsystem that writes a record: its CODE's, and for a fault the faulty one (R418). -/
def BoomRec.source (r : BoomRec) : Nat := if r.kind = 1 then r.unit else if r.code = 0 then r.writer else r.code / 256

/-- The queue with a record: the records of one cycle stand by ascending subsystem number (R419). -/
def State.boomPlace (s : State) (r : BoomRec) : List BoomRec :=
  let n := s.bom.queue.length - s.cycle.count .recordQueued
  let (low, high) := (s.bom.queue.drop n).partition (fun x => decide (x.source ≤ r.source))
  s.bom.queue.take n ++ low ++ r :: high

/-- A record joins the queue of 16, or is lost. -/
def State.boom (s : State) (r : BoomRec) : State :=
  let q := s.boomPlace r
  let t := { s with bom := { s.bom with queue := q.take 16 } }
  if q.length ≤ 16 then t.mark .recordQueued else (t.bump F.BOM_STAT_QLOST).raise F.BOM_IRQ_QLOST

/-- A record of KIND 0x02 of a subsystem without a CODE of its own: DATA byte 24 holds the unit's new state (R418). -/
def State.boomState (s : State) (subsys unit state : Nat) : State :=
  s.boom { code := 0, kind := 2, unit := unit, data := state, writer := subsys }

/-- A record written at most once per 100 ms for its source, carrying the number suppressed (R414, R418). -/
def State.boomLimited (s : State) (source : Nat) (r : BoomRec) : State :=
  match s.bom.limits.get? source with
  | some l =>
    if s.clk < l.lastClk + msClk 100 then
      { s with bom := { s.bom with limits := s.bom.limits.insert source { l with suppressed := l.suppressed + 1 } } }
    else
      let s := { s with bom := { s.bom with limits := s.bom.limits.insert source ⟨s.clk, 0⟩ } }
      s.boom { r with suppr := min l.suppressed 0xFFFF, flags := r.flags + 2 }
  | none =>
    let s := { s with bom := { s.bom with limits := s.bom.limits.insert source ⟨s.clk, 0⟩ } }
    s.boom { r with flags := r.flags + 2 }

/-! Fault words (R409, R410, R414) -/

/-- Whether the class table of R409 gives a class to a subsystem. -/
def classGiven (subsys cls : Nat) : Bool :=
  if cls = 3 then subsys == 0
  else if cls = 6 then [0x08, 0x09, 0x10, 0x16].contains subsys
  else decide (cls < 6)

/-- The reaction of a subsystem and class (R414); UE and LOCK are handled as at least NOTIFY. -/
def State.reaction (s : State) (subsys cls : Nat) : Nat :=
  let r := bits (s.rd (F.BOM_REACTs_REACT subsys)) (2 * cls) 2
  if (cls = 1 ∨ cls = 3) ∧ r < 2 then 2 else r

/-- The capture of the first fault (R410): of two in one cycle, the lower subsystem's. -/
def State.captureFault (s : State) (subsys cls : Nat) : State :=
  if s.on F.BOM_FIRST_CAPT then
    let s := s.raise F.BOM_FIRST_OVF
    if s.marked .faultTaken && decide (subsys < s.rd F.BOM_FIRST_SUBSYS) then
      (s.wr F.BOM_FIRST_SUBSYS subsys).wr F.BOM_FIRST_CLASS cls
    else s
  else
    ((((s.raise F.BOM_FIRST_CAPT).wr F.BOM_FIRST_SUBSYS subsys).wr F.BOM_FIRST_CLASS cls).wr96
      F.BOM_FIRST_T_TIME s.stamp).mark .faultTaken

/-- A read of BOM_FIRST follows in this cycle. -/
def State.firstReadAhead (s : State) : Bool :=
  s.ahead (fun i => match i with
    | .clearOnRead _ off len => decide (off.toNat ≤ F.BOM_FIRST_CAPT.off) && decide (F.BOM_FIRST_CAPT.off < off.toNat + len)
    | _ => false)

/-- A fault meets the capture; a read of BOM_FIRST in the same cycle goes first (R423). -/
def State.firstFault (s : State) (subsys cls : Nat) : State :=
  if s.firstReadAhead then s.mark (.faultWaits subsys cls) else s.captureFault subsys cls

/-- The faults that waited for a read of BOM_FIRST are captured. -/
def State.waitingFaults (s : State) : State :=
  s.cycle.foldl (fun t m => match m with
    | .faultWaits subsys cls => t.captureFault subsys cls
    | _ => t) s

/-- A detected fault: fault word, first capture, record and interrupt as its reaction gives (R409, R410, R414).
The stop of a unit under ISOLATE is the caller's, which knows the unit. -/
def State.fault (s : State) (subsys cls : Nat) (inj : Bool) : State :=
  if classGiven subsys cls then
    let s := (s.raiseBit (F.BOM_FWs_CLASS subsys) cls).bump (F.BOM_FWs_COUNT subsys)
    let s := if inj then s.raise (F.BOM_FWs_INJ subsys) else s
    let s := s.firstFault subsys cls
    let r : BoomRec := { code := 0x1A10 + cls, kind := 1, flags := b2n inj, unit := subsys }
    match s.reaction subsys cls with
    | 0 => s
    | 1 => s.boomLimited (8 * subsys + cls) r
    | _ => (s.boom r).raise F.BOM_IRQ_FAULT
  else s

end Sys2Proof.Machine
end

