-- ==== Sys2Proof/Machine/PowerState.lean ====
section
/-! DEFINITION. The 64 power slices: which one a unit belongs to, and its state (16 R427, R428, R433). -/

namespace Sys2Proof.Machine

/-- Power slices of units (R427). -/
def slicePower (n : Nat) : Nat := n / 4
def canPower (c : Nat) : Nat := 12 + c / 4
def sawPower (n : Nat) : Nat := 16 + n / 8
def gcmPower (k : Nat) : Nat := 32 + k
def dmaPower (e : Nat) : Nat := 40 + e / 2
def portPower (p : Nat) : Nat := 48 + p
def pciePower : Nat := 56
def yarderPower : Nat := 57

/-- States of R428. -/
def pRun : Nat := 0
def pDoze : Nat := 1
def pNap : Nat := 2
def pHibernate : Nat := 3

/-- The state of a power slice. -/
def State.power (s : State) (n : Nat) : Nat := s.rd (F.PWR_Sn_STAT_STATE n)
def State.toPower (s : State) (n st : Nat) : State := s.wr (F.PWR_Sn_STAT_STATE n) st

/-- Its units run; input reaches them: in DOZE an edge is kept, in NAP and HIBERNATE it is not received (R432). -/
def State.powered (s : State) (n : Nat) : Bool := s.power n == pRun
def State.hears (s : State) (n : Nat) : Bool := s.power n == pRun || s.power n == pDoze

/-- The pads of a slice's bank are high-impedance and read 0 while its supply is outside its window (R463). -/
def State.padsOff (s : State) (n : Nat) : Bool := bit s.banksOut (if n < 24 then 0 else 1)

/-- A Calendar trigger for a unit whose power slice is not in RUN is held (R433). -/
def State.holdTrigger (s : State) (n kind unit param : Nat) : State :=
  { s with pwr := { s.pwr with held := s.pwr.held ++ [⟨n, s.clk, kind, unit, param⟩] } }

/-- A sleeping power slice starts to wake. -/
def State.wake (s : State) (n : Nat) : State :=
  if s.powered n || s.pwr.waking.contains n then s else { s with pwr := { s.pwr with waking := s.pwr.waking ++ [n] } }

end Sys2Proof.Machine
end

