-- ==== Sys2Proof/Machine/Frames.lean ====
section
/-!
DEFINITION. Frames between the hub's units and its ports: addresses, wrap, the choice of a direction, origination, delivery,
end-to-end NAKs, partner violations, and the arrival window (10 R253 to R270, R289, R290; 11 R295, R298; 14 R389).
-/

namespace Sys2Proof.Machine

/-! Numbers and lengths -/

/-- GLB_SERIAL. -/
def State.serial (s : State) : Nat := s.rd64 F.GLB_SERIAL_LO_SERIAL F.GLB_SERIAL_HI_SERIAL

/-- This hub as DEST and SRC name it. -/
def State.self (s : State) : Nat := s.rd F.GLB_POS_STATION * 4 + s.rd F.GLB_POS_HUBPOS

/-- Bytes of a frame from DA through FCS (R256). -/
def frameLen (f : Frame) : Nat := max 64 (50 + f.payload.length + if f.kslot = 0 then 0 else 16)

/-- Cells a frame of L bytes takes (R295). -/
def cellsOf (len : Nat) : Nat := (len + 63) / 64

/-- Whether a is newer than b by w-bit serial-number arithmetic (R95). -/
def newer (w a b : Nat) : Bool :=
  let d := (a + 2 ^ w - b % 2 ^ w) % 2 ^ w
  decide (1 ≤ d) && decide (d < 2 ^ (w - 1))

/-! Ports -/

/-- Ports 0 to 3 are ring ports, 4 to 6 stitch ports, 7 is PL0 (R16). -/
def portUsed (s : State) (p : Nat) : Bool :=
  if p < 4 then s.on (F.CRL_Pp_CFG_USED p) else s.on (F.STT_Pk_CFG_USED (p - 4))
def portStateF (p : Nat) : Fld := if p < 4 then F.CRL_Pp_STATUS_STATE p else F.STT_Pk_STATUS_STATE (p - 4)
def portLockF (p : Nat) : Fld := if p < 4 then F.CRL_Pp_STATUS_LOCK p else F.STT_Pk_STATUS_LOCK (p - 4)
def portLfF (p : Nat) : Fld := if p < 4 then F.CRL_Pp_STATUS_LF p else F.STT_Pk_STATUS_LF (p - 4)
def portRfF (p : Nat) : Fld := if p < 4 then F.CRL_Pp_STATUS_RF p else F.STT_Pk_STATUS_RF (p - 4)
def portHbF (p : Nat) : Fld := if p < 4 then F.CRL_Pp_STATUS_HB p else F.STT_Pk_STATUS_HB (p - 4)

/-- The code of STATE in which a port is UP, READY, SETTLE, DOWN (R255). -/
def portUp (s : State) (p : Nat) : Bool := s.rd (portStateF p) == 3
def portReady (s : State) (p : Nat) : Bool := s.rd (portStateF p) == 2
def portSettle (s : State) (p : Nat) : Bool := s.rd (portStateF p) == 1
def portDown (s : State) (p : Nat) : Bool := s.rd (portStateF p) == 0

/-- The hop state of a port. -/
def State.mac (s : State) (p : Nat) : MacState := s.ring.macs.getD p {}

/-- The hop state of a port changes. -/
def State.setMac (s : State) (p : Nat) (m : MacState) : State :=
  { s with ring := { s.ring with macs := s.ring.macs.put p m {} } }

/-- Whether the hub carries the station's ring ports. -/
def State.ringHub (s : State) : Bool := s.on F.CRL_CTL_RING_EN

/-- Wrapping east while AE or BE is not UP, west while AW or BW is not UP (R270). -/
def State.wrapE (s : State) : Bool := s.ringHub && !(portUp s 0 && portUp s 2)
def State.wrapW (s : State) : Bool := s.ringHub && !(portUp s 1 && portUp s 3)

/-- After a port changed state: the wrap bits, and WRAP and UNWRAP where a wrap began or ended (R270). -/
def State.wrapChanged (s : State) : State :=
  let e0 := s.on F.CRL_STATUS_WRAP_E
  let w0 := s.on F.CRL_STATUS_WRAP_W
  let e1 := s.wrapE
  let w1 := s.wrapW
  let s := (s.wrB F.CRL_STATUS_WRAP_E e1).wrB F.CRL_STATUS_WRAP_W w1
  let s := if (e1 && !e0) || (w1 && !w0) then s.raise F.CRL_IRQ_WRAP else s
  if (e0 && !e1) || (w0 && !w1) then s.raise F.CRL_IRQ_UNWRAP else s

/-- Quarantine shows in CRL_STATUS and GLB_HEALTH (R282). -/
def State.quarantined (s : State) : Bool := s.on F.CRL_STATUS_QUAR
/-- The pins follow the quarantine rule also while TSAFE is set (R379). -/
def State.pinQuar (s : State) : Bool := s.quarantined || s.on F.VGL_STATUS_TSAFE
def State.admitted (s : State) : Bool := s.on F.CRL_STATUS_ADMITTED

/-! Twins' hubs at rest (14 R397) -/

/-- Roles of R396. -/
def roleNone : Nat := 0
def roleUnsync : Nat := 1
def roleSync : Nat := 2
def roleTaking : Nat := 3
def roleActive : Nat := 4
def roleFenced : Nat := 5

def State.role (s : State) : Nat := s.rd F.STT_STATUS_ROLE

/-- A standby: UNSYNC, SYNC, or TAKING before its drivers are enabled. -/
def State.standby (s : State) : Bool :=
  s.role == roleUnsync || s.role == roleSync || s.role == roleTaking

/-- A twin that does not drive. -/
def State.twinIdle (s : State) : Bool := s.standby || s.role == roleFenced

/-! The choice of a ring direction (R267) -/

/-- Whether going from m to p on ring A crosses the link between c and c + 1. -/
def crossesA (n c m p : Nat) : Bool :=
  c != 0xFFFF && decide ((c + n - m % n) % n < (p + n - m % n) % n)

/-- Whether going from m to p on ring B crosses it. -/
def crossesB (n c m p : Nat) : Bool :=
  c != 0xFFFF && decide ((m + 2 * n - 1 - c % n) % n < (m + n - p % n) % n)

/-- The direction R267 gives from position m to p: some false is ring A, some true ring B. -/
def direction (n : Nat) (cuts : List Nat) (m p : Nat) : Option Bool :=
  let a := !(cuts.any (fun c => crossesA n c m p))
  let b := !(cuts.any (fun c => crossesB n c m p))
  let aFirst := decide ((p + n - m % n) % n ≤ (m + n - p % n) % n)
  if aFirst then (if a then some false else if b then some true else none)
  else (if b then some true else if a then some false else none)

/-- Whether a frame meets a wrap and goes on (R270): TC0 to TC5, and HARVEST. -/
def wraps (f : Frame) : Bool := decide (f.tc ≤ 5) || f.typ == 1

/-- The egress of a frame due on a ring, if it leaves at all (R270). -/
def State.ringEgress (s : State) (ringB : Bool) (f : Frame) : List Nat :=
  if ringB then (if s.wrapW then (if wraps f then [0] else []) else [3])
  else (if s.wrapE then (if wraps f then [3] else []) else [0])

/-! Placement in the switch core -/

/-- A frame waits to be placed in the buffer. -/
def State.arrive (s : State) (a : Arrival) : State :=
  { s with swc := { s.swc with arrivals := s.swc.arrivals ++ [{ a with ingress := s.now }] } }

/-- The internal port that consumes a frame addressed to this hub (R298); none: a unit of the die takes it directly. -/
def consumer (f : Frame) : Option Nat :=
  if f.kslot ≠ 0 then some 10
  else match f.typ with
    | 1 => some 11
    | 5 => some 8
    | 6 => if f.ctx = 0 then some 8 else some 12
    | 7 => if f.ctx = 0 then some 8 else some 12
    | 0xA => some 9
    | 0xB => some 9
    | _ => none

/-- A frame is delivered to this hub. -/
def State.deliver (s : State) (inPort : Nat) (f : Frame) (undo : Option (Nat × Option Window) := none) : State :=
  match consumer f with
  | some p => s.arrive { inPort := inPort, outs := [p], frame := f, undo := undo }
  | none => s.emit (.deliver 16 f)

/-- The stitch port of a hub position of this station (SWC_FWD, R298): a byte with its valid bit. -/
def State.fwdPort (s : State) (pos : Nat) : Option Nat :=
  let b := bits (s.rd F.SWC_FWD_FWD) (8 * pos) 8
  if bit b 7 then some (b % 16) else none

/-- The stitch ports of every other hub of this station that has one. -/
def State.stitchedPorts (s : State) : List Nat :=
  (List.range 4).filterMap (fun h => if h = s.rd F.GLB_POS_HUBPOS then none else s.fwdPort h)

/-- The uplink of a hub without ring ports. -/
def State.uplink (s : State) : Option Nat :=
  if s.on F.SWC_UPLINK_VALID then some (s.rd F.SWC_UPLINK_PORT) else none

/-- Types a quarantined hub may originate (R282): ADMIT, RSP, NAK, EVENT; it goes on sending HARVEST images and time. -/
def quarantineSends (f : Frame) : Bool :=
  [0x1, 0x2, 0x3, 0x6, 0x7, 0xA, 0xB, 0xD].contains f.typ

/-- The FLOWSEQ of a class advances; the frame carries SRC, FLOWSEQ, EPOCH, correction 0, and DUP in TC6 and TC7 only (R257, R79, R267,
R28). -/
def State.stampFrame (s : State) (f : Frame) : State × Frame :=
  let q := s.ring.flowTx.getD f.tc 0
  ({ s with ring := { s.ring with flowTx := s.ring.flowTx.put f.tc ((q + 1) % 2 ^ 32) 0 } },
   { f with src := s.self, flowSeq := q, epoch := s.rd F.CRL_EPOCH_CUR, corr := 0, dup := decide (6 ≤ f.tc),
            kepoch := if f.kslot = 0 then 0 else s.rd F.CRL_KEY_TX })

/-- Where a frame originated here goes (R267, R298, R258, R389): outputs and ring of origin, or the code of its refusal. -/
def State.route (s : State) (f : Frame) : Except Nat (List Nat × Bool) :=
  let st := f.dest / 4
  let pos := f.dest % 4
  let local_ := match consumer f with
    | some p => [p]
    | none => []
  if f.dest = s.self then .ok (local_, false)
  else if st = s.rd F.GLB_POS_STATION ∧ st ≠ 0 then
    if s.ringHub then
      match s.fwdPort pos with
      | some p => .ok ([p], false)
      | none => .error 0x1103
    else
      match s.fwdPort pos, s.uplink with
      | some p, _ => .ok ([p], false)
      | none, some p => .ok ([p], false)
      | none, none => .error 0x1103
  else if !s.ringHub then
    let own := if st = 1023 ∧ pos = s.rd F.GLB_POS_HUBPOS ∧ f.typ ≠ 4 ∧ f.typ ≠ 0xC then local_ else []
    match s.uplink with
    | some p => .ok (own ++ [p], false)
    | none => .error 0x1103
  else
    let stitched :=
      if st = 1023 then
        if f.typ = 4 ∨ f.typ = 0xC then s.stitchedPorts
        else if pos = s.rd F.GLB_POS_HUBPOS then local_ else (s.fwdPort pos).toList
      else []
    if f.tc ≥ 6 then .ok (stitched ++ s.ringEgress false f ++ s.ringEgress true f, false)
    else if st = 1023 then .ok (stitched ++ s.ringEgress false f, false)
    else
      let m := s.rd F.CRL_STATUS_POS
      match s.ring.posmap.get? st with
      | none => if f.typ = 0xB then .ok (s.ringEgress false f, false) else .error 0x1004
      | some p =>
        if f.typ = 0xB ∧ m = 0x3FF then .ok (s.ringEgress false f, false)
        else match direction (max 1 (s.rd F.CRL_MAP_HOPS)) s.ring.cuts m p with
          | some d => .ok (s.ringEgress d f, d)
          | none => .error 0x1004

/-- A refusal at the originator: 0x1004 counts in CRL_CNT2.UNREACH (R267). -/
def State.unreachable (s : State) (code : Nat) : State :=
  if code = 0x1004 then s.bump F.CRL_CNT2_UNREACH else s

/-- An originated frame is sent on its way, or refused with a code (0 when sent). A frame that a quarantined hub may not
originate is not sent and draws no code (R282). -/
def State.originate (s : State) (inPort : Nat) (f : Frame) (lq : Option Nat := none) : State × Nat :=
  if s.quarantined && !(quarantineSends f) then (s, 0)
  else match s.route f with
    | .error c => (s.unreachable c, c)
    | .ok (outs, d) =>
      let (s, f) := s.stampFrame { f with ringB := d }
      let outs := if f.kslot = 0 then outs else [10]
      match outs with
      | [] => (if f.dest = s.self then s.emit (.deliver 16 f) else s, 0)
      | _ => (s.arrive { inPort := inPort, outs := outs, lq := lq, frame := f, dual := f.tc ≥ 6 }, 0)

/-- An originated frame whose refusal nobody reports. -/
def State.send (s : State) (inPort : Nat) (f : Frame) : State := (s.originate inPort f).1

/-! End-to-end NAKs and violations -/

/-- The payload of a NAK (R289). -/
def nakPayload (f : Frame) (code : Nat) : List Nat :=
  leBytes 2 code ++ [f.typ, if f.typ = 5 then f.payload.getD 2 0 else 0] ++ leBytes 4 f.flowSeq ++ leBytes 8 0

/-- An end-to-end NAK (R289): never to a NAK or a hop-local frame; one per source and code per 10 µs. -/
def State.sendNak (s : State) (f : Frame) (code : Nat) : State :=
  if f.typ = 7 ∨ f.typ = 3 ∨ f.typ = 0xD then s
  else
    let key := f.src * 65536 + code
    let go (s : State) : State :=
      ({ s with ring := { s.ring with naks := s.ring.naks.insert key s.clk } }).send 8
        { typ := 7, tc := 4, dest := f.src, ctx := f.ctx, payload := nakPayload f code }
    match s.ring.naks.get? key with
    | some c => if s.clk < c + usClk 10 then s.bump F.CRL_CNT3_NAKSUP else go s
    | none => go s

/-- A frame's refusal is reported to its originator: in the hub itself without the limit of R289, which is for the ring. -/
def State.report (s : State) (f : Frame) (code : Nat) : State :=
  if f.src = s.self then
    s.deliver 8 { typ := 7, tc := 4, dest := f.src, src := f.src, ctx := f.ctx, payload := nakPayload f code }
  else s.sendNak f code

/-- An ADMIT frame to the head's ring hub (R279). -/
def State.toHead (s : State) (payload : List Nat) : State :=
  if s.on F.CRL_CTL_HEAD then s.deliver 8 { typ := 0xB, tc := 4, dest := s.self, src := s.self, payload := payload }
  else s.send 8 { typ := 0xB, tc := 4, dest := 4, payload := payload }

/-- A partner violation's record (R290): one class on one port at most once per 100 ms. -/
def State.violation (s : State) (port code : Nat) (data : Nat := 0) : State :=
  s.boomLimited (0x100000 + 0x10000 * port + code) { code := code, kind := 3, unit := port, data := data }

/-- A header violation (R290). -/
def State.headerViolation (s : State) (port : Nat) (f : Frame) : State :=
  (((s.bump F.CRL_CNT1_HDR).raise F.CRL_IRQ_VIOL).violation port 0x1001).sendNak f 0x1001

/-! The arrival window (R268) -/

/-- What the window of a flow answers to FLOWSEQ f. -/
inductive WindowAnswer where
  | accept (w : Window)
  | duplicate
  | stale
  deriving DecidableEq, Repr

/-- The window's rule; an empty window takes any number (R268, R280). -/
def Window.judge (w : Option Window) (f : Nat) : WindowAnswer :=
  match w with
  | none => .accept ⟨f, 0⟩
  | some w =>
    let up := (f + 2 ^ 32 - w.high % 2 ^ 32) % 2 ^ 32
    let back := (w.high + 2 ^ 32 - f % 2 ^ 32) % 2 ^ 32
    if up = 0 then .duplicate
    else if up < 2 ^ 31 then .accept ⟨f, if 64 < up then 0 else (w.mask * 2 ^ up + 2 ^ (up - 1)) % 2 ^ 64⟩
    else if 64 < back then .stale
    else if bit w.mask (back - 1) then .duplicate
    else .accept ⟨w.high, setBit w.mask (back - 1) true⟩

/-- The window of a frame's flow. -/
def windowKey (f : Frame) : Nat := 8 * f.src + f.tc

/-- A frame meets its window: whether it is accepted, and the state after. -/
def State.windowStep (s : State) (f : Frame) : State × Bool :=
  match Window.judge (s.ring.windows.get? (windowKey f)) f.flowSeq with
  | .accept w => ({ s with ring := { s.ring with windows := s.ring.windows.insert (windowKey f) w } }, true)
  | .duplicate => (s.bump F.CRL_CNT0_DUP, false)
  | .stale => (s.bump F.CRL_CNT0_STALE, false)

/-- The windows of a station's hubs are cleared (R268). -/
def State.clearWindows (s : State) (station : Nat) : State :=
  { s with ring := { s.ring with windows := s.ring.windows.filter (fun p => p.1 / 32 != station) } }

/-! Command payloads (R287) -/

/-- A CMD payload: OP, byte 1, TAG, BYTES, FA, data. -/
def cmdPayload (op b1 tag bytes fa : Nat) (data : List Nat) : List Nat :=
  [op, b1, tag, 0] ++ leBytes 2 bytes ++ [0, 0] ++ leBytes 7 fa ++ [0] ++ data

/-- An RSP payload: OP, TAG, BYTES, CODE, data. -/
def rspPayload (op tag code : Nat) (data : List Nat) : List Nat :=
  [op, 0, tag, 0] ++ leBytes 2 data.length ++ leBytes 2 code ++ leBytes 8 0 ++ data

/-- A posted write of one 32-bit word to a register of another hub. -/
def State.sendPosted (s : State) (inPort tc dest : Nat) (region off : Nat) (data : List Nat) : State :=
  s.send inPort { typ := 5, tc := tc, dup := tc == 7, dest := dest,
                  payload := cmdPayload 3 0 0 data.length (dest * 2 ^ 44 + region * 2 ^ 40 + off) data }

end Sys2Proof.Machine
end

