-- ==== Sys2Proof/Machine/Switch.lean ====
section
/-! DEFINITION. The switch core: cells, partitions, push-out, mirroring, the order of service, launch queues and hold lists (11). -/

namespace Sys2Proof.Machine

/-- Cells of the shared buffer (R295). -/
def bufferCells : Nat := 98304

/-- The class a buffered frame is charged to: launch-queue frames to TC5 (R304). -/
def BufFrame.cls (b : BufFrame) : Nat := if b.lq.isSome then 5 else b.frame.tc

/-- Sum of a measure over buffered frames. -/
def sumOf (l : List BufFrame) (g : BufFrame → Nat) : Nat := l.foldl (fun n b => n + g b) 0

/-- USED(c): cells of a class, held frames included (R312). -/
def State.usedCells (s : State) (c : Nat) : Nat :=
  sumOf s.swc.frames (fun b => if b.mirror || b.cls != c then 0 else b.cells)

/-- Guaranteed cells of a class in use. -/
def State.guarUsed (s : State) (c : Nat) : Nat :=
  sumOf s.swc.frames (fun b => if b.mirror || b.cls != c then 0 else b.guar)

/-- Cells of all frames. -/
def State.usedAll (s : State) : Nat := sumOf s.swc.frames (·.cells)

/-- Free cells of the shared pool (R299). -/
def State.sharedFree (s : State) : Nat :=
  bufferCells - (List.range 8).foldl (fun n c => n + s.rd (F.SWC_Cc_GUAR_GUAR c)) 0 - sumOf s.swc.frames (fun b => b.cells - b.guar)

/-- Cells in hold lists. -/
def State.heldCells (s : State) : Nat := sumOf s.swc.frames (fun b => if b.hold.isSome then b.cells else 0)

/-- Cells queued for an output. -/
def State.queuedFor (s : State) (p : Nat) : Nat := sumOf s.swc.frames (fun b => if b.outs.contains p then b.cells else 0)

/-- The ceiling of a class (R299). -/
def State.ceiling (s : State) (c : Nat) : Nat := max (s.rd (F.SWC_Cc_MAX_MAX c)) (s.rd (F.SWC_Cc_GUAR_GUAR c))

/-- Where n cells of class c would come from: the number of guaranteed ones, if there is room (R299). -/
def State.room (s : State) (c n : Nat) : Option Nat :=
  let g := s.rd (F.SWC_Cc_GUAR_GUAR c)
  let u := s.usedCells c
  if u + n ≤ g then some n
  else if u + n ≤ s.ceiling c ∧ n ≤ s.sharedFree then some (min n (g - s.guarUsed c))
  else none

/-! Service (R297, R303, R305) -/

/-- Line rate of a port, 1 at 10 Gbit/s, 2 at 25 Gbit/s; 0 for PL0 at 1000BASE-X. -/
def State.lineRate (s : State) (p : Nat) : Nat :=
  if p < 4 then (if s.rd (F.CRL_Pp_CFG_RATE p) = 0 then 2 else 1)
  else if p < 7 then 2
  else if s.on (F.STT_Pk_CFG_GBX 3) then 0 else 1

/-- Bytes in a port's replay buffer, and its size (R261, R387). -/
def State.replayBytes (s : State) (p : Nat) : Nat := (s.mac p).replay.foldl (fun n x => n + frameLen x.buf.frame) 0
def replaySize (p : Nat) : Nat := if p < 4 then 131072 else 32768

/-- A NAK of this cycle asks a port for frames again: a new frame waits for them (R291). -/
def State.nakAhead (s : State) (p : Nat) : Bool :=
  s.ahead (fun i => match i with
    | .linkFrameReceived q info => q.val == p && info.nak.isSome
    | _ => false)

/-- Whether a port may start a frame now: an internal port, PL0, or a ring or stitch port that is up with replay space;
a READY port sends ADMIT frames of station 0 only (R255, R263).
Port 10's frames start as jobs of the GCM cores (R371). -/
def State.portStarts (s : State) (p : Nat) (f : Frame) : Bool :=
  if p = 10 then false
  else if 7 ≤ p then true
  else
    (portUp s p || (portReady s p && f.typ == 0xB && (f.dest / 4 == 0 || f.src / 4 == 0))) &&
      decide (s.replayBytes p + frameLen f ≤ replaySize p) && !((s.mac p).draining && decide (f.tc ≤ 5)) && !(s.nakAhead p)

/-- STATE codes of R113. -/
def cFree : Nat := 0
def cWaiting : Nat := 1
def cArmed : Nat := 2
def cCommitted : Nat := 3
def cPulsing : Nat := 4
def cFired : Nat := 5
def cDone : Nat := 8
def cRetracted : Nat := 9
def cExpired : Nat := 0xA

/-- The maximum-frame time of an egress, in 10 ps (R305). -/
def State.maxFrame (s : State) (p : Nat) : Nat :=
  match s.lineRate p with
  | 2 => 68288
  | 1 => 170720
  | _ => 1707200

/-- Whether the window of a LAUNCH entry is due on an egress: the entry is ARMED or COMMITTED, and its instant is at most one
maximum-frame time away (R305). -/
def State.windowDue (s : State) (p i : Nat) : Bool :=
  let e := s.sch.entries.getD i {}
  (e.state == cArmed || e.state == cCommitted) && decide (100 * e.inst ≤ 100 * s.now + s.maxFrame p * 65536)

/-- Whether a hold window is open on an egress: until the launched frame starts, and not for an entry that has moved away or ended. -/
def State.holdWindow (s : State) (p : Nat) : Bool :=
  s.swc.windows.any (fun w => w.1 == p && (s.windowDue p w.2 ||
    s.swc.frames.any (fun b => b.leaving.isEmpty && (b.launched.map (·.2)) == some w.2)))

/-- Whether a buffered frame can start on an output now. -/
def State.startable (s : State) (p : Nat) (b : BufFrame) : Bool :=
  b.outs.contains p && !(b.leaving.contains p) && b.hold.isNone &&
    (b.lq.isNone || b.launched.isSome) && s.portStarts p b.frame &&
    (!(s.holdWindow p) || b.launched.isSome || (decide (b.cls ≥ 6) && !b.mirror))

/-- The first of the launched frames: earliest launch, then lowest queue (R305, R309). -/
def firstLaunched (l : List BufFrame) : Option BufFrame :=
  (l.filter (·.launched.isSome)).foldl (fun (best : Option BufFrame) b =>
    match best with
    | none => some b
    | some x =>
      let kx := ((x.launched.getD (0, 0)).1, x.lq.getD 0)
      let kb := ((b.launched.getD (0, 0)).1, b.lq.getD 0)
      if kb.1 < kx.1 ∨ (kb.1 = kx.1 ∧ kb.2 < kx.2) then some b else some x) none

/-- Within a class: the input in rotation after the one served last, first in, first out. -/
def State.inRotation (s : State) (p c : Nat) (l : List BufFrame) : Option BufFrame :=
  let last := s.swc.rotation.getD (8 * p + c) 15
  let order := (List.range 16).map (fun k => (last + 1 + k) % 16)
  order.findSome? (fun i => l.find? (fun b => b.inPort == i && b.cls == c && !b.mirror && b.lq.isNone))

/-- Deficit round robin over TC3 to TC0: the class served next with the credits after, in at most k visits (R297). -/
def State.drr (s : State) (p : Nat) (l : List BufFrame) : Nat → Option (State × BufFrame)
  | 0 => none
  | k + 1 =>
    let c := s.swc.turn.getD p 3
    let next := if c = 0 then 3 else c - 1
    let credit := s.swc.credit.getD (4 * p + c) 0
    match s.inRotation p c l with
    | some b =>
      if frameLen b.frame ≤ credit then
        some ({ s with swc := { s.swc with credit := s.swc.credit.put (4 * p + c) (credit - frameLen b.frame) 0 } }, b)
      else
        { s with swc := { s.swc with
            credit := s.swc.credit.put (4 * p + next) (s.swc.credit.getD (4 * p + next) 0 + 256 * bits (s.rd F.SWC_WGT_WGT) (8 * next) 8) 0
            turn := s.swc.turn.put p next 3 } }.drr p l k
    | none =>
      { s with swc := { s.swc with
          credit := (s.swc.credit.put (4 * p + c) 0 0).put (4 * p + next)
            (s.swc.credit.getD (4 * p + next) 0 + 256 * bits (s.rd F.SWC_WGT_WGT) (8 * next) 8) 0
          turn := s.swc.turn.put p next 3 } }.drr p l k

/-- The frame an output starts next, in the order of R297; a launch follows a TC6 or TC7 frame that starts in its cycle (R309). -/
def State.choose (s : State) (p : Nat) : Option (State × BufFrame) :=
  let l := s.swc.frames.filter (s.startable p)
  let urgent : Bool := l.any (fun b => decide (b.cls ≥ 6) && !b.mirror)
  match firstLaunched (l.filter (fun b => !urgent || (b.launched.getD (0, 0)).1 != s.clk)) with
  | some b => some (s, b)
  | none =>
    match [7, 6, 5, 4].findSome? (fun c => s.inRotation p c l) with
    | some b => some (s, b)
    | none =>
      if l.any (fun b => !b.mirror) then s.drr p l 64
      else (l.find? (·.mirror)).map (fun b => (s, b))

/-- Whether an output is sending a frame. -/
def State.outputBusy (s : State) (p : Nat) : Bool := s.swc.frames.any (fun b => b.leaving.contains p)

/-- A frame that an output starts later in this cycle: it leaves before it can be evicted (R309). -/
def State.leavesNow (s : State) (b : BufFrame) : Bool :=
  s.ahead (fun i => match i with
    | .outputServe p => !(s.outputBusy p) && (s.choose p).map (·.2.id) == some b.id
    | _ => false)

/-! Push-out (R300, R302) -/

/-- Whether a buffered frame may be evicted in a category: 8 mirror copies, else the class. -/
def BufFrame.victim (b : BufFrame) (category : Nat) : Bool :=
  b.leaving.isEmpty && b.hold.isNone && b.lq.isNone &&
    (if category = 8 then b.mirror else !b.mirror && b.cls == category)

/-- The most recently enqueued frame of a category. -/
def State.lastVictim (s : State) (category : Nat) : Option BufFrame :=
  (s.swc.frames.filter (fun b => b.victim category && !(s.leavesNow b))).getLast?

/-- One eviction in drop order over the categories given. -/
def State.evictOne (s : State) : List Nat → Option State
  | [] => none
  | c :: cs =>
    match s.lastVictim c with
    | none => s.evictOne cs
    | some b =>
      let s := { s with swc := { s.swc with frames := s.swc.frames.filter (fun x => x.id != b.id) } }
      some (if c = 8 then (s.bump F.SWC_CNT0_MIRDROP).raise F.SWC_IRQ_MIRDROP
            else (s.bump F.SWC_CNT0_PUSHOUT).raise F.SWC_IRQ_PUSHOUT)

/-- Evictions until n cells of class c fit, at most k. -/
def State.pushOut (s : State) (cats : List Nat) (c n : Nat) : Nat → State
  | 0 => s
  | k + 1 =>
    if (s.room c n).isSome then s
    else match s.evictOne cats with
      | some s => s.pushOut cats c n k
      | none => s

/-- Categories an arriving class may evict (R300). -/
def evictable (c : Nat) : List Nat :=
  if c ≥ 4 then [8, 0, 1, 2, 3] else if c ≥ 1 then [8] else []

/-- Whether a frame whose header completes its check may leave cut-through on an idle egress (R303). -/
def State.cutThrough (s : State) (p : Nat) (b : BufFrame) : Bool :=
  decide (b.inPort ≤ 6) && decide (p ≤ 6) && s.on F.SWC_CTL_CT_EN && !b.mirror &&
    decide (s.lineRate p ≤ s.lineRate b.inPort) &&
    !(s.swc.frames.any (fun x => x.id != b.id && x.outs.contains p && decide (b.cls ≤ x.cls)))

/-! Mirroring (R307) -/

/-- The analysis port. -/
def State.anPort (s : State) : Option Nat :=
  match s.rd F.SWC_MIR_CFG_ANPORT with
  | 1 => some 7
  | 2 => some 8
  | 3 => some 9
  | _ => none

/-- A copy of a frame, cut to its first TRUNC bytes where TRUNC is not 0. -/
def truncated (f : Frame) (trunc : Nat) : Frame :=
  if trunc = 0 then f else { f with payload := f.payload.take (trunc - 46) }

/-- A copy goes to the analysis port, when the floor of free shared cells allows. -/
def State.mirrorCopy (s : State) (f : Frame) (inPort : Nat) : State :=
  match s.anPort with
  | none => s
  | some p =>
    let t := s.rd F.SWC_MIR_CFG_TRUNC
    let len := if t = 0 then frameLen f else min (frameLen f) (t + 4)
    let n := cellsOf len
    if s.rd F.SWC_MIR_FLOOR_FLOOR ≤ s.sharedFree ∧ n ≤ s.sharedFree then
      { s with swc := { s.swc with
          frames := s.swc.frames ++ [{ id := s.swc.nextId, inPort := inPort, outs := [p], cells := n, guar := 0,
                                       mirror := true, mirrored := true, ingress := s.now, frame := truncated f t }]
          nextId := s.swc.nextId + 1 } }
    else (s.bump F.SWC_CNT0_MIRDROP).raise F.SWC_IRQ_MIRDROP

/-- Whether a frame entering a port is mirrored. -/
def State.mirrorsIn (s : State) (inPort : Nat) (f : Frame) : Bool :=
  bit (s.rd F.SWC_MIR_SRC_INGRESS) inPort || (s.on F.SWC_MIR_CTX_EN && f.ctx == s.rd F.SWC_MIR_CTX_CTX)

/-! Placement -/

/-- A frame takes its cells, and the outputs that it leaves by cut-through are settled. -/
def State.placed (s : State) (a : Arrival) (n g : Nat) : State :=
  let m := s.mirrorsIn a.inPort a.frame && s.anPort.isSome
  let b : BufFrame := { id := s.swc.nextId, inPort := a.inPort, outs := a.outs, cells := n, guar := g, lq := a.lq, mirrored := m,
                        dual := a.dual, ingress := a.ingress, frame := a.frame }
  let s := { s with swc := { s.swc with
    frames := s.swc.frames ++ [{ b with cut := a.outs.filter (fun p => !(s.outputBusy p) && s.startable p b && s.cutThrough p b) }]
    nextId := s.swc.nextId + 1 } }
  if m then s.mirrorCopy a.frame a.inPort else s

/-- The hop NAK for the frame a port still expects (R260). -/
def State.hopNak (s : State) (port : Nat) : State :=
  let m := s.mac port
  let s := s.setMac port { m with nakClk := some s.clk }
  let s := s.bump (if port < 4 then F.CRL_Pp_CNT0_NAKTX port else F.STT_Pk_CNT0_NAKTX (port - 4))
  s.emit (.wire port
    { typ := 0xD, tc := 5, dest := 0xFFF, src := s.self, epoch := s.rd F.CRL_EPOCH_CUR,
      payload := leBytes 2 (m.rxExp + 65535) ++ leBytes 2 m.rxExp ++ [1 + 2 + 4 * b2n s.admitted, port, 0, 0] ++
        leBytes 8 s.serial })

/-- A frame counts as not received: the expected HOPSEQ and the window stay as they were, and the hop is NAKed (R300). -/
def State.notReceived (s : State) (a : Arrival) : State :=
  let s := s.setMac a.inPort { s.mac a.inPort with rxExp := a.frame.hopSeq }
  let s := match a.undo with
    | some (k, some w) => { s with ring := { s.ring with windows := s.ring.windows.insert k w } }
    | some (k, none) => { s with ring := { s.ring with windows := s.ring.windows.erase k } }
    | none => s
  s.hopNak a.inPort

/-- A discard for want of room of TC0 to TC3. -/
def State.classDrop (s : State) (c : Nat) : State := (s.bump (F.SWC_Cc_DROP_FRAMES c)).raise F.SWC_IRQ_DROP

/-- A frame that found no room, after push-out (R300): whether it goes on waiting, and the state after. -/
def State.noRoom (s : State) (a : Arrival) (c : Nat) : State × Bool :=
  if 8 ≤ a.inPort then (s, true)
  else if c ≥ 4 then
    let s := (s.bump F.SWC_CNT1_OVF).raise F.SWC_IRQ_OVF
    if a.inPort = 7 then (s.sendNak a.frame 0x1104, false) else (s.notReceived a, false)
  else (s.classDrop c, false)

/-- An arriving frame is placed, or takes the outcome of its class and port; whether it goes on waiting. -/
def State.place (s : State) (a : Arrival) : State × Bool :=
  let c := if a.lq.isSome then 5 else a.frame.tc
  let n := cellsOf (frameLen a.frame)
  match s.room c n with
  | some g => (s.placed a n g, false)
  | none =>
    if s.usedCells c + n ≤ s.ceiling c then
      let s := s.pushOut (evictable c) c n s.swc.frames.length
      match s.room c n with
      | some g => (s.placed a n g, false)
      | none => s.noRoom a c
    else s.noRoom a c

/-- The first arrival of a port, and the others. -/
def takeArrival (p : Nat) : List Arrival → Option (Arrival × List Arrival)
  | [] => none
  | a :: l => if a.inPort = p ∧ a.lq = none then some (a, l) else (takeArrival p l).map (fun r => (r.1, a :: r.2))

/-- A frame has left an output (R296): the output is free, and the cells when it was the last output to send the frame. -/
def State.transmitted (s : State) (p : Nat) : State :=
  { s with swc := { s.swc with
      frames := (s.swc.frames.map (fun b =>
          if b.leaving.contains p then { b with leaving := b.leaving.filter (· != p), outs := b.outs.filter (· != p) } else b)).filter
        (fun b => !b.outs.isEmpty) } }

/-- Cells freed later in this cycle count for an arrival judged in it (R309). -/
def State.freedFirst (s : State) : State :=
  (s.pending.take s.together).foldl (fun t i =>
    match i with
    | .frameTransmitted p => (t.transmitted p).mark (.sent p)
    | _ => t) s

/-- SWITCH_ADMIT (R299): the oldest frame waiting at an input port is judged. -/
def execSwitchAdmit (port : Fin 16) (s : State) : Res :=
  guarded s (fun s =>
    let s := s.freedFirst
    match takeArrival port s.swc.arrivals with
    | none => s
    | some (a, rest) =>
      let before := s.swc.arrivals
      let s := { s with swc := { s.swc with arrivals := rest } }
      match s.place a with
      | (t, true) => { t with swc := { t.swc with arrivals := before } }
      | (t, false) => t)

/-! Departure (R303, R305) -/

/-- The link delay of a port in the receive direction, in 2^-16 ns: the mean with the asymmetry added (R76). -/
def State.linkDelayIn (s : State) (p : Nat) : Int :=
  256 * ((s.rd (F.TIM_Pn_DELAY_DELAY p) : Int) + toSigned 32 (s.rd (F.TIM_Pn_ASYM_ASYM p)))

/-- The link delay of a port in the transmit direction: the mean less the asymmetry (R76). -/
def State.linkDelayOut (s : State) (p : Nat) : Int :=
  256 * ((s.rd (F.TIM_Pn_DELAY_DELAY p) : Int) - toSigned 32 (s.rd (F.TIM_Pn_ASYM_ASYM p)))

/-- The reference-plane times of what a port sends now, and of what it received at t (R75). -/
def State.sentAt (s : State) (p : Nat) : Int := (s.now : Int) + 256 * toSigned 32 (s.rd (F.TIM_Pn_TXCOR_TXCOR p))
def State.receivedAt (s : State) (p t : Nat) : Int := (t : Int) - 256 * toSigned 32 (s.rd (F.TIM_Pn_RXCOR_RXCOR p))

/-- The frame as it leaves with a hop sequence: ring of origin of a copy originated onto both rings, correction of a forwarded frame
(R79), STEPS of a forwarded sync and ORIGIN of the grandmaster's own (R80). -/
def State.frameOut (s : State) (p : Nat) (b : BufFrame) (hopSeq : Nat) : Frame :=
  let f := if b.dual then { b.frame with ringB := p == 3 || p == 2 } else b.frame
  let f := if b.inPort ≤ 7 then
      { f with corr := satSigned 64 (f.corr + (s.sentAt p - s.receivedAt b.inPort b.ingress) + s.linkDelayIn b.inPort) }
    else f
  let f := if f.typ = 2 ∧ p ≤ 6 then
      if b.inPort ≤ 7 then { f with payload := f.payload.take 22 ++ leBytes 2 (leAt f.payload 22 2 + 1) ++ f.payload.drop 24 }
      else { f with payload := leBytes 12 (ft96 (s.sentAt p).toNat) ++ f.payload.drop 12 }
    else f
  { f with hopSeq := hopSeq }

/-- The frame as it leaves next on a port (R261). -/
def State.leavingFrame (s : State) (p : Nat) (b : BufFrame) : Frame := s.frameOut p b (if p ≤ 6 then (s.mac p).txNext else 0)

/-- A frame enters the replay buffer of its port, with its ring of origin settled (R261). -/
def State.keepForReplay (s : State) (p : Nat) (b : BufFrame) : State :=
  if p ≤ 6 then
    let m := s.mac p
    s.setMac p { m with txNext := (m.txNext + 1) % 65536, replay := m.replay ++ [{ hopSeq := m.txNext, buf := { b with
      dual := false, frame := if b.dual then { b.frame with ringB := p == 3 || p == 2 } else b.frame } }] }
  else s

/-- One block period of a port's line rate, in CCLK cycles times 5 (R128). -/
def State.blockClk5 (s : State) (p : Nat) : Nat :=
  match s.lineRate p with
  | 2 => 16
  | 1 => 40
  | _ => 50

/-- A launched frame leaves: the queue's DEV, and LAUNCH_LATE of its entry when more than one block period has passed
since the instant (R109, R126). -/
def State.launchLeft (s : State) (p : Nat) (b : BufFrame) : State :=
  match b.launched, b.lq with
  | some (c, e), some q =>
    let late := s.clk - c
    let s := s.wr (F.SCH_LQq_DEV q) (satPattern 16 (roundDiv ((late * 64 : Nat) : Int) 5))
    if s.blockClk5 p < 5 * late then
      let x := s.sch.entries.getD e {}
      { s with sch := { s.sch with entries := s.sch.entries.put e { x with flags := setBit x.flags 8 true } {} } }.raise
        F.SCH_IRQ_LAUNCH_LATE
    else s
  | _, _ => s

/-- A frame starts on an output. -/
def State.startFrame (s : State) (p : Nat) (b : BufFrame) : State :=
  let f := s.leavingFrame p b
  let mir := bit (s.rd F.SWC_MIR_SRC_EGRESS) p && !b.mirrored && !b.mirror && s.anPort.isSome
  let b' := { b with leaving := b.leaving ++ [p], mirrored := b.mirrored || mir }
  let s := { s with swc := { s.swc with
    frames := s.swc.frames.map (fun (x : BufFrame) => if x.id = b.id then b' else x)
    rotation := s.swc.rotation.put (8 * p + b.cls) b.inPort 15
    windows := match b.launched with
      | some (_, e) => s.swc.windows.filter (fun w => w.2 != e)
      | none => s.swc.windows } }
  let s := s.bump (if b.cut.contains p then F.SWC_Pp_CNT_CT p else F.SWC_Pp_CNT_SF p)
  let s := (s.keepForReplay p b).launchLeft p b
  let s := s.emit (if p ≤ 7 then .wire p f else if b.mirror && p == 8 then .mirror (s.rd F.SWC_MIR_CTX_BRCTX) f else .deliver p f)
  if mir then s.mirrorCopy f b.inPort else s

/-- OUTPUT_SERVE (R297). -/
def execOutputServe (port : Fin 16) (s : State) : Res :=
  guarded s (fun s =>
    if s.outputBusy port then s
    else match s.choose port with
      | some (t, b) => t.startFrame port b
      | none => s)

/-- FRAME_TRANSMITTED. -/
def execFrameTransmitted (port : Fin 16) (s : State) : Res :=
  guarded s (fun s => if s.marked (.sent port) then s else s.transmitted port)

/-! Launch queues (R304) -/

/-- The launch queue's depth. -/
def State.lqDepth (s : State) (q : Nat) : Nat := (s.swc.frames.filter (fun b => b.lq == some q && b.launched.isNone)).length

/-- A frame for a launch queue: refused with 0x1102, or held in the buffer as TC5; it waits at its originator without room. -/
def State.placeInQueue (s : State) (q : Nat) (f : Frame) : State × Nat :=
  if !(s.on (F.SWC_LQq_CFG_EN q)) || 64 ≤ s.lqDepth q then
    ((s.bump F.SWC_CNT1_LQFULL).raise F.SWC_IRQ_LQFULL, 0x1102)
  else
    let (s, f) := s.stampFrame { f with tc := 5 }
    let a : Arrival := { inPort := 13, outs := [s.rd (F.SWC_LQq_CFG_PORT q)], lq := some q, frame := f, ingress := s.now }
    match s.place a with
    | (t, true) => (t.arrive a, 0)
    | (t, false) => (t, 0)

/-- LAUNCH_QUEUE_PLACE (R304): a CMD, TUNNEL or EVENT frame from the bridge, Yarder or a DMA engine. -/
def execLaunchQueuePlace (queue : Fin 16) (frame : Frame) (s : State) : Res :=
  guarded s (fun s =>
    let (t, code) := s.placeInQueue queue frame
    if code = 0 then t.ack else { t with answer := .error code })

/-! Hold lists (R306) -/

/-- At the key-epoch switch every hold list goes back to port 10 in order (R306). -/
def State.resubmitHeld (s : State) : State :=
  { s with swc := { s.swc with frames := s.swc.frames.map (fun b =>
      if b.hold.isSome then { b with hold := none, frame := { b.frame with kepoch := s.rd F.CRL_KEY_TX } } else b) } }

/-- Hold lists are discarded, all of them or one slot's, counted, and reported to their originators with 0x1105 (R306). -/
def State.discardHeld (s : State) (slot : Option Nat) : State :=
  let gone (b : BufFrame) : Bool := b.hold.isSome && (slot.isNone || b.hold == slot)
  let l := s.swc.frames.filter gone
  let s := { s with swc := { s.swc with frames := s.swc.frames.filter (fun b => !gone b) } }.bump F.SWC_CNT1_HELDDROP l.length
  l.foldl (fun t b => t.report b.frame 0x1105) s

/-- Frames queued for an egress whose port went down take the wrap, or are discarded there (R270). -/
def State.requeue (s : State) (old new : Nat) : State :=
  let move (b : BufFrame) : BufFrame :=
    if b.outs.contains old && !(b.leaving.contains old) then
      { b with outs := (b.outs.filter (· != old)) ++ (if wraps b.frame && !(b.outs.contains new) then [new] else []) }
    else b
  { s with swc := { s.swc with frames := (s.swc.frames.map move).filter (fun b => !b.outs.isEmpty) } }

end Sys2Proof.Machine
end

