-- ==== Sys2Proof/Machine/Field.lean ====
section
/-! DEFINITION. Field lines, bank keepers, feeds, supply ORing, calibration and loopback (06). -/

namespace Sys2Proof.Machine

/-! Conditions -/

/-- Whether an Almanac is in force. -/
def State.almInForce (s : State) : Bool := s.on F.GLB_HEALTH_ALM_OK

/-- GLB_HEALTH.TWIN as the role gives it (R396). -/
def State.twinCode (s : State) : Nat :=
  match s.role with
  | 0 => 0
  | 1 => 3
  | 2 => 2
  | 5 => 3
  | _ => 1

/-- Whether the HV link is up. -/
def State.hvLink (s : State) : Bool := s.on F.FLD_STATUS_LINK

/-- A status bit that the HV die sets: at once, or when the link is back (R145). -/
def State.hvRaise (s : State) (f : Fld) (n : Nat := 0) : State :=
  if s.hvLink then s.raiseBit f n else { s with fld := { s.fld with late := s.fld.late ++ [(f, n)] } }

/-- Whether a Sluice event forces a bank: while it is 1 in MODE 0b01, latched in MODE 0b10 (R135). -/
def State.bankForced (s : State) (b : Nat) : Bool :=
  (List.range 32).any (fun e =>
    bit (s.rd (F.SLC_Ee_CFG_BANKS e)) b &&
      (bit s.slc.latched e || (s.rd (F.SLC_Ee_CFG_MODE e) == 1 && bit s.slc.events e)))

/-- Whether a feed is on (R158), as the HV die has it, and as the main die sees it (R145). -/
def State.feedOn (s : State) (f : Nat) : Bool := s.on (F.CHK_Fn_STATUS_PG f)
def State.feedSeen (s : State) (f : Nat) : Bool := s.hvLink && s.feedOn f

/-- Keeper states of R146. -/
def kNormal : Nat := 0
def kKeep : Nat := 1
def kSafe : Nat := 2
def kReleased : Nat := 3

def State.kstate (s : State) (b : Nat) : Nat := s.rd (F.FLD_Bb_CFG_KSTATE b)

/-- The state of a line beside its registers. -/
def State.line (s : State) (n : Nat) : FldLine := s.fld.lines.getD n {}
def State.setLine (s : State) (n : Nat) (l : FldLine) : State :=
  { s with fld := { s.fld with lines := s.fld.lines.put n l {} } }

/-- A port slice beside its registers, and its personality (R176). -/
def State.slice (s : State) (n : Nat) : SliceState := s.slices.getD n {}
def State.setSlice (s : State) (n : Nat) (x : SliceState) : State := { s with slices := s.slices.put n x {} }
def State.pers (s : State) (n : Nat) : Nat := s.rd (F.PSL_Sn_CFG_PERS n)

/-- The slice that runs the IO-Link master of a C/Q line (R173). -/
def State.cqSlice (s : State) (n : Nat) : Option Nat :=
  (List.range 48).find? (fun k => s.pers k == 8 && s.on (F.PSL_Sn_CTL_EN k) && s.rd (F.PSL_Sn_CFG_LINK k) == n)

/-- Line modes of R148. -/
def State.lineMode (s : State) (n : Nat) : Nat := s.rd (F.FLD_Ln_CFG_MODE n)
def State.lineOut (s : State) (n : Nat) : Bool := s.lineMode n == 3

/-- The SIO mode of a C/Q line, as its slice's port state shows it (R157, R186): 1 DI, 2 DO. -/
def State.sioMode (s : State) (n : Nat) : Nat :=
  if s.lineMode n = 4 then (s.cqSlice n).elim 0 (fun k => s.rd (F.PSL_IOL_P3_STATE k)) else 0

/-- Lines that sense as inputs, and lines that drive CMD; the value of a C/Q line in DO is its CMD (notes/assumptions/20.md). -/
def State.lineInput (s : State) (n : Nat) : Bool := s.lineMode n == 1 || s.lineMode n == 2 || s.sioMode n == 1
def State.lineDrives (s : State) (n : Nat) : Bool := s.lineOut n || s.sioMode n == 2

/-- A line's SAFE value, where HOLD keeps a level (R152). -/
def State.safeLevel (s : State) (n : Nat) (hold : Bool) : Bool :=
  match s.rd (F.FLD_Ln_CFG_SAFE n) with
  | 0 => false
  | 1 => true
  | _ => hold

/-- The lines of a bank. -/
def linesOf (b : Nat) : List Nat := (List.range 8).map (fun j => 8 * b + j)

/-- Cycles of one line in a loopback, and of the pulse in it (R167): 25 µs and 10 µs. -/
def loopClk : Nat := 31250
def loopPulseClk : Nat := 12500

/-- Whether loopback now drives an off output line on: during the first 10 µs of the line's 25 µs, the lines following each other in
ascending order (R167; their place in the 25 µs is a DESIGN CHOICE: notes/assumptions/20.md). -/
def State.loopPulse (s : State) (n : Nat) : Bool :=
  match s.fld.loopback with
  | none => false
  | some (m, c) =>
    (((setBits m 16).flatMap linesOf).getD ((s.clk - c) / loopClk) 128 == n) && decide ((s.clk - c) % loopClk < loopPulseClk)

/-- Whether a line's driver is on: the first applicable row of R152. A line without feed power, or before its restore instant (R153),
drives nothing in any row; a latch-off holds in the keeper rows too, and a C/Q line drives only in NORMAL (R147)
(DEDUCED: notes/assumptions/20.md). -/
def State.lineDriven (s : State) (n : Nat) : Bool :=
  let b := n / 8
  let l := s.line n
  let latched := s.on (F.FLD_Ln_STAT_SC n)
  if !(s.lineDrives n) || !s.chk.hvRunning || !(s.feedOn b) || l.restore then false
  else match s.kstate b with
    | 1 => s.lineOut n && !latched && l.held
    | 2 => s.lineOut n && !latched && s.safeLevel n l.held
    | 3 => false
    | _ =>
      if !s.almInForce || !(s.on (F.FLD_Bb_CFG_BEN b)) then false
      else if s.standby then false
      else if s.role = roleFenced then s.lineOut n && !latched && l.held
      else if s.pinQuar then s.safeLevel n l.quarHeld
      else if latched then false
      else (if s.bankForced b then s.safeLevel n l.forceHeld else s.on (F.FLD_Ln_STAT_CMD n)) || s.loopPulse n

/-- The level of a line as the main die has it: an input with a wire break reads 0 (R150), an output its terminal. -/
def State.lineLevel (s : State) (n : Nat) : Bool :=
  if s.lineDrives n then s.lineDriven n
  else s.on (F.FLD_Ln_STAT_IN n) && !(s.on (F.FLD_Ln_STAT_WB n))

/-! Faults and commands of a line -/

/-- A line's fault bit is set (FLD_FAULTk). -/
def State.lineFault (s : State) (n : Nat) : State :=
  (s.hvRaise (F.FLD_FAULTk_LINES (n / 32)) (n % 32)).hvRaise F.FLD_IRQ_FAULT

/-- A latch-off clears, at once or when the cell has cooled (R154). -/
def State.clearLatch (s : State) (n : Nat) : State :=
  if s.on (F.FLD_Ln_STAT_SC n) then
    if s.on (F.FLD_Ln_STAT_OT n) then s.setLine n { s.line n with clearReq := true }
    else s.wr (F.FLD_Ln_STAT_SC n) 0
  else s

/-- CMD takes a value; a change from 0 to 1 clears the latch-off (R154). -/
def State.setCmd (s : State) (n : Nat) (v : Bool) : State :=
  let was := s.on (F.FLD_Ln_STAT_CMD n)
  let s := s.wrB (F.FLD_Ln_STAT_CMD n) v
  if v && !was then s.clearLatch n else s

/-- A command or edge from the main die; outside NORMAL it is discarded (R146). -/
def State.lineCommand (s : State) (n : Nat) (v : Bool) : State :=
  if s.kstate (n / 8) = kNormal ∧ s.lineDrives n then s.setCmd n v else s

/-! Tests in progress (R165 to R167) -/

/-- Calibration ends with a code. -/
def State.endCal (s : State) (code : Nat) : State :=
  if s.chk.calibrating.isSome then
    { s with chk := { s.chk with calibrating := none } }.resDone RR.CHK_CAL_RES code
  else s

/-- Loopback ends with a code. -/
def State.endLoop (s : State) (code : Nat) : State :=
  if s.fld.loopback.isSome then
    { s with fld := { s.fld with loopback := none } }.resDone RR.FLD_LB_RES code
  else s

/-- Cycles that the calibration of one feed takes: 200 µs (R166). -/
def calClk : Nat := 250000

/-- Whether calibration now holds a feed's fault timer idle: during the feed's own 200 µs, in ascending order (R166). -/
def State.timerHeld (s : State) (f : Nat) : Bool :=
  match s.chk.calibrating with
  | some (m, c) => (setBits m 16).getD ((s.clk - c) / calClk) 16 == f
  | none => false

/-- Whether a feed's fault timer runs. -/
def State.timerRuns (s : State) (f : Nat) : Bool := s.on (F.CHK_Fn_STATUS_FTMR f) && !(s.timerHeld f)

/-- A trip or removal of a feed under calibration ends it (R166). -/
def State.calHit (s : State) (f : Nat) : State :=
  match s.chk.calibrating with
  | some (m, _) => if bit m f then s.endCal 0x0902 else s
  | none => s

/-! Keepers (R146) -/

/-- The committed edges of a bank's lines that are not yet applied are discarded. -/
def State.dropEdges (s : State) (b : Nat) : State :=
  { s with sch := { s.sch with entries := s.sch.entries.map (fun p =>
      if p.2.target / 4096 == 2 && p.2.target % 4096 / 8 == b && (p.2.state == 3 || p.2.state == 4) then (p.1, { p.2 with dropped := true })
      else p) } }

/-- A NORMAL bank's keeper holds its outputs. -/
def State.keepBank (s : State) (b : Nat) : State :=
  if s.kstate b = kNormal then
    let s0 := s
    let s := (linesOf b).foldl (fun t n =>
      t.setLine n { t.line n with held := s0.lineDriven n }) s
    ((s.dropEdges b).wr (F.FLD_Bb_CFG_KSTATE b) kKeep).hvRaise F.FLD_IRQ_KEEP
  else s

/-- Every NORMAL bank goes to KEEP with the levels it drives, which ends a loopback (R167). -/
def State.keepAll (s : State) : State :=
  let t := (List.range 16).foldl (fun t b => t.keepBank b) s
  if (List.range 16).any (fun b => s.kstate b == kNormal) then t.endLoop 0x0802 else t

/-- The keys of the status fields that the HV die sends. -/
def hvStatusKey (k : Nat) : Bool :=
  let off := k / 32
  (decide (0x80404 ≤ off) && decide (off < 0x80800) && off % 8 == 4) ||
    (decide (0x80200 ≤ off) && decide (off < 0x80240) && k % 32 == 30) ||
    off == 0x90000 || off == 0x80000 ||
    (decide (0x90100 ≤ off) && decide (off < 0x90300) &&
      (off % 0x20 == 0x10 || off % 0x20 == 0x18 || off % 0x20 == 0x1C))

/-- RAIL: at least one ORing FET is on (R164). -/
def State.rail (s : State) : Bool := s.on F.CHK_SUP_A_ON || s.on F.CHK_SUP_B_ON

/-- VOUT and ISENSE of a feed as measured: a free value, but 0 in BYPASS, which has no sense resistor (R163). -/
def State.measure (s : State) (f value : Nat) : Nat := if s.rd (F.CHK_Fn_STATUS_STATE f) = 11 then 0 else value % 2 ^ 32

/-- The status as last received, kept while the link is down (R145): the fields themselves; KEEP, DRV and IN of each line; the fault
timers, the measurements and the rail. -/
def State.statusNow (s : State) : SMap Nat :=
  let note (m : SMap Nat) (f : Fld) (v : Nat) : SMap Nat := SMap.put m f.key v 0
  let line (m : SMap Nat) (n : Nat) : SMap Nat :=
    note (note (note m (F.FLD_Ln_STAT_DRV n) (b2n (s.lineDriven n))) (F.FLD_Ln_STAT_IN n) (b2n (s.lineLevel n)))
      (F.FLD_Ln_STAT_KEEP n) (b2n (s.kstate (n / 8) != kNormal))
  let feed (m : SMap Nat) (f : Nat) : SMap Nat :=
    let v := s.measure f (Config.freeValue (s.freeCtr + f))
    note (note (note m (F.CHK_Fn_STATUS_FTMR f) (b2n (s.timerRuns f))) (F.CHK_Fn_MEAS_VOUT f) (v / 2 ^ 16)) (F.CHK_Fn_MEAS_ISENSE f) v
  note ((List.range 16).foldl feed ((List.range 128).foldl line (s.regs.filter (fun p => hvStatusKey p.1)))) F.CHK_SUP_RAIL (b2n s.rail)

/-- The IO-Link ports of a bank lose L+ (R157, R186): NOPOWER, and no process data. -/
def State.iolDark (s : State) (b : Nat) : State :=
  (List.range 48).foldl (fun t k =>
    if t.pers k == 8 && t.on (F.PSL_Sn_CTL_EN k) && t.rd (F.PSL_Sn_CFG_LINK k) / 8 == b then
      ((t.wr (F.PSL_IOL_P3_STATE k) 8).wr (F.PSL_IOL_P3_PDVALID k) 0).setSlice k { t.slice k with failures := 0 }
    else t) s

/-- The link goes down (R145, R146). -/
def State.hvLinkLost (s : State) (lanes : Nat) : State :=
  let s := { s with fld := { s.fld with snap := s.statusNow }, freeCtr := s.freeCtr + 16 }
  let s := (List.range 16).foldl (fun t b => t.iolDark b) s
  let s := ((s.wr F.FLD_STATUS_LINK 0).wr F.FLD_STATUS_LANES lanes).raise F.FLD_IRQ_LINK_DOWN
  ((s.keepAll).endLoop 0x0802).endCal 0x0902

/-- HV_LINK_LOST (R144). -/
def execHvLinkLost (lanes : Fin 5) (s : State) : Res :=
  guarded s (fun s => if s.hvLink then s.hvLinkLost lanes else s)

/-- HV_LINK_UP (R144): on two or more good lanes, while the HV die runs; the status bits set meanwhile arrive. A link that is up
runs on with another number of good lanes, or goes down with fewer than two. -/
def execHvLinkUp (lanes : Fin 5) (s : State) : Res :=
  guarded s (fun s =>
    if s.hvLink then (if 2 ≤ lanes.val then s.wr F.FLD_STATUS_LANES lanes else s.hvLinkLost lanes)
    else if 2 ≤ lanes.val ∧ s.chk.hvRunning then
      let late := s.fld.late
      let s := { s with fld := { s.fld with late := [], snap := [] } }
      let s := ((s.wr F.FLD_STATUS_LINK 1).wr F.FLD_STATUS_LANES lanes).raise F.FLD_IRQ_LINK_UP
      late.foldl (fun t p => t.raiseBit p.1 p.2) s
    else s)

/-- KEEP_TMO_EXPIRY (R146). -/
def execKeepTmoExpiry (bank : Fin 16) (s : State) : Res :=
  guardedVigil s (fun s =>
    if s.kstate bank = kKeep then
      (s.wr (F.FLD_Bb_CFG_KSTATE bank) (if s.on F.FLD_STATUS_FENCE then kReleased else kSafe)).hvRaise F.FLD_IRQ_KEEP_END
    else s)

/-- The conditions for leaving KEEP (R146); a FENCED hub commands no bank (R397). -/
def State.keeperMayResume (s : State) (b : Nat) : Bool :=
  s.role != roleFenced && s.hvLink && s.on F.FLD_STATUS_FW_OK && bit s.fld.applied b && !(s.on F.FLD_STATUS_FENCE)

/-- KEEPER_RESUME (R146): CMD takes the held level after KEEP, the driven one after SAFE, and 0 after RELEASED, which drives nothing. -/
def execKeeperResume (bank : Fin 16) (s : State) : Res :=
  guardedVigil s (fun s =>
    if s.kstate bank ≠ kNormal ∧ s.keeperMayResume bank then
      let k := s.kstate bank
      let level (n : Nat) : Bool := if k = kKeep then (s.line n).held else s.lineDriven n
      ((linesOf bank).foldl (fun t n => if t.lineOut n then t.setCmd n (level n) else t) s).wr
        (F.FLD_Bb_CFG_KSTATE bank) kNormal
    else s)

/-! Line cells -/

/-- FIELD_INPUT_CHANGE (R149): a level that held for the filter time. -/
def execFieldInputChange (line : Fin 128) (level : Bool) (s : State) : Res :=
  guardedVigil s (fun s => if s.lineInput line then s.wrB (F.FLD_Ln_STAT_IN line) level else s)

/-- WIRE_BREAK (R150): set with WB_EN = 1; the returning current clears it whatever WB_EN is. -/
def execWireBreak (line : Fin 128) (broken : Bool) (s : State) : Res :=
  guardedVigil s (fun s =>
    if s.lineInput line ∧ (!broken ∨ s.on (F.FLD_Ln_CFG_WB_EN line)) then
      let s := s.wrB (F.FLD_Ln_STAT_WB line) broken
      if broken then s.lineFault line else s
    else s)

/-- ZERO_CROSSING (R151): counted and stamped, and the line ignored for 1 ms after it. -/
def execZeroCrossing (line : Fin 128) (s : State) : Res :=
  guardedVigil s (fun s =>
    let l := s.line line
    let open_ : Bool := match l.crossClk with
      | some c => decide (c ≤ s.clk)
      | none => true
    if s.lineMode line = 5 ∧ open_ then
      s.setLine line { l with crossings := l.crossings + 1, crossTs := s.now, crossClk := some (s.clk + msClk 1) }
    else s)

/-- LINE_LATCH_OFF (R154). -/
def execLineLatchOff (line : Fin 128) (thermal : Bool) (s : State) : Res :=
  guardedVigil s (fun s =>
    if s.lineDrives line then
      let s := s.wr (F.FLD_Ln_STAT_SC line) 1
      let s := if thermal then s.wr (F.FLD_Ln_STAT_OT line) 1 else s
      s.lineFault line
    else s)

/-- LINE_LATCH_CLEAR (R154): a write of FLD_CLRk; a bank outside NORMAL discards it (R146). -/
def State.clearLatches (s : State) (init : Initiator) (k mask : Nat) : State :=
  if s.hvLink then ((setBits mask 32).foldl (fun t j => if t.kstate (4 * k + j / 8) = kNormal then t.clearLatch (32 * k + j) else t) s).ack
  else s.refuseReg init (F.FLD_CLRk_LINES k).off 0x0805

def execLineLatchClear (init : Initiator) (k : Fin 4) (lines : BitVec 32) (s : State) : Res :=
  guarded s (fun s => s.clearLatches init k lines.toNat)

/-- CELL_COOLED (R154). -/
def execCellCooled (line : Fin 128) (s : State) : Res :=
  guardedVigil s (fun s =>
    let s := s.wr (F.FLD_Ln_STAT_OT line) 0
    let l := s.line line
    if l.clearReq then (s.setLine line { l with clearReq := false }).wr (F.FLD_Ln_STAT_SC line) 0 else s)

/-- OPEN_LOAD (R155): the condition begins, with OL_EN = 1, or ends. -/
def execOpenLoad (line : Fin 128) (present : Bool) (s : State) : Res :=
  guardedVigil s (fun s =>
    if s.lineOut line ∧ (!present ∨ s.on (F.FLD_Ln_CFG_OL_EN line)) then
      let s := s.wrB (F.FLD_Ln_STAT_OL line) present
      if present then s.lineFault line else s
    else s)

/-! Restore after power-good (R153) -/

/-- One line's restore instant. -/
def State.restoreLine (s : State) (n : Nat) : State :=
  let s := s.setLine n { s.line n with restore := false }
  if s.on (F.FLD_Bb_CFG_RESTORE (n / 8)) ∧ s.rd (F.FLD_Ln_CFG_SAFE n) < 2 then
    s.setCmd n (s.rd (F.FLD_Ln_CFG_SAFE n) == 1)
  else s

/-- The first line of a bank that waits for its restore instant. -/
def State.nextRestore (s : State) (b : Nat) : Option Nat := (linesOf b).find? (fun n => (s.line n).restore)

/-- LINE_RESTORE (R153): lines are restored in ascending order. -/
def execLineRestore (line : Fin 128) (s : State) : Res :=
  guardedVigil s (fun s =>
    if s.nextRestore (line.val / 8) = some line.val ∧ s.feedOn (line.val / 8) then s.restoreLine line else s)

/-! Feeds (R158 to R164) -/

/-- Feed states of R171. -/
def fOff : Nat := 0
def fSeating : Nat := 1
def fRemoved : Nat := 2
def fPrecharge : Nat := 3
def fGate : Nat := 4
def fQualify : Nat := 5
def fOn : Nat := 6
def fCooloff : Nat := 7
def fLatched : Nat := 8
def fLockout : Nat := 9
def fSupply : Nat := 10
def fBypass : Nat := 11

def State.feedState (s : State) (f : Nat) : Nat := s.rd (F.CHK_Fn_STATUS_STATE f)
def State.toFeed (s : State) (f st : Nat) : State := s.wr (F.CHK_Fn_STATUS_STATE f) st

/-- An event bit of a feed, and its interrupt. -/
def State.feedEvt (s : State) (f : Nat) (e : Fld) : State := (s.hvRaise e).hvRaise F.CHK_IRQ_FEED f

/-- Seated: both contacts closed, or the seating inputs not used (R159, R160). -/
def State.seated (s : State) (f : Nat) : Bool :=
  !(s.on (F.CHK_Fn_STATUS_SEAT_EN f)) || (s.on (F.CHK_Fn_STATUS_SEAT1 f) && s.on (F.CHK_Fn_STATUS_SEAT2 f))

/-- The gates turn off: power-good falls in the same cycle, waiting restores end, and the bank's IO-Link ports lose L+. -/
def State.gatesOff (s : State) (f : Nat) : State :=
  let s := (s.wr (F.CHK_Fn_STATUS_PG f) 0).wr (F.CHK_Fn_STATUS_FTMR f) 0
  ((linesOf f).foldl (fun t n => if (t.line n).restore then t.setLine n { t.line n with restore := false } else t) s).iolDark f

/-- Retry (R160). -/
def State.feedRetry (s : State) (f : Nat) (e : Fld) : State :=
  let c := s.rd (F.CHK_Fn_STATUS_RETRY f) + 1
  let s := ((s.gatesOff f).feedEvt f e).wr (F.CHK_Fn_STATUS_RETRY f) (min c 15)
  let s := s.calHit f
  if s.rd (F.CHK_Fn_CFG1_RETRY_MAX f) < c then (s.toFeed f fLatched).feedEvt f (F.CHK_Fn_EVT_LATCHED f)
  else (s.toFeed f fCooloff).wr (F.CHK_Fn_STATUS_COOL f) 1

/-- The rail is lost for a running feed. -/
def State.feedSupply (s : State) (f : Nat) : State :=
  ((s.gatesOff f).feedEvt f (F.CHK_Fn_EVT_SUPPLY f)).toFeed f fSupply

/-- Entering PRECHARGE; without a rail the feed meets its loss at once. -/
def State.feedPrecharge (s : State) (f : Nat) : State :=
  if s.rail then s.toFeed f fPrecharge else s.feedSupply f

/-- Power-good: the lines of the bank wait for their restore instants, the first of which is now (R153, R160). -/
def State.powerGood (s : State) (f : Nat) : State :=
  let s := s.wr (F.CHK_Fn_STATUS_PG f) 1
  let s := (linesOf f).foldl (fun t n => if t.lineOut n then t.setLine n { t.line n with restore := true } else t) s
  match s.nextRestore f with
  | some n => s.restoreLine n
  | none => s

/-- FEED_ENABLE_CHANGE (R160): what EN and BEN make of a fitted feed. -/
def State.feedEnable (s : State) (f : Nat) : State :=
  if s.feedState f = fBypass then s
  else if s.on (F.CHK_Fn_CTL_EN f) && s.on (F.FLD_Bb_CFG_BEN f) then
    (if s.feedState f = fOff ∧ s.on (F.CHK_Fn_STATUS_FITTED f) ∧ s.chk.hvRunning then s.toFeed f fSeating else s)
  else (s.gatesOff f).toFeed f fOff

/-- BOARD declares a feed fitted or not (R159): one that is not is in BYPASS, its power-good following the rail. -/
def State.feedFitted (s : State) (f : Nat) (fitted : Bool) : State :=
  let s := s.wrB (F.CHK_Fn_STATUS_FITTED f) fitted
  if fitted then (if s.feedState f = fBypass then (s.gatesOff f).toFeed f fOff else s)
  else if s.feedState f = fBypass then s
  else
    let s := (s.gatesOff f).toFeed f fBypass
    if s.chk.hvRunning ∧ s.rail then s.powerGood f else s

/-- SEAT_DEBOUNCE_EXPIRY. -/
def execSeatDebounceExpiry (feed : Fin 16) (s : State) : Res :=
  guardedVigil s (fun s =>
    if s.feedState feed = fSeating ∧ s.seated feed then
      let s := s.feedEvt feed (F.CHK_Fn_EVT_INSERTED feed)
      if s.on (F.CHK_Fn_STATUS_COOL feed) then s.toFeed feed fCooloff else s.feedPrecharge feed
    else s)

/-- A feed is removed: gates off, and the removal timer starts. -/
def State.feedRemoved (s : State) (f : Nat) : State :=
  let s := { s with chk := { s.chk with removedClk := s.chk.removedClk.insert f s.clk } }
  (((s.gatesOff f).feedEvt f (F.CHK_Fn_EVT_REMOVED f)).toFeed f fRemoved).calHit f

/-- SEAT_CONTACT_OPEN (R160). A contact that opens in SEATING restarts the debounce, but leads to REMOVED in the cycle in which CLR
brought the feed there (R162; DEDUCED: notes/assumptions/20.md). -/
def execSeatContactOpen (feed : Fin 16) (second : Bool) (s : State) : Res :=
  guardedVigil s (fun s =>
    let s := s.wr (if second then F.CHK_Fn_STATUS_SEAT2 feed else F.CHK_Fn_STATUS_SEAT1 feed) 0
    if s.on (F.CHK_Fn_STATUS_SEAT_EN feed) then
      let st := s.feedState feed
      let s := s.mark (.contactOpened feed)
      if (fPrecharge ≤ st ∧ st ≤ fCooloff) ∨ (st = fSeating ∧ s.marked (.feedCleared feed)) then s.feedRemoved feed
      else if st = fLatched ∧ (s.chk.removedClk.get? feed) = none then
        { s with chk := { s.chk with removedClk := s.chk.removedClk.insert feed s.clk } }
      else s
    else s)

/-- Cycles of the removal that makes a new module: 2 s (R163). -/
def removalClk : Nat := 2500000000

/-- SEAT_CONTACTS_CLOSED (R160): the contacts that close now; a removal ends when both are closed. -/
def execSeatContactsClosed (contacts : SeatContacts) (s : State) : Res :=
  guardedVigil s (fun s =>
    let feed := contacts.feed.val
    let s := if contacts.first then s.wr (F.CHK_Fn_STATUS_SEAT1 feed) 1 else s
    let s := if contacts.second then s.wr (F.CHK_Fn_STATUS_SEAT2 feed) 1 else s
    if s.on (F.CHK_Fn_STATUS_SEAT1 feed) && s.on (F.CHK_Fn_STATUS_SEAT2 feed) then
      let long : Bool := match s.chk.removedClk.get? feed with
        | some c => decide (c + removalClk ≤ s.clk)
        | none => false
      let st := s.feedState feed
      let s := { s with chk := { s.chk with removedClk := s.chk.removedClk.erase feed } }
      let fresh (s : State) : State :=
        (s.wr (F.CHK_Fn_STATUS_RETRY feed) 0).feedEvt feed (F.CHK_Fn_EVT_NEW_MODULE feed)
      if st = fRemoved then
        let s := s.toFeed feed fSeating
        if long then fresh s else s
      else if st = fLatched ∧ long then fresh (s.toFeed feed fSeating)
      else s
    else s)

/-- PRECHARGE_REACHED. -/
def execPrechargeReached (feed : Fin 16) (s : State) : Res :=
  guardedVigil s (fun s => if s.feedState feed = fPrecharge then s.toFeed feed fGate else s)

/-- PRE_TMO_EXPIRY. -/
def execPreTmoExpiry (feed : Fin 16) (s : State) : Res :=
  guardedVigil s (fun s => if s.feedState feed = fPrecharge then s.feedRetry feed (F.CHK_Fn_EVT_PRE_FAIL feed) else s)

/-- GATE_RISE. -/
def execGateRise (feed : Fin 16) (s : State) : Res :=
  guardedVigil s (fun s => if s.feedState feed = fGate then s.toFeed feed fQualify else s)

/-- GATE_RISE_TIMEOUT. -/
def execGateRiseTimeout (feed : Fin 16) (s : State) : Res :=
  guardedVigil s (fun s =>
    if s.feedState feed = fGate then ((s.gatesOff feed).feedEvt feed (F.CHK_Fn_EVT_LOCKOUT feed)).toFeed feed fLockout
    else s)

/-- QUALIFY_COMPLETE: 5 ms in window with the fault timer idle. -/
def execQualifyComplete (feed : Fin 16) (s : State) : Res :=
  guardedVigil s (fun s =>
    if s.feedState feed = fQualify ∧ !(s.timerRuns feed) then
      ((s.toFeed feed fOn).powerGood feed).feedEvt feed (F.CHK_Fn_EVT_PG_UP feed)
    else s)

/-- FAULT_TIMER_START (R161): the sense voltage of a feed whose gates are on reaches ILIM; held idle while calibration works on the
feed (R166). -/
def execFaultTimerStart (feed : Fin 16) (s : State) : Res :=
  guardedVigil s (fun s =>
    let st := s.feedState feed
    if fPrecharge ≤ st ∧ st ≤ fOn then
      let s := s.wr (F.CHK_Fn_STATUS_FTMR feed) 1
      if st = fQualify ∧ !(s.timerHeld feed) then s.feedEvt feed (F.CHK_Fn_EVT_QUAL_RESTART feed) else s
    else s)

/-- FAULT_TIMER_STOP (R161). -/
def execFaultTimerStop (feed : Fin 16) (s : State) : Res :=
  guardedVigil s (fun s => s.wr (F.CHK_Fn_STATUS_FTMR feed) 0)

/-- FAULT_TIMER_EXPIRY; the table gives it an effect in QUALIFY and ON. -/
def execFaultTimerExpiry (feed : Fin 16) (s : State) : Res :=
  guardedVigil s (fun s =>
    let st := s.feedState feed
    if (st = fQualify ∨ st = fOn) ∧ s.timerRuns feed then
      s.feedRetry feed (F.CHK_Fn_EVT_TRIP_TMR feed)
    else s)

/-- FAST_TRIP. -/
def execFastTrip (feed : Fin 16) (s : State) : Res :=
  guardedVigil s (fun s =>
    if fPrecharge ≤ s.feedState feed ∧ s.feedState feed ≤ fOn then s.feedRetry feed (F.CHK_Fn_EVT_TRIP_FAST feed) else s)

/-- COOLOFF_EXPIRY: the timer ends whatever state the feed is in. -/
def execCooloffExpiry (feed : Fin 16) (s : State) : Res :=
  guardedVigil s (fun s =>
    let s := s.wr (F.CHK_Fn_STATUS_COOL feed) 0
    if s.feedState feed = fCooloff ∧ s.seated feed then s.feedPrecharge feed else s)

/-- RETRY_CLR_EXPIRY. -/
def execRetryClrExpiry (feed : Fin 16) (s : State) : Res :=
  guardedVigil s (fun s => if s.feedState feed = fOn then s.wr (F.CHK_Fn_STATUS_RETRY feed) 0 else s)

/-- RAIL_LOST: every running feed goes to SUPPLY; an unfitted one follows the rail (R159). -/
def execRailLost (s : State) : Res :=
  guardedVigil s (fun s =>
    if s.rail then s
    else (List.range 16).foldl (fun t f =>
      let st := t.feedState f
      if fPrecharge ≤ st ∧ st ≤ fOn then (t.feedSupply f).calHit f
      else if st = fBypass then t.gatesOff f
      else t) s)

/-- RAIL_BACK. -/
def execRailBack (s : State) : Res :=
  guardedVigil s (fun s =>
    if s.rail then
      (List.range 16).foldl (fun t f =>
        let st := t.feedState f
        if st = fSupply then t.toFeed f fSeating
        else if st = fBypass ∧ !(t.feedOn f) then t.powerGood f
        else t) s
    else s)

/-- FEED_CLR: a write of 1 to CHK_Fn_CTL.CLR. A contact that opened in this cycle of LATCHED removes the feed cleared (R162). -/
def State.feedClear (s : State) (init : Initiator) (f : Nat) : State :=
  if s.hvLink then
    (if s.feedState f = fLatched ∨ s.feedState f = fLockout then
      let t := ((s.toFeed f fSeating).wr (F.CHK_Fn_STATUS_RETRY f) 0)
      if s.feedState f = fLockout then t
      else if s.marked (.contactOpened f) then t.feedRemoved f
      else t.mark (.feedCleared f)
    else s).ack
  else s.refuseReg init (F.CHK_Fn_CTL_CLR f).off 0x0906

def execFeedClr (init : Initiator) (feed : Fin 16) (s : State) : Res :=
  guarded s (fun s => s.feedClear init feed)

/-! Supplies (R164): VHVA false, VHVB true -/

def winF (b : Bool) : Fld := if b then F.CHK_SUP_B_WIN else F.CHK_SUP_A_WIN
def onF (b : Bool) : Fld := if b then F.CHK_SUP_B_ON else F.CHK_SUP_A_ON
def voltF (b : Bool) : Fld := if b then F.CHK_SUP_VB else F.CHK_SUP_VA
def supIrqF (b : Bool) : Fld := if b then F.CHK_IRQ_SUPB else F.CHK_IRQ_SUPA

/-- Window status or FET status changes, with its interrupt. -/
def State.supplySet (s : State) (b : Bool) (f : Fld) (v : Bool) : State :=
  if s.on f = v then s else (s.wrB f v).hvRaise (supIrqF b)

/-- SUPPLY_IN_WINDOW: entering or leaving 18 to 32 V, with the voltage measured in 10 mV. Below the window the FET is off; above it the
FET goes off after 10 µs (SUPPLY_OVERVOLTAGE). -/
def execSupplyInWindow (supplyB inWindow : Bool) (volts : BitVec 12) (s : State) : Res :=
  guardedVigil s (fun s =>
    let s := (s.wr (voltF supplyB) volts.toNat).supplySet supplyB (winF supplyB) inWindow
    if inWindow || decide (3200 < volts.toNat) then s else s.supplySet supplyB (onF supplyB) false)

/-- INS_DLY_EXPIRY. -/
def execInsDlyExpiry (supplyB : Bool) (s : State) : Res :=
  guardedVigil s (fun s => if s.on (winF supplyB) then s.supplySet supplyB (onF supplyB) true else s)

/-- SUPPLY_OVERVOLTAGE. -/
def execSupplyOvervoltage (supplyB : Bool) (s : State) : Res :=
  guardedVigil s (fun s => (s.supplySet supplyB (winF supplyB) false).supplySet supplyB (onF supplyB) false)

/-- ORING_REVERSE: with both FETs on, the one whose input lies below the rail turns off. -/
def execOringReverse (supplyB : Bool) (s : State) : Res :=
  guardedVigil s (fun s =>
    if s.on F.CHK_SUP_A_ON ∧ s.on F.CHK_SUP_B_ON then s.supplySet supplyB (onF supplyB) false else s)

/-! The HV die -/

/-- An HV die reset: every keeper RELEASED (a bank that was NORMAL has left it), keeper and cell contents and feed states lost (R146). -/
def State.hvReset (s : State) : State :=
  let s := (s.wr F.FLD_STATUS_FW_OK 0).hvRaise F.FLD_IRQ_HVRST
  let s := if (List.range 16).any (fun b => s.kstate b == kNormal) then s.hvRaise F.FLD_IRQ_KEEP else s
  let s := { s with chk := { s.chk with hvRunning := false, removedClk := [] }, fld := { s.fld with lines := [] } }
  let s := (List.range 16).foldl (fun t b =>
    let t := (t.dropEdges b).wr (F.FLD_Bb_CFG_KSTATE b) kReleased
    let t := t.iolDark b
    if t.feedState b = fBypass then t.wr (F.CHK_Fn_STATUS_PG b) 0
    else (((t.toFeed b fOff).wr (F.CHK_Fn_STATUS_PG b) 0).wr (F.CHK_Fn_STATUS_FTMR b) 0 |>.wr (F.CHK_Fn_STATUS_COOL b) 0).wr
      (F.CHK_Fn_STATUS_RETRY b) 0) s
  let s := (List.range 128).foldl (fun t n =>
    (((((t.wr (F.FLD_Ln_STAT_SC n) 0).wr (F.FLD_Ln_STAT_OT n) 0).wr (F.FLD_Ln_STAT_OL n) 0).wr (F.FLD_Ln_STAT_WB n) 0).wr
      (F.FLD_Ln_STAT_CMD n) 0).wr (F.FLD_Ln_STAT_IN n) 0) s
  (s.endLoop 0x0802).endCal 0x0902

/-- HV_DIE_RESET (R146). -/
def execHvDieReset (s : State) : Res := guardedVigil s (fun s => s.hvReset)

/-- HV_DIE_START (R461): the die runs, its keepers are active and its feeds start as their enables say. -/
def execHvDieStart (s : State) : Res :=
  guardedVigil s (fun s =>
    if s.chk.hvRunning then s
    else
      let s := { s with chk := { s.chk with hvRunning := true } }
      (List.range 16).foldl (fun t f =>
        let t := t.wr (F.FLD_Bb_CFG_KSTATE f) kReleased
        if t.feedState f = fBypass then (if t.rail then t.powerGood f else t) else t.feedEnable f) s)

/-! Calibration and loopback (R165 to R167) -/

/-- An exclusive test is accepted on a standby twin, or in a declared maintenance window (R165). -/
def State.exclusiveOk (s : State) (maint : Bool) : Bool := maint || s.twinCode == 2 || s.twinCode == 3

/-- CHK_CAL: a write of CHK_CAL with GO. -/
def State.chkCal (s : State) (init : Initiator) (maint : Bool) (feeds : Nat) : State :=
  if !s.hvLink then s.refuseReg init F.CHK_CAL_GO.off 0x0906
  else if s.chk.calibrating.isSome then s.refuseReg init F.CHK_CAL_GO.off 0x0905
  else
    let s := ((s.wrB F.CHK_CAL_MAINT maint).wr F.CHK_CAL_FEEDS feeds).ack.resStart RR.CHK_CAL_RES
    if s.exclusiveOk maint then { s with chk := { s.chk with calibrating := some (feeds % 65536, s.clk) } }
    else s.resDone RR.CHK_CAL_RES 0x0901

def execChkCal (init : Initiator) (maint : Bool) (feeds : BitVec 16) (s : State) : Res :=
  guarded s (fun s => s.chkCal init maint feeds.toNat)

/-- CHK_CAL_COMPLETE: the offsets found, by feed, in 10 µV; one beyond ±2 mV is not applied. -/
def execChkCalComplete (offsets : List (Fin 16 × Int)) (s : State) : Res :=
  guarded s (fun s =>
    match s.chk.calibrating with
    | none => s
    | some (m, _) =>
      let mine := offsets.filter (fun p => bit m p.1)
      let bad := mine.any (fun p => decide (200 < p.2 ∨ p.2 < -200))
      let s := mine.foldl (fun t p =>
        if 200 < p.2 ∨ p.2 < -200 then t else t.wr (F.CHK_Fn_CALOFS_OFS p.1) (ofSigned 16 p.2)) s
      s.endCal (if bad then 0x0903 else 0))

/-- FLD_LB: a write of FLD_LB with GO. -/
def State.fldLb (s : State) (init : Initiator) (maint : Bool) (banks : Nat) : State :=
  if !s.hvLink then s.refuseReg init F.FLD_LB_GO.off 0x0805
  else if s.fld.loopback.isSome then s.refuseReg init F.FLD_LB_GO.off 0x0806
  else
    let s := ((s.wrB F.FLD_LB_MAINT maint).wr F.FLD_LB_BANKS banks).ack.resStart RR.FLD_LB_RES
    if s.exclusiveOk maint then { s with fld := { s.fld with loopback := some (banks % 65536, s.clk) } }
    else s.resDone RR.FLD_LB_RES 0x0801

def execFldLb (init : Initiator) (maint : Bool) (banks : BitVec 16) (s : State) : Res :=
  guarded s (fun s => s.fldLb init maint banks.toNat)

/-- The key under which a twin files the copied output record (R398). -/
def copiedOutput : Nat := 2 * 65536

/-- What loopback expects to read back on a line (R167): a hub that drives has driven it on; a standby expects the level of the copied
output image, or where no point of the image drives the line, of the copied CMD (DEDUCED: notes/assumptions/20.md). -/
def State.loopExpects (s : State) (n : Nat) : Bool :=
  if s.standby then
    let b := s.stt.shadow.getD copiedOutput []
    match s.alm.points.find? (fun (p : Point) => p.output && p.kind == 1 && p.unit == n) with
    | some p => bit (leAt b (p.bitoff / 8) 1) (p.bitoff % 8)
    | none => bit (leAt b (s.alm.outLen + n / 8) 1) (n % 8)
  else true

/-- FLD_LB_COMPLETE: the level that each line read back in its time. A standby's report takes the result (R405). -/
def execFldLbComplete (levels : BitVec 128) (s : State) : Res :=
  guarded s (fun s =>
    match s.fld.loopback with
    | none => s
    | some (m, _) =>
      let fails := (List.range 128).filter (fun n => bit m (n / 8) && s.lineOut n && bit levels.toNat n != s.loopExpects n)
      let word (k : Nat) : Nat := fails.foldl (fun w n => if n / 32 = k then w + 2 ^ (n % 32) else w) 0
      let s := (List.range 4).foldl (fun t k => t.wr (F.FLD_LB_FAILk_LINES k) (word k)) s
      let s := s.wrB F.STT_HREP_LOOP fails.isEmpty
      s.endLoop (if fails.isEmpty then 0 else 0x0803))

end Sys2Proof.Machine
end

