-- ==== Sys2Proof/Machine/Slice.lean ====
section
/-! DEFINITION. Port slices, their personalities and their flumes (07). -/

namespace Sys2Proof.Machine

/-- The personality runs: enabled, not stopped by a twin's rest, its power slice not asleep (R197, R397, R432). -/
def State.sliceRuns (s : State) (n : Nat) : Bool :=
  s.on (F.PSL_Sn_CTL_EN n) && (!s.twinIdle || s.pers n == 6) && s.hears (slicePower n)

/-! Class A fields during a packet (R178) -/

/-- The IO-Link port's state and the state its MODE gives (R186): STARTUP to MISMATCH belong to the IO-Link modes. -/
def State.iol (s : State) (n : Nat) : Nat := s.rd (F.PSL_IOL_P3_STATE n)
def State.toIol (s : State) (n st : Nat) : State := s.wr (F.PSL_IOL_P3_STATE n) st
def iolNopower : Nat := 8

def State.iolByMode (s : State) (n : Nat) : State := s.toIol n (min 3 (s.rd (F.PSL_IOL_P0_MODE n)))

/-- A MODE that has come into force moves a powered port that is not in one of its states (DEDUCED: notes/assumptions/21.md). -/
def State.iolFollow (s : State) (n : Nat) : State :=
  if s.sliceRuns n ∧ s.pers n = 8 ∧ s.iol n ≠ iolNopower ∧ min 3 (s.iol n) ≠ min 3 (s.rd (F.PSL_IOL_P0_MODE n)) then
    (s.iolByMode n).wr (F.PSL_IOL_P3_PDVALID n) 0
  else s

/-- A parameter field as the personality uses it. -/
def State.par (s : State) (n : Nat) (f : Fld) : Nat := ((s.slice n).kept.get? f.key).getD (s.rd f)

/-- A class A parameter field is about to change: while a packet of a flume personality is in progress, the old value stays in force to
its boundary. -/
def State.keepPar (s : State) (n : Nat) (f : Fld) : State :=
  let x := s.slice n
  if s.on (F.PSL_Sn_CTL_EN n) && [1, 2, 3, 4, 8].contains (s.pers n) && (x.rxBusy || x.sending) && (x.kept.get? f.key).isNone then
    s.setSlice n { x with kept := x.kept.insert f.key (s.rd f) }
  else s

/-- A packet has ended: with none in progress in either direction, fields written meanwhile come into force. -/
def State.atBoundary (s : State) (n : Nat) : State :=
  let x := s.slice n
  if x.rxBusy || x.sending || x.kept.isEmpty then s else (s.setSlice n { x with kept := [] }).iolFollow n

/-! Items (R187) -/

def idleItem : Nat := 2 ^ 63
def itemEnd (i : Nat) : Bool := bit i 62
def itemAttr (i : Nat) : Bool := bit i 59
def itemCount (i : Nat) : Nat := bits i 56 3

/-- An item of bytes and a tag. -/
def mkItem (bs : List Nat) (fin trunc err attr : Bool) : Nat :=
  ofLe (bs.take 7) + 2 ^ 56 * bs.length + 2 ^ 62 * b2n fin + 2 ^ 61 * b2n trunc + 2 ^ 60 * b2n err + 2 ^ 59 * b2n attr

/-- The data bytes of an item. -/
def itemBytes (i : Nat) : List Nat := leBytes (itemCount i) i

/-- Whole packets waiting in a flume (R191). -/
def packets (l : List Nat) : Nat := (l.filter itemEnd).length

/-- A flume's items (2 KiB). -/
def flumeItems : Nat := 256

/-! The RX side (R188, R192) -/

/-- An item is closed and becomes readable. -/
def State.closeItem (s : State) (n : Nat) (fin trunc : Bool) : State :=
  let x := s.slice n
  let s := s.mark (.rxClosed n)
  let i := mkItem x.fill fin trunc x.fillErr x.fillAttr
  let s := s.setSlice n { x with rx := x.rx ++ [i], fill := [], fillErr := false, fillAttr := false }
  let s := if x.fillErr then (s.bump (F.PSL_Sn_CNT_ERR n)).raise (F.PSL_Sn_IRQ_ERR n) else s
  let s := if trunc then (s.bump (F.PSL_Sn_CNT_TRUNC n)).raise (F.PSL_Sn_IRQ_TRUNC n) else s
  if fin then s.raise (F.PSL_Sn_IRQ_RXPKT n) else s

/-- One byte goes into the RX flume (R188, R192). -/
def State.rxByte (s : State) (n b : Nat) (err attr : Bool) : State :=
  let x := s.slice n
  if x.dropping then s.setSlice n { x with stored := x.stored + 1 }
  else if x.fill.isEmpty && decide (flumeItems ≤ x.rx.length) then
    ((s.setSlice n { x with dropping := true, rxBusy := true, stored := 1 }).bump (F.PSL_Sn_CNT_TRUNC n)).raise (F.PSL_Sn_IRQ_TRUNC n)
  else
    let y := { x with fill := x.fill ++ [b % 256], fillErr := x.fillErr || err, fillAttr := x.fillAttr || attr,
                      rxBusy := true, stored := x.stored + 1 }
    let s := s.setSlice n y
    if x.fill.isEmpty && decide (x.rx.length + 1 = flumeItems) then
      let s := s.closeItem n true true
      s.setSlice n { s.slice n with dropping := true }
    else if y.fill.length = 7 then s.closeItem n false false
    else s

/-- Bytes in order. -/
def State.rxBytes (s : State) (n : Nat) (bs : List Nat) : State := bs.foldl (fun t b => t.rxByte n b false false) s

/-- The RX packet's boundary (R191, R192): END is set in its last item. A packet without a byte leaves no item; one whose
last item was closed full ends with an item of COUNT 0 (DEDUCED: notes/assumptions/21.md). -/
def State.rxEnd (s : State) (n : Nat) : State :=
  let x := s.slice n
  let done (s : State) : State := (s.setSlice n { s.slice n with rxBusy := false, dropping := false, stored := 0 }).atBoundary n
  if x.dropping then done s
  else if x.stored = 0 then done s
  else if x.fill.isEmpty then
    match x.rx.getLast? with
    | some i =>
      if itemEnd i then done (s.closeItem n true false)
      else done ((s.setSlice n { x with rx := x.rx.dropLast ++ [i + 2 ^ 62] }).raise (F.PSL_Sn_IRQ_RXPKT n))
    | none => done (s.closeItem n true false)
  else done (s.closeItem n true false)

/-- A whole RX packet. -/
def State.rxPacket (s : State) (n : Nat) (bs : List Nat) : State := (s.rxBytes n bs).rxEnd n

/-- A packet in progress is cut short with END and TRUNC (R194, R197). -/
def State.rxCut (s : State) (n : Nat) : State :=
  let x := s.slice n
  if x.rxBusy then
    let s := if x.dropping then s else s.closeItem n true true
    (s.setSlice n { s.slice n with rxBusy := false, dropping := false, stored := 0 }).atBoundary n
  else s

/-! The TX side (R190, R193) -/

/-- One unit written to a TX port (R190). -/
def State.txUnit (s : State) (n u : Nat) : State :=
  if bit u 63 then s
  else if bit u 61 || bit u 60 || itemCount u == 0 then
    (s.bump (F.PSL_Sn_CNT_TXBAD n)).raise (F.PSL_Sn_IRQ_TXBAD n)
  else if flumeItems ≤ (s.slice n).tx.length then
    (s.bump (F.PSL_Sn_CNT_TXBAD n)).raise (F.PSL_Sn_IRQ_TXOVF n)
  else (s.setSlice n { s.slice n with tx := (s.slice n).tx ++ [u] }).mark (.txAppended n u)

/-- The items of the first packet, and the rest. -/
def splitPacket : List Nat → List Nat × List Nat
  | [] => ([], [])
  | i :: l => if itemEnd i then ([i], l) else let (p, r) := splitPacket l; (i :: p, r)

/-- A whole packet waits. -/
def SliceState.whole (x : SliceState) : Bool := x.tx.any itemEnd

/-- The start condition of UART and SPI master: START_MODE 0b01 waits for a start (R179, R180). -/
def State.startMode (s : State) (n : Nat) : Nat :=
  match s.pers n with
  | 1 => s.par n (F.PSL_UART_P0_START_MODE n)
  | 2 => s.par n (F.PSL_SPI_P0_START_MODE n)
  | _ => 0

/-- The feed of a slice's paired line is on; the line's cell serves the slice: the feed is on and the bank's keeper is NORMAL (R147,
R157). -/
def State.iolFeed (s : State) (n : Nat) : Bool := s.feedSeen (s.rd (F.PSL_Sn_CFG_LINK n) / 8)
def State.iolLive (s : State) (n : Nat) : Bool := s.iolFeed n && s.kstate (s.rd (F.PSL_Sn_CFG_LINK n) / 8) == kNormal

/-- Whether a TX packet may start now. -/
def State.mayStart (s : State) (n : Nat) : Bool :=
  let x := s.slice n
  s.sliceRuns n && !x.sending && (s.pers n != 8 || s.iolLive n) && (s.startMode n == 0 || x.start)

/-! Starts (R177) -/

/-- A start that is lost. -/
def State.startLost (s : State) (n : Nat) : State :=
  (s.bump (F.PSL_Sn_CNT_START_OVR n)).raise (F.PSL_Sn_IRQ_START_OVR n)

/-- A start becomes pending, or is lost. -/
def State.pendStart (s : State) (n : Nat) : State :=
  if (s.slice n).start then s.startLost n else s.setSlice n { s.slice n with start := true }

/-- The pulse pattern begins, with the pair committed and DIR as it stands (R185). -/
def State.pulseBegin (s : State) (n : Nat) : State :=
  ((s.wr (F.PSL_PULSE_P5_RUN n) 1).wr (F.PSL_PULSE_P6_PCOUNT n) 0).setSlice n
    { s.slice n with dir := s.on (F.PSL_PULSE_P4_DIR n), start := false, phase := 0, running := (s.slice n).pair }

/-- Whether a command of this cycle writes EN = 0 of a slice (R196). -/
def State.stopAhead (s : State) (n : Nat) : Bool :=
  s.ahead (fun i => match i with
    | .sliceEnable k en => k.val == n && !en
    | _ => false)

/-- A start reaches a slice: what it does is the personality's (R177, R179, R180, R183, R184, R185). A start of a running
pulse generator waits for the period's boundary; one that meets EN = 0 in its cycle is discarded (R196). -/
def State.sliceStart (s : State) (n : Nat) : State :=
  if !(s.sliceRuns n) || s.stopAhead n then s
  else match s.pers n with
    | 1 => if s.startMode n = 1 then s.pendStart n else s
    | 2 => if s.startMode n = 1 then s.pendStart n else s
    | 5 => if s.rd (F.PSL_SSI_P0_TRIG n) = 1 then s.pendStart n else s
    | 6 => ((s.wr (F.PSL_QUAD_P3_LATCH_LO n) (s.rd (F.PSL_QUAD_P1_COUNT_LO n))).wr
             (F.PSL_QUAD_P4_LATCH_HI n) (s.rd (F.PSL_QUAD_P2_COUNT_HI n))).raise (F.PSL_QUAD_P8_STARTLAT n)
    | 7 => if s.on (F.PSL_PULSE_P5_RUN n) then s.pendStart n else s.pulseBegin n
    | _ => s

/-- SLICE_START: a write of 1 to PSL_Sn_CTL.START. -/
def execSliceStart (slice : Fin 48) (s : State) : Res := guarded s (fun s => (s.sliceStart slice).ack)

/-! IO-Link states (R186) -/

def iolInactive : Nat := 0
def iolStartup : Nat := 3
def iolPreoperate : Nat := 4
def iolOperate : Nat := 5
def iolComlost : Nat := 6
def iolMismatch : Nat := 7

/-! Enable and flush (R194 to R197) -/

/-- A flush completes. -/
def State.flushDone (s : State) (n code : Nat) : State :=
  let s := s.setSlice n { s.slice n with flushRx := false, flushTx := false }
  (s.resDone (RR.PSL_Sn_FLUSH_RES n) code).raise (F.PSL_Sn_IRQ_FLUSHED n)

/-- A flush is requested; one that waits takes the new directions (R194, R195). -/
def State.flushRequest (s : State) (n : Nat) (rx tx : Bool) : State :=
  let x := s.slice n
  let s := if x.flushRx || x.flushTx then s else s.resStart (RR.PSL_Sn_FLUSH_RES n)
  s.setSlice n { x with flushRx := x.flushRx || rx, flushTx := x.flushTx || tx }

/-- RX_FLUSH and TX_FLUSH: writes of 1 to PSL_Sn_CTL. -/
def execRxFlush (slice : Fin 48) (s : State) : Res := guarded s (fun s => (s.flushRequest slice true false).ack)
def execTxFlush (slice : Fin 48) (s : State) : Res := guarded s (fun s => (s.flushRequest slice false true).ack)

/-- What a write of this cycle appended to a TX flume stays behind a flush of the same cycle (R196). -/
def State.appendedNow (s : State) (n : Nat) : List Nat :=
  (s.cycle.filterMap (fun m => match m with
    | .txAppended k u => if k = n then some u else none
    | _ => none)).reverse

/-- FLUSH_EFFECT (R194): at the packet boundary of each named direction its flume is emptied; with both done it completes. -/
def execFlushEffect (slice : Fin 48) (s : State) : Res :=
  guarded s (fun s =>
    let x := s.slice slice
    if x.flushRx || x.flushTx then
      let rxNow := x.flushRx && !x.rxBusy
      let txNow := x.flushTx && !x.sending
      let s := if rxNow then s.mark (.rxFlushed slice x.rx) else s
      let s := s.setSlice slice { x with
        rx := if rxNow then [] else x.rx, tx := if txNow then s.appendedNow slice else x.tx
        flushRx := x.flushRx && !rxNow, flushTx := x.flushTx && !txNow }
      if (s.slice slice).flushRx || (s.slice slice).flushTx then s else s.flushDone slice 0
    else s)

/-- A waiting flush takes effect at once: a packet in progress is ended for it, and then it completes with 0x0A03 (R194, R199). -/
def State.flushForced (s : State) (n : Nat) : State :=
  let x := s.slice n
  let cut := (x.flushRx && x.rxBusy) || (x.flushTx && x.sending)
  let s := if x.flushRx then
      let t := s.rxCut n
      t.setSlice n { t.slice n with rx := [] }
    else s
  let s := if x.flushTx then (s.setSlice n { s.slice n with tx := [], sending := false, begun := [] }).atBoundary n else s
  s.flushDone n (if cut then 0x0A03 else 0)

/-- Whether a received character ends the packet in progress: by DELIM, or as the last of LEN bytes (R179). -/
def State.uartEnds (s : State) (n : Nat) (char : Nat) (brk : Bool) : Bool :=
  let wide := s.par n (F.PSL_UART_P0_DBITS n) == 4
  let len := s.par n (F.PSL_UART_P2_LEN n)
  (s.par n (F.PSL_UART_P0_DELIM_EN n) != 0 && !brk && char == s.par n (F.PSL_UART_P0_DELIM n)) ||
    (len != 0 && decide (len ≤ (s.slice n).stored + (if wide then 2 else 1)))

/-- Whether a command of this cycle writes the END item of the packet in progress (R196). -/
def State.endAhead (s : State) (n : Nat) : Bool :=
  s.ahead (fun i => match i with
    | .uartCharacterReceived k c _ brk => k.val == n && s.pers n == 1 && s.uartEnds n c.toNat brk
    | .uartGapExpiry k => k.val == n && s.pers n == 1 && s.par n (F.PSL_UART_P0_GAP n) != 0
    | .txPacketDone k => k.val == n && (s.slice n).sending && (s.slice n).whole
    | _ => false)

/-- FLUSH_TMO_EXPIRY (R194); an END item written in this cycle wins (R196). -/
def execFlushTmoExpiry (slice : Fin 48) (s : State) : Res :=
  guarded s (fun s =>
    let x := s.slice slice
    if ((x.flushRx && x.rxBusy) || (x.flushTx && x.sending)) && !(s.endAhead slice) then s.flushForced slice else s)

/-- The personality stops: packets in progress are ended, and both flumes keep their items (R197). -/
def State.sliceStop (s : State) (n : Nat) : State :=
  let s := s.wr (F.PSL_Sn_CTL_EN n) 0
  let s := if (s.slice n).flushRx || (s.slice n).flushTx then s.flushForced n else s
  let s := s.rxCut n
  let s := (s.setSlice n { s.slice n with sending := false, begun := [], start := false }).atBoundary n
  if s.pers n = 7 then s.wr (F.PSL_PULSE_P5_RUN n) 0 else s

/-- An END item has been written; a slice that EN = 0 of this cycle stops, stops now (R196). -/
def State.afterEnd (s : State) (n : Nat) : State :=
  if s.marked (.stopAfterEnd n) && s.on (F.PSL_Sn_CTL_EN n) then s.sliceStop n else s

/-- The personality stops or starts (R197). An IO-Link port starts anew (R186). -/
def State.sliceEnable (s : State) (n : Nat) (en : Bool) : State :=
  let was := s.on (F.PSL_Sn_CTL_EN n)
  if was && !en && s.endAhead n then s.mark (.stopAfterEnd n)
  else if was && !en then s.sliceStop n
  else if !was && en then
    let s := s.wr (F.PSL_Sn_CTL_EN n) 1
    if s.pers n = 7 then
      s.setSlice n { s.slice n with pair := some (s.rd (F.PSL_PULSE_P1_PERIOD n), s.rd (F.PSL_PULSE_P2_HIGH n)) }
    else if s.pers n = 8 then
      let s := (s.wr (F.PSL_IOL_P3_PDVALID n) 0).setSlice n { s.slice n with failures := 0 }
      if s.iolFeed n then s.iolByMode n else s.toIol n iolNopower
    else s
  else s

/-- SLICE_ENABLE: a write of PSL_Sn_CTL.EN. -/
def execSliceEnable (slice : Fin 48) (en : Bool) (s : State) : Res :=
  guarded s (fun s => (s.sliceEnable slice en).ack)

/-! Data ports (R189, R190) -/

/-- The form of a data port access: 8 to 64 bytes in units of 8, aligned, all bytes enabled, within one port. -/
def portForm (off len : Nat) (enabled : Bool) : Bool :=
  enabled && decide (8 ≤ len) && decide (len ≤ 64) && len % 8 == 0 && off % 8 == 0 &&
    decide (off % 0x800 + len ≤ 0x800)

/-- What a read of a port finds: the items closed before this cycle; those that a flush of this cycle emptied go to the read first
(R196). -/
def State.rxReadable (s : State) (n : Nat) : List Nat :=
  match s.cycle.findSome? (fun m => match m with
    | .rxFlushed k l => if k = n then some l else none
    | _ => none) with
  | some l => l
  | none => (s.slice n).rx.take ((s.slice n).rx.length - (s.cycle.filter (· == .rxClosed n)).length)

/-- k units read in order (R190): the oldest closed items, and then idle items. -/
def State.rxUnits (s : State) (n k : Nat) : State × List Nat :=
  let l := (s.rxReadable n).take k
  (s.setSlice n { s.slice n with rx := (s.slice n).rx.drop l.length }, l ++ List.replicate (k - l.length) idleItem)

/-- A read of a slice's page; `off` lies within the page. -/
def State.rxPortRead (s : State) (init : Initiator) (n off len : Nat) (enabled : Bool := true) : State :=
  let fa := s.ownFa 2 (n * 0x1000 + off)
  if !(bit s.ported n) then s.refuse init fa 0x0005
  else if !(portForm off len enabled) || 0x800 ≤ off then s.refuse init fa 0x0A01
  else
    let (t, l) := s.rxUnits n (len / 8)
    t.give l

/-- A write to a slice's page. -/
def State.txPortWrite (s : State) (init : Initiator) (n off : Nat) (units : List Nat) (len : Nat) (enabled : Bool := true) : State :=
  let fa := s.ownFa 2 (n * 0x1000 + off)
  if !(bit s.ported n) then s.refuse init fa 0x0005
  else if !(portForm off len enabled) || off < 0x800 then s.refuse init fa 0x0A01
  else ((units.take (len / 8)).foldl (fun t u => t.txUnit n u) s).ack

/-- RX_PORT_READ. -/
def execRxPortRead (init : Initiator) (slice : Fin 48) (off : Nat) (bytes : ReadBytes) (s : State) : Res :=
  guarded s (fun s => s.rxPortRead init slice off bytes.len bytes.enabled)

/-- TX_PORT_WRITE. -/
def execTxPortWrite (init : Initiator) (slice : Fin 48) (off : Nat) (data : WriteBytes) (s : State) : Res :=
  guarded s (fun s =>
    let bs := data.bytes.map BitVec.toNat
    s.txPortWrite init slice off ((List.range (bs.length / 8)).map (fun k => leAt bs (8 * k) 8)) bs.length data.enabled)

/-! The pads (R463) -/

/-- Bytes that come in over the pads: pads that are off read 0. -/
def State.padBytes (s : State) (n : Nat) (bs : List Byte) : List Nat := bs.map (fun b => if s.padsOff n then 0 else b.toNat)

/-- Bytes leave over the pads, unless these are off; IO-Link's leave over a field line. -/
def State.serialOut (s : State) (n : Nat) (bs : List Nat) : State :=
  if s.padsOff n && s.pers n != 8 then s else s.emit (.serial n bs)

/-! UART (R179) -/

/-- UART_CHARACTER_RECEIVED: the character, its framing or parity error, and whether it is a break. -/
def execUartCharacterReceived (slice : Fin 48) (char : BitVec 9) (bad brk : Bool) (s : State) : Res :=
  guarded s (fun s =>
    if s.sliceRuns slice ∧ s.pers slice = 1 then
      let brk := brk || s.padsOff slice
      let c := if brk then 0 else char.toNat
      let wide := s.par slice (F.PSL_UART_P0_DBITS slice) == 4
      let delim := s.par slice (F.PSL_UART_P0_DELIM_EN slice) != 0 && !brk && c == s.par slice (F.PSL_UART_P0_DELIM slice)
      let ends := s.uartEnds slice c brk
      if delim ∧ s.par slice (F.PSL_UART_P0_STRIP slice) ≠ 0 then (s.rxEnd slice).afterEnd slice
      else
        let s := s.rxByte slice (c % 256) (bad || brk) brk
        let s := if wide then s.rxByte slice (c / 256) (bad || brk) brk else s
        if ends then (s.rxEnd slice).afterEnd slice else s
    else s)

/-- UART_GAP_EXPIRY. -/
def execUartGapExpiry (slice : Fin 48) (s : State) : Res :=
  guarded s (fun s =>
    if s.sliceRuns slice ∧ s.pers slice = 1 ∧ s.par slice (F.PSL_UART_P0_GAP slice) ≠ 0 ∧ (s.slice slice).rxBusy then
      (s.rxEnd slice).afterEnd slice
    else s)

/-! Sending (R193) -/

/-- Whether a TX packet may begin: its END item is in the flume, or all 256 items are full without one. -/
def State.packetReady (s : State) (n : Nat) : Bool :=
  s.mayStart n && ((s.slice n).whole || (s.slice n).tx.length == flumeItems)

/-- A TX packet begins; a start that released it is spent. -/
def State.packetBegin (s : State) (n : Nat) : State :=
  s.setSlice n { s.slice n with sending := true, start := (s.slice n).start && s.startMode n != 1 }

/-- The items taken of the packet in progress, and those left: to its END item, or all there are. -/
def SliceState.packetItems (x : SliceState) : List Nat × List Nat := splitPacket x.tx

/-- TX_PACKET_SEND: a packet begins. One that began before its END was there sends what it has, and what arrives later in the same way. -/
def execTxPacketSend (slice : Fin 48) (s : State) : Res :=
  guarded s (fun s =>
    let p := s.pers slice
    if (p = 1 ∨ p = 2 ∨ p = 4 ∨ p = 8) ∧ (s.packetReady slice ∨ (s.sliceRuns slice ∧ (s.slice slice).sending)) then
      let s := if (s.slice slice).sending then s else s.packetBegin slice
      let x := s.slice slice
      if x.whole || p == 2 || p == 4 then s
      else (s.setSlice slice { x with tx := [] }).serialOut slice (x.tx.flatMap itemBytes)
    else s)

/-- TX_PACKET_DONE: the packet has been sent to its END item. -/
def execTxPacketDone (slice : Fin 48) (s : State) : Res :=
  guarded s (fun s =>
    let x := s.slice slice
    if x.sending ∧ x.whole ∧ (s.pers slice = 1 ∨ (s.pers slice = 8 ∧ s.iolLive slice)) then
      let (p, rest) := x.packetItems
      ((((s.setSlice slice { x with sending := false, tx := rest }).serialOut slice (p.flatMap itemBytes)).raise
        (F.PSL_Sn_IRQ_TXDONE slice)).atBoundary slice).afterEnd slice
    else s)

/-! SPI (R180, R181) -/

/-- SPI_MASTER_TRANSFER: a TX packet goes out, begun here or before, and as many bytes come in from MISO. One whose END is not there yet
(R193) sends what it has, and holds. -/
def execSpiMasterTransfer (slice : Fin 48) (miso : List Byte) (s : State) : Res :=
  guarded s (fun s =>
    if s.pers slice = 2 ∧ (s.packetReady slice ∨ (s.sliceRuns slice ∧ (s.slice slice).sending)) then
      let s := if (s.slice slice).sending then s else s.packetBegin slice
      let x := s.slice slice
      let (p, rest) := x.packetItems
      let out := p.flatMap itemBytes
      let s := (s.setSlice slice { x with tx := rest, sending := !x.whole }).rxBytes slice (bytesAt (s.padBytes slice miso) 0 out.length)
      let s := s.serialOut slice out
      if x.whole then (((s.rxEnd slice).raise (F.PSL_Sn_IRQ_TXDONE slice)).atBoundary slice) else s
    else s)

/-- ERR is set in the last item closed, where it is not yet set. -/
def State.lastItemErr (s : State) (n : Nat) : State :=
  let x := s.slice n
  match x.rx.getLast? with
  | some i =>
    if bit i 60 then s
    else ((s.setSlice n { x with rx := x.rx.dropLast ++ [i + 2 ^ 60] }).bump (F.PSL_Sn_CNT_ERR n)).raise (F.PSL_Sn_IRQ_ERR n)
  | none => s

/-- SPI_SLAVE_SELECT: one packet each way while the remote master selects; FILL once the TX flume is empty. -/
def execSpiSlaveSelect (slice : Fin 48) (mosi : List Byte) (partialWord : Bool) (s : State) : Res :=
  guarded s (fun s =>
    if s.sliceRuns slice ∧ s.pers slice = 3 then
      let x := s.slice slice
      let (p, rest) := if x.whole then splitPacket x.tx else ([], x.tx)
      let out := p.flatMap itemBytes
      let n := mosi.length
      let fill := s.par slice (F.PSL_SPI_P0_FILL slice)
      let sent := out.take n ++ List.replicate (n - out.length) fill
      let s := s.setSlice slice { x with tx := rest }
      let s := ((s.padBytes slice mosi).zip (List.range n)).foldl (fun t q => t.rxByte slice q.1 (decide (out.length ≤ q.2)) false) s
      let y := s.slice slice
      let s := if !partialWord || y.dropping || y.stored == 0 then s
        else if !y.fill.isEmpty then s.setSlice slice { y with fillErr := true }
        else s.lastItemErr slice
      let s := (s.rxEnd slice).serialOut slice sent
      if p.isEmpty then s else s.raise (F.PSL_Sn_IRQ_TXDONE slice)
    else s)

/-! I²C (R182) -/

/-- The bytes of a packet, each with whether a START precedes it (the first, and an item with ATTR). -/
def i2cBytes : List Nat → Bool → List (Nat × Bool)
  | [], _ => []
  | i :: l, first =>
    let bs := itemBytes i
    (match bs with
      | [] => []
      | b :: r => (b, first || itemAttr i) :: r.map (fun c => (c, false))) ++ i2cBytes l false

/-- A step of a transaction: an address byte, a written byte, or a read of n bytes. -/
inductive I2cStep where
  | addr (b : Nat)
  | data (b : Nat)
  | read (n : Nat)
  deriving DecidableEq, Repr

/-- The steps of a packet's bytes: after an address byte with R/W = 1 the next byte is a read length. -/
def i2cSteps : List (Nat × Bool) → Bool → List I2cStep
  | [], _ => []
  | (b, st) :: l, expect =>
    if expect && !st then .read b :: i2cSteps l false
    else (if st then .addr b else .data b) :: i2cSteps l (st && b % 2 == 1)

/-- The byte that a step writes, and the number of bytes it reads. -/
def I2cStep.sent : I2cStep → List Nat
  | .addr b => [b]
  | .data b => [b]
  | .read _ => []
def I2cStep.reads : I2cStep → Nat
  | .read n => n
  | _ => 0

/-- Whether a transaction may end at a step with a status (R182). -/
def I2cStep.endsWith (status : Nat) : I2cStep → Bool
  | .addr _ => status == 1 || status == 3 || status == 4
  | .data _ => status == 2 || status == 3 || status == 4
  | .read _ => status == 3 || status == 4

/-- The steps up to the (k+1)-th at which the transaction may end with its status; all of them where there is none. -/
def i2cUntil (status : Nat) : List I2cStep → Nat → List I2cStep
  | [], _ => []
  | x :: l, k =>
    if x.endsWith status then (match k with
      | 0 => [x]
      | j + 1 => x :: i2cUntil status l j)
    else x :: i2cUntil status l k

/-- I2C_TRANSACTION: one TX packet from START to STOP; the bytes read, then a status byte. A failure ends it at the step that the
command counts among those which can fail so. A packet whose END is not there yet (R193) sends what it has, and holds. -/
def execI2cTransaction (slice : Fin 48) (outcome : I2cEnd) (reads : List Byte) (s : State) : Res :=
  guarded s (fun s =>
    if s.pers slice = 4 ∧ (s.packetReady slice ∨ (s.sliceRuns slice ∧ (s.slice slice).sending)) then
      let s := if (s.slice slice).sending then s else s.packetBegin slice
      let x := s.slice slice
      let (p, rest) := x.packetItems
      let steps := i2cSteps (i2cBytes (x.begun ++ p) true) false
      let before := (i2cSteps (i2cBytes x.begun true) false).flatMap I2cStep.sent
      if !x.whole then
        (s.setSlice slice { x with tx := rest, begun := x.begun ++ p }).serialOut slice ((steps.flatMap I2cStep.sent).drop before.length)
      else
        let status := outcome.status.val
        let run := i2cUntil status steps outcome.after
        let n := (run.map I2cStep.reads).foldl (· + ·) 0
        let got := if status = 0 then bytesAt (s.padBytes slice reads) 0 n else (s.padBytes slice reads).take n
        let s := (s.setSlice slice { x with tx := rest, sending := false, begun := [] }).rxBytes slice got
        let s := (s.rxByte slice status (status != 0) false).rxEnd slice
        ((s.serialOut slice ((run.flatMap I2cStep.sent).drop before.length)).raise (F.PSL_Sn_IRQ_TXDONE slice)).atBoundary slice
    else s)

/-! SSI (R183) -/

/-- Gray code to binary, over w bits. -/
def ofGray (w v : Nat) : Nat :=
  ((List.range w).foldl (fun (r : Nat × Bool) k =>
    let j := w - 1 - k
    let b := r.2 != bit v j
    (r.1 + (if b then 2 ^ j else 0), b)) (0, false)).1

/-- An FT96 pattern into the three stamp registers of a personality. -/
def State.wrStamp (s : State) (f0 f1 f2 : Fld) (v : Nat) : State :=
  ((s.wr f0 (bits v 16 32)).wr f1 (bits v 48 32)).wr f2 (bits v 80 16)

/-- SSI_TRANSFER: the data bits and error bits clocked in, whether the parity bit was wrong, and whether DATA had not been
high for the monoflop time. -/
def execSsiTransfer (slice : Fin 48) (data : BitVec 64) (ebits : Fin 8) (parityBad timeout : Bool) (s : State) : Res :=
  guarded s (fun s =>
    let x := s.slice slice
    let trig := s.rd (F.PSL_SSI_P0_TRIG slice)
    if s.sliceRuns slice ∧ s.pers slice = 5 ∧ (trig ≠ 1 ∨ x.start) then
      let w := s.rd (F.PSL_SSI_P0_BITS slice) + 1
      let raw := if s.padsOff slice then 0 else data.toNat % 2 ^ w
      let v := if s.on (F.PSL_SSI_P0_GRAY slice) then ofGray w raw else raw
      let eb := ebits.val % 2 ^ s.rd (F.PSL_SSI_P0_ERRBITS slice)
      let perr := parityBad && s.rd (F.PSL_SSI_P0_PARITY slice) != 0
      let bad := timeout || perr || eb != 0
      let s := s.wr64 (F.PSL_SSI_P2_VALUE_LO slice) (F.PSL_SSI_P3_VALUE_HI slice) v
      let s := s.wrStamp (F.PSL_SSI_P4_TS0 slice) (F.PSL_SSI_P5_TS1 slice) (F.PSL_SSI_P6_TS2 slice) s.stamp
      let s := s.wr (F.PSL_SSI_P7_EBITS slice) eb
      let s := if timeout then s.raise (F.PSL_SSI_P7_TIMEOUT slice) else s
      let s := if perr then s.raise (F.PSL_SSI_P7_PERR slice) else s
      let s := if eb ≠ 0 then s.raise (F.PSL_SSI_P7_ERRB slice) else s
      let s := s.setSlice slice { x with start := x.start && trig != 1, faults := x.faults + b2n bad, edges := x.edges + 1, edgeTs := s.now }
      if s.on (F.PSL_SSI_P0_FLUME slice) then
        let s := s.rxBytes slice (leBytes 7 v)
        (s.rxByte slice (v / 2 ^ 56) bad false).rxEnd slice
      else s
    else s)

/-! Quadrature (R184) -/

/-- What a change of the phases counts: the step, and whether both changed. The count direction and the edges of ×1 and ×2
are the family's (PRESUMED: notes/assumptions/21.md). -/
def quadStep (mode : Nat) (a b a' b' : Bool) : Int × Bool :=
  if a != a' && b != b' then (0, true)
  else if mode = 3 then ((if !a && a' then (if b' then -1 else 1) else 0), false)
  else if a != a' then
    let up : Int := if a' != b' then 1 else -1
    (match mode with
      | 0 => if b' then 0 else up
      | _ => up, false)
  else if b != b' then ((if mode = 2 then (if b' == a' then 1 else -1) else 0), false)
  else (0, false)

/-- The count of a quadrature slice. -/
def State.quadCount (s : State) (n : Nat) : Nat := s.rd64 (F.PSL_QUAD_P1_COUNT_LO n) (F.PSL_QUAD_P2_COUNT_HI n)

/-- QUADRATURE_EDGE: the qualified levels of the phases. -/
def execQuadratureEdge (slice : Fin 48) (a b : Bool) (s : State) : Res :=
  guarded s (fun s =>
    let x := s.slice slice
    let a := a && !(s.padsOff slice)
    let b := b && !(s.padsOff slice)
    if s.sliceRuns slice ∧ s.pers slice = 6 then
      let (d, err) := quadStep (s.rd (F.PSL_QUAD_P0_MODE slice)) x.phaseA x.phaseB a b
      let d := if s.on (F.PSL_QUAD_P0_INV_DIR slice) then -d else d
      let x := { x with phaseA := a, phaseB := b }
      if err then (s.setSlice slice { x with faults := x.faults + 1 }).raise (F.PSL_QUAD_P8_QERR slice)
      else if d = 0 then s.setSlice slice x
      else
        let s := s.wr64 (F.PSL_QUAD_P1_COUNT_LO slice) (F.PSL_QUAD_P2_COUNT_HI slice)
          (ofSigned 64 (toSigned 64 (s.quadCount slice) + d))
        let s := s.wrB (F.PSL_QUAD_P8_DIR slice) (decide (d < 0))
        let s := s.wrStamp (F.PSL_QUAD_P5_TS0 slice) (F.PSL_QUAD_P6_TS1 slice) (F.PSL_QUAD_P7_TS2 slice) s.stamp
        s.setSlice slice { x with edges := x.edges + 1, edgeTs := s.now }
    else s)

/-- QUADRATURE_INDEX: a rising edge of the index. -/
def execQuadratureIndex (slice : Fin 48) (s : State) : Res :=
  guarded s (fun s =>
    if s.sliceRuns slice ∧ s.pers slice = 6 ∧ !(s.padsOff slice) then
      let idx := s.rd (F.PSL_QUAD_P0_IDX slice)
      let s := s.raise (F.PSL_QUAD_P8_IDXSEEN slice)
      let c := s.quadCount slice
      let s := if idx = 1 ∨ idx = 2 then s.wr64 (F.PSL_QUAD_P3_LATCH_LO slice) (F.PSL_QUAD_P4_LATCH_HI slice) c else s
      if idx = 2 then
        (s.wr64 (F.PSL_QUAD_P1_COUNT_LO slice) (F.PSL_QUAD_P2_COUNT_HI slice) 0).setSlice slice
          { s.slice slice with rebases := (s.slice slice).rebases + 1 }
      else s
    else s)

/-! Pulse generator (R185) -/

/-- A write of P2: commits PERIOD and HIGH together, or is ignored with REFUSED. -/
def State.pulseWrite (s : State) (n v : Nat) : State :=
  if v < s.rd (F.PSL_PULSE_P1_PERIOD n) then
    (s.wr (F.PSL_PULSE_P2_HIGH n) v).setSlice n { s.slice n with pair := some (s.rd (F.PSL_PULSE_P1_PERIOD n), v) }
  else s.raise (F.PSL_PULSE_P5_REFUSED n)

/-- PULSE_PERIOD_WRITE. -/
def execPulsePeriodWrite (slice : Fin 48) (high : BitVec 32) (s : State) : Res :=
  guarded s (fun s => if s.pers slice = 7 then (s.pulseWrite slice high.toNat).ack else s.ack)

/-- The generator stands at the boundary of a period: it suspends while pin C is low, with GATE_EN. -/
def State.pulseGated (s : State) (n : Nat) : Bool := s.on (F.PSL_PULSE_P0_GATE_EN n) && (s.slice n).gateLow

/-- PULSE_GATE: the level of pin C; a running generator suspends at its next boundary, a suspended one resumes. -/
def execPulseGate (slice : Fin 48) (high : Bool) (s : State) : Res :=
  guarded s (fun s =>
    if s.pers slice = 7 ∧ s.on (F.PSL_PULSE_P0_GATE_EN slice) then
      let x := s.slice slice
      let high := high && !(s.padsOff slice)
      s.setSlice slice { x with gateLow := !high, suspended := !high && (x.suspended || !(s.on (F.PSL_PULSE_P5_RUN slice))) }
    else s)

/-- The COUNT pulses of MODE 0b01 or 0b10 are out. A start that waits for the boundary begins the pattern anew (R185). -/
def State.pulseDone (s : State) (n : Nat) : State :=
  let s := ((s.wr (F.PSL_PULSE_P5_RUN n) 0).raise (F.PSL_PULSE_P5_DONE n)).wr (F.PSL_PULSE_P6_PCOUNT n) (s.rd (F.PSL_PULSE_P3_COUNT n))
  if (s.slice n).start then s.pulseBegin n else s

/-- PULSE_BURST_DONE. -/
def execPulseBurstDone (slice : Fin 48) (s : State) : Res :=
  guarded s (fun s =>
    let m := s.rd (F.PSL_PULSE_P0_MODE slice)
    if s.sliceRuns slice ∧ s.pers slice = 7 ∧ s.on (F.PSL_PULSE_P5_RUN slice) ∧ (m = 1 ∨ m = 2) ∧ !(s.slice slice).suspended then
      s.pulseDone slice
    else s)

/-- The boundary of a period: a pulse more; then a waiting start, the end of the burst, the gate, or the next period with the pair that is
committed (R185). -/
def State.pulseBoundary (s : State) (n : Nat) : State :=
  let s := s.wr (F.PSL_PULSE_P6_PCOUNT n) (s.rd (F.PSL_PULSE_P6_PCOUNT n) + 1)
  let x := s.slice n
  if x.start then s.pulseBegin n
  else if s.rd (F.PSL_PULSE_P0_MODE n) ≠ 0 ∧ s.rd (F.PSL_PULSE_P3_COUNT n) ≤ s.rd (F.PSL_PULSE_P6_PCOUNT n) then s.pulseDone n
  else s.setSlice n { x with phase := 0, running := x.pair, suspended := s.pulseGated n }

/-- A cycle of a pulse generator that runs. -/
def State.pulseTick (s : State) (n : Nat) : State :=
  let x := s.slice n
  if s.pers n = 7 ∧ s.on (F.PSL_PULSE_P5_RUN n) ∧ s.sliceRuns n ∧ !x.suspended then
    if x.phase + 1 < (x.running.getD (1, 0)).1 then s.setSlice n { x with phase := x.phase + 1 } else s.pulseBoundary n
  else s

def State.pulseTicks (s : State) : State := (List.range 48).foldl (fun t n => t.pulseTick n) s

/-- Whether OUT is at its active level. -/
def State.pulseActive (s : State) (n : Nat) : Bool :=
  let x := s.slice n
  s.on (F.PSL_PULSE_P5_RUN n) && !x.suspended && decide (x.phase < (x.running.getD (1, 0)).2)

/-- Whether pin B as complement is active: outside the pulse and DEAD cycles to either side of it (DEDUCED: notes/assumptions/21.md). -/
def State.pulseComplement (s : State) (n : Nat) : Bool :=
  let x := s.slice n
  let (p, h) := x.running.getD (1, 0)
  let dead := s.rd (F.PSL_PULSE_P0_DEAD n)
  !(s.on (F.PSL_PULSE_P5_RUN n)) || x.suspended || (decide (h + dead ≤ x.phase) && decide (x.phase + dead < p))

/-! IO-Link (R186) -/

/-- IOL_FEED_CHANGE: the cell reports L+ to its slice, as the feed of its bank is (R157, R158). -/
def execIolFeedChange (slice : Fin 48) (on : Bool) (s : State) : Res :=
  guarded s (fun s =>
    if s.sliceRuns slice ∧ s.pers slice = 8 ∧ s.iolFeed slice = on then
      if !on then ((s.toIol slice iolNopower).wr (F.PSL_IOL_P3_PDVALID slice) 0).setSlice slice { s.slice slice with failures := 0 }
      else if s.iol slice = iolNopower then s.iolByMode slice
      else s
    else s)

/-- IOL_WAKEUP: the rate found, if the device answered; at a fixed rate only that one. -/
def execIolWakeup (slice : Fin 48) (rate : Option (Fin 4)) (s : State) : Res :=
  guarded s (fun s =>
    if s.sliceRuns slice ∧ s.pers slice = 8 ∧ s.iol slice = iolStartup ∧ s.iolLive slice then
      match rate with
      | none => s
      | some r =>
        if s.par slice (F.PSL_IOL_P0_MODE slice) = 4 ∧ r.val ≠ s.par slice (F.PSL_IOL_P0_COM slice) then s
        else (s.toIol slice iolPreoperate).wr (F.PSL_IOL_P3_COMUSED slice) r
    else s)

/-- IOL_VALIDATION: the device's VendorID and DeviceID. -/
def execIolValidation (slice : Fin 48) (vid : BitVec 16) (did : BitVec 24) (s : State) : Res :=
  guarded s (fun s =>
    if s.sliceRuns slice ∧ s.pers slice = 8 ∧ s.iol slice = iolPreoperate then
      if s.par slice (F.PSL_IOL_P0_VALIDATE slice) = 0 ∨
          (vid.toNat = s.par slice (F.PSL_IOL_P1_VID slice) ∧ did.toNat = s.par slice (F.PSL_IOL_P2_DID slice)) then
        s.toIol slice iolOperate
      else (s.toIol slice iolMismatch).raise (F.PSL_Sn_IRQ_IOL slice)
    else s)

/-- IOL_MESSAGE_FAILURE: the third consecutive one enters COMLOST. -/
def execIolMessageFailure (slice : Fin 48) (s : State) : Res :=
  guarded s (fun s =>
    if s.sliceRuns slice ∧ s.pers slice = 8 ∧ s.iol slice = iolOperate then
      let x := s.slice slice
      if x.failures < 2 then (s.setSlice slice { x with failures := x.failures + 1 }).bump (F.PSL_IOL_P3_RETRY slice)
      else
        ((((s.setSlice slice { x with failures := 0 }).toIol slice iolComlost).wr (F.PSL_IOL_P3_PDVALID slice) 0).bump
          (F.PSL_IOL_P3_LOST slice)).raise (F.PSL_Sn_IRQ_IOL slice)
    else s)

/-- IOL_COMLOST_EXPIRY. -/
def execIolComlostExpiry (slice : Fin 48) (s : State) : Res :=
  guarded s (fun s =>
    if s.sliceRuns slice ∧ s.pers slice = 8 ∧ s.iol slice = iolComlost then s.toIol slice iolStartup else s)

/-- IOL_MESSAGE_EXCHANGE: the device's process data and its validity, a device event, and an ISDU response. -/
def execIolMessageExchange (slice : Fin 48) (pd : List Byte) (valid : Bool) (event : Option (Byte × BitVec 16))
    (isdu : Option (List Byte)) (s : State) : Res :=
  guarded s (fun s =>
    if s.sliceRuns slice ∧ s.pers slice = 8 ∧ s.iol slice = iolOperate ∧ s.iolLive slice then
      let x := s.slice slice
      let s := s.setSlice slice { x with failures := 0, pdIn := if valid then (pd.map BitVec.toNat).take (s.par slice (F.PSL_IOL_P0_PDIN slice)) else x.pdIn }
      let s := s.wrB (F.PSL_IOL_P3_PDVALID slice) valid
      let s := if valid then s.emit (.serial slice ((s.slice slice).pdOut.take (s.par slice (F.PSL_IOL_P0_PDOUT slice)))) else s
      let s := match event with
        | some (q, c) =>
          (((s.rxByte slice q.toNat false true).rxByte slice (c.toNat % 256) false true).rxByte slice (c.toNat / 256) false true).rxEnd slice
        | none => s
      match isdu with
      | some bs => s.rxPacket slice (bs.map BitVec.toNat)
      | none => s
    else s)

end Sys2Proof.Machine
end

