-- ==== Sys2Proof/Machine/Drift.lean ====
section
/-! DEFINITION. Class A fields, expert writes and drift (03 R64 to R68). -/

namespace Sys2Proof.Machine

/-- The Almanac's value of a class A field (R66). -/
def State.almValue (s : State) (f : Fld) : Nat := s.alm.values.getD f.key f.rst

/-- The keys of the fields that depart. -/
def State.setDeparting (s : State) (l : List Nat) : State := { s with alm := { s.alm with departing := l } }

/-- After a write of a class A field: whether it departs, and what a departing write sets (R66). -/
def State.noteDeparture (s : State) (f : Fld) : State :=
  let rest := s.alm.departing.filter (fun k => k != f.key)
  if s.rd f = s.almValue f then s.setDeparting rest
  else
    let s := (((s.setDeparting (f.key :: rest)).raise F.GLB_HEALTH_DRIFT).raise F.ALM_IRQ_DRIFT).mark .departed
    if s.on F.ALM_DRIFT_ADDR_VALID then s
    else (s.raise F.ALM_DRIFT_ADDR_VALID).wr F.ALM_DRIFT_ADDR_OFFSET f.off

/-- An expert write of a class A field: ignored while no Almanac is in force (R64), and where the field is loaded in the same cycle
(R68). -/
def State.wrA (s : State) (f : Fld) (v : Nat) : State :=
  if s.almInForce && !(s.marked (.loaded f.key)) then (s.wr f v).noteDeparture f else s

/-- A field is loaded in the present cycle: of use to a later command of the cycle alone. -/
def State.markLoaded (s : State) (f : Fld) : State := if s.together = 0 then s else s.mark (.loaded f.key)

/-- A class A field takes a value from an Almanac (R68). -/
def State.loadA (s : State) (f : Fld) (v : Nat) : State :=
  let s := (s.wr f v).markLoaded f
  let s := s.setDeparting (s.alm.departing.filter (fun k => k != f.key))
  { s with alm := { s.alm with values := s.alm.values.put f.key (s.rd f) f.rst } }

/-- DRIFT goes to 0, and the first departure is no longer held. -/
def State.endDrift (s : State) : State := (s.wr F.GLB_HEALTH_DRIFT 0).wr F.ALM_DRIFT_ADDR_VALID 0

/-- DRIFT_ACK (R67): clears DRIFT and leaves the departing values as they are. A departing write of the same cycle wins (R46). -/
def State.driftAck (s : State) : State := if s.marked .departed then s else s.endDrift

def execDriftAck (s : State) : Res := guarded s (fun s => s.driftAck.ack)

/-! The hub's own drive -/

/-- Sluice source S61: the hub drives its pins, being neither quarantined, standby nor fenced (R132, R282, R397). -/
def State.drives (s : State) : Bool := !s.pinQuar && !s.twinIdle

end Sys2Proof.Machine
end

