-- ==== Sys2Proof/Machine/RegTable.lean ====
section
/-!
DEFINITION. The access table of the registers (R32): for every register its offset, its instances, whether it is banked
or a result register (R40), and for every field its access code, its class (R64) and the range an expert write is held to (R65).
-/

namespace Sys2Proof.Machine

/-- The access codes of R32. -/
inductive Acc where
  | rw | ro | rc | wo | wt | rwb
  deriving DecidableEq, Repr

/-- The classes of R64: set by the Almanac, fixed by it, or neither. -/
inductive Cls where
  | a | f | run
  deriving DecidableEq, Repr

/-- One field of a register. The range is min to max. -/
structure FRow where
  lo : Nat
  w : Nat
  acc : Acc
  rst : Nat
  cls : Cls
  min : Nat
  max : Nat
  deriving DecidableEq, Repr

/-- What a register is besides its fields. -/
inductive RKind where
  | plain | banked | result | bankedResult
  deriving DecidableEq, Repr

/-- One register of the tables, or one array of registers. -/
structure RRow where
  off : Nat
  n : Nat
  stride : Nat
  m : Nat
  stride2 : Nat
  kind : RKind
  fields : List FRow
  deriving DecidableEq, Repr

/-- Registers of GLB. Bits 2, 3 and 13 to 15 of GLB_IRQ_EN, which nothing heeds, hold what is written to them (DESIGN CHOICE:
notes/assumptions/15.md; R44 does not say). -/
def regRowsGLB : List RRow := [
  -- GLB_ID (R44)
  ⟨0, 1, 0, 1, 0, .plain, [⟨0, 16, .ro, 0xa0c5, .run, 0, 0xffff⟩, ⟨16, 16, .ro, 0x8512, .run, 0, 0xffff⟩]⟩,
  -- GLB_REV (R44)
  ⟨4, 1, 0, 1, 0, .plain, [⟨0, 4, .ro, 1, .run, 0, 0xf⟩, ⟨4, 4, .ro, 1, .run, 0, 0xf⟩, ⟨8, 8, .ro, 0xc0, .run, 0, 0xff⟩, ⟨16, 16, .rwb, 0, .run, 0, 0xffff⟩]⟩,
  -- GLB_SERIAL_LO (R44)
  ⟨8, 1, 0, 1, 0, .plain, [⟨0, 32, .ro, 0, .run, 0, 0xffffffff⟩]⟩,
  -- GLB_SERIAL_HI (R44)
  ⟨0xc, 1, 0, 1, 0, .plain, [⟨0, 32, .ro, 0, .run, 0, 0xffffffff⟩]⟩,
  -- GLB_POS (R44)
  ⟨0x10, 1, 0, 1, 0, .plain, [⟨0, 2, .ro, 0, .run, 0, 3⟩, ⟨2, 14, .rwb, 0, .run, 0, 0x3fff⟩, ⟨16, 10, .ro, 0, .run, 0, 0x3ff⟩, ⟨26, 6, .rwb, 0, .run, 0, 0x3f⟩]⟩,
  -- GLB_HEALTH (R44)
  ⟨0x14, 1, 0, 1, 0, .plain, [⟨0, 16, .ro, 0, .run, 0, 0xffff⟩, ⟨16, 2, .rwb, 0, .run, 0, 3⟩, ⟨18, 1, .ro, 0, .run, 0, 1⟩, ⟨19, 1, .ro, 0, .run, 0, 1⟩, ⟨20, 1, .ro, 0, .run, 0, 1⟩, ⟨21, 1, .ro, 0, .run, 0, 1⟩, ⟨22, 1, .ro, 0, .run, 0, 1⟩, ⟨23, 1, .ro, 0, .run, 0, 1⟩, ⟨24, 1, .ro, 0, .run, 0, 1⟩, ⟨25, 1, .ro, 0, .run, 0, 1⟩, ⟨26, 1, .ro, 0, .run, 0, 1⟩, ⟨27, 2, .ro, 0, .run, 0, 3⟩, ⟨29, 1, .ro, 0, .run, 0, 1⟩, ⟨30, 1, .ro, 0, .run, 0, 1⟩, ⟨31, 1, .ro, 0, .run, 0, 1⟩]⟩,
  -- GLB_IRQ_SUM (R44)
  ⟨0x18, 1, 0, 1, 0, .plain, [⟨0, 27, .ro, 0, .run, 0, 0x7ffffff⟩, ⟨27, 5, .rwb, 0, .run, 0, 0x1f⟩]⟩,
  -- GLB_IRQ_EN (R45)
  ⟨0x1c, 1, 0, 1, 0, .plain, [⟨0, 27, .rw, 0, .run, 0, 0x7ffffff⟩, ⟨27, 5, .rwb, 0, .run, 0, 0x1f⟩]⟩,
  -- GLB_DRIFT_ACK (R45)
  ⟨0x20, 1, 0, 1, 0, .plain, [⟨0, 1, .wt, 0, .run, 0, 1⟩, ⟨1, 31, .rwb, 0, .run, 0, 0x7fffffff⟩]⟩,
  -- GLB_LOCKSTEP (R46)
  ⟨0x24, 1, 0, 1, 0, .plain, [⟨0, 1, .rc, 0, .run, 0, 1⟩, ⟨1, 1, .rc, 0, .run, 0, 1⟩, ⟨2, 14, .rwb, 0, .run, 0, 0x3fff⟩, ⟨16, 8, .ro, 0, .run, 0, 0xff⟩, ⟨24, 8, .rwb, 0, .run, 0, 0xff⟩]⟩,
  -- GLB_ACC_ERR (R46)
  ⟨0x28, 1, 0, 1, 0, .plain, [⟨0, 16, .ro, 0, .run, 0, 0xffff⟩, ⟨16, 12, .rwb, 0, .run, 0, 0xfff⟩, ⟨28, 2, .ro, 0, .run, 0, 3⟩, ⟨30, 1, .rc, 0, .run, 0, 1⟩, ⟨31, 1, .rc, 0, .run, 0, 1⟩]⟩,
  -- GLB_ACC_ADDR_LO (R47)
  ⟨0x2c, 1, 0, 1, 0, .plain, [⟨0, 32, .ro, 0, .run, 0, 0xffffffff⟩]⟩,
  -- GLB_ACC_ADDR_HI (R47)
  ⟨0x30, 1, 0, 1, 0, .plain, [⟨0, 24, .ro, 0, .run, 0, 0xffffff⟩, ⟨24, 8, .rwb, 0, .run, 0, 0xff⟩]⟩,
  -- GLB_CTL (R47)
  ⟨0x34, 1, 0, 1, 0, .plain, [⟨0, 1, .rw, 0, .run, 0, 1⟩, ⟨1, 31, .rwb, 0, .run, 0, 0x7fffffff⟩]⟩]

/-- Registers of ALM. -/
def regRowsALM : List RRow := [
  -- ALM_CTL (R69)
  ⟨0x10000, 1, 0, 1, 0, .plain, [⟨0, 1, .wt, 0, .run, 0, 1⟩, ⟨1, 1, .wt, 0, .run, 0, 1⟩, ⟨2, 1, .wt, 0, .run, 0, 1⟩, ⟨3, 29, .rwb, 0, .run, 0, 0x1fffffff⟩]⟩,
  -- ALM_STAGE_PTR (R69)
  ⟨0x10004, 1, 0, 1, 0, .plain, [⟨0, 2, .rwb, 0, .run, 0, 3⟩, ⟨2, 18, .rw, 0, .run, 0, 0x3ffff⟩, ⟨20, 12, .rwb, 0, .run, 0, 0xfff⟩]⟩,
  -- ALM_STAGE_DATA (R69)
  ⟨0x10008, 1, 0, 1, 0, .plain, [⟨0, 32, .wo, 0, .run, 0, 0xffffffff⟩]⟩,
  -- ALM_STATUS (R69)
  ⟨0x1000c, 1, 0, 1, 0, .plain, [⟨0, 16, .ro, 0, .run, 0, 0xffff⟩, ⟨16, 8, .ro, 0, .run, 0, 0xff⟩, ⟨24, 4, .rwb, 0, .run, 0, 0xf⟩, ⟨28, 1, .ro, 0, .run, 0, 1⟩, ⟨29, 3, .ro, 0, .run, 0, 7⟩]⟩,
  -- ALM_ERR_SECT (R69)
  ⟨0x10010, 1, 0, 1, 0, .plain, [⟨0, 16, .ro, 0, .run, 0, 0xffff⟩, ⟨16, 16, .rwb, 0, .run, 0, 0xffff⟩]⟩,
  -- ALM_ERR_OFF (R69)
  ⟨0x10014, 1, 0, 1, 0, .plain, [⟨0, 19, .ro, 0, .run, 0, 0x7ffff⟩, ⟨19, 13, .rwb, 0, .run, 0, 0x1fff⟩]⟩,
  -- ALM_IRQ (R69)
  ⟨0x10018, 1, 0, 1, 0, .plain, [⟨0, 1, .rc, 0, .run, 0, 1⟩, ⟨1, 1, .rc, 0, .run, 0, 1⟩, ⟨2, 1, .rc, 0, .run, 0, 1⟩, ⟨3, 1, .rc, 0, .run, 0, 1⟩, ⟨4, 1, .rc, 0, .run, 0, 1⟩, ⟨5, 1, .rc, 0, .run, 0, 1⟩, ⟨6, 26, .rwb, 0, .run, 0, 0x3ffffff⟩]⟩,
  -- ALM_IRQ_EN (R69)
  ⟨0x1001c, 1, 0, 1, 0, .plain, [⟨0, 6, .rw, 0, .run, 0, 0x3f⟩, ⟨6, 26, .rwb, 0, .run, 0, 0x3ffffff⟩]⟩,
  -- ALM_VERSION (R69)
  ⟨0x10020, 1, 0, 1, 0, .plain, [⟨0, 32, .ro, 0, .run, 0, 0xffffffff⟩]⟩,
  -- ALM_KIND (R69)
  ⟨0x10024, 1, 0, 1, 0, .plain, [⟨0, 16, .ro, 0, .run, 0, 0xffff⟩, ⟨16, 8, .ro, 0, .run, 0, 0xff⟩, ⟨24, 8, .rwb, 0, .run, 0, 0xff⟩]⟩,
  -- ALM_DRIFT_CNT (R69)
  ⟨0x10028, 1, 0, 1, 0, .plain, [⟨0, 16, .ro, 0, .run, 0, 0xffff⟩, ⟨16, 16, .rwb, 0, .run, 0, 0xffff⟩]⟩,
  -- ALM_DRIFT_ADDR (R69)
  ⟨0x1002c, 1, 0, 1, 0, .plain, [⟨0, 24, .ro, 0, .run, 0, 0xffffff⟩, ⟨24, 7, .rwb, 0, .run, 0, 0x7f⟩, ⟨31, 1, .ro, 0, .run, 0, 1⟩]⟩,
  -- ALM_HASH (R69)
  ⟨0x10040, 12, 4, 1, 0, .plain, [⟨0, 32, .ro, 0, .run, 0, 0xffffffff⟩]⟩]

/-- Registers of TIM. -/
def regRowsTIM0 : List RRow := [
  -- TIM_CTL (R103)
  ⟨0x40000, 1, 0, 1, 0, .plain, [⟨0, 1, .wt, 0, .run, 0, 1⟩, ⟨1, 1, .wt, 0, .run, 0, 1⟩, ⟨2, 2, .rwb, 0, .run, 0, 3⟩, ⟨4, 1, .rw, 0, .a, 0, 1⟩, ⟨5, 1, .ro, 0, .f, 0, 1⟩, ⟨6, 2, .ro, 0, .f, 0, 3⟩, ⟨8, 24, .rwb, 0, .run, 0, 0xffffff⟩]⟩,
  -- TIM_STATUS (R103)
  ⟨0x40004, 1, 0, 1, 0, .plain, [⟨0, 16, .ro, 0, .run, 0, 0xffff⟩, ⟨16, 8, .rwb, 0, .run, 0, 0xff⟩, ⟨24, 3, .ro, 0, .run, 0, 7⟩, ⟨27, 1, .ro, 0, .run, 0, 1⟩, ⟨28, 1, .ro, 0, .run, 0, 1⟩, ⟨29, 3, .ro, 0, .run, 0, 7⟩]⟩,
  -- TIM_IRQ (R103)
  ⟨0x40008, 1, 0, 1, 0, .plain, [⟨0, 1, .rc, 0, .run, 0, 1⟩, ⟨1, 1, .rc, 0, .run, 0, 1⟩, ⟨2, 1, .rc, 0, .run, 0, 1⟩, ⟨3, 1, .rc, 0, .run, 0, 1⟩, ⟨4, 1, .rc, 0, .run, 0, 1⟩, ⟨5, 1, .rc, 0, .run, 0, 1⟩, ⟨6, 1, .rc, 0, .run, 0, 1⟩, ⟨7, 1, .rc, 0, .run, 0, 1⟩, ⟨8, 24, .rwb, 0, .run, 0, 0xffffff⟩]⟩,
  -- TIM_IRQ_EN (R103)
  ⟨0x4000c, 1, 0, 1, 0, .plain, [⟨0, 8, .rw, 0, .run, 0, 0xff⟩, ⟨8, 24, .rwb, 0, .run, 0, 0xffffff⟩]⟩,
  -- TIM_CAP_SEC_HI (R74)
  ⟨0x40010, 1, 0, 1, 0, .banked, [⟨0, 16, .ro, 0, .run, 0, 0xffff⟩, ⟨16, 16, .rwb, 0, .run, 0, 0xffff⟩]⟩,
  -- TIM_CAP_SEC_LO (R74)
  ⟨0x40014, 1, 0, 1, 0, .banked, [⟨0, 32, .ro, 0, .run, 0, 0xffffffff⟩]⟩,
  -- TIM_CAP_NS (R74)
  ⟨0x40018, 1, 0, 1, 0, .banked, [⟨0, 30, .ro, 0, .run, 0, 0x3fffffff⟩, ⟨30, 2, .rwb, 0, .run, 0, 3⟩]⟩,
  -- TIM_CAP_FRAC (R74)
  ⟨0x4001c, 1, 0, 1, 0, .banked, [⟨0, 16, .ro, 0, .run, 0, 0xffff⟩, ⟨16, 16, .rwb, 0, .run, 0, 0xffff⟩]⟩,
  -- TIM_SET_SEC_HI (R85)
  ⟨0x40020, 1, 0, 1, 0, .plain, [⟨0, 16, .rw, 0, .run, 0, 0xffff⟩, ⟨16, 16, .rwb, 0, .run, 0, 0xffff⟩]⟩,
  -- TIM_SET_SEC_LO (R85)
  ⟨0x40024, 1, 0, 1, 0, .plain, [⟨0, 32, .rw, 0, .run, 0, 0xffffffff⟩]⟩,
  -- TIM_SET_NS (R85)
  ⟨0x40028, 1, 0, 1, 0, .plain, [⟨0, 30, .rw, 0, .run, 0, 0x3fffffff⟩, ⟨30, 2, .rwb, 0, .run, 0, 3⟩]⟩,
  -- TIM_SET_RES (R85)
  ⟨0x4002c, 1, 0, 1, 0, .result, [⟨0, 16, .ro, 0, .run, 0, 0xffff⟩, ⟨16, 8, .ro, 0, .run, 0, 0xff⟩, ⟨24, 6, .rwb, 0, .run, 0, 0x3f⟩, ⟨30, 1, .ro, 0, .run, 0, 1⟩, ⟨31, 1, .ro, 0, .run, 0, 1⟩]⟩,
  -- TIM_OFFSET (R103)
  ⟨0x40030, 1, 0, 1, 0, .plain, [⟨0, 32, .ro, 0, .run, 0, 0xffffffff⟩]⟩,
  -- TIM_FREQ (R103)
  ⟨0x40034, 1, 0, 1, 0, .plain, [⟨0, 32, .ro, 0, .run, 0, 0xffffffff⟩]⟩,
  -- TIM_RATE (R103)
  ⟨0x40038, 1, 0, 1, 0, .plain, [⟨0, 32, .ro, 0xcccccccd, .run, 0, 0xffffffff⟩]⟩,
  -- TIM_SERVO0 (R103)
  ⟨0x4003c, 1, 0, 1, 0, .plain, [⟨0, 16, .rw, 0x140, .a, 0, 0xffff⟩, ⟨16, 16, .rw, 0x1900, .a, 0, 0xffff⟩]⟩,
  -- TIM_SERVO1 (R103)
  ⟨0x40040, 1, 0, 1, 0, .plain, [⟨0, 16, .rw, 0x140, .a, 1, 0xffff⟩, ⟨16, 16, .rw, 0x4e20, .a, 1, 0x4e20⟩]⟩,
  -- TIM_SERVO2 (R103)
  ⟨0x40044, 1, 0, 1, 0, .plain, [⟨0, 32, .rw, 0x3e8, .a, 0x64, 0x3b9aca00⟩]⟩,
  -- TIM_SERVO3 (R103)
  ⟨0x40048, 1, 0, 1, 0, .plain, [⟨0, 8, .rw, 0x10, .a, 1, 0xff⟩, ⟨8, 8, .rwb, 0, .run, 0, 0xff⟩, ⟨16, 16, .rw, 8, .a, 2, 0xffff⟩]⟩,
  -- TIM_INT (R103)
  ⟨0x4004c, 1, 0, 1, 0, .plain, [⟨0, 16, .rw, 8, .a, 1, 0x1f40⟩, ⟨16, 16, .rw, 0x1f4, .a, 0x7d, 0x7d00⟩]⟩,
  -- TIM_UTC_OFS (R103)
  ⟨0x40050, 1, 0, 1, 0, .plain, [⟨0, 16, .ro, 0, .run, 0, 0xffff⟩, ⟨16, 16, .rwb, 0, .run, 0, 0xffff⟩]⟩,
  -- TIM_CNT (R103)
  ⟨0x40054, 1, 0, 1, 0, .plain, [⟨0, 16, .rc, 0, .run, 0, 0xffff⟩, ⟨16, 16, .rc, 0, .run, 0, 0xffff⟩]⟩,
  -- TIM_GMID_LO (R103)
  ⟨0x40058, 1, 0, 1, 0, .plain, [⟨0, 32, .ro, 0, .run, 0, 0xffffffff⟩]⟩,
  -- TIM_GMID_HI (R103)
  ⟨0x4005c, 1, 0, 1, 0, .plain, [⟨0, 32, .ro, 0, .run, 0, 0xffffffff⟩]⟩,
  -- TIM_Pn_TXCOR (R76)
  ⟨0x40100, 8, 0x20, 1, 0, .plain, [⟨0, 32, .ro, 0, .run, 0, 0xffffffff⟩]⟩]

/-- Registers of TIM. -/
def regRowsTIM1 : List RRow := [
  -- TIM_Pn_RXCOR (R76)
  ⟨0x40104, 8, 0x20, 1, 0, .plain, [⟨0, 32, .ro, 0, .run, 0, 0xffffffff⟩]⟩,
  -- TIM_Pn_ASYM (R76)
  ⟨0x40108, 8, 0x20, 1, 0, .plain, [⟨0, 32, .rw, 0, .a, 0, 0xffffffff⟩]⟩,
  -- TIM_Pn_DELAY (R103)
  ⟨0x4010c, 8, 0x20, 1, 0, .plain, [⟨0, 32, .ro, 0, .run, 0, 0xffffffff⟩]⟩,
  -- TIM_Pn_STAT (R103)
  ⟨0x40110, 8, 0x20, 1, 0, .plain, [⟨0, 16, .rc, 0, .run, 0, 0xffff⟩, ⟨16, 15, .rwb, 0, .run, 0, 0x7fff⟩, ⟨31, 1, .ro, 1, .run, 0, 1⟩]⟩]

/-- Registers of TLY. -/
def regRowsTLY : List RRow := [
  -- TLY_STATE_IRQ (R104)
  ⟨0x50000, 1, 0, 1, 0, .plain, [⟨0, 32, .rc, 0, .run, 0, 0xffffffff⟩]⟩,
  -- TLY_RES_IRQ (R104)
  ⟨0x50004, 1, 0, 1, 0, .plain, [⟨0, 32, .rc, 0, .run, 0, 0xffffffff⟩]⟩,
  -- TLY_STATE_EN (R104)
  ⟨0x50008, 1, 0, 1, 0, .plain, [⟨0, 32, .rw, 0, .run, 0, 0xffffffff⟩]⟩,
  -- TLY_RES_EN (R104)
  ⟨0x5000c, 1, 0, 1, 0, .plain, [⟨0, 32, .rw, 0, .run, 0, 0xffffffff⟩]⟩,
  -- TLY_SUMMARY (R104)
  ⟨0x50010, 1, 0, 1, 0, .plain, [⟨0, 32, .ro, 0, .run, 0, 0xffffffff⟩]⟩,
  -- TLY_Q_CTL (R104)
  ⟨0x50020, 1, 0, 1, 0, .banked, [⟨0, 5, .rw, 0, .run, 0, 0x1f⟩, ⟨5, 3, .rwb, 0, .run, 0, 7⟩, ⟨8, 2, .rw, 0, .run, 0, 3⟩, ⟨10, 2, .rwb, 0, .run, 0, 3⟩, ⟨12, 3, .rw, 0, .run, 0, 7⟩, ⟨15, 16, .rwb, 0, .run, 0, 0xffff⟩, ⟨31, 1, .wt, 0, .run, 0, 1⟩]⟩,
  -- TLY_Q_RES (R104)
  ⟨0x50024, 1, 0, 1, 0, .bankedResult, [⟨0, 16, .ro, 0, .run, 0, 0xffff⟩, ⟨16, 8, .ro, 0, .run, 0, 0xff⟩, ⟨24, 6, .rwb, 0, .run, 0, 0x3f⟩, ⟨30, 1, .ro, 0, .run, 0, 1⟩, ⟨31, 1, .ro, 0, .run, 0, 1⟩]⟩,
  -- TLY_Q_ARG (R104)
  ⟨0x50028, 3, 4, 1, 0, .banked, [⟨0, 32, .rw, 0, .run, 0, 0xffffffff⟩]⟩,
  -- TLY_Q_OUT (R104)
  ⟨0x50040, 8, 4, 1, 0, .banked, [⟨0, 32, .ro, 0, .run, 0, 0xffffffff⟩]⟩,
  -- TLY_Sn_CFG (R104)
  ⟨0x50100, 32, 0x40, 1, 0, .plain, [⟨0, 16, .rw, 0x3e8, .a, 1, 0xffff⟩, ⟨16, 8, .ro, 0, .f, 0, 0xff⟩, ⟨24, 4, .ro, 0, .f, 0, 0xf⟩, ⟨28, 1, .rw, 0, .a, 0, 1⟩, ⟨29, 1, .ro, 0, .f, 0, 1⟩, ⟨30, 1, .ro, 0, .f, 0, 1⟩, ⟨31, 1, .ro, 0, .f, 0, 1⟩]⟩,
  -- TLY_Sn_SRC (R104)
  ⟨0x50104, 32, 0x40, 1, 0, .plain, [⟨0, 16, .ro, 0, .f, 0, 0xffff⟩, ⟨16, 12, .ro, 0, .f, 0, 0xfff⟩, ⟨28, 4, .rwb, 0, .run, 0, 0xf⟩]⟩,
  -- TLY_Sn_TOL (R104)
  ⟨0x50108, 32, 0x40, 1, 0, .plain, [⟨0, 32, .rw, 0x10000, .a, 1, 0x7fffffff⟩]⟩,
  -- TLY_Sn_LATE (R104)
  ⟨0x5010c, 32, 0x40, 1, 0, .plain, [⟨0, 24, .rw, 0xfa, .a, 0, 0xffffff⟩, ⟨24, 8, .rw, 4, .a, 1, 0xff⟩]⟩,
  -- TLY_Sn_STATE (R104)
  ⟨0x50110, 32, 0x40, 1, 0, .plain, [⟨0, 16, .ro, 0, .run, 0, 0xffff⟩, ⟨16, 8, .ro, 0, .run, 0, 0xff⟩, ⟨24, 4, .ro, 0, .run, 0, 0xf⟩, ⟨28, 1, .rwb, 0, .run, 0, 1⟩, ⟨29, 3, .ro, 0, .run, 0, 7⟩]⟩,
  -- TLY_Sn_RESID (R104)
  ⟨0x50114, 32, 0x40, 1, 0, .plain, [⟨0, 32, .ro, 0, .run, 0, 0xffffffff⟩]⟩,
  -- TLY_Sn_CNT (R104)
  ⟨0x50118, 32, 0x40, 1, 0, .plain, [⟨0, 8, .rc, 0, .run, 0, 0xff⟩, ⟨8, 8, .rc, 0, .run, 0, 0xff⟩, ⟨16, 8, .rc, 0, .run, 0, 0xff⟩, ⟨24, 8, .rc, 0, .run, 0, 0xff⟩]⟩,
  -- TLY_Sn_WGT_LO (R93)
  ⟨0x5011c, 32, 0x40, 1, 0, .plain, [⟨0, 32, .rw, 0xa0c0e0ff, .a, 0, 0xffffffff⟩]⟩,
  -- TLY_Sn_WGT_HI (R93)
  ⟨0x50120, 32, 0x40, 1, 0, .plain, [⟨0, 32, .rw, 0x20406080, .a, 0, 0xffffffff⟩]⟩]

/-- Registers of SCH. -/
def regRowsSCH : List RRow := [
  -- SCH_CTL (R142)
  ⟨0x60000, 1, 0, 1, 0, .plain, [⟨0, 8, .rw, 4, .a, 1, 0xc8⟩, ⟨8, 1, .rw, 0, .a, 0, 1⟩, ⟨9, 23, .rwb, 0, .run, 0, 0x7fffff⟩]⟩,
  -- SCH_STATUS (R142)
  ⟨0x60004, 1, 0, 1, 0, .plain, [⟨0, 14, .ro, 0, .run, 0, 0x3fff⟩, ⟨14, 2, .rwb, 0, .run, 0, 3⟩, ⟨16, 14, .ro, 0, .run, 0, 0x3fff⟩, ⟨30, 2, .rwb, 0, .run, 0, 3⟩]⟩,
  -- SCH_IRQ (R142)
  ⟨0x60008, 1, 0, 1, 0, .plain, [⟨0, 1, .rc, 0, .run, 0, 1⟩, ⟨1, 1, .rc, 0, .run, 0, 1⟩, ⟨2, 1, .rc, 0, .run, 0, 1⟩, ⟨3, 1, .rc, 0, .run, 0, 1⟩, ⟨4, 1, .rc, 0, .run, 0, 1⟩, ⟨5, 1, .rc, 0, .run, 0, 1⟩, ⟨6, 1, .rc, 0, .run, 0, 1⟩, ⟨7, 1, .rc, 0, .run, 0, 1⟩, ⟨8, 1, .rc, 0, .run, 0, 1⟩, ⟨9, 1, .rc, 0, .run, 0, 1⟩, ⟨10, 22, .rwb, 0, .run, 0, 0x3fffff⟩]⟩,
  -- SCH_IRQ_EN (R142)
  ⟨0x6000c, 1, 0, 1, 0, .plain, [⟨0, 10, .rw, 0, .run, 0, 0x3ff⟩, ⟨10, 22, .rwb, 0, .run, 0, 0x3fffff⟩]⟩,
  -- SCH_CMD (R142)
  ⟨0x60010, 1, 0, 1, 0, .banked, [⟨0, 13, .rw, 0, .run, 0, 0x1fff⟩, ⟨13, 3, .rwb, 0, .run, 0, 7⟩, ⟨16, 2, .rw, 0, .run, 0, 3⟩, ⟨18, 13, .rwb, 0, .run, 0, 0x1fff⟩, ⟨31, 1, .wt, 0, .run, 0, 1⟩]⟩,
  -- SCH_CMD_RES (R111)
  ⟨0x60014, 1, 0, 1, 0, .bankedResult, [⟨0, 16, .ro, 0, .run, 0, 0xffff⟩, ⟨16, 8, .ro, 0, .run, 0, 0xff⟩, ⟨24, 6, .rwb, 0, .run, 0, 0x3f⟩, ⟨30, 1, .ro, 0, .run, 0, 1⟩, ⟨31, 1, .ro, 0, .run, 0, 1⟩]⟩,
  -- SCH_RETRACT_GRP (R142)
  ⟨0x60018, 1, 0, 1, 0, .plain, [⟨0, 32, .wt, 0, .run, 0, 0xffffffff⟩]⟩,
  -- SCH_CNT0 (R131)
  ⟨0x6001c, 1, 0, 1, 0, .plain, [⟨0, 16, .rc, 0, .run, 0, 0xffff⟩, ⟨16, 16, .rc, 0, .run, 0, 0xffff⟩]⟩,
  -- SCH_CNT1 (R131)
  ⟨0x60020, 1, 0, 1, 0, .plain, [⟨0, 16, .rc, 0, .run, 0, 0xffff⟩, ⟨16, 16, .rc, 0, .run, 0, 0xffff⟩]⟩,
  -- SCH_CNT2 (R131)
  ⟨0x60024, 1, 0, 1, 0, .plain, [⟨0, 16, .rc, 0, .run, 0, 0xffff⟩, ⟨16, 16, .rc, 0, .run, 0, 0xffff⟩]⟩,
  -- SCH_LATE_IDX (R142)
  ⟨0x60028, 1, 0, 1, 0, .plain, [⟨0, 13, .ro, 0, .run, 0, 0x1fff⟩, ⟨13, 18, .rwb, 0, .run, 0, 0x3ffff⟩, ⟨31, 1, .ro, 0, .run, 0, 1⟩]⟩,
  -- SCH_LATE_ERR (R142)
  ⟨0x6002c, 1, 0, 1, 0, .plain, [⟨0, 16, .ro, 0, .run, 0, 0xffff⟩, ⟨16, 16, .rwb, 0, .run, 0, 0xffff⟩]⟩,
  -- SCH_NEXT_LO (R131)
  ⟨0x60030, 1, 0, 1, 0, .plain, [⟨0, 32, .ro, 0xffffffff, .run, 0, 0xffffffff⟩]⟩,
  -- SCH_NEXT_HI (R131)
  ⟨0x60034, 1, 0, 1, 0, .plain, [⟨0, 32, .ro, 0xffffffff, .run, 0, 0xffffffff⟩]⟩,
  -- SCH_PARTn (R142)
  ⟨0x60040, 6, 4, 1, 0, .plain, [⟨0, 14, .ro, 0, .f, 0, 0x3fff⟩, ⟨14, 2, .rwb, 0, .run, 0, 3⟩, ⟨16, 14, .ro, 0, .f, 0, 0x3fff⟩, ⟨30, 2, .rwb, 0, .run, 0, 3⟩]⟩,
  -- SCH_LQq (R142)
  ⟨0x60080, 16, 4, 1, 0, .plain, [⟨0, 16, .ro, 0, .run, 0, 0xffff⟩, ⟨16, 8, .rwb, 0, .run, 0, 0xff⟩, ⟨24, 8, .ro, 0, .run, 0, 0xff⟩]⟩]

/-- Registers of SLC. -/
def regRowsSLC0 : List RRow := [
  -- SLC_CTL (R143)
  ⟨0x70000, 1, 0, 1, 0, .plain, [⟨0, 1, .rw, 0, .run, 0, 1⟩, ⟨1, 31, .rwb, 0, .run, 0, 0x7fffffff⟩]⟩,
  -- SLC_SRC_LO (R141)
  ⟨0x70008, 1, 0, 1, 0, .plain, [⟨0, 32, .ro, 0, .run, 0, 0xffffffff⟩]⟩,
  -- SLC_SRC_HI (R141)
  ⟨0x7000c, 1, 0, 1, 0, .plain, [⟨0, 32, .ro, 0, .run, 0, 0xffffffff⟩]⟩,
  -- SLC_TVk (R141)
  ⟨0x70010, 4, 4, 1, 0, .plain, [⟨0, 32, .ro, 0, .run, 0, 0xffffffff⟩]⟩,
  -- SLC_EVT (R141)
  ⟨0x70020, 1, 0, 1, 0, .plain, [⟨0, 32, .ro, 0, .run, 0, 0xffffffff⟩]⟩,
  -- SLC_EVT_IRQ (R143)
  ⟨0x70024, 1, 0, 1, 0, .plain, [⟨0, 32, .rc, 0, .run, 0, 0xffffffff⟩]⟩,
  -- SLC_EVT_EN (R143)
  ⟨0x70028, 1, 0, 1, 0, .plain, [⟨0, 32, .rw, 0, .run, 0, 0xffffffff⟩]⟩,
  -- SLC_FORCE_REL (R143)
  ⟨0x7002c, 1, 0, 1, 0, .plain, [⟨0, 32, .wt, 0, .run, 0, 0xffffffff⟩]⟩,
  -- SLC_FORCED (R143)
  ⟨0x70030, 1, 0, 1, 0, .plain, [⟨0, 16, .ro, 0, .run, 0, 0xffff⟩, ⟨16, 16, .rwb, 0, .run, 0, 0xffff⟩]⟩,
  -- SLC_FILTk (R143)
  ⟨0x70040, 16, 4, 1, 0, .plain, [⟨0, 32, .rw, 0, .a, 0, 0xffffffff⟩]⟩,
  -- SLC_WATCH0 (R141)
  ⟨0x70080, 1, 0, 1, 0, .plain, [⟨0, 32, .rw, 0, .a, 0, 0xffffffff⟩]⟩,
  -- SLC_WATCH1 (R141)
  ⟨0x70084, 1, 0, 1, 0, .plain, [⟨0, 32, .rw, 0, .a, 0, 0xffffffff⟩]⟩,
  -- SLC_TWATCH (R141)
  ⟨0x70088, 1, 0, 1, 0, .plain, [⟨0, 32, .rw, 0, .a, 0, 0xffffffff⟩]⟩,
  -- SLC_HWD (R143)
  ⟨0x7008c, 1, 0, 1, 0, .plain, [⟨0, 16, .rw, 0x7d0, .a, 1, 0xffff⟩, ⟨16, 16, .rwb, 0, .run, 0, 0xffff⟩]⟩,
  -- SLC_OUTMODE0 (R141)
  ⟨0x70090, 1, 0, 1, 0, .plain, [⟨0, 32, .rw, 0, .a, 0, 0xffffffff⟩]⟩,
  -- SLC_OUTMODE1 (R141)
  ⟨0x70094, 1, 0, 1, 0, .plain, [⟨0, 32, .rw, 0, .a, 0, 0xffffffff⟩]⟩,
  -- SLC_Tt_TRUE_LO (R141)
  ⟨0x71000, 128, 0x10, 1, 0, .plain, [⟨0, 32, .rw, 0, .a, 0, 0xffffffff⟩]⟩,
  -- SLC_Tt_TRUE_HI (R141)
  ⟨0x71004, 128, 0x10, 1, 0, .plain, [⟨0, 32, .rw, 0, .a, 0, 0xffffffff⟩]⟩,
  -- SLC_Tt_COMP_LO (R141)
  ⟨0x71008, 128, 0x10, 1, 0, .plain, [⟨0, 32, .rw, 0, .a, 0, 0xffffffff⟩]⟩,
  -- SLC_Tt_COMP_HI (R141)
  ⟨0x7100c, 128, 0x10, 1, 0, .plain, [⟨0, 32, .rw, 0, .a, 0, 0xffffffff⟩]⟩,
  -- SLC_Oo_M0 (R141)
  ⟨0x71800, 32, 0x10, 1, 0, .plain, [⟨0, 32, .rw, 0, .a, 0, 0xffffffff⟩]⟩,
  -- SLC_Oo_M1 (R141)
  ⟨0x71804, 32, 0x10, 1, 0, .plain, [⟨0, 32, .rw, 0, .a, 0, 0xffffffff⟩]⟩,
  -- SLC_Oo_M2 (R141)
  ⟨0x71808, 32, 0x10, 1, 0, .plain, [⟨0, 32, .rw, 0, .a, 0, 0xffffffff⟩]⟩,
  -- SLC_Oo_M3 (R141)
  ⟨0x7180c, 32, 0x10, 1, 0, .plain, [⟨0, 32, .rw, 0, .a, 0, 0xffffffff⟩]⟩,
  -- SLC_Ee_M0 (R141)
  ⟨0x71a00, 32, 0x10, 1, 0, .plain, [⟨0, 32, .rw, 0, .a, 0, 0xffffffff⟩]⟩]

/-- Registers of SLC. -/
def regRowsSLC1 : List RRow := [
  -- SLC_Ee_M1 (R141)
  ⟨0x71a04, 32, 0x10, 1, 0, .plain, [⟨0, 32, .rw, 0, .a, 0, 0xffffffff⟩]⟩,
  -- SLC_Ee_M2 (R141)
  ⟨0x71a08, 32, 0x10, 1, 0, .plain, [⟨0, 32, .rw, 0, .a, 0, 0xffffffff⟩]⟩,
  -- SLC_Ee_M3 (R141)
  ⟨0x71a0c, 32, 0x10, 1, 0, .plain, [⟨0, 32, .rw, 0, .a, 0, 0xffffffff⟩]⟩,
  -- SLC_Ee_GRP (R143)
  ⟨0x71c00, 32, 8, 1, 0, .plain, [⟨0, 32, .rw, 0, .a, 0, 0xffffffff⟩]⟩,
  -- SLC_Ee_CFG (R143)
  ⟨0x71c04, 32, 8, 1, 0, .plain, [⟨0, 16, .rw, 0, .a, 0, 0xffff⟩, ⟨16, 2, .rw, 0, .a, 0, 3⟩, ⟨18, 13, .rwb, 0, .run, 0, 0x1fff⟩, ⟨31, 1, .rw, 0, .a, 0, 1⟩]⟩]

/-- Registers of FLD. -/
def regRowsFLD : List RRow := [
  -- FLD_STATUS (R170)
  ⟨0x80000, 1, 0, 1, 0, .plain, [⟨0, 16, .ro, 0, .run, 0, 0xffff⟩, ⟨16, 8, .rwb, 0, .run, 0, 0xff⟩, ⟨24, 3, .ro, 0, .run, 0, 7⟩, ⟨27, 2, .rwb, 0, .run, 0, 3⟩, ⟨29, 1, .ro, 0, .run, 0, 1⟩, ⟨30, 1, .ro, 0, .run, 0, 1⟩, ⟨31, 1, .ro, 0, .run, 0, 1⟩]⟩,
  -- FLD_IRQ (R170)
  ⟨0x80004, 1, 0, 1, 0, .plain, [⟨0, 1, .rc, 0, .run, 0, 1⟩, ⟨1, 1, .rc, 0, .run, 0, 1⟩, ⟨2, 1, .rc, 0, .run, 0, 1⟩, ⟨3, 1, .rc, 0, .run, 0, 1⟩, ⟨4, 1, .rc, 0, .run, 0, 1⟩, ⟨5, 1, .rc, 0, .run, 0, 1⟩, ⟨6, 26, .rwb, 0, .run, 0, 0x3ffffff⟩]⟩,
  -- FLD_IRQ_EN (R170)
  ⟨0x80008, 1, 0, 1, 0, .plain, [⟨0, 6, .rw, 0, .run, 0, 0x3f⟩, ⟨6, 26, .rwb, 0, .run, 0, 0x3ffffff⟩]⟩,
  -- FLD_INk (R171)
  ⟨0x80010, 4, 4, 1, 0, .plain, [⟨0, 32, .ro, 0, .run, 0, 0xffffffff⟩]⟩,
  -- FLD_CMDk (R171)
  ⟨0x80020, 4, 4, 1, 0, .plain, [⟨0, 32, .ro, 0, .run, 0, 0xffffffff⟩]⟩,
  -- FLD_DRVk (R171)
  ⟨0x80030, 4, 4, 1, 0, .plain, [⟨0, 32, .ro, 0, .run, 0, 0xffffffff⟩]⟩,
  -- FLD_FAULTk (R170)
  ⟨0x80040, 4, 4, 1, 0, .plain, [⟨0, 32, .rc, 0, .run, 0, 0xffffffff⟩]⟩,
  -- FLD_CLRk (R170)
  ⟨0x80050, 4, 4, 1, 0, .plain, [⟨0, 32, .wt, 0, .run, 0, 0xffffffff⟩]⟩,
  -- FLD_LB (R170)
  ⟨0x80060, 1, 0, 1, 0, .plain, [⟨0, 16, .rw, 0, .run, 0, 0xffff⟩, ⟨16, 14, .rwb, 0, .run, 0, 0x3fff⟩, ⟨30, 1, .rw, 0, .run, 0, 1⟩, ⟨31, 1, .wt, 0, .run, 0, 1⟩]⟩,
  -- FLD_LB_RES (R167)
  ⟨0x80064, 1, 0, 1, 0, .result, [⟨0, 16, .ro, 0, .run, 0, 0xffff⟩, ⟨16, 8, .ro, 0, .run, 0, 0xff⟩, ⟨24, 6, .rwb, 0, .run, 0, 0x3f⟩, ⟨30, 1, .ro, 0, .run, 0, 1⟩, ⟨31, 1, .ro, 0, .run, 0, 1⟩]⟩,
  -- FLD_LB_FAILk (R170)
  ⟨0x80070, 4, 4, 1, 0, .plain, [⟨0, 32, .ro, 0, .run, 0, 0xffffffff⟩]⟩,
  -- FLD_Bb_CFG (R170)
  ⟨0x80200, 16, 4, 1, 0, .plain, [⟨0, 16, .rw, 0x32, .a, 1, 0xffff⟩, ⟨16, 1, .rw, 0, .a, 0, 1⟩, ⟨17, 1, .rw, 0, .run, 0, 1⟩, ⟨18, 12, .rwb, 0, .run, 0, 0xfff⟩, ⟨30, 2, .ro, 3, .run, 0, 3⟩]⟩,
  -- FLD_Ln_CFG (R170)
  ⟨0x80400, 128, 8, 1, 0, .plain, [⟨0, 3, .rw, 0, .a, 0, 7⟩, ⟨3, 6, .rwb, 0, .run, 0, 0x3f⟩, ⟨9, 1, .rw, 0, .a, 0, 1⟩, ⟨10, 1, .rw, 0, .a, 0, 1⟩, ⟨11, 2, .rw, 0, .a, 0, 3⟩, ⟨13, 3, .ro, 0, .f, 0, 7⟩, ⟨16, 16, .rwb, 0, .run, 0, 0xffff⟩]⟩,
  -- FLD_Ln_STAT (R170)
  ⟨0x80404, 128, 8, 1, 0, .plain, [⟨0, 1, .ro, 0, .run, 0, 1⟩, ⟨1, 1, .ro, 0, .run, 0, 1⟩, ⟨2, 1, .ro, 0, .run, 0, 1⟩, ⟨3, 22, .rwb, 0, .run, 0, 0x3fffff⟩, ⟨25, 1, .ro, 0, .run, 0, 1⟩, ⟨26, 1, .ro, 0, .run, 0, 1⟩, ⟨27, 1, .ro, 0, .run, 0, 1⟩, ⟨28, 1, .ro, 0, .run, 0, 1⟩, ⟨29, 1, .ro, 0, .run, 0, 1⟩, ⟨30, 1, .ro, 0, .run, 0, 1⟩, ⟨31, 1, .ro, 1, .run, 0, 1⟩]⟩]

/-- Registers of CHK. -/
def regRowsCHK : List RRow := [
  -- CHK_SUP (R171)
  ⟨0x90000, 1, 0, 1, 0, .plain, [⟨0, 12, .ro, 0, .run, 0, 0xfff⟩, ⟨12, 12, .ro, 0, .run, 0, 0xfff⟩, ⟨24, 3, .rwb, 0, .run, 0, 7⟩, ⟨27, 1, .ro, 0, .run, 0, 1⟩, ⟨28, 1, .ro, 0, .run, 0, 1⟩, ⟨29, 1, .ro, 0, .run, 0, 1⟩, ⟨30, 1, .ro, 0, .run, 0, 1⟩, ⟨31, 1, .ro, 0, .run, 0, 1⟩]⟩,
  -- CHK_SUP_CFG (R171)
  ⟨0x90004, 1, 0, 1, 0, .plain, [⟨0, 16, .rw, 0x64, .a, 1, 0x2710⟩, ⟨16, 16, .rwb, 0, .run, 0, 0xffff⟩]⟩,
  -- CHK_IRQ (R171)
  ⟨0x90008, 1, 0, 1, 0, .plain, [⟨0, 16, .rc, 0, .run, 0, 0xffff⟩, ⟨16, 1, .rc, 0, .run, 0, 1⟩, ⟨17, 1, .rc, 0, .run, 0, 1⟩, ⟨18, 14, .rwb, 0, .run, 0, 0x3fff⟩]⟩,
  -- CHK_IRQ_EN (R171)
  ⟨0x9000c, 1, 0, 1, 0, .plain, [⟨0, 18, .rw, 0, .run, 0, 0x3ffff⟩, ⟨18, 14, .rwb, 0, .run, 0, 0x3fff⟩]⟩,
  -- CHK_PG (R171)
  ⟨0x90010, 1, 0, 1, 0, .plain, [⟨0, 16, .ro, 0, .run, 0, 0xffff⟩, ⟨16, 16, .rwb, 0, .run, 0, 0xffff⟩]⟩,
  -- CHK_CAL (R171)
  ⟨0x90014, 1, 0, 1, 0, .plain, [⟨0, 16, .rw, 0, .run, 0, 0xffff⟩, ⟨16, 14, .rwb, 0, .run, 0, 0x3fff⟩, ⟨30, 1, .rw, 0, .run, 0, 1⟩, ⟨31, 1, .wt, 0, .run, 0, 1⟩]⟩,
  -- CHK_CAL_RES (R166)
  ⟨0x90018, 1, 0, 1, 0, .result, [⟨0, 16, .ro, 0, .run, 0, 0xffff⟩, ⟨16, 8, .ro, 0, .run, 0, 0xff⟩, ⟨24, 6, .rwb, 0, .run, 0, 0x3f⟩, ⟨30, 1, .ro, 0, .run, 0, 1⟩, ⟨31, 1, .ro, 0, .run, 0, 1⟩]⟩,
  -- CHK_Fn_CTL (R171)
  ⟨0x90100, 16, 0x20, 1, 0, .plain, [⟨0, 1, .rw, 0, .a, 0, 1⟩, ⟨1, 1, .rwb, 0, .run, 0, 1⟩, ⟨2, 1, .wt, 0, .run, 0, 1⟩, ⟨3, 29, .rwb, 0, .run, 0, 0x1fffffff⟩]⟩,
  -- CHK_Fn_CFG0 (R171)
  ⟨0x90104, 16, 0x20, 1, 0, .plain, [⟨0, 16, .rw, 0xc8, .a, 4, 0x320⟩, ⟨16, 16, .rw, 0x190, .a, 4, 0x3e8⟩]⟩,
  -- CHK_Fn_CFG1 (R171)
  ⟨0x90108, 16, 0x20, 1, 0, .plain, [⟨0, 16, .rw, 0xc8, .a, 1, 0xffff⟩, ⟨16, 12, .rw, 0x64, .a, 1, 0xfff⟩, ⟨28, 4, .rw, 3, .a, 0, 0xf⟩]⟩,
  -- CHK_Fn_CFG2 (R171)
  ⟨0x9010c, 16, 0x20, 1, 0, .plain, [⟨0, 12, .rw, 0x64, .a, 1, 0xfff⟩, ⟨12, 4, .rwb, 0, .run, 0, 0xf⟩, ⟨16, 8, .rw, 0xa, .a, 1, 0xff⟩, ⟨24, 8, .rw, 0x32, .a, 1, 0xff⟩]⟩,
  -- CHK_Fn_STATUS (R171)
  ⟨0x90110, 16, 0x20, 1, 0, .plain, [⟨0, 16, .rwb, 0, .run, 0, 0xffff⟩, ⟨16, 4, .ro, 0, .run, 0, 0xf⟩, ⟨20, 1, .rwb, 0, .run, 0, 1⟩, ⟨21, 1, .ro, 0, .f, 0, 1⟩, ⟨22, 1, .ro, 0, .f, 0, 1⟩, ⟨23, 1, .ro, 0, .run, 0, 1⟩, ⟨24, 1, .ro, 0, .run, 0, 1⟩, ⟨25, 1, .ro, 0, .run, 0, 1⟩, ⟨26, 1, .ro, 0, .run, 0, 1⟩, ⟨27, 1, .ro, 0, .run, 0, 1⟩, ⟨28, 4, .ro, 0, .run, 0, 0xf⟩]⟩,
  -- CHK_Fn_EVT (R171)
  ⟨0x90114, 16, 0x20, 1, 0, .plain, [⟨0, 1, .rc, 0, .run, 0, 1⟩, ⟨1, 1, .rc, 0, .run, 0, 1⟩, ⟨2, 1, .rc, 0, .run, 0, 1⟩, ⟨3, 1, .rc, 0, .run, 0, 1⟩, ⟨4, 1, .rc, 0, .run, 0, 1⟩, ⟨5, 1, .rc, 0, .run, 0, 1⟩, ⟨6, 1, .rc, 0, .run, 0, 1⟩, ⟨7, 1, .rc, 0, .run, 0, 1⟩, ⟨8, 1, .rc, 0, .run, 0, 1⟩, ⟨9, 1, .rc, 0, .run, 0, 1⟩, ⟨10, 1, .rc, 0, .run, 0, 1⟩, ⟨11, 21, .rwb, 0, .run, 0, 0x1fffff⟩]⟩,
  -- CHK_Fn_MEAS (R171)
  ⟨0x90118, 16, 0x20, 1, 0, .plain, [⟨0, 16, .ro, 0, .run, 0, 0xffff⟩, ⟨16, 16, .ro, 0, .run, 0, 0xffff⟩]⟩,
  -- CHK_Fn_CALOFS (R171)
  ⟨0x9011c, 16, 0x20, 1, 0, .plain, [⟨0, 16, .ro, 0, .run, 0, 0xffff⟩, ⟨16, 16, .rwb, 0, .run, 0, 0xffff⟩]⟩]

/-- Registers of PSL. -/
def regRowsPSL : List RRow := [
  -- PSL_FLUSH_TMO (R200)
  ⟨0xa0000, 1, 0, 1, 0, .plain, [⟨0, 16, .rw, 0x64, .run, 1, 0xffff⟩, ⟨16, 16, .rwb, 0, .run, 0, 0xffff⟩]⟩,
  -- PSL_BANK (R200)
  ⟨0xa0004, 1, 0, 1, 0, .plain, [⟨0, 28, .rwb, 0, .run, 0, 0xfffffff⟩, ⟨28, 1, .ro, 0, .run, 0, 1⟩, ⟨29, 1, .ro, 0, .run, 0, 1⟩, ⟨30, 1, .ro, 0, .f, 0, 1⟩, ⟨31, 1, .ro, 0, .f, 0, 1⟩]⟩,
  -- PSL_IRQ_SUM0 (R201)
  ⟨0xa0008, 1, 0, 1, 0, .plain, [⟨0, 32, .ro, 0, .run, 0, 0xffffffff⟩]⟩,
  -- PSL_IRQ_SUM1 (R201)
  ⟨0xa000c, 1, 0, 1, 0, .plain, [⟨0, 16, .ro, 0, .run, 0, 0xffff⟩, ⟨16, 16, .rwb, 0, .run, 0, 0xffff⟩]⟩,
  -- PSL_FL_IN (R201)
  ⟨0xa0010, 1, 0, 1, 0, .plain, [⟨0, 32, .ro, 0, .run, 0, 0xffffffff⟩]⟩,
  -- PSL_FL_OUT (R201)
  ⟨0xa0014, 1, 0, 1, 0, .plain, [⟨0, 32, .ro, 0, .run, 0, 0xffffffff⟩]⟩,
  -- PSL_FLn_CFG (R200)
  ⟨0xa0100, 32, 4, 1, 0, .plain, [⟨0, 2, .rw, 0, .a, 0, 3⟩, ⟨2, 2, .rw, 2, .a, 0, 3⟩, ⟨4, 2, .rwb, 0, .run, 0, 3⟩, ⟨6, 1, .ro, 0, .f, 0, 1⟩, ⟨7, 1, .ro, 0, .f, 0, 1⟩, ⟨8, 24, .rwb, 0, .run, 0, 0xffffff⟩]⟩,
  -- PSL_Sn_CFG (R200)
  ⟨0xa1000, 24, 0x100, 1, 0, .plain, [⟨0, 8, .rw, 0, .a, 0, 0xff⟩, ⟨8, 8, .ro, 0xff, .f, 0, 0xff⟩, ⟨16, 7, .rwb, 0, .run, 0, 0x7f⟩, ⟨23, 1, .ro, 0, .run, 0, 1⟩, ⟨24, 4, .ro, 0, .f, 0, 0xf⟩, ⟨28, 4, .ro, 0, .f, 0, 0xf⟩]⟩,
  -- PSL_Sn_CFG (R200)
  ⟨0xa2800, 24, 0x100, 1, 0, .plain, [⟨0, 8, .rw, 0, .a, 0, 0xff⟩, ⟨8, 8, .ro, 0xff, .f, 0, 0xff⟩, ⟨16, 7, .rwb, 0, .run, 0, 0x7f⟩, ⟨23, 1, .ro, 1, .run, 0, 1⟩, ⟨24, 4, .ro, 0, .f, 0, 0xf⟩, ⟨28, 4, .ro, 0, .f, 0, 0xf⟩]⟩,
  -- PSL_Sn_PAD (R200)
  ⟨0xa1004, 48, 0x100, 1, 0, .plain, [⟨0, 8, .rw, 0, .a, 0, 0xff⟩, ⟨8, 8, .rw, 0, .a, 0, 0xff⟩, ⟨16, 16, .rwb, 0, .run, 0, 0xffff⟩]⟩,
  -- PSL_Sn_CTL (R200)
  ⟨0xa1008, 48, 0x100, 1, 0, .plain, [⟨0, 1, .rwb, 0, .run, 0, 1⟩, ⟨1, 1, .wt, 0, .run, 0, 1⟩, ⟨2, 1, .wt, 0, .run, 0, 1⟩, ⟨3, 1, .wt, 0, .run, 0, 1⟩, ⟨4, 27, .rwb, 0, .run, 0, 0x7ffffff⟩, ⟨31, 1, .rw, 0, .run, 0, 1⟩]⟩,
  -- PSL_Sn_STATUS (R200)
  ⟨0xa100c, 48, 0x100, 1, 0, .plain, [⟨0, 9, .ro, 0, .run, 0, 0x1ff⟩, ⟨9, 7, .rwb, 0, .run, 0, 0x7f⟩, ⟨16, 9, .ro, 0x100, .run, 0, 0x1ff⟩, ⟨25, 1, .rwb, 0, .run, 0, 1⟩, ⟨26, 1, .ro, 0, .run, 0, 1⟩, ⟨27, 1, .ro, 0, .run, 0, 1⟩, ⟨28, 1, .ro, 0, .run, 0, 1⟩, ⟨29, 1, .ro, 0, .run, 0, 1⟩, ⟨30, 2, .rwb, 0, .run, 0, 3⟩]⟩,
  -- PSL_Sn_RXPKT (R191)
  ⟨0xa1010, 48, 0x100, 1, 0, .plain, [⟨0, 9, .ro, 0, .run, 0, 0x1ff⟩, ⟨9, 23, .rwb, 0, .run, 0, 0x7fffff⟩]⟩,
  -- PSL_Sn_TXPKT (R191)
  ⟨0xa1014, 48, 0x100, 1, 0, .plain, [⟨0, 9, .ro, 0, .run, 0, 0x1ff⟩, ⟨9, 23, .rwb, 0, .run, 0, 0x7fffff⟩]⟩,
  -- PSL_Sn_IRQ (R200)
  ⟨0xa1018, 48, 0x100, 1, 0, .plain, [⟨0, 1, .rc, 0, .run, 0, 1⟩, ⟨1, 1, .rc, 0, .run, 0, 1⟩, ⟨2, 1, .rc, 0, .run, 0, 1⟩, ⟨3, 1, .rc, 0, .run, 0, 1⟩, ⟨4, 1, .rc, 0, .run, 0, 1⟩, ⟨5, 1, .rc, 0, .run, 0, 1⟩, ⟨6, 1, .rc, 0, .run, 0, 1⟩, ⟨7, 1, .rc, 0, .run, 0, 1⟩, ⟨8, 1, .rc, 0, .run, 0, 1⟩, ⟨9, 23, .rwb, 0, .run, 0, 0x7fffff⟩]⟩,
  -- PSL_Sn_IRQ_EN (R200)
  ⟨0xa101c, 48, 0x100, 1, 0, .plain, [⟨0, 9, .rw, 0, .run, 0, 0x1ff⟩, ⟨9, 23, .rwb, 0, .run, 0, 0x7fffff⟩]⟩,
  -- PSL_Sn_FLUSH_RES (R194)
  ⟨0xa1020, 48, 0x100, 1, 0, .result, [⟨0, 16, .ro, 0, .run, 0, 0xffff⟩, ⟨16, 8, .ro, 0, .run, 0, 0xff⟩, ⟨24, 6, .rwb, 0, .run, 0, 0x3f⟩, ⟨30, 1, .ro, 0, .run, 0, 1⟩, ⟨31, 1, .ro, 0, .run, 0, 1⟩]⟩,
  -- PSL_Sn_CNT (R200)
  ⟨0xa1024, 48, 0x100, 1, 0, .plain, [⟨0, 8, .rc, 0, .run, 0, 0xff⟩, ⟨8, 8, .rc, 0, .run, 0, 0xff⟩, ⟨16, 8, .rc, 0, .run, 0, 0xff⟩, ⟨24, 8, .rc, 0, .run, 0, 0xff⟩]⟩]

/-- Registers of CAN. -/
def regRowsCAN0 : List RRow := [
  -- CAN_IRQ_SUM (R228)
  ⟨0xb0000, 1, 0, 1, 0, .plain, [⟨0, 16, .ro, 0, .run, 0, 0xffff⟩, ⟨16, 16, .rwb, 0, .run, 0, 0xffff⟩]⟩,
  -- CAN_Cc_CTL (R228)
  ⟨0xb1000, 16, 0x100, 1, 0, .plain, [⟨0, 2, .rwb, 0, .run, 0, 3⟩, ⟨2, 1, .wt, 0, .run, 0, 1⟩, ⟨3, 1, .wt, 0, .run, 0, 1⟩, ⟨4, 1, .wt, 0, .run, 0, 1⟩, ⟨5, 20, .rwb, 0, .run, 0, 0xfffff⟩, ⟨25, 1, .rw, 0, .a, 0, 1⟩, ⟨26, 1, .rw, 0, .a, 0, 1⟩, ⟨27, 1, .rw, 0, .a, 0, 1⟩, ⟨28, 1, .rw, 0, .a, 0, 1⟩, ⟨29, 1, .rw, 0, .a, 0, 1⟩, ⟨30, 1, .rw, 0, .run, 0, 1⟩, ⟨31, 1, .rw, 0, .run, 0, 1⟩]⟩,
  -- CAN_Cc_NBT (R228)
  ⟨0xb1004, 16, 0x100, 1, 0, .plain, [⟨0, 1, .rwb, 0, .run, 0, 1⟩, ⟨1, 7, .rw, 0xf, .a, 0, 0x7f⟩, ⟨8, 7, .rw, 0xf, .a, 0, 0x7f⟩, ⟨15, 8, .rw, 0x3e, .a, 1, 0xff⟩, ⟨23, 9, .rw, 3, .a, 0, 0x1ff⟩]⟩,
  -- CAN_Cc_DBT (R228)
  ⟨0xb1008, 16, 0x100, 1, 0, .plain, [⟨0, 14, .rwb, 0, .run, 0, 0x3fff⟩, ⟨14, 4, .rw, 3, .a, 0, 0xf⟩, ⟨18, 4, .rw, 3, .a, 0, 0xf⟩, ⟨22, 5, .rw, 0xe, .a, 1, 0x1f⟩, ⟨27, 5, .rw, 0, .a, 0, 0x1f⟩]⟩,
  -- CAN_Cc_TDC (R228)
  ⟨0xb100c, 16, 0x100, 1, 0, .plain, [⟨0, 7, .ro, 0, .run, 0, 0x7f⟩, ⟨7, 1, .rwb, 0, .run, 0, 1⟩, ⟨8, 7, .rw, 0, .a, 0, 0x7f⟩, ⟨15, 1, .rwb, 0, .run, 0, 1⟩, ⟨16, 7, .rw, 0x10, .a, 0, 0x7f⟩, ⟨23, 8, .rwb, 0, .run, 0, 0xff⟩, ⟨31, 1, .rw, 0, .a, 0, 1⟩]⟩,
  -- CAN_Cc_STATUS (R228)
  ⟨0xb1010, 16, 0x100, 1, 0, .plain, [⟨0, 8, .ro, 0, .run, 0, 0xff⟩, ⟨8, 8, .ro, 0, .run, 0, 0xff⟩, ⟨16, 8, .ro, 0, .run, 0, 0xff⟩, ⟨24, 1, .ro, 0, .run, 0, 1⟩, ⟨25, 1, .ro, 0, .run, 0, 1⟩, ⟨26, 2, .ro, 0, .run, 0, 3⟩, ⟨28, 1, .ro, 0, .run, 0, 1⟩, ⟨29, 1, .ro, 0, .run, 0, 1⟩, ⟨30, 2, .ro, 0, .run, 0, 3⟩]⟩,
  -- CAN_Cc_IRQ (R228)
  ⟨0xb1014, 16, 0x100, 1, 0, .plain, [⟨0, 1, .rc, 0, .run, 0, 1⟩, ⟨1, 1, .rc, 0, .run, 0, 1⟩, ⟨2, 1, .rc, 0, .run, 0, 1⟩, ⟨3, 1, .rc, 0, .run, 0, 1⟩, ⟨4, 1, .rc, 0, .run, 0, 1⟩, ⟨5, 1, .rc, 0, .run, 0, 1⟩, ⟨6, 1, .rc, 0, .run, 0, 1⟩, ⟨7, 1, .rc, 0, .run, 0, 1⟩, ⟨8, 1, .rc, 0, .run, 0, 1⟩, ⟨9, 1, .rc, 0, .run, 0, 1⟩, ⟨10, 1, .rc, 0, .run, 0, 1⟩, ⟨11, 1, .rc, 0, .run, 0, 1⟩, ⟨12, 1, .rc, 0, .run, 0, 1⟩, ⟨13, 1, .rc, 0, .run, 0, 1⟩, ⟨14, 1, .rc, 0, .run, 0, 1⟩, ⟨15, 1, .rc, 0, .run, 0, 1⟩, ⟨16, 1, .rc, 0, .run, 0, 1⟩, ⟨17, 15, .rwb, 0, .run, 0, 0x7fff⟩]⟩,
  -- CAN_Cc_IRQ_EN (R228)
  ⟨0xb1018, 16, 0x100, 1, 0, .plain, [⟨0, 17, .rw, 0, .run, 0, 0x1ffff⟩, ⟨17, 15, .rwb, 0, .run, 0, 0x7fff⟩]⟩,
  -- CAN_Cc_TXREQ0 (R226)
  ⟨0xb101c, 16, 0x100, 1, 0, .plain, [⟨0, 32, .wt, 0, .run, 0, 0xffffffff⟩]⟩,
  -- CAN_Cc_TXREQ1 (R226)
  ⟨0xb1020, 16, 0x100, 1, 0, .plain, [⟨0, 32, .wt, 0, .run, 0, 0xffffffff⟩]⟩,
  -- CAN_Cc_TXPEND0 (R226)
  ⟨0xb1024, 16, 0x100, 1, 0, .plain, [⟨0, 32, .ro, 0, .run, 0, 0xffffffff⟩]⟩,
  -- CAN_Cc_TXPEND1 (R226)
  ⟨0xb1028, 16, 0x100, 1, 0, .plain, [⟨0, 32, .ro, 0, .run, 0, 0xffffffff⟩]⟩,
  -- CAN_Cc_RXNEW0 (R226)
  ⟨0xb102c, 16, 0x100, 1, 0, .plain, [⟨0, 32, .rc, 0, .run, 0, 0xffffffff⟩]⟩,
  -- CAN_Cc_RXNEW1 (R226)
  ⟨0xb1030, 16, 0x100, 1, 0, .plain, [⟨0, 32, .rc, 0, .run, 0, 0xffffffff⟩]⟩,
  -- CAN_Cc_RXACK0 (R226)
  ⟨0xb1034, 16, 0x100, 1, 0, .plain, [⟨0, 32, .wt, 0, .run, 0, 0xffffffff⟩]⟩,
  -- CAN_Cc_RXACK1 (R226)
  ⟨0xb1038, 16, 0x100, 1, 0, .plain, [⟨0, 32, .wt, 0, .run, 0, 0xffffffff⟩]⟩,
  -- CAN_Cc_FIFO0 (R226)
  ⟨0xb103c, 16, 0x100, 1, 0, .plain, [⟨0, 8, .rc, 0, .run, 0, 0xff⟩, ⟨8, 6, .ro, 0, .run, 0, 0x3f⟩, ⟨14, 17, .rwb, 0, .run, 0, 0x1ffff⟩, ⟨31, 1, .rw, 0, .a, 0, 1⟩]⟩,
  -- CAN_Cc_FIFO1 (R226)
  ⟨0xb1040, 16, 0x100, 1, 0, .plain, [⟨0, 8, .rc, 0, .run, 0, 0xff⟩, ⟨8, 6, .ro, 0, .run, 0, 0x3f⟩, ⟨14, 16, .rwb, 0, .run, 0, 0xffff⟩, ⟨30, 1, .ro, 0, .f, 0, 1⟩, ⟨31, 1, .rw, 0, .a, 0, 1⟩]⟩,
  -- CAN_Cc_POP (R228)
  ⟨0xb1044, 16, 0x100, 1, 0, .plain, [⟨0, 2, .wt, 0, .run, 0, 3⟩, ⟨2, 30, .rwb, 0, .run, 0, 0x3fffffff⟩]⟩,
  -- CAN_Cc_CNT0 (R226)
  ⟨0xb1048, 16, 0x100, 1, 0, .plain, [⟨0, 8, .rc, 0, .run, 0, 0xff⟩, ⟨8, 8, .rc, 0, .run, 0, 0xff⟩, ⟨16, 8, .rc, 0, .run, 0, 0xff⟩, ⟨24, 8, .rc, 0, .run, 0, 0xff⟩]⟩,
  -- CAN_Cc_CNT1 (R226)
  ⟨0xb104c, 16, 0x100, 1, 0, .plain, [⟨0, 8, .rc, 0, .run, 0, 0xff⟩, ⟨8, 8, .rc, 0, .run, 0, 0xff⟩, ⟨16, 8, .rc, 0, .run, 0, 0xff⟩, ⟨24, 8, .rc, 0, .run, 0, 0xff⟩]⟩,
  -- CAN_Cc_ABD_CFG (R228)
  ⟨0xb1050, 16, 0x100, 1, 0, .plain, [⟨0, 16, .rw, 0x64, .run, 1, 0xffff⟩, ⟨16, 8, .rw, 4, .run, 0, 0xff⟩, ⟨24, 4, .rw, 2, .run, 1, 0xf⟩, ⟨28, 4, .rw, 0, .run, 0, 0xf⟩]⟩,
  -- CAN_Cc_ABD_RES (R219)
  ⟨0xb1054, 16, 0x100, 1, 0, .result, [⟨0, 16, .ro, 0, .run, 0, 0xffff⟩, ⟨16, 8, .ro, 0, .run, 0, 0xff⟩, ⟨24, 6, .rwb, 0, .run, 0, 0x3f⟩, ⟨30, 1, .ro, 0, .run, 0, 1⟩, ⟨31, 1, .ro, 0, .run, 0, 1⟩]⟩,
  -- CAN_Cc_ABD_STAT (R228)
  ⟨0xb1058, 16, 0x100, 1, 0, .plain, [⟨0, 16, .rwb, 0, .run, 0, 0xffff⟩, ⟨16, 4, .ro, 0, .run, 0, 0xf⟩, ⟨20, 4, .ro, 0, .run, 0, 0xf⟩, ⟨24, 8, .ro, 0, .run, 0, 0xff⟩]⟩,
  -- CAN_Cc_GUARD (R228)
  ⟨0xb105c, 16, 0x100, 1, 0, .plain, [⟨0, 12, .ro, 0, .f, 0, 0xfff⟩, ⟨12, 4, .ro, 0, .f, 0, 0xf⟩, ⟨16, 5, .ro, 0, .run, 0, 0x1f⟩, ⟨21, 3, .rwb, 0, .run, 0, 7⟩, ⟨24, 8, .ro, 0xff, .f, 0, 0xff⟩]⟩]

/-- Registers of CAN. -/
def regRowsCAN1 : List RRow := [
  -- CAN_Cc_ERR (R228)
  ⟨0xb1060, 16, 0x100, 1, 0, .plain, [⟨0, 28, .rwb, 0, .run, 0, 0xfffffff⟩, ⟨28, 1, .ro, 0, .run, 0, 1⟩, ⟨29, 3, .ro, 0, .run, 0, 7⟩]⟩,
  -- CAN_Cc_CNT2 (R228)
  ⟨0xb1064, 16, 0x100, 1, 0, .plain, [⟨0, 8, .rc, 0, .run, 0, 0xff⟩, ⟨8, 24, .rwb, 0, .run, 0, 0xffffff⟩]⟩,
  -- CAN_Cc_CANDk_NBT (R228)
  ⟨0xb1080, 16, 0x100, 16, 8, .plain, [⟨0, 1, .rwb, 0, .run, 0, 1⟩, ⟨1, 7, .rw, 0xf, .run, 0, 0x7f⟩, ⟨8, 7, .rw, 0xf, .run, 0, 0x7f⟩, ⟨15, 8, .rw, 0x3e, .run, 1, 0xff⟩, ⟨23, 9, .rw, 3, .run, 0, 0x1ff⟩]⟩,
  -- CAN_Cc_CANDk_DBT (R228)
  ⟨0xb1084, 16, 0x100, 16, 8, .plain, [⟨0, 1, .rw, 0, .run, 0, 1⟩, ⟨1, 13, .rwb, 0, .run, 0, 0x1fff⟩, ⟨14, 4, .rw, 3, .run, 0, 0xf⟩, ⟨18, 4, .rw, 3, .run, 0, 0xf⟩, ⟨22, 5, .rw, 0xe, .run, 1, 0x1f⟩, ⟨27, 5, .rw, 0, .run, 0, 0x1f⟩]⟩]

/-- Registers of SAW. -/
def regRowsSAW0 : List RRow := [
  -- SAW_IRQ_SUMk (R252)
  ⟨0xc0000, 4, 4, 1, 0, .plain, [⟨0, 32, .ro, 0, .run, 0, 0xffffffff⟩]⟩,
  -- SAW_Gg_RELOAD (R252)
  ⟨0xc0100, 16, 0x20, 1, 0, .plain, [⟨0, 8, .rw, 0, .run, 0, 0xff⟩, ⟨8, 1, .rw, 0, .run, 0, 1⟩, ⟨9, 22, .rwb, 0, .run, 0, 0x3fffff⟩, ⟨31, 1, .wt, 0, .run, 0, 1⟩]⟩,
  -- SAW_Gg_RELOAD_RES (R247)
  ⟨0xc0104, 16, 0x20, 1, 0, .result, [⟨0, 16, .ro, 0, .run, 0, 0xffff⟩, ⟨16, 8, .ro, 0, .run, 0, 0xff⟩, ⟨24, 6, .rwb, 0, .run, 0, 0x3f⟩, ⟨30, 1, .ro, 0, .run, 0, 1⟩, ⟨31, 1, .ro, 0, .run, 0, 1⟩]⟩,
  -- SAW_Gg_FLAGS (R252)
  ⟨0xc0108, 16, 0x20, 1, 0, .plain, [⟨0, 8, .rw, 0, .run, 0, 0xff⟩, ⟨8, 24, .rwb, 0, .run, 0, 0xffffff⟩]⟩,
  -- SAW_Gg_LEN (R252)
  ⟨0xc010c, 16, 0x20, 1, 0, .plain, [⟨0, 10, .ro, 0, .f, 0, 0x3ff⟩, ⟨10, 22, .rwb, 0, .run, 0, 0x3fffff⟩]⟩,
  -- SAW_Sn_CTL (R252)
  ⟨0xc1000, 128, 0x80, 1, 0, .plain, [⟨0, 31, .rwb, 0, .run, 0, 0x7fffffff⟩, ⟨31, 1, .rw, 0, .run, 0, 1⟩]⟩,
  -- SAW_Sn_CLKDIV (R252)
  ⟨0xc1004, 128, 0x80, 1, 0, .plain, [⟨0, 24, .rw, 0x500, .a, 0x500, 0xffffff⟩, ⟨24, 8, .rwb, 0, .run, 0, 0xff⟩]⟩,
  -- SAW_Sn_PROG (R252)
  ⟨0xc1008, 128, 0x80, 1, 0, .plain, [⟨0, 9, .rw, 0, .a, 0, 0x1ff⟩, ⟨9, 9, .rw, 0, .a, 0, 0x1ff⟩, ⟨18, 9, .rw, 0x1ff, .a, 0, 0x1ff⟩, ⟨27, 5, .rwb, 0, .run, 0, 0x1f⟩]⟩,
  -- SAW_Sn_SHIFT (R252)
  ⟨0xc100c, 128, 0x80, 1, 0, .plain, [⟨0, 5, .rw, 0, .a, 0, 0x1f⟩, ⟨5, 3, .rwb, 0, .run, 0, 7⟩, ⟨8, 5, .rw, 0, .a, 0, 0x1f⟩, ⟨13, 3, .rwb, 0, .run, 0, 7⟩, ⟨16, 1, .rw, 0, .a, 0, 1⟩, ⟨17, 1, .rw, 0, .a, 0, 1⟩, ⟨18, 14, .rwb, 0, .run, 0, 0x3fff⟩]⟩,
  -- SAW_Sn_WIN (R252)
  ⟨0xc1010, 128, 0x80, 1, 0, .plain, [⟨0, 4, .rw, 0, .a, 0, 0xf⟩, ⟨4, 4, .rw, 1, .a, 0, 0xf⟩, ⟨8, 4, .rw, 2, .a, 0, 0xf⟩, ⟨12, 4, .rw, 3, .a, 0, 0xf⟩, ⟨16, 4, .rw, 0, .a, 0, 0xf⟩, ⟨20, 4, .rw, 0, .a, 0, 0xf⟩, ⟨24, 4, .rw, 0, .a, 0, 0xf⟩, ⟨28, 4, .rwb, 0, .run, 0, 0xf⟩]⟩,
  -- SAW_Sn_STATUS (R252)
  ⟨0xc1014, 128, 0x80, 1, 0, .plain, [⟨0, 9, .ro, 0, .run, 0, 0x1ff⟩, ⟨9, 6, .ro, 0x20, .run, 0, 0x3f⟩, ⟨15, 6, .ro, 0, .run, 0, 0x3f⟩, ⟨21, 3, .ro, 0, .run, 0, 7⟩, ⟨24, 3, .ro, 0, .run, 0, 7⟩, ⟨27, 1, .ro, 0, .run, 0, 1⟩, ⟨28, 1, .ro, 0, .run, 0, 1⟩, ⟨29, 3, .ro, 0, .run, 0, 7⟩]⟩,
  -- SAW_Sn_IRQ (R252)
  ⟨0xc1018, 128, 0x80, 1, 0, .plain, [⟨0, 1, .rc, 0, .run, 0, 1⟩, ⟨1, 1, .rc, 0, .run, 0, 1⟩, ⟨2, 1, .rc, 0, .run, 0, 1⟩, ⟨3, 1, .rc, 0, .run, 0, 1⟩, ⟨4, 1, .rc, 0, .run, 0, 1⟩, ⟨5, 1, .rc, 0, .run, 0, 1⟩, ⟨6, 1, .rc, 0, .run, 0, 1⟩, ⟨7, 1, .rc, 0, .run, 0, 1⟩, ⟨8, 24, .rwb, 0, .run, 0, 0xffffff⟩]⟩,
  -- SAW_Sn_IRQ_EN (R252)
  ⟨0xc101c, 128, 0x80, 1, 0, .plain, [⟨0, 8, .rw, 0, .run, 0, 0xff⟩, ⟨8, 24, .rwb, 0, .run, 0, 0xffffff⟩]⟩,
  -- SAW_Sn_INJ (R246)
  ⟨0xc1020, 128, 0x80, 1, 0, .plain, [⟨0, 32, .wo, 0, .run, 0, 0xffffffff⟩]⟩,
  -- SAW_Sn_TXF (R245)
  ⟨0xc1024, 128, 0x80, 1, 0, .plain, [⟨0, 32, .wo, 0, .run, 0, 0xffffffff⟩]⟩,
  -- SAW_Sn_RXF (R252)
  ⟨0xc1028, 128, 0x80, 1, 0, .plain, [⟨0, 32, .rc, 0, .run, 0, 0xffffffff⟩]⟩,
  -- SAW_Sn_X (R251)
  ⟨0xc102c, 128, 0x80, 1, 0, .plain, [⟨0, 32, .ro, 0, .run, 0, 0xffffffff⟩]⟩,
  -- SAW_Sn_Y (R251)
  ⟨0xc1030, 128, 0x80, 1, 0, .plain, [⟨0, 32, .ro, 0, .run, 0, 0xffffffff⟩]⟩,
  -- SAW_Sn_ISR (R251)
  ⟨0xc1034, 128, 0x80, 1, 0, .plain, [⟨0, 32, .ro, 0, .run, 0, 0xffffffff⟩]⟩,
  -- SAW_Sn_OSR (R251)
  ⟨0xc1038, 128, 0x80, 1, 0, .plain, [⟨0, 32, .ro, 0, .run, 0, 0xffffffff⟩]⟩,
  -- SAW_Sn_DROP (R252)
  ⟨0xc103c, 128, 0x80, 1, 0, .plain, [⟨0, 32, .rw, 0, .run, 0, 0xffffffff⟩]⟩,
  -- SAW_Sn_TALLY_LO (R251)
  ⟨0xc1040, 128, 0x80, 1, 0, .plain, [⟨0, 32, .ro, 0, .run, 0, 0xffffffff⟩]⟩,
  -- SAW_Sn_TALLY_HI (R251)
  ⟨0xc1044, 128, 0x80, 1, 0, .plain, [⟨0, 32, .ro, 0, .run, 0, 0xffffffff⟩]⟩,
  -- SAW_Sn_TCMP_LO (R251)
  ⟨0xc1048, 128, 0x80, 1, 0, .plain, [⟨0, 32, .rw, 0, .run, 0, 0xffffffff⟩]⟩,
  -- SAW_Sn_TCMP_HI (R251)
  ⟨0xc104c, 128, 0x80, 1, 0, .plain, [⟨0, 32, .rw, 0, .run, 0, 0xffffffff⟩]⟩]

/-- Registers of SAW. -/
def regRowsSAW1 : List RRow := [
  -- SAW_Sn_STAMP0 (R251)
  ⟨0xc1050, 128, 0x80, 1, 0, .plain, [⟨0, 32, .ro, 0, .run, 0, 0xffffffff⟩]⟩,
  -- SAW_Sn_STAMP1 (R251)
  ⟨0xc1054, 128, 0x80, 1, 0, .banked, [⟨0, 32, .ro, 0, .run, 0, 0xffffffff⟩]⟩,
  -- SAW_Sn_STAMP2 (R251)
  ⟨0xc1058, 128, 0x80, 1, 0, .banked, [⟨0, 32, .ro, 0, .run, 0, 0xffffffff⟩]⟩,
  -- SAW_Sn_FAULT (R252)
  ⟨0xc105c, 128, 0x80, 1, 0, .plain, [⟨0, 16, .ro, 0, .run, 0, 0xffff⟩, ⟨16, 9, .ro, 0, .run, 0, 0x1ff⟩, ⟨25, 7, .rwb, 0, .run, 0, 0x7f⟩]⟩,
  -- SAW_Sn_CNT (R252)
  ⟨0xc1060, 128, 0x80, 1, 0, .plain, [⟨0, 8, .rc, 0, .run, 0, 0xff⟩, ⟨8, 8, .rc, 0, .run, 0, 0xff⟩, ⟨16, 8, .rc, 0, .run, 0, 0xff⟩, ⟨24, 8, .rc, 0, .run, 0, 0xff⟩]⟩,
  -- SAW_Sn_PINS (R252)
  ⟨0xc1064, 128, 0x80, 1, 0, .plain, [⟨0, 16, .ro, 0, .run, 0, 0xffff⟩, ⟨16, 16, .ro, 0, .run, 0, 0xffff⟩]⟩,
  -- SAW_Sn_LC (R252)
  ⟨0xc1068, 128, 0x80, 1, 0, .plain, [⟨0, 16, .ro, 0, .run, 0, 0xffff⟩, ⟨16, 1, .ro, 0, .run, 0, 1⟩, ⟨17, 15, .rwb, 0, .run, 0, 0x7fff⟩]⟩]

/-- Registers of CRL. -/
def regRowsCRL0 : List RRow := [
  -- CRL_CTL (R294)
  ⟨0x100000, 1, 0, 1, 0, .plain, [⟨0, 1, .wt, 0, .run, 0, 1⟩, ⟨1, 29, .rwb, 0, .run, 0, 0x1fffffff⟩, ⟨30, 1, .ro, 0, .f, 0, 1⟩, ⟨31, 1, .ro, 0, .f, 0, 1⟩]⟩,
  -- CRL_STATUS (R294)
  ⟨0x100004, 1, 0, 1, 0, .plain, [⟨0, 16, .rwb, 0, .run, 0, 0xffff⟩, ⟨16, 10, .ro, 0, .run, 0, 0x3ff⟩, ⟨26, 1, .ro, 0, .run, 0, 1⟩, ⟨27, 1, .ro, 0, .run, 0, 1⟩, ⟨28, 1, .ro, 0, .run, 0, 1⟩, ⟨29, 1, .ro, 0, .run, 0, 1⟩, ⟨30, 1, .ro, 0, .run, 0, 1⟩, ⟨31, 1, .ro, 0, .run, 0, 1⟩]⟩,
  -- CRL_IRQ (R294)
  ⟨0x100008, 1, 0, 1, 0, .plain, [⟨0, 1, .rc, 0, .run, 0, 1⟩, ⟨1, 1, .rc, 0, .run, 0, 1⟩, ⟨2, 1, .rc, 0, .run, 0, 1⟩, ⟨3, 1, .rc, 0, .run, 0, 1⟩, ⟨4, 1, .rc, 0, .run, 0, 1⟩, ⟨5, 1, .rc, 0, .run, 0, 1⟩, ⟨6, 1, .rc, 0, .run, 0, 1⟩, ⟨7, 1, .rc, 0, .run, 0, 1⟩, ⟨8, 1, .rc, 0, .run, 0, 1⟩, ⟨9, 1, .rc, 0, .run, 0, 1⟩, ⟨10, 1, .rc, 0, .run, 0, 1⟩, ⟨11, 1, .rc, 0, .run, 0, 1⟩, ⟨12, 1, .rc, 0, .run, 0, 1⟩, ⟨13, 1, .rc, 0, .run, 0, 1⟩, ⟨14, 18, .rwb, 0, .run, 0, 0x3ffff⟩]⟩,
  -- CRL_IRQ_EN (R294)
  ⟨0x10000c, 1, 0, 1, 0, .plain, [⟨0, 14, .rw, 0, .run, 0, 0x3fff⟩, ⟨14, 18, .rwb, 0, .run, 0, 0x3ffff⟩]⟩,
  -- CRL_EPOCH (R294)
  ⟨0x100010, 1, 0, 1, 0, .plain, [⟨0, 16, .ro, 0, .run, 0, 0xffff⟩, ⟨16, 16, .ro, 0, .run, 0, 0xffff⟩]⟩,
  -- CRL_MAP (R294)
  ⟨0x100014, 1, 0, 1, 0, .plain, [⟨0, 16, .ro, 0, .run, 0, 0xffff⟩, ⟨16, 10, .ro, 0, .run, 0, 0x3ff⟩, ⟨26, 6, .rwb, 0, .run, 0, 0x3f⟩]⟩,
  -- CRL_HPER (R273)
  ⟨0x100018, 1, 0, 1, 0, .plain, [⟨0, 19, .ro, 0xfa0, .f, 0, 0x7ffff⟩, ⟨19, 13, .rwb, 0, .run, 0, 0x1fff⟩]⟩,
  -- CRL_HLAUNCH (R273)
  ⟨0x10001c, 1, 0, 1, 0, .plain, [⟨0, 19, .ro, 8, .f, 0, 0x7ffff⟩, ⟨19, 13, .rwb, 0, .run, 0, 0x1fff⟩]⟩,
  -- CRL_HAPPLY (R273)
  ⟨0x100020, 1, 0, 1, 0, .plain, [⟨0, 19, .ro, 0x3e8, .f, 0, 0x7ffff⟩, ⟨19, 13, .rwb, 0, .run, 0, 0x1fff⟩]⟩,
  -- CRL_HCYCLE (R294)
  ⟨0x100024, 1, 0, 1, 0, .plain, [⟨0, 32, .ro, 0, .run, 0, 0xffffffff⟩]⟩,
  -- CRL_HCNT (R294)
  ⟨0x100028, 1, 0, 1, 0, .plain, [⟨0, 16, .rc, 0, .run, 0, 0xffff⟩, ⟨16, 16, .rc, 0, .run, 0, 0xffff⟩]⟩,
  -- CRL_TMO0 (R294)
  ⟨0x100030, 1, 0, 1, 0, .plain, [⟨0, 16, .rw, 0x64, .a, 1, 0xffff⟩, ⟨16, 16, .rw, 0x7d0, .a, 0x64, 0xffff⟩]⟩,
  -- CRL_TMO1 (R294)
  ⟨0x100034, 1, 0, 1, 0, .plain, [⟨0, 8, .rw, 0xa, .a, 1, 0xff⟩, ⟨8, 8, .rw, 3, .a, 1, 0xff⟩, ⟨16, 16, .rwb, 0, .run, 0, 0xffff⟩]⟩,
  -- CRL_CNT0 (R294)
  ⟨0x100038, 1, 0, 1, 0, .plain, [⟨0, 16, .rc, 0, .run, 0, 0xffff⟩, ⟨16, 16, .rc, 0, .run, 0, 0xffff⟩]⟩,
  -- CRL_CNT1 (R294)
  ⟨0x10003c, 1, 0, 1, 0, .plain, [⟨0, 16, .rc, 0, .run, 0, 0xffff⟩, ⟨16, 16, .rc, 0, .run, 0, 0xffff⟩]⟩,
  -- CRL_CNT2 (R294)
  ⟨0x100040, 1, 0, 1, 0, .plain, [⟨0, 16, .rc, 0, .run, 0, 0xffff⟩, ⟨16, 16, .rc, 0, .run, 0, 0xffff⟩]⟩,
  -- CRL_NAK (R294)
  ⟨0x100044, 1, 0, 1, 0, .plain, [⟨0, 16, .ro, 0, .run, 0, 0xffff⟩, ⟨16, 4, .ro, 0, .run, 0, 0xf⟩, ⟨20, 12, .ro, 0, .run, 0, 0xfff⟩]⟩,
  -- CRL_KEY (R294)
  ⟨0x100048, 1, 0, 1, 0, .plain, [⟨0, 4, .ro, 0, .run, 0, 0xf⟩, ⟨4, 4, .ro, 0, .run, 0, 0xf⟩, ⟨8, 1, .ro, 0, .run, 0, 1⟩, ⟨9, 23, .rwb, 0, .run, 0, 0x7fffff⟩]⟩,
  -- CRL_CNT3 (R294)
  ⟨0x10004c, 1, 0, 1, 0, .plain, [⟨0, 16, .rwb, 0, .run, 0, 0xffff⟩, ⟨16, 16, .rc, 0, .run, 0, 0xffff⟩]⟩,
  -- CRL_HIN_LO (R294)
  ⟨0x100050, 1, 0, 1, 0, .plain, [⟨0, 32, .ro, 0, .f, 0, 0xffffffff⟩]⟩,
  -- CRL_HIN_HI (R294)
  ⟨0x100054, 1, 0, 1, 0, .plain, [⟨0, 32, .ro, 0, .f, 0, 0xffffffff⟩]⟩,
  -- CRL_HOUT_LO (R294)
  ⟨0x100058, 1, 0, 1, 0, .plain, [⟨0, 32, .ro, 0, .f, 0, 0xffffffff⟩]⟩,
  -- CRL_HOUT_HI (R294)
  ⟨0x10005c, 1, 0, 1, 0, .plain, [⟨0, 32, .ro, 0, .f, 0, 0xffffffff⟩]⟩,
  -- CRL_HSTAT_LO (R294)
  ⟨0x100060, 1, 0, 1, 0, .plain, [⟨0, 32, .ro, 0, .f, 0, 0xffffffff⟩]⟩,
  -- CRL_HSTAT_HI (R294)
  ⟨0x100064, 1, 0, 1, 0, .plain, [⟨0, 32, .ro, 0, .f, 0, 0xffffffff⟩]⟩]

/-- Registers of CRL. -/
def regRowsCRL1 : List RRow := [
  -- CRL_HDONE (R294)
  ⟨0x100068, 1, 0, 1, 0, .plain, [⟨0, 12, .ro, 0, .run, 0, 0xfff⟩, ⟨12, 4, .rwb, 0, .run, 0, 0xf⟩, ⟨16, 12, .ro, 0, .run, 0, 0xfff⟩, ⟨28, 4, .rwb, 0, .run, 0, 0xf⟩]⟩,
  -- CRL_HDONE_CYC (R294)
  ⟨0x10006c, 1, 0, 1, 0, .plain, [⟨0, 32, .ro, 0, .run, 0, 0xffffffff⟩]⟩,
  -- CRL_Pp_CFG (R294)
  ⟨0x100100, 4, 0x40, 1, 0, .plain, [⟨0, 27, .rwb, 0, .run, 0, 0x7ffffff⟩, ⟨27, 2, .ro, 0, .f, 0, 3⟩, ⟨29, 2, .ro, 0, .f, 0, 3⟩, ⟨31, 1, .ro, 0, .f, 0, 1⟩]⟩,
  -- CRL_Pp_STATUS (R294)
  ⟨0x100104, 4, 0x40, 1, 0, .plain, [⟨0, 15, .ro, 0, .run, 0, 0x7fff⟩, ⟨15, 11, .rwb, 0, .run, 0, 0x7ff⟩, ⟨26, 1, .ro, 0, .run, 0, 1⟩, ⟨27, 1, .ro, 0, .run, 0, 1⟩, ⟨28, 1, .ro, 0, .run, 0, 1⟩, ⟨29, 1, .ro, 0, .run, 0, 1⟩, ⟨30, 2, .ro, 0, .run, 0, 3⟩]⟩,
  -- CRL_Pp_SEQ (R294)
  ⟨0x100108, 4, 0x40, 1, 0, .plain, [⟨0, 16, .ro, 0, .run, 0, 0xffff⟩, ⟨16, 16, .ro, 0, .run, 0, 0xffff⟩]⟩,
  -- CRL_Pp_CNT0 (R294)
  ⟨0x10010c, 4, 0x40, 1, 0, .plain, [⟨0, 16, .rc, 0, .run, 0, 0xffff⟩, ⟨16, 16, .rc, 0, .run, 0, 0xffff⟩]⟩,
  -- CRL_Pp_CNT1 (R294)
  ⟨0x100110, 4, 0x40, 1, 0, .plain, [⟨0, 16, .rc, 0, .run, 0, 0xffff⟩, ⟨16, 16, .rc, 0, .run, 0, 0xffff⟩]⟩,
  -- CRL_Pp_CNT2 (R294)
  ⟨0x100114, 4, 0x40, 1, 0, .plain, [⟨0, 16, .rc, 0, .run, 0, 0xffff⟩, ⟨16, 16, .rc, 0, .run, 0, 0xffff⟩]⟩,
  -- CRL_Pp_FEC (R294)
  ⟨0x100118, 4, 0x40, 1, 0, .plain, [⟨0, 16, .rc, 0, .run, 0, 0xffff⟩, ⟨16, 16, .rc, 0, .run, 0, 0xffff⟩]⟩]

/-- Registers of SWC. -/
def regRowsSWC : List RRow := [
  -- SWC_CTL (R312)
  ⟨0x110000, 1, 0, 1, 0, .plain, [⟨0, 1, .rw, 1, .a, 0, 1⟩, ⟨1, 31, .rwb, 0, .run, 0, 0x7fffffff⟩]⟩,
  -- SWC_IRQ (R312)
  ⟨0x110004, 1, 0, 1, 0, .plain, [⟨0, 1, .rc, 0, .run, 0, 1⟩, ⟨1, 1, .rc, 0, .run, 0, 1⟩, ⟨2, 1, .rc, 0, .run, 0, 1⟩, ⟨3, 1, .rc, 0, .run, 0, 1⟩, ⟨4, 1, .rc, 0, .run, 0, 1⟩, ⟨5, 1, .rc, 0, .run, 0, 1⟩, ⟨6, 26, .rwb, 0, .run, 0, 0x3ffffff⟩]⟩,
  -- SWC_IRQ_EN (R312)
  ⟨0x110008, 1, 0, 1, 0, .plain, [⟨0, 6, .rw, 0, .run, 0, 0x3f⟩, ⟨6, 26, .rwb, 0, .run, 0, 0x3ffffff⟩]⟩,
  -- SWC_FREE (R310)
  ⟨0x11000c, 1, 0, 1, 0, .plain, [⟨0, 17, .ro, 0x18000, .run, 0, 0x1ffff⟩, ⟨17, 15, .rwb, 0, .run, 0, 0x7fff⟩]⟩,
  -- SWC_SHFREE (R310)
  ⟨0x110010, 1, 0, 1, 0, .plain, [⟨0, 17, .ro, 0x17800, .run, 0, 0x1ffff⟩, ⟨17, 15, .rwb, 0, .run, 0, 0x7fff⟩]⟩,
  -- SWC_HELD (R310)
  ⟨0x110014, 1, 0, 1, 0, .plain, [⟨0, 17, .ro, 0, .run, 0, 0x1ffff⟩, ⟨17, 15, .rwb, 0, .run, 0, 0x7fff⟩]⟩,
  -- SWC_FWD (R312)
  ⟨0x110018, 1, 0, 1, 0, .plain, [⟨0, 32, .ro, 0, .f, 0, 0xffffffff⟩]⟩,
  -- SWC_UPLINK (R312)
  ⟨0x11001c, 1, 0, 1, 0, .plain, [⟨0, 4, .ro, 0, .f, 0, 0xf⟩, ⟨4, 3, .rwb, 0, .run, 0, 7⟩, ⟨7, 1, .ro, 0, .f, 0, 1⟩, ⟨8, 24, .rwb, 0, .run, 0, 0xffffff⟩]⟩,
  -- SWC_WGT (R312)
  ⟨0x110020, 1, 0, 1, 0, .plain, [⟨0, 32, .rw, 0x1010101, .a, 0, 0xffffffff⟩]⟩,
  -- SWC_MIR_CFG (R312)
  ⟨0x110024, 1, 0, 1, 0, .plain, [⟨0, 16, .rwb, 0, .run, 0, 0xffff⟩, ⟨16, 12, .rw, 0, .a, 0, 0xfff⟩, ⟨28, 2, .rwb, 0, .run, 0, 3⟩, ⟨30, 2, .rw, 0, .a, 0, 3⟩]⟩,
  -- SWC_MIR_SRC (R312)
  ⟨0x110028, 1, 0, 1, 0, .plain, [⟨0, 16, .rw, 0, .a, 0, 0xffff⟩, ⟨16, 16, .rw, 0, .a, 0, 0xffff⟩]⟩,
  -- SWC_MIR_CTX (R312)
  ⟨0x11002c, 1, 0, 1, 0, .plain, [⟨0, 12, .rw, 0, .a, 0, 0xfff⟩, ⟨12, 4, .rwb, 0, .run, 0, 0xf⟩, ⟨16, 12, .rw, 0, .a, 0, 0xfff⟩, ⟨28, 3, .rwb, 0, .run, 0, 7⟩, ⟨31, 1, .rw, 0, .a, 0, 1⟩]⟩,
  -- SWC_MIR_FLOOR (R312)
  ⟨0x110030, 1, 0, 1, 0, .plain, [⟨0, 17, .rw, 0x2000, .a, 0, 0x18000⟩, ⟨17, 15, .rwb, 0, .run, 0, 0x7fff⟩]⟩,
  -- SWC_CNT0 (R310)
  ⟨0x110034, 1, 0, 1, 0, .plain, [⟨0, 16, .rc, 0, .run, 0, 0xffff⟩, ⟨16, 16, .rc, 0, .run, 0, 0xffff⟩]⟩,
  -- SWC_CNT1 (R310)
  ⟨0x110038, 1, 0, 1, 0, .plain, [⟨0, 5, .rc, 0, .run, 0, 0x1f⟩, ⟨5, 5, .rc, 0, .run, 0, 0x1f⟩, ⟨10, 6, .rc, 0, .run, 0, 0x3f⟩, ⟨16, 16, .rc, 0, .run, 0, 0xffff⟩]⟩,
  -- SWC_Cc_GUAR (R310)
  ⟨0x110100, 7, 0x10, 1, 0, .plain, [⟨0, 17, .ro, 0, .f, 0, 0x1ffff⟩, ⟨17, 15, .rwb, 0, .run, 0, 0x7fff⟩]⟩,
  -- SWC_Cc_GUAR (R310)
  ⟨0x110170, 1, 0x10, 1, 0, .plain, [⟨0, 17, .ro, 0x800, .f, 0, 0x1ffff⟩, ⟨17, 15, .rwb, 0, .run, 0, 0x7fff⟩]⟩,
  -- SWC_Cc_MAX (R310)
  ⟨0x110104, 8, 0x10, 1, 0, .plain, [⟨0, 17, .rw, 0x18000, .a, 0, 0x18000⟩, ⟨17, 15, .rwb, 0, .run, 0, 0x7fff⟩]⟩,
  -- SWC_Cc_USED (R310)
  ⟨0x110108, 8, 0x10, 1, 0, .plain, [⟨0, 17, .ro, 0, .run, 0, 0x1ffff⟩, ⟨17, 15, .rwb, 0, .run, 0, 0x7fff⟩]⟩,
  -- SWC_Cc_DROP (R312)
  ⟨0x11010c, 8, 0x10, 1, 0, .plain, [⟨0, 32, .rc, 0, .run, 0, 0xffffffff⟩]⟩,
  -- SWC_Pp_OQ (R312)
  ⟨0x110200, 14, 8, 1, 0, .plain, [⟨0, 17, .ro, 0, .run, 0, 0x1ffff⟩, ⟨17, 15, .rwb, 0, .run, 0, 0x7fff⟩]⟩,
  -- SWC_Pp_CNT (R312)
  ⟨0x110204, 14, 8, 1, 0, .plain, [⟨0, 16, .rc, 0, .run, 0, 0xffff⟩, ⟨16, 16, .rc, 0, .run, 0, 0xffff⟩]⟩,
  -- SWC_LQq_CFG (R312)
  ⟨0x110300, 16, 4, 1, 0, .plain, [⟨0, 3, .ro, 0, .f, 0, 7⟩, ⟨3, 28, .rwb, 0, .run, 0, 0xfffffff⟩, ⟨31, 1, .ro, 0, .f, 0, 1⟩]⟩]

/-- Registers of BRG. -/
def regRowsBRG0 : List RRow := [
  -- BRG_STATUS (R352)
  ⟨0x120000, 1, 0, 1, 0, .plain, [⟨0, 9, .ro, 0, .run, 0, 0x1ff⟩, ⟨9, 15, .rwb, 0, .run, 0, 0x7fff⟩, ⟨24, 3, .ro, 0, .run, 0, 7⟩, ⟨27, 3, .ro, 0, .run, 0, 7⟩, ⟨30, 1, .ro, 0, .run, 0, 1⟩, ⟨31, 1, .ro, 0, .f, 0, 1⟩]⟩,
  -- BRG_IRQ (R352)
  ⟨0x120004, 1, 0, 1, 0, .plain, [⟨0, 1, .rc, 0, .run, 0, 1⟩, ⟨1, 1, .rc, 0, .run, 0, 1⟩, ⟨2, 1, .rc, 0, .run, 0, 1⟩, ⟨3, 1, .rc, 0, .run, 0, 1⟩, ⟨4, 1, .rc, 0, .run, 0, 1⟩, ⟨5, 1, .rc, 0, .run, 0, 1⟩, ⟨6, 1, .rc, 0, .run, 0, 1⟩, ⟨7, 1, .rc, 0, .run, 0, 1⟩, ⟨8, 24, .rwb, 0, .run, 0, 0xffffff⟩]⟩,
  -- BRG_IRQ_EN (R352)
  ⟨0x120008, 1, 0, 1, 0, .plain, [⟨0, 8, .rw, 0, .run, 0, 0xff⟩, ⟨8, 24, .rwb, 0, .run, 0, 0xffffff⟩]⟩,
  -- BRG_TMO (R352)
  ⟨0x12000c, 1, 0, 1, 0, .plain, [⟨0, 6, .rw, 8, .a, 0, 0x3f⟩, ⟨6, 2, .rwb, 0, .run, 0, 3⟩, ⟨8, 8, .rw, 0xa, .a, 1, 0xff⟩, ⟨16, 16, .rw, 0xc8, .a, 0xa, 0x1964⟩]⟩,
  -- BRG_TAGS (R352)
  ⟨0x120010, 1, 0, 1, 0, .plain, [⟨0, 8, .rw, 0xc0, .a, 0, 0xff⟩, ⟨8, 24, .rwb, 0, .run, 0, 0xffffff⟩]⟩,
  -- BRG_LOCKCFG (R352)
  ⟨0x120014, 1, 0, 1, 0, .plain, [⟨0, 16, .rw, 0x64, .a, 1, 0xffff⟩, ⟨16, 8, .rwb, 0, .run, 0, 0xff⟩, ⟨24, 8, .rw, 0x40, .a, 1, 0xff⟩]⟩,
  -- BRG_VEC (R349)
  ⟨0x120018, 1, 0, 1, 0, .plain, [⟨0, 6, .rw, 3, .a, 0, 0x3f⟩, ⟨6, 2, .rwb, 0, .run, 0, 3⟩, ⟨8, 6, .rw, 2, .a, 0, 0x3f⟩, ⟨14, 2, .rwb, 0, .run, 0, 3⟩, ⟨16, 6, .rw, 1, .a, 0, 0x3f⟩, ⟨22, 2, .rwb, 0, .run, 0, 3⟩, ⟨24, 6, .rw, 0, .a, 0, 0x3f⟩, ⟨30, 2, .rwb, 0, .run, 0, 3⟩]⟩,
  -- BRG_PWERR (R352)
  ⟨0x12001c, 1, 0, 1, 0, .plain, [⟨0, 16, .ro, 0, .run, 0, 0xffff⟩, ⟨16, 12, .rwb, 0, .run, 0, 0xfff⟩, ⟨28, 2, .ro, 0, .run, 0, 3⟩, ⟨30, 1, .rc, 0, .run, 0, 1⟩, ⟨31, 1, .rc, 0, .run, 0, 1⟩]⟩,
  -- BRG_PWERR_ADDR_LO (R349)
  ⟨0x120020, 1, 0, 1, 0, .plain, [⟨0, 32, .ro, 0, .run, 0, 0xffffffff⟩]⟩,
  -- BRG_PWERR_ADDR_HI (R349)
  ⟨0x120024, 1, 0, 1, 0, .plain, [⟨0, 24, .ro, 0, .run, 0, 0xffffff⟩, ⟨24, 8, .rwb, 0, .run, 0, 0xff⟩]⟩,
  -- BRG_CNT0 (R349)
  ⟨0x12002c, 1, 0, 1, 0, .plain, [⟨0, 16, .rc, 0, .run, 0, 0xffff⟩, ⟨16, 16, .rc, 0, .run, 0, 0xffff⟩]⟩,
  -- BRG_CNT1 (R349)
  ⟨0x120030, 1, 0, 1, 0, .plain, [⟨0, 16, .rc, 0, .run, 0, 0xffff⟩, ⟨16, 16, .rc, 0, .run, 0, 0xffff⟩]⟩,
  -- BRG_CNT2 (R349)
  ⟨0x120034, 1, 0, 1, 0, .plain, [⟨0, 16, .rc, 0, .run, 0, 0xffff⟩, ⟨16, 16, .rc, 0, .run, 0, 0xffff⟩]⟩,
  -- BRG_RPEND_LO (R335)
  ⟨0x120038, 1, 0, 1, 0, .plain, [⟨0, 32, .ro, 0, .f, 0, 0xffffffff⟩]⟩,
  -- BRG_RPEND_HI (R335)
  ⟨0x12003c, 1, 0, 1, 0, .plain, [⟨0, 32, .ro, 0, .f, 0, 0xffffffff⟩]⟩,
  -- BRG_HMASK (R352)
  ⟨0x120040, 1, 0, 1, 0, .plain, [⟨0, 32, .rw, 0xfffc0000, .a, 0, 0xffffffff⟩]⟩,
  -- BRG_SEM (R352)
  ⟨0x120044, 1, 0, 1, 0, .plain, [⟨0, 6, .ro, 0, .run, 0, 0x3f⟩, ⟨6, 26, .rwb, 0, .run, 0, 0x3ffffff⟩]⟩,
  -- BRG_RGRPg (R352)
  ⟨0x120080, 64, 4, 1, 0, .plain, [⟨0, 6, .rw, 0, .run, 0, 0x3f⟩, ⟨6, 25, .rwb, 0, .run, 0, 0x1ffffff⟩, ⟨31, 1, .rw, 0, .run, 0, 1⟩]⟩,
  -- BRG_Wn_BASE_LO (R316)
  ⟨0x120200, 16, 0x10, 1, 0, .plain, [⟨0, 12, .rwb, 0, .run, 0, 0xfff⟩, ⟨12, 20, .rw, 0, .run, 0, 0xfffff⟩]⟩,
  -- BRG_Wn_BASE_HI (R316)
  ⟨0x120204, 16, 0x10, 1, 0, .plain, [⟨0, 24, .rw, 0, .run, 0, 0xffffff⟩, ⟨24, 8, .rwb, 0, .run, 0, 0xff⟩]⟩,
  -- BRG_Wn_CFG (R352)
  ⟨0x120208, 16, 0x10, 1, 0, .plain, [⟨0, 16, .rw, 0xffff, .run, 0, 0xffff⟩, ⟨16, 13, .rwb, 0, .run, 0, 0x1fff⟩, ⟨29, 1, .rw, 0, .a, 0, 1⟩, ⟨30, 1, .rw, 0, .a, 0, 1⟩, ⟨31, 1, .rw, 0, .run, 0, 1⟩]⟩,
  -- BRG_SRD_CTL (R352)
  ⟨0x120300, 1, 0, 1, 0, .banked, [⟨0, 4, .rw, 0, .run, 0, 0xf⟩, ⟨4, 8, .rwb, 0, .run, 0, 0xff⟩, ⟨12, 3, .rw, 0, .run, 0, 7⟩, ⟨15, 1, .rwb, 0, .run, 0, 1⟩, ⟨16, 3, .rw, 0, .run, 0, 7⟩, ⟨19, 12, .rwb, 0, .run, 0, 0xfff⟩, ⟨31, 1, .wt, 0, .run, 0, 1⟩]⟩,
  -- BRG_SRD_ADDR_LO (R323)
  ⟨0x120304, 1, 0, 1, 0, .banked, [⟨0, 32, .rw, 0, .run, 0, 0xffffffff⟩]⟩,
  -- BRG_SRD_ADDR_HI (R323)
  ⟨0x120308, 1, 0, 1, 0, .banked, [⟨0, 32, .rw, 0, .run, 0, 0xffffffff⟩]⟩,
  -- BRG_SRD_WDATA_LO (R323)
  ⟨0x12030c, 1, 0, 1, 0, .banked, [⟨0, 32, .rw, 0, .run, 0, 0xffffffff⟩]⟩]

/-- Registers of BRG. -/
def regRowsBRG1 : List RRow := [
  -- BRG_SRD_WDATA_HI (R323)
  ⟨0x120310, 1, 0, 1, 0, .banked, [⟨0, 32, .rw, 0, .run, 0, 0xffffffff⟩]⟩,
  -- BRG_SRD_RES (R323)
  ⟨0x120314, 1, 0, 1, 0, .bankedResult, [⟨0, 16, .ro, 0, .run, 0, 0xffff⟩, ⟨16, 8, .ro, 0, .run, 0, 0xff⟩, ⟨24, 6, .rwb, 0, .run, 0, 0x3f⟩, ⟨30, 1, .ro, 0, .run, 0, 1⟩, ⟨31, 1, .ro, 0, .run, 0, 1⟩]⟩,
  -- BRG_SRD_RDATA_LO (R323)
  ⟨0x120318, 1, 0, 1, 0, .banked, [⟨0, 32, .ro, 0, .run, 0, 0xffffffff⟩]⟩,
  -- BRG_SRD_RDATA_HI (R323)
  ⟨0x12031c, 1, 0, 1, 0, .banked, [⟨0, 32, .ro, 0, .run, 0, 0xffffffff⟩]⟩]

/-- Registers of DMX. -/
def regRowsDMX : List RRow := [
  -- DMX_CTL (R353)
  ⟨0x130000, 1, 0, 1, 0, .plain, [⟨0, 16, .rw, 0xffff, .a, 0, 0xffff⟩, ⟨16, 16, .rwb, 0, .run, 0, 0xffff⟩]⟩,
  -- DMX_STATUS (R353)
  ⟨0x130004, 1, 0, 1, 0, .plain, [⟨0, 5, .ro, 0, .run, 0, 0x1f⟩, ⟨5, 3, .rwb, 0, .run, 0, 7⟩, ⟨8, 12, .ro, 0, .run, 0, 0xfff⟩, ⟨20, 12, .ro, 0, .run, 0, 0xfff⟩]⟩,
  -- DMX_IRQ (R353)
  ⟨0x130008, 1, 0, 1, 0, .plain, [⟨0, 1, .rc, 0, .run, 0, 1⟩, ⟨1, 1, .rc, 0, .run, 0, 1⟩, ⟨2, 1, .rc, 0, .run, 0, 1⟩, ⟨3, 1, .rc, 0, .run, 0, 1⟩, ⟨4, 1, .rc, 0, .run, 0, 1⟩, ⟨5, 27, .rwb, 0, .run, 0, 0x7ffffff⟩]⟩,
  -- DMX_IRQ_EN (R353)
  ⟨0x13000c, 1, 0, 1, 0, .plain, [⟨0, 5, .rw, 0, .run, 0, 0x1f⟩, ⟨5, 27, .rwb, 0, .run, 0, 0x7ffffff⟩]⟩,
  -- DMX_DB (R353)
  ⟨0x130010, 1, 0, 1, 0, .plain, [⟨0, 12, .wo, 0, .run, 0, 0xfff⟩, ⟨12, 4, .rwb, 0, .run, 0, 0xf⟩, ⟨16, 12, .wo, 0, .run, 0, 0xfff⟩, ⟨28, 4, .rwb, 0, .run, 0, 0xf⟩]⟩,
  -- DMX_CMD (R353)
  ⟨0x130014, 1, 0, 1, 0, .banked, [⟨0, 12, .rw, 0, .run, 0, 0xfff⟩, ⟨12, 4, .rwb, 0, .run, 0, 0xf⟩, ⟨16, 3, .rw, 0, .run, 0, 7⟩, ⟨19, 12, .rwb, 0, .run, 0, 0xfff⟩, ⟨31, 1, .wt, 0, .run, 0, 1⟩]⟩,
  -- DMX_CMD_RES (R344)
  ⟨0x130018, 1, 0, 1, 0, .bankedResult, [⟨0, 16, .ro, 0, .run, 0, 0xffff⟩, ⟨16, 8, .ro, 0, .run, 0, 0xff⟩, ⟨24, 6, .rwb, 0, .run, 0, 0x3f⟩, ⟨30, 1, .ro, 0, .run, 0, 1⟩, ⟨31, 1, .ro, 0, .run, 0, 1⟩]⟩,
  -- DMX_TMO (R353)
  ⟨0x13001c, 1, 0, 1, 0, .plain, [⟨0, 8, .rw, 8, .a, 1, 0xff⟩, ⟨8, 8, .rwb, 0, .run, 0, 0xff⟩, ⟨16, 16, .rw, 0x1f4, .a, 0xa, 0xffff⟩]⟩,
  -- DMX_FQ_LEVEL (R353)
  ⟨0x130020, 1, 0, 1, 0, .plain, [⟨0, 7, .ro, 0, .run, 0, 0x7f⟩, ⟨7, 9, .rwb, 0, .run, 0, 0x1ff⟩, ⟨16, 16, .rc, 0, .run, 0, 0xffff⟩]⟩,
  -- DMX_FQ_POP (R353)
  ⟨0x130024, 1, 0, 1, 0, .plain, [⟨0, 1, .wt, 0, .run, 0, 1⟩, ⟨1, 31, .rwb, 0, .run, 0, 0x7fffffff⟩]⟩,
  -- DMX_FQ (R345)
  ⟨0x130040, 8, 4, 1, 0, .plain, [⟨0, 32, .ro, 0, .run, 0, 0xffffffff⟩]⟩,
  -- DMX_TCACHE (R353)
  ⟨0x130060, 1, 0, 1, 0, .plain, [⟨0, 10, .ro, 0, .run, 0, 0x3ff⟩, ⟨10, 14, .rwb, 0, .run, 0, 0x3fff⟩, ⟨24, 8, .ro, 0, .run, 0, 0xff⟩]⟩,
  -- DMX_CNT0 (R350)
  ⟨0x130064, 1, 0, 1, 0, .plain, [⟨0, 16, .rc, 0, .run, 0, 0xffff⟩, ⟨16, 16, .rc, 0, .run, 0, 0xffff⟩]⟩,
  -- DMX_CNT1 (R350)
  ⟨0x130068, 1, 0, 1, 0, .plain, [⟨0, 16, .rc, 0, .run, 0, 0xffff⟩, ⟨16, 16, .rc, 0, .run, 0, 0xffff⟩]⟩,
  -- DMX_Ee (R353)
  ⟨0x130100, 16, 4, 1, 0, .plain, [⟨0, 12, .ro, 0, .run, 0, 0xfff⟩, ⟨12, 19, .rwb, 0, .run, 0, 0x7ffff⟩, ⟨31, 1, .ro, 0, .run, 0, 1⟩]⟩]

/-- Registers of CPH. -/
def regRowsCPH : List RRow := [
  -- CPH_CTL (R383)
  ⟨0x140000, 1, 0, 1, 0, .plain, [⟨0, 8, .rw, 0xff, .a, 0, 0xff⟩, ⟨8, 4, .rw, 4, .a, 1, 0xf⟩, ⟨12, 20, .rwb, 0, .run, 0, 0xfffff⟩]⟩,
  -- CPH_STATUS (R383)
  ⟨0x140004, 1, 0, 1, 0, .plain, [⟨0, 2, .ro, 0, .run, 0, 3⟩, ⟨2, 6, .rwb, 0, .run, 0, 0x3f⟩, ⟨8, 8, .ro, 0, .run, 0, 0xff⟩, ⟨16, 8, .rwb, 0, .run, 0, 0xff⟩, ⟨24, 8, .ro, 0, .run, 0, 0xff⟩]⟩,
  -- CPH_IRQ (R383)
  ⟨0x140008, 1, 0, 1, 0, .plain, [⟨0, 1, .rc, 0, .run, 0, 1⟩, ⟨1, 1, .rc, 0, .run, 0, 1⟩, ⟨2, 1, .rc, 0, .run, 0, 1⟩, ⟨3, 1, .rc, 0, .run, 0, 1⟩, ⟨4, 28, .rwb, 0, .run, 0, 0xfffffff⟩]⟩,
  -- CPH_IRQ_EN (R383)
  ⟨0x14000c, 1, 0, 1, 0, .plain, [⟨0, 4, .rw, 0, .run, 0, 0xf⟩, ⟨4, 28, .rwb, 0, .run, 0, 0xfffffff⟩]⟩,
  -- CPH_CNT0 (R381)
  ⟨0x140010, 1, 0, 1, 0, .plain, [⟨0, 16, .rc, 0, .run, 0, 0xffff⟩, ⟨16, 16, .rc, 0, .run, 0, 0xffff⟩]⟩,
  -- CPH_CNT1 (R381)
  ⟨0x140014, 1, 0, 1, 0, .plain, [⟨0, 16, .rc, 0, .run, 0, 0xffff⟩, ⟨16, 16, .rc, 0, .run, 0, 0xffff⟩]⟩,
  -- CPH_AUTH (R383)
  ⟨0x140018, 1, 0, 1, 0, .plain, [⟨0, 8, .ro, 0, .run, 0, 0xff⟩, ⟨8, 8, .rwb, 0, .run, 0, 0xff⟩, ⟨16, 4, .ro, 0, .run, 0, 0xf⟩, ⟨20, 12, .ro, 0, .run, 0, 0xfff⟩]⟩,
  -- CPH_OP (R383)
  ⟨0x140100, 1, 0, 1, 0, .banked, [⟨0, 8, .rw, 0, .run, 0, 0xff⟩, ⟨8, 8, .rwb, 0, .run, 0, 0xff⟩, ⟨16, 2, .rw, 0, .run, 0, 3⟩, ⟨18, 13, .rwb, 0, .run, 0, 0x1fff⟩, ⟨31, 1, .wt, 0, .run, 0, 1⟩]⟩,
  -- CPH_SRC (R372)
  ⟨0x140104, 1, 0, 1, 0, .banked, [⟨0, 22, .rw, 0, .run, 0, 0x3fffff⟩, ⟨22, 10, .rwb, 0, .run, 0, 0x3ff⟩]⟩,
  -- CPH_DST (R372)
  ⟨0x140108, 1, 0, 1, 0, .banked, [⟨0, 22, .rw, 0, .run, 0, 0x3fffff⟩, ⟨22, 10, .rwb, 0, .run, 0, 0x3ff⟩]⟩,
  -- CPH_LEN (R383)
  ⟨0x14010c, 1, 0, 1, 0, .banked, [⟨0, 15, .rw, 0, .run, 0, 0x7fff⟩, ⟨15, 1, .rwb, 0, .run, 0, 1⟩, ⟨16, 11, .rw, 0, .run, 0, 0x7ff⟩, ⟨27, 5, .rwb, 0, .run, 0, 0x1f⟩]⟩,
  -- CPH_NONCE (R372)
  ⟨0x140110, 3, 4, 1, 0, .banked, [⟨0, 32, .rw, 0, .run, 0, 0xffffffff⟩]⟩,
  -- CPH_TAG (R372)
  ⟨0x140120, 4, 4, 1, 0, .banked, [⟨0, 32, .rw, 0, .run, 0, 0xffffffff⟩]⟩,
  -- CPH_RES (R372)
  ⟨0x140130, 1, 0, 1, 0, .bankedResult, [⟨0, 16, .ro, 0, .run, 0, 0xffff⟩, ⟨16, 8, .ro, 0, .run, 0, 0xff⟩, ⟨24, 6, .rwb, 0, .run, 0, 0x3f⟩, ⟨30, 1, .ro, 0, .run, 0, 1⟩, ⟨31, 1, .ro, 0, .run, 0, 1⟩]⟩]

/-- Registers of KEY. -/
def regRowsKEY : List RRow := [
  -- KEY_STATUS (R384)
  ⟨0x150000, 1, 0, 1, 0, .plain, [⟨0, 16, .rwb, 0, .run, 0, 0xffff⟩, ⟨16, 9, .ro, 0, .run, 0, 0x1ff⟩, ⟨25, 1, .rwb, 0, .run, 0, 1⟩, ⟨26, 1, .ro, 0, .run, 0, 1⟩, ⟨27, 1, .ro, 0, .run, 0, 1⟩, ⟨28, 1, .ro, 0, .run, 0, 1⟩, ⟨29, 3, .ro, 0, .run, 0, 7⟩]⟩,
  -- KEY_IRQ (R384)
  ⟨0x150004, 1, 0, 1, 0, .plain, [⟨0, 1, .rc, 0, .run, 0, 1⟩, ⟨1, 1, .rc, 0, .run, 0, 1⟩, ⟨2, 1, .rc, 0, .run, 0, 1⟩, ⟨3, 1, .rc, 0, .run, 0, 1⟩, ⟨4, 1, .rc, 0, .run, 0, 1⟩, ⟨5, 1, .rc, 0, .run, 0, 1⟩, ⟨6, 26, .rwb, 0, .run, 0, 0x3ffffff⟩]⟩,
  -- KEY_IRQ_EN (R384)
  ⟨0x150008, 1, 0, 1, 0, .plain, [⟨0, 6, .rw, 0, .run, 0, 0x3f⟩, ⟨6, 26, .rwb, 0, .run, 0, 0x3ffffff⟩]⟩,
  -- KEY_CMD (R384)
  ⟨0x15000c, 1, 0, 1, 0, .banked, [⟨0, 8, .rw, 0, .run, 0, 0xff⟩, ⟨8, 8, .rw, 0, .run, 0, 0xff⟩, ⟨16, 4, .rw, 0, .run, 0, 0xf⟩, ⟨20, 11, .rwb, 0, .run, 0, 0x7ff⟩, ⟨31, 1, .wt, 0, .run, 0, 1⟩]⟩,
  -- KEY_RES (R374)
  ⟨0x150010, 1, 0, 1, 0, .bankedResult, [⟨0, 16, .ro, 0, .run, 0, 0xffff⟩, ⟨16, 8, .ro, 0, .run, 0, 0xff⟩, ⟨24, 6, .rwb, 0, .run, 0, 0x3f⟩, ⟨30, 1, .ro, 0, .run, 0, 1⟩, ⟨31, 1, .ro, 0, .run, 0, 1⟩]⟩,
  -- KEY_LC_NONCE (R356)
  ⟨0x150020, 4, 4, 1, 0, .plain, [⟨0, 32, .ro, 0, .run, 0, 0xffffffff⟩]⟩,
  -- KEY_WARNk (R367)
  ⟨0x150040, 8, 4, 1, 0, .plain, [⟨0, 32, .ro, 0, .run, 0, 0xffffffff⟩]⟩,
  -- KEY_EXHk (R367)
  ⟨0x150060, 8, 4, 1, 0, .plain, [⟨0, 32, .ro, 0, .run, 0, 0xffffffff⟩]⟩,
  -- KEY_STAGE (R384)
  ⟨0x150800, 64, 4, 1, 0, .plain, [⟨0, 32, .wo, 0, .run, 0, 0xffffffff⟩]⟩,
  -- KEY_Sn_INFO (R384)
  ⟨0x151000, 256, 0x20, 1, 0, .plain, [⟨0, 8, .ro, 0, .run, 0, 0xff⟩, ⟨8, 6, .rwb, 0, .run, 0, 0x3f⟩, ⟨14, 1, .ro, 0, .run, 0, 1⟩, ⟨15, 1, .ro, 0, .run, 0, 1⟩, ⟨16, 4, .ro, 0, .run, 0, 0xf⟩, ⟨20, 4, .ro, 0, .run, 0, 0xf⟩, ⟨24, 3, .ro, 0, .run, 0, 7⟩, ⟨27, 1, .rwb, 0, .run, 0, 1⟩, ⟨28, 3, .ro, 0, .run, 0, 7⟩, ⟨31, 1, .ro, 0, .run, 0, 1⟩]⟩,
  -- KEY_Sn_ID_LO (R384)
  ⟨0x151004, 256, 0x20, 1, 0, .plain, [⟨0, 32, .ro, 0, .run, 0, 0xffffffff⟩]⟩,
  -- KEY_Sn_ID_HI (R384)
  ⟨0x151008, 256, 0x20, 1, 0, .plain, [⟨0, 32, .ro, 0, .run, 0, 0xffffffff⟩]⟩,
  -- KEY_Sn_LIMIT (R384)
  ⟨0x15100c, 256, 0x20, 1, 0, .plain, [⟨0, 32, .ro, 0, .run, 0, 0xffffffff⟩]⟩,
  -- KEY_Sn_USE0 (R384)
  ⟨0x151010, 256, 0x20, 1, 0, .plain, [⟨0, 32, .ro, 0, .run, 0, 0xffffffff⟩]⟩,
  -- KEY_Sn_USE1 (R384)
  ⟨0x151014, 256, 0x20, 1, 0, .plain, [⟨0, 32, .ro, 0, .run, 0, 0xffffffff⟩]⟩]

/-- Registers of STT. -/
def regRowsSTT0 : List RRow := [
  -- STT_CTL (R408)
  ⟨0x160000, 1, 0, 1, 0, .plain, [⟨0, 1, .wt, 0, .run, 0, 1⟩, ⟨1, 1, .wt, 0, .run, 0, 1⟩, ⟨2, 1, .wt, 0, .run, 0, 1⟩, ⟨3, 29, .rwb, 0, .run, 0, 0x1fffffff⟩]⟩,
  -- STT_STATUS (R408)
  ⟨0x160004, 1, 0, 1, 0, .plain, [⟨0, 8, .ro, 0, .run, 0, 0xff⟩, ⟨8, 10, .rwb, 0, .run, 0, 0x3ff⟩, ⟨18, 1, .ro, 0, .f, 0, 1⟩, ⟨19, 1, .ro, 0, .f, 0, 1⟩, ⟨20, 2, .ro, 0, .f, 0, 3⟩, ⟨22, 2, .ro, 0, .f, 0, 3⟩, ⟨24, 1, .ro, 0, .run, 0, 1⟩, ⟨25, 1, .ro, 0, .run, 0, 1⟩, ⟨26, 1, .ro, 0, .run, 0, 1⟩, ⟨27, 1, .ro, 0, .run, 0, 1⟩, ⟨28, 1, .ro, 0, .run, 0, 1⟩, ⟨29, 3, .ro, 0, .run, 0, 7⟩]⟩,
  -- STT_IRQ (R408)
  ⟨0x160008, 1, 0, 1, 0, .plain, [⟨0, 1, .rc, 0, .run, 0, 1⟩, ⟨1, 1, .rc, 0, .run, 0, 1⟩, ⟨2, 1, .rc, 0, .run, 0, 1⟩, ⟨3, 1, .rc, 0, .run, 0, 1⟩, ⟨4, 1, .rc, 0, .run, 0, 1⟩, ⟨5, 1, .rc, 0, .run, 0, 1⟩, ⟨6, 1, .rc, 0, .run, 0, 1⟩, ⟨7, 1, .rc, 0, .run, 0, 1⟩, ⟨8, 1, .rc, 0, .run, 0, 1⟩, ⟨9, 1, .rc, 0, .run, 0, 1⟩, ⟨10, 1, .rc, 0, .run, 0, 1⟩, ⟨11, 21, .rwb, 0, .run, 0, 0x1fffff⟩]⟩,
  -- STT_IRQ_EN (R408)
  ⟨0x16000c, 1, 0, 1, 0, .plain, [⟨0, 11, .rw, 0, .run, 0, 0x7ff⟩, ⟨11, 21, .rwb, 0, .run, 0, 0x1fffff⟩]⟩,
  -- STT_HREP (R408)
  ⟨0x160010, 1, 0, 1, 0, .plain, [⟨0, 1, .ro, 0, .run, 0, 1⟩, ⟨1, 1, .ro, 0, .run, 0, 1⟩, ⟨2, 1, .ro, 0, .run, 0, 1⟩, ⟨3, 1, .ro, 0, .run, 0, 1⟩, ⟨4, 1, .ro, 0, .run, 0, 1⟩, ⟨5, 1, .ro, 0, .run, 0, 1⟩, ⟨6, 1, .ro, 0, .run, 0, 1⟩, ⟨7, 1, .ro, 0, .run, 0, 1⟩, ⟨8, 1, .ro, 0, .run, 0, 1⟩, ⟨9, 1, .ro, 0, .run, 0, 1⟩, ⟨10, 21, .rwb, 0, .run, 0, 0x1fffff⟩, ⟨31, 1, .ro, 0, .run, 0, 1⟩]⟩,
  -- STT_PEER (R408)
  ⟨0x160014, 1, 0, 1, 0, .plain, [⟨0, 1, .ro, 0, .run, 0, 1⟩, ⟨1, 1, .ro, 0, .run, 0, 1⟩, ⟨2, 1, .ro, 0, .run, 0, 1⟩, ⟨3, 1, .ro, 0, .run, 0, 1⟩, ⟨4, 1, .ro, 0, .run, 0, 1⟩, ⟨5, 1, .ro, 0, .run, 0, 1⟩, ⟨6, 1, .ro, 0, .run, 0, 1⟩, ⟨7, 1, .ro, 0, .run, 0, 1⟩, ⟨8, 1, .ro, 0, .run, 0, 1⟩, ⟨9, 1, .ro, 0, .run, 0, 1⟩, ⟨10, 21, .rwb, 0, .run, 0, 0x1fffff⟩, ⟨31, 1, .ro, 0, .run, 0, 1⟩]⟩,
  -- STT_PEER_IN (R408)
  ⟨0x160018, 1, 0, 1, 0, .plain, [⟨0, 32, .wo, 0, .run, 0, 0xffffffff⟩]⟩,
  -- STT_COPY (R408)
  ⟨0x16001c, 1, 0, 1, 0, .plain, [⟨0, 32, .ro, 0, .run, 0, 0xffffffff⟩]⟩,
  -- STT_THASH (R408)
  ⟨0x160020, 1, 0, 1, 0, .plain, [⟨0, 32, .ro, 0, .run, 0, 0xffffffff⟩]⟩,
  -- STT_CFG (R408)
  ⟨0x160024, 1, 0, 1, 0, .plain, [⟨0, 16, .rw, 0x14, .a, 1, 0xffff⟩, ⟨16, 16, .rwb, 0, .run, 0, 0xffff⟩]⟩,
  -- STT_CNT0 (R408)
  ⟨0x160028, 1, 0, 1, 0, .plain, [⟨0, 16, .rc, 0, .run, 0, 0xffff⟩, ⟨16, 16, .rc, 0, .run, 0, 0xffff⟩]⟩,
  -- STT_CNT1 (R408)
  ⟨0x16002c, 1, 0, 1, 0, .plain, [⟨0, 8, .rc, 0, .run, 0, 0xff⟩, ⟨8, 8, .rc, 0, .run, 0, 0xff⟩, ⟨16, 16, .rc, 0, .run, 0, 0xffff⟩]⟩,
  -- STT_TAKE_CYC (R408)
  ⟨0x160030, 1, 0, 1, 0, .plain, [⟨0, 32, .ro, 0, .run, 0, 0xffffffff⟩]⟩,
  -- STT_TAKE (R408)
  ⟨0x160034, 3, 4, 1, 0, .plain, [⟨0, 32, .ro, 0, .run, 0, 0xffffffff⟩]⟩,
  -- STT_CLAIM (R400)
  ⟨0x160040, 1, 0, 1, 0, .plain, [⟨0, 32, .wo, 0, .run, 0, 0xffffffff⟩]⟩,
  -- STT_REFCMD (R401)
  ⟨0x160044, 1, 0, 1, 0, .plain, [⟨0, 32, .wo, 0, .run, 0, 0xffffffff⟩]⟩,
  -- STT_REFQ0 (R408)
  ⟨0x160048, 1, 0, 1, 0, .plain, [⟨0, 32, .ro, 0, .run, 0, 0xffffffff⟩]⟩,
  -- STT_REFQ1 (R408)
  ⟨0x16004c, 1, 0, 1, 0, .plain, [⟨0, 16, .ro, 0, .run, 0, 0xffff⟩, ⟨16, 12, .rwb, 0, .run, 0, 0xfff⟩, ⟨28, 3, .ro, 0, .run, 0, 7⟩, ⟨31, 1, .ro, 0, .run, 0, 1⟩]⟩,
  -- STT_REFQ_POP (R408)
  ⟨0x160050, 1, 0, 1, 0, .plain, [⟨0, 1, .wt, 0, .run, 0, 1⟩, ⟨1, 31, .rwb, 0, .run, 0, 0x7fffffff⟩]⟩,
  -- STT_ORDER (R401)
  ⟨0x160054, 1, 0, 1, 0, .plain, [⟨0, 32, .wo, 0, .run, 0, 0xffffffff⟩]⟩,
  -- STT_REF_LO (R408)
  ⟨0x160058, 1, 0, 1, 0, .plain, [⟨0, 32, .ro, 0, .f, 0, 0xffffffff⟩]⟩,
  -- STT_REF_HI (R408)
  ⟨0x16005c, 1, 0, 1, 0, .plain, [⟨0, 32, .ro, 0, .f, 0, 0xffffffff⟩]⟩,
  -- STT_Pk_CFG (R408)
  ⟨0x160100, 4, 0x20, 1, 0, .plain, [⟨0, 22, .rwb, 0, .run, 0, 0x3fffff⟩, ⟨22, 2, .ro, 0, .f, 0, 3⟩, ⟨24, 4, .rwb, 0, .run, 0, 0xf⟩, ⟨28, 1, .ro, 0, .f, 0, 1⟩, ⟨29, 1, .ro, 0, .f, 0, 1⟩, ⟨30, 1, .ro, 0, .f, 0, 1⟩, ⟨31, 1, .ro, 0, .f, 0, 1⟩]⟩,
  -- STT_Pk_STATUS (R408)
  ⟨0x160104, 4, 0x20, 1, 0, .plain, [⟨0, 13, .ro, 0, .run, 0, 0x1fff⟩, ⟨13, 13, .rwb, 0, .run, 0, 0x1fff⟩, ⟨26, 1, .ro, 0, .run, 0, 1⟩, ⟨27, 1, .ro, 0, .run, 0, 1⟩, ⟨28, 1, .ro, 0, .run, 0, 1⟩, ⟨29, 1, .ro, 0, .run, 0, 1⟩, ⟨30, 2, .ro, 0, .run, 0, 3⟩]⟩,
  -- STT_Pk_CNT0 (R408)
  ⟨0x160108, 4, 0x20, 1, 0, .plain, [⟨0, 16, .rc, 0, .run, 0, 0xffff⟩, ⟨16, 16, .rc, 0, .run, 0, 0xffff⟩]⟩]

/-- Registers of STT. -/
def regRowsSTT1 : List RRow := [
  -- STT_Pk_CNT1 (R408)
  ⟨0x16010c, 4, 0x20, 1, 0, .plain, [⟨0, 16, .rc, 0, .run, 0, 0xffff⟩, ⟨16, 16, .rc, 0, .run, 0, 0xffff⟩]⟩]

/-- Registers of PWR. -/
def regRowsPWR : List RRow := [
  -- PWR_CTL (R456)
  ⟨0x170000, 1, 0, 1, 0, .plain, [⟨0, 1, .rw, 0, .a, 0, 1⟩, ⟨1, 1, .wt, 0, .run, 0, 1⟩, ⟨2, 30, .rwb, 0, .run, 0, 0x3fffffff⟩]⟩,
  -- PWR_GUARD (R456)
  ⟨0x170004, 1, 0, 1, 0, .plain, [⟨0, 16, .rw, 0x64, .a, 1, 0x2710⟩, ⟨16, 16, .rwb, 0, .run, 0, 0xffff⟩]⟩,
  -- PWR_IRQ (R456)
  ⟨0x170008, 1, 0, 1, 0, .plain, [⟨0, 1, .rc, 0, .run, 0, 1⟩, ⟨1, 1, .rc, 0, .run, 0, 1⟩, ⟨2, 1, .rc, 0, .run, 0, 1⟩, ⟨3, 29, .rwb, 0, .run, 0, 0x1fffffff⟩]⟩,
  -- PWR_IRQ_EN (R456)
  ⟨0x17000c, 1, 0, 1, 0, .plain, [⟨0, 3, .rw, 0, .run, 0, 7⟩, ⟨3, 29, .rwb, 0, .run, 0, 0x1fffffff⟩]⟩,
  -- PWR_RES (R437)
  ⟨0x170010, 1, 0, 1, 0, .result, [⟨0, 16, .ro, 0, .run, 0, 0xffff⟩, ⟨16, 8, .ro, 0, .run, 0, 0xff⟩, ⟨24, 6, .rwb, 0, .run, 0, 0x3f⟩, ⟨30, 1, .ro, 0, .run, 0, 1⟩, ⟨31, 1, .ro, 0, .run, 0, 1⟩]⟩,
  -- PWR_WAKE_TMR (R456)
  ⟨0x170014, 1, 0, 1, 0, .plain, [⟨0, 32, .rw, 0, .run, 0, 0xffffffff⟩]⟩,
  -- PWR_CNT (R456)
  ⟨0x170018, 1, 0, 1, 0, .plain, [⟨0, 16, .rc, 0, .run, 0, 0xffff⟩, ⟨16, 16, .rc, 0, .run, 0, 0xffff⟩]⟩,
  -- PWR_STATEk (R428)
  ⟨0x170020, 4, 4, 1, 0, .plain, [⟨0, 32, .ro, 0xffffffff, .run, 0, 0xffffffff⟩]⟩,
  -- PWR_Sn_CFG (R456)
  ⟨0x170100, 64, 0x10, 1, 0, .plain, [⟨0, 16, .rw, 0, .a, 0, 0xffff⟩, ⟨16, 14, .rwb, 0, .run, 0, 0x3fff⟩, ⟨30, 2, .rw, 3, .a, 0, 3⟩]⟩,
  -- PWR_Sn_STAT (R456)
  ⟨0x170104, 64, 0x10, 1, 0, .plain, [⟨0, 8, .rwb, 0, .run, 0, 0xff⟩, ⟨8, 8, .ro, 0, .run, 0, 0xff⟩, ⟨16, 12, .rwb, 0, .run, 0, 0xfff⟩, ⟨28, 1, .ro, 0, .run, 0, 1⟩, ⟨29, 1, .ro, 0, .run, 0, 1⟩, ⟨30, 2, .ro, 3, .run, 0, 3⟩]⟩,
  -- PWR_Sn_LIST (R456)
  ⟨0x170108, 64, 0x10, 1, 0, .plain, [⟨0, 22, .rw, 0, .run, 0, 0x3fffff⟩, ⟨22, 10, .rwb, 0, .run, 0, 0x3ff⟩]⟩,
  -- PWR_Sn_CNT (R456)
  ⟨0x17010c, 64, 0x10, 1, 0, .plain, [⟨0, 8, .rc, 0, .run, 0, 0xff⟩, ⟨8, 8, .rc, 0, .run, 0, 0xff⟩, ⟨16, 8, .rc, 0, .run, 0, 0xff⟩, ⟨24, 8, .rc, 0, .run, 0, 0xff⟩]⟩]

/-- Registers of VGL. -/
def regRowsVGL : List RRow := [
  -- VGL_STATUS (R385)
  ⟨0x180000, 1, 0, 1, 0, .plain, [⟨0, 8, .rwb, 0, .run, 0, 0xff⟩, ⟨8, 8, .ro, 0, .run, 0, 0xff⟩, ⟨16, 11, .rwb, 0, .run, 0, 0x7ff⟩, ⟨27, 1, .ro, 0, .run, 0, 1⟩, ⟨28, 2, .ro, 0, .run, 0, 3⟩, ⟨30, 1, .ro, 0, .run, 0, 1⟩, ⟨31, 1, .ro, 0, .run, 0, 1⟩]⟩,
  -- VGL_IRQ (R385)
  ⟨0x180004, 1, 0, 1, 0, .plain, [⟨0, 1, .rc, 0, .run, 0, 1⟩, ⟨1, 1, .rc, 0, .run, 0, 1⟩, ⟨2, 1, .rc, 0, .run, 0, 1⟩, ⟨3, 29, .rwb, 0, .run, 0, 0x1fffffff⟩]⟩,
  -- VGL_IRQ_EN (R385)
  ⟨0x180008, 1, 0, 1, 0, .plain, [⟨0, 3, .rw, 0, .run, 0, 7⟩, ⟨3, 29, .rwb, 0, .run, 0, 0x1fffffff⟩]⟩,
  -- VGL_CTL (R385)
  ⟨0x18000c, 1, 0, 1, 0, .plain, [⟨0, 1, .wt, 0, .run, 0, 1⟩, ⟨1, 31, .rwb, 0, .run, 0, 0x7fffffff⟩]⟩,
  -- VGL_TCFG (R385)
  ⟨0x180010, 1, 0, 1, 0, .plain, [⟨0, 8, .ro, 0xa, .f, 0, 0xff⟩, ⟨8, 4, .rwb, 0, .run, 0, 0xf⟩, ⟨12, 4, .ro, 0, .f, 0, 0xf⟩, ⟨16, 8, .rw, 0xf0, .run, 0, 0xff⟩, ⟨24, 8, .rwb, 0, .run, 0, 0xff⟩]⟩,
  -- VGL_TEMP (R385)
  ⟨0x180014, 1, 0, 1, 0, .plain, [⟨0, 16, .ro, 0xffce, .f, 0, 0xffff⟩, ⟨16, 16, .ro, 0x87, .f, 0, 0xffff⟩]⟩,
  -- VGL_TLOG (R385)
  ⟨0x180018, 1, 0, 1, 0, .plain, [⟨0, 16, .ro, 0, .run, 0, 0xffff⟩, ⟨16, 8, .ro, 0, .run, 0, 0xff⟩, ⟨24, 8, .rwb, 0, .run, 0, 0xff⟩]⟩,
  -- VGL_TTIME (R376)
  ⟨0x18001c, 3, 4, 1, 0, .plain, [⟨0, 32, .ro, 0, .run, 0, 0xffffffff⟩]⟩,
  -- VGL_VBAT (R385)
  ⟨0x180028, 1, 0, 1, 0, .plain, [⟨0, 16, .ro, 0, .run, 0, 0xffff⟩, ⟨16, 16, .rwb, 0, .run, 0, 0xffff⟩]⟩]

/-- Registers of UPD. -/
def regRowsUPD : List RRow := [
  -- UPD_BOOT (R457)
  ⟨0x190000, 1, 0, 1, 0, .plain, [⟨0, 16, .ro, 0, .run, 0, 0xffff⟩, ⟨16, 7, .rwb, 0, .run, 0, 0x7f⟩, ⟨23, 3, .ro, 0, .run, 0, 7⟩, ⟨26, 2, .ro, 0, .run, 0, 3⟩, ⟨28, 4, .ro, 0, .run, 0, 0xf⟩]⟩,
  -- UPD_CTL (R457)
  ⟨0x190004, 1, 0, 1, 0, .plain, [⟨0, 1, .wt, 0, .run, 0, 1⟩, ⟨1, 1, .rwb, 0, .run, 0, 1⟩, ⟨2, 1, .rw, 0, .run, 0, 1⟩, ⟨3, 29, .rwb, 0, .run, 0, 0x1fffffff⟩]⟩,
  -- UPD_IRQ (R457)
  ⟨0x190008, 1, 0, 1, 0, .plain, [⟨0, 1, .rc, 0, .run, 0, 1⟩, ⟨1, 1, .rc, 0, .run, 0, 1⟩, ⟨2, 1, .rc, 0, .run, 0, 1⟩, ⟨3, 29, .rwb, 0, .run, 0, 0x1fffffff⟩]⟩,
  -- UPD_IRQ_EN (R457)
  ⟨0x19000c, 1, 0, 1, 0, .plain, [⟨0, 3, .rw, 0, .run, 0, 7⟩, ⟨3, 29, .rwb, 0, .run, 0, 0x1fffffff⟩]⟩,
  -- UPD_ELOAD (R457)
  ⟨0x190010, 1, 0, 1, 0, .plain, [⟨0, 16, .rwb, 0, .run, 0, 0xffff⟩, ⟨16, 3, .rw, 0, .run, 0, 7⟩, ⟨19, 12, .rwb, 0, .run, 0, 0xfff⟩, ⟨31, 1, .wt, 0, .run, 0, 1⟩]⟩,
  -- UPD_ELOAD_SRC (R457)
  ⟨0x190014, 1, 0, 1, 0, .plain, [⟨0, 22, .rw, 0, .run, 0, 0x3fffff⟩, ⟨22, 10, .rwb, 0, .run, 0, 0x3ff⟩]⟩,
  -- UPD_ELOAD_RES (R440)
  ⟨0x190018, 1, 0, 1, 0, .result, [⟨0, 16, .ro, 0, .run, 0, 0xffff⟩, ⟨16, 8, .ro, 0, .run, 0, 0xff⟩, ⟨24, 6, .rwb, 0, .run, 0, 0x3f⟩, ⟨30, 1, .ro, 0, .run, 0, 1⟩, ⟨31, 1, .ro, 0, .run, 0, 1⟩]⟩,
  -- UPD_VERc (R454)
  ⟨0x190020, 5, 4, 1, 0, .plain, [⟨0, 32, .ro, 0, .run, 0, 0xffffffff⟩]⟩,
  -- UPD_SVNc (R454)
  ⟨0x190040, 5, 4, 1, 0, .plain, [⟨0, 8, .ro, 0, .run, 0, 0xff⟩, ⟨8, 8, .ro, 0, .run, 0, 0xff⟩, ⟨16, 16, .rwb, 0, .run, 0, 0xffff⟩]⟩,
  -- UPD_KEYS (R457)
  ⟨0x190060, 1, 0, 1, 0, .plain, [⟨0, 4, .ro, 0, .run, 0, 0xf⟩, ⟨4, 4, .ro, 0, .run, 0, 0xf⟩, ⟨8, 24, .rwb, 0, .run, 0, 0xffffff⟩]⟩,
  -- UPD_SVC (R449)
  ⟨0x190064, 1, 0, 1, 0, .plain, [⟨0, 32, .ro, 0, .run, 0, 0xffffffff⟩]⟩,
  -- UPD_RECOV (R452)
  ⟨0x190068, 1, 0, 1, 0, .plain, [⟨0, 1, .rwb, 0, .run, 0, 1⟩, ⟨1, 5, .rw, 0, .run, 0, 0x1f⟩, ⟨6, 26, .rwb, 0, .run, 0, 0x3ffffff⟩]⟩,
  -- UPD_MBOX (R449)
  ⟨0x190070, 8, 4, 1, 0, .plain, [⟨0, 32, .rw, 0, .run, 0, 0xffffffff⟩]⟩,
  -- UPD_MBOX_GO (R452)
  ⟨0x190090, 1, 0, 1, 0, .plain, [⟨0, 1, .wt, 0, .run, 0, 1⟩, ⟨1, 31, .rwb, 0, .run, 0, 0x7fffffff⟩]⟩,
  -- UPD_MBOX_RES (R449)
  ⟨0x190094, 1, 0, 1, 0, .plain, [⟨0, 32, .rw, 0, .run, 0, 0xffffffff⟩]⟩,
  -- UPD_RCMD (R457)
  ⟨0x1900a0, 1, 0, 1, 0, .plain, [⟨0, 12, .rw, 0, .run, 4, 0x408⟩, ⟨12, 19, .rwb, 0, .run, 0, 0x7ffff⟩, ⟨31, 1, .wt, 0, .run, 0, 1⟩]⟩,
  -- UPD_RRES (R453)
  ⟨0x1900a4, 1, 0, 1, 0, .result, [⟨0, 16, .ro, 0, .run, 0, 0xffff⟩, ⟨16, 8, .ro, 0, .run, 0, 0xff⟩, ⟨24, 6, .rwb, 0, .run, 0, 0x3f⟩, ⟨30, 1, .ro, 0, .run, 0, 1⟩, ⟨31, 1, .ro, 0, .run, 0, 1⟩]⟩,
  -- UPD_RBUF (R453)
  ⟨0x191000, 1024, 4, 1, 0, .plain, [⟨0, 32, .wo, 0, .run, 0, 0xffffffff⟩]⟩,
  -- UPD_ROUT (R453)
  ⟨0x192000, 64, 4, 1, 0, .plain, [⟨0, 32, .ro, 0, .run, 0, 0xffffffff⟩]⟩]

/-- Registers of BOM. -/
def regRowsBOM : List RRow := [
  -- BOM_CTL (R426)
  ⟨0x1a0000, 1, 0, 1, 0, .plain, [⟨0, 1, .rw, 0, .run, 0, 1⟩, ⟨1, 1, .rw, 0, .run, 0, 1⟩, ⟨2, 30, .rwb, 0, .run, 0, 0x3fffffff⟩]⟩,
  -- BOM_WPTR (R419)
  ⟨0x1a0004, 1, 0, 1, 0, .plain, [⟨0, 32, .ro, 0, .run, 0, 0xffffffff⟩]⟩,
  -- BOM_IRQ (R426)
  ⟨0x1a0008, 1, 0, 1, 0, .plain, [⟨0, 1, .rc, 0, .run, 0, 1⟩, ⟨1, 1, .rc, 0, .run, 0, 1⟩, ⟨2, 1, .rc, 0, .run, 0, 1⟩, ⟨3, 1, .rc, 0, .run, 0, 1⟩, ⟨4, 28, .rwb, 0, .run, 0, 0xfffffff⟩]⟩,
  -- BOM_IRQ_EN (R426)
  ⟨0x1a000c, 1, 0, 1, 0, .plain, [⟨0, 4, .rw, 0, .run, 0, 0xf⟩, ⟨4, 28, .rwb, 0, .run, 0, 0xfffffff⟩]⟩,
  -- BOM_CMD (R426)
  ⟨0x1a0010, 1, 0, 1, 0, .plain, [⟨0, 3, .rw, 0, .run, 0, 7⟩, ⟨3, 13, .rwb, 0, .run, 0, 0x1fff⟩, ⟨16, 2, .rw, 0, .run, 0, 3⟩, ⟨18, 13, .rwb, 0, .run, 0, 0x1fff⟩, ⟨31, 1, .wt, 0, .run, 0, 1⟩]⟩,
  -- BOM_CMD_RES (R421)
  ⟨0x1a0014, 1, 0, 1, 0, .result, [⟨0, 16, .ro, 0, .run, 0, 0xffff⟩, ⟨16, 8, .ro, 0, .run, 0, 0xff⟩, ⟨24, 6, .rwb, 0, .run, 0, 0x3f⟩, ⟨30, 1, .ro, 0, .run, 0, 1⟩, ⟨31, 1, .ro, 0, .run, 0, 1⟩]⟩,
  -- BOM_REW_IDX (R421)
  ⟨0x1a0018, 1, 0, 1, 0, .plain, [⟨0, 32, .ro, 0, .run, 0, 0xffffffff⟩]⟩,
  -- BOM_SCUR (R422)
  ⟨0x1a001c, 1, 0, 1, 0, .plain, [⟨0, 32, .ro, 0, .run, 0, 0xffffffff⟩]⟩,
  -- BOM_STREAM (R426)
  ⟨0x1a0020, 1, 0, 1, 0, .plain, [⟨0, 1, .rwb, 0, .run, 0, 1⟩, ⟨1, 6, .rw, 0x3f, .a, 0, 0x3f⟩, ⟨7, 25, .rwb, 0, .run, 0, 0x1ffffff⟩]⟩,
  -- BOM_STAT (R426)
  ⟨0x1a0024, 1, 0, 1, 0, .plain, [⟨0, 8, .rwb, 0, .run, 0, 0xff⟩, ⟨8, 8, .rc, 0, .run, 0, 0xff⟩, ⟨16, 16, .rc, 0, .run, 0, 0xffff⟩]⟩,
  -- BOM_FIRST (R426)
  ⟨0x1a0028, 1, 0, 1, 0, .plain, [⟨0, 3, .ro, 0, .run, 0, 7⟩, ⟨3, 5, .rwb, 0, .run, 0, 0x1f⟩, ⟨8, 5, .ro, 0, .run, 0, 0x1f⟩, ⟨13, 17, .rwb, 0, .run, 0, 0x1ffff⟩, ⟨30, 1, .rc, 0, .run, 0, 1⟩, ⟨31, 1, .rc, 0, .run, 0, 1⟩]⟩,
  -- BOM_FIRST_T (R410)
  ⟨0x1a002c, 3, 4, 1, 0, .plain, [⟨0, 32, .ro, 0, .run, 0, 0xffffffff⟩]⟩,
  -- BOM_INJ (R426)
  ⟨0x1a0038, 1, 0, 1, 0, .plain, [⟨0, 5, .rw, 0, .run, 0, 0x1f⟩, ⟨5, 24, .rwb, 0, .run, 0, 0xffffff⟩, ⟨29, 1, .rw, 0, .run, 0, 1⟩, ⟨30, 1, .ro, 0, .run, 0, 1⟩, ⟨31, 1, .wt, 0, .run, 0, 1⟩]⟩,
  -- BOM_TEST (R426)
  ⟨0x1a003c, 1, 0, 1, 0, .plain, [⟨0, 4, .rw, 0, .run, 0, 0xf⟩, ⟨4, 4, .rwb, 0, .run, 0, 0xf⟩, ⟨8, 3, .rw, 0, .run, 0, 7⟩, ⟨11, 19, .rwb, 0, .run, 0, 0x7ffff⟩, ⟨30, 1, .rw, 0, .run, 0, 1⟩, ⟨31, 1, .wt, 0, .run, 0, 1⟩]⟩,
  -- BOM_TEST_RES (R416)
  ⟨0x1a0040, 1, 0, 1, 0, .result, [⟨0, 16, .ro, 0, .run, 0, 0xffff⟩, ⟨16, 8, .ro, 0, .run, 0, 0xff⟩, ⟨24, 6, .rwb, 0, .run, 0, 0x3f⟩, ⟨30, 1, .ro, 0, .run, 0, 1⟩, ⟨31, 1, .ro, 0, .run, 0, 1⟩]⟩,
  -- BOM_SCRUB (R426)
  ⟨0x1a0044, 1, 0, 1, 0, .plain, [⟨0, 12, .rw, 0xa, .a, 1, 0xe10⟩, ⟨12, 20, .rwb, 0, .run, 0, 0xfffff⟩]⟩,
  -- BOM_FWREC (R419)
  ⟨0x1a0048, 1, 0, 1, 0, .plain, [⟨0, 16, .wt, 0, .run, 0, 0xffff⟩, ⟨16, 16, .wt, 0, .run, 0, 0xffff⟩]⟩,
  -- BOM_FWREC_DATA_LO (R419)
  ⟨0x1a004c, 1, 0, 1, 0, .plain, [⟨0, 32, .rw, 0, .run, 0, 0xffffffff⟩]⟩,
  -- BOM_FWREC_DATA_HI (R419)
  ⟨0x1a0050, 1, 0, 1, 0, .plain, [⟨0, 32, .rw, 0, .run, 0, 0xffffffff⟩]⟩,
  -- BOM_MARKn_IDX (R420)
  ⟨0x1a0060, 8, 8, 1, 0, .plain, [⟨0, 32, .ro, 0, .run, 0, 0xffffffff⟩]⟩,
  -- BOM_MARKn_ST (R426)
  ⟨0x1a0064, 8, 8, 1, 0, .plain, [⟨0, 2, .ro, 0, .run, 0, 3⟩, ⟨2, 30, .rwb, 0, .run, 0, 0x3fffffff⟩]⟩,
  -- BOM_FWs (R426)
  ⟨0x1a0100, 27, 4, 1, 0, .plain, [⟨0, 7, .rc, 0, .run, 0, 0x7f⟩, ⟨7, 1, .rc, 0, .run, 0, 1⟩, ⟨8, 16, .rwb, 0, .run, 0, 0xffff⟩, ⟨24, 8, .rc, 0, .run, 0, 0xff⟩]⟩,
  -- BOM_REACTs (R426)
  ⟨0x1a0180, 27, 4, 1, 0, .plain, [⟨0, 14, .rw, 0x2aaa, .a, 0, 0x3fff⟩, ⟨14, 18, .rwb, 0, .run, 0, 0x3ffff⟩]⟩]

/-- Parameter registers of a slice with personality UART (R201). -/
def regRowsPersUART : List RRow := [
  -- PSL_Sn_P0
  ⟨0xa1040, 48, 0x100, 1, 0, .plain, [⟨0, 3, .rw, 3, .a, 0, 4⟩, ⟨3, 1, .rw, 0, .a, 0, 1⟩, ⟨4, 2, .rw, 0, .a, 0, 3⟩, ⟨6, 1, .rw, 0, .a, 0, 1⟩, ⟨7, 1, .rw, 0, .a, 0, 1⟩, ⟨8, 8, .rw, 0xd, .a, 0, 0xff⟩, ⟨16, 8, .rw, 0, .a, 0, 0xff⟩, ⟨24, 4, .rwb, 0, .run, 0, 0xf⟩, ⟨28, 2, .rw, 0, .a, 0, 1⟩, ⟨30, 2, .rw, 0, .a, 0, 2⟩]⟩,
  -- PSL_Sn_P1
  ⟨0xa1044, 48, 0x100, 1, 0, .plain, [⟨0, 32, .rw, 0x60a30, .a, 0, 0xffffffff⟩]⟩,
  -- PSL_Sn_P2
  ⟨0xa1048, 48, 0x100, 1, 0, .plain, [⟨0, 16, .rw, 0, .a, 0, 0x6f9⟩, ⟨16, 16, .rw, 0x10, .a, 0, 0xffff⟩]⟩]

/-- Parameter registers of a slice with personality SPI (R201). -/
def regRowsPersSPI : List RRow := [
  -- PSL_Sn_P0
  ⟨0xa1040, 48, 0x100, 1, 0, .plain, [⟨0, 16, .rw, 0x18, .a, 0xc, 0xffff⟩, ⟨16, 8, .rw, 0xff, .a, 0, 0xff⟩, ⟨24, 1, .rwb, 0, .run, 0, 1⟩, ⟨25, 2, .rw, 0, .a, 0, 1⟩, ⟨27, 1, .rw, 0, .a, 0, 1⟩, ⟨28, 1, .rw, 0, .a, 0, 1⟩, ⟨29, 1, .rw, 0, .a, 0, 1⟩, ⟨30, 1, .rw, 0, .a, 0, 1⟩, ⟨31, 1, .rw, 0, .a, 0, 1⟩]⟩,
  -- PSL_Sn_P1
  ⟨0xa1044, 48, 0x100, 1, 0, .plain, [⟨0, 16, .rw, 8, .a, 1, 0xffff⟩, ⟨16, 16, .rw, 8, .a, 1, 0xffff⟩]⟩]

/-- Parameter registers of a slice with personality I2C (R201). -/
def regRowsPersI2C : List RRow := [
  -- PSL_Sn_P0
  ⟨0xa1040, 48, 0x100, 1, 0, .plain, [⟨0, 8, .rwb, 0, .run, 0, 0xff⟩, ⟨8, 8, .rw, 0xa, .a, 1, 0xff⟩, ⟨16, 16, .rw, 0x30c, .a, 0x138, 0xffff⟩]⟩]

/-- Parameter registers of a slice with personality SSI (R201). -/
def regRowsPersSSI : List RRow := [
  -- PSL_Sn_P0
  ⟨0xa1040, 48, 0x100, 1, 0, .plain, [⟨0, 16, .rw, 0x7c, .a, 0x3e, 0x1869⟩, ⟨16, 2, .rwb, 0, .run, 0, 3⟩, ⟨18, 1, .rw, 0, .a, 0, 1⟩, ⟨19, 2, .rw, 0, .a, 0, 2⟩, ⟨21, 2, .rw, 0, .a, 0, 2⟩, ⟨23, 2, .rw, 0, .a, 0, 3⟩, ⟨25, 1, .rw, 1, .a, 0, 1⟩, ⟨26, 6, .rw, 0x18, .a, 0, 0x3f⟩]⟩,
  -- PSL_Sn_P1
  ⟨0xa1044, 48, 0x100, 1, 0, .plain, [⟨0, 16, .rw, 0x3e8, .a, 0xa, 0xffff⟩, ⟨16, 16, .rw, 0xc8, .a, 0xa, 0xffff⟩]⟩,
  -- PSL_Sn_P2
  ⟨0xa1048, 48, 0x100, 1, 0, .plain, [⟨0, 32, .ro, 0, .run, 0, 0xffffffff⟩]⟩,
  -- PSL_Sn_P3
  ⟨0xa104c, 48, 0x100, 1, 0, .plain, [⟨0, 32, .ro, 0, .run, 0, 0xffffffff⟩]⟩,
  -- PSL_Sn_P4
  ⟨0xa1050, 48, 0x100, 1, 0, .plain, [⟨0, 32, .ro, 0, .run, 0, 0xffffffff⟩]⟩,
  -- PSL_Sn_P5
  ⟨0xa1054, 48, 0x100, 1, 0, .plain, [⟨0, 32, .ro, 0, .run, 0, 0xffffffff⟩]⟩,
  -- PSL_Sn_P6
  ⟨0xa1058, 48, 0x100, 1, 0, .plain, [⟨0, 16, .ro, 0, .run, 0, 0xffff⟩, ⟨16, 16, .rwb, 0, .run, 0, 0xffff⟩]⟩,
  -- PSL_Sn_P7
  ⟨0xa105c, 48, 0x100, 1, 0, .plain, [⟨0, 1, .rc, 0, .run, 0, 1⟩, ⟨1, 1, .rc, 0, .run, 0, 1⟩, ⟨2, 1, .rc, 0, .run, 0, 1⟩, ⟨3, 13, .rwb, 0, .run, 0, 0x1fff⟩, ⟨16, 8, .ro, 0, .run, 0, 0xff⟩, ⟨24, 8, .rwb, 0, .run, 0, 0xff⟩]⟩]

/-- Parameter registers of a slice with personality QUAD (R201). -/
def regRowsPersQUAD : List RRow := [
  -- PSL_Sn_P0
  ⟨0xa1040, 48, 0x100, 1, 0, .plain, [⟨0, 20, .rwb, 0, .run, 0, 0xfffff⟩, ⟨20, 4, .rw, 1, .a, 0, 0xf⟩, ⟨24, 3, .rwb, 0, .run, 0, 7⟩, ⟨27, 1, .rw, 0, .a, 0, 1⟩, ⟨28, 2, .rw, 0, .a, 0, 2⟩, ⟨30, 2, .rw, 2, .a, 0, 3⟩]⟩,
  -- PSL_Sn_P1
  ⟨0xa1044, 48, 0x100, 1, 0, .plain, [⟨0, 32, .ro, 0, .run, 0, 0xffffffff⟩]⟩,
  -- PSL_Sn_P2
  ⟨0xa1048, 48, 0x100, 1, 0, .plain, [⟨0, 32, .ro, 0, .run, 0, 0xffffffff⟩]⟩,
  -- PSL_Sn_P3
  ⟨0xa104c, 48, 0x100, 1, 0, .plain, [⟨0, 32, .ro, 0, .run, 0, 0xffffffff⟩]⟩,
  -- PSL_Sn_P4
  ⟨0xa1050, 48, 0x100, 1, 0, .plain, [⟨0, 32, .ro, 0, .run, 0, 0xffffffff⟩]⟩,
  -- PSL_Sn_P5
  ⟨0xa1054, 48, 0x100, 1, 0, .plain, [⟨0, 32, .ro, 0, .run, 0, 0xffffffff⟩]⟩,
  -- PSL_Sn_P6
  ⟨0xa1058, 48, 0x100, 1, 0, .plain, [⟨0, 32, .ro, 0, .run, 0, 0xffffffff⟩]⟩,
  -- PSL_Sn_P7
  ⟨0xa105c, 48, 0x100, 1, 0, .plain, [⟨0, 16, .ro, 0, .run, 0, 0xffff⟩, ⟨16, 16, .rwb, 0, .run, 0, 0xffff⟩]⟩,
  -- PSL_Sn_P8
  ⟨0xa1060, 48, 0x100, 1, 0, .plain, [⟨0, 1, .rc, 0, .run, 0, 1⟩, ⟨1, 1, .rc, 0, .run, 0, 1⟩, ⟨2, 1, .rc, 0, .run, 0, 1⟩, ⟨3, 28, .rwb, 0, .run, 0, 0xfffffff⟩, ⟨31, 1, .ro, 0, .run, 0, 1⟩]⟩]

/-- Parameter registers of a slice with personality PULSE (R201). -/
def regRowsPersPULSE : List RRow := [
  -- PSL_Sn_P0
  ⟨0xa1040, 48, 0x100, 1, 0, .plain, [⟨0, 16, .rwb, 0, .run, 0, 0xffff⟩, ⟨16, 8, .rw, 0, .a, 0, 0xff⟩, ⟨24, 3, .rwb, 0, .run, 0, 7⟩, ⟨27, 1, .rw, 0, .a, 0, 1⟩, ⟨28, 1, .rw, 0, .a, 0, 1⟩, ⟨29, 1, .rw, 0, .a, 0, 1⟩, ⟨30, 2, .rw, 0, .a, 0, 2⟩]⟩,
  -- PSL_Sn_P1
  ⟨0xa1044, 48, 0x100, 1, 0, .plain, [⟨0, 32, .rw, 0x4e2, .run, 0, 0xffffffff⟩]⟩,
  -- PSL_Sn_P2
  ⟨0xa1048, 48, 0x100, 1, 0, .plain, [⟨0, 32, .rw, 0x271, .run, 0, 0xffffffff⟩]⟩,
  -- PSL_Sn_P3
  ⟨0xa104c, 48, 0x100, 1, 0, .plain, [⟨0, 32, .rw, 1, .run, 1, 0xffffffff⟩]⟩,
  -- PSL_Sn_P4
  ⟨0xa1050, 48, 0x100, 1, 0, .plain, [⟨0, 1, .rw, 0, .run, 0, 1⟩, ⟨1, 31, .rwb, 0, .run, 0, 0x7fffffff⟩]⟩,
  -- PSL_Sn_P5
  ⟨0xa1054, 48, 0x100, 1, 0, .plain, [⟨0, 29, .rwb, 0, .run, 0, 0x1fffffff⟩, ⟨29, 1, .rc, 0, .run, 0, 1⟩, ⟨30, 1, .rc, 0, .run, 0, 1⟩, ⟨31, 1, .ro, 0, .run, 0, 1⟩]⟩,
  -- PSL_Sn_P6
  ⟨0xa1058, 48, 0x100, 1, 0, .plain, [⟨0, 32, .ro, 0, .run, 0, 0xffffffff⟩]⟩]

/-- Parameter registers of a slice with personality IOL (R201). -/
def regRowsPersIOL : List RRow := [
  -- PSL_Sn_P0
  ⟨0xa1040, 48, 0x100, 1, 0, .plain, [⟨0, 8, .rw, 0, .a, 0, 0x20⟩, ⟨8, 8, .rw, 0, .a, 0, 0x20⟩, ⟨16, 8, .rw, 0, .a, 0, 0xff⟩, ⟨24, 2, .rwb, 0, .run, 0, 3⟩, ⟨26, 1, .rw, 0, .a, 0, 1⟩, ⟨27, 2, .rw, 0, .a, 0, 3⟩, ⟨29, 3, .rw, 0, .a, 0, 4⟩]⟩,
  -- PSL_Sn_P1
  ⟨0xa1044, 48, 0x100, 1, 0, .plain, [⟨0, 16, .rwb, 0, .run, 0, 0xffff⟩, ⟨16, 16, .rw, 0, .a, 0, 0xffff⟩]⟩,
  -- PSL_Sn_P2
  ⟨0xa1048, 48, 0x100, 1, 0, .plain, [⟨0, 24, .rw, 0, .a, 0, 0xffffff⟩, ⟨24, 8, .rwb, 0, .run, 0, 0xff⟩]⟩,
  -- PSL_Sn_P3
  ⟨0xa104c, 48, 0x100, 1, 0, .plain, [⟨0, 8, .rc, 0, .run, 0, 0xff⟩, ⟨8, 8, .rc, 0, .run, 0, 0xff⟩, ⟨16, 9, .rwb, 0, .run, 0, 0x1ff⟩, ⟨25, 1, .ro, 0, .run, 0, 1⟩, ⟨26, 2, .ro, 0, .run, 0, 3⟩, ⟨28, 4, .ro, 0, .run, 0, 0xf⟩]⟩]

/-- The registers of the block at bits 23 to 16 of an offset (R25). -/
def regRows (block : Nat) : List RRow :=
  match block with
  | 0 => regRowsGLB
  | 1 => regRowsALM
  | 4 => regRowsTIM0 ++ regRowsTIM1
  | 5 => regRowsTLY
  | 6 => regRowsSCH
  | 7 => regRowsSLC0 ++ regRowsSLC1
  | 8 => regRowsFLD
  | 9 => regRowsCHK
  | 0xa => regRowsPSL
  | 0xb => regRowsCAN0 ++ regRowsCAN1
  | 0xc => regRowsSAW0 ++ regRowsSAW1
  | 0x10 => regRowsCRL0 ++ regRowsCRL1
  | 0x11 => regRowsSWC
  | 0x12 => regRowsBRG0 ++ regRowsBRG1
  | 0x13 => regRowsDMX
  | 0x14 => regRowsCPH
  | 0x15 => regRowsKEY
  | 0x16 => regRowsSTT0 ++ regRowsSTT1
  | 0x17 => regRowsPWR
  | 0x18 => regRowsVGL
  | 0x19 => regRowsUPD
  | 0x1a => regRowsBOM
  | _ => []

/-- The parameter registers of a slice of a personality (R176, R201). -/
def regRowsPers (pers : Nat) : List RRow :=
  match pers with
  | 1 => regRowsPersUART
  | 2 => regRowsPersSPI
  | 3 => regRowsPersSPI
  | 4 => regRowsPersI2C
  | 5 => regRowsPersSSI
  | 6 => regRowsPersQUAD
  | 7 => regRowsPersPULSE
  | 8 => regRowsPersIOL
  | _ => []

end Sys2Proof.Machine
end

