-- ==== Sys2Proof/Machine/Access.lean ====
section
/-!
DEFINITION. Finding a register in the access table, and what its word is made of: shared by register accesses (02) and by
the loading and checking of Almanac sections (03).
-/

namespace Sys2Proof.Machine

/-- Whether an offset is one of a row's registers. -/
def RRow.holds (r : RRow) (off : Nat) : Bool :=
  let d := off - r.off
  decide (r.off ≤ off) &&
    (if r.m ≤ 1 then (if r.n ≤ 1 then d == 0 else d % r.stride == 0 && decide (d / r.stride < r.n))
     else decide (d / r.stride < r.n) && d % r.stride % r.stride2 == 0 && decide (d % r.stride / r.stride2 < r.m))

/-- Whether an offset is one of the parameter registers P0 to P15 of a slice (R201). -/
def isParam (off : Nat) : Bool :=
  decide (0xA1000 ≤ off) && decide (off < 0xA4000) && decide (0x40 ≤ off % 0x100) && decide (off % 0x100 < 0x80)

/-- The slice whose register lies at an offset of the PSL block. -/
def sliceAt (off : Nat) : Nat := (off - 0xA1000) / 0x100

/-- The row of the register at an offset; `pers` is the personality of the slice, for a parameter register. -/
def findRow (off pers : Nat) : Option RRow :=
  if isParam off then (regRowsPers pers).find? (·.holds off) else (regRows (off / 0x10000)).find? (·.holds off)

/-- The place at which a register's fields are filed: parameter registers by personality, banked registers by bank. -/
def RRow.place (r : RRow) (off pers bank : Nat) : Nat :=
  if isParam off then off + pers * 2 ^ 28
  else match r.kind with
    | .banked => off + bank * 2 ^ 28
    | .bankedResult => off + bank * 2 ^ 28
    | _ => off

/-- The value at reset of a field whose instances differ: GUAR of class 7 (R312), and BANK of slices 24 to 47 (R200). -/
def rstAt (place lo rst : Nat) : Nat :=
  if place = (F.SWC_Cc_GUAR_GUAR 7).off ∧ lo = 0 then (F.SWC_Cc_GUAR_GUAR 7).rst
  else if lo = (F.PSL_Sn_CFG_BANK 24).lo ∧ (F.PSL_Sn_CFG_BANK 24).off ≤ place ∧ place < 0xA4000 ∧ place % 0x100 = 0 then 1
  else rst

/-- The handle of a field. -/
def FRow.fld (f : FRow) (place : Nat) : Fld := ⟨place, f.lo, f.w, rstAt place f.lo f.rst⟩

/-- A field's part of a word. -/
def FRow.of (f : FRow) (word : Nat) : Nat := bits word f.lo f.w

/-- Whether a word gives every RW and class F field a value in its range, and every reserved field 0. -/
def fieldsFit (fields : List FRow) (word : Nat) : Bool :=
  fields.all (fun f =>
    match f.acc with
    | .rwb => f.of word == 0
    | .rw => decide (f.min ≤ f.of word) && decide (f.of word ≤ f.max)
    | .ro => if f.cls = .f then decide (f.min ≤ f.of word) && decide (f.of word ≤ f.max) else f.of word == 0
    | _ => f.of word == 0)

/-- Whether a word of an Almanac section is one that the register at an offset could hold. -/
def wordFits (off pers word : Nat) : Bool :=
  match findRow off pers with
  | some r => fieldsFit r.fields word
  | none => word == 0

/-- A field takes an Almanac's value, as its class asks (R64, R68). -/
def State.loadField (s : State) (f : FRow) (place v : Nat) : State :=
  match f.cls with
  | .a => s.loadA (f.fld place) v
  | .f => s.wr (f.fld place) v
  | .run => if f.acc = .rw then s.wr (f.fld place) v else s

/-- A register takes a word of an Almanac section. -/
def State.loadReg (s : State) (off pers word : Nat) : State :=
  match findRow off pers with
  | some r => r.fields.foldl (fun t f => t.loadField f (r.place off pers 0) (f.of word)) s
  | none => s

/-- A number with w bits from bit lo replaced by those of v. -/
def putBits (x lo w v : Nat) : Nat := x - bits x lo w * 2 ^ lo + v % 2 ^ w * 2 ^ lo

/-- Bits of a class A field that several sections share take an Almanac's value. -/
def State.loadBits (s : State) (f : Fld) (lo w v : Nat) : State :=
  let cur := putBits (s.rd f) lo w v
  let s := { s with alm := { s.alm with values := s.alm.values.put f.key (putBits (s.almValue f) lo w v) f.rst } }
  let s := (s.wr f cur).markLoaded f
  if s.rd f = s.almValue f then s.setDeparting (s.alm.departing.filter (fun k => k != f.key)) else s

/-- The handle of the field filed under a key. -/
def fldOfKey (key : Nat) : Option Fld :=
  let place := key / 32
  let off := place % 2 ^ 28
  (findRow off (place / 2 ^ 28)).bind (fun r => (r.fields.find? (fun f => f.lo == key % 32)).map (fun f => f.fld place))

/-- Every departure ends: the fields take the Almanac's values (R68). -/
def State.endDepartures (s : State) (keys : List Nat) : State :=
  let s := keys.foldl (fun t k => match fldOfKey k with
    | some f => t.wr f (t.almValue f)
    | none => t) s
  s.setDeparting (s.alm.departing.filter (fun k => !(keys.contains k)))

/-- The registers at the places that `p` names go back to their reset values; the Almanac's values of their fields too. -/
def State.clearRegs (s : State) (p : Nat → Bool) : State :=
  { s with
    regs := s.regs.filter (fun x => !(p (x.1 / 32)))
    alm := { s.alm with values := s.alm.values.filter (fun x => !(p (x.1 / 32)))
                        departing := s.alm.departing.filter (fun k => !(p (k / 32))) } }

end Sys2Proof.Machine
end

