-- ==== Sys2Proof/Machine/Can.lean ====
section
/-! DEFINITION. CAN channels: buffers, FIFOs, filters, remote queues, errors, guardians and rate detection (08). -/

namespace Sys2Proof.Machine

/-! Windows and buffers (R205, R206) -/

def State.canSt (s : State) (c : Nat) : CanState := s.cans.getD c {}
def State.setCan (s : State) (c : Nat) (x : CanState) : State := { s with cans := s.cans.put c x {} }

/-- Region 0x2 offsets of a channel's window, a buffer, a filter element. -/
def canWindow (c : Nat) : Nat := 0x30000 + 0x4000 * c
def canBuf (c b : Nat) : Nat := canWindow c + 0x80 * b
def canFilt (c k : Nat) : Nat := canWindow c + 0x3000 + 8 * k

def State.bufWord (s : State) (c b off : Nat) : Nat := s.le 2 (canBuf c b + off) 4
def State.setBufWord (s : State) (c b off v : Nat) : State := s.store 2 (canBuf c b + off) (leBytes 4 v)

/-- MODE of a buffer: 1 TX, 2 RX. -/
def State.bufMode (s : State) (c b : Nat) : Nat := bits (s.bufWord c b 4) 30 2

/-- A bit of STAT. -/
def State.statBit (s : State) (c b n : Nat) : Bool := bit (s.bufWord c b 0x0C) n
def State.setStat (s : State) (c b n : Nat) (v : Bool) : State :=
  s.setBufWord c b 0x0C (setBit (s.bufWord c b 0x0C) n v)

/-- Numbers of the STAT bits of R206. -/
def stPend : Nat := 31
def stFull : Nat := 30
def stOvr : Nat := 29
def stSent : Nat := 28
def stHeld : Nat := 27
def stGuardSent : Nat := 26
def stGuardFail : Nat := 25
def stExpired : Nat := 24
def stArbLost : Nat := 23
def stTxErr : Nat := 22
def stEsi : Nat := 21
def stDefer : Nat := 20

/-- Data bytes of a DLC, in classical and in FD format. -/
def dlcBytes (fdf : Bool) (dlc : Nat) : Nat :=
  if dlc ≤ 8 then dlc
  else if fdf then [12, 16, 20, 24, 32, 48, 64].getD (dlc - 9) 64
  else 8

/-- The frame a buffer holds. -/
def State.bufFrame (s : State) (c b : Nat) : CanFrame :=
  let ctl := s.bufWord c b 4
  let fdf := bit ctl 29
  { id := s.bufWord c b 0, fdf := fdf, brs := bit ctl 28 && s.on (F.CAN_Cc_CTL_BRSE c), dlc := bits ctl 16 4
    data := if bit (s.bufWord c b 0) 30 then [] else s.bytes 2 (canBuf c b + 0x20) (dlcBytes fdf (bits ctl 16 4)) }

/-! Channel conditions -/

/-- Error states of R220. -/
def State.canEstate (s : State) (c : Nat) : Nat := s.rd (F.CAN_Cc_STATUS_ESTATE c)

/-- Listen-only in effect: a hub that does not drive, or LOM, which lets a frame in progress complete first (R217). -/
def State.canListens (s : State) (c : Nat) : Bool :=
  !s.drives || (s.on (F.CAN_Cc_CTL_LOM c) && !(s.canSt c).lomLate)

/-- The channel runs: it has a section (R53), and is enabled or within its last frame (R224). -/
def State.canRuns (s : State) (c : Nat) : Bool := bit s.canned c && (s.on (F.CAN_Cc_CTL_EN c) || (s.canSt c).stopping)

/-- A violation or error of a channel: one record per class and channel per 100 ms (R223). -/
def State.canRecord (s : State) (c cls : Nat) (data : Nat := 0) : State :=
  s.boomLimited (0x200000 + 0x100 * c + cls) { code := 0, kind := 3, unit := c, data := data, writer := 0x0B }

/-- A Boom record of a channel's state (R218, R210, R220, R221). -/
def State.canBoom (s : State) (c : Nat) : State := s.boomState 0x0B c (s.canEstate c)

/-! Requests and guardians (R208, R221) -/

/-- Whether a channel can take a guardian copy (R221). -/
def State.canGuards (s : State) (g : Nat) : Bool :=
  s.on (F.CAN_Cc_CTL_EN g) && !(s.on (F.CAN_Cc_CTL_LOM g)) && s.drives && s.canEstate g != 2 &&
    decide ((s.canSt g).remote.length < 16)

/-- A frame enters a channel's remote queue, or is discarded (R215). -/
def State.toRemote (s : State) (c : Nat) (e : RemoteEntry) : State :=
  let x := s.canSt c
  if x.remote.length < 16 then
    s.setCan c { x with remote := x.remote ++ [{ e with serial := x.nextEntry }], nextEntry := x.nextEntry + 1 }
  else s.bump (F.CAN_Cc_CNT1_RQ_DROP c)

/-- The payload of a TUNNEL or GUARD frame that carries a CAN frame (R288). -/
def canPayload (unit : Nat) (f : CanFrame) (info ts : Nat) : List Nat :=
  [1, unit, 0, 0] ++ leBytes 4 f.id ++ leBytes 4 info ++ leBytes 12 ts ++
    bytesAt f.data 0 ((f.data.length + 3) / 4 * 4)

/-- INFO of a FIFO element (R214). -/
def canInfo (f : CanFrame) (loss : Bool) (filt : Nat) : Nat :=
  2 ^ 30 * b2n loss + 2 ^ 29 * b2n f.fdf + 2 ^ 28 * b2n f.brs + 2 ^ 27 * b2n f.esi + 2 ^ 16 * filt + f.dlc

/-- The guard frame of a held buffer (R221, R288). -/
def State.guardFrame (s : State) (c b : Nat) : Frame :=
  let f := s.bufFrame c b
  { typ := 9, tc := 7, dup := true, dest := s.rd (F.CAN_Cc_GUARD_GUARD_DEST c),
    payload := canPayload (s.rd (F.CAN_Cc_GUARD_GUARD_CH c)) f (canInfo f false 0) 0 }

/-- No guardian copy could be placed (R221). -/
def State.guardFails (s : State) (c b : Nat) : State :=
  ((s.setStat c b stGuardFail true).raise (F.CAN_Cc_IRQ_GUARD_FAIL c)).canBoom c

/-- The cycle of a pending buffer's deadline (R210). -/
def State.canDeadline (s : State) (c b : Nat) : Option Nat :=
  if s.bufWord c b 8 = 0 then none else some ((s.canSt c).asked.getD b s.clk + usClk (s.bufWord c b 8))

/-- A held buffer with GUARD is passed to the guardian, once per bus-off (R221). -/
def State.passGuardian (s : State) (c b : Nat) : State :=
  let x := s.canSt c
  if !(bit (s.bufWord c b 4) 27) || bit x.passed b then s
  else
    let s := s.setCan c { x with passed := setBit x.passed b true }
    let g := s.rd (F.CAN_Cc_GUARD_GUARD c)
    if g = 0x80 then
      (s.setCan c { s.canSt c with guarding := setBit (s.canSt c).guarding b true }).send 9 (s.guardFrame c b)
    else if g < 16 ∧ g ≠ c then
      if s.canGuards g then
        (s.toRemote g { frame := s.bufFrame c b, source := some (c, b), deadline := s.canDeadline c b }).mark (.copyPlaced g c b)
      else s.guardFails c b
    else s

/-- A transmission request of a buffer (R208). -/
def State.canRequest (s : State) (c b : Nat) : State :=
  if s.bufMode c b ≠ 1 then s.raise (F.CAN_Cc_IRQ_BADREQ c)
  else if s.statBit c b stPend then s.bump (F.CAN_Cc_CNT2_REQ_DUP c)
  else
    let keep := (s.bufWord c b 0x0C) % 2 ^ 22 / 2 ^ 20 * 2 ^ 20 + (s.bufWord c b 0x0C) / 2 ^ 29 % 4 * 2 ^ 29
    let s := s.setBufWord c b 0x0C (2 ^ 31 + keep)
    let s := s.setCan c { s.canSt c with asked := (s.canSt c).asked.insert b s.clk }
    if s.canEstate c = 2 then (s.setStat c b stHeld true).passGuardian c b else s

/-- Bytes written by the harvest into a TX buffer, with its request when HTX = 1 (R211). -/
def State.canHarvest (s : State) (c b : Nat) (bs : List (Nat × Nat)) : State :=
  if s.statBit c b stPend then
    (s.setCan c { s.canSt c with deferred := (s.canSt c).deferred.insert b bs }).setStat c b stDefer true
  else
    let s := bs.foldl (fun t p => t.store 2 (canBuf c b + 0x20 + p.1) [p.2]) s
    if bit (s.bufWord c b 4) 26 then s.canRequest c b else s

/-- PEND has fallen: a deferred harvest write is applied (R211). -/
def State.canPendFell (s : State) (c b : Nat) : State :=
  let s := s.setCan c { s.canSt c with asked := (s.canSt c).asked.erase b }
  match (s.canSt c).deferred.get? b with
  | none => s
  | some bs =>
    let s := s.setCan c { s.canSt c with deferred := (s.canSt c).deferred.erase b }
    (s.setStat c b stDefer false).canHarvest c b bs

/-- CAN_TX_REQUEST: a write to CAN_Cc_TXREQ0 or TXREQ1. -/
def State.canTxReq (s : State) (c k mask : Nat) : State :=
  (setBits mask 32).foldl (fun t j => t.canRequest c (32 * k + j)) s

def execCanTxRequest (channel : Fin 16) (k : Fin 2) (buffers : BitVec 32) (s : State) : Res :=
  guarded s (fun s => (s.canTxReq channel k buffers.toNat).ack)

/-! Sending (R209, R210, R218) -/

/-- The rank of an identifier in arbitration: the lower wins. -/
def arbKey (id : Nat) : Nat :=
  let xtd := bit id 31
  let rtr := b2n (bit id 30)
  if xtd then bits id 18 11 * 2 ^ 21 + 2 ^ 20 + 2 ^ 19 + bits id 0 18 * 2 + rtr
  else bits id 18 11 * 2 ^ 21 + rtr * 2 ^ 20

/-- Whether a deadline still allows a start of frame now (R210, R224). -/
def State.inTime (s : State) (deadline : Option Nat) : Bool :=
  match deadline with
  | some d => decide (s.clk ≤ d)
  | none => true

/-- The candidates of a channel with their ranks, remote queue first, then buffers ascending. -/
def State.canCandidates (s : State) (c : Nat) : List (CanSource × Nat) :=
  (s.canSt c).remote.filterMap (fun e => if s.inTime e.deadline then some (.entry e.serial, arbKey e.frame.id) else none) ++
  (List.range 64).filterMap (fun b =>
    if s.bufMode c b = 1 ∧ s.statBit c b stPend ∧ s.inTime (s.canDeadline c b) then some (.buffer b, arbKey (s.bufWord c b 0)) else none)

/-- The first candidate of the lowest rank. -/
def bestCandidate (l : List (CanSource × Nat)) : Option CanSource :=
  (l.foldl (fun (best : Option (CanSource × Nat)) p =>
    match best with
    | none => some p
    | some q => if p.2 < q.2 then some p else some q) none).map (·.1)

/-- What a start of frame now would offer. -/
def State.canOffer (s : State) (c : Nat) : Option CanSource :=
  if s.canListens c || s.canEstate c == 2 || !(s.on (F.CAN_Cc_CTL_EN c)) then none else bestCandidate (s.canCandidates c)

/-- CAN_START_OF_FRAME (R209, R216): a frame starts on the bus, and the channel offers its best candidate with it. -/
def execCanStartOfFrame (channel : Fin 16) (s : State) : Res :=
  guarded s (fun s =>
    let x := s.canSt channel
    if s.on (F.CAN_Cc_CTL_EN channel) && bit s.canned channel && s.canEstate channel != 2 && x.sof.isNone then
      (s.setCan channel { x with sof := some s.stamp, attempt := s.canOffer channel }).wr (F.CAN_Cc_STATUS_ACT channel) 3
    else s)

/-- The channel after a frame: idle, or stopped when EN was written 0 during it (R224). -/
def State.canFrameEnds (s : State) (c : Nat) : State :=
  let x := s.canSt c
  (s.setCan c { x with sof := none, attempt := none, stopping := false, lomLate := false, oldFilters := [] }).wr (F.CAN_Cc_STATUS_ACT c)
    (if s.on (F.CAN_Cc_CTL_EN c) then 2 else 0)

/-- A buffer is withdrawn at its deadline (R210). -/
def State.canWithdraw (s : State) (c b : Nat) : State :=
  let s := (s.setStat c b stPend false).setStat c b stExpired true
  (((s.bump (F.CAN_Cc_CNT1_EXPIRED c)).raise (F.CAN_Cc_IRQ_EXPIRED c)).canBoom c).canPendFell c b

/-- Copies of a buffer whose deadline has passed leave their guardians' queues, but for one on its bus (R215). -/
def State.dropCopies (s : State) (c b : Nat) : State :=
  { s with cans := s.cans.map (fun p =>
      (p.1, { p.2 with remote := p.2.remote.filter (fun e => e.source != some (c, b) || p.2.attempt == some (.entry e.serial) ||
        (match e.deadline with
         | some d => decide (s.clk < d)
         | none => true)) })) }

/-- One less on an error counter after a good frame; a receiver's above 127 takes a value from 119 to 127, which the standard
leaves open (ISO 11898-1, PRESUMED: notes/assumptions/22.md; the value is free). -/
def State.canGood (s : State) (c : Nat) (tx : Bool) : State :=
  if tx then s.wr (F.CAN_Cc_STATUS_TEC c) (s.rd (F.CAN_Cc_STATUS_TEC c) - 1)
  else
    let r := s.rd (F.CAN_Cc_STATUS_REC c)
    if r > 127 then (s.draw).wr (F.CAN_Cc_STATUS_REC c) (119 + s.free % 9)
    else s.wr (F.CAN_Cc_STATUS_REC c) (r - 1)

/-- EWARN and the error state that the counters give outside bus-off (R220). -/
def State.canCounters (s : State) (c : Nat) : State :=
  let t := s.rd (F.CAN_Cc_STATUS_TEC c)
  let r := s.rd (F.CAN_Cc_STATUS_REC c)
  let warn := decide (96 ≤ t) || decide (96 ≤ r)
  let s := if warn && !(s.on (F.CAN_Cc_STATUS_EWARN c)) then s.raise (F.CAN_Cc_IRQ_EWARN c) else s
  let s := s.wrB (F.CAN_Cc_STATUS_EWARN c) warn
  let st := if 127 < t ∨ 127 < r then 1 else 0
  if s.canEstate c = 2 ∨ s.canEstate c = st then s
  else
    let s := (s.wr (F.CAN_Cc_STATUS_ESTATE c) st).canBoom c
    if st = 1 then s.raise (F.CAN_Cc_IRQ_EPASS c) else s

/-- The delay measured in a sent FD frame with BRS, a free value; values below TDCF are ignored, and 127 is the highest (R204). -/
def State.canMeasure (s : State) (c : Nat) (f : CanFrame) : State :=
  if f.fdf && f.brs && s.on (F.CAN_Cc_TDC_TDC_EN c) then
    let v := s.free
    let s := s.draw
    if v < s.rd (F.CAN_Cc_TDC_TDCF c) then s else s.wr (F.CAN_Cc_TDC_TDCV c) (min 127 v)
  else s

/-- A frame of the channel's own is through: its counter falls by 1 and the bus is idle. -/
def State.canSentOne (s : State) (c : Nat) (f : CanFrame) : State :=
  (((s.canMeasure c f).canFrameEnds c).canGood c true).canCounters c

/-- CAN_TX_COMPLETE (R209): the attempt on the bus succeeded. A hub that has ceased to drive sends nothing (R217): the frame counts as not
sent. -/
def execCanTxComplete (channel : Fin 16) (s : State) : Res :=
  guarded s (fun s =>
    let c := channel.val
    let x := s.canSt c
    if x.attempt.isSome && s.canListens c then s.canFrameEnds c
    else match x.attempt with
    | none => s
    | some (.buffer b) =>
      let f := s.bufFrame c b
      let s := ((s.setStat c b stPend false).setStat c b stSent true).store 2 (canBuf c b + 0x10) (leBytes 12 (x.sof.getD 0))
      let s := (s.raise (F.CAN_Cc_IRQ_TXDONE c)).emit (.can c b f.id (canInfo f false 0) f.data)
      (s.canSentOne c f).canPendFell c b
    | some (.entry n) =>
      match x.remote.find? (fun e => e.serial == n) with
      | none => s.canFrameEnds c
      | some e =>
        let s := (s.setCan c { x with remote := x.remote.filter (fun e => e.serial != n) }).emit
          (.can c 64 e.frame.id (canInfo e.frame false 0) e.frame.data)
        let s := match e.source with
          | some (o, b) => s.setCan o { s.canSt o with copied := setBit (s.canSt o).copied b true }
          | none => s
        s.canSentOne c e.frame)

/-- CAN_TX_ATTEMPT_FAILED (R218), by lost arbitration or by an error: retried, or ended in one-shot mode; past its deadline a buffer is
withdrawn (R210). After lost arbitration the winner's frame goes on. -/
def execCanTxAttemptFailed (channel : Fin 16) (arbitration error : Bool) (s : State) : Res :=
  guarded s (fun s =>
    if !arbitration && !error then s else
    let c := channel.val
    let x := s.canSt c
    let ended (s : State) : State :=
      if arbitration then (s.setCan c { x with attempt := none }).bump (F.CAN_Cc_CNT1_ARBLOST c) else s.canFrameEnds c
    let osm := s.on (F.CAN_Cc_CTL_OSM c)
    let passed (d : Option Nat) : Bool := match d with
      | some d => decide (d ≤ s.clk)
      | none => false
    match x.attempt with
    | none => s
    | some (.buffer b) =>
      let s := ended s
      if osm then
        let s := (s.setStat c b stPend false).setStat c b (if arbitration then stArbLost else stTxErr) true
        (s.raise (F.CAN_Cc_IRQ_OSFAIL c)).canPendFell c b
      else if passed (s.canDeadline c b) then s.canWithdraw c b
      else s
    | some (.entry n) =>
      let s := ended s
      let drop (s : State) : State := s.setCan c { s.canSt c with remote := (s.canSt c).remote.filter (fun e => e.serial != n) }
      if osm then (drop s).raise (F.CAN_Cc_IRQ_OSFAIL c)
      else if x.remote.any (fun e => e.serial == n && passed e.deadline) then drop s
      else s)

/-- CAN_DEADLINE_EXPIRY (R210): a pending buffer not on the bus is withdrawn once its deadline has passed, and the guardians' copies that
keep that deadline go (R215). A start of frame of the same cycle wins (R224). -/
def execCanDeadlineExpiry (channel : Fin 16) (buffer : Fin 64) (s : State) : Res :=
  guarded s (fun s =>
    let c := channel.val
    let b := buffer.val
    let s := s.dropCopies c b
    let starts : Bool := s.canOffer c == some (.buffer b) && (s.canSt c).sof.isNone && s.ahead (fun i => match i with
      | .canStartOfFrame k => k.val == c
      | _ => false)
    let due : Bool := match s.canDeadline c b with
      | some d => decide (d ≤ s.clk)
      | none => false
    if s.bufMode c b = 1 ∧ s.statBit c b stPend ∧ due ∧ (s.canSt c).attempt ≠ some (.buffer b) ∧ !starts then s.canWithdraw c b else s)

/-! Rate detection (R219) -/

/-- Its power slice does not sleep, and the pads of its slice are not off (R432, R463). -/
def State.canHears (s : State) (c : Nat) : Bool :=
  s.hears (canPower c) && !((List.range 48).any (fun n => s.pers n == 10 && s.rd (F.PSL_Sn_CFG_LINK n) == c && s.padsOff n))

/-- Whether a frame on the bus is one that the channel can receive: it runs, and takes FD frames where FDOE = 1 (R202). -/
def State.canReads (s : State) (c : Nat) (f : CanFrame) : Bool :=
  s.canRuns c && s.canEstate c != 2 && s.canHears c && (s.canSt c).sof.isSome && (!f.fdf || s.on (F.CAN_Cc_CTL_FDOE c))

/-- Detection ends with a code. -/
def State.abdEnd (s : State) (c code : Nat) : State :=
  if s.on (F.CAN_Cc_STATUS_ABDRUN c) then
    ((s.wr (F.CAN_Cc_STATUS_ABDRUN c) 0).resDone (RR.CAN_Cc_ABD_RES c) code).raise (F.CAN_Cc_IRQ_ABD c)
  else s

/-- The pairs of a channel's timing fields and a candidate's. -/
def timingPairs (c k : Nat) : List (Fld × Fld) :=
  [(F.CAN_Cc_NBT_NBRP c, F.CAN_Cc_CANDk_NBT_NBRP c k), (F.CAN_Cc_NBT_NTSEG1 c, F.CAN_Cc_CANDk_NBT_NTSEG1 c k),
   (F.CAN_Cc_NBT_NTSEG2 c, F.CAN_Cc_CANDk_NBT_NTSEG2 c k), (F.CAN_Cc_NBT_NSJW c, F.CAN_Cc_CANDk_NBT_NSJW c k),
   (F.CAN_Cc_DBT_DBRP c, F.CAN_Cc_CANDk_DBT_DBRP c k), (F.CAN_Cc_DBT_DTSEG1 c, F.CAN_Cc_CANDk_DBT_DTSEG1 c k),
   (F.CAN_Cc_DBT_DTSEG2 c, F.CAN_Cc_CANDk_DBT_DTSEG2 c k), (F.CAN_Cc_DBT_DSJW c, F.CAN_Cc_CANDk_DBT_DSJW c k)]

/-- A candidate matches: its timing is loaded, which may depart from the Almanac (R66, R219). -/
def State.abdMatch (s : State) (c : Nat) : State :=
  let k := s.rd (F.CAN_Cc_ABD_STAT_CUR c)
  let s := (timingPairs c k).foldl (fun t p => t.wrA p.1 (t.rd p.2)) s
  (s.wr (F.CAN_Cc_ABD_STAT_INDEX c) k).abdEnd c 0

/-- Whether a good frame counts under the candidate's timing. -/
def State.abdCounts (s : State) (c : Nat) (f : CanFrame) : Bool :=
  !(s.on (F.CAN_Cc_CANDk_DBT_REQ_FD c (s.rd (F.CAN_Cc_ABD_STAT_CUR c)))) || (f.fdf && f.brs)

/-- A good frame under the candidate's timing. -/
def State.abdFrame (s : State) (c : Nat) (f : CanFrame) : State :=
  if !(s.abdCounts c f) then s
  else
    let x := s.canSt c
    let s := s.setCan c { x with abdGood := x.abdGood + 1 }
    if s.rd (F.CAN_Cc_ABD_CFG_MATCH_N c) ≤ x.abdGood + 1 then s.abdMatch c else s

/-- ABD_GO: a write of 1 to CTL.ABD_GO. -/
def State.abdGo (s : State) (init : Initiator) (c : Nat) : State :=
  if s.on (F.CAN_Cc_STATUS_ABDRUN c) then s.refuseReg init (F.CAN_Cc_CTL_ABD_GO c).off 0x0B07
  else
    let s := s.ack.resStart (RR.CAN_Cc_ABD_RES c)
    if s.on (F.CAN_Cc_CTL_EN c) && s.on (F.CAN_Cc_CTL_LOM c) then
      let s := ((s.wr (F.CAN_Cc_STATUS_ABDRUN c) 1).wr (F.CAN_Cc_ABD_STAT_PASS c) 0).wr (F.CAN_Cc_ABD_STAT_CUR c) 0
      s.setCan c { s.canSt c with abdGood := 0 }
    else s.resDone (RR.CAN_Cc_ABD_RES c) 0x0B02

def execAbdGo (init : Initiator) (channel : Fin 16) (s : State) : Res := guarded s (fun s => s.abdGo init channel)

/-- ABD_STOP. -/
def execAbdStop (channel : Fin 16) (s : State) : Res := guarded s (fun s => (s.abdEnd channel 0x0B06).ack)

/-- ABD_DWELL_EXPIRY; a frame of the same cycle that makes the candidate match wins. -/
def execAbdDwellExpiry (channel : Fin 16) (s : State) : Res :=
  guarded s (fun s =>
    let c := channel.val
    let matching : Bool := s.rd (F.CAN_Cc_ABD_CFG_MATCH_N c) ≤ (s.canSt c).abdGood + 1 && s.ahead (fun i => match i with
      | .canFrameReceived k h d => k.val == c && s.abdCounts c (h.frame d) && s.canReads c (h.frame d)
      | _ => false)
    if s.on (F.CAN_Cc_STATUS_ABDRUN c) ∧ !matching then
      let s := s.setCan c { s.canSt c with abdGood := 0 }
      let k := s.rd (F.CAN_Cc_ABD_STAT_CUR c)
      if k < s.rd (F.CAN_Cc_ABD_CFG_NCAND c) then s.wr (F.CAN_Cc_ABD_STAT_CUR c) (k + 1)
      else
        let p := s.rd (F.CAN_Cc_ABD_STAT_PASS c) + 1
        let s := (s.wr (F.CAN_Cc_ABD_STAT_PASS c) p).wr (F.CAN_Cc_ABD_STAT_CUR c) 0
        if s.rd (F.CAN_Cc_ABD_CFG_PASSES c) ≠ 0 ∧ s.rd (F.CAN_Cc_ABD_CFG_PASSES c) ≤ p then s.abdEnd c 0x0B03 else s
    else s)

/-! Reception (R212 to R214) -/

/-- An identifier matches under a mask. -/
def idMatches (frame ident mask : Nat) : Bool :=
  bit frame 31 == bit ident 31 && Nat.land (Nat.xor frame ident) mask % 2 ^ 29 == 0

/-- The first RX buffer that matches. -/
def State.rxMatch (s : State) (c : Nat) (f : CanFrame) : Option Nat :=
  (List.range 64).find? (fun b => s.bufMode c b == 2 && idMatches f.id (s.bufWord c b 0) (s.bufWord c b 8))

/-- A filter element, as it was when the frame on the bus started (R213): word 0, and word 1 above it. -/
def State.filterAt (s : State) (c k : Nat) : Nat :=
  match (s.canSt c).oldFilters.get? k with
  | some bs => ofLe bs
  | none => s.le 2 (canFilt c k) 8

/-- The first enabled filter element that matches. -/
def State.filterMatch (s : State) (c : Nat) (f : CanFrame) : Option Nat :=
  (List.range 32).find? (fun k =>
    let w := s.filterAt c k
    bit w 31 && bit w 30 == bit f.id 31 && Nat.land (Nat.xor f.id w) (w / 2 ^ 32) % 2 ^ 29 == 0)

/-- A frame stored in an RX buffer (R212). The buffer's ID, FDF, BRS and DLC take the frame's (DEDUCED: notes/assumptions/22.md). -/
def State.storeRx (s : State) (c b : Nat) (f : CanFrame) (sof : Nat) : State :=
  let full := s.statBit c b stFull
  let ctl := s.bufWord c b 4
  let s := s.setBufWord c b 0 f.id
  let s := s.setBufWord c b 4 (ctl / 2 ^ 30 * 2 ^ 30 + ctl / 2 ^ 20 % 2 ^ 8 * 2 ^ 20 + 2 ^ 29 * b2n f.fdf + 2 ^ 28 * b2n f.brs +
    2 ^ 16 * f.dlc)
  let s := (s.store 2 (canBuf c b + 0x20) (f.data.take 64)).store 2 (canBuf c b + 0x10) (leBytes 12 sof)
  let s := ((s.setStat c b stFull true).setStat c b stOvr full).setStat c b stEsi f.esi
  let s := if b < 32 then s.raiseBit (F.CAN_Cc_RXNEW0_BUF c) b else s.raiseBit (F.CAN_Cc_RXNEW1_BUF c) (b - 32)
  (s.raise (F.CAN_Cc_IRQ_RXNEW c)).mark (.rxStored c b)

/-- A FIFO element of 96 bytes. -/
def fifoElement (f : CanFrame) (loss : Bool) (filt sof : Nat) : List Nat :=
  leBytes 4 f.id ++ leBytes 4 (canInfo f loss filt) ++ leBytes 12 sof ++ List.replicate 12 0 ++ bytesAt f.data 0 64

/-- A frame enters a FIFO (R214); FIFO 1 in TUNNEL mode sends it on. -/
def State.toFifo (s : State) (c : Nat) (one : Bool) (f : CanFrame) (filt sof : Nat) : State :=
  let x := s.canSt c
  if one && s.on (F.CAN_Cc_FIFO1_TUNNEL c) then
    s.send 9 { typ := 8, tc := 3, dest := x.tunDest, payload := canPayload c f (canInfo f false filt) sof }
  else
    let l := if one then x.fifo1 else x.fifo0
    let lossF := if one then F.CAN_Cc_FIFO1_LOSS c else F.CAN_Cc_FIFO0_LOSS c
    let irqF := if one then F.CAN_Cc_IRQ_FIFO1 c else F.CAN_Cc_IRQ_FIFO0 c
    let put (s : State) (l : List (List Nat)) (loss : Bool) : State :=
      let x := s.canSt c
      s.setCan c (if one then { x with fifo1 := l, loss1 := loss } else { x with fifo0 := l, loss0 := loss })
    let pend := if one then x.loss1 else x.loss0
    let popAhead : Bool := s.ahead (fun i => match i with
      | .canPop k m => k.val == c && bit m.toNat (b2n one)
      | _ => false)
    if l.length = 32 ∧ popAhead then
      ((put s (l.drop 1 ++ [fifoElement f pend filt sof]) false).raise irqF).mark (.popped c (b2n one))
    else if l.length < 32 then (put s (l ++ [fifoElement f pend filt sof]) false).raise irqF
    else
      let s := (s.bump lossF).raise (F.CAN_Cc_IRQ_FLOSS c)
      if s.on (if one then F.CAN_Cc_FIFO1_OVWR c else F.CAN_Cc_FIFO0_OVWR c) then
        (put s (l.drop 1 ++ [fifoElement f true filt sof]) false).raise irqF
      else put s l true

/-- A correctly received frame finds its place (R212). -/
def State.canReceive (s : State) (c : Nat) (f : CanFrame) (sof : Nat) : State :=
  match s.rxMatch c f with
  | some b => s.storeRx c b f sof
  | none =>
    match s.filterMatch c f with
    | some k =>
      if bit (s.filterAt c k) 63 then s else s.toFifo c (bit (s.filterAt c k) 29) f k sof
    | none => (s.bump (F.CAN_Cc_CNT0_NOMATCH c)).canRecord c 1 f.id

/-- CAN_RXACK: a write to CAN_Cc_RXACK0 or RXACK1; a frame stored in the same cycle comes after it (R224). -/
def State.canRxAck (s : State) (c k mask : Nat) : State :=
  (setBits mask 32).foldl (fun t j =>
    (t.setStat c (32 * k + j) stFull (t.marked (.rxStored c (32 * k + j)))).setStat c (32 * k + j) stOvr false) s

def execCanRxack (channel : Fin 16) (k : Fin 2) (buffers : BitVec 32) (s : State) : Res :=
  guarded s (fun s => (s.canRxAck channel k buffers.toNat).ack)

/-- CAN_POP: a write to CAN_Cc_POP; the head it removes may have made room for a frame of its cycle (R224). -/
def State.canPop (s : State) (c mask : Nat) : State :=
  let x := s.canSt c
  s.setCan c { x with fifo0 := if bit mask 0 && !(s.marked (.popped c 0)) then x.fifo0.drop 1 else x.fifo0
                      fifo1 := if bit mask 1 && !(s.marked (.popped c 1)) then x.fifo1.drop 1 else x.fifo1 }

def execCanPop (channel : Fin 16) (fifos : BitVec 2) (s : State) : Res :=
  guarded s (fun s => (s.canPop channel fifos.toNat).ack)

/-! The port window (R205, R207) -/

/-- The form of R207: 4 to 128 bytes, a multiple of 4, aligned, all enabled. -/
def windowForm (off len : Nat) (enabled : Bool) : Bool :=
  enabled && decide (4 ≤ len) && decide (len ≤ 128) && len % 4 == 0 && off % 4 == 0

/-- An access lies within [lo, lo + size) and one element of the size given. -/
def within (off len lo size each : Nat) : Bool :=
  decide (lo ≤ off) && decide (off + len ≤ lo + size) && (off - lo) / each == (off + len - 1 - lo) / each

/-- An access touches a buffer, a read port or the filter table: R207 gives its form. -/
def touchesWindow (off len : Nat) : Bool :=
  let meets (lo size : Nat) : Bool := decide (off < lo + size) && decide (lo < off + len)
  meets 0 0x2000 || meets 0x2000 0x60 || meets 0x2800 0x60 || meets 0x3000 0x100

/-- Whether a request of this cycle makes a buffer pending (R224). -/
def State.requestAhead (s : State) (c b : Nat) : Bool :=
  s.ahead (fun i => match i with
    | .canTxRequest k h m => k.val == c && h.val == b / 32 && bit m.toNat (b % 32)
    | _ => false)

/-- A buffer write: STAT and TS are ignored; MODE 0b11 is refused with the window's code; a pending buffer with 0x0B04. -/
def State.bufferWrite (s : State) (init : Initiator) (c off : Nat) (bs : List Nat) : State :=
  let fa := s.ownFa 2 (canWindow c + off)
  let b := off / 0x80
  let lo := off % 0x80
  let touches := decide (lo < 0x0C) || (decide (0x20 < lo + bs.length) && decide (lo < 0x60))
  if s.bufMode c b = 1 ∧ (s.statBit c b stPend ∨ s.requestAhead c b) ∧ touches then s.refuse init fa 0x0B04
  else
    let ok (o : Nat) : Bool := decide (o < 0x0C) || (decide (0x20 ≤ o) && decide (o < 0x60))
    let t := (bs.zip (List.range bs.length)).foldl (fun t p =>
      if ok (lo + p.2) then t.store 2 (canWindow c + off + p.2) [p.1 % 256] else t) s
    if t.bufMode c b = 3 then s.refuse init fa 0x0B01 else t.ack

/-- A write to the filter table; elements that the frame on the bus started with are kept for it (R213). -/
def State.filterWrite (s : State) (c off : Nat) (bs : List Nat) : State :=
  let x := s.canSt c
  let old := if x.sof.isSome then
      (List.range 32).foldl (fun (m : SMap (List Nat)) k =>
        if off < 0x3008 + 8 * k ∧ 0x3000 + 8 * k < off + bs.length ∧ (m.get? k).isNone then m.insert k (s.bytes 2 (canFilt c k) 8) else m)
        x.oldFilters
    else x.oldFilters
  ((s.setCan c { x with oldFilters := old }).store 2 (canWindow c + off) bs).ack

/-- A write to a channel's window. -/
def State.canWindowWrite (s : State) (init : Initiator) (c off : Nat) (bs : List Nat) (enabled : Bool := true) : State :=
  let fa := s.ownFa 2 (canWindow c + off)
  let len := bs.length
  if !(bit s.canned c) then s.refuse init fa 0x0005
  else if !(touchesWindow off len) then s.ack
  else if !(windowForm off len enabled) then s.refuse init fa 0x0B01
  else if within off len 0 0x2000 0x80 then s.bufferWrite init c off bs
  else if within off len 0x3000 0x100 0x100 then s.filterWrite c off bs
  else s.refuse init fa 0x0B01

/-- The head element of a FIFO, or the empty element. -/
def headElement (l : List (List Nat)) : List Nat :=
  match l with
  | e :: _ => e
  | [] => leBytes 4 0 ++ leBytes 4 (2 ^ 31) ++ List.replicate 88 0

/-- A read of a channel's window. -/
def State.canWindowRead (s : State) (init : Initiator) (c off len : Nat) (enabled : Bool := true) : State :=
  let fa := s.ownFa 2 (canWindow c + off)
  let x := s.canSt c
  if !(bit s.canned c) then s.refuse init fa 0x0005
  else if !(touchesWindow off len) then s.give (List.replicate len 0)
  else if !(windowForm off len enabled) then s.refuse init fa 0x0B01
  else if within off len 0 0x2000 0x80 ∨ within off len 0x3000 0x100 0x100 then s.give (s.bytes 2 (canWindow c + off) len)
  else if within off len 0x2000 0x60 0x60 then s.give (bytesAt (headElement x.fifo0) (off - 0x2000) len)
  else if within off len 0x2800 0x60 0x60 then s.give (bytesAt (headElement x.fifo1) (off - 0x2800) len)
  else s.refuse init fa 0x0B01

/-! Errors and bus-off (R220 to R223) -/

/-- Copies that entered a queue in the cycle of its channel's own bus-off entry are not placed (R224). -/
def State.copiesBack (s : State) (g : Nat) : State :=
  s.cycle.foldl (fun (t : State) m => match m with
    | .copyPlaced k c b =>
      if k = g then
        let x := t.canSt g
        (t.setCan g { x with remote := x.remote.filter (fun e => e.source != some (c, b)) }).guardFails c b
      else t
    | _ => t) s

/-- Entry to bus-off: pending buffers are HELD, and GUARD buffers are passed (R221, R222). -/
def State.canBusOff (s : State) (c : Nat) : State :=
  let s := s.copiesBack c
  let s := ((s.wr (F.CAN_Cc_STATUS_ESTATE c) 2).wr (F.CAN_Cc_STATUS_TEC c) 255).wr (F.CAN_Cc_STATUS_RECSEQ c) 0
  let s := (s.bump (F.CAN_Cc_CNT0_BOFF c)).raise (F.CAN_Cc_IRQ_BOFF c)
  let s := s.setCan c { s.canSt c with passed := 0, recovering := !(s.on (F.CAN_Cc_CTL_RECOV c)) }
  let s := (if (s.canSt c).attempt.isNone then s.canFrameEnds c else s).canBoom c
  (List.range 64).foldl (fun t b =>
    if t.bufMode c b = 1 ∧ t.statBit c b stPend then (t.setStat c b stHeld true).passGuardian c b else t) s

/-- What an error adds to the counters (ISO 11898-1, PRESUMED: notes/assumptions/22.md): 8 to a sender's, but nothing where the standard
exempts an acknowledgement error of an error-passive sender or a stuff error in arbitration; 1 or 8 to a receiver's. `special`: the
circumstances hold in which it exempts a sender, or adds 8 to a receiver's. -/
def State.canCountError (s : State) (c lec : Nat) (sending special : Bool) : State :=
  if sending then
    if special && ((lec == 3 && s.canEstate c == 1) || lec == 1) then s
    else
      let t := s.rd (F.CAN_Cc_STATUS_TEC c) + 8
      if 255 < t then s.canBusOff c else (s.wr (F.CAN_Cc_STATUS_TEC c) t).canCounters c
  else (s.wr (F.CAN_Cc_STATUS_REC c) (min 255 (s.rd (F.CAN_Cc_STATUS_REC c) + if special then 8 else 1))).canCounters c

/-- A detected error (R220, R223): the record, the counters and the error flag, dominant while the channel is error active. What ends a
frame that the channel itself sends is CAN_TX_ATTEMPT_FAILED. -/
def State.canError (s : State) (c lec : Nat) (dataPhase sending special : Bool) : State :=
  let s := (s.wr (F.CAN_Cc_ERR_LEC c) lec).wrB (F.CAN_Cc_ERR_DPH c) dataPhase
  let s := (s.bump (F.CAN_Cc_CNT0_ERRFRM c)).canRecord c 0
  let s := if s.on (F.CAN_Cc_STATUS_ABDRUN c) then s.setCan c { s.canSt c with abdGood := 0 } else s
  let quiet := s.canListens c || s.canEstate c == 2
  let s := if quiet then s else (s.emit (.canFlag c (s.canEstate c == 0))).canCountError c lec sending special
  if (s.canSt c).attempt.isNone && (s.canSt c).sof.isSome then s.canFrameEnds c else s

/-- CAN_ERROR_DETECTED: LEC of the error (7: a protocol exception), whether it was in the data phase, whether the channel was sending,
and whether the special circumstances of the standard held. -/
def execCanErrorDetected (channel : Fin 16) (lec : Fin 8) (dataPhase sending special : Bool) (s : State) : Res :=
  guarded s (fun s =>
    let c := channel.val
    if !(s.canRuns c) ∨ lec.val = 0 then s
    else if lec.val = 7 ∧ !(s.on (F.CAN_Cc_CTL_PXHD c)) then
      let s := ((s.bump (F.CAN_Cc_CNT0_PXE c)).raise (F.CAN_Cc_IRQ_PXE c)).canRecord c 2
      (s.canFrameEnds c).wr (F.CAN_Cc_STATUS_ACT c) (if s.on (F.CAN_Cc_CTL_EN c) then 1 else 0)
    else s.canError c (if lec.val = 7 then 2 else lec.val) dataPhase sending special)

/-- CAN_FRAME_RECEIVED (R212): the frame on the bus has completed without error. It is acknowledged, kept or not (R223). An FD frame with
FDOE = 0 is a form error (R202). -/
def execCanFrameReceived (channel : Fin 16) (head : CanHead) (data : List Byte) (s : State) : Res :=
  guarded s (fun s =>
    let frame := head.frame data
    let c := channel.val
    match (s.canSt c).sof with
    | none => s
    | some sof =>
      if s.canReads c frame then
        let listens := s.canListens c
        let t := if listens then s else s.emit (.canAck c)
        let t := if s.on (F.CAN_Cc_STATUS_ABDRUN c) then t.abdFrame c frame
          else (if listens then t else (t.canGood c false).canCounters c).canReceive c frame sof
        t.canFrameEnds c
      else if s.canRuns c && s.canEstate c != 2 && s.canHears c then s.canError c 2 false false false
      else s)

/-- Whether the guard frame of a buffer is still in the hub. -/
def State.guardWaits (s : State) (c b : Nat) : Bool :=
  let f := s.guardFrame c b
  let same (g : Frame) : Bool := g.typ == 9 && g.dest == f.dest && g.payload == f.payload
  s.swc.arrivals.any (fun a => same a.frame) || s.swc.frames.any (fun a => same a.frame)

/-- GUARDIAN_COPY_SENT (R221): the local copy has completed on the guardian's bus, or the TC7 frame has left the hub. -/
def execGuardianCopySent (channel : Fin 16) (buffer : Fin 64) (s : State) : Res :=
  guarded s (fun s =>
    let c := channel.val
    let b := buffer.val
    let x := s.canSt c
    if bit x.copied b ∨ (bit x.guarding b ∧ !(s.guardWaits c b)) then
      ((s.setCan c { x with copied := setBit x.copied b false, guarding := setBit x.guarding b false }).setStat c b stGuardSent true).raise
        (F.CAN_Cc_IRQ_GUARD c)
    else s)

/-- CAN_RECOVER: ignored outside bus-off (R222). -/
def State.canRecover (s : State) (c : Nat) : State :=
  if s.canEstate c = 2 ∧ s.on (F.CAN_Cc_CTL_RECOV c) then s.setCan c { s.canSt c with recovering := true } else s

def execCanRecover (channel : Fin 16) (s : State) : Res := guarded s (fun s => (s.canRecover channel).ack)

/-- CAN_RECOVERY_DONE (R222): further occurrences of 11 recessive bits are counted; with 128 the channel is error active again. -/
def execCanRecoveryDone (recovery : CanRecovery) (s : State) : Res :=
  guarded s (fun s =>
    let c := recovery.channel.val
    if s.canEstate c = 2 ∧ (s.canSt c).recovering then
      let n := min 128 (s.rd (F.CAN_Cc_STATUS_RECSEQ c) + recovery.sequences.toNat)
      let s := s.wr (F.CAN_Cc_STATUS_RECSEQ c) n
      if n < 128 then s
      else
        let s := ((s.wr (F.CAN_Cc_STATUS_ESTATE c) 0).wr (F.CAN_Cc_STATUS_TEC c) 0).wr (F.CAN_Cc_STATUS_REC c) 0
        let s := (s.wr (F.CAN_Cc_STATUS_EWARN c) 0).raise (F.CAN_Cc_IRQ_RECOVERED c)
        (s.setCan c { s.canSt c with recovering := false, passed := 0 }).canBoom c
    else s)

/-- CAN_STUCK_DOMINANT (R223). -/
def execCanStuckDominant (channel : Fin 16) (s : State) : Res :=
  guarded s (fun s =>
    if s.canRuns channel then
      ((((s.wr (F.CAN_Cc_STATUS_STUCK channel) 1).bump (F.CAN_Cc_CNT1_STUCK channel)).raise (F.CAN_Cc_IRQ_STUCK channel)).canRecord
        channel 3)
    else s)

/-- CAN_STUCK_CLEARED: RXD recessive for 11 bits. -/
def execCanStuckCleared (channel : Fin 16) (s : State) : Res :=
  guarded s (fun s => s.wr (F.CAN_Cc_STATUS_STUCK channel) 0)

/-- CAN_LOM_WRITE (R217): leaving listen-only ends rate detection (R219). -/
def State.canLom (s : State) (c : Nat) (lom : Bool) : State :=
  let x := s.canSt c
  let was := s.on (F.CAN_Cc_CTL_LOM c)
  let s := (s.wrB (F.CAN_Cc_CTL_LOM c) lom).setCan c { x with lomLate := lom && (x.lomLate || (!was && x.sof.isSome)) }
  if lom then s else s.abdEnd c 0x0B06

def execCanLomWrite (channel : Fin 16) (lom : Bool) (s : State) : Res :=
  guarded s (fun s => (s.canLom channel lom).ack)

/-- CAN_ENABLE (R224): a channel stops at the end of the frame in progress; one without a section does not start (R53). -/
def State.canEnable (s : State) (c : Nat) (en : Bool) : State :=
  let was := s.on (F.CAN_Cc_CTL_EN c)
  let s := s.wrB (F.CAN_Cc_CTL_EN c) en
  if was && !en then
    let s := s.abdEnd c 0x0B06
    if (s.canSt c).sof.isSome then s.setCan c { s.canSt c with stopping := true }
    else s.wr (F.CAN_Cc_STATUS_ACT c) 0
  else if !was && en && bit s.canned c && (s.canSt c).sof.isNone then s.wr (F.CAN_Cc_STATUS_ACT c) 1
  else s

def execCanEnable (channel : Fin 16) (en : Bool) (s : State) : Res :=
  guarded s (fun s => (s.canEnable channel en).ack)

/-- REMOTE_QUEUE_ENTRY (R215): a CAN frame of a tunnel or guard frame for this channel. -/
def execRemoteQueueEntry (channel : Fin 16) (frame : CanFrame) (s : State) : Res :=
  guarded s (fun s => s.toRemote channel { frame := frame })

end Sys2Proof.Machine
end

