-- ==== Sys2Proof/Machine/Operands.lean ====
section
/-!
DEFINITION. The operand forms of sawyer instructions: the common layout, and every opcode with its operand field (09 R236 to R240).
-/

namespace Sys2Proof.Machine

/-- A sawyer instruction with its operand fields (R238). N = 0 stands as 32. -/
inductive SawOp where
  | br (cond target : Nat)
  | loop (target : Nat)
  | wait (src : Nat) (pol addx clr : Bool) (index : Nat)
  | shi (src n : Nat)
  | sho (dst n : Nat)
  | send (waitsp whenfull : Bool)
  | take (waitdt whenspent : Bool)
  | copy (dst src xform : Nat)
  | ldi (dst imm : Nat)
  | pinset (dirs : Bool) (count values : Nat)
  | calc (fn imm : Nat)
  | post (abs : Bool)
  | flag (fn flag : Nat)
  | stamp
  | nop
  | halt
  deriving DecidableEq, Repr

/-- DELAY, SMASK and SVAL of a word (R236). -/
def sawDelay (w : Nat) : Nat := bits w 8 4
def sawSmask (w : Nat) : Nat := bits w 4 4
def sawSval (w : Nat) : Nat := bits w 0 4

/-- Bits lo + n − 1 to lo of ARG. -/
def arg (w lo n : Nat) : Nat := bits w (12 + lo) n

/-- A shift count field: 0 stands for 32. -/
def shiftCount (n : Nat) : Nat := if n = 0 then 32 else n

/-- Whether a WAIT's operands are ones that R240 gives. -/
def waitValid (src pol addx clr index : Nat) : Bool :=
  (addx == 0 || src == 4) && (clr == 0 || src == 2) &&
    (match src with
     | 0 => decide (index < 16)
     | 1 => decide (index < 16)
     | 2 => decide (index < 8)
     | 3 => pol == 0 && index == 0
     | 4 => true
     | _ => false)

/-- Whether a CALC's FN and IMM are ones that R238 gives. -/
def calcValid (fn imm : Nat) : Bool :=
  if fn = 2 ∨ fn = 3 ∨ fn = 0xA then true
  else if fn = 8 ∨ fn = 9 then decide (imm < 32)
  else decide (fn < 8) && imm == 0

/-- The instruction of a word; none where the word is invalid (R238). -/
def decodeSaw (w : Nat) : Option SawOp :=
  match bits w 26 6 with
  | 0x00 => if arg w 9 1 = 0 ∧ arg w 10 4 ≠ 15 then some (.br (arg w 10 4) (arg w 0 9)) else none
  | 0x01 => if arg w 9 5 = 0 then some (.loop (arg w 0 9)) else none
  | 0x04 =>
    if arg w 5 3 = 0 ∧ waitValid (arg w 11 3) (arg w 10 1) (arg w 9 1) (arg w 8 1) (arg w 0 5) then
      some (.wait (arg w 11 3) (arg w 10 1 == 1) (arg w 9 1 == 1) (arg w 8 1 == 1) (arg w 0 5))
    else none
  | 0x08 => if arg w 5 6 = 0 ∧ arg w 11 3 ≠ 7 then some (.shi (arg w 11 3) (shiftCount (arg w 0 5))) else none
  | 0x09 => if arg w 5 6 = 0 ∧ arg w 11 3 ≠ 7 then some (.sho (arg w 11 3) (shiftCount (arg w 0 5))) else none
  | 0x0C => if arg w 0 12 = 0 then some (.send (arg w 13 1 == 1) (arg w 12 1 == 1)) else none
  | 0x0D => if arg w 0 12 = 0 then some (.take (arg w 13 1 == 1) (arg w 12 1 == 1)) else none
  | 0x10 => if arg w 0 6 = 0 then some (.copy (arg w 11 3) (arg w 8 3) (arg w 6 2)) else none
  | 0x14 => some (.ldi (arg w 12 2) (arg w 0 12))
  | 0x15 =>
    if arg w 8 2 = 0 ∧ arg w 0 8 < 2 ^ (arg w 10 3 + 1) then
      some (.pinset (arg w 13 1 == 1) (arg w 10 3 + 1) (arg w 0 8))
    else none
  | 0x18 => if calcValid (arg w 10 4) (arg w 0 10) then some (.calc (arg w 10 4) (arg w 0 10)) else none
  | 0x1C => if arg w 0 13 = 0 then some (.post (arg w 13 1 == 1)) else none
  | 0x1D =>
    if arg w 3 9 = 0 ∧ arg w 12 2 ≠ 3 ∧ (arg w 12 2 ≠ 2 ∨ arg w 0 3 = 0) then some (.flag (arg w 12 2) (arg w 0 3)) else none
  | 0x1E => if arg w 0 14 = 0 then some .stamp else none
  | 0x3E => if arg w 0 14 = 0 then some .nop else none
  | 0x3F => if arg w 0 14 = 0 then some .halt else none
  | _ => none

/-- The 32-bit bit reversal. -/
def reverse32 (v : Nat) : Nat := (List.range 32).foldl (fun acc k => acc + b2n (bit v k) * 2 ^ (31 - k)) 0

/-- XFORM of COPY (R238). -/
def xform (x v : Nat) : Nat :=
  match x with
  | 0 => v
  | 1 => 2 ^ 32 - 1 - v % 2 ^ 32
  | 2 => reverse32 v
  | _ => bits v 0 16 * 2 ^ 16 + bits v 16 16

end Sys2Proof.Machine
end

