-- ==== Sys2Proof/Machine/Flags.lean ====
section
/-!
DEFINITION. Conditions that are computed and not stored: time lock, the predictions of tally slots, the Sluice's sources, terms,
outputs and events, and what the fast-line pads carry (04 R84, R94, R99; 05 R122, R132 to R135).
-/

namespace Sys2Proof.Machine

/-! Fabric time -/

/-- Servo states of R84. -/
def servoFree : Nat := 0
def servoLocking : Nat := 1
def servoLocked : Nat := 2
def servoHoldover : Nat := 3
def servoGm : Nat := 4

/-- TIME_LOCK is 1 exactly in LOCKED and GM (R84). -/
def State.timeLock (s : State) : Bool :=
  s.rd F.TIM_STATUS_SERVO == servoLocked || s.rd F.TIM_STATUS_SERVO == servoGm

/-! Tally slots -/

/-- Slot states of R97. -/
def tEmpty : Nat := 0
def tAcquiring : Nat := 1
def tTracking : Nat := 2
def tCoasting : Nat := 3
def tLost : Nat := 4

def State.slot (s : State) (n : Nat) : TallySlot := s.tly.getD n {}
def State.setSlot (s : State) (n : Nat) (x : TallySlot) : State := { s with tly := s.tly.put n x {} }
def State.slotState (s : State) (n : Nat) : Nat := s.rd (F.TLY_Sn_STATE_STATE n)

/-- A slot is bound (R88). -/
def State.bound (s : State) (n : Nat) : Bool := s.on (F.TLY_Sn_CFG_EN n)

/-- The last residual exceeds TLY_Sn_TOL as it stands (R99). -/
def State.residBeyond (s : State) (n : Nat) : Bool :=
  let tol : Rat := ((s.rd (F.TLY_Sn_TOL_TOL n) : Int) : Rat)
  decide (tol < (s.slot n).resid) || decide ((s.slot n).resid < -tol)

/-- TLY_SUMMARY bit n (R99). -/
def State.tallySummary (s : State) (n : Nat) : Bool :=
  s.bound n && (s.slotState n != tTracking || s.residBeyond n)

/-- POS_AT of a slot (R94, R97): none in EMPTY. -/
def State.slotPos (s : State) (n t : Nat) : Option Rat :=
  if s.slotState n = tEmpty then none else (s.slot n).fit.map (fun f => f.posAt t)

/-- HORIZON of a slot in 2^-16 ns. -/
def State.horizon (s : State) (n : Nat) : Nat := us16 (1000 * s.rd (F.TLY_Sn_CFG_HORIZON n))

/-- TIME_OF of a slot, from now to a limit (R94, R97): none in EMPTY and LOST. -/
def State.slotTimeOf (s : State) (n : Nat) (x : Rat) (dir limit : Nat) : Option Nat :=
  if s.slotState n = tEmpty ∨ s.slotState n = tLost then none
  else (s.slot n).fit.bind (fun f => f.timeOf x dir s.now (min limit (s.now + s.horizon n)))

/-! Sluice sources and terms -/

/-- A field line's input state as the main die last received it. -/
def State.lineSeen (s : State) (n : Nat) : Bool :=
  if s.hvLink then s.lineLevel n else s.fld.snap.getD (F.FLD_Ln_STAT_IN n).key 0 != 0

/-- Whether a fast line is configured as an output. -/
def State.fastOut (s : State) (n : Nat) : Bool := s.on (F.PSL_FLn_CFG_DIR n)

/-- Source n of R132; S32 to S55 read 0 while the HV link is down (R145). -/
def State.source (s : State) (n : Nat) : Bool :=
  if n < 32 then !(s.fastOut n) && bit (s.rd F.PSL_FL_IN_LINES) n
  else if n < 48 then s.feedSeen (n - 32)
  else if n < 52 then s.hvLink && s.lineLevel (bits (s.rd F.SLC_WATCH0_SEL) (8 * (n - 48)) 7)
  else if n < 56 then s.hvLink && s.lineLevel (bits (s.rd F.SLC_WATCH1_SEL) (8 * (n - 52)) 7)
  else if n < 60 then s.slotState (bits (s.rd F.SLC_TWATCH_SEL) (8 * (n - 56)) 5) == tTracking
  else if n = 60 then s.timeLock
  else if n = 61 then s.drives
  else if n = 62 then s.on F.GLB_HEALTH_TAMPER
  else s.slc.watchdog

/-- The 64 sources as bits. -/
def State.sources (s : State) : Nat := packBits 64 s.source

/-- FILT of source n, and its level on the event path: it passes once it has held for FILT cycles (R135). -/
def State.filtOf (s : State) (n : Nat) : Nat := bits (s.rd (F.SLC_FILTk_FILT (n / 4))) (8 * (n % 4)) 8
def State.filtered (s : State) (n : Nat) : Bool :=
  match s.slc.filtered.get? n with
  | some x => if s.filtOf n = 0 then s.source n else x.1
  | none => s.source n

/-- A cycle of the filters. -/
def State.filterTick (s : State) : State :=
  let next (m : SMap (Bool × Nat)) (n : Nat) : SMap (Bool × Nat) :=
    if s.filtOf n = 0 then m
    else
      let raw := s.source n
      let x := s.slc.filtered.getD n (raw, 0)
      m.insert n (if raw = x.1 then (raw, 0) else if s.filtOf n ≤ x.2 + 1 then (raw, 0) else (x.1, x.2 + 1))
  { s with slc := { s.slc with filtered := (List.range 64).foldl next [] } }

/-- Term t over given sources (R133). -/
def State.term (s : State) (src t : Nat) : Bool :=
  let tr := s.rd64 (F.SLC_Tt_TRUE_LO_MASK t) (F.SLC_Tt_TRUE_HI_MASK t)
  let co := s.rd64 (F.SLC_Tt_COMP_LO_MASK t) (F.SLC_Tt_COMP_HI_MASK t)
  Nat.land tr src == tr && Nat.land co src == 0

/-- The 128 terms as bits, over given sources, and over the sources as they are. -/
def State.termsOf (s : State) (src : Nat) : Nat := packBits 128 (s.term src)
def State.terms (s : State) : Nat := s.termsOf s.sources

/-- The 128-bit mask of four registers. -/
def mask128 (a b c d : Nat) : Nat := a + b * 2 ^ 32 + c * 2 ^ 64 + d * 2 ^ 96

/-- The OR of output o's terms (R134). -/
def State.outTerm (s : State) (o : Nat) : Bool :=
  Nat.land s.terms (mask128 (s.rd (F.SLC_Oo_M0_MASK o)) (s.rd (F.SLC_Oo_M1_MASK o)) (s.rd (F.SLC_Oo_M2_MASK o))
    (s.rd (F.SLC_Oo_M3_MASK o))) != 0

/-- The OR of event e's terms behind the sources' filters, before its register (R135). -/
def State.eventTerm (s : State) (e : Nat) : Bool :=
  Nat.land (s.termsOf (packBits 64 s.filtered)) (mask128 (s.rd (F.SLC_Ee_M0_MASK e)) (s.rd (F.SLC_Ee_M1_MASK e)) (s.rd (F.SLC_Ee_M2_MASK e))
    (s.rd (F.SLC_Ee_M3_MASK e))) != 0

/-- SLMODE of a fast line: 0 NONE, 1 DRIVE, 2 FORCE0, 3 FORCE1. -/
def State.slmode (s : State) (n : Nat) : Nat :=
  if n < 16 then bits (s.rd F.SLC_OUTMODE0_MODE) (2 * n) 2 else bits (s.rd F.SLC_OUTMODE1_MODE) (2 * (n - 16)) 2

/-- Whether the Sluice forces a fast line's level (R122, R123). -/
def State.fastForced (s : State) (n : Nat) : Bool := 2 ≤ s.slmode n && s.outTerm n

/-! Fast-line pads -/

/-- The normal value of a fast line (R122). -/
def State.fastNormal (s : State) (n : Nat) : Bool := bit (s.rd F.PSL_FL_OUT_LINES) n
def State.setNormal (s : State) (n : Nat) (v : Bool) : State :=
  { s with slc := { s.slc with undriven := setBit s.slc.undriven n false } }.wrBit F.PSL_FL_OUT_LINES n v

/-- What a fast line drives as its normal value (R59). -/
def State.normalOut (s : State) (n : Nat) : Option Bool := if bit s.slc.undriven n then none else some (s.fastNormal n)

/-- What a fast line drives; none is high-impedance (R122). A quarantined hub's pads take SAFE (R282), a standby's are
released, and a fenced hub's hold their last level for FENCE_HOLD (R397). -/
def State.fastPad (s : State) (n : Nat) : Option Bool :=
  if s.pwr.standby || !s.almInForce || !(s.fastOut n) then none
  else if s.role = roleFenced then
    (match s.slc.fence with
     | some (driven, level) => if bit driven n then some (bit level n) else none
     | none => none)
  else if s.standby then none
  else if s.pinQuar then
    match s.rd (F.PSL_FLn_CFG_SAFE n) with
    | 0 => some false
    | 1 => some true
    | _ => none
  else match s.slmode n with
    | 1 => some (s.outTerm n)
    | 2 => if s.outTerm n then some false else s.normalOut n
    | 3 => if s.outTerm n then some true else s.normalOut n
    | _ => s.normalOut n

/-- The pad level of a fast line: what it drives, or what is applied from outside. -/
def State.fastLevel (s : State) (n : Nat) : Bool := (s.fastPad n).getD (bit (s.rd F.PSL_FL_IN_LINES) n)

end Sys2Proof.Machine
end

