-- ==== Sys2Proof/Machine/Sawyer.lean ====
section
/-!
DEFINITION. Sawyers: pin groups, the instruction set, waits, injection and reload (09). A sawyer's instruction is the one that
its next tick issues: the injected word where one waits, otherwise the word at PC in its grove's memory; the command
names the instruction, and it happens only where that is the instruction issued. The levels of the group pins that are
slice pins come with the command.
-/

namespace Sys2Proof.Machine

def State.saw (s : State) (n : Nat) : SawState := s.saws.getD n {}
def State.setSaw (s : State) (n : Nat) (x : SawState) : State := { s with saws := s.saws.put n x {} }

/-- States of R244. -/
def sStopped : Nat := 0
def sRun : Nat := 1
def sStalled : Nat := 2
def sHalted : Nat := 3
def sFault : Nat := 4

def State.sawState (s : State) (n : Nat) : Nat := s.rd (F.SAW_Sn_STATUS_STATE n)
def State.toSaw (s : State) (n st : Nat) : State := s.wr (F.SAW_Sn_STATUS_STATE n) st

/-! Program memory (R229) -/

/-- The region 0x3 offset of instruction i of a grove. -/
def groveOff (g i : Nat) : Nat := g * 0x800 + 4 * i

/-- The word that a sawyer fetches. -/
def State.sawFetch (s : State) (n : Nat) : Nat := s.le 3 (groveOff (n / 8) (s.rd (F.SAW_Sn_STATUS_PC n))) 4

/-! Pins (R232 to R234) -/

/-- The pin map code of group pin k. -/
def State.sawPin (s : State) (n k : Nat) : Nat := (s.saw n).pins.getD k 0xFFFF

/-- The fast line of group pin k. -/
def State.sawFast (s : State) (n k : Nat) : Option Nat :=
  let c := s.sawPin n k
  if 0x100 ≤ c ∧ c < 0x120 then some (c - 0x100) else none

/-- Levels of the 16 group pins, the slice pins' as given. -/
def State.sawLevels (s : State) (n pads : Nat) : Nat :=
  packBits 16 (fun k =>
    match s.sawFast n k with
    | some l => s.fastLevel l
    | none => decide (s.sawPin n k < 0xC0) && !(s.padsOff (s.sawPin n k / 4)) && bit pads k)

/-- Level of group pin k as last seen. -/
def State.sawLevel (s : State) (n k : Nat) : Bool := bit (s.rd (F.SAW_Sn_PINS_LEVEL n)) (k % 16)

/-- Direction of group pin k; a mapped fast line's is its own. -/
def State.sawDir (s : State) (n k : Nat) : Bool :=
  match s.sawFast n (k % 16) with
  | some l => s.fastOut l
  | none => bit (s.rd (F.SAW_Sn_PINS_DIR n)) (k % 16)

/-- The output level of group pin k takes a value; a mapped fast line's is its normal value. -/
def State.putPin (s : State) (n k : Nat) (v : Bool) : State :=
  let k := k % 16
  let x := s.saw n
  if s.sawPin n k = 0xFFFF then s
  else
    let s := s.setSaw n { x with out := setBit x.out k v }
    match s.sawFast n k with
    | some l => s.setNormal l v
    | none => s

/-- The direction of group pin k takes a value; a fast line's is fixed. -/
def State.putDir (s : State) (n k : Nat) (v : Bool) : State :=
  let k := k % 16
  if s.sawPin n k < 0xC0 then s.wrBit (F.SAW_Sn_PINS_DIR n) k v else s

/-- count bits of a value go to the pins from WBASE, as levels or directions. -/
def State.putPins (s : State) (n : Nat) (dirs : Bool) (count v : Nat) : State :=
  let base := s.rd (F.SAW_Sn_WIN_WBASE n)
  (List.range (min count 16)).foldl (fun t k => if dirs then t.putDir n (base + k) (bit v k) else t.putPin n (base + k) (bit v k)) s

/-- count pins from RBASE as bits, indices wrapping modulo 16. -/
def State.getPins (s : State) (n count : Nat) : Nat :=
  let base := s.rd (F.SAW_Sn_WIN_RBASE n)
  packBits count (fun k => s.sawLevel n (base + k))

/-- The side effect (R237): the highest side bit that names a pin decides, on pins of direction 1. -/
def State.sideEffect (s : State) (n w : Nat) : State :=
  (List.range 4).foldl (fun t k =>
    let p := match k with
      | 0 => t.rd (F.SAW_Sn_WIN_SIDE0 n)
      | 1 => t.rd (F.SAW_Sn_WIN_SIDE1 n)
      | 2 => t.rd (F.SAW_Sn_WIN_SIDE2 n)
      | _ => t.rd (F.SAW_Sn_WIN_SIDE3 n)
    if bit (sawSmask w) k && t.sawDir n p then t.putPin n p (bit (sawSval w) k) else t) s

/-- The levels seen take new values; an edge a stalled WAIT is for is remembered (R240). -/
def State.seePins (s : State) (n pads : Nat) : State :=
  let old := s.rd (F.SAW_Sn_PINS_LEVEL n)
  let new := s.sawLevels n pads
  let s := s.wr (F.SAW_Sn_PINS_LEVEL n) new
  match decodeSaw (s.sawFetch n) with
  | some (.wait 1 pol _ _ k) =>
    if s.sawState n = sStalled ∧ bit old k = !pol ∧ bit new k = pol then s.setSaw n { s.saw n with edge := true } else s
  | _ => s

/-! Registers of R235 -/

def State.sx (s : State) (n : Nat) : Nat := s.rd (F.SAW_Sn_X_VALUE n)
def State.sy (s : State) (n : Nat) : Nat := s.rd (F.SAW_Sn_Y_VALUE n)
def State.sf (s : State) (n : Nat) (b : Bool) : State := s.wrB (F.SAW_Sn_LC_F n) b
def State.slc16 (s : State) (n : Nat) : Nat := s.rd (F.SAW_Sn_LC_LC n)

/-- ISR full, OSR spent (R238). -/
def State.isrFull (s : State) (n : Nat) : Bool :=
  decide (shiftCount (s.rd (F.SAW_Sn_SHIFT_IN_WIDTH n)) ≤ s.rd (F.SAW_Sn_STATUS_ISRCNT n))
def State.osrSpent (s : State) (n : Nat) : Bool :=
  decide (shiftCount (s.rd (F.SAW_Sn_SHIFT_OUT_WIDTH n)) ≤ s.rd (F.SAW_Sn_STATUS_OSRCNT n))

/-- The conditions of BR. -/
def State.brHolds (s : State) (n cond : Nat) : Bool :=
  let tp := s.sawLevel n (s.rd (F.SAW_Sn_WIN_TPIN n))
  match cond with
  | 0 => true
  | 1 => s.on (F.SAW_Sn_LC_F n)
  | 2 => !(s.on (F.SAW_Sn_LC_F n))
  | 3 => s.sx n == s.sy n
  | 4 => s.sx n != s.sy n
  | 5 => decide (s.sx n < s.sy n)
  | 6 => bit (s.sx n) 31
  | 7 => tp
  | 8 => !tp
  | 9 => s.isrFull n
  | 10 => s.osrSpent n
  | 11 => !(s.saw n).tx.isEmpty
  | 12 => (s.saw n).rx.length == 4
  | 13 => s.on (F.SAW_Sn_STATUS_TRIG_PEND n)
  | _ => s.slc16 n == 0

/-! Waits (R240, R242) -/

/-- The threshold of a WAIT on a tally, in counts. -/
def State.sawThreshold (s : State) (n : Nat) (addx : Bool) : Int :=
  toSigned 64 (s.rd64 (F.SAW_Sn_TCMP_LO_TCMP n) (F.SAW_Sn_TCMP_HI_TCMP n)) + (if addx then toSigned 32 (s.sx n) else 0)

/-- Whether a WAIT's condition holds now. -/
def State.waitHolds (s : State) (n src : Nat) (pol addx : Bool) (index : Nat) : Bool :=
  match src with
  | 0 => s.sawLevel n index == pol
  | 1 => (s.saw n).edge
  | 2 => bit (s.rd (F.SAW_Gg_FLAGS_FLAGS (n / 8))) index == pol
  | 3 => s.on (F.SAW_Sn_STATUS_TRIG_PEND n)
  | _ =>
    if s.slotState index = tLost then false
    else match s.slotPos index s.now with
      | none => false
      | some p =>
        let x : Rat := ((s.sawThreshold n addx : Int) : Rat)
        if pol then decide (x ≤ p) else decide (p ≤ x)

/-- A sawyer clears a grove flag; one that a sawyer sets in the same cycle stays set (R248). -/
def State.clearFlag (s : State) (g k : Nat) : State :=
  if s.marked (.flagSet g k) then s else s.wrBit (F.SAW_Gg_FLAGS_FLAGS g) k false

/-- What completing a WAIT consumes. -/
def State.waitDone (s : State) (n src : Nat) (clr : Bool) (index : Nat) : State :=
  match src with
  | 2 => if clr then s.clearFlag (n / 8) index else s
  | 3 => s.wr (F.SAW_Sn_STATUS_TRIG_PEND n) 0
  | _ => s

/-! The own action of each instruction: the state after, and whether PC was written -/

/-- SHI (R239). -/
def State.doShi (s : State) (n src k : Nat) : State :=
  let v := (match src with
    | 0 => s.getPins n 32
    | 1 => s.sx n
    | 2 => s.sy n
    | 3 => s.slc16 n
    | 4 => 0
    | 5 => 2 ^ 32 - 1
    | _ => s.rd (F.SAW_Sn_DROP_DROP n)) % 2 ^ k
  let isr := s.rd (F.SAW_Sn_ISR_VALUE n)
  let isr := if k = 32 then v else if s.on (F.SAW_Sn_SHIFT_IN_RIGHT n) then isr / 2 ^ k + v * 2 ^ (32 - k) else isr * 2 ^ k + v
  (s.wr (F.SAW_Sn_ISR_VALUE n) isr).wr (F.SAW_Sn_STATUS_ISRCNT n) (min (s.rd (F.SAW_Sn_STATUS_ISRCNT n) + k) 32)

/-- SHO (R239). -/
def State.doSho (s : State) (n dst k : Nat) : State × Bool :=
  let osr := s.rd (F.SAW_Sn_OSR_VALUE n)
  let right := s.on (F.SAW_Sn_SHIFT_OUT_RIGHT n)
  let v := if k = 32 then osr else if right then osr % 2 ^ k else osr / 2 ^ (32 - k)
  let rest := if k = 32 then 0 else if right then osr / 2 ^ k else osr * 2 ^ k
  let s := (s.wr (F.SAW_Sn_OSR_VALUE n) rest).wr (F.SAW_Sn_STATUS_OSRCNT n) (min (s.rd (F.SAW_Sn_STATUS_OSRCNT n) + k) 32)
  match dst with
  | 0 => (s.putPins n false k v, false)
  | 1 => (s.putPins n true k v, false)
  | 2 => (s.wr (F.SAW_Sn_X_VALUE n) v, false)
  | 3 => (s.wr (F.SAW_Sn_Y_VALUE n) v, false)
  | 4 => (s.wr (F.SAW_Sn_LC_LC n) v, false)
  | 5 => (s.wr (F.SAW_Sn_STATUS_PC n) v, true)
  | _ => (s, false)

/-- A read of RXF of this cycle sees the FIFO before a SEND, and makes room for it; a word written to TXF in this cycle is there for a TAKE
(R248). -/
def State.rxFull (s : State) (n : Nat) : Bool :=
  (s.saw n).rx.length == 4 && !(s.ahead (fun i => match i with
    | .sawyerRxfRead k => k.val == n
    | _ => false))
def State.txAhead (s : State) (n : Nat) : Option Nat :=
  if s.marked (.txfTaken n) then none
  else (s.pending.take s.together).findSome? (fun i => match i with
    | .sawyerTxfWrite k w => if k.val = n then some w.toNat else none
    | _ => none)

/-- SEND that does not stall. -/
def State.doSend (s : State) (n : Nat) (whenfull : Bool) : State :=
  if whenfull && !(s.isrFull n) then s
  else
    let x := s.saw n
    let isr := s.rd (F.SAW_Sn_ISR_VALUE n)
    let s := (s.wr (F.SAW_Sn_ISR_VALUE n) 0).wr (F.SAW_Sn_STATUS_ISRCNT n) 0
    if !(s.rxFull n) then ((s.setSaw n { x with rx := x.rx ++ [isr] }).mark (.sawSent n)).sf n false
    else ((s.bump (F.SAW_Sn_CNT_RXDROP n)).raise (F.SAW_Sn_IRQ_RXDROP n)).sf n true

/-- TAKE that does not stall. -/
def State.doTake (s : State) (n : Nat) (whenspent : Bool) : State :=
  if whenspent && !(s.osrSpent n) then s
  else
    let x := s.saw n
    let load (t : State) (w : Nat) : State := ((t.wr (F.SAW_Sn_OSR_VALUE n) w).wr (F.SAW_Sn_STATUS_OSRCNT n) 0).sf n false
    match x.tx with
    | w :: l => load (s.setSaw n { x with tx := l }) w
    | [] => match s.txAhead n with
      | some w => load (s.mark (.txfTaken n)) w
      | none => s.sf n true

/-- STATUS as COPY reads it. -/
def State.copyStatus (s : State) (n : Nat) : Nat :=
  (s.saw n).tx.length + 16 * (s.saw n).rx.length + 256 * s.rd (F.SAW_Sn_STATUS_TRIG_PEND n) + 512 * s.rd (F.SAW_Sn_LC_F n)

/-- COPY. -/
def State.doCopy (s : State) (n dst src x : Nat) : State × Bool :=
  let v := xform x (match src with
    | 0 => s.sx n
    | 1 => s.sy n
    | 2 => s.rd (F.SAW_Sn_ISR_VALUE n)
    | 3 => s.rd (F.SAW_Sn_OSR_VALUE n)
    | 4 => s.slc16 n
    | 5 => s.getPins n 16
    | 6 => s.rd (F.SAW_Sn_DROP_DROP n)
    | _ => s.copyStatus n)
  match dst with
  | 0 => (s.wr (F.SAW_Sn_X_VALUE n) v, false)
  | 1 => (s.wr (F.SAW_Sn_Y_VALUE n) v, false)
  | 2 => ((s.wr (F.SAW_Sn_ISR_VALUE n) v).wr (F.SAW_Sn_STATUS_ISRCNT n) 0, false)
  | 3 => ((s.wr (F.SAW_Sn_OSR_VALUE n) v).wr (F.SAW_Sn_STATUS_OSRCNT n) 0, false)
  | 4 => (s.wr (F.SAW_Sn_LC_LC n) v, false)
  | 5 => (s.wr (F.SAW_Sn_STATUS_PC n) v, true)
  | 6 => (s.putPins n false 16 v, false)
  | _ => (s.putPins n true 16 v, false)

/-- LDI. -/
def State.doLdi (s : State) (n dst imm : Nat) : State :=
  match dst with
  | 0 => s.wr (F.SAW_Sn_X_VALUE n) imm
  | 1 => s.wr (F.SAW_Sn_Y_VALUE n) imm
  | 2 => s.wr (F.SAW_Sn_LC_LC n) imm
  | _ => s.wr (F.SAW_Sn_X_VALUE n) (s.sx n * 2 ^ 12 + imm)

/-- A sum into a register of w bits, its carry into F. -/
def State.addInto (s : State) (n : Nat) (f : Fld) (a b : Nat) : State :=
  (s.wr f (a + b)).sf n (decide (2 ^ f.w ≤ a + b))

/-- CALC. -/
def State.doCalc (s : State) (n fn imm : Nat) : State :=
  let x := s.sx n
  let y := s.sy n
  let X := F.SAW_Sn_X_VALUE n
  let k := imm % 32
  match fn with
  | 0 => s.addInto n X x y
  | 1 => (s.wr X (x + 2 ^ 32 - y)).sf n (decide (x < y))
  | 2 => s.addInto n X x (ofSigned 32 (toSigned 10 imm))
  | 3 => s.addInto n (F.SAW_Sn_Y_VALUE n) y (ofSigned 32 (toSigned 10 imm))
  | 4 => (s.wr X (Nat.land x y)).sf n false
  | 5 => (s.wr X (Nat.lor x y)).sf n false
  | 6 => (s.wr X (Nat.xor x y)).sf n false
  | 7 => (s.wr X y).wr (F.SAW_Sn_Y_VALUE n) x
  | 8 => (s.wr X (x * 2 ^ k)).sf n (k != 0 && bit x (32 - k))
  | 9 => (s.wr X (x / 2 ^ k)).sf n (k != 0 && bit x (k - 1))
  | _ => s.addInto n (F.SAW_Sn_LC_LC n) (s.slc16 n) (ofSigned 16 (toSigned 10 imm))

/-- POST (R243). Where X lies exactly 2^31 from TALLY both neighbours are within 2^31, and the choice is a free value. -/
def State.doPost (s : State) (n : Nat) (abs : Bool) : State :=
  let t := s.rd64 (F.SAW_Sn_TALLY_LO_TALLY n) (F.SAW_Sn_TALLY_HI_TALLY n)
  let d := (s.sx n + 2 ^ 32 - t % 2 ^ 32) % 2 ^ 32
  let half := abs && d == 2 ^ 31
  let step : Int :=
    if abs then (if half then (if s.free % 2 = 1 then (2 ^ 31 : Nat) else -(2 ^ 31 : Nat)) else toSigned 32 d)
    else toSigned 32 (s.sx n)
  let s := if half then s.draw else s
  let s := s.wr64 (F.SAW_Sn_TALLY_LO_TALLY n) (F.SAW_Sn_TALLY_HI_TALLY n) (ofSigned 64 ((t : Int) + step))
  s.setSaw n { s.saw n with postTs := s.now, posts := (s.saw n).posts + 1 }

/-- FLAG. -/
def State.doFlag (s : State) (n fn k : Nat) : State :=
  match fn with
  | 0 => (s.wrBit (F.SAW_Gg_FLAGS_FLAGS (n / 8)) k true).mark (.flagSet (n / 8) k)
  | 1 => (s.clearFlag (n / 8) k).mark (.flagCleared (n / 8) k)
  | _ => s.raise (F.SAW_Sn_IRQ_FLAGIRQ n)

/-- The action of an instruction that does not stall. HALT's state is its caller's. -/
def State.sawAct (s : State) (n : Nat) (op : SawOp) : State × Bool :=
  match op with
  | .br cond target => if s.brHolds n cond then (s.wr (F.SAW_Sn_STATUS_PC n) target, true) else (s, false)
  | .loop target =>
    if s.slc16 n = 0 then (s, false)
    else ((s.wr (F.SAW_Sn_LC_LC n) (s.slc16 n - 1)).wr (F.SAW_Sn_STATUS_PC n) target, true)
  | .wait src _ _ clr index => (s.waitDone n src clr index, false)
  | .shi src k => (s.doShi n src k, false)
  | .sho dst k => s.doSho n dst k
  | .send _ whenfull => (s.doSend n whenfull, false)
  | .take _ whenspent => (s.doTake n whenspent, false)
  | .copy dst src x => s.doCopy n dst src x
  | .ldi dst imm => (s.doLdi n dst imm, false)
  | .pinset dirs count v => (s.putPins n dirs count v, false)
  | .calc fn imm => (s.doCalc n fn imm, false)
  | .post abs => (s.doPost n abs, false)
  | .flag fn k => (s.doFlag n fn k, false)
  | .stamp => (s.setSaw n { s.saw n with stamp := s.stamp }, false)
  | .nop => (s, false)
  | .halt => (s, false)

/-- Whether an instruction cannot complete now (R238, R240). -/
def State.sawBlocks (s : State) (n : Nat) (op : SawOp) : Bool :=
  match op with
  | .wait src pol addx _ index => !(s.waitHolds n src pol addx index)
  | .send waitsp whenfull => waitsp && !(whenfull && !(s.isrFull n)) && s.rxFull n
  | .take waitdt whenspent => waitdt && !(whenspent && !(s.osrSpent n)) && (s.saw n).tx.isEmpty && (s.txAhead n).isNone
  | _ => false

/-- PC after an instruction that did not write it (R244). -/
def State.sawAdvance (s : State) (n : Nat) : State :=
  let x := s.saw n
  let pc := s.rd (F.SAW_Sn_STATUS_PC n)
  s.wr (F.SAW_Sn_STATUS_PC n) (if pc = x.wrapEnd then x.wrapStart else pc + 1)

/-- HALT (R244). -/
def State.sawHalts (s : State) (n : Nat) (op : SawOp) : State :=
  if op = .halt then (s.toSaw n sHalted).raise (F.SAW_Sn_IRQ_HALT n) else s

/-- FAULT (R244). -/
def State.sawFault (s : State) (n code : Nat) : State :=
  let s := (s.wr (F.SAW_Sn_FAULT_PC n) (s.rd (F.SAW_Sn_STATUS_PC n))).wr (F.SAW_Sn_FAULT_CODE n) code
  ((s.toSaw n sFault).raise (F.SAW_Sn_IRQ_FAULT n)).boomState 0x0C n sFault

/-! Delay (R237) -/

/-- The DELAY of an instruction that has completed begins; one that runs already grows by it. -/
def State.sawDelays (s : State) (n w : Nat) : State :=
  s.setSaw n { s.saw n with delay := (s.saw n).delay + sawDelay w }

/-- A tick in a delay; at its end a sawyer whose EN is 0 stops (R244). -/
def State.sawDelayTick (s : State) (n : Nat) : State :=
  let s := s.setSaw n { s.saw n with delay := (s.saw n).delay - 1 }
  if (s.saw n).delay = 0 ∧ !(s.on (F.SAW_Sn_CTL_EN n)) then s.toSaw n sStopped else s

/-- Whether a sawyer is within the delay of an instruction. -/
def State.sawDelaying (s : State) (n : Nat) : Bool := s.sawState n == sRun && (s.saw n).delay != 0

/-! Ticks -/

/-- A WAIT on a tally slot that is not bound (R242). -/
def State.waitUnbound (s : State) (op : SawOp) : Bool :=
  match op with
  | .wait 4 _ _ _ slot => !(s.bound slot)
  | _ => false

/-- Whether a sawyer is frozen by a running reload, at its instruction boundary (R247, R248), or its hub's sawyers are stopped (R397). -/
def State.sawFrozen (s : State) (n : Nat) : Bool :=
  s.twinIdle || !(s.powered (sawPower n)) || (match s.reloads.get? (n / 8) with
    | some (mask, _) => bit mask (n % 8) && !(s.sawDelaying n)
    | none => false)

/-- An instruction issued in RUN. -/
def State.sawIssue (s : State) (n w : Nat) (op : SawOp) : State :=
  let s := s.setSaw n { s.saw n with edge := false }
  let s := s.sideEffect n w
  if s.waitUnbound op then s.sawFault n 0x0C03
  else if s.sawBlocks n op then s.toSaw n sStalled
  else
    let (s, pc) := s.sawAct n op
    ((if pc then s else s.sawAdvance n).sawDelays n w).sawHalts n op

/-- An injection is discarded (R246). -/
def State.injBad (s : State) (n : Nat) : State := s.raise (F.SAW_Sn_IRQ_INJ_BAD n)

/-- A stalled WAIT whose condition has come true when an injection executes stays satisfied (R248). -/
def State.sawLatch (s : State) (n : Nat) : State :=
  match decodeSaw (s.sawFetch n) with
  | some (.wait src pol addx _ k) =>
    if s.sawState n = sStalled ∧ s.waitHolds n src pol addx k then s.setSaw n { s.saw n with edge := true } else s
  | _ => s

/-- An injected instruction (R246). In RUN its tick is also one of a delay that runs, and its own DELAY follows. -/
def State.sawInjected (s : State) (n w : Nat) (op : SawOp) : State :=
  let s := (s.wr (F.SAW_Sn_STATUS_INJ_PEND n) 0).sawLatch n
  let running := s.sawState n == sRun
  let s := if s.sawDelaying n then s.sawDelayTick n else s
  let edgeWait : Bool := match op with
    | .wait 1 _ _ _ _ => true
    | _ => false
  if s.waitUnbound op || edgeWait || s.sawBlocks n op then s.injBad n
  else
    let (s, pc) := (s.sideEffect n w).sawAct n op
    let stalled := s.sawState n == sStalled
    let s := if pc && stalled then s.toSaw n sRun else s
    (if running || (pc && stalled) then s.sawDelays n w else s).sawHalts n op

/-- The instruction that the next tick of a sawyer issues: the word, whether it is injected, and its decoding. -/
def State.sawNext (s : State) (n : Nat) : Option (Nat × Bool × Option SawOp) :=
  if s.sawFrozen n then none
  else if s.on (F.SAW_Sn_STATUS_INJ_PEND n) then
    let w := s.rd (F.SAW_Sn_INJ_WORD n)
    some (w, true, decodeSaw w)
  else if s.sawState n = sRun ∧ !(s.sawDelaying n) then
    let w := s.sawFetch n
    some (w, false, decodeSaw w)
  else none

/-- A tick that issues nothing passes a delay. -/
def State.sawPass (s : State) (n pads : Nat) : State :=
  if s.sawDelaying n && !(s.sawFrozen n) then (s.seePins n pads).sawDelayTick n else s

/-- A tick of a sawyer: it issues the instruction, where that is of the kind that `is` names, or passes a delay. -/
def State.sawTick (s : State) (n pads : Nat) (is : SawOp → Bool) : State :=
  match s.sawNext n with
  | some (w, inj, some op) =>
    if is op && !(s.waitUnbound op && !inj) then
      let s := s.seePins n pads
      if inj then s.sawInjected n w op else s.sawIssue n w op
    else s
  | some (_, _, none) => s
  | none => s.sawPass n pads

/-! The rows -/

def isBr : SawOp → Bool | .br .. => true | _ => false
def isLoop : SawOp → Bool | .loop .. => true | _ => false
def isWait : SawOp → Bool | .wait .. => true | _ => false
def isShi : SawOp → Bool | .shi .. => true | _ => false
def isSho : SawOp → Bool | .sho .. => true | _ => false
def isSend : SawOp → Bool | .send .. => true | _ => false
def isTake : SawOp → Bool | .take .. => true | _ => false
def isCopy : SawOp → Bool | .copy .. => true | _ => false
def isLdi : SawOp → Bool | .ldi .. => true | _ => false
def isPinset : SawOp → Bool | .pinset .. => true | _ => false
def isCalc : SawOp → Bool | .calc .. => true | _ => false
def isPost : SawOp → Bool | .post .. => true | _ => false
def isFlag : SawOp → Bool | .flag .. => true | _ => false
def isStamp : SawOp → Bool | .stamp => true | _ => false
def isNop : SawOp → Bool | .nop => true | _ => false
def isHalt : SawOp → Bool | .halt => true | _ => false

/-- BR to HALT: the sawyer's next tick issues that instruction (R238). -/
def execBr (sawyer : Fin 128) (pads : BitVec 16) (s : State) : Res := guarded s (·.sawTick sawyer pads.toNat isBr)
def execLoop (sawyer : Fin 128) (pads : BitVec 16) (s : State) : Res := guarded s (·.sawTick sawyer pads.toNat isLoop)
def execWait (sawyer : Fin 128) (pads : BitVec 16) (s : State) : Res := guarded s (·.sawTick sawyer pads.toNat isWait)
def execShi (sawyer : Fin 128) (pads : BitVec 16) (s : State) : Res := guarded s (·.sawTick sawyer pads.toNat isShi)
def execSho (sawyer : Fin 128) (pads : BitVec 16) (s : State) : Res := guarded s (·.sawTick sawyer pads.toNat isSho)
def execSend (sawyer : Fin 128) (pads : BitVec 16) (s : State) : Res := guarded s (·.sawTick sawyer pads.toNat isSend)
def execTake (sawyer : Fin 128) (pads : BitVec 16) (s : State) : Res := guarded s (·.sawTick sawyer pads.toNat isTake)
def execCopy (sawyer : Fin 128) (pads : BitVec 16) (s : State) : Res := guarded s (·.sawTick sawyer pads.toNat isCopy)
def execLdi (sawyer : Fin 128) (pads : BitVec 16) (s : State) : Res := guarded s (·.sawTick sawyer pads.toNat isLdi)
def execPinset (sawyer : Fin 128) (pads : BitVec 16) (s : State) : Res := guarded s (·.sawTick sawyer pads.toNat isPinset)
def execCalc (sawyer : Fin 128) (pads : BitVec 16) (s : State) : Res := guarded s (·.sawTick sawyer pads.toNat isCalc)
def execPost (sawyer : Fin 128) (pads : BitVec 16) (s : State) : Res := guarded s (·.sawTick sawyer pads.toNat isPost)
def execFlag (sawyer : Fin 128) (pads : BitVec 16) (s : State) : Res := guarded s (·.sawTick sawyer pads.toNat isFlag)
def execStamp (sawyer : Fin 128) (pads : BitVec 16) (s : State) : Res := guarded s (·.sawTick sawyer pads.toNat isStamp)
def execNop (sawyer : Fin 128) (pads : BitVec 16) (s : State) : Res := guarded s (·.sawTick sawyer pads.toNat isNop)
def execHalt (sawyer : Fin 128) (pads : BitVec 16) (s : State) : Res := guarded s (·.sawTick sawyer pads.toNat isHalt)

/-- INVALID_INSTRUCTION (R244, R246): an invalid word fetched, a WAIT on an unbound slot, or an invalid injection. -/
def execInvalidInstruction (sawyer : Fin 128) (pads : BitVec 16) (s : State) : Res :=
  guarded s (fun s =>
    let n := sawyer.val
    match s.sawNext n with
    | some (_, true, none) =>
      let s := (s.seePins n pads.toNat).wr (F.SAW_Sn_STATUS_INJ_PEND n) 0
      (s.injBad n).capture (s.saw n).injInit (s.ownFa 0 (F.SAW_Sn_INJ_WORD n).off) 0x0C07
    | some (_, false, none) => (s.seePins n pads.toNat).sawFault n 0x0C02
    | some (w, false, some op) => if s.waitUnbound op then (s.seePins n pads.toNat).sawIssue n w op else s
    | some (_, true, some _) => s
    | none => s.sawPass n pads.toNat)

/-- Whether a command of this cycle writes EN = 0 of a sawyer (R248). -/
def State.sawStopAhead (s : State) (n : Nat) : Bool :=
  s.ahead (fun i => match i with
    | .sawyerEnable k en => k.val == n && !en
    | _ => false)

/-- STALL_RELEASE (R241): the condition holds, or has been met; EN = 0 of the same cycle wins (R248). -/
def execStallRelease (sawyer : Fin 128) (pads : BitVec 16) (s : State) : Res :=
  guarded s (fun s =>
    let n := sawyer.val
    if s.sawState n = sStalled ∧ !(s.sawFrozen n) ∧ !(s.sawStopAhead n) then
      let s := s.seePins n pads.toNat
      let w := s.sawFetch n
      match decodeSaw w with
      | some op =>
        if s.sawBlocks n op && !(isWait op && (s.saw n).edge) then s
        else
          let (s, pc) := s.sawAct n op
          ((if pc then s else s.sawAdvance n).sawDelays n w).toSaw n sRun
      | none => s
    else s)

/-- The Calendar trigger of a sawyer (R127, R248). -/
def State.sawTrigger (s : State) (n : Nat) : State :=
  if s.on (F.SAW_Sn_STATUS_TRIG_PEND n) then (s.bump (F.SAW_Sn_CNT_TRIG_OVR n)).raise (F.SAW_Sn_IRQ_TRIG_OVR n)
  else s.raise (F.SAW_Sn_STATUS_TRIG_PEND n)

/-! Registers (R244 to R248) -/

/-- EN written (R244), on a sawyer that a GROVE section names (R53); a running sawyer stops once its instruction's delay has elapsed. -/
def State.sawEnable (s : State) (n : Nat) (en : Bool) : State :=
  let st := s.sawState n
  let s := s.wrB (F.SAW_Sn_CTL_EN n) en
  if en && st == sStopped && (s.saw n).used then s.toSaw n sRun
  else if !en && (st == sRun || st == sStalled) && !(s.sawDelaying n) then s.toSaw n sStopped
  else s

def execSawyerEnable (sawyer : Fin 128) (en : Bool) (s : State) : Res :=
  guarded s (fun s => (s.sawEnable sawyer en).ack)

/-- An injection is queued, or discarded and captured with 0x0C08 (R246). -/
def State.sawInject (s : State) (init : Initiator) (n w : Nat) : State :=
  if s.on (F.SAW_Sn_STATUS_INJ_PEND n) then (s.capture init (s.ownFa 0 (F.SAW_Sn_INJ_WORD n).off) 0x0C08).ack
  else
    let s := (s.wr (F.SAW_Sn_INJ_WORD n) w).raise (F.SAW_Sn_STATUS_INJ_PEND n)
    (s.setSaw n { s.saw n with injInit := init }).ack

def execSawyerInject (init : Initiator) (sawyer : Fin 128) (word : Word) (s : State) : Res :=
  guarded s (fun s => s.sawInject init sawyer word.toNat)

/-- A word for the TX FIFO (R245); one that a TAKE of this cycle has taken is spent (R248). -/
def State.sawTxf (s : State) (n w : Nat) : State :=
  let x := s.saw n
  if s.marked (.txfTaken n) then s.ack
  else if x.tx.length < 4 then (s.setSaw n { x with tx := x.tx ++ [w % 2 ^ 32] }).ack
  else ((s.bump (F.SAW_Sn_CNT_TXOVF n)).raise (F.SAW_Sn_IRQ_TXOVF n)).ack

def execSawyerTxfWrite (sawyer : Fin 128) (word : Word) (s : State) : Res :=
  guarded s (fun s => s.sawTxf sawyer word.toNat)

/-- A read of the RX FIFO (R245), as it is before a SEND of the same cycle (R248): the state after, and the word. -/
def State.sawRxf (s : State) (n : Nat) : State × Nat :=
  let x := s.saw n
  match (if s.marked (.sawSent n) then x.rx.dropLast else x.rx) with
  | w :: _ => (s.setSaw n { x with rx := x.rx.drop 1 }, w)
  | [] => (s.bump (F.SAW_Sn_CNT_RXUND n), 0)

def execSawyerRxfRead (sawyer : Fin 128) (s : State) : Res :=
  guarded s (fun s => let (t, w) := s.sawRxf sawyer; t.give [w])

/-- DROP written by an initiator (R245), unless the harvest wrote it in this cycle (R248). -/
def State.sawDrop (s : State) (n w : Nat) : State :=
  if s.marked (.dropHarvested n) then s else s.wr (F.SAW_Sn_DROP_DROP n) w

def execSawyerDropWrite (sawyer : Fin 128) (word : Word) (s : State) : Res :=
  guarded s (fun s => (s.sawDrop sawyer word.toNat).ack)

/-- The flags of a grove written by an initiator; FLAG instructions of the same cycle win (R248). -/
def State.groveFlags (s : State) (g v : Nat) : State :=
  s.wr (F.SAW_Gg_FLAGS_FLAGS g) (packBits 8 (fun k => s.marked (.flagSet g k) || (bit v k && !(s.marked (.flagCleared g k)))))

def execGroveFlagsWrite (grove : Fin 16) (flags : BitVec 8) (s : State) : Res :=
  guarded s (fun s => (s.groveFlags grove flags.toNat).ack)

/-- RELOAD (R247). -/
def State.sawReload (s : State) (init : Initiator) (g mask : Nat) (clean : Bool) : State :=
  let s := (s.wr (F.SAW_Gg_RELOAD_MASK g) mask).wrB (F.SAW_Gg_RELOAD_CLEAN g) clean
  if (s.reloads.get? g).isSome then (s.capture init (s.ownFa 0 (F.SAW_Gg_RELOAD_GO g).off) 0x0C05).ack
  else
    let s := s.ack.resStart (RR.SAW_Gg_RELOAD_RES g)
    if mask = 0 ∨ (setBits mask 8).any (fun k => !((s.saw (8 * g + k)).used)) then s.resDone (RR.SAW_Gg_RELOAD_RES g) 0x0C06
    else { s with reloads := s.reloads.insert g (mask, clean) }

def execReload (init : Initiator) (grove : Fin 16) (mask : BitVec 8) (clean : Bool) (s : State) : Res :=
  guarded s (fun s => s.sawReload init grove mask.toNat clean)

/-- One named sawyer is loaded. The Boom record of a CLEAN reload names no layout for its DATA: a free value (log entry 5). -/
def State.sawLoad (s : State) (n : Nat) (clean : Bool) : State :=
  let s := s.setSaw n { s.saw n with wrapStart := s.rd (F.SAW_Sn_PROG_WRAP_START n), wrapEnd := s.rd (F.SAW_Sn_PROG_WRAP_END n)
                                     edge := false, delay := 0 }
  let s := s.wr (F.SAW_Sn_STATUS_PC n) (s.rd (F.SAW_Sn_PROG_ENTRY n))
  let s := ((s.wr (F.SAW_Sn_FAULT_CODE n) 0).wr (F.SAW_Sn_FAULT_PC n) 0).toSaw n (if s.on (F.SAW_Sn_CTL_EN n) then sRun else sStopped)
  if clean then
    let r : BoomRec := { code := 0, kind := 2, unit := n, data := s.free % 2 ^ 64, writer := 0x0C }
    let s := (s.draw.boom r).raise (F.SAW_Sn_IRQ_CLEAN n)
    let s := (s.wr (F.SAW_Sn_ISR_VALUE n) 0).wr (F.SAW_Sn_STATUS_ISRCNT n) 0
    ((s.wr (F.SAW_Sn_OSR_VALUE n) 0).wr (F.SAW_Sn_STATUS_OSRCNT n) 32).wr (F.SAW_Sn_LC_LC n) 0
  else s

/-- RELOAD_COMPLETE (R247): every named sawyer has reached its boundary. -/
def execReloadComplete (grove : Fin 16) (s : State) : Res :=
  guarded s (fun s =>
    let g := grove.val
    match s.reloads.get? g with
    | some (mask, clean) =>
      if (setBits mask 8).any (fun k => s.sawDelaying (8 * g + k)) then s
      else
        let s := { s with reloads := s.reloads.erase g }
        let s := (setBits mask 8).foldl (fun t k => t.sawLoad (8 * g + k) clean) s
        s.resDone (RR.SAW_Gg_RELOAD_RES g) 0
    | none => s)

/-! Program memory accesses (R230) -/

/-- The form of R230. -/
def groveForm (off len : Nat) (enabled : Bool) : Bool :=
  enabled && decide (4 ≤ len) && decide (len ≤ 64) && len % 4 == 0 && off % 4 == 0 && off / 0x800 == (off + len - 1) / 0x800 &&
    decide (off + len ≤ 0x8000)

/-- A write to region 0x3. -/
def State.groveWrite (s : State) (init : Initiator) (off : Nat) (bs : List Nat) (enabled : Bool := true) : State :=
  if groveForm off bs.length enabled then (s.store 3 off bs).ack else s.refuse init (s.ownFa 3 off) 0x0C01

/-- A read of region 0x3. -/
def State.groveRead (s : State) (init : Initiator) (off len : Nat) (enabled : Bool := true) : State :=
  if groveForm off len enabled then s.give (s.bytes 3 off len) else s.refuse init (s.ownFa 3 off) 0x0C01

end Sys2Proof.Machine
end

