-- ==== Sys2Proof/Machine/Pins.lean ====
section
/-!
DEFINITION. What a slice pin drives: the row of R174 that applies, the roles of the personalities (07 R172, R176, R185; 08 R201), and a
sawyer's pins (09 R234). Where a personality sends bits whose levels it forms itself, the pin carries `signal`.
-/

namespace Sys2Proof.Machine

/-- The pull of pin k of a slice (PSL_Sn_PAD.PULL). -/
def State.padPull (s : State) (n k : Nat) : Nat := bits (s.rd (F.PSL_Sn_PAD_PULL n)) (2 * k) 2
def State.released (s : State) (n k : Nat) : PinDrive := .highZ (s.padPull n k)

/-- A SAFE code of PSL_Sn_CFG (R200) or of a GROVE section (R234) on pin k. -/
def State.safeDrive (s : State) (n k code : Nat) : PinDrive :=
  match code with
  | 1 => .level false
  | 2 => .level true
  | 3 => .highZ 1
  | _ => s.released n k

/-- The sawyer and the group pin that a slice pin is given to (R232). -/
def State.sawOf (s : State) (n k : Nat) : Option (Nat × Nat) :=
  s.saws.findSome? (fun p =>
    if p.2.used then ((List.range 16).find? (fun j => p.2.pins.getD j 0xFFFF == 4 * n + k)).map (fun j => (p.1, j)) else none)

/-- What the personality gives pin k while it runs (R176): UART TXD, DE and, in half duplex, RE_N; SPI master SCLK, MOSI and CS_N; SPI
slave MISO; I²C SCL and SDA; SSI CLK and CLK_DE; the pulse generator's OUT and B; CAN TXD and STB. Other pins are inputs or free. -/
def State.persPin (s : State) (n k : Nat) : PinDrive :=
  let sending := (s.slice n).sending
  let pol := s.on (F.PSL_PULSE_P0_POL n)
  let c := s.rd (F.PSL_Sn_CFG_LINK n)
  match s.pers n, k with
  | 1, 0 => if sending then .signal else .level true
  | 1, 2 => .level sending
  | 1, 3 => if s.par n (F.PSL_UART_P0_DUPLEX n) = 2 then .level sending else s.released n k
  | 2, 0 => if sending then .signal else .level (s.par n (F.PSL_SPI_P0_CPOL n) != 0)
  | 2, 1 => .signal
  | 2, 3 => .level (sending == (s.par n (F.PSL_SPI_P0_CSPOL n) != 0))
  | 3, 2 => .signal
  | 4, 0 => if sending then .signal else s.released n k
  | 4, 1 => if sending then .signal else s.released n k
  | 5, 0 => .signal
  | 5, 2 => .signal
  | 7, 0 => .level (s.pulseActive n == pol)
  | 7, 1 =>
    if s.on (F.PSL_PULSE_P0_BMODE n) || s.rd (F.PSL_PULSE_P0_MODE n) == 2 then .level (s.slice n).dir
    else .level (s.pulseComplement n == pol)
  | 10, 0 => if (s.canSt c).attempt.isSome && !(s.canListens c) then .signal else .level true
  | 10, 2 => .level (!(s.on (F.CAN_Cc_CTL_EN c)))
  | _, _ => s.released n k

/-- The hub's own rule for its pins, where it applies (R282, R397): none where the hub drives them. -/
def State.ownRule (s : State) (n k : Nat) (safe : PinDrive) : Option PinDrive :=
  if s.role = roleFenced then
    some (match s.slc.fencePins with
      | some (driven, level) => if bit driven (4 * n + k) then .level (bit level (4 * n + k)) else s.released n k
      | none => s.released n k)
  else if s.standby then some (s.released n k)
  else if s.pinQuar then some safe
  else none

/-- The power slice of the unit that a pin belongs to. -/
def State.pinPower (s : State) (n k : Nat) : Nat :=
  if s.pers n = 9 || !(bit (s.rd (F.PSL_Sn_CFG_PINS n)) k) then (s.sawOf n k).elim (slicePower n) (fun m => sawPower m.1)
  else if s.pers n = 10 then canPower (s.rd (F.PSL_Sn_CFG_LINK n))
  else slicePower n

/-- What a pin keeps while its power slice is not in RUN (R428). -/
def State.asleepPin (s : State) (n k : Nat) : Option PinDrive :=
  if s.powered (s.pinPower n k) then none else s.pwr.pins.get? (4 * n + k)

/-- A pin given to a sawyer (R234). -/
def State.sawDrive (s : State) (n k m j : Nat) : PinDrive :=
  match s.ownRule n k (s.safeDrive n k (bits (s.saw m).safe (2 * j) 2)) with
  | some d => d
  | none =>
    (s.asleepPin n k).getD
      (if s.sawDir m j then .level (bit (s.saw m).out j)
       else if bits (s.saw m).safe (2 * j) 2 = 3 then .highZ 1
       else s.released n k)

/-- What pin k of a slice drives (R174); in STANDBY every pin of the main die is high-impedance (R437), as are
the pads of a bank whose supply is outside its window (R463). -/
def State.slicePin (s : State) (n k : Nat) : PinDrive :=
  if s.pwr.standby || s.padsOff n || !s.almInForce || !(bit s.ported n) then .highZ 0
  else if s.pers n = 9 || !(bit (s.rd (F.PSL_Sn_CFG_PINS n)) k) then
    match s.sawOf n k with
    | some (m, j) => s.sawDrive n k m j
    | none => s.released n k
  else
    let safe := s.safeDrive n k (bits (s.rd (F.PSL_Sn_CFG_SAFE n)) (2 * k) 2)
    match s.ownRule n k safe with
    | some d => d
    | none => (s.asleepPin n k).getD (if s.on (F.PSL_Sn_CTL_EN n) then s.persPin n k else safe)

/-- The pins that a fenced hub holds, and their levels (R397). The level of a bit being sent is a free value. -/
def State.heldPins (s : State) : Nat × Nat :=
  (packBits 192 (fun i => match s.slicePin (i / 4) (i % 4) with
    | .highZ _ => false
    | _ => true),
   packBits 192 (fun i => match s.slicePin (i / 4) (i % 4) with
    | .level v => v
    | .signal => bit s.free i
    | .highZ _ => false))

end Sys2Proof.Machine
end

