-- ==== Sys2Proof/Machine/Calendar.lean ====
section
/-!
DEFINITION. The Calendar: entries, arming, prediction, commit, edges and launches, late correction, and the Sluice's events and
forces (05).
-/

namespace Sys2Proof.Machine

/-! Entries (R105, R109, R113) -/

def State.ent (s : State) (i : Nat) : CalEntry := s.sch.entries.getD i {}
def State.setEnt (s : State) (i : Nat) (e : CalEntry) : State :=
  { s with sch := { s.sch with entries := s.sch.entries.put i e {} } }

/-- An entry is live (R110). -/
def CalEntry.live (e : CalEntry) : Bool := decide (1 ≤ e.state) && decide (e.state ≤ 5)

/-- Bit numbers of FLAGS (R109). -/
def fMoved : Nat := 0
def fWithdrawn : Nat := 1
def fCatchup : Nat := 2
def fLatecor : Nat := 3
def fUnchecked : Nat := 4
def fInhibited : Nat := 5
def fNopower : Nat := 6
def fStep : Nat := 7
def fLqEmpty : Nat := 9
def fSluice : Nat := 10
def fFw : Nat := 11
def fHandover : Nat := 12
def fOverrun : Nat := 13
def fAlmanac : Nat := 14

def CalEntry.flag (e : CalEntry) (n : Nat) : CalEntry := { e with flags := setBit e.flags n true }

/-- Fields of CTRL, TARGET, SLOT, GROUP. -/
def CalEntry.action (e : CalEntry) : Nat := e.ctrl % 8
def CalEntry.dir (e : CalEntry) : Nat := bits e.ctrl 3 2
def CalEntry.strict (e : CalEntry) : Bool := bit e.ctrl 5
def CalEntry.tally (e : CalEntry) : Bool := bit e.ctrl 6
def CalEntry.kind (e : CalEntry) : Nat := bits e.target 12 4
def CalEntry.unit (e : CalEntry) : Nat := bits e.target 0 12
def CalEntry.slotNo (e : CalEntry) : Nat := e.slot % 32
def CalEntry.inGroup (e : CalEntry) (mask : Nat) : Bool := bit e.group 7 && bit mask (e.group % 32)

/-- Action codes of R107. -/
def aSet : Nat := 1
def aClear : Nat := 2
def aPulse : Nat := 3
def aToggle : Nat := 4
def aLaunch : Nat := 5

/-- The 32 bytes of an entry (R105). -/
def CalEntry.image (e : CalEntry) : List Nat :=
  leBytes 10 e.trigger ++ leBytes 2 e.target ++ leBytes 4 e.expiry ++ leBytes 4 e.param ++
    [e.ctrl, e.slot, e.commit, e.tol, e.group, e.rsv] ++ leBytes 2 e.flags ++ [e.state, 0] ++ leBytes 2 e.err

/-- The entry whose bytes 0x00 to 0x19 are given. -/
def CalEntry.load (e : CalEntry) (bs : List Nat) : CalEntry :=
  { e with trigger := leAt bs 0 10, target := leAt bs 10 2, expiry := leAt bs 12 4, param := leAt bs 16 4, ctrl := leAt bs 20 1
           slot := leAt bs 21 1, commit := leAt bs 22 1, tol := leAt bs 23 1, group := leAt bs 24 1, rsv := leAt bs 25 1 }

/-- The form of R110. -/
def calForm (off len : Nat) (enabled : Bool) : Bool :=
  enabled && decide (4 ≤ len) && decide (len ≤ 32) && len % 4 == 0 && off % 4 == 0 && off / 32 == (off + len - 1) / 32 &&
    decide (off + len ≤ 0x40000)

/-- A write to region 0x7 (R110). -/
def State.calWrite (s : State) (init : Initiator) (off : Nat) (bs : List Nat) (enabled : Bool := true) : State :=
  let fa := s.ownFa 7 off
  if !(calForm off bs.length enabled) then s.refuse init fa 0x060F
  else
    let e := s.ent (off / 32)
    let o := off % 32
    if e.live && decide (o < 0x1A) then s.refuse init fa 0x0606
    else
      let old := e.image
      let new := old.take o ++ bs.map (· % 256) ++ old.drop (o + bs.length)
      (s.setEnt (off / 32) (e.load new)).ack

/-- A read of region 0x7. -/
def State.calRead (s : State) (init : Initiator) (off len : Nat) (enabled : Bool := true) : State :=
  if calForm off len enabled then s.give (bytesAt (s.ent (off / 32)).image (off % 32) len)
  else s.refuse init (s.ownFa 7 off) 0x060F

/-! Times -/

/-- The instant of a time-basis TRIGGER, in 2^-16 ns (R106). -/
def State.triggerTime (s : State) (trigger : Nat) : Nat :=
  let nowSec := s.now / second16
  let sec : Int := (nowSec : Int) + toSigned 32 ((bits trigger 48 32 + 2 ^ 32 - nowSec % 2 ^ 32) % 2 ^ 32)
  sec.toNat * second16 + bits trigger 0 48

/-- TRIGGER of a tally-basis entry as a position in counts. -/
def CalEntry.position (e : CalEntry) : Rat := counts (toSigned 80 e.trigger)

/-- Minimum lead of a target (R128). -/
def CalEntry.lead (e : CalEntry) : Nat := if e.kind = 2 then ns16 400 else ns16 100

/-- The commit window W (R105). -/
def State.window (s : State) (e : CalEntry) : Nat :=
  ns16 (500 * (if e.commit = 0 then s.rd F.SCH_CTL_DEF_COMMIT else e.commit))

/-- The last instant of a tally-basis entry: arming plus EXPIRY. -/
def CalEntry.lastInst (e : CalEntry) (far : Nat) : Nat := if e.expiry = 0 then far else e.armed + us16 e.expiry

/-- The prediction of a tally-basis entry (R116, R119). -/
def State.predict (s : State) (e : CalEntry) : Option Nat :=
  if e.strict && s.slotState e.slotNo != tTracking then none
  else s.slotTimeOf e.slotNo e.position e.dir (e.lastInst (s.now + s.horizon e.slotNo))

/-! Edge queues and commit (R113, R124, R125) -/

/-- Committed edges of a target. -/
def State.edges (s : State) (target : Nat) : Nat :=
  s.sch.entries.foldl (fun n p =>
    if p.2.target != target then n
    else if p.2.state = cCommitted then n + (if p.2.action = aPulse then 2 else 1)
    else if p.2.state = cPulsing then n + 1 else n) 0

/-- The depth of a target's edge queue; a launch target has none. -/
def CalEntry.edgeRoom (e : CalEntry) : Option Nat := if e.kind = 1 then some 8 else if e.kind = 2 then some 4 else none

/-- An entry expires. -/
def State.calExpire (s : State) (i : Nat) (e : CalEntry) : State :=
  ((s.setEnt i { e with state := cExpired }).raise F.SCH_IRQ_EXPIRED).bump F.SCH_CNT1_EXPIRED

/-- NOPOWER at an edge: the flag, the interrupt and the count. -/
def State.noPower (s : State) : State := (s.raise F.SCH_IRQ_NOPOWER).bump F.SCH_CNT2_NOPOWER

/-- The CCLK cycle that contains an instant, at the nominal 0.8 ns a cycle (DESIGN CHOICE: R114 and R73 do not say whether TIM_RATE counts
here). -/
def State.clkOf (s : State) (t : Nat) : Nat := s.clk + (t - s.now) * 5 / 262144

/-- An entry commits: its edge is fixed, or nothing is sent, or the target's queue is full (R113, R125). -/
def State.calCommit (s : State) (i : Nat) (e : CalEntry) : State :=
  let early := s.now + e.lead
  let e := if e.inst < early then { e.flag fCatchup with inst := early } else e
  if e.kind = 2 ∧ !(s.feedSeen (e.unit / 8)) then
    let s := (s.setEnt i { e.flag fNopower with state := cDone }).noPower
    s.boom { code := 0x060D, kind := 2, unit := i,
             data := e.unit + 256 * (e.unit / 8) + 65536 * s.rd (F.CHK_Fn_STATUS_STATE (e.unit / 8)) }
  else
    let need := if e.action = aPulse then 2 else 1
    match e.edgeRoom with
    | some room =>
      if room < s.edges e.target + need then s.calExpire i (e.flag fOverrun)
      else s.setEnt i { e with state := cCommitted, dueClk := s.clkOf e.inst }
    | none => s.setEnt i { e with state := cCommitted, dueClk := s.clkOf e.inst }

/-- An entry with a predicted instant: ARMED, or COMMITTED at once when its commit instant has come. -/
def State.calArm (s : State) (i : Nat) (e : CalEntry) : State :=
  if e.inst ≤ s.now + s.window e then s.calCommit i { e with state := cArmed }
  else s.setEnt i { e with state := cArmed }

/-! ARM (R111) -/

/-- Whether an action is one that R107 gives a kind. -/
def actionValid (kind action : Nat) : Bool :=
  if kind ≤ 2 then decide (1 ≤ action) && decide (action ≤ 4) else action == aLaunch

/-- Whether PARAM, COMMIT and the reserved bits are ones that R105 and R107 give. -/
def CalEntry.rangesValid (e : CalEntry) : Bool :=
  let param : Bool :=
    if e.kind = 5 then decide (e.param < 64)
    else if e.action = aPulse then decide ((if e.kind = 1 then 4 else 20000) ≤ e.param)
    else e.param == 0
  param && decide (e.commit ≤ 200) && e.dir != 3 && !(bit e.ctrl 7) && decide (e.slot < 32) && bits e.group 5 2 == 0 && e.rsv == 0

/-- Whether the target unit exists and is one the entry's kind accepts, under the Almanac in force (R111 step 4). -/
def State.targetOk (s : State) (e : CalEntry) : Bool :=
  s.almInForce && (match e.kind with
    | 1 => decide (e.unit < 32) && s.fastOut e.unit && !(s.on (F.PSL_FLn_CFG_SRC e.unit))
    | 2 => decide (e.unit < 128) && s.lineOut e.unit
    | 3 => decide (e.unit < 128) && (s.saw e.unit).used
    | 4 => decide (e.unit < 16) && s.on (F.SWC_LQq_CFG_EN e.unit)
    | 5 => decide (e.unit < 16) && bit s.canned e.unit && s.bufMode e.unit (e.param % 64) == 1
    | _ => decide (e.unit < 48) && bit s.ported e.unit)

/-- Whether an entry index lies in its kind's partition (R108). -/
def State.inPartition (s : State) (kind i : Nat) : Bool :=
  let base := s.rd (F.SCH_PARTn_BASE (kind - 1))
  decide (base ≤ i) && decide (i < base + s.rd (F.SCH_PARTn_SIZE (kind - 1)))

/-- Whether an active Sluice event holds an entry's group (R135), one that rises in this cycle included (R120). -/
def State.groupHeld (s : State) (e : CalEntry) : Bool :=
  let rises (v : Nat) : Bool := s.ahead (fun i => match i with
    | .sluiceEventRise k => k.val == v && s.eventTerm v
    | _ => false)
  (List.range 32).any (fun v => (bit s.slc.events v || rises v) && e.inGroup (s.rd (F.SLC_Ee_GRP_GRP v)))

/-- The code of an ARM: the first check that fails (R111). -/
def State.armCode (s : State) (i : Nat) (e : CalEntry) : Nat :=
  if e.live then 0x0602
  else if e.kind = 0 ∨ 6 < e.kind then 0x0603
  else if !(actionValid e.kind e.action) then 0x0607
  else if !e.rangesValid then 0x0608
  else if !(s.targetOk e) then 0x0603
  else if !(s.inPartition e.kind i) then 0x0601
  else if !e.tally && !(decide (bits e.trigger 16 32 < 1000000000)) then 0x0609
  else if !e.tally && decide (s.triggerTime e.trigger < s.now + e.lead) then 0x0605
  else if e.tally && !(s.bound e.slotNo) then 0x0604
  else if s.groupHeld e then 0x060A
  else 0

/-- An ARM command performed: the state after, and its code. -/
def State.doArm (s : State) (i : Nat) : State × Nat :=
  let e := s.ent i
  match s.armCode i e with
  | 0 =>
    let e := { e with flags := 0, err := 0, armed := s.now, check := e.tally && e.tol != 0, dropped := false }
    (if e.tally then
      match s.predict e with
      | some t => s.calArm i { e with inst := t }
      | none => s.setEnt i { e with state := cWaiting }
    else s.calArm i { e with inst := s.triggerTime e.trigger }, 0)
  | c => (s, c)

/-! Edges -/

/-- The level an edge gives, from the level as it stands. -/
def edgeLevel (action : Nat) (now : Bool) : Bool :=
  if action = aClear then false else if action = aToggle then !now else true

/-- Whether a target's line is forced by the Sluice (R123). -/
def State.targetForced (s : State) (e : CalEntry) : Bool :=
  if e.kind = 1 then s.fastForced e.unit else s.bankForced (e.unit / 8)

/-- An edge reaches its line's normal or commanded value. -/
def State.applyEdge (s : State) (e : CalEntry) (action : Nat) : State :=
  if e.kind = 1 then (s.setNormal e.unit (edgeLevel action (s.fastNormal e.unit))).mark (.edgeOn e.unit)
  else s.lineCommand e.unit (edgeLevel action (s.on (F.FLD_Ln_STAT_CMD e.unit)))

/-- The edges committed on a line and not yet applied: cycle, instant, entry. -/
def State.edgesOf (s : State) (target : Nat) : List (Nat × Nat × Nat) :=
  s.sch.entries.filterMap (fun p =>
    if p.2.target != target then none
    else if p.2.state = cCommitted then some (p.2.dueClk, p.2.inst, p.1)
    else if p.2.state = cPulsing then some (p.2.trailClk, p.2.inst + ns16 p.2.param, p.1)
    else none)

/-- Whether an edge on a fast line at an instant merges into a later one, less than 2 ns after it (R124). -/
def State.mergesAway (s : State) (e : CalEntry) (t : Nat) : Bool :=
  e.kind == 1 && (s.edgesOf e.target).any (fun x => decide (t < x.2.1) && decide (x.2.1 < t + ns16 2))

/-- An edge of entry i falls at an instant: it has no effect where a keeper discarded it (R146) or a later edge takes it up (R124), and is
discarded under force (R123); a field line without feed marks the entry NOPOWER (R125). -/
def State.fallEdge (s : State) (i : Nat) (action t : Nat) : State :=
  let e := s.ent i
  let s :=
    if e.dropped || s.mergesAway e t then s
    else if s.targetForced e then ((s.setEnt i (e.flag fInhibited)).raise F.SCH_IRQ_INHIBITED).bump F.SCH_CNT2_INHIBITED
    else s.applyEdge e action
  if e.kind = 2 ∧ !(s.feedSeen (e.unit / 8)) then (s.setEnt i ((s.ent i).flag fNopower)).noPower else s

/-- The frame at the head of a launch queue. -/
def State.lqHead (s : State) (q : Nat) : Option BufFrame :=
  s.swc.frames.find? (fun b => b.lq == some q && b.launched.isNone)

/-- A LAUNCH takes effect (R126, R127). -/
def State.launch (s : State) (i : Nat) : State :=
  let e := s.ent i
  match e.kind with
  | 3 => if s.powered (sawPower e.unit) then s.sawTrigger e.unit else s.holdTrigger (sawPower e.unit) 3 e.unit 0
  | 4 =>
    match s.lqHead e.unit with
    | some b =>
      { s with swc := { s.swc with frames := s.swc.frames.map (fun (x : BufFrame) =>
          if x.id = b.id then { x with launched := some (s.clk, i) } else x) } }
    | none =>
      ({ s with swc := { s.swc with windows := s.swc.windows.filter (fun w => w.2 != i) } }.setEnt i (e.flag fLqEmpty)).raise
        F.SCH_IRQ_LQ_EMPTY
  | 5 =>
    if s.powered (canPower e.unit) then s.canRequest e.unit (e.param % 64)
    else s.holdTrigger (canPower e.unit) 5 e.unit (e.param % 64)
  | _ => if s.powered (slicePower e.unit) then s.sliceStart e.unit else s.holdTrigger (slicePower e.unit) 6 e.unit 0

/-- A committed entry's instant (R113). -/
def State.calFire (s : State) (i : Nat) : State :=
  let e := s.ent i
  let s := if bit e.flags fCatchup then s.raise F.SCH_IRQ_CATCHUP else s
  let s := if e.action = aLaunch then s.launch i else s.fallEdge i e.action e.inst
  let s := s.mark (.entryFired i)
  let e := s.ent i
  if e.action = aPulse then s.setEnt i { e with state := cPulsing, trailClk := e.dueClk + nsClk e.param }
  else s.setEnt i { e with state := if e.check then cFired else cDone }

/-- The trailing edge of a pulse (R113). -/
def State.calTrail (s : State) (i : Nat) : State :=
  let s := (s.fallEdge i aClear ((s.ent i).inst + ns16 (s.ent i).param)).mark (.entryFired i)
  let e := s.ent i
  s.setEnt i { e with state := if e.check then cFired else cDone }

/-- Whether an edge comes before another: by cycle, instant and entry (R124). -/
def edgeBefore (a b : Nat × Nat × Nat) : Bool :=
  decide (a.1 < b.1) || (a.1 == b.1 && (decide (a.2.1 < b.2.1) || (a.2.1 == b.2.1 && decide (a.2.2 < b.2.2))))

/-- An entry's edge takes place, leading or trailing. -/
def State.calEdge (s : State) (i : Nat) : State := if (s.ent i).state = cPulsing then s.calTrail i else s.calFire i

/-- The edge of entry i takes place, those before it on its line first (R124). A launch is no edge. -/
def State.calDue (s : State) (i : Nat) : State :=
  let e := s.ent i
  if e.edgeRoom.isNone then s.calEdge i
  else
    let me : Nat × Nat × Nat := if e.state = cPulsing then (e.trailClk, e.inst + ns16 e.param, i) else (e.dueClk, e.inst, i)
    let before := (s.edgesOf e.target).filter (fun x => edgeBefore x me)
    let sorted := before.foldl (fun (l : List (Nat × Nat × Nat)) x => l.takeWhile (fun y => edgeBefore y x) ++ [x] ++
      l.dropWhile (fun y => edgeBefore y x)) []
    (sorted.foldl (fun t x => t.calEdge x.2.2) s).calEdge i

/-- A live entry is retracted with a flag; a pulse's trailing edge falls at once, even under force (R113, R123). An edge of the same cycle
takes place all the same (R120). -/
def State.calRetract (s : State) (i flag : Nat) : State :=
  let e := s.ent i
  let due := !s.twinIdle && ((e.state == cCommitted && decide (e.dueClk ≤ s.clk)) || (e.state == cPulsing && decide (e.trailClk ≤ s.clk)))
  let s := if due then s.calDue i else s
  let e := s.ent i
  if !e.live || (e.state == cFired && s.marked (.entryFired i)) then s
  else
    let s := if e.state = cPulsing then s.applyEdge e aClear else s
    s.setEnt i { e.flag flag with state := cRetracted }

/-- Every entry index listed. -/
def State.calIndexes (s : State) : List Nat := s.sch.entries.map (·.1)

/-- Live entries that a mask of groups names are retracted. -/
def State.retractGroups (s : State) (mask flag : Nat) : State :=
  s.calIndexes.foldl (fun t i => if (t.ent i).live && (t.ent i).inGroup mask then t.calRetract i flag else t) s

/-! Commands (R111, R112) -/

/-- An SCH command performed: the state after, and its code. -/
def State.schDo (s : State) (op i : Nat) : State × Nat :=
  if op = 1 then s.doArm i
  else if (s.ent i).live then (s.calRetract i fFw, 0)
  else (s, 0x060B)

/-- A GO of a bank: performed at once, or after the command that runs in the bank. -/
def State.schGo (s : State) (b op i : Nat) : State :=
  let s := s.resStart (RR.SCH_CMD_RES b)
  let l := s.sch.banks.getD b []
  match l with
  | [] =>
    let (s, c) := s.schDo op i
    { s with sch := { s.sch with banks := s.sch.banks.put b [(op, i, some c)] [] } }
  | _ => { s with sch := { s.sch with banks := s.sch.banks.put b (l ++ [(op, i, none)]) [] } }

/-- A write of SCH_CMD: OP 0b00 and 0b11 do nothing. -/
def State.schCmd (s : State) (init : Initiator) (op i : Nat) (go : Bool) : State :=
  let b := bankOf init
  let s := ((s.wr (F.SCH_CMD_OP b) op).wr (F.SCH_CMD_INDEX b) i).ack
  if go && (op == 1 || op == 2) then s.schGo b op i else s

def execArm (init : Initiator) (index : Fin 8192) (s : State) : Res :=
  guarded s (fun s => s.schCmd init 1 index true)

def execRetract (init : Initiator) (index : Fin 8192) (s : State) : Res :=
  guarded s (fun s => s.schCmd init 2 index true)

/-- SCH_CMD_COMPLETE: the bank's command ends; the result is that of the command started last. -/
def execSchCmdComplete (bank : Fin 3) (s : State) : Res :=
  guarded s (fun s =>
    match s.sch.banks.getD bank [] with
    | [] => s
    | [(_, _, c)] =>
      { s with sch := { s.sch with banks := s.sch.banks.put bank [] [] } }.resDone (RR.SCH_CMD_RES bank) (c.getD 0)
    | _ :: (op, i, _) :: l =>
      let (s, c) := s.schDo op i
      { s with sch := { s.sch with banks := s.sch.banks.put bank ((op, i, some c) :: l) [] } })

def execRetractGroup (groups : Word) (s : State) : Res :=
  guarded s (fun s => (s.retractGroups groups.toNat fFw).ack)

/-! The Calendar's own instants -/

/-- ENTRY_COMMIT (R113). -/
def execEntryCommit (index : Fin 8192) (s : State) : Res :=
  guarded s (fun s =>
    let e := s.ent index
    if e.state = cArmed ∧ e.inst ≤ s.now + s.window e ∧ !s.twinIdle then s.calCommit index e else s)

/-- ENTRY_INSTANT: at or after the cycle of the fixed edge. -/
def execEntryInstant (index : Fin 8192) (s : State) : Res :=
  guarded s (fun s =>
    let e := s.ent index
    if e.state = cCommitted ∧ e.dueClk ≤ s.clk ∧ !s.twinIdle then s.calDue index else s)

/-- PULSE_TRAILING_EDGE. -/
def execPulseTrailingEdge (index : Fin 8192) (s : State) : Res :=
  guarded s (fun s =>
    let e := s.ent index
    if e.state = cPulsing ∧ e.trailClk ≤ s.clk ∧ !s.twinIdle then s.calDue index else s)

/-- Whether EXPIRY of a tally-basis entry has passed (R105). -/
def State.calExpired (s : State) (e : CalEntry) : Bool := e.tally && e.expiry != 0 && decide (e.armed + us16 e.expiry ≤ s.now)

/-- ENTRY_EXPIRY. -/
def execEntryExpiry (index : Fin 8192) (s : State) : Res :=
  guarded s (fun s =>
    let e := s.ent index
    if (e.state = cWaiting ∨ e.state = cArmed) ∧ s.calExpired e ∧ !s.twinIdle then
      s.calExpire index e
    else s)

/-! Speculation (R117, R119) -/

/-- No instant is predicted: an ARMED entry waits again (R119). -/
def State.calWithdraw (s : State) (i : Nat) (e : CalEntry) : State :=
  if e.state = cArmed then
    ((s.setEnt i { e.flag fWithdrawn with state := cWaiting }).raise F.SCH_IRQ_WITHDRAWN).bump F.SCH_CNT0_WITHDRAWN
  else s

/-- A WAITING or ARMED entry of a tally basis is predicted anew. One whose commit instant has been reached commits on its previous
prediction (R117), and one whose EXPIRY has passed expires (R120). -/
def State.repredict (s : State) (i : Nat) : State :=
  let e := s.ent i
  if e.state = cArmed ∧ e.inst ≤ s.now + s.window e then s.calCommit i e
  else if s.calExpired e then s.calExpire i e
  else match s.predict e with
  | some t =>
    if e.state = cWaiting then s.calArm i { e with inst := t }
    else if t = e.inst then s.calArm i e
    else (s.bump F.SCH_CNT0_MOVED).calArm i { e.flag fMoved with inst := t }
  | none => s.calWithdraw i e

/-- An index is put into a list ordered by a measure. -/
def insertBy (g : Nat → Nat) (i : Nat) : List Nat → List Nat
  | [] => [i]
  | j :: l => if g i < g j then i :: j :: l else j :: insertBy g i l

/-- Indexes in ascending order of a measure. -/
def orderBy (g : Nat → Nat) (l : List Nat) : List Nat := l.foldl (fun acc i => insertBy g i acc) []

/-- Re-prediction of a slot's entries, earliest current instant first (R117); a standby fires nothing and predicts at takeover. -/
def State.repredictSlot (s : State) (n : Nat) (waitingOnly : Bool := false) : State :=
  if s.twinIdle then s
  else
    let sel := s.calIndexes.filter (fun i =>
      let e := s.ent i
      e.tally && e.slotNo == n && (e.state == cWaiting || (e.state == cArmed && !waitingOnly)))
    (orderBy (fun i => (s.ent i).inst) sel).foldl (fun t i => t.repredict i) s

/-! Late correction (R121) -/

/-- A rational in units of 2^-n, to the nearest; a tie goes as Config.roundUp gives. -/
def nearest (n : Nat) (q : Rat) : Int :=
  let r : Rat := q * (((2 ^ n : Nat) : Int) : Rat)
  let f := r.num / (r.den : Int)
  let twice := 2 * (r.num - f * (r.den : Int))
  if twice < (r.den : Int) then f
  else if (r.den : Int) < twice then f + 1
  else if Config.roundUp r.num r.den then f + 1 else f

/-- A check completes under a fit. -/
def State.calCheck (s : State) (i : Nat) (fit : Fit) : State :=
  let e := s.ent i
  let err := fit.posAt e.inst - e.position
  let pattern := satPattern 16 (nearest 8 err)
  let beyond : Bool := decide (((e.tol : Int) : Rat) < 16 * err) || decide (16 * err < -((e.tol : Int) : Rat))
  let e := { e with err := pattern, check := false, state := if e.state = cFired then cDone else e.state }
  if beyond then
    let s := (s.setEnt i (e.flag fLatecor)).raise F.SCH_IRQ_LATECOR
    let s := ((s.raise F.SCH_LATE_IDX_VALID).wr F.SCH_LATE_IDX_INDEX i).wr F.SCH_LATE_ERR_ERR pattern
    let data := pattern + 2 ^ 16 * e.slotNo + 2 ^ 32 * bits e.trigger 16 32
    (s.bump F.SCH_CNT1_LATECOR).boom { code := 0x060E, kind := 4, unit := i, data := data }
  else s.setEnt i e

/-- Whether an entry waits for a check on a slot. -/
def CalEntry.awaits (e : CalEntry) (n : Nat) : Bool :=
  e.check && e.tally && e.slotNo == n && (e.state == cFired || e.state == cPulsing)

/-- Checks due on a slot use a fit made by a sample of a later time than the fired instant. -/
def State.calChecks (s : State) (n : Nat) (fit : Fit) (sampleTs : Nat) : State :=
  s.calIndexes.foldl (fun t i => if (t.ent i).awaits n && decide ((t.ent i).inst < sampleTs) then t.calCheck i fit else t) s

/-- Checks on a slot are abandoned, those of committed entries too. -/
def State.calAbandon (s : State) (n : Nat) : State :=
  s.calIndexes.foldl (fun t i =>
    let e := t.ent i
    if e.awaits n || (e.state == cCommitted && e.check && e.tally && e.slotNo == n) then
      t.setEnt i { e.flag fUnchecked with err := 0, check := false, state := if e.state = cFired then cDone else e.state }
    else t) s

/-! Fabric time steps (R115) -/

/-- One ARMED entry meets a step. -/
def State.calStepEntry (s : State) (i : Nat) : State :=
  let e := (s.ent i).flag fStep
  if e.tally then s.setEnt i e
  else
    let e := { e with inst := s.triggerTime e.trigger }
    if s.now + e.lead ≤ e.inst then s.calArm i e
    else if s.on F.SCH_CTL_STEP_LATE then s.calCommit i e
    else s.calExpire i e

/-- TIM_IRQ.STEP reaches the Calendar. -/
def State.calStep (s : State) : State :=
  let sel := s.calIndexes.filter (fun i => (s.ent i).state == cArmed)
  if sel.isEmpty then s else (sel.foldl (fun t i => t.calStepEntry i) s).raise F.SCH_IRQ_STEP

/-- ARMED entries that use DEF_COMMIT and whose commit instant has come commit with the value as it was (R120). -/
def State.defCommitDue (s : State) : State :=
  s.calIndexes.foldl (fun t i =>
    let e := t.ent i
    if e.state = cArmed ∧ e.commit = 0 ∧ e.inst ≤ t.now + t.window e ∧ !t.twinIdle then t.calCommit i e else t) s

/-- DEF_COMMIT changed: an ARMED entry that uses it and whose commit instant has passed commits at once (R105). -/
def State.defCommitChanged (s : State) : State :=
  s.calIndexes.foldl (fun t i =>
    let e := t.ent i
    if e.state = cArmed ∧ e.commit = 0 ∧ e.inst ≤ t.now + t.window e then t.calCommit i e else t) s

/-! LAUNCH_WINDOW_OPEN (R305) -/

/-- The egress holds off lower-class starts before a launch of an entry committed or armed on a launch queue. -/
def execLaunchWindowOpen (index : Fin 8192) (s : State) : Res :=
  guarded s (fun s =>
    let e := s.ent index
    let p := s.rd (F.SWC_LQq_CFG_PORT e.unit)
    if e.kind == 4 && s.windowDue p index && !(s.swc.windows.contains (p, index.val)) then
      { s with swc := { s.swc with windows := s.swc.windows.filter (fun w => w.2 != index.val) ++ [(p, index.val)] } }
    else s)

/-! Sluice events (R135) -/

/-- Lines of newly forced banks keep the level they drove, for HOLD (R152). -/
def State.noteForce (before s : State) : State :=
  (List.range 16).foldl (fun t b =>
    if s.bankForced b && !(before.bankForced b) then
      (linesOf b).foldl (fun u n => u.setLine n { u.line n with forceHeld := before.lineDriven n }) t
    else t) s

/-- SLUICE_EVENT_RISE: the event's terms hold and have passed its sources' filters. -/
def execSluiceEventRise (event : Fin 32) (s : State) : Res :=
  guarded s (fun s =>
    let e := event.val
    if bit s.slc.events e ∨ !(s.eventTerm e) then s
    else
      let s0 := s
      let mode := s.rd (F.SLC_Ee_CFG_MODE e)
      let latched := if mode = 2 then setBit s.slc.latched e true else s.slc.latched
      let s := s0.noteForce { s with slc := { s.slc with events := setBit s.slc.events e true, latched := latched } }
      let grp := s.rd (F.SLC_Ee_GRP_GRP e)
      let any := s.calIndexes.any (fun i => (s.ent i).live && (s.ent i).inGroup grp)
      let s := s.retractGroups grp fSluice
      let s := if any then s.raise F.SCH_IRQ_SLC_RETRACT else s
      if s.on (F.SLC_Ee_CFG_IRQ e) then s.raiseBit F.SLC_EVT_IRQ_EVT e else s)

/-- SLUICE_EVENT_FALL. -/
def execSluiceEventFall (event : Fin 32) (s : State) : Res :=
  guarded s (fun s =>
    if bit s.slc.events event.val ∧ !(s.eventTerm event.val) then
      { s with slc := { s.slc with events := setBit s.slc.events event.val false } }
    else s)

/-- FORCE_RELEASE: a release of an event that is 1 is ignored. -/
def State.forceRelease (s : State) (mask : Nat) : State :=
  { s with slc := { s.slc with latched := (setBits mask 32).foldl (fun l e =>
      if bit s.slc.events e then l else setBit l e false) s.slc.latched } }

def execForceRelease (events : Word) (s : State) : Res :=
  guarded s (fun s => (s.forceRelease events.toNat).ack)

/-- FAST_LINE_INPUT_CHANGE (R134, R89): the pad takes a level; terms and outputs follow without a register; a rising edge is
counted with its time. -/
def execFastLineInputChange (line : Fin 32) (level : Bool) (s : State) : Res :=
  guarded s (fun s =>
    let n := line.val
    let was := bit (s.rd F.PSL_FL_IN_LINES) n
    let s := s.wrBit F.PSL_FL_IN_LINES n level
    if level && !was && !(s.fastOut n) then
      let p := s.slc.pulses.getD n (0, 0)
      { s with slc := { s.slc with pulses := s.slc.pulses.insert n (p.1 + 1, s.now) } }
    else s)

/-- S63 as the time since the last applied output image gives it (R132). -/
def State.watchdogNow (s : State) : State :=
  { s with slc := { s.slc with watchdog := match s.slc.imageClk with
      | some c => decide (c + usClk (s.rd F.SLC_HWD_TMO) ≤ s.clk)
      | none => true } }

/-- HARVEST_WATCHDOG_EXPIRY: S63 rises where SLC_HWD has passed. -/
def execHarvestWatchdogExpiry (s : State) : Res := guarded s State.watchdogNow

/-- A class A write of the Sluice: staged while HOLD = 1 (R137). S63 follows SLC_HWD. -/
def State.slcWrite (s : State) (f : Fld) (v : Nat) : State :=
  if s.on F.SLC_CTL_HOLD then
    { s with slc := { s.slc with staged := s.slc.staged.insert f.key (f.rst, v % 2 ^ f.w) } }
  else (s.wrA f v).watchdogNow

/-- The field a staged write is for. -/
def stagedField (key rst w : Nat) : Fld := ⟨key / 32, key % 32, w, rst⟩

/-- HOLD released: every staged write applies, and departures are noted (R137). -/
def State.slcRelease (s : State) : State :=
  let l := s.slc.staged
  let s := (s.wr F.SLC_CTL_HOLD 0)
  let s := { s with slc := { s.slc with staged := [] } }
  (l.foldl (fun t p => t.wrA (stagedField p.1 p.2.1 32) p.2.2) s).watchdogNow

def execSlcHoldRelease (s : State) : Res := guarded s (fun s => s.slcRelease.ack)

end Sys2Proof.Machine
end

