-- ==== Sys2Proof/Machine/Tally.lean ====
section
/-! DEFINITION. Tally slots: sampling and publication at the owner, arrival of samples, states, deadlines and queries (04 R88 to R99, R104). -/

namespace Sys2Proof.Machine

/-! Samples (R91) -/

/-- A sample as its payload gives it. -/
structure TallySample where
  id : Nat
  flags : Nat
  sseq : Nat
  owner : Nat
  /-- Position in 2^-16 count. -/
  pos : Int
  /-- The FT96 pattern. -/
  ts : Nat
  deriving DecidableEq, Repr

def TallySample.valid (x : TallySample) : Bool := bit x.flags 0
def TallySample.cuts (x : TallySample) : Bool := bit x.flags 2 || bit x.flags 3
def TallySample.time (x : TallySample) : Nat := ofFt96 x.ts

/-- The 32-byte payload. -/
def TallySample.payload (x : TallySample) : List Nat :=
  [x.id, x.flags] ++ leBytes 2 x.sseq ++ leBytes 2 x.owner ++ [0, 0] ++ leBytes 10 (ofSigned 80 x.pos) ++ [0, 0] ++ leBytes 12 x.ts

/-- The sample of a payload. -/
def tallySample (p : List Nat) : TallySample :=
  { id := leAt p 0 1, flags := leAt p 1 1, sseq := leAt p 2 2, owner := leAt p 4 2, pos := toSigned 80 (leAt p 8 10), ts := leAt p 20 12 }

/-! States (R97) -/

/-- Weights w_0 to w_7 of a slot. -/
def State.weights (s : State) (n : Nat) : List Nat :=
  leBytes 4 (s.rd (F.TLY_Sn_WGT_LO_WGT n)) ++ leBytes 4 (s.rd (F.TLY_Sn_WGT_HI_WGT n))

/-- The fit over a history under a slot's settings (R92). -/
def State.refit (s : State) (n : Nat) (held : List Sample) : Option Fit :=
  fitOf (s.on (F.TLY_Sn_CFG_ORDER n)) (s.weights n) held

/-- A slot takes a state. -/
def State.toSlot (s : State) (n st : Nat) : State :=
  if s.slotState n = st then s else (s.wr (F.TLY_Sn_STATE_STATE n) st).raiseBit F.TLY_STATE_IRQ_SLOT n

/-- The fit that waits comes into force with its state, and the Calendar is told (R93, R117, R121). -/
def State.fitInForce (s : State) (n : Nat) : State :=
  let x := s.slot n
  match x.next with
  | none => s
  | some f =>
    let s := (s.setSlot n { x with next := none, fit := f.fit }).toSlot n f.state
    let s := if f.cut then s.calAbandon n
      else match f.sampleTs, f.fit with
        | some ts, some fit => s.calChecks n fit ts
        | _, _ => s
    s.repredictSlot n

def execTallyFitInForce (slot : Fin 32) (s : State) : Res := guarded s (fun s => s.fitInForce slot)

/-! Arrival (R95 to R98) -/

/-- The owner field a slot accepts: its configured owner, or this hub where it is the owner itself. -/
def State.slotOwner (s : State) (n : Nat) : Nat :=
  if s.on (F.TLY_Sn_CFG_OWNER n) then s.self else s.rd (F.TLY_Sn_SRC_OWNER n)

/-- A discarded sample's Boom record (R95). -/
def State.tallyBoom (s : State) (n code : Nat) (x : TallySample) : State :=
  s.boom { code := code, kind := 3, unit := n, data := x.sseq + 2 ^ 16 * x.id + 2 ^ 24 * x.flags + 2 ^ 32 * x.owner }

/-- A sample takes its place in timestamp order, newest first. -/
def insertSample (x : Sample) : List Sample → List Sample
  | [] => [x]
  | y :: l => if y.ts < x.ts then x :: y :: l else y :: insertSample x l

/-- The residual of a sample, with its interrupt (R98). -/
def State.residual (s : State) (n : Nat) (x : TallySample) : State :=
  match s.slotPos n x.time with
  | none => s
  | some p =>
    let d := counts x.pos - p
    let s := s.wr (F.TLY_Sn_RESID_RESID n) (satPattern 32 (inUnits 16 d))
    let s := s.setSlot n { s.slot n with resid := 65536 * d }
    if s.residBeyond n then s.raiseBit F.TLY_RES_IRQ_SLOT n else s

/-- The deadline of the present cycle on a slot (R96). -/
def State.deadlineAt (s : State) (n : Nat) : Nat := s.tim.cycleStart + us16 (s.rd (F.TLY_Sn_LATE_LATE n))

/-- A FRESH or LATE sample with VALID = 1 is accepted as newest. -/
def State.acceptNewest (s : State) (n : Nat) (x : TallySample) (late : Bool) : State :=
  let st := s.slotState n
  let s := s.wr (F.TLY_Sn_STATE_MISS n) 0
  let s := if (st = tTracking ∨ st = tCoasting) ∧ !x.cuts then s.residual n x else s
  let y := s.slot n
  let fresh := y.fresh || !late
  let cut := x.cuts && st != tEmpty
  let one : Sample := ⟨x.sseq, x.pos, x.time⟩
  let held := if cut ∨ st = tLost then [one] else (one :: y.held).take 8
  let need := if s.on (F.TLY_Sn_CFG_ORDER n) then 2 else 3
  let st' :=
    if cut ∨ st = tLost ∨ st = tEmpty then tAcquiring
    else if st = tAcquiring then (if need ≤ held.length then tTracking else tAcquiring)
    else tTracking
  s.setSlot n { y with held := held, refSseq := none, fresh := fresh
                       next := some ⟨st', s.refit n held, some x.time, cut⟩ }

/-- A sample meets a slot, class by class in the order of R95. In LOST the position stays frozen (R97), so no fit follows an
OUT_OF_ORDER sample. -/
def State.receiveSample (s : State) (n : Nat) (x : TallySample) : State :=
  let s := s.fitInForce n
  let y := s.slot n
  let bad (s : State) (code : Nat) : State := (s.bump (F.TLY_Sn_CNT_BAD n)).tallyBoom n code x
  let newest := match y.refSseq with
    | some q => some q
    | none => (y.held.head?).map (·.sseq)
  let isNewer : Bool := match newest with
    | some q => newer 16 x.sseq q
    | none => true
  let notLater : Bool := match y.held.head? with
    | some h => decide (x.time ≤ h.ts)
    | none => false
  let stale : Bool := match (y.held.drop 7).head? with
    | some h => !(newer 16 x.sseq h.sseq)
    | none => false
  if x.owner ≠ s.slotOwner n then bad s 0x0507
  else if !(ft96Valid x.ts) || decide (s.now + ns16 50 < x.time) then bad s 0x0508
  else match y.held.find? (fun h => h.sseq == x.sseq) with
    | some h =>
      let s := s.bump (F.TLY_Sn_CNT_DUP n)
      if h.pos ≠ x.pos ∨ h.ts ≠ x.time then s.tallyBoom n 0x050A x else s
    | none =>
      if y.refSseq = some x.sseq then s.bump (F.TLY_Sn_CNT_DUP n)
      else if isNewer && notLater then bad s 0x0509
      else if stale then s.bump (F.TLY_Sn_CNT_OOO n)
      else if !isNewer then
        let held := (insertSample ⟨x.sseq, x.pos, x.time⟩ y.held).take 8
        let next := if s.slotState n = tLost then y.next else some ⟨s.slotState n, s.refit n held, none, false⟩
        (s.setSlot n { y with held := held, next := next }).bump (F.TLY_Sn_CNT_OOO n)
      else
        let late := decide (s.deadlineAt n < s.now)
        let s := if late then s.bump (F.TLY_Sn_CNT_LATE n) else s
        if x.valid then s.acceptNewest n x late
        else s.setSlot n { y with refSseq := some x.sseq }

/-- The slot that tracks a tally ID. -/
def State.slotOf (s : State) (id : Nat) : Option Nat :=
  (List.range 32).find? (fun n => s.bound n && s.rd (F.TLY_Sn_CFG_TALLY_ID n) == id)

/-- TALLY_RECEIVED: the payload of a tally frame. -/
def execTallyReceived (payload : List Byte) (s : State) : Res :=
  guarded s (fun s =>
    let x := tallySample (payload.map BitVec.toNat)
    match s.slotOf x.id with
    | some n => s.receiveSample n x
    | none => s)

/-! Deadlines (R96, R97) -/

/-- A slot is lost: its position freezes at the present, and checks are abandoned. -/
def State.slotLost (s : State) (n : Nat) : State :=
  let x := s.slot n
  let frozen := x.fit.map (fun f => (⟨s.now, f.posAt s.now, 0, 0⟩ : Fit))
  (((s.setSlot n { x with fit := frozen }).toSlot n tLost).calAbandon n).repredictSlot n

/-- A cycle's deadline passes on a slot. -/
def State.deadline (s : State) (n : Nat) : State :=
  let s := s.fitInForce n
  let x := s.slot n
  if x.deadlinePassed then s
  else
    let s := s.setSlot n { x with deadlinePassed := true }
    if x.fresh then s
    else
      let s := s.bump (F.TLY_Sn_STATE_MISS n)
      let miss := s.rd (F.TLY_Sn_STATE_MISS n)
      let max := s.rd (F.TLY_Sn_LATE_COAST_MAX n)
      let st := s.slotState n
      if st = tTracking then (s.toSlot n tCoasting).repredictSlot n
      else if (st = tAcquiring ∧ max ≤ miss) ∨ (st = tCoasting ∧ max < miss) then s.slotLost n
      else s

/-- TALLY_DEADLINE. -/
def execTallyDeadline (slot : Fin 32) (s : State) : Res :=
  guarded s (fun s =>
    if s.bound slot ∧ s.deadlineAt slot ≤ s.now then s.deadline slot else s)

/-- A cycle starts on a slot: WAITING entries are predicted anew (R117). -/
def State.slotCycle (s : State) (n : Nat) : State :=
  (s.setSlot n { s.slot n with fresh := false, deadlinePassed := false }).repredictSlot n true

/-! The owner (R89 to R91) -/

/-- What a source gives at a sampling instant: position in 2^-16 count, timestamp, flags VALID, STILL, REBASE and VIRTUAL. -/
structure SourceSample where
  pos : Int
  ts : Nat
  flags : Nat
  deriving DecidableEq, Repr

/-- A position in counts, a timestamp when something new was counted, otherwise STILL with the position before (R90); the first sample
of an enabled slot has none before it, and shows the count as it stands. -/
def sourceCounts (prev : Option Int) (now ts : Nat) (new fault rebase : Bool) (count : Int) : SourceSample :=
  if new then ⟨count * 65536, ts, b2n (!fault) + 4 * b2n rebase⟩
  else ⟨prev.getD (count * 65536), now, b2n (!fault) + 2 + 4 * b2n rebase⟩

/-- The post that follows on a sawyer in this cycle, if one does: it wins over the sampling instant (R248). -/
def State.postAhead (s : State) (u : Nat) : Option Bool :=
  match s.sawNext u with
  | some (_, _, some (.post abs)) =>
    if s.ahead (fun i => match i with | .post n _ => n.val == u | _ => false) then some abs else none
  | _ => none

/-- The state whose TALLY the sample of a sawyer carries: behind the post of this cycle. -/
def State.afterPost (s : State) (u : Nat) : State :=
  match s.postAhead u with
  | some abs => s.doPost u abs
  | none => s

/-- How often a slot's source has counted, reported a fault and been reset so far. -/
def State.sourceMarks (s : State) (n : Nat) : Nat × Nat × Nat :=
  let u := s.rd (F.TLY_Sn_SRC_UNIT n)
  match s.rd (F.TLY_Sn_CFG_SRC n) with
  | 1 => ((s.slice u).edges, (s.slice u).faults, (s.slice u).rebases)
  | 2 => ((s.slice u).edges, (s.slice u).faults, (s.slice u).rebases)
  | 3 => ((s.slc.pulses.getD u (0, 0)).1, 0, 0)
  | 4 => ((s.line u).crossings, 0, 0)
  | 5 => (0, 0, 0)
  | _ => (((s.afterPost u).saw u).posts, 0, 0)

/-- An SSI value unwrapped over w bits from the position before; a move of exactly half the range has no stated direction. -/
def unwrap (up : Bool) (w v : Nat) (prev : Int) : Int :=
  let d := (v + 2 ^ w - ofSigned w prev) % 2 ^ w
  if d = 2 ^ (w - 1) ∧ up then prev + (d : Int) else prev + toSigned w d

/-- The sample that slot n's source gives now. -/
def State.sourceSample (s : State) (n : Nat) : SourceSample :=
  let x := s.slot n
  let u := s.rd (F.TLY_Sn_SRC_UNIT n)
  let now := s.now
  let prev := if x.t0.isSome then some x.ownPos else none
  let m := s.sourceMarks n
  let new : Bool := m.1 != x.seen
  let fault : Bool := m.2.1 != x.seenFault
  let rebase : Bool := m.2.2 != x.seenRebase
  match s.rd (F.TLY_Sn_CFG_SRC n) with
  | 1 =>
    sourceCounts prev now (s.slice u).edgeTs new fault rebase (toSigned 64 (s.quadCount u))
  | 2 =>
    let y := s.slice u
    let w := s.rd (F.PSL_SSI_P0_BITS u) + 1
    let v := s.rd64 (F.PSL_SSI_P2_VALUE_LO u) (F.PSL_SSI_P3_VALUE_HI u)
    let c := if x.t0.isNone then (v : Int) else unwrap (s.free % 2 == 1) w v (x.ownPos / 65536)
    ⟨c * 65536, y.edgeTs - ns16 x.srcLat, b2n (!fault)⟩
  | 3 =>
    let p := s.slc.pulses.getD u (0, 0)
    sourceCounts prev now p.2 new false false p.1
  | 4 =>
    let l := s.line u
    sourceCounts prev now (l.crossTs - ns16 x.srcLat) new false false l.crossings
  | 5 => ⟨roundDiv (x.vspeed * ((now : Int) - (x.t0.getD now : Nat))) second16, now, 1 + 16⟩
  | _ =>
    let t := s.afterPost u
    sourceCounts prev now (t.saw u).postTs new false false
      (toSigned 64 (t.rd64 (F.SAW_Sn_TALLY_LO_TALLY u) (F.SAW_Sn_TALLY_HI_TALLY u)))

/-- The slot has seen its source's marks; an SSI sample may use a free value. -/
def State.sourceTaken (s : State) (n : Nat) : State :=
  let m := s.sourceMarks n
  let t := s.setSlot n { s.slot n with seen := m.1, seenFault := m.2.1, seenRebase := m.2.2 }
  if s.rd (F.TLY_Sn_CFG_SRC n) = 2 then t.draw else t

/-- An owner slot that starts has no fault or reset of its source to report. -/
def State.sourceBound (s : State) (n : Nat) : State :=
  let m := s.sourceMarks n
  s.setSlot n { s.slot n with seenFault := m.2.1, seenRebase := m.2.2 }

/-- An owner slot samples and publishes (R89 to R91); a hub that may not publish still consumes the SSEQ. REBASE after an Almanac
waits for the first publication (R59). -/
def State.sampleOwner (s : State) (n : Nat) : State :=
  let x := s.slot n
  let r := s.sourceSample n
  let smp : TallySample :=
    { id := s.rd (F.TLY_Sn_CFG_TALLY_ID n), flags := Nat.lor r.flags (4 * b2n x.rebase) + 8 * b2n x.tstep, sseq := x.ownSseq, owner := s.self,
      pos := satSigned 80 r.pos, ts := ft96 r.ts }
  let s := s.sourceTaken n
  let s := s.setSlot n { s.slot n with
    ownSseq := (x.ownSseq + 1) % 65536, ownPos := smp.pos, tstep := false, t0 := some (x.t0.getD s.now) }
  if s.quarantined || s.twinIdle then s
  else
    let f : Frame := { typ := 4, tc := 6, dup := true, dest := 1023 * 4, payload := smp.payload }
    let s := s.send 11 f
    let s := if s.on (F.TLY_Sn_CFG_GUARD n) then s.send 11 { f with tc := 7 } else s
    (s.setSlot n { s.slot n with rebase := false }).receiveSample n smp

/-- A sampling instant and cycle start on every bound slot: the deadlines of the cycle before pass first. -/
def State.tallyCycle (s : State) : State :=
  let past := (List.range 32).foldl (fun t n => if t.bound n then t.deadline n else t) s
  (List.range 32).foldl (fun t n =>
    if t.bound n then
      let t := t.slotCycle n
      if t.on (F.TLY_Sn_CFG_OWNER n) then t.sampleOwner n else t
    else t) { past with tim := { past.tim with cycleStart := past.now } }

/-- A harvest runs here: trains are seen, and the hub has cycles of its own, which an admitted one has, quarantined or not (DEDUCED from
R58, R273 and R282: notes/assumptions/25.md). -/
def State.harvestRuns (s : State) : Bool := s.on F.CRL_STATUS_HV_RUN && s.admitted

/-- WHOLE_MILLISECOND (R89, R96): an instant only while no harvest runs. -/
def execWholeMillisecond (s : State) : Res :=
  guarded s (fun s => if s.harvestRuns then s else s.tallyCycle)

/-! Steps of this hub's time (R97, R85) -/

/-- One slot meets a step. -/
def State.slotStep (s : State) (n : Nat) : State :=
  if !(s.bound n) then s
  else
    let x := s.slot n
    let x := if s.on (F.TLY_Sn_CFG_OWNER n) then { x with tstep := true } else x
    if s.slotState n = tEmpty then s.setSlot n x
    else
      let p := x.fit.map (fun (f : Fit) => (⟨s.now, f.p, 0, 0⟩ : Fit))
      let s := (s.setSlot n { x with held := [], refSseq := none, next := none, fit := p }).toSlot n tAcquiring
      (s.calAbandon n).repredictSlot n

/-- Every slot meets a step. -/
def State.tallyStep (s : State) : State := (List.range 32).foldl (fun t n => t.slotStep n) s

/-! Queries (R104) -/

/-- A number of 96 bits into OUT registers k to k + 2. -/
def State.out96 (s : State) (b k v : Nat) : State := s.wr96 (fun j => F.TLY_Q_OUT_OUT b (k + j)) v

/-- A query answered: the state after, and its code. -/
def State.answerQuery (s : State) (b : Nat) (q : Query) : State × Nat :=
  let n := q.slot
  if !(s.bound n) then (s, 0x0501)
  else if (q.op = 1 ∧ !(ft96Valid q.arg)) ∨ (q.op = 2 ∧ q.dir = 3) then (s, 0x0505)
  else match s.slotState n, (s.slot n).fit with
    | 0, _ => (s, 0x0503)
    | _, none => (s, 0x0503)
    | st, some f =>
      match q.op with
      | 1 => (s.out96 b 0 (satPattern 80 (inUnits 16 (f.posAt (ofFt96 q.arg)))), if st = tLost then 0x0504 else 0)
      | 2 =>
        match s.slotTimeOf n (counts (toSigned 80 q.arg)) q.dir (s.now + s.horizon n) with
        | some t => (s.out96 b 0 (ft96 t), 0)
        | none => (s, 0x0502)
      | _ =>
        let s := (s.out96 b 0 (ft96 f.tref)).out96 b 3 (satPattern 80 (inUnits 16 f.p))
        ((s.wr (F.TLY_Q_OUT_OUT b 6) (satPattern 32 (inUnits 8 f.v))).wr (F.TLY_Q_OUT_OUT b 7) (satPattern 32 (inUnits 8 f.a)), 0)

/-- A write of TLY_Q_CTL: a GO with a known OP starts a query, discarding the one that runs in the bank (R42). -/
def State.queryGo (s : State) (init : Initiator) (op dir slot : Nat) (go : Bool) : State :=
  let b := bankOf init
  let s := (((s.wr (F.TLY_Q_CTL_OP b) op).wr (F.TLY_Q_CTL_DIR b) dir).wr (F.TLY_Q_CTL_SLOT b) slot).ack
  if go && decide (1 ≤ op) && decide (op ≤ 3) then
    let q : Query := ⟨op, slot, dir, s.rd96 (F.TLY_Q_ARG_ARG b)⟩
    { s.resStart (RR.TLY_Q_RES b) with queries := s.queries.insert b q }
  else s

def execPosAt (init : Initiator) (slot : Fin 32) (s : State) : Res := guarded s (fun s => s.queryGo init 1 0 slot true)
def execTimeOf (init : Initiator) (slot : Fin 32) (dir : Fin 4) (s : State) : Res :=
  guarded s (fun s => s.queryGo init 2 dir slot true)
def execReadFit (init : Initiator) (slot : Fin 32) (s : State) : Res := guarded s (fun s => s.queryGo init 3 0 slot true)

/-- TALLY_QUERY_COMPLETE. -/
def execTallyQueryComplete (bank : Fin 3) (s : State) : Res :=
  guarded s (fun s =>
    match s.queries.get? bank with
    | some q =>
      let (s, c) := { s with queries := s.queries.erase bank }.answerQuery bank q
      s.resDone (RR.TLY_Q_RES bank) c
    | none => s)

end Sys2Proof.Machine
end

