-- ==== Sys2Proof/Machine/Time.lean ====
section
/-! DEFINITION. Fabric time: capture and set, link delays, syncs, the choice of an upstream, the servo and PL0 (04 R73 to R86). -/

namespace Sys2Proof.Machine

/-! Capture, set and steps (R74, R85) -/

/-- The counter is copied into a bank. -/
def State.timCapture (s : State) (b : Nat) : State :=
  let t := s.stamp
  (((s.wr (F.TIM_CAP_SEC_HI_SEC b) (bits t 80 16)).wr (F.TIM_CAP_SEC_LO_SEC b) (bits t 48 32)).wr
    (F.TIM_CAP_NS_NS b) (bits t 16 32)).wr (F.TIM_CAP_FRAC_FRAC b) (bits t 0 16)

def execTimCapture (init : Initiator) (s : State) : Res := guarded s (fun s => (s.timCapture (bankOf init)).ack)

/-- The counter takes a time in 2^-32 ns as a step, in every respect (R85, R97, R115); the present cycle began as long ago as before. -/
def State.timeStep (s : State) (counter : Nat) : State :=
  let start := (s.tim.cycleStart : Int) + (counter / 65536 : Nat) - (s.now : Int)
  let s := { s with tim := { s.tim with counter := counter, sinceStep := 0, cycleStart := start.toNat } }
  ((s.raise F.TIM_IRQ_STEP).calStep).tallyStep

/-- TIM_SET: the code of the set. -/
def State.timSetCode (s : State) : Nat :=
  if !(s.on F.TIM_CTL_ROLE) || s.rd F.TIM_CTL_SOURCE != 0 then 0x0401
  else if 1000000000 ≤ s.rd F.TIM_SET_NS_NS then 0x0402
  else 0

/-- TIM_CTL.SET (R85). -/
def State.timSet (s : State) : State :=
  let s := s.ack.resStart RR.TIM_SET_RES
  match s.timSetCode with
  | 0 =>
    let sec := s.rd F.TIM_SET_SEC_HI_SEC * 2 ^ 32 + s.rd F.TIM_SET_SEC_LO_SEC
    (s.timeStep ((sec * second16 + ns16 (s.rd F.TIM_SET_NS_NS)) * 65536)).resDone RR.TIM_SET_RES 0
  | c => s.resDone RR.TIM_SET_RES c

def execTimSet (s : State) : Res := guarded s (fun s => s.timSet)

/-! Link delays (R77, R78) -/

def State.delayPort (s : State) (p : Nat) : DelayPort := s.tim.delays.getD p {}
def State.setDelayPort (s : State) (p : Nat) (d : DelayPort) : State :=
  { s with tim := { s.tim with delays := s.tim.delays.put p d {} } }

/-- A hop-local frame to the neighbour (R262). -/
def State.hopFrame (s : State) (p typ : Nat) (payload : List Nat) : State :=
  s.emit (.wire p { typ := typ, tc := 5, dest := 0xFFF, src := s.self, epoch := s.rd F.CRL_EPOCH_CUR, payload := payload })

/-- PDELAY_REQUEST_SEND. -/
def execPdelayRequestSend (port : Fin 7) (s : State) : Res :=
  guarded s (fun s =>
    if portDown s port then s
    else
      let d := s.delayPort port
      let s := s.setDelayPort port { d with reqSeq := (d.reqSeq + 1) % 65536, asked := d.asked ++ [(d.reqSeq, (s.sentAt port).toNat)] }
      s.hopFrame port 3 (leBytes 2 d.reqSeq ++ List.replicate 14 0))

/-- PDELAY_REQUEST_RECEIVED: answered with t2 and t3, both in this hub's time. -/
def execPdelayRequestReceived (port : Fin 7) (reqSeq : BitVec 16) (s : State) : Res :=
  guarded s (fun s =>
    if portDown s port then s
    else s.hopFrame port 3 (leBytes 2 reqSeq.toNat ++ [0, 0] ++ leBytes 12 (ft96 (s.receivedAt port s.now).toNat) ++
      leBytes 12 (ft96 (s.sentAt port).toNat) ++ leBytes 4 0))

/-- A request is no longer in flight. -/
def State.delayEnds (s : State) (p q : Nat) : State :=
  let d := s.delayPort p
  s.setDelayPort p { d with asked := d.asked.filter (fun a => a.1 != q) }

/-- An exchange is discarded. -/
def State.delayBad (s : State) (p : Nat) : State :=
  let d := s.delayPort p
  let s := (s.setDelayPort p { d with bad := d.bad + 1 }).bump (F.TIM_Pn_STAT_DISC p)
  if d.bad + 1 = 3 then (s.raise (F.TIM_Pn_STAT_INVALID p)).raise F.TIM_IRQ_PDINV else s

/-- An exchange is kept. -/
def State.delayKept (s : State) (p v : Nat) : State :=
  let d := s.delayPort p
  let kept := (v :: d.kept).take 16
  let mean := roundDiv ((kept.foldl (· + ·) 0 : Nat) : Int) (256 * kept.length)
  ((s.setDelayPort p { d with kept := kept, bad := 0 }).wr (F.TIM_Pn_DELAY_DELAY p) mean.toNat).wr
    (F.TIM_Pn_STAT_INVALID p) 0

/-- PDELAY_ANSWER_RECEIVED: the 32-byte payload of R78. An answer whose t2 or t3 is an invalid FT96 value counts as a discarded exchange
(DESIGN CHOICE: notes/assumptions/12.md). -/
def execPdelayAnswerReceived (port : Fin 7) (payload : List Byte) (s : State) : Res :=
  guarded s (fun s =>
    let b := payload.map BitVec.toNat
    match (s.delayPort port).asked.find? (fun a => a.1 == leAt b 0 2) with
    | none => s
    | some (q, t1) =>
      let s := s.delayEnds port q
      let t2 : Int := ofFt96 (leAt b 4 12)
      let t3 : Int := ofFt96 (leAt b 16 12)
      let mean := roundDiv ((s.receivedAt port s.now - t1) - (t3 - t2)) 2
      if !(ft96Valid (leAt b 4 12)) ∨ !(ft96Valid (leAt b 16 12)) ∨ us16 10 < t3 - t2 ∨ mean < 0 ∨ us16 500 < mean ∨
          t1 + us16 1000 < s.now then s.delayBad port
      else s.delayKept port mean.toNat)

/-- PDELAY_ANSWER_TIMEOUT: 1 ms after t1 of the oldest request in flight. -/
def execPdelayAnswerTimeout (port : Fin 7) (s : State) : Res :=
  guarded s (fun s =>
    match (s.delayPort port).asked with
    | (q, t1) :: _ => if t1 + us16 1000 ≤ s.now then (s.delayEnds port q).delayBad port else s
    | [] => s)

/-! Syncs sent (R80) -/

/-- The grandmaster is locked to PL0. -/
def State.pl0Lock (s : State) : Bool :=
  s.on F.TIM_CTL_ROLE && s.rd F.TIM_CTL_SOURCE != 0 && s.rd F.TIM_STATUS_SERVO == servoLocked && s.tim.ptp.parent.isSome

/-- The 32-byte payload. -/
def State.syncPayload (s : State) (seq : Nat) : List Nat :=
  leBytes 12 s.stamp ++ leBytes 8 s.serial ++ leBytes 2 seq ++ [0, 0] ++
    leBytes 2 (s.rd F.TIM_UTC_OFS_UTC_OFS) ++ [b2n s.pl0Lock + 2 * b2n (decide (s.tim.sinceStep < 16))] ++ leBytes 5 0

/-- One sync of a ring. A ring hub's ring A sync also goes to its stitched hubs (DEDUCED: notes/assumptions/11.md). -/
def State.sendSync (s : State) (ringB : Bool) : State :=
  let seq := if ringB then s.tim.seqB else s.tim.seqA
  let f : Frame := { typ := 2, tc := 5, dest := 1023 * 4, ringB := ringB, payload := s.syncPayload seq }
  let outs :=
    if s.ringHub then s.ringEgress ringB f ++ (if ringB then [] else s.stitchedPorts.filter (fun p => portUp s p))
    else s.uplink.toList
  let (s, f) := s.stampFrame f
  if outs.isEmpty then s else s.arrive { inPort := 11, outs := outs, frame := f }

/-- SYNC_SEND. -/
def execSyncSend (s : State) : Res :=
  guarded s (fun s =>
    if s.almInForce && s.on F.TIM_CTL_ROLE then
      let s := (s.sendSync false).sendSync true
      { s with tim := { s.tim with seqA := (s.tim.seqA + 1) % 65536, seqB := (s.tim.seqB + 1) % 65536,
                                   sinceStep := min 16 (s.tim.sinceStep + 1) } }
    else s)

/-! The servo (R83, R84). Frequencies in 2^-20 ppb, offsets in 2^-16 ns. -/

def State.freqLim (s : State) : Int := (s.rd F.TIM_SERVO1_FREQ_LIM * 10 * 2 ^ 20 : Nat)
def clamp (v lim : Int) : Int := max (-lim) (min v lim)

/-- The nominal increment (R73). -/
def rateNom : Nat := 0xCCCCCCCD

/-- A frequency output, and TIM_RATE with it. -/
def State.setFreq (s : State) (freq : Int) : State :=
  let s := { s with tim := { s.tim with freq := freq, freqs := (freq :: s.tim.freqs).take 16 } }
  let rate : Int := rateNom + roundDiv (rateNom * freq) (1000000000 * 2 ^ 20)
  (s.wr F.TIM_FREQ_FREQ (satPattern 32 (roundDiv freq 4096))).wr F.TIM_RATE_RATE rate.toNat

/-- The loop. -/
def State.servoLoop (s : State) (theta : Int) : State :=
  let integ := clamp (s.tim.integ + s.rd F.TIM_SERVO0_KI * theta) s.freqLim
  ({ s with tim := { s.tim with integ := integ } }).setFreq (-(clamp (s.rd F.TIM_SERVO0_KP * theta + integ) s.freqLim))

/-- A step: integ and freq 0, the counter moved. -/
def State.servoStep (s : State) (theta : Int) : State :=
  let s := ({ s with tim := { s.tim with integ := 0, good := 0, off := 0 } }).setFreq 0
  s.timeStep (((s.tim.counter : Int) - theta * 65536).toNat)

/-- A slew: FREQ_LIM against the offset's sign, integ kept. -/
def State.servoSlew (s : State) (theta : Int) : State :=
  ({ s with tim := { s.tim with good := 0, off := 0 } }).setFreq (if 0 < theta then -s.freqLim else s.freqLim)

/-- The servo takes a state. -/
def State.toServo (s : State) (st : Nat) : State := s.wr F.TIM_STATUS_SERVO st

/-- UNLOCK when the state left is LOCKED. -/
def State.unlocks (s : State) : State := if s.rd F.TIM_STATUS_SERVO = servoLocked then s.raise F.TIM_IRQ_UNLOCK else s

/-- LOCK_CNT reached, or 4 beyond LOCK_THR. -/
def State.servoCount (s : State) (theta : Int) : State :=
  let within : Bool := decide (theta.natAbs ≤ s.rd F.TIM_SERVO1_LOCK_THR * 4096)
  let good := if within then s.tim.good + 1 else 0
  let off := if within then 0 else s.tim.off + 1
  let s := { s with tim := { s.tim with good := good, off := off } }
  match s.rd F.TIM_STATUS_SERVO with
  | 1 =>
    if s.rd F.TIM_SERVO3_LOCK_CNT ≤ good then
      ({ s with tim := { s.tim with off := 0 } }.toServo servoLocked).raise F.TIM_IRQ_LOCK
    else s
  | 2 => if 4 ≤ off then { s with tim := { s.tim with good := 0 } }.unlocks.toServo servoLocking else s
  | _ => s

/-- The servo runs on an accepted offset (R84). Out of HOLDOVER the loop's integral term starts at the frozen frequency (DESIGN CHOICE:
notes/assumptions/11.md). -/
def State.servo (s : State) (theta : Int) : State :=
  let s := { s with tim := { s.tim with lastFed := some s.clk } }.wr F.TIM_OFFSET_THETA (satPattern 32 (roundDiv theta 256))
  let far : Bool := decide (ns16 (s.rd F.TIM_SERVO2_STEP_THR) < theta.natAbs)
  match s.rd F.TIM_STATUS_SERVO with
  | 0 => (s.toServo servoLocking).servoStep theta
  | 4 => s
  | st =>
    if far then
      let s := s.unlocks.toServo servoLocking
      if s.on F.TIM_CTL_STEP_EN then s.servoStep theta else s.servoSlew theta
    else if st = servoHoldover then
      (({ s with tim := { s.tim with integ := -s.tim.freq, good := 0, off := 0 } }.toServo servoLocking).servoLoop theta).servoCount
        theta
    else (s.servoLoop theta).servoCount theta

/-- CCLK cycles in n sync intervals. -/
def State.syncClk (s : State) (n : Nat) : Nat := n * s.rd F.TIM_INT_SYNC_INT * 625 / 2

/-- Whether n sync intervals have passed since a cycle. -/
def State.syncsSince (s : State) (c : Option Nat) (n : Nat) : Bool :=
  match c with
  | none => true
  | some c => decide (c + s.syncClk n ≤ s.clk)

/-- SERVO_HOLDOVER: HOLD_TMO intervals without an accepted sync; the frequency freezes at the mean of its last 16 values. -/
def execServoHoldover (s : State) : Res :=
  guarded s (fun s =>
    let st := s.rd F.TIM_STATUS_SERVO
    if (st = servoLocking ∨ st = servoLocked) ∧ s.syncsSince s.tim.lastFed (s.rd F.TIM_SERVO3_HOLD_TMO) then
      let l := s.tim.freqs
      let mean := if l.isEmpty then s.tim.freq else roundDiv (l.foldl (· + ·) 0) l.length
      ((s.unlocks.toServo servoHoldover).setFreq mean).raise F.TIM_IRQ_HOLDOVER
    else s)

/-! Syncs received (R81, R82) -/

/-- A sync is discarded and counted. -/
def State.badSync (s : State) : State := (s.bump F.TIM_CNT_BAD).raise F.TIM_IRQ_BADSYNC

/-- The ring on whose receive port a follower takes syncs: AW for ring A, BE for ring B; a stitched hub its uplink. -/
def State.syncRing (s : State) (port : Nat) : Option Bool :=
  if s.ringHub then (if port = 1 then some false else if port = 2 then some true else none)
  else if s.uplink = some port then some false else none

/-- Whether a ring delivered no sync for n intervals. -/
def State.silent (s : State) (r : RingSync) (n : Nat) : Bool := s.syncsSince r.last n

/-- The selection changes upstream. -/
def State.setUpstream (s : State) (ringB : Bool) (provisional : Bool) : State :=
  let port := if !s.ringHub then s.uplink.getD 0 else if ringB then 2 else 1
  { s with tim := { s.tim with upstream := some ringB, provisional := provisional } }.wr F.TIM_STATUS_UPPORT port

/-- A sync of a ring meets the selection: the state after, and whether it feeds the servo. -/
def State.selectSync (s : State) (ringB : Bool) (steps : Nat) : State × Bool :=
  let hold := s.rd F.TIM_SERVO3_HOLD_TMO
  let s := if s.silent s.tim.ringA hold && s.silent s.tim.ringB hold then
      { s with tim := { s.tim with upstream := none, provisional := true, ringA := {}, ringB := {} } } else s
  let up := s.tim.upstream
  let upSync := if up = some true then s.tim.ringB else s.tim.ringA
  let mine := if ringB then s.tim.ringB else s.tim.ringA
  let lower : Bool := decide (steps < upSync.steps)
  let mine : RingSync := { last := some s.clk, steps := steps, lower := if up ≠ some ringB ∧ lower then mine.lower + 1 else 0 }
  let s := if ringB then { s with tim := { s.tim with ringB := mine } } else { s with tim := { s.tim with ringA := mine } }
  match up with
  | none => ({ s with tim := { s.tim with firstSync := some s.clk } }.setUpstream ringB s.ringHub, true)
  | some u =>
    if u = ringB then (s, true)
    else if s.tim.provisional then
      if lower || (decide (steps = upSync.steps) && !ringB) then (s.setUpstream ringB false, true)
      else ({ s with tim := { s.tim with provisional := false } }, false)
    else if s.silent upSync 3 || decide (3 ≤ mine.lower) then
      ((s.setUpstream ringB false).raise F.TIM_IRQ_UPSW, true)
    else (s, false)

/-- SYNC_RECEIVED: the port, the 32-byte payload and the correction field; received now. The first GM_ID learned is no change of it
(DESIGN CHOICE: notes/assumptions/11.md). -/
def State.syncReceived (s : State) (port : Nat) (b : List Nat) (corr : Int) : State :=
  if !s.almInForce then s
  else if s.on F.TIM_CTL_ROLE then s.badSync
  else match s.syncRing port with
    | none => s.badSync
    | some ringB =>
      if s.on (F.TIM_Pn_STAT_INVALID port) ∨ !(ft96Valid (leAt b 0 12)) then s.badSync
      else
        let (s, feeds) := s.selectSync ringB (leAt b 22 2)
        if !feeds then s
        else
          let theta : Int := s.receivedAt port s.now - (ofFt96 (leAt b 0 12) + corr + s.linkDelayIn port)
          let id := leAt b 12 8
          let old := s.rd64 F.TIM_GMID_LO_GMID F.TIM_GMID_HI_GMID
          let s := if old ≠ 0 ∧ old ≠ id then s.raise F.TIM_IRQ_UPSW else s
          let s := (s.wr64 F.TIM_GMID_LO_GMID F.TIM_GMID_HI_GMID id).wr F.TIM_STATUS_STEPS (leAt b 22 2)
          let s := s.wr F.TIM_UTC_OFS_UTC_OFS (leAt b 24 2)
          s.servo theta

def execSyncReceived (port : Fin 8) (payload : List Byte) (corr : Int) (s : State) : Res :=
  guarded s (fun s => s.syncReceived port (payload.map BitVec.toNat) corr)

/-- UPSTREAM_FINAL (R82). -/
def execUpstreamFinal (s : State) : Res :=
  guarded s (fun s =>
    if s.tim.upstream.isSome ∧ s.syncsSince s.tim.firstSync 3 then { s with tim := { s.tim with provisional := false } } else s)

end Sys2Proof.Machine
end

