-- ==== Sys2Proof/Machine/Ptp.lean ====
section
/-! DEFINITION. The clock on PL0: the slave-only ordinary clock of IEEE 1588 and the IEEE 802.1AS end station of a grandmaster (04 R85,
R86). What the standards say is PRESUMED (notes/assumptions/39.md). -/

namespace Sys2Proof.Machine

/-- The states of the 1588 port (R86). -/
inductive PtpPort where
  | initializing
  | faulty
  | disabled
  | listening
  | uncalibrated
  | slave
  deriving DecidableEq, Repr

def State.setPtp (s : State) (x : PtpState) : State := { s with tim := { s.tim with ptp := x } }

/-- The grandmaster runs IEEE 802.1AS; it measures the link by the peer mechanism. -/
def State.gptp (s : State) : Bool := s.rd F.TIM_CTL_SOURCE == 2
def State.peerDelay (s : State) : Bool := s.gptp || bit s.tim.ptp.flags 0

/-- The state of PL0's PTP port. -/
def State.ptpPort (s : State) : PtpPort :=
  if !s.almInForce then .initializing
  else if !(s.on F.TIM_CTL_ROLE) || s.rd F.TIM_CTL_SOURCE == 0 then .disabled
  else if portDown s 7 then .faulty
  else if s.tim.ptp.parent.isNone then .listening
  else if s.tim.ptp.delay.isNone then .uncalibrated
  else .slave

/-- Whether a message is of the profile, transport and domain that the Almanac gives. -/
def State.ptpTakes (s : State) (m : PtpMessage) : Bool :=
  let p := s.ptpPort
  (p == .listening || p == .uncalibrated || p == .slave) &&
    (if s.gptp then m.gptp && !m.udp && m.domain == 0
     else !m.gptp && m.domain.toNat == s.tim.ptp.domain && m.udp == bit s.tim.ptp.flags 1)

/-- A message of this hub's port. -/
def State.ptpSend (s : State) (seq : Nat) (body : PtpBody) : State :=
  s.emit (.ptp { gptp := s.gptp, udp := !s.gptp && bit s.tim.ptp.flags 1,
                 domain := if s.gptp then 0 else BitVec.ofNat 8 (s.tim.ptp.domain),
                 source := BitVec.ofNat 80 (2 ^ 16 * s.serial + 1), seq := BitVec.ofNat 16 seq, body := body })

/-- The next delay request leaves; a peer request still in flight has had no answer. -/
def State.ptpAsk (s : State) : State :=
  let x := s.tim.ptp
  let lost := if s.peerDelay && x.asked.isSome then x.unanswered + 1 else x.unanswered
  let s := s.setPtp { x with asked := some (x.reqSeq, s.sentAt 7), reqSeq := (x.reqSeq + 1) % 65536, unanswered := lost,
                             asCapable := x.asCapable && decide (lost ≤ 9) }
  s.ptpSend x.reqSeq (if s.peerDelay then .peerRequest else .delayRequest)

/-! The best master -/

/-- A data set in the order of comparison. -/
def dataKey (d : PtpDataset) : List Nat :=
  [d.priority1.toNat, d.clockClass.toNat, d.accuracy.toNat, d.variance.toNat, d.priority2.toNat, d.gm.toNat, d.steps.toNat]

def lexBefore : List Nat → List Nat → Bool
  | [], [] => false
  | [], _ :: _ => true
  | _ :: _, [] => false
  | a :: l, b :: m => if a = b then lexBefore l m else decide (a < b)

/-- The first master ranks before the second: by data set, then by the identity of its port. -/
def PtpMaster.beats (a b : PtpMaster) : Bool := lexBefore (dataKey a.dataset ++ [a.source]) (dataKey b.dataset ++ [b.source])

def bestMaster (l : List PtpMaster) : Option PtpMaster :=
  l.foldl (fun best (m : PtpMaster) =>
    match best with
    | none => some m
    | some b => if m.beats b then some m else some b) none

/-- The best of the qualified masters is followed: two Announce messages qualify a master of IEEE 1588, one a master of IEEE 802.1AS.
A new master's path is measured anew. -/
def State.ptpChoose (s : State) : State :=
  let x := s.tim.ptp
  match bestMaster (x.masters.filter (fun (m : PtpMaster) => s.gptp || decide (2 ≤ m.heard))) with
  | none => s
  | some m =>
    let s := s.wr F.TIM_UTC_OFS_UTC_OFS m.utc
    if x.parent = some m.source then s
    else s.setPtp { x with parent := some m.source, waiting := none, toSlave := none, delay := if s.peerDelay then x.delay else none }

/-- An Announce message; one that has come 255 steps, or this clock's own, qualifies nobody. -/
def State.ptpAnnounce (s : State) (source : Nat) (d : PtpDataset) (utc : Nat) : State :=
  if 255 ≤ d.steps.toNat ∨ source / 2 ^ 16 = s.serial then s
  else
    let x := s.tim.ptp
    let heard := ((x.masters.find? (fun (m : PtpMaster) => m.source == source)).map (·.heard)).getD 0
    let m : PtpMaster := { source := source, dataset := d, utc := utc, heard := heard + 1 }
    let s := (s.setPtp { x with masters := m :: x.masters.filter (fun (y : PtpMaster) => y.source != source) }).ptpChoose
    if s.peerDelay then s.ptpAsk else s

/-! Offsets -/

/-- A sync is complete: it left the master at `origin`, in 2^-16 ns and with its corrections added, and arrived at t2. With the delay
known, its offset is accepted. -/
def State.ptpOffset (s : State) (origin t2 : Int) : State :=
  let x := s.tim.ptp
  let s := s.setPtp { x with waiting := none, toSlave := some (t2 - origin) }
  let s := match x.delay with
    | some d => s.servo (t2 - origin - d)
    | none => s
  if s.peerDelay then s else s.ptpAsk

/-- A sync of the master followed. -/
def State.ptpSync (s : State) (seq : Nat) (twoStep : Bool) (origin : Nat) (corr : Int) : State :=
  if s.gptp && !s.tim.ptp.asCapable then s
  else if twoStep then s.setPtp { s.tim.ptp with waiting := some (seq, s.receivedAt 7 s.now, corr) }
  else if ft96Valid origin then s.ptpOffset (ofFt96 origin + corr) (s.receivedAt 7 s.now)
  else s

/-- The follow-up of the sync that waits. -/
def State.ptpFollowUp (s : State) (seq origin : Nat) (corr : Int) : State :=
  match s.tim.ptp.waiting with
  | some (q, t2, c) => if q = seq ∧ ft96Valid origin then s.ptpOffset (ofFt96 origin + c + corr) t2 else s
  | none => s

/-! Delays -/

/-- The answer to a delay request: the path delay is half of both ways. -/
def State.ptpDelayAnswer (s : State) (seq t4 : Nat) (corr : Int) : State :=
  let x := s.tim.ptp
  match x.asked, x.toSlave with
  | some (q, t3), some ms =>
    if q = seq ∧ ft96Valid t4 ∧ !s.peerDelay then
      s.setPtp { x with asked := none, delay := some (roundDiv (ms + ((ofFt96 t4 : Int) - t3 - corr)) 2) }
    else s
  | _, _ => s

/-- A peer exchange is complete: the link delay in the neighbour's time, by the neighbour rate ratio of IEEE 802.1AS. -/
def State.ptpPeerDone (s : State) (t1 t2 t3 t4 corr : Int) : State :=
  let x := s.tim.ptp
  let ratio : Rat := match x.peerLast with
    | some (u3, u4) => if s.gptp && decide (u4 < t4) then ((t3 - u3 : Int) : Rat) / ((t4 - u4 : Int) : Rat) else 1
    | none => 1
  let twice : Rat := ratio * ((t4 - t1 : Int) : Rat) - ((t3 - t2 + corr : Int) : Rat)
  s.setPtp { x with asked := none, peerWaiting := none, peerLast := some (t3, t4), delay := some (inUnits 0 (twice / 2)),
                    unanswered := 0, asCapable := true }

/-- The answer to a peer request. A one-step answer carries its turnaround in the correction. -/
def State.ptpPeerAnswer (s : State) (seq : Nat) (twoStep : Bool) (t2 : Nat) (corr : Int) : State :=
  let t4 := s.receivedAt 7 s.now
  match s.tim.ptp.asked with
  | some (q, t1) =>
    if q ≠ seq ∨ !s.peerDelay then s
    else if twoStep then
      (if ft96Valid t2 then s.setPtp { s.tim.ptp with peerWaiting := some (seq, ofFt96 t2, t4, corr) } else s)
    else s.ptpPeerDone t1 0 0 t4 corr
  | none => s

/-- Its follow-up. -/
def State.ptpPeerFollowUp (s : State) (seq t3 : Nat) (corr : Int) : State :=
  match s.tim.ptp.asked, s.tim.ptp.peerWaiting with
  | some (q, t1), some (r, t2, t4, c) =>
    if q = seq ∧ r = seq ∧ ft96Valid t3 then s.ptpPeerDone t1 t2 (ofFt96 t3) t4 (c + corr) else s
  | _, _ => s

/-- A neighbour's peer request is answered in two steps, and prompts one of this port. -/
def State.ptpPeerRequest (s : State) (seq : Nat) : State :=
  if s.peerDelay then
    ((s.ptpSend seq (.peerAnswer true (BitVec.ofNat 96 (ft96 (s.receivedAt 7 s.now).toNat)) 0)).ptpSend seq
      (.peerFollowUp (BitVec.ofNat 96 (ft96 (s.sentAt 7).toNat)) 0)).ptpAsk
  else s

/-- What a message taken does: syncs, follow-ups and delay answers count from the master followed only. -/
def State.ptpTake (s : State) (m : PtpMessage) : State :=
  let seq := m.seq.toNat
  let mine : Bool := s.tim.ptp.parent == some m.source.toNat
  match m.body with
  | .announce d utc => s.ptpAnnounce m.source.toNat d utc.toNat
  | .sync twoStep origin corr => if mine then s.ptpSync seq twoStep origin.toNat corr else s
  | .followUp origin corr => if mine then s.ptpFollowUp seq origin.toNat corr else s
  | .delayAnswer t4 corr => if mine then s.ptpDelayAnswer seq t4.toNat corr else s
  | .peerRequest => s.ptpPeerRequest seq
  | .peerAnswer twoStep t2 corr => s.ptpPeerAnswer seq twoStep t2.toNat corr
  | .peerFollowUp t3 corr => s.ptpPeerFollowUp seq t3.toNat corr
  | .delayRequest => s
  | .management => s
  | .other => s

/-- PTP_MESSAGE_RECEIVED: a management message is discarded and counted; any other is taken, or discarded. -/
def execPtpMessageReceived (message : PtpMessage) (s : State) : Res :=
  guarded s (fun s =>
    if message.body = .management then s.bump F.TIM_CNT_MGMT
    else if s.ptpTakes message then s.ptpTake message
    else s)

/-- PL0_MASTER_LOST (R86): the master followed is forgotten, and the servo is no longer locked to PL0. -/
def execPl0MasterLost (s : State) : Res :=
  guarded s (fun s =>
    let x := s.tim.ptp
    if x.parent.isSome then
      (s.setPtp { x with parent := none, masters := x.masters.filter (fun (m : PtpMaster) => some m.source != x.parent), waiting := none,
                         toSlave := none, delay := if s.peerDelay then x.delay else none }).raise F.TIM_IRQ_PL0_LOST
    else s)

end Sys2Proof.Machine
end

