-- ==== Sys2Proof/Machine/Boom.lean ====
section
/-! DEFINITION. Faults, memory errors, self-tests and the Boom recorder (15). -/

namespace Sys2Proof.Machine

/-! Faults and reactions (R409, R414) -/

/-- ISOLATE stops the unit that faulted as if its own enable were written 0. -/
def State.isolate (s : State) (subsys : Nat) (unit : Option Nat) : State :=
  match subsys, unit with
  | 0x08, some u => if u < 16 then (s.wr (F.FLD_Bb_CFG_BEN u) 0).feedEnable u else s
  | 0x09, some u => if u < 16 then (s.wr (F.CHK_Fn_CTL_EN u) 0).feedEnable u else s
  | 0x0A, some u => if u < 48 then s.sliceEnable u false else s
  | 0x0B, some u => if u < 16 then s.canEnable u false else s
  | 0x0C, some u => if u < 128 then s.sawEnable u false else s
  | 0x13, some u => if u < 16 then s.wrBit F.DMX_CTL_ENG_EN u false else s
  | 0x14, some u => if u < 8 then s.wrBit F.CPH_CTL_CORE_EN u false else s
  | _, _ => s

/-- A fault with the port or engine it stands for, if it has one. -/
def State.faultAt (s : State) (subsys cls : Nat) (inj : Bool) (unit : Option Nat) : State :=
  let iso : Bool := classGiven subsys cls && s.reaction subsys cls == 3
  let s := s.fault subsys cls inj
  if iso then s.isolate subsys unit else s

/-- The subsystem numbers of assigned blocks (R25). -/
def assigned (n : Nat) : Bool := decide (n < 27) && !([2, 3, 13, 14, 15].contains n)

/-- FAULT_DETECTED: an error pin of a block. -/
def execFaultDetected (subsys : Fin 27) (cls : Fin 7) (unit : Option (Fin 256)) (s : State) : Res :=
  guarded s (fun s => if assigned subsys then s.faultAt subsys cls false (unit.map (·.val)) else s)

/-! Memory protection (R411, R412, R415) -/

/-- The subsystem whose memory holds an address (DEDUCED from the list of R411 and the blocks of R25). -/
def memOwner (addr : Nat) : Nat :=
  match addr / 2 ^ 40 with
  | 2 => if addr % 2 ^ 40 < 0x30000 then 0x0A else 0x0B
  | 3 => 0x0C
  | 5 => 0x1A
  | 6 => 0x13
  | 7 => 0x06
  | 16 => 0x01
  | _ => 0x00

/-- The 64-bit word of an address. -/
def wordOf (addr : Nat) : Nat := addr / 8 * 8

/-- What reading a word finds of an injected error: CE is corrected, UE poisons the word. -/
def State.memRead (s : State) (addr : Nat) : State :=
  let w := wordOf addr
  match s.bom.injected.get? w with
  | none => s
  | some bad =>
    let s := { s with bom := { s.bom with injected := s.bom.injected.erase w } }
    if bad = 1 then s.fault (memOwner addr) 0 true
    else { s with bom := { s.bom with poisoned := w :: s.bom.poisoned.filter (fun a => a != w) } }.fault (memOwner addr) 1 true

/-- Whether a range holds a poisoned word. -/
def State.poisonedIn (s : State) (addr len : Nat) : Bool :=
  s.bom.poisoned.any (fun w => decide (w < addr + len) && decide (addr < w + 8))

/-- A range was written: words written in full are no longer poisoned, and the first takes an armed injection. -/
def State.memWritten (s : State) (addr len : Nat) : State :=
  let full (w : Nat) : Bool := decide (addr ≤ w) && decide (w + 8 ≤ addr + len)
  let s := { s with bom := { s.bom with poisoned := s.bom.poisoned.filter (fun w => !(full w))
                                        injected := s.bom.injected.filter (fun p => !(full p.1)) } }
  let first := (addr + 7) / 8 * 8
  if s.on F.BOM_INJ_ARMED && memOwner addr == s.rd F.BOM_INJ_SUBSYS && full first then
    let n := if s.on F.BOM_INJ_DOUBLE then 2 else 1
    { s with bom := { s.bom with injected := s.bom.injected.insert first n } }.wr F.BOM_INJ_ARMED 0
  else s

/-- MEMORY_ERROR: a read of a word of a memory finds an error. -/
def execMemoryError (region : Fin 18) (off : BitVec 40) (double : Bool) (s : State) : Res :=
  guarded s (fun s =>
    let a := memAddr region off.toNat
    if (s.bom.injected.get? (wordOf a)).isSome then s.memRead a
    else if double then
      { s with bom := { s.bom with poisoned := wordOf a :: s.bom.poisoned.filter (fun x => x != wordOf a) } }.fault (memOwner a) 1 false
    else s.fault (memOwner a) 0 false)

/-- SCRUB: the scrubber reads one word; its write-back takes no injection. -/
def execScrub (region : Fin 18) (off : BitVec 40) (s : State) : Res :=
  guarded s (fun s => s.memRead (memAddr region off.toNat))

/-- LOCKSTEP_MISMATCH (R413). -/
def execLockstepMismatch (pair : Fin 2) (s : State) : Res :=
  guarded s (fun s =>
    let s := { s with stt := { s.stt with lockMiss := true } }
    let s := s.raise (if pair.val = 0 then F.GLB_LOCKSTEP_PAIR0 else F.GLB_LOCKSTEP_PAIR1)
    (s.bump F.GLB_LOCKSTEP_COUNT).fault 0 3 false)

/-- BOM_INJ (R415). -/
def State.bomInj (s : State) (subsys : Nat) (double go : Bool) : State :=
  let s := ((s.wr F.BOM_INJ_SUBSYS subsys).wrB F.BOM_INJ_DOUBLE double).ack
  if go then
    let s := if s.on F.BOM_INJ_ARMED then s.bump F.BOM_STAT_INJLOST else s
    s.raise F.BOM_INJ_ARMED
  else s

def execBomInj (subsys : BitVec 5) (double : Bool) (s : State) : Res :=
  guarded s (fun s => s.bomInj subsys.toNat double true)

/-! Self-tests (R416, R417) -/

/-- Whether a scan of a port is exclusive now. -/
def scanExclusive (s : State) (port : Nat) : Bool :=
  portUsed s port && !(portDown s port)

/-- BOM_TEST written. A GO while a background test runs takes its place; the rotation pauses. -/
def State.bomTest (s : State) (init : Initiator) (op port : Nat) (maint go : Bool) : State :=
  let s := ((s.wr F.BOM_TEST_OP op).wr F.BOM_TEST_PORT port).wrB F.BOM_TEST_MAINT maint
  if go && decide (1 ≤ op) && decide (op ≤ 3) then
    match s.bom.test with
    | some (_, _, false) => (s.capture init (s.ownFa 0 F.BOM_TEST_GO.off) 0x1A04).ack
    | _ =>
      let s := s.ack.resStart RR.BOM_TEST_RES
      if op = 2 ∧ scanExclusive s port ∧ !(s.exclusiveOk maint) then s.resDone RR.BOM_TEST_RES 0x1A03
      else { s with bom := { s.bom with test := some (op, port, false) } }
  else s.ack

def execMbist (init : Initiator) (s : State) : Res :=
  guarded s (fun s => s.bomTest init 1 (s.rd F.BOM_TEST_PORT) (s.on F.BOM_TEST_MAINT) true)
def execSerdesMarginScan (init : Initiator) (port : Fin 8) (maint : Bool) (s : State) : Res :=
  guarded s (fun s => s.bomTest init 2 port maint true)
def execHvLaneTest (init : Initiator) (s : State) : Res :=
  guarded s (fun s => s.bomTest init 3 (s.rd F.BOM_TEST_PORT) (s.on F.BOM_TEST_MAINT) true)

/-- The subsystem a test is of; MBIST's is that of the failing memory. -/
def testSubsys (op port mem : Nat) : Nat := if op = 2 then (if port < 4 then 0x10 else 0x16) else if op = 3 then 0x08 else mem

/-- The bit of a test among the background tests: MBIST 0, HV lanes 1, ports 2 to 9. -/
def testBit (op port : Nat) : Nat := if op = 1 then 0 else if op = 3 then 1 else 2 + port

/-- SELF_TEST_COMPLETE. -/
def execSelfTestComplete (failed : Bool) (memory : Fin 27) (s : State) : Res :=
  guarded s (fun s =>
    match s.bom.test with
    | none => s
    | some (op, port, background) =>
      let s := { s with bom := { s.bom with test := none } }.raise F.BOM_IRQ_TEST
      let s := if op = 1 then s.wrB F.STT_HREP_MBIST (!failed) else if op = 2 then s.wrB F.STT_HREP_SERDES (!failed) else s
      let s := if failed then s.fault (testSubsys op port memory) 5 false else s
      if background then { s with bom := { s.bom with bgFailed := setBit s.bom.bgFailed (testBit op port) failed } }
      else s.resDone RR.BOM_TEST_RES (if failed then 0x1A08 else 0))

/-- Whether a background test of the rotation may run now. -/
def State.mayTest (s : State) (k : Nat) : Bool := decide (k < 2) || !(scanExclusive s (k - 2))

/-- BACKGROUND_TEST_ROTATION (R417). -/
def execBackgroundTestRotation (s : State) : Res :=
  guarded s (fun s =>
    if s.on F.BOM_CTL_BG_EN ∧ s.bom.test = none then
      let order := (List.range 10).map (fun k => (s.bom.rotation + k) % 10)
      match order.find? (fun k => s.mayTest k) with
      | some k =>
        let t : Nat × Nat × Bool := if k = 0 then (1, 0, true) else if k = 1 then (3, 0, true) else (2, k - 2, true)
        { s with bom := { s.bom with test := some t, rotation := (k + 1) % 10 } }
      | none => s
    else s)

/-! The recorder (R418, R419) -/

/-- Records the Boom holds. -/
def boomSize : Nat := 32768

/-- The oldest valid index, when the next record to write is i. -/
def oldestOf (i : Nat) : Nat := i - min i boomSize
def State.oldestIndex (s : State) : Nat := oldestOf (s.rd F.BOM_WPTR_INDEX)

/-- WPTR with the record that is written in this cycle counted (R423). -/
def State.wptrNext (s : State) : Nat :=
  s.rd F.BOM_WPTR_INDEX + b2n (!(s.bom.queue.isEmpty) && s.ahead (fun i => i == .boomRecordWrite))

/-- The 32 bytes of a record written now. -/
def State.boomBytes (s : State) (r : BoomRec) : List Nat :=
  leBytes 4 (s.rd F.BOM_WPTR_INDEX) ++ leBytes 12 (if s.timeRuns then s.stamp else 0) ++ leBytes 2 r.code ++ [r.kind, r.flags] ++
    leBytes 2 r.unit ++ leBytes 2 r.suppr ++ leBytes 8 r.data

/-- Whether a WPTR overtakes a mark. -/
def State.overtakes (s : State) (i n : Nat) : Bool :=
  decide (boomSize < (i + 2 ^ 32 - s.rd (F.BOM_MARKn_IDX_INDEX n)) % 2 ^ 32)

/-- A mark meets a new WPTR (R420). -/
def State.overtake (s : State) (n : Nat) : State :=
  if s.rd (F.BOM_MARKn_ST_ST n) = 1 ∧ s.overtakes (s.rd F.BOM_WPTR_INDEX) n then
    (s.wr (F.BOM_MARKn_ST_ST n) 2).raise F.BOM_IRQ_OVT
  else s

/-- A stream cursor below an oldest valid index moves there; what it skips is counted for the next frame (R422). -/
def State.cursorUp (s : State) (o : Nat) : State :=
  let c := s.rd F.BOM_SCUR_INDEX
  if c < o then { s with bom := { s.bom with lost := s.bom.lost + (o - c) } }.wr F.BOM_SCUR_INDEX o else s

/-- One record is written whole. -/
def State.boomWrite (s : State) (r : BoomRec) : State :=
  let i := s.rd F.BOM_WPTR_INDEX
  let off := 32 * (i % boomSize)
  let s := s.mark (.recordOver off (s.bytes 5 off 32))
  let s := (s.store 5 off (s.boomBytes r)).wr F.BOM_WPTR_INDEX (i + 1)
  ((List.range 8).foldl (fun t n => t.overtake n) s).cursorUp (oldestOf (i + 1))

/-- BOOM_RECORD_WRITE: the record that waits longest. -/
def execBoomRecordWrite (s : State) : Res :=
  guarded s (fun s =>
    match s.bom.queue with
    | [] => s
    | r :: l => { s with bom := { s.bom with queue := l } }.boomWrite r)

/-! Marks (R420, R421) -/

/-- REWIND's outcome: the cursor, and the index reported with a code. -/
def State.rewound (s : State) (i code : Nat) : State := ((s.wr F.BOM_SCUR_INDEX i).wr F.BOM_REW_IDX_INDEX i).resDone RR.BOM_CMD_RES code

/-- REWIND on mark n (R421): a write of the same cycle that overtakes the mark comes first (R423). -/
def State.rewind (s : State) (n : Nat) : State :=
  let i := s.rd (F.BOM_MARKn_IDX_INDEX n)
  let o := oldestOf s.wptrNext
  let late := s.overtakes s.wptrNext n
  let s := s.resStart RR.BOM_CMD_RES
  match s.rd (F.BOM_MARKn_ST_ST n) with
  | 1 => if late then s.rewound o 0x1A01 else s.rewound i 0
  | 2 => s.rewound o 0x1A01
  | _ => s.resDone RR.BOM_CMD_RES 0x1A02

/-- A BOM_CMD performed. A mark names the index after a record written in the same cycle (R423). -/
def State.bomCmd (s : State) (op n : Nat) (go : Bool) : State :=
  let s := ((s.wr F.BOM_CMD_OP op).wr F.BOM_CMD_MARK n).ack
  if !go then s
  else match op with
    | 1 =>
      let i := s.wptrNext
      let s := ((s.resStart RR.BOM_CMD_RES).wr (F.BOM_MARKn_IDX_INDEX n) i).wr (F.BOM_MARKn_ST_ST n) 1
      (s.boom { code := 0x1A09, kind := 6, unit := n, data := i }).resDone RR.BOM_CMD_RES 0
    | 2 => ((s.resStart RR.BOM_CMD_RES).wr (F.BOM_MARKn_ST_ST n) 0).resDone RR.BOM_CMD_RES 0
    | 3 => s.rewind n
    | _ => s

def execMark (n : Fin 8) (s : State) : Res := guarded s (fun s => s.bomCmd 1 n true)
def execFree (n : Fin 8) (s : State) : Res := guarded s (fun s => s.bomCmd 2 n true)
def execRewind (n : Fin 8) (s : State) : Res := guarded s (fun s => s.bomCmd 3 n true)

/-- BOM_FWREC (R419). -/
def State.bomFwrec (s : State) (unit code : Nat) : State :=
  (s.boom { code := code, kind := 5, unit := unit, data := s.rd64 F.BOM_FWREC_DATA_LO_DATA F.BOM_FWREC_DATA_HI_DATA }).ack

def execBomFwrec (unit code : BitVec 16) (s : State) : Res := guarded s (fun s => s.bomFwrec unit.toNat code.toNat)

/-! Records to the head (R422) -/

/-- The bytes of record i. -/
def State.boomRecord (s : State) (i : Nat) : List Nat := s.bytes 5 (32 * (i % boomSize)) 32

/-- Records from a cursor, at most n of the kinds streamed: the cursor after, and the indexes taken. -/
def State.streamFrom (s : State) : Nat → Nat → Nat → Nat × List Nat
  | 0, _, cur => (cur, [])
  | fuel + 1, n, cur =>
    if n = 0 ∨ cur = s.rd F.BOM_WPTR_INDEX then (cur, [])
    else
      let k := (s.boomRecord cur).getD 18 0
      if 1 ≤ k ∧ k ≤ 6 ∧ bit (s.rd F.BOM_STREAM_KIND) (k - 1) then
        let r := s.streamFrom fuel (n - 1) (cur + 1)
        (r.1, cur :: r.2)
      else s.streamFrom fuel n (cur + 1)

/-- Whether a frame with these records is due: 63 wait, the oldest was written 1 ms ago, or there are skipped ones to report. A record
whose TIME is 0 or lies ahead, as after a step, is as old as the sender says. -/
def State.eventDue (s : State) (l : List Nat) : Bool :=
  match l with
  | [] => s.bom.lost != 0
  | i :: _ =>
    let t := ofFt96 (leAt (s.boomRecord i) 4 12)
    decide (63 ≤ l.length) || t == 0 || decide (s.now < t) || decide (t + us16 1000 ≤ s.now)

/-- EVENT_FRAME_SEND. A write of the same cycle that overtakes the cursor moves it first (R423). -/
def execEventFrameSend (s : State) : Res :=
  guarded s (fun s =>
    if !(s.on F.BOM_CTL_STREAM_EN) then s
    else
      let s := s.cursorUp (oldestOf s.wptrNext)
      let cur := s.rd F.BOM_SCUR_INDEX
      let (next, l) := s.streamFrom (boomSize + 1) 63 cur
      if !(s.eventDue l) then (if l.isEmpty then s.wr F.BOM_SCUR_INDEX next else s)
      else
        let head := leBytes 2 l.length ++ leBytes 2 (b2n (s.bom.lost != 0)) ++ leBytes 4 (l.headD cur) ++
          leBytes 4 s.bom.lost ++ leBytes 4 0
        let s := s.send 9 { typ := 0xA, tc := 2, dest := 4, payload := head ++ (l.map s.boomRecord).flatten }
        { s with bom := { s.bom with lost := 0 } }.wr F.BOM_SCUR_INDEX next)

/-- The form of a read of region 0x5 (R419). -/
def boomForm (off len : Nat) (enabled : Bool) : Bool :=
  enabled && decide (4 ≤ len) && decide (len ≤ 64) && len % 4 == 0 && off % 4 == 0 && decide ((off + len - 1) / 32 ≤ off / 32 + 1) &&
    decide (off + len ≤ 32 * boomSize)

/-- The bytes that a read of region 0x5 sees: a record written in the same cycle still shows what stood in its place (R423). -/
def State.boomBytesAt (s : State) (off len : Nat) : List Nat :=
  (List.range len).map (fun k =>
    let old := s.cycle.findSome? (fun m => match m with
      | .recordOver o bs => if o ≤ off + k ∧ off + k < o + 32 then bs[off + k - o]? else none
      | _ => none)
    old.getD ((s.bytes 5 (off + k) 1).headD 0))

/-- A read of region 0x5. -/
def State.boomRead (s : State) (init : Initiator) (off len : Nat) (enabled : Bool := true) : State :=
  if boomForm off len enabled then s.give (s.boomBytesAt off len) else s.refuse init (s.ownFa 5 off) 0x1A06

end Sys2Proof.Machine
end

