-- ==== Sys2Proof/Machine/Security.lean ====
section
/-! DEFINITION. Lifecycle, roots, key slots, blobs, use limits, epoch keys, the GCM complex and the tamper enables (13). -/

namespace Sys2Proof.Machine

/-- Lifecycle states of R354. -/
def lcBlank : Nat := 0
def lcProvision : Nat := 1
def lcDeployed : Nat := 2
def lcRma : Nat := 3
def lcRedeployed : Nat := 4
def lcScrapped : Nat := 5

def State.lc (s : State) : Nat := s.rd F.KEY_STATUS_LC
def State.tlatch (s : State) : Bool := s.on F.VGL_STATUS_TLATCH

/-- The n low bytes of a number, most significant first. -/
def beBytes (n v : Nat) : List Nat := (leBytes n v).reverse

/-- n bytes of a byte string that a cryptographic function gave. -/
def exactly (n : Nat) (bs : List Nat) : List Nat := bytesAt (bs.map (· % 256)) 0 n

/-! Roots (R358) -/

/-- Labels of the key derivations: roots, blob keys, ring keys. -/
def labelRoot : Nat := 0
def labelKek : Nat := 1
def labelRing : Nat := 2

/-- The root of a state. -/
def State.root (s : State) (st : Nat) : Nat :=
  Config.kdf Config.pufSecret labelRoot (leBytes 32 (s.sec.salts.getD st 0) ++ [st])

/-- Whether a state has a root. -/
def hasRoot (st : Nat) : Bool := decide (1 ≤ st) && decide (st ≤ 4)

/-! Key slots (R359, R360) -/

def State.slotValid (s : State) (n : Nat) : Bool := s.on (F.KEY_Sn_INFO_VALID n)
def State.slotAttr (s : State) (n : Nat) : Nat := s.rd (F.KEY_Sn_INFO_ATTR n)
def State.slotDattr (s : State) (n : Nat) : Nat := s.rd (F.KEY_Sn_INFO_DATTR n)
def State.keySlot (s : State) (n : Nat) : KeySlot := s.sec.slots.getD n ⟨0, 0, 0, 0, 0, 0⟩
def State.setKeySlot (s : State) (n : Nat) (k : KeySlot) : State := { s with sec := { s.sec with slots := s.sec.slots.insert n k } }

/-- Attributes of R359. -/
def encOnly : Nat := 1
def decOnly : Nat := 2
def wrapOnly : Nat := 3
def deriveOnly : Nat := 4

/-- A slot is emptied: its metadata reads as at reset. -/
def State.emptySlot (s : State) (n : Nat) : State :=
  let s := { s with sec := { s.sec with slots := s.sec.slots.erase n } }
  let s := ((s.wr (F.KEY_Sn_INFO_VALID n) 0).wr (F.KEY_Sn_INFO_ATTR n) 0).wr (F.KEY_Sn_INFO_DATTR n) 0
  let s := ((s.wr (F.KEY_Sn_INFO_E0 n) 0).wr (F.KEY_Sn_INFO_E1 n) 0).wr (F.KEY_Sn_INFO_E0V n) 0
  let s := ((s.wr (F.KEY_Sn_INFO_E1V n) 0).wr (F.KEY_Sn_INFO_RECORD n) 0).wr (F.KEY_Sn_LIMIT_LIMIT n) 0
  s.wr64 (F.KEY_Sn_ID_LO_KEY_ID n) (F.KEY_Sn_ID_HI_KEY_ID n) 0

/-- Host operations on a slot, or all of them, end with a code; their output buffers are zeroed. -/
def State.endHostOps (s : State) (slot : Option Nat) (code : Nat) : State :=
  let l := s.sec.ops.filter (fun p => slot.isNone || slot == some p.2.slot)
  let s := { s with sec := { s.sec with ops := s.sec.ops.filter (fun p => !(slot.isNone || slot == some p.2.slot)) } }
  l.foldl (fun t p => ((t.resDone (RR.CPH_RES p.1) code).raise F.CPH_IRQ_HOSTDONE).bump F.CPH_CNT1_HOSTFAIL) s

/-- ZERO of one slot: its hold list is discarded, and a running job on it ends with 0x1501 (R306, R380). -/
def State.zeroSlot (s : State) (n : Nat) : State := ((s.emptySlot n).endHostOps (some n) 0x1501).discardHeld (some n)

/-- The slots that hold a key. -/
def State.loadedSlots (s : State) : List Nat := (List.range 256).filter s.slotValid

/-- Every slot is zeroised. -/
def State.zeroSlots (s : State) : State := s.loadedSlots.foldl (fun t n => t.zeroSlot n) s

/-- ZERO_ALL. -/
def State.zeroAll (s : State) : State := (s.zeroSlots.raise F.KEY_IRQ_ZEROISED).mark .zeroedAll

/-! KEY_STAGE and blobs (R361 to R366) -/

/-- The 256 bytes of KEY_STAGE. -/
def State.stageBytes (s : State) : List Nat := ((List.range 64).map (fun n => leBytes 4 (s.rd (F.KEY_STAGE_DATA n)))).flatten

def State.zeroStage (s : State) : State := (List.range 64).foldl (fun t n => t.wr (F.KEY_STAGE_DATA n) 0) s

/-- KEY_STAGE_WRITE. -/
def State.stageWrite (s : State) (n data : Nat) : State := (s.wr (F.KEY_STAGE_DATA n) data).ack

def execKeyStageWrite (word : Fin 64) (data : Word) (s : State) : Res :=
  guarded s (fun s => s.stageWrite word data.toNat)

/-- Whether MAGIC, VERSION, the reserved bytes, TGT_SERIAL, ATTR and DATTR of a blob header are valid. -/
def State.blobForm (s : State) (b : List Nat) : Bool :=
  leAt b 0 4 == 0xA14B4C42 && leAt b 4 1 == 1 && leAt b 0x15 3 == 0 && leAt b 0x20 32 == 0 && leAt b 0x18 8 == s.serial &&
    decide (1 ≤ leAt b 6 1) && decide (leAt b 6 1 ≤ 4) &&
    (if leAt b 6 1 = deriveOnly then leAt b 7 1 == 1 || leAt b 7 1 == 2 else leAt b 7 1 == 0)

/-- The KEK of a blob header under a parent key (R362). -/
def kek (parent : Nat) (b : List Nat) : Nat := Config.kdf parent labelKek (bytesAt b 0 64)

/-- A trial unwrap: R363 steps 2 to 5 and 7, and step 6 against the reference of a slot that is filled. -/
def State.unwrap (s : State) (b : List Nat) (slot : Option Nat) : Except Nat Nat :=
  let parent := leAt b 0x14 1
  let ref := s.sec.refs.find? (fun r => some r.slot == slot)
  if s.tlatch then .error 0x1506
  else if !(hasRoot s.lc) || !(s.on F.KEY_STATUS_ROOT_OK) then .error 0x1507
  else if !(s.blobForm b) then .error 0x1504
  else if leAt b 5 1 != s.lc then .error 0x1508
  else if parent != 0xFF && !(s.slotValid parent && s.slotAttr parent == wrapOnly) then .error 0x1509
  else if ref.any (fun r => r.attr != leAt b 6 1 || r.dattr != leAt b 7 1 || r.keyId != leAt b 8 8) then .error 0x1502
  else match Config.keyUnwrap (kek (if parent = 0xFF then s.root s.lc else (s.keySlot parent).key) b) (bytesAt b 64 40) with
    | some k => .ok (ofLe (exactly 32 k))
    | none => .error 0x1505

/-- Bytes erased in flash read as bytes nothing has written. -/
def State.flashErase (s : State) (off n : Nat) : State :=
  let a := memAddr flashRegion off
  { s with mem := s.mem.filter (fun c => !(decide (a ≤ c.1) && decide (c.1 < a + n))) }

/-- The half h of blob record r (R441). -/
def blobHalf (r h : Nat) : Nat := 0x600000 + (2 * r + h) * 4096

/-- Whether a half verifies (R365). -/
def State.halfVerifies (s : State) (off : Nat) : Bool :=
  s.le flashRegion (off + 0x80) 4 == 0xA14B434D && s.le flashRegion (off + 0x88) 4 == 104 &&
    s.bytes flashRegion (off + 0x90) 48 == exactly 48 (Config.sha384 (s.bytes flashRegion off 104))

def State.halfGen (s : State) (off : Nat) : Nat := s.le flashRegion (off + 0x84) 4

/-- The winner of a pair of halves. -/
def State.winner (s : State) (o0 o1 : Nat) (v0 v1 : Bool) : Option Nat :=
  match v0, v1 with
  | false, false => none
  | true, false => some 0
  | false, true => some 1
  | true, true => if newer 32 (s.halfGen o1) (s.halfGen o0) then some 1 else some 0

/-- The winning half of a record. -/
def State.blobWinner (s : State) (r : Nat) : Option Nat :=
  s.winner (blobHalf r 0) (blobHalf r 1) (s.halfVerifies (blobHalf r 0)) (s.halfVerifies (blobHalf r 1))

/-- A blob is written to the half that is not the winner (R366). -/
def State.storeBlob (s : State) (r : Nat) (b : List Nat) : State :=
  let w := s.blobWinner r
  let h := match w with
    | some 0 => 1
    | _ => 0
  let gen := match w with
    | some k => s.halfGen (blobHalf r k) + 1
    | none => 1
  let off := blobHalf r h
  let s := (s.flashErase off 4096).store flashRegion off (bytesAt b 0 104)
  s.store flashRegion (off + 0x80) (leBytes 4 0xA14B434D ++ leBytes 4 gen ++ leBytes 4 104 ++ leBytes 4 0 ++
    exactly 48 (Config.sha384 (bytesAt b 0 104)))

/-- A slot is filled from a blob (R363): the code of the load. -/
def State.loadBlob (s : State) (slot record : Nat) (b : List Nat) : State × Nat :=
  match s.unwrap b (some slot) with
  | .error c => (s, c)
  | .ok k =>
    let s := s.setKeySlot slot { key := k }
    let s := (((s.raise (F.KEY_Sn_INFO_VALID slot)).wr (F.KEY_Sn_INFO_ATTR slot) (leAt b 6 1)).wr (F.KEY_Sn_INFO_DATTR slot)
      (leAt b 7 1)).wr (F.KEY_Sn_INFO_RECORD slot) record
    ((s.wr64 (F.KEY_Sn_ID_LO_KEY_ID slot) (F.KEY_Sn_ID_HI_KEY_ID slot) (leAt b 8 8)).wr (F.KEY_Sn_LIMIT_LIMIT slot)
      (leAt b 0x10 4), 0)

/-- LOAD_FLASH, and LOAD_STAGE with no record. -/
def State.loadKey (s : State) (slot : Nat) (record : Option Nat) : State × Nat :=
  if slot = 0 then (s, 0x1501)
  else if s.slotValid slot then (s, 0x150A)
  else if s.tlatch then (s, 0x1506)
  else if !(hasRoot s.lc) || !(s.on F.KEY_STATUS_ROOT_OK) then (s, 0x1507)
  else match record with
    | none => s.loadBlob slot 0xFF (s.stageBytes.take 104)
    | some r =>
      match s.blobWinner r with
      | none => (s, 0x150B)
      | some h => s.loadBlob slot r (s.bytes flashRegion (blobHalf r h) 104)

/-- STORE (R366). -/
def State.storeKey (s : State) (record : Nat) : State × Nat :=
  let b := s.stageBytes.take 104
  match s.unwrap b none with
  | .error c => (s, c)
  | .ok _ => (s.storeBlob record b, 0)

/-- SEAL (R364); KEY_STAGE is zeroed whatever the outcome. -/
def State.sealKey (s : State) (record : Nat) : State × Nat :=
  let b := s.stageBytes
  let st := leAt b 5 1
  let (t, c) :=
    if s.lc != lcProvision && s.lc != lcRma then (s, 0x150D)
    else if s.tlatch then (s, 0x1506)
    else if !(s.on F.KEY_STATUS_ROOT_OK) then (s, 0x1507)
    else if !(s.blobForm b) || leAt b 0x14 1 != 0xFF then (s, 0x1504)
    else if st != s.lc && st != s.lc + 1 then (s, 0x1508)
    else
      let head := b.take 64
      (s.storeBlob record (head ++ exactly 40 (Config.keyWrap (kek (s.root st) head) (bytesAt b 64 32))), 0)
  (t.zeroStage, c)

/-! Lifecycle transitions (R355 to R357, R376) -/

/-- The nonce as 16 bytes. -/
def State.lcNonce (s : State) : List Nat := ((List.range 4).map (fun n => leBytes 4 (s.rd (F.KEY_LC_NONCE_NONCE n)))).flatten

/-- The nonce is renewed from the random source. -/
def State.renewNonce (s : State) : State :=
  (List.range 4).foldl (fun t n => (t.wr (F.KEY_LC_NONCE_NONCE n) t.free).draw) s

/-- Whether a transition is in R355. -/
def transition (a b : Nat) : Bool :=
  (a == lcBlank && b == lcProvision) || (a == lcProvision && b == lcDeployed) || (a == lcDeployed && b == lcRma) ||
    (a == lcRma && b == lcRedeployed) || (b == lcScrapped && decide (a < lcScrapped))

/-- Whether a signing key is accepted now (R444). -/
def State.keyAccepted (s : State) (k : Nat) : Bool :=
  if k < 4 then bit (s.rd F.UPD_KEYS_PROV) k && !(bit (s.rd F.UPD_KEYS_REVOKED) k)
  else k == 4 && (s.lc == lcBlank || s.lc == lcProvision || s.lc == lcRma)

/-- The public key of an index. -/
def State.publicKey (s : State) (k : Nat) : List Nat := s.sec.pubKeys.getD k (Config.signingKey k)

/-- Whether a signature verifies under an accepted key. -/
def State.signed (s : State) (k : Nat) (msg sig : List Nat) : Bool :=
  s.keyAccepted k && Config.ecdsaVerify (s.publicKey k) sig msg

/-- Whether MAGIC, SERIAL and NONCE of a record match. -/
def State.recordFits (s : State) (b : List Nat) (magic : Nat) : Bool :=
  leAt b 0 4 == magic && leAt b 8 8 == s.serial && bytesAt b 16 16 == s.lcNonce

/-- Salts are drawn for the four states that have a root. -/
def State.drawSalts (s : State) : State :=
  [1, 2, 3, 4].foldl (fun t st =>
    { t with sec := { t.sec with salts := t.sec.salts.insert st (t.free % 2 ^ 256) } }.draw) s

/-- The state is entered. -/
def State.enterLc (s : State) (nxt : Nat) : State :=
  let s := if s.lc = lcBlank ∧ nxt = lcProvision then s.drawSalts else s
  let s := (s.wr F.KEY_STATUS_LC nxt).wr F.KEY_STATUS_ROOT_OK 0
  if nxt = lcScrapped then s.zeroSlots else s

/-- A transition record applied: the code. A transition from BLANK needs no signature. -/
def State.lcRecord (s : State) (b : List Nat) : State × Nat :=
  let frm := leAt b 4 1
  let nxt := leAt b 5 1
  let ack := bit (leAt b 6 1) 0
  let free : Bool := !ack && s.lc == lcBlank && (nxt == lcProvision || nxt == lcScrapped)
  if s.lc = lcScrapped then (s, 0x1507)
  else if !(s.recordFits b 0xA14C5452) || 2 ≤ leAt b 6 1 || leAt b 0x20 16 != 0 ||
      !(free || s.signed (leAt b 7 1) (bytesAt b 0 0x30) (bytesAt b 0x30 96)) then (s, 0x150C)
  else if ack then
    if nxt ≠ frm ∨ frm ≠ s.lc then (s, 0x150D)
    else if s.rd F.VGL_STATUS_ACTIVE ≠ 0 then (s, 0x150C)
    else
      let root : Bool := s.tlatch && hasRoot s.lc
      let s := s.wr F.VGL_STATUS_TLATCH 0
      (if root then s.raise F.KEY_STATUS_ROOT_OK else s, 0)
  else if frm ≠ s.lc ∨ !(transition frm nxt) then (s, 0x150D)
  else (s.enterLc nxt, 0)

/-- LC: the nonce is renewed and KEY_STAGE zeroed whatever the outcome. -/
def State.lcOp (s : State) (b : List Nat) : State × Nat :=
  let (s, c) := s.lcRecord b
  (s.renewNonce.zeroStage, c)

/-! KEY_CMD (R384) -/

/-- KEY_CMD written. -/
def State.keyCmd (s : State) (init : Initiator) (op record slot : Nat) (go : Bool) : State :=
  let k := bankOf init
  let s := (((s.wr (F.KEY_CMD_OP k) op).wr (F.KEY_CMD_RECORD k) record).wr (F.KEY_CMD_SLOT k) slot).ack
  if go && decide (1 ≤ op) && decide (op ≤ 7) then
    match s.sec.cmds.get? k with
    | some _ => s.capture init (s.ownFa 0 (F.KEY_CMD_GO 0).off) 0x150F
    | none => { s.resStart (RR.KEY_RES k) with sec := { s.sec with cmds := s.sec.cmds.insert k ⟨op, record, slot⟩ } }
  else s

def execLoadFlash (init : Initiator) (slot record : Fin 256) (s : State) : Res :=
  guarded s (fun s => s.keyCmd init 1 record slot true)
def execLoadStage (init : Initiator) (slot : Fin 256) (s : State) : Res :=
  guarded s (fun s => s.keyCmd init 2 (s.rd (F.KEY_CMD_RECORD (bankOf init))) slot true)
def execStore (init : Initiator) (record : Fin 256) (s : State) : Res :=
  guarded s (fun s => s.keyCmd init 3 record (s.rd (F.KEY_CMD_SLOT (bankOf init))) true)
def execSeal (init : Initiator) (record : Fin 256) (s : State) : Res :=
  guarded s (fun s => s.keyCmd init 4 record (s.rd (F.KEY_CMD_SLOT (bankOf init))) true)
def execZero (init : Initiator) (slot : Fin 256) (s : State) : Res :=
  guarded s (fun s => s.keyCmd init 5 (s.rd (F.KEY_CMD_RECORD (bankOf init))) slot true)
def execZeroAll (init : Initiator) (s : State) : Res :=
  guarded s (fun s => s.keyCmd init 6 (s.rd (F.KEY_CMD_RECORD (bankOf init))) (s.rd (F.KEY_CMD_SLOT (bankOf init))) true)
def execLc (init : Initiator) (s : State) : Res :=
  guarded s (fun s => s.keyCmd init 7 (s.rd (F.KEY_CMD_RECORD (bankOf init))) (s.rd (F.KEY_CMD_SLOT (bankOf init))) true)

/-- A command performed: the code. -/
def State.keyPerform (s : State) (r : KeyRun) : State × Nat :=
  if s.lc = lcScrapped then (s, 0x1507)
  else match r.op with
    | 1 => s.loadKey r.slot (some r.record)
    | 2 => s.loadKey r.slot none
    | 3 => s.storeKey r.record
    | 4 => s.sealKey r.record
    | 5 => if r.slot = 0 then (s, 0x1501) else (s.zeroSlot r.slot, 0)
    | 6 => (s.zeroAll, 0)
    | _ => s.lcOp s.stageBytes

/-! Tamper sources (R375), and what of one cycle goes before a completion (R380) -/

/-- The enables in force (R375). -/
def State.tamperEn (s : State) : Nat :=
  let e := s.rd F.VGL_TCFG_EN
  if s.lc = lcBlank ∧ !s.almInForce then e % 16
  else if s.lc = lcDeployed ∨ s.lc = lcRedeployed then e ||| 0x70
  else e

/-- The sources watched: on VBAT alone only TMP0 to TMP3 and the mesh. -/
def State.watched (s : State) : Nat := if s.pwr.vbat then Nat.land s.tamperEn 0x1F else s.tamperEn

/-- The watched sources that become active. -/
def State.newSources (s : State) (active : Nat) : List Nat :=
  (List.range 8).filter (fun k => bit active k && !(bit (s.rd F.VGL_STATUS_ACTIVE) k) && bit s.watched k)

/-- A tamper event follows in this cycle. -/
def State.tamperAhead (s : State) : Bool :=
  s.ahead (fun i => match i with
    | .tamperEvent active => !(s.newSources active.toNat).isEmpty
    | _ => false)

/-- The command of a bank completes later in this cycle. -/
def State.completesAhead (s : State) (bank : Nat) : Bool :=
  s.ahead (fun i => match i with
    | .keyCmdComplete b => b.val == bank
    | _ => false)

/-- A ZERO_ALL, or a ZERO of the slot, completes later in this cycle. -/
def State.zeroAhead (s : State) (slot : Nat) : Bool :=
  s.lc != lcScrapped && s.sec.cmds.any (fun p => (p.2.op == 6 || (p.2.op == 5 && p.2.slot == slot)) && s.completesAhead p.1)

/-- Whether a command loads a slot. -/
def KeyRun.loads (r : KeyRun) : Bool := r.op == 1 || r.op == 2

/-- A load that ZERO_ALL meets ends with 0x150A and leaves the slot empty. -/
def State.loadZeroed (s : State) (r : KeyRun) : Bool :=
  r.loads && s.lc != lcScrapped &&
    (s.marked .zeroedAll || s.sec.cmds.any (fun p => p.2.op == 6 && s.completesAhead p.1))

/-- KEY_CMD_COMPLETE. A tamper event of the same cycle comes first, and aborts the command. -/
def execKeyCmdComplete (bank : Fin 3) (s : State) : Res :=
  guarded s (fun s =>
    match s.sec.cmds.get? bank with
    | none => s
    | some r =>
      if s.tamperAhead then s
      else
        let s := { s with sec := { s.sec with cmds := s.sec.cmds.erase bank } }
        let (s, c) := if s.loadZeroed r then (s, 0x150A) else s.keyPerform r
        (s.resDone (RR.KEY_RES bank) c).raise F.KEY_IRQ_DONE)

/-! Use limits (R367) -/

/-- Invocations a LIMIT allows. -/
def limitOf (v : Nat) : Nat := if v = 0 then 2 ^ 32 else v

/-- The count at which a key warns. -/
def warnAt (lim : Nat) : Nat := (9 * lim + 9) / 10

/-- The keys of a slot whose counts are held to its limit: none the slot's own, some b the epoch key of bank b. -/
def State.bankValid (s : State) (n : Nat) : Option Nat → Bool
  | none => s.slotValid n
  | some 0 => s.on (F.KEY_Sn_INFO_E0V n)
  | some _ => s.on (F.KEY_Sn_INFO_E1V n)
def KeySlot.count (k : KeySlot) : Option Nat → Nat
  | none => k.uses
  | some 0 => k.use0
  | some _ => k.use1
def KeySlot.counted (k : KeySlot) : Option Nat → KeySlot
  | none => { k with uses := k.uses + 1 }
  | some 0 => { k with use0 := k.use0 + 1 }
  | some _ => { k with use1 := k.use1 + 1 }

/-- Whether some valid key of a slot has reached a count (KEY_WARNk, KEY_EXHk). -/
def State.slotReached (s : State) (n : Nat) (thr : Nat → Nat) : Bool :=
  let lim := limitOf (s.rd (F.KEY_Sn_LIMIT_LIMIT n))
  [none, some 0, some 1].any (fun b => s.bankValid n b && decide (thr lim ≤ (s.keySlot n).count b))

/-- A hub's REKEY_REQ (R279, R286). -/
def State.rekeyReq (s : State) (reason : Nat) : State := s.toHead [6, reason, 0, 0]

/-- One use of a key: whether it is permitted. -/
def State.useKey (s : State) (n : Nat) (b : Option Nat) : State × Bool :=
  let lim := limitOf (s.rd (F.KEY_Sn_LIMIT_LIMIT n))
  let k := s.keySlot n
  if lim ≤ k.count b then
    let s := s.raise F.KEY_IRQ_EXHAUST
    (if b.isSome then s.rekeyReq 1 else s, false)
  else
    let k := k.counted b
    let s := s.setKeySlot n k
    if k.count b = warnAt lim then
      let s := s.raise F.KEY_IRQ_WARN
      (if b.isSome || s.slotAttr n = deriveOnly then s.rekeyReq 0 else s, true)
    else (s, true)

/-! Epoch keys (R368) -/

/-- The bank that holds a key epoch. -/
def State.bankOfEpoch (s : State) (n e : Nat) : Option Nat :=
  if s.on (F.KEY_Sn_INFO_E0V n) && s.rd (F.KEY_Sn_INFO_E0 n) == e then some 0
  else if s.on (F.KEY_Sn_INFO_E1V n) && s.rd (F.KEY_Sn_INFO_E1 n) == e then some 1
  else none

/-- A bank is zeroised. -/
def State.emptyBank (s : State) (n b : Nat) : State :=
  let k := s.keySlot n
  if b = 0 then
    ((s.wr (F.KEY_Sn_INFO_E0V n) 0).wr (F.KEY_Sn_INFO_E0 n) 0).setKeySlot n { k with bank0 := 0, use0 := 0 }
  else ((s.wr (F.KEY_Sn_INFO_E1V n) 0).wr (F.KEY_Sn_INFO_E1 n) 0).setKeySlot n { k with bank1 := 0, use1 := 0 }

/-- One master's key for key epoch e of ring epoch ring, in the bank that does not hold KEP_TX. -/
def State.deriveOne (s : State) (e ring n : Nat) : State :=
  let b := if s.bankOfEpoch n (s.rd F.CRL_KEY_TX) = some 0 then 1 else 0
  let s := s.emptyBank n b
  let (s, ok) := s.useKey n none
  if !ok then s
  else
    let k := s.keySlot n
    let v := Config.kdf k.key labelRing
      (leBytes 8 (s.rd64 (F.KEY_Sn_ID_LO_KEY_ID n) (F.KEY_Sn_ID_HI_KEY_ID n)) ++ [e] ++ leBytes 2 ring)
    if b = 0 then ((s.raise (F.KEY_Sn_INFO_E0V n)).wr (F.KEY_Sn_INFO_E0 n) e).setKeySlot n { k with bank0 := v, use0 := 0 }
    else ((s.raise (F.KEY_Sn_INFO_E1V n)).wr (F.KEY_Sn_INFO_E1 n) e).setKeySlot n { k with bank1 := v, use1 := 0 }

/-- The masters held. -/
def State.masters (s : State) : List Nat := s.loadedSlots.filter (fun n => s.slotAttr n == deriveOnly)

/-- At the effect boundary of an epoch that announces KEP_NEXT: every master is derived, and the answer is to follow. -/
def State.deriveEpoch (s : State) (e ring : Nat) : State :=
  let s := s.masters.foldl (fun t n => t.deriveOne e ring n) s
  { s with ring := { s.ring with preparing := true } }

/-- EPOCH_KEYS_DERIVED: REKEY_READY goes to the head; after a tamper event the hub cannot answer (R378). -/
def execEpochKeysDerived (s : State) : Res :=
  guarded s (fun s =>
    if s.ring.preparing then
      let s := { s with ring := { s.ring with preparing := false } }
      if s.tlatch then s else (s.raise F.KEY_IRQ_DERIVED).toHead [7, s.rd F.CRL_KEY_NEXT]
    else s)

/-- Banks of other key epochs than KEP_TX and one in preparation are zeroised. -/
def State.zeroOldBanks (s : State) : State :=
  let keep (e : Nat) : Bool := e == s.rd F.CRL_KEY_TX || (s.on F.CRL_KEY_NEXT_VALID && e == s.rd F.CRL_KEY_NEXT)
  s.masters.foldl (fun t n =>
    let t := if t.on (F.KEY_Sn_INFO_E0V n) && !(keep (t.rd (F.KEY_Sn_INFO_E0 n))) then t.emptyBank n 0 else t
    if t.on (F.KEY_Sn_INFO_E1V n) && !(keep (t.rd (F.KEY_Sn_INFO_E1 n))) then t.emptyBank n 1 else t) s

/-- OLD_KEY_ZEROISE. -/
def execOldKeyZeroise (s : State) : Res :=
  guarded s (fun s =>
    if s.ring.oldKeys then { s.zeroOldBanks with ring := { s.ring with oldKeys := false } } else s)

/-! Secured frames (R369 to R373, R378) -/

/-- The nonce of a secured frame (R369). -/
def frameNonce (f : Frame) : List Nat :=
  [0, f.tc % 8] ++ beBytes 2 (f.src % 4096) ++ beBytes 2 f.epoch ++ [f.kepoch % 16, 0] ++ beBytes 4 f.flowSeq

/-- Header bytes 0 to 29, with HOPSEQ and CORR taken as zero (R257, R369). -/
def frameAad (f : Frame) : List Nat :=
  [f.typ % 16 * 16 + f.tc % 8 * 2 + b2n f.dup] ++ beBytes 3 (f.dest % 4096 * 4096 + f.src % 4096) ++ [0, 0] ++
    beBytes 4 f.flowSeq ++ beBytes 2 (f.ctx % 4096 * 16 + f.kepoch % 16) ++ beBytes 2 f.epoch ++
    beBytes 2 (f.payload.length % 4096 * 16) ++ [f.kslot % 256, 0] ++ List.replicate 12 0

/-- The key of a master's bank. -/
def KeySlot.bankKey (k : KeySlot) (b : Nat) : Nat := if b = 0 then k.bank0 else k.bank1

/-- The frame whose job starts next: TC7 to TC4 by strict priority, then TC3 to TC0 in rotation. -/
def State.nextJob (s : State) : Option BufFrame :=
  let l := s.swc.frames.filter (fun b => b.outs.contains 10 && b.leaving.isEmpty && b.hold.isNone)
  let turn := (List.range 4).map (fun k => (s.sec.lastClass + 3 - k) % 4)
  ([7, 6, 5, 4] ++ turn).findSome? (fun c => l.find? (fun b => b.frame.tc == c))

/-- A frame leaves port 10's queue. -/
def State.jobTaken (s : State) (b : BufFrame) : State :=
  let frames := (s.swc.frames.map (fun (x : BufFrame) =>
    if x.id = b.id then { x with outs := x.outs.filter (· != 10) } else x)).filter (fun x => !x.outs.isEmpty)
  { s with swc := { s.swc with frames := frames }
           sec := { s.sec with lastClass := if b.frame.tc < 4 then b.frame.tc else s.sec.lastClass } }

/-- A frame refused at the usage limit enters its slot's hold list, as does every later one of the slot (R306). -/
def State.holdFrame (s : State) (b : BufFrame) : State :=
  let s := ((s.raise F.CPH_IRQ_LIMIT).bump F.CPH_CNT0_LIMIT).raise F.SWC_IRQ_HOLD
  { s with swc := { s.swc with
      frames := s.swc.frames.map (fun (x : BufFrame) => if x.id = b.id then { x with hold := some b.frame.kslot } else x) } }

/-- A frame of a slot waits in its hold list: every later one joins it. -/
def State.slotHolds (s : State) (n : Nat) : Bool := s.swc.frames.any (fun b => b.hold == some n)

/-- Whether the key of a key epoch of a slot has reached its limit. -/
def State.spent (s : State) (n e : Nat) : Bool :=
  match s.bankOfEpoch n e with
  | none => false
  | some k => decide (limitOf (s.rd (F.KEY_Sn_LIMIT_LIMIT n)) ≤ (s.keySlot n).count (some k))

/-- The key epoch that a frame leaves under. A key-epoch switch of the same cycle goes before a frame that the old key refuses (R380). -/
def State.frameEpoch (s : State) (n : Nat) : Nat :=
  let cur := s.rd F.CRL_KEY_TX
  match s.ring.coming with
  | none => cur
  | some e => if s.spent n cur && s.ahead (fun i => i == .epochEffect) then e.kepTx else cur

/-- An outgoing frame is encrypted under KEP_TX and goes on to its outputs. -/
def State.encryptJob (s : State) (b : BufFrame) : State :=
  let n := b.frame.kslot
  let f := { b.frame with kepoch := s.frameEpoch n }
  if s.tlatch then
    (((s.jobTaken b).bump F.CPH_CNT1_TAMPDROP).raise F.CPH_IRQ_TAMPDROP).report f 0x1405
  else if !(s.slotValid n && s.slotAttr n == deriveOnly && s.slotDattr n == encOnly) then (s.jobTaken b).report f 0x1502
  else match s.bankOfEpoch n f.kepoch with
    | none => (s.jobTaken b).report f 0x1005
    | some k =>
      if s.slotHolds n then s.holdFrame b
      else
        let (s, ok) := s.useKey n (some k)
        if !ok then s.holdFrame b
        else
          let s := s.jobTaken b
          let (ct, tag) := Config.gcmEncrypt ((s.keySlot n).bankKey k) (frameNonce f) (frameAad f) f.payload
          let f := { f with payload := exactly f.payload.length ct, tag := exactly 16 tag }
          match s.route f with
          | .error c => (s.unreachable c).report f c
          | .ok (outs, _) => s.arrive { inPort := 10, outs := outs, frame := f, dual := f.tc ≥ 6 }

/-- A frame whose tag fails is recorded (R373). -/
def State.authFail (s : State) (f : Frame) : State :=
  let s := (s.bump F.CPH_CNT0_AUTHFAIL).raise F.CPH_IRQ_AUTHFAIL
  let s := ((s.wr F.CPH_AUTH_SRC f.src).wr F.CPH_AUTH_KEPOCH f.kepoch).wr F.CPH_AUTH_SLOT f.kslot
  s.boomLimited (0x200000 + f.kslot) { code := 0x1401, kind := 3, unit := f.kslot }

/-- An incoming frame is decrypted and goes on to its consumer. -/
def State.decryptJob (s : State) (b : BufFrame) : State :=
  let f := b.frame
  let n := f.kslot
  let bank := if s.slotValid n && s.slotAttr n == deriveOnly && s.slotDattr n == decOnly then s.bankOfEpoch n f.kepoch else none
  match bank with
  | none => ((s.jobTaken b).violation b.inPort 0x1005).sendNak f 0x1005
  | some k =>
    if s.slotHolds n then s.holdFrame b
    else
      let (s, ok) := s.useKey n (some k)
      if !ok then s.holdFrame b
      else
        let s := s.jobTaken b
        match Config.gcmDecrypt ((s.keySlot n).bankKey k) (frameNonce f) (frameAad f) f.payload f.tag with
        | none => s.authFail f
        | some pt =>
          let f := { f with payload := exactly f.payload.length pt, tag := [] }
          match consumer { f with kslot := 0 } with
          | some p => s.arrive { inPort := 10, outs := [p], frame := f }
          | none => s.emit (.deliver 16 f)

/-- GCM_FRAME_JOB. A core that CORE_EN clears takes no job; a ZERO of the frame's slot in the same cycle ends its job (R380). -/
def execGcmFrameJob (s : State) : Res :=
  guarded s (fun s =>
    if s.rd F.CPH_CTL_CORE_EN = 0 then s
    else match s.nextJob with
      | none => s
      | some b =>
        if s.zeroAhead b.frame.kslot then (s.jobTaken b).report b.frame 0x1501
        else if b.frame.tag.isEmpty then s.encryptJob b else s.decryptJob b)

/-- KEY_LIMIT_HOLD: the oldest frame for port 10 of a slot enters the hold list where its key has reached its limit, or that list is
not empty. -/
def execKeyLimitHold (slot : Fin 256) (s : State) : Res :=
  guarded s (fun s =>
    match s.swc.frames.find? (fun b => b.outs.contains 10 && b.leaving.isEmpty && b.hold.isNone && b.frame.kslot == slot.val) with
    | none => s
    | some b =>
      let e := if b.frame.tag.isEmpty then s.frameEpoch slot else b.frame.kepoch
      if s.slotHolds slot || s.spent slot e then s.holdFrame b else s)

/-! Host operations (R372) -/

/-- CPH_OP written. -/
def State.cphOp (s : State) (init : Initiator) (op slot : Nat) (go : Bool) : State :=
  let k := bankOf init
  let s := ((s.wr (F.CPH_OP_OP k) op).wr (F.CPH_OP_SLOT k) slot).ack
  if go && decide (1 ≤ op) && decide (op ≤ 2) then
    match s.sec.ops.get? k with
    | some _ => s.capture init (s.ownFa 0 (F.CPH_OP_GO 0).off) 0x1404
    | none =>
      let words (f : Nat → Fld) (n : Nat) := ((List.range n).map (fun j => leBytes 4 (s.rd (f j)))).flatten
      let o : HostOp := { op := op, slot := slot, src := s.rd (F.CPH_SRC_OFFSET k), dst := s.rd (F.CPH_DST_OFFSET k),
                          aad := s.rd (F.CPH_LEN_AADLEN k), len := s.rd (F.CPH_LEN_LEN k),
                          nonce := words (F.CPH_NONCE_NONCE k) 3, tag := words (F.CPH_TAG_TAG k) 4 }
      { s.resStart (RR.CPH_RES k) with sec := { s.sec with ops := s.sec.ops.insert k o } }
  else s

def execEnc (init : Initiator) (slot : Fin 256) (s : State) : Res := guarded s (fun s => s.cphOp init 1 slot true)
def execDec (init : Initiator) (slot : Fin 256) (s : State) : Res := guarded s (fun s => s.cphOp init 2 slot true)

/-- Bytes of region 0x4. -/
def sramSize : Nat := 0x400000

/-- Bytes into a run of 32-bit fields. -/
def State.wrBytes (s : State) (f : Nat → Fld) (bs : List Nat) : State :=
  (List.range (bs.length / 4)).foldl (fun t j => t.wr (f j) (leAt bs (4 * j) 4)) s

/-- A host operation performed in bank k: the code. -/
def State.hostPerform (s : State) (k : Nat) (o : HostOp) : State × Nat :=
  let attr := if o.op = 1 then encOnly else decOnly
  if s.lc = lcScrapped then (s, 0x1507)
  else if 16384 < o.len ∨ 1024 < o.aad ∨ o.src % 16 ≠ 0 ∨ o.dst % 16 ≠ 0 ∨ sramSize < o.src + o.aad + o.len ∨
      sramSize < o.dst + o.len then (s, 0x1403)
  else if o.slot = 0 ∨ !(s.slotValid o.slot) then (s, 0x1501)
  else if s.slotAttr o.slot ≠ attr then (s, 0x1502)
  else
    let count := (s.keySlot o.slot).uses
    let (s, ok) := s.useKey o.slot none
    if !ok then (s, 0x1503)
    else
      let key := (s.keySlot o.slot).key
      let aad := s.bytes 4 o.src o.aad
      let input := s.bytes 4 (o.src + o.aad) o.len
      if o.op = 1 then
        let nonce := [1] ++ bytesAt (leBytes 8 s.serial) 0 7 ++ beBytes 4 count
        let (ct, tag) := Config.gcmEncrypt key nonce aad input
        let s := s.store 4 o.dst (exactly o.len ct)
        ((s.wrBytes (F.CPH_NONCE_NONCE k) nonce).wrBytes (F.CPH_TAG_TAG k) (exactly 16 tag), 0)
      else match Config.gcmDecrypt key o.nonce aad input o.tag with
        | some pt => (s.store 4 o.dst (exactly o.len pt), 0)
        | none => ((s.bump F.CPH_CNT0_AUTHFAIL).raise F.CPH_IRQ_AUTHFAIL, 0x1401)

/-- CPH_OP_COMPLETE. A tamper event, or a ZERO of the operation's slot, of the same cycle comes first and ends it. -/
def execCphOpComplete (bank : Fin 3) (s : State) : Res :=
  guarded s (fun s =>
    match s.sec.ops.get? bank with
    | none => s
    | some o =>
      if s.tamperAhead || s.zeroAhead o.slot then s
      else
        let (s, c) := { s with sec := { s.sec with ops := s.sec.ops.erase bank } }.hostPerform bank o
        let s := (s.resDone (RR.CPH_RES bank) c).raise F.CPH_IRQ_HOSTDONE
        if c = 0 then s else s.bump F.CPH_CNT1_HOSTFAIL)

/-! Tamper (R375 to R379) -/

/-- The result of a running command that a tamper event meets: an acknowledgement that completes in the same cycle finds the latch set
again (R380). -/
def State.tamperCode (s : State) (k : Nat) (r : KeyRun) : Nat :=
  if r.op = 7 && bit (leAt s.stageBytes 6 1) 0 && s.completesAhead k then 0x150C else 0x150E

/-- The effect of a tamper event on keys: slots, banks and roots zeroised, running operations aborted (R376, R377). -/
def State.tamperKeys (s : State) : State :=
  let l := s.sec.cmds
  let s := s.endHostOps none 0x1402
  let s := { s with sec := { s.sec with cmds := [] } }
  let s := l.foldl (fun t p => (t.resDone (RR.KEY_RES p.1) (s.tamperCode p.1 p.2)).raise F.KEY_IRQ_DONE) s
  ((s.zeroAll).wr F.KEY_STATUS_ROOT_OK 0).discardHeld none

/-- The record of a tamper event of source k (R376). -/
def State.tamperLog (s : State) (k : Nat) : State :=
  let s := if s.tlatch then s
    else (((s.raise F.VGL_STATUS_TLATCH).wr F.VGL_TLOG_COUNT 0).wr F.VGL_TLOG_CODE (0x1810 + k)).wr96 F.VGL_TTIME_TIME
      (if s.timeRuns then s.stamp else 0)
  ((s.bump F.VGL_TLOG_COUNT).raise F.GLB_HEALTH_TAMPER).raise F.VGL_IRQ_TAMPER

/-- TSAFE_CLR. -/
def State.tsafeClr (s : State) : State :=
  let s := s.ack
  if s.on F.VGL_STATUS_TSAFE then (s.wr F.VGL_STATUS_TSAFE 0).raise F.VGL_IRQ_TSAFE_END else s

def execTsafeClr (s : State) : Res := guarded s (fun s => s.tsafeClr)

/-- VGL_TCFG.EN written: enables are set; a write that would clear one is refused. -/
def State.tamperEnable (s : State) (init : Initiator) (en : Nat) : State :=
  if (setBits s.tamperEn 8).all (fun k => bit en k) then (s.wr F.VGL_TCFG_EN en).ack
  else s.refuseReg init F.VGL_TCFG_EN.off 0x1801

def execTamperEnableWrite (init : Initiator) (en : BitVec 8) (s : State) : Res :=
  guarded s (fun s => s.tamperEnable init en.toNat)

end Sys2Proof.Machine
end

