-- ==== Sys2Proof/Machine/Ring.lean ====
section
/-! DEFINITION. The ring's ports, hops, delivery, wrap, quarantine, admission, epochs and rekey (10), and PL0's frames (14 R388). -/

namespace Sys2Proof.Machine

/-! Counters of the ports: ring ports in CRL, stitch ports and PL0 in STT -/

def cntNakTx (p : Nat) : Fld := if p < 4 then F.CRL_Pp_CNT0_NAKTX p else F.STT_Pk_CNT0_NAKTX (p - 4)
def cntReplay (p : Nat) : Fld := if p < 4 then F.CRL_Pp_CNT0_REPLAY p else F.STT_Pk_CNT0_REPLAY (p - 4)
def cntFcs (p : Nat) : Fld := if p < 4 then F.CRL_Pp_CNT2_FCS p else F.STT_Pk_CNT1_FCS (p - 4)
def cntHcrc (p : Nat) : Fld := if p < 4 then F.CRL_Pp_CNT2_HCRC p else F.STT_Pk_CNT1_HCRC (p - 4)

/-! Quarantine (R282) -/

/-- The hub enters quarantine: every output line keeps the level it drove, for HOLD; hold lists are discarded (R306). -/
def State.enterQuarantine (s : State) : State :=
  if s.quarantined then s
  else
    let s0 := s
    let s := (List.range 128).foldl (fun t n =>
      if s0.lineDrives n then t.setLine n { t.line n with quarHeld := s0.lineDriven n } else t) s
    ((s.raise F.CRL_STATUS_QUAR).raise F.CRL_IRQ_QUAR).discardHeld none

/-- A hub whose epoch is stale is no longer admitted in the current epoch, and waits for GRANT. -/
def State.stale (s : State) : State :=
  let s := (s.wr F.CRL_STATUS_ADMITTED 0).enterQuarantine
  { s with ring := { s.ring with released := false } }

/-- Quarantine ends. -/
def State.leaveQuarantine (s : State) : State :=
  if s.quarantined then (s.wr F.CRL_STATUS_QUAR 0).raise F.CRL_IRQ_RELEASE else s

/-! Ports (R255, R270, R272) -/

/-- The cut list of an epoch. -/
def epochCuts (e : EpochInfo) : List Nat := [e.cut0, e.cut1].filter (· != 0xFFFF)

/-- The ring-A position of the link that a ring port faces. -/
def State.linkOf (s : State) (p : Nat) : Nat :=
  let n := max 1 (s.rd F.CRL_MAP_HOPS)
  let m := s.rd F.CRL_STATUS_POS
  if p % 2 = 0 then m else (m + n - 1) % n

/-- A LINK frame: ACK, HELLO and what the port asks for (R262). -/
def State.linkFrame (s : State) (p : Nat) : State :=
  let m := s.mac p
  let s := s.setMac p { m with unacked := 0 }
  s.hopFrame p 0xD (leBytes 2 (m.rxExp + 65535) ++ [0, 0] ++ [2 + 4 * b2n s.admitted, p, 0, 0] ++ leBytes 8 s.serial)

/-- A stitch port or PL0 changed state. -/
def State.stitchChanged (s : State) (p : Nat) : State := if p < 4 then s else s.raise F.STT_IRQ_STLINK

/-- BLOCK_LOCK: a DOWN port without faults settles; its hop state starts anew (notes/assumptions/24.md). A resigning
active holds ST0 in local fault (R399). -/
def execBlockLock (port : Fin 8) (s : State) : Res :=
  guarded s (fun s =>
    let p := port.val
    if !(portUsed s p) || !(portDown s p) || (p == 4 && s.stt.resigning) then s
    else
      let s := ((s.raise (portLockF p)).wr (portLfF p) 0).wr (portRfF p) 0
      ((s.setMac p {}).wr (portStateF p) 1).stitchChanged p)

/-- LINKRPT to the head (R279). -/
def State.linkRpt (s : State) (p state : Nat) : State :=
  s.toHead ([5, p, state, 0] ++ leBytes 8 (s.mac p).helloSerial)

/-- A port reaches UP. -/
def State.portToUp (s : State) (p : Nat) : State :=
  let s := s.wr (portStateF p) 3
  if p < 4 then (s.raise F.CRL_IRQ_LINKUP).wrapChanged else s.stitchChanged p

/-- Whether an epoch that takes effect in this cycle cuts the link of a port (R291). -/
def State.cutNow (s : State) (p : Nat) : Bool :=
  (s.marked .epochTaken && s.ring.cuts.contains (s.linkOf p)) ||
    (s.ahead (fun i => i == .epochEffect) &&
      (match s.ring.coming with
       | some e => (epochCuts e).contains (s.linkOf p)
       | none => false))

/-- SETTLE_EXPIRY: READY where both ends are admitted or the cut list of this cycle's epoch names the link, otherwise UP; stitch ports and
PL0 have no READY. -/
def execSettleExpiry (port : Fin 8) (s : State) : Res :=
  guarded s (fun s =>
    let p := port.val
    if !(portSettle s p) then s
    else if p < 4 ∧ ((s.admitted ∧ (s.mac p).helloAdmitted) ∨ s.cutNow p) then
      (s.wr (portStateF p) 2).linkRpt p 1
    else s.portToUp p)

/-- Unacknowledged frames take the wrap path in order, ahead of any new frame. -/
def State.divert (s : State) (p new : Nat) : State :=
  let l := ((s.mac p).replay.map (·.buf)).filter (fun b => wraps b.frame)
  let s := s.setMac p { s.mac p with replay := [] }
  if portUp s new then l.foldl (fun t b => (t.keepForReplay new b).emit (.wire new (t.leavingFrame new b))) s
  else
    let back := l.map (fun (b : BufFrame) => { b with outs := [new], leaving := [], cells := 0, guar := 0, lq := none, launched := none, cut := [] })
    let ided := (List.range back.length).zipWith (fun k (b : BufFrame) => { b with id := s.swc.nextId + k }) back
    { s with swc := { s.swc with frames := ided ++ s.swc.frames, nextId := s.swc.nextId + back.length } }

/-- The active resigns: ST0 is held in local fault until the hub is fenced (R399). -/
def State.resign (s : State) : State :=
  let s := { s with stt := { s.stt with resigning := true } }
  if portDown s 4 then s
  else ((s.wr (portStateF 4) 0).raise (portLfF 4)).raise F.STT_IRQ_STLINK

/-- What follows when a port is DOWN: the wrap, the head's report, the uplink's rule (R255, R270, R391). -/
def State.afterDown (s : State) (p : Nat) : State :=
  if p < 4 then
    let s := (s.raise F.CRL_IRQ_LINKDN).wrapChanged
    let s := if s.wrapE then (s.divert 0 3).requeue 0 3 else s
    let s := if s.wrapW then (s.divert 3 0).requeue 3 0 else s
    s.linkRpt p 0
  else
    let s := s.raise F.STT_IRQ_STLINK
    if !s.ringHub && s.uplink == some p then
      if s.role = roleActive then s.resign else s.enterQuarantine
    else s

/-- The frames an ACK leaves in the replay buffer: those newer than it. -/
def unackedBy (l : List Sent) (ack : Nat) : List Sent := l.filter (fun f => newer 16 f.hopSeq ack)

/-- A LINK frame of this cycle at a port that goes DOWN still acknowledges: replay goes on, on the wrap path, from what it names (R291). -/
def State.ackedAhead (s : State) (p : Nat) : State :=
  (s.pending.take s.together).foldl (fun t i =>
    match i with
    | .linkFrameReceived q info => if q.val = p then t.setMac p { t.mac p with replay := unackedBy (t.mac p).replay info.ack } else t
    | _ => t) s

/-- Whether a port goes DOWN in this cycle. -/
def State.downAhead (s : State) (p : Nat) : Bool :=
  s.ahead (fun i => match i with
    | .portDown q _ => q.val == p
    | _ => false)

/-- A port goes DOWN (R255). A port that was only settling just starts again. -/
def State.portFails (s : State) (p : Nat) (cause : LinkCause) : State :=
  if portDown s p then s
  else
    let settling : Bool := portSettle s p
    let s := match cause with
      | .localFault => (s.raise (portLfF p)).wr (portLockF p) 0
      | .remoteFault => s.raise (portRfF p)
      | .heartbeat => s.wr (portHbF p) 0
      | .replay => s
    let s := s.wr (portStateF p) 0
    if settling then s.stitchChanged p else (s.ackedAhead p).afterDown p

def execPortDown (port : Fin 8) (cause : LinkCause) (s : State) : Res := guarded s (fun s => s.portFails port cause)

/-- HEARTBEAT_SEND. -/
def execHeartbeatSend (port : Fin 7) (s : State) : Res :=
  guarded s (fun s => if portUsed s port then s.linkFrame port else s)

/-- ACK_SEND: while accepted frames are unacknowledged. -/
def execAckSend (port : Fin 7) (s : State) : Res :=
  guarded s (fun s => if (s.mac port).unacked = 0 then s else s.linkFrame port)

/-- ACK_TIMEOUT: no ACK has covered the oldest buffered frame while heartbeats arrive. -/
def execAckTimeout (port : Fin 7) (s : State) : Res :=
  guarded s (fun s => if (s.mac port).replay.isEmpty ∨ !(s.on (portHbF port)) then s else s.portFails port .replay)

/-- DRAIN_EXPIRY. -/
def execDrainExpiry (port : Fin 4) (s : State) : Res :=
  guarded s (fun s => s.setMac port { s.mac port with draining := false })

/-! Hops (R260 to R264) -/

/-- Go-back-N: HOPSEQ n and every later buffered frame, in order, before any new frame. -/
def State.goBack (s : State) (p n : Nat) : State :=
  let l := (s.mac p).replay.filter (fun f => f.hopSeq == n || newer 16 f.hopSeq n)
  (l.foldl (fun t x => t.emit (.wire p (t.frameOut p x.buf x.hopSeq))) s).bump (cntReplay p) l.length

/-- A NAK of HOPSEQ n; the eighth exhausts replay. A port that goes DOWN in this cycle replays on the wrap path alone (R291). -/
def State.hopNaked (s : State) (p n : Nat) : State :=
  if s.downAhead p then s else
  let m := s.mac p
  let k := if m.nakCount ≠ 0 ∧ m.naked = n then m.nakCount + 1 else 1
  let s := s.setMac p { m with naked := n, nakCount := k }
  if 8 ≤ k then s.portFails p .replay else s.goBack p n

/-- A LINK frame received. -/
def State.linkReceived (s : State) (p : Nat) (i : LinkInfo) : State :=
  let s := s.raise (portHbF p)
  let m := s.mac p
  let m := if i.hello then { m with helloSerial := i.serial, helloAdmitted := i.admitted } else m
  let s := s.setMac p { m with replay := unackedBy m.replay i.ack }
  let s := if !s.ringHub && s.uplink == some p && i.hello && !i.admitted && s.role != roleActive then s.enterQuarantine else s
  match i.nak with
  | some n => s.hopNaked p n
  | none => s

def execLinkFrameReceived (port : Fin 7) (info : LinkInfo) (s : State) : Res :=
  guarded s (fun s => if portUsed s port then s.linkReceived port info else s)

/-- HOP_NAK_RETRY: the expected frame has not arrived. -/
def execHopNakRetry (port : Fin 7) (s : State) : Res :=
  guarded s (fun s => if (s.mac port).nakClk.isSome then s.hopNak port else s)

/-- A NAK window of 2 µs is open. -/
def State.nakOpen (s : State) (p : Nat) : Bool :=
  match (s.mac p).nakClk with
  | some c => decide (s.clk < c + usClk 2)
  | none => false

/-- A link error: counted, recorded and NAKed, once per 2 µs. -/
def State.linkError (s : State) (p : Nat) (cnt : Fld) : State :=
  let s := (s.bump cnt).violation p 0
  if s.nakOpen p then s else s.hopNak p

/-- A frame in order is accepted: the expected HOPSEQ advances, and an ACK follows after 32. -/
def State.hopAccepted (s : State) (p : Nat) : State :=
  let m := s.mac p
  let s := s.setMac p { m with rxExp := (m.rxExp + 1) % 65536, nakClk := none, unacked := m.unacked + 1 }
  if 32 ≤ m.unacked + 1 then s.linkFrame p else s

/-- The ring egress of a receive port: AW to AE, BE to BW. -/
def State.ringOut (s : State) (p : Nat) (f : Frame) : List Nat :=
  if p = 1 then s.ringEgress false f else if p = 2 then s.ringEgress true f else []

/-- A frame that fails its check after its head has begun to leave cut-through is ended with the stomp FCS (R264). -/
def State.stompThrough (s : State) (p : Nat) (f : Frame) : State :=
  match s.ringOut p f with
  | q :: _ =>
    let b : BufFrame := { id := s.swc.nextId, inPort := p, outs := [q], cells := 0, guar := 0, ingress := s.now, frame := f }
    if (f.dest / 4 == s.rd F.GLB_POS_STATION && f.typ != 1) || s.outputBusy q || !(s.startable q b) || !(s.cutThrough q b) then s
    else
      let g := s.leavingFrame q b
      let m := s.mac q
      let s := s.setMac q { m with txNext := (m.txNext + 1) % 65536 }
      ((s.emit (.wire q g)).emit (.stomp q)).bump (F.CRL_Pp_CNT1_STOMPTX q)
  | [] => s

/-! Header checks (R259, R290) -/

/-- Whether TC and DUP are as a TYPE's row. -/
def classFits (f : Frame) : Bool :=
  match f.typ with
  | 1 => f.tc == 6 && f.dup
  | 2 => f.tc == 5 && !f.dup
  | 3 => f.tc == 5 && !f.dup
  | 4 => (f.tc == 6 || f.tc == 7) && f.dup
  | 5 => (decide (f.tc ≤ 5) && !f.dup) || (f.tc == 7 && f.dup)
  | 6 => decide (f.tc ≤ 5) && !f.dup
  | 7 => f.tc == 4 && !f.dup
  | 8 => (f.tc == 3 || f.tc == 5) && !f.dup
  | 9 => f.tc == 7 && f.dup
  | 0xA => (f.tc == 2 || f.tc == 5) && !f.dup
  | 0xB => f.tc == 4 && !f.dup
  | 0xC => f.tc == 7 && f.dup
  | 0xD => f.tc == 5 && !f.dup
  | _ => false

/-- Whether the hub's epoch, or within grace the previous one, is the frame's. -/
def State.epochFits (s : State) (f : Frame) : Bool :=
  f.epoch == s.rd F.CRL_EPOCH_CUR || (s.ring.grace && f.epoch == s.rd F.CRL_EPOCH_PREV)

/-- A header of a form that R259 does not give. -/
def headerBadIn (w : WireFrame) : Bool :=
  w.reservedSet || !(classFits w.frame) || decide (2048 < w.len) || decide (w.frame.payload.length < w.len)

/-- The checks of R266 step 2: the state after, and whether the frame goes on. ADMIT frames, and all frames at a hub that is
not admitted in the current epoch, are not held to the epoch or the map (DEDUCED: notes/assumptions/24.md). -/
def State.headerChecks (s : State) (p : Nat) (w : WireFrame) : State × Bool :=
  let f := w.frame
  if headerBadIn w then (s.headerViolation p f, false)
  else if f.src / 4 = 0 ∧ f.typ ≠ 0xB then (s.bump F.CRL_CNT1_HDR, false)
  else if f.typ ≠ 0xB ∧ f.src / 4 ≠ 1 ∧ s.admitted ∧ !(s.epochFits f) then
    (((s.bump F.CRL_CNT1_EPOCH).violation p 0x1002).sendNak f 0x1002, false)
  else
    let s := if f.typ ≠ 0xB ∧ f.src / 4 = 1 ∧ !(s.epochFits f) then s.stale else s
    let d := f.dest / 4
    if f.typ ≠ 0xB ∧ f.typ ≠ 1 ∧ (d = 0 ∨ (s.admitted ∧ d ≠ 1023 ∧ (s.ring.posmap.get? d).isNone)) then
      ((s.violation p 0x1003).sendNak f 0x1003, false)
    else (s, true)

/-! Delivery (R266, R268, R282) -/

/-- The types a quarantined hub accepts; CMD only from station 1. -/
def quarantineTakes (f : Frame) : Bool :=
  [1, 2, 3, 4, 0xB, 0xC, 0xD].contains f.typ || (f.typ == 5 && f.src / 4 == 1)

/-- The ring A copy of a frame at port 2 is complete in this cycle too: it is the one delivered (R291). -/
def State.copyAhead (s : State) (p : Nat) (f : Frame) : Bool :=
  p == 2 && decide (6 ≤ f.tc) && s.ahead (fun i => match i with
    | .ringFrameReceived q w => q.val == 1 && w.ours && w.fcs == .good && w.hcrcGood && w.frame.hopSeq == (s.mac 1).rxExp &&
        w.frame.src == f.src && w.frame.tc == f.tc && w.frame.flowSeq == f.flowSeq
    | _ => false)

/-- A frame addressed to this hub: the state after, the internal ports it is for, and what to undo if it finds no room. -/
def State.takeIn (s : State) (p : Nat) (f : Frame) : State × List Nat × Option (Nat × Option Window) :=
  if s.quarantined && !(quarantineTakes f) then ((s.violation p 0x1006).sendNak f 0x1006, [], none)
  else if s.copyAhead p f then (s.bump F.CRL_CNT0_DUP, [], none)
  else
    let old := s.ring.windows.get? (windowKey f)
    match s.windowStep f with
    | (s, false) => (s, [], none)
    | (s, true) =>
      match (if f.typ = 0xB ∧ !(s.on F.CRL_CTL_HEAD) then none else consumer f) with
      | some q => (s, [q], some (windowKey f, old))
      | none => (s.emit (.deliver 16 f), [], none)

/-- A transit frame without a valid port is discarded and counted. -/
def State.noForward (s : State) : State := s.bump F.SWC_CNT1_NOFWD

/-- A frame goes to the outputs given. -/
def State.toOutputs (s : State) (p : Nat) (f : Frame) (outs : List Nat) (undo : Option (Nat × Option Window) := none) : State :=
  if outs.isEmpty then s else s.arrive { inPort := p, outs := outs, frame := f, undo := undo }

/-- Frames for every hub, whatever position they name: TALLY and EPOCH (R258), and SYNC (R80, R392). -/
def forAllHubs (f : Frame) : Bool := f.typ == 4 || f.typ == 0xC || f.typ == 2

/-- The stitch ports a broadcast is passed on to: every one for TALLY and EPOCH, those that are UP for a sync of the upstream
(R392), else the port of the position named. -/
def State.stitchCopies (s : State) (p : Nat) (f : Frame) : List Nat :=
  if !s.ringHub then []
  else if f.typ = 2 then
    if s.tim.upstream = some (p == 2) then s.stitchedPorts.filter (fun q => portUp s q) else []
  else if f.typ = 4 ∨ f.typ = 0xC then s.stitchedPorts
  else if f.dest % 4 = s.rd F.GLB_POS_HUBPOS then []
  else (s.fwdPort (f.dest % 4)).toList

/-- A broadcast: delivered here where it names this hub or all hubs, and to the outputs. -/
def State.broadcast (s : State) (p : Nat) (f : Frame) (onward : List Nat) : State :=
  let mine : Bool := forAllHubs f || f.dest % 4 == s.rd F.GLB_POS_HUBPOS
  let (s, outs, undo) := if mine && (s.admitted || forAllHubs f) then s.takeIn p f else (s, [], none)
  s.toOutputs p f (outs ++ (s.stitchCopies p f).filter (· != p) ++ onward.filter (· != p)) undo

/-- A unicast frame for this station: to this hub, or over a stitch link. -/
def State.stationFrame (s : State) (p : Nat) (f : Frame) : State :=
  if f.dest = s.self ∨ (f.typ = 0xB ∧ s.ringHub) then
    let (s, outs, undo) := s.takeIn p f
    s.toOutputs p f outs undo
  else
    let q := match s.fwdPort (f.dest % 4) with
      | some q => some q
      | none => if s.ringHub then none else s.uplink
    match q with
    | some q => if q = p then s.noForward else s.toOutputs p f [q]
    | none => s.noForward

/-- Whether an ADMIT frame to station 0 is for this unadmitted ring hub: a GRANT or REFUSE with its serial (R279). -/
def State.admitMine (s : State) (f : Frame) : Bool :=
  f.typ == 0xB && f.dest / 4 == 0 && s.rd F.GLB_POS_STATION == 0 && (f.payload.headD 0 == 2 || f.payload.headD 0 == 4) &&
    leAt f.payload 4 8 == s.serial

/-! The harvest on the way (R274 to R276, R393) -/

/-- The slots of a HARVEST payload, behind its header; none where one is malformed. -/
def parseSlots : Nat → List Nat → Option (List SlotData)
  | 0, bs => if bs.isEmpty then some [] else none
  | n + 1, bs =>
    if bs.isEmpty then some []
    else
      let len := leAt bs 2 2
      if bs.length < 16 + len ∨ len % 8 ≠ 0 ∨ len < 8 ∨ 1024 < len then none
      else (parseSlots n (bs.drop (16 + len))).map (fun l =>
        { hub := leAt bs 0 2 % 4096, outLen := leAt bs 4 2, inLen := leAt bs 6 2, flags := leAt bs 8 1,
          body := bytesAt bs 16 len } :: l)

/-- The bytes of a slot. -/
def SlotData.bytes (d : SlotData) : List Nat :=
  leBytes 2 d.hub ++ leBytes 2 d.body.length ++ leBytes 2 d.outLen ++ leBytes 2 d.inLen ++ [d.flags] ++ List.replicate 7 0 ++ d.body

/-- A train header (R274). -/
def trainHeader (cycle ring index frames : Nat) : List Nat := leBytes 4 cycle ++ [ring, index, frames, 0]

/-- A slot is given input (R276). -/
def SlotData.inserted (d : SlotData) (quar : Bool) (img : List Nat) : SlotData :=
  { d with body := bytesAt (bytesAt img 0 d.inLen) 0 d.body.length, flags := d.flags ||| 4 ||| (if quar then 8 else 0) }

/-- A frame of one slot for a stitched hub, or from one (R393). -/
def stitchImage (cycle ring : Nat) (d : SlotData) : List Nat := trainHeader cycle ring 0 1 ++ d.bytes

/-- An output image goes on to a stitched hub of this station. -/
def State.sendStitchOutput (s : State) (pos : Nat) (d : SlotData) : State :=
  match s.fwdPort pos with
  | none => s
  | some q =>
    let (s, f) := s.stampFrame { typ := 1, tc := 6, dup := true, dest := d.hub,
                                 payload := stitchImage s.ring.harvest.cycle 3 d }
    let s := s.toOutputs 11 f [q]
    { s with ring := { s.ring with harvest := { s.ring.harvest with passedOn := pos :: s.ring.harvest.passedOn } } }

/-- This hub's own slot passes. -/
def State.ownSlot (s : State) (late : Bool) (d : SlotData) : State × SlotData :=
  let h := s.ring.harvest
  let s := if late then (s.bump F.CRL_HCNT_LATE).raise F.CRL_IRQ_HLATE else s
  let take : Bool := !late && bit d.flags 0 && h.staged.isNone
  let s := if take then { s with ring := { s.ring with harvest := { h with staged := some (d.body.take d.outLen) } } } else s
  let img := h.sampled
  let d := if take then { d with flags := d.flags ||| 2 } else d
  (s, if bit d.flags 2 then d else d.inserted s.quarantined img)

/-- A stitched hub's slot passes. -/
def State.stitchedSlot (s : State) (late : Bool) (d : SlotData) : State × SlotData :=
  let h := s.ring.harvest
  let pos := d.hub % 4
  let take : Bool := !late && bit d.flags 0 && !(h.passedOn.contains pos)
  let s := if take then s.sendStitchOutput pos { d with flags := 1 } else s
  let d := if take then { d with flags := d.flags ||| 2 } else d
  if bit d.flags 2 then (s, d)
  else match h.images.get? pos with
    | some (q, img) => (s, d.inserted q img)
    | none => ((s.bump F.STT_CNT1_NOIMG).raise F.STT_IRQ_NOIMG, d)

/-- One slot passes. -/
def State.passSlot (s : State) (late : Bool) (d : SlotData) : State × SlotData :=
  if d.hub = s.self then s.ownSlot late d
  else if d.hub / 4 = s.rd F.GLB_POS_STATION then s.stitchedSlot late d
  else (s, d)

/-- Every slot of a frame passes. -/
def State.passSlots (s : State) (late : Bool) : List SlotData → State × List SlotData
  | [] => (s, [])
  | d :: l =>
    let (s, d) := s.passSlot late d
    let (s, l) := s.passSlots late l
    (s, d :: l)

/-- A train was seen. -/
def State.trainSeen (s : State) : State := s.raise F.CRL_STATUS_HV_RUN

/-- A HARVEST frame with a good FCS passes a station other than the head. -/
def State.trainPasses (s : State) (f : Frame) (slots : List SlotData) : State × Frame :=
  let s := s.trainSeen
  if !s.admitted then (s, f)
  else
    let h := s.ring.harvest
    let late : Bool := h.closed || leAt f.payload 0 4 != h.cycle % 2 ^ 32 || s.ahead (fun i => i == .harvestBoundary)
    let (s, l) := s.passSlots late slots
    (s, { f with payload := bytesAt f.payload 0 8 ++ (l.map SlotData.bytes).flatten })

/-- A HARVEST frame with a good FCS is back at the head: each slot's input is taken from the first copy that has it (R277). -/
def State.trainBack (s : State) (f : Frame) (slots : List SlotData) : State :=
  let s := s.trainSeen
  let h := s.ring.head
  if !h.trainOpen || leAt f.payload 0 4 != s.ring.harvest.cycle % 2 ^ 32 then s
  else
    let got := slots.foldl (fun (m : SMap (Nat × List Nat)) d =>
      if bit d.flags 2 && (m.get? d.hub).isNone then m.insert d.hub (if bit d.flags 3 then 3 else 1, d.body.take d.inLen) else m)
      h.returned
    let k := 256 * leAt f.payload 4 1 + leAt f.payload 5 1
    { s with ring := { s.ring with head := { h with
        returned := got, framesBack := if h.framesBack.contains k then h.framesBack else k :: h.framesBack } } }

/-- A HARVEST frame at a ring port. -/
def State.harvestFrame (s : State) (p : Nat) (f : Frame) : State :=
  match parseSlots 200 (f.payload.drop 8) with
  | none => (s.violation p 0x1007).sendNak f 0x1007
  | some slots =>
    if f.payload.length < 8 ∨ 2 ≤ leAt f.payload 4 1 then (s.violation p 0x1007).sendNak f 0x1007
    else if s.on F.CRL_CTL_HEAD then s.trainBack f slots
    else
      let (s, f) := s.trainPasses f slots
      s.toOutputs p f (s.ringOut p f)

/-! Frames received (R260, R266) -/

/-- A frame that has passed the hop checks at a ring port. -/
def State.ringFrame (s : State) (p : Nat) (w : WireFrame) : State :=
  let f := { w.frame with payload := w.frame.payload.take w.len }
  let own := s.rd F.GLB_POS_STATION
  if portReady s p && !(f.typ == 0xB && (f.dest / 4 == 0 || f.src / 4 == 0)) then s
  else if p = 0 ∨ p = 3 then s
  else match s.headerChecks p w with
    | (s, false) => s
    | (s, true) =>
      if f.typ = 1 then
        if f.src / 4 = own ∧ !(s.on F.CRL_CTL_HEAD) then s else s.harvestFrame p f
      else if own ≠ 0 ∧ f.src / 4 = own ∧ f.ringB = (p == 2) then s
      else if ns16 (1000 * s.rd F.CRL_TMO0_MAXAGE) < f.corr then s.bump F.CRL_CNT2_AGED
      else if s.admitMine f then s.emit (.deliver 16 f)
      else if own ≠ 0 ∧ f.dest / 4 = own then s.stationFrame p f
      else if f.dest / 4 = 1023 then s.broadcast p f (s.ringOut p f)
      else
        match s.ringOut p f with
        | [] => s
        | outs => s.toOutputs p f outs

/-- A frame that has arrived whole at a stitch port or PL0 (R298, R388, R389, R390). A stitched hub's JOIN goes no further. -/
def State.stitchFrame (s : State) (p : Nat) (w : WireFrame) : State :=
  let f := { w.frame with payload := w.frame.payload.take w.len }
  let own := s.rd F.GLB_POS_STATION
  let joining : Bool := f.typ == 0xB && f.payload.headD 0 == 1
  if joining && s.ringHub then (if headerBadIn w then s.headerViolation p f else s.emit (.deliver 16 f))
  else match s.headerChecks p w with
    | (s, false) => s
    | (s, true) =>
      if ns16 (1000 * s.rd F.CRL_TMO0_MAXAGE) < f.corr then s.bump F.CRL_CNT2_AGED
      else if f.typ = 0xB ∧ !s.ringHub then s.emit (.deliver 16 f)
      else if f.dest = s.self ∨ (own ≠ 0 ∧ f.dest / 4 = own) then
        if f.typ = 1 ∧ f.dest = s.self then s.emit (.deliver 16 f) else s.stationFrame p f
      else if f.dest / 4 = 1023 then
        let onward := if s.ringHub ∧ f.typ ≠ 2 then (if f.tc ≥ 6 then s.ringEgress false f ++ s.ringEgress true f else s.ringEgress false f) else []
        s.broadcast p f onward
      else match s.route f with
        | .ok (outs, d) =>
          let outs := outs.filter (· != p)
          if outs.isEmpty then s.noForward
          else s.arrive { inPort := p, outs := outs, frame := { f with ringB := d }, dual := s.ringHub && decide (f.tc ≥ 6) }
        | .error _ => s.noForward

/-- A frame is accepted in its place at a port. -/
def State.acceptedFrame (s : State) (p : Nat) (w : WireFrame) : State :=
  let s := s.hopAccepted p
  if p < 4 then s.ringFrame p w else s.stitchFrame p w

/-- HOPSEQ (R260 step 3). -/
def State.hopCheck (s : State) (p : Nat) (w : WireFrame) : State :=
  let e := (s.mac p).rxExp
  if w.frame.hopSeq = e then s.acceptedFrame p w
  else if s.nakOpen p then s
  else if newer 16 w.frame.hopSeq e then s.linkError p (cntFcs p)
  else s

/-- A frame at a port (R260). -/
def State.frameReceived (s : State) (p : Nat) (w : WireFrame) : State :=
  let inOrder : Bool := w.hcrcGood && w.frame.hopSeq == (s.mac p).rxExp
  if !(portUp s p || portReady s p) then s
  else if !w.ours then s.bump (cntFcs p)
  else match w.fcs with
    | .stomped =>
      let s := if p < 4 then s.bump (F.CRL_Pp_CNT1_STOMPRX p) else s
      if inOrder then (s.hopAccepted p).stompThrough p w.frame else s
    | .bad => (if inOrder then s.stompThrough p w.frame else s).linkError p (cntFcs p)
    | .good =>
      if !w.hcrcGood then s.linkError p (cntHcrc p)
      else if w.frame.typ = 3 ∨ w.frame.typ = 0xD then s
      else s.hopCheck p w

/-- RING_FRAME_RECEIVED: at a ring port, or at a stitch port, whose hops work alike (R387). -/
def execRingFrameReceived (port : Fin 7) (frame : WireFrame) (s : State) : Res :=
  guarded s (fun s => s.frameReceived port frame)

/-- PL0_FRAME_RECEIVED: no hop replay. -/
def execPl0FrameReceived (frame : WireFrame) (s : State) : Res :=
  guarded s (fun s =>
    if !(portUsed s 7) then s
    else if !frame.ours || frame.fcs != .good || !frame.hcrcGood then s.bump (cntFcs 7)
    else s.stitchFrame 7 frame)

/-! Origination (R267) -/

/-- FRAME_ORIGINATE: a unit behind an internal port originates a frame; refused with 0x1004 or 0x1103. Nothing is behind the spare ports
(R17). -/
def execFrameOriginate (port : Fin 16) (frame : Frame) (s : State) : Res :=
  guarded s (fun s =>
    if 14 ≤ port.val then s
    else
    let (t, code) := s.originate (max 8 port.val) frame
    if code = 0 then t.ack else { t with answer := .error code })

/-! Admission, the hub's side (R279 to R282, R390) -/

/-- This hub's own record (R279, R63). -/
def State.ownRecord (s : State) : JoinHub :=
  let hash := if s.alm.foreign then List.replicate 48 0
    else ((List.range 12).map (fun n => leBytes 4 (s.rd (F.ALM_HASH_DIGEST n)))).flatten
  { serial := s.serial, pos := s.rd F.GLB_POS_HUBPOS,
    flags := b2n (s.almInForce && !s.alm.foreign) + 2 * b2n (s.on F.STT_STATUS_TWIN_EN),
    inLen := s.alm.inLen, outLen := s.alm.outLen, hash := hash }

/-- The 64 bytes of a record. -/
def joinHubBytes (h : JoinHub) : List Nat :=
  leBytes 8 h.serial ++ [h.pos, h.flags] ++ leBytes 2 h.inLen ++ leBytes 2 h.outLen ++ [0, 0] ++ bytesAt h.hash 0 48

/-- A JOIN payload. -/
def State.joinPayload (s : State) (hubs : List JoinHub) : List Nat :=
  [1, hubs.length] ++ leBytes 2 (s.rd F.GLB_POS_STATION) ++ leBytes 2 (s.rd F.CRL_EPOCH_CUR) ++ leBytes 2 s.tim.ringA.steps ++
    leBytes 2 s.tim.ringB.steps ++ (hubs.map joinHubBytes).flatten

/-- The records a ring hub places in its JOIN, in ascending position. -/
def State.joinHubs (s : State) : List JoinHub :=
  (s.stt.records.insert (s.rd F.GLB_POS_HUBPOS) s.ownRecord).map (·.2)

/-- A ring hub's JOIN. -/
def State.joinSend (s : State) : State :=
  let s := { s with stt := { s.stt with carried := s.stt.records.map Prod.fst } }
  s.toHead (s.joinPayload s.joinHubs)

/-- JOIN_SEND. -/
def execJoinSend (s : State) : Res :=
  guarded s (fun s => if s.ringHub && (!s.admitted || s.quarantined) then s.joinSend else s)

/-- A GRANT, RELEASE or REFUSE is passed to each stitched hub whose record the JOIN carried (R390). -/
def State.passAdmit (s : State) (payload : List Nat) : State :=
  if !s.ringHub then s
  else
    (s.stt.carried.filterMap s.fwdPort).foldl (fun t q =>
      let (t, f) := t.stampFrame { typ := 0xB, tc := 4, dest := 0, payload := payload }
      t.toOutputs 9 f [q]) s

/-- Whether an answer of the head names this hub's station: by the ring hub's serial, at a stitched hub by its ring hub. -/
def State.answersMe (s : State) (serial : Nat) : Bool := !s.ringHub || serial == s.serial

/-- GRANT. -/
def execGrant (station : Fin 1023) (epoch : BitVec 16) (serial : BitVec 64) (s : State) : Res :=
  guarded s (fun s =>
    if !(s.answersMe serial.toNat) then s
    else
      let s := (s.wr F.GLB_POS_STATION station).wr F.CRL_EPOCH_CUR epoch.toNat
      let s := { s with ring := { s.ring with flowTx := [], refused := false, released := false, grace := false } }
      let s := { s with alm := { s.alm with foreign := s.almInForce && s.alm.tgtStation != 0 && s.alm.tgtStation != station.val } }
      let s := (s.raise F.CRL_STATUS_ADMITTED).enterQuarantine
      s.passAdmit ([2, 0, 0, 0] ++ leBytes 8 serial.toNat ++ leBytes 2 station ++ leBytes 2 epoch.toNat))

/-- RELEASE: quarantine ends at the next harvest boundary. -/
def execRelease (epoch : BitVec 16) (s : State) : Res :=
  guarded s (fun s =>
    if s.admitted && s.quarantined then
      { s with ring := { s.ring with released := true } }.passAdmit ([3, 0, 0, 0] ++ leBytes 2 epoch.toNat)
    else s)

/-- REFUSE: the hub stays at station 0 and slows its JOINs. -/
def execRefuse (code : BitVec 16) (serial : BitVec 64) (s : State) : Res :=
  guarded s (fun s =>
    if !(s.answersMe serial.toNat) then s
    else
      let s := { s with ring := { s.ring with refused := true } }.raise F.CRL_IRQ_REFUSED
      s.passAdmit ([4, 0] ++ leBytes 2 code.toNat ++ leBytes 8 serial.toNat))

/-! Epochs (R284, R285) -/

/-- The EPOCH payload. -/
def epochPayload (e : EpochInfo) : List Nat :=
  let map := e.posmap.foldl (fun (n : Nat) q => n - (0x3FF - q.2 % 1024) <<< (10 * (q.1 % 1024))) (2 ^ 10240 - 1)
  leBytes 2 e.newEpoch ++ leBytes 2 e.prevEpoch ++ leBytes 4 e.effectCycle ++ leBytes 4 e.hper ++ leBytes 4 e.happly ++
    leBytes 2 e.hlaunch ++ leBytes 2 e.hops ++ leBytes 2 e.cut0 ++ leBytes 2 e.cut1 ++ leBytes 2 e.drain ++ [e.kepTx, e.kepNext] ++
    leBytes 2 e.resets.length ++ bytesAt ((e.resets.map (leBytes 2)).flatten) 0 32 ++ [0, 0] ++ leBytes 1280 map

/-- Epoch a is newer than b. -/
def epochNewer (a b : Nat) : Bool := newer 16 a b

/-- EPOCH_RECEIVED: taken for its effect boundary, ignored, or it shows the hub to be stale. The windows of the stations
listed are cleared as the frame is taken. -/
def State.epochReceived (s : State) (e : EpochInfo) : State :=
  let cur := s.rd F.CRL_EPOCH_CUR
  if !(epochNewer e.newEpoch cur) then s
  else if e.prevEpoch ≠ cur then s.stale
  else if s.ring.coming = some e then s
  else
    let s := { s with ring := { s.ring with coming := some e } }
    e.resets.foldl (fun t st => t.clearWindows st) s

def execEpochReceived (info : EpochInfo) (s : State) : Res := guarded s (fun s => s.epochReceived info)

/-- READY ports whose link the cut list no longer names come UP, and their egress drains (R255, R272). -/
def State.healPort (s : State) (p : Nat) : State :=
  if portReady s p && !(s.ring.cuts.contains (s.linkOf p)) then
    let s := s.portToUp p
    if p = 0 ∨ p = 3 then s.setMac p { s.mac p with draining := true } else s
  else s

/-- The key epochs of an epoch take effect (R286, R306, R368). -/
def State.keyEpochs (s : State) (e : EpochInfo) : State :=
  let switch : Bool := e.kepTx != s.rd F.CRL_KEY_TX
  let next : Bool := e.kepNext != 0xFF
  let newNext : Bool := next && !(s.on F.CRL_KEY_NEXT_VALID && s.rd F.CRL_KEY_NEXT == e.kepNext)
  let s := (((s.wr F.CRL_KEY_TX e.kepTx).wrB F.CRL_KEY_NEXT_VALID next).wr F.CRL_KEY_NEXT (if next then e.kepNext else 0)).wrB
    F.CRL_STATUS_REKEY next
  let s := if switch then
      ({ s with ring := { s.ring with oldKeys := true, preparing := false } }.raise F.CRL_IRQ_REKEY).resubmitHeld
    else s
  if newNext then s.deriveEpoch e.kepNext e.newEpoch else s

/-- EPOCH_EFFECT: at the boundary of EFFECT_CYCLE. -/
def State.epochEffect (s : State) (e : EpochInfo) : State :=
  let s := ((s.wr F.CRL_EPOCH_PREV (s.rd F.CRL_EPOCH_CUR)).wr F.CRL_EPOCH_CUR e.newEpoch).raise F.CRL_IRQ_EPOCH
  let s := { s with ring := { s.ring with posmap := e.posmap, cuts := epochCuts e, grace := true, coming := none } }.mark .epochTaken
  let pos := match s.ring.posmap.get? (s.rd F.GLB_POS_STATION) with
    | some p => p
    | none => 0x3FF
  let s := ((s.wr F.CRL_STATUS_POS pos).wr F.CRL_MAP_HOPS e.hops).wr F.CRL_MAP_DRAIN e.drain
  let s := ((s.wr F.CRL_HPER_VALUE e.hper).wr F.CRL_HAPPLY_VALUE e.happly).wr F.CRL_HLAUNCH_VALUE e.hlaunch
  [0, 1, 2, 3].foldl (fun t p => t.healPort p) (s.keyEpochs e)

/-- GRACE_EXPIRY. -/
def execGraceExpiry (s : State) : Res := guarded s (fun s => { s with ring := { s.ring with grace := false } })

/-- HV_RUN_TIMEOUT. -/
def execHvRunTimeout (s : State) : Res := guarded s (fun s => s.wr F.CRL_STATUS_HV_RUN 0)

/-! The head (R278 to R286) -/

def State.setHead (s : State) (h : HeadState) : State := { s with ring := { s.ring with head := h } }

/-- The largest maximum hop latency in use, in ns (R265). -/
def State.hopMax (s : State) : Nat :=
  if s.rd (F.CRL_Pp_CFG_RATE 0) ≠ 0 then 420
  else match s.rd (F.CRL_Pp_CFG_FEC 0) with
    | 0 => 180
    | 1 => 230
    | _ => 300

/-- DRAIN: RING_HOPS times the largest hop latency, in whole µs rounded up (R272). -/
def State.drainTime (s : State) : Nat := (s.ring.head.hops * s.hopMax + 999) / 1000

/-- The cuts an epoch names: at most two, those that bound the head's segment. -/
def boundingCuts (l : List Nat) : List Nat :=
  match l.foldl (fun (a : Option (Nat × Nat)) c => match a with
      | none => some (c, c)
      | some (x, y) => some (min x c, max y c)) none with
  | none => []
  | some (x, y) => if x = y then [x] else [x, y]

/-- The position map without the stations beyond two cuts. -/
def mapWithin (cuts : List Nat) (m : SMap Nat) : SMap Nat :=
  match cuts with
  | [x, y] => m.filter (fun q => decide (q.2 ≤ x) || decide (y < q.2))
  | _ => m

/-- The head announces a bump; one that is still to take effect is waited for. -/
def State.announce (s : State) : State :=
  let h := s.ring.head
  if s.ring.coming.isSome then s.setHead { h with dirty := true }
  else
    let cur := s.rd F.CRL_EPOCH_CUR
    let cuts := boundingCuts h.cuts
    let new := (cur + 1) % 65536
    let h := if h.kepNext = none ∧ 32768 ≤ (new + 65536 - h.switchEpoch % 65536) % 65536 then
        { h with kepNext := some ((h.kepTx + 1) % 16), rekeyed := [] } else h
    let e : EpochInfo :=
      { newEpoch := new, prevEpoch := cur, effectCycle := (s.ring.harvest.cycle + 4) % 2 ^ 32, hper := s.rd F.CRL_HPER_VALUE,
        happly := s.rd F.CRL_HAPPLY_VALUE, hlaunch := s.rd F.CRL_HLAUNCH_VALUE, hops := h.hops, cut0 := cuts.getD 0 0xFFFF,
        cut1 := cuts.getD 1 0xFFFF, drain := s.drainTime, kepTx := h.kepTx, kepNext := h.kepNext.getD 0xFF,
        resets := h.resets.take 16, posmap := mapWithin cuts h.positions }
    let s := s.setHead { h with announced := some e, dirty := false, resets := h.resets.drop 16 }
    s.epochReceived e

/-- The EPOCH frame leaves on both rings. -/
def State.sendEpoch (s : State) (e : EpochInfo) : State :=
  s.send 9 { typ := 0xC, tc := 7, dup := true, dest := 1023 * 4, payload := epochPayload e }

/-- At the start of each of the three cycles before EFFECT_CYCLE the head sends the EPOCH frame (R284). -/
def State.headEpochs (s : State) : State :=
  let ahead (e : EpochInfo) : Nat := (e.effectCycle + 2 ^ 32 - s.ring.harvest.cycle % 2 ^ 32) % 2 ^ 32
  match s.ring.coming, s.ring.head.announced with
  | some e, some a => if e = a ∧ s.on F.CRL_CTL_HEAD ∧ 1 ≤ ahead e ∧ ahead e ≤ 3 then s.sendEpoch e else s
  | _, _ => s

/-- EPOCH_REPEAT. -/
def execEpochRepeat (s : State) : Res :=
  guarded s (fun s =>
    match s.ring.head.announced with
    | some e => if s.on F.CRL_CTL_HEAD && s.ring.coming.isNone then s.sendEpoch e else s
    | none => s)

/-- EPOCH_EFFECT. At the head a bump that waited is announced. -/
def execEpochEffect (s : State) : Res :=
  guarded s (fun s =>
    match s.ring.coming with
    | none => s
    | some e =>
      let switch : Bool := e.kepTx != s.rd F.CRL_KEY_TX
      let s := s.epochEffect e
      if s.on F.CRL_CTL_HEAD then
        let h := s.ring.head
        let s := s.setHead { h with switchEpoch := if switch then e.newEpoch else h.switchEpoch }
        if h.dirty || !h.resets.isEmpty then s.announce else s
      else s)

/-! Train time (R278) -/

/-- Slot bytes of a hub: its header and the longer of its images. -/
def slotLen (h : JoinHub) : Nat := 16 + max h.inLen h.outLen

/-- Payload bytes of the frames that carry slots of the lengths given, whole slots and at most 2048 bytes each. -/
def packTrain : Nat → List Nat → List Nat
  | cur, [] => if cur = 8 then [] else [cur]
  | cur, n :: l => if cur + n ≤ 2048 then packTrain (cur + n) l else cur :: packTrain (8 + n) l

/-- The train's time in ps. -/
def State.trainTime (s : State) (slots : List Nat) (hops : Nat) : Nat :=
  let bytePs := if s.rd (F.CRL_Pp_CFG_RATE 0) = 0 then 320 else 800
  ((packTrain 8 slots).map (fun n => (max 64 (50 + n) + 20) * bytePs)).foldl (· + ·) 0 + hops * s.hopMax * 1000

/-- Whether the train with the slots given fits. -/
def State.trainFits (s : State) (slots : List Nat) (hops : Nat) : Bool :=
  decide (s.trainTime slots hops + 2000000 + s.rd F.CRL_HLAUNCH_VALUE * 250000 ≤ s.rd F.CRL_HAPPLY_VALUE * 250000)

/-! JOIN at the head (R280, R281) -/

/-- The lowest free ID in 2 to 1022. -/
def freeStation (r : SMap Nat) : Option Nat :=
  ((List.range 1021).map (· + 2)).find? (fun id => !(r.any (fun p => p.2 == id)))

/-- REFUSE to a joining station. -/
def State.sendRefuse (s : State) (station code serial : Nat) : State :=
  (s.send 9 { typ := 0xB, tc := 4, dest := station * 4, payload := [4, 0] ++ leBytes 2 code ++ leBytes 8 serial }).raise
    F.CRL_IRQ_REFUSED

/-- RELEASE to a station. -/
def State.sendRelease (s : State) (station : Nat) : State :=
  s.send 9 { typ := 0xB, tc := 4, dest := station * 4, payload := [3, 0, 0, 0] ++ leBytes 2 (s.rd F.CRL_EPOCH_CUR) }

/-- A station is granted: in the map and listed for reset in a new epoch; GRANT follows. -/
def State.grantStation (s : State) (i : JoinInfo) (id serial : Nat) : State :=
  let h := s.ring.head
  let hubs := i.hubs.foldl (fun (m : SMap JoinHub) x => m.insert (id * 4 + x.pos) x) (h.hubs.filter (fun p => p.1 / 4 != id))
  let s := s.setHead { h with
    roster := h.roster.insert serial id, hubs := hubs, positions := h.positions.insert id (if id = 1 then 0 else i.stepsA + 1),
    hops := if id = 1 then h.hops else i.stepsA + i.stepsB + 2, resets := h.resets.filter (· != id) ++ [id],
    missed := h.missed.filter (fun p => p.1 / 4 != id) }
  s.announce.send 9 { typ := 0xB, tc := 4, dest := i.station * 4, payload := [2, 0, 0, 0] ++ leBytes 8 serial ++ leBytes 2 id ++
                        leBytes 2 (s.rd F.CRL_EPOCH_CUR) }

/-- Whether a JOIN comes from a station that holds its grant in the current epoch. -/
def State.granted (s : State) (i : JoinInfo) (id : Nat) : Bool :=
  i.station == id && i.epochHeld == s.rd F.CRL_EPOCH_CUR && (s.ring.head.positions.get? id).isSome &&
    i.hubs.all (fun x => s.ring.head.hubs.any (fun p => p.1 == id * 4 + x.pos && p.2.serial == x.serial))

/-- JOIN at the head. `expected` says whether each hub's structure hash is the one the host expects for its place. -/
def State.join (s : State) (i : JoinInfo) (expected : Bool) : State :=
  let h := s.ring.head
  let serial := (i.hubs.find? (fun x => x.pos == i.ringPos)).elim 0 (·.serial)
  let id := if serial = s.serial then some 1 else (h.roster.get? serial) <|> freeStation h.roster
  match id with
  | none => s.sendRefuse i.station 0x1010 serial
  | some id =>
    let hops := if id = 1 then h.hops else i.stepsA + i.stepsB + 2
    let others := (h.hubs.filter (fun p => p.1 / 4 != id && p.1 / 4 != 1)).map (fun p => slotLen p.2)
    let mine := if id = 1 then [] else i.hubs.map slotLen
    if i.hubs.any (fun x => h.hubs.any (fun p => p.2.serial == x.serial && p.1 / 4 != id)) then
      (s.sendRefuse i.station 0x1012 serial).violation 8 0x1012
    else if !(s.trainFits (others ++ mine) hops) then s.sendRefuse i.station 0x1011 serial
    else
      let s := if s.granted i id then s else s.grantStation i id serial
      if expected then s.sendRelease id else s

def execJoin (info : JoinInfo) (expected : Bool) (s : State) : Res :=
  guarded s (fun s => if s.on F.CRL_CTL_HEAD then s.join info expected else s)

/-! Loss of a station and of links (R283) -/

/-- The head removes a station: its links are cut, its ID stays in the roster. -/
def State.stationLost (s : State) (id : Nat) : State :=
  let h := s.ring.head
  match h.positions.get? id with
  | none => s
  | some p =>
    let n := max 1 h.hops
    let cuts := [(p + n - 1) % n, p].foldl (fun (l : List Nat) c => if l.contains c then l else l ++ [c]) h.cuts
    (s.setHead { h with positions := h.positions.erase id, hubs := h.hubs.filter (fun q => q.1 / 4 != id), cuts := cuts,
                        missed := h.missed.filter (fun q => q.1 / 4 != id) }).announce

/-- The link that a station's port faces. -/
def HeadState.linkAt (h : HeadState) (station port : Nat) : Option Nat :=
  let n := max 1 h.hops
  (h.positions.get? station).map (fun p => if port % 2 = 0 then p else (p + n - 1) % n)

/-- LINKRPT at the head. -/
def State.linkReport (s : State) (station port : Nat) (ready : Bool) (serial : Nat) : State :=
  let h := s.ring.head
  let k := station * 4 + port
  match h.linkAt station port with
  | none => s
  | some c =>
    if !ready then
      let h := { h with downs := h.downs.insert k serial, readies := h.readies.filter (· != k) }
      let lost : Option Nat := match h.roster.get? serial with
        | some id => if serial != 0 && h.downs.any (fun q => q.2 == serial && q.1 / 4 != station) then some id else none
        | none => none
      match lost with
      | some id => (s.setHead h).stationLost id
      | none =>
        if h.cuts.contains c then s.setHead h else (s.setHead { h with cuts := h.cuts ++ [c] }).announce
    else
      let h := { h with downs := h.downs.erase k, readies := k :: h.readies.filter (· != k) }
      let facing (q : Nat) : Bool := h.linkAt (q / 4) (q % 4) == some c
      let ends := (h.readies.filter facing).map (fun q => q % 2)
      if h.cuts.contains c && !(h.downs.any (fun q => facing q.1)) && ends.contains 0 && ends.contains 1 then
        (s.setHead { h with cuts := h.cuts.filter (· != c), readies := h.readies.filter (fun q => !(facing q)) }).announce
      else s.setHead h

def execLinkrpt (station : Fin 1023) (port : Fin 4) (ready : Bool) (serial : BitVec 64) (s : State) : Res :=
  guarded s (fun s => if s.on F.CRL_CTL_HEAD then s.linkReport station port ready serial.toNat else s)

/-! Rekey at the head (R286, R291) -/

/-- A rekey starts. -/
def State.rekeyStart (s : State) : State :=
  let h := s.ring.head
  ((s.raise F.CRL_STATUS_REKEY).setHead { h with kepNext := some ((h.kepTx + 1) % 16), rekeyed := [] }).announce

/-- Whether one runs. -/
def State.rekeying (s : State) : Bool := s.ring.head.kepNext.isSome || s.on F.CRL_STATUS_REKEY

/-- CRL_CTL.REKEY written. -/
def State.rekeyWrite (s : State) (init : Initiator) : State :=
  if !(s.on F.CRL_CTL_HEAD) || s.rekeying then s.refuseReg init F.CRL_CTL_REKEY.off 0x1015 else s.rekeyStart.ack

def execRekey (init : Initiator) (s : State) : Res := guarded s (fun s => s.rekeyWrite init)

def execRekeyReq (s : State) : Res :=
  guarded s (fun s =>
    if !(s.on F.CRL_CTL_HEAD) then s
    else if s.rekeying then s.setHead { s.ring.head with rekeyReqs := s.ring.head.rekeyReqs + 1 }
    else s.rekeyStart)

/-- The head announces the switch to the prepared key epoch. -/
def State.rekeySwitch (s : State) : State :=
  let h := s.ring.head
  match h.kepNext with
  | none => s
  | some k => (s.setHead { h with kepTx := k, kepNext := none }).announce

def execRekeyReady (hub : Fin 4096) (kepoch : Fin 16) (s : State) : Res :=
  guarded s (fun s =>
    let h := s.ring.head
    if !(s.on F.CRL_CTL_HEAD) || h.kepNext != some kepoch.val then s
    else
      let h := { h with rekeyed := hub.val :: h.rekeyed.filter (· != hub.val) }
      let s := s.setHead h
      if h.hubs.all (fun p => h.rekeyed.contains p.1) then s.rekeySwitch else s)

/-- REKEY_TMO_EXPIRY: hubs that have not answered are told with 0x1013. -/
def execRekeyTmoExpiry (s : State) : Res :=
  guarded s (fun s =>
    let h := s.ring.head
    if !(s.on F.CRL_CTL_HEAD) || h.kepNext.isNone then s
    else
      let late := (h.hubs.filter (fun p => !(h.rekeyed.contains p.1))).map (·.1)
      let s := late.foldl (fun t q => t.send 8 { typ := 7, tc := 4, dest := q, payload := leBytes 2 0x1013 ++ List.replicate 14 0 }) s
      s.rekeySwitch)

end Sys2Proof.Machine
end

