-- ==== Sys2Proof/Machine/Derived.lean ====
section
/-!
DEFINITION. What the hub's own words GLB_HEALTH and GLB_IRQ_SUM show, computed from the blocks (02 R44, R45), and what the harvest
image and the state copy carry of them.
-/

namespace Sys2Proof.Machine

/-! GLB_HEALTH -/

/-- FEED: a feed is LATCHED, in LOCKOUT or in COOLOFF (R158). -/
def State.feedTrouble (s : State) : Bool :=
  (List.range 16).any (fun f => [fCooloff, fLatched, fLockout].contains (s.feedState f))

/-- A pair shows a mismatch not yet read (R413). -/
def State.lockMismatch (s : State) : Bool := s.on F.GLB_LOCKSTEP_PAIR0 || s.on F.GLB_LOCKSTEP_PAIR1

/-- KEY_WARN: a loaded key has passed its warning (R367). -/
def State.keyWarn (s : State) : Bool := s.loadedSlots.any (fun n => s.slotReached n warnAt)

/-- A rewind mark is OVERTAKEN (R420). -/
def State.markOvertaken (s : State) : Bool := (List.range 8).any (fun n => s.rd (F.BOM_MARKn_ST_ST n) == 2)

/-- The bits of GLB_HEALTH that other state decides: position and value. -/
def State.healthBits (s : State) : List (Nat × Bool) :=
  [(29, s.quarantined), (26, s.timeLock), (25, s.lockMismatch), (24, s.feedTrouble), (23, (List.range 32).any s.tallySummary),
   (20, s.keyWarn), (19, s.markOvertaken), (18, s.bom.bgFailed != 0)]

/-- GLB_HEALTH as it reads. -/
def State.health (s : State) : Nat :=
  s.rd F.GLB_HEALTH_ALM_HASH + b2n (s.on F.GLB_HEALTH_AGEING) * 2 ^ 21 + b2n (s.on F.GLB_HEALTH_TAMPER) * 2 ^ 22 +
    s.twinCode * 2 ^ 27 + b2n (s.on F.GLB_HEALTH_ALM_OK) * 2 ^ 30 + b2n (s.on F.GLB_HEALTH_DRIFT) * 2 ^ 31 +
    s.healthBits.foldl (fun n p => n + b2n p.2 * 2 ^ p.1) 0

end Sys2Proof.Machine
end

