-- ==== Sys2Proof/Machine/Station.lean ====
section
/-! DEFINITION. Stations and twins: stitched hubs' JOINs and images, the state copy, claims, the referee and the handover (14). -/

namespace Sys2Proof.Machine

def State.setStt (s : State) (x : SttState) : State := { s with stt := x }

/-! Stitched hubs (R390, R393) -/

/-- STITCH_JOIN: an unadmitted or quarantined stitched hub sends a JOIN of its own over its uplink. -/
def execStitchJoin (s : State) : Res :=
  guarded s (fun s =>
    if !s.ringHub && s.uplink.isSome && (!s.admitted || s.quarantined) then s.toHead (s.joinPayload [s.ownRecord]) else s)

/-- STITCH_JOIN_RECEIVED: the ring hub keeps the record; one that appears after admission makes it send a JOIN at once. -/
def execStitchJoinReceived (hub : JoinHub) (s : State) : Res :=
  guarded s (fun s =>
    if !s.ringHub || decide (4 ≤ hub.pos) || hub.pos == s.rd F.GLB_POS_HUBPOS then s
    else
      let new : Bool := (s.stt.records.get? hub.pos).isNone
      let s := s.setStt { s.stt with records := s.stt.records.insert hub.pos hub }
      if new && s.admitted then s.joinSend else s)

/-- STITCH_RECORD_EXPIRY: a record not renewed for three JOIN_INT. -/
def execStitchRecordExpiry (pos : Fin 4) (s : State) : Res :=
  guarded s (fun s => s.setStt { s.stt with records := s.stt.records.erase pos })

/-- An output image that arrives after its boundary. -/
def State.outputLate (s : State) : State :=
  ((s.bump F.STT_CNT1_OUTLATE).bump F.CRL_HCNT_LATE).raise F.CRL_IRQ_HLATE

/-- A stitch image: an input image is held at the ring hub, an output image is staged at a stitched hub, which sees the harvest run by it. -/
def State.stitchImageIn (s : State) (bs : List Nat) : State :=
  let h := s.ring.harvest
  match parseSlots 1 (bs.drop 8) with
  | some [d] =>
    let current : Bool := leAt bs 0 4 == h.cycle % 2 ^ 32
    if leAt bs 4 1 = 2 then
      if s.ringHub && current && d.hub / 4 == s.rd F.GLB_POS_STATION then
        { s with ring := { s.ring with harvest := { h with
            images := h.images.insert (d.hub % 4) (bit d.flags 3, d.body.take d.inLen) } } }
      else s
    else if leAt bs 4 1 = 3 ∧ !s.ringHub ∧ d.hub = s.self then
      let s := s.trainSeen
      if current && !h.closed then
        if h.staged.isNone && bit d.flags 0 then
          { s with ring := { s.ring with harvest := { h with staged := some (d.body.take d.outLen) } } }
        else s
      else s.outputLate
    else s
  | _ => s

/-- STITCH_IMAGE_RECEIVED: the payload of a HARVEST frame on a stitch link. -/
def execStitchImageReceived (payload : List Byte) (s : State) : Res :=
  guarded s (fun s => s.stitchImageIn (payload.map BitVec.toNat))

/-! Roles (R396) -/

/-- A role is taken. -/
def State.toRole (s : State) (r : Nat) : State :=
  if s.role = r then s else (s.wr F.STT_STATUS_ROLE r).raise F.STT_IRQ_ROLE

/-- Whether this hub is a twin. -/
def State.twin (s : State) : Bool := s.role != roleNone

/-- The partner as DEST names it. -/
def State.partner (s : State) : Nat := s.rd F.GLB_POS_STATION * 4 + s.rd F.STT_STATUS_PARTNER

/-- The referee's answer ends the claim. -/
def State.answered (s : State) : State := (s.setStt { s.stt with claim := none }).wr F.STT_STATUS_CLAIM 0

/-! The state copy: what it holds (R398) -/

/-- Record types. -/
def cpHead : Nat := 1
def cpOutput : Nat := 2
def cpCalendar : Nat := 3
def cpTally : Nat := 4
def cpContext : Nat := 5
def cpSawyer : Nat := 6
def cpSlice : Nat := 7
def cpEnd : Nat := 0xF

/-- An item is filed by its type and unit. -/
def cpKey (typ unit : Nat) : Nat := typ * 65536 + unit

/-- Bytes from a truth value per index, lowest index first. -/
def flagBytes (n : Nat) (p : Nat → Bool) : List Nat := leBytes (n / 8) (packBits n p)

/-- Zeros to a multiple of 8. -/
def pad8 (l : List Nat) : List Nat := l ++ List.replicate ((8 - l.length % 8) % 8) 0

/-- OUTPUT: the output image, FLD_CMD0 to 3, normal values, slice EN bits. -/
def State.cpOutputItem (s : State) : List Nat :=
  pad8 (s.bytes 1 0x400 s.alm.outLen ++ flagBytes 128 (fun n => s.on (F.FLD_Ln_STAT_CMD n)) ++ flagBytes 32 s.fastNormal ++
    flagBytes 48 (fun n => s.on (F.PSL_Sn_CTL_EN n)))

/-- CALENDAR: an entry. -/
def State.cpCalendarItem (s : State) (i : Nat) : List Nat := leBytes 2 i ++ List.replicate 6 0 ++ (s.ent i).image

/-- TLY_Sn_STATE as it reads; SSEQ is 0 while no sample is held (DESIGN CHOICE: notes/assumptions/18.md; R97 does not say). -/
def State.slotWord (s : State) (n : Nat) : Nat :=
  s.slotState n * 2 ^ 29 + (s.slot n).held.length * 2 ^ 24 + s.rd (F.TLY_Sn_STATE_MISS n) * 2 ^ 16 +
    ((s.slot n).held.map (·.sseq)).headD 0

/-- A held sample of 24 bytes. -/
def cpSample (x : Sample) : List Nat := leBytes 10 (ofSigned 80 x.pos) ++ [0, 0] ++ leBytes 12 (ft96 x.ts)

/-- TALLY: a slot. -/
def State.cpTallyItem (s : State) (n : Nat) : List Nat :=
  bytesAt ([n, 0, 0, 0, 0, 0, 0, 0] ++ leBytes 4 (s.slotWord n) ++ [0, 0, 0, 0] ++ ((s.slot n).held.map cpSample).flatten) 0 208

/-- STATE of a context (R336). -/
def State.ctxState (s : State) (c : Nat) : Nat := bits (s.le 6 (64 * c) 4) 28 4

/-- CONTEXT: bytes 0x00 to 0x1F and 0x38 to 0x3F of a record. -/
def State.cpContextItem (s : State) (c : Nat) : List Nat :=
  leBytes 2 c ++ List.replicate 6 0 ++ s.bytes 6 (64 * c) 32 ++ s.bytes 6 (64 * c + 0x38) 8

/-- Words of a FIFO of four with its level. -/
def cpFifo (l : List Nat) : List Nat := bytesAt ((l.map (leBytes 4)).flatten) 0 16 ++ leBytes 4 l.length

/-- SAWYER: a sawyer. -/
def State.cpSawyerItem (s : State) (n : Nat) : List Nat :=
  let x := s.saw n
  [n, s.sawState n] ++ leBytes 2 (s.rd (F.SAW_Sn_STATUS_PC n)) ++ leBytes 4 (s.sx n) ++ leBytes 4 (s.sy n) ++
    leBytes 4 (s.rd (F.SAW_Sn_ISR_VALUE n)) ++ leBytes 4 (s.rd (F.SAW_Sn_OSR_VALUE n)) ++
    [s.rd (F.SAW_Sn_STATUS_ISRCNT n), s.rd (F.SAW_Sn_STATUS_OSRCNT n)] ++ leBytes 2 (s.slc16 n) ++ cpFifo x.tx ++ cpFifo x.rx ++
    leBytes 4 (s.rd (F.SAW_Sn_DROP_DROP n)) ++ leBytes 4 (s.rd (F.SAW_Sn_TALLY_LO_TALLY n)) ++
    leBytes 4 (s.rd (F.SAW_Sn_TALLY_HI_TALLY n)) ++ leBytes 4 (s.rd (F.SAW_Sn_TCMP_LO_TCMP n)) ++
    leBytes 4 (s.rd (F.SAW_Sn_TCMP_HI_TCMP n)) ++ [s.rd (F.SAW_Sn_STATUS_TRIG_PEND n), s.rd (F.SAW_Sn_LC_F n), 0, 0] ++
    leBytes 12 x.stamp ++ [0, 0, 0, 0]

/-- SLICE: an enabled quadrature slice. -/
def State.cpSliceItem (s : State) (n : Nat) : List Nat :=
  [n, b2n (s.on (F.PSL_Sn_CTL_EN n)), 0, 0, 0, 0, 0, 0] ++ leBytes 8 (s.quadCount n)

/-- HEAD of a copy at a boundary. -/
def State.cpHeadItem (s : State) (cycle : Nat) (full : Bool) : List Nat :=
  leBytes 4 cycle ++ [b2n full, 0, 0, 0] ++ leBytes 12 s.stamp ++ bytesAt s.stt.twinHash 0 8 ++ leBytes 4 s.health ++
    List.replicate 16 0

/-- Keys of a type among items. -/
def cpUnits (typ : Nat) (m : SMap (List Nat)) : List Nat := (m.filter (fun p => p.1 / 65536 == typ)).map (fun p => p.1 % 65536)

/-- Contexts that are not OFF. -/
def State.liveContexts (s : State) : List Nat :=
  let all := (s.mem.filter (fun c => c.1 / 2 ^ 40 == 6)).map (fun c => c.1 % 2 ^ 40 / 64)
  (all.foldl (fun (l : List Nat) c => if l.contains c then l else l ++ [c]) []).filter (fun c => s.ctxState c != 0)

/-- The units of a type that a full copy carries. -/
def State.cpAll (s : State) (typ : Nat) : List Nat :=
  match typ with
  | 3 => s.calIndexes.filter (fun i => (s.ent i).state != cFree)
  | 4 => (List.range 32).filter s.bound
  | 5 => s.liveContexts
  | 6 => List.range 128
  | 7 => (List.range 48).filter (fun n => s.pers n == 6 && s.on (F.PSL_Sn_CTL_EN n))
  | _ => []

/-- A unit's item. -/
def State.cpItem (s : State) (typ unit : Nat) : List Nat :=
  match typ with
  | 3 => s.cpCalendarItem unit
  | 4 => s.cpTallyItem unit
  | 5 => s.cpContextItem unit
  | 6 => s.cpSawyerItem unit
  | _ => s.cpSliceItem unit

/-- Whether a tally slot's newest sample is another than the one the standby is known to hold. -/
def State.newSample (s : State) (n : Nat) (item : List Nat) : Bool :=
  !((s.slot n).held.isEmpty) && bytesAt (s.stt.base.getD (cpKey cpTally n) []) 16 24 != bytesAt item 16 24

/-- Whether a delta copy carries an item. -/
def State.cpDelta (s : State) (typ unit : Nat) (item : List Nat) : Bool :=
  let changed : Bool := s.stt.base.get? (cpKey typ unit) != some item
  match typ with
  | 4 => s.newSample unit item
  | 6 => s.sawState unit != sStopped || changed
  | 7 => true
  | _ => changed

/-- The items of a type that a copy carries, by unit. -/
def State.cpItems (s : State) (full : Bool) (typ : Nat) : List (Nat × List Nat) :=
  let all := s.cpAll typ
  let gone := if full || typ == 7 then [] else (cpUnits typ s.stt.base).filter (fun u => !(all.contains u))
  ((all ++ gone).map (fun u => (u, s.cpItem typ u))).filter (fun p => full || s.cpDelta typ p.1 p.2)

/-- A record of a copy. -/
def cpRecord (typ : Nat) (items : List (List Nat)) : List Nat :=
  [typ, 0] ++ leBytes 2 items.length ++ leBytes 4 items.flatten.length ++ items.flatten

/-- The records of a copy between HEAD and END, and its items by key. -/
def State.cpBody (s : State) (full : Bool) : List (List Nat) × SMap (List Nat) :=
  let l := ([3, 4, 5, 6, 7] : List Nat).map (fun t => (t, s.cpItems full t))
  let recs := (l.filter (fun p => !(p.2.isEmpty))).map (fun p => cpRecord p.1 (p.2.map (·.2)))
  let items := l.foldl (fun (m : SMap (List Nat)) p => p.2.foldl (fun m q => m.insert (cpKey p.1 q.1) q.2) m) []
  (cpRecord cpOutput [s.cpOutputItem] :: recs, items)

/-- A copy: its bytes, and its items. The records that END counts include HEAD and END (notes/assumptions/26.md). -/
def State.cpImage (s : State) (cycle : Nat) (full : Bool) : List Nat × SMap (List Nat) :=
  let (recs, items) := s.cpBody full
  let n := recs.length + 2
  (cpRecord cpHead [s.cpHeadItem cycle full] ++ recs.flatten ++ ([cpEnd, 0] ++ leBytes 2 n ++ leBytes 4 0), items)

/-- Where a copy of a cycle lies in region 0x4. -/
def cpOffset (cycle : Nat) : Nat := if cycle % 2 = 0 then 0x300000 else 0x380000

/-- Bytes in pieces of 1024. -/
def pieces : Nat → List Nat → List (List Nat)
  | 0, _ => []
  | n + 1, bs => if bs.isEmpty then [] else bs.take 1024 :: pieces n (bs.drop 1024)

/-- The copy leaves over ST0 as posted writes. -/
def State.sendCopy (s : State) (cycle : Nat) (bs : List Nat) : State :=
  let ps := pieces 512 bs
  ((List.range ps.length).zip ps).foldl (fun t p => t.sendPosted 8 4 s.partner 4 (cpOffset cycle + 1024 * p.1) p.2) s

/-- The active's snapshot at a boundary (R398, R399). -/
def State.snapshot (s : State) (cycle : Nat) : State :=
  let full : Bool := s.stt.wantFull || !(s.on F.STT_PEER_SNAP)
  let (bs, items) := s.cpImage cycle full
  let known := if full then items else items.foldl (fun (m : SMap (List Nat)) p => m.insert p.1 p.2) s.stt.base
  (s.setStt { s.stt with wantFull := false, sent := known, reports := 0 }).sendCopy cycle bs

/-! The state copy: commit (R399) -/

/-- The record at an offset of region 0x4: type, count and body. -/
def State.cpRecordAt (s : State) (off : Nat) : Nat × Nat × List Nat :=
  (s.le 4 off 1, s.le 4 (off + 2) 2, s.bytes 4 (off + 8) (min (s.le 4 (off + 4) 4) 0x80000))

/-- The records up to END, with their count. -/
def State.cpRecords (s : State) : Nat → Nat → Option (List (Nat × Nat × List Nat))
  | 0, _ => none
  | n + 1, off =>
    let r := s.cpRecordAt off
    if r.1 = cpEnd then some [r]
    else if r.1 = 0 ∨ 7 < r.1 then none
    else (s.cpRecords n (off + 8 + r.2.2.length)).map (r :: ·)

/-- Bytes of an item of a type. -/
def cpItemLen (typ : Nat) (body : List Nat) : Nat :=
  match typ with
  | 1 => 48
  | 3 => 40
  | 4 => 208
  | 5 => 48
  | 6 => 104
  | 7 => 16
  | _ => body.length

/-- The unit of an item. -/
def cpUnit (typ : Nat) (item : List Nat) : Nat :=
  if typ = cpCalendar ∨ typ = cpContext then leAt item 0 2 else if typ = cpHead ∨ typ = cpOutput then 0 else leAt item 0 1

/-- A record's items by key. -/
def cpFile (r : Nat × Nat × List Nat) (m : SMap (List Nat)) : SMap (List Nat) :=
  let n := cpItemLen r.1 r.2.2
  (List.range r.2.1).foldl (fun (m : SMap (List Nat)) k =>
    let item := bytesAt r.2.2 (n * k) n
    m.insert (cpKey r.1 (cpUnit r.1 item)) item) m

/-- Whether a copy of the latest boundary has begun to arrive. -/
def State.copyBegun (s : State) : Bool :=
  let off := cpOffset s.stt.boundary
  s.le 4 off 1 == cpHead && s.le 4 (off + 8) 4 == s.stt.boundary % 2 ^ 32

/-- The standby's quadrature counts: the active's at the boundary and the edges counted here since (R399). -/
def State.takeQuad (s : State) (items : SMap (List Nat)) : State :=
  (cpUnits cpSlice items).foldl (fun t n =>
    let c := leAt (items.getD (cpKey cpSlice n) []) 8 8
    let d := t.quadCount n + 2 ^ 64 - t.stt.quadBase.getD n (t.quadCount n) % 2 ^ 64
    t.wr64 (F.PSL_QUAD_P1_COUNT_LO n) (F.PSL_QUAD_P2_COUNT_HI n) ((c + d) % 2 ^ 64)) s

/-- The health report word as it stands. -/
def State.hrepWord (s : State) : Nat := s.word0 F.STT_HREP_ELIG.off

/-- The health report goes to the partner. -/
def State.sendReport (s : State) : State := s.sendPosted 8 4 s.partner 0 F.STT_PEER_IN_REPORT.off (leBytes 4 s.hrepWord)

/-- Whether the twin hash of a copy's HEAD is this hub's. -/
def State.hashMatches (s : State) (items : SMap (List Nat)) : Bool :=
  bytesAt (items.getD (cpKey cpHead 0) []) 24 8 == bytesAt s.stt.twinHash 0 8

/-- A copy that is whole is committed. -/
def State.commitCopy (s : State) (items : SMap (List Nat)) : State :=
  let full : Bool := bit (leAt (items.getD (cpKey cpHead 0) []) 4 1) 0
  let s := if s.role = roleFenced ∧ portUp s 4 then (s.wr F.STT_STATUS_RFENCE 0).toRole roleUnsync else s
  if !s.standby then s
  else
    let match_ := s.hashMatches items
    let s := (s.wrB F.STT_STATUS_HASHMM (!match_)).wrB F.STT_HREP_TWINHASH match_
    let shadow := if full then items else items.foldl (fun (m : SMap (List Nat)) p => m.insert p.1 p.2) s.stt.shadow
    let s := s.setStt { s.stt with shadow := shadow, committed := some s.stt.boundary, copySseq := s.stt.sseqBase, abandoned := 0,
                                   absent := 0, starts := 0 }
    let s := ((s.takeQuad items).wr F.STT_COPY_VALUE s.stt.boundary).wr F.STT_STATUS_COPY_AGE 0
    let s := s.raise F.STT_HREP_COPY
    let s := if full then s.raise F.STT_HREP_SNAP else s
    s.sendReport

/-- COPY_COMMIT: END has arrived with a matching count. -/
def execCopyCommit (s : State) : Res :=
  guarded s (fun s =>
    if !s.twinIdle || s.role == roleTaking || !s.copyBegun || s.stt.committed == some s.stt.boundary then s
    else match s.cpRecords 64 (cpOffset s.stt.boundary) with
      | none => s
      | some rs =>
        if (rs.getLast?.elim 0 (·.2.1)) ≠ rs.length then s
        else s.commitCopy ((rs.filter (fun r => r.1 != cpEnd)).foldl (fun m r => cpFile r m) []))

/-! Claims (R400) -/

/-- A claim word. -/
def State.claimWord (s : State) (reason rep : Nat) : Nat :=
  2 ^ 28 + s.rd F.GLB_POS_STATION * 2 ^ 16 + s.rd F.GLB_POS_HUBPOS * 2 ^ 14 + s.rd F.STT_STATUS_PARTNER * 2 ^ 12 +
    reason * 2 ^ 8 + s.rd F.STT_HREP_ELIG * 2 ^ 7 + min rep 15 * 2 ^ 3

/-- A claim goes to the referee. -/
def State.sendClaim (s : State) (reason rep : Nat) : State :=
  (((s.bump F.STT_CNT0_CLAIMS).raise F.STT_STATUS_CLAIM)).sendPosted 8 7 s.stt.referee 0 F.STT_CLAIM_WORD.off
    (leBytes 4 (s.claimWord reason rep))

/-- A SYNC standby claims, unless a claim of its own awaits its answer. -/
def State.claim (s : State) (reason : Nat) : State :=
  if s.role = roleSync ∧ s.stt.claim = none then
    (s.setStt { s.stt with claim := some (reason, 1) }).sendClaim reason 0
  else s

/-- ST0_SILENCE: ST0 DOWN, or 4 µs without a heartbeat. -/
def execSt0Silence (s : State) : Res := guarded s (fun s => s.claim 1)

/-- CLAIM_SEND, for the reasons of R400 other than a start claim. -/
def execClaimSend (reason : Fin 16) (s : State) : Res :=
  guarded s (fun s => if [1, 3, 5].contains reason.val then s.claim reason else s)

/-- CLAIM_RESEND: every 50 µs until an answer arrives; after 20 sends CLAIMTMO. -/
def execClaimResend (s : State) : Res :=
  guarded s (fun s =>
    match s.stt.claim with
    | none => s
    | some (reason, n) =>
      let s := (s.setStt { s.stt with claim := some (reason, n + 1) }).sendClaim reason n
      if n + 1 = 20 then s.raise F.STT_IRQ_CLAIMTMO else s)

/-- START_CLAIM: an UNSYNC twin whose partner sends no copy stream. -/
def execStartClaim (s : State) : Res :=
  guarded s (fun s =>
    if s.role = roleUnsync ∧ !s.copyBegun then
      (s.setStt { s.stt with starts := s.stt.starts + 1 }).sendClaim 6 s.stt.starts
    else s)

/-- PROMPT_RECEIVED and the other command words: the frame's source and the referee it names must be this twin's referee. -/
def State.refWord (s : State) (init : Initiator) (src named : Nat) (k : State → State) : State :=
  if src = s.stt.referee ∧ named = s.stt.referee then (k s).ack
  else (s.bump F.STT_CNT1_BADREF).refuseReg init F.STT_REFCMD_WORD.off 0x1603

def execPromptReceived (src named : Fin 4096) (s : State) : Res :=
  guarded s (fun s => s.refWord .tc4 src named (fun s => s.claim 5))

/-! The referee (R401) -/

/-- The pair record of a station. -/
def State.pairOff (s : State) (station : Nat) : Nat := s.rd64 F.STT_REF_LO_REFBASE F.STT_REF_HI_REFBASE + 16 * station
def State.pairByte (s : State) (station k : Nat) : Nat := s.le 4 (s.pairOff station + k) 1
def State.pairActive (s : State) (station : Nat) : Nat := bits (s.pairByte station 1) 0 2
def State.pairStandby (s : State) (station : Nat) : Nat := bits (s.pairByte station 1) 2 2
def State.pairDesignated (s : State) (station : Nat) : Bool := bit (s.pairByte station 1) 4

/-- Positions and DESIGNATED of a pair record are written. -/
def State.setPair (s : State) (station active standby : Nat) (designated : Bool) : State :=
  s.store 4 (s.pairOff station + 1) [active + 4 * standby + 16 * b2n designated]

/-- A command word goes to a twin. -/
def State.refCmd (s : State) (op station pos : Nat) : State :=
  s.sendPosted 8 7 (station * 4 + pos) 0 F.STT_REFCMD_WORD.off (leBytes 4 (op * 2 ^ 28 + s.self * 2 ^ 16 + pos * 2 ^ 14))

/-- GRANT to a target and FENCE to its partner; the record is updated. -/
def State.refGrant (s : State) (station target partner : Nat) : State :=
  let grants := s.le 4 (s.pairOff station + 2) 2
  let s := (s.refCmd 1 station target).refCmd 2 station partner
  let s := s.setPair station target partner (s.pairDesignated station)
  (s.store 4 (s.pairOff station + 2) (leBytes 2 (satAdd 16 grants 1))).store 4 (s.pairOff station + 4)
    (leBytes 4 s.ring.harvest.cycle)

/-- A claim and its decision join the queue. -/
def State.refQueue (s : State) (claim decision code : Nat) : State :=
  (s.setStt { s.stt with refq := s.stt.refq ++ [(claim, decision, code)] }).raise F.STT_IRQ_REFQ

/-- A claim is decided. A claim for a pair that is not enabled is refused whatever its reason, and DESIGNATED = 0 is asked of both
claimants of a start claim (DEDUCED: notes/assumptions/26.md). -/
def State.decideClaim (s : State) (w : Nat) : State :=
  let st := bits w 16 10
  let pos := bits w 14 2
  let reason := bits w 8 4
  let handover : Bool := [1, 3, 5].contains reason
  if !(bit (s.pairByte st 0) 0) || (handover && pos != s.pairStandby st) then (s.refCmd 4 st pos).refQueue w 3 0x1604
  else if handover && !(bit w 7) then (s.refCmd 4 st pos).refQueue w 3 0x1605
  else if !(bit (s.pairByte st 0) 1) then s.refQueue w 0 0
  else if handover then (s.refGrant st pos (s.pairActive st)).refQueue w 1 0
  else if reason = 6 ∧ !(s.pairDesignated st) ∧ pos = s.pairActive st then
    ((s.refCmd 3 st pos).setPair st pos (s.pairStandby st) true).refQueue w 2 0
  else if reason = 6 ∧ !(s.pairDesignated st) ∧ pos = s.pairStandby st ∧ 10 ≤ bits w 3 4 then
    ((s.refCmd 3 st pos).setPair st pos (s.pairActive st) true).refQueue w 2 0
  else s.refQueue w 0 0

/-- STT_CLAIM written. -/
def State.claimIn (s : State) (init : Initiator) (w : Nat) : State :=
  if !(s.on F.STT_STATUS_REF) then s.refuseReg init F.STT_CLAIM_WORD.off 0x1607
  else if 64 ≤ s.stt.refq.length then (s.raise F.STT_IRQ_REFOVF).ack
  else (s.decideClaim w).ack

def execClaimReceived (init : Initiator) (word : Word) (s : State) : Res := guarded s (fun s => s.claimIn init word.toNat)

/-- STT_ORDER written: OP, the station in bits [27:18] (DEDUCED: notes/assumptions/26.md) and the target. -/
def State.orderIn (s : State) (init : Initiator) (w : Nat) : State :=
  if !(s.on F.STT_STATUS_REF) then s.refuseReg init F.STT_ORDER_WORD.off 0x1607
  else
    let st := bits w 18 10
    let pos := bits w 14 2
    let other := if pos = s.pairActive st then s.pairStandby st else s.pairActive st
    (match bits w 28 4 with
     | 1 => s.refGrant st pos other
     | 3 => s.refCmd 3 st pos
     | 5 => s.refCmd 5 st pos
     | _ => s).ack

def execSttOrder (init : Initiator) (word : Word) (s : State) : Res := guarded s (fun s => s.orderIn init word.toNat)

/-- STT_REFQ_POP. -/
def State.refqPop (s : State) : State := s.setStt { s.stt with refq := s.stt.refq.tail }

def execSttRefqPop (s : State) : Res := guarded s (fun s => s.refqPop.ack)

/-! Taking up the copy (R129, R402) -/

/-- The last instant at or after `since` that an entry's edge has, as far as this hub can tell: a time basis by its TRIGGER, a tally
basis by its own slot's fit. -/
def State.copiedInst (s : State) (since : Nat) (e : CalEntry) : Option Nat :=
  if e.tally then
    if s.slotState e.slotNo = tEmpty ∨ s.slotState e.slotNo = tLost ∨ (e.strict ∧ s.slotState e.slotNo ≠ tTracking) then none
    else (s.slot e.slotNo).fit.bind (fun f => f.timeOf e.position e.dir since (s.now + s.horizon e.slotNo))
  else some (s.triggerTime e.trigger)

/-- An edge whose instant passed between the copy and takeover. -/
def State.missedEdge (s : State) (i : Nat) (e : CalEntry) : State :=
  let e := e.flag fHandover
  if e.action = aToggle then s.setEnt i { e with state := cDone }
  else if e.action = aLaunch ∨ (e.tally ∧ e.expiry ≠ 0 ∧ e.armed + us16 e.expiry ≤ s.now) then s.calExpire i e
  else
    let t := s.now + e.lead
    s.setEnt i { e.flag fCatchup with state := cCommitted, inst := t, dueClk := s.clkOf t }

/-- A WAITING or ARMED entry of the copy is predicted anew. An edge that it had between the copy and takeover is a missed one, and one
whose EXPIRY passed ends EXPIRED. -/
def State.takeWaiting (s : State) (since i : Nat) (e : CalEntry) : State :=
  match s.copiedInst since e with
  | some t =>
    if t < s.now then s.missedEdge i e
    else if s.calExpired e then s.calExpire i (e.flag fHandover)
    else s.calArm i { e with inst := t }
  | none => if s.calExpired e then s.calExpire i (e.flag fHandover) else s.calWithdraw i e

/-- A FIRED entry of the copy awaits its check; its instant is the crossing before the copy (DESIGN CHOICE: notes/assumptions/26.md), and
without one the check is abandoned. -/
def State.takeFired (s : State) (since i : Nat) (e : CalEntry) : State :=
  match s.copiedInst (since - s.horizon e.slotNo) e with
  | some t => s.setEnt i { e with inst := t }
  | none => s.setEnt i { e with check := false, state := cDone }

/-- One copied entry is taken up. -/
def State.takeEntry (s : State) (since : Nat) (i : Nat) : State :=
  let e := s.ent i
  match e.state with
  | 1 => s.takeWaiting since i e
  | 2 => s.takeWaiting since i e
  | 5 => s.takeFired since i e
  | 3 =>
    match s.copiedInst since e with
    | some t => if t < s.now then s.missedEdge i e else s.setEnt i { e with inst := t, dueClk := s.clkOf t }
    | none => s.missedEdge i e
  | 4 =>
    let late := (e.flag fHandover).flag fCatchup
    let t := (s.copiedInst (since - ns16 e.param) e).elim 0 (fun t => t + ns16 e.param)
    if t < s.now then s.setEnt i { late with trailClk := s.clkOf (s.now + e.lead) }
    else s.setEnt i { e with inst := t - ns16 e.param, trailClk := s.clkOf t }
  | _ => s

/-- The copied entries. -/
def State.takeCalendar (s : State) (m : SMap (List Nat)) (since : Nat) : State :=
  let load (k : Nat) : Nat × CalEntry :=
    let b := (m.getD (cpKey cpCalendar k) []).drop 8
    let e : CalEntry := { (({ armed := since } : CalEntry).load b) with flags := leAt b 26 2, state := leAt b 28 1, err := leAt b 30 2 }
    (k, { e with check := e.live && e.tally && e.tol != 0 })
  let l := (cpUnits cpCalendar m).map load
  let s := { s with sch := { s.sch with entries := l.filter (fun p => p.2 != {}) } }
  (l.map (·.1)).foldl (fun t i => t.takeEntry since i) s

/-- One copied tally slot; owner slots publish on from the SSEQ of the copy. -/
def State.takeSlot (s : State) (m : SMap (List Nat)) (n : Nat) : State :=
  let b := m.getD (cpKey cpTally n) []
  let w := leAt b 8 4
  if !(s.bound n) || !(s.on (F.TLY_Sn_CFG_OWNER n)) then s
  else
    let sample (k : Nat) : Sample :=
      { sseq := (bits w 0 16 + 65536 - k) % 65536, pos := toSigned 80 (leAt b (16 + 24 * k) 10), ts := ofFt96 (leAt b (28 + 24 * k) 12) }
    let held := (List.range (min 8 (bits w 24 4))).map sample
    let x := s.slot n
    let since := (x.ownSseq + 65536 - s.stt.copySseq.getD n x.ownSseq % 65536) % 65536
    let x := { x with held := held, fit := if held.isEmpty then none else s.refit n held, next := none,
                      ownSseq := (bits w 0 16 + since + 1) % 65536, ownPos := (held.map (·.pos)).headD x.ownPos, tstep := false }
    ((s.setSlot n x).toSlot n (bits w 29 3)).wr (F.TLY_Sn_STATE_MISS n) (bits w 16 8)

/-- A sawyer is taken up; one in a stall issues its instruction again, and one mid-delay starts its delay again (09). The copy names no
delay: a free value. -/
def State.takeSawyer (s : State) (m : SMap (List Nat)) (n : Nat) : State :=
  let b := m.getD (cpKey cpSawyer n) []
  let delay := if leAt b 1 1 = sRun then s.free % 16 else 0
  let s := s.draw
  let st := leAt b 1 1
  let words (off : Nat) : List Nat := (List.range (min 4 (leAt b (off + 16) 4))).map (fun k => leAt b (off + 4 * k) 4)
  let s := s.setSaw n { s.saw n with tx := words 24, rx := words 44, stamp := leAt b 88 12, edge := false, delay := delay }
  let s := ((s.toSaw n (if st = sStalled then sRun else st)).wrB (F.SAW_Sn_CTL_EN n) (st != sStopped)).wr (F.SAW_Sn_STATUS_PC n) (leAt b 2 2)
  let s := ((s.wr (F.SAW_Sn_X_VALUE n) (leAt b 4 4)).wr (F.SAW_Sn_Y_VALUE n) (leAt b 8 4)).wr (F.SAW_Sn_ISR_VALUE n) (leAt b 12 4)
  let s := ((s.wr (F.SAW_Sn_OSR_VALUE n) (leAt b 16 4)).wr (F.SAW_Sn_STATUS_ISRCNT n) (leAt b 20 1)).wr (F.SAW_Sn_STATUS_OSRCNT n) (leAt b 21 1)
  let s := ((s.wr (F.SAW_Sn_LC_LC n) (leAt b 22 2)).wr (F.SAW_Sn_DROP_DROP n) (leAt b 64 4)).wr64 (F.SAW_Sn_TALLY_LO_TALLY n) (F.SAW_Sn_TALLY_HI_TALLY n) (leAt b 68 8)
  ((s.wr64 (F.SAW_Sn_TCMP_LO_TCMP n) (F.SAW_Sn_TCMP_HI_TCMP n) (leAt b 76 8)).wr (F.SAW_Sn_STATUS_TRIG_PEND n) (leAt b 84 1)).wr
    (F.SAW_Sn_LC_F n) (leAt b 85 1)

/-- A context is restored in ERROR, with a record. -/
def State.takeContext (s : State) (m : SMap (List Nat)) (c : Nat) : State :=
  let b := (m.getD (cpKey cpContext c) []).drop 8
  let ctl := bits (leAt b 0 4) 0 28 + 6 * 2 ^ 28
  if bits (leAt b 0 4) 28 4 = 0 then s
  else
    ((s.store 6 (64 * c) (leBytes 4 ctl ++ bytesAt b 4 28)).store 6 (64 * c + 0x38) (bytesAt b 32 8)).boom
      { code := 0x1606, kind := 2, unit := c, data := 6 }

/-- Slices take their copied EN, with empty flumes. -/
def State.takeSlices (s : State) (ens : Nat) : State :=
  (List.range 48).foldl (fun t n =>
    if bit t.ported n then
      let t := if t.on (F.PSL_Sn_CTL_EN n) == bit ens n then t else t.sliceEnable n (bit ens n)
      t.setSlice n { t.slice n with rx := [], tx := [], fill := [], fillErr := false, fillAttr := false }
    else t) s

/-- The copied outputs: the image, field CMD values, normal values. -/
def State.takeOutputs (s : State) (b : List Nat) : State :=
  let n := s.alm.outLen
  let cmd := leAt b n 16
  let s := s.store 1 0x400 (bytesAt b 0 n)
  let s := (List.range 128).foldl (fun t k => if t.lineOut k then t.setCmd k (bit cmd k) else t) s
  (s.wr F.PSL_FL_OUT_LINES (leAt b (n + 16) 4)).takeSlices (leAt b (n + 20) 6)

/-- The standby takes up its last committed copy. -/
def State.takeCopy (s : State) : State :=
  let m := s.stt.shadow
  let since := ofFt96 (leAt (m.getD (cpKey cpHead 0) []) 8 12)
  let s := s.takeOutputs (m.getD (cpKey cpOutput 0) [])
  let s := (cpUnits cpTally m).foldl (fun t n => t.takeSlot m n) s
  let s := (cpUnits cpSawyer m).foldl (fun t n => t.takeSawyer m n) s
  let s := (cpUnits cpContext m).foldl (fun t c => t.takeContext m c) s
  s.takeCalendar m since

/-- GRANT: taken in SYNC, and by a standby whose report turned ineligible after it claimed; the image staged at a boundary of the same cycle
is applied at enable (R404). -/
def State.grantIn (s : State) : State :=
  let taken : Bool := s.role == roleSync || (s.role == roleUnsync && s.stt.claim.isSome && s.stt.committed.isSome)
  let s := s.answered
  if taken then
    let s := (s.raise F.STT_STATUS_FDRV).toRole roleTaking
    let img := if s.marked .boundaryPassed then s.stt.grantImage else none
    (s.setStt { s.stt with grantTime := s.now, grantImage := img }).takeCopy
  else s.boom { code := 0x1608, kind := 2, unit := s.self, data := s.role }

def execGrantReceived (src named : Fin 4096) (s : State) : Res := guarded s (fun s => s.refWord .tc4 src named State.grantIn)

/-! Fencing (R397) -/

/-- ACTIVE or TAKING becomes FENCED: fast lines keep their levels for FENCE_HOLD, bank keepers hold. -/
def State.becomeFenced (s : State) : State :=
  if s.role = roleActive ∨ s.role = roleTaking then
    let driven := packBits 32 (fun n => (s.fastPad n).isSome)
    let level := packBits 32 (fun n => s.fastPad n == some true)
    let pins := s.heldPins
    let s := s.keepAll.draw
    let s := { s with slc := { s.slc with fence := some (driven, level), fencePins := some pins } }
    let s := s.setStt { s.stt with resigning := false, starts := 0, shadow := [], committed := none }
    let s := (((s.wr F.STT_STATUS_FDRV 0).wr (portLfF 4) 0).wr F.STT_HREP_SNAP 0).wr F.STT_HREP_COPY 0
    (s.toRole roleFenced).raise F.STT_IRQ_FENCED
  else s

/-- FENCE from the referee. One that meets a hub its partner has fenced fences it too (R404). -/
def State.fenceIn (s : State) : State :=
  let s := s.becomeFenced
  if s.role = roleFenced then s.raise F.STT_STATUS_RFENCE else s

def execFenceReceived (src named : Fin 4096) (s : State) : Res := guarded s (fun s => s.refWord .tc4 src named State.fenceIn)

/-- FENCE_HOLD_EXPIRY. -/
def execFenceHoldExpiry (s : State) : Res := guarded s (fun s => { s with slc := { s.slc with fence := none, fencePins := none } })

/-- TWN_FENCE_N low (R146, R396); the HV die's keepers see it whatever the main die's supply (R13). -/
def execTwnFenceNFall (s : State) : Res :=
  guardedVigil s (fun s =>
    let s := ((s.raise F.STT_STATUS_FENCE_IN).raise F.FLD_STATUS_FENCE).keepAll
    if s.pwr.standby then s else s.becomeFenced)

/-- TWN_FENCE_N high. -/
def execTwnFenceNRise (s : State) : Res :=
  guardedVigil s (fun s => (s.wr F.STT_STATUS_FENCE_IN 0).wr F.FLD_STATUS_FENCE 0)

/-! DESIGNATE and REFUSE -/

def State.designateIn (s : State) : State :=
  if s.role = roleUnsync then
    let s := s.answered
    (s.setStt { s.stt with starts := 0, base := [], sent := [] }).toRole roleActive
  else s

def execDesignateReceived (src named : Fin 4096) (s : State) : Res :=
  guarded s (fun s => s.refWord .tc4 src named State.designateIn)

def State.refuseIn (s : State) : State := s.answered.raise F.STT_IRQ_CLAIMREF

def execRefuseReceived (src named : Fin 4096) (s : State) : Res := guarded s (fun s => s.refWord .tc4 src named State.refuseIn)

/-- STT_REFCMD written with a whole command word. -/
def State.refcmdIn (s : State) (init : Initiator) (src w : Nat) : State :=
  s.refWord init src (bits w 16 12) (fun s =>
    match bits w 28 4 with
    | 1 => s.grantIn
    | 2 => s.fenceIn
    | 3 => s.designateIn
    | 4 => s.refuseIn
    | 5 => s.claim 5
    | _ => s)

/-! STT_CTL and the partner's report -/

/-- STT_CTL written. -/
def State.sttCtl (s : State) (init : Initiator) (resign resync frel : Bool) : State :=
  let active : Bool := s.role == roleActive
  if (resign && !active) || (frel && !active) || (resync && !s.twin) then s.refuseReg init F.STT_CTL_FREL.off 0x1602
  else
    let s := if frel then s.wr F.STT_STATUS_FDRV 0 else s
    let s := if resync && active then s.setStt { s.stt with wantFull := true } else s
    (if resign then s.resign else s).ack

def execResign (init : Initiator) (s : State) : Res := guarded s (fun s => s.sttCtl init true false false)
def execResync (init : Initiator) (s : State) : Res := guarded s (fun s => s.sttCtl init false true false)
def execFrel (init : Initiator) (s : State) : Res := guarded s (fun s => s.sttCtl init false false true)

/-- STT_PEER_IN, from the partner only: the report shows in STT_PEER; one that says ELIG lets TWN_FDRV_N go (R402). The second report
since a copy was sent is that copy's own (notes/assumptions/26.md). -/
def State.peerIn (s : State) (init : Initiator) (src w : Nat) : State :=
  if !s.twin || src != s.partner then s.refuseReg init F.STT_PEER_IN_REPORT.off 0x1603
  else
    let s := [F.STT_PEER_ELIG, F.STT_PEER_SNAP, F.STT_PEER_HV, F.STT_PEER_ALM, F.STT_PEER_TIME, F.STT_PEER_TWINHASH, F.STT_PEER_COPY,
      F.STT_PEER_SERDES, F.STT_PEER_LOOP, F.STT_PEER_LOCKSTEP, F.STT_PEER_MBIST].foldl (fun t (f : Fld) => t.wr f (bits w f.lo 1)) s
    let n := s.stt.reports + 1
    let own : Bool := decide (2 ≤ n) && s.on F.STT_PEER_COPY
    let s := s.setStt { s.stt with reports := n, base := if own then s.stt.sent else s.stt.base }
    let s := if s.role = roleActive ∧ s.on F.STT_PEER_ELIG then s.wr F.STT_STATUS_FDRV 0 else s
    s.ack

/-! The harvest boundary on a twin (R396, R399, R405) -/

/-- The health report is written: ELIG only when every test bit, COPY, TWINHASH, TIME, ALM, HV and SNAP is 1. -/
def State.writeReport (s : State) (copied : Bool) : State :=
  let s := (s.wrB F.STT_HREP_COPY copied).wrB F.STT_HREP_LOCKSTEP (!s.stt.lockMiss)
  let s := (s.wrB F.STT_HREP_TIME s.timeLock).wrB F.STT_HREP_ALM s.almInForce
  let s := (s.wrB F.STT_HREP_HV (s.hvLink && s.on F.FLD_STATUS_FW_OK)).setStt { s.stt with lockMiss := false }
  let all := [F.STT_HREP_SNAP, F.STT_HREP_HV, F.STT_HREP_ALM, F.STT_HREP_TIME, F.STT_HREP_TWINHASH, F.STT_HREP_COPY, F.STT_HREP_SERDES,
    F.STT_HREP_LOOP, F.STT_HREP_LOCKSTEP, F.STT_HREP_MBIST].all s.on
  let was := s.on F.STT_HREP_ELIG
  let s := s.wrB F.STT_HREP_ELIG all
  if was && !all then s.raise F.STT_IRQ_ELIGLOST else s

/-- A standby loses its copy: a full one is needed (R396). -/
def State.toUnsync (s : State) : State :=
  if s.role = roleSync then ((s.wr F.STT_HREP_SNAP 0).wr F.STT_HREP_ELIG 0).toRole roleUnsync else s

/-- The boundary of a cycle on a standby: the copy that should have come, the report, the role. While no copy begins, the report's COPY
stays as it was, which lets a standby claim after two such boundaries (DEDUCED from R396 and R401: notes/assumptions/26.md). -/
def State.standbyBoundary (s : State) (cycle : Nat) : State :=
  let copied : Bool := s.stt.committed == some s.stt.boundary
  let begun := s.copyBegun
  let s := s.bump F.STT_STATUS_COPY_AGE
  let s := if begun && !copied then (s.bump F.STT_CNT0_COPYLATE).raise F.STT_IRQ_COPYLATE else s
  let x := s.stt
  let s := s.setStt { x with abandoned := if begun && !copied then x.abandoned + 1 else x.abandoned, absent := if begun then 0 else x.absent + 1 }
  let s := s.writeReport (if begun then copied else s.on F.STT_HREP_COPY)
  let s := if !(s.on F.STT_HREP_ELIG) ∨ 3 ≤ s.stt.abandoned then s.toUnsync
    else if s.role = roleUnsync then s.toRole roleSync else s
  let s := s.sendReport
  let s := if 2 ≤ s.stt.absent then s.claim 3 else s
  let quads := ((List.range 48).filter (fun n => s.pers n == 6)).map (fun n => (n, s.quadCount n))
  let sseqs := ((List.range 32).filter s.bound).map (fun n => (n, (s.slot n).ownSseq))
  s.setStt { s.stt with boundary := cycle, quadBase := quads, sseqBase := sseqs }

/-- The boundary of a cycle on a twin. -/
def State.twinBoundary (s : State) (cycle : Nat) : State :=
  match s.role with
  | 0 => s.setStt { s.stt with boundary := cycle }
  | 1 => s.standbyBoundary cycle
  | 2 => s.standbyBoundary cycle
  | 4 => (s.setStt { s.stt with boundary := cycle }).snapshot cycle
  | _ => s.setStt { s.stt with boundary := cycle }

/-! Self-tests of a standby (R405) -/

/-- STANDBY_SELF_TEST_START: loopback of one bank, or a margin scan of an idle port, in idle slots. -/
def execStandbySelfTestStart (bank : Option (Fin 16)) (port : Fin 8) (s : State) : Res :=
  guarded s (fun s =>
    if s.role ≠ roleUnsync ∧ s.role ≠ roleSync then s
    else match bank with
      | some b => if s.hvLink && s.fld.loopback.isNone then s.fldLb .yarder false (2 ^ b.val) else s
      | none =>
        if s.bom.test.isNone && !(scanExclusive s port) then { s with bom := { s.bom with test := some (2, port.val, true) } } else s)

end Sys2Proof.Machine
end

