-- ==== Sys2Proof/Machine/Dma.lean ====
section
/-! DEFINITION. Flow contexts and their engines: records, doorbells, commands, descriptors, translation, scheduling and faults (12 R336 to R348). -/

namespace Sys2Proof.Machine

def State.setDmx (s : State) (x : DmxState) : State := { s with dmx := x }
def State.setBrg (s : State) (x : BrgState) : State := { s with brg := x }

/-! Records (R336, R337) -/

/-- STATE codes. -/
def xOff : Nat := 0
def xIdle : Nat := 1
def xReady : Nat := 2
def xRunning : Nat := 3
def xSaving : Nat := 4
def xFaulted : Nat := 5
def xError : Nat := 6

/-- A field of a record: n bytes at an offset. -/
def State.ctx (s : State) (c off n : Nat) : Nat := s.le 6 (64 * c + off) n
def State.setCtx (s : State) (c off n v : Nat) : State := s.store 6 (64 * c + off) (leBytes n v)

def State.toCtx (s : State) (c st : Nat) : State := s.setCtx c 0 4 (s.ctx c 0 4 % 2 ^ 28 + st * 2 ^ 28)
def State.ctxTc (s : State) (c : Nat) : Nat := bits (s.ctx c 0 4) 24 3
def State.ctxPinned (s : State) (c : Nat) : Bool := bit (s.ctx c 0 4) 22
def State.ctxDone (s : State) (c : Nat) : Nat := s.ctx c 0x38 4
def State.ctxAcked (s : State) (c : Nat) : Nat := s.ctx c 0x3C 4
def State.ctxLen (s : State) (c : Nat) : Nat := s.ctx c 0x30 4
def State.ctxDctl (s : State) (c : Nat) : Nat := s.ctx c 0x34 4

/-- The form of R337. -/
def ctxForm (off len : Nat) : Bool :=
  decide (4 ≤ len) && decide (len ≤ 64) && len % 4 == 0 && off % 4 == 0 && off / 64 == (off + len - 1) / 64 && decide (off + len ≤ 0x40000)

/-- Whether a byte of a record is the hub's to write: STATE, DHEAD, FAULT, and the current descriptor from SRC on. -/
def ctxHubByte (k : Nat) : Bool := [0x1A, 0x1B, 0x1E, 0x1F].contains k || decide (0x20 ≤ k)

/-- The bytes a write leaves: the hub's own keep their values, as does STATE in the top bits of byte 3. -/
def ctxMerge (old new : List Nat) (lo : Nat) : List Nat :=
  (List.range new.length).map (fun j =>
    let o := old.getD j 0
    let n := new.getD j 0 % 256
    if ctxHubByte (lo + j) then o else if lo + j = 3 then o / 16 * 16 + n % 16 else n)

/-- A write to region 0x6; context 0 is never used, and its record holds what is written. -/
def State.contextWrite (s : State) (init : Initiator) (off : Nat) (bs : List Nat) : State :=
  if !(ctxForm off bs.length) || s.ctxState (off / 64) != xOff then s.refuse init (s.ownFa 6 off) 0x1307
  else (s.store 6 off (ctxMerge (s.bytes 6 off bs.length) bs (off % 64))).ack

/-- A read of region 0x6. -/
def State.contextRead (s : State) (init : Initiator) (off len : Nat) : State :=
  if ctxForm off len then s.give (s.bytes 6 off len) else s.refuse init (s.ownFa 6 off) 0x1307

/-! Engines -/

/-- The engine that holds a context. -/
def State.engineOf (s : State) (c : Nat) : Option Nat := (s.dmx.engines.find? (fun p => p.2.ctx == c)).map (·.1)

/-- An engine is freed. -/
def State.freeEngine (s : State) (e : Nat) : State :=
  (s.setDmx { s.dmx with engines := s.dmx.engines.erase e }).wr (F.DMX_Ee_BUSY e) 0

/-- Whatever engine holds a context is freed. -/
def State.releaseCtx (s : State) (c : Nat) : State :=
  match s.engineOf c with
  | some e => s.freeEngine e
  | none => s

/-- An engine's record changes. -/
def State.setEngine (s : State) (e : Nat) (x : Engine) : State := s.setDmx { s.dmx with engines := s.dmx.engines.insert e x }

/-! Descriptor rings (R338, R339) -/

/-- The fabric address of descriptor i of a context. -/
def State.descFa (s : State) (c i : Nat) : Nat := bits (s.ctx c 0x10 8) 5 51 * 32 + 32 * i

/-- The end of a region's populated extent (R23); that of port windows is judged where they are served, and that of the
host's mapped memory is no state of the hub (notes/assumptions/27.md). -/
def regionEnd (region : Nat) : Nat :=
  match region with
  | 0 => 2 ^ 40
  | 1 => 0x800
  | 2 => 0x70000
  | 3 => 0x8000
  | 4 => 0x400000
  | 5 => 0x100000
  | 6 => 0x40000
  | 7 => 0x40000
  | 15 => 2 ^ 40
  | _ => 0

/-- Region 0xF is served: the endpoint is active and its link up (R24, 0x120C). -/
def State.hostReached (s : State) : Bool := s.on F.BRG_STATUS_EP && s.on F.BRG_STATUS_DL_UP

/-- Why an access of a DMA engine to this hub's own region 0x4 or host window is refused (R23, R24). -/
def State.ownBad (s : State) (fa len : Nat) : Option Nat :=
  if regionEnd (bits fa 40 4) < fa % 2 ^ 40 + len then some 0x0005
  else if bits fa 40 4 = 0xF ∧ !s.hostReached then some 0x120C
  else none

/-- Bytes stored at this hub's own fabric address: region 0x4, or host memory; a refused write is discarded. -/
def State.ownStore (s : State) (fa : Nat) (bs : List Nat) : State :=
  if (s.ownBad fa bs.length).isSome then s
  else if bits fa 40 4 = 0xF then s.emit (.hostWrite (fa % 2 ^ 40) bs) else s.store (bits fa 40 4) (fa % 2 ^ 40) bs

/-- STATUS of descriptor i. -/
def State.setStatus (s : State) (c i v : Nat) : State := s.ownStore (s.descFa c i + 0x18) (leBytes 4 v)

/-- The index after i in a context's ring. -/
def State.nextDesc (s : State) (c i : Nat) : Nat := (i + 1) % (s.ctx c 0x18 2 + 1)

/-- The indexes from i to DTAIL. -/
def State.pendingDescs (s : State) (c : Nat) : Nat → Nat → List Nat
  | 0, _ => []
  | n + 1, i => if i = s.ctx c 0x1C 2 then [] else i :: s.pendingDescs c n (s.nextDesc c i)

/-- A context ends in ERROR with a code in STATUS. -/
def State.ctxFails (s : State) (c code : Nat) : State :=
  (((s.setStatus c (s.ctx c 0x1A 2) code).toCtx c xError).releaseCtx c).raise F.DMX_IRQ_ERROR

/-! Doorbells and commands (R339, R344) -/

/-- DMX_DB written. -/
def State.doorbell (s : State) (c tail : Nat) : State :=
  if c = 0 ∨ s.ctxState c = xOff then s
  else
    let s := s.setCtx c 0x1C 2 tail
    if s.ctxState c = xIdle ∧ s.ctx c 0x1A 2 ≠ tail then s.toCtx c xReady else s

def execDmxDb (context : Fin 4096) (tail : Fin 4096) (s : State) : Res := guarded s (fun s => (s.doorbell context tail).ack)

/-- Whether ENABLE takes a record (R341, R344). -/
def State.ctxValid (s : State) (c : Nat) : Bool :=
  let ctl := s.ctx c 0 4
  let d := s.descFa c 0
  !((c == s.dmx.hvCtx || decide (6 ≤ s.ctxTc c)) && !(s.ctxPinned c)) && !(bit ctl 21 && !(s.on F.BRG_STATUS_EP)) &&
    !(bit ctl 23 && bits ctl 0 8 == 0) && d / 2 ^ 44 == s.self && (bits d 40 4 == 4 || bits d 40 4 == 0xF)

/-- A context becomes IDLE by ABORT: pending descriptors get 0x130A, DHEAD := DTAIL. -/
def State.abortNow (s : State) (c : Nat) : State :=
  let s := (s.pendingDescs c 4096 (s.ctx c 0x1A 2)).foldl (fun t i => t.setStatus c i 0x130A) s
  let s := (s.setCtx c 0x1A 2 (s.ctx c 0x1C 2)).store 6 (64 * c + 0x30) (List.replicate 16 0)
  (s.setDmx { s.dmx with held := s.dmx.held.erase c, retries := s.dmx.retries.erase c }).toCtx c xIdle

/-- The unlocked entries of a context are dropped. -/
def State.inval (s : State) (c : Nat) : State :=
  s.setDmx { s.dmx with cache := s.dmx.cache.filter (fun (t : Translation) => t.ctx != c || t.locked) }

/-- A command on a context: the state after, and its code; none while ABORT waits for the save. -/
def State.dmxDo (s : State) (b op c : Nat) : State × Option Nat :=
  let st := s.ctxState c
  match op with
  | 1 => if c = 0 ∨ st ≠ xOff then (s, some 0x1307) else if s.ctxValid c then (s.toCtx c xIdle, some 0) else (s, some 0x1306)
  | 2 => if st = xFaulted then ((s.setDmx { s.dmx with held := s.dmx.held.erase c }).toCtx c xReady, some 0) else (s, some 0x1307)
  | 3 =>
    if st = xOff then (s, some 0x1307)
    else if st = xRunning ∨ st = xSaving then
      ((s.setDmx { s.dmx with aborts := s.dmx.aborts.insert c b }).toCtx c xSaving, none)
    else (s.abortNow c, some 0)
  | 4 => if st = xIdle ∨ st = xError then (s.toCtx c xOff, some 0) else (s, some 0x1307)
  | _ => (s.inval c, some 0)

/-- DMX_CMD written; an OP that the register does not give starts nothing. -/
def State.dmxCmd (s : State) (init : Initiator) (op c : Nat) (go : Bool) : State :=
  let b := bankOf init
  let s := (s.wr (F.DMX_CMD_OP b) op).wr (F.DMX_CMD_CTX b) c
  if go && decide (1 ≤ op) && decide (op ≤ 5) then
    match (s.resStart (RR.DMX_CMD_RES b)).dmxDo b op c with
    | (s, some code) => (s.resDone (RR.DMX_CMD_RES b) code).ack
    | (s, none) => s.ack
  else s.ack

def execEnable (init : Initiator) (context : Fin 4096) (s : State) : Res := guarded s (fun s => s.dmxCmd init 1 context true)
def execResume (init : Initiator) (context : Fin 4096) (s : State) : Res := guarded s (fun s => s.dmxCmd init 2 context true)
def execAbort (init : Initiator) (context : Fin 4096) (s : State) : Res := guarded s (fun s => s.dmxCmd init 3 context true)
def execDisable (init : Initiator) (context : Fin 4096) (s : State) : Res := guarded s (fun s => s.dmxCmd init 4 context true)
def execInval (init : Initiator) (context : Fin 4096) (s : State) : Res := guarded s (fun s => s.dmxCmd init 5 context true)

/-! Scheduling (R343) -/

/-- Whether context a outranks b. -/
def State.outranks (s : State) (a b : Nat) : Bool :=
  let da := s.ctx a 4 4
  let db := s.ctx b 4 4
  if s.ctxTc a ≠ s.ctxTc b then decide (s.ctxTc b < s.ctxTc a)
  else if da = db then decide (a < b)
  else if da = 0 then false
  else if db = 0 then true
  else newer 32 db da

/-- The best of a list of contexts by a measure of rank. -/
def bestBy (better : Nat → Nat → Bool) : List Nat → Option Nat
  | [] => none
  | c :: l => match bestBy better l with
    | some d => if better d c then some d else some c
    | none => some c

/-- The highest-ranked READY context, and the lowest-ranked RUNNING one. -/
def State.topReady (s : State) : Option Nat := bestBy s.outranks (s.liveContexts.filter (fun c => s.ctxState c == xReady))
def State.lowRunning (s : State) : Option Nat :=
  bestBy (fun a b => s.outranks b a) (s.liveContexts.filter (fun c => s.ctxState c == xRunning))

/-- ENGINE_TAKE_CONTEXT: a free engine takes the highest-ranked READY context; its descriptor is fetched when DONE = 0. -/
def execEngineTakeContext (engine : Fin 16) (s : State) : Res :=
  guarded s (fun s =>
    let e := engine.val
    if !(bit (s.rd F.DMX_CTL_ENG_EN) e) || (s.dmx.engines.get? e).isSome then s
    else match s.topReady with
      | none => s
      | some c =>
        let s := (s.toCtx c xRunning).setEngine e { ctx := c, fetched := s.ctxDone c != 0 }
        (s.raise (F.DMX_Ee_BUSY e)).wr (F.DMX_Ee_CTX e) c)

/-- Whether an engine that takes contexts is free. -/
def State.engineFree (s : State) : Bool :=
  (List.range 16).any (fun e => bit (s.rd F.DMX_CTL_ENG_EN) e && (s.dmx.engines.get? e).isNone)

/-- Whether an engine's running context is the lowest-ranked one, and outranked. -/
def State.preempted (s : State) (c : Nat) : Bool :=
  match s.topReady with
  | some d => !s.engineFree && s.outranks d c && s.lowRunning == some c
  | none => false

/-- PREEMPT: the lowest-ranked running context is outranked, or its engine is disabled. -/
def execPreempt (engine : Fin 16) (s : State) : Res :=
  guarded s (fun s =>
    match s.dmx.engines.get? engine with
    | none => s
    | some x =>
      if s.ctxState x.ctx ≠ xRunning then s
      else if !(bit (s.rd F.DMX_CTL_ENG_EN) engine) then s.toCtx x.ctx xSaving
      else if s.preempted x.ctx then (s.toCtx x.ctx xSaving).bump F.DMX_CNT0_PREEMPT
      else s)

/-! Faults (R345) -/

/-- The cause bytes as codes: 0x1300 + cause. A fault record of 32 bytes. -/
def State.faultRecord (s : State) (c : Nat) (f : HeldFault) : List Nat :=
  leBytes 2 c ++ [f.cause, b2n f.dest + 2 * b2n f.ahead] ++ leBytes 4 (s.ctxDone c) ++ leBytes 8 (f.va / 4096 * 4096) ++
    leBytes 2 (s.ctx c 0x1A 2) ++ [0, 0] ++ leBytes 12 s.stamp

/-- A context is FAULTED: record, FAULT field, interrupt, count; its engine is freed. -/
def State.ctxFaulted (s : State) (c : Nat) (f : HeldFault) : State :=
  let r := s.faultRecord c f
  let s := if s.dmx.queue.length < 64 then s.setDmx { s.dmx with queue := s.dmx.queue ++ [r] }
    else (s.bump F.DMX_FQ_LEVEL_OVF).raise F.DMX_IRQ_FQOVF
  let s := (s.setCtx c 0x1E 2 (f.cause * 256 + 128 * b2n f.dest)).setDmx { s.dmx with held := s.dmx.held.erase c }
  (((s.toCtx c xFaulted).releaseCtx c).raise F.DMX_IRQ_FAULT).bump F.DMX_CNT0_FAULT

/-- SAVE_COMPLETE: data already read has been written out (R343). -/
def execSaveComplete (engine : Fin 16) (s : State) : Res :=
  guarded s (fun s =>
    match s.dmx.engines.get? engine with
    | none => s
    | some x =>
      let c := x.ctx
      if s.ctxState c ≠ xSaving ∨ x.reading then s
      else match s.dmx.aborts.get? c with
        | some b =>
          let s := (s.setDmx { s.dmx with aborts := s.dmx.aborts.erase c }).freeEngine engine
          (s.abortNow c).resDone (RR.DMX_CMD_RES b) 0
        | none =>
          match s.dmx.held.get? c with
          | some f => s.ctxFaulted c f
          | none => (s.toCtx c xReady).freeEngine engine)

/-- DMX_FQ_POP. -/
def State.fqPop (s : State) : State := s.setDmx { s.dmx with queue := s.dmx.queue.tail }

def execDmxFqPop (s : State) : Res := guarded s (fun s => s.fqPop.ack)

/-! Addresses of a descriptor's ends (R338, R340, R341) -/

/-- A side's address at DONE, whether it is virtual. -/
def State.sideAddr (s : State) (c : Nat) (dest : Bool) : Nat := s.ctx c (if dest then 0x28 else 0x20) 8 + s.ctxDone c
def State.sideVirtual (s : State) (c : Nat) (dest : Bool) : Bool := bit (s.ctxDctl c) (if dest then 30 else 31)

/-- The translation of a virtual address. -/
def State.lookup (s : State) (c va : Nat) : Option Translation :=
  s.dmx.cache.find? (fun (t : Translation) => t.ctx == c && (if t.big then va / 2 ^ 21 == t.page / 512 else va / 4096 == t.page))

/-- Bytes of a translation's page, and the fabric address of an address in it. -/
def Translation.size (t : Translation) : Nat := if t.big then 2 ^ 21 else 4096
def Translation.at (t : Translation) (va : Nat) : Nat := t.fa + va % t.size

/-- Whether every page of a virtual range is in the pinned list. -/
def State.allPinned (s : State) (c va len : Nat) : Bool :=
  (List.range ((va % 4096 + len + 4095) / 4096)).all (fun k =>
    (s.lookup c (va / 4096 * 4096 + 4096 * k)).elim false (·.locked))

/-- Whether an end in a region is aligned as its access rules ask. -/
def endAligned (fa len : Nat) : Bool :=
  match bits fa 40 4 with
  | 0 => fa % 4 == 0 && len % 4 == 0
  | 2 => fa % 8 == 0 && len % 8 == 0
  | _ => true

/-! Descriptors (R338) -/

/-- The fabric address of an end, as far as it is known when the descriptor is fetched: a virtual one by its cached page (0 in region 0x4
where there is none: its region is judged by the access rules when it is reached). -/
def State.endFa (s : State) (c : Nat) (virt : Bool) (a : Nat) : Nat :=
  if virt then (s.lookup c a).elim (4 * 2 ^ 40) (·.at a) else a

/-- The code of a descriptor's check, 0 where it is good. -/
def State.descCode (s : State) (c : Nat) (d : List Nat) : Nat :=
  let src := leAt d 0 8
  let dst := leAt d 8 8
  let len := leAt d 16 4
  let dctl := leAt d 20 4
  let sva := bit dctl 31
  let dva := bit dctl 30
  let lq := bit dctl 28
  if bits dctl 0 23 ≠ 0 ∨ leAt d 28 4 ≠ 0 ∨ len = 0 ∨ 16777216 < len ∨ (!sva ∧ 2 ^ 56 ≤ src) ∨ (!dva ∧ 2 ^ 56 ≤ dst) ∨
      (lq ∧ (dva ∨ 2032 < len)) then 0x1306
  else if s.ctxPinned c ∧ ((sva ∧ !(s.allPinned c src len)) ∨ (dva ∧ !(s.allPinned c dst len))) then 0x1304
  else if !(endAligned (s.endFa c sva src) len) ∨ !(endAligned (s.endFa c dva dst) len) then 0x1308
  else 0

/-- The 32 bytes of a context's next descriptor: from this hub's region 0x4, or as host memory gives them. -/
def State.descBytes (s : State) (c : Nat) (host : List Nat) : List Nat :=
  let fa := s.descFa c (s.ctx c 0x1A 2)
  if bits fa 40 4 = 0xF then bytesAt host 0 32 else s.bytes (bits fa 40 4) (fa % 2 ^ 40) 32

/-- DESCRIPTOR_FETCH: `host` is what host memory holds there, where the ring lies in it. The previous descriptor is complete by then, so
that FENCE holds nothing back. A fetch that is refused ends the context with the code (R322). -/
def execDescriptorFetch (engine : Fin 16) (host : List Byte) (s : State) : Res :=
  guarded s (fun s =>
    match s.dmx.engines.get? engine with
    | none => s
    | some x =>
      let c := x.ctx
      if s.ctxState c ≠ xRunning ∨ x.fetched ∨ s.ctx c 0x1A 2 = s.ctx c 0x1C 2 then s
      else
        match s.ownBad (s.descFa c (s.ctx c 0x1A 2)) 32 with
        | some code => s.ctxFails c code
        | none =>
          let d := s.descBytes c (host.map BitVec.toNat)
          match s.descCode c d with
          | 0 => (s.store 6 (64 * c + 0x20) (bytesAt d 0 24 ++ List.replicate 8 0)).setEngine engine { x with fetched := true }
          | code => s.ctxFails c code)

/-- STATUS of the current descriptor is written and DHEAD advances; the next follows, or the context is IDLE (R339, R344). -/
def State.descDone (s : State) (c code : Nat) : State :=
  let i := s.ctx c 0x1A 2
  let dctl := s.ctxDctl c
  let ctl := s.ctx c 0 4
  let s := (s.setStatus c i (2 ^ 31 + code)).setCtx c 0x1A 2 (s.nextDesc c i)
  let s := s.store 6 (64 * c + 0x30) (List.replicate 16 0)
  let s := if bit dctl 29 then (if bit ctl 21 then s.emit (.msix (bits ctl 8 6)) else s.raise F.DMX_IRQ_DONE) else s
  match s.engineOf c with
  | none => s
  | some e =>
    if s.ctx c 0x1A 2 = s.ctx c 0x1C 2 then (s.toCtx c xIdle).freeEngine e
    else s.setEngine e { ctx := c, fetched := false }

/-- The doorbells of this cycle that follow: a completion of the same cycle takes their DTAIL (R347). -/
def State.doorbellFirst (s : State) (c : Nat) : State :=
  (s.pending.take s.together).foldl (fun t i =>
    match i with
    | .dmxDb d tail => if d.val = c then t.setCtx c 0x1C 2 tail else t
    | _ => t) s

/-- DESCRIPTOR_COMPLETE: every byte is acknowledged. -/
def execDescriptorComplete (context : Fin 4096) (s : State) : Res :=
  guarded s (fun s =>
    let c := context.val
    if s.ctxState c = xRunning ∧ s.ctxLen c ≠ 0 ∧ s.ctxAcked c = s.ctxLen c then (s.doorbellFirst c).descDone c 0 else s)

/-! Table walks (R340 to R342) -/

/-- A table entry read: this hub's region 0x4, or what host memory or another hub gives. -/
def State.tableEntry (s : State) (fa : Nat) (given : Option Nat) : Option Nat :=
  if fa / 2 ^ 44 = s.self ∧ (s.ownBad fa 8).isSome then none
  else if fa / 2 ^ 44 = s.self ∧ bits fa 40 4 = 4 then
    (if s.poisonedIn (memAddr 4 (fa % 2 ^ 40)) 8 then none else some (s.le 4 (fa % 2 ^ 40) 8))
  else given

/-- Whether an entry is valid: VALID, no reserved bit, and bits [20:12] 0 for a 2 MiB page. -/
def entryValid (level1 : Bool) (e : Nat) : Bool :=
  let leaf := bit e 1
  bit e 0 && bits e 56 8 == 0 && bits e 5 7 == 0 && (level1 || !leaf) && !(leaf && bits e 12 9 != 0)

/-- A page's translation, or a fault's cause. -/
def leafOf (c va : Nat) (big dest : Bool) (e : Nat) : Except Nat Translation :=
  if bit e (if dest then 2 else 3) then
    .ok { ctx := c, page := if big then va / 2 ^ 21 * 512 else va / 4096, big := big, fa := bits e 12 44 * 4096, r := bit e 3, w := bit e 2,
          locked := false }
  else .error 2

/-- A walk of a virtual address. -/
def State.walk (s : State) (c va : Nat) (dest : Bool) (given1 given2 : Option Nat) : Except Nat Translation :=
  if 2 ^ 36 ≤ va then .error 1
  else match s.tableEntry (bits (s.ctx c 8 8) 12 44 * 4096 + 8 * (va / 2 ^ 21)) given1 with
    | none => .error 3
    | some e1 =>
      if !(entryValid true e1) then .error 1
      else if bit e1 1 then leafOf c va true dest e1
      else match s.tableEntry (bits e1 12 44 * 4096 + 8 * (va / 4096 % 512)) given2 with
        | none => .error 3
        | some e2 => if entryValid false e2 then leafOf c va false dest e2 else .error 1

/-- An entry enters the cache of 512; the oldest unlocked one makes room (DESIGN CHOICE: notes/assumptions/27.md). -/
def cacheInsert (l : List Translation) (t : Translation) : List Translation :=
  if l.length < 512 then l ++ [t]
  else match l.findIdx? (fun (x : Translation) => !x.locked) with
    | some k => l.eraseIdx k ++ [t]
    | none => l

/-- A walk's outcome: an entry of the cache, or a fault that is held. -/
def State.walked (s : State) (c va : Nat) (dest ahead : Bool) (given1 given2 : Option Nat) : State :=
  let s := s.bump F.DMX_CNT1_WALK
  match s.walk c va dest given1 given2 with
  | .ok t => s.setDmx { s.dmx with cache := cacheInsert s.dmx.cache t }
  | .error cause => s.setDmx { s.dmx with held := s.dmx.held.insert c ⟨cause, dest, ahead, va⟩ }

/-- TABLE_WALK: an engine needs the page of a side's address at DONE. `given1` and `given2` are what table reads outside this hub's
region 0x4 return, none for an error or time-out. -/
def execTableWalk (engine : Fin 16) (dest : Bool) (given1 given2 : Option (BitVec 64)) (s : State) : Res :=
  guarded s (fun s =>
    match s.dmx.engines.get? engine with
    | none => s
    | some x =>
      let c := x.ctx
      let va := s.sideAddr c dest
      if s.ctxState c = xRunning ∧ x.fetched ∧ s.sideVirtual c dest ∧ s.ctxDone c < s.ctxLen c ∧ (s.lookup c va).isNone ∧
          (s.dmx.held.get? c).isNone then
        s.walked c va dest false (given1.map BitVec.toNat) (given2.map BitVec.toNat)
      else s)

/-- The next page of a side, when DONE is within 256 bytes of the end of the present one and the descriptor goes on there. -/
def State.aheadPage (s : State) (c : Nat) (dest : Bool) : Option Nat :=
  let va := s.sideAddr c dest
  match s.lookup c va with
  | none => none
  | some t =>
    let left := t.size - va % t.size
    if left ≤ 256 ∧ s.ctxDone c + left < s.ctxLen c then some (va + left) else none

/-- LOOKAHEAD_WALK; it goes on while the context is SAVING. -/
def execLookaheadWalk (engine : Fin 16) (dest : Bool) (given1 given2 : Option (BitVec 64)) (s : State) : Res :=
  guarded s (fun s =>
    match s.dmx.engines.get? engine with
    | none => s
    | some x =>
      let c := x.ctx
      match s.aheadPage c dest with
      | none => s
      | some va =>
        if x.fetched ∧ s.sideVirtual c dest ∧ (s.lookup c va).isNone ∧ (s.dmx.held.get? c).isNone then
          s.walked c va dest true (given1.map BitVec.toNat) (given2.map BitVec.toNat)
        else s)

/-- DMA_FAULT_EFFECT: a held fault takes effect when DONE reaches its page; a pre-emption of the same cycle saves the context first, and
the fault then takes effect at the save (R347). -/
def execDmaFaultEffect (engine : Fin 16) (s : State) : Res :=
  guarded s (fun s =>
    match s.dmx.engines.get? engine with
    | none => s
    | some x =>
      match s.dmx.held.get? x.ctx with
      | none => s
      | some f =>
        if s.preempted x.ctx ∧ s.ahead (fun i => i == .preempt engine) then s
        else if s.ctxState x.ctx = xRunning ∧ f.va / 4096 ≤ s.sideAddr x.ctx f.dest / 4096 then s.ctxFaulted x.ctx f else s)

/-! Acknowledgements and rewinds (R348) -/

/-- Tags of a context leave use for quarantine. -/
def State.dropDmaTags (s : State) (c : Nat) : State :=
  let mine (u : TagUse) : Bool := match u with
    | .dmaRead d _ => d == c
    | .dmaWrite d _ => d == c
    | _ => false
  let gone := (s.brg.tags.filter (fun p => mine p.2)).map (·.1)
  s.setBrg { s.brg with tags := s.brg.tags.filter (fun p => !(mine p.2)), quarantined := s.brg.quarantined ++ gone }

/-- An RSP to a write of n bytes: progress, whether or not the context is on an engine. -/
def State.dmaAcked (s : State) (c n : Nat) : State :=
  (s.setCtx c 0x3C 4 (min (s.ctxDone c) (s.ctxAcked c + n))).setDmx { s.dmx with retries := s.dmx.retries.erase c }

/-- A context ends in ERROR; one that is being aborted becomes IDLE instead (R344). -/
def State.ctxError (s : State) (c code : Nat) : State :=
  match s.dmx.aborts.get? c with
  | some b =>
    let s := (s.setDmx { s.dmx with aborts := s.dmx.aborts.erase c }).releaseCtx c
    (s.abortNow c).resDone (RR.DMX_CMD_RES b) 0
  | none => s.ctxFails c code

/-- DMA_ACK_RSP: an RSP with the tag of a DMA write. -/
def execDmaAckRsp (tag : Fin 256) (s : State) : Res :=
  guarded s (fun s =>
    match s.brg.tags.get? tag with
    | some (.dmaWrite c n) => (s.setBrg { s.brg with tags := s.brg.tags.erase tag }).dmaAcked c n
    | _ => s)

/-- A context goes back to what has been acknowledged. -/
def State.ctxRewind (s : State) (c : Nat) : State :=
  if s.ctxAcked c < s.ctxDone c then ((s.setCtx c 0x38 4 (s.ctxAcked c)).bump F.DMX_CNT1_REWIND).raise F.DMX_IRQ_REWIND else s

/-- Try n of a context that makes no progress. -/
def State.ctxRetry (s : State) (c n : Nat) : State :=
  if s.rd F.DMX_TMO_DMA_RETRY < n then (s.setDmx { s.dmx with retries := s.dmx.retries.erase c }).ctxError c 0x1305
  else (s.setDmx { s.dmx with retries := s.dmx.retries.insert c n }).ctxRewind c

/-- A read of a context is issued again. -/
def State.ctxReissue (s : State) (c : Nat) : State :=
  match s.engineOf c with
  | some e => s.setEngine e { ctx := c, fetched := true }
  | none => s

/-- DMA_TMO_REWIND: no progress for DMA_TMO; a lost read is issued again under the same count. -/
def execDmaTmoRewind (context : Fin 4096) (s : State) : Res :=
  guarded s (fun s =>
    let c := context.val
    let st := s.ctxState c
    let reading : Bool := s.dmx.engines.any (fun p => p.2.ctx == c && p.2.reading)
    if !([xReady, xRunning, xSaving].contains st) || decide (4 ≤ s.ctxTc c) || !(decide (s.ctxAcked c < s.ctxDone c) || reading) then s
    else ((s.dropDmaTags c).ctxReissue c).ctxRetry c (s.dmx.retries.getD c 0 + 1))

end Sys2Proof.Machine
end

