-- ==== Sys2Proof/Machine/Power.lean ====
section
/-!
DEFINITION. The power governor, reload lists and STANDBY (16 R427 to R437). The end of a wake, which writes registers, is in
Wake.lean.
-/

namespace Sys2Proof.Machine

/-! What R431 says of each unit -/

/-- What a unit allows: held in HIBERNATE, never idle, or idle down to a state. -/
inductive Depth where
  | held
  | never
  | upTo (state : Nat)
  deriving DecidableEq, Repr

/-- Whether pin A+k of a personality receives (R176, R454); pin D of a UART receives with DUPLEX 0b01. -/
def receives (pers duplex k : Nat) : Bool :=
  match pers with
  | 1 => k == 1 || (k == 3 && duplex == 1)
  | 2 => k == 2
  | 3 => k != 2
  | 4 => decide (k < 2)
  | 5 => k == 1
  | 6 => decide (k < 3)
  | 7 => k == 2
  | _ => false

/-- Whether every input pin of a slice's personality has wake-on-edge. -/
def State.sliceWoe (s : State) (n : Nat) : Bool :=
  (List.range 4).all (fun k =>
    !(bit (s.rd (F.PSL_Sn_CFG_PINS n)) k && receives (s.pers n) (s.rd (F.PSL_UART_P0_DUPLEX n)) k) ||
      bit (s.rd (F.PWR_Sn_CFG_WOE (slicePower n))) (4 * (n % 4) + k))

/-- A port slice. -/
def State.sliceDepth (s : State) (n : Nat) : Depth :=
  let x := s.slice n
  let rxEmpty := x.rx.isEmpty && x.fill.isEmpty
  let flume : Depth :=
    if x.rxBusy || x.sending || !x.tx.isEmpty || x.start then .never
    else if !(s.sliceWoe n) then .upTo pDoze
    else if rxEmpty then .upTo pHibernate
    else .upTo pNap
  if !(bit s.ported n) then .held
  else if !(s.on (F.PSL_Sn_CTL_EN n)) then .upTo (if rxEmpty && x.tx.isEmpty then pHibernate else pNap)
  else
    match s.pers n with
    | 1 => flume
    | 2 => flume
    | 3 => flume
    | 4 => flume
    | 5 => if x.sending || x.start then .never else .upTo pNap
    | 6 => .never
    | 7 => if s.on (F.PSL_PULSE_P5_RUN n) then .never else .upTo pNap
    | 8 => if s.iol n = iolInactive then flume else .never
    | _ => .upTo pNap

/-- A CAN channel. -/
def State.canDepth (s : State) (c : Nat) : Depth :=
  let x := s.canSt c
  let pending := (List.range 64).any (fun b => s.statBit c b stPend)
  if !(bit s.canned c) then .held
  else if s.on (F.CAN_Cc_CTL_EN c) then
    if pending || !x.remote.isEmpty || x.sof.isSome then .never
    else .upTo (if bit (s.rd (F.PWR_Sn_CFG_WOE (canPower c))) (c % 4) then pNap else pDoze)
  else if pending || (List.range 64).any (fun b => s.statBit c b stFull) || !x.deferred.isEmpty || !x.remote.isEmpty ||
      !x.fifo0.isEmpty || !x.fifo1.isEmpty then .upTo pNap
  else .upTo pHibernate

/-- Whether a stalled sawyer's wait allows NAP. -/
def State.stallNaps (s : State) (n : Nat) : Bool :=
  let woe (k : Nat) : Bool := bit (s.rd (F.PWR_Sn_CFG_WOE (sawPower n))) k
  match decodeSaw (s.sawFetch n) with
  | some (.wait src _ _ _ index) =>
    if src = 0 then woe index
    else if src = 1 then woe index
    else src == 3 || src == 4
  | _ => false

/-- A grove and its sawyers. -/
def State.groveDepth (s : State) (g : Nat) : Depth :=
  let ns := (List.range 8).map (8 * g + ·)
  if !(ns.any (fun n => (s.saw n).used)) then .held
  else if ns.any (fun n => s.sawState n == sRun) then .never
  else if ns.all (fun n => s.sawState n != sStalled || s.stallNaps n) then .upTo pNap
  else .upTo pDoze

/-- What unit j of power slice n allows, for each of its units (R427, R431). -/
def State.depths (s : State) (n : Nat) : List Depth :=
  if n < 12 then (List.range 4).map (fun j => s.sliceDepth (4 * n + j))
  else if n < 16 then (List.range 4).map (fun j => s.canDepth (4 * (n - 12) + j))
  else if n < 32 then [s.groveDepth (n - 16)]
  else if n < 40 then [if s.nextJob.isNone && s.sec.ops.isEmpty then .upTo pNap else .never]
  else if n < 48 then [if (s.dmx.engines.map Prod.fst).any (fun e => e / 2 == n - 40) then .never else .upTo pNap]
  else if n < 56 then [if portUsed s (n - 48) then .never else .held]
  else if n = 56 then [if s.on F.BRG_STATUS_EP then .never else .held]
  else if n = 57 then [if s.on F.GLB_CTL_PAIR1_REL then .never else .held]
  else []

/-- Whether R431 holds the power slice in HIBERNATE. -/
def State.powerHeld (s : State) (n : Nat) : Bool := (s.depths n).all (· == .held)

/-- The power slice of a Calendar entry's target, if it has one. -/
def CalEntry.power (e : CalEntry) : Option Nat :=
  if e.kind = 3 then some (sawPower e.unit)
  else if e.kind = 5 then some (canPower e.unit)
  else if e.kind = 6 then some (slicePower e.unit)
  else none

/-- The deepest state that MAXST and the units allow, if all are idle. -/
def State.deepest (s : State) (n : Nat) : Option Nat :=
  let cap := s.rd (F.PWR_Sn_CFG_MAXST n)
  let due := s.sch.entries.any (fun p => (p.2.state == cCommitted || p.2.state == cPulsing) && p.2.power == some n)
  (s.depths n).foldl (fun (m : Option Nat) d => m.bind (fun m => match d with
    | .held => some m
    | .never => none
    | .upTo st => some (min m st))) (some (if due then min cap pDoze else cap))

/-! N (R430) -/

/-- Harvest instants to come: the next cycle start and the next boundary. -/
def State.nextCycleStart (s : State) : Nat := s.ring.harvest.start + ns16 (250 * s.rd F.CRL_HPER_VALUE)
def State.nextBoundary (s : State) : Nat :=
  let b := s.ring.harvest.start + ns16 (250 * s.rd F.CRL_HAPPLY_VALUE)
  if s.ring.harvest.closed then b + ns16 (250 * s.rd F.CRL_HPER_VALUE) else b

/-- The power slice of a point's unit. -/
def Point.power (p : Point) : Option Nat :=
  if p.kind = 3 ∨ p.kind = 5 then some (slicePower p.unit)
  else if p.kind = 4 then some (canPower p.unit)
  else if p.kind = 7 then some (sawPower p.unit)
  else none

/-- Instants of the Calendar. -/
def State.calEvents (s : State) (n : Nat) : List Nat :=
  (s.sch.entries.filter (fun p => p.2.power == some n)).filterMap (fun p =>
    if p.2.state = cArmed then some (p.2.inst - s.window p.2)
    else if p.2.state = cCommitted then some p.2.inst
    else if p.2.state = cPulsing then some (p.2.inst + ns16 p.2.param)
    else none)

/-- Instants of the harvest. -/
def State.harvestEvents (s : State) (n : Nat) : List Nat :=
  if s.harvestRuns then
    (s.alm.points.filter (fun p => p.power == some n)).map (fun p => if p.output then s.nextBoundary else s.nextCycleStart)
  else []

/-- Predicted instants of the sawyers' waits on tallies. -/
def State.waitEvents (s : State) (n : Nat) : List Nat :=
  if n < 16 ∨ 32 ≤ n then []
  else
    ((List.range 8).map (8 * (n - 16) + ·)).filterMap (fun i =>
      if s.sawState i = sStalled then
        match decodeSaw (s.sawFetch i) with
        | some (.wait 4 pol addx _ slot) =>
          s.slotTimeOf slot ((s.sawThreshold i addx : Int) : Rat) (if pol then 0 else 1) (s.now + s.horizon slot)
        | _ => none
      else none)

/-- Instants of SSI transfers: the next tally sampling instant, or PERIOD after the last latch. -/
def State.ssiEvents (s : State) (n : Nat) : List Nat :=
  if 12 ≤ n then []
  else
    ((List.range 4).map (4 * n + ·)).filterMap (fun i =>
      if s.on (F.PSL_Sn_CTL_EN i) ∧ s.pers i = 5 then
        if s.rd (F.PSL_SSI_P0_TRIG i) = 0 then some s.nextCycleStart
        else if s.rd (F.PSL_SSI_P0_TRIG i) = 2 then some ((s.slice i).edgeTs + us16 (s.rd (F.PSL_SSI_P1_PERIOD i)))
        else none
      else none)

/-- N: the earliest next known event. -/
def State.nextEvent (s : State) (n : Nat) : Option Nat :=
  (s.calEvents n ++ s.harvestEvents n ++ s.waitEvents n ++ s.ssiEvents n).foldl
    (fun (m : Option Nat) t => some (match m with | some a => min a t | none => t)) none

/-- Longest wake times, in ns (R428). -/
def wakeNs (st : Nat) : Nat := if st = pDoze then 20 else if st = pNap then 2000 else if st = pHibernate then 80000 else 0

/-- Whether a state meets the last condition of R429. -/
def State.wakesInTime (s : State) (n st : Nat) : Bool :=
  match s.nextEvent n with
  | some t => decide (s.now + ns16 (wakeNs st + 10 * s.rd F.PWR_GUARD_GUARD) ≤ t)
  | none => true

/-! The governor (R429) -/

/-- The pins of the units of a power slice. -/
def State.powerPins (s : State) (n : Nat) : List Nat :=
  if n < 32 then (List.range 192).filter (fun i => s.pinPower (i / 4) (i % 4) == n) else []

/-- The pins keep what they carry (R428). -/
def State.keepPins (s : State) (n : Nat) : State :=
  { s with pwr := { s.pwr with
      pins := (s.powerPins n).foldl (fun (m : SMap PinDrive) i => m.insert i (s.slicePin (i / 4) (i % 4))) s.pwr.pins } }

/-- Entry to a sleeping state: counted; the pins keep their levels; NAP stamps the retained state with RSEQ (R434). -/
def State.sleep (s : State) (n st : Nat) : State :=
  let s := (s.keepPins n).toPower n st
  if st = pDoze then s.bump (F.PWR_Sn_CNT_DOZE n)
  else if st = pNap then
    { s.bump (F.PWR_Sn_CNT_NAP n) with
      pwr := { s.pwr with stamps := s.pwr.stamps.insert n (s.rd (F.PWR_Sn_STAT_RSEQ n)) } }
  else s.bump (F.PWR_Sn_CNT_HIB n)

/-- The state the governor chooses for an idle power slice: the deepest of those that meet R429. -/
def State.sleepState (s : State) (n : Nat) : Option Nat :=
  (s.deepest n).bind (fun d => ([pHibernate, pNap, pDoze].filter (fun st => decide (st ≤ d) && s.wakesInTime n st)).head?)

/-- Work for a power slice, or an edge that R432 allows, falls in this cycle: it goes before an entry (R436). -/
def State.rousedNow (s : State) (n : Nat) : Bool :=
  s.marked (.roused n) || s.ahead (fun i => match i with
    | .wakeStart k => k.val == n
    | .wakeOnEdge k pin => k.val == n && bit (s.rd (F.PWR_Sn_CFG_WOE n)) pin
    | _ => false)

/-- A power slice has become idle. -/
def State.powerIdle (s : State) (n : Nat) : State :=
  if !(s.powered n) || s.rousedNow n then s
  else if s.powerHeld n then s.sleep n pHibernate
  else if !(s.on F.PWR_CTL_GOV_EN) then s
  else match s.sleepState n with
    | some st => s.sleep n st
    | none => s

def execPowerSliceIdle (slice : Fin 64) (s : State) : Res := guarded s (fun s => s.powerIdle slice)

/-- A wake starts, of a power slice that R431 does not hold in HIBERNATE. -/
def State.wakeStart (s : State) (n : Nat) : State := if s.powerHeld n then s else (s.wake n).mark (.roused n)

def execWakeStart (slice : Fin 64) (s : State) : Res := guarded s (fun s => s.wakeStart slice)

/-- An edge on a pin (R432). -/
def execWakeOnEdge (slice : Fin 64) (pin : Fin 16) (s : State) : Res :=
  guarded s (fun s => if bit (s.rd (F.PWR_Sn_CFG_WOE slice)) pin then s.wakeStart slice else s)

/-! Reload lists (R435) -/

/-- The header of a reload list. -/
def State.listValid (s : State) (n off : Nat) : Bool :=
  let h := s.bytes 4 (8 * off) 16
  leAt h 0 4 == 0xA1524C44 && leAt h 4 1 == n && leAt h 5 1 == s.rd (F.PWR_Sn_STAT_RSEQ n) && decide (leAt h 6 2 ≤ 2048)

/-- A write of PWR_Sn_LIST. -/
def State.listWrite (s : State) (init : Initiator) (n off : Nat) : State :=
  let s := s.mark (.listWas n (s.rd (F.PWR_Sn_LIST_OFFSET n)) (s.on (F.PWR_Sn_STAT_LISTOK n)))
  let s := (s.wr (F.PWR_Sn_LIST_OFFSET n) off).ack
  if s.listValid n off then s.raise (F.PWR_Sn_STAT_LISTOK n)
  else ((s.wr (F.PWR_Sn_STAT_LISTOK n) 0).raise F.PWR_IRQ_LISTBAD).capture init (s.ownFa 0 (F.PWR_Sn_LIST_OFFSET n).off) 0x1703

def execPwrListWrite (init : Initiator) (slice : Fin 64) (off : BitVec 22) (s : State) : Res :=
  guarded s (fun s => s.listWrite init slice off.toNat)

/-! STANDBY (R437) -/

/-- Whether entry is refused. -/
def State.standbyRefused (s : State) : Bool :=
  (List.range 7).any (fun p => !(portDown s p)) || s.role == roleActive || s.role == roleTaking

/-- Every waiting Boom record is written. -/
def State.boomOut (s : State) : State :=
  s.bom.queue.foldl (fun t r => t.boomWrite r) { s with bom := { s.bom with queue := [] } }

/-- Every engine stops. -/
def State.stopEngines (s : State) : State :=
  let s := (List.range 48).foldl (fun t n => if t.on (F.PSL_Sn_CTL_EN n) then t.sliceStop n else t) s
  let s := (List.range 16).foldl (fun t c => if t.on (F.CAN_Cc_CTL_EN c) then t.canEnable c false else t) s
  (List.range 128).foldl (fun t n => if t.on (F.SAW_Sn_CTL_EN n) then t.sawEnable n false else t) s

/-- A write of PWR_CTL. The supplies go, and with them the HV link. -/
def State.pwrCtl (s : State) (standby : Bool) : State :=
  if !standby then s
  else
    let s := s.resStart RR.PWR_RES
    if s.standbyRefused then s.resDone RR.PWR_RES 0x1702
    else
      let s := (s.resDone RR.PWR_RES 0).boomOut.stopEngines
      let s := if s.hvLink then s.hvLinkLost 0 else s
      { s with pwr := { s.pwr with standby := true, since := s.clk } }

def execStandby (s : State) : Res := guarded s (fun s => (s.pwrCtl true).ack)

end Sys2Proof.Machine
end

