-- ==== Sys2Proof/Machine/AlmCheck.lean ====
section
/-! DEFINITION. The consistency check of an Almanac image (03 R48 to R63, R482, R483), with the section bodies of the block chapters. -/

namespace Sys2Proof.Machine

/-! Sections -/

/-- The number of n bytes at an offset of a section's body. -/
def Section.at (x : Section) (off n : Nat) : Nat := leAt x.body off n

/-- A section of a structure. -/
def sectionOf (l : List Section) (typ inst : Nat) : Option Section := l.find? (fun (x : Section) => x.typ == typ && x.inst == inst)

/-- The instance of a global section. -/
def globalInst : Nat := 0xFFFF

/-- The global section of a type; an absent one reads as an empty body. -/
def globalOf (l : List Section) (typ : Nat) : Section := (sectionOf l typ globalInst).getD ⟨typ, globalInst, 0, 0, []⟩

/-- Section types of R53. -/
def tBoard : Nat := 0x01
def tPoints : Nat := 0x02
def tSluice : Nat := 0x03
def tSwitch : Nat := 0x04
def tCalendar : Nat := 0x05
def tTally : Nat := 0x06
def tBridge : Nat := 0x07
def tPower : Nat := 0x08
def tFault : Nat := 0x09
def tSecurity : Nat := 0x0A
def tTime : Nat := 0x0B
def tRing : Nat := 0x0C
def tStation : Nat := 0x0D
def tPort : Nat := 0x10
def tGrove : Nat := 0x11
def tCanch : Nat := 0x12
def tBank : Nat := 0x13
def tFast : Nat := 0x14

/-- Whether a type is global, and whether it is per port. -/
def isGlobal (t : Nat) : Bool := decide (1 ≤ t) && decide (t ≤ 0x0D)
def isPort (t : Nat) : Bool := decide (0x10 ≤ t) && decide (t ≤ 0x14)

/-- The first instance of a per-port type, and how many there are. -/
def portRange (t : Nat) : Nat × Nat :=
  if t = tPort then (0, 48)
  else if t = tCanch then (0x100, 16)
  else if t = tBank then (0x200, 16)
  else if t = tFast then (0x300, 32)
  else (0x400, 16)

/-- The unit that an instance names, counted from 0. -/
def unitOf (t inst : Nat) : Nat := inst - (portRange t).1

/-- The sections of a per-port type with their units. -/
def portsOf (l : List Section) (t : Nat) : List (Nat × Section) :=
  (l.filter (fun (x : Section) => x.typ == t)).map (fun (x : Section) => (unitOf t x.inst, x))

/-- The per-port section of a unit. -/
def portSection (l : List Section) (t n : Nat) : Option Section := sectionOf l t ((portRange t).1 + n)

/-- A type and version that stepping C0 recognises (R52, R53); the versions are the implementation's (log entry 8). -/
def knownSection (t sver : Nat) : Bool := (isGlobal t || isPort t) && sver == Config.sectionVersion t

/-- A known section's body length (R483). -/
def bodyLength (x : Section) : Nat :=
  let t := x.typ
  if t = tBoard then 64
  else if t = tPoints then 8 + 8 * x.at 4 2
  else if t = tSluice then 3408
  else if t = tSwitch then 112
  else if t = tCalendar then 16
  else if t = tTally then 8 + 48 * x.at 0 1
  else if t = tBridge then 48 + 8 * x.at 1 1 + 24 * x.at 2 1
  else if t = tPower then 272
  else if t = tFault then 72
  else if t = tSecurity then 272 + 16 * x.at 8 2
  else if t = tTime then 72
  else if t = tRing then 64
  else if t = tStation then 32
  else if t = tPort then 72
  else if t = tGrove then 520 + (4 * (x.at 0 2 % 1024) + 7) / 8 * 8
  else if t = tCanch then 5536
  else if t = tBank then 64
  else 8

/-! Findings: whether a rule is broken, its code, the offset in the body -/

abbrev Finding := Bool × Option Nat × Nat

def bad (b : Bool) (code off : Nat) : Finding := (b, some code, off)

/-- Bytes that must be 0. -/
def Section.zero (x : Section) (off n : Nat) : Finding := bad (x.at off n != 0) 0x0116 off

/-- A field outside its range. -/
def Section.range (x : Section) (off n lo hi : Nat) (code : Nat := 0x0116) : Finding :=
  bad (decide (x.at off n < lo) || decide (hi < x.at off n)) code off

/-- A field with bits outside a mask of its low bits. -/
def Section.low (x : Section) (off n w : Nat) : Finding := bad (decide (2 ^ w ≤ x.at off n)) 0x0116 off

/-- A word that the register at an offset could not hold. -/
def Section.reg (x : Section) (off reg : Nat) (pers : Nat := 0) : Finding := bad (!(wordFits reg pers (x.at off 4))) 0x0116 off

/-- Entries of a section: their numbers and offsets. -/
def entries (base size n : Nat) : List (Nat × Nat) := (List.range n).map (fun i => (i, base + size * i))

/-- Whether no pair of list entries, the first before the second, meets a test. -/
def anyPair {α : Type} (p : α → α → Bool) : List α → Bool
  | [] => false
  | a :: l => l.any (p a) || anyPair p l

/-! Rules within each section (step 4) -/

def checkBoard (x : Section) : List Finding :=
  [x.range 0 1 0 1, x.range 1 1 0 1, x.range 2 1 1 1, x.zero 3 1, x.range 6 2 1 10000, x.zero 8 8] ++
    ((entries 0x10 4 8).flatMap (fun e => [x.range e.2 1 0 1, x.range (e.2 + 1) 1 0 15, x.range (e.2 + 2) 1 0 31,
      x.range (e.2 + 3) 1 0 15])) ++ [x.zero 0x30 16]

/-- The point entry at an offset (R56). -/
def pointAt (x : Section) (off : Nat) : Point :=
  let e := x.at off 8
  { kind := bits e 56 8, unit := bits e 48 8, sub := bits e 32 16, output := bit e 31, width := bits e 24 6 + 1, bitoff := bits e 0 13 }

/-- The points of a POINTMAP section. -/
def pointsOf (x : Section) : List Point := (entries 8 8 (x.at 4 2)).map (fun e => pointAt x e.2)

def inLenOf (x : Section) : Nat := x.at 0 2
def outLenOf (x : Section) : Nat := x.at 2 2

def checkPoints (x : Section) : List Finding :=
  let order (p : Point) : Nat := b2n p.output * 8192 + p.bitoff
  let es := entries 8 8 (x.at 4 2)
  [bad (decide (inLenOf x < 8) || decide (1024 < inLenOf x) || inLenOf x % 8 != 0) 0x0128 0,
    bad (decide (1024 < outLenOf x) || outLenOf x % 8 != 0) 0x0128 2, x.zero 6 2] ++
    es.flatMap (fun e =>
      let p := pointAt x e.2
      let w := x.at e.2 8
      let q := pointAt x (e.2 - 8)
      let follows := decide (1 ≤ e.1) && q.output == p.output
      let len := if p.output then outLenOf x else inLenOf x
      [bad (p.kind == 0 || decide (7 < p.kind)) 0x0116 e.2,
        bad (bit w 30 || bits w 13 11 != 0) 0x0116 e.2,
        bad (decide (1 ≤ e.1) && decide (order p < order q)) 0x0113 e.2,
        bad (follows && decide (p.bitoff < q.bitoff + q.width)) 0x0126 e.2,
        bad ((!p.output && decide (p.bitoff < 64)) || decide (8 * len < p.bitoff + p.width)) 0x0126 e.2])

def checkSluice (x : Section) : List Finding :=
  (entries 0xC00 8 32).flatMap (fun e => [x.range (e.2 + 6) 1 0 2, x.range (e.2 + 7) 1 0 1]) ++
    (entries 0xD00 1 64).map (fun e => x.range e.2 1 0 15) ++ (entries 0xD40 1 8).map (fun e => x.range e.2 1 0 127) ++
    (entries 0xD48 1 4).map (fun e => x.range e.2 1 0 31) ++ [x.range 0xD4C 2 1 0xFFFF, x.zero 0xD4E 2]

def checkSwitch (pos : Nat) (x : Section) : List Finding :=
  let guar := ((List.range 8).map (fun c => x.at (8 * c) 4)).foldl (· + ·) 0
  (entries 0 8 8).flatMap (fun e => [x.range e.2 4 0 98304, x.range (e.2 + 4) 4 0 98304]) ++
    [bad (decide (98304 < guar)) 0x012A 0, bad (decide (x.at 56 4 < 2048)) 0x012A 56] ++
    (entries 0x40 1 4).map (fun e => x.range e.2 1 1 255) ++
    (entries 0x44 1 5).flatMap (fun e =>
      [bad (bits (x.at e.2 1) 4 3 != 0 || (e.1 == pos && x.at e.2 1 != 0)) 0x0116 e.2,
        bad (bit (x.at e.2 1) 7 && decide (14 ≤ x.at e.2 1 % 16)) 0x012B e.2]) ++
    [x.low 0x49 1 2, bad (x.at 0x4A 2 != 0 && (decide (x.at 0x4A 2 < 64) || decide (2048 < x.at 0x4A 2))) 0x0116 0x4A,
      bad (decide (2 ^ 14 ≤ x.at 0x4C 2)) 0x012B 0x4C, bad (decide (2 ^ 14 ≤ x.at 0x4E 2)) 0x012B 0x4E,
      bad (bits (x.at 0x50 2) 12 3 != 0 || (bit (x.at 0x50 2) 15 && bits (x.at 0x50 2) 0 12 == 0)) 0x0116 0x50, x.low 0x52 2 12,
      x.range 0x54 4 0 98304] ++
    (entries 0x58 1 16).map (fun e => bad (bits (x.at e.2 1) 3 4 != 0) 0x0116 e.2) ++ [x.zero 0x68 8]

/-- Partition sizes of a CALENDAR section. -/
def partSizes (x : Section) : List Nat := (List.range 6).map (fun k => x.at (2 * k) 2)

def checkCalendar (x : Section) : List Finding :=
  [bad (decide (8192 < (partSizes x).foldl (· + ·) 0)) 0x012C 0, x.range 0xC 1 1 200, x.range 0xD 1 0 1, x.zero 0xE 2]

/-- Highest unit number of a tally source (R89). -/
def srcUnits (src : Nat) : Nat :=
  if src = 1 ∨ src = 2 then 47 else if src = 3 then 31 else if src = 4 ∨ src = 6 then 127 else 0

def checkTally (x : Section) : List Finding :=
  let n := x.at 0 1
  let es := entries 8 48 n
  [x.zero 1 7, bad (decide (32 < n)) 0x012D 0] ++
    es.flatMap (fun e =>
      let o := e.2
      let owner := bit (x.at (o + 2) 1) 0
      let src := x.at (o + 3) 1
      [x.range o 1 0 31, bad (decide (1 ≤ e.1) && decide (x.at o 1 ≤ x.at (o - 48) 1)) 0x0113 o,
        bad ((es.take e.1).any (fun d => x.at (d.2 + 1) 1 == x.at (o + 1) 1)) 0x012D (o + 1), x.low (o + 2) 1 3,
        bad (if owner then src == 0 || decide (6 < src) else src != 0) 0x0116 (o + 3),
        bad (decide ((if owner then srcUnits src else 0) < x.at (o + 4) 2)) 0x0116 (o + 4),
        bad (if owner then x.at (o + 6) 2 != 0 else decide (4096 ≤ x.at (o + 6) 2)) 0x0116 (o + 6),
        x.reg (o + 0x10) (F.TLY_Sn_TOL_TOL 0).off, x.reg (o + 0x14) (F.TLY_Sn_LATE_LATE 0).off, bad (x.at (o + 0x14) 3 == 0) 0x0116 (o + 0x14), x.range (o + 0x18) 2 1 0xFFFF, x.zero (o + 0x1A) 6,
        bad (!(owner && src == 5) && x.at (o + 0x20) 8 != 0) 0x0116 (o + 0x20), x.range (o + 0x28) 4 0 100000, x.zero (o + 0x2C) 4])

/-- The pages of a range entry: region, first, last. -/
def rangePages (x : Section) (o : Nat) : Nat × Nat × Nat :=
  (bits (x.at o 8) 60 4, bits (x.at o 8) 32 28, bits (x.at o 8) 32 28 + bits (x.at o 8) 4 28)

/-- Whether a page of a region beside region 0 is fixed S (R39). -/
def fixedS (region page : Nat) : Bool :=
  region == 2 && (decide (page < 48) || (decide (48 ≤ page) && decide (page < 112) && (page - 48) % 4 == 2))

/-- The pages of R39 in region 2, of which one may lie between two pages. -/
def fixedSBetween (region a b : Nat) : Bool := (List.range 112).any (fun p => fixedS region p && decide (a ≤ p) && decide (p ≤ b))

def checkBridge (x : Section) : List Finding :=
  let n := x.at 1 1
  let es := entries 48 8 n
  let ps := entries (48 + 8 * n) 24 (x.at 2 1)
  [x.low 0 1 1, x.range 1 1 0 64, bad (decide (128 < x.at 2 1)) 0x0130 2, x.zero 3 1, x.range 4 2 0 4095, x.zero 6 2, x.reg 8 F.BRG_TMO_SR_TMO.off,
    x.reg 0xC F.BRG_LOCKCFG_LOCK_TMO.off] ++ (entries 0x10 1 16).map (fun e => x.low e.2 1 2) ++
    [x.low 0x20 8 40, x.reg 0x28 F.BRG_VEC_LOCAL.off, x.reg 0x2C F.BRG_HMASK_MASK.off] ++
    es.flatMap (fun e =>
      let r := rangePages x e.2
      let w := x.at e.2 8
      [bad (bits w 2 2 != 0 || !((decide (1 ≤ r.1) && decide (r.1 ≤ 7)) || (r.1 == 0xF && bit (x.at 0 1) 0))) 0x0116 e.2,
        bad (bit w 0 && (bit w 1 || fixedSBetween r.1 r.2.1 r.2.2)) 0x012E e.2,
        bad ((es.take e.1).any (fun d => let q := rangePages x d.2
          q.1 == r.1 && decide (q.2.1 ≤ r.2.2) && decide (r.2.1 ≤ q.2.2))) 0x012F e.2]) ++
    ps.flatMap (fun e =>
      let size := if x.at (e.2 + 2) 1 = 0 then 4096 else 2 ^ 21
      [x.range e.2 2 1 4095, x.range (e.2 + 2) 1 0 1, x.low (e.2 + 3) 1 2, x.zero (e.2 + 4) 4,
        bad (x.at (e.2 + 8) 8 % size != 0) 0x0116 (e.2 + 8),
        bad (x.at (e.2 + 16) 8 % size != 0 || decide (2 ^ 56 ≤ x.at (e.2 + 16) 8)) 0x0116 (e.2 + 16)])

def checkPower (x : Section) : List Finding :=
  [x.low 0 1 1, x.zero 1 1, x.range 2 2 1 10000 0x0131, x.zero 4 12] ++
    (entries 0x10 4 64).flatMap (fun e => [x.range e.2 1 0 3 0x0131, x.zero (e.2 + 1) 1])

/-- Whether a reaction word gives a class it may not, or stands for no block. -/
def reactionBad (n w : Nat) : Bool :=
  decide (2 ^ 14 ≤ w) || (!(assigned n) && w != 0) || (List.range 7).any (fun c => bits w (2 * c) 2 != 0 && !(classGiven n c))

def checkFault (x : Section) : List Finding :=
  (entries 0 2 32).map (fun e => bad (reactionBad e.1 (x.at e.2 2)) 0x0132 e.2) ++ [x.reg 0x40 F.BOM_SCRUB_PERIOD.off, x.reg 0x44 F.BOM_STREAM_KIND.off]

/-- The reference of a SECURITY section at an offset. -/
def refAt (x : Section) (o : Nat) : SecRef :=
  { slot := x.at o 1, attr := x.at (o + 1) 1, dattr := x.at (o + 2) 1, record := x.at (o + 4) 2, keyId := x.at (o + 8) 8 }

def refsOf (x : Section) : List SecRef := (entries 0x110 16 (x.at 8 2)).map (fun e => refAt x e.2)

def checkSecurity (x : Section) : List Finding :=
  let es := entries 0x110 16 (x.at 8 2)
  [x.reg 0 F.VGL_TCFG_POL.off, x.reg 4 F.VGL_TEMP_THIGH.off, x.range 8 2 0 255, x.zero 0xA 6] ++
    es.flatMap (fun e =>
      let r := refAt x e.2
      [x.range e.2 1 1 255, x.range (e.2 + 1) 1 1 4, x.range (e.2 + 2) 1 0 2, x.zero (e.2 + 3) 1, x.range (e.2 + 4) 2 0 255, x.zero (e.2 + 6) 2,
        bad ((r.attr == deriveOnly) != (r.dattr != 0) || (es.take e.1).any (fun d => (refAt x d.2).slot == r.slot)) 0x0133 e.2]) ++
    (entries 0x10 1 256).map (fun e =>
      let v := x.at e.2 1
      bad (v != 0 && !((refsOf x).any (fun (r : SecRef) => r.slot == v && r.attr == deriveOnly && r.dattr == encOnly))) 0x0133 e.2)

def checkTime (x : Section) : List Finding :=
  [x.range 0 1 0 1, bad (decide (2 < x.at 1 1) || (x.at 0 1 == 0 && x.at 1 1 != 0)) 0x0116 1, x.range 2 1 0 127, x.low 3 1 2,
    x.reg 4 F.TIM_SERVO0_KP.off, x.reg 8 F.TIM_SERVO1_LOCK_THR.off, x.reg 0xC F.TIM_SERVO2_STEP_THR.off,
    x.reg 0x10 F.TIM_SERVO3_LOCK_CNT.off, x.reg 0x14 F.TIM_INT_SYNC_INT.off, x.range 0x18 1 0 1, x.zero 0x19 15] ++
    (entries 0x28 4 8).map (fun e => bad (decide (256000 < (toSigned 32 (x.at e.2 4)).natAbs)) 0x0116 e.2)

/-- RING; `station` is the station that HEAD is compared with, 0 where there is none. -/
def checkRing (station : Nat) (x : Section) : List Finding :=
  let head := bit (x.at 0 1) 0
  let ring10 (p : Nat) : Bool := bits (x.at (4 + p) 1) 0 2 == 1
  [x.low 0 1 2, x.low 1 1 4, x.zero 2 2] ++
    (entries 4 1 4).map (fun e =>
      let b := x.at e.2 1
      bad (decide (1 < bits b 0 2) || decide (2 < bits b 2 2) || bits b 4 4 != 0 || (ring10 e.1 && bits b 2 2 == 2)) 0x0116 e.2) ++
    [x.range 8 4 125 262144, x.range 0xC 4 4 (x.at 8 4 - 4), x.range 0x10 2 4 0xFFFF, x.range 0x12 2 100 0xFFFF, x.range 0x14 2 1 255,
      x.range 0x16 2 1 255] ++
    (entries 0x18 8 3).map (fun e => bad (decide (2 ^ 40 ≤ x.at e.2 8) || (!head && x.at e.2 8 != 0)) 0x0116 e.2) ++
    [x.range 0x30 2 1 0xFFFF, x.zero 0x32 14, bad (head && station != 0 && station != 1) 0x0134 0]

/-- STATION within itself and against the strap (R386, R394). -/
def checkStation (pos : Nat) (x : Section) : List Finding :=
  let ringpos := x.at 0 1 % 4
  let twin := bit (x.at 1 1) 0
  let a := bits (x.at 2 1) 0 2
  let b := bits (x.at 2 1) 2 2
  let st (k : Nat) : Nat := x.at (4 + k) 1
  let used (k : Nat) : Bool := bit (st k) 7
  let peer (k : Nat) : Nat := bits (st k) 0 2
  let mate (q : Nat) : Nat := if q = a then b else a
  let inPair (q : Nat) : Bool := twin && (q == a || q == b)
  let allowed (k : Nat) : Bool :=
    peer k != pos && (pos == ringpos || peer k == ringpos || (k == 0 && inPair pos && peer k == mate pos))
  [x.range 0 1 0 3, x.low 1 1 2, x.low 2 1 4, x.zero 3 1] ++
    (entries 4 1 3).flatMap (fun e =>
      [bad (bits (x.at e.2 1) 2 2 != 0 || bits (x.at e.2 1) 5 2 != 0) 0x0116 e.2, bad (used e.1 && !(allowed e.1)) 0x0134 e.2]) ++
    [x.low 7 1 4, x.low 8 2 12, x.range 0xA 2 1 0xFFFF, x.zero 0xC 4,
      bad (decide (0x400000 ≤ x.at 0x10 8) || (!(bit (x.at 1 1) 1) && x.at 0x10 8 != 0)) 0x0116 0x10, x.zero 0x18 8,
      bad (pos != ringpos && !((List.range 3).any (fun k => used k && peer k == ringpos))) 0x0134 0,
      bad (twin && (a == b || a == ringpos || b == ringpos || (inPair pos && !(used 0 && peer 0 == mate pos)))) 0x0134 1]

/-- PORT; pins A and C of a CAN slice are high when safe (R201), and a pulse lasts 8 ns at least (R176). -/
def checkPort (x : Section) : List Finding :=
  let pers := x.at 0 1
  let link := x.at 2 1
  [x.range 0 1 0 10, x.low 1 1 4,
    bad (if pers = 8 then false else if pers = 10 then decide (15 < link) else link != 0xFF) 0x0116 2, x.zero 6 2] ++
    (entries 8 4 16).map (fun e => x.reg e.2 (0xA1040 + 4 * e.1) pers) ++
    [bad (pers == 1 && (decide (x.at 0xC 4 < 1031) || decide (85899345 < x.at 0xC 4))) 0x0116 0xC,
      bad (pers == 7 && decide (x.at 0xC 4 < 10)) 0x0116 0xC,
      bad (pers == 10 && (bits (x.at 3 1) 0 2 != 2 || bits (x.at 3 1) 4 2 != 2)) 0x0116 3]

/-- The target of a jump in a program word (R250): BR or LOOP. -/
def jumpTarget (w : Nat) : Option Nat :=
  match decodeSaw w with
  | some (.br _ target) => some target
  | some (.loop target) => some target
  | _ => none

def checkGrove (x : Section) : List Finding :=
  let len := x.at 0 2 % 1024
  [bad (x.at 0 8 != len || len == 0) 0x0116 0, bad (decide (512 < len)) 0x0123 0] ++
    (entries 8 64 8).flatMap (fun e =>
      let o := e.2
      let prog := x.at (o + 8) 4
      let outside := decide (len ≤ bits prog 0 9) || decide (len ≤ bits prog 9 9) || decide (len ≤ bits prog 18 9)
      let disordered := decide (bits prog 18 9 < bits prog 9 9) || decide (bits prog 18 9 < bits prog 0 9)
      [x.low o 1 1, x.zero (o + 1) 3, x.low (o + 4) 4 24, x.reg (o + 8) (F.SAW_Sn_PROG_ENTRY 0).off,
        bad (bit (x.at o 1) 0 && outside) 0x0123 (o + 8), bad (bit (x.at o 1) 0 && disordered) 0x0116 (o + 8),
        x.reg (o + 0xC) (F.SAW_Sn_SHIFT_IN_WIDTH 0).off, x.reg (o + 0x10) (F.SAW_Sn_WIN_TPIN 0).off, x.zero (o + 0x18) 8] ++
        (entries (o + 0x20) 2 16).map (fun d =>
          let c := x.at d.2 2
          bad (!(decide (c < 0xC0) || (decide (0x100 ≤ c) && decide (c < 0x120)) || c == 0xFFFF)) 0x0116 d.2) ++
        (entries (o + 0x20) 2 16).map (fun d =>
          bad (bits (x.at (o + 0x14) 4) (2 * d.1) 2 != 0 && decide (0x100 ≤ x.at d.2 2) && decide (x.at d.2 2 < 0x120)) 0x0116 (o + 0x14))) ++
    (entries 520 4 len).map (fun e => bad (match jumpTarget (x.at e.2 4) with
      | some t => decide (len ≤ t)
      | none => false) 0x0123 e.2) ++ [x.zero (520 + 4 * len) (bodyLength x - 520 - 4 * len)]

/-- A nominal and a data bit timing that R228 does not allow beyond the ranges of its fields: a jump width above segment 2. -/
def timingBad (nbt dbt : Nat) : Bool := decide (bits nbt 8 7 < bits nbt 1 7) || decide (bits dbt 18 4 < bits dbt 14 4)

def checkCanch (c : Nat) (x : Section) : List Finding :=
  [bad (x.at 0 1 / 3 != c) 0x0124 0, x.low 1 1 6, x.low 2 1 3,
    bad (decide (15 < x.at 3 1) && x.at 3 1 != 0x80 && x.at 3 1 != 0xFF) 0x0116 3, x.reg 4 (F.CAN_Cc_NBT_NBRP 0).off, x.reg 8 (F.CAN_Cc_DBT_DBRP 0).off,
    bad (timingBad (x.at 4 4) (x.at 8 4)) 0x0116 4, x.reg 0xC (F.CAN_Cc_TDC_TDCO 0).off, x.low 0x10 2 12, x.range 0x12 1 0 15, x.zero 0x13 1,
    x.low 0x14 2 12, x.zero 0x16 2, x.reg 0x18 (F.CAN_Cc_ABD_CFG_DWELL 0).off, x.zero 0x1C 4] ++
    (entries 0x20 8 16).flatMap (fun e =>
      [x.reg e.2 0xB1080, x.reg (e.2 + 4) 0xB1084, bad (timingBad (x.at e.2 4) (x.at (e.2 + 4) 4)) 0x0116 e.2]) ++
    (entries 0xA0 8 32).map (fun e => bad (bits (x.at (e.2 + 4) 4) 29 2 != 0) 0x0116 (e.2 + 4)) ++
    (entries 0x1A0 80 64).flatMap (fun e =>
      let ctl := x.at (e.2 + 4) 4
      [bad (bit (x.at e.2 4) 29) 0x0116 e.2,
        bad (bits ctl 30 2 == 3 || bits ctl 20 6 != 0 || bits ctl 0 16 != 0) 0x0116 (e.2 + 4), x.zero (e.2 + 12) 4])

/-- BANK; `hv` says whether the HV firmware runs, without which the section cannot be applied: the code of that refusal is one
that no rule states (R440). -/
def checkBank (b : Nat) (hv : Bool) (x : Section) : List Finding :=
  [(!hv, none, 0)] ++
    (entries 0 4 8).flatMap (fun e =>
      [x.range e.2 1 0 5, bad (x.at e.2 1 == 4 && decide (32 ≤ 8 * b + e.1)) 0x0122 e.2, x.low (e.2 + 1) 1 3, x.low (e.2 + 2) 1 2,
        x.range (e.2 + 3) 1 0 2]) ++
    [x.low 0x20 1 2, x.range 0x21 1 0 15, x.range 0x22 2 1 0xFFFF, x.range 0x24 2 4 0x320, x.range 0x26 2 4 0x3E8,
      bad (decide (x.at 0x26 2 ≤ x.at 0x24 2)) 0x0116 0x26, x.range 0x28 2 1 0xFFFF, x.range 0x2A 2 1 0xFFF, x.range 0x2C 2 1 0xFFF,
      x.range 0x2E 1 1 0xFF, x.range 0x2F 1 1 0xFF, x.zero 0x30 16]

def checkFast (x : Section) : List Finding :=
  [x.range 0 1 0 1, x.range 1 1 0 3, x.range 2 1 0 2, x.range 3 1 0 3, bad (x.at 0 1 == 0 && x.at 3 1 != 0) 0x0125 3, x.range 4 1 0 1,
    x.zero 5 3]

/-- The hub's own state that the check takes (R60), as far as a section's own rules use it. -/
structure CheckEnv where
  pos : Nat
  /-- Station that RING.HEAD is compared with (R292). -/
  station : Nat
  /-- HV firmware and slice microcode are loaded (R440). -/
  hv : Bool
  microcode : Bool

/-- The rules within a section. -/
def checkSection (v : CheckEnv) (x : Section) : List Finding :=
  let t := x.typ
  if t = tBoard then checkBoard x
  else if t = tPoints then checkPoints x
  else if t = tSluice then checkSluice x
  else if t = tSwitch then checkSwitch v.pos x
  else if t = tCalendar then checkCalendar x
  else if t = tTally then checkTally x
  else if t = tBridge then checkBridge x
  else if t = tPower then checkPower x
  else if t = tFault then checkFault x
  else if t = tSecurity then checkSecurity x
  else if t = tTime then checkTime x
  else if t = tRing then checkRing v.station x
  else if t = tStation then checkStation v.pos x
  else if t = tPort then (!v.microcode, none, 0) :: checkPort x
  else if t = tGrove then checkGrove x
  else if t = tCanch then checkCanch (unitOf t x.inst) x
  else if t = tBank then checkBank (unitOf t x.inst) v.hv x
  else checkFast x

/-! Rules across sections (step 5) -/

/-- A rule across sections that is broken: its code and the entries that take part (type, instance, offset in the body), first the one
that the rule finds at fault. -/
structure Breach where
  code : Nat
  parts : List (Nat × Nat × Nat)

/-- Pins that personalities take: 4 · slice + k. -/
def personalityPins (l : List Section) : List (Nat × Nat) :=
  (portsOf l tPort).flatMap (fun p => if p.2.at 0 1 = 9 then [] else ((List.range 4).filter (bit (p.2.at 1 1))).map (fun k => (4 * p.1 + k, p.2.inst)))

/-- Entries of the sawyers' pin maps: code, instance, offset. -/
def sawyerPins (l : List Section) : List (Nat × Nat × Nat) :=
  (portsOf l tGrove).flatMap (fun g => ((entries 8 64 8).flatMap (fun e =>
    if bit (g.2.at e.2 1) 0 then (entries (e.2 + 0x20) 2 16).map (fun d => (g.2.at d.2 2, g.2.inst, d.2)) else [])).filter (fun d => d.1 != 0xFFFF))

/-- DIR and SRC of a fast line's section. -/
def fastDir (l : List Section) (n : Nat) : Option Bool := (portSection l tFast n).map (fun (x : Section) => x.at 0 1 == 1)
def fastSrc (l : List Section) (n : Nat) : Bool :=
  match portSection l tFast n with
  | some x => x.at 4 1 == 1
  | none => false

/-- MODE of a field line; 0 without a BANK section. -/
def lineModeOf (l : List Section) (n : Nat) : Nat :=
  match portSection l tBank (n / 8) with
  | some x => x.at (4 * (n % 8)) 1
  | none => 0

/-- 0x0120: a pin with two functions, a fast line without SRC = 1 given to a sawyer, an IO-Link line paired twice. -/
def pinBreaches (l : List Section) : List Breach :=
  let saws := sawyerPins l
  let pers := personalityPins l
  let iol := (portsOf l tPort).filter (fun p => p.2.at 0 1 == 8)
  (saws.zip (List.range saws.length)).filterMap (fun d =>
    let x := d.1
    let taken := pers.find? (fun q => q.1 == x.1)
    let twice := (saws.take d.2).find? (fun q => q.1 == x.1)
    let self := (tGrove, x.2.1, x.2.2)
    match taken, twice with
    | some q, _ => some ⟨0x0120, [self, (tPort, q.2, 1)]⟩
    | none, some q => some ⟨0x0120, [self, (tGrove, q.2.1, q.2.2)]⟩
    | none, none => if 0x100 ≤ x.1 ∧ !(fastSrc l (x.1 - 0x100)) then some ⟨0x0120, [self, (tFast, 0x300 + (x.1 - 0x100), 4)]⟩ else none) ++
  (iol.zip (List.range iol.length)).filterMap (fun d =>
    ((iol.take d.2).find? (fun q => q.2.at 2 1 == d.1.2.at 2 1)).map (fun q => ⟨0x0120, [(tPort, d.1.2.inst, 2), (tPort, q.2.inst, 2)]⟩))

/-- 0x0121: a setting above the 1.8 V limit in a bank that is declared at 1.8 V (R175, R176). -/
def voltBreaches (l : List Section) : List Breach :=
  (portsOf l tPort).filterMap (fun p =>
    let low := (globalOf l tBoard).at (if p.1 < 24 then 0 else 1) 1 == 0
    let x := p.2
    let above := (x.at 0 1 == 1 && decide (42949672 < x.at 0xC 4)) || (x.at 0 1 == 2 && decide (x.at 8 2 < 24)) ||
      (x.at 0 1 == 7 && decide (x.at 0xC 4 < 20))
    if low && above then some ⟨0x0121, [(tPort, x.inst, if x.at 0 1 = 2 then 8 else 0xC), (tBoard, globalInst, if p.1 < 24 then 0 else 1)]⟩
    else none)

/-- Whether a channel's slice is in CAN personality and linked to it. -/
def channelBound (l : List Section) (c : Nat) (x : Section) : Bool :=
  match portSection l tPort (x.at 0 1) with
  | some y => y.at 0 1 == 10 && y.at 2 1 == c
  | none => false

/-- 0x0122: an IO-Link slice and its line; 0x0124: a channel and its slice, of which it has one in reach (R173, R201). -/
def bindBreaches (l : List Section) : List Breach :=
  let cans := (portsOf l tPort).filter (fun p => p.2.at 0 1 == 10)
  (portsOf l tPort).filterMap (fun p =>
    if p.2.at 0 1 = 8 ∧ (32 ≤ p.2.at 2 1 ∨ lineModeOf l (p.2.at 2 1) ≠ 4) then
      some ⟨0x0122, [(tPort, p.2.inst, 2), (tBank, 0x200 + p.2.at 2 1 / 8, 4 * (p.2.at 2 1 % 8))]⟩ else none) ++
  (portsOf l tCanch).filterMap (fun c =>
    if channelBound l c.1 c.2 then none else some ⟨0x0124, [(tCanch, c.2.inst, 0), (tPort, c.2.at 0 1, 0)]⟩) ++
  (cans.zip (List.range cans.length)).filterMap (fun d =>
    let p := d.1
    match (cans.take d.2).find? (fun q => q.2.at 2 1 == p.2.at 2 1) with
    | some q => some ⟨0x0124, [(tPort, p.2.inst, 2), (tPort, q.2.inst, 2)]⟩
    | none => if p.1 / 3 = p.2.at 2 1 then none else some ⟨0x0124, [(tPort, p.2.inst, 2)]⟩)

/-- Whether a point's unit is there, with an item of that number (0x0127). -/
def pointAbsent (l : List Section) (p : Point) : Bool :=
  match p.kind with
  | 1 => p.sub != 0 || lineModeOf l p.unit == 0
  | 2 => p.sub != 0 || (fastDir l p.unit).isNone
  | 3 =>
    match portSection l tPort p.unit with
    | some x => (findRow (0xA1000 + 0x100 * p.unit + p.sub) (x.at 0 1)).isNone || decide (0x100 ≤ p.sub)
    | none => true
  | 4 =>
    match portSection l tCanch p.unit with
    | some x => decide (4096 ≤ p.sub) || x.at (0x1A0 + 80 * (p.sub / 64) + 7) 1 / 64 != (if p.output then 1 else 2)
    | none => true
  | 5 =>
    match portSection l tPort p.unit with
    | some x => x.at 0 1 != 8 || !(decide (p.sub < 32) || p.sub == 0x100)
    | none => true
  | 6 => p.sub != 0 || !((entries 8 48 ((globalOf l tTally).at 0 1)).any (fun e => (globalOf l tTally).at e.2 1 == p.unit))
  | _ =>
    match portSection l tGrove (p.unit / 8) with
    | some x => x.at (8 + 64 * (p.unit % 8)) 1 == 0 || !((!p.output && decide (p.sub < 7)) || p.sub == 0x10)
    | none => true

/-- Whether a point uses a line that is there against its direction (0x0125); a C/Q line has both. -/
def pointAgainst (l : List Section) (p : Point) : Bool :=
  match p.kind with
  | 1 => !([0, 4].contains (lineModeOf l p.unit)) && (lineModeOf l p.unit == 3) != p.output
  | 2 => fastDir l p.unit == some (!p.output)
  | _ => false

/-- 0x0125, 0x0127: what the point map names. -/
def pointBreaches (l : List Section) (code : Nat) (p : Point → Bool) : List Breach :=
  let x := globalOf l tPoints
  (entries 8 8 (x.at 4 2)).filterMap (fun e =>
    let q := pointAt x e.2
    if p q then
      some ⟨code, (tPoints, globalInst, e.2) ::
        (if q.kind = 1 then [(tBank, 0x200 + q.unit / 8, 4 * (q.unit % 8))] else if q.kind = 2 then [(tFast, 0x300 + q.unit, 0)]
         else if q.kind = 4 then [(tCanch, 0x100 + q.unit, 0)] else if q.kind = 6 then [(tTally, globalInst, 0)]
         else if q.kind = 7 then [(tGrove, 0x400 + q.unit / 8, 0)] else [(tPort, q.unit, 0)])⟩
    else none)

/-- 0x0129: a term that names a fast line which is no input, whose source is not defined (R132). -/
def termBreaches (l : List Section) : List Breach :=
  let x := globalOf l tSluice
  (entries 0 16 128).filterMap (fun e =>
    let m := Nat.lor (x.at e.2 4) (x.at (e.2 + 8) 4)
    ((setBits m 32).find? (fun n => fastDir l n != some false)).map (fun n => ⟨0x0129, [(tSluice, globalInst, e.2), (tFast, 0x300 + n, 0)]⟩))

/-- Whether an owner's source is configured (R89). -/
def sourceThere (l : List Section) (src unit : Nat) : Bool :=
  match src with
  | 1 => (match portSection l tPort unit with | some x => x.at 0 1 == 6 | none => false)
  | 2 => (match portSection l tPort unit with | some x => x.at 0 1 == 5 | none => false)
  | 3 => fastDir l unit == some false
  | 4 => lineModeOf l unit == 5
  | 6 => (match portSection l tGrove (unit / 8) with | some x => x.at (8 + 64 * (unit % 8)) 1 == 1 | none => false)
  | _ => true

/-- 0x012D: a publication from a source that is not configured; 0x0116: a deadline after the harvest period. -/
def tallyBreaches (l : List Section) : List Breach :=
  let x := globalOf l tTally
  let part (e : Nat) : Nat × Nat × Nat := (tTally, globalInst, e)
  (entries 8 48 (x.at 0 1)).filterMap (fun e =>
    if bit (x.at (e.2 + 2) 1) 0 && !(sourceThere l (x.at (e.2 + 3) 1) (x.at (e.2 + 4) 2)) then
      let src := x.at (e.2 + 3) 1
      let u := x.at (e.2 + 4) 2
      some ⟨0x012D, [part (e.2 + 4), if src ≤ 2 then (tPort, u, 0) else if src = 3 then (tFast, 0x300 + u, 0)
        else if src = 4 then (tBank, 0x200 + u / 8, 4 * (u % 8)) else (tGrove, 0x400 + u / 8, 0)]⟩
    else if (globalOf l tRing).at 8 4 < 4 * x.at (e.2 + 0x14) 3 then some ⟨0x0116, [part (e.2 + 0x14)]⟩ else none)

/-- Whether bit w of a power slice's WOE names a pin on which an input of the slice receives (R454). -/
def woeAllowed (l : List Section) (n w : Nat) : Bool :=
  if n < 12 then
    match portSection l tPort (4 * n + w / 4) with
    | some x => bit (x.at 1 1) (w % 4) && receives (x.at 0 1) (bits (x.at 8 4) 30 2) (w % 4)
    | none => false
  else if n < 16 then decide (w < 4) && (portSection l tCanch (4 * (n - 12) + w)).isSome
  else if n < 32 then (sawyerPins l).any (fun d => d.2.1 == 0x400 + (n - 16) && (d.2.2 % 64 - 40) / 2 == w)
  else false

/-- The sections that say what a power slice's pins receive. -/
def woeUnits (n : Nat) : List (Nat × Nat × Nat) :=
  if n < 12 then (List.range 4).map (fun k => (tPort, 4 * n + k, 0))
  else if n < 16 then (List.range 4).map (fun k => (tCanch, 0x100 + 4 * (n - 12) + k, 0))
  else if n < 32 then [(tGrove, 0x400 + (n - 16), 0)]
  else []

/-- 0x0131: wake-on-edge where nothing receives. -/
def woeBreaches (l : List Section) : List Breach :=
  let x := globalOf l tPower
  (entries 0x10 4 64).filterMap (fun e =>
    if (setBits (x.at (e.2 + 2) 2) 16).all (woeAllowed l e.1) then none
    else some ⟨0x0131, (tPower, globalInst, e.2 + 2) :: woeUnits e.1⟩)

/-- 0x0134: RINGPOS and RING_EN disagree (R386); HV_CTX belongs to the head only (0x0116). -/
def stationBreaches (l : List Section) (pos : Nat) : List Breach :=
  let ring := globalOf l tRing
  let hvctx := (globalOf l tBridge).at 4 2
  (if ((globalOf l tStation).at 0 1 == pos) != bit (ring.at 0 1) 1 then [⟨0x0134, [(tStation, globalInst, 0), (tRing, globalInst, 0)]⟩] else []) ++
    (if bit (ring.at 0 1) 0 != (hvctx != 0) then [⟨0x0116, [(tBridge, globalInst, 4), (tRing, globalInst, 0)]⟩] else [])

/-- The rules across sections, by ascending code (DEDUCED: R60 gives step 5 no order). -/
def breaches (l : List Section) (pos : Nat) : List Breach :=
  pinBreaches l ++ voltBreaches l ++ bindBreaches l ++ pointBreaches l 0x0125 (pointAgainst l) ++ pointBreaches l 0x0127 (pointAbsent l) ++
    termBreaches l ++ tallyBreaches l ++ woeBreaches l ++ stationBreaches l pos

/-! Framing (step 3) -/

/-- A section as found in an image: its place there, and whether it is known. -/
structure Found where
  ordinal : Nat
  off : Nat
  blen : Nat
  /-- The first reserved header field that is not 0. -/
  rsv : Option Nat
  sec : Section

/-- The reserved field of a section header that is not 0: FLAGS, the two bytes behind it, or the last four (R51). -/
def reservedIn (h : List Nat) : Option Nat :=
  if 1 < leAt h 5 1 then some 5 else if leAt h 6 2 ≠ 0 then some 6 else if leAt h 12 4 ≠ 0 then some 12 else none

/-- The sections of an image of `len` bytes from an offset, whether they fill it exactly, and the one that overruns it. -/
def State.findSections (s : State) (len : Nat) : Nat → Nat → Nat → List Found × Bool × Option Found
  | 0, _, off => ([], off == len, none)
  | fuel + 1, ord, off =>
    if off = len then ([], true, none)
    else if len < off + 16 then ([], false, none)
    else
      let h := s.bytes stagingRegion off 16
      let blen := leAt h 8 4
      let x : Found :=
        { ordinal := ord, off := off, blen := blen, rsv := reservedIn h,
          sec := ⟨leAt h 0 2, leAt h 2 2, leAt h 4 1, leAt h 5 1, s.bytes stagingRegion (off + 16) (min blen (len - off - 16))⟩ }
      if len < off + 16 + blen then ([], false, some x)
      else
        let (l, ok) := s.findSections len fuel (ord + 1) (off + 16 + blen)
        (x :: l, ok)

def Found.known (x : Found) : Bool := knownSection x.sec.typ x.sec.sver

/-- The place of a section in the canonical order. -/
def Found.order (x : Found) : Nat := x.sec.typ * 65536 + x.sec.inst

/-- Step 3: the first breach, with its code, section and offset. DESIGN CHOICES (notes/assumptions/16.md): a SECTIONS count that disagrees is
reported one past the last section found, at the offset behind it; INSTANCE is checked behind types and versions and before body
lengths; BLEN of any section that is no multiple of 8 gives 0x0110. -/
def framing (full : Bool) (sections : Nat) (l : List Found) (whole : Bool) (overrun : Option Found) :
    Option (Nat × Option Nat × Option Nat) :=
  let at' (x : Found) (code off : Nat) : Nat × Option Nat × Option Nat := (code, some x.ordinal, some (x.off + off))
  let after (x : Found) : Option Found := (l.filter (fun (y : Found) => y.ordinal + 1 == x.ordinal)).head?
  let find (p : Found → Bool) (code off : Nat) : Option (Nat × Option Nat × Option Nat) := (l.find? p).map (fun x => at' x code off)
  let instBad (x : Found) : Bool :=
    if isGlobal x.sec.typ then x.sec.inst != globalInst
    else isPort x.sec.typ && !(decide ((portRange x.sec.typ).1 ≤ x.sec.inst) && decide (unitOf x.sec.typ x.sec.inst < (portRange x.sec.typ).2))
  let lengths : Option (Nat × Option Nat × Option Nat) :=
    if !whole || l.length != sections then some (0x0110, some (l.length + 1), some (match l.getLast? with
      | some x => x.off + 16 + x.blen
      | none => 0x130)) else none
  let reserved := (l ++ overrun.toList).findSome? (fun (x : Found) => x.rsv.map (at' x 0x0116))
  reserved <|> lengths <|> (find (fun x => x.blen % 8 != 0) 0x0110 8) <|>
    (find (fun x => match after x with | some y => decide (x.order < y.order) | none => false) 0x0113 0) <|>
    (find (fun x => match after x with | some y => x.order == y.order | none => false) 0x0112 0) <|>
    (find (fun x => !x.known && x.sec.flags == 0) 0x0111 0) <|> (find (fun x => x.known && instBad x) 0x0115 2) <|>
    (find (fun x => x.known && x.blen != bodyLength x.sec) 0x0110 8) <|>
    (if full && (List.range 13).any (fun k => !(l.any (fun (x : Found) => x.known && x.sec.typ == k + 1))) then some (0x0114, none, none) else none)

/-! Idle ports (R60) -/

/-- The unit that a live Calendar entry targets, as type and unit of a port. -/
def CalEntry.port (e : CalEntry) : Option (Nat × Nat) :=
  match e.kind with
  | 1 => some (tFast, e.unit)
  | 2 => some (tBank, e.unit / 8)
  | 3 => some (tGrove, e.unit / 8)
  | 5 => some (tCanch, e.unit)
  | 6 => some (tPort, e.unit)
  | _ => none

/-- Whether a Sluice term or event names a port. -/
def State.sluiceNames (s : State) (t n : Nat) : Bool :=
  let termOf (k : Nat) (src : Nat) : Bool :=
    let f (lo hi : Fld) : Bool := bit (s.rd64 lo hi) src
    f (F.SLC_Tt_TRUE_LO_MASK k) (F.SLC_Tt_TRUE_HI_MASK k) || f (F.SLC_Tt_COMP_LO_MASK k) (F.SLC_Tt_COMP_HI_MASK k)
  let usesSource (src : Nat) : Bool := (List.range 128).any (fun k => termOf k src)
  let watched (j : Nat) : Nat := bits (s.rd (if j < 4 then F.SLC_WATCH0_SEL else F.SLC_WATCH1_SEL)) (8 * (j % 4)) 7
  if t = tFast then
    usesSource n || s.rd (F.SLC_Oo_M0_MASK n) != 0 || s.rd (F.SLC_Oo_M1_MASK n) != 0 || s.rd (F.SLC_Oo_M2_MASK n) != 0 ||
      s.rd (F.SLC_Oo_M3_MASK n) != 0
  else if t = tBank then
    usesSource (32 + n) || (List.range 8).any (fun j => watched j / 8 == n) ||
      (List.range 32).any (fun e => bit (s.rd (F.SLC_Ee_CFG_BANKS e)) n && s.rd (F.SLC_Ee_CFG_MODE e) != 0)
  else false

/-- Whether a publication is fed from a port. -/
def State.publishes (s : State) (t n : Nat) : Bool :=
  (List.range 32).any (fun k =>
    s.on (F.TLY_Sn_CFG_EN k) && s.on (F.TLY_Sn_CFG_OWNER k) &&
      (match s.rd (F.TLY_Sn_CFG_SRC k), s.rd (F.TLY_Sn_SRC_UNIT k) with
       | 1, u => t == tPort && u == n
       | 2, u => t == tPort && u == n
       | 3, u => t == tFast && u == n
       | 4, u => t == tBank && u / 8 == n
       | 6, u => t == tGrove && u / 8 == n
       | _, _ => false))

/-- The enable control of a port is 0. -/
def State.portOff (s : State) (t n : Nat) : Bool :=
  if t = tPort then !(s.on (F.PSL_Sn_CTL_EN n))
  else if t = tCanch then !(s.on (F.CAN_Cc_CTL_EN n))
  else if t = tGrove then (List.range 8).all (fun k => !(s.on (F.SAW_Sn_CTL_EN (8 * n + k))))
  else if t = tBank then !(s.on (F.FLD_Bb_CFG_BEN n))
  else true

/-- An idle port. -/
def State.portIdle (s : State) (t n : Nat) : Bool :=
  s.portOff t n && !(s.sch.entries.any (fun p => p.2.live && p.2.port == some (t, n))) && !(s.sluiceNames t n) && !(s.publishes t n)

/-- The first section of a partial that names a port which is not idle. -/
def State.busyPort (s : State) (named : List (Nat × Nat)) : Option (Nat × Nat) :=
  named.find? (fun p => isPort p.1 && !(s.portIdle p.1 (unitOf p.1 p.2)))

/-! The check (R60) -/

/-- A structure as the bytes of a section area in canonical order. -/
def sectionBytes (l : List Section) : List Nat :=
  l.flatMap (fun (x : Section) => leBytes 2 x.typ ++ leBytes 2 x.inst ++ [x.sver, x.flags, 0, 0] ++ leBytes 4 x.body.length ++ leBytes 4 0 ++ x.body)

/-- Section x replaces the one of its type and instance, or takes its place in the order. -/
def mergeSection (x : Section) : List Section → List Section
  | [] => [x]
  | y :: l =>
    if x.typ = y.typ ∧ x.inst = y.inst then x :: l
    else if x.typ * 65536 + x.inst < y.typ * 65536 + y.inst then x :: y :: l
    else y :: mergeSection x l

/-- The structure hash in force: 48 bytes (R50). -/
def State.structureHash (s : State) : List Nat := ((List.range 12).map (fun n => leBytes 4 (s.rd (F.ALM_HASH_DIGEST n)))).flatten

/-- Whether a full image differs from the structure in force in what only a start may change (R59): the first such section. -/
def restartSection (force new : List Section) : Option (Nat × Nat) :=
  (new.find? (fun (x : Section) =>
    let old := globalOf force x.typ
    if [tBoard, tSecurity, tRing, tStation, tTime].contains x.typ then x.body != old.body
    else x.typ == tBridge && bit (x.at 0 1) 0 != bit (old.at 0 1) 0)).map (fun (x : Section) => (x.typ, x.inst))

/-- Admitted and not quarantined. -/
def State.inService (s : State) : Bool := s.admitted && !s.quarantined

/-- Step 1: the header. An offset that names no header field is none. -/
def State.headerCheck (s : State) (h : List Nat) : Option (Nat × Option Nat) :=
  let w (off n : Nat) : Nat := leAt h off n
  let len := w 8 4
  let full := w 6 1 == 1
  let station := w 0x10 2 % 1024
  let checks : List (Bool × Nat × Option Nat) := [
    (w 0 4 != 0xA14C4D41, 0x0101, some 0), (w 5 1 != 3 || decide (2 < w 4 1), 0x0102, some 4),
    (w 6 1 != 1 && w 6 1 != 2, 0x0103, some 6),
    (len % 8 != 0 || decide (len < 0x130) || decide (524288 < len) || decide (4 * s.rd F.ALM_STAGE_PTR_PTR < len), 0x0104, some 8),
    (w 0xF 1 != 0, 0x0116, some 0xF), (w 0x13 5 != 0, 0x0116, some 0x13), (w 0x24 28 != 0, 0x0116, some 0x24),
    (decide (1024 ≤ w 0x10 2), 0x0116, some 0x10), (decide (4 ≤ w 0x12 1), 0x0116, some 0x12),
    (full && w 0x40 48 != 0, 0x0116, some 0x40), (full && w 0x70 48 != 0, 0x0116, some 0x70),
    (station != 0 && s.rd F.GLB_POS_STATION != 0 && station != s.rd F.GLB_POS_STATION, 0x0105, some 0x10),
    (w 0x12 1 != s.rd F.GLB_POS_HUBPOS, 0x0105, some 0x12),
    (w 0x18 8 != 0 && w 0x18 8 != s.serial, 0x0106, some 0x18),
    (s.lc == lcBlank || s.lc == lcScrapped, 0x0107, none)]
  (checks.find? (·.1)).map (fun c => c.2)

/-- Step 2: security version, hash, signature. -/
def State.authorityCheck (s : State) (h : List Nat) : Option (Nat × Option Nat) :=
  let len := leAt h 8 4
  let key := leAt h 7 1
  let checks : List (Bool × Nat × Option Nat) := [
    (decide (leAt h 0xE 1 < s.rd (F.UPD_SVNc_FLOOR 3)), 0x0108, some 0xE),
    (Config.sha384 (s.bytes stagingRegion 0x130 (len - 0x130)) != bytesAt h 0xA0 48, 0x010A, some 0xA0),
    (!(s.keyAccepted key), 0x0109, some 0xD0),
    (!(s.signed key (bytesAt h 0 0xD0) (bytesAt h 0xD0 96)), 0x010B, some 0xD0)]
  (checks.find? (·.1)).map (fun c => c.2)

/-- Steps 4 and on: the first finding of a section's own rules. -/
def ownFinding (v : CheckEnv) (l : List Found) : Option (Option Nat × Nat × Nat) :=
  l.findSome? (fun (x : Found) =>
    if x.known then ((checkSection v x.sec).find? (·.1)).map (fun f => (f.2.1, x.ordinal, x.off + 16 + f.2.2)) else none)

/-- An entry's place in the image, if its section is there. -/
def entryPlace (l : List Found) (q : Nat × Nat × Nat) : Option (Nat × Nat) :=
  (l.find? (fun (x : Found) => q.1 == x.sec.typ && q.2.1 == x.sec.inst)).map (fun x => (x.ordinal, x.off + 16 + q.2.2))

/-- Where a breach in a full image is reported (R482): the entry at fault. -/
def breachPlace (l : List Found) (b : Breach) : Option (Nat × Nat) := b.parts.head?.bind (entryPlace l)

/-- Where a breach of a merged structure is reported (R482): the lowest section of the partial that takes part, at its entry, or at
its header where the entry at fault is in the structure in force. -/
def mergedPlace (l : List Found) (b : Breach) : Option (Nat × Nat) :=
  l.findSome? (fun (x : Found) =>
    (b.parts.find? (fun q => q.1 == x.sec.typ && q.2.1 == x.sec.inst)).map (fun q =>
      (x.ordinal, if (breachPlace l b).isSome then x.off + 16 + q.2.2 else x.off)))

/-- The place of a section of the image: its ordinal and its header. -/
def headerPlace (l : List Found) (p : Nat × Nat) : Option (Nat × Nat) :=
  (l.find? (fun (x : Found) => x.sec.typ == p.1 && x.sec.inst == p.2)).map (fun x => (x.ordinal, x.off))

/-- A refusal at a place. -/
def refusedAt (code : Nat) (p : Option (Nat × Nat)) : Verdict := .refused (some code) (p.map (·.1)) (p.map (·.2))

/-- Whether a partial's POINTMAP changes more than entries of ports that the partial names (R60 step 6 item 4). -/
def pointsForeign (old new : Section) (named : List (Nat × Nat)) : Option Nat :=
  let portOf (p : Point) : Nat × Nat :=
    match p.kind with
    | 1 => (tBank, 0x200 + p.unit / 8)
    | 2 => (tFast, 0x300 + p.unit)
    | 4 => (tCanch, 0x100 + p.unit)
    | 7 => (tGrove, 0x400 + p.unit / 8)
    | 6 => (tTally, p.unit)
    | _ => (tPort, p.unit)
  let kept (l : List Point) : List Point := l.filter (fun (p : Point) => !(named.contains (portOf p)))
  if inLenOf old ≠ inLenOf new then some 0
  else if outLenOf old ≠ outLenOf new then some 2
  else if kept (pointsOf old) = kept (pointsOf new) then none
  else
    some (((entries 8 8 (new.at 4 2)).find? (fun e =>
      !(named.contains (portOf (pointAt new e.2))) && !((pointsOf old).contains (pointAt new e.2)))).map (·.2) |>.getD 4)

/-- Step 6: a partial. -/
def State.partialCheck (s : State) (h : List Nat) (found : List Found) (i : Image) : Verdict :=
  let allowed (x : Found) : Bool := isPort x.sec.typ || x.sec.typ == tPoints || !x.known
  let merged := i.sections
  let oldPoints := globalOf s.alm.force tPoints
  let foreign : Option (Nat × Nat) := (found.find? (fun (x : Found) => x.sec.typ == tPoints && x.known)).bind (fun x =>
    (pointsForeign oldPoints x.sec i.named).map (fun o => (x.ordinal, x.off + 16 + o)))
  if !s.almInForce then .refused (some 0x0140) (some 0) (some 6)
  else if bytesAt h 0x40 48 != s.structureHash then .refused (some 0x0141) (some 0) (some 0x40)
  else match found.find? (fun x => !(allowed x)) with
    | some x => .refused (some 0x0142) (some x.ordinal) (some x.off)
    | none =>
      match foreign with
      | some p => refusedAt 0x0144 (some p)
      | none =>
        if Config.sha384 (sectionBytes merged) != bytesAt h 0x70 48 then .refused (some 0x0146) (some 0) (some 0x70)
        else match (breaches merged (s.rd F.GLB_POS_HUBPOS)).head? with
          | some b => refusedAt b.code (mergedPlace found b)
          | none =>
            match s.busyPort i.named with
            | some p => refusedAt 0x0143 (headerPlace found p)
            | none => .passed i

/-- The whole check of the staged image. Skipped sections are no part of the structure (R52). -/
def State.almCheck (s : State) : Verdict :=
  let h := s.bytes stagingRegion 0 0x130
  match s.headerCheck h with
  | some (code, off) => .refused (some code) (some 0) off
  | none =>
    match s.authorityCheck h with
    | some (code, off) => .refused (some code) (some 0) off
    | none =>
      let len := leAt h 8 4
      let full := leAt h 6 1 == 1
      let (found, whole, overrun) := s.findSections len (len / 16) 1 0x130
      match framing full (leAt h 0xC 2) found whole overrun with
      | some (code, sect, off) => .refused (some code) sect off
      | none =>
        let own := s.rd F.GLB_POS_STATION
        let v : CheckEnv := { pos := s.rd F.GLB_POS_HUBPOS, station := if own ≠ 0 then own else leAt h 0x10 2 % 1024,
                              hv := s.on F.FLD_STATUS_FW_OK, microcode := s.upd.microcode }
        match ownFinding v found with
        | some (code, sect, off) => .refused code (some sect) (some off)
        | none =>
          let secs := (found.filter (·.known)).map (fun (x : Found) => x.sec)
          let i : Image :=
            { sections := if full then secs else secs.foldl (fun l x => mergeSection x l) s.alm.force,
              named := secs.map (fun (x : Section) => (x.typ, x.inst)),
              places := found.map (fun (x : Found) => ((x.sec.typ, x.sec.inst), (x.ordinal, x.off))), full := full, version := leAt h 0x20 4, svn := leAt h 0xE 1,
              schema := leAt h 4 2, tgtStation := leAt h 0x10 2 % 1024,
              hash := if full then bytesAt h 0xA0 48 else bytesAt h 0x70 48 }
          if full then
            match (breaches secs v.pos).head? with
            | some b => refusedAt b.code (breachPlace found b)
            | none =>
              if s.almInForce && s.inService then
                match restartSection s.alm.force secs with
                | some p => refusedAt 0x0147 (headerPlace found p)
                | none => .passed i
              else .passed i
          else s.partialCheck h found i

end Sys2Proof.Machine
end

