-- ==== Sys2Proof/Machine/AlmApply.lean ====
section
/-!
DEFINITION. Staging, enabling and application of an Almanac (03 R57 to R59, R61, R63, R68, R69, R481), with what each section
loads (04 R100, R101; 05 R138 to R140; 06 R168; 07 R198; 08 R226; 09 R234, R250; 10 R292; 11 R310; 12 R350; 13 R381; 14 R406;
15 R424; 16 R454; 17 R477).
-/

namespace Sys2Proof.Machine

/-! Loading words and fields -/

/-- Registers take words of an Almanac: offset and word. -/
def State.loadWords (s : State) (l : List (Nat × Nat)) : State := l.foldl (fun t p => t.loadReg p.1 0 p.2) s

/-- Class A fields take an Almanac's values. -/
def State.loadsA (s : State) (l : List (Fld × Nat)) : State := l.foldl (fun t p => t.loadA p.1 p.2) s

/-- Class F fields take values. -/
def State.loadsF (s : State) (l : List (Fld × Nat)) : State := l.foldl (fun t p => t.wr p.1 p.2) s

/-- n words of a section at an offset, for registers from a place on. -/
def Section.words (x : Section) (off reg n : Nat) : List (Nat × Nat) := (List.range n).map (fun k => (reg + 4 * k, x.at (off + 4 * k) 4))

/-- An absent per-port section: its fields read 0. -/
def noSection (t : Nat) : Section := ⟨t, 0, 0, 0, []⟩

/-! Ports -/

/-- A port slice (R198); without a section it is disabled. -/
def State.loadSlice (s : State) (n : Nat) (o : Option Section) : State :=
  let base := 0xA1000 + 0x100 * n
  let s := (if s.on (F.PSL_Sn_CTL_EN n) then s.sliceEnable n false else s).setSlice n {}
  let s := s.clearRegs (fun p => p == base || p == base + 4 || (isParam (p % 2 ^ 28) && sliceAt (p % 2 ^ 28) == n))
  match o with
  | none => { s with ported := setBit s.ported n false }
  | some x =>
    let s := s.loadsF [(F.PSL_Sn_CFG_PERS n, x.at 0 1), (F.PSL_Sn_CFG_PINS n, x.at 1 1), (F.PSL_Sn_CFG_LINK n, x.at 2 1)]
    let s := s.loadsA [(F.PSL_Sn_CFG_SAFE n, x.at 3 1), (F.PSL_Sn_PAD_DRIVE n, x.at 4 1), (F.PSL_Sn_PAD_PULL n, x.at 5 1)]
    let s := (List.range 16).foldl (fun t k => t.loadReg (base + 0x40 + 4 * k) (x.at 0 1) (x.at (8 + 4 * k) 4)) s
    { s with ported := setBit s.ported n true }

/-- The places of a channel's configuration: CTL, NBT, DBT, TDC, FIFO0, FIFO1, ABD_CFG, GUARD and the candidates. -/
def canPlace (c p : Nat) : Bool :=
  let d := p - (0xB1000 + 0x100 * c)
  decide (0xB1000 + 0x100 * c ≤ p) && ([0, 4, 8, 0xC, 0x3C, 0x40, 0x50, 0x5C].contains d || (decide (0x80 ≤ d) && decide (d < 0x100)))

/-- A buffer of a CANCH section: ID, CTL, MASK, no status, no time, DATA (R206). -/
def State.loadBuffer (s : State) (c b : Nat) (x : Section) : State :=
  let o := 0x1A0 + 80 * b
  s.store 2 (canBuf c b) (bytesAt x.body o 12 ++ List.replicate 20 0 ++ bytesAt x.body (o + 16) 64 ++ List.replicate 32 0)

/-- A CAN channel (R226). -/
def State.loadCan (s : State) (c : Nat) (o : Option Section) : State :=
  let s := if s.on (F.CAN_Cc_CTL_EN c) then s.canEnable c false else s
  let s := (s.setCan c { tunDest := (o.getD (noSection tCanch)).at 0x14 2 }).wr (F.CAN_Cc_STATUS_ACT c) 0
  let s := s.clearRegs (canPlace c)
  match o with
  | none => { s with canned := setBit s.canned c false }
  | some x =>
    let f := x.at 1 1
    let s := s.loadsA [(F.CAN_Cc_CTL_FDOE c, f), (F.CAN_Cc_CTL_BRSE c, f / 2), (F.CAN_Cc_CTL_OSM c, f / 8), (F.CAN_Cc_CTL_RECOV c, f / 16),
      (F.CAN_Cc_CTL_PXHD c, f / 32), (F.CAN_Cc_FIFO0_OVWR c, x.at 2 1), (F.CAN_Cc_FIFO1_OVWR c, x.at 2 1 / 2)]
    let s := s.loadsF [(F.CAN_Cc_CTL_LOM c, f / 4), (F.CAN_Cc_FIFO1_TUNNEL c, x.at 2 1 / 4), (F.CAN_Cc_GUARD_GUARD c, x.at 3 1),
      (F.CAN_Cc_GUARD_GUARD_DEST c, x.at 0x10 2), (F.CAN_Cc_GUARD_GUARD_CH c, x.at 0x12 1)]
    let b := 0xB1000 + 0x100 * c
    let s := s.loadWords (x.words 4 (b + 4) 3 ++ [(b + 0x50, x.at 0x18 4)] ++ x.words 0x20 (b + 0x80) 32)
    let s := s.store 2 (canFilt c 0) (bytesAt x.body 0xA0 256)
    let s := (List.range 64).foldl (fun t k => t.loadBuffer c k x) s
    { s with canned := setBit s.canned c true }

/-- The places of a sawyer's registers, but for its interrupts and counters. -/
def sawPlace (n p : Nat) : Bool :=
  let d := p - (0xC1000 + 0x80 * n)
  decide (0xC1000 + 0x80 * n ≤ p) && decide (d < 0x80) && !([0x18, 0x1C, 0x60].contains d)

/-- One sawyer of a GROVE section; its group pins take their SAFE codes (R234). -/
def State.loadSawyer (s : State) (n : Nat) (x : Section) : State :=
  let o := 8 + 64 * (n % 8)
  let s := if s.on (F.SAW_Sn_CTL_EN n) then s.sawEnable n false else s
  let s := s.clearRegs (sawPlace n)
  if !(bit (x.at o 1) 0) then s.setSaw n {}
  else
    let safe (k : Nat) : Nat := bits (x.at (o + 0x14) 4) (2 * k) 2
    let b := 0xC1000 + 0x80 * n
    let s := s.loadWords [(b + 4, max 0x500 (x.at (o + 4) 4)), (b + 8, x.at (o + 8) 4), (b + 0xC, x.at (o + 0xC) 4), (b + 0x10, x.at (o + 0x10) 4)]
    let s := s.setSaw n { used := true, pins := (List.range 16).map (fun k => x.at (o + 0x20 + 2 * k) 2),
                          out := packBits 16 (fun k => safe k == 2), safe := x.at (o + 0x14) 4, wrapStart := s.rd (F.SAW_Sn_PROG_WRAP_START n),
                          wrapEnd := s.rd (F.SAW_Sn_PROG_WRAP_END n) }
    s.wr (F.SAW_Sn_PINS_DIR n) (packBits 16 (fun k => safe k == 1 || safe k == 2))

/-- A grove (R250): its sawyers and its program, words from LENGTH on being 0. -/
def State.loadGrove (s : State) (g : Nat) (o : Option Section) : State :=
  let x := o.getD (noSection tGrove)
  let len := x.at 0 2 % 1024
  let s := (List.range 8).foldl (fun t k => t.loadSawyer (8 * g + k) x) s
  let s := s.wr (F.SAW_Gg_LEN_LENGTH g) len
  s.store 3 (groveOff g 0) (bytesAt x.body 520 (4 * len) ++ List.replicate (2048 - 4 * len) 0)

/-- A line of a BANK section; an output line's CMD takes its SAFE value, HOLD leaving it as it is (R59). -/
def State.loadLine (s : State) (n : Nat) (x : Section) : State :=
  let o := 4 * (n % 8)
  let s := s.wr (F.FLD_Ln_CFG_MODE n) (x.at o 1)
  let s := s.loadsA [(F.FLD_Ln_CFG_FILT n, x.at (o + 1) 1), (F.FLD_Ln_CFG_WB_EN n, x.at (o + 2) 1), (F.FLD_Ln_CFG_OL_EN n, x.at (o + 2) 1 / 2),
    (F.FLD_Ln_CFG_SAFE n, x.at (o + 3) 1)]
  if x.at o 1 = 3 ∧ x.at (o + 3) 1 ≠ 2 then s.setCmd n (x.at (o + 3) 1 == 1) else s

/-- A field bank and its feed (R168); without a section it is turned off. -/
def State.loadBank (s : State) (b : Nat) (o : Option Section) : State :=
  let x := o.getD (noSection tBank)
  let f := 0x90100 + 0x20 * b
  let there := o.isSome
  let s := if there then s else
    s.clearRegs (fun p => p == f + 4 || p == f + 8 || p == f + 0xC || (decide (0x80400 + 64 * b ≤ p) && decide (p < 0x80440 + 64 * b) && p % 8 == 0))
  let s := if there then
      let s := (linesOf b).foldl (fun t n => t.loadLine n x) s
      let s := s.loadsA [(F.FLD_Bb_CFG_RESTORE b, x.at 0x20 1 / 2), (F.FLD_Bb_CFG_KEEP_TMO b, x.at 0x22 2)]
      s.loadWords [(f + 4, x.at 0x24 4), (f + 8, x.at 0x28 2 + x.at 0x2A 2 * 2 ^ 16 + x.at 0x21 1 * 2 ^ 28),
        (f + 0xC, x.at 0x2C 2 + x.at 0x2F 1 * 2 ^ 16 + x.at 0x2E 1 * 2 ^ 24)]
    else s
  let s := (s.wr (F.CHK_Fn_STATUS_SEAT_EN b) (x.at 0x20 1)).wrB (F.FLD_Bb_CFG_BEN b) there
  let s := s.loadA (F.CHK_Fn_CTL_EN b) (b2n there)
  ({ s with fld := { s.fld with applied := setBit s.fld.applied b there } }).feedEnable b

/-- A fast line (R140); its normal value takes its SAFE value (R59). -/
def State.loadFast (s : State) (n : Nat) (o : Option Section) : State :=
  let x := o.getD { noSection tFast with body := [0, 0, 2, 0, 0, 0, 0, 0] }
  let s := s.loadsF [(F.PSL_FLn_CFG_DIR n, x.at 0 1), (F.PSL_FLn_CFG_SRC n, x.at 4 1)]
  let s := s.loadsA [(F.PSL_FLn_CFG_DRIVE n, x.at 1 1), (F.PSL_FLn_CFG_SAFE n, x.at 2 1)]
  let s := if n < 16 then s.loadBits F.SLC_OUTMODE0_MODE (2 * n) 2 (x.at 3 1) else s.loadBits F.SLC_OUTMODE1_MODE (2 * (n - 16)) 2 (x.at 3 1)
  let s := s.setNormal n (x.at 2 1 == 1)
  { s with slc := { s.slc with undriven := setBit s.slc.undriven n (x.at 2 1 == 2) } }

/-- A port stops: what happens at the boundary of an image that was PENDING (R481). -/
def State.stopPort (s : State) (t n : Nat) : State :=
  if t = tPort then (if s.on (F.PSL_Sn_CTL_EN n) then s.sliceEnable n false else s)
  else if t = tCanch then (if s.on (F.CAN_Cc_CTL_EN n) then s.canEnable n false else s)
  else if t = tGrove then (List.range 8).foldl (fun u k => if u.on (F.SAW_Sn_CTL_EN (8 * n + k)) then u.sawEnable (8 * n + k) false else u) s
  else s

/-- A port takes its section of a structure, or is disabled. -/
def State.loadPort (s : State) (l : List Section) (p : Nat × Nat) : State :=
  let n := unitOf p.1 p.2
  let o := sectionOf l p.1 p.2
  if p.1 = tPort then s.loadSlice n o
  else if p.1 = tCanch then s.loadCan n o
  else if p.1 = tGrove then s.loadGrove n o
  else if p.1 = tBank then s.loadBank n o
  else s.loadFast n o

/-! Global sections that switch at the boundary (R59) -/

def State.loadPoints (s : State) (x : Section) : State :=
  { s with alm := { s.alm with inLen := inLenOf x, outLen := outLenOf x, points := pointsOf x } }

/-- SLUICE (R139): new terms evaluate from the next cycle; class A writes staged by HOLD fall to the image. -/
def State.loadSluice (s : State) (x : Section) : State :=
  let event (e : Nat) : List (Nat × Nat) :=
    let o := 0xC00 + 8 * e
    [(0x71C00 + 8 * e, x.at o 4), (0x71C04 + 8 * e, x.at (o + 4) 2 + x.at (o + 6) 1 * 2 ^ 16 + x.at (o + 7) 1 * 2 ^ 31)]
  let t := s.loadWords (x.words 0 0x71000 768 ++ (List.range 32).flatMap event ++ x.words 0xD00 0x70040 16 ++ x.words 0xD40 0x70080 3 ++
    [(0x7008C, x.at 0xD4C 2)])
  State.noteForce s { t with slc := { t.slc with staged := [] } }

def State.loadSwitch (s : State) (x : Section) : State :=
  let cls (c : Nat) : List (Nat × Nat) := [(0x110100 + 16 * c, x.at (8 * c) 4), (0x110104 + 16 * c, x.at (8 * c + 4) 4)]
  let queue (q : Nat) : Nat × Nat := (0x110300 + 4 * q, x.at (0x58 + q) 1 % 8 + x.at (0x58 + q) 1 / 128 * 2 ^ 31)
  s.loadWords ((List.range 8).flatMap cls ++ (List.range 16).map queue ++
    [(0x110018, x.at 0x44 4), (0x11001C, x.at 0x48 1), (0x110020, x.at 0x40 4), (0x110024, x.at 0x4A 2 * 2 ^ 16 + x.at 0x49 1 * 2 ^ 30),
     (0x110028, x.at 0x4C 2 + x.at 0x4E 2 * 2 ^ 16), (0x11002C, x.at 0x50 2 % 4096 + x.at 0x52 2 * 2 ^ 16 + x.at 0x50 2 / 2 ^ 15 * 2 ^ 31),
     (0x110030, x.at 0x54 4)])

/-- The partitions of R138: base and size, one behind the other. -/
def partitions (x : Section) : List (Nat × Nat) :=
  (List.range 6).map (fun k => (((partSizes x).take k).foldl (· + ·) 0, x.at (2 * k) 2))

/-- CALENDAR: entries in a partition whose base or size changes are retracted (R59, R113). -/
def State.loadCalendar (s : State) (x : Section) : State :=
  let old (k : Nat) : Nat × Nat := (s.rd (F.SCH_PARTn_BASE k), s.rd (F.SCH_PARTn_SIZE k))
  let new := partitions x
  let moved := (List.range 6).filter (fun k => old k != new.getD k (0, 0))
  let lies (i k : Nat) : Bool := decide ((old k).1 ≤ i) && decide (i < (old k).1 + (old k).2)
  let s := s.calIndexes.foldl (fun t i => if moved.any (lies i) then t.calRetract i fAlmanac else t) s
  let s := s.loadWords ((0x60000, x.at 0xC 1 + x.at 0xD 1 * 256) ::
    (List.range 6).map (fun k => (0x60040 + 4 * k, (new.getD k (0, 0)).2 + (new.getD k (0, 0)).1 * 2 ^ 16)))
  s.defCommitChanged

/-- The entry of a slot in a TALLY section. -/
def tallyEntry (x : Section) (n : Nat) : Option (List Nat) :=
  ((entries 8 48 (x.at 0 1)).find? (fun e => x.at e.2 1 == n)).map (fun e => bytesAt x.body e.2 48)

/-- A slot takes a new entry, or none (R88, R97, R101): it enters EMPTY. -/
def State.loadSlot (s : State) (n : Nat) (o : Option (List Nat)) : State :=
  let base := 0x50100 + 0x40 * n
  let was := s.bound n
  let s := s.clearRegs (fun p => p == base || p == base + 4 || p == base + 8 || p == base + 0xC || p == base + 0x1C || p == base + 0x20)
  let s := ((s.toSlot n tEmpty).wr (F.TLY_Sn_STATE_MISS n) 0).setSlot n {}
  let s := match o with
    | none => s
    | some e =>
      let flags := leAt e 2 1
      let x : Section := ⟨tTally, 0, 0, 0, e⟩
      let s := s.loadWords [(base, x.at 0x18 2 + x.at 1 1 * 2 ^ 16 + x.at 3 1 * 2 ^ 24 + flags / 4 % 2 * 2 ^ 28 + flags / 2 % 2 * 2 ^ 29 +
        flags % 2 * 2 ^ 30 + 2 ^ 31), (base + 4, x.at 4 2 + x.at 6 2 * 2 ^ 16), (base + 8, x.at 0x10 4), (base + 0xC, x.at 0x14 4),
        (base + 0x1C, x.at 8 4), (base + 0x20, x.at 0xC 4)]
      s.setSlot n { vspeed := toSigned 64 (x.at 0x20 8), srcLat := x.at 0x28 4, rebase := was,
                      deadlinePassed := decide (s.deadlineAt n < s.now) }
  let s := if o.isSome then s.sourceBound n else s
  (s.calAbandon n).repredictSlot n

/-- TALLY: a slot whose entry is byte-identical keeps running (R59). -/
def State.loadTally (s : State) (old x : Section) : State :=
  (List.range 32).foldl (fun t n => if tallyEntry old n = tallyEntry x n then t else t.loadSlot n (tallyEntry x n)) s

/-- The pinned entries of a BRIDGE section as locked translations. -/
def pinsOf (x : Section) : List Translation :=
  (entries (48 + 8 * x.at 1 1) 24 (x.at 2 1)).map (fun e =>
    { ctx := x.at e.2 2, page := x.at (e.2 + 8) 8 / 4096, big := x.at (e.2 + 2) 1 == 1, fa := x.at (e.2 + 16) 8,
      r := bit (x.at (e.2 + 3) 1) 1, w := bit (x.at (e.2 + 3) 1) 0, locked := true })

/-- The page attributes of a BRIDGE section. -/
def attrsOf (x : Section) : List (Nat × Nat × Nat × Bool × Bool) :=
  (entries 48 8 (x.at 1 1)).map (fun e =>
    let r := rangePages x e.2
    (r.1, r.2.1, r.2.2 - r.2.1 + 1, bit (x.at e.2 8) 1, bit (x.at e.2 8) 0))

/-- BRIDGE, but for EP_EN: every prefetch slot is discarded, pins no longer listed are unlocked, new ones are locked (R59). -/
def State.loadBridge (s : State) (x : Section) : State :=
  let pins := pinsOf x
  let same (a b : Translation) : Bool := a.ctx == b.ctx && a.page == b.page
  let kept := (s.dmx.cache.filter (fun (t : Translation) => !(pins.any (same t)))).map (fun (t : Translation) => { t with locked := false })
  let s := s.loadWords ([(0x12000C, x.at 8 4), (0x120014, x.at 0xC 4), (0x120018, x.at 0x28 4), (0x120040, x.at 0x2C 4)] ++ x.words 0x20 0x120038 2)
  let s := (List.range 16).foldl (fun t n => (t.loadA (F.BRG_Wn_CFG_P n) (x.at (0x10 + n) 1)).loadA (F.BRG_Wn_CFG_POLL n) (x.at (0x10 + n) 1 / 2)) s
  { s with brg := { s.brg with slots := [], attrs := attrsOf x },
           dmx := { s.dmx with hvCtx := x.at 4 2, cache := pins.foldl cacheInsert kept } }

/-- POWER: a power slice asleep deeper than its new MAXST wakes at once (R59). -/
def State.loadPower (s : State) (x : Section) : State :=
  let s := s.loadsA [(F.PWR_CTL_GOV_EN, x.at 0 1), (F.PWR_GUARD_GUARD, x.at 2 2)]
  let s := s.loadWords ((List.range 64).map (fun n => (0x170100 + 16 * n, x.at (0x12 + 4 * n) 2 + x.at (0x10 + 4 * n) 1 * 2 ^ 30)))
  (List.range 64).foldl (fun t n => if t.rd (F.PWR_Sn_CFG_MAXST n) < t.power n then t.wake n else t) s

def State.loadFault (s : State) (x : Section) : State :=
  s.loadWords ((List.range 27).map (fun n => (0x1A0180 + 4 * n, x.at (2 * n) 2)) ++ [(0x1A0044, x.at 0x40 4), (0x1A0020, x.at 0x44 4)])

/-- The global sections that switch together in one cycle. -/
def State.switchGlobals (s : State) (old new : List Section) : State :=
  let g (t : Nat) : Section := globalOf new t
  let s := (((s.loadPoints (g tPoints)).loadSluice (g tSluice)).loadSwitch (g tSwitch)).loadCalendar (g tCalendar)
  (((s.loadTally (globalOf old tTally) (g tTally)).loadBridge (g tBridge)).loadPower (g tPower)).loadFault (g tFault)

/-! Sections that only a start or a structural restart changes -/

def State.loadBoard (s : State) (x : Section) : State :=
  let s := s.loadsF [(F.PSL_BANK_A_33, x.at 0 1), (F.PSL_BANK_B_33, x.at 1 1)]
  let s := (List.range 16).foldl (fun t f => t.feedFitted f (bit (x.at 4 2) f)) s
  s.loadWords [(0x90004, x.at 6 2)]

/-- TIME; the servo restarts in FREE, or in GM on a free-running grandmaster (R59, R84). -/
def State.loadTime (s : State) (x : Section) : State :=
  let s := s.loadWords ((0x40000, x.at 0x18 1 * 16 + x.at 0 1 * 32 + x.at 1 1 * 64) :: x.words 4 0x4003C 5 ++
    (List.range 8).map (fun p => (0x40108 + 0x20 * p, x.at (0x28 + 4 * p) 4)))
  let s := { s with tim := { s.tim with integ := 0, good := 0, off := 0, upstream := none, provisional := true, firstSync := none,
                                        lastFed := none, ptp := { domain := x.at 2 1, flags := x.at 3 1 },
                                        ringA := {}, ringB := {} } }.setFreq 0
  let s := { s with tim := { s.tim with freqs := [] } }
  s.toServo (if x.at 0 1 = 1 ∧ x.at 1 1 = 0 then servoGm else servoFree)

/-- RING. -/
def State.loadRing (s : State) (x : Section) : State :=
  let port (p : Nat) : Nat × Nat :=
    (0x100100 + 0x40 * p, bits (x.at 1 1) p 1 * 2 ^ 31 + bits (x.at (4 + p) 1) 0 2 * 2 ^ 29 + bits (x.at (4 + p) 1) 2 2 * 2 ^ 27)
  s.loadWords ([(0x100000, bits (x.at 0 1) 1 1 * 2 ^ 31 + bits (x.at 0 1) 0 1 * 2 ^ 30), (0x100018, x.at 8 4), (0x100020, x.at 0xC 4),
    (0x10001C, x.at 0x10 2), (0x100030, x.at 0x30 2 + x.at 0x12 2 * 2 ^ 16), (0x100034, x.at 0x16 2 + x.at 0x14 2 * 256)] ++
    x.words 0x18 0x100050 6 ++ (List.range 4).map port)

/-- Sections of the twin hash (R395). -/
def twinTypes : List Nat := [tPort, tGrove, tCanch, tBank, tFast, tPoints, tSluice, tCalendar, tTally]

/-- STATION: a twin without a role becomes UNSYNC, a hub that is none has none (R396). -/
def State.loadStation (s : State) (x : Section) : State :=
  let pos := s.rd F.GLB_POS_HUBPOS
  let a := bits (x.at 2 1) 0 2
  let b := bits (x.at 2 1) 2 2
  let twin : Bool := bit (x.at 1 1) 0 && (pos == a || pos == b)
  let s := s.loadsF [(F.STT_STATUS_RINGPOS, x.at 0 1), (F.STT_STATUS_TWIN_EN, x.at 1 1), (F.STT_STATUS_REF, x.at 1 1 / 2),
    (F.STT_STATUS_PARTNER, if twin then (if pos = a then b else a) else 0)]
  let port (k : Nat) : List (Fld × Nat) :=
    [(F.STT_Pk_CFG_USED k, x.at (4 + k) 1 / 128), (F.STT_Pk_CFG_FEC k, x.at (4 + k) 1 / 16), (F.STT_Pk_CFG_PEER k, x.at (4 + k) 1)]
  let pl0 := x.at 7 1
  let s := s.loadsF ((List.range 3).flatMap port ++ [(F.STT_Pk_CFG_USED 3, pl0), (F.STT_Pk_CFG_GBX 3, pl0 / 2), (F.STT_Pk_CFG_FEC 3, pl0 / 4),
    (F.STT_Pk_CFG_AN 3, pl0 / 8)])
  let s := s.loadWords ((0x160024, x.at 0xA 2) :: x.words 0x10 0x160058 2)
  let s := { s with stt := { s.stt with referee := x.at 8 2 } }
  if twin then (if s.role = roleNone then s.toRole roleUnsync else s) else s.wr F.STT_STATUS_ROLE roleNone

/-- The tamper settings of SECURITY: the first after POR_N sets the enables, a later one clears none that is set (R375;
notes/assumptions/13.md). -/
def State.loadTamper (s : State) (x : Section) : State :=
  let old := if s.sec.enablesSet then s.rd F.VGL_TCFG_EN else 0
  let s := { s with sec := { s.sec with enablesSet := true } }
  (s.loadWords [(0x180010, x.at 0 4), (0x180014, x.at 4 4)]).wr F.VGL_TCFG_EN (Nat.lor old (bits (x.at 0 4) 16 8))

/-- Every key slot is emptied and loaded from its record by its reference, in entry order (R360, R381). -/
def State.loadSecurity (s : State) (x : Section) : State :=
  let s := { s with sec := { s.sec with rspMap := bytesAt x.body 0x10 256, refs := refsOf x } }.zeroSlots
  (refsOf x).foldl (fun t (r : SecRef) =>
    let (u, c) := t.loadKey r.slot (some r.record)
    if c = 0 then u else (u.raise F.KEY_IRQ_LOADFAIL).boom { code := c, kind := 2, unit := r.slot }) s

/-- The ring, stitch and plant ports re-enter DOWN. -/
def State.portsDown (s : State) : State :=
  ((List.range 8).foldl (fun t p => ((((t.wr (portStateF p) 0).wr (portLockF p) 0).wr (portHbF p) 0).setMac p {})) s).wrapChanged

/-- The sections of a first Almanac or a structural restart, beside the globals of the boundary; every bank's feed stops, to start again
with its section. -/
def State.structural (s : State) (new : List Section) : State :=
  let g (t : Nat) : Section := globalOf new t
  let s := (((s.loadBoard (g tBoard)).loadTime (g tTime)).loadRing (g tRing)).loadStation (g tStation)
  let s := (s.loadTamper (g tSecurity)).portsDown
  let s := (List.range 16).foldl (fun t b => (t.wr (F.FLD_Bb_CFG_BEN b) 0).feedEnable b) s
  s.wr F.BRG_STATUS_EP ((g tBridge).at 0 1)

/-! The loader's states (R57) -/

def aNone : Nat := 0
def aIdle : Nat := 1
def aChecking : Nat := 2
def aPending : Nat := 3
def aApplying : Nat := 4

def State.almState (s : State) : Nat := s.rd F.ALM_STATUS_STATE
def State.toAlm (s : State) (st : Nat) : State := s.wr F.ALM_STATUS_STATE st
def State.almBusy (s : State) : Bool := decide (aChecking ≤ s.almState)

/-- A write that the loader ignores while it works on an image. -/
def State.almIgnored (s : State) : State := s.raise F.ALM_IRQ_WR_BUSY

/-- ALM_STAGE_DATA_WRITE: the word is stored at PTR, which advances. -/
def State.stageData (s : State) (w : Nat) : State :=
  let p := s.rd F.ALM_STAGE_PTR_PTR
  if s.almBusy then s.almIgnored
  else if 0x20000 ≤ p then s.raise F.ALM_IRQ_STAGE_OVR
  else (s.store stagingRegion (4 * p) (leBytes 4 w)).wr F.ALM_STAGE_PTR_PTR (p + 1)

def execAlmStageDataWrite (data : Word) (s : State) : Res := guarded s (fun s => (s.stageData data.toNat).ack)

/-- ALM_STAGE_PTR_WRITE (R69). -/
def State.stagePtr (s : State) (p : Nat) : State :=
  if 0x20000 < p then s.raise F.ALM_IRQ_STAGE_OVR else s.wr F.ALM_STAGE_PTR_PTR p

def execAlmStagePtrWrite (ptr : BitVec 18) (s : State) : Res := guarded s (fun s => (s.stagePtr ptr.toNat).ack)

/-- CLR_STAGE. -/
def State.clrStage (s : State) : State :=
  if s.almBusy then s.almIgnored
  else { s with mem := s.mem.filter (fun c => c.1 / 2 ^ 40 != stagingRegion) }.wr F.ALM_STAGE_PTR_PTR 0

def execClrStage (s : State) : Res := guarded s (fun s => s.clrStage.ack)

/-- ENABLE: the hub's own state is taken for the check, and with it what the check will find (R60). -/
def State.almEnable (s : State) : State :=
  if s.almBusy then s.almIgnored
  else
    let v := s.almCheck
    let s := ((s.toAlm aChecking).wr F.ALM_STATUS_SEQ (s.rd F.ALM_STATUS_SEQ + 1)).wr F.ALM_STATUS_ACCEPTED 0
    let s := ((s.wr F.ALM_STATUS_CODE 0).wr F.ALM_ERR_SECT_SECT 0).wr F.ALM_ERR_OFF_OFF 0
    { s with alm := { s.alm with checking := some v } }

def execAlmanacEnable (s : State) : Res := guarded s (fun s => s.almEnable.ack)

/-- CANCEL: only a PENDING image is withdrawn. -/
def State.almCancel (s : State) : State :=
  if s.almState ≠ aPending then s
  else
    let s := { s with alm := { s.alm with coming := none, switched := false } }
    (((s.toAlm aIdle).wr F.ALM_STATUS_ACCEPTED 0).wr F.ALM_STATUS_CODE 0x0148).raise F.ALM_IRQ_REFUSED

def execAlmanacCancel (s : State) : Res := guarded s (fun s => s.almCancel.ack)

/-- A field takes a value, or a free one where no rule states any: one of a list, where the list is not empty. -/
def State.wrOrFree (s : State) (f : Fld) (v : Option Nat) (l : List Nat := []) : State :=
  match v with
  | some n => s.wr f n
  | none => (s.wr f (if l.isEmpty then s.free else s.freeOf l)).draw

/-- The reason codes of the ALM block (R62); no others are produced (R43). -/
def almCodes : List Nat :=
  [0x0101, 0x0102, 0x0103, 0x0104, 0x0105, 0x0106, 0x0107, 0x0108, 0x0109, 0x010A, 0x010B] ++
    [0x0110, 0x0111, 0x0112, 0x0113, 0x0114, 0x0115, 0x0116, 0x0120, 0x0121, 0x0122, 0x0123, 0x0124, 0x0125, 0x0126, 0x0127, 0x0128] ++
    [0x0129, 0x012A, 0x012B, 0x012C, 0x012D, 0x012E, 0x012F, 0x0130, 0x0131, 0x0132, 0x0133, 0x0134] ++
    [0x0140, 0x0141, 0x0142, 0x0143, 0x0144, 0x0145, 0x0146, 0x0147, 0x0148]

/-- An image is refused: its code and place, and the interrupts. The structure in force stays (R58). -/
def State.almRefuse (s : State) (code sect off : Option Nat) : State :=
  let s := (((s.wrOrFree F.ALM_STATUS_CODE code almCodes).wrOrFree F.ALM_ERR_SECT_SECT sect).wrOrFree F.ALM_ERR_OFF_OFF off).wr F.ALM_STATUS_ACCEPTED 0
  let s := { s with alm := { s.alm with coming := none, switched := false } }
  ((s.toAlm (if s.almInForce then aIdle else aNone)).raise F.ALM_IRQ_DONE).raise F.ALM_IRQ_REFUSED

/-- Ordinal and header offset of one of an image's sections. -/
def Image.place (i : Image) (p : Nat × Nat) : Option (Nat × Nat) := (i.places.find? (fun q => q.1 == p)).map (·.2)

/-- The test at the instant at which an image is due (R61): the code and place of its failure. -/
def State.retest (s : State) (i : Image) : Option (Nat × Option (Nat × Nat)) :=
  if i.full then
    (if s.inService then (restartSection s.alm.force i.sections).map (fun p => (0x0147, i.place p)) else none)
  else (s.busyPort i.named).map (fun p => (0x0145, i.place p))

/-- Whether application is a first one or a structural restart (R59). -/
def State.restarts (s : State) (i : Image) : Bool :=
  i.full && (s.alm.force.isEmpty || (restartSection s.alm.force i.sections).isSome)

/-- ALMANAC_CHECK_DONE; a structural restart goes straight to APPLYING (R481). -/
def State.checkDone (s : State) : State :=
  match s.alm.checking with
  | none => s
  | some v =>
    let s := { s with alm := { s.alm with checking := none } }
    match v with
    | .refused code sect off => s.almRefuse code sect off
    | .passed i =>
      let taken (s : State) (st : Nat) : State :=
        let s := ((s.toAlm st).wr F.ALM_STATUS_ACCEPTED 1).raise F.ALM_IRQ_DONE
        { s with alm := { s.alm with coming := some i, switched := false } }
      if !s.almInForce then taken s aApplying
      else if s.harvestRuns && !(s.restarts i && !s.inService) then taken s aPending
      else match s.retest i with
        | some (code, p) => s.almRefuse (some code) (p.map (·.1)) (p.map (·.2))
        | none => taken s aApplying

def execAlmanacCheckDone (s : State) : Res := guarded s (fun s => s.checkDone)

/-! Application (R59, R68, R481) -/

/-- The ports that an image changes: those it names, those whose sections differ, or at a restart every one that has a section. -/
def State.changedPorts (s : State) (i : Image) : List (Nat × Nat) :=
  if !i.full then i.named.filter (fun p => isPort p.1)
  else
    let ids (l : List Section) : List (Nat × Nat) := (l.filter (fun (x : Section) => isPort x.typ)).map (fun (x : Section) => (x.typ, x.inst))
    let old := ids s.alm.force
    let all := ids i.sections ++ old.filter (fun p => !((ids i.sections).contains p))
    if s.restarts i then all
    else all.filter (fun p => sectionOf s.alm.force p.1 p.2 != sectionOf i.sections p.1 p.2)

/-- The globals switch, staged Sluice writes are discarded (R137), and the changed ports stop. -/
def State.almSwitch (s : State) (i : Image) : State :=
  let ports := s.changedPorts i
  let s := if i.full then s.switchGlobals s.alm.force i.sections else s.loadPoints (globalOf i.sections tPoints)
  let s := { s with slc := { s.slc with staged := [] } }
  ports.foldl (fun t p => t.stopPort p.1 (unitOf p.1 p.2)) s

/-- What a harvest boundary does to an image that waits for it. -/
def State.almBoundary (s : State) : State :=
  match s.alm.coming with
  | none => s
  | some i =>
    if s.almState ≠ aPending then s
    else match s.retest i with
      | some (code, p) => s.almRefuse (some code) (p.map (·.1)) (p.map (·.2))
      | none =>
        let s := (s.almSwitch i).toAlm aApplying
        { s with alm := { s.alm with switched := true } }

/-- The power slice of a port. -/
def powerOf (p : Nat × Nat) : Option Nat :=
  let n := unitOf p.1 p.2
  if p.1 = tPort then some (slicePower n) else if p.1 = tCanch then some (canPower n) else if p.1 = tGrove then some (16 + n) else none

/-- Power slices whose units' sections changed: what a NAP kept of them is stale (R434); one that is no longer held starts in RUN, one that
is held now hibernates. -/
def State.powerChanged (s : State) (was : List Nat) (ports : List (Nat × Nat)) : State :=
  (List.range 64).foldl (fun t n =>
    let t := if ports.any (fun p => powerOf p == some n) then
        (t.wr (F.PWR_Sn_STAT_RSEQ n) (t.rd (F.PWR_Sn_STAT_RSEQ n) + 1)).wr (F.PWR_Sn_STAT_LISTOK n) 0 else t
    if t.powerHeld n && !(was.contains n) then t.toPower n pHibernate
    else if !(t.powerHeld n) && was.contains n then t.toPower n pRun
    else t) s

/-- The power slices held off. -/
def State.heldPower (s : State) : List Nat := (List.range 64).filter s.powerHeld

/-- The registers that show the structure in force (R50). -/
def State.showStructure (s : State) (i : Image) : State :=
  let s := (List.range 12).foldl (fun t n => t.wr (F.ALM_HASH_DIGEST n) (leAt i.hash (4 * n) 4)) s
  let s := s.wr F.GLB_HEALTH_ALM_HASH (leAt i.hash 46 1 * 256 + leAt i.hash 47 1)
  (((s.wr F.ALM_VERSION_VERSION i.version).wr F.ALM_KIND_SVN i.svn).wr F.ALM_KIND_SCHEMA i.schema).raise F.GLB_HEALTH_ALM_OK

/-- DRIFT after application (R68). -/
def State.driftAfter (s : State) (full : Bool) : State :=
  if full || s.alm.departing.isEmpty then s.endDrift else s.raise F.GLB_HEALTH_DRIFT

/-- The new structure is the one in force. -/
def State.inForceNow (s : State) (i : Image) : State :=
  let own := s.rd F.GLB_POS_STATION
  let tgt := if i.full then i.tgtStation else s.alm.tgtStation
  let s := { s with alm := { s.alm with force := i.sections, coming := none, switched := false, tgtStation := tgt,
                                        foreign := if i.full then tgt != 0 && own != 0 && tgt != own else s.alm.foreign } }
  { s with stt := { s.stt with twinHash := Config.sha384 (sectionBytes (i.sections.filter (fun (x : Section) => twinTypes.contains x.typ))) } }

/-- The JOIN that follows an application on a hub that is not in service (R280); a stitched hub sends its own record. -/
def State.joinAfter (s : State) : State :=
  if s.inService then s
  else if s.ringHub then s.joinSend
  else if s.uplink.isSome then s.toHead (s.joinPayload [s.ownRecord])
  else s

/-- ALMANAC_APPLIED. -/
def State.almApplied (s : State) : State :=
  match s.alm.coming with
  | none => s
  | some i =>
    if s.almState ≠ aApplying then s
    else
      let ports := s.changedPorts i
      let restart := s.restarts i
      let held := s.heldPower
      let s := if s.alm.switched then s else s.almSwitch i
      let s := if restart then s.structural i.sections else s
      let s := ports.foldl (fun t p => t.loadPort i.sections p) s
      let s := if i.full then (s.endDepartures s.alm.departing).loadSecurity (globalOf i.sections tSecurity) else s
      let s := ((s.showStructure i).inForceNow i).driftAfter i.full
      let s := ((s.powerChanged held ports).toAlm aIdle).raise F.ALM_IRQ_APPLIED
      s.joinAfter

def execAlmanacApplied (s : State) : Res := guarded s (fun s => s.almApplied)

end Sys2Proof.Machine
end

