-- ==== Sys2Proof/Machine/Reset.lean ====
section
/-!
DEFINITION. The resets, exit from STANDBY, tamper events, the supplies and the ageing monitors (13 R375 to R379, R385; 16 R437, R438;
17 R462, R463, R472, R473).
-/

namespace Sys2Proof.Machine

/-! What a reset keeps (R438) -/

/-- Fused fields: GLB_REV, GLB_SERIAL, TIM_Pn_TXCOR and RXCOR, KEY_STATUS.LC, UPD_SVNc.FLOOR, UPD_KEYS. -/
def fusedKey (k : Nat) : Bool :=
  let off := k / 32
  off == 4 || off == 8 || off == 0xC || (List.range 8).any (fun p => (F.TIM_Pn_TXCOR_TXCOR p).off == off || (F.TIM_Pn_RXCOR_RXCOR p).off == off) ||
    k == F.KEY_STATUS_LC.key || (List.range 5).any (fun c => (F.UPD_SVNc_FLOOR c).key == k) || off == F.UPD_KEYS_PROV.off

/-- What Vigil keeps through every reset: the latch, the log and its time, the sources' present states, VBAT, and the retention store. -/
def vigilKey (k : Nat) : Bool :=
  k == F.VGL_STATUS_TLATCH.key || k == F.VGL_STATUS_ACTIVE.key || k == F.VGL_STATUS_VBAT_LOW.key || k / 32 == F.VGL_TLOG_CODE.off ||
    (List.range 3).any (fun n => (F.VGL_TTIME_TIME n).key == k) || k / 32 == F.VGL_VBAT_MV.off ||
    (decide ((F.KEY_Sn_INFO_VALID 0).off ≤ k / 32) && decide (k / 32 < (F.KEY_Sn_INFO_VALID 256).off))

/-- What the HV die holds, which no main-die reset changes: lines, banks and feeds (R146, R438), and the fence pin. -/
def hvDieKey (k : Nat) : Bool :=
  let off := k / 32
  (decide (0x80200 ≤ off) && decide (off < 0x80240)) || (decide (0x80400 ≤ off) && decide (off < 0x80800)) || off == 0x90000 ||
    (decide (0x90100 ≤ off) && decide (off < 0x90300)) || k == F.FLD_STATUS_FENCE.key

/-- The main die's own lasting inputs: bank supplies, fence pin, and the counter that every reset only advances. -/
def alwaysKey (k : Nat) : Bool :=
  k == F.PSL_BANK_A_OK.key || k == F.PSL_BANK_B_OK.key || k == F.STT_STATUS_FENCE_IN.key || k == F.UPD_BOOT_BOOT_SRC.key ||
    (List.range 64).any (fun n => (F.PWR_Sn_STAT_RSEQ n).key == k)

/-- What a reset beside POR_N keeps as well: BOM_WPTR, GLB_POS, and Vigil's enables, limits and TSAFE (R375). -/
def softKey (k : Nat) : Bool :=
  k == F.BOM_WPTR_INDEX.key || k / 32 == F.GLB_POS_STATION.off || k / 32 == F.VGL_TCFG_EN.off || k / 32 == F.VGL_TEMP_THIGH.off ||
    k == F.VGL_STATUS_TSAFE.key

/-- A register field keeps its value. -/
def keptKey (por : Bool) (k : Nat) : Bool :=
  fusedKey k || vigilKey k || hvDieKey k || alwaysKey k || (!por && softKey k) || (por && k == F.GLB_POS_HUBPOS.key)

/-- The main die is reset (R438). The HV link falls silent; RSEQ of every power slice advances (R434). -/
def State.mainReset (s : State) (por : Bool) (reason : Nat) : State :=
  let s := if s.hvLink then s.hvLinkLost 0 else s
  let t : State :=
    { State.reset with
      pending := s.pending, clk := s.clk, egress := s.egress, freeCtr := s.freeCtr, banksOut := s.banksOut
      regs := s.regs.filter (fun p => keptKey por p.1)
      mem := s.mem.filter (fun c => c.1 / 2 ^ 40 == flashRegion || (!por && c.1 / 2 ^ 40 == 5))
      fld := { s.fld with applied := 0, loopback := none }
      chk := { s.chk with calibrating := none }
      sec := { slots := s.sec.slots, salts := s.sec.salts, pubKeys := s.sec.pubKeys, enablesSet := !por && s.sec.enablesSet } }
  let t := (List.range 64).foldl (fun u n => u.wr (F.PWR_Sn_STAT_RSEQ n) (u.rd (F.PWR_Sn_STAT_RSEQ n) + 1)) t
  t.wr F.UPD_BOOT_REASON reason

/-- The straps are sampled at the release of a reset. -/
def State.sampleBoot (s : State) (bootSrc : Nat) : State := s.wr F.UPD_BOOT_BOOT_SRC bootSrc

/-- POR_N low and its release: the supplies are there. -/
def State.porReset (s : State) (stnPos bootSrc : Nat) : State :=
  (((s.mainReset true 0).sampleBoot bootSrc).wr F.GLB_POS_STATION 0).wr F.GLB_POS_HUBPOS stnPos

/-- POR_N_ASSERT. -/
def execPorNAssert (stnPos bootSrc : Fin 4) (s : State) : Res := .next (s.porReset stnPos bootSrc)

/-- SYS_RST_N_ASSERT; in STANDBY it wakes the hub, and without VAUX it has no effect. -/
def execSysRstNAssert (bootSrc : Fin 4) (s : State) : Res :=
  .next (if s.pwr.vbat then s else (s.mainReset false (if s.pwr.standby then 5 else 1)).sampleBoot bootSrc)

/-- A write of 1 to UPD_CTL.SYSRST. -/
def State.sysrst (s : State) (bootSrc : Nat) : State := (s.mainReset false 2).sampleBoot bootSrc

/-- SYSRST. -/
def execSysrst (bootSrc : Fin 4) (s : State) : Res := guarded s (fun s => s.sysrst bootSrc)

/-- PERST_N low: the endpoint and BRG_Wn_CFG.EN; prefetch slots are discarded. A hub without an endpoint ignores it (R313). -/
def State.perst (s : State) : State :=
  if !(s.on F.BRG_STATUS_EP) then s
  else
    let up := s.on F.BRG_STATUS_DL_UP
    let s := (List.range 16).foldl (fun t n => t.wr (F.BRG_Wn_CFG_EN n) 0) (s.raise F.BRG_IRQ_PERST)
    let s := { s with brg := { s.brg with slots := [], hostReads := [], hostAtomics := [], backoff := s.brg.backoff.filter (· < 3),
                                          waiting := s.brg.waiting.filter (fun (r : Request) => match r.use with
                                            | .host .. => false
                                            | .hostAtomic _ => false
                                            | .prefetch _ => false
                                            | _ => true) } }
    let s := ((s.wr F.BRG_STATUS_DL_UP 0).wr F.BRG_STATUS_SPEED 0).wr F.BRG_STATUS_WIDTH 0
    if up then s.raise F.BRG_IRQ_LINK else s

def execPerstNAssert (s : State) : Res := guarded s (fun s => s.perst)

/-- PCIE_LINK_CHANGE (R314). -/
def execPcieLinkChange (up : Bool) (speed width : Fin 8) (s : State) : Res :=
  guarded s (fun s =>
    if !(s.on F.BRG_STATUS_EP) then s
    else
      let changed := s.on F.BRG_STATUS_DL_UP != up
      let s := ((s.wrB F.BRG_STATUS_DL_UP up).wr F.BRG_STATUS_SPEED (if up then speed else 0)).wr F.BRG_STATUS_WIDTH (if up then width else 0)
      if changed then s.raise F.BRG_IRQ_LINK else s)

/-! STANDBY's end (R437) -/

/-- The hub wakes from STANDBY and starts. -/
def State.standbyExit (s : State) (reason : Nat) : State := s.mainReset false reason

/-- Whether the wake timer has run out: its MS on Vigil's oscillator, at the earliest 2 % sooner. -/
def State.wakeTimer (s : State) : Bool :=
  let ms := s.rd F.PWR_WAKE_TMR_MS
  ms != 0 && decide (98 * msClk ms ≤ 100 * (s.clk - s.pwr.since))

/-- STANDBY_WAKE: the timer (0), a tamper event (1), SYS_RST_N (2) or POR_N (3). -/
def execStandbyWake (source bootSrc stnPos : Fin 4) (s : State) : Res :=
  guardedVigil s (fun s =>
    if !s.pwr.standby || s.pwr.vbat then s
    else match source.val with
      | 0 => if s.wakeTimer then (s.standbyExit 3).sampleBoot bootSrc else s
      | 1 => if s.tlatch then (s.standbyExit 4).sampleBoot bootSrc else s
      | 2 => (s.standbyExit 5).sampleBoot bootSrc
      | _ => s.porReset stnPos bootSrc)

/-! Tamper events (R375, R376) -/

def stageVigil : Nat := 0
def stageRom : Nat := 1
def stageRomrec : Nat := 2
def stageStump : Nat := 3
def stageNetrec : Nat := 4
def stageFw : Nat := 5
def stageHalt : Nat := 7

def State.stage (s : State) : Nat := s.rd F.UPD_BOOT_STAGE
def State.toStage (s : State) (st code : Nat) : State := (s.wr F.UPD_BOOT_STAGE st).wr F.UPD_BOOT_CODE code

/-- A tamper event of source k, by its phase. -/
def State.tamper (s : State) (k : Nat) : State :=
  let s := s.tamperLog k
  if s.pwr.vbat then s
  else
    let s := s.tamperKeys
    if s.pwr.standby then (s.standbyExit 4).raise F.VGL_STATUS_TSAFE
    else if s.almInForce then s
    else (s.mainReset false (s.rd F.UPD_BOOT_REASON)).toStage stageHalt (s.rd F.VGL_TLOG_CODE)

/-- TAMPER_EVENT: the sources that are active now; each that became active and is watched raises an event. -/
def execTamperEvent (active : BitVec 8) (s : State) : Res :=
  guardedVigil s (fun s =>
    (s.newSources active.toNat).foldl (fun t k => t.tamper k) (s.wr F.VGL_STATUS_ACTIVE active.toNat))

/-- VBAT_LOW: a measurement of VBAT in mV (R385). -/
def execVbatLow (mv : BitVec 16) (s : State) : Res :=
  guardedVigil s (fun s =>
    let low := decide (mv.toNat < 2200)
    let fell := low && !(s.on F.VGL_STATUS_VBAT_LOW)
    let s := (s.wr F.VGL_VBAT_MV mv.toNat).wrB F.VGL_STATUS_VBAT_LOW low
    if fell then s.raise F.VGL_IRQ_VBATLOW else s)

/-! Supplies (R462, R463) -/

/-- VAUX_LOST: a main-die reset; Vigil runs from VBAT alone, which holds no keys (R376). -/
def execVauxLost (s : State) : Res :=
  guardedVigil s (fun s =>
    let s := (s.loadedSlots.foldl (fun t n => t.emptySlot n) s).mainReset true 0
    { s with pwr := { s.pwr with standby := true, vbat := true } })

/-- BANK_SUPPLY_WINDOW: VIOA (0) or VIOB (1) leaves or enters its window. -/
def execBankSupplyWindow (bank : Fin 2) (inside : Bool) (s : State) : Res :=
  guardedVigil s (fun s =>
    { s.wrB (if bank.val = 0 then F.PSL_BANK_A_OK else F.PSL_BANK_B_OK) inside with banksOut := setBit s.banksOut bank (!inside) })

/-! Ageing monitors (R472, R473) -/

/-- Warning and limit of a monitor, and whether a reading lies beyond a value. -/
def ageWarn (m : Nat) : Nat := if m = 0 then 300 else if m = 1 then 250 else 45
def ageLimit (m : Nat) : Nat := if m = 0 then 450 else if m = 1 then 150 else 25
def ageBeyond (m v bound : Nat) : Bool := if m = 0 then decide (bound < v) else decide (v < bound)

/-- The Boom record of a monitor's latest reading. -/
def State.ageRecord (s : State) (m : Nat) : State :=
  match s.ageing.get? m with
  | none => s
  | some r =>
    s.boom { code := 0, kind := 2, unit := m, writer := 0x01,
             data := r.value + ageWarn m * 2 ^ 16 + r.place * 2 ^ 32 + (b2n r.warn + 2 * b2n r.limit) * 2 ^ 40 }

/-- AGEING_MEASURE: a reading, with its port or die; a crossing of a value in either direction is recorded. -/
def execAgeingMeasure (monitor : Fin 3) (place : Fin 8) (value : BitVec 16) (s : State) : Res :=
  guarded s (fun s =>
    let m := monitor.val
    let v := value.toNat
    let old := s.ageing.get? m
    let r : AgeReading := { value := v, place := if m = 2 then 0 else place.val, warn := ageBeyond m v (ageWarn m), limit := ageBeyond m v (ageLimit m) }
    let crossed : Bool := r.warn != old.elim false (·.warn) || r.limit != old.elim false (·.limit)
    let s := { s with ageing := s.ageing.insert m r }
    let s := s.wrB F.GLB_HEALTH_AGEING (s.ageing.any (fun p => p.2.warn))
    if crossed then s.ageRecord m else s)

/-- AGEING_RECORD: the record due at the start and every 24 hours. -/
def execAgeingRecord (monitor : Fin 3) (s : State) : Res := guarded s (fun s => s.ageRecord monitor)

end Sys2Proof.Machine
end

