-- ==== Sys2Proof/Machine/Update.lean ====
section
/-!
DEFINITION. The start, engine images, flash, the Stump service, net recovery and ROM recovery (16 R439 to R453).
-/

namespace Sys2Proof.Machine

/-! Images (R441, R443, R445) -/

/-- Flash offset and size of a class's area. -/
def areaOf (c : Nat) : Nat × Nat :=
  match c with
  | 1 => (0, 0x40000)
  | 2 => (0x100000, 0x200000)
  | 3 => (0x300000, 0x40000)
  | 4 => (0x400000, 0x100000)
  | _ => (0x340000, 0xC0000)

/-- The header of a class's image at a place. -/
def State.imageHead (s : State) (region off c : Nat) : List Nat := s.bytes region off (if c = 4 then 0x130 else 0x100)

def imageVersion (c : Nat) (h : List Nat) : Nat := if c = 4 then leAt h 0x20 4 else leAt h 8 4
def imageSvn (c : Nat) (h : List Nat) : Nat := if c = 4 then leAt h 0xE 1 else leAt h 6 1
def imageSerial (c : Nat) (h : List Nat) : Nat := if c = 4 then leAt h 0x18 8 else leAt h 0x10 8

/-- Bytes of an image, header and all. -/
def imageBytes (c : Nat) (h : List Nat) : Nat := if c = 4 then leAt h 8 4 else 0x100 + leAt h 0xC 4

/-- MAGIC, CLASS, LENGTH and the reserved bytes of a header are as they must be. -/
def headerForm (c : Nat) (h : List Nat) : Bool :=
  if c = 4 then
    leAt h 0 4 == 0xA14C4D41 && leAt h 5 1 == 3 && decide (leAt h 4 1 ≤ 2) && (leAt h 6 1 == 1 || leAt h 6 1 == 2) &&
      leAt h 8 4 % 8 == 0 && decide (0x130 ≤ leAt h 8 4) && decide (leAt h 8 4 ≤ 524288) && leAt h 0xF 1 == 0 && leAt h 0x13 5 == 0 &&
      leAt h 0x24 28 == 0
  else
    let room := if c = 1 then 0x10000 else (areaOf c).2 - 0x100
    leAt h 0 4 == 0xA1494D47 && leAt h 4 1 == c && leAt h 0xC 4 % 16 == 0 && decide (leAt h 0xC 4 ≤ room) && leAt h 7 1 == 0 &&
      leAt h 0x1C 4 == 0 && (c == 2 || leAt h 0x18 4 == 0) && leAt h (0x20 + 8 * (c - 1)) 8 == 0 && leAt h 0x48 8 == 0 && leAt h 0xE0 32 == 0

/-- The hash, and the key, message and signature of a header. -/
def imageHash (c : Nat) (h : List Nat) : List Nat := if c = 4 then bytesAt h 0xA0 48 else bytesAt h 0x50 48
def imageSigned (s : State) (c : Nat) (h : List Nat) : Bool :=
  if c = 4 then s.signed (leAt h 7 1) (bytesAt h 0 0xD0) (bytesAt h 0xD0 96) else s.signed (leAt h 5 1) (bytesAt h 0 0x80) (bytesAt h 0x80 96)

/-- The first check of R445 that the image of a class at a place fails. -/
def State.imageCode (s : State) (region off c : Nat) : Option Nat :=
  let h := s.imageHead region off c
  let head := if c = 4 then 0x130 else 0x100
  if !(decide (1 ≤ c) && decide (c ≤ 5)) || !(headerForm c h) then some 0x1901
  else if imageSerial c h ≠ 0 ∧ imageSerial c h ≠ s.serial then some 0x1907
  else if imageSvn c h < s.rd (F.UPD_SVNc_FLOOR (c - 1)) then some 0x1904
  else if exactly 48 (Config.sha384 (s.bytes region (off + head) (imageBytes c h - head))) ≠ imageHash c h then some 0x1902
  else if !(imageSigned s c h) then some 0x1903
  else none

/-- The header of the installed image of a class, when it verifies. -/
def State.installed (s : State) (c : Nat) : Option (List Nat) :=
  match s.imageCode flashRegion (areaOf c).1 c with
  | none => some (s.imageHead flashRegion (areaOf c).1 c)
  | some _ => none

/-- VERSION below that of the installed image (R447). -/
def State.versionBelow (s : State) (c : Nat) (h : List Nat) : Bool :=
  (s.installed c).any (fun i => decide (imageVersion c h < imageVersion c i))

/-- Ordered pairs of classes that are not compatible (R448); the Almanac appears only as Y. -/
def clashes (l : List (Nat × List Nat)) : List (Nat × Nat) :=
  l.flatMap (fun x => if x.1 = 4 then [] else l.filterMap (fun y =>
    let v := imageVersion y.1 y.2
    let o := 0x20 + 8 * (y.1 - 1)
    if x.1 ≠ y.1 ∧ (v < leAt x.2 o 4 ∨ leAt x.2 (o + 4) 4 < v) then some (x.1, y.1) else none))

/-- The combination that results when given images stand for their classes. -/
def State.combination (s : State) (l : List (Nat × List Nat)) : List (Nat × List Nat) :=
  [1, 2, 3, 4, 5].filterMap (fun c =>
    match l.find? (fun p => p.1 == c) with
    | some p => some p
    | none => (s.installed c).map (fun h => (c, h)))

/-- UPD_VERc and UPD_SVNc.IMG show what flash holds. -/
def State.showImage (s : State) (c : Nat) : State :=
  let h := s.installed c
  (s.wr (F.UPD_VERc_VERSION (c - 1)) (h.elim 0 (imageVersion c))).wr (F.UPD_SVNc_IMG (c - 1)) (h.elim 0 (imageSvn c))

/-- Yarder pair 0 starts the firmware image at a place, copied to region 0x4 at its ENTRY. -/
def State.startFirmware (s : State) (region off : Nat) : State :=
  let h := s.imageHead region off 2
  let entry := leAt h 0x18 4
  let s := s.store 4 entry (s.bytes region (off + 0x100) (leAt h 0xC 4))
  { s.toStage stageFw 0 with upd := { s.upd with firmware := some entry } }

/-! Update state records (R450) -/

/-- An update state record's half (R441, R450). -/
def stateHalf (h : Nat) : Nat := 0x40000 + 4096 * h
def State.stateVerifies (s : State) (h : Nat) : Bool :=
  s.le flashRegion (stateHalf h) 4 == 0xA1555344 &&
    s.bytes flashRegion (stateHalf h + 16) 48 == exactly 48 (Config.sha384 (s.bytes flashRegion (stateHalf h) 16))
def State.stateGen (s : State) (h : Nat) : Nat := s.le flashRegion (stateHalf h + 4) 4

/-- The half whose record counts. -/
def State.stateWinner (s : State) : Option Nat :=
  match s.stateVerifies 0, s.stateVerifies 1 with
  | false, false => none
  | true, false => some 0
  | false, true => some 1
  | true, true => if newer 32 (s.stateGen 1) (s.stateGen 0) then some 1 else some 0

/-- The classes of an INSTALL that was cut: the mask of a winner whose STATE is WRITING. -/
def State.writing (s : State) : Nat :=
  match s.stateWinner with
  | some h => if s.le flashRegion (stateHalf h + 8) 1 = 1 then s.le flashRegion (stateHalf h + 9) 1 else 0
  | none => 0

/-! The start (R439) -/

/-- BOOT_VIGIL_STAGE: the root is derived; TLATCH or an enabled source that is active halts the start. -/
def execBootVigilStage (s : State) : Res :=
  guarded s (fun s =>
    if s.stage ≠ stageVigil then s
    else
      let live := (setBits (Nat.land (s.rd F.VGL_STATUS_ACTIVE) s.tamperEn) 8)
      let s := match live with
        | [] => s
        | k :: _ => if s.tlatch then s else (s.tamperLog k).tamperKeys
      let s := (s.wrB F.KEY_STATUS_ROOT_OK (hasRoot s.lc && !s.tlatch)).renewNonce
      if s.tlatch || !live.isEmpty then s.toStage stageHalt (s.rd F.VGL_TLOG_CODE) else s.toStage stageRom 0)

/-- BOOT_ROM_STAGE: BOOT_SRC 0b11 and 0b10 wait for recovery packets; otherwise Stump is verified, locked and started. -/
def execBootRomStage (s : State) : Res :=
  guarded s (fun s =>
    if s.stage ≠ stageRom then s
    else if 2 ≤ s.rd F.UPD_BOOT_BOOT_SRC then s.toStage stageRomrec 0
    else match s.imageCode flashRegion 0 1 with
      | some code => s.toStage stageRomrec code
      | none =>
        let s := (((s.wr F.UPD_SVC_ADDR s.free).draw).showImage 1).toStage stageStump 0
        { s with upd := { s.upd with stumpLocked := true } })

/-- Classes beside Stump that do not verify, or take part in a pair that is not compatible; of an INSTALL that was cut, every class whose
combination does not verify (R450). -/
def State.needed (s : State) : List Nat :=
  let pairs := clashes (s.combination [])
  [2, 3, 4, 5].filter (fun c => (s.installed c).isNone || pairs.any (fun p => p.1 == c || p.2 == c) ||
    (bit s.writing c && !pairs.isEmpty))

/-- The code that diverts a start to net recovery. -/
def State.brokenCode (s : State) : Nat :=
  ([2, 3, 4, 5].findSome? (fun c => s.imageCode flashRegion (areaOf c).1 c)).getD 0x1906

/-- BOOT_STUMP_STAGE. -/
def execBootStumpStage (s : State) : Res :=
  guarded s (fun s =>
    if s.stage ≠ stageStump then s
    else if s.rd F.UPD_BOOT_BOOT_SRC = 1 then s.toStage stageNetrec 0
    else
      let s := [2, 3, 4, 5].foldl (fun t c => t.showImage c) s
      if s.needed.isEmpty then s.startFirmware flashRegion (areaOf 2).1 else s.toStage stageNetrec s.brokenCode)

/-! Engine images (R440) -/

/-- UPD_ELOAD written: the load starts; while one runs, GO is captured. -/
def State.eload (s : State) (init : Initiator) (cls : Nat) (go : Bool) : State :=
  let s := (s.wr F.UPD_ELOAD_CLASS cls).ack
  if !go then s
  else if s.upd.loading.isSome then s.capture init (s.ownFa 0 F.UPD_ELOAD_GO.off) 0x190E
  else
    let s := s.resStart RR.UPD_ELOAD_RES
    if cls = 3 ∨ cls = 5 then { s with upd := { s.upd with loading := some (cls, s.rd F.UPD_ELOAD_SRC_OFFSET) } }
    else (s.resDone RR.UPD_ELOAD_RES 0x1901).raise F.UPD_IRQ_ELDONE

/-- UPD_ELOAD. -/
def execUpdEload (init : Initiator) (cls : Fin 8) (s : State) : Res := guarded s (fun s => s.eload init cls true)

/-- UPD_ELOAD_COMPLETE: the image is verified, with the combination, and loaded. -/
def State.eloadDone (s : State) : State :=
  match s.upd.loading with
  | none => s
  | some (c, off) =>
    let s := { s with upd := { s.upd with loading := none } }
    let h := s.imageHead 4 off c
    let code := match s.imageCode 4 off c with
      | some code => code
      | none => if (clashes (s.combination [(c, h)])).isEmpty then 0 else 0x1906
    let s := (s.resDone RR.UPD_ELOAD_RES code).raise F.UPD_IRQ_ELDONE
    if code ≠ 0 then s
    else if c = 3 then (s.raise F.FLD_STATUS_FW_OK).wr F.FLD_STATUS_FW_VER (imageVersion c h)
    else { s with upd := { s.upd with microcode := true } }

def execUpdEloadComplete (s : State) : Res := guarded s (fun s => s.eloadDone)

/-! The Stump service (R449, R450) -/

/-- A record is written to the other half. -/
def State.writeState (s : State) (st mask : Nat) : State :=
  let (h, gen) := match s.stateWinner with
    | some w => (1 - w, s.stateGen w + 1)
    | none => (0, 1)
  let b := leBytes 4 0xA1555344 ++ leBytes 4 gen ++ [st, mask, 0, 0, 0, 0, 0, 0]
  (s.flashErase (stateHalf h) 4096).store flashRegion (stateHalf h) (b ++ exactly 48 (Config.sha384 b))

/-- An image is programmed over the installed one. -/
def State.programImage (s : State) (c region off : Nat) : State :=
  let n := imageBytes c (s.imageHead region off c)
  let b := s.bytes region off n
  ((s.flashErase (areaOf c).1 ((n + 4095) / 4096 * 4096)).store flashRegion (areaOf c).1 b).showImage c

/-- COUNT entries of an argument block: class and region 0x4 offset. -/
def installEntries (b : List Nat) : List (Nat × Nat) :=
  (List.range (leAt b 0 4)).map (fun k => (leAt b (4 + 8 * k) 4, leAt b (8 + 8 * k) 4))

/-- What INSTALL refuses: a code and the failing image's class. -/
def State.installRefused (s : State) (l : List (Nat × Nat)) : Option (Nat × Nat) :=
  let own := l.findSome? (fun p =>
    match s.imageCode 4 p.2 p.1 with
    | some code => some (code, p.1)
    | none => if s.versionBelow p.1 (s.imageHead 4 p.2 p.1) then some (0x1905, p.1) else none)
  match own with
  | some r => some r
  | none =>
    (clashes (s.combination (l.map (fun p => (p.1, s.imageHead 4 p.2 p.1))))).head?.map (fun q =>
      (0x1906, if l.any (fun p => p.1 == q.1) then q.1 else q.2))

/-- The images are written in ascending class; `bad` names a class whose read-back fails. -/
def State.writeImages (s : State) (l : List (Nat × Nat)) (bad : Option Nat) : State × Nat :=
  let order := [1, 2, 3, 4, 5].filterMap (fun c => (l.reverse.find? (fun p => p.1 == c)))
  let mask := order.foldl (fun n p => n + 2 ^ p.1) 0
  let s := s.writeState 1 mask
  let good := order.takeWhile (fun p => bad != some p.1)
  let s := good.foldl (fun t p => t.programImage p.1 4 p.2) s
  match order.find? (fun p => bad == some p.1) with
  | some p => ((s.flashErase (areaOf p.1).1 (areaOf p.1).2).showImage p.1, 0x1908 + p.1 * 65536)
  | none => (s.writeState 0 mask, 0)

/-- The reason codes of UPD (R455); no others are produced (R43). -/
def updCodes : List Nat :=
  [0x1901, 0x1902, 0x1903, 0x1904, 0x1905, 0x1906, 0x1907, 0x1908, 0x1909, 0x190A, 0x190B, 0x190C, 0x190D, 0x190E, 0x190F]

/-- An argument block whose COUNT is out of range; the code of its refusal is one that no rule states. -/
def State.countBad (s : State) (count : Nat) : Bool :=
  count == 0 || decide (5 < count) || (s.on F.UPD_CTL_LEGACY && count != 1)

/-- INSTALL of an argument block: the state after, and the code word. -/
def State.install (s : State) (b : List Nat) (bad : Option Nat) : State × Nat :=
  if s.countBad (leAt b 0 4) then (s.draw, s.freeOf updCodes)
  else
    let l := installEntries b
    match s.installRefused l with
    | some (code, c) => (s, code + c % 256 * 65536)
    | none => s.writeImages l bad

/-- A service operation answers its caller with a code word; it needs Stump in its RAM. -/
def State.service (s : State) (op : State → State × Nat) : State :=
  if !s.upd.stumpLocked then s
  else
    let (t, code) := op s
    t.give [code]

/-- INSTALL: the argument block's region 0x4 offset. -/
def execInstall (block : BitVec 22) (bad : Option (Fin 6)) (s : State) : Res :=
  guarded s (fun s => s.service (fun s => s.install (s.bytes 4 block.toNat 44) (bad.map (·.val))))

/-- SVNRAISE (R446). -/
def State.svnRaise (s : State) (c floor : Nat) : State × Nat :=
  let f := F.UPD_SVNc_FLOOR (c - 1)
  if c = 0 ∨ 5 < c ∨ s.rd f = 255 then (s, 0x190A)
  else match s.installed c with
    | none => (s, 0x190A)
    | some h =>
      if imageSvn c h < floor then (s, 0x190A)
      else if floor ≤ s.rd f then (s, 0)
      else ((s.wr f floor).raise F.UPD_IRQ_SVN, 0)

def execSvnraise (block : BitVec 22) (s : State) : Res :=
  guarded s (fun s => s.service (fun s => s.svnRaise (s.le 4 block.toNat 4) (s.le 4 (block.toNat + 4) 4)))

/-- A provision or revocation record (R444): the code. -/
def State.keyRecord (s : State) (b : List Nat) : State × Nat :=
  let idx := leAt b 4 1
  let signer := leAt b 7 1
  let prov := s.rd F.UPD_KEYS_PROV
  let sound := decide (idx < 4) && leAt b 5 2 == 0
  if s.recordFits b 0xA14B5052 then
    if sound && (s.lc == lcBlank || s.lc == lcProvision) && !(bit prov idx) && (signer == 4 || (decide (signer < 4) && s.lc == lcProvision)) &&
        s.signed signer (bytesAt b 0 0x80) (bytesAt b 0x80 96) then
      let s := { s with sec := { s.sec with pubKeys := s.sec.pubKeys.insert idx (bytesAt b 0x20 96) } }
      (s.wr F.UPD_KEYS_PROV (setBit prov idx true), 0)
    else (s, 0x190B)
  else if s.recordFits b 0xA14B5256 then
    let rev := s.rd F.UPD_KEYS_REVOKED
    let left := (List.range 4).any (fun k => k != idx && bit prov k && !(bit rev k))
    if sound && leAt b 0x20 16 == 0 && decide (signer < 4) && signer != idx && left &&
        s.signed signer (bytesAt b 0 0x30) (bytesAt b 0x30 96) then
      (s.wr F.UPD_KEYS_REVOKED (setBit rev idx true), 0)
    else (s, 0x190B)
  else (s, 0x190B)

/-- KEYREC: the record in KEY_STAGE. -/
def execKeyrec (s : State) : Res := guarded s (fun s => s.service (fun s => s.keyRecord s.stageBytes))

/-! Net recovery (R452) -/

/-- The sections of an image's bytes. -/
def sectionsIn : Nat → List Nat → List Section
  | 0, _ => []
  | fuel + 1, b =>
    if b.length < 16 then []
    else
      let blen := leAt b 8 4
      ⟨leAt b 0 2, leAt b 2 2, leAt b 4 1, leAt b 5 1, bytesAt b 16 blen⟩ :: sectionsIn fuel (b.drop (16 + blen))

/-- The sections of the installed Almanac, when it verifies. -/
def State.flashSections (s : State) : Option (List Section) :=
  (s.installed 4).map (fun h => let n := leAt h 8 4; sectionsIn (n / 16) (s.bytes flashRegion ((areaOf 4).1 + 0x130) (n - 0x130)))

/-- The settings that net recovery takes without an Almanac: every ring port and ST0 to ST2 at 25GBASE-R without FEC. -/
def State.plainPorts (s : State) : State :=
  let s := (List.range 4).foldl (fun t p => (((t.wr (F.CRL_Pp_CFG_USED p) 1).wr (F.CRL_Pp_CFG_RATE p) 0).wr (F.CRL_Pp_CFG_FEC p) 0)) s
  let s := (List.range 3).foldl (fun t k => (t.wr (F.STT_Pk_CFG_USED k) 1).wr (F.STT_Pk_CFG_FEC k) 0) s
  s.wr F.CRL_CTL_RING_EN 1

/-- Net recovery's settings of the ring: the installed Almanac's, or the plain ones. -/
def State.netPorts (s : State) : State :=
  match s.flashSections with
  | some l => (s.loadRing (globalOf l tRing)).loadStation (globalOf l tStation)
  | none => s.plainPorts

/-- The classes a hub in net recovery needs, as UPD_RECOV.NEED shows them. -/
def State.netNeed (s : State) : Nat :=
  (if s.rd F.UPD_BOOT_BOOT_SRC = 1 then [2, 3, 4, 5] else s.needed).foldl (fun n c => n + 2 ^ (c - 1)) 0

/-- NETREC: the hub joins, quarantined, and publishes the classes it needs. -/
def State.netrec (s : State) : State :=
  if s.stage ≠ stageNetrec then s
  else
    let s := s.netPorts
    (s.wr F.UPD_RECOV_NEED s.netNeed).enterQuarantine

def execNetrec (s : State) : Res := guarded s (fun s => s.netrec)

/-- The images of a block are kept in SRAM (BOOT_SRC 0b01); with none missing, the firmware starts. -/
def State.keepImages (s : State) (l : List (Nat × Nat)) : State :=
  let need := l.foldl (fun n p => setBit n (p.1 - 1) false) (s.rd F.UPD_RECOV_NEED)
  let fw := match l.find? (fun p => p.1 == 2) with
    | some p => some p.2
    | none => s.upd.netImage
  let s := { s.wr F.UPD_RECOV_NEED need with upd := { s.upd with netImage := fw } }
  match need, fw with
  | 0, some off => s.startFirmware 4 off
  | _, _ => s

/-- UPD_MBOX_GO: in NETREC, Stump performs the INSTALL of UPD_MBOX0 to 7; a success restarts the hub. -/
def State.mboxGo (s : State) : State :=
  if s.stage ≠ stageNetrec then s
  else
    let b := ((List.range 8).map (fun n => leBytes 4 (s.rd (F.UPD_MBOX_ARG n)))).flatten
    let off := F.UPD_MBOX_RES_RES.off
    let report (s : State) (code : Nat) : State :=
      s.wr F.UPD_MBOX_RES_RES (2 ^ 31 + (bits (s.rd ⟨off, 0, 32, 0⟩) 16 8 + 1) % 256 * 65536 + code % 65536) |>.raise F.UPD_IRQ_MBOX
    if s.rd F.UPD_BOOT_BOOT_SRC = 1 ∧ !(s.countBad (leAt b 0 4)) then
      let l := installEntries b
      match s.installRefused l with
      | some (code, _) => report s code
      | none => (report s 0).keepImages l
    else
      let (t, code) := s.install b none
      if code = 0 then t.mainReset false 1 else report t code

def execUpdMboxGo (s : State) : Res := guarded s (fun s => s.mboxGo.ack)

/-! ROM recovery (R453) -/

def ackPacket (seq code : Nat) : List Nat := [0x80, seq] ++ leBytes 2 2 ++ leBytes 2 code

/-- HELLO. -/
def State.helloPacket (s : State) (seq : Nat) : List Nat :=
  [1, seq] ++ leBytes 2 36 ++ leBytes 8 s.serial ++ [s.lc, 0] ++ leBytes 2 (s.rd F.UPD_BOOT_CODE) ++
    ((List.range 5).map (fun c => leBytes 4 (s.rd (F.UPD_VERc_VERSION c)))).flatten

def State.inRecovery (s : State) : Bool := s.stage == stageRomrec || s.stage == stageHalt

/-- ROMREC: recovery is entered and HELLO goes out, with a SEQ that no rule states. -/
def execRomrec (s : State) : Res :=
  guarded s (fun s =>
    if !s.inRecovery then s
    else { s.draw with upd := { s.upd with download := none, received := [], last := none } }.emit (.packet (s.helloPacket (s.free % 256))))

def State.setUpd (s : State) (u : UpdState) : State := { s with upd := u }

/-- BEGIN. On BOOT_SRC 0b10 images go to SRAM only. -/
def State.recBegin (s : State) (p : List Nat) : State × Nat :=
  let c := leAt p 0 1
  let mode := leAt p 1 1
  if p.length ≠ 8 ∨ c = 0 ∨ 5 < c ∨ 1 < mode ∨ leAt p 2 2 ≠ 0 ∨ (mode = 0 ∧ s.rd F.UPD_BOOT_BOOT_SRC = 2) then (s, 0x190C)
  else (s.setUpd { s.upd with download := some ⟨c, mode, leAt p 4 4, 0⟩ }, 0)

/-- The place of a class's download. -/
def downloadAt (c : Nat) : Nat := Config.downloadBase c % 2 ^ 22

/-- DATA. -/
def State.recData (s : State) (p : List Nat) : State × Nat :=
  match s.upd.download with
  | none => (s, 0x190C)
  | some d =>
    let n := p.length - 4
    if p.length < 5 ∨ 1024 < n ∨ leAt p 0 4 ≠ d.got ∨ d.total < d.got + n then (s, 0x190C)
    else ((s.store 4 (downloadAt d.cls + d.got) (p.drop 4)).setUpd { s.upd with download := some { d with got := d.got + n } }, 0)

/-- END. -/
def State.recEnd (s : State) (p : List Nat) : State × Nat :=
  match s.upd.download with
  | none => (s, 0x190C)
  | some d =>
    if p ≠ [] ∨ d.got ≠ d.total then (s, 0x190C)
    else
      let h := s.imageHead 4 (downloadAt d.cls) d.cls
      match s.imageCode 4 (downloadAt d.cls) d.cls with
      | some code => (s, code)
      | none =>
        if d.total < imageBytes d.cls h then (s, 0x1901)
        else if s.versionBelow d.cls h then (s, 0x1905)
        else if !(clashes (s.combination [(d.cls, h)])).isEmpty then (s, 0x1906)
        else if d.mode = 0 then (s.programImage d.cls 4 (downloadAt d.cls), 0)
        else (s.setUpd { s.upd with received := d.cls :: s.upd.received }, 0)

/-- Whether RUN restarts the hub: in HALT, and after downloads that were not to SRAM. -/
def State.runRestarts (s : State) : Bool := s.stage == stageHalt || !(s.upd.download.elim false (fun d => d.mode == 1))

/-- RUN: its code. -/
def State.recRun (s : State) (p : List Nat) : Nat :=
  if p = [] ∧ (s.runRestarts || s.upd.received.contains 2) then 0 else 0x190C

/-- What follows the answer to a RUN that was accepted in state s. -/
def State.recAfter (t s : State) (typ : Nat) (p : List Nat) : State :=
  if typ ≠ 0x13 ∨ s.recRun p ≠ 0 then t
  else if s.runRestarts then t.mainReset false 1
  else t.startFirmware 4 (downloadAt 2)

/-- RECORD: a transition record, or a key record. -/
def State.recRecord (s : State) (p : List Nat) : State × Nat :=
  if leAt p 0 4 = 0xA14C5452 ∧ p.length = 144 then s.lcOp p
  else if (leAt p 0 4 = 0xA14B5052 ∧ p.length = 224) ∨ (leAt p 0 4 = 0xA14B5256 ∧ p.length = 144) then s.keyRecord p
  else (s, 0x190C)

/-- SETBAUD. -/
def State.recBaud (s : State) (p : List Nat) : State × Nat :=
  let v := leAt p 0 4
  if p.length ≠ 4 ∨ v < 115200 ∨ 3000000 < v then (s, 0x190C) else (s.setUpd { s.upd with baud := v }, 0)

/-- What a packet does before its answer: the state, and its code. -/
def State.recApply (s : State) (typ : Nat) (p : List Nat) : State × Nat :=
  if s.stage = stageHalt ∧ [0x10, 0x11, 0x12].contains typ then (s, 0x190D)
  else match typ with
    | 0x02 => (s, if p = [] then 0 else 0x190C)
    | 0x03 => s.recBaud p
    | 0x10 => s.recBegin p
    | 0x11 => s.recData p
    | 0x12 => s.recEnd p
    | 0x13 => (s, s.recRun p)
    | 0x14 => s.recRecord p
    | _ => (s, 0x190C)

/-- Answers go out: on the service UART as packets, otherwise in UPD_ROUT and UPD_RRES. -/
def State.recAnswer (s : State) (uart : Bool) (code : Nat) (l : List (List Nat)) : State :=
  if uart then l.foldl (fun t a => t.emit (.packet a)) s
  else
    let a := l.getLast?.getD []
    let s := (List.range 64).foldl (fun t n => t.wr (F.UPD_ROUT_DATA n) (leAt a (4 * n) 4)) s
    (s.resStart RR.UPD_RRES).resDone RR.UPD_RRES code

/-- A recovery packet: a SEQ repeated is answered again without effect. -/
def State.recPacket (s : State) (uart : Bool) (typ seq : Nat) (p : List Nat) : State :=
  if !s.inRecovery then s
  else
    let again : Option (List (List Nat)) := s.upd.last.bind (fun l => if l.1 = seq then some l.2 else none)
    match again with
    | some l => s.recAnswer uart (leAt (l.head?.getD []) 4 2) l
    | none =>
      let (t, code) := s.recApply typ p
      let l := ackPacket seq code :: (if typ = 2 ∧ code = 0 then [s.helloPacket seq] else [])
      ((t.setUpd { t.upd with last := some (seq, l) }).recAnswer uart code l).recAfter s typ p

/-- UPD_RCMD.GO: the packet in UPD_RBUF. -/
def State.rcmd (s : State) (len : Nat) : State :=
  let b := ((List.range 258).map (fun n => leBytes 4 (s.rd (F.UPD_RBUF_DATA n)))).flatten
  let n := leAt b 2 2
  if !s.inRecovery then s
  else if len < 4 ∨ 1032 < len ∨ n + 4 ≠ len then
    s.recAnswer false 0x190C [ackPacket (leAt b 1 1) 0x190C]
  else s.recPacket false (leAt b 0 1) (leAt b 1 1) (bytesAt b 4 n)

/-- INFO, SETBAUD, BEGIN, DATA, END, RUN and RECORD, on the service UART or on BAR0 and the ring. -/
def execInfo (uart : Bool) (seq : Byte) (s : State) : Res := guarded s (fun s => s.recPacket uart 0x02 seq.toNat [])
def execSetbaud (uart : Bool) (seq : Byte) (baud : Word) (s : State) : Res :=
  guarded s (fun s => s.recPacket uart 0x03 seq.toNat (leBytes 4 baud.toNat))
def execBegin (uart : Bool) (seq cls mode : Byte) (total : Word) (s : State) : Res :=
  guarded s (fun s => s.recPacket uart 0x10 seq.toNat ([cls.toNat, mode.toNat, 0, 0] ++ leBytes 4 total.toNat))
def execData (uart : Bool) (seq : Byte) (off : Word) (data : List Byte) (s : State) : Res :=
  guarded s (fun s => s.recPacket uart 0x11 seq.toNat (leBytes 4 off.toNat ++ data.map (·.toNat)))
def execEnd (uart : Bool) (seq : Byte) (s : State) : Res := guarded s (fun s => s.recPacket uart 0x12 seq.toNat [])
def execRun (uart : Bool) (seq : Byte) (s : State) : Res := guarded s (fun s => s.recPacket uart 0x13 seq.toNat [])
def execRecord (uart : Bool) (seq : Byte) (record : List Byte) (s : State) : Res :=
  guarded s (fun s => s.recPacket uart 0x14 seq.toNat (record.map (·.toNat)))

end Sys2Proof.Machine
end

