-- ==== Sys2Proof/Machine/RegAccess.lean ====
section
/-!
DEFINITION. Register accesses: what a word reads as, what a write does, and the accesses to the other regions of this hub
(02 R19 to R47, 03 R54, R65, 05 R137). The row commands of chapter 02 are in RegRows.lean, behind the bridge's registers.
-/

namespace Sys2Proof.Machine

/-! What registers show of other state -/

/-- Fields with their values as a mask and a word. -/
def pack (l : List (Fld × Nat)) : Nat × Nat :=
  l.foldl (fun (m : Nat × Nat) (p : Fld × Nat) =>
    (Nat.lor m.1 ((2 ^ p.1.w - 1) * 2 ^ p.1.lo), Nat.lor m.2 (p.2 % 2 ^ p.1.w * 2 ^ p.1.lo))) (0, 0)

/-- SCH_NEXT: the earliest commit instant of an ARMED entry or edge instant of a COMMITTED or PULSING one (R131), as FT96. -/
def State.schNext (s : State) : Nat :=
  let l := s.sch.entries.filterMap (fun p =>
    if p.2.state = cArmed then some (p.2.inst - s.window p.2)
    else if p.2.state = cCommitted then some p.2.inst
    else if p.2.state = cPulsing then some (p.2.inst + ns16 p.2.param)
    else none)
  match l with
  | [] => 2 ^ 80 - 1
  | t :: l => ft96 (l.foldl min t)

/-- Entries in a state. -/
def State.countEntries (s : State) (p : CalEntry → Bool) : Nat := (s.sch.entries.filter (fun e => p e.2)).length

/-- Contexts in a state. -/
def State.countContexts (s : State) (st : Nat) : Nat := ((List.range 4096).filter (fun c => s.ctxState c == st)).length

/-- The reset number k of a block's array of registers with a stride. -/
def nth (off base stride : Nat) : Nat := (off - base) / stride

def State.shownGlb (s : State) (off : Nat) : Nat × Nat :=
  if off = 0x14 then (2 ^ 32 - 1 - 0x30000, s.health)
  else if off = 0x18 then (2 ^ 27 - 1, s.irqSum)
  else (0, 0)

def State.shownTime (s : State) (off : Nat) : Nat × Nat :=
  if off = F.TIM_STATUS_SERVO.off then pack [(F.TIM_STATUS_TIME_LOCK, b2n s.timeLock), (F.TIM_STATUS_PL0_LOCK, b2n s.pl0Lock)]
  else (0, 0)

def State.shownTally (s : State) (off : Nat) : Nat × Nat :=
  if off = F.TLY_SUMMARY_SLOT.off then pack [(F.TLY_SUMMARY_SLOT, packBits 32 s.tallySummary)]
  else if 0x50110 ≤ off ∧ (off - 0x50110) % 0x40 = 0 then
    let n := nth off 0x50110 0x40
    pack [(F.TLY_Sn_STATE_HELD n, s.slotWord n / 2 ^ 24), (F.TLY_Sn_STATE_SSEQ n, s.slotWord n)]
  else (0, 0)

def State.shownSch (s : State) (off : Nat) : Nat × Nat :=
  if off = F.SCH_STATUS_LIVE.off then
    pack [(F.SCH_STATUS_LIVE, s.countEntries CalEntry.live), (F.SCH_STATUS_WAITING, s.countEntries (fun e => e.state == cWaiting))]
  else if off = F.SCH_NEXT_LO_NEXT.off then pack [(F.SCH_NEXT_LO_NEXT, bits s.schNext 16 32)]
  else if off = F.SCH_NEXT_HI_NEXT.off then pack [(F.SCH_NEXT_HI_NEXT, bits s.schNext 48 32)]
  else if 0x60080 ≤ off ∧ off < 0x600C0 then
    pack [(F.SCH_LQq_DEPTH (nth off 0x60080 4), s.lqDepth (nth off 0x60080 4))]
  else (0, 0)

def State.shownSlc (s : State) (off : Nat) : Nat × Nat :=
  if off = 0x70008 then (2 ^ 32 - 1, bits s.sources 0 32)
  else if off = 0x7000C then (2 ^ 32 - 1, bits s.sources 32 32)
  else if 0x70010 ≤ off ∧ off < 0x70020 then (2 ^ 32 - 1, bits s.terms (32 * nth off 0x70010 4) 32)
  else if off = 0x70020 then (2 ^ 32 - 1, bits s.slc.events 0 32)
  else if off = F.SLC_FORCED_BANKS.off then pack [(F.SLC_FORCED_BANKS, packBits 16 s.bankForced)]
  else (0, 0)

/-- The status fields of line n; while the link is down they are as last received, with FEEDOFF = 1 (R145). -/
def State.shownLine (s : State) (n : Nat) : List (Fld × Nat) :=
  let b := n / 8
  let kept (f : Fld) : Fld × Nat := (f, s.fld.snap.getD f.key f.rst)
  [(F.FLD_Ln_STAT_FEEDOFF n, b2n (!(s.feedSeen b))), (F.FLD_Ln_STAT_FORCED n, b2n (s.bankForced b))] ++
    (if s.hvLink then
      [(F.FLD_Ln_STAT_KEEP n, b2n (s.kstate b != kNormal)), (F.FLD_Ln_STAT_DRV n, b2n (s.lineDriven n)),
       (F.FLD_Ln_STAT_IN n, b2n (s.lineLevel n))]
    else
      [kept (F.FLD_Ln_STAT_KEEP n), kept (F.FLD_Ln_STAT_SC n), kept (F.FLD_Ln_STAT_OT n), kept (F.FLD_Ln_STAT_OL n),
       kept (F.FLD_Ln_STAT_WB n), kept (F.FLD_Ln_STAT_CMD n), kept (F.FLD_Ln_STAT_DRV n), kept (F.FLD_Ln_STAT_IN n)])

/-- One status field of every line of a group of 32. -/
def State.lineGroup (s : State) (k : Nat) (f : Nat → Fld) : Nat × Nat :=
  (2 ^ 32 - 1, packBits 32 (fun j =>
    match (s.shownLine (32 * k + j)).find? (fun p => p.1.key == (f (32 * k + j)).key) with
    | some p => p.2 != 0
    | none => s.on (f (32 * k + j))))

def State.shownFld (s : State) (off : Nat) : Nat × Nat :=
  if 0x80010 ≤ off ∧ off < 0x80020 then s.lineGroup (nth off 0x80010 4) F.FLD_Ln_STAT_IN
  else if 0x80020 ≤ off ∧ off < 0x80030 then s.lineGroup (nth off 0x80020 4) F.FLD_Ln_STAT_CMD
  else if 0x80030 ≤ off ∧ off < 0x80040 then s.lineGroup (nth off 0x80030 4) F.FLD_Ln_STAT_DRV
  else if 0x80404 ≤ off ∧ off < 0x80804 ∧ off % 8 = 4 then pack (s.shownLine (nth off 0x80404 8))
  else (0, 0)

def State.shownChk (s : State) (off : Nat) : Nat × Nat :=
  if off = F.CHK_SUP_RAIL.off ∧ s.hvLink then pack [(F.CHK_SUP_RAIL, b2n s.rail)]
  else if off = F.CHK_PG_PG.off then pack [(F.CHK_PG_PG, packBits 16 s.feedSeen)]
  else if 0x90110 ≤ off ∧ off % 0x20 = 0x10 then
    let f := nth off 0x90110 0x20
    if s.hvLink then pack [(F.CHK_Fn_STATUS_FTMR f, b2n (s.timerRuns f))] else pack [(F.CHK_Fn_STATUS_PG f, 0)]
  else if 0x90118 ≤ off ∧ off % 0x20 = 0x18 ∧ s.hvLink then (2 ^ 32 - 1, s.measure (nth off 0x90118 0x20) s.free)
  else (0, 0)

def State.shownSlice (s : State) (off : Nat) : Nat × Nat :=
  if off = 0xA0008 then (2 ^ 32 - 1, packBits 32 s.sliceIrq)
  else if off = 0xA000C then (2 ^ 16 - 1, packBits 16 (fun j => s.sliceIrq (32 + j)))
  else if off = F.PSL_FL_IN_LINES.off then (2 ^ 32 - 1, packBits 32 s.fastLevel)
  else if off < 0xA1000 then (0, 0)
  else
    let n := sliceAt off
    let x := s.slice n
    match off % 0x100 with
    | 0x0C => pack [(F.PSL_Sn_STATUS_FLUSHING n, b2n (x.flushRx || x.flushTx)), (F.PSL_Sn_STATUS_TXBUSY n, b2n x.sending),
        (F.PSL_Sn_STATUS_RXBUSY n, b2n x.rxBusy), (F.PSL_Sn_STATUS_START_PEND n, b2n x.start),
        (F.PSL_Sn_STATUS_TXFREE n, flumeItems - x.tx.length), (F.PSL_Sn_STATUS_RXITEMS n, x.rx.length)]
    | 0x10 => pack [(F.PSL_Sn_RXPKT_PKT n, packets x.rx)]
    | 0x14 => pack [(F.PSL_Sn_TXPKT_PKT n, packets x.tx)]
    | _ => (0, 0)

def State.shownCan (s : State) (off : Nat) : Nat × Nat :=
  if off = F.CAN_IRQ_SUM_CH.off then pack [(F.CAN_IRQ_SUM_CH, packBits 16 s.canIrq)]
  else if off < 0xB1000 then (0, 0)
  else
    let c := nth off 0xB1000 0x100
    let x := s.canSt c
    match off % 0x100 with
    | 0x10 => pack [(F.CAN_Cc_STATUS_LOMST c, b2n (s.canListens c))]
    | 0x24 => (2 ^ 32 - 1, packBits 32 (fun b => s.statBit c b stPend))
    | 0x28 => (2 ^ 32 - 1, packBits 32 (fun b => s.statBit c (32 + b) stPend))
    | 0x3C => pack [(F.CAN_Cc_FIFO0_LEVEL c, x.fifo0.length)]
    | 0x40 => pack [(F.CAN_Cc_FIFO1_LEVEL c, x.fifo1.length)]
    | 0x5C => pack [(F.CAN_Cc_GUARD_RQLEVEL c, x.remote.length)]
    | _ => (0, 0)

def State.shownSaw (s : State) (off : Nat) : Nat × Nat :=
  if off < 0xC0010 then (2 ^ 32 - 1, packBits 32 (fun j => s.sawIrq (32 * nth off 0xC0000 4 + j)))
  else if off < 0xC1000 then (0, 0)
  else
    let n := nth off 0xC1000 0x80
    match off % 0x80 with
    | 0x14 => pack [(F.SAW_Sn_STATUS_TXLEVEL n, (s.saw n).tx.length), (F.SAW_Sn_STATUS_RXLEVEL n, (s.saw n).rx.length)]
    | 0x64 => pack [(F.SAW_Sn_PINS_DIR n, packBits 16 (s.sawDir n))]
    | 0x50 => (2 ^ 32 - 1, bits (s.saw n).stamp 0 32)
    | _ => (0, 0)

def State.shownRing (s : State) (off : Nat) : Nat × Nat :=
  if off < 0x100100 then (0, 0)
  else
    let p := nth off 0x100100 0x40
    match off % 0x40 with
    | 0x04 => pack [(F.CRL_Pp_STATUS_RPL_USED p, s.replayBytes p / 8)]
    | 0x08 => pack [(F.CRL_Pp_SEQ_TXNEXT p, (s.mac p).txNext), (F.CRL_Pp_SEQ_RXEXP p, (s.mac p).rxExp)]
    | 0x18 => (2 ^ 32 - 1, if s.ring.fecRead.get? p = some s.clk then 0 else s.free % 2 ^ 32)
    | _ => (0, 0)

def State.shownSwc (s : State) (off : Nat) : Nat × Nat :=
  if off = F.SWC_FREE_CELLS.off then pack [(F.SWC_FREE_CELLS, bufferCells - s.usedAll)]
  else if off = F.SWC_SHFREE_CELLS.off then pack [(F.SWC_SHFREE_CELLS, s.sharedFree)]
  else if off = F.SWC_HELD_CELLS.off then pack [(F.SWC_HELD_CELLS, s.heldCells)]
  else if 0x110100 ≤ off ∧ off < 0x110180 ∧ off % 0x10 = 8 then
    pack [(F.SWC_Cc_USED_USED (nth off 0x110100 0x10), s.usedCells (nth off 0x110100 0x10))]
  else if 0x110200 ≤ off ∧ off % 8 = 0 then
    pack [(F.SWC_Pp_OQ_CELLS (nth off 0x110200 8), s.queuedFor (nth off 0x110200 8))]
  else (0, 0)

def State.shownBrg (s : State) (off : Nat) : Nat × Nat :=
  if off = F.BRG_STATUS_TAGS.off then pack [(F.BRG_STATUS_TAGS, s.brg.tags.length + s.brg.quarantined.length)]
  else if off = F.BRG_SEM_HELD.off then pack [(F.BRG_SEM_HELD, s.brg.sems.length)]
  else (0, 0)

def State.shownDmx (s : State) (off : Nat) : Nat × Nat :=
  if off = F.DMX_STATUS_READY.off then
    pack [(F.DMX_STATUS_READY, min 0xFFF (s.countContexts xReady)), (F.DMX_STATUS_FAULTED, min 0xFFF (s.countContexts xFaulted)),
      (F.DMX_STATUS_RUNNING, s.dmx.engines.length)]
  else if off = F.DMX_FQ_LEVEL_LEVEL.off then pack [(F.DMX_FQ_LEVEL_LEVEL, s.dmx.queue.length)]
  else if 0x130040 ≤ off ∧ off < 0x130060 then (2 ^ 32 - 1, leAt (s.dmx.queue.headD []) (off - 0x130040) 4)
  else if off = F.DMX_TCACHE_LOCKED.off then
    pack [(F.DMX_TCACHE_LOCKED, (s.dmx.cache.filter (fun (t : Translation) => t.locked)).length),
      (F.DMX_TCACHE_VALID, s.dmx.cache.length)]
  else (0, 0)

/-- CPH_STATUS: jobs run within the command that stands for them, so no core shows one (log entry 13). -/
def State.shownCph (s : State) (off : Nat) : Nat × Nat :=
  if off = F.CPH_STATUS_BUSY.off then
    pack [(F.CPH_STATUS_QFRM, min 255 (s.swc.frames.filter (fun b => b.outs.contains 10 && b.leaving.isEmpty && b.hold.isNone)).length),
      (F.CPH_STATUS_QHOST, s.sec.ops.length)]
  else (0, 0)

def State.shownKey (s : State) (off : Nat) : Nat × Nat :=
  if off = F.KEY_STATUS_LC.off then
    pack [(F.KEY_STATUS_TLATCH, b2n s.tlatch), (F.KEY_STATUS_BUSY, b2n (!s.sec.cmds.isEmpty)),
      (F.KEY_STATUS_LOADED, s.loadedSlots.length)]
  else if 0x150040 ≤ off ∧ off < 0x150060 then
    (2 ^ 32 - 1, packBits 32 (fun j => s.slotReached (32 * nth off 0x150040 4 + j) warnAt))
  else if 0x150060 ≤ off ∧ off < 0x150080 then
    (2 ^ 32 - 1, packBits 32 (fun j => s.slotReached (32 * nth off 0x150060 4 + j) id))
  else if 0x151000 ≤ off then
    let n := nth off 0x151000 0x20
    let k := s.keySlot n
    match off % 0x20 with
    | 0x10 => (2 ^ 32 - 1, min (2 ^ 32 - 1) (if s.on (F.KEY_Sn_INFO_E0V n) then k.use0 else k.uses))
    | 0x14 => (2 ^ 32 - 1, min (2 ^ 32 - 1) k.use1)
    | _ => (0, 0)
  else (0, 0)

def State.shownStt (s : State) (off : Nat) : Nat × Nat :=
  if off = F.STT_THASH_VALUE.off then (2 ^ 32 - 1, leAt s.stt.twinHash 0 4)
  else if off = F.STT_REFQ0_CLAIM.off then (2 ^ 32 - 1, (s.stt.refq.map (·.1)).headD 0)
  else if off = F.STT_REFQ1_VALID.off then
    match s.stt.refq with
    | (_, decision, code) :: _ => pack [(F.STT_REFQ1_VALID, 1), (F.STT_REFQ1_DECISION, decision), (F.STT_REFQ1_CODE, code)]
    | [] => (0, 0)
  else if 0x160100 ≤ off ∧ off % 0x20 = 4 then
    pack [(F.STT_Pk_STATUS_RPL_USED (nth off 0x160100 0x20), s.replayBytes (4 + nth off 0x160100 0x20) / 8)]
  else (0, 0)

def State.shownPwr (s : State) (off : Nat) : Nat × Nat :=
  if 0x170020 ≤ off ∧ off < 0x170030 then
    (2 ^ 32 - 1, (List.range 16).foldl (fun v j => v + s.power (16 * nth off 0x170020 4 + j) * 4 ^ j) 0)
  else (0, 0)

/-- PHASE: start-up until an Almanac is in force, then run; STANDBY is seen by nobody but Vigil. -/
def State.shownVgl (s : State) (off : Nat) : Nat × Nat :=
  if off = F.VGL_STATUS_PHASE.off then
    pack [(F.VGL_STATUS_PHASE, if s.pwr.standby then 2 else if s.almInForce then 1 else 0)]
  else (0, 0)

/-- Bits of a register that show other state than their own field: mask and value. -/
def State.shown (s : State) (off : Nat) : Nat × Nat :=
  match off / 0x10000 with
  | 0 => s.shownGlb off
  | 1 => if off = F.ALM_DRIFT_CNT_COUNT.off then pack [(F.ALM_DRIFT_CNT_COUNT, s.alm.departing.length)] else (0, 0)
  | 4 => s.shownTime off
  | 5 => s.shownTally off
  | 6 => s.shownSch off
  | 7 => s.shownSlc off
  | 8 => s.shownFld off
  | 9 => s.shownChk off
  | 0xA => s.shownSlice off
  | 0xB => s.shownCan off
  | 0xC => s.shownSaw off
  | 0x10 => s.shownRing off
  | 0x11 => s.shownSwc off
  | 0x12 => s.shownBrg off
  | 0x13 => s.shownDmx off
  | 0x14 => s.shownCph off
  | 0x15 => s.shownKey off
  | 0x16 => s.shownStt off
  | 0x17 => s.shownPwr off
  | 0x18 => s.shownVgl off
  | _ => (0, 0)

/-- The port whose FEC counts an offset holds. -/
def fecPort (off : Nat) : Option Nat :=
  if 0x100118 ≤ off ∧ off < 0x100218 ∧ off % 0x40 = 0x18 then some (nth off 0x100118 0x40) else none

/-- Whether a register holds what only a measurement outside the block gives: CHK_Fn_MEAS and the FEC counts of a port. -/
def measured (off : Nat) : Bool :=
  (decide (0x90118 ≤ off) && decide (off < 0x90318) && off % 0x20 == 0x18) || (fecPort off).isSome

/-- The read of a measurement takes its free value. The FEC counts start anew with it: what they counted since the last read is free, but
nothing is counted within the cycle of that read (R37). -/
def State.noteMeasured (s : State) (off : Nat) : State :=
  let s := if measured off then s.draw else s
  match fecPort off with
  | some p => { s with ring := { s.ring with fecRead := s.ring.fecRead.insert p s.clk } }
  | none => s

/-- Whether a field of the HV die's status is kept as last received: the link's own fields are not. -/
def hvKept (f : Fld) : Bool :=
  hvStatusKey f.key && f.key != F.FLD_STATUS_LINK.key && f.key != F.FLD_STATUS_LANES.key

/-! Reading (R31, R32, R37, R41) -/

/-- What a field reads as. -/
def State.fieldNow (s : State) (shown : Nat × Nat) (f : FRow) (place : Nat) : Nat :=
  let d := f.fld place
  match f.acc with
  | .wo => 0
  | .wt => 0
  | _ =>
    if bit shown.1 f.lo then bits shown.2 f.lo f.w
    else if !s.hvLink && hvKept d then s.fld.snap.getD d.key d.rst % 2 ^ f.w
    else s.rd d

/-- What a register reads as. -/
def State.regWord (s : State) (off : Nat) (r : RRow) (place : Nat) : Nat :=
  let shown := s.shown off
  r.fields.foldl (fun w f => w + s.fieldNow shown f place * 2 ^ f.lo) 0

/-- What reading a register does: RC fields are cleared, and a completed result turns stale (R37, R41). -/
def State.readEffect (s : State) (r : RRow) (place : Nat) : State :=
  let s := r.fields.foldl (fun (t : State) (f : FRow) => if f.acc = .rc then t.wr (f.fld place) 0 else t) s
  let s := if place = F.BOM_FIRST_CAPT.off then s.waitingFaults else s
  match r.kind with
  | .result => if s.on (resValid place) then s.wr (resStale place) 1 else s
  | .bankedResult => if s.on (resValid place) then s.wr (resStale place) 1 else s
  | _ => s

/-- Whether an offset of region 0 lies in an assigned block (R25, R26). -/
def assignedBlock (off : Nat) : Bool := assigned (off / 0x10000)

/-- The personality whose parameter registers an offset names. -/
def State.persAt (s : State) (off : Nat) : Nat := if isParam off then s.pers (sliceAt off) else 0

/-- A read of the register at an offset of region 0. -/
def State.regRead (s : State) (init : Initiator) (off : Nat) : State :=
  if !(assignedBlock off) then s.refuseReg init off 0x0004
  else
    match findRow off (s.persAt off) with
    | none => s.give [0]
    | some r =>
      if r.off = (F.SAW_Sn_RXF_WORD 0).off then
        let (t, w) := s.sawRxf (nth off r.off r.stride)
        t.give [w]
      else
        let place := r.place off (s.persAt off) (bankOf init)
        let w := s.regWord off r place
        let s := s.noteMeasured off
        let s := if r.off = (F.SAW_Sn_STAMP0_STAMP 0).off then
            let n := nth off r.off r.stride
            (s.wr (F.SAW_Sn_STAMP1_STAMP (bankOf init) n) (bits (s.saw n).stamp 32 32)).wr
              (F.SAW_Sn_STAMP2_STAMP (bankOf init) n) (bits (s.saw n).stamp 64 32)
          else s
        (s.readEffect r place).give [w]

/-! What a write is held to (R65) -/

/-- The code of a value out of range, by block. -/
def rangeCode (block : Nat) : Nat :=
  match block with
  | 4 => 0x0403
  | 5 => 0x0506
  | 6 => 0x060C
  | 7 => 0x0701
  | 8 => 0x0804
  | 9 => 0x0904
  | 0xA => 0x0A02
  | 0xB => 0x0B05
  | 0xC => 0x0C04
  | 0x10 => 0x1014
  | 0x11 => 0x1101
  | 0x12 => 0x120A
  | 0x13 => 0x1309
  | 0x14 => 0x1406
  | 0x15 => 0x1510
  | 0x16 => 0x1601
  | 0x17 => 0x1701
  | 0x18 => 0x1801
  | 0x19 => 0x190F
  | _ => 0x1A07

/-- Whether a field written out of its range refuses the write: class A fields once an Almanac is in force, run-time fields always. -/
def FRow.outside (f : FRow) (inForce : Bool) (word : Nat) : Bool :=
  f.acc == .rw && (f.cls == .run || inForce) && (decide (f.of word < f.min) || decide (f.max < f.of word))

/-- Whether some byte of a word lies outside a range. -/
def byteOutside (word lo hi : Nat) : Bool :=
  (List.range 4).any (fun j => decide (bits word (8 * j) 8 < lo) || decide (hi < bits word (8 * j) 8))

/-- Whether a fast line has a FAST section. -/
def State.fastUsed (s : State) (n : Nat) : Bool := (portSection s.alm.force tFast n).isSome

/-- Whether a slice's bank is declared at 1.8 V (R175). -/
def State.lowBank (s : State) (n : Nat) : Bool := !(s.on (if n < 24 then F.PSL_BANK_A_33 else F.PSL_BANK_B_33))

/-- A rate of a personality that R176 does not allow, or not at the voltage of the slice's bank. -/
def State.rateBad (s : State) (off pers word : Nat) : Bool :=
  let low := s.lowBank (sliceAt off)
  match pers, off % 0x100 with
  | 1, 0x44 => decide (word < 1031) || decide ((if low then 42949672 else 85899345) < word)
  | 2, 0x40 => low && decide (bits word 0 16 < 24)
  | 7, 0x44 => decide (word < (if low then 20 else 10))
  | _, _ => false

/-- Limits of class A registers that are more than ranges of their fields. -/
def State.specialBad (s : State) (off word : Nat) (r : RRow) : Bool :=
  let n := nth off r.off r.stride
  match r.off with
  | 0x40108 => decide (256000 < (toSigned 32 word).natAbs)
  | 0x5010C => word % 2 ^ 24 == 0 || decide (s.rd F.CRL_HPER_VALUE < 4 * (word % 2 ^ 24))
  | 0x70040 => byteOutside word 0 15
  | 0x70080 => byteOutside word 0 127
  | 0x70084 => byteOutside word 0 127
  | 0x70088 => byteOutside word 0 31
  | 0x70090 => (List.range 16).any (fun j => bits word (2 * j) 2 != 0 && s.fastUsed j && !(s.fastOut j))
  | 0x70094 => (List.range 16).any (fun j => bits word (2 * j) 2 != 0 && s.fastUsed (16 + j) && !(s.fastOut (16 + j)))
  | 0x71000 => (setBits word 32).any s.fastOut
  | 0x71008 => (setBits word 32).any s.fastOut
  | 0x71C04 => bits word 16 2 == 3
  | 0x80400 => bits word 11 2 == 3
  | 0x90104 => decide (bits word 16 16 ≤ bits word 0 16)
  | 0xA0100 => bits word 2 2 == 3
  | 0xB1000 => s.on (F.CAN_Cc_CTL_EN n) && (bits word 25 3 !=
      s.rd (F.CAN_Cc_CTL_PXHD n) + 2 * s.rd (F.CAN_Cc_CTL_BRSE n) + 4 * s.rd (F.CAN_Cc_CTL_FDOE n))
  | 0xB1004 => s.on (F.CAN_Cc_CTL_EN n) || decide (bits word 8 7 < bits word 1 7)
  | 0xB1008 => s.on (F.CAN_Cc_CTL_EN n) || decide (bits word 18 4 < bits word 14 4)
  | 0xB100C => s.on (F.CAN_Cc_CTL_EN n)
  | 0xB1080 => decide (bits word 8 7 < bits word 1 7)
  | 0xB1084 => decide (bits word 18 4 < bits word 14 4)
  | 0xC1008 => decide (bits word 18 9 < bits word 9 9) || decide (bits word 18 9 < bits word 0 9)
  | 0x110020 => byteOutside word 1 255
  | 0x110024 => bits word 16 12 != 0 && (decide (bits word 16 12 < 64) || decide (2048 < bits word 16 12))
  | 0x110028 => bits word 14 2 != 0 || bits word 30 2 != 0
  | 0x11002C => bit word 31 && bits word 0 12 == 0
  | 0x140000 => bits word 0 8 == 0
  | _ => false

/-- Whether a register is written in the HV die (R145): class A fields of FLD and CHK, and BEN. -/
def hvWritten (block : Nat) (r : RRow) : Bool :=
  (block == 8 || block == 9) && r.fields.any (fun f => f.acc == .rw && (f.cls == .a || r.off == (F.FLD_Bb_CFG_BEN 0).off))

/-- The code that refuses a write, if any. -/
def State.writeRefused (s : State) (off word : Nat) (r : RRow) : Option Nat :=
  let block := off / 0x10000
  let classA : Bool := r.fields.any (fun f => f.acc == .rw && f.cls == .a)
  if !s.hvLink && hvWritten block r then some (if block = 8 then 0x0805 else 0x0906)
  else if r.fields.any (fun f => f.outside s.almInForce word) then some (rangeCode block)
  else if isParam off then (if s.almInForce && s.rateBad off (s.persAt off) word then some 0x0A02 else none)
  else if classA && s.almInForce && s.specialBad off word r then some (rangeCode block)
  else if (r.off = 0xB1080 ∨ r.off = 0xB1084) ∧ s.specialBad off word r then some 0x0B05
  else if r.off = F.UPD_ELOAD_SRC_OFFSET.off ∧ word % 16 ≠ 0 then some 0x190F
  else none

/-! Writing -/

/-- Fields whose write is an operation of its block: it stores them itself. -/
def ownField (r : RRow) (lo : Nat) (off pers : Nat) : Bool :=
  if isParam off then pers == 7 && off % 0x100 == 0x48
  else match r.off, lo with
    | 0x34, 0 => true
    | 0x10004, 2 => true
    | 0x60000, 0 => true
    | 0x70000, 0 => true
    | 0x80060, _ => true
    | 0x90014, _ => true
    | 0xA1008, 31 => true
    | 0xB1000, 30 => true
    | 0xB1000, 31 => true
    | 0xC0108, 0 => true
    | 0xC1000, 31 => true
    | 0xC103C, 0 => true
    | 0x170108, 0 => true
    | 0x180010, 16 => true
    | _, _ => false

/-- A field takes its part of a written word (R32, R36, R64). -/
def State.putField (s : State) (block : Nat) (f : FRow) (place word : Nat) : State :=
  let d := f.fld place
  let v := f.of word
  match f.acc with
  | .rwb => if s.rd d = v then s else { s.wr d v with voided := true }
  | .rw =>
    if f.cls = .a then
      if block = 7 then (if s.almInForce then s.slcWrite d v else s)
      else if isParam (place % 2 ^ 28) then (s.keepPar (sliceAt (place % 2 ^ 28)) d).wrA d v
      else s.wrA d v
    else s.wr d v
  | _ => s

/-- The low registers of the pairs that hold one 64-bit RW value (R33, R35). -/
def lowHalves : List Nat := [0x5011C, 0x71000, 0x71008, 0xC1048, 0x120200, 0x120304, 0x12030C, 0x1A004C]

/-- The RWB fields of a register take a written word; its other fields do not. -/
def State.putReserved (s : State) (r : RRow) (place word : Nat) : State :=
  r.fields.foldl (fun (t : State) (f : FRow) => if f.acc = .rwb then t.putField 0 f place word else t) s

/-- A write of the low half: staged (R35). A banked pair is a pair in each bank, with a staging register of its own; a staging register
holds 0 before anything is written to it (DESIGN CHOICE: notes/assumptions/15.md). -/
def State.stageLow (s : State) (r : RRow) (place word : Nat) : State :=
  let s := s.putReserved r place word
  { s with staged := s.staged.put place word 0 }

/-- A write of the high half commits the staged low half with it (R35). -/
def State.commitPair (s : State) (low : RRow) (r : RRow) (block place word : Nat) : State :=
  let staged := s.staged.getD (place - 4) 0
  let s := low.fields.foldl (fun (t : State) (f : FRow) => if f.acc = .rw then t.putField block f (place - 4) staged else t) s
  r.fields.foldl (fun (t : State) (f : FRow) => t.putField block f place word) s

/-- A window's prefetch slots are discarded (R326). -/
def State.dropWindow (s : State) (n : Nat) : State :=
  s.setBrg { s.brg with slots := s.brg.slots.filter (fun p => p.2.window != n) }

/-- PWR_CTL.GOV_EN = 0 keeps every governed slice in RUN (R429). -/
def State.govern (s : State) : State :=
  if s.on F.PWR_CTL_GOV_EN then s else (List.range 64).foldl (fun (t : State) n => t.wakeStart n) s

/-- What a write of a parameter register starts: the commit of a pulse pair (R185), the way out of MISMATCH (R186), and a MODE that comes
into force at once (R178). -/
def State.paramAction (s : State) (off pers word : Nat) : State :=
  let n := sliceAt off
  if pers = 7 ∧ off % 0x100 = 0x48 then s.pulseWrite n word
  else if pers = 8 ∧ off % 0x100 < 0x4C ∧ s.iol n = iolMismatch then s.toIol n iolStartup
  else if pers = 8 ∧ off % 0x100 = 0x40 ∧ (s.slice n).kept.isEmpty then s.iolFollow n
  else s

/-- The control registers of engines: slices, channels and sawyers. -/
def State.engineAction (s : State) (init : Initiator) (off word : Nat) (r : RRow) : State :=
  let n := nth off r.off r.stride
  match r.off with
  | 0xA1008 =>
    let s := s.sliceEnable n (bit word 31)
    let s := if bit word 2 || bit word 3 then s.flushRequest n (bit word 2) (bit word 3) else s
    if bit word 1 then s.sliceStart n else s
  | 0xB1000 =>
    let s := (s.canLom n (bit word 30)).canEnable n (bit word 31)
    let s := if bit word 2 then s.canRecover n else s
    let s := if bit word 4 then s.abdEnd n 0x0B06 else s
    if bit word 3 then s.abdGo init n else s
  | 0xB101C => s.canTxReq n 0 word
  | 0xB1020 => s.canTxReq n 1 word
  | 0xB1034 => s.canRxAck n 0 word
  | 0xB1038 => s.canRxAck n 1 word
  | 0xB1044 => s.canPop n (word % 4)
  | 0xC0100 => if bit word 31 then s.sawReload init n (bits word 0 8) (bit word 8) else s
  | 0xC0108 => s.groveFlags n word
  | 0xC1000 => s.sawEnable n (bit word 31)
  | 0xC1020 => s.sawInject init n word
  | 0xC1024 => s.sawTxf n word
  | 0xC103C => s.sawDrop n word
  | _ => s

/-- The control registers of the field: lines, feeds and their tests. -/
def State.fieldAction (s : State) (init : Initiator) (off word : Nat) (r : RRow) : State :=
  let n := nth off r.off r.stride
  match r.off with
  | 0x80050 => s.clearLatches init n word
  | 0x80060 => if bit word 31 then s.fldLb init (bit word 30) (bits word 0 16)
               else (s.wr F.FLD_LB_MAINT (bits word 30 1)).wr F.FLD_LB_BANKS word
  | 0x80200 => s.feedEnable n
  | 0x90014 => if bit word 31 then s.chkCal init (bit word 30) (bits word 0 16)
               else (s.wr F.CHK_CAL_MAINT (bits word 30 1)).wr F.CHK_CAL_FEEDS word
  | 0x90100 =>
    let s := s.feedEnable n
    if bit word 2 then s.feedClear init n else s
  | _ => s

/-- The control registers of the ring, the bridge and its contexts, keys and twins. -/
def State.fabricAction (s : State) (srd : State → Initiator → State) (init : Initiator) (src off word : Nat) (r : RRow) : State :=
  let b := bankOf init
  match r.off with
  | 0x100000 => if bit word 0 then s.rekeyWrite init else s
  | 0x120204 => s.dropWindow (nth off r.off r.stride)
  | 0x120208 => s.dropWindow (nth off r.off r.stride)
  | 0x120300 => if bit word 31 then srd s init else s
  | 0x130010 => s.doorbell (bits word 16 12) (bits word 0 12)
  | 0x130014 => s.dmxCmd init (s.rd (F.DMX_CMD_OP b)) (s.rd (F.DMX_CMD_CTX b)) (bit word 31)
  | 0x130024 => if bit word 0 then s.fqPop else s
  | 0x140100 => s.cphOp init (s.rd (F.CPH_OP_OP b)) (s.rd (F.CPH_OP_SLOT b)) (bit word 31)
  | 0x15000C => s.keyCmd init (s.rd (F.KEY_CMD_OP b)) (s.rd (F.KEY_CMD_RECORD b)) (s.rd (F.KEY_CMD_SLOT b)) (bit word 31)
  | 0x150800 => s.stageWrite (nth off r.off r.stride) word
  | 0x160000 => s.sttCtl init (bit word 0) (bit word 1) (bit word 2)
  | 0x160018 => s.peerIn init src word
  | 0x160040 => s.claimIn init word
  | 0x160044 => s.refcmdIn init src word
  | 0x160050 => if bit word 0 then s.refqPop else s
  | 0x160054 => s.orderIn init word
  | _ => s

/-- The control registers of the hub itself: Almanac, time, tallies, Calendar, Sluice, power, Vigil, update and Boom. One write of ALM_CTL
that sets several of CLR_STAGE, ENABLE and CANCEL does them in this order (R69 gives none; DESIGN CHOICE: notes/assumptions/15.md). -/
def State.hubAction (s : State) (init : Initiator) (off word : Nat) (r : RRow) : State :=
  let b := bankOf init
  let n := nth off r.off r.stride
  match r.off with
  | 0x20 => if bit word 0 then s.driftAck else s
  | 0x34 => if bit word 0 then s.raise F.GLB_CTL_PAIR1_REL else s
  | 0x10000 =>
    let s := if bit word 1 then s.clrStage else s
    let s := if bit word 0 then s.almEnable else s
    if bit word 2 then s.almCancel else s
  | 0x10004 => s.stagePtr (bits word 2 18)
  | 0x10008 => s.stageData word
  | 0x40000 =>
    let s := if bit word 0 then s.timCapture b else s
    if bit word 1 then s.timSet else s
  | 0x50020 => s.queryGo init (s.rd (F.TLY_Q_CTL_OP b)) (s.rd (F.TLY_Q_CTL_DIR b)) (s.rd (F.TLY_Q_CTL_SLOT b)) (bit word 31)
  | 0x60000 => ((s.defCommitDue).wrA F.SCH_CTL_DEF_COMMIT (bits word 0 8)).defCommitChanged
  | 0x60010 => s.schCmd init (s.rd (F.SCH_CMD_OP b)) (s.rd (F.SCH_CMD_INDEX b)) (bit word 31)
  | 0x60018 => s.retractGroups word fFw
  | 0x7002C => s.forceRelease word
  | 0x70000 => if bit word 0 then s.raise F.SLC_CTL_HOLD else s.slcRelease
  | 0x170000 => s.govern.pwrCtl (bit word 1)
  | 0x170108 => s.listWrite init n (bits word 0 22)
  | 0x18000C => if bit word 0 then s.tsafeClr else s
  | 0x180010 => s.tamperEnable init (bits word 16 8)
  | 0x190004 => if bit word 0 then s.sysrst (s.rd F.UPD_BOOT_BOOT_SRC) else s
  | 0x190010 => s.eload init (s.rd F.UPD_ELOAD_CLASS) (bit word 31)
  | 0x190090 => if bit word 0 then s.mboxGo else s
  | 0x1900A0 => if bit word 31 then s.rcmd (s.rd F.UPD_RCMD_LEN) else s
  | 0x191000 => s.wr (F.UPD_RBUF_DATA n) word
  | 0x1A0010 => s.bomCmd (s.rd F.BOM_CMD_OP) (s.rd F.BOM_CMD_MARK) (bit word 31)
  | 0x1A0038 => s.bomInj (s.rd F.BOM_INJ_SUBSYS) (s.on F.BOM_INJ_DOUBLE) (bit word 31)
  | 0x1A003C => s.bomTest init (s.rd F.BOM_TEST_OP) (s.rd F.BOM_TEST_PORT) (s.on F.BOM_TEST_MAINT) (bit word 31)
  | 0x1A0048 => s.bomFwrec (bits word 16 16) (bits word 0 16)
  | _ => s

/-- What a write of a register starts. `srd` is what BRG_SRD_CTL.GO does, `src` the hub that wrote. -/
def State.regAction (s : State) (srd : State → Initiator → State) (init : Initiator) (src off word : Nat) (r : RRow) : State :=
  if isParam off then s.paramAction off (s.persAt off) word
  else
    let block := off / 0x10000
    if block = 8 ∨ block = 9 then s.fieldAction init off word r
    else if 0xA ≤ block ∧ block ≤ 0xC then s.engineAction init off word r
    else if 0x10 ≤ block ∧ block ≤ 0x16 then s.fabricAction srd init src off word r
    else s.hubAction init off word r

/-- A write that nothing refuses. -/
def State.regPerform (s : State) (srd : State → Initiator → State) (init : Initiator) (src off word : Nat) (r : RRow) : State :=
  let pers := s.persAt off
  let place := r.place off pers (bankOf init)
  if lowHalves.contains r.off then s.stageLow r place word
  else
    match (if lowHalves.contains (r.off - 4) then findRow (off - 4) pers else none) with
    | some low => (s.commitPair low r (off / 0x10000) place word).regAction srd init src off word r
    | none =>
      let t := r.fields.foldl (fun (t : State) (f : FRow) =>
        if f.acc = .rw ∧ ownField r f.lo off pers then t else t.putField (off / 0x10000) f place word) s
      t.regAction srd init src off word r

/-- A write of a word to an offset of region 0. -/
def State.regWrite (s : State) (srd : State → Initiator → State) (init : Initiator) (src off word : Nat) : State :=
  if !(assignedBlock off) then s.refuseReg init off 0x0004
  else
    match findRow off (s.persAt off) with
    | none => s.ack
    | some r =>
      match s.writeRefused off word r with
      | some code =>
        if code = 0x0403 ∨ code = 0x0506 then (s.capture init (s.ownFa 0 off) code).ack else s.refuseReg init off code
      | none => s.ack.regPerform srd init src off word r

/-! Regions -/

/-- The form of a register access (R30). One that is both of another width and misaligned gets 0x0001 (R30 gives no order), and so does
one with bytes that are not enabled, being narrower than 32 bits (DESIGN CHOICE: notes/assumptions/15.md). -/
def formCode (off len : Nat) (enabled : Bool := true) : Option Nat :=
  if len ≠ 4 ∨ !enabled then some 0x0001 else if off % 4 ≠ 0 then some 0x0002 else none

/-- Bytes of the images: health and interrupt summary in front; beyond their lengths they read 0 (R54). -/
def State.imageBytes (s : State) (off len : Nat) : List Nat :=
  let front := leBytes 4 s.health ++ leBytes 4 s.irqSum
  (List.range len).map (fun k =>
    let o := off + k
    if o < 8 then front.getD o 0
    else if o < 0x400 then (if o < s.alm.inLen then (Mem.get s.mem (memAddr 1 o)).toNat else 0)
    else if o - 0x400 < s.alm.outLen then (Mem.get s.mem (memAddr 1 o)).toNat else 0)

/-- A write to the images: the output image takes it for the next boundary without an extracted image (R54, R273). -/
def State.imageWrite (s : State) (off : Nat) (bs : List Nat) : State :=
  let s := (List.range bs.length).foldl (fun (t : State) k =>
    let o := off + k
    if (8 ≤ o ∧ o < 0x400 ∧ o < s.alm.inLen) ∨ (0x400 ≤ o ∧ o - 0x400 < s.alm.outLen) then t.store 1 o [bs.getD k 0] else t) s
  { s with ring := { s.ring with harvest := { s.ring.harvest with written := true } } }.ack

/-- The bytes that a read of a flume's units returned. -/
def State.unitsToBytes (s : State) : State :=
  match s.answer with
  | .data l => s.give ((l.map (leBytes 8)).flatten)
  | _ => s

/-- Reading the words of a memory's range finds injected errors (R411, R415). -/
def State.memCheck (s : State) (region off len : Nat) : State :=
  (List.range ((off + len - 1) / 8 + 1 - off / 8)).foldl (fun (t : State) k => t.memRead (memAddr region (off + 8 * k))) s

/-- A read of a memory, region by region, once its words are checked. -/
def State.memoryRead (s : State) (init : Initiator) (region off len : Nat) (enabled : Bool := true) : State :=
  match region with
  | 1 => s.give (s.imageBytes off len)
  | 2 => if off < 0x30000 then (s.rxPortRead init (off / 0x1000) (off % 0x1000) len enabled).unitsToBytes
         else s.canWindowRead init ((off - 0x30000) / 0x4000) ((off - 0x30000) % 0x4000) len enabled
  | 3 => s.groveRead init off len enabled
  | 4 => s.give (s.bytes 4 off len)
  | 5 => s.boomRead init off len enabled
  | 6 => s.contextRead init off len
  | _ => s.calRead init off len enabled

/-- A read of a memory; one that is refused for its form reads no word. -/
def State.checkedRead (s : State) (init : Initiator) (region off len : Nat) (enabled : Bool := true) : State :=
  let r := s.memoryRead init region off len enabled
  match r.answer with
  | .error _ => r
  | _ =>
    let s := s.memCheck region off len
    if s.poisonedIn (memAddr region off) len then s.refuse init (s.ownFa region off) 0x1A05
    else s.memoryRead init region off len enabled

/-- A read of this hub's own address. Reading the host's memory gives what the host holds: free values. -/
def State.localRead (s : State) (init : Initiator) (region off len : Nat) (enabled : Bool := true) : State :=
  if regionEnd region < off + len then s.refuse init (s.ownFa region off) 0x0005
  else if region = 0 then
    match formCode off len enabled with
    | some code => s.refuseReg init off code
    | none => s.regRead init off
  else if region = 15 then
    if s.hostReached then
      let (t, l) := (List.range len).foldl (fun (p : State × List Nat) _ => (p.1.draw, p.2 ++ [p.1.free % 256])) (s, [])
      t.give l
    else s.refuse init (s.ownFa 15 off) 0x120C
  else s.checkedRead init region off len enabled

/-- A write to a memory, region by region. -/
def State.memoryWrite (s : State) (init : Initiator) (region off : Nat) (bs : List Nat) (enabled : Bool := true) : State :=
  match region with
  | 1 => s.imageWrite off bs
  | 2 => if off < 0x30000 then
           s.txPortWrite init (off / 0x1000) (off % 0x1000) ((List.range (bs.length / 8)).map (fun k => leAt bs (8 * k) 8)) bs.length enabled
         else s.canWindowWrite init ((off - 0x30000) / 0x4000) ((off - 0x30000) % 0x4000) bs enabled
  | 3 => s.groveWrite init off bs enabled
  | 4 => (s.store 4 off bs).ack
  | 5 => s.refuse init (s.ownFa 5 off) 0x1A06
  | 6 => s.contextWrite init off bs
  | _ => s.calWrite init off bs enabled

/-- A write that was performed has rewritten its words (R411, R415). -/
def State.wrote (s : State) (region off len : Nat) : State :=
  match s.answer with
  | .done => s.memWritten (memAddr region off) len
  | _ => s

/-- A write to this hub's own address. -/
def State.localWrite (s : State) (srd : State → Initiator → State) (init : Initiator) (src region off : Nat) (bs : List Nat)
    (enabled : Bool := true) : State :=
  if regionEnd region < off + bs.length then s.refuse init (s.ownFa region off) 0x0005
  else if region = 0 then
    match formCode off bs.length enabled with
    | some code => s.refuseReg init off code
    | none => s.regWrite srd init src off (leAt bs 0 4)
  else if region = 15 then
    if s.hostReached then (s.emit (.hostWrite off bs)).ack else s.refuse init (s.ownFa 15 off) 0x120C
  else (s.memoryWrite init region off bs enabled).wrote region off bs.length

/-! Rows that read and write memories -/

def execBoomRead (init : Initiator) (off : BitVec 20) (bytes : ReadBytes) (s : State) : Res :=
  guarded s (fun s => s.checkedRead init 5 off.toNat bytes.len bytes.enabled)

def execCalendarEntryWrite (init : Initiator) (off : BitVec 18) (data : WriteBytes) (s : State) : Res :=
  guarded s (fun s => (s.calWrite init off.toNat (data.bytes.map BitVec.toNat) data.enabled).wrote 7 off.toNat data.bytes.length)

def execContextRecordWrite (init : Initiator) (off : BitVec 18) (data : List Byte) (s : State) : Res :=
  guarded s (fun s => (s.contextWrite init off.toNat (data.map BitVec.toNat)).wrote 6 off.toNat data.length)

def execGroveMemoryWrite (init : Initiator) (off : BitVec 15) (data : WriteBytes) (s : State) : Res :=
  guarded s (fun s => (s.groveWrite init off.toNat (data.bytes.map BitVec.toNat) data.enabled).wrote 3 off.toNat data.bytes.length)

/-- CAN_BUFFER_WRITE: a write of bytes at an offset of a channel's window. -/
def execCanBufferWrite (init : Initiator) (channel : Fin 16) (off : BitVec 14) (data : WriteBytes) (s : State) : Res :=
  guarded s (fun s =>
    (s.canWindowWrite init channel off.toNat (data.bytes.map BitVec.toNat) data.enabled).wrote 2 (canWindow channel + off.toNat)
      data.bytes.length)

end Sys2Proof.Machine
end

