-- ==== Sys2Proof/Machine/Wake.lean ====
section
/-! DEFINITION. The end of a wake: restoring, the reload list, and held triggers (16 R433 to R435). -/

namespace Sys2Proof.Machine

/-- The power slice whose unit a register belongs to (R427). -/
def powerOfReg (off : Nat) : Option Nat :=
  if 0xA1000 ≤ off ∧ off < 0xA4000 then some (slicePower (sliceAt off))
  else if 0xB1000 ≤ off ∧ off < 0xB2000 then some (canPower (nth off 0xB1000 0x100))
  else if 0xC0100 ≤ off ∧ off < 0xC0300 then some (16 + nth off 0xC0100 0x20)
  else if 0xC1000 ≤ off ∧ off < 0xC5000 then some (sawPower (nth off 0xC1000 0x80))
  else if 0x100100 ≤ off ∧ off < 0x100200 then some (portPower (nth off 0x100100 0x40))
  else if 0x160100 ≤ off ∧ off < 0x160160 then some (portPower (4 + nth off 0x160100 0x20))
  else none

/-- A write that the replay of a reload list makes: no command of a bank starts from it. -/
def replayWrite (s : State) (off data : Nat) : State := s.regWrite (fun t _ => t) .yarder s.self off data

/-- One entry of a reload list: an expert write, or a word of region 0x3; an entry outside the slice's units is skipped. -/
def State.replayEntry (s : State) (n e : Nat) : State :=
  let off := bits e 0 24
  if bit e 31 then
    if 16 + off / 0x800 = n ∧ off % 4 = 0 then s.store 3 off (leBytes 4 (bits e 32 32)) else s
  else if powerOfReg off = some n ∧ off % 4 = 0 then replayWrite s off (bits e 32 32)
  else s

/-- The list that a wake reads: one replaced in the same cycle is still the one before (R436). -/
def State.reloadList (s : State) (n : Nat) : Nat × Bool :=
  (s.cycle.reverse.findSome? (fun m => match m with
    | .listWas k off ok => if k = n then some (off, ok) else none
    | _ => none)).getD (s.rd (F.PWR_Sn_LIST_OFFSET n), s.on (F.PWR_Sn_STAT_LISTOK n))

/-- The entries of a slice's reload list. -/
def State.reloadEntries (s : State) (n : Nat) : List Nat :=
  let base := 8 * (s.reloadList n).1
  (List.range (s.le 4 (base + 6) 2)).map (fun k => s.le 4 (base + 16 + 8 * k) 8)

/-- The replay, which does not answer anybody. -/
def State.replay (s : State) (n : Nat) : State :=
  { (s.reloadEntries n).foldl (fun t e => t.replayEntry n e) s with answer := s.answer }

/-- The ports whose units lie in a power slice. -/
def powerPorts (n : Nat) : List (Nat × Nat) :=
  if n < 12 then (List.range 4).map (fun j => (tPort, 4 * n + j))
  else if n < 16 then (List.range 4).map (fun j => (tCanch, 4 * (n - 12) + j))
  else if n < 32 then [(tGrove, n - 16)]
  else []

/-- A unit starts as after application. -/
def State.restoreUnit (s : State) (p : Nat × Nat) : State :=
  match (portsOf s.alm.force p.1).find? (fun q => q.1 == p.2) with
  | some q => if p.1 = tPort then s.loadSlice p.2 (some q.2) else if p.1 = tCanch then s.loadCan p.2 (some q.2) else s.loadGrove p.2 (some q.2)
  | none => s

/-- The restoring of a slice that comes out of HIBERNATE: from the Almanac, then from its reload list if that is valid (R434). -/
def State.restore (s : State) (n : Nat) : State :=
  let s := (powerPorts n).foldl (fun t p => t.restoreUnit p) s
  if (s.reloadList n).2 && s.listValid n (s.reloadList n).1 then (s.replay n).wr (F.PWR_Sn_STAT_STALE n) 0
  else s.raise (F.PWR_Sn_STAT_STALE n)

/-- Whether what NAP retained is older than the slice's reload sequence. -/
def State.napStale (s : State) (n : Nat) : Bool := (s.pwr.stamps.get? n).getD (s.rd (F.PWR_Sn_STAT_RSEQ n)) != s.rd (F.PWR_Sn_STAT_RSEQ n)

/-- A stale wake is reported. -/
def State.staleWake (s : State) (n : Nat) : State :=
  ((s.raise (F.PWR_Sn_STAT_STALE n)).raise F.PWR_IRQ_STALE).bump F.PWR_CNT_STALE

/-- What the slice's state is when it reaches RUN (R434). -/
def State.wakeState (s : State) (n : Nat) : State :=
  if s.power n = pNap then (if s.napStale n then (s.restore n).staleWake n else s.wr (F.PWR_Sn_STAT_STALE n) 0)
  else if s.power n = pHibernate then s.restore n
  else s

/-- A held trigger takes effect (R433). -/
def State.lateTrigger (s : State) (h : HeldTrigger) : State :=
  let s := ((s.raise F.PWR_IRQ_WAKELATE).bump F.PWR_CNT_WAKELATE).bump (F.PWR_Sn_CNT_WAKELATE h.slice)
  let s := s.boom { code := 0, kind := 2, unit := h.slice, data := (s.clk - h.clk) * 4 / 5, writer := 0x17 }
  match h.kind with
  | 3 => s.sawTrigger h.unit
  | 5 => s.canRequest h.unit h.param
  | _ => s.sliceStart h.unit

/-- WAKE_COMPLETE. -/
def State.wakeDone (s : State) (n : Nat) : State :=
  if !(s.pwr.waking.contains n) then s
  else
    let pins := s.powerPins n
    let s := (s.wakeState n).toPower n pRun
    let s := { s with pwr := { s.pwr with pins := s.pwr.pins.filter (fun p => !(pins.contains p.1)) } }
    let late := s.pwr.held.filter (fun (h : HeldTrigger) => h.slice == n)
    let s := { s with pwr := { s.pwr with waking := s.pwr.waking.filter (· != n), stamps := s.pwr.stamps.erase n,
                                          held := s.pwr.held.filter (fun (h : HeldTrigger) => h.slice != n) } }
    late.foldl State.lateTrigger s

def execWakeComplete (slice : Fin 64) (s : State) : Res := guarded s (fun s => s.wakeDone slice)

end Sys2Proof.Machine
end

