-- ==== Sys2Proof/Machine/Bridge.lean ====
section
/-!
DEFINITION. The bridge: tags and split transactions, locks and atomics, register-driven commands, and host requests through BAR2
(12 R314 to R333).
-/

namespace Sys2Proof.Machine

/-! Accesses to this hub's own addresses -/

/-- What a completed access gives: bytes or a code. -/
def State.outcome (s : State) (region : Nat) : Except Nat (List Nat) :=
  match s.answer with
  | .data l => .ok (if region = 0 then leBytes 4 (l.headD 0) else l)
  | .done => .ok []
  | .error c => .error c

/-- A read of this hub's own address. -/
def State.readOwn (s : State) (init : Initiator) (fa len : Nat) (enabled : Bool := true) : State × Except Nat (List Nat) :=
  let t := s.localRead init (bits fa 40 4) (fa % 2 ^ 40) len enabled
  (t, t.outcome (bits fa 40 4))

/-- BRG_SRD_CTL.GO within an access of the bank's own command: the command runs, so it is captured. -/
def State.srdRunning (s : State) (init : Initiator) : State := s.capture init (s.ownFa 0 (F.BRG_SRD_CTL_GO 0).off) 0x120B

/-- A write to this hub's own address: its code, 0 where it was performed. -/
def State.writeOwn (s : State) (srd : State → Initiator → State) (init : Initiator) (src fa : Nat) (bs : List Nat)
    (enabled : Bool := true) : State × Nat :=
  let t := s.localWrite srd init src (bits fa 40 4) (fa % 2 ^ 40) bs enabled
  (t, match t.answer with
      | .error c => c
      | _ => 0)

/-- A broadcast read, or a broadcast naming region 0x4, 0x5 or 0xF, is refused before it leaves (R317). -/
def castRefused (read : Bool) (fa : Nat) : Bool :=
  decide (fa / 2 ^ 46 = 1023) && (read || [4, 5, 0xF].contains (bits fa 40 4))

/-- Whether a page is P: only the map's own entry makes it so (R324, R325). -/
def State.pageP (s : State) (fa : Nat) : Bool :=
  s.brg.attrs.any (fun (region, first, n, _, p) =>
    p && decide (region = bits fa 40 4) && decide (first ≤ bits fa 12 28) && decide (bits fa 12 28 < first + n))

/-! Tags (R318, R319) -/

/-- Whether a tag counts toward DMALIM. -/
def TagUse.isDma : TagUse → Bool
  | .dmaRead .. => true
  | .dmaWrite .. => true
  | _ => false

/-- The lowest tag that is free for a use. -/
def State.freeTag (s : State) (dma : Bool) : Option Nat :=
  if dma && decide (s.rd F.BRG_TAGS_DMALIM ≤ (s.brg.tags.filter (fun p => p.2.isDma)).length) then none
  else (List.range 256).find? (fun t => (s.brg.tags.get? t).isNone && !(s.brg.quarantined.contains t))

/-- A request leaves with a tag, or is refused before. -/
def State.sendTagged (s : State) (t : Nat) (r : Request) : State × Nat :=
  let (u, code) := s.originate (if r.use.isDma then 12 else 8)
    { typ := 5, tc := r.tc, dest := r.fa / 2 ^ 44, ctx := r.ctx, kslot := r.kslot, payload := cmdPayload r.op r.b1 t r.bytes r.fa r.data }
  (if code = 0 then u.setBrg { u.brg with tags := u.brg.tags.insert t r.use } else u, code)

/-- A request is sent, or waits for a tag behind the requests of its kind that wait already. -/
def State.sendRequest (s : State) (r : Request) : State × Nat :=
  match (if s.brg.waiting.any (fun (q : Request) => q.use.isDma == r.use.isDma) then none else s.freeTag r.use.isDma) with
  | some t => s.sendTagged t r
  | none => ((s.setBrg { s.brg with waiting := s.brg.waiting ++ [r] }).bump F.BRG_CNT0_TAGWAIT, 0)

/-! Posted writes (R323) -/

/-- A failed posted write of an SRD bank or the host is captured; an engine's ends its context in ERROR (R344). -/
def State.postedCaptured (s : State) (who fa code : Nat) : State :=
  let s :=
    if s.on F.BRG_PWERR_CAPT then s.raise F.BRG_PWERR_OVF
    else
      ((((s.raise F.BRG_PWERR_CAPT).wr F.BRG_PWERR_INIT (if who = 1 ∨ who = 3 then 1 else 0)).wr F.BRG_PWERR_CODE code).wr
        F.BRG_PWERR_ADDR_LO_ADDR fa).wr F.BRG_PWERR_ADDR_HI_ADDR (fa / 2 ^ 32)
  (s.raise F.BRG_IRQ_PWERR).boom { code := code, kind := 2, unit := 0 }

/-- The data of a context's descriptor met an error. -/
def State.ctxDataFails (s : State) (c code : Nat) : State :=
  if [xReady, xRunning, xSaving].contains (s.ctxState c) then (s.dropDmaTags c).ctxError c code else s

/-- What a failed posted write does, by who sent it. -/
def State.postedFails (s : State) (who fa code : Nat) : State :=
  if who < 4 then s.postedCaptured who fa code else s.ctxDataFails (who - 4) code

/-- A posted write leaves; the last 256 are known for the NAK that may answer them. -/
def State.postWrite (s : State) (who tc fa : Nat) (data : List Nat) (ctx : Nat := 0) (kslot : Nat := 0) : State × Nat :=
  let q := s.ring.flowTx.getD tc 0
  let dest := fa / 2 ^ 44
  let (u, code) := s.originate (if who < 4 then 8 else 12)
    { typ := 5, tc := tc, dup := tc == 7, dest := dest, ctx := ctx, kslot := kslot, payload := cmdPayload 3 0 0 data.length fa data }
  let l := u.brg.posted ++ [⟨who, dest, tc, q, fa⟩]
  (if code = 0 then u.setBrg { u.brg with posted := l.drop (l.length - 256) } else u, code)

/-! Semaphores, where they lie (R329, R330) -/

def State.setSems (s : State) (m : SMap Nat) : State := s.setBrg { s.brg with sems := m }

/-- A requester's semaphores held here. -/
def State.semsOf (s : State) (who : Nat) : List Nat := (s.brg.sems.filter (fun p => p.2 == who)).map (·.1)

/-- The requester of this hub that is an SRD bank. -/
def State.ownBank (s : State) (who : Nat) : Option Nat := if who / 2 = s.self then some (who % 2) else none

/-- What a bank's LOCK_ACQ waits for. -/
def State.bankWaits (s : State) (b : Nat) : Option Nat :=
  match s.brg.srd.get? b with
  | some r => if r.op = 4 then some (r.fa / 4096) else none
  | none => none

/-- Whether a requester waits for a page, as far as this hub sees: its own banks' commands, and whom it answered busy. -/
def State.seenWaiting (s : State) (who page : Nat) : Bool :=
  (match s.ownBank who with
   | some b => s.bankWaits b == some page
   | none => false) ||
    (match s.brg.waits.get? who with
     | some (p, _) => p == page
     | none => false)

/-- How a LOCK_ACQ ends where the semaphore lies. -/
inductive LockVerdict where
  | granted
  | refused (code : Nat)
  /-- Granted in a crossing: what the holder had here is released, and its own acquisition is lost. -/
  | won (loser : Nat)
  deriving DecidableEq, Repr

/-- The table of R330. `held` is the page of HELD_FA, 0 for none; `holderWaits` what the hub is told of a holder that waits elsewhere. -/
def State.lockVerdict (s : State) (who held page : Nat) (holderWaits : Bool) : LockVerdict :=
  if s.brg.waits.get? who = some (page, true) then .refused 0x1205
  else match s.brg.sems.get? page with
    | none => if 32 ≤ s.brg.sems.length ∨ 4 ≤ (s.semsOf who).length then .refused 0x120E else .granted
    | some h =>
      if h = who then .granted
      else if held = 0 ∨ !(holderWaits || s.seenWaiting h held) then .refused 0x1204
      else if page < held then .refused 0x1205
      else .won h

/-- LOCK_ACQ performed where the semaphore lies; the loser of a crossing that it won is told by the caller. -/
def State.lockAcq (s : State) (who held page : Nat) (holderWaits : Bool) : State × LockVerdict :=
  let v := s.lockVerdict who held page holderWaits
  let crossed (s : State) : State := (s.bump F.BRG_CNT1_XLOCK).raise F.BRG_IRQ_XLOCK
  let clear (s : State) : State := s.setBrg { s.brg with waits := s.brg.waits.erase who }
  match v with
  | .granted => ((clear s).setSems (s.brg.sems.insert page who), v)
  | .refused 0x1204 => (s.setBrg { s.brg with waits := s.brg.waits.insert who (page, false) }, v)
  | .refused 0x1205 => (clear (if s.brg.waits.get? who = some (page, true) then s else crossed s), v)
  | .refused _ => (clear s, v)
  | .won h =>
    let s := crossed (clear s)
    let s := s.setSems (SMap.insert (s.brg.sems.filter (fun p => p.2 != h)) page who)
    (match s.brg.waits.get? h with
     | some (p, _) => s.setBrg { s.brg with waits := s.brg.waits.insert h (p, true) }
     | none => s, v)

/-- LOCK_REL performed: whether the requester held the semaphore. -/
def State.lockRel (s : State) (who page : Nat) : State × Bool :=
  if s.brg.sems.get? page = some who then (s.setSems (s.brg.sems.erase page), true) else (s, false)

/-! The requester's side of locks (R329, R331) -/

def State.locksOf (s : State) (b : Nat) : List Nat := s.brg.locks.getD b []
def State.setLocks (s : State) (b : Nat) (l : List Nat) : State := s.setBrg { s.brg with locks := s.brg.locks.put b l [] }

/-- The 16 bytes that go with LOCK_ACQ and LOCK_REL. -/
def State.lockData (s : State) (b : Nat) : List Nat :=
  leBytes 7 (match s.locksOf b with
    | [] => 0
    | p :: l => l.foldl min p * 4096) ++ [b] ++ List.replicate 8 0

/-- A register-driven command ends. -/
def State.srdEnd (s : State) (b code : Nat) : State :=
  (s.setBrg { s.brg with srd := s.brg.srd.erase b, backoff := s.brg.backoff.filter (· != b) }).resDone (RR.BRG_SRD_RES b) code

/-- A release that nobody waits for. -/
def State.releasePage (s : State) (b page : Nat) : State :=
  if page / 2 ^ 32 = s.self then (s.lockRel (2 * s.self + b) page).1
  else (s.sendRequest { use := .unlock, op := 5, bytes := 16, fa := page * 4096, data := s.lockData b }).1

/-- The loser of a crossing releases every semaphore it holds, reports 0x1205 and refuses the next acquisition for a while. -/
def State.loseLock (s : State) (b : Nat) : State :=
  let l := s.locksOf b
  let s := s.setLocks b []
  let s := l.foldl (fun (t : State) p => t.releasePage b p) s
  (s.setBrg { s.brg with lost := if s.brg.lost.contains b then s.brg.lost else s.brg.lost ++ [b] }).srdEnd b 0x1205

/-- A semaphore is busy: another attempt after a back-off, or 0x1206 once LOCK_TRIES were made. -/
def State.srdBusy (s : State) (b : Nat) : State :=
  let s := s.bump F.BRG_CNT1_LOCKBUSY
  match s.brg.srd.get? b with
  | none => s
  | some r =>
    if s.rd F.BRG_LOCKCFG_LOCK_TRIES ≤ r.tries + 1 then s.srdEnd b 0x1206
    else s.setBrg { s.brg with srd := s.brg.srd.insert b { r with tries := r.tries + 1 }, backoff := s.brg.backoff ++ [b] }

/-- A LOCK_ACQ of a bank was answered. -/
def State.lockAnswered (s : State) (b page code : Nat) : State :=
  match code with
  | 0 => (s.setLocks b ((s.locksOf b).filter (· != page) ++ [page])).srdEnd b 0
  | 0x1204 => s.srdBusy b
  | 0x1205 => s.loseLock b
  | _ => s.srdEnd b code

/-- What follows at this hub when a crossing was won over one of its own requesters. -/
def State.ownLoser (s : State) (v : LockVerdict) : State :=
  match v with
  | .won h =>
    match s.ownBank h with
    | some b => s.loseLock b
    | none => s
  | _ => s

/-- The code that a verdict gives. -/
def LockVerdict.code : LockVerdict → Nat
  | .refused c => c
  | _ => 0

/-! Atomics (R333) -/

/-- Bytes of an atomic's operand, and of its data. -/
def atomicSize (kind : Nat) : Nat := if kind % 2 = 0 then 4 else 8
def atomicBytes (kind : Nat) : Nat := if 4 ≤ kind then 2 * atomicSize kind else atomicSize kind

/-- The value an atomic leaves. -/
def atomicNew (kind old : Nat) (data : List Nat) : Nat :=
  let n := atomicSize kind
  match kind / 2 with
  | 0 => (old + leAt data 0 n) % 2 ^ (8 * n)
  | 1 => leAt data 0 n
  | _ => if old = leAt data 0 n then leAt data n n else old

/-- An atomic performed at its target: the old value or a code. -/
def State.atomic (s : State) (init : Initiator) (fa kind : Nat) (data : List Nat) : State × Except Nat (List Nat) :=
  let n := atomicSize kind
  if bits fa 40 4 ≠ 4 ∨ fa % n ≠ 0 then (s, .error 0x1207)
  else if (s.brg.sems.get? (fa / 4096)).isSome then (s, .error 0x1204)
  else
    let (s, r) := s.readOwn init fa n
    match r with
    | .error c => (s, .error c)
    | .ok old =>
      let (s, code) := s.writeOwn State.srdRunning init s.self fa (leBytes n (atomicNew kind (ofLe old) data))
      (s, if code = 0 then .ok old else .error code)

/-! Host requests in progress (R318, R322) -/

/-- PCIe completion statuses. -/
def cplOk : Nat := 0
def cplUr : Nat := 1
def cplCa : Nat := 4

/-- A completion; a Completer Abort is logged by AER. -/
def State.complete (s : State) (ptag status : Nat) (bs : List Nat) : State :=
  let s := s.emit (.completion ptag status bs)
  if status = cplCa then s.raise F.BRG_IRQ_AER else s

/-- A host read ends. -/
def State.hostEnds (s : State) (req status : Nat) (bs : List Nat) : State :=
  match s.brg.hostReads.get? req with
  | some h => (s.setBrg { s.brg with hostReads := s.brg.hostReads.erase req }).complete h.ptag status bs
  | none => s

/-- The status of a failure: refused before leaving or later (R322). -/
def failStatus (before : Bool) : Nat := if before then cplUr else cplCa

/-- The CMD READs of a host read are sent, at most 2032 bytes each. -/
def State.demand (s : State) (req : Nat) : State :=
  match s.brg.hostReads.get? req with
  | none => s
  | some h =>
    let n := (h.len + 2031) / 2032
    let s := s.setBrg { s.brg with hostReads := s.brg.hostReads.insert req { h with parts := List.replicate n none, slot := none } }
    if n = 0 then s.hostEnds req cplOk []
    else
      let (s, code) := (List.range n).foldl (fun (p : State × Nat) k =>
        if p.2 ≠ 0 then p
        else p.1.sendRequest { use := .host req k, op := 1, bytes := min 2032 (h.len - 2032 * k), fa := h.fa + 2032 * k }) (s, 0)
      if code = 0 then s else s.hostEnds req cplUr []

/-- A part of a host read arrived. -/
def State.hostPart (s : State) (req part : Nat) (bs : List Nat) : State :=
  match s.brg.hostReads.get? req with
  | none => s
  | some h =>
    let parts := h.parts.set part (some (bytesAt bs 0 (min 2032 (h.len - 2032 * part))))
    let s := s.setBrg { s.brg with hostReads := s.brg.hostReads.insert req { h with parts := parts } }
    if parts.all (·.isSome) then s.hostEnds req cplOk ((parts.filterMap id).flatten) else s

/-- A host AtomicOp ends. -/
def State.hostAtomicEnds (s : State) (req status : Nat) (bs : List Nat) : State :=
  match s.brg.hostAtomics.get? req with
  | some h =>
    (s.setBrg { s.brg with hostAtomics := s.brg.hostAtomics.erase req, backoff := s.brg.backoff.filter (· != 3 + req) }).complete
      h.ptag status bs
  | none => s

/-- A host AtomicOp met a semaphore that is held: handled as in R331. -/
def State.hostBusy (s : State) (req : Nat) : State :=
  let s := s.bump F.BRG_CNT1_LOCKBUSY
  match s.brg.hostAtomics.get? req with
  | none => s
  | some h =>
    if s.rd F.BRG_LOCKCFG_LOCK_TRIES ≤ h.tries + 1 then s.hostAtomicEnds req cplCa []
    else
      s.setBrg { s.brg with hostAtomics := s.brg.hostAtomics.insert req { h with tries := h.tries + 1 },
                            backoff := s.brg.backoff ++ [3 + req] }

/-! Prefetch slots (R326 to R328) -/

def State.setSlots (s : State) (m : SMap PrefetchSlot) : State := s.setBrg { s.brg with slots := m }

/-- The host reads that wait for a slot. -/
def State.slotReaders (s : State) (slot : Nat) : List Nat := (s.brg.hostReads.filter (fun p => p.2.slot == some slot)).map (·.1)

/-- A slot is freed; what waits for it is sent as demand reads. -/
def State.slotFails (s : State) (slot : Nat) : State :=
  (s.slotReaders slot).foldl (fun (t : State) r => t.demand r) (s.setSlots (s.brg.slots.erase slot))

/-- A prefetch was answered with 0x1203. -/
def State.pfNak (s : State) : State := (s.bump F.BRG_CNT0_PFNAK).raise F.BRG_IRQ_PFNAK

/-- Bytes of a slot at a read's address. -/
def PrefetchSlot.cut (x : PrefetchSlot) (bs : List Nat) (fa len : Nat) : List Nat := bytesAt bs (fa - x.fa) len

/-- A prefetch was answered: the slot holds its data, unless it was discarded meanwhile. -/
def State.slotFills (s : State) (slot : Nat) (bs : List Nat) : State :=
  match s.brg.slots.get? slot with
  | none => s.slotFails slot
  | some x =>
    let readers := s.slotReaders slot
    let s := s.setSlots (if x.poll && !readers.isEmpty then s.brg.slots.erase slot
                         else s.brg.slots.insert slot { x with data := some bs })
    readers.foldl (fun (t : State) r =>
      match t.brg.hostReads.get? r with
      | some h => t.hostEnds r cplOk (x.cut bs h.fa h.len)
      | none => t) s

/-- A PREFETCH read into a slot, where one of the 16 is free. -/
def State.prefetch (s : State) (window fa len : Nat) (poll : Bool) : State :=
  let id := s.brg.nextReq
  let x : PrefetchSlot := { fa := fa, len := len, window := window, poll := poll }
  if 16 ≤ s.brg.slots.length then s
  else
    let s := s.setBrg { s.brg with nextReq := id + 1 }
    if fa / 2 ^ 44 = s.self then
      if !(s.pageP fa) then s.pfNak
      else match s.readOwn .bar0 fa len with
        | (s, .ok bs) => s.setSlots (s.brg.slots.insert id { x with data := some bs })
        | (s, .error _) => s
    else
      let (s, code) := s.sendRequest { use := .prefetch id, op := 1, b1 := 1, bytes := len, fa := fa }
      if code = 0 then s.setSlots (s.brg.slots.insert id x) else s

/-- What follows a host read through a window: the poll read, and the run-ahead lines of its page in pieces of a slot. -/
def State.afterRead (s : State) (n fa len : Nat) : State :=
  let s := if s.on (F.BRG_Wn_CFG_POLL n) && decide (1 ≤ len) && decide (len ≤ 8) &&
      !(s.brg.slots.any (fun p => p.2.poll && p.2.fa == fa && p.2.len == len)) then s.prefetch n fa len true else s
  if s.on (F.BRG_Wn_CFG_P n) then
    let start := (fa + len + 63) / 64 * 64
    let stop := min (start + 64 * s.rd F.BRG_TMO_RUNAHEAD) ((fa + len - 1) / 4096 * 4096 + 4096)
    (List.range ((stop - start + 511) / 512)).foldl (fun (t : State) k =>
      let a := start + 512 * k
      if t.brg.slots.any (fun p => !p.2.poll && decide (p.2.fa ≤ a) && decide (a < p.2.fa + p.2.len)) then t
      else t.prefetch n a (min 512 (stop - a)) false) s
  else s

/-- A write through the bridge discards the slots of its page (R326). -/
def State.dropPage (s : State) (fa : Nat) : State := s.setSlots (s.brg.slots.filter (fun p => p.2.fa / 4096 != fa / 4096))

/-! The outcome of a request (R322) -/

/-- A request with a tag failed with a code, before it left or later. -/
def State.requestFails (s : State) (u : TagUse) (code : Nat) (before : Bool) : State :=
  match u with
  | .srd b =>
    match s.brg.srd.get? b with
    | some r => if r.op = 6 ∧ code = 0x1204 then s.srdBusy b else s.srdEnd b code
    | none => s
  | .lock b page => if s.bankWaits b = some page then s.lockAnswered b page code else s
  | .unlock => s
  | .host req _ => s.hostEnds req (failStatus before) []
  | .hostAtomic req => if code = 0x1204 then s.hostBusy req else s.hostAtomicEnds req (failStatus before) []
  | .prefetch slot => (if code = 0x1203 then s.pfNak else s).slotFails slot
  | .dmaRead c _ => s.ctxDataFails c code
  | .dmaWrite c _ => s.ctxDataFails c code

/-- A request is sent; a refusal is reported. -/
def State.issue (s : State) (r : Request) : State :=
  match s.sendRequest r with
  | (s, 0) => s
  | (s, code) => s.requestFails r.use code true

/-- TAG_FREED: the oldest waiting request for which a tag is free is sent. -/
def execTagFreed (s : State) : Res :=
  guarded s (fun s =>
    match s.brg.waiting.findIdx? (fun (r : Request) => (s.freeTag r.use.isDma).isSome) with
    | none => s
    | some k =>
      match s.brg.waiting.drop k with
      | [] => s
      | r :: _ =>
        let s := s.setBrg { s.brg with waiting := s.brg.waiting.eraseIdx k }
        match s.freeTag r.use.isDma with
        | none => s
        | some t =>
          match s.sendTagged t r with
          | (s, 0) => s
          | (s, code) => s.requestFails r.use code true)

/-! Register-driven commands (R318, R323, R329 to R333) -/

/-- The initiator of a bank. -/
def bankInit (b : Nat) : Initiator := if b = 0 then .yarder else if b = 1 then .bar0 else .tc4

/-- The command that a bank's registers name; none for an OP, a byte count or a requester that the manual does not give. -/
def State.srdNamed (s : State) (b : Nat) : Option SrdRun :=
  let op := s.rd (F.BRG_SRD_CTL_OP b)
  let kind := s.rd (F.BRG_SRD_CTL_ATOM b)
  let n := s.rd (F.BRG_SRD_CTL_BYTES b)
  let fa := s.rd64 (F.BRG_SRD_ADDR_LO_ADDR b) (F.BRG_SRD_ADDR_HI_ADDR b) % 2 ^ 56
  let data := leBytes 8 (s.rd64 (F.BRG_SRD_WDATA_LO_WDATA b) (F.BRG_SRD_WDATA_HI_WDATA b))
  match op with
  | 1 => if 1 ≤ n ∧ n ≤ 8 then some { op := 1, b1 := 0, bytes := n, fa := fa, data := [] } else none
  | 2 => if 1 ≤ n ∧ n ≤ 8 then some { op := 2, b1 := 0, bytes := n, fa := fa, data := data.take n } else none
  | 3 => if 1 ≤ n ∧ n ≤ 8 then some { op := 3, b1 := 0, bytes := n, fa := fa, data := data.take n } else none
  | 4 => if b < 2 then some { op := 4, b1 := 0, bytes := 16, fa := fa / 4096 * 4096, data := [] } else none
  | 5 => if b < 2 then some { op := 5, b1 := 0, bytes := 16, fa := fa / 4096 * 4096, data := [] } else none
  | 6 => some { op := 6, b1 := 2 * kind, bytes := atomicBytes kind, fa := fa, data := data.take (atomicBytes kind) }
  | _ => none

/-- Data read for a bank. -/
def State.srdData (s : State) (b : Nat) (bs : List Nat) : State :=
  s.wr64 (F.BRG_SRD_RDATA_LO_RDATA b) (F.BRG_SRD_RDATA_HI_RDATA b) (leAt bs 0 8)

/-- A command on this hub's own address is performed on-die (R20). -/
def State.srdOwn (s : State) (b : Nat) (r : SrdRun) (holderWaits : Bool) : State :=
  let init := bankInit b
  let who := 2 * s.self + b
  match r.op with
  | 1 =>
    match s.readOwn init r.fa r.bytes with
    | (s, .ok bs) => (s.srdData b bs).srdEnd b 0
    | (s, .error c) => s.srdEnd b c
  | 4 =>
    let (s, v) := s.lockAcq who (leAt (s.lockData b) 0 7 / 4096) (r.fa / 4096) holderWaits
    (s.ownLoser v).lockAnswered b (r.fa / 4096) v.code
  | 5 =>
    match s.lockRel who (r.fa / 4096) with
    | (s, true) => (s.setLocks b ((s.locksOf b).filter (· != r.fa / 4096))).srdEnd b 0
    | (s, false) => s.srdEnd b 0x120D
  | 6 =>
    match s.atomic init r.fa (r.b1 / 2) r.data with
    | (s, .ok old) => (s.srdData b old).srdEnd b 0
    | (s, .error 0x1204) => s.srdBusy b
    | (s, .error c) => s.srdEnd b c
  | op =>
    let (s, code) := s.writeOwn State.srdRunning init s.self r.fa r.data
    (if op = 3 ∧ code ≠ 0 then s.postedFails b r.fa code else s).srdEnd b code

/-- An attempt of a bank's command. -/
def State.srdTry (s : State) (b : Nat) (r : SrdRun) (holderWaits : Bool) : State :=
  let s := if r.op = 2 ∨ r.op = 3 ∨ r.op = 6 then s.dropPage r.fa else s
  if r.op = 4 ∧ s.brg.lost.contains b then s.srdEnd b 0x1205
  else if castRefused (r.op != 2 && r.op != 3) r.fa then
    (if r.op = 3 then s.postedFails b r.fa 0x1201 else s).srdEnd b 0x1201
  else if r.fa / 2 ^ 44 = s.self then s.srdOwn b r holderWaits
  else match r.op with
    | 3 =>
      match s.postWrite b 4 r.fa r.data with
      | (s, 0) => s.srdEnd b 0
      | (s, code) => (s.postedFails b r.fa code).srdEnd b code
    | 4 => s.issue { use := .lock b (r.fa / 4096), op := 4, bytes := 16, fa := r.fa, data := s.lockData b }
    | 5 => s.issue { use := .srd b, op := 5, bytes := 16, fa := r.fa, data := s.lockData b }
    | op => s.issue { use := .srd b, op := op, b1 := r.b1, bytes := r.bytes, fa := r.fa, data := r.data }

/-- BRG_SRD_CTL.GO. CAS 64, and the kinds that R333 does not list, end with 0x1209. -/
def State.srdStart (holderWaits : Bool) (s : State) (init : Initiator) : State :=
  let b := bankOf init
  match s.brg.srd.get? b with
  | some _ => s.srdRunning init
  | none =>
    match s.srdNamed b with
    | none => s
    | some r =>
      let s := s.resStart (RR.BRG_SRD_RES b)
      if r.op = 6 ∧ 10 ≤ r.b1 then s.resDone (RR.BRG_SRD_RES b) 0x1209
      else (s.setBrg { s.brg with srd := s.brg.srd.insert b r }).srdTry b r holderWaits

/-- A write of BRG_SRD_CTL with GO = 1. -/
def State.srdGo (s : State) (init : Initiator) (op atom bytes : Nat) (holderWaits : Bool) : State :=
  let b := bankOf init
  (((s.wr (F.BRG_SRD_CTL_OP b) op).wr (F.BRG_SRD_CTL_ATOM b) atom).wr (F.BRG_SRD_CTL_BYTES b) bytes).srdStart holderWaits init |>.ack

def execSrdRead (init : Initiator) (bytes : Fin 16) (s : State) : Res :=
  guarded s (fun s => s.srdGo init 1 (s.rd (F.BRG_SRD_CTL_ATOM (bankOf init))) bytes false)
def execSrdWrite (init : Initiator) (bytes : Fin 16) (s : State) : Res :=
  guarded s (fun s => s.srdGo init 2 (s.rd (F.BRG_SRD_CTL_ATOM (bankOf init))) bytes false)
def execSrdPostedWrite (init : Initiator) (bytes : Fin 16) (s : State) : Res :=
  guarded s (fun s => s.srdGo init 3 (s.rd (F.BRG_SRD_CTL_ATOM (bankOf init))) bytes false)

/-- SRD_LOCK_ACQ; `holderWaits` is what the hub is told of a holder that waits at another hub. -/
def execSrdLockAcq (init : Initiator) (holderWaits : Bool) (s : State) : Res :=
  guarded s (fun s => s.srdGo init 4 (s.rd (F.BRG_SRD_CTL_ATOM (bankOf init))) (s.rd (F.BRG_SRD_CTL_BYTES (bankOf init))) holderWaits)
def execSrdLockRel (init : Initiator) (s : State) : Res :=
  guarded s (fun s => s.srdGo init 5 (s.rd (F.BRG_SRD_CTL_ATOM (bankOf init))) (s.rd (F.BRG_SRD_CTL_BYTES (bankOf init))) false)
def execSrdAtomic (init : Initiator) (kind : Fin 8) (s : State) : Res :=
  guarded s (fun s => s.srdGo init 6 kind (s.rd (F.BRG_SRD_CTL_BYTES (bankOf init))) false)

/-! Host requests through BAR2 (R316, R317) -/

/-- The window of a BAR2 offset and the fabric address; none where R316 refuses. -/
def State.window? (s : State) (off : Nat) : Option (Nat × Nat) :=
  let n := off / 2 ^ 28
  let w := off % 2 ^ 28
  let base := s.rd (F.BRG_Wn_BASE_HI_BASE n) * 2 ^ 32 + s.rd (F.BRG_Wn_BASE_LO_BASE n) * 4096
  if s.on (F.BRG_Wn_CFG_EN n) ∧ w < (s.rd (F.BRG_Wn_CFG_LIMIT n) + 1) * 4096 ∧ base % 2 ^ 40 + w < 2 ^ 40 then some (n, base + w) else none

/-- An access refused before it leaves: Unsupported Request. -/
def State.unsupported (s : State) (ptag code : Nat) : State := { s.complete ptag cplUr [] with answer := .error code }

/-- A host read: from a slot, from this hub, or from another. -/
def State.hostReadAt (s : State) (ptag fa len : Nat) (enabled : Bool) : State :=
  let inside (x : PrefetchSlot) : Bool :=
    if x.poll then x.fa == fa && x.len == len else decide (x.fa ≤ fa) && decide (fa + len ≤ x.fa + x.len)
  let req := s.brg.nextReq
  match s.brg.slots.find? (fun p => inside p.2) with
  | some (id, x) =>
    match x.data with
    | some bs => (if x.poll then s.setSlots (s.brg.slots.erase id) else s).complete ptag cplOk (x.cut bs fa len)
    | none =>
      s.setBrg { s.brg with nextReq := req + 1,
                            hostReads := s.brg.hostReads.insert req { ptag := ptag, fa := fa, len := len, parts := [], slot := some id } }
  | none =>
    if fa / 2 ^ 44 = s.self then
      match s.readOwn .bar0 fa len enabled with
      | (s, .ok bs) => s.complete ptag cplOk bs
      | (s, .error c) => s.complete ptag (failStatus (c == 0x120C)) []
    else
      (s.setBrg { s.brg with nextReq := req + 1,
                             hostReads := s.brg.hostReads.insert req { ptag := ptag, fa := fa, len := len, parts := [] } }).demand req

/-- HOST_MRD: the read's tag, its BAR2 offset and its bytes. -/
def execHostMrd (tag : BitVec 10) (off : BitVec 32) (bytes : ReadBytes) (s : State) : Res :=
  guarded s (fun s =>
    if !(s.on F.BRG_STATUS_EP) then s
    else match s.window? off.toNat with
      | none => s.unsupported tag.toNat 0x1208
      | some (n, fa) =>
        if castRefused true fa then s.unsupported tag.toNat 0x1201
        else (s.hostReadAt tag.toNat fa bytes.len bytes.enabled).afterRead n fa bytes.len)

/-- The runs of enabled bytes of a write: where each begins, and its bytes. -/
def enabledRuns : Nat → List (Option Byte) → List (Nat × List Nat)
  | _, [] => []
  | k, none :: l => enabledRuns (k + 1) l
  | k, some b :: l =>
    match enabledRuns (k + 1) l with
    | (o, bs) :: rest => if o = k + 1 then (k, b.toNat :: bs) :: rest else (k, [b.toNat]) :: (o, bs) :: rest
    | [] => [(k, [b.toNat])]

/-- A posted write of the host at a fabric address; its failures go to BRG_PWERR. -/
def State.hostWriteAt (s : State) (fa : Nat) (bs : List Nat) (enabled : Bool) : State :=
  match (if fa / 2 ^ 44 = s.self then s.writeOwn (State.srdStart false) .bar0 s.self fa bs enabled else s.postWrite 3 4 fa bs) with
  | (s, 0) => s
  | (s, code) => s.postedFails 3 fa code

/-- Whether every byte of an access to a region must be enabled (R30, R110, R190, R207, R230, R419). -/
def wholeOnly (region : Nat) : Bool := [0, 2, 3, 5, 7].contains region

/-- HOST_MWR: a posted write, byte by byte, none for a byte that is not enabled. Where the region asks for all bytes the write is refused
whole; elsewhere each run of enabled bytes is a write of its own, since a CMD names a run of bytes alone (R287; DESIGN CHOICE:
notes/assumptions/28.md). -/
def execHostMwr (off : BitVec 32) (data : List (Option Byte)) (s : State) : Res :=
  guarded s (fun s =>
    if !(s.on F.BRG_STATUS_EP) then s
    else match s.window? off.toNat with
      | none => { s.postedFails 3 off.toNat 0x1208 with answer := .error 0x1208 }
      | some (_, fa) =>
        let s := s.dropPage fa
        if castRefused false fa then s.postedFails 3 fa 0x1201
        else if data.all Option.isSome || (fa / 2 ^ 44 == s.self && wholeOnly (bits fa 40 4)) then
          s.hostWriteAt fa (data.map (fun b => (b.getD 0).toNat)) (data.all Option.isSome)
        else (enabledRuns 0 data).foldl (fun t r => t.hostWriteAt (fa + r.1) r.2 true) s)

/-- An attempt of a host AtomicOp. -/
def State.hostAtomicTry (s : State) (req : Nat) (h : HostAtomic) : State :=
  if h.fa / 2 ^ 44 = s.self then
    match s.atomic .bar0 h.fa h.kind h.data with
    | (s, .ok old) => s.hostAtomicEnds req cplOk old
    | (s, .error 0x1204) => s.hostBusy req
    | (s, .error _) => s.hostAtomicEnds req cplCa []
  else s.issue { use := .hostAtomic req, op := 6, b1 := 2 * h.kind, bytes := h.data.length, fa := h.fa, data := h.data }

/-- HOST_ATOMICOP: FetchAdd, Swap or CAS of 32 or 64 bits (R333 codes); other sizes are UNSUPPORTED_TLP. -/
def execHostAtomicop (tag : BitVec 10) (kind : Fin 6) (off : BitVec 32) (data : BitVec 128) (s : State) : Res :=
  guarded s (fun s =>
    if !(s.on F.BRG_STATUS_EP) then s
    else match s.window? off.toNat with
      | none => s.unsupported tag.toNat 0x1208
      | some (_, fa) =>
        if castRefused true fa then s.unsupported tag.toNat 0x1201
        else
          let req := s.brg.nextReq
          let h : HostAtomic := { ptag := tag.toNat, fa := fa, kind := kind, data := leBytes (atomicBytes kind) data.toNat }
          let s := (s.dropPage fa).setBrg { (s.dropPage fa).brg with nextReq := req + 1, hostAtomics := s.brg.hostAtomics.insert req h }
          s.hostAtomicTry req h)

/-- UNSUPPORTED_TLP: its tag where it awaits a completion (R314). -/
def execUnsupportedTlp (tag : Option (BitVec 10)) (s : State) : Res :=
  guarded s (fun s =>
    if !(s.on F.BRG_STATUS_EP) then s
    else match tag with
      | some t => s.unsupported t.toNat 0x1209
      | none => { s with answer := .error 0x1209 })

/-! Timers (R326, R331, R332) -/

/-- PREFETCH_SLOT_EXPIRY: the slots are numbered in the order they are filed. -/
def execPrefetchSlotExpiry (slot : Fin 16) (s : State) : Res :=
  guarded s (fun s =>
    match s.brg.slots.drop slot with
    | (id, x) :: _ => if x.data.isSome then s.setSlots (s.brg.slots.erase id) else s
    | [] => s)

/-- LOCK_BACKOFF_EXPIRY: of an SRD bank (0 to 2) or of the host's AtomicOp r (3 + r); a bank that lost a crossing may acquire again. -/
def execLockBackoffExpiry (who : Nat) (holderWaits : Bool) (s : State) : Res :=
  guarded s (fun s =>
    if s.brg.backoff.contains who then
      let s := s.setBrg { s.brg with backoff := s.brg.backoff.filter (· != who) }
      if who < 3 then
        match s.brg.srd.get? who with
        | some r => s.srdTry who r holderWaits
        | none => s
      else
        match s.brg.hostAtomics.get? (who - 3) with
        | some h => s.hostAtomicTry (who - 3) h
        | none => s
    else s.setBrg { s.brg with lost := s.brg.lost.filter (· != who) })

/-- LOCK_TMO_EXPIRY: the semaphore of a page is released; the record names the holder. -/
def execLockTmoExpiry (page : BitVec 44) (s : State) : Res :=
  guarded s (fun s =>
    match s.brg.sems.get? page.toNat with
    | none => s
    | some h =>
      let s := s.setSems (s.brg.sems.erase page.toNat)
      let s := match s.ownBank h with
        | some b => s.setLocks b ((s.locksOf b).filter (· != page.toNat))
        | none => s
      (s.raise F.BRG_IRQ_LOCKTMO).boom { code := 0, kind := 2, unit := 0, data := h, writer := 0x12 })

end Sys2Proof.Machine
end

