-- ==== Sys2Proof/Machine/Transfer.lean ====
section
/-!
DEFINITION. Commands served at their target, answers at their initiator, and the engines' data (10 R287 to R290; 12 R318 to R333, R338,
R343 to R348).
-/

namespace Sys2Proof.Machine

/-! Pages whose S attribute is fixed in silicon (R39) -/

/-- Whether a register of a row lies in a 4 KiB page of region 0. -/
def RRow.inPage (r : RRow) (page : Nat) : Bool :=
  (List.range (max 1 r.n)).any (fun k => (List.range (max 1 r.m)).any (fun j => (r.off + k * r.stride + j * r.stride2) / 4096 == page))

/-- Whether a row holds an RC field or is a result register. -/
def RRow.sideEffecting (r : RRow) : Bool := r.kind == .result || r.kind == .bankedResult || r.fields.any (fun f => f.acc == .rc)

/-- S pages of every hub: registers with RC fields or results, flume data ports, CAN FIFO read ports. -/
def sPage (fa : Nat) : Bool :=
  let page := bits fa 12 28
  if bits fa 40 4 = 0 then (regRows (page / 16)).any (fun r => r.sideEffecting && r.inPage page) else fixedS (bits fa 40 4) page

/-! Context data (R338, R343, R348) -/

def State.ctxLq (s : State) (c : Nat) : Bool := bit (s.ctxDctl c) 28
def State.ctxKslot (s : State) (c : Nat) : Nat := if bit (s.ctx c 0 4) 23 then bits (s.ctx c 0 4) 0 8 else 0

/-- The class of an engine's command; a READ has none above TC5, and a CMD none of TC6 (log entry 27). -/
def State.moveTc (s : State) (c fa : Nat) (read : Bool) : Nat :=
  let tc := s.ctxTc c
  if sPage fa then 4 else if read then min 5 tc else if tc = 6 then 5 else tc

/-- A side's fabric address at DONE, the bytes to the end of its page, and whether the page permits it; none without a translation. -/
def State.sideFa (s : State) (c : Nat) (dest : Bool) : Option (Nat × Nat × Bool) :=
  let a := s.sideAddr c dest
  if s.sideVirtual c dest then
    (s.lookup c a).map (fun (t : Translation) => (t.at a, t.size - a % t.size, if dest then t.w else t.r))
  else some (a % 2 ^ 56, 4096 - a % 4096, true)

/-- Bytes of an end in pieces that its region accepts: words in region 0 (R30). -/
def wordPieces (fa n : Nat) : List (Nat × Nat) :=
  if bits fa 40 4 = 0 then (List.range (n / 4)).map (fun k => (fa + 4 * k, 4)) else [(fa, n)]

/-- A read of an engine at this hub. -/
def State.moveRead (s : State) (fa n : Nat) : State × Except Nat (List Nat) :=
  (wordPieces fa n).foldl (fun (p : State × Except Nat (List Nat)) x =>
    match p.2 with
    | .error _ => p
    | .ok bs =>
      match p.1.readOwn .dma x.1 x.2 with
      | (t, .ok l) => (t, .ok (bs ++ l))
      | (t, .error c) => (t, .error c)) (s, .ok [])

/-- A write of an engine at this hub. -/
def State.moveWrite (s : State) (fa : Nat) (bs : List Nat) : State × Nat :=
  (wordPieces fa bs.length).foldl (fun (p : State × Nat) x =>
    if p.2 ≠ 0 then p
    else p.1.writeOwn (State.srdStart false) .dma p.1.self x.1 (bytesAt bs (x.1 - fa) x.2)) (s, 0)

/-- DONE, and ACKED where nothing more acknowledges the bytes. -/
def State.advance (s : State) (c n : Nat) (acked : Bool) : State :=
  let s := s.setCtx c 0x38 4 (s.ctxDone c + n)
  if acked then s.setCtx c 0x3C 4 (s.ctxAcked c + n) else s

/-- The bytes of a launch queue's frame are gathered; the last ones place it (R338). -/
def State.gather (s : State) (c : Nat) (bs : List Nat) : State :=
  let l := (s.dmx.gather.getD c []).take (s.ctxDone c) ++ bs
  let s := s.advance c bs.length false
  if s.ctxDone c < s.ctxLen c then s.setDmx { s.dmx with gather := s.dmx.gather.insert c l }
  else
    let s := s.setDmx { s.dmx with gather := s.dmx.gather.erase c }
    let fa := s.ctx c 0x28 8 % 2 ^ 56
    if castRefused false fa then s.ctxError c 0x1201
    else
      match s.placeInQueue (bits (s.ctxDctl c) 24 4)
          { typ := 5, tc := 5, dest := fa / 2 ^ 44, ctx := c, kslot := s.ctxKslot c, payload := cmdPayload 3 0 0 l.length fa l } with
      | (s, 0) => s.setCtx c 0x3C 4 (s.ctxLen c)
      | (s, code) => s.descDone c code

/-- A line is written: at this hub, as CMD WRITE in TC0 to TC3, as POSTED_WRITE above and for S pages. -/
def State.moveOut (s : State) (c : Nat) (bs : List Nat) : State :=
  if s.ctxLq c then s.gather c bs
  else match s.sideFa c true with
    | none => s
    | some (fa, _, _) =>
      let n := bs.length
      if castRefused false fa then s.ctxError c 0x1201
      else if fa / 2 ^ 44 = s.self then
        match s.moveWrite fa bs with
        | (s, 0) => s.advance c n true
        | (s, code) => s.ctxError c code
      else
        let tc := s.moveTc c fa false
        if 4 ≤ tc then
          match s.postWrite (4 + c) tc fa bs c (s.ctxKslot c) with
          | (s, 0) => s.advance c n true
          | (s, code) => s.ctxError c code
        else
          match s.sendRequest { use := .dmaWrite c n, op := 2, bytes := n, fa := fa, tc := tc, data := bs, ctx := c, kslot := s.ctxKslot c } with
          | (s, 0) => s.advance c n false
          | (s, code) => s.ctxError c code

/-- An engine moves its context's next line of at most 64 bytes (R338, R343, R349); it waits where a translation is missing. -/
def State.moveLine (s : State) (e : Nat) : State :=
  match s.dmx.engines.get? e with
  | none => s
  | some x =>
    let c := x.ctx
    let done := s.ctxDone c
    if s.ctxState c ≠ xRunning ∨ !x.fetched ∨ x.reading ∨ s.ctxLen c ≤ done ∨ !(s.powered (dmaPower e)) then s
    else match s.sideFa c false, (if s.ctxLq c then some (0, 64, true) else s.sideFa c true) with
      | some (fa, ls, r), some (_, ld, w) =>
        if !r then s.ctxFaulted c ⟨2, false, false, s.sideAddr c false⟩
        else if !w then s.ctxFaulted c ⟨2, true, false, s.sideAddr c true⟩
        else
          let n := min (64 - done % 64) (min (s.ctxLen c - done) (min ls ld))
          if castRefused true fa then s.ctxError c 0x1201
          else if fa / 2 ^ 44 = s.self then
            match s.moveRead fa n with
            | (s, .ok bs) => s.moveOut c bs
            | (s, .error code) => s.ctxError c code
          else
            match s.sendRequest { use := .dmaRead c n, op := 1, bytes := n, fa := fa, tc := s.moveTc c fa true, ctx := c,
                                  kslot := s.ctxKslot c } with
            | (s, 0) => s.setEngine e { x with reading := true }
            | (s, code) => s.ctxError c code
      | _, _ => s

/-- The engines' part of a CCLK tick: a line each every 16 cycles of 0.8 ns (R349). -/
def State.dmaTick (s : State) : State :=
  if s.clk % 16 = 0 then (List.range 16).foldl (fun (t : State) e => t.moveLine e) s else s

/-- Data read for a context arrived; bytes already read are written out before a save completes (R343). -/
def State.dmaData (s : State) (c : Nat) (bs : List Nat) : State :=
  match s.engineOf c with
  | none => s
  | some e =>
    match s.dmx.engines.get? e with
    | none => s
    | some x =>
      let s := s.setEngine e { x with reading := false }
      if x.reading && (s.ctxState c == xRunning || s.ctxState c == xSaving) then s.moveOut c bs else s

/-! Commands at their target (R287, R290) -/

def cmdOp (f : Frame) : Nat := f.payload.getD 0 0
def cmdB1 (f : Frame) : Nat := f.payload.getD 1 0
def cmdTag (f : Frame) : Nat := f.payload.getD 2 0
def cmdBytes (f : Frame) : Nat := leAt f.payload 4 2
def cmdFa (f : Frame) : Nat := leAt f.payload 8 7
def cmdData (f : Frame) : List Nat := f.payload.drop 16

/-- An RSP, secured as RSPMAP names (R370). -/
def State.sendRsp (s : State) (f : Frame) (data : List Nat) : State :=
  s.send 8 { typ := 6, tc := f.tc, dest := f.src, ctx := f.ctx, kslot := if f.kslot = 0 then 0 else s.sec.rspMap.getD f.kslot 0,
             payload := rspPayload (cmdOp f) (cmdTag f) 0 data }

/-- A malformed payload (R290). -/
def State.malformed (s : State) (port : Nat) (f : Frame) : State := (s.violation port 0x1007).sendNak f 0x1007

/-- Whether a CMD's header is well formed for its OP. -/
def cmdFits (f : Frame) : Bool :=
  let n := cmdBytes f
  let data := (cmdData f).length
  decide (16 ≤ f.payload.length) && f.payload.getD 3 0 == 0 && leAt f.payload 6 2 == 0 && f.payload.getD 15 0 == 0 && decide (cmdB1 f < 16) &&
    decide (1 ≤ n) && decide (n ≤ 2032) &&
    (match cmdOp f with
     | 1 => data == 0
     | 2 => data == n
     | 3 => data == n
     | 4 => data == n && n == 16 && decide ((cmdData f).getD 7 0 < 2)
     | 5 => data == n && n == 16 && decide ((cmdData f).getD 7 0 < 2)
     | 6 => data == n && decide (cmdB1 f / 2 < 6) && n == atomicBytes (cmdB1 f / 2)
     | _ => false)

/-- An access at the target gave bytes or a code: RSP or NAK. -/
def State.answerCmd (s : State) (f : Frame) (r : Except Nat (List Nat)) : State :=
  match r with
  | .ok bs => s.sendRsp f bs
  | .error c => s.sendNak f c

/-- The requester of a LOCK_ACQ or LOCK_REL. -/
def lockWho (f : Frame) : Nat := 2 * f.src + (cmdData f).getD 7 0

/-- The place of this hub that a CMD names. -/
def State.cmdPlace (s : State) (f : Frame) : Nat := bits (cmdFa f) 0 44 + s.self * 2 ^ 44

/-- The CMDs at their target: READ, WRITE, POSTED_WRITE, LOCK_ACQ, LOCK_REL and ATOMIC. -/
def State.serveRead (s : State) (f : Frame) : State :=
  if bit (cmdB1 f) 0 && !(s.pageP (s.cmdPlace f)) then s.sendNak f 0x1203
  else
    let p := s.readOwn .tc4 (s.cmdPlace f) (cmdBytes f)
    p.1.answerCmd f p.2

def State.serveWrite (s : State) (f : Frame) : State :=
  let p := s.writeOwn (State.srdStart false) .tc4 f.src (s.cmdPlace f) (cmdData f)
  p.1.answerCmd f (if p.2 = 0 then .ok [] else .error p.2)

def State.servePosted (s : State) (f : Frame) : State :=
  let p := s.writeOwn (State.srdStart false) .tc4 f.src (s.cmdPlace f) (cmdData f)
  if p.2 = 0 then p.1 else p.1.sendNak f p.2

def State.serveLockAcq (s : State) (f : Frame) (holderWaits : Bool) : State :=
  let p := s.lockAcq (lockWho f) (leAt (cmdData f) 0 7 / 4096) (s.cmdPlace f / 4096) holderWaits
  (p.1.ownLoser p.2).answerCmd f (if p.2.code = 0 then .ok [] else .error p.2.code)

def State.serveLockRel (s : State) (f : Frame) : State :=
  let p := s.lockRel (lockWho f) (s.cmdPlace f / 4096)
  if p.2 then p.1.answerCmd f (.ok []) else p.1.sendNak f 0x120D

def State.serveAtomic (s : State) (f : Frame) : State :=
  let p := s.atomic .tc4 (s.cmdPlace f) (cmdB1 f / 2) (cmdData f)
  p.1.answerCmd f p.2

/-- A well-formed CMD is performed. -/
def State.serveCmd (s : State) (f : Frame) (holderWaits : Bool) : State :=
  match cmdOp f with
  | 1 => s.serveRead f
  | 2 => s.serveWrite f
  | 3 => s.servePosted f
  | 4 => s.serveLockAcq f holderWaits
  | 5 => s.serveLockRel f
  | _ => s.serveAtomic f

/-- A CMD for this hub under the row of an OP. A row takes frames of its own OP, and malformed ones. -/
def State.cmdIn (s : State) (op : Nat) (f : Frame) (holderWaits : Bool) : State :=
  if f.typ ≠ 5 ∨ (cmdOp f ≠ op ∧ 1 ≤ cmdOp f ∧ cmdOp f ≤ 6) then s
  else if !(cmdFits f) then s.malformed 8 f
  else if f.tc = 7 ∧ cmdOp f ≠ 3 then s.sendNak f 0x1008
  else s.serveCmd f holderWaits

def execRead (frame : Frame) (s : State) : Res := guarded s (fun s => s.cmdIn 1 frame false)
def execWrite (frame : Frame) (s : State) : Res := guarded s (fun s => s.cmdIn 2 frame false)
def execPostedWrite (frame : Frame) (s : State) : Res := guarded s (fun s => s.cmdIn 3 frame false)

/-- LOCK_ACQ; `holderWaits` is whether the semaphore's holder waits, at another hub, for the page in HELD_FA. -/
def execLockAcq (frame : Frame) (holderWaits : Bool) (s : State) : Res := guarded s (fun s => s.cmdIn 4 frame holderWaits)
def execLockRel (frame : Frame) (s : State) : Res := guarded s (fun s => s.cmdIn 5 frame false)
def execAtomic (frame : Frame) (s : State) : Res := guarded s (fun s => s.cmdIn 6 frame false)

/-! Answers at their initiator (R318, R320, R322) -/

/-- A tag leaves use. -/
def State.dropTag (s : State) (t : Nat) : State := s.setBrg { s.brg with tags := s.brg.tags.erase t }

/-- An RSP without an error ends the request of its tag. -/
def State.tagAnswered (s : State) (u : TagUse) (bs : List Nat) : State :=
  match u with
  | .srd b =>
    match s.brg.srd.get? b with
    | none => s
    | some r =>
      let s := if r.op = 1 ∨ r.op = 6 then s.srdData b (bs.take 8) else s
      let s := if r.op = 5 then s.setLocks b ((s.locksOf b).filter (· != r.fa / 4096)) else s
      s.srdEnd b 0
  | .lock b page => if s.bankWaits b = some page then s.lockAnswered b page 0 else s.releasePage b page
  | .unlock => s
  | .host req part => s.hostPart req part bs
  | .hostAtomic req => s.hostAtomicEnds req cplOk bs
  | .prefetch slot => s.slotFills slot bs
  | .dmaRead c n => s.dmaData c (bytesAt bs 0 n)
  | .dmaWrite c n => s.dmaAcked c n

/-- RSP: it completes the transaction of its tag, or is discarded as late. -/
def execRsp (frame : Frame) (s : State) : Res :=
  guarded s (fun s =>
    let t := cmdTag frame
    if frame.typ ≠ 6 then s
    else if frame.payload.length < 16 then s.malformed 8 frame
    else if s.brg.quarantined.contains t then s.bump F.BRG_CNT2_LATE_RSP
    else match s.brg.tags.get? t with
      | none => s
      | some u =>
        let code := leAt frame.payload 6 2
        if code = 0 then (s.dropTag t).tagAnswered u (cmdData frame) else (s.dropTag t).requestFails u code false)

/-- The posted write that a NAK answers: by destination and FLOWSEQ; posted writes carry TAG 0. -/
def State.nakedPost (s : State) (f : Frame) : Option Posted :=
  if f.payload.getD 3 0 ≠ 0 then none
  else s.brg.posted.find? (fun (p : Posted) => (p.dest == f.src || p.dest / 4 == 1023) && p.flowSeq == leAt f.payload 4 4)

/-- NAK (R289): recorded in CRL_NAK; it ends the request it answers. 0x1013 from the head quarantines this hub (R286). -/
def execNak (frame : Frame) (s : State) : Res :=
  guarded s (fun s =>
    if frame.typ ≠ 7 then s
    else if frame.payload.length < 16 then s.violation 8 0x1007
    else
      let code := leAt frame.payload 0 2
      let s := ((s.wr F.CRL_NAK_SRC frame.src).wr F.CRL_NAK_TYPE (frame.payload.getD 2 0)).wr F.CRL_NAK_CODE code
      let s := s.raise F.CRL_IRQ_NAKRX
      let s := if code = 0x1013 ∧ frame.src / 4 = 1 then s.enterQuarantine else s
      if frame.payload.getD 2 0 % 16 ≠ 5 then s
      else match s.nakedPost frame with
        | some p => (s.setBrg { s.brg with posted := s.brg.posted.filter (fun (q : Posted) => q != p) }).postedFails p.who p.fa code
        | none =>
          let t := frame.payload.getD 3 0
          match s.brg.tags.get? t with
          | some u => (s.dropTag t).requestFails u code false
          | none => s)

/-- PREFETCH_NAK: a NAK 0x1203 for the prefetch of a tag. -/
def execPrefetchNak (tag : Fin 256) (s : State) : Res :=
  guarded s (fun s =>
    match s.brg.tags.get? tag with
    | some (.prefetch slot) => (s.dropTag tag).requestFails (.prefetch slot) 0x1203 false
    | _ => s)

/-- A time-out of an engine's read: issued again when DMA_TMO rewinds, but a read of an S page is never repeated (R348). -/
def State.dmaReadLost (s : State) (c : Nat) : State :=
  match s.sideFa c false with
  | some (fa, _, _) => if sPage fa then s.ctxDataFails c 0x1202 else s
  | none => s

/-- SPLIT_READ_TIMEOUT: 0x1202; the tag is quarantined. An engine's writes have DMA_TMO instead. -/
def execSplitReadTimeout (tag : Fin 256) (s : State) : Res :=
  guarded s (fun s =>
    let quar (s : State) : State :=
      let s := (s.dropTag tag).setBrg { (s.dropTag tag).brg with quarantined := s.brg.quarantined ++ [tag.val] }
      (s.bump F.BRG_CNT2_SRTMO).raise F.BRG_IRQ_SRTMO
    match s.brg.tags.get? tag with
    | none => s
    | some (.dmaWrite ..) => s
    | some (.dmaRead c _) => (quar s).dmaReadLost c
    | some u => (quar s).requestFails u 0x1202 false)

/-- TAG_QUARANTINE_EXPIRY: the tag returns to the pool. -/
def execTagQuarantineExpiry (tag : Fin 256) (s : State) : Res :=
  guarded s (fun s => s.setBrg { s.brg with quarantined := s.brg.quarantined.filter (· != tag.val) })

/-! Tunnels and guards (R288) -/

/-- The CAN frame of a payload, if its length is that of its DLC. -/
def canElement (l : List Nat) : Option CanFrame :=
  let info := leAt l 8 4
  let fdf := bit info 29
  let n := dlcBytes fdf (bits info 0 4)
  let rtr := bit (leAt l 4 4) 30
  let len := if rtr ∧ !fdf then 0 else n
  if l.length = 24 + (len + 3) / 4 * 4 then
    some { id := leAt l 4 4, fdf := fdf, brs := bit info 28, esi := bit info 27, dlc := bits info 0 4, data := bytesAt l 24 len }
  else none

/-- A CAN frame enters its channel's remote queue. -/
def State.canIn (s : State) (f : Frame) : State :=
  let unit := f.payload.getD 1 0
  match canElement f.payload with
  | none => s.malformed 8 f
  | some x => if unit < 16 ∧ bit s.canned unit then s.toRemote unit { frame := x } else (s.violation 8 0x1009).sendNak f 0x1009

/-- Flume items are appended to a slice's TX flume. -/
def State.flumeIn (s : State) (f : Frame) : State :=
  let unit := f.payload.getD 1 0
  let l := f.payload.drop 4
  if l.length % 8 ≠ 0 then s.malformed 8 f
  else if unit < 48 ∧ bit s.ported unit then
    (List.range (l.length / 8)).foldl (fun (t : State) k => t.txUnit unit (leAt l (8 * k) 8)) s
  else (s.violation 8 0x1009).sendNak f 0x1009

def execTunnel (frame : Frame) (s : State) : Res :=
  guarded s (fun s =>
    if frame.typ ≠ 8 then s
    else if frame.payload.length < 4 ∨ leAt frame.payload 2 2 ≠ 0 then s.malformed 8 frame
    else match frame.payload.getD 0 0 with
      | 1 => s.canIn frame
      | 2 => s.flumeIn frame
      | _ => s.malformed 8 frame)

def execGuard (frame : Frame) (s : State) : Res :=
  guarded s (fun s =>
    if frame.typ ≠ 9 then s
    else if frame.payload.length < 4 ∨ leAt frame.payload 2 2 ≠ 0 ∨ frame.payload.getD 0 0 ≠ 1 then s.malformed 8 frame
    else s.canIn frame)

/-- EVENT: the head's firmware takes the records (R422); a payload that is not as R422 lays it out is malformed. -/
def execEvent (frame : Frame) (s : State) : Res :=
  guarded s (fun s =>
    let n := leAt frame.payload 0 2
    if frame.typ ≠ 0xA ∨ !(s.on F.CRL_CTL_HEAD) then s
    else if 63 < n ∨ frame.payload.length ≠ 16 + 32 * n then s.malformed 9 frame
    else s.give frame.payload)

end Sys2Proof.Machine
end

