-- ==== Sys2Proof/Machine/RegRows.lean ====
section
/-! DEFINITION. The commands that are register accesses (02 R30 to R41, R15; 07 R186; 12 R315). -/

namespace Sys2Proof.Machine

/-- A write of bytes to region 0, of whatever width and alignment (R30). -/
def State.csrWrite (s : State) (init : Initiator) (off : Nat) (bs : List Nat) : State :=
  s.localWrite (State.srdStart false) init s.self 0 off bs

/-- A write of a word. -/
def State.wordWrite (s : State) (init : Initiator) (off word : Nat) : State := s.csrWrite init off (leBytes 4 word)

/-- The row of the register at an offset. -/
def State.rowAt (s : State) (off : Nat) : Option RRow := findRow off (s.persAt off)

/-- REGISTER_WRITE: the bytes of the access, lowest first. -/
def execRegisterWrite (init : Initiator) (off : BitVec 40) (data : List Byte) (s : State) : Res :=
  guarded s (fun s => s.csrWrite init off.toNat (data.map BitVec.toNat))

/-- What a register reads as once an RWB field of some register was written with another value (R36): its own RWB fields still read back
what they took, and nothing is guaranteed of the rest, which is free. -/
def State.voidWord (s : State) (r : RRow) (place : Nat) : Nat :=
  r.fields.foldl (fun w f => w + (if f.acc = .rwb then s.rd (f.fld place) else bits s.free f.lo f.w) * 2 ^ f.lo) 0

/-- The register, and its place, that a read of a word names while the guarantees are void; none where it has no RWB field. -/
def State.voidPlace (s : State) (init : Initiator) (off len : Nat) : Option (RRow × Nat) :=
  if s.pwr.standby || (formCode off len).isSome || !(assignedBlock off) then none
  else
    match s.rowAt off with
    | some r => if r.fields.any (fun f => f.acc == .rwb) then some (r, r.place off (s.persAt off) (bankOf init)) else none
    | none => none

/-- The answer to it. -/
def State.voidRead (s : State) (r : RRow) (place : Nat) : State := s.draw.give [s.voidWord r place]

/-- CLEAR_ON_READ: a read of len bytes of region 0; of the register's fields those coded RC are cleared. -/
def execClearOnRead (init : Initiator) (off : BitVec 40) (len : Nat) (s : State) : Res :=
  match (if s.voided then s.voidPlace init off.toNat len else none) with
  | some p => .next (s.settle (s.voidRead p.1 p.2))
  | none => guarded s (fun s => s.localRead init 0 off.toNat len)

/-- RESULT_REGISTER_READ. -/
def execResultRegisterRead (init : Initiator) (off : BitVec 40) (s : State) : Res :=
  guarded s (fun s =>
    match s.rowAt off.toNat with
    | some r => if r.kind = .result ∨ r.kind = .bankedResult then s.localRead init 0 off.toNat 4 else s
    | none => s)

/-- WRITE_64_LO: a write of the low half of a pair. -/
def execWrite64Lo (init : Initiator) (off : BitVec 40) (word : Word) (s : State) : Res :=
  guarded s (fun s =>
    match s.rowAt off.toNat with
    | some r => if lowHalves.contains r.off then s.wordWrite init off.toNat word.toNat else s
    | none => s)

/-- WRITE_64_HI: a write of the high half of a pair. -/
def execWrite64Hi (init : Initiator) (off : BitVec 40) (word : Word) (s : State) : Res :=
  guarded s (fun s =>
    match s.rowAt off.toNat with
    | some r => if lowHalves.contains (r.off - 4) then s.wordWrite init off.toNat word.toNat else s
    | none => s)

/-- PAIR1_RELEASE. -/
def execPair1Release (init : Initiator) (s : State) : Res := guarded s (fun s => s.wordWrite init (F.GLB_CTL_PAIR1_REL).off 1)

/-- IOL_CONFIG_WRITE: P0, P1 or P2 of a slice of the IO-Link personality. -/
def execIolConfigWrite (init : Initiator) (slice : Fin 48) (k : Fin 3) (word : Word) (s : State) : Res :=
  guarded s (fun s => if s.pers slice = 8 then s.wordWrite init (0xA1040 + 0x100 * slice.val + 4 * k.val) word.toNat else s)

/-- BAR0_ACCESS: a doubleword offset, the TLP's length in doublewords and its byte enables, its tag, and the word of a write. -/
def execBar0Access (dw : BitVec 24) (dws : BitVec 10) (be : BitVec 4) (tag : BitVec 10) (word : Option Word) (s : State) : Res :=
  guarded s (fun s =>
    let off := 4 * dw.toNat
    let formed : Bool := dws == 1 && be == 0xF
    if !(s.on F.BRG_STATUS_EP) then s
    else match word with
      | some w => if formed then s.wordWrite .bar0 off w.toNat else s.refuseReg .bar0 off 0x0003
      | none =>
        let s := if formed then s.localRead .bar0 0 off 4 else s.refuseReg .bar0 off 0x0003
        match s.outcome 0 with
        | .ok bs => s.complete tag.toNat cplOk bs
        | .error _ => s.complete tag.toNat cplUr [])

end Sys2Proof.Machine
end

