-- ==== Sys2Proof/Machine/Harvest.lean ====
section
/-!
DEFINITION. The harvest: cycle starts, the head's trains, the boundary and the completion of a cycle, and the end of a takeover
(03 R54, R56; 10 R273 to R277, R283; 12 R335; 14 R393, R401, R402).
-/

namespace Sys2Proof.Machine

def State.setHarvest (s : State) (h : HarvestState) : State := { s with ring := { s.ring with harvest := h } }

/-! Points (R56) -/

/-- A point's value in an image. -/
def Point.value (p : Point) (img : List Nat) : Nat := leAt img (p.bitoff / 8) 9 / 2 ^ (p.bitoff % 8) % 2 ^ p.width

/-- The offset of the register that a point of a slice names. -/
def sliceReg (p : Point) : Nat := 0xA1000 + 0x100 * p.unit + p.sub

/-- What a register of region 0 holds, without the effects of a read. -/
def State.peek (s : State) (off : Nat) : Nat :=
  match findRow off (s.persAt off) with
  | some r => s.regWord off r (r.place off (s.persAt off) 0)
  | none => 0

/-- The register that an input point of a sawyer names (R245). -/
def State.sawPoint (s : State) (n sub : Nat) : Nat :=
  match sub with
  | 0 => s.rd (F.SAW_Sn_X_VALUE n)
  | 1 => s.rd (F.SAW_Sn_Y_VALUE n)
  | 2 => s.rd (F.SAW_Sn_ISR_VALUE n)
  | 3 => s.rd (F.SAW_Sn_OSR_VALUE n)
  | 4 => s.rd (F.SAW_Sn_TALLY_LO_TALLY n)
  | 5 => s.rd (F.SAW_Sn_TALLY_HI_TALLY n)
  | 6 => s.peek (F.SAW_Sn_STATUS_TXLEVEL n).off
  | _ => s.rd (F.SAW_Sn_DROP_DROP n)

/-- What an input point reads as; a slot in EMPTY has no position (log entry 25). -/
def State.pointNow (s : State) (p : Point) : Nat :=
  match p.kind with
  | 1 => b2n (s.lineSeen p.unit)
  | 2 => b2n (s.fastLevel p.unit)
  | 3 => s.peek (sliceReg p)
  | 4 => s.le 2 (canBuf p.unit (p.sub / 64) + 0x20 + p.sub % 64) 8
  | 5 => if p.sub = 0x100 then bits (s.peek (0xA104C + 0x100 * p.unit)) 24 8 else leAt (s.slice p.unit).pdIn p.sub 8
  | 6 =>
    match s.slotPos p.unit s.now with
    | some x => ofSigned 64 (x.floor)
    | none => s.free
  | _ => s.sawPoint p.unit p.sub

/-- A point's bits are placed in an image. -/
def placeBits (img : List Nat) (off width v : Nat) : List Nat :=
  (List.range width).foldl (fun (l : List Nat) j =>
    let k := off + j
    l.set (k / 8) (setBit (l.getD (k / 8) 0) (k % 8) (bit v j))) img

/-- The input image: GLB_HEALTH, GLB_IRQ_SUM, and the input points as they stand (R54, R273). -/
def State.inputImage (s : State) : List Nat :=
  let base := bytesAt (leBytes 4 s.health ++ leBytes 4 s.irqSum) 0 s.alm.inLen
  (s.alm.points.filter (fun (p : Point) => !p.output)).foldl (fun l p => placeBits l p.bitoff p.width (s.pointNow p)) base

/-- An output point other than a CAN buffer's takes its value. -/
def State.pointOut (s : State) (img : List Nat) (p : Point) : State :=
  let v := p.value img
  match p.kind with
  | 1 => s.lineCommand p.unit (v != 0)
  | 2 => if !(s.on (F.PSL_FLn_CFG_SRC p.unit)) && !(s.marked (.edgeOn p.unit)) then s.setNormal p.unit (v != 0) else s
  | 3 =>
    let old := s.peek (sliceReg p)
    { s.regWrite (State.srdStart false) .yarder s.self (sliceReg p) (old / 2 ^ p.width * 2 ^ p.width + v) with answer := s.answer }
  | 5 =>
    let x := s.slice p.unit
    s.setSlice p.unit { x with pdOut := placeBits (bytesAt x.pdOut 0 32) (8 * p.sub) p.width v }
  | 7 =>
    let old := s.rd (F.SAW_Sn_DROP_DROP p.unit)
    (s.wr (F.SAW_Sn_DROP_DROP p.unit) (old / 2 ^ p.width * 2 ^ p.width + v)).mark (.dropHarvested p.unit)
  | _ => s

/-- The bytes that the output points of one TX buffer write (R211). -/
def State.canBytes (s : State) (img : List Nat) (c b : Nat) : List (Nat × Nat) :=
  (s.alm.points.filter (fun (p : Point) => p.output && p.kind == 4 && p.unit == c && p.sub / 64 == b)).flatMap (fun (p : Point) =>
    (List.range ((p.width + 7) / 8)).map (fun k =>
      let o := p.sub % 64 + k
      let w := min 8 (p.width - 8 * k)
      (o, s.le 2 (canBuf c b + 0x20 + o) 1 / 2 ^ w * 2 ^ w + p.value img / 2 ^ (8 * k) % 2 ^ w)))

/-- The TX buffers that output points name. -/
def State.canTargets (s : State) : List (Nat × Nat) :=
  ((s.alm.points.filter (fun (p : Point) => p.output && p.kind == 4)).map (fun (p : Point) => (p.unit, p.sub / 64))).eraseDups

/-- An output image is applied to every output point in one cycle (R273); S63 falls (R132). -/
def State.applyImage (s : State) (img : List Nat) : State :=
  let s := s.store 1 0x400 (bytesAt img 0 s.alm.outLen)
  let s := (s.alm.points.filter (fun (p : Point) => p.output)).foldl (fun (t : State) p => t.pointOut img p) s
  let s := s.canTargets.foldl (fun (t : State) x => t.canHarvest x.1 x.2 (t.canBytes img x.1 x.2)) s
  { s with slc := { s.slc with watchdog := false, imageClk := some s.clk } }

/-! The cycle start (R273, R393) -/

/-- HPER and the cycle number of an instant. -/
def State.hper (s : State) : Nat := ns16 (250 * s.rd F.CRL_HPER_VALUE)
def State.cycleAt (s : State) : Nat := s.now / s.hper

/-- The position of the ring hub, as far as the forwarding table shows it: a position reached over the uplink. -/
def State.ringHubPos (s : State) : Nat :=
  ((List.range 4).find? (fun h => h != s.rd F.GLB_POS_HUBPOS && s.fwdPort h == s.uplink)).getD 0

/-- A stitched hub's input image goes to its ring hub. -/
def State.sendStitchInput (s : State) (img : List Nat) : State :=
  if s.ringHub || s.uplink.isNone then s
  else
    let d : SlotData := { hub := s.self, outLen := s.alm.outLen, inLen := s.alm.inLen, flags := 4 + 8 * b2n s.quarantined,
                          body := bytesAt img 0 (max 8 (max s.alm.inLen s.alm.outLen)) }
    let (s, f) := s.stampFrame { typ := 1, tc := 6, dup := true, dest := s.rd F.GLB_POS_STATION * 4 + s.ringHubPos,
                                 payload := stitchImage s.ring.harvest.cycle 2 d }
    s.toOutputs 11 f s.uplink.toList

/-- A cycle starts: the whole input image is sampled at once on an admitted hub. -/
def State.cycleStart (s : State) (k : Nat) : State :=
  let h := s.ring.harvest
  let img := if s.admitted then s.inputImage else []
  let s := s.setHarvest { h with cycle := k, start := k * s.hper, sampled := img, staged := none, closed := false, images := [], passedOn := [] }
  let s := s.wr F.CRL_HCYCLE_CYCLE k
  let s := if s.admitted then
      let t := s.store 1 0 img
      (if t.alm.points.any (fun (p : Point) => !p.output && p.kind == 6 && (t.slotPos p.unit t.now).isNone) then t.draw else t).sendStitchInput img
    else s
  let s := if s.harvestRuns then s.tallyCycle else s
  s.headEpochs

/-- HARVEST_CYCLE_START: the cycle number has advanced. -/
def execHarvestCycleStart (s : State) : Res :=
  guarded s (fun s => if s.timeRuns ∧ s.ring.harvest.cycle < s.cycleAt then s.cycleStart s.cycleAt else s)

/-! The launch at the head (R274) -/

/-- The slot of a hub, with the output image that host memory held for it. -/
def headSlot (hub : Nat) (h : JoinHub) (img : Option (List Nat)) : SlotData :=
  { hub := hub, outLen := h.outLen, inLen := h.inLen, flags := b2n img.isSome,
    body := bytesAt (bytesAt (img.getD []) 0 h.outLen) 0 (max h.inLen h.outLen) }

/-- Whole slots in frames of at most 2048 bytes of payload. -/
def packSlots : List Nat → List SlotData → List (List Nat)
  | cur, [] => if cur.isEmpty then [] else [cur]
  | cur, d :: l =>
    if cur.length + d.bytes.length ≤ 2040 then packSlots (cur ++ d.bytes) l
    else cur :: packSlots d.bytes l

/-- A train's payloads. -/
def trainOf (cycle ring : Nat) (slots : List SlotData) : List (List Nat) :=
  let l := packSlots [] slots
  (List.range l.length).map (fun k => trainHeader (cycle % 2 ^ 32) ring k l.length ++ l.getD k [])

/-- The hubs outside the head station by ring-A position, and within a station by hub position. -/
def State.trainHubs (s : State) : List (Nat × JoinHub) :=
  let h := s.ring.head
  let place (p : Nat × JoinHub) : Nat := h.positions.getD (p.1 / 4) 0 * 4 + p.1 % 4
  (h.hubs.filter (fun p => p.1 / 4 != 1 && (h.positions.get? (p.1 / 4)).isSome)).mergeSort (fun a b => decide (place a ≤ place b))

/-- Slots in descending order of stations, hubs within a station ascending. -/
def stationsDown : List SlotData → List SlotData
  | [] => []
  | d :: l =>
    let same := (d :: l).filter (fun (x : SlotData) => x.hub / 4 == d.hub / 4)
    let rest := (stationsDown l).filter (fun (x : SlotData) => x.hub / 4 != d.hub / 4)
    rest ++ same

/-- One frame of a train leaves with the FLOWSEQ it shares with the other train's frame of its number. -/
def State.launchFrame (s : State) (f : Frame) (ringB : Bool) (payload : List Nat) : State :=
  let g := { f with ringB := ringB, payload := payload }
  s.toOutputs 11 g (s.ringEgress ringB g)

/-- HARVEST_LAUNCH: `images` is what the output table holds in host memory, for the hubs read. -/
def execHarvestLaunch (images : List (Nat × List Byte)) (s : State) : Res :=
  guarded s (fun s =>
    let h := s.ring.harvest
    let hd := s.ring.head
    if !(s.on F.CRL_CTL_HEAD) || hd.trainOpen || h.closed then s
    else
      let img (hub : Nat) : Option (List Nat) := (images.find? (fun p => p.1 == hub)).map (fun p => p.2.map BitVec.toNat)
      let slots := s.trainHubs.map (fun p => headSlot p.1 p.2 (img p.1))
      let a := trainOf h.cycle 0 slots
      let b := trainOf h.cycle 1 (stationsDown slots)
      let s := s.setHead { hd with returned := [], framesBack := [], trainLen := a.length + b.length, trainOpen := true }
      let s := if slots.isEmpty then s else s.trainSeen
      let s := match img s.self with
        | some bs => s.setHarvest { h with staged := some (bytesAt bs 0 s.alm.outLen) }
        | none => s
      let s := (hd.hubs.filter (fun p => p.1 / 4 == 1 && p.1 != s.self)).foldl (fun (t : State) p =>
        match img p.1 with
        | some bs => t.sendStitchOutput (p.1 % 4) (headSlot p.1 p.2 (some bs))
        | none => t) s
      (List.range (max a.length b.length)).foldl (fun (t : State) k =>
        let (t, f) := t.stampFrame { typ := 1, tc := 6, dup := true, dest := 1023 * 4 }
        let t := match a[k]? with
          | some x => t.launchFrame f false x
          | none => t
        match b[k]? with
        | some x => t.launchFrame f true x
        | none => t) s)

/-! The boundary (R273, R276) -/

/-- A GRANT follows in this cycle (R404). -/
def State.grantAhead (s : State) : Bool :=
  s.standby && s.ahead (fun i => match i with
    | .grantReceived .. => true
    | _ => false)

/-- What an admitted hub does with this cycle's output at its boundary. A standby takes it but applies nothing (R397); an image taken
between GRANT and the enabling of the drivers is applied then (R402). -/
def State.outputBoundary (s : State) : State :=
  let h := s.ring.harvest
  let img := s.bytes 1 0x400 s.alm.outLen
  match h.staged with
  | some x =>
    let s := s.setHarvest { h with staged := none, written := false }
    if s.role = roleTaking ∨ s.grantAhead then s.setStt { s.stt with grantImage := some x }
    else if s.drives then s.applyImage x else s
  | none =>
    let s := if s.admitted then (s.bump F.CRL_HCNT_MISS).raise F.CRL_IRQ_HMISS else s
    if h.written ∧ s.drives then (s.setHarvest { h with written := false }).applyImage img else s

/-- The harvest boundary. -/
def State.harvestBoundary (s : State) : State :=
  let s := if s.ring.released && s.admitted then s.leaveQuarantine else s
  let s := { s with ring := { s.ring with released := false, harvest := { s.ring.harvest with closed := true } } }
  ((s.outputBoundary.mark .boundaryPassed).twinBoundary s.ring.harvest.cycle).almBoundary

/-- HARVEST_BOUNDARY: T + HAPPLY. -/
def execHarvestBoundary (s : State) : Res :=
  guarded s (fun s =>
    let h := s.ring.harvest
    if !h.closed ∧ h.start + ns16 (250 * s.rd F.CRL_HAPPLY_VALUE) ≤ s.now then s.harvestBoundary else s)

/-! Completion at the head (R277, R283, R335, R401) -/

/-- What the head took from each admitted hub: status 1 or 3 with its image, or 2 MISSED. -/
def State.cycleResults (s : State) : List (Nat × Nat × List Nat) :=
  let h := s.ring.harvest
  s.ring.head.hubs.map (fun p =>
    if p.1 = s.self then (p.1, if s.quarantined then 3 else 1, h.sampled)
    else if p.1 / 4 = 1 then
      match h.images.get? (p.1 % 4) with
      | some (q, img) => (p.1, if q then 3 else 1, img)
      | none => (p.1, 2, [])
    else match s.ring.head.returned.get? p.1 with
      | some (st, img) => (p.1, st, img)
      | none => (p.1, 2, []))

/-- The index of a hub. -/
def hubIndex (hub : Nat) : Nat := (hub / 4 - 1) * 4 + hub % 4

/-- A write to host memory, where the endpoint serves it. -/
def State.toHost (s : State) (addr : Nat) (bs : List Nat) : State := if s.hostReached then s.emit (.hostWrite addr bs) else s

/-- Input images and the status table. -/
def State.writeInputs (s : State) (buf : Nat) (l : List (Nat × Nat × List Nat)) : State :=
  let hin := s.rd64 F.CRL_HIN_LO_BASE F.CRL_HIN_HI_BASE + buf * 0x400000
  let s := l.foldl (fun (t : State) x => if x.2.1 = 2 then t else t.toHost (hin + hubIndex x.1 * 1024) x.2.2) s
  let status := l.foldl (fun (m : List Nat) x => m.set (hubIndex x.1) x.2.1) (List.replicate 4096 0)
  s.toHost (s.rd64 F.CRL_HSTAT_LO_BASE F.CRL_HSTAT_HI_BASE + buf * 0x1000) status

/-- The attention bits of this cycle (R335): the indexes with A = 1. -/
def State.attention (s : State) (l : List (Nat × Nat × List Nat)) : List Nat :=
  (l.filter (fun x =>
    x.2.1 != 2 && (leAt x.2.2 4 4 != 0 ||
      (match s.brg.lastHealth.get? (hubIndex x.1) with
       | some g => Nat.land (Nat.xor g (leAt x.2.2 0 4)) (s.rd F.BRG_HMASK_MASK) != 0
       | none => false)))).map (fun x => hubIndex x.1)

/-- The map of A, and what is kept of it. -/
def State.writeAttention (s : State) (buf : Nat) (l : List (Nat × Nat × List Nat)) : State :=
  let a := s.attention l
  let s := s.toHost (s.rd64 F.BRG_RPEND_LO_BASE F.BRG_RPEND_HI_BASE + buf * 0x200) (leBytes 512 (packBits 4096 (fun i => a.contains i)))
  let health := l.foldl (fun (m : SMap Nat) x => if x.2.1 = 2 then m else m.insert (hubIndex x.1) (leAt x.2.2 0 4)) s.brg.lastHealth
  s.setBrg { s.brg with lastHealth := health, attention := a }

/-- The vectors of the groups in which an attention bit has risen. -/
def State.groupVectors (s : State) (old : List Nat) : State :=
  let risen := s.brg.attention.filter (fun i => !(old.contains i))
  (List.range 64).foldl (fun (t : State) g =>
    if t.on (F.BRG_RGRPg_EN g) && risen.any (fun i => i / 64 == g) then t.emit (.msix (t.rd (F.BRG_RGRPg_VEC g))) else t) s

/-- The cycle record, the counts and HDONE (R277, R334). -/
def State.writeRecord (s : State) (buf : Nat) (l : List (Nat × Nat × List Nat)) : State :=
  let missed := (l.filter (fun x => x.2.1 == 2)).length
  let fresh := l.length - missed
  let cycle := s.ring.harvest.cycle % 2 ^ 32
  let s := s.toHost (s.rd64 F.CRL_HSTAT_LO_BASE F.CRL_HSTAT_HI_BASE + 0x2000 + buf * 32)
    (leBytes 4 cycle ++ leBytes 2 fresh ++ leBytes 2 missed ++ leBytes 12 s.stamp ++ List.replicate 12 0)
  let s := ((s.wr F.CRL_HDONE_FRESH fresh).wr F.CRL_HDONE_MISSED missed).wr F.CRL_HDONE_CYC_CYCLE cycle
  let s := s.raise F.CRL_IRQ_HDONE
  if s.on F.BRG_STATUS_EP then s.emit (.msix (s.rd F.BRG_VEC_HDONE)) else s

/-- Hubs MISSED in consecutive cycles are counted, and a station all of whose hubs reach LOSS_CYCLES is lost (R283). -/
def State.countMissed (s : State) (l : List (Nat × Nat × List Nat)) : State :=
  let m := l.foldl (fun (m : SMap Nat) x => m.put x.1 (if x.2.1 = 2 then m.getD x.1 0 + 1 else 0) 0) s.ring.head.missed
  let s := s.setHead { s.ring.head with missed := m }
  let gone (hub : Nat) : Bool := decide (s.rd F.CRL_TMO1_LOSS_CYCLES ≤ m.getD hub 0)
  let stations := (l.map (fun x => x.1 / 4)).eraseDups.filter (· != 1)
  (stations.filter (fun id => (l.filter (fun x => x.1 / 4 == id)).all (fun x => gone x.1))).foldl (fun (t : State) id => t.stationLost id) s

/-- PROMPT to the standby of a pair whose active was MISSED in two consecutive cycles (R401). -/
def State.missWatch (s : State) (l : List (Nat × Nat × List Nat)) : State :=
  if !(s.on F.STT_STATUS_REF) then s
  else
    ((l.map (fun x => x.1 / 4)).eraseDups).foldl (fun (t : State) id =>
      let status (pos : Nat) : Option Nat := (l.find? (fun x => x.1 == id * 4 + pos)).map (fun x => x.2.1)
      if t.pairByte id 0 % 2 = 0 ∨ !(bit (t.pairByte id 0) 2) then t
      else
        let n := if status (t.pairActive id) = some 2 then t.stt.missWatch.getD id 0 + 1 else 0
        let t := t.setStt { t.stt with missWatch := t.stt.missWatch.put id n 0 }
        if n = 2 ∧ (status (t.pairStandby id)).any (· != 2) then t.refCmd 5 id (t.pairStandby id) else t) s

/-- The head completes the cycle. -/
def State.cycleComplete (s : State) : State :=
  let l := s.cycleResults
  let buf := s.ring.harvest.cycle % 2
  let old := s.brg.attention
  let s := ((s.writeInputs buf l).writeAttention buf l).writeRecord buf l
  let s := s.groupVectors old
  let s := s.setHead { s.ring.head with trainOpen := false }
  (s.missWatch l).countMissed l

/-- HARVEST_CYCLE_COMPLETE: both trains have returned, or the boundary has passed. -/
def execHarvestCycleComplete (s : State) : Res :=
  guarded s (fun s =>
    let h := s.ring.head
    if s.on F.CRL_CTL_HEAD ∧ h.trainOpen ∧ (h.trainLen ≤ h.framesBack.length ∨ s.ring.harvest.closed) then s.cycleComplete else s)

/-! The end of a takeover (R402) -/

/-- TAKEOVER_COMPLETE: the drivers are enabled with the copied values, or with the image staged since GRANT. -/
def execTakeoverComplete (s : State) : Res :=
  guarded s (fun s =>
    if s.role ≠ roleTaking then s
    else
      let x := s.stt
      let s := (s.wr96 F.STT_TAKE_TIME (ft96 x.grantTime)).wr F.STT_TAKE_CYC_VALUE (x.committed.getD 0)
      let s := (s.setStt { x with grantImage := none, base := [], sent := [], wantFull := false }).toRole roleActive
      let s := s.raise F.STT_IRQ_TAKEOVER
      match x.grantImage with
      | some img => s.applyImage img
      | none =>
        let img := s.bytes 1 0x400 s.alm.outLen
        (s.alm.points.filter (fun (p : Point) => p.output && p.kind == 5)).foldl (fun (t : State) p => t.pointOut img p) s)

end Sys2Proof.Machine
end

