-- ==== Sys2Proof/Machine/Dispatch.lean ====
section
/-! DEFINITION. One arm per command: its meaning, or its refusal by name. -/

namespace Sys2Proof.Machine

/-- The effect of a command on everything but the queue. -/
def exec (i : Instr) (s : State) : Host.Outcome State Fault Refusal :=
  match i with
  | .registerWrite init off data => Sys2Proof.Machine.execRegisterWrite init off data s
  | .clearOnRead init off len => Sys2Proof.Machine.execClearOnRead init off len s
  | .resultRegisterRead init off => Sys2Proof.Machine.execResultRegisterRead init off s
  | .write64Lo init off word => Sys2Proof.Machine.execWrite64Lo init off word s
  | .write64Hi init off word => Sys2Proof.Machine.execWrite64Hi init off word s
  | .driftAck => Sys2Proof.Machine.execDriftAck s
  | .pair1Release init => Sys2Proof.Machine.execPair1Release init s
  | .porNAssert stnPos bootSrc => Sys2Proof.Machine.execPorNAssert stnPos bootSrc s
  | .sysRstNAssert bootSrc => Sys2Proof.Machine.execSysRstNAssert bootSrc s
  | .sysrst bootSrc => Sys2Proof.Machine.execSysrst bootSrc s
  | .perstNAssert => Sys2Proof.Machine.execPerstNAssert s
  | .almStageDataWrite data => Sys2Proof.Machine.execAlmStageDataWrite data s
  | .almStagePtrWrite ptr => Sys2Proof.Machine.execAlmStagePtrWrite ptr s
  | .clrStage => Sys2Proof.Machine.execClrStage s
  | .almanacEnable => Sys2Proof.Machine.execAlmanacEnable s
  | .almanacCancel => Sys2Proof.Machine.execAlmanacCancel s
  | .almanacCheckDone => Sys2Proof.Machine.execAlmanacCheckDone s
  | .almanacApplied => Sys2Proof.Machine.execAlmanacApplied s
  | .timCapture init => Sys2Proof.Machine.execTimCapture init s
  | .timSet => Sys2Proof.Machine.execTimSet s
  | .pdelayRequestSend port => Sys2Proof.Machine.execPdelayRequestSend port s
  | .pdelayRequestReceived port reqSeq => Sys2Proof.Machine.execPdelayRequestReceived port reqSeq s
  | .pdelayAnswerReceived port payload => Sys2Proof.Machine.execPdelayAnswerReceived port payload s
  | .pdelayAnswerTimeout port => Sys2Proof.Machine.execPdelayAnswerTimeout port s
  | .syncSend => Sys2Proof.Machine.execSyncSend s
  | .syncReceived port payload corr => Sys2Proof.Machine.execSyncReceived port payload corr s
  | .upstreamFinal => Sys2Proof.Machine.execUpstreamFinal s
  | .servoHoldover => Sys2Proof.Machine.execServoHoldover s
  | .ptpMessageReceived message => Sys2Proof.Machine.execPtpMessageReceived message s
  | .harvestCycleStart => Sys2Proof.Machine.execHarvestCycleStart s
  | .tallyReceived payload => Sys2Proof.Machine.execTallyReceived payload s
  | .tallyFitInForce slot => Sys2Proof.Machine.execTallyFitInForce slot s
  | .tallyDeadline slot => Sys2Proof.Machine.execTallyDeadline slot s
  | .posAt init slot => Sys2Proof.Machine.execPosAt init slot s
  | .timeOf init slot dir => Sys2Proof.Machine.execTimeOf init slot dir s
  | .readFit init slot => Sys2Proof.Machine.execReadFit init slot s
  | .tallyQueryComplete bank => Sys2Proof.Machine.execTallyQueryComplete bank s
  | .calendarEntryWrite init off data => Sys2Proof.Machine.execCalendarEntryWrite init off data s
  | .arm init index => Sys2Proof.Machine.execArm init index s
  | .retract init index => Sys2Proof.Machine.execRetract init index s
  | .schCmdComplete bank => Sys2Proof.Machine.execSchCmdComplete bank s
  | .retractGroup groups => Sys2Proof.Machine.execRetractGroup groups s
  | .entryCommit index => Sys2Proof.Machine.execEntryCommit index s
  | .entryInstant index => Sys2Proof.Machine.execEntryInstant index s
  | .pulseTrailingEdge index => Sys2Proof.Machine.execPulseTrailingEdge index s
  | .entryExpiry index => Sys2Proof.Machine.execEntryExpiry index s
  | .fastLineInputChange line level => Sys2Proof.Machine.execFastLineInputChange line level s
  | .sluiceEventRise event => Sys2Proof.Machine.execSluiceEventRise event s
  | .sluiceEventFall event => Sys2Proof.Machine.execSluiceEventFall event s
  | .forceRelease events => Sys2Proof.Machine.execForceRelease events s
  | .slcHoldRelease => Sys2Proof.Machine.execSlcHoldRelease s
  | .harvestWatchdogExpiry => Sys2Proof.Machine.execHarvestWatchdogExpiry s
  | .hvLinkLost lanes => Sys2Proof.Machine.execHvLinkLost lanes s
  | .hvLinkUp lanes => Sys2Proof.Machine.execHvLinkUp lanes s
  | .twnFenceNFall => Sys2Proof.Machine.execTwnFenceNFall s
  | .twnFenceNRise => Sys2Proof.Machine.execTwnFenceNRise s
  | .keepTmoExpiry bank => Sys2Proof.Machine.execKeepTmoExpiry bank s
  | .keeperResume bank => Sys2Proof.Machine.execKeeperResume bank s
  | .hvDieReset => Sys2Proof.Machine.execHvDieReset s
  | .hvDieStart => Sys2Proof.Machine.execHvDieStart s
  | .fieldInputChange line level => Sys2Proof.Machine.execFieldInputChange line level s
  | .wireBreak line broken => Sys2Proof.Machine.execWireBreak line broken s
  | .zeroCrossing line => Sys2Proof.Machine.execZeroCrossing line s
  | .lineLatchOff line thermal => Sys2Proof.Machine.execLineLatchOff line thermal s
  | .lineLatchClear init k lines => Sys2Proof.Machine.execLineLatchClear init k lines s
  | .openLoad line present => Sys2Proof.Machine.execOpenLoad line present s
  | .lineRestore line => Sys2Proof.Machine.execLineRestore line s
  | .seatDebounceExpiry feed => Sys2Proof.Machine.execSeatDebounceExpiry feed s
  | .seatContactOpen feed second => Sys2Proof.Machine.execSeatContactOpen feed second s
  | .seatContactsClosed contacts => Sys2Proof.Machine.execSeatContactsClosed contacts s
  | .prechargeReached feed => Sys2Proof.Machine.execPrechargeReached feed s
  | .preTmoExpiry feed => Sys2Proof.Machine.execPreTmoExpiry feed s
  | .gateRise feed => Sys2Proof.Machine.execGateRise feed s
  | .gateRiseTimeout feed => Sys2Proof.Machine.execGateRiseTimeout feed s
  | .qualifyComplete feed => Sys2Proof.Machine.execQualifyComplete feed s
  | .faultTimerStart feed => Sys2Proof.Machine.execFaultTimerStart feed s
  | .faultTimerStop feed => Sys2Proof.Machine.execFaultTimerStop feed s
  | .faultTimerExpiry feed => Sys2Proof.Machine.execFaultTimerExpiry feed s
  | .fastTrip feed => Sys2Proof.Machine.execFastTrip feed s
  | .cooloffExpiry feed => Sys2Proof.Machine.execCooloffExpiry feed s
  | .retryClrExpiry feed => Sys2Proof.Machine.execRetryClrExpiry feed s
  | .railLost => Sys2Proof.Machine.execRailLost s
  | .railBack => Sys2Proof.Machine.execRailBack s
  | .feedClr init feed => Sys2Proof.Machine.execFeedClr init feed s
  | .supplyInWindow supplyB inWindow volts => Sys2Proof.Machine.execSupplyInWindow supplyB inWindow volts s
  | .insDlyExpiry supplyB => Sys2Proof.Machine.execInsDlyExpiry supplyB s
  | .supplyOvervoltage supplyB => Sys2Proof.Machine.execSupplyOvervoltage supplyB s
  | .oringReverse supplyB => Sys2Proof.Machine.execOringReverse supplyB s
  | .chkCal init maint feeds => Sys2Proof.Machine.execChkCal init maint feeds s
  | .chkCalComplete offsets => Sys2Proof.Machine.execChkCalComplete offsets s
  | .fldLb init maint banks => Sys2Proof.Machine.execFldLb init maint banks s
  | .fldLbComplete levels => Sys2Proof.Machine.execFldLbComplete levels s
  | .sliceStart slice => Sys2Proof.Machine.execSliceStart slice s
  | .sliceEnable slice en => Sys2Proof.Machine.execSliceEnable slice en s
  | .rxFlush slice => Sys2Proof.Machine.execRxFlush slice s
  | .txFlush slice => Sys2Proof.Machine.execTxFlush slice s
  | .flushEffect slice => Sys2Proof.Machine.execFlushEffect slice s
  | .flushTmoExpiry slice => Sys2Proof.Machine.execFlushTmoExpiry slice s
  | .rxPortRead init slice off bytes => Sys2Proof.Machine.execRxPortRead init slice off bytes s
  | .txPortWrite init slice off data => Sys2Proof.Machine.execTxPortWrite init slice off data s
  | .uartCharacterReceived slice char bad brk => Sys2Proof.Machine.execUartCharacterReceived slice char bad brk s
  | .uartGapExpiry slice => Sys2Proof.Machine.execUartGapExpiry slice s
  | .txPacketSend slice => Sys2Proof.Machine.execTxPacketSend slice s
  | .txPacketDone slice => Sys2Proof.Machine.execTxPacketDone slice s
  | .spiMasterTransfer slice miso => Sys2Proof.Machine.execSpiMasterTransfer slice miso s
  | .spiSlaveSelect slice mosi partialWord => Sys2Proof.Machine.execSpiSlaveSelect slice mosi partialWord s
  | .i2cTransaction slice outcome reads => Sys2Proof.Machine.execI2cTransaction slice outcome reads s
  | .ssiTransfer slice data ebits parityBad timeout => Sys2Proof.Machine.execSsiTransfer slice data ebits parityBad timeout s
  | .quadratureEdge slice a b => Sys2Proof.Machine.execQuadratureEdge slice a b s
  | .quadratureIndex slice => Sys2Proof.Machine.execQuadratureIndex slice s
  | .pulsePeriodWrite slice high => Sys2Proof.Machine.execPulsePeriodWrite slice high s
  | .pulseGate slice high => Sys2Proof.Machine.execPulseGate slice high s
  | .pulseBurstDone slice => Sys2Proof.Machine.execPulseBurstDone slice s
  | .iolFeedChange slice on => Sys2Proof.Machine.execIolFeedChange slice on s
  | .iolWakeup slice rate => Sys2Proof.Machine.execIolWakeup slice rate s
  | .iolValidation slice vid did => Sys2Proof.Machine.execIolValidation slice vid did s
  | .iolMessageFailure slice => Sys2Proof.Machine.execIolMessageFailure slice s
  | .iolComlostExpiry slice => Sys2Proof.Machine.execIolComlostExpiry slice s
  | .iolConfigWrite init slice k word => Sys2Proof.Machine.execIolConfigWrite init slice k word s
  | .canTxRequest channel k buffers => Sys2Proof.Machine.execCanTxRequest channel k buffers s
  | .canStartOfFrame channel => Sys2Proof.Machine.execCanStartOfFrame channel s
  | .canTxComplete channel => Sys2Proof.Machine.execCanTxComplete channel s
  | .canTxAttemptFailed channel arbitration error => Sys2Proof.Machine.execCanTxAttemptFailed channel arbitration error s
  | .canDeadlineExpiry channel buffer => Sys2Proof.Machine.execCanDeadlineExpiry channel buffer s
  | .canFrameReceived channel head data => Sys2Proof.Machine.execCanFrameReceived channel head data s
  | .canRxack channel k buffers => Sys2Proof.Machine.execCanRxack channel k buffers s
  | .canPop channel fifos => Sys2Proof.Machine.execCanPop channel fifos s
  | .canBufferWrite init channel off data => Sys2Proof.Machine.execCanBufferWrite init channel off data s
  | .canErrorDetected channel lec dataPhase sending special => Sys2Proof.Machine.execCanErrorDetected channel lec dataPhase sending special s
  | .guardianCopySent channel buffer => Sys2Proof.Machine.execGuardianCopySent channel buffer s
  | .canRecover channel => Sys2Proof.Machine.execCanRecover channel s
  | .canRecoveryDone recovery => Sys2Proof.Machine.execCanRecoveryDone recovery s
  | .canStuckDominant channel => Sys2Proof.Machine.execCanStuckDominant channel s
  | .canLomWrite channel lom => Sys2Proof.Machine.execCanLomWrite channel lom s
  | .canEnable channel en => Sys2Proof.Machine.execCanEnable channel en s
  | .abdGo init channel => Sys2Proof.Machine.execAbdGo init channel s
  | .abdStop channel => Sys2Proof.Machine.execAbdStop channel s
  | .abdDwellExpiry channel => Sys2Proof.Machine.execAbdDwellExpiry channel s
  | .remoteQueueEntry channel frame => Sys2Proof.Machine.execRemoteQueueEntry channel frame s
  | .br sawyer pads => Sys2Proof.Machine.execBr sawyer pads s
  | .loop sawyer pads => Sys2Proof.Machine.execLoop sawyer pads s
  | .wait sawyer pads => Sys2Proof.Machine.execWait sawyer pads s
  | .shi sawyer pads => Sys2Proof.Machine.execShi sawyer pads s
  | .sho sawyer pads => Sys2Proof.Machine.execSho sawyer pads s
  | .send sawyer pads => Sys2Proof.Machine.execSend sawyer pads s
  | .take sawyer pads => Sys2Proof.Machine.execTake sawyer pads s
  | .copy sawyer pads => Sys2Proof.Machine.execCopy sawyer pads s
  | .ldi sawyer pads => Sys2Proof.Machine.execLdi sawyer pads s
  | .pinset sawyer pads => Sys2Proof.Machine.execPinset sawyer pads s
  | .calc sawyer pads => Sys2Proof.Machine.execCalc sawyer pads s
  | .post sawyer pads => Sys2Proof.Machine.execPost sawyer pads s
  | .flag sawyer pads => Sys2Proof.Machine.execFlag sawyer pads s
  | .stamp sawyer pads => Sys2Proof.Machine.execStamp sawyer pads s
  | .nop sawyer pads => Sys2Proof.Machine.execNop sawyer pads s
  | .halt sawyer pads => Sys2Proof.Machine.execHalt sawyer pads s
  | .invalidInstruction sawyer pads => Sys2Proof.Machine.execInvalidInstruction sawyer pads s
  | .stallRelease sawyer pads => Sys2Proof.Machine.execStallRelease sawyer pads s
  | .sawyerEnable sawyer en => Sys2Proof.Machine.execSawyerEnable sawyer en s
  | .sawyerInject init sawyer word => Sys2Proof.Machine.execSawyerInject init sawyer word s
  | .sawyerTxfWrite sawyer word => Sys2Proof.Machine.execSawyerTxfWrite sawyer word s
  | .sawyerRxfRead sawyer => Sys2Proof.Machine.execSawyerRxfRead sawyer s
  | .sawyerDropWrite sawyer word => Sys2Proof.Machine.execSawyerDropWrite sawyer word s
  | .groveFlagsWrite grove flags => Sys2Proof.Machine.execGroveFlagsWrite grove flags s
  | .reload init grove mask clean => Sys2Proof.Machine.execReload init grove mask clean s
  | .reloadComplete grove => Sys2Proof.Machine.execReloadComplete grove s
  | .groveMemoryWrite init off data => Sys2Proof.Machine.execGroveMemoryWrite init off data s
  | .blockLock port => Sys2Proof.Machine.execBlockLock port s
  | .settleExpiry port => Sys2Proof.Machine.execSettleExpiry port s
  | .portDown port cause => Sys2Proof.Machine.execPortDown port cause s
  | .heartbeatSend port => Sys2Proof.Machine.execHeartbeatSend port s
  | .ringFrameReceived port frame => Sys2Proof.Machine.execRingFrameReceived port frame s
  | .hopNakRetry port => Sys2Proof.Machine.execHopNakRetry port s
  | .linkFrameReceived port info => Sys2Proof.Machine.execLinkFrameReceived port info s
  | .ackSend port => Sys2Proof.Machine.execAckSend port s
  | .ackTimeout port => Sys2Proof.Machine.execAckTimeout port s
  | .frameOriginate port frame => Sys2Proof.Machine.execFrameOriginate port frame s
  | .drainExpiry port => Sys2Proof.Machine.execDrainExpiry port s
  | .harvestLaunch images => Sys2Proof.Machine.execHarvestLaunch images s
  | .harvestBoundary => Sys2Proof.Machine.execHarvestBoundary s
  | .harvestCycleComplete => Sys2Proof.Machine.execHarvestCycleComplete s
  | .joinSend => Sys2Proof.Machine.execJoinSend s
  | .join info expected => Sys2Proof.Machine.execJoin info expected s
  | .grant station epoch serial => Sys2Proof.Machine.execGrant station epoch serial s
  | .release epoch => Sys2Proof.Machine.execRelease epoch s
  | .refuse code serial => Sys2Proof.Machine.execRefuse code serial s
  | .linkrpt station port ready serial => Sys2Proof.Machine.execLinkrpt station port ready serial s
  | .epochReceived info => Sys2Proof.Machine.execEpochReceived info s
  | .epochEffect => Sys2Proof.Machine.execEpochEffect s
  | .epochRepeat => Sys2Proof.Machine.execEpochRepeat s
  | .graceExpiry => Sys2Proof.Machine.execGraceExpiry s
  | .rekey init => Sys2Proof.Machine.execRekey init s
  | .rekeyReq => Sys2Proof.Machine.execRekeyReq s
  | .rekeyReady hub kepoch => Sys2Proof.Machine.execRekeyReady hub kepoch s
  | .rekeyTmoExpiry => Sys2Proof.Machine.execRekeyTmoExpiry s
  | .epochKeysDerived => Sys2Proof.Machine.execEpochKeysDerived s
  | .oldKeyZeroise => Sys2Proof.Machine.execOldKeyZeroise s
  | .read frame => Sys2Proof.Machine.execRead frame s
  | .write frame => Sys2Proof.Machine.execWrite frame s
  | .postedWrite frame => Sys2Proof.Machine.execPostedWrite frame s
  | .lockAcq frame holderWaits => Sys2Proof.Machine.execLockAcq frame holderWaits s
  | .lockRel frame => Sys2Proof.Machine.execLockRel frame s
  | .atomic frame => Sys2Proof.Machine.execAtomic frame s
  | .rsp frame => Sys2Proof.Machine.execRsp frame s
  | .nak frame => Sys2Proof.Machine.execNak frame s
  | .tunnel frame => Sys2Proof.Machine.execTunnel frame s
  | .guard frame => Sys2Proof.Machine.execGuard frame s
  | .event frame => Sys2Proof.Machine.execEvent frame s
  | .switchAdmit port => Sys2Proof.Machine.execSwitchAdmit port s
  | .outputServe port => Sys2Proof.Machine.execOutputServe port s
  | .launchWindowOpen index => Sys2Proof.Machine.execLaunchWindowOpen index s
  | .launchQueuePlace queue frame => Sys2Proof.Machine.execLaunchQueuePlace queue frame s
  | .keyLimitHold slot => Sys2Proof.Machine.execKeyLimitHold slot s
  | .hostMrd tag off bytes => Sys2Proof.Machine.execHostMrd tag off bytes s
  | .hostMwr off data => Sys2Proof.Machine.execHostMwr off data s
  | .hostAtomicop tag kind off data => Sys2Proof.Machine.execHostAtomicop tag kind off data s
  | .bar0Access dw dws be tag word => Sys2Proof.Machine.execBar0Access dw dws be tag word s
  | .unsupportedTlp tag => Sys2Proof.Machine.execUnsupportedTlp tag s
  | .splitReadTimeout tag => Sys2Proof.Machine.execSplitReadTimeout tag s
  | .tagQuarantineExpiry tag => Sys2Proof.Machine.execTagQuarantineExpiry tag s
  | .tagFreed => Sys2Proof.Machine.execTagFreed s
  | .prefetchSlotExpiry slot => Sys2Proof.Machine.execPrefetchSlotExpiry slot s
  | .prefetchNak tag => Sys2Proof.Machine.execPrefetchNak tag s
  | .srdRead init bytes => Sys2Proof.Machine.execSrdRead init bytes s
  | .srdWrite init bytes => Sys2Proof.Machine.execSrdWrite init bytes s
  | .srdPostedWrite init bytes => Sys2Proof.Machine.execSrdPostedWrite init bytes s
  | .srdLockAcq init holderWaits => Sys2Proof.Machine.execSrdLockAcq init holderWaits s
  | .srdLockRel init => Sys2Proof.Machine.execSrdLockRel init s
  | .srdAtomic init kind => Sys2Proof.Machine.execSrdAtomic init kind s
  | .lockBackoffExpiry who holderWaits => Sys2Proof.Machine.execLockBackoffExpiry who holderWaits s
  | .lockTmoExpiry page => Sys2Proof.Machine.execLockTmoExpiry page s
  | .dmxDb context tail => Sys2Proof.Machine.execDmxDb context tail s
  | .enable init context => Sys2Proof.Machine.execEnable init context s
  | .resume init context => Sys2Proof.Machine.execResume init context s
  | .abort init context => Sys2Proof.Machine.execAbort init context s
  | .disable init context => Sys2Proof.Machine.execDisable init context s
  | .inval init context => Sys2Proof.Machine.execInval init context s
  | .contextRecordWrite init off data => Sys2Proof.Machine.execContextRecordWrite init off data s
  | .engineTakeContext engine => Sys2Proof.Machine.execEngineTakeContext engine s
  | .preempt engine => Sys2Proof.Machine.execPreempt engine s
  | .saveComplete engine => Sys2Proof.Machine.execSaveComplete engine s
  | .descriptorFetch engine host => Sys2Proof.Machine.execDescriptorFetch engine host s
  | .descriptorComplete context => Sys2Proof.Machine.execDescriptorComplete context s
  | .tableWalk engine dest given1 given2 => Sys2Proof.Machine.execTableWalk engine dest given1 given2 s
  | .lookaheadWalk engine dest given1 given2 => Sys2Proof.Machine.execLookaheadWalk engine dest given1 given2 s
  | .dmaFaultEffect engine => Sys2Proof.Machine.execDmaFaultEffect engine s
  | .dmaAckRsp tag => Sys2Proof.Machine.execDmaAckRsp tag s
  | .dmaTmoRewind context => Sys2Proof.Machine.execDmaTmoRewind context s
  | .dmxFqPop => Sys2Proof.Machine.execDmxFqPop s
  | .loadFlash init slot record => Sys2Proof.Machine.execLoadFlash init slot record s
  | .loadStage init slot => Sys2Proof.Machine.execLoadStage init slot s
  | .store init record => Sys2Proof.Machine.execStore init record s
  | .seal init record => Sys2Proof.Machine.execSeal init record s
  | .zero init slot => Sys2Proof.Machine.execZero init slot s
  | .zeroAll init => Sys2Proof.Machine.execZeroAll init s
  | .lc init => Sys2Proof.Machine.execLc init s
  | .keyCmdComplete bank => Sys2Proof.Machine.execKeyCmdComplete bank s
  | .keyStageWrite word data => Sys2Proof.Machine.execKeyStageWrite word data s
  | .enc init slot => Sys2Proof.Machine.execEnc init slot s
  | .dec init slot => Sys2Proof.Machine.execDec init slot s
  | .cphOpComplete bank => Sys2Proof.Machine.execCphOpComplete bank s
  | .gcmFrameJob => Sys2Proof.Machine.execGcmFrameJob s
  | .tamperEvent active => Sys2Proof.Machine.execTamperEvent active s
  | .tsafeClr => Sys2Proof.Machine.execTsafeClr s
  | .tamperEnableWrite init en => Sys2Proof.Machine.execTamperEnableWrite init en s
  | .stitchJoin => Sys2Proof.Machine.execStitchJoin s
  | .stitchJoinReceived hub => Sys2Proof.Machine.execStitchJoinReceived hub s
  | .stitchImageReceived payload => Sys2Proof.Machine.execStitchImageReceived payload s
  | .copyCommit => Sys2Proof.Machine.execCopyCommit s
  | .st0Silence => Sys2Proof.Machine.execSt0Silence s
  | .claimSend reason => Sys2Proof.Machine.execClaimSend reason s
  | .claimResend => Sys2Proof.Machine.execClaimResend s
  | .startClaim => Sys2Proof.Machine.execStartClaim s
  | .claimReceived init word => Sys2Proof.Machine.execClaimReceived init word s
  | .sttOrder init word => Sys2Proof.Machine.execSttOrder init word s
  | .grantReceived src named => Sys2Proof.Machine.execGrantReceived src named s
  | .takeoverComplete => Sys2Proof.Machine.execTakeoverComplete s
  | .fenceReceived src named => Sys2Proof.Machine.execFenceReceived src named s
  | .designateReceived src named => Sys2Proof.Machine.execDesignateReceived src named s
  | .refuseReceived src named => Sys2Proof.Machine.execRefuseReceived src named s
  | .promptReceived src named => Sys2Proof.Machine.execPromptReceived src named s
  | .fenceHoldExpiry => Sys2Proof.Machine.execFenceHoldExpiry s
  | .resign init => Sys2Proof.Machine.execResign init s
  | .resync init => Sys2Proof.Machine.execResync init s
  | .frel init => Sys2Proof.Machine.execFrel init s
  | .sttRefqPop => Sys2Proof.Machine.execSttRefqPop s
  | .faultDetected subsys cls unit => Sys2Proof.Machine.execFaultDetected subsys cls unit s
  | .memoryError region off double => Sys2Proof.Machine.execMemoryError region off double s
  | .scrub region off => Sys2Proof.Machine.execScrub region off s
  | .lockstepMismatch pair => Sys2Proof.Machine.execLockstepMismatch pair s
  | .bomInj subsys double => Sys2Proof.Machine.execBomInj subsys double s
  | .mbist init => Sys2Proof.Machine.execMbist init s
  | .serdesMarginScan init port maint => Sys2Proof.Machine.execSerdesMarginScan init port maint s
  | .hvLaneTest init => Sys2Proof.Machine.execHvLaneTest init s
  | .selfTestComplete failed memory => Sys2Proof.Machine.execSelfTestComplete failed memory s
  | .backgroundTestRotation => Sys2Proof.Machine.execBackgroundTestRotation s
  | .boomRecordWrite => Sys2Proof.Machine.execBoomRecordWrite s
  | .mark n => Sys2Proof.Machine.execMark n s
  | .free n => Sys2Proof.Machine.execFree n s
  | .rewind n => Sys2Proof.Machine.execRewind n s
  | .bomFwrec unit code => Sys2Proof.Machine.execBomFwrec unit code s
  | .eventFrameSend => Sys2Proof.Machine.execEventFrameSend s
  | .boomRead init off bytes => Sys2Proof.Machine.execBoomRead init off bytes s
  | .powerSliceIdle slice => Sys2Proof.Machine.execPowerSliceIdle slice s
  | .wakeStart slice => Sys2Proof.Machine.execWakeStart slice s
  | .wakeOnEdge slice pin => Sys2Proof.Machine.execWakeOnEdge slice pin s
  | .wakeComplete slice => Sys2Proof.Machine.execWakeComplete slice s
  | .pwrListWrite init slice off => Sys2Proof.Machine.execPwrListWrite init slice off s
  | .standby => Sys2Proof.Machine.execStandby s
  | .standbyWake source bootSrc stnPos => Sys2Proof.Machine.execStandbyWake source bootSrc stnPos s
  | .bootVigilStage => Sys2Proof.Machine.execBootVigilStage s
  | .bootRomStage => Sys2Proof.Machine.execBootRomStage s
  | .bootStumpStage => Sys2Proof.Machine.execBootStumpStage s
  | .updEload init cls => Sys2Proof.Machine.execUpdEload init cls s
  | .updEloadComplete => Sys2Proof.Machine.execUpdEloadComplete s
  | .install block bad => Sys2Proof.Machine.execInstall block bad s
  | .svnraise block => Sys2Proof.Machine.execSvnraise block s
  | .keyrec => Sys2Proof.Machine.execKeyrec s
  | .updMboxGo => Sys2Proof.Machine.execUpdMboxGo s
  | .netrec => Sys2Proof.Machine.execNetrec s
  | .romrec => Sys2Proof.Machine.execRomrec s
  | .info uart seq => Sys2Proof.Machine.execInfo uart seq s
  | .setbaud uart seq baud => Sys2Proof.Machine.execSetbaud uart seq baud s
  | .begin uart seq cls mode total => Sys2Proof.Machine.execBegin uart seq cls mode total s
  | .data uart seq off data => Sys2Proof.Machine.execData uart seq off data s
  | .endImage uart seq => Sys2Proof.Machine.execEnd uart seq s
  | .run uart seq => Sys2Proof.Machine.execRun uart seq s
  | .record uart seq record => Sys2Proof.Machine.execRecord uart seq record s
  | .bankSupplyWindow bank inside => Sys2Proof.Machine.execBankSupplyWindow bank inside s
  | .vauxLost => Sys2Proof.Machine.execVauxLost s
  | .ageingMeasure monitor place value => Sys2Proof.Machine.execAgeingMeasure monitor place value s
  | .ageingRecord monitor => Sys2Proof.Machine.execAgeingRecord monitor s
  | .wholeMillisecond => Sys2Proof.Machine.execWholeMillisecond s
  | .pl0MasterLost => Sys2Proof.Machine.execPl0MasterLost s
  | .pl0FrameReceived frame => Sys2Proof.Machine.execPl0FrameReceived frame s
  | .pcieLinkChange up speed width => Sys2Proof.Machine.execPcieLinkChange up speed width s
  | .cellCooled line => Sys2Proof.Machine.execCellCooled line s
  | .canStuckCleared channel => Sys2Proof.Machine.execCanStuckCleared channel s
  | .iolMessageExchange slice pd valid event isdu => Sys2Proof.Machine.execIolMessageExchange slice pd valid event isdu s
  | .vbatLow mv => Sys2Proof.Machine.execVbatLow mv s
  | .hvRunTimeout => Sys2Proof.Machine.execHvRunTimeout s
  | .stitchRecordExpiry pos => Sys2Proof.Machine.execStitchRecordExpiry pos s
  | .standbySelfTestStart bank port => Sys2Proof.Machine.execStandbySelfTestStart bank port s
  | .frameTransmitted port => Sys2Proof.Machine.execFrameTransmitted port s

end Sys2Proof.Machine
end

