-- ==== Sys2Proof/Machine/Step.lean ====
section
/-! DEFINITION. One step: the command at the front of the queue, or on an empty queue one cycle of CCLK. -/

namespace Sys2Proof.Machine

/-- One cycle of CCLK: fabric time advances by TIM_RATE (R73), the Sluice's filters and the pulse generators run (R135, R185), and the
engines move their lines (R349). In STANDBY only the count of cycles goes on, by which the HV die's removal times are measured. -/
def State.tick (s : State) : State :=
  let s := { s with clk := s.clk + 1, cycle := [], together := 0 }
  if s.pwr.standby then s
  else ({ s with tim := { s.tim with counter := s.tim.counter + s.rd F.TIM_RATE_RATE } }.filterTick.pulseTicks).dmaTick

/-- The command at the front of the queue is performed with the queue's rest; an empty queue lets a cycle pass (log entry 3). -/
def step (s : State) : Host.Outcome State Fault Refusal :=
  match s.pending with
  | i :: l => exec i { s with pending := l }
  | [] => guardedVigil s State.tick

/-- The state with the command that a word spells in front of its queue; a word that spells none leaves the state as it is. -/
def State.withFetchWord (s : State) (nbits w : Nat) : State :=
  match decodeTableWord nbits w with
  | some i => { s with pending := i :: s.pending }
  | none => s

end Sys2Proof.Machine
end

