-- ==== Sys2Proof/Safety.lean ====
section
/-!
DEFINITION. What holds of the hub in every state it can reach: the canonical forms of the memories and the register file, and the
bound of the Boom queue (R419).
-/

namespace Sys2Proof.Machine

/-- The canonical forms and bounds that every step keeps. -/
structure State.Good (s : State) : Prop where
  /-- Memory: addresses rise and no byte is listed that an unlisted address reads as. -/
  mem : Memory.wf s.mem = true
  /-- The register file: fields are filed once each, in rising order. -/
  regs : SMap.rises s.regs = true
  /-- At most 16 Boom records wait (R419). -/
  queue : s.bom.queue.length ≤ 16

/-- The main die has its supply, and the manual still guarantees the hub's behaviour (R36, R437): commands have their effects. -/
abbrev State.Live (s : State) : Prop := s.voided = false ∧ s.pwr.standby = false

/-- Every register field but the listed ones holds what it held. -/
def State.SameRegs (s t : State) (fs : List Fld) : Prop := ∀ g : Fld, g.key ∉ fs.map Fld.key → t.rd g = s.rd g

/-- Every register field outside the listed blocks (R33) holds what it held. -/
def State.SameBlocks (s t : State) (blocks : List Nat) : Prop := ∀ g : Fld, g.key / 0x200000 % 0x1000 ∉ blocks → t.rd g = s.rd g

/-- s with what nearly every command may touch as t has it: the register file, what was sent, and the notes of the cycle. -/
def State.noted (s t : State) : State := { s with regs := t.regs, egress := t.egress, cycle := t.cycle, together := t.together }

/-- The commands that act on Vigil, the HV die, the supplies or the resets, and not on the main die alone (R13, R437). -/
def outsideMainDie : Instr → Bool
  | .porNAssert .. | .sysRstNAssert .. | .standbyWake .. | .tamperEvent .. | .vbatLow .. | .vauxLost | .bankSupplyWindow .. => true
  | .twnFenceNFall | .twnFenceNRise | .keepTmoExpiry .. | .keeperResume .. | .hvDieReset | .hvDieStart => true
  | .fieldInputChange .. | .wireBreak .. | .zeroCrossing .. | .lineLatchOff .. | .cellCooled .. | .openLoad .. | .lineRestore .. => true
  | .seatDebounceExpiry .. | .seatContactOpen .. | .seatContactsClosed .. | .prechargeReached .. | .preTmoExpiry .. | .gateRise .. => true
  | .gateRiseTimeout .. | .qualifyComplete .. | .faultTimerStart .. | .faultTimerStop .. | .faultTimerExpiry .. | .fastTrip .. => true
  | .cooloffExpiry .. | .retryClrExpiry .. | .railLost | .railBack | .supplyInWindow .. | .insDlyExpiry .. | .supplyOvervoltage .. => true
  | .oringReverse .. => true
  | _ => false

/-- A run goes on: the step answers a next state. -/
def Runs (s : State) : Prop := ∃ t, step s = .next t

end Sys2Proof.Machine
end

