-- ==== Sys2Proof/WellFormed.lean ====
section
/-!
DEFINITION. Which operands are well formed: the ranges that the manual gives the fields of frames, records and payloads
(04 R86; 08 R214; 10 R256, R257, R262, R274, R279, R284; 12 R331). The machine takes every command; the check says which ones a sender can form.
-/

namespace Sys2Proof

/-- Every element is a byte. -/
def bytesOk (l : List Nat) : Bool := l.all (fun b => decide (b < 256))

/-- The header fields of R257 and the payload of at most 2048 bytes. -/
def frameOk (f : Frame) : Bool :=
  decide (f.typ < 16) && decide (f.tc < 8) && decide (f.dest < 4096) && decide (f.src < 4096) && decide (f.hopSeq < 2 ^ 16) &&
    decide (f.flowSeq < 2 ^ 32) && decide (f.ctx < 4096) && decide (f.kepoch < 16) && decide (f.epoch < 2 ^ 16) && decide (f.kslot < 256) &&
    bytesOk f.payload && decide (f.payload.length ≤ 2048) && bytesOk f.tag && (f.tag.isEmpty || f.tag.length == 16)

/-- A frame as it arrives; LEN has 12 bits. -/
def wireOk (w : WireFrame) : Bool := frameOk w.frame && decide (w.len < 4096)

/-- Bytes of data that a DLC stands for. -/
def dlcLength (fdf : Bool) (dlc : Nat) : Nat :=
  if dlc ≤ 8 then dlc else if fdf then [12, 16, 20, 24, 32, 48, 64].getD (dlc - 9) 64 else 8

/-- A CAN frame: its data as long as its DLC says, none in a remote frame. -/
def canOk (f : CanFrame) : Bool :=
  decide (f.id < 2 ^ 32) && decide (f.dlc < 16) && bytesOk f.data &&
    (f.data.length == (if f.id / 2 ^ 30 % 2 = 1 then 0 else dlcLength f.fdf f.dlc))

/-- A record of a JOIN. -/
def hubOk (h : JoinHub) : Bool :=
  decide (h.serial < 2 ^ 64) && decide (h.pos < 4) && decide (h.flags < 4) && decide (h.inLen ≤ 1024) && decide (h.outLen ≤ 1024) &&
    bytesOk h.hash && h.hash.length == 48

/-- A JOIN names one to four hubs. -/
def joinOk (i : JoinInfo) : Bool :=
  decide (i.ringPos < 4) && decide (i.station < 1023) && decide (i.epochHeld < 2 ^ 16) && decide (i.stepsA < 2 ^ 16) &&
    decide (i.stepsB < 2 ^ 16) && decide (1 ≤ i.hubs.length) && decide (i.hubs.length ≤ 4) && i.hubs.all hubOk

/-- An EPOCH names up to 16 stations to be reset, and positions that rise by station. -/
def epochOk (e : EpochInfo) : Bool :=
  decide (e.newEpoch < 2 ^ 16) && decide (e.prevEpoch < 2 ^ 16) && decide (e.effectCycle < 2 ^ 32) && decide (e.kepTx < 16) &&
    decide (e.kepNext < 256) && decide (e.resets.length ≤ 16) && decide ((e.posmap.map Prod.fst).Pairwise (fun a b => a < b)) &&
    e.posmap.all (fun p => decide (p.1 < 1023))

/-- A LINK frame's sequence numbers have 16 bits. -/
def linkOk (i : LinkInfo) : Bool := decide (i.ack < 2 ^ 16) && decide (i.nak.getD 0 < 2 ^ 16) && decide (i.serial < 2 ^ 64)

/-- Output images of hubs, at most 1024 bytes each. -/
def imagesOk (l : List (Nat × List Byte)) : Bool := l.all (fun p => decide (p.1 < 4096) && decide (p.2.length ≤ 1024))

/-- A correction of a PTP message: 64 bits with sign. -/
def corrOk (corr : Int) : Bool := decide (-2 ^ 63 ≤ corr) && decide (corr < 2 ^ 63)

/-- A PTP message's correction lies in its field. -/
def ptpOk (m : PtpMessage) : Bool :=
  match m.body with
  | .sync _ _ corr => corrOk corr
  | .followUp _ corr => corrOk corr
  | .delayAnswer _ corr => corrOk corr
  | .peerAnswer _ _ corr => corrOk corr
  | .peerFollowUp _ corr => corrOk corr
  | _ => true

/-- A read of at most 4096 bytes. -/
def readOk (b : ReadBytes) : Bool := decide (b.len ≤ 4096)

/-- A transaction has fewer steps than that. -/
def i2cOk (e : I2cEnd) : Bool := decide (e.after ≤ 2048)

/-- Whether a command's operands lie in the ranges that the manual gives them; what their types bound already needs no check. -/
def Instr.wellFormed : Instr → Bool
  | .registerWrite _ _ _ => true
  | .clearOnRead _ _ x_len => decide (x_len ≤ 4096)
  | .resultRegisterRead _ _ => true
  | .write64Lo _ _ _ => true
  | .write64Hi _ _ _ => true
  | .driftAck => true
  | .pair1Release _ => true
  | .porNAssert _ _ => true
  | .sysRstNAssert _ => true
  | .sysrst _ => true
  | .perstNAssert => true
  | .almStageDataWrite _ => true
  | .almStagePtrWrite _ => true
  | .clrStage => true
  | .almanacEnable => true
  | .almanacCancel => true
  | .almanacCheckDone => true
  | .almanacApplied => true
  | .timCapture _ => true
  | .timSet => true
  | .pdelayRequestSend _ => true
  | .pdelayRequestReceived _ _ => true
  | .pdelayAnswerReceived _ _ => true
  | .pdelayAnswerTimeout _ => true
  | .syncSend => true
  | .syncReceived _ _ _ => true
  | .upstreamFinal => true
  | .servoHoldover => true
  | .ptpMessageReceived x_message => ptpOk x_message
  | .harvestCycleStart => true
  | .tallyReceived _ => true
  | .tallyFitInForce _ => true
  | .tallyDeadline _ => true
  | .posAt _ _ => true
  | .timeOf _ _ _ => true
  | .readFit _ _ => true
  | .tallyQueryComplete _ => true
  | .calendarEntryWrite _ _ _ => true
  | .arm _ _ => true
  | .retract _ _ => true
  | .schCmdComplete _ => true
  | .retractGroup _ => true
  | .entryCommit _ => true
  | .entryInstant _ => true
  | .pulseTrailingEdge _ => true
  | .entryExpiry _ => true
  | .fastLineInputChange _ _ => true
  | .sluiceEventRise _ => true
  | .sluiceEventFall _ => true
  | .forceRelease _ => true
  | .slcHoldRelease => true
  | .harvestWatchdogExpiry => true
  | .hvLinkLost _ => true
  | .hvLinkUp _ => true
  | .twnFenceNFall => true
  | .twnFenceNRise => true
  | .keepTmoExpiry _ => true
  | .keeperResume _ => true
  | .hvDieReset => true
  | .hvDieStart => true
  | .fieldInputChange _ _ => true
  | .wireBreak _ _ => true
  | .zeroCrossing _ => true
  | .lineLatchOff _ _ => true
  | .lineLatchClear _ _ _ => true
  | .openLoad _ _ => true
  | .lineRestore _ => true
  | .seatDebounceExpiry _ => true
  | .seatContactOpen _ _ => true
  | .seatContactsClosed _ => true
  | .prechargeReached _ => true
  | .preTmoExpiry _ => true
  | .gateRise _ => true
  | .gateRiseTimeout _ => true
  | .qualifyComplete _ => true
  | .faultTimerStart _ => true
  | .faultTimerStop _ => true
  | .faultTimerExpiry _ => true
  | .fastTrip _ => true
  | .cooloffExpiry _ => true
  | .retryClrExpiry _ => true
  | .railLost => true
  | .railBack => true
  | .feedClr _ _ => true
  | .supplyInWindow _ _ _ => true
  | .insDlyExpiry _ => true
  | .supplyOvervoltage _ => true
  | .oringReverse _ => true
  | .chkCal _ _ _ => true
  | .chkCalComplete _ => true
  | .fldLb _ _ _ => true
  | .fldLbComplete _ => true
  | .sliceStart _ => true
  | .sliceEnable _ _ => true
  | .rxFlush _ => true
  | .txFlush _ => true
  | .flushEffect _ => true
  | .flushTmoExpiry _ => true
  | .rxPortRead _ _ x_off x_bytes => decide (x_off < 4096) && readOk x_bytes
  | .txPortWrite _ _ x_off _ => decide (x_off < 4096)
  | .uartCharacterReceived _ _ _ _ => true
  | .uartGapExpiry _ => true
  | .txPacketSend _ => true
  | .txPacketDone _ => true
  | .spiMasterTransfer _ _ => true
  | .spiSlaveSelect _ _ _ => true
  | .i2cTransaction _ x_outcome _ => i2cOk x_outcome
  | .ssiTransfer _ _ _ _ _ => true
  | .quadratureEdge _ _ _ => true
  | .quadratureIndex _ => true
  | .pulsePeriodWrite _ _ => true
  | .pulseGate _ _ => true
  | .pulseBurstDone _ => true
  | .iolFeedChange _ _ => true
  | .iolWakeup _ _ => true
  | .iolValidation _ _ _ => true
  | .iolMessageFailure _ => true
  | .iolComlostExpiry _ => true
  | .iolConfigWrite _ _ _ _ => true
  | .canTxRequest _ _ _ => true
  | .canStartOfFrame _ => true
  | .canTxComplete _ => true
  | .canTxAttemptFailed _ _ _ => true
  | .canDeadlineExpiry _ _ => true
  | .canFrameReceived _ x_head x_data => canOk (x_head.frame x_data)
  | .canRxack _ _ _ => true
  | .canPop _ _ => true
  | .canBufferWrite _ _ _ _ => true
  | .canErrorDetected _ _ _ _ _ => true
  | .guardianCopySent _ _ => true
  | .canRecover _ => true
  | .canRecoveryDone _ => true
  | .canStuckDominant _ => true
  | .canLomWrite _ _ => true
  | .canEnable _ _ => true
  | .abdGo _ _ => true
  | .abdStop _ => true
  | .abdDwellExpiry _ => true
  | .remoteQueueEntry _ x_frame => canOk x_frame
  | .br _ _ => true
  | .loop _ _ => true
  | .wait _ _ => true
  | .shi _ _ => true
  | .sho _ _ => true
  | .send _ _ => true
  | .take _ _ => true
  | .copy _ _ => true
  | .ldi _ _ => true
  | .pinset _ _ => true
  | .calc _ _ => true
  | .post _ _ => true
  | .flag _ _ => true
  | .stamp _ _ => true
  | .nop _ _ => true
  | .halt _ _ => true
  | .invalidInstruction _ _ => true
  | .stallRelease _ _ => true
  | .sawyerEnable _ _ => true
  | .sawyerInject _ _ _ => true
  | .sawyerTxfWrite _ _ => true
  | .sawyerRxfRead _ => true
  | .sawyerDropWrite _ _ => true
  | .groveFlagsWrite _ _ => true
  | .reload _ _ _ _ => true
  | .reloadComplete _ => true
  | .groveMemoryWrite _ _ _ => true
  | .blockLock _ => true
  | .settleExpiry _ => true
  | .portDown _ _ => true
  | .heartbeatSend _ => true
  | .ringFrameReceived _ x_frame => wireOk x_frame
  | .hopNakRetry _ => true
  | .linkFrameReceived _ x_info => linkOk x_info
  | .ackSend _ => true
  | .ackTimeout _ => true
  | .frameOriginate _ x_frame => frameOk x_frame
  | .drainExpiry _ => true
  | .harvestLaunch x_images => imagesOk x_images
  | .harvestBoundary => true
  | .harvestCycleComplete => true
  | .joinSend => true
  | .join x_info _ => joinOk x_info
  | .grant _ _ _ => true
  | .release _ => true
  | .refuse _ _ => true
  | .linkrpt _ _ _ _ => true
  | .epochReceived x_info => epochOk x_info
  | .epochEffect => true
  | .epochRepeat => true
  | .graceExpiry => true
  | .rekey _ => true
  | .rekeyReq => true
  | .rekeyReady _ _ => true
  | .rekeyTmoExpiry => true
  | .epochKeysDerived => true
  | .oldKeyZeroise => true
  | .read x_frame => frameOk x_frame
  | .write x_frame => frameOk x_frame
  | .postedWrite x_frame => frameOk x_frame
  | .lockAcq x_frame _ => frameOk x_frame
  | .lockRel x_frame => frameOk x_frame
  | .atomic x_frame => frameOk x_frame
  | .rsp x_frame => frameOk x_frame
  | .nak x_frame => frameOk x_frame
  | .tunnel x_frame => frameOk x_frame
  | .guard x_frame => frameOk x_frame
  | .event x_frame => frameOk x_frame
  | .switchAdmit _ => true
  | .outputServe _ => true
  | .launchWindowOpen _ => true
  | .launchQueuePlace _ x_frame => frameOk x_frame
  | .keyLimitHold _ => true
  | .hostMrd _ _ x_bytes => readOk x_bytes
  | .hostMwr _ _ => true
  | .hostAtomicop _ _ _ _ => true
  | .bar0Access _ _ _ _ _ => true
  | .unsupportedTlp _ => true
  | .splitReadTimeout _ => true
  | .tagQuarantineExpiry _ => true
  | .tagFreed => true
  | .prefetchSlotExpiry _ => true
  | .prefetchNak _ => true
  | .srdRead _ _ => true
  | .srdWrite _ _ => true
  | .srdPostedWrite _ _ => true
  | .srdLockAcq _ _ => true
  | .srdLockRel _ => true
  | .srdAtomic _ _ => true
  | .lockBackoffExpiry x_who _ => decide (x_who < 2 ^ 32)
  | .lockTmoExpiry _ => true
  | .dmxDb _ _ => true
  | .enable _ _ => true
  | .resume _ _ => true
  | .abort _ _ => true
  | .disable _ _ => true
  | .inval _ _ => true
  | .contextRecordWrite _ _ _ => true
  | .engineTakeContext _ => true
  | .preempt _ => true
  | .saveComplete _ => true
  | .descriptorFetch _ _ => true
  | .descriptorComplete _ => true
  | .tableWalk _ _ _ _ => true
  | .lookaheadWalk _ _ _ _ => true
  | .dmaFaultEffect _ => true
  | .dmaAckRsp _ => true
  | .dmaTmoRewind _ => true
  | .dmxFqPop => true
  | .loadFlash _ _ _ => true
  | .loadStage _ _ => true
  | .store _ _ => true
  | .seal _ _ => true
  | .zero _ _ => true
  | .zeroAll _ => true
  | .lc _ => true
  | .keyCmdComplete _ => true
  | .keyStageWrite _ _ => true
  | .enc _ _ => true
  | .dec _ _ => true
  | .cphOpComplete _ => true
  | .gcmFrameJob => true
  | .tamperEvent _ => true
  | .tsafeClr => true
  | .tamperEnableWrite _ _ => true
  | .stitchJoin => true
  | .stitchJoinReceived x_hub => hubOk x_hub
  | .stitchImageReceived _ => true
  | .copyCommit => true
  | .st0Silence => true
  | .claimSend _ => true
  | .claimResend => true
  | .startClaim => true
  | .claimReceived _ _ => true
  | .sttOrder _ _ => true
  | .grantReceived _ _ => true
  | .takeoverComplete => true
  | .fenceReceived _ _ => true
  | .designateReceived _ _ => true
  | .refuseReceived _ _ => true
  | .promptReceived _ _ => true
  | .fenceHoldExpiry => true
  | .resign _ => true
  | .resync _ => true
  | .frel _ => true
  | .sttRefqPop => true
  | .faultDetected _ _ _ => true
  | .memoryError _ _ _ => true
  | .scrub _ _ => true
  | .lockstepMismatch _ => true
  | .bomInj _ _ => true
  | .mbist _ => true
  | .serdesMarginScan _ _ _ => true
  | .hvLaneTest _ => true
  | .selfTestComplete _ _ => true
  | .backgroundTestRotation => true
  | .boomRecordWrite => true
  | .mark _ => true
  | .free _ => true
  | .rewind _ => true
  | .bomFwrec _ _ => true
  | .eventFrameSend => true
  | .boomRead _ _ x_bytes => readOk x_bytes
  | .powerSliceIdle _ => true
  | .wakeStart _ => true
  | .wakeOnEdge _ _ => true
  | .wakeComplete _ => true
  | .pwrListWrite _ _ _ => true
  | .standby => true
  | .standbyWake _ _ _ => true
  | .bootVigilStage => true
  | .bootRomStage => true
  | .bootStumpStage => true
  | .updEload _ _ => true
  | .updEloadComplete => true
  | .install _ _ => true
  | .svnraise _ => true
  | .keyrec => true
  | .updMboxGo => true
  | .netrec => true
  | .romrec => true
  | .info _ _ => true
  | .setbaud _ _ _ => true
  | .begin _ _ _ _ _ => true
  | .data _ _ _ _ => true
  | .endImage _ _ => true
  | .run _ _ => true
  | .record _ _ _ => true
  | .bankSupplyWindow _ _ => true
  | .vauxLost => true
  | .ageingMeasure _ _ _ => true
  | .ageingRecord _ => true
  | .wholeMillisecond => true
  | .pl0MasterLost => true
  | .pl0FrameReceived x_frame => wireOk x_frame
  | .pcieLinkChange _ _ _ => true
  | .cellCooled _ => true
  | .canStuckCleared _ => true
  | .iolMessageExchange _ _ _ _ _ => true
  | .vbatLow _ => true
  | .hvRunTimeout => true
  | .stitchRecordExpiry _ => true
  | .standbySelfTestStart _ _ => true
  | .frameTransmitted _ => true

end Sys2Proof
end

