-- ==== Sys2Proof/Certificates/Slice0/Obligations.lean ====
section
/-! DEFINITION. The statements for the provers, family by family. -/

open Sys2Proof Sys2Proof.Machine

/-- For every command c and state s, step of s with c in front of its queue is exec of c on s. On an empty queue a Live hub lets one CCLK
cycle pass: fabric time advances by TIM_RATE (R73), filters, pulse generators and engines run on, and the coincidences of the cycle are
forgotten; in STANDBY only the count of cycles goes on. The idle step is the model's choice (log entry 3). -/
def Obligations.StepRunsFront : Prop :=
  (∀ (c : Instr) (s : State),
        step { s with pending := c :: s.pending } = exec c s) ∧
  (∀ (s : State),
      s.Live → s.pending = [] →
        step s = .next (s.settle s.tick) ∧ s.tick.clk = s.clk + 1 ∧ s.tick.cycle = [] ∧ s.tick.together = 0 ∧
          s.tick.tim.counter = s.tim.counter + s.rd F.TIM_RATE_RATE) ∧
  (∀ (s : State),
      s.voided = false → s.pwr.standby = true → s.pending = [] →
        step s = .next (s.settle { s with clk := s.clk + 1, cycle := [], together := 0 }))

/-- The state after reset has canonical memory and register file, an empty Boom queue and an empty queue of commands. -/
def Obligations.ResetGood : Prop :=
  State.reset.Good ∧ State.reset.pending = []

/-- From every state that meets the invariant, not only those that runs reach: if a step answers a next state, whatever the command in
front of the queue, memory keeps its canonical form, the register file stays canonical, and at most 16 Boom records wait (R419). -/
def Obligations.StepKeepsGood : Prop :=
  ∀ s t : State, s.Good → step s = .next t → t.Good

/-- Whatever the command, a step that answers a next state takes exactly the front command: what waited behind it waits on, in order. -/
def Obligations.QueueFifo : Prop :=
  ∀ s t : State, step s = .next t → t.pending = s.pending.tail

/-- Whatever the command, resets included, what left the hub before a step is a prefix of what has left it after. -/
def Obligations.SentStands : Prop :=
  ∀ s t : State, step s = .next t → s.egress <+: t.egress

/-- A write of another value to an RWB field is taken and voids the guarantee (R36); shown on GLB_IRQ_EN. From then on every command but
POR_N_ASSERT, SYS_RST_N_ASSERT and the read of a register with an RWB field stops with guaranteeVoid, since the spec guarantees nothing of
the hub until the next reset. Such a read returns the RWB fields as they were written, and a free value for the rest. The two resets
complete in every state and end that condition; only where VAUX is lost SYS_RST_N changes nothing. -/
def Obligations.VoidStops : Prop :=
  (∀ (init : Initiator) (data : List Byte) (s : State), s.Live → data.length = 4 →
    leAt (data.map BitVec.toNat) 0 4 / 2 ^ 27 ≠ s.rd ⟨0x1C, 27, 5, 0⟩ →
    ∃ t, exec (.registerWrite init 0x1C data) s = .next t ∧ t.voided = true ∧
      t.rd ⟨0x1C, 27, 5, 0⟩ = leAt (data.map BitVec.toNat) 0 4 / 2 ^ 27) ∧
  (∀ (i : Instr) (s : State), s.voided = true → (∀ a b, i ≠ .porNAssert a b) → (∀ a, i ≠ .sysRstNAssert a) →
    (∀ a off len, i = .clearOnRead a off len → s.voidPlace a off.toNat len = none) → exec i s = .fault .guaranteeVoid) ∧
  (∀ (init : Initiator) (off : BitVec 40) (len : Nat) (r : RRow) (place : Nat) (s : State), s.voided = true →
    s.voidPlace init off.toNat len = some (r, place) →
    exec (.clearOnRead init off len) s = .next (s.settle (s.draw.give [s.voidWord r place]))) ∧
  (∀ (init : Initiator) (s : State), s.voided = true → s.pwr.standby = false → s.rd ⟨0x1C, 27, 5, 0⟩ < 32 →
    ∃ t w, exec (.clearOnRead init 0x1C 4) s = .next t ∧ t.answer = .data [w] ∧ w / 2 ^ 27 = s.rd ⟨0x1C, 27, 5, 0⟩ ∧ t.voided = true) ∧
  (∀ (a b : Fin 4) (s : State), exec (.porNAssert a b) s = .next (s.porReset a b) ∧ (s.porReset a b).voided = false) ∧
  (∀ (a : Fin 4) (s : State), ∃ t, exec (.sysRstNAssert a) s = .next t ∧ (s.pwr.vbat = false → t.voided = false) ∧
    (s.pwr.vbat = true → t = s))

/-- While the main die is without supply, a command that acts on it answers the same state, its place in the queue apart: nothing changes
but that the command ends its cycle. The commands that act on Vigil, the HV die, the supplies or the resets are excepted (outsideMainDie).
That such a command waits for nothing and is lost is the model's reading (log entry 31). -/
def Obligations.StandbyStill : Prop :=
  ∀ (i : Instr) (s : State), s.voided = false → s.pwr.standby = true → outsideMainDie i = false → exec i s = .next (s.settle s)

/-- REGISTER_WRITE of an aligned word to an assigned block that nothing refuses (R30, R32, R65). (1) For every register: the access is
answered without error, the fields take the word and what the write starts happens (regPerform). (2) In a block of the map but outside its
registers nothing changes. (3) For a register that starts nothing of its own and is no half of a pair: every RW field takes its part of
the word, a class A field being left as it is while no Almanac is in force (R64), every other field of the register and every other
register keeps its value, and nothing else of the state changes. RWB fields get the value they hold (R36). (4) An expert write, of a
register that is one class A field, with an Almanac in force: the field takes the word, and a departing value sets DRIFT, ALM_IRQ.DRIFT
and ALM_DRIFT_ADDR (R66). -/
def Obligations.RegisterWriteFields : Prop :=
  (∀ (init : Initiator) (off : BitVec 40) (data : List Byte) (r : RRow) (s : State),
      s.Live → off.toNat % 4 = 0 → data.length = 4 → off.toNat + 4 ≤ 2 ^ 40 → assignedBlock off.toNat = true →
      findRow off.toNat (s.persAt off.toNat) = some r →
      s.writeRefused off.toNat (leAt (data.map BitVec.toNat) 0 4) r = none →
        exec (.registerWrite init off data) s =
          .next (s.settle (s.ack.regPerform (State.srdStart false) init s.self off.toNat (leAt (data.map BitVec.toNat) 0 4) r))) ∧
    (∀ (init : Initiator) (off : BitVec 40) (data : List Byte) (s : State),
      s.Live → off.toNat % 4 = 0 → data.length = 4 → off.toNat + 4 ≤ 2 ^ 40 → assignedBlock off.toNat = true →
      findRow off.toNat (s.persAt off.toNat) = none → exec (.registerWrite init off data) s = .next (s.settle s.ack)) ∧
    (∀ (init : Initiator) (off : BitVec 40) (data : List Byte) (r : RRow) (s : State),
      s.Live → off.toNat % 4 = 0 → data.length = 4 → off.toNat + 4 ≤ 2 ^ 40 → assignedBlock off.toNat = true →
      findRow off.toNat (s.persAt off.toNat) = some r →
      lowHalves.contains r.off = false → lowHalves.contains (r.off - 4) = false → isParam off.toNat = false →
      s.writeRefused off.toNat (leAt (data.map BitVec.toNat) 0 4) r = none →
      (∀ x : State, x.regAction (State.srdStart false) init s.self off.toNat (leAt (data.map BitVec.toNat) 0 4) r = x) →
      (∀ f ∈ r.fields, (f.cls = .a → s.almInForce = false) ∧ ownField r f.lo off.toNat 0 = false ∧
        (f.acc = .rwb → s.rd (f.fld (r.place off.toNat 0 (bankOf init))) = f.of (leAt (data.map BitVec.toNat) 0 4))) →
      (r.fields.map (·.lo)).Nodup → (∀ f ∈ r.fields, f.lo < 32) →
        ∃ l, exec (.registerWrite init off data) s = .next (s.settle { s with regs := l, answer := .done }) ∧
          (∀ f ∈ r.fields, ({ s with regs := l } : State).rd (f.fld (r.place off.toNat 0 (bankOf init))) =
            if f.acc = .rw ∧ f.cls ≠ .a then f.of (leAt (data.map BitVec.toNat) 0 4)
            else s.rd (f.fld (r.place off.toNat 0 (bankOf init)))) ∧
          (∀ g : Fld, (∀ f ∈ r.fields, f.acc = .rw → (f.fld (r.place off.toNat 0 (bankOf init))).key ≠ g.key) →
            ({ s with regs := l } : State).rd g = s.rd g)) ∧
    (∀ (init : Initiator) (off : BitVec 40) (data : List Byte) (r : RRow) (f : FRow) (s : State),
      s.Live → off.toNat % 4 = 0 → data.length = 4 → off.toNat + 4 ≤ 2 ^ 40 → assignedBlock off.toNat = true →
      off.toNat / 0x10000 ≠ 7 → isParam off.toNat = false → findRow off.toNat 0 = some r → r.kind = .plain →
      lowHalves.contains r.off = false → lowHalves.contains (r.off - 4) = false →
      s.writeRefused off.toNat (leAt (data.map BitVec.toNat) 0 4) r = none →
      (∀ x : State, x.regAction (State.srdStart false) init s.self off.toNat (leAt (data.map BitVec.toNat) 0 4) r = x) →
      r.fields = [f] → f.acc = .rw → f.cls = .a → ownField r f.lo off.toNat 0 = false → f.lo < 32 →
      s.almInForce = true → s.marked (.loaded (f.fld off.toNat).key) = false →
        ∃ t, exec (.registerWrite init off data) s = .next t ∧ t.answer = .done ∧ t.mem = s.mem ∧
          t.rd (f.fld off.toNat) = f.of (leAt (data.map BitVec.toNat) 0 4) ∧
          (f.of (leAt (data.map BitVec.toNat) 0 4) ≠ s.almValue (f.fld off.toNat) →
            (f.fld off.toNat).key ∈ t.alm.departing ∧ t.rd F.GLB_HEALTH_DRIFT = 1 ∧ t.rd F.ALM_IRQ_DRIFT = 1 ∧
            t.rd F.ALM_DRIFT_ADDR_VALID = 1 ∧
            (s.rd F.ALM_DRIFT_ADDR_VALID = 0 → t.rd F.ALM_DRIFT_ADDR_OFFSET = off.toNat % 2 ^ F.ALM_DRIFT_ADDR_OFFSET.w)) ∧
          (f.of (leAt (data.map BitVec.toNat) 0 4) = s.almValue (f.fld off.toNat) →
            (f.fld off.toNat).key ∉ t.alm.departing ∧ t.rd F.GLB_HEALTH_DRIFT = s.rd F.GLB_HEALTH_DRIFT ∧
            t.rd F.ALM_IRQ_DRIFT = s.rd F.ALM_IRQ_DRIFT))

/-- A write to region 0 that is not one aligned 32-bit access with four bytes changes no state but the capture of the refusal and the
answer (R30, R47), and a read returns no data. A TLP to BAR0 of another length or with other byte enables is refused with 0x0003, a read
with an error completion; a CMD WRITE of another form is answered with a NAK. That 0x0001 goes before 0x0002 is the model's choice (log
entry 15). -/
def Obligations.RegisterWriteRefused : Prop :=
  (∀ (init : Initiator) (off : BitVec 40) (data : List Byte) (s : State),
      s.Live → off.toNat + data.length ≤ 2 ^ 40 → data.length ≠ 4 ∨ off.toNat % 4 ≠ 0 → s.rd F.GLB_ACC_ERR_CAPT = 0 →
        ∃ (t : State) (code : Nat), exec (.registerWrite init off data) s = .next t ∧ t.answer = .error code ∧
          t.rd F.GLB_ACC_ERR_CAPT = 1 ∧ t.rd F.GLB_ACC_ERR_INIT = initCode init ∧ t.rd F.GLB_ACC_ERR_CODE = code ∧
          code = (if data.length ≠ 4 then 1 else 2) ∧ t.mem = s.mem ∧ t.staged = s.staged ∧
          (∀ g : Fld, g.off ≠ F.GLB_ACC_ERR_CAPT.off → g.off ≠ F.GLB_ACC_ADDR_LO_ADDR.off → g.off ≠ F.GLB_ACC_ADDR_HI_ADDR.off →
            g.lo < 32 → t.rd g = s.rd g)) ∧
  (∀ (init : Initiator) (off : BitVec 40) (len : Nat) (s : State),
      s.Live → off.toNat + len ≤ 2 ^ 40 → len ≠ 4 ∨ off.toNat % 4 ≠ 0 → s.rd F.GLB_ACC_ERR_CAPT = 0 →
        ∃ (t : State) (code : Nat), exec (.clearOnRead init off len) s = .next t ∧ t.answer = .error code ∧
          t.rd F.GLB_ACC_ERR_CAPT = 1 ∧ t.rd F.GLB_ACC_ERR_INIT = initCode init ∧ t.rd F.GLB_ACC_ERR_CODE = code ∧
          code = (if len ≠ 4 then 1 else 2) ∧ t.mem = s.mem ∧ t.staged = s.staged ∧
          (∀ g : Fld, g.off ≠ F.GLB_ACC_ERR_CAPT.off → g.off ≠ F.GLB_ACC_ADDR_LO_ADDR.off → g.off ≠ F.GLB_ACC_ADDR_HI_ADDR.off →
            g.lo < 32 → t.rd g = s.rd g)) ∧
  (∀ (dw : BitVec 24) (dws : BitVec 10) (be : BitVec 4) (tag : BitVec 10) (w : Word) (s : State),
      s.Live → s.rd F.BRG_STATUS_EP = 1 → dws ≠ 1 ∨ be ≠ 0xF →
        exec (.bar0Access dw dws be tag (some w)) s = .next (s.settle (s.refuseReg .bar0 (4 * dw.toNat) 0x0003)) ∧
          exec (.bar0Access dw dws be tag none) s =
            .next (s.settle ((s.refuseReg .bar0 (4 * dw.toNat) 0x0003).emit (.completion tag.toNat cplUr [])))) ∧
  (∀ (f : Frame) (s : State),
      s.Live → f.typ = 5 → cmdOp f = 2 → cmdFits f = true → f.tc ≠ 7 → cmdFa f / 2 ^ 40 % 16 = 0 → cmdBytes f ≠ 4 ∨ cmdFa f % 4 ≠ 0 →
      cmdFa f % 2 ^ 40 + cmdBytes f ≤ 2 ^ 40 →
        exec (.write f) s = .next (s.settle ((s.refuseReg .tc4 (cmdFa f % 2 ^ 40) (if cmdBytes f ≠ 4 then 0x0001 else 0x0002)).sendNak f
          (if cmdBytes f ≠ 4 then 0x0001 else 0x0002))))

/-- CLEAR_ON_READ reads an aligned word of region 0: the answer is the register's word, each RC field reads 0 afterwards, and every other
field, memory and the staging registers are unchanged (R32, R37); outside the registers of an assigned block a word reads 0. SAW_Sn_RXF
gives the oldest word of its FIFO; a measurement (CHK_Fn_MEAS, CRL_Pp_FEC) reads a free value and counts one draw. RESULT_REGISTER_READ of
a completed result sets STALE; of one that has not completed it changes nothing (R41). -/
def Obligations.ReadsOfRegisters : Prop :=
  (∀ (init : Initiator) (off : BitVec 40) (r : RRow) (s : State),
      s.Live → off.toNat % 4 = 0 → assignedBlock off.toNat = true → findRow off.toNat (s.persAt off.toNat) = some r →
      r.off ≠ (F.SAW_Sn_RXF_WORD 0).off → r.off ≠ (F.SAW_Sn_STAMP0_STAMP 0).off → r.kind = .plain → measured off.toNat = false →
      (off.toNat = F.BOM_FIRST_CAPT.off → s.cycle = []) → (r.fields.map (·.lo)).Nodup → (∀ f ∈ r.fields, f.lo < 32) →
        ∃ t, exec (.clearOnRead init off 4) s = .next t ∧
          t.answer = .data [s.regWord off.toNat r (r.place off.toNat (s.persAt off.toNat) (bankOf init))] ∧
          (∀ f ∈ r.fields, f.acc = .rc → t.rd (f.fld (r.place off.toNat (s.persAt off.toNat) (bankOf init))) = 0) ∧
          (∀ g : Fld, (∀ f ∈ r.fields, f.acc = .rc →
            (f.fld (r.place off.toNat (s.persAt off.toNat) (bankOf init))).key ≠ g.key) → t.rd g = s.rd g) ∧
          t.mem = s.mem ∧ t.staged = s.staged) ∧
  (∀ (init : Initiator) (off : BitVec 40) (r : RRow) (s : State),
      s.Live → off.toNat % 4 = 0 → assignedBlock off.toNat = true → isParam off.toNat = false → findRow off.toNat 0 = some r →
      r.off ≠ (F.SAW_Sn_RXF_WORD 0).off → r.off ≠ (F.SAW_Sn_STAMP0_STAMP 0).off → r.kind = .bankedResult ∨ r.kind = .result →
      (∀ f ∈ r.fields, f.acc ≠ .rc) → measured off.toNat = false →
        ∃ t, exec (.resultRegisterRead init off) s = .next t ∧
          t.answer = .data [s.regWord off.toNat r (r.place off.toNat 0 (bankOf init))] ∧
          t.rd (resStale (r.place off.toNat 0 (bankOf init))) =
            (if s.rd (resValid (r.place off.toNat 0 (bankOf init))) ≠ 0 then 1 else s.rd (resStale (r.place off.toNat 0 (bankOf init)))) ∧
          (∀ g : Fld, g.key ≠ (resStale (r.place off.toNat 0 (bankOf init))).key → t.rd g = s.rd g) ∧
          t.mem = s.mem ∧ t.staged = s.staged) ∧
  (∀ (init : Initiator) (off : BitVec 40) (s : State),
      s.Live → off.toNat % 4 = 0 → assignedBlock off.toNat = true →
        exec (.clearOnRead init off 4) s = .next (s.settle (s.regRead init off.toNat)) ∧
          (findRow off.toNat (s.persAt off.toNat) = none → s.regRead init off.toNat = s.give [0])) ∧
  (∀ (init : Initiator) (n : Fin 128) (w : Nat) (l : List Nat) (s : State),
      s.Live → s.marked (.sawSent n) = false → (s.saw n).rx = w :: l →
        exec (.clearOnRead init (BitVec.ofNat 40 (0xC1028 + 0x80 * n.val)) 4) s = .next (s.settle ((s.setSaw n { s.saw n with rx := l }).give [w]))) ∧
  (∀ (init : Initiator) (n : Fin 16) (s : State),
      s.Live → s.hvLink = true → s.feedState n ≠ fBypass →
        exec (.clearOnRead init (BitVec.ofNat 40 (0x90118 + 0x20 * n.val)) 4) s =
          .next (s.settle (s.draw.give [s.regWord (0x90118 + 0x20 * n.val) ((findRow (0x90118 + 0x20 * n.val) 0).getD ⟨0, 1, 0, 1, 0, .plain, []⟩)
            (0x90118 + 0x20 * n.val)])) ∧
          bits (s.regWord (0x90118 + 0x20 * n.val) ((findRow (0x90118 + 0x20 * n.val) 0).getD ⟨0, 1, 0, 1, 0, .plain, []⟩)
            (0x90118 + 0x20 * n.val)) 0 32 = s.measure n s.free % 2 ^ 32)

/-- The pairs of R33 that one 64-bit value fills. The write of the low half is only staged, in the pair's own register, whoever writes: a
later low half replaces it. The write of the high half loads the staged low half as it stands and the written high half together, pair by
pair: the weights of a tally, the masks of a Sluice term (staged as they are while HOLD = 1, R137), TCMP of a sawyer, the base of a
window, address and data of an SRD bank, the data of BOM_FWREC; those of class A take effect with an Almanac in force (R64). RWB fields
keep the value they hold (R36). That a banked pair is a pair in each bank is the model's choice (log entry 15). -/
def Obligations.PairWrites : Prop :=
  (∀ (init : Initiator) (off : BitVec 40) (w : Word) (r : RRow) (s : State),
      s.Live → findRow off.toNat 0 = some r → off.toNat % 4 = 0 → assignedBlock off.toNat = true → isParam off.toNat = false →
      lowHalves.contains r.off = true → s.writeRefused off.toNat w.toNat r = none →
      (∀ f ∈ r.fields, f.acc = .rwb → s.rd (f.fld (r.place off.toNat 0 (bankOf init))) = f.of w.toNat) →
        ∃ t, exec (.write64Lo init off w) s = .next t ∧ t.answer = .done ∧ t.voided = false ∧
          t.staged.getD (r.place off.toNat 0 (bankOf init)) 0 = w.toNat ∧ t.regs = s.regs ∧ t.mem = s.mem) ∧
  (∀ (init : Initiator) (w : Word) (s : State),
      s.Live →
        ∃ t, exec (.write64Hi init 0x1A0050 w) s = .next t ∧ t.answer = .done ∧
          t.rd F.BOM_FWREC_DATA_LO_DATA = s.staged.getD 0x1A004C 0 % 2 ^ 32 ∧ t.rd F.BOM_FWREC_DATA_HI_DATA = w.toNat ∧
          (∀ g : Fld, g.key ≠ F.BOM_FWREC_DATA_LO_DATA.key → g.key ≠ F.BOM_FWREC_DATA_HI_DATA.key → t.rd g = s.rd g) ∧
          t.mem = s.mem ∧ t.staged = s.staged) ∧
  (∀ (init : Initiator) (n : Fin 128) (w : Word) (s : State),
      s.Live →
        ∃ t, exec (.write64Hi init (BitVec.ofNat 40 (0xC104C + 0x80 * n.val)) w) s = .next t ∧ t.answer = .done ∧
          t.rd (F.SAW_Sn_TCMP_LO_TCMP n) = s.staged.getD (0xC1048 + 0x80 * n.val) 0 % 2 ^ 32 ∧ t.rd (F.SAW_Sn_TCMP_HI_TCMP n) = w.toNat ∧
          (∀ g : Fld, g.key ≠ (F.SAW_Sn_TCMP_LO_TCMP n).key → g.key ≠ (F.SAW_Sn_TCMP_HI_TCMP n).key → t.rd g = s.rd g) ∧
          t.mem = s.mem ∧ t.staged = s.staged) ∧
  (∀ (init : Initiator) (w : Word) (s : State),
      s.Live →
        ∃ t, exec (.write64Hi init 0x120308 w) s = .next t ∧ t.answer = .done ∧
          t.rd (F.BRG_SRD_ADDR_LO_ADDR (bankOf init)) = s.staged.getD (0x120304 + 0x10000000 * bankOf init) 0 % 2 ^ 32 ∧ t.rd (F.BRG_SRD_ADDR_HI_ADDR (bankOf init)) = w.toNat ∧
          (∀ g : Fld, g.key ≠ (F.BRG_SRD_ADDR_LO_ADDR (bankOf init)).key → g.key ≠ (F.BRG_SRD_ADDR_HI_ADDR (bankOf init)).key → t.rd g = s.rd g) ∧
          t.mem = s.mem ∧ t.staged = s.staged) ∧
  (∀ (init : Initiator) (w : Word) (s : State),
      s.Live →
        ∃ t, exec (.write64Hi init 0x120310 w) s = .next t ∧ t.answer = .done ∧
          t.rd (F.BRG_SRD_WDATA_LO_WDATA (bankOf init)) = s.staged.getD (0x12030C + 0x10000000 * bankOf init) 0 % 2 ^ 32 ∧ t.rd (F.BRG_SRD_WDATA_HI_WDATA (bankOf init)) = w.toNat ∧
          (∀ g : Fld, g.key ≠ (F.BRG_SRD_WDATA_LO_WDATA (bankOf init)).key → g.key ≠ (F.BRG_SRD_WDATA_HI_WDATA (bankOf init)).key → t.rd g = s.rd g) ∧
          t.mem = s.mem ∧ t.staged = s.staged) ∧
  (∀ (init : Initiator) (n : Fin 16) (w : Word) (s : State),
      s.Live → s.rd ⟨0x120204 + 0x10 * n.val, 24, 8, 0⟩ = w.toNat / 2 ^ 24 →
        ∃ t, exec (.write64Hi init (BitVec.ofNat 40 (0x120204 + 0x10 * n.val)) w) s = .next t ∧ t.answer = .done ∧ t.voided = false ∧
          t.rd (F.BRG_Wn_BASE_LO_BASE n) = s.staged.getD (0x120200 + 0x10 * n.val) 0 % 2 ^ 32 / 2 ^ 12 ∧
          t.rd (F.BRG_Wn_BASE_HI_BASE n) = w.toNat % 2 ^ 24 ∧
          (∀ g : Fld, g.key ≠ (F.BRG_Wn_BASE_LO_BASE n).key → g.key ≠ (F.BRG_Wn_BASE_HI_BASE n).key → t.rd g = s.rd g) ∧
          t.mem = s.mem ∧ t.staged = s.staged) ∧
  (∀ (init : Initiator) (n : Fin 32) (w : Word) (s : State),
      s.Live → s.almInForce = true → s.cycle = [] →
        ∃ t, exec (.write64Hi init (BitVec.ofNat 40 (0x50120 + 0x40 * n.val)) w) s = .next t ∧ t.answer = .done ∧
          t.rd (F.TLY_Sn_WGT_LO_WGT n) = s.staged.getD (0x5011C + 0x40 * n.val) 0 % 2 ^ 32 ∧ t.rd (F.TLY_Sn_WGT_HI_WGT n) = w.toNat ∧
          (∀ g : Fld, g.key ≠ (F.TLY_Sn_WGT_LO_WGT n).key → g.key ≠ (F.TLY_Sn_WGT_HI_WGT n).key → g.key ≠ F.GLB_HEALTH_DRIFT.key → g.key ≠ F.ALM_IRQ_DRIFT.key →
            g.key ≠ F.ALM_DRIFT_ADDR_VALID.key → g.key ≠ F.ALM_DRIFT_ADDR_OFFSET.key → t.rd g = s.rd g) ∧
          t.mem = s.mem ∧ t.staged = s.staged) ∧
  (∀ (init : Initiator) (n : Fin 128) (w : Word) (s : State),
      s.Live → s.almInForce = true → s.cycle = [] → s.rd F.SLC_CTL_HOLD = 0 → (setBits w.toNat 32).any s.fastOut = false →
        ∃ t, exec (.write64Hi init (BitVec.ofNat 40 (0x71004 + 0x10 * n.val)) w) s = .next t ∧ t.answer = .done ∧
          t.rd (F.SLC_Tt_TRUE_LO_MASK n) = s.staged.getD (0x71000 + 0x10 * n.val) 0 % 2 ^ 32 ∧ t.rd (F.SLC_Tt_TRUE_HI_MASK n) = w.toNat ∧
          (∀ g : Fld, g.key ≠ (F.SLC_Tt_TRUE_LO_MASK n).key → g.key ≠ (F.SLC_Tt_TRUE_HI_MASK n).key → g.key ≠ F.GLB_HEALTH_DRIFT.key → g.key ≠ F.ALM_IRQ_DRIFT.key →
            g.key ≠ F.ALM_DRIFT_ADDR_VALID.key → g.key ≠ F.ALM_DRIFT_ADDR_OFFSET.key → t.rd g = s.rd g) ∧
          t.mem = s.mem ∧ t.staged = s.staged) ∧
  (∀ (init : Initiator) (n : Fin 128) (w : Word) (s : State),
      s.Live → s.almInForce = true → s.cycle = [] → s.rd F.SLC_CTL_HOLD = 0 → (setBits w.toNat 32).any s.fastOut = false →
        ∃ t, exec (.write64Hi init (BitVec.ofNat 40 (0x7100C + 0x10 * n.val)) w) s = .next t ∧ t.answer = .done ∧
          t.rd (F.SLC_Tt_COMP_LO_MASK n) = s.staged.getD (0x71008 + 0x10 * n.val) 0 % 2 ^ 32 ∧ t.rd (F.SLC_Tt_COMP_HI_MASK n) = w.toNat ∧
          (∀ g : Fld, g.key ≠ (F.SLC_Tt_COMP_LO_MASK n).key → g.key ≠ (F.SLC_Tt_COMP_HI_MASK n).key → g.key ≠ F.GLB_HEALTH_DRIFT.key → g.key ≠ F.ALM_IRQ_DRIFT.key →
            g.key ≠ F.ALM_DRIFT_ADDR_VALID.key → g.key ≠ F.ALM_DRIFT_ADDR_OFFSET.key → t.rd g = s.rd g) ∧
          t.mem = s.mem ∧ t.staged = s.staged) ∧
  (∀ (init : Initiator) (n : Fin 128) (w : Word) (s : State),
      s.Live → s.almInForce = true → s.rd F.SLC_CTL_HOLD = 1 → (setBits w.toNat 32).any s.fastOut = false →
        ∃ t, exec (.write64Hi init (BitVec.ofNat 40 (0x71004 + 0x10 * n.val)) w) s = .next t ∧ t.answer = .done ∧ t.regs = s.regs ∧
          t.slc.staged.get? (F.SLC_Tt_TRUE_LO_MASK n).key = some (0, s.staged.getD (0x71000 + 0x10 * n.val) 0 % 2 ^ 32) ∧
          t.slc.staged.get? (F.SLC_Tt_TRUE_HI_MASK n).key = some (0, w.toNat) ∧ t.mem = s.mem ∧ t.staged = s.staged) ∧
  (∀ (init other : Initiator) (n : Fin 128) (w1 w2 w3 : Word) (s : State),
      s.Live →
        ∃ t u v, exec (.write64Lo init (BitVec.ofNat 40 (0xC1048 + 0x80 * n.val)) w1) s = .next t ∧
          exec (.write64Lo other (BitVec.ofNat 40 (0xC1048 + 0x80 * n.val)) w2) t = .next u ∧
          exec (.write64Hi init (BitVec.ofNat 40 (0xC104C + 0x80 * n.val)) w3) u = .next v ∧
          v.rd (F.SAW_Sn_TCMP_LO_TCMP n) = w2.toNat ∧ v.rd (F.SAW_Sn_TCMP_HI_TCMP n) = w3.toNat)

/-- DRIFT_ACK clears DRIFT and ALM_DRIFT_ADDR.VALID and leaves the departing values and all else as they are (R67); a departing write of
the same cycle wins (R46). PAIR1_RELEASE sets GLB_CTL.PAIR1_REL and changes no other field but the reserved bits beside it (R15). A well-
formed BAR0 write is the register write of the same word, and a well-formed read completes with the word (R315). -/
def Obligations.HubControls : Prop :=
  (∀ (s : State),
      s.Live → s.marked .departed = false →
        exec .driftAck s = .next (s.settle (((s.wr F.GLB_HEALTH_DRIFT 0).wr F.ALM_DRIFT_ADDR_VALID 0).ack))) ∧
  (∀ (s : State),
      s.Live → s.marked .departed = true →
        exec .driftAck s = .next (s.settle s.ack)) ∧
  (∀ (init : Initiator) (s : State),
      s.Live →
        ∃ t, exec (.pair1Release init) s = .next t ∧ t.rd F.GLB_CTL_PAIR1_REL = 1 ∧ t.answer = .done ∧ t.mem = s.mem ∧ t.staged = s.staged ∧
          (∀ g : Fld, g.key ≠ F.GLB_CTL_PAIR1_REL.key → g.key ≠ F.GLB_CTL_PAIR1_REL.key + 1 → t.rd g = s.rd g)) ∧
  (∀ (init : Initiator) (s : State),
      s.Live → s.rd ⟨F.GLB_CTL_PAIR1_REL.off, 1, 31, 0⟩ = 0 →
        exec (.pair1Release init) s = .next (s.settle (s.ack.raise F.GLB_CTL_PAIR1_REL))) ∧
  (∀ (dw : BitVec 24) (tag : BitVec 10) (w : Word) (s : State),
      s.Live → s.on F.BRG_STATUS_EP = true →
        exec (.bar0Access dw 1 0xF tag (some w)) s = .next (s.settle (s.wordWrite .bar0 (4 * dw.toNat) w.toNat))) ∧
  (∀ (dw : BitVec 24) (tag : BitVec 10) (l : List Nat) (s : State),
      s.Live → s.on F.BRG_STATUS_EP = true → (s.regRead .bar0 (4 * dw.toNat)).answer = .data l →
        exec (.bar0Access dw 1 0xF tag none) s =
          .next (s.settle ((s.regRead .bar0 (4 * dw.toNat)).emit (.completion tag.toNat cplOk (leBytes 4 (l.headD 0))))))

/-- POR_N clears all main-die state but what fuses, Vigil, the HV die and RSEQ keep (keptKey, R438): every other field reads its reset
value but the sampled straps and the reason, every engine is at rest, and of the memories only flash stands. Fused fields and what Vigil
keeps hold their values, RSEQ advances, and with the HV link down the lines, banks and feeds do too. SYS_RST_N and SYSRST keep the Boom,
BOM_WPTR, GLB_POS and Vigil's enables as well. STANDBY_WAKE ends STANDBY as such a reset with the reason of its source, once the wake
timer has run out, the latch is set or the pin is low (R437). PERST_N resets the endpoint and the window enables and discards the prefetch
slots (R313, R326). That a reset begun by a command also samples the straps again is log entry 4. -/
def Obligations.ResetCommands : Prop :=
  (∀ (stnPos bootSrc : Fin 4) (s : State),
        ∃ t, exec (.porNAssert stnPos bootSrc) s = .next t ∧ t.voided = false ∧ t.pwr = {} ∧ t.rd F.UPD_BOOT_REASON = 0 ∧
          t.rd F.UPD_BOOT_BOOT_SRC = bootSrc.val ∧ t.rd F.GLB_POS_STATION = 0 ∧ t.rd F.GLB_POS_HUBPOS = stnPos.val ∧
          t.bom = {} ∧ t.tim = {} ∧ t.tly = [] ∧ t.queries = [] ∧ t.sch = {} ∧ t.slc = {} ∧ t.swc = {} ∧ t.ring = {} ∧ t.slices = [] ∧
          t.cans = [] ∧ t.saws = [] ∧ t.reloads = [] ∧ t.alm = {} ∧ t.stt = {} ∧ t.brg = {} ∧ t.dmx = {} ∧ t.upd = {} ∧ t.staged = [] ∧
          (∀ g : Fld, keptKey true g.key = false → g.key ≠ F.UPD_BOOT_REASON.key → g.key ≠ F.GLB_POS_STATION.key → t.rd g = g.rst) ∧
          (∀ g : Fld, (fusedKey g.key ∨ vigilKey g.key) → g.key ≠ F.UPD_BOOT_REASON.key → t.rd g = s.rd g) ∧
          (s.hvLink = false → ∀ g : Fld, hvDieKey g.key → t.rd g = s.rd g) ∧
          (∀ n < 64, t.rd (F.PWR_Sn_STAT_RSEQ n) = (s.rd (F.PWR_Sn_STAT_RSEQ n) + 1) % 2 ^ (F.PWR_Sn_STAT_RSEQ n).w) ∧
          (∀ a : Nat, Mem.get t.mem a = if a / 2 ^ 40 = flashRegion then Mem.get s.mem a else 0)) ∧
  (∀ (bootSrc : Fin 4) (s : State),
      s.pwr.vbat = false →
        ∃ t, exec (.sysRstNAssert bootSrc) s = .next t ∧ t.voided = false ∧ t.pwr = {} ∧
          t.rd F.UPD_BOOT_REASON = (if s.pwr.standby then 5 else 1) ∧ t.rd F.UPD_BOOT_BOOT_SRC = bootSrc.val ∧
          t.bom = {} ∧ t.tim = {} ∧ t.tly = [] ∧ t.queries = [] ∧ t.sch = {} ∧ t.slc = {} ∧ t.swc = {} ∧ t.ring = {} ∧ t.slices = [] ∧
          t.cans = [] ∧ t.saws = [] ∧ t.reloads = [] ∧ t.alm = {} ∧ t.stt = {} ∧ t.brg = {} ∧ t.dmx = {} ∧ t.upd = {} ∧ t.staged = [] ∧
          (∀ g : Fld, keptKey false g.key = false → g.key ≠ F.UPD_BOOT_REASON.key → t.rd g = g.rst) ∧
          (∀ g : Fld, (fusedKey g.key ∨ vigilKey g.key ∨ softKey g.key) → g.key ≠ F.UPD_BOOT_REASON.key → t.rd g = s.rd g) ∧
          (s.hvLink = false → ∀ g : Fld, hvDieKey g.key → t.rd g = s.rd g) ∧
          (∀ n < 64, t.rd (F.PWR_Sn_STAT_RSEQ n) = (s.rd (F.PWR_Sn_STAT_RSEQ n) + 1) % 2 ^ (F.PWR_Sn_STAT_RSEQ n).w) ∧
          (∀ a : Nat, Mem.get t.mem a = if a / 2 ^ 40 = flashRegion ∨ a / 2 ^ 40 = 5 then Mem.get s.mem a else 0)) ∧
  (∀ (bootSrc : Fin 4) (s : State),
      s.Live →
        ∃ t, exec (.sysrst bootSrc) s = .next t ∧ t.voided = false ∧ t.pwr = {} ∧
          t.rd F.UPD_BOOT_REASON = 2 ∧ t.rd F.UPD_BOOT_BOOT_SRC = bootSrc.val ∧
          t.bom = {} ∧ t.tim = {} ∧ t.tly = [] ∧ t.queries = [] ∧ t.sch = {} ∧ t.slc = {} ∧ t.swc = {} ∧ t.ring = {} ∧ t.slices = [] ∧
          t.cans = [] ∧ t.saws = [] ∧ t.reloads = [] ∧ t.alm = {} ∧ t.stt = {} ∧ t.brg = {} ∧ t.dmx = {} ∧ t.upd = {} ∧ t.staged = [] ∧
          (∀ g : Fld, keptKey false g.key = false → g.key ≠ F.UPD_BOOT_REASON.key → t.rd g = g.rst) ∧
          (∀ g : Fld, (fusedKey g.key ∨ vigilKey g.key ∨ softKey g.key) → g.key ≠ F.UPD_BOOT_REASON.key → t.rd g = s.rd g) ∧
          (s.hvLink = false → ∀ g : Fld, hvDieKey g.key → t.rd g = s.rd g) ∧
          (∀ n < 64, t.rd (F.PWR_Sn_STAT_RSEQ n) = (s.rd (F.PWR_Sn_STAT_RSEQ n) + 1) % 2 ^ (F.PWR_Sn_STAT_RSEQ n).w) ∧
          (∀ a : Nat, Mem.get t.mem a = if a / 2 ^ 40 = flashRegion ∨ a / 2 ^ 40 = 5 then Mem.get s.mem a else 0)) ∧
  (∀ (bootSrc : Fin 4) (s : State),
      s.pwr.vbat = true →
        exec (.sysRstNAssert bootSrc) s = .next s) ∧
  (∀ (source bootSrc stnPos : Fin 4) (s : State),
      s.voided = false → s.pwr.standby = true → s.pwr.vbat = false →
      source = 0 ∧ s.wakeTimer = true ∨ source = 1 ∧ s.tlatch = true ∨ source = 2 →
        ∃ t, exec (.standbyWake source bootSrc stnPos) s = .next t ∧ t.pwr = {} ∧ t.rd F.UPD_BOOT_REASON = 3 + source.val ∧
          t.rd F.UPD_BOOT_BOOT_SRC = bootSrc.val ∧ t.alm = {} ∧ t.saws = [] ∧
          (∀ g : Fld, keptKey false g.key = false → g.key ≠ F.UPD_BOOT_REASON.key → t.rd g = g.rst) ∧
          (∀ a : Nat, Mem.get t.mem a = if a / 2 ^ 40 = flashRegion ∨ a / 2 ^ 40 = 5 then Mem.get s.mem a else 0)) ∧
  (∀ (bootSrc stnPos : Fin 4) (s : State),
      s.voided = false → s.pwr.standby = true → s.pwr.vbat = false →
        exec (.standbyWake 3 bootSrc stnPos) s = .next (s.settle (s.porReset stnPos bootSrc))) ∧
  (∀ (source bootSrc stnPos : Fin 4) (s : State),
      s.voided = false →
      s.pwr.standby = false ∨ s.pwr.vbat = true ∨ source = 0 ∧ s.wakeTimer = false ∨ source = 1 ∧ s.tlatch = false →
        exec (.standbyWake source bootSrc stnPos) s = .next (s.settle s)) ∧
  (∀ (s : State),
      s.Live → s.rd F.BRG_STATUS_EP = 0 →
        exec .perstNAssert s = .next (s.settle s)) ∧
  (∀ (s : State),
      s.Live → s.rd F.BRG_STATUS_EP ≠ 0 →
        ∃ t, exec .perstNAssert s = .next t ∧ t.brg.slots = [] ∧ t.brg.hostReads = [] ∧ t.brg.hostAtomics = [] ∧ t.rd F.BRG_STATUS_DL_UP = 0 ∧
          t.rd F.BRG_STATUS_SPEED = 0 ∧ t.rd F.BRG_STATUS_WIDTH = 0 ∧ t.rd F.BRG_IRQ_PERST = 1 ∧ t.mem = s.mem ∧
          (∀ n < 16, t.rd (F.BRG_Wn_CFG_EN n) = 0) ∧
          (∀ g : Fld, g.off ≠ F.BRG_STATUS_EP.off → g.off ≠ F.BRG_IRQ_PERST.off → (∀ n < 16, g.key ≠ (F.BRG_Wn_CFG_EN n).key) → g.lo < 32 →
            t.rd g = s.rd g))

/-- PCIE_LINK_CHANGE changes BRG_STATUS and sets BRG_IRQ.LINK when DL_UP changes; a hub without an endpoint has no such link. VBAT_LOW
stores the measurement and sets VBATLOW once below 2.2 V. VAUX_LOST resets the main die and leaves Vigil on VBAT alone, with every key
slot empty. BANK_SUPPLY_WINDOW changes the bank's status alone. AGEING_MEASURE keeps the reading and GLB_HEALTH.AGEING, and a reading that
crosses a value queues a Boom record; AGEING_RECORD queues the latest reading's record. -/
def Obligations.LinksAndSupplies : Prop :=
  (∀ (up : Bool) (speed width : Fin 8) (s : State),
      s.Live → s.on F.BRG_STATUS_EP = true → s.on F.BRG_STATUS_DL_UP = up →
        exec (.pcieLinkChange up speed width) s =
          .next (s.settle (((s.wrB F.BRG_STATUS_DL_UP up).wr F.BRG_STATUS_SPEED (if up then speed else 0)).wr F.BRG_STATUS_WIDTH
            (if up then width else 0)))) ∧
  (∀ (up : Bool) (speed width : Fin 8) (s : State),
      s.Live → s.on F.BRG_STATUS_EP = true → s.on F.BRG_STATUS_DL_UP ≠ up →
        exec (.pcieLinkChange up speed width) s =
          .next (s.settle ((((s.wrB F.BRG_STATUS_DL_UP up).wr F.BRG_STATUS_SPEED (if up then speed else 0)).wr F.BRG_STATUS_WIDTH
            (if up then width else 0)).raise F.BRG_IRQ_LINK))) ∧
  (∀ (up : Bool) (speed width : Fin 8) (s : State),
      s.Live → s.on F.BRG_STATUS_EP = false →
        exec (.pcieLinkChange up speed width) s = .next (s.settle s)) ∧
  (∀ (mv : BitVec 16) (s : State),
      s.voided = false → 2200 ≤ mv.toNat ∨ s.rd F.VGL_STATUS_VBAT_LOW ≠ 0 →
        exec (.vbatLow mv) s =
          .next (s.settle ((s.wr F.VGL_VBAT_MV mv.toNat).wrB F.VGL_STATUS_VBAT_LOW (decide (mv.toNat < 2200))))) ∧
  (∀ (mv : BitVec 16) (s : State),
      s.voided = false → mv.toNat < 2200 → s.rd F.VGL_STATUS_VBAT_LOW = 0 →
        exec (.vbatLow mv) s =
          .next (s.settle (((s.wr F.VGL_VBAT_MV mv.toNat).wr F.VGL_STATUS_VBAT_LOW 1).raise F.VGL_IRQ_VBATLOW))) ∧
  (∀ (s : State),
      s.voided = false →
        ∃ t, exec .vauxLost s = .next t ∧ t.pwr.standby = true ∧ t.pwr.vbat = true ∧ t.alm = {} ∧ t.slices = [] ∧
          (∀ g : Fld, keptKey true g.key = false → g.key ≠ F.UPD_BOOT_REASON.key → t.rd g = g.rst) ∧
          (∀ n < 256, t.rd (F.KEY_Sn_INFO_VALID n) = 0) ∧
          (∀ a : Nat, Mem.get t.mem a = if a / 2 ^ 40 = flashRegion then Mem.get s.mem a else 0)) ∧
  (∀ (inside : Bool) (s : State),
      s.voided = false →
        exec (.bankSupplyWindow 0 inside) s =
            .next (s.settle { s.wrB F.PSL_BANK_A_OK inside with banksOut := setBit s.banksOut 0 (!inside) }) ∧
          exec (.bankSupplyWindow 1 inside) s =
            .next (s.settle { s.wrB F.PSL_BANK_B_OK inside with banksOut := setBit s.banksOut 1 (!inside) })) ∧
  (∀ (m : Fin 3) (place : Fin 8) (v : BitVec 16) (s : State),
      s.Live →
      s.ageing.get? m = some ⟨v.toNat, if m = 2 then 0 else place, ageBeyond m v.toNat (ageWarn m), ageBeyond m v.toNat (ageLimit m)⟩ →
        ∃ t, exec (.ageingMeasure m place v) s = .next t ∧ t.mem = s.mem ∧ t.bom = s.bom ∧
          t.ageing.get? m = some ⟨v.toNat, if m = 2 then 0 else place, ageBeyond m v.toNat (ageWarn m), ageBeyond m v.toNat (ageLimit m)⟩ ∧
          t.rd F.GLB_HEALTH_AGEING = b2n (t.ageing.any (fun p => p.2.warn)) ∧
          (∀ g : Fld, g.key ≠ F.GLB_HEALTH_AGEING.key → t.rd g = s.rd g)) ∧
  (∀ (m : Fin 3) (r : AgeReading) (s : State),
      s.Live → s.ageing.get? m = some r → s.bom.queue.length < 16 → s.cycle = [] →
        exec (.ageingRecord m) s = .next (s.settle (State.mark { s with bom := { s.bom with queue := s.bom.queue ++
          [{ code := 0, kind := 2, unit := m.val, writer := 0x01,
             data := r.value + ageWarn m * 2 ^ 16 + r.place * 2 ^ 32 + (b2n r.warn + 2 * b2n r.limit) * 2 ^ 40 }] } } .recordQueued))) ∧
  (∀ (m : Fin 3) (s : State),
      s.Live → s.ageing.get? m = none →
        exec (.ageingRecord m) s = .next (s.settle s)) ∧
  (∀ (m : Fin 3) (place : Fin 8) (v : BitVec 16) (s : State),
      s.Live → s.ageing.get? m = none → ageBeyond m v.toNat (ageWarn m) = true → s.cycle = [] → s.bom.queue.length < 16 →
        ∃ t, exec (.ageingMeasure m place v) s = .next t ∧ t.rd F.GLB_HEALTH_AGEING = 1 ∧
          t.bom.queue = s.bom.queue ++ [{ code := 0, kind := 2, unit := m.val, writer := 0x01, data := v.toNat + ageWarn m * 2 ^ 16 +
            (if m = 2 then 0 else place.val) * 2 ^ 32 + (1 + 2 * b2n (ageBeyond m v.toNat (ageLimit m))) * 2 ^ 40 }])

/-- While the loader is idle, a word written to ALM_STAGE_DATA is stored at 4·PTR of the staging RAM and PTR advances; beyond the RAM it
is ignored with STAGE_OVR. ALM_STAGE_PTR takes values up to 0x20000. CLR_STAGE clears the staging RAM and PTR and no other memory. While
the loader works on an image, these writes set WR_BUSY and do nothing else. -/
def Obligations.StagingCommands : Prop :=
  (∀ (data : Word) (s : State),
      s.Live → s.rd F.ALM_STATUS_STATE < 2 → s.rd F.ALM_STAGE_PTR_PTR < 0x20000 →
        exec (.almStageDataWrite data) s = .next (s.settle (((s.store stagingRegion (4 * s.rd F.ALM_STAGE_PTR_PTR)
          (leBytes 4 data.toNat)).wr F.ALM_STAGE_PTR_PTR (s.rd F.ALM_STAGE_PTR_PTR + 1)).ack))) ∧
  (∀ (data : Word) (s : State),
      s.Live → s.rd F.ALM_STATUS_STATE < 2 → 0x20000 ≤ s.rd F.ALM_STAGE_PTR_PTR →
        exec (.almStageDataWrite data) s = .next (s.settle ((s.raise F.ALM_IRQ_STAGE_OVR).ack))) ∧
  (∀ (data : Word) (s : State),
      s.Live → 2 ≤ s.rd F.ALM_STATUS_STATE →
        exec (.almStageDataWrite data) s = .next (s.settle ((s.raise F.ALM_IRQ_WR_BUSY).ack)) ∧
          exec .clrStage s = .next (s.settle ((s.raise F.ALM_IRQ_WR_BUSY).ack)) ∧
          exec .almanacEnable s = .next (s.settle ((s.raise F.ALM_IRQ_WR_BUSY).ack))) ∧
  (∀ (ptr : BitVec 18) (s : State),
      s.Live →
        exec (.almStagePtrWrite ptr) s = .next (s.settle
          (if 0x20000 < ptr.toNat then s.raise F.ALM_IRQ_STAGE_OVR else s.wr F.ALM_STAGE_PTR_PTR ptr.toNat).ack)) ∧
  (∀ (s : State),
      s.Live → s.rd F.ALM_STATUS_STATE < 2 →
        ∃ t, exec .clrStage s = .next t ∧ t.rd F.ALM_STAGE_PTR_PTR = 0 ∧ t.answer = .done ∧
          (∀ a : Nat, Mem.get t.mem a = if a / 2 ^ 40 = stagingRegion then 0 else Mem.get s.mem a) ∧
          (∀ g : Fld, g.key ≠ F.ALM_STAGE_PTR_PTR.key → t.rd g = s.rd g))

/-- ENABLE takes the hub's own state for the check (R60). The end of the check refuses the image and leaves the structure in force (R58),
or takes it: into APPLYING with no Almanac in force, into PENDING while a harvest runs; with none running it is tested again at once
(R61), and refused or taken into APPLYING. That a harvest runs on an admitted hub with HV_RUN = 1 is the model's reading (log entry 25).
CANCEL withdraws a PENDING image with 0x0148 and leaves any other state as it is. With application the new structure, its version, its
hash and ALM_OK are in force, and after a full one no departure is left (R68). -/
def Obligations.AlmanacLoading : Prop :=
  (∀ (s : State),
      s.Live → s.rd F.ALM_STATUS_STATE < 2 →
        ∃ t, exec .almanacEnable s = .next t ∧ t.alm = { s.alm with checking := some s.almCheck } ∧ t.rd F.ALM_STATUS_STATE = 2 ∧
          t.rd F.ALM_STATUS_SEQ = (s.rd F.ALM_STATUS_SEQ + 1) % 2 ^ F.ALM_STATUS_SEQ.w ∧ t.rd F.ALM_STATUS_ACCEPTED = 0 ∧
          t.rd F.ALM_STATUS_CODE = 0 ∧ t.rd F.ALM_ERR_SECT_SECT = 0 ∧ t.rd F.ALM_ERR_OFF_OFF = 0 ∧ t.answer = .done ∧ t.mem = s.mem ∧
          (∀ g : Fld, g.off ≠ F.ALM_STATUS_STATE.off → g.off ≠ F.ALM_ERR_SECT_SECT.off → g.off ≠ F.ALM_ERR_OFF_OFF.off → g.lo < 32 →
            t.rd g = s.rd g)) ∧
  (∀ (code sect off : Nat) (s : State),
      s.Live → s.alm.checking = some (.refused (some code) (some sect) (some off)) →
        ∃ t, exec .almanacCheckDone s = .next t ∧ t.alm = { s.alm with checking := none, coming := none, switched := false } ∧
          t.rd F.ALM_STATUS_STATE = (if s.rd F.GLB_HEALTH_ALM_OK ≠ 0 then 1 else 0) ∧ t.rd F.ALM_STATUS_CODE = code % 2 ^ 16 ∧
          t.rd F.ALM_STATUS_ACCEPTED = 0 ∧ t.rd F.ALM_IRQ_DONE = 1 ∧ t.rd F.ALM_IRQ_REFUSED = 1 ∧ t.mem = s.mem ∧
          t.rd F.ALM_ERR_SECT_SECT = sect % 2 ^ F.ALM_ERR_SECT_SECT.w ∧ t.rd F.ALM_ERR_OFF_OFF = off % 2 ^ F.ALM_ERR_OFF_OFF.w ∧
          (∀ g : Fld, g.off ≠ F.ALM_STATUS_STATE.off → g.off ≠ F.ALM_IRQ_DONE.off → g.off ≠ F.ALM_ERR_SECT_SECT.off → g.off ≠ F.ALM_ERR_OFF_OFF.off →
            g.lo < 32 → t.rd g = s.rd g)) ∧
  (∀ (i : Image) (s : State),
      s.Live → s.alm.checking = some (.passed i) → s.rd F.GLB_HEALTH_ALM_OK = 0 →
        ∃ t, exec .almanacCheckDone s = .next t ∧ t.alm = { s.alm with checking := none, coming := some i, switched := false } ∧
          t.rd F.ALM_STATUS_STATE = 4 ∧ t.rd F.ALM_STATUS_ACCEPTED = 1 ∧ t.rd F.ALM_IRQ_DONE = 1 ∧ t.mem = s.mem) ∧
  (∀ (i : Image) (s : State),
      s.Live → s.alm.checking = some (.passed i) → s.rd F.GLB_HEALTH_ALM_OK ≠ 0 → s.harvestRuns = true →
      s.restarts i = false ∨ s.inService = true →
        ∃ t, exec .almanacCheckDone s = .next t ∧ t.alm = { s.alm with checking := none, coming := some i, switched := false } ∧
          t.rd F.ALM_STATUS_STATE = 3 ∧ t.rd F.ALM_STATUS_ACCEPTED = 1 ∧ t.rd F.ALM_IRQ_DONE = 1 ∧ t.mem = s.mem) ∧
  (∀ (i : Image) (s : State),
      s.Live → s.alm.checking = some (.passed i) → s.rd F.GLB_HEALTH_ALM_OK ≠ 0 →
      s.harvestRuns = false ∨ s.restarts i = true ∧ s.inService = false → s.retest i = none →
        ∃ t, exec .almanacCheckDone s = .next t ∧ t.alm = { s.alm with checking := none, coming := some i, switched := false } ∧
          t.rd F.ALM_STATUS_STATE = 4 ∧ t.rd F.ALM_STATUS_ACCEPTED = 1 ∧ t.rd F.ALM_IRQ_DONE = 1 ∧ t.mem = s.mem) ∧
  (∀ (i : Image) (code : Nat) (s : State),
      s.Live → s.alm.checking = some (.passed i) → s.rd F.GLB_HEALTH_ALM_OK ≠ 0 → s.harvestRuns = false →
      s.retest i = some (code, none) →
        ∃ t, exec .almanacCheckDone s = .next t ∧ t.alm = { s.alm with checking := none, coming := none, switched := false } ∧
          t.rd F.ALM_STATUS_STATE = 1 ∧ t.rd F.ALM_STATUS_ACCEPTED = 0 ∧ t.rd F.ALM_STATUS_CODE = code % 2 ^ 16 ∧ t.rd F.ALM_IRQ_REFUSED = 1 ∧
          t.mem = s.mem) ∧
  (∀ (s : State),
      s.Live → s.alm.checking = none →
        exec .almanacCheckDone s = .next (s.settle s)) ∧
  (∀ (s : State),
      s.Live → s.rd F.ALM_STATUS_STATE = 3 →
        ∃ t, exec .almanacCancel s = .next t ∧ t.alm = { s.alm with coming := none, switched := false } ∧ t.rd F.ALM_STATUS_STATE = 1 ∧
          t.rd F.ALM_STATUS_ACCEPTED = 0 ∧ t.rd F.ALM_STATUS_CODE = 0x0148 ∧ t.rd F.ALM_IRQ_REFUSED = 1 ∧ t.answer = .done ∧ t.mem = s.mem ∧
          (∀ g : Fld, g.off ≠ F.ALM_STATUS_STATE.off → g.off ≠ F.ALM_IRQ_REFUSED.off → g.lo < 32 → t.rd g = s.rd g)) ∧
  (∀ (s : State),
      s.Live → s.rd F.ALM_STATUS_STATE ≠ 3 →
        exec .almanacCancel s = .next (s.settle s.ack)) ∧
  (∀ (i : Image) (s : State),
      s.Live → s.alm.coming = some i → s.rd F.ALM_STATUS_STATE = 4 →
        ∃ t, exec .almanacApplied s = .next t ∧ t.alm.force = i.sections ∧ t.alm.coming = none ∧ t.rd F.ALM_STATUS_STATE = 1 ∧
          t.rd F.GLB_HEALTH_ALM_OK = 1 ∧ t.rd F.ALM_IRQ_APPLIED = 1 ∧ t.rd F.ALM_VERSION_VERSION = i.version % 2 ^ 32 ∧
          t.rd F.ALM_KIND_SVN = i.svn % 256 ∧ t.rd F.ALM_KIND_SCHEMA = i.schema % 65536 ∧
          (∀ n < 12, t.rd (F.ALM_HASH_DIGEST n) = leAt i.hash (4 * n) 4 % 2 ^ 32) ∧
          t.rd F.GLB_HEALTH_ALM_HASH = (leAt i.hash 46 1 * 256 + leAt i.hash 47 1) % 65536 ∧
          (i.full = true → t.alm.departing = [] ∧ t.rd F.GLB_HEALTH_DRIFT = 0 ∧ t.rd F.ALM_DRIFT_ADDR_VALID = 0))

/-- TIM_CTL.CAP copies the counter into the writing initiator's bank and nothing else. A set of a FREE grandmaster loads the counter, is a
step in every respect and completes with code 0; on a follower or another source it is refused with 0x0401, with an invalid NS with
0x0402. After HOLD_TMO sync intervals without an accepted sync, holdover freezes the frequency at the mean of its last 16 values; earlier,
or in another state, nothing happens. Three intervals after the first sync the selection is final. With the PL0 master lost its clock is
forgotten and PL0_LOST set (the clock on PL0 is the model's reading of IEEE 1588, log entry 39). -/
def Obligations.TimeCommands : Prop :=
  (∀ (init : Initiator) (s : State),
      s.Live →
        exec (.timCapture init) s = .next (s.settle (((((s.wr (F.TIM_CAP_SEC_HI_SEC (bankOf init)) (bits (ft96 s.now) 80 16)).wr
          (F.TIM_CAP_SEC_LO_SEC (bankOf init)) (bits (ft96 s.now) 48 32)).wr (F.TIM_CAP_NS_NS (bankOf init)) (bits (ft96 s.now) 16 32)).wr
          (F.TIM_CAP_FRAC_FRAC (bankOf init)) (bits (ft96 s.now) 0 16)).ack))) ∧
  (∀ (s : State),
      s.Live → s.rd F.TIM_CTL_ROLE ≠ 0 → s.rd F.TIM_CTL_SOURCE = 0 → s.rd F.TIM_SET_NS_NS < 1000000000 →
        ∃ t, exec .timSet s = .next t ∧ t.tim = { s.tim with sinceStep := 0, cycleStart := t.tim.cycleStart, counter := ((s.rd F.TIM_SET_SEC_HI_SEC * 2 ^ 32 +
            s.rd F.TIM_SET_SEC_LO_SEC) * second16 + ns16 (s.rd F.TIM_SET_NS_NS)) * 65536 } ∧
          t.rd F.TIM_IRQ_STEP = 1 ∧ t.rd F.TIM_SET_RES_VALID = 1 ∧ t.rd F.TIM_SET_RES_CODE = 0 ∧ t.answer = .done ∧
          t.rd F.TIM_SET_RES_SEQ = (s.rd F.TIM_SET_RES_SEQ + 1) % 256 ∧
          t = { s.noted t with answer := t.answer, tim := t.tim, tly := t.tly, sch := t.sch, bom := t.bom } ∧
          s.SameBlocks t [4, 5, 6, 26]) ∧
  (∀ (s : State),
      s.Live → s.rd F.TIM_CTL_ROLE = 0 ∨ s.rd F.TIM_CTL_SOURCE ≠ 0 →
        exec .timSet s = .next (s.settle ((s.ack.resStart RR.TIM_SET_RES).resDone RR.TIM_SET_RES 0x0401))) ∧
  (∀ (s : State),
      s.Live → s.rd F.TIM_CTL_ROLE ≠ 0 → s.rd F.TIM_CTL_SOURCE = 0 → 1000000000 ≤ s.rd F.TIM_SET_NS_NS →
        exec .timSet s = .next (s.settle ((s.ack.resStart RR.TIM_SET_RES).resDone RR.TIM_SET_RES 0x0402))) ∧
  (∀ (s : State),
      s.Live → s.rd F.TIM_STATUS_SERVO = 1 ∨ s.rd F.TIM_STATUS_SERVO = 2 → s.tim.freqs ≠ [] →
      s.syncsSince s.tim.lastFed (s.rd F.TIM_SERVO3_HOLD_TMO) = true →
        ∃ t, exec .servoHoldover s = .next t ∧ t.rd F.TIM_STATUS_SERVO = 3 ∧
          t.tim.freq = roundDiv (s.tim.freqs.foldl (· + ·) 0) s.tim.freqs.length ∧ t.rd F.TIM_IRQ_HOLDOVER = 1 ∧
          t.rd F.TIM_IRQ_UNLOCK = (if s.rd F.TIM_STATUS_SERVO = 2 then 1 else s.rd F.TIM_IRQ_UNLOCK) ∧
          t = { s.noted t with tim := { s.tim with freq := t.tim.freq, freqs := t.tim.freqs } } ∧
          s.SameRegs t [F.TIM_STATUS_SERVO, F.TIM_IRQ_UNLOCK, F.TIM_IRQ_HOLDOVER, F.TIM_FREQ_FREQ, F.TIM_RATE_RATE]) ∧
  (∀ (s : State),
      s.Live →
      (s.rd F.TIM_STATUS_SERVO ≠ 1 ∧ s.rd F.TIM_STATUS_SERVO ≠ 2) ∨ s.syncsSince s.tim.lastFed (s.rd F.TIM_SERVO3_HOLD_TMO) = false →
        exec .servoHoldover s = .next (s.settle s)) ∧
  (∀ (s : State),
      s.Live → s.tim.upstream.isSome = true → s.syncsSince s.tim.firstSync 3 = true →
        exec .upstreamFinal s = .next (s.settle { s with tim := { s.tim with provisional := false } })) ∧
  (∀ (m : Nat) (s : State),
      s.Live → s.tim.ptp.parent = some m →
        ∃ t, exec .pl0MasterLost s = .next t ∧ t.rd F.TIM_IRQ_PL0_LOST = 1 ∧ t.tim.ptp.parent = none ∧ t.tim.ptp.toSlave = none ∧
          t.tim.ptp.masters = s.tim.ptp.masters.filter (fun (x : PtpMaster) => some x.source != some m) ∧
          t = { s.noted t with tim := { s.tim with ptp := t.tim.ptp } } ∧ s.SameRegs t [F.TIM_IRQ_PL0_LOST]) ∧
  (∀ (s : State),
      s.Live → s.tim.ptp.parent = none →
        exec .pl0MasterLost s = .next (s.settle s))

/-- A request leaves with the port's REQ_SEQ and joins the requests in flight with its t1, which TXCOR corrects (R75); a received request
is answered with t2 and t3; an answer to a request in flight is kept where it meets the bounds of R77 and then joins the last 16, and
makes the delay valid; one with t3 - t2 above 10 us, or none within 1 ms of the oldest t1, is discarded and counted, and the third in a
row makes the delay invalid with PDINV. On a port that is DOWN nothing is sent, and an answer that no request waits for is ignored. -/
def Obligations.LinkDelays : Prop :=
  (∀ (port : Fin 7) (s : State),
      s.Live → portDown s port = false →
        exec (.pdelayRequestSend port) s = .next (s.settle
          ({ s with tim := { s.tim with delays := s.tim.delays.put port.val { (s.tim.delays.getD port.val {}) with
              reqSeq := ((s.tim.delays.getD port.val {}).reqSeq + 1) % 65536,
              asked := (s.tim.delays.getD port.val {}).asked ++ [((s.tim.delays.getD port.val {}).reqSeq,
                ((s.now : Int) + 256 * toSigned 32 (s.rd (F.TIM_Pn_TXCOR_TXCOR port))).toNat)] } {} } }.hopFrame port 3
            (leBytes 2 (s.tim.delays.getD port.val {}).reqSeq ++ List.replicate 14 0)))) ∧
  (∀ (port : Fin 7) (reqSeq : BitVec 16) (s : State),
      s.Live → portDown s port = true →
        exec (.pdelayRequestSend port) s = .next (s.settle s) ∧ exec (.pdelayRequestReceived port reqSeq) s = .next (s.settle s)) ∧
  (∀ (port : Fin 7) (reqSeq : BitVec 16) (s : State),
      s.Live → portDown s port = false →
        exec (.pdelayRequestReceived port reqSeq) s = .next (s.settle (s.hopFrame port 3
          (leBytes 2 reqSeq.toNat ++ [0, 0] ++ leBytes 12 (ft96 ((s.now : Int) - 256 * toSigned 32 (s.rd (F.TIM_Pn_RXCOR_RXCOR port))).toNat) ++
            leBytes 12 (ft96 ((s.now : Int) + 256 * toSigned 32 (s.rd (F.TIM_Pn_TXCOR_TXCOR port))).toNat) ++ [0, 0, 0, 0])))) ∧
  (∀ (port : Fin 7) (payload : List Byte) (s : State),
      s.Live → (∀ a ∈ (s.tim.delays.getD port.val {}).asked, a.1 ≠ leAt (payload.map BitVec.toNat) 0 2) →
        exec (.pdelayAnswerReceived port payload) s = .next (s.settle s)) ∧
  (∀ (port : Fin 7) (payload : List Byte) (q t1 : Nat) (d : DelayPort) (s : State),
      s.Live → s.tim.delays.getD port.val {} = d →
      d.asked.find? (fun a => a.1 == leAt (payload.map BitVec.toNat) 0 2) = some (q, t1) →
      us16 10 < (ofFt96 (leAt (payload.map BitVec.toNat) 16 12) : Int) - ofFt96 (leAt (payload.map BitVec.toNat) 4 12) →
        ∃ (t : State), exec (.pdelayAnswerReceived port payload) s = .next t ∧
          t = { s.noted t with tim := t.tim } ∧
          t.tim = { s.tim with delays := t.tim.delays } ∧
          t.tim.delays.getD port.val {} = { d with bad := d.bad + 1, asked := d.asked.filter (fun a => a.1 != q) } ∧
          t.rd (F.TIM_Pn_STAT_INVALID port) = (if d.bad = 2 then 1 else s.rd (F.TIM_Pn_STAT_INVALID port)) ∧
          t.rd F.TIM_IRQ_PDINV = (if d.bad = 2 then 1 else s.rd F.TIM_IRQ_PDINV) ∧
          t.rd (F.TIM_Pn_STAT_DISC port) = satAdd (F.TIM_Pn_STAT_DISC port).w (s.rd (F.TIM_Pn_STAT_DISC port)) 1 % 2 ^ (F.TIM_Pn_STAT_DISC port).w ∧
          s.SameRegs t [F.TIM_Pn_STAT_INVALID port, F.TIM_Pn_STAT_DISC port, F.TIM_IRQ_PDINV]) ∧
  (∀ (port : Fin 7) (payload : List Byte) (q t1 v : Nat) (t2 t3 : Int) (d : DelayPort) (s : State),
      s.Live → s.tim.delays.getD port.val {} = d →
      d.asked.find? (fun a => a.1 == leAt (payload.map BitVec.toNat) 0 2) = some (q, t1) → s.now ≤ t1 + us16 1000 →
      ft96Valid (leAt (payload.map BitVec.toNat) 4 12) = true → ft96Valid (leAt (payload.map BitVec.toNat) 16 12) = true →
      ofFt96 (leAt (payload.map BitVec.toNat) 4 12) = t2 → ofFt96 (leAt (payload.map BitVec.toNat) 16 12) = t3 → t3 - t2 ≤ us16 10 →
      roundDiv (((s.now : Int) - 256 * toSigned 32 (s.rd (F.TIM_Pn_RXCOR_RXCOR port)) - t1) - (t3 - t2)) 2 = v → v ≤ us16 500 →
        ∃ (t : State), exec (.pdelayAnswerReceived port payload) s = .next t ∧
          t = { s.noted t with tim := t.tim } ∧
          t.tim = { s.tim with delays := t.tim.delays } ∧
          t.tim.delays.getD port.val {} = { d with bad := 0, asked := d.asked.filter (fun a => a.1 != q), kept := (v :: d.kept).take 16 } ∧
          t.rd (F.TIM_Pn_DELAY_DELAY port) = (roundDiv ((((v :: d.kept).take 16).foldl (· + ·) 0 : Nat) : Int)
            (256 * ((v :: d.kept).take 16).length)).toNat % 2 ^ (F.TIM_Pn_DELAY_DELAY port).w ∧
          t.rd (F.TIM_Pn_STAT_INVALID port) = 0 ∧ s.SameRegs t [F.TIM_Pn_STAT_INVALID port, F.TIM_Pn_DELAY_DELAY port]) ∧
  (∀ (port : Fin 7) (q t1 : Nat) (l : List (Nat × Nat)) (d : DelayPort) (s : State),
      s.Live → s.tim.delays.getD port.val {} = d → d.asked = (q, t1) :: l → t1 + us16 1000 ≤ s.now →
        ∃ (t : State), exec (.pdelayAnswerTimeout port) s = .next t ∧
          t = { s.noted t with tim := t.tim } ∧
          t.tim = { s.tim with delays := t.tim.delays } ∧
          t.tim.delays.getD port.val {} = { d with bad := d.bad + 1, asked := d.asked.filter (fun a => a.1 != q) } ∧
          t.rd (F.TIM_Pn_STAT_INVALID port) = (if d.bad = 2 then 1 else s.rd (F.TIM_Pn_STAT_INVALID port)) ∧
          t.rd F.TIM_IRQ_PDINV = (if d.bad = 2 then 1 else s.rd F.TIM_IRQ_PDINV) ∧
          t.rd (F.TIM_Pn_STAT_DISC port) = satAdd (F.TIM_Pn_STAT_DISC port).w (s.rd (F.TIM_Pn_STAT_DISC port)) 1 % 2 ^ (F.TIM_Pn_STAT_DISC port).w ∧
          s.SameRegs t [F.TIM_Pn_STAT_INVALID port, F.TIM_Pn_STAT_DISC port, F.TIM_IRQ_PDINV]) ∧
  (∀ (port : Fin 7) (s : State),
      s.Live → (∀ a ∈ (s.tim.delays.getD port.val {}).asked.head?, s.now < a.2 + us16 1000) →
        exec (.pdelayAnswerTimeout port) s = .next (s.settle s))

/-- The grandmaster sends one sync on each ring, with a SYNC_SEQ of each ring's own. A sync that reaches the grandmaster is discarded,
counted and reported; one that the upstream of a follower delivers gives GMID, STEPS, UTC_OFS and the offset of R81 to the servo. On PL0 a
management message is counted and nothing more, and a message of another profile, transport or domain is discarded (R86). Of a grandmaster
whose source is PL0, a sync of the master followed, one-step and with the path delay known, feeds the servo; an Announce message of the
only master heard makes it the one followed and gives UTC_OFS. What IEEE 1588 and IEEE 802.1AS say is the model's reading (log entry 39).
-/
def Obligations.SyncsAndServo : Prop :=
  (∀ (s : State),
      s.Live → s.almInForce = true → s.rd F.TIM_CTL_ROLE ≠ 0 → s.ringHub = true → s.wrapE = false → s.wrapW = false →
        ∃ t, exec .syncSend s = .next t ∧ t.tim = { s.tim with seqA := (s.tim.seqA + 1) % 65536, seqB := (s.tim.seqB + 1) % 65536, sinceStep := min 16 (s.tim.sinceStep + 1) } ∧
          t.swc.arrivals.length = s.swc.arrivals.length + 2 ∧
          ((t.swc.arrivals.drop s.swc.arrivals.length).map (fun a => (a.frame.typ, a.frame.tc, a.frame.dup, a.frame.ringB, a.frame.src))) =
            [(2, 5, false, false, s.self), (2, 5, false, true, s.self)] ∧
          ((t.swc.arrivals.drop s.swc.arrivals.length).map (fun a => a.frame.payload)) =
            [s.syncPayload s.tim.seqA, s.syncPayload s.tim.seqB] ∧
          t = { s with egress := t.egress, cycle := t.cycle, together := t.together, tim := t.tim, ring := t.ring, swc := { s.swc with arrivals := t.swc.arrivals } }) ∧
  (∀ (port : Fin 8) (payload : List Byte) (corr : Int) (s : State),
      s.Live → s.almInForce = true → s.rd F.TIM_CTL_ROLE ≠ 0 →
        exec (.syncReceived port payload corr) s = .next (s.settle ((s.bump F.TIM_CNT_BAD).raise F.TIM_IRQ_BADSYNC))) ∧
  (∀ (payload : List Byte) (corr : Int) (s : State),
      s.Live → s.almInForce = true → s.rd F.TIM_CTL_ROLE = 0 → s.ringHub = true → s.rd (F.TIM_Pn_STAT_INVALID 1) = 0 →
      ft96Valid (leAt (payload.map BitVec.toNat) 0 12) = true → s.tim.upstream = some false →
        ∃ t, exec (.syncReceived 1 payload corr) s = .next t ∧
          t.rd F.TIM_OFFSET_THETA = satPattern 32 (roundDiv ((s.now : Int) - 256 * toSigned 32 (s.rd (F.TIM_Pn_RXCOR_RXCOR 1)) - (ofFt96 (leAt (payload.map BitVec.toNat) 0 12) + corr +
            s.linkDelayIn 1)) 256) ∧
          t.rd F.TIM_GMID_LO_GMID = leAt (payload.map BitVec.toNat) 12 4 ∧ t.rd F.TIM_GMID_HI_GMID = leAt (payload.map BitVec.toNat) 16 4 ∧
          t.rd F.TIM_STATUS_STEPS = leAt (payload.map BitVec.toNat) 22 2 % 2 ^ F.TIM_STATUS_STEPS.w ∧
          t.rd F.TIM_UTC_OFS_UTC_OFS = leAt (payload.map BitVec.toNat) 24 2 % 2 ^ F.TIM_UTC_OFS_UTC_OFS.w ∧
          (s.rd F.TIM_STATUS_SERVO = 0 → t.rd F.TIM_STATUS_SERVO = 1 ∧ t.rd F.TIM_IRQ_STEP = 1) ∧
          t.mem = s.mem ∧ t.alm = s.alm ∧ t.ring = s.ring ∧ s.SameBlocks t [4, 5, 6, 26]) ∧
  (∀ (m : PtpMessage) (s : State),
      s.Live → m.body = .management →
        exec (.ptpMessageReceived m) s = .next (s.settle (s.bump F.TIM_CNT_MGMT))) ∧
  (∀ (m : PtpMessage) (s : State),
      s.Live → m.body ≠ .management → s.ptpTakes m = false →
        exec (.ptpMessageReceived m) s = .next (s.settle s)) ∧
  (∀ (m : PtpMessage) (origin : BitVec 96) (corr d : Int) (s : State),
      s.Live → m.body = .sync false origin corr → s.ptpTakes m = true → s.tim.ptp.parent = some m.source.toNat →
      s.tim.ptp.delay = some d → ft96Valid origin.toNat = true → s.rd F.TIM_CTL_SOURCE = 1 →
        ∃ t, exec (.ptpMessageReceived m) s = .next t ∧
          t.rd F.TIM_OFFSET_THETA = satPattern 32 (roundDiv ((s.now : Int) - 256 * toSigned 32 (s.rd (F.TIM_Pn_RXCOR_RXCOR 7)) -
            (ofFt96 origin.toNat + corr) - d) 256) ∧ t.tim.lastFed = some s.clk ∧
          t.mem = s.mem ∧ t.alm = s.alm ∧ t.ring = s.ring ∧ s.SameBlocks t [4, 5, 6, 26]) ∧
  (∀ (m : PtpMessage) (d : PtpDataset) (utc : BitVec 16) (s : State),
      s.Live → m.body = .announce d utc → s.ptpTakes m = true → d.steps.toNat < 255 → m.source.toNat / 2 ^ 16 ≠ s.serial →
      s.rd F.TIM_CTL_SOURCE = 2 → s.tim.ptp.masters = [] → s.tim.ptp.parent ≠ some m.source.toNat →
        ∃ t, exec (.ptpMessageReceived m) s = .next t ∧ t.tim.ptp.parent = some m.source.toNat ∧ t.rd F.TIM_UTC_OFS_UTC_OFS = utc.toNat ∧
          t.tim.ptp.masters = [{ source := m.source.toNat, dataset := d, utc := utc.toNat, heard := 1 }] ∧
          t = { s.noted t with tim := { s.tim with ptp := t.tim.ptp } } ∧ s.SameRegs t [F.TIM_UTC_OFS_UTC_OFS])

/-- A fit comes into force with its state, and the slot's interrupt where the state changes. A sample of no slot is not looked at; one of
a wrong owner or with an invalid or future time is discarded, counted and recorded; the first of an EMPTY slot is held, and its fit and
ACQUIRING wait to come into force. A deadline that has come without a FRESH sample counts a miss and takes TRACKING to COASTING. A whole
millisecond starts a cycle on each bound slot, only while no harvest runs (one runs on an admitted hub with HV_RUN = 1: log entry 25). -/
def Obligations.TallySamples : Prop :=
  (∀ (slot : Fin 32) (x : TallySlot) (f : NextFit) (s : State),
      s.Live → s.tly.getD slot.val {} = x → x.next = some f → f.state < 8 →
        ∃ t, exec (.tallyFitInForce slot) s = .next t ∧ t.rd (F.TLY_Sn_STATE_STATE slot) = f.state ∧
          t.tly = s.tly.put slot.val { x with next := none, fit := f.fit } {} ∧
          (f.state ≠ s.rd (F.TLY_Sn_STATE_STATE slot) → bit (t.rd F.TLY_STATE_IRQ_SLOT) slot = true) ∧
          t = { s.noted t with tly := t.tly, sch := t.sch, bom := t.bom } ∧ s.SameBlocks t [5, 6, 26]) ∧
  (∀ (slot : Fin 32) (s : State),
      s.Live → (s.tly.getD slot.val {}).next = none →
        exec (.tallyFitInForce slot) s = .next (s.settle s)) ∧
  (∀ (payload : List Byte) (s : State),
      s.Live → s.slotOf (leAt (payload.map BitVec.toNat) 0 1) = none →
        exec (.tallyReceived payload) s = .next (s.settle s)) ∧
  (∀ (payload : List Byte) (n : Nat) (x : TallySample) (s : State),
      s.Live → tallySample (payload.map BitVec.toNat) = x → s.slotOf x.id = some n → (s.tly.getD n {}).next = none →
      x.owner ≠ s.slotOwner n → s.bom.queue.length < 16 → s.cycle = [] →
        ∃ t, exec (.tallyReceived payload) s = .next t ∧
          t.rd (F.TLY_Sn_CNT_BAD n) = satAdd (F.TLY_Sn_CNT_BAD n).w (s.rd (F.TLY_Sn_CNT_BAD n)) 1 ∧
          t.bom = { s.bom with queue := s.bom.queue ++ [{ code := 0x0507, kind := 3, unit := n, data := x.sseq + 2 ^ 16 * x.id + 2 ^ 24 * x.flags + 2 ^ 32 * x.owner }] } ∧
          t = { s.noted t with bom := t.bom } ∧ s.SameRegs t [F.TLY_Sn_CNT_BAD n]) ∧
  (∀ (payload : List Byte) (n : Nat) (x : TallySample) (s : State),
      s.Live → tallySample (payload.map BitVec.toNat) = x → s.slotOf x.id = some n → (s.tly.getD n {}).next = none →
      x.owner = s.slotOwner n → ft96Valid x.ts = false ∨ s.now + ns16 50 < x.time → s.bom.queue.length < 16 → s.cycle = [] →
        ∃ t, exec (.tallyReceived payload) s = .next t ∧
          t.rd (F.TLY_Sn_CNT_BAD n) = satAdd (F.TLY_Sn_CNT_BAD n).w (s.rd (F.TLY_Sn_CNT_BAD n)) 1 ∧
          t.bom = { s.bom with queue := s.bom.queue ++ [{ code := 0x0508, kind := 3, unit := n, data := x.sseq + 2 ^ 16 * x.id + 2 ^ 24 * x.flags + 2 ^ 32 * x.owner }] } ∧
          t = { s.noted t with bom := t.bom } ∧ s.SameRegs t [F.TLY_Sn_CNT_BAD n]) ∧
  (∀ (payload : List Byte) (n : Nat) (x : TallySample) (y : TallySlot) (s : State),
      s.Live → tallySample (payload.map BitVec.toNat) = x → s.slotOf x.id = some n → s.tly.getD n {} = y → y.next = none →
      y.held = [] → y.refSseq = none → s.rd (F.TLY_Sn_STATE_STATE n) = 0 → x.owner = s.slotOwner n → ft96Valid x.ts = true →
      x.time ≤ s.now + ns16 50 → s.now ≤ s.tim.cycleStart + us16 (s.rd (F.TLY_Sn_LATE_LATE n)) → x.valid = true →
        exec (.tallyReceived payload) s = .next (s.settle ((s.wr (F.TLY_Sn_STATE_MISS n) 0).setSlot n
          { y with held := [⟨x.sseq, x.pos, x.time⟩], fresh := true, next := some ⟨1, s.refit n [⟨x.sseq, x.pos, x.time⟩], some x.time, false⟩ }))) ∧
  (∀ (slot : Fin 32) (x : TallySlot) (s : State),
      s.Live → s.tly.getD slot.val {} = x → s.bound slot = true → x.next = none →
      s.tim.cycleStart + us16 (s.rd (F.TLY_Sn_LATE_LATE slot)) ≤ s.now → x.deadlinePassed = false → x.fresh = true →
        exec (.tallyDeadline slot) s = .next (s.settle (s.setSlot slot { x with deadlinePassed := true }))) ∧
  (∀ (slot : Fin 32) (x : TallySlot) (s : State),
      s.Live → s.tly.getD slot.val {} = x → s.bound slot = true → x.next = none →
      s.tim.cycleStart + us16 (s.rd (F.TLY_Sn_LATE_LATE slot)) ≤ s.now → x.deadlinePassed = false → x.fresh = false →
      s.rd (F.TLY_Sn_STATE_STATE slot) = 2 →
        ∃ t, exec (.tallyDeadline slot) s = .next t ∧ t.rd (F.TLY_Sn_STATE_STATE slot) = 3 ∧
          t.rd (F.TLY_Sn_STATE_MISS slot) = satAdd (F.TLY_Sn_STATE_MISS slot).w (s.rd (F.TLY_Sn_STATE_MISS slot)) 1 ∧
          bit (t.rd F.TLY_STATE_IRQ_SLOT) slot = true ∧ t.tly = s.tly.put slot.val { x with deadlinePassed := true } {} ∧
          t = { s.noted t with tly := t.tly, sch := t.sch, bom := t.bom } ∧ s.SameBlocks t [5, 6, 26]) ∧
  (∀ (slot : Fin 32) (s : State),
      s.Live → s.bound slot = false ∨ s.now < s.tim.cycleStart + us16 (s.rd (F.TLY_Sn_LATE_LATE slot)) →
        exec (.tallyDeadline slot) s = .next (s.settle s)) ∧
  (∀ (s : State),
      s.Live → s.harvestRuns = true →
        exec .wholeMillisecond s = .next (s.settle s)) ∧
  (∀ (n : Nat) (s : State),
      s.Live → s.harvestRuns = false → n < 32 → s.bound n = true →
        ∃ t, exec .wholeMillisecond s = .next t ∧ t.tim = { s.tim with cycleStart := s.now } ∧ (t.slot n).deadlinePassed = false ∧
          t.mem = s.mem ∧ t.alm = s.alm ∧ t.sec = s.sec ∧ t.cans = s.cans ∧ t.fld = s.fld)

/-- A query starts in the bank of its initiator and discards the one that runs there. When it completes, an unbound slot answers 0x0501,
an EMPTY one 0x0503; POS_AT of a tracking slot answers p(t), READ_FIT its fit, TIME_OF the crossing as FT96 or 0x0502. Without a query in
the bank nothing changes. -/
def Obligations.TallyQueries : Prop :=
  (∀ (init : Initiator) (slot : Fin 32) (s : State),
      s.Live →
        exec (.posAt init slot) s = .next (s.settle { ((((s.wr (F.TLY_Q_CTL_OP (bankOf init)) 1).wr (F.TLY_Q_CTL_DIR (bankOf init)) 0).wr
            (F.TLY_Q_CTL_SLOT (bankOf init)) slot.val).ack.resStart (RR.TLY_Q_RES (bankOf init))) with
          queries := s.queries.insert (bankOf init) ⟨1, slot.val, 0, s.rd96 (F.TLY_Q_ARG_ARG (bankOf init))⟩ }) ∧
          exec (.readFit init slot) s = .next (s.settle { ((((s.wr (F.TLY_Q_CTL_OP (bankOf init)) 3).wr (F.TLY_Q_CTL_DIR (bankOf init)) 0).wr
            (F.TLY_Q_CTL_SLOT (bankOf init)) slot.val).ack.resStart (RR.TLY_Q_RES (bankOf init))) with
          queries := s.queries.insert (bankOf init) ⟨3, slot.val, 0, s.rd96 (F.TLY_Q_ARG_ARG (bankOf init))⟩ })) ∧
  (∀ (init : Initiator) (slot : Fin 32) (dir : Fin 4) (s : State),
      s.Live →
        exec (.timeOf init slot dir) s = .next (s.settle { ((((s.wr (F.TLY_Q_CTL_OP (bankOf init)) 2).wr (F.TLY_Q_CTL_DIR (bankOf init))
            dir.val).wr (F.TLY_Q_CTL_SLOT (bankOf init)) slot.val).ack.resStart (RR.TLY_Q_RES (bankOf init))) with
          queries := s.queries.insert (bankOf init) ⟨2, slot.val, dir.val, s.rd96 (F.TLY_Q_ARG_ARG (bankOf init))⟩ })) ∧
  (∀ (bank : Fin 3) (q : Query) (s : State),
      s.Live → s.queries.get? bank.val = some q → s.bound q.slot = false →
        exec (.tallyQueryComplete bank) s = .next (s.settle ({ s with queries := s.queries.erase bank.val }.resDone (RR.TLY_Q_RES bank) 0x0501))) ∧
  (∀ (bank : Fin 3) (q : Query) (s : State),
      s.Live → s.queries.get? bank.val = some q → s.bound q.slot = true → q.op = 3 → s.rd (F.TLY_Sn_STATE_STATE q.slot) = 0 →
        exec (.tallyQueryComplete bank) s = .next (s.settle ({ s with queries := s.queries.erase bank.val }.resDone (RR.TLY_Q_RES bank) 0x0503))) ∧
  (∀ (bank : Fin 3) (q : Query) (f : Fit) (s : State),
      s.Live → s.queries.get? bank.val = some q → s.bound q.slot = true → q.op = 1 → ft96Valid q.arg = true →
      s.rd (F.TLY_Sn_STATE_STATE q.slot) = 2 → (s.tly.getD q.slot {}).fit = some f →
        ∃ t, exec (.tallyQueryComplete bank) s = .next t ∧ t.rd96 (F.TLY_Q_OUT_OUT bank) = satPattern 80 (inUnits 16 (f.posAt (ofFt96 q.arg))) ∧
          t.rd (F.TLY_Q_RES_CODE bank) = 0 ∧ t.rd (F.TLY_Q_RES_VALID bank) = 1 ∧ t.rd (F.TLY_Q_RES_STALE bank) = 0 ∧
          t = { s.noted t with queries := s.queries.erase bank.val } ∧
          s.SameRegs t [F.TLY_Q_OUT_OUT bank 0, F.TLY_Q_OUT_OUT bank 1, F.TLY_Q_OUT_OUT bank 2, F.TLY_Q_RES_CODE bank, F.TLY_Q_RES_VALID bank, F.TLY_Q_RES_STALE bank]) ∧
  (∀ (bank : Fin 3) (q : Query) (f : Fit) (s : State),
      s.Live → s.queries.get? bank.val = some q → s.bound q.slot = true → q.op = 3 → s.rd (F.TLY_Sn_STATE_STATE q.slot) = 2 →
      (s.tly.getD q.slot {}).fit = some f →
        ∃ t, exec (.tallyQueryComplete bank) s = .next t ∧ t.rd96 (F.TLY_Q_OUT_OUT bank) = ft96 f.tref % 2 ^ 96 ∧
          t.rd96 (fun j => F.TLY_Q_OUT_OUT bank (3 + j)) = satPattern 80 (inUnits 16 f.p) ∧
          t.rd (F.TLY_Q_OUT_OUT bank 6) = satPattern 32 (inUnits 8 f.v) ∧ t.rd (F.TLY_Q_OUT_OUT bank 7) = satPattern 32 (inUnits 8 f.a) ∧
          t.rd (F.TLY_Q_RES_CODE bank) = 0 ∧ t.rd (F.TLY_Q_RES_VALID bank) = 1 ∧ t.rd (F.TLY_Q_RES_STALE bank) = 0 ∧
          t = { s.noted t with queries := s.queries.erase bank.val } ∧
          s.SameRegs t [F.TLY_Q_OUT_OUT bank 0, F.TLY_Q_OUT_OUT bank 1, F.TLY_Q_OUT_OUT bank 2, F.TLY_Q_OUT_OUT bank 3, F.TLY_Q_OUT_OUT bank 4,
            F.TLY_Q_OUT_OUT bank 5, F.TLY_Q_OUT_OUT bank 6, F.TLY_Q_OUT_OUT bank 7, F.TLY_Q_RES_CODE bank, F.TLY_Q_RES_VALID bank, F.TLY_Q_RES_STALE bank]) ∧
  (∀ (bank : Fin 3) (q : Query) (f : Fit) (s : State),
      s.Live → s.queries.get? bank.val = some q → s.bound q.slot = true → q.op = 2 → q.dir ≠ 3 →
      s.rd (F.TLY_Sn_STATE_STATE q.slot) = 2 → (s.tly.getD q.slot {}).fit = some f →
        (∀ x : Nat, s.slotTimeOf q.slot (counts (toSigned 80 q.arg)) q.dir (s.now + s.horizon q.slot) = some x →
            ∃ t, exec (.tallyQueryComplete bank) s = .next t ∧ t.rd96 (F.TLY_Q_OUT_OUT bank) = ft96 x % 2 ^ 96 ∧ t.rd (F.TLY_Q_RES_CODE bank) = 0 ∧
              t.rd (F.TLY_Q_RES_VALID bank) = 1 ∧ t = { s.noted t with queries := s.queries.erase bank.val }) ∧
          (s.slotTimeOf q.slot (counts (toSigned 80 q.arg)) q.dir (s.now + s.horizon q.slot) = none →
            exec (.tallyQueryComplete bank) s =
              .next (s.settle ({ s with queries := s.queries.erase bank.val }.resDone (RR.TLY_Q_RES bank) 0x0502)))) ∧
  (∀ (bank : Fin 3) (s : State),
      s.Live → s.queries.get? bank.val = none →
        exec (.tallyQueryComplete bank) s = .next (s.settle s))

/-- A write of whole aligned words inside one entry that is not live replaces those bytes of its bytes 0x00 to 0x19, and no other entry,
field or memory byte changes; the bytes 0x1A to 0x1F, which the hub writes, keep their values. A write of another form, or without all its
bytes enabled, is refused with 0x060F, one that names a live entry's bytes 0x00 to 0x19 with 0x0606. -/
def Obligations.CalendarWrites : Prop :=
  (∀ (init : Initiator) (off : BitVec 18) (data : List Byte) (e : CalEntry) (s : State),
      s.Live → calForm off.toNat data.length true = true → s.ent (off.toNat / 32) = e → e.live = false ∨ 0x1A ≤ off.toNat % 32 →
        ∃ t, exec (.calendarEntryWrite init off ⟨data, true⟩) s = .next t ∧ t.answer = .done ∧
          t.ent (off.toNat / 32) = e.load (e.image.take (off.toNat % 32) ++ data.map BitVec.toNat ++ e.image.drop (off.toNat % 32 + data.length)) ∧
          (∀ i : Nat, i ≠ off.toNat / 32 → t.ent i = s.ent i) ∧
          t = { s.noted t with answer := .done, sch := { s.sch with entries := t.sch.entries }, bom := { s.bom with poisoned := t.bom.poisoned, injected := t.bom.injected } } ∧
          s.SameRegs t [F.BOM_INJ_ARMED]) ∧
  (∀ (init : Initiator) (off : BitVec 18) (data : List Byte) (e : CalEntry) (s : State),
      s.Live → s.ent (off.toNat / 32) = e → e.live = false → off.toNat % 32 = 0 → data.length = 32 →
        ∃ t, exec (.calendarEntryWrite init off ⟨data, true⟩) s = .next t ∧ t.answer = .done ∧
          t.ent (off.toNat / 32) = { e with trigger := leAt (data.map BitVec.toNat) 0 10, target := leAt (data.map BitVec.toNat) 10 2, expiry := leAt (data.map BitVec.toNat) 12 4, param := leAt (data.map BitVec.toNat) 16 4, ctrl := (data.map BitVec.toNat).getD 20 0, slot := (data.map BitVec.toNat).getD 21 0, commit := (data.map BitVec.toNat).getD 22 0, tol := (data.map BitVec.toNat).getD 23 0, group := (data.map BitVec.toNat).getD 24 0, rsv := (data.map BitVec.toNat).getD 25 0 } ∧
          (∀ i : Nat, i ≠ off.toNat / 32 → t.ent i = s.ent i)) ∧
  (∀ (init : Initiator) (off : BitVec 18) (data : List Byte) (enabled : Bool) (s : State),
      s.Live → calForm off.toNat data.length enabled = false →
        exec (.calendarEntryWrite init off ⟨data, enabled⟩) s = .next (s.settle (s.refuse init (s.ownFa 7 off.toNat) 0x060F))) ∧
  (∀ (init : Initiator) (off : BitVec 18) (data : List Byte) (s : State),
      s.Live → calForm off.toNat data.length true = true → (s.sch.entries.getD (off.toNat / 32) {}).live = true →
      off.toNat % 32 < 0x1A →
        exec (.calendarEntryWrite init off ⟨data, true⟩) s = .next (s.settle (s.refuse init (s.ownFa 7 off.toNat) 0x0606)))

/-- An ARM that passes the checks of R111 clears FLAGS and ERR, notes the arming instant and leaves a time-basis entry ARMED at its
trigger's instant; an ARM of a live entry answers 0x0602 and changes no entry. RETRACT makes a live entry RETRACTED with FLAGS.FW, else
0x060B. The result register takes the code when the command ends. A group's retraction reaches exactly the live entries of the groups. -/
def Obligations.CalendarCommands : Prop :=
  (∀ (init : Initiator) (index : Fin 8192) (e : CalEntry) (s : State),
      s.Live → s.sch.banks.getD (bankOf init) [] = [] → s.ent index.val = e → s.armCode index.val e = 0 → e.tally = false →
      s.now + s.window e < s.triggerTime e.trigger →
        ∃ t, exec (.arm init index) s = .next t ∧
          t.ent index.val = { e with flags := 0, err := 0, armed := s.now, check := false, dropped := false, inst := s.triggerTime e.trigger, state := 2 } ∧
          (∀ i : Nat, i ≠ index.val → t.ent i = s.ent i) ∧ t.sch.banks.getD (bankOf init) [] = [(1, index.val, some 0)] ∧
          t.rd (F.SCH_CMD_RES_VALID (bankOf init)) = 0 ∧ t.answer = .done ∧
          t = { s.noted t with answer := t.answer, sch := { s.sch with entries := t.sch.entries, banks := t.sch.banks } } ∧
          s.SameRegs t [F.SCH_CMD_OP (bankOf init), F.SCH_CMD_INDEX (bankOf init), F.SCH_CMD_RES_VALID (bankOf init), F.SCH_CMD_RES_STALE (bankOf init), F.SCH_CMD_RES_SEQ (bankOf init)]) ∧
  (∀ (init : Initiator) (index : Fin 8192) (s : State),
      s.Live → s.sch.banks.getD (bankOf init) [] = [] → (s.ent index.val).live = true →
        ∃ t, exec (.arm init index) s = .next t ∧ t.sch = { s.sch with banks := s.sch.banks.put (bankOf init) [(1, index.val, some 0x0602)] [] } ∧
          t.answer = .done ∧ t = { s.noted t with answer := t.answer, sch := t.sch } ∧
          s.SameRegs t [F.SCH_CMD_OP (bankOf init), F.SCH_CMD_INDEX (bankOf init), F.SCH_CMD_RES_VALID (bankOf init), F.SCH_CMD_RES_STALE (bankOf init), F.SCH_CMD_RES_SEQ (bankOf init)]) ∧
  (∀ (init : Initiator) (index : Fin 8192) (e : CalEntry) (s : State),
      s.Live → s.sch.banks.getD (bankOf init) [] = [] → s.ent index.val = e →
      e.state = 1 ∨ e.state = 2 ∨ (e.state = 3 ∧ s.clk < e.dueClk) ∨ (e.state = 5 ∧ s.marked (.entryFired index.val) = false) →
        ∃ t, exec (.retract init index) s = .next t ∧ t.ent index.val = { e with flags := setBit e.flags 11 true, state := 9 } ∧
          (∀ i : Nat, i ≠ index.val → t.ent i = s.ent i) ∧ t.sch.banks.getD (bankOf init) [] = [(2, index.val, some 0)] ∧
          t = { s.noted t with answer := .done, sch := { s.sch with entries := t.sch.entries, banks := t.sch.banks } } ∧
          s.SameRegs t [F.SCH_CMD_OP (bankOf init), F.SCH_CMD_INDEX (bankOf init), F.SCH_CMD_RES_VALID (bankOf init), F.SCH_CMD_RES_STALE (bankOf init), F.SCH_CMD_RES_SEQ (bankOf init)]) ∧
  (∀ (init : Initiator) (index : Fin 8192) (e : CalEntry) (s : State),
      s.Live → s.sch.banks.getD (bankOf init) [] = [] → s.ent index.val = e → e.state = 4 → e.kind = 1 → s.clk < e.trailClk →
        ∃ t, exec (.retract init index) s = .next t ∧ t.ent index.val = { e with flags := setBit e.flags 11 true, state := 9 } ∧
          t.fastNormal e.unit = false ∧ (∀ i : Nat, i ≠ index.val → t.ent i = s.ent i) ∧ t.sch.banks.getD (bankOf init) [] = [(2, index.val, some 0)] ∧
          t = { s.noted t with answer := .done, sch := { s.sch with entries := t.sch.entries, banks := t.sch.banks }, slc := { s.slc with undriven := t.slc.undriven } } ∧
          s.SameRegs t [F.SCH_CMD_OP (bankOf init), F.SCH_CMD_INDEX (bankOf init), F.SCH_CMD_RES_VALID (bankOf init), F.SCH_CMD_RES_STALE (bankOf init), F.SCH_CMD_RES_SEQ (bankOf init), F.PSL_FL_OUT_LINES]) ∧
  (∀ (init : Initiator) (index : Fin 8192) (s : State),
      s.Live → s.sch.banks.getD (bankOf init) [] = [] → (s.ent index.val).live = false →
        ∃ t, exec (.retract init index) s = .next t ∧ t.sch = { s.sch with banks := s.sch.banks.put (bankOf init) [(2, index.val, some 0x060B)] [] } ∧
          t = { s.noted t with answer := .done, sch := t.sch } ∧
          s.SameRegs t [F.SCH_CMD_OP (bankOf init), F.SCH_CMD_INDEX (bankOf init), F.SCH_CMD_RES_VALID (bankOf init), F.SCH_CMD_RES_STALE (bankOf init), F.SCH_CMD_RES_SEQ (bankOf init)]) ∧
  (∀ (bank : Fin 3) (op i c : Nat) (s : State),
      s.Live → s.sch.banks.getD bank.val [] = [(op, i, some c)] →
        exec (.schCmdComplete bank) s = .next (s.settle
          ({ s with sch := { s.sch with banks := s.sch.banks.put bank.val [] [] } }.resDone (RR.SCH_CMD_RES bank) c))) ∧
  (∀ (bank : Fin 3) (x : Nat × Nat × Option Nat) (op i : Nat) (c : Option Nat) (l : List (Nat × Nat × Option Nat)) (s : State),
      s.Live → s.sch.banks.getD bank.val [] = x :: (op, i, c) :: l →
        exec (.schCmdComplete bank) s = .next (s.settle
          { (s.schDo op i).1 with sch := { (s.schDo op i).1.sch with banks := (s.schDo op i).1.sch.banks.put bank.val ((op, i, some (s.schDo op i).2) :: l) [] } })) ∧
  (∀ (bank : Fin 3) (s : State),
      s.Live → s.sch.banks.getD bank.val [] = [] →
        exec (.schCmdComplete bank) s = .next (s.settle s)) ∧
  (∀ (groups : Word) (s : State),
      s.Live →
      (∀ i ∈ s.calIndexes, (s.ent i).inGroup groups.toNat = true → (s.ent i).live = true →
      (s.ent i).state < 3 ∨ ((s.ent i).state = 3 ∧ s.clk < (s.ent i).dueClk) ∨ ((s.ent i).state = 4 ∧ s.clk < (s.ent i).trailClk) ∨ ((s.ent i).state = 5 ∧ s.marked (.entryFired i) = false)) →
        ∃ t, exec (.retractGroup groups) s = .next t ∧ t.answer = .done ∧
          (∀ i : Nat, t.ent i = if (s.ent i).live ∧ (s.ent i).inGroup groups.toNat then
            { (s.ent i) with flags := setBit (s.ent i).flags 11 true, state := 9 } else s.ent i) ∧
          t = { s.noted t with answer := .done, sch := { s.sch with entries := t.sch.entries }, slc := { s.slc with undriven := t.slc.undriven }, fld := { s.fld with lines := t.fld.lines } } ∧
          s.SameBlocks t [8, 10])

/-- At its commit instant an ARMED entry of a fast line with room in the edge queue is COMMITTED, its edge fixed at the cycle that holds
its instant (at 0.8 ns a cycle: log entry 19); with no room it ends EXPIRED with OVERRUN; a field line without feed ends it with NOPOWER.
At its cycle the edge falls on the line, the earlier ones of the line done, and the entry is DONE, waits for its check, or is PULSING;
under force the edge is discarded. A launch readies the head of its queue, or notes LQ_EMPTY. The trailing edge ends a pulse. A tally
entry past its expiry is EXPIRED, with the interrupt and the count. -/
def Obligations.CalendarEvents : Prop :=
  (∀ (index : Fin 8192) (e : CalEntry) (s : State),
      s.Live → s.ent index.val = e → e.state = 2 → e.kind = 1 → e.action ≠ 3 → e.inst ≤ s.now + s.window e →
      s.now + ns16 100 ≤ e.inst → s.twinIdle = false → s.edges e.target + 1 ≤ 8 →
        exec (.entryCommit index) s = .next (s.settle (s.setEnt index.val { e with state := 3, dueClk := s.clkOf e.inst }))) ∧
  (∀ (index : Fin 8192) (e : CalEntry) (s : State),
      s.Live → s.ent index.val = e → e.state = 2 → e.kind = 1 → e.action ≠ 3 → e.inst ≤ s.now + s.window e →
      s.now + ns16 100 ≤ e.inst → s.twinIdle = false → 8 < s.edges e.target + 1 →
        exec (.entryCommit index) s = .next (s.settle (((s.setEnt index.val { e with flags := setBit e.flags 13 true, state := 10 }).raise
          F.SCH_IRQ_EXPIRED).bump F.SCH_CNT1_EXPIRED))) ∧
  (∀ (index : Fin 8192) (e : CalEntry) (s : State),
      s.Live → s.ent index.val = e → e.state = 2 → e.kind = 2 → e.inst ≤ s.now + s.window e → s.twinIdle = false →
      s.feedSeen (e.unit / 8) = false → s.now + ns16 400 ≤ e.inst →
        ∃ t, exec (.entryCommit index) s = .next t ∧ t.ent index.val = { e with flags := setBit e.flags 6 true, state := 8 } ∧
          t.rd F.SCH_IRQ_NOPOWER = 1 ∧ t.rd F.SCH_CNT2_NOPOWER = satAdd F.SCH_CNT2_NOPOWER.w (s.rd F.SCH_CNT2_NOPOWER) 1 ∧
          (∀ i : Nat, i ≠ index.val → t.ent i = s.ent i) ∧ t = { s.noted t with bom := t.bom, sch := { s.sch with entries := t.sch.entries } } ∧
          s.SameBlocks t [6, 26]) ∧
  (∀ (index : Fin 8192) (e : CalEntry) (s : State),
      s.Live → s.ent index.val = e → e.state = 2 → 3 ≤ e.kind → e.inst ≤ s.now + s.window e → s.now + ns16 100 ≤ e.inst →
      s.twinIdle = false →
        exec (.entryCommit index) s = .next (s.settle (s.setEnt index.val { e with state := 3, dueClk := s.clkOf e.inst }))) ∧
  (∀ (index : Fin 8192) (s : State),
      s.Live → (s.ent index.val).state ≠ 2 ∨ s.now + s.window (s.ent index.val) < (s.ent index.val).inst ∨ s.twinIdle = true →
        exec (.entryCommit index) s = .next (s.settle s)) ∧
  (∀ (index : Fin 8192) (e : CalEntry) (s : State),
      s.Live → s.ent index.val = e → e.state = 3 → e.kind = 1 → e.unit < 32 → 1 ≤ e.action ∧ e.action ≤ 4 → e.dropped = false →
      e.dueClk ≤ s.clk → s.twinIdle = false → s.fastForced e.unit = false → s.mergesAway e e.inst = false →
      (s.edgesOf e.target).filter (fun x => edgeBefore x (e.dueClk, e.inst, index.val)) = [] →
        ∃ t, exec (.entryInstant index) s = .next t ∧
          t.fastNormal e.unit = (if e.action = 2 then false else if e.action = 4 then !(s.fastNormal e.unit) else true) ∧
          t.normalOut e.unit = some (t.fastNormal e.unit) ∧
          (∀ n < 32, n ≠ e.unit → t.normalOut n = s.normalOut n) ∧
          t.ent index.val = (if e.action = 3 then { e with state := 4, trailClk := e.dueClk + nsClk e.param } else { e with state := if e.check then 5 else 8 }) ∧
          (∀ i : Nat, i ≠ index.val → t.ent i = s.ent i) ∧
          t.rd F.SCH_IRQ_CATCHUP = (if bit e.flags 2 then 1 else s.rd F.SCH_IRQ_CATCHUP) ∧
          t = { s.noted t with sch := { s.sch with entries := t.sch.entries }, slc := { s.slc with undriven := t.slc.undriven } } ∧
          s.SameRegs t [F.PSL_FL_OUT_LINES, F.SCH_IRQ_CATCHUP]) ∧
  (∀ (index : Fin 8192) (e : CalEntry) (s : State),
      s.Live → s.ent index.val = e → e.state = 3 → e.kind = 1 → e.action = 1 ∨ e.action = 2 ∨ e.action = 4 → e.dropped = false →
      e.dueClk ≤ s.clk → s.twinIdle = false → bit e.flags 2 = false → s.fastForced e.unit = true → s.mergesAway e e.inst = false →
      (s.edgesOf e.target).filter (fun x => edgeBefore x (e.dueClk, e.inst, index.val)) = [] →
        ∃ t, exec (.entryInstant index) s = .next t ∧
          t.ent index.val = { e with flags := setBit e.flags 5 true, state := if e.check then 5 else 8 } ∧
          t.rd F.SCH_IRQ_INHIBITED = 1 ∧ t.rd F.SCH_CNT2_INHIBITED = satAdd F.SCH_CNT2_INHIBITED.w (s.rd F.SCH_CNT2_INHIBITED) 1 ∧
          (∀ i : Nat, i ≠ index.val → t.ent i = s.ent i) ∧
          t = { s.noted t with sch := { s.sch with entries := t.sch.entries } } ∧ s.SameRegs t [F.SCH_IRQ_INHIBITED, F.SCH_CNT2_INHIBITED]) ∧
  (∀ (index : Fin 8192) (e : CalEntry) (s : State),
      s.Live → s.ent index.val = e → e.state = 3 → e.kind = 2 → e.action = 1 ∨ e.action = 2 ∨ e.action = 4 → e.dropped = false →
      e.dueClk ≤ s.clk → s.twinIdle = false → bit e.flags 2 = false → s.bankForced (e.unit / 8) = false →
      s.feedSeen (e.unit / 8) = true → s.rd (F.FLD_Bb_CFG_KSTATE (e.unit / 8)) = 0 → s.rd (F.FLD_Ln_CFG_MODE e.unit) = 3 →
      (s.edgesOf e.target).filter (fun x => edgeBefore x (e.dueClk, e.inst, index.val)) = [] →
        ∃ t, exec (.entryInstant index) s = .next t ∧
          t.on (F.FLD_Ln_STAT_CMD e.unit) = (if e.action = 2 then false else if e.action = 4 then !(s.on (F.FLD_Ln_STAT_CMD e.unit)) else true) ∧
          t.ent index.val = { e with state := if e.check then 5 else 8 } ∧ (∀ i : Nat, i ≠ index.val → t.ent i = s.ent i) ∧
          t = { s.noted t with sch := { s.sch with entries := t.sch.entries }, fld := { s.fld with lines := t.fld.lines } } ∧
          s.SameRegs t [F.FLD_Ln_STAT_CMD e.unit, F.FLD_Ln_STAT_SC e.unit]) ∧
  (∀ (index : Fin 8192) (e : CalEntry) (b : BufFrame) (s : State),
      s.Live → s.ent index.val = e → e.state = 3 → e.kind = 4 → e.action = 5 → e.dueClk ≤ s.clk → s.twinIdle = false →
      bit e.flags 2 = false → s.lqHead e.unit = some b →
        ∃ t, exec (.entryInstant index) s = .next t ∧
          t.swc = { s.swc with frames := s.swc.frames.map (fun x => if x.id = b.id then { x with launched := some (s.clk, index.val) } else x) } ∧
          t.ent index.val = { e with state := if e.check then 5 else 8 } ∧ (∀ i : Nat, i ≠ index.val → t.ent i = s.ent i) ∧
          t = { s.noted t with swc := t.swc, sch := { s.sch with entries := t.sch.entries } } ∧ s.SameRegs t []) ∧
  (∀ (index : Fin 8192) (e : CalEntry) (s : State),
      s.Live → s.ent index.val = e → e.state = 3 → e.kind = 4 → e.action = 5 → e.dueClk ≤ s.clk → s.twinIdle = false →
      bit e.flags 2 = false → s.lqHead e.unit = none →
        ∃ t, exec (.entryInstant index) s = .next t ∧ t.rd F.SCH_IRQ_LQ_EMPTY = 1 ∧
          t.ent index.val = { e with flags := setBit e.flags 9 true, state := if e.check then 5 else 8 } ∧ (∀ i : Nat, i ≠ index.val → t.ent i = s.ent i) ∧
          t = { s.noted t with swc := { s.swc with windows := t.swc.windows }, sch := { s.sch with entries := t.sch.entries } } ∧ s.SameRegs t [F.SCH_IRQ_LQ_EMPTY]) ∧
  (∀ (index : Fin 8192) (s : State),
      s.Live → (s.ent index.val).state ≠ 3 ∨ s.clk < (s.ent index.val).dueClk ∨ s.twinIdle = true →
        exec (.entryInstant index) s = .next (s.settle s)) ∧
  (∀ (index : Fin 8192) (e : CalEntry) (s : State),
      s.Live → s.ent index.val = e → e.state = 4 → e.kind = 1 → e.unit < 32 → e.dropped = false → e.trailClk ≤ s.clk →
      s.twinIdle = false → s.fastForced e.unit = false → s.mergesAway e (e.inst + ns16 e.param) = false →
      (s.edgesOf e.target).filter (fun x => edgeBefore x (e.trailClk, e.inst + ns16 e.param, index.val)) = [] →
        ∃ t, exec (.pulseTrailingEdge index) s = .next t ∧ t.normalOut e.unit = some false ∧
          (∀ n < 32, n ≠ e.unit → t.normalOut n = s.normalOut n) ∧
          t.ent index.val = { e with state := if e.check then 5 else 8 } ∧ (∀ i : Nat, i ≠ index.val → t.ent i = s.ent i) ∧
          t = { s.noted t with sch := { s.sch with entries := t.sch.entries }, slc := { s.slc with undriven := t.slc.undriven } } ∧
          s.SameRegs t [F.PSL_FL_OUT_LINES]) ∧
  (∀ (index : Fin 8192) (s : State),
      s.Live → (s.ent index.val).state ≠ 4 ∨ s.clk < (s.ent index.val).trailClk ∨ s.twinIdle = true →
        exec (.pulseTrailingEdge index) s = .next (s.settle s)) ∧
  (∀ (index : Fin 8192) (e : CalEntry) (s : State),
      s.Live → s.ent index.val = e → e.state = 1 ∨ e.state = 2 → e.tally = true → e.expiry ≠ 0 → e.armed + us16 e.expiry ≤ s.now →
      s.twinIdle = false →
        exec (.entryExpiry index) s = .next (s.settle (((s.setEnt index.val { e with state := 10 }).raise F.SCH_IRQ_EXPIRED).bump
          F.SCH_CNT1_EXPIRED)))

/-- A pad's change reaches PSL_FL_IN at once, and a rising edge of an input line is counted with its time. An event that rises is
registered, latches its force in MODE 0b10, retracts the live entries of its groups and sets its interrupt where IRQ is 1; one that falls
is 0 again. A release clears the latches of the events that are 0. A release of HOLD applies every staged write. The watchdog raises S63
where SLC_HWD has passed since the last applied output image. Entries whose edge falls due in the same cycle are not in the statement of a
rise. -/
def Obligations.SluiceCommands : Prop :=
  (∀ (line : Fin 32) (level : Bool) (s : State),
      s.Live → level = false ∨ bit (s.rd F.PSL_FL_IN_LINES) line.val = true ∨ s.rd (F.PSL_FLn_CFG_DIR line) ≠ 0 →
        exec (.fastLineInputChange line level) s = .next (s.settle (s.wr F.PSL_FL_IN_LINES (setBit (s.rd F.PSL_FL_IN_LINES) line.val level)))) ∧
  (∀ (line : Fin 32) (s : State),
      s.Live → bit (s.rd F.PSL_FL_IN_LINES) line.val = false → s.rd (F.PSL_FLn_CFG_DIR line) = 0 →
        exec (.fastLineInputChange line true) s = .next (s.settle { s.wr F.PSL_FL_IN_LINES (setBit (s.rd F.PSL_FL_IN_LINES) line.val true) with slc :=
          { s.slc with pulses := s.slc.pulses.insert line.val ((s.slc.pulses.getD line.val (0, 0)).1 + 1, s.now) } })) ∧
  (∀ (event : Fin 32) (s : State),
      s.Live → bit s.slc.events event.val = true ∨ s.eventTerm event.val = false →
        exec (.sluiceEventRise event) s = .next (s.settle s)) ∧
  (∀ (event : Fin 32) (s : State),
      s.Live → bit s.slc.events event.val = false → s.eventTerm event.val = true →
      (∀ i ∈ s.calIndexes, (s.ent i).inGroup (s.rd (F.SLC_Ee_GRP_GRP event)) = true → (s.ent i).live = true →
      (s.ent i).state < 3 ∨ ((s.ent i).state = 3 ∧ s.clk < (s.ent i).dueClk) ∨ ((s.ent i).state = 4 ∧ s.clk < (s.ent i).trailClk) ∨ ((s.ent i).state = 5 ∧ s.marked (.entryFired i) = false)) →
        ∃ t, exec (.sluiceEventRise event) s = .next t ∧
          t.slc = { s.slc with events := s.slc.events + 2 ^ event.val, latched := if s.rd (F.SLC_Ee_CFG_MODE event) = 2 then setBit s.slc.latched event.val true else s.slc.latched, undriven := t.slc.undriven } ∧
          (∀ i : Nat, t.ent i = if (s.ent i).live ∧ (s.ent i).inGroup (s.rd (F.SLC_Ee_GRP_GRP event)) then
            { (s.ent i) with flags := setBit (s.ent i).flags 10 true, state := 9 } else s.ent i) ∧
          (s.rd (F.SLC_Ee_CFG_IRQ event) ≠ 0 → bit (t.rd F.SLC_EVT_IRQ_EVT) event.val = true) ∧
          (∀ n < 128, (t.line n).forceHeld = if t.bankForced (n / 8) = true ∧ s.bankForced (n / 8) = false then s.lineDriven n else (s.line n).forceHeld) ∧
          t = { s.noted t with slc := t.slc, sch := { s.sch with entries := t.sch.entries }, fld := { s.fld with lines := t.fld.lines } } ∧
          s.SameBlocks t [6, 7, 8, 10]) ∧
  (∀ (event : Fin 32) (s : State),
      s.Live → bit s.slc.events event.val = true → s.eventTerm event.val = false →
        exec (.sluiceEventFall event) s = .next (s.settle { s with slc := { s.slc with events := s.slc.events - 2 ^ event.val } })) ∧
  (∀ (events : Word) (s : State),
      s.Live →
        ∃ t, exec (.forceRelease events) s = .next t ∧ t.answer = .done ∧ (∀ e < 32, bit t.slc.latched e =
            (bit s.slc.latched e && !(bit events.toNat e && !(bit s.slc.events e)))) ∧
          t = { s with egress := t.egress, cycle := t.cycle, together := t.together, answer := .done, slc := { s.slc with latched := t.slc.latched } }) ∧
  (∀ (s : State),
      s.Live →
        ∃ t, exec .slcHoldRelease s = .next t ∧ t.slc = { s.slc with staged := [], watchdog := t.slc.watchdog } ∧ t.rd F.SLC_CTL_HOLD = 0 ∧
          t = { s.noted t with answer := .done, slc := t.slc, alm := { s.alm with departing := t.alm.departing } } ∧
          (∀ g : Fld, g.key ≠ F.SLC_CTL_HOLD.key → s.slc.staged.get? g.key = none → g.key / 0x200000 % 0x1000 ∉ [0, 1] → t.rd g = s.rd g)) ∧
  (∀ (f : Fld) (v : Nat) (s : State),
      s.Live → s.slc.staged = [(f.key, (f.rst, v))] → v < 2 ^ 32 → f.lo < 32 → f.key / 0x200000 = 7 → f.key ≠ F.SLC_CTL_HOLD.key →
        ∃ t, exec .slcHoldRelease s = .next t ∧ (s.almInForce = true → s.marked (.loaded f.key) = false → t.rd f = v)) ∧
  (∀ (s : State),
      s.Live → (∀ c : Nat, s.slc.imageClk = some c → c + usClk (s.rd F.SLC_HWD_TMO) ≤ s.clk) →
        exec .harvestWatchdogExpiry s = .next (s.settle { s with slc := { s.slc with watchdog := true } })) ∧
  (∀ (c : Nat) (s : State),
      s.Live → s.slc.imageClk = some c → s.clk < c + usClk (s.rd F.SLC_HWD_TMO) →
        exec .harvestWatchdogExpiry s = .next (s.settle { s with slc := { s.slc with watchdog := false } }))

/-- When the HV link is lost, LINK_DOWN is set, the status last received is kept, and every NORMAL bank goes to KEEP with its output
lines' driven levels held (a C/Q line drives no longer) and its edges committed but not yet applied discarded; a bank in another keeper
state stays in it. When the link is up again the late status bits arrive. KEEP_TMO takes a KEEP bank to SAFE, or to RELEASED while fenced.
A keeper resumes to NORMAL with the held levels as CMD, the driven ones after SAFE, 0 after RELEASED. The fence input does the same as the
loss of the link for the keepers. An HV die reset releases every keeper; a start of the HV die runs it again. -/
def Obligations.HvLinkAndKeepers : Prop :=
  (∀ (lanes : Fin 5) (s : State),
      s.Live → s.hvLink = true →
        ∃ t, exec (.hvLinkLost lanes) s = .next t ∧ t.rd F.FLD_STATUS_LINK = 0 ∧ t.rd F.FLD_STATUS_LANES = lanes.val ∧
          t.rd F.FLD_IRQ_LINK_DOWN = 1 ∧ t.fld.snap = s.statusNow ∧ t.fld.loopback = none ∧ t.chk.calibrating = none ∧
          (∀ b < 16, t.rd (F.FLD_Bb_CFG_KSTATE b) = if s.rd (F.FLD_Bb_CFG_KSTATE b) = 0 then 1 else s.rd (F.FLD_Bb_CFG_KSTATE b)) ∧
          (∀ n < 128, (t.line n).held = if s.rd (F.FLD_Bb_CFG_KSTATE (n / 8)) = 0 then s.lineOut n && s.lineDriven n else (s.line n).held) ∧
          (∀ i : Nat, t.ent i = if (s.ent i).kind = 2 ∧ (s.ent i).unit < 128 ∧ s.rd (F.FLD_Bb_CFG_KSTATE ((s.ent i).unit / 8)) = 0 ∧ ((s.ent i).state = 3 ∨ (s.ent i).state = 4) then
            { (s.ent i) with dropped := true } else s.ent i) ∧
          t = { s.noted t with fld := t.fld, sch := { s.sch with entries := t.sch.entries }, chk := { s.chk with calibrating := none }, slices := t.slices, freeCtr := s.freeCtr + 16 } ∧
          s.SameBlocks t [8, 9, 10]) ∧
  (∀ (lanes : Fin 5) (s : State),
      s.Live → 2 ≤ lanes.val → s.chk.hvRunning = true → s.hvLink = false → s.fld.late = [] →
        exec (.hvLinkUp lanes) s = .next (s.settle (((({ s with fld := { s.fld with late := [], snap := [] } } : State).wr
          F.FLD_STATUS_LINK 1).wr F.FLD_STATUS_LANES lanes).raise F.FLD_IRQ_LINK_UP))) ∧
  (∀ (lanes : Fin 5) (s : State),
      s.Live → s.hvLink = true →
        (2 ≤ lanes.val → exec (.hvLinkUp lanes) s = .next (s.settle (s.wr F.FLD_STATUS_LANES lanes))) ∧
          (lanes.val < 2 → exec (.hvLinkUp lanes) s = exec (.hvLinkLost lanes) s)) ∧
  (∀ (lanes : Fin 5) (s : State),
      s.Live → s.hvLink = false →
        exec (.hvLinkLost lanes) s = .next (s.settle s) ∧ (lanes.val < 2 ∨ s.chk.hvRunning = false → exec (.hvLinkUp lanes) s = .next (s.settle s))) ∧
  (∀ (s : State),
      s.Live → s.role = 0 →
        ∃ t, exec .twnFenceNFall s = .next t ∧ t.rd F.STT_STATUS_FENCE_IN = 1 ∧ t.rd F.FLD_STATUS_FENCE = 1 ∧
          (∀ b < 16, t.rd (F.FLD_Bb_CFG_KSTATE b) = if s.rd (F.FLD_Bb_CFG_KSTATE b) = 0 then 1 else s.rd (F.FLD_Bb_CFG_KSTATE b)) ∧
          (∀ i : Nat, t.ent i = if (s.ent i).kind = 2 ∧ (s.ent i).unit < 128 ∧ s.rd (F.FLD_Bb_CFG_KSTATE ((s.ent i).unit / 8)) = 0 ∧ ((s.ent i).state = 3 ∨ (s.ent i).state = 4) then
            { (s.ent i) with dropped := true } else s.ent i) ∧
          (∀ n < 128, (t.line n).held = if s.rd (F.FLD_Bb_CFG_KSTATE (n / 8)) = 0 then s.lineDriven n else (s.line n).held) ∧
          t = { s.noted t with fld := t.fld, sch := { s.sch with entries := t.sch.entries } } ∧ s.SameBlocks t [8, 22]) ∧
  (∀ (s : State),
      s.Live →
        exec .twnFenceNRise s = .next (s.settle ((s.wr F.STT_STATUS_FENCE_IN 0).wr F.FLD_STATUS_FENCE 0))) ∧
  (∀ (bank : Fin 16) (s : State),
      s.Live → s.rd (F.FLD_Bb_CFG_KSTATE bank) = 1 →
        exec (.keepTmoExpiry bank) s = .next (s.settle ((s.wr (F.FLD_Bb_CFG_KSTATE bank) (if s.rd F.FLD_STATUS_FENCE ≠ 0 then 3 else 2)).hvRaise
          F.FLD_IRQ_KEEP_END))) ∧
  (∀ (bank : Fin 16) (s : State),
      s.Live → s.rd (F.FLD_Bb_CFG_KSTATE bank) ≠ 0 → s.role ≠ roleFenced → s.hvLink = true → s.rd F.FLD_STATUS_FW_OK ≠ 0 →
      bit s.fld.applied bank.val = true → s.rd F.FLD_STATUS_FENCE = 0 →
        ∃ t, exec (.keeperResume bank) s = .next t ∧ t.rd (F.FLD_Bb_CFG_KSTATE bank) = 0 ∧
          (∀ n < 128, n / 8 = bank.val → s.lineOut n = true → t.rd (F.FLD_Ln_STAT_CMD n) = b2n (if s.rd (F.FLD_Bb_CFG_KSTATE bank) = 1 then (s.line n).held else s.lineDriven n)) ∧
          (∀ n < 128, n / 8 = bank.val → s.lineOut n = true → s.rd (F.FLD_Bb_CFG_KSTATE bank) = 3 → t.rd (F.FLD_Ln_STAT_CMD n) = 0) ∧
          (∀ n < 128, n / 8 ≠ bank.val → t.rd (F.FLD_Ln_STAT_CMD n) = s.rd (F.FLD_Ln_STAT_CMD n)) ∧
          t = { s.noted t with fld := { s.fld with lines := t.fld.lines } } ∧ s.SameBlocks t [8]) ∧
  (∀ (s : State),
      s.Live →
        ∃ t, exec .hvDieReset s = .next t ∧ t.rd F.FLD_STATUS_FW_OK = 0 ∧ t.chk.hvRunning = false ∧ t.fld.lines = [] ∧
          (∀ b < 16, t.rd (F.FLD_Bb_CFG_KSTATE b) = 3 ∧ t.rd (F.CHK_Fn_STATUS_PG b) = 0) ∧
          (∀ n < 128, t.rd (F.FLD_Ln_STAT_CMD n) = 0 ∧ t.rd (F.FLD_Ln_STAT_SC n) = 0) ∧
          t.fld.loopback = none ∧ t.chk = { removedClk := [], calibrating := none, hvRunning := false } ∧
          (∀ i : Nat, t.ent i = if (s.ent i).kind = 2 ∧ (s.ent i).unit < 128 ∧ ((s.ent i).state = 3 ∨ (s.ent i).state = 4) then
            { (s.ent i) with dropped := true } else s.ent i) ∧
          t = { s.noted t with fld := t.fld, chk := t.chk, slices := t.slices, sch := { s.sch with entries := t.sch.entries } } ∧ s.SameBlocks t [8, 9, 10]) ∧
  (∀ (s : State),
      s.Live → s.chk.hvRunning = false →
        ∃ t, exec .hvDieStart s = .next t ∧ t.chk = { s.chk with hvRunning := true } ∧ (∀ b < 16, t.rd (F.FLD_Bb_CFG_KSTATE b) = 3) ∧
          (∀ f < 16, s.feedState f ≠ 11 → t.rd (F.CHK_Fn_STATUS_STATE f) =
            if s.rd (F.CHK_Fn_CTL_EN f) ≠ 0 ∧ s.rd (F.FLD_Bb_CFG_BEN f) ≠ 0 then (if s.feedState f = 0 ∧ s.rd (F.CHK_Fn_STATUS_FITTED f) ≠ 0 then 1 else s.feedState f) else 0) ∧
          t = { s.noted t with fld := { s.fld with lines := t.fld.lines }, chk := t.chk, slices := t.slices } ∧ s.SameBlocks t [8, 9, 10])

/-- Each line cell's event changes its own STAT bits and, where it is a fault, FLD_FAULTk and FLD_IRQ.FAULT: at once while the HV link is
up, else with the link's return (hvRaise). A cell that its mode or enable does not concern changes nothing. A crossing is counted and
stamped, and the line ignored for 1 ms. A latch-off clears at once, or when the overheated cell has cooled. After power-good each line
restores in turn. -/
def Obligations.LineCells : Prop :=
  (∀ (line : Fin 128) (level : Bool) (s : State),
      s.Live → s.lineInput line = true →
        exec (.fieldInputChange line level) s = .next (s.settle (s.wr (F.FLD_Ln_STAT_IN line) (b2n level)))) ∧
  (∀ (line : Fin 128) (level : Bool) (s : State),
      s.Live →
        (s.lineInput line = false → exec (.fieldInputChange line level) s = .next (s.settle s) ∧ exec (.wireBreak line level) s = .next (s.settle s)) ∧
          (s.lineMode line ≠ 5 → exec (.zeroCrossing line) s = .next (s.settle s)) ∧
          (s.lineDrives line = false → exec (.lineLatchOff line level) s = .next (s.settle s)) ∧
          (s.lineOut line = false → exec (.openLoad line level) s = .next (s.settle s)) ∧
          (s.nextRestore (line.val / 8) ≠ some line.val → exec (.lineRestore line) s = .next (s.settle s))) ∧
  (∀ (line : Fin 128) (s : State),
      s.Live → s.lineInput line = true → s.rd (F.FLD_Ln_CFG_WB_EN line) ≠ 0 →
        exec (.wireBreak line false) s = .next (s.settle (s.wr (F.FLD_Ln_STAT_WB line) 0)) ∧
          exec (.wireBreak line true) s = .next (s.settle (((s.wr (F.FLD_Ln_STAT_WB line) 1).hvRaise (F.FLD_FAULTk_LINES (line.val / 32))
            (line.val % 32)).hvRaise F.FLD_IRQ_FAULT))) ∧
  (∀ (line : Fin 128) (s : State),
      s.Live → s.lineInput line = true →
        exec (.wireBreak line false) s = .next (s.settle (s.wr (F.FLD_Ln_STAT_WB line) 0)) ∧
          (s.rd (F.FLD_Ln_CFG_WB_EN line) = 0 → exec (.wireBreak line true) s = .next (s.settle s))) ∧
  (∀ (line : Fin 128) (l : FldLine) (s : State),
      s.Live → s.line line = l → s.rd (F.FLD_Ln_CFG_MODE line) = 5 → l.crossClk = none ∨ ∃ c, l.crossClk = some c ∧ c ≤ s.clk →
        exec (.zeroCrossing line) s = .next (s.settle (s.setLine line
          { l with crossings := l.crossings + 1, crossTs := s.now, crossClk := some (s.clk + 1250000) }))) ∧
  (∀ (line : Fin 128) (c : Nat) (s : State),
      s.Live → (s.line line).crossClk = some c → s.clk < c →
        exec (.zeroCrossing line) s = .next (s.settle s)) ∧
  (∀ (line : Fin 128) (thermal : Bool) (s : State),
      s.Live → s.lineDrives line = true →
        exec (.lineLatchOff line thermal) s = .next (s.settle (((if thermal then (s.wr (F.FLD_Ln_STAT_SC line) 1).wr (F.FLD_Ln_STAT_OT line) 1
          else s.wr (F.FLD_Ln_STAT_SC line) 1).hvRaise (F.FLD_FAULTk_LINES (line.val / 32)) (line.val % 32)).hvRaise F.FLD_IRQ_FAULT))) ∧
  (∀ (init : Initiator) (k : Fin 4) (lines : BitVec 32) (s : State),
      s.Live → s.hvLink = true →
        ∃ t, exec (.lineLatchClear init k lines) s = .next t ∧ t.answer = .done ∧
          (∀ j < 32, bit lines.toNat j = true → s.rd (F.FLD_Bb_CFG_KSTATE (4 * k.val + j / 8)) = 0 →
            s.rd (F.FLD_Ln_STAT_SC (32 * k.val + j)) ≠ 0 → s.rd (F.FLD_Ln_STAT_OT (32 * k.val + j)) = 0 →
            t.rd (F.FLD_Ln_STAT_SC (32 * k.val + j)) = 0) ∧
          (∀ j < 32, bit lines.toNat j = true → s.rd (F.FLD_Bb_CFG_KSTATE (4 * k.val + j / 8)) = 0 →
            s.rd (F.FLD_Ln_STAT_SC (32 * k.val + j)) ≠ 0 → s.rd (F.FLD_Ln_STAT_OT (32 * k.val + j)) ≠ 0 →
            (t.line (32 * k.val + j)).clearReq = true ∧ t.rd (F.FLD_Ln_STAT_SC (32 * k.val + j)) = s.rd (F.FLD_Ln_STAT_SC (32 * k.val + j))) ∧
          (∀ g : Fld, (∀ j < 32, bit lines.toNat j = true → g.key ≠ (F.FLD_Ln_STAT_SC (32 * k.val + j)).key) → t.rd g = s.rd g) ∧
          t = { s.noted t with answer := .done, fld := { s.fld with lines := t.fld.lines } }) ∧
  (∀ (init : Initiator) (k : Fin 4) (lines : BitVec 32) (s : State),
      s.Live → s.hvLink = false →
        exec (.lineLatchClear init k lines) s = .next (s.settle (s.refuseReg init (F.FLD_CLRk_LINES k).off 0x0805))) ∧
  (∀ (line : Fin 128) (s : State),
      s.Live → (s.line line).clearReq = false →
        exec (.cellCooled line) s = .next (s.settle (s.wr (F.FLD_Ln_STAT_OT line) 0))) ∧
  (∀ (line : Fin 128) (l : FldLine) (s : State),
      s.Live → s.line line = l → l.clearReq = true →
        exec (.cellCooled line) s = .next (s.settle (((s.wr (F.FLD_Ln_STAT_OT line) 0).setLine line { l with clearReq := false }).wr
          (F.FLD_Ln_STAT_SC line) 0))) ∧
  (∀ (line : Fin 128) (s : State),
      s.Live → s.lineOut line = true → s.rd (F.FLD_Ln_CFG_OL_EN line) ≠ 0 →
        exec (.openLoad line false) s = .next (s.settle (s.wr (F.FLD_Ln_STAT_OL line) 0)) ∧
          exec (.openLoad line true) s = .next (s.settle (((s.wr (F.FLD_Ln_STAT_OL line) 1).hvRaise (F.FLD_FAULTk_LINES (line.val / 32))
            (line.val % 32)).hvRaise F.FLD_IRQ_FAULT))) ∧
  (∀ (line : Fin 128) (s : State),
      s.Live → s.nextRestore (line.val / 8) = some line.val → s.feedOn (line.val / 8) = true →
        ∃ t, exec (.lineRestore line) s = .next t ∧ (t.line line).restore = false ∧
          (s.rd (F.FLD_Bb_CFG_RESTORE (line.val / 8)) ≠ 0 → s.rd (F.FLD_Ln_CFG_SAFE line) < 2 →
            t.rd (F.FLD_Ln_STAT_CMD line) = s.rd (F.FLD_Ln_CFG_SAFE line)) ∧
          (s.rd (F.FLD_Bb_CFG_RESTORE (line.val / 8)) = 0 → t.rd (F.FLD_Ln_STAT_CMD line) = s.rd (F.FLD_Ln_STAT_CMD line)) ∧
          s.SameRegs t [F.FLD_Ln_STAT_CMD line, F.FLD_Ln_STAT_SC line] ∧
          t = { s.noted t with fld := { s.fld with lines := t.fld.lines } })

/-- Seating for SEAT_DB takes a feed to COOLOFF while its cool-off runs, else to PRECHARGE while a rail is there. PRECHARGE, GATE and
QUALIFY follow each other; a gate that does not rise locks the feed out with its gates off. ON gives power-good. The fault timer starts
while the gates are on, stops, and its expiry is a retry like a fast trip. An open contact of a powered feed removes it; closing both
seats it again. -/
def Obligations.FeedSequence : Prop :=
  (∀ (feed : Fin 16) (s : State),
      s.Live → s.feedState feed = 1 → s.seated feed = true → s.rd (F.CHK_Fn_STATUS_COOL feed) ≠ 0 →
        exec (.seatDebounceExpiry feed) s = .next (s.settle ((s.feedEvt feed (F.CHK_Fn_EVT_INSERTED feed)).wr (F.CHK_Fn_STATUS_STATE feed) 7))) ∧
  (∀ (feed : Fin 16) (s : State),
      s.Live → s.feedState feed = 1 → s.seated feed = true → s.rd (F.CHK_Fn_STATUS_COOL feed) = 0 → s.rail = true →
        exec (.seatDebounceExpiry feed) s = .next (s.settle ((s.feedEvt feed (F.CHK_Fn_EVT_INSERTED feed)).wr (F.CHK_Fn_STATUS_STATE feed) 3))) ∧
  (∀ (feed : Fin 16) (second : Bool) (s : State),
      s.Live → s.rd (F.CHK_Fn_STATUS_SEAT_EN feed) ≠ 0 → 3 ≤ s.feedState feed → s.feedState feed ≤ 7 →
        ∃ t, exec (.seatContactOpen feed second) s = .next t ∧ t.rd (F.CHK_Fn_STATUS_STATE feed) = 2 ∧ t.rd (F.CHK_Fn_STATUS_PG feed) = 0 ∧
          t.rd (if second then F.CHK_Fn_STATUS_SEAT2 feed else F.CHK_Fn_STATUS_SEAT1 feed) = 0 ∧
          t.chk.removedClk.get? feed.val = some s.clk ∧
          (s.hvLink = true → t.rd (F.CHK_Fn_EVT_REMOVED feed) = 1 ∧ bit (t.rd F.CHK_IRQ_FEED) feed.val = true) ∧
          t = { s.noted t with fld := t.fld, chk := t.chk, slices := t.slices } ∧ s.SameBlocks t [9, 10]) ∧
  (∀ (feed : Fin 16) (second : Bool) (s : State),
      s.Live → s.feedState feed < 2 ∨ 8 < s.feedState feed ∨ s.rd (F.CHK_Fn_STATUS_SEAT_EN feed) = 0 →
      s.marked (.feedCleared feed) = false →
        ∃ t, exec (.seatContactOpen feed second) s = .next t ∧ t.rd (if second then F.CHK_Fn_STATUS_SEAT2 feed else F.CHK_Fn_STATUS_SEAT1 feed) = 0 ∧
          t = s.noted t ∧ s.SameRegs t [if second then F.CHK_Fn_STATUS_SEAT2 feed else F.CHK_Fn_STATUS_SEAT1 feed]) ∧
  (∀ (feed : Fin 16) (c : Nat) (s : State),
      s.Live → s.feedState feed = 2 → s.chk.removedClk.get? feed.val = some c → c + 2500000000 ≤ s.clk →
        ∃ t, exec (.seatContactsClosed ⟨feed, true, true⟩) s = .next t ∧ t.rd (F.CHK_Fn_STATUS_STATE feed) = 1 ∧ t.rd (F.CHK_Fn_STATUS_RETRY feed) = 0 ∧
          t.rd (F.CHK_Fn_STATUS_SEAT1 feed) = 1 ∧ t.rd (F.CHK_Fn_STATUS_SEAT2 feed) = 1 ∧
          t.chk = { s.chk with removedClk := s.chk.removedClk.erase feed.val } ∧
          (s.hvLink = true → t.rd (F.CHK_Fn_EVT_NEW_MODULE feed) = 1) ∧
          t = { s.noted t with fld := t.fld, chk := t.chk } ∧ s.SameBlocks t [9]) ∧
  (∀ (feed : Fin 16) (s : State),
      s.Live → s.feedState feed = 2 → s.chk.removedClk.get? feed.val = none →
        ∃ t, exec (.seatContactsClosed ⟨feed, true, true⟩) s = .next t ∧ t.rd (F.CHK_Fn_STATUS_STATE feed) = 1 ∧
          t.rd (F.CHK_Fn_STATUS_SEAT1 feed) = 1 ∧ t.rd (F.CHK_Fn_STATUS_SEAT2 feed) = 1 ∧
          t = { s.noted t with chk := { s.chk with removedClk := t.chk.removedClk } } ∧
          s.SameRegs t [F.CHK_Fn_STATUS_STATE feed, F.CHK_Fn_STATUS_SEAT1 feed, F.CHK_Fn_STATUS_SEAT2 feed]) ∧
  (∀ (feed : Fin 16) (s : State),
      s.Live → s.rd (F.CHK_Fn_STATUS_SEAT2 feed) = 0 →
        exec (.seatContactsClosed ⟨feed, true, false⟩) s = .next (s.settle (s.wr (F.CHK_Fn_STATUS_SEAT1 feed) 1))) ∧
  (∀ (feed : Fin 16) (s : State),
      s.Live → s.feedState feed = 3 →
        exec (.prechargeReached feed) s = .next (s.settle (s.wr (F.CHK_Fn_STATUS_STATE feed) 4))) ∧
  (∀ (feed : Fin 16) (s : State),
      s.Live → s.feedState feed = 4 →
        exec (.gateRise feed) s = .next (s.settle (s.wr (F.CHK_Fn_STATUS_STATE feed) 5))) ∧
  (∀ (feed : Fin 16) (s : State),
      s.Live → s.feedState feed = 4 →
        exec (.gateRiseTimeout feed) s = .next (s.settle (((s.gatesOff feed).feedEvt feed (F.CHK_Fn_EVT_LOCKOUT feed)).wr
          (F.CHK_Fn_STATUS_STATE feed) 9))) ∧
  (∀ (feed : Fin 16) (s : State),
      s.Live → s.feedState feed = 5 → s.rd (F.CHK_Fn_STATUS_FTMR feed) = 0 →
        ∃ t, exec (.qualifyComplete feed) s = .next t ∧ t.rd (F.CHK_Fn_STATUS_STATE feed) = 6 ∧ t.rd (F.CHK_Fn_STATUS_PG feed) = 1 ∧
          (s.hvLink = true → t.rd (F.CHK_Fn_EVT_PG_UP feed) = 1) ∧
          (∀ n < 128, n / 8 = feed.val → s.lineOut n = true → n ≠ (8 * feed.val) → s.lineOut (8 * feed.val) = true → (t.line n).restore = true) ∧
          t = { s.noted t with fld := t.fld } ∧ s.SameBlocks t [8, 9]) ∧
  (∀ (feed : Fin 16) (s : State),
      s.Live → s.feedState feed = 3 ∨ s.feedState feed = 4 ∨ s.feedState feed = 6 ∨ (s.feedState feed = 5 ∧ s.timerHeld feed = true) →
        exec (.faultTimerStart feed) s = .next (s.settle (s.wr (F.CHK_Fn_STATUS_FTMR feed) 1))) ∧
  (∀ (feed : Fin 16) (s : State),
      s.Live → s.feedState feed = 5 → s.timerHeld feed = false →
        exec (.faultTimerStart feed) s = .next (s.settle ((s.wr (F.CHK_Fn_STATUS_FTMR feed) 1).feedEvt feed (F.CHK_Fn_EVT_QUAL_RESTART feed)))) ∧
  (∀ (feed : Fin 16) (s : State),
      s.Live →
        (s.feedState feed < 3 ∨ 6 < s.feedState feed → exec (.faultTimerStart feed) s = .next (s.settle s) ∧ exec (.fastTrip feed) s = .next (s.settle s) ∧
            exec (.faultTimerExpiry feed) s = .next (s.settle s) ∧ exec (.prechargeReached feed) s = .next (s.settle s) ∧
            exec (.gateRise feed) s = .next (s.settle s) ∧ exec (.qualifyComplete feed) s = .next (s.settle s) ∧
            exec (.preTmoExpiry feed) s = .next (s.settle s) ∧ exec (.gateRiseTimeout feed) s = .next (s.settle s)) ∧
          (s.feedState feed ≠ 1 ∨ s.seated feed = false → exec (.seatDebounceExpiry feed) s = .next (s.settle s)) ∧
          (s.feedState feed ≠ 6 → exec (.retryClrExpiry feed) s = .next (s.settle s)) ∧
          (s.feedState feed ≠ 7 → exec (.cooloffExpiry feed) s = .next (s.settle (s.wr (F.CHK_Fn_STATUS_COOL feed) 0)))) ∧
  (∀ (feed : Fin 16) (s : State),
      s.Live →
        exec (.faultTimerStop feed) s = .next (s.settle (s.wr (F.CHK_Fn_STATUS_FTMR feed) 0))) ∧
  (∀ (feed : Fin 16) (s : State),
      s.Live → s.feedState feed = 7 → s.seated feed = true → s.rail = true →
        exec (.cooloffExpiry feed) s = .next (s.settle ((s.wr (F.CHK_Fn_STATUS_COOL feed) 0).wr (F.CHK_Fn_STATUS_STATE feed) 3))) ∧
  (∀ (feed : Fin 16) (s : State),
      s.Live → s.feedState feed = 6 →
        exec (.retryClrExpiry feed) s = .next (s.settle (s.wr (F.CHK_Fn_STATUS_RETRY feed) 0)))

/-- A pre-charge time-out, the fault timer's expiry and a fast trip each turn the gates off, count a retry (kept at most 15) and take the
feed to COOLOFF, or with the retries exhausted to LATCHED, with their event bits. The rail's loss sends every running feed to SUPPLY
without a retry, its return to SEATING. CLR takes LATCHED or LOCKOUT to SEATING with the count 0, or LATCHED to REMOVED where a contact
opens in the same cycle, and is refused with 0x0906 while the link is down. -/
def Obligations.FeedTrips : Prop :=
  (∀ (feed : Fin 16) (s : State),
      s.Live → s.feedState feed = 3 → s.rd (F.CHK_Fn_STATUS_RETRY feed) + 1 ≤ s.rd (F.CHK_Fn_CFG1_RETRY_MAX feed) →
        ∃ t, exec (.preTmoExpiry feed) s = .next t ∧ t.rd (F.CHK_Fn_STATUS_STATE feed) = 7 ∧ t.rd (F.CHK_Fn_STATUS_COOL feed) = 1 ∧
          t.rd (F.CHK_Fn_STATUS_RETRY feed) = min (s.rd (F.CHK_Fn_STATUS_RETRY feed) + 1) 15 ∧ t.rd (F.CHK_Fn_STATUS_PG feed) = 0 ∧
          (s.hvLink = true → t.rd (F.CHK_Fn_EVT_PRE_FAIL feed) = 1) ∧
          t = { s.noted t with fld := t.fld, chk := t.chk, slices := t.slices } ∧ s.SameBlocks t [9, 10]) ∧
  (∀ (feed : Fin 16) (s : State),
      s.Live → s.feedState feed = 5 ∨ s.feedState feed = 6 → s.timerRuns feed = true →
      s.rd (F.CHK_Fn_STATUS_RETRY feed) + 1 ≤ s.rd (F.CHK_Fn_CFG1_RETRY_MAX feed) →
        ∃ t, exec (.faultTimerExpiry feed) s = .next t ∧ t.rd (F.CHK_Fn_STATUS_STATE feed) = 7 ∧ t.rd (F.CHK_Fn_STATUS_COOL feed) = 1 ∧
          t.rd (F.CHK_Fn_STATUS_RETRY feed) = min (s.rd (F.CHK_Fn_STATUS_RETRY feed) + 1) 15 ∧ t.rd (F.CHK_Fn_STATUS_PG feed) = 0 ∧
          t.rd (F.CHK_Fn_STATUS_FTMR feed) = 0 ∧ (s.hvLink = true → t.rd (F.CHK_Fn_EVT_TRIP_TMR feed) = 1) ∧
          t = { s.noted t with fld := t.fld, chk := t.chk, slices := t.slices } ∧ s.SameBlocks t [9, 10]) ∧
  (∀ (feed : Fin 16) (s : State),
      s.Live → 3 ≤ s.feedState feed → s.feedState feed ≤ 6 →
      s.rd (F.CHK_Fn_CFG1_RETRY_MAX feed) < s.rd (F.CHK_Fn_STATUS_RETRY feed) + 1 →
        ∃ t, exec (.fastTrip feed) s = .next t ∧ t.rd (F.CHK_Fn_STATUS_STATE feed) = 8 ∧
          t.rd (F.CHK_Fn_STATUS_RETRY feed) = min (s.rd (F.CHK_Fn_STATUS_RETRY feed) + 1) 15 ∧ t.rd (F.CHK_Fn_STATUS_PG feed) = 0 ∧
          (s.hvLink = true → t.rd (F.CHK_Fn_EVT_TRIP_FAST feed) = 1 ∧ t.rd (F.CHK_Fn_EVT_LATCHED feed) = 1) ∧
          t = { s.noted t with fld := t.fld, chk := t.chk, slices := t.slices } ∧ s.SameBlocks t [9, 10]) ∧
  (∀ (s : State),
      s.Live → s.rail = false →
        ∃ t, exec .railLost s = .next t ∧ (∀ f < 16, t.rd (F.CHK_Fn_STATUS_STATE f) = if 3 ≤ s.feedState f ∧ s.feedState f ≤ 6 then 10 else s.feedState f) ∧
          (∀ f < 16, t.rd (F.CHK_Fn_STATUS_RETRY f) = s.rd (F.CHK_Fn_STATUS_RETRY f)) ∧
          (∀ f < 16, 3 ≤ s.feedState f → s.feedState f ≤ 6 → t.rd (F.CHK_Fn_STATUS_PG f) = 0) ∧
          t = { s.noted t with fld := t.fld, chk := t.chk, slices := t.slices } ∧ s.SameBlocks t [9, 10]) ∧
  (∀ (s : State),
      s.Live → s.rail = true →
        ∃ t, exec .railBack s = .next t ∧ (∀ f < 16, t.rd (F.CHK_Fn_STATUS_STATE f) = if s.feedState f = 10 then 1 else s.feedState f) ∧
          (∀ f < 16, s.feedState f = 11 → t.rd (F.CHK_Fn_STATUS_PG f) ≠ 0) ∧
          t = { s.noted t with fld := { s.fld with lines := t.fld.lines } } ∧ s.SameBlocks t [8, 9]) ∧
  (∀ (init : Initiator) (feed : Fin 16) (s : State),
      s.Live → s.hvLink = true → s.feedState feed = 9 ∨ (s.feedState feed = 8 ∧ s.marked (.contactOpened feed) = false) →
        ∃ t, exec (.feedClr init feed) s = .next t ∧ t.rd (F.CHK_Fn_STATUS_STATE feed) = 1 ∧ t.rd (F.CHK_Fn_STATUS_RETRY feed) = 0 ∧
          t = { s.noted t with answer := .done } ∧ s.SameRegs t [F.CHK_Fn_STATUS_STATE feed, F.CHK_Fn_STATUS_RETRY feed]) ∧
  (∀ (init : Initiator) (feed : Fin 16) (s : State),
      s.Live → s.hvLink = true → s.feedState feed = 8 → s.marked (.contactOpened feed) = true →
        ∃ t, exec (.feedClr init feed) s = .next t ∧ t.rd (F.CHK_Fn_STATUS_STATE feed) = 2 ∧ t.rd (F.CHK_Fn_STATUS_RETRY feed) = 0 ∧
          t.rd (F.CHK_Fn_EVT_REMOVED feed) = 1 ∧ t.answer = .done ∧ s.SameBlocks t [9, 10]) ∧
  (∀ (init : Initiator) (feed : Fin 16) (s : State),
      s.Live → s.hvLink = true → s.feedState feed < 8 ∨ 9 < s.feedState feed →
        exec (.feedClr init feed) s = .next (s.settle s.ack)) ∧
  (∀ (init : Initiator) (feed : Fin 16) (s : State),
      s.Live → s.hvLink = false →
        exec (.feedClr init feed) s = .next (s.settle (s.refuseReg init (F.CHK_Fn_CTL_CLR feed).off 0x0906)))

/-- A supply's window, its ORing FET and their interrupt follow the input; an overvoltage and a reverse turn the FET off; above 32 V it is
still on until the overvoltage time has passed. A calibration or a loopback starts on a standby twin or in a maintenance window, answers
0x0901 or 0x0801 otherwise, and is refused while one runs or the HV link is down. Its completion writes the offsets or failing lines and
the result. What a standby expects on a line is the model's reading of R167 (log entry 20). -/
def Obligations.SuppliesAndTests : Prop :=
  (∀ (b : Bool) (volts : BitVec 12) (s : State),
      s.Live → s.rd (winF b) ≠ 0 →
        exec (.supplyInWindow b true volts) s = .next (s.settle (s.wr (voltF b) volts.toNat))) ∧
  (∀ (b : Bool) (volts : BitVec 12) (s : State),
      s.Live → s.rd (winF b) ≠ 0 → s.rd (onF b) ≠ 0 → volts.toNat ≤ 3200 →
        exec (.supplyInWindow b false volts) s = .next (s.settle
          (((((s.wr (voltF b) volts.toNat).wr (winF b) 0).hvRaise (supIrqF b)).wr (onF b) 0).hvRaise (supIrqF b)))) ∧
  (∀ (b : Bool) (volts : BitVec 12) (s : State),
      s.Live → s.rd (winF b) ≠ 0 → 3200 < volts.toNat →
        exec (.supplyInWindow b false volts) s = .next (s.settle (((s.wr (voltF b) volts.toNat).wr (winF b) 0).hvRaise (supIrqF b)))) ∧
  (∀ (b : Bool) (volts : BitVec 12) (s : State),
      s.Live → s.rd (winF b) = 0 →
        exec (.supplyInWindow b true volts) s = .next (s.settle (((s.wr (voltF b) volts.toNat).wr (winF b) 1).hvRaise (supIrqF b))) ∧
          exec (.insDlyExpiry b) s = .next (s.settle s)) ∧
  (∀ (b : Bool) (s : State),
      s.Live → s.rd (winF b) ≠ 0 → s.rd (onF b) = 0 →
        exec (.insDlyExpiry b) s = .next (s.settle ((s.wr (onF b) 1).hvRaise (supIrqF b)))) ∧
  (∀ (b : Bool) (s : State),
      s.Live → s.rd (winF b) ≠ 0 → s.rd (onF b) ≠ 0 →
        exec (.supplyOvervoltage b) s = .next (s.settle ((((s.wr (winF b) 0).hvRaise (supIrqF b)).wr (onF b) 0).hvRaise (supIrqF b)))) ∧
  (∀ (b : Bool) (s : State),
      s.Live → s.rd F.CHK_SUP_A_ON ≠ 0 → s.rd F.CHK_SUP_B_ON ≠ 0 →
        exec (.oringReverse b) s = .next (s.settle ((s.wr (onF b) 0).hvRaise (supIrqF b)))) ∧
  (∀ (init : Initiator) (feeds : BitVec 16) (s : State),
      s.Live → s.hvLink = true → s.chk.calibrating = none →
        exec (.chkCal init true feeds) s = .next (s.settle { (((s.wr F.CHK_CAL_MAINT 1).wr F.CHK_CAL_FEEDS feeds.toNat).ack.resStart RR.CHK_CAL_RES) with
          chk := { s.chk with calibrating := some (feeds.toNat, s.clk) } })) ∧
  (∀ (init : Initiator) (feeds : BitVec 16) (s : State),
      s.Live → s.hvLink = true → s.chk.calibrating = none → s.role = 0 →
        exec (.chkCal init false feeds) s = .next (s.settle ((((s.wr F.CHK_CAL_MAINT 0).wr F.CHK_CAL_FEEDS feeds.toNat).ack.resStart RR.CHK_CAL_RES).resDone
          RR.CHK_CAL_RES 0x0901))) ∧
  (∀ (init : Initiator) (maint : Bool) (feeds : BitVec 16) (s : State),
      s.Live → s.hvLink = true → s.chk.calibrating.isSome = true →
        exec (.chkCal init maint feeds) s = .next (s.settle (s.refuseReg init F.CHK_CAL_GO.off 0x0905))) ∧
  (∀ (o : Int) (f : Fin 16) (m c : Nat) (s : State),
      s.Live → s.chk.calibrating = some (m, c) → bit m f.val = true → -200 ≤ o → o ≤ 200 →
        exec (.chkCalComplete [(f, o)]) s = .next (s.settle ({ s.wr (F.CHK_Fn_CALOFS_OFS f) (ofSigned 16 o) with
          chk := { s.chk with calibrating := none } }.resDone RR.CHK_CAL_RES 0))) ∧
  (∀ (o : Int) (f : Fin 16) (m c : Nat) (s : State),
      s.Live → s.chk.calibrating = some (m, c) → bit m f.val = true → o < -200 ∨ 200 < o →
        exec (.chkCalComplete [(f, o)]) s = .next (s.settle ({ s with chk := { s.chk with calibrating := none } }.resDone RR.CHK_CAL_RES 0x0903))) ∧
  (∀ (init : Initiator) (banks : BitVec 16) (s : State),
      s.Live → s.hvLink = true → s.fld.loopback = none → s.role = 0 →
        exec (.fldLb init false banks) s = .next (s.settle ((((s.wr F.FLD_LB_MAINT 0).wr F.FLD_LB_BANKS banks.toNat).ack.resStart RR.FLD_LB_RES).resDone
          RR.FLD_LB_RES 0x0801))) ∧
  (∀ (init : Initiator) (maint : Bool) (banks : BitVec 16) (s : State),
      s.Live → s.hvLink = true → s.fld.loopback.isSome = true →
        exec (.fldLb init maint banks) s = .next (s.settle (s.refuseReg init F.FLD_LB_GO.off 0x0806))) ∧
  (∀ (init : Initiator) (banks : BitVec 16) (s : State),
      s.Live → s.hvLink = true → s.fld.loopback = none →
        exec (.fldLb init true banks) s = .next (s.settle { (((s.wr F.FLD_LB_MAINT 1).wr F.FLD_LB_BANKS banks.toNat).ack.resStart RR.FLD_LB_RES) with
          fld := { s.fld with loopback := some (banks.toNat, s.clk) } })) ∧
  (∀ (init : Initiator) (maint : Bool) (banks : BitVec 16) (s : State),
      s.Live → s.hvLink = false →
        exec (.fldLb init maint banks) s = .next (s.settle (s.refuseReg init F.FLD_LB_GO.off 0x0805)) ∧
          exec (.chkCal init maint banks) s = .next (s.settle (s.refuseReg init F.CHK_CAL_GO.off 0x0906))) ∧
  (∀ (m c : Nat) (levels : BitVec 128) (s : State),
      s.Live → s.fld.loopback = some (m, c) →
      (∀ n < 128, bit m (n / 8) = true → s.lineOut n = true → bit levels.toNat n = s.loopExpects n) →
        ∃ t, exec (.fldLbComplete levels) s = .next t ∧ (∀ k < 4, t.rd (F.FLD_LB_FAILk_LINES k) = 0) ∧ t.rd F.STT_HREP_LOOP = 1 ∧
          t.rd F.FLD_LB_RES_VALID = 1 ∧ t.rd F.FLD_LB_RES_CODE = 0 ∧ t = { s.noted t with fld := { s.fld with loopback := none } } ∧ s.SameBlocks t [8, 22]) ∧
  (∀ (m c n : Nat) (levels : BitVec 128) (s : State),
      s.Live → s.fld.loopback = some (m, c) → n < 128 → bit m (n / 8) = true → s.lineOut n = true →
      bit levels.toNat n ≠ s.loopExpects n →
        ∃ t, exec (.fldLbComplete levels) s = .next t ∧
          (∀ j < 128, bit (t.rd (F.FLD_LB_FAILk_LINES (j / 32))) (j % 32) = (bit m (j / 8) && s.lineOut j && bit levels.toNat j != s.loopExpects j)) ∧
          t.rd F.STT_HREP_LOOP = 0 ∧ t.rd F.FLD_LB_RES_VALID = 1 ∧ t.rd F.FLD_LB_RES_CODE = 0x0803 ∧
          t = { s.noted t with fld := { s.fld with loopback := none } } ∧ s.SameBlocks t [8, 22]) ∧
  (∀ (levels : BitVec 128) (offsets : List (Fin 16 × Int)) (s : State),
      s.Live →
        (s.fld.loopback = none → exec (.fldLbComplete levels) s = .next (s.settle s)) ∧
          (s.chk.calibrating = none → exec (.chkCalComplete offsets) s = .next (s.settle s))) ∧
  (∀ (b : Bool) (s : State),
      s.Live → s.rd F.CHK_SUP_A_ON = 0 ∨ s.rd F.CHK_SUP_B_ON = 0 →
        exec (.oringReverse b) s = .next (s.settle s)) ∧
  (∀ (s : State),
      s.Live →
        (s.rail = true → exec .railLost s = .next (s.settle s)) ∧ (s.rail = false → exec .railBack s = .next (s.settle s)))

/-- A start latches a quadrature count, runs a pulse generator, becomes pending (START_MODE, TRIG, a running pattern), or is lost while
one is pending; one in the cycle of EN = 0 is discarded. Enabling only lets the personality run; disabling ends packets in progress, with
END and TRUNC in the last RX item. A flush is requested, takes effect at the packet's boundary and completes with code 0, or after
PSL_FLUSH_TMO with 0x0A03. A slice pin is high-impedance without an Almanac or a PORT section; a quarantined hub's pins and those of a
slice with EN = 0 take their SAFE values, a standby's are released. -/
def Obligations.SliceControl : Prop :=
  (∀ (slice : Fin 48) (s : State),
      s.Live → s.sliceRuns slice = true → s.stopAhead slice = false →
      s.startMode slice = 1 ∨ (s.pers slice = 5 ∧ s.rd (F.PSL_SSI_P0_TRIG slice) = 1) ∨ (s.pers slice = 7 ∧ s.rd (F.PSL_PULSE_P5_RUN slice) ≠ 0) →
      (s.slice slice).start = false →
        exec (.sliceStart slice) s = .next (s.settle ((s.setSlice slice { s.slice slice with start := true }).ack))) ∧
  (∀ (slice : Fin 48) (s : State),
      s.Live → s.sliceRuns slice = true → s.stopAhead slice = false →
      s.startMode slice = 1 ∨ (s.pers slice = 5 ∧ s.rd (F.PSL_SSI_P0_TRIG slice) = 1) ∨ (s.pers slice = 7 ∧ s.rd (F.PSL_PULSE_P5_RUN slice) ≠ 0) →
      (s.slice slice).start = true →
        exec (.sliceStart slice) s = .next (s.settle ((s.bump (F.PSL_Sn_CNT_START_OVR slice)).raise (F.PSL_Sn_IRQ_START_OVR slice)).ack)) ∧
  (∀ (slice : Fin 48) (s : State),
      s.Live → s.sliceRuns slice = false ∨ s.stopAhead slice = true →
        exec (.sliceStart slice) s = .next (s.settle s.ack)) ∧
  (∀ (slice : Fin 48) (s : State),
      s.Live → s.sliceRuns slice = true → s.stopAhead slice = false → s.pers slice = 6 →
        exec (.sliceStart slice) s = .next (s.settle ((((s.wr (F.PSL_QUAD_P3_LATCH_LO slice) (s.rd (F.PSL_QUAD_P1_COUNT_LO slice))).wr
          (F.PSL_QUAD_P4_LATCH_HI slice) (s.rd (F.PSL_QUAD_P2_COUNT_HI slice))).raise (F.PSL_QUAD_P8_STARTLAT slice)).ack))) ∧
  (∀ (slice : Fin 48) (s : State),
      s.Live → s.sliceRuns slice = true → s.stopAhead slice = false → s.pers slice = 7 → s.rd (F.PSL_PULSE_P5_RUN slice) = 0 →
        exec (.sliceStart slice) s = .next (s.settle ((((s.wr (F.PSL_PULSE_P5_RUN slice) 1).wr (F.PSL_PULSE_P6_PCOUNT slice) 0).setSlice slice
          { s.slice slice with dir := s.on (F.PSL_PULSE_P4_DIR slice), start := false, phase := 0, running := (s.slice slice).pair }).ack))) ∧
  (∀ (slice : Fin 48) (s : State),
      s.Live → s.rd (F.PSL_Sn_CTL_EN slice) = 0 → s.pers slice ≠ 7 → s.pers slice ≠ 8 →
        exec (.sliceEnable slice true) s = .next (s.settle (s.wr (F.PSL_Sn_CTL_EN slice) 1).ack)) ∧
  (∀ (slice : Fin 48) (s : State),
      s.Live → s.rd (F.PSL_Sn_CTL_EN slice) = 0 → s.pers slice = 8 →
        ∃ t, exec (.sliceEnable slice true) s = .next t ∧ t.rd (F.PSL_Sn_CTL_EN slice) = 1 ∧
          t.rd (F.PSL_IOL_P3_STATE slice) = (if s.iolFeed slice then min 3 (s.rd (F.PSL_IOL_P0_MODE slice)) else 8) ∧
          t.rd (F.PSL_IOL_P3_PDVALID slice) = 0 ∧ t.slice slice = { s.slice slice with failures := 0 } ∧
          (∀ n : Nat, n ≠ slice.val → t.slice n = s.slice n) ∧ t = { s.noted t with answer := .done, slices := t.slices } ∧
          s.SameRegs t [F.PSL_Sn_CTL_EN slice, F.PSL_IOL_P3_STATE slice, F.PSL_IOL_P3_PDVALID slice]) ∧
  (∀ (slice : Fin 48) (en : Bool) (s : State),
      s.Live → ((s.rd (F.PSL_Sn_CTL_EN slice) ≠ 0) ↔ (en = true)) →
        exec (.sliceEnable slice en) s = .next (s.settle s.ack)) ∧
  (∀ (slice : Fin 48) (x : SliceState) (s : State),
      s.Live → s.rd (F.PSL_Sn_CTL_EN slice) ≠ 0 → s.endAhead slice = false → s.slice slice = x → x.flushRx = false →
      x.flushTx = false → x.rxBusy = false →
        ∃ t, exec (.sliceEnable slice false) s = .next t ∧ t.rd (F.PSL_Sn_CTL_EN slice) = 0 ∧
          t.slice slice = { x with sending := false, begun := [], start := false, kept := [] } ∧
          (s.pers slice = 7 → t.rd (F.PSL_PULSE_P5_RUN slice) = 0) ∧ (∀ n : Nat, n ≠ slice.val → t.slice n = s.slice n) ∧
          t = { s.noted t with answer := .done, slices := t.slices } ∧ s.SameRegs t [F.PSL_Sn_CTL_EN slice, F.PSL_PULSE_P5_RUN slice]) ∧
  (∀ (slice : Fin 48) (x : SliceState) (s : State),
      s.Live → s.rd (F.PSL_Sn_CTL_EN slice) ≠ 0 → s.endAhead slice = false → s.slice slice = x → x.flushRx = false →
      x.flushTx = false → x.rxBusy = true → x.dropping = false →
        ∃ t, exec (.sliceEnable slice false) s = .next t ∧ t.rd (F.PSL_Sn_CTL_EN slice) = 0 ∧
          t.slice slice = { x with rx := x.rx ++ [mkItem x.fill true true x.fillErr x.fillAttr], fill := [], fillErr := false, fillAttr := false, rxBusy := false, stored := 0, sending := false, begun := [], start := false, kept := [] } ∧
          t.rd (F.PSL_Sn_IRQ_TRUNC slice) = 1 ∧ t.rd (F.PSL_Sn_CNT_TRUNC slice) = satAdd (F.PSL_Sn_CNT_TRUNC slice).w (s.rd (F.PSL_Sn_CNT_TRUNC slice)) 1 ∧
          (∀ n : Nat, n ≠ slice.val → t.slice n = s.slice n) ∧ t = { s.noted t with answer := .done, slices := t.slices } ∧
          s.SameRegs t [F.PSL_Sn_CTL_EN slice, F.PSL_PULSE_P5_RUN slice, F.PSL_Sn_IRQ_TRUNC slice, F.PSL_Sn_CNT_TRUNC slice, F.PSL_Sn_IRQ_RXPKT slice, F.PSL_Sn_CNT_ERR slice, F.PSL_Sn_IRQ_ERR slice]) ∧
  (∀ (slice : Fin 48) (x : SliceState) (s : State),
      s.Live → s.slice slice = x → x.flushRx = false → x.flushTx = false →
        exec (.rxFlush slice) s = .next (s.settle (((s.resStart (RR.PSL_Sn_FLUSH_RES slice)).setSlice slice { x with flushRx := true }).ack)) ∧
          exec (.txFlush slice) s = .next (s.settle (((s.resStart (RR.PSL_Sn_FLUSH_RES slice)).setSlice slice { x with flushTx := true }).ack))) ∧
  (∀ (slice : Fin 48) (x : SliceState) (s : State),
      s.Live → s.slice slice = x → x.flushRx = true ∨ x.flushTx = true →
        exec (.rxFlush slice) s = .next (s.settle ((s.setSlice slice { x with flushRx := true }).ack)) ∧
          exec (.txFlush slice) s = .next (s.settle ((s.setSlice slice { x with flushTx := true }).ack))) ∧
  (∀ (slice : Fin 48) (x : SliceState) (s : State),
      s.Live → s.slice slice = x → x.flushRx = true → x.flushTx = false → x.rxBusy = false →
        ∃ t, exec (.flushEffect slice) s = .next t ∧ t.slice slice = { x with rx := [], flushRx := false } ∧
          (∀ n : Nat, n ≠ slice.val → t.slice n = s.slice n) ∧
          t.rd (F.PSL_Sn_FLUSH_RES_VALID slice) = 1 ∧ t.rd (F.PSL_Sn_FLUSH_RES_CODE slice) = 0 ∧ t.rd (F.PSL_Sn_IRQ_FLUSHED slice) = 1 ∧
          t = { s.noted t with slices := t.slices } ∧
          s.SameRegs t [F.PSL_Sn_FLUSH_RES_VALID slice, F.PSL_Sn_FLUSH_RES_STALE slice, F.PSL_Sn_FLUSH_RES_CODE slice, F.PSL_Sn_IRQ_FLUSHED slice]) ∧
  (∀ (slice : Fin 48) (x : SliceState) (s : State),
      s.Live → s.slice slice = x → x.flushTx = true → x.flushRx = false → x.sending = false → s.cycle = [] →
        ∃ t, exec (.flushEffect slice) s = .next t ∧ t.slice slice = { x with tx := [], flushTx := false } ∧
          (∀ n : Nat, n ≠ slice.val → t.slice n = s.slice n) ∧
          t.rd (F.PSL_Sn_FLUSH_RES_VALID slice) = 1 ∧ t.rd (F.PSL_Sn_FLUSH_RES_CODE slice) = 0 ∧ t.rd (F.PSL_Sn_IRQ_FLUSHED slice) = 1 ∧
          t = { s.noted t with slices := t.slices }) ∧
  (∀ (slice : Fin 48) (x : SliceState) (s : State),
      s.Live → s.slice slice = x → (x.flushRx = false ∧ x.flushTx = false) ∨ (x.rxBusy = false ∧ x.sending = false) →
        exec (.flushTmoExpiry slice) s = .next (s.settle s) ∧ (x.flushRx = false → x.flushTx = false → exec (.flushEffect slice) s = .next (s.settle s))) ∧
  (∀ (slice : Fin 48) (x : SliceState) (s : State),
      s.Live → s.slice slice = x → x.flushTx = true → x.flushRx = false → x.sending = true → x.kept = [] → s.endAhead slice = false →
        ∃ t, exec (.flushTmoExpiry slice) s = .next t ∧ t.slice slice = { x with tx := [], sending := false, begun := [], flushTx := false } ∧
          (∀ n : Nat, n ≠ slice.val → t.slice n = s.slice n) ∧
          t.rd (F.PSL_Sn_FLUSH_RES_VALID slice) = 1 ∧ t.rd (F.PSL_Sn_FLUSH_RES_CODE slice) = 0x0A03 ∧ t.rd (F.PSL_Sn_IRQ_FLUSHED slice) = 1 ∧
          t = { s.noted t with slices := t.slices } ∧
          s.SameRegs t [F.PSL_Sn_FLUSH_RES_VALID slice, F.PSL_Sn_FLUSH_RES_STALE slice, F.PSL_Sn_FLUSH_RES_CODE slice, F.PSL_Sn_IRQ_FLUSHED slice]) ∧
  (∀ (n k : Nat) (s : State),
      s.Live →
        (s.almInForce = false ∨ bit s.ported n = false ∨ s.padsOff n = true → s.slicePin n k = .highZ 0) ∧
          (s.almInForce = true → bit s.ported n = true → s.padsOff n = false → s.pers n ≠ 9 → bit (s.rd (F.PSL_Sn_CFG_PINS n)) k = true →
            s.role ≠ roleFenced →
              (s.standby = true → s.slicePin n k = .highZ (s.padPull n k)) ∧
              (s.standby = false → (s.pinQuar = true ∨ (s.powered (s.pinPower n k) = true ∧ s.rd (F.PSL_Sn_CTL_EN n) = 0)) →
                s.slicePin n k = (if bits (s.rd (F.PSL_Sn_CFG_SAFE n)) (2 * k) 2 = 0 then .highZ (s.padPull n k)
                  else if bits (s.rd (F.PSL_Sn_CFG_SAFE n)) (2 * k) 2 = 3 then .highZ 1
                  else .level (bits (s.rd (F.PSL_Sn_CFG_SAFE n)) (2 * k) 2 == 2)))) ∧
          (∀ m j : Nat, s.almInForce = true → bit s.ported n = true → s.padsOff n = false → s.role ≠ roleFenced → s.standby = false → s.pinQuar = false →
            (s.pers n = 9 ∨ bit (s.rd (F.PSL_Sn_CFG_PINS n)) k = false) → s.sawOf n k = some (m, j) → s.powered (sawPower m) = true →
            s.sawDir m j = true → s.slicePin n k = .level (bit (s.saw m).out j)))

/-- Each unit read from an RX port returns and removes the oldest closed item, or the idle item; each unit written to a TX port that is an
item of data joins the TX flume while it has room, an idle unit is discarded, a reserved one counts TXBAD, one without room TXOVF. A page
of an unassigned slice is refused with 0x0005, a bad form (a byte not enabled among them) or direction with 0x0A01. -/
def Obligations.FlumePorts : Prop :=
  (∀ (init : Initiator) (slice : Fin 48) (off len : Nat) (x : SliceState) (s : State),
      s.Live → bit s.ported slice.val = true → portForm off len true = true → off < 0x800 → s.slice slice = x → s.cycle = [] →
        ∃ t, exec (.rxPortRead init slice off ⟨len, true⟩) s = .next t ∧ t.slice slice = { x with rx := x.rx.drop (len / 8) } ∧
          t.answer = .data (x.rx.take (len / 8) ++ List.replicate (len / 8 - x.rx.length) (2 ^ 63)) ∧
          (∀ n : Nat, n ≠ slice.val → t.slice n = s.slice n) ∧ t = { s.noted t with slices := t.slices, answer := t.answer } ∧ s.SameRegs t []) ∧
  (∀ (init : Initiator) (slice : Fin 48) (off len : Nat) (data : List Byte) (enabled : Bool) (s : State),
      s.Live → bit s.ported slice.val = false →
        exec (.rxPortRead init slice off ⟨len, enabled⟩) s = .next (s.settle (s.refuse init (s.ownFa 2 (slice.val * 0x1000 + off)) 0x0005)) ∧
          exec (.txPortWrite init slice off ⟨data, enabled⟩) s = .next (s.settle (s.refuse init (s.ownFa 2 (slice.val * 0x1000 + off)) 0x0005))) ∧
  (∀ (init : Initiator) (slice : Fin 48) (off len : Nat) (data : List Byte) (enabled : Bool) (s : State),
      s.Live → bit s.ported slice.val = true →
        (portForm off len enabled = false ∨ 0x800 ≤ off →
            exec (.rxPortRead init slice off ⟨len, enabled⟩) s = .next (s.settle (s.refuse init (s.ownFa 2 (slice.val * 0x1000 + off)) 0x0A01))) ∧
          (portForm off data.length enabled = false ∨ off < 0x800 →
            exec (.txPortWrite init slice off ⟨data, enabled⟩) s = .next (s.settle (s.refuse init (s.ownFa 2 (slice.val * 0x1000 + off)) 0x0A01)))) ∧
  (∀ (init : Initiator) (slice : Fin 48) (x : SliceState) (data : List Byte) (u : Nat) (s : State),
      s.Live → bit s.ported slice.val = true → s.slice slice = x → data.length = 8 → leAt (data.map BitVec.toNat) 0 8 = u →
      bit u 63 = false → bit u 61 = false → bit u 60 = false → bits u 56 3 ≠ 0 → x.tx.length < 256 →
        ∃ t, exec (.txPortWrite init slice 0x800 ⟨data, true⟩) s = .next t ∧ t.slice slice = { x with tx := x.tx ++ [u] } ∧
          (∀ n : Nat, n ≠ slice.val → t.slice n = s.slice n) ∧ t = { s.noted t with slices := t.slices, answer := .done } ∧ s.SameRegs t []) ∧
  (∀ (init : Initiator) (slice : Fin 48) (data : List Byte) (u : Nat) (s : State),
      s.Live → bit s.ported slice.val = true → data.length = 8 → leAt (data.map BitVec.toNat) 0 8 = u → bit u 63 = false →
      bit u 61 = true ∨ bit u 60 = true ∨ bits u 56 3 = 0 →
        exec (.txPortWrite init slice 0x800 ⟨data, true⟩) s = .next (s.settle (((s.bump (F.PSL_Sn_CNT_TXBAD slice)).raise (F.PSL_Sn_IRQ_TXBAD slice)).ack))) ∧
  (∀ (init : Initiator) (slice : Fin 48) (data : List Byte) (u : Nat) (s : State),
      s.Live → bit s.ported slice.val = true → data.length = 8 → leAt (data.map BitVec.toNat) 0 8 = u →
        (bit u 63 = true → exec (.txPortWrite init slice 0x800 ⟨data, true⟩) s = .next (s.settle s.ack)) ∧
          (bit u 63 = false → bit u 61 = false → bit u 60 = false → bits u 56 3 ≠ 0 → 256 ≤ (s.slice slice).tx.length →
            exec (.txPortWrite init slice 0x800 ⟨data, true⟩) s = .next (s.settle (((s.bump (F.PSL_Sn_CNT_TXBAD slice)).raise (F.PSL_Sn_IRQ_TXOVF slice)).ack))))

/-- A received character joins the item being filled; a delimiter or a gap closes the packet with END and RXPKT. A TX packet is sent to
its END item, removed and reported with TXDONE. An SPI transfer and an I2C transaction take one TX packet and give one RX packet; an I2C
packet ends with its status byte, and a missing acknowledgement ends the sending. A packet of 256 items without END begins all the same. A
slave select answers with the TX packet and FILL. -/
def Obligations.SerialPersonalities : Prop :=
  (∀ (slice : Fin 48) (char : BitVec 9) (bad brk : Bool) (x : SliceState) (s : State),
      s.Live → s.sliceRuns slice = true → s.pers slice = 1 → s.slice slice = x → s.padsOff slice = false → x.fill = [] →
      x.dropping = false → x.rx.length < 255 → s.par slice (F.PSL_UART_P0_DBITS slice) ≠ 4 →
      s.par slice (F.PSL_UART_P0_DELIM_EN slice) = 0 → s.par slice (F.PSL_UART_P2_LEN slice) = 0 →
        exec (.uartCharacterReceived slice char bad brk) s = .next (s.settle (s.setSlice slice
          { x with fill := [if brk then 0 else char.toNat % 256], fillErr := x.fillErr || (bad || brk), fillAttr := x.fillAttr || brk, rxBusy := true, stored := x.stored + 1 }))) ∧
  (∀ (slice : Fin 48) (char : BitVec 9) (x : SliceState) (s : State),
      s.Live → s.sliceRuns slice = true → s.pers slice = 1 → s.slice slice = x → s.padsOff slice = false → x.fill = [] →
      x.fillErr = false → x.dropping = false → x.kept = [] → x.rx.length < 255 → s.marked (.stopAfterEnd slice) = false →
      s.par slice (F.PSL_UART_P0_DBITS slice) ≠ 4 → s.par slice (F.PSL_UART_P0_DELIM_EN slice) ≠ 0 →
      s.par slice (F.PSL_UART_P0_STRIP slice) = 0 → s.par slice (F.PSL_UART_P0_DELIM slice) = char.toNat →
        ∃ t, exec (.uartCharacterReceived slice char false false) s = .next t ∧
          t.slice slice = { x with rx := x.rx ++ [mkItem [char.toNat % 256] true false false x.fillAttr], fillAttr := false, rxBusy := false, stored := 0 } ∧
          (∀ n : Nat, n ≠ slice.val → t.slice n = s.slice n) ∧ t.rd (F.PSL_Sn_IRQ_RXPKT slice) = 1 ∧
          s.SameRegs t [F.PSL_Sn_IRQ_RXPKT slice] ∧ t = { s.noted t with slices := t.slices }) ∧
  (∀ (slice : Fin 48) (x : SliceState) (s : State),
      s.Live → s.sliceRuns slice = true → s.pers slice = 1 → s.slice slice = x → s.par slice (F.PSL_UART_P0_GAP slice) ≠ 0 →
      x.rxBusy = true → x.dropping = false → x.stored ≠ 0 → x.fill ≠ [] → x.fillErr = false → x.kept = [] →
      s.marked (.stopAfterEnd slice) = false →
        ∃ t, exec (.uartGapExpiry slice) s = .next t ∧
          t.slice slice = { x with rx := x.rx ++ [mkItem x.fill true false false x.fillAttr], fill := [], fillErr := false, fillAttr := false, rxBusy := false, dropping := false, stored := 0 } ∧
          (∀ n : Nat, n ≠ slice.val → t.slice n = s.slice n) ∧ t.rd (F.PSL_Sn_IRQ_RXPKT slice) = 1 ∧
          s.SameRegs t [F.PSL_Sn_IRQ_RXPKT slice] ∧ t = { s.noted t with slices := t.slices }) ∧
  (∀ (slice : Fin 48) (x : SliceState) (s : State),
      s.Live → s.slice slice = x → s.mayStart slice = true →
      s.pers slice = 1 ∨ s.pers slice = 2 ∨ s.pers slice = 4 ∨ s.pers slice = 8 → x.whole = true →
        exec (.txPacketSend slice) s = .next (s.settle (s.setSlice slice { x with sending := true, start := x.start && s.startMode slice != 1 }))) ∧
  (∀ (slice : Fin 48) (x : SliceState) (s : State),
      s.Live → s.slice slice = x → s.mayStart slice = true → s.pers slice = 1 → s.padsOff slice = false → x.whole = false →
      x.tx.length = 256 →
        ∃ t, exec (.txPacketSend slice) s = .next t ∧ t.slice slice = { x with sending := true, start := x.start && s.startMode slice != 1, tx := [] } ∧
          (∀ n : Nat, n ≠ slice.val → t.slice n = s.slice n) ∧ (∃ l, t.egress = s.egress ++ [.serial slice (x.tx.flatMap itemBytes)] ++ l) ∧
          t = { s.noted t with slices := t.slices } ∧ s.SameRegs t []) ∧
  (∀ (slice : Fin 48) (x : SliceState) (s : State),
      s.Live → s.slice slice = x → s.mayStart slice = false ∨ (x.whole = false ∧ x.tx.length ≠ 256) → x.sending = false →
        exec (.txPacketSend slice) s = .next (s.settle s) ∧ exec (.txPacketDone slice) s = .next (s.settle s)) ∧
  (∀ (slice : Fin 48) (x : SliceState) (i : Nat) (l : List Nat) (s : State),
      s.Live → s.slice slice = x → x.sending = true → x.tx = i :: l → itemEnd i = true → x.kept = [] →
      s.marked (.stopAfterEnd slice) = false →
      (s.pers slice = 1 ∧ s.padsOff slice = false) ∨ (s.pers slice = 8 ∧ s.iolLive slice = true) →
        exec (.txPacketDone slice) s = .next (s.settle (((s.setSlice slice { x with sending := false, tx := l }).emit
          (.serial slice (itemBytes i))).raise (F.PSL_Sn_IRQ_TXDONE slice)))) ∧
  (∀ (slice : Fin 48) (miso : List Byte) (x : SliceState) (i : Nat) (l : List Nat) (s : State),
      s.Live → s.slice slice = x → s.mayStart slice = true → s.pers slice = 2 → s.padsOff slice = false → x.tx = i :: l →
      itemEnd i = true → x.kept = [] →
        exec (.spiMasterTransfer slice miso) s = .next (s.settle (((((s.setSlice slice { x with tx := l, start := x.start && s.startMode slice != 1 }).rxBytes
          slice (bytesAt (miso.map BitVec.toNat) 0 (itemBytes i).length)).emit (.serial slice (itemBytes i))).rxEnd slice).raise (F.PSL_Sn_IRQ_TXDONE slice)))) ∧
  (∀ (slice : Fin 48) (b : Byte) (x : SliceState) (s : State),
      s.Live → s.sliceRuns slice = true → s.pers slice = 3 → s.padsOff slice = false → s.slice slice = x → x.tx = [] →
        exec (.spiSlaveSelect slice [b] false) s = .next (s.settle ((((s.setSlice slice x).rxByte slice b.toNat true false).rxEnd slice).emit
          (.serial slice [s.par slice (F.PSL_SPI_P0_FILL slice)])))) ∧
  (∀ (slice : Fin 48) (b : Byte) (x : SliceState) (i : Nat) (l : List Nat) (c : Nat) (s : State),
      s.Live → s.sliceRuns slice = true → s.pers slice = 3 → s.padsOff slice = false → s.slice slice = x → x.tx = i :: l →
      itemEnd i = true → itemBytes i = [c] →
        exec (.spiSlaveSelect slice [b] false) s = .next (s.settle (((((s.setSlice slice { x with tx := l }).rxByte slice b.toNat false false).rxEnd slice).emit
          (.serial slice [c])).raise (F.PSL_Sn_IRQ_TXDONE slice)))) ∧
  (∀ (slice : Fin 48) (x : SliceState) (i : Nat) (l : List Nat) (s : State),
      s.Live → s.mayStart slice = true → s.pers slice = 4 → s.padsOff slice = false → s.slice slice = x → x.tx = i :: l →
      itemEnd i = true → itemBytes i = [0xA0, 0x55] → x.begun = [] → x.kept = [] →
        exec (.i2cTransaction slice ⟨0, 0⟩ []) s = .next (s.settle ((((((s.setSlice slice { x with tx := l }).rxByte slice 0 false false)).rxEnd slice).emit
          (.serial slice [0xA0, 0x55])).raise (F.PSL_Sn_IRQ_TXDONE slice))) ∧
          exec (.i2cTransaction slice ⟨1, 0⟩ []) s = .next (s.settle ((((((s.setSlice slice { x with tx := l }).rxByte slice 1 true false)).rxEnd slice).emit
            (.serial slice [0xA0])).raise (F.PSL_Sn_IRQ_TXDONE slice)))) ∧
  (∀ (slice : Fin 48) (char : BitVec 9) (bad brk : Bool) (bs : List Byte) (s : State),
      s.Live → s.sliceRuns slice = false →
        exec (.uartCharacterReceived slice char bad brk) s = .next (s.settle s) ∧ exec (.uartGapExpiry slice) s = .next (s.settle s) ∧
          exec (.spiMasterTransfer slice bs) s = .next (s.settle s) ∧ exec (.spiSlaveSelect slice bs bad) s = .next (s.settle s) ∧
          exec (.i2cTransaction slice ⟨0, 0⟩ bs) s = .next (s.settle s))

/-- An SSI transfer writes the value, its stamp and its error bits. A quadrature edge counts by the mode and stamps the count, a change of
both phases sets QERR and counts nothing; an index latches the count, and with IDX = 0b10 resets it. PERIOD and HIGH are committed
together where HIGH is below PERIOD, else ignored with REFUSED; the gate suspends and resumes; a burst's end clears RUN and sets DONE. -/
def Obligations.EncodersAndPulses : Prop :=
  (∀ (slice : Fin 48) (data : BitVec 64) (x : SliceState) (s : State),
      s.Live → s.sliceRuns slice = true → s.pers slice = 5 → s.slice slice = x → s.padsOff slice = false →
      s.rd (F.PSL_SSI_P0_TRIG slice) ≠ 1 → s.rd (F.PSL_SSI_P0_BITS slice) = 63 → s.rd (F.PSL_SSI_P0_GRAY slice) = 0 →
      s.rd (F.PSL_SSI_P0_FLUME slice) = 0 →
        ∃ t, exec (.ssiTransfer slice data 0 false false) s = .next t ∧ t.rd (F.PSL_SSI_P2_VALUE_LO slice) = data.toNat % 2 ^ 32 ∧
          t.rd (F.PSL_SSI_P3_VALUE_HI slice) = data.toNat / 2 ^ 32 ∧ t.rd (F.PSL_SSI_P7_EBITS slice) = 0 ∧
          t.rd (F.PSL_SSI_P4_TS0 slice) = bits (ft96 s.now) 16 32 ∧ t.slice slice = { x with edges := x.edges + 1, edgeTs := s.now } ∧
          (∀ n : Nat, n ≠ slice.val → t.slice n = s.slice n) ∧
          s.SameRegs t [F.PSL_SSI_P2_VALUE_LO slice, F.PSL_SSI_P3_VALUE_HI slice, F.PSL_SSI_P4_TS0 slice, F.PSL_SSI_P5_TS1 slice, F.PSL_SSI_P6_TS2 slice, F.PSL_SSI_P7_EBITS slice] ∧
          t = { s.noted t with slices := t.slices }) ∧
  (∀ (slice : Fin 48) (a b : Bool) (x : SliceState) (s : State),
      s.Live → s.sliceRuns slice = true → s.pers slice = 6 → s.slice slice = x → s.padsOff slice = false → x.phaseA ≠ a →
      x.phaseB ≠ b →
        exec (.quadratureEdge slice a b) s = .next (s.settle ((s.setSlice slice { x with phaseA := a, phaseB := b, faults := x.faults + 1 }).raise
          (F.PSL_QUAD_P8_QERR slice)))) ∧
  (∀ (slice : Fin 48) (x : SliceState) (s : State),
      s.Live → s.sliceRuns slice = true → s.pers slice = 6 → s.slice slice = x → s.padsOff slice = false →
      s.rd (F.PSL_QUAD_P0_MODE slice) = 2 → s.rd (F.PSL_QUAD_P0_INV_DIR slice) = 0 → x.phaseA = false → x.phaseB = false →
        ∃ t, exec (.quadratureEdge slice true false) s = .next t ∧
          t.quadCount slice = ofSigned 64 (toSigned 64 (s.quadCount slice) + 1) ∧ t.rd (F.PSL_QUAD_P8_DIR slice) = 0 ∧
          t.rd (F.PSL_QUAD_P5_TS0 slice) = bits (ft96 s.now) 16 32 ∧
          t.slice slice = { x with phaseA := true, edges := x.edges + 1, edgeTs := s.now } ∧ (∀ n : Nat, n ≠ slice.val → t.slice n = s.slice n) ∧
          s.SameRegs t [F.PSL_QUAD_P1_COUNT_LO slice, F.PSL_QUAD_P2_COUNT_HI slice, F.PSL_QUAD_P8_DIR slice, F.PSL_QUAD_P5_TS0 slice, F.PSL_QUAD_P6_TS1 slice, F.PSL_QUAD_P7_TS2 slice] ∧
          t = { s.noted t with slices := t.slices }) ∧
  (∀ (slice : Fin 48) (s : State),
      s.Live → s.sliceRuns slice = true → s.pers slice = 6 → s.padsOff slice = false → s.rd (F.PSL_QUAD_P0_IDX slice) = 2 →
        ∃ t, exec (.quadratureIndex slice) s = .next t ∧ t.quadCount slice = 0 ∧
          t.rd (F.PSL_QUAD_P3_LATCH_LO slice) = s.rd (F.PSL_QUAD_P1_COUNT_LO slice) % 2 ^ 32 ∧
          t.rd (F.PSL_QUAD_P8_IDXSEEN slice) = 1 ∧ t.slice slice = { s.slice slice with rebases := (s.slice slice).rebases + 1 } ∧ (∀ n : Nat, n ≠ slice.val → t.slice n = s.slice n) ∧
          s.SameRegs t [F.PSL_QUAD_P1_COUNT_LO slice, F.PSL_QUAD_P2_COUNT_HI slice, F.PSL_QUAD_P3_LATCH_LO slice, F.PSL_QUAD_P4_LATCH_HI slice, F.PSL_QUAD_P8_IDXSEEN slice] ∧
          t = { s.noted t with slices := t.slices }) ∧
  (∀ (slice : Fin 48) (high : BitVec 32) (s : State),
      s.Live → s.pers slice = 7 → high.toNat < s.rd (F.PSL_PULSE_P1_PERIOD slice) →
        exec (.pulsePeriodWrite slice high) s = .next (s.settle (((s.wr (F.PSL_PULSE_P2_HIGH slice) high.toNat).setSlice slice
          { s.slice slice with pair := some (s.rd (F.PSL_PULSE_P1_PERIOD slice), high.toNat) }).ack))) ∧
  (∀ (slice : Fin 48) (high : BitVec 32) (s : State),
      s.Live → s.pers slice = 7 → s.rd (F.PSL_PULSE_P1_PERIOD slice) ≤ high.toNat →
        exec (.pulsePeriodWrite slice high) s = .next (s.settle ((s.raise (F.PSL_PULSE_P5_REFUSED slice)).ack))) ∧
  (∀ (slice : Fin 48) (high : Bool) (s : State),
      s.Live → s.pers slice = 7 → s.padsOff slice = false → s.rd (F.PSL_PULSE_P0_GATE_EN slice) ≠ 0 →
        exec (.pulseGate slice high) s = .next (s.settle (s.setSlice slice { s.slice slice with gateLow := !high, suspended := !high && ((s.slice slice).suspended || s.rd (F.PSL_PULSE_P5_RUN slice) == 0) }))) ∧
  (∀ (slice : Fin 48) (s : State),
      s.Live → s.sliceRuns slice = true → s.pers slice = 7 → s.rd (F.PSL_PULSE_P5_RUN slice) ≠ 0 →
      s.rd (F.PSL_PULSE_P0_MODE slice) = 1 ∨ s.rd (F.PSL_PULSE_P0_MODE slice) = 2 → (s.slice slice).suspended = false →
      (s.slice slice).start = false →
        exec (.pulseBurstDone slice) s = .next (s.settle (((s.wr (F.PSL_PULSE_P5_RUN slice) 0).raise (F.PSL_PULSE_P5_DONE slice)).wr
          (F.PSL_PULSE_P6_PCOUNT slice) (s.rd (F.PSL_PULSE_P3_COUNT slice))))) ∧
  (∀ (slice : Fin 48) (high : Bool) (word : BitVec 32) (s : State),
      s.Live →
        (s.pers slice ≠ 7 → exec (.pulseGate slice high) s = .next (s.settle s) ∧ exec (.pulseBurstDone slice) s = .next (s.settle s) ∧
            exec (.pulsePeriodWrite slice word) s = .next (s.settle s.ack)) ∧
          (s.rd (F.PSL_PULSE_P0_GATE_EN slice) = 0 → exec (.pulseGate slice high) s = .next (s.settle s)) ∧
          (s.rd (F.PSL_PULSE_P5_RUN slice) = 0 → exec (.pulseBurstDone slice) s = .next (s.settle s)) ∧
          (s.pers slice ≠ 6 → exec (.quadratureIndex slice) s = .next (s.settle s) ∧ exec (.quadratureEdge slice high high) s = .next (s.settle s)) ∧
          (s.pers slice ≠ 5 → exec (.ssiTransfer slice 0 0 high high) s = .next (s.settle s)))

/-- A port without feed is in NOPOWER, and takes its state by MODE when the feed is back; one whose bank is not NORMAL does not
communicate. A wake-up that finds a rate leads to PREOPERATE, validation to OPERATE or MISMATCH with its interrupt, from where a write of
P2 starts it again. A failed message is counted, the third in a row enters COMLOST, and after 500 ms the port starts again; a successful
exchange carries process data and their validity. -/
def Obligations.IoLink : Prop :=
  (∀ (slice : Fin 48) (s : State),
      s.Live → s.sliceRuns slice = true → s.pers slice = 8 → s.iolFeed slice = false →
        exec (.iolFeedChange slice false) s = .next (s.settle (((s.wr (F.PSL_IOL_P3_STATE slice) 8).wr (F.PSL_IOL_P3_PDVALID slice) 0).setSlice slice
          { s.slice slice with failures := 0 })) ∧ exec (.iolFeedChange slice true) s = .next (s.settle s)) ∧
  (∀ (slice : Fin 48) (s : State),
      s.Live → s.sliceRuns slice = true → s.pers slice = 8 → s.rd (F.PSL_IOL_P3_STATE slice) = 8 → s.iolFeed slice = true →
      3 ≤ s.rd (F.PSL_IOL_P0_MODE slice) →
        exec (.iolFeedChange slice true) s = .next (s.settle (s.wr (F.PSL_IOL_P3_STATE slice) 3))) ∧
  (∀ (slice : Fin 48) (r : Fin 4) (s : State),
      s.Live → s.sliceRuns slice = true → s.pers slice = 8 → s.rd (F.PSL_IOL_P3_STATE slice) = 3 → s.iolLive slice = true →
      s.par slice (F.PSL_IOL_P0_MODE slice) ≠ 4 ∨ s.par slice (F.PSL_IOL_P0_COM slice) = r.val →
        exec (.iolWakeup slice (some r)) s = .next (s.settle ((s.wr (F.PSL_IOL_P3_STATE slice) 4).wr (F.PSL_IOL_P3_COMUSED slice) r.val))) ∧
  (∀ (slice : Fin 48) (r : Option (Fin 4)) (s : State),
      s.Live → r = none ∨ s.iolLive slice = false ∨ s.rd (F.PSL_IOL_P3_STATE slice) ≠ 3 →
        exec (.iolWakeup slice r) s = .next (s.settle s)) ∧
  (∀ (slice : Fin 48) (vid : BitVec 16) (did : BitVec 24) (s : State),
      s.Live → s.sliceRuns slice = true → s.pers slice = 8 → s.rd (F.PSL_IOL_P3_STATE slice) = 4 →
      s.par slice (F.PSL_IOL_P0_VALIDATE slice) = 0 ∨ (vid.toNat = s.par slice (F.PSL_IOL_P1_VID slice) ∧ did.toNat = s.par slice (F.PSL_IOL_P2_DID slice)) →
        exec (.iolValidation slice vid did) s = .next (s.settle (s.wr (F.PSL_IOL_P3_STATE slice) 5))) ∧
  (∀ (slice : Fin 48) (vid : BitVec 16) (did : BitVec 24) (s : State),
      s.Live → s.sliceRuns slice = true → s.pers slice = 8 → s.rd (F.PSL_IOL_P3_STATE slice) = 4 →
      s.par slice (F.PSL_IOL_P0_VALIDATE slice) ≠ 0 →
      vid.toNat ≠ s.par slice (F.PSL_IOL_P1_VID slice) ∨ did.toNat ≠ s.par slice (F.PSL_IOL_P2_DID slice) →
        exec (.iolValidation slice vid did) s = .next (s.settle ((s.wr (F.PSL_IOL_P3_STATE slice) 7).raise (F.PSL_Sn_IRQ_IOL slice)))) ∧
  (∀ (slice : Fin 48) (x : SliceState) (s : State),
      s.Live → s.sliceRuns slice = true → s.pers slice = 8 → s.rd (F.PSL_IOL_P3_STATE slice) = 5 → s.slice slice = x →
      x.failures < 2 →
        exec (.iolMessageFailure slice) s = .next (s.settle ((s.setSlice slice { x with failures := x.failures + 1 }).bump
          (F.PSL_IOL_P3_RETRY slice)))) ∧
  (∀ (slice : Fin 48) (x : SliceState) (s : State),
      s.Live → s.sliceRuns slice = true → s.pers slice = 8 → s.rd (F.PSL_IOL_P3_STATE slice) = 5 → s.slice slice = x →
      2 ≤ x.failures →
        exec (.iolMessageFailure slice) s = .next (s.settle (((((s.setSlice slice { x with failures := 0 }).wr (F.PSL_IOL_P3_STATE slice) 6).wr
          (F.PSL_IOL_P3_PDVALID slice) 0).bump (F.PSL_IOL_P3_LOST slice)).raise (F.PSL_Sn_IRQ_IOL slice)))) ∧
  (∀ (slice : Fin 48) (s : State),
      s.Live → s.sliceRuns slice = true → s.pers slice = 8 → s.rd (F.PSL_IOL_P3_STATE slice) = 6 →
        exec (.iolComlostExpiry slice) s = .next (s.settle (s.wr (F.PSL_IOL_P3_STATE slice) 3))) ∧
  (∀ (slice : Fin 48) (pd : List Byte) (x : SliceState) (s : State),
      s.Live → s.sliceRuns slice = true → s.pers slice = 8 → s.rd (F.PSL_IOL_P3_STATE slice) = 5 → s.iolLive slice = true →
      s.slice slice = x →
        exec (.iolMessageExchange slice pd true none none) s = .next (s.settle (((s.setSlice slice
          { x with failures := 0, pdIn := (pd.map BitVec.toNat).take (s.par slice (F.PSL_IOL_P0_PDIN slice)) }).wr (F.PSL_IOL_P3_PDVALID slice) 1).emit
          (.serial slice (x.pdOut.take (s.par slice (F.PSL_IOL_P0_PDOUT slice))))))) ∧
  (∀ (init : Initiator) (slice : Fin 48) (word : Word) (s : State),
      s.Live → s.pers slice = 8 → s.rd (F.PSL_IOL_P3_STATE slice) = 7 → s.almInForce = true → (s.slice slice).rxBusy = false →
      (s.slice slice).sending = false → word.toNat < 2 ^ 24 → s.rd ⟨(F.PSL_IOL_P2_DID slice).off, 24, 8, 0⟩ = 0 →
      s.marked (.loaded (F.PSL_IOL_P2_DID slice).key) = false →
        ∃ t, exec (.iolConfigWrite init slice 2 word) s = .next t ∧ t.rd (F.PSL_IOL_P3_STATE slice) = 3 ∧ t.answer = .done ∧
          t.rd (F.PSL_IOL_P2_DID slice) = word.toNat ∧
          t = { s.noted t with answer := .done, alm := { s.alm with departing := t.alm.departing } } ∧ s.SameBlocks t [0, 1, 10]) ∧
  (∀ (slice : Fin 48) (vid : BitVec 16) (did : BitVec 24) (pd : List Byte) (s : State),
      s.Live →
        (s.rd (F.PSL_IOL_P3_STATE slice) ≠ 4 → exec (.iolValidation slice vid did) s = .next (s.settle s)) ∧
          (s.rd (F.PSL_IOL_P3_STATE slice) ≠ 5 ∨ s.iolLive slice = false → exec (.iolMessageExchange slice pd true none none) s = .next (s.settle s)) ∧
          (s.rd (F.PSL_IOL_P3_STATE slice) ≠ 5 → exec (.iolMessageFailure slice) s = .next (s.settle s)) ∧
          (s.rd (F.PSL_IOL_P3_STATE slice) ≠ 6 → exec (.iolComlostExpiry slice) s = .next (s.settle s)))

/-- A request of a TX buffer sets PEND and keeps what R208 keeps of STAT; of a pending buffer it counts a duplicate, of another mode it
sets BADREQ; in bus-off the buffer is HELD. A start of frame is stamped and carries the best candidate. A frame that completes clears
PEND, sets SENT and TS and TXDONE; a failed attempt retries, and in one-shot mode ends with ARBLOST or TXERR. A pending buffer whose
deadline has passed is withdrawn with EXPIRED, and the copies that keep that deadline leave their queues. A remote frame joins a queue of
16 or is counted. -/
def Obligations.CanSending : Prop :=
  (∀ (channel : Fin 16) (j : Fin 32) (w : Nat) (x : CanState) (s : State),
      s.Live → s.bufMode channel j = 1 → s.bufWord channel j 0x0C = w → s.canSt channel = x → bit w 31 = false →
      s.canEstate channel ≠ 2 →
        exec (.canTxRequest channel 0 (BitVec.ofNat 32 (2 ^ j.val))) s = .next (s.settle (((s.setBufWord channel j 0x0C
          (2 ^ 31 + (w % 2 ^ 22 / 2 ^ 20 * 2 ^ 20 + w / 2 ^ 29 % 4 * 2 ^ 29))).setCan channel { x with asked := x.asked.insert j.val s.clk }).ack))) ∧
  (∀ (channel : Fin 16) (j : Fin 32) (s : State),
      s.Live → s.bufMode channel j = 1 → s.statBit channel j 31 = false → s.canEstate channel = 2 →
      bit (s.bufWord channel j 4) 27 = false →
        ∃ t, exec (.canTxRequest channel 0 (BitVec.ofNat 32 (2 ^ j.val))) s = .next t ∧ t.statBit channel j 31 = true ∧ t.statBit channel j 27 = true ∧
          (∀ a : Nat, (a < memAddr 2 (canBuf channel j + 0x0C) ∨ memAddr 2 (canBuf channel j + 0x10) ≤ a) → Mem.get t.mem a = Mem.get s.mem a) ∧
          (∀ n : Nat, n ≠ channel.val → t.canSt n = s.canSt n) ∧ t = { s.noted t with answer := .done, mem := t.mem, cans := t.cans } ∧ s.SameRegs t []) ∧
  (∀ (channel : Fin 16) (j : Fin 32) (s : State),
      s.Live → s.bufMode channel j = 1 → s.statBit channel j 31 = true →
        exec (.canTxRequest channel 0 (BitVec.ofNat 32 (2 ^ j.val))) s = .next (s.settle ((s.bump (F.CAN_Cc_CNT2_REQ_DUP channel)).ack))) ∧
  (∀ (channel : Fin 16) (j : Fin 32) (s : State),
      s.Live → s.bufMode channel (32 + j) ≠ 1 →
        exec (.canTxRequest channel 1 (BitVec.ofNat 32 (2 ^ j.val))) s = .next (s.settle ((s.raise (F.CAN_Cc_IRQ_BADREQ channel)).ack))) ∧
  (∀ (channel : Fin 16) (x : CanState) (s : State),
      s.Live → s.canSt channel = x → s.rd (F.CAN_Cc_CTL_EN channel) ≠ 0 → bit s.canned channel.val = true → s.canEstate channel ≠ 2 →
      x.sof = none →
        exec (.canStartOfFrame channel) s = .next (s.settle ((s.setCan channel { x with sof := some (ft96 s.now), attempt := (if s.canListens channel then none else bestCandidate (s.canCandidates channel)) }).wr (F.CAN_Cc_STATUS_ACT channel) 3))) ∧
  (∀ (channel : Fin 16) (s : State),
      s.Live →
      s.rd (F.CAN_Cc_CTL_EN channel) = 0 ∨ bit s.canned channel.val = false ∨ s.canEstate channel = 2 ∨ (s.canSt channel).sof.isSome = true →
        exec (.canStartOfFrame channel) s = .next (s.settle s)) ∧
  (∀ (channel : Fin 16) (b : Nat) (sof : Nat) (f : CanFrame) (s : State),
      s.Live → (s.canSt channel).attempt = some (.buffer b) → (s.canSt channel).sof = some sof →
      (s.canSt channel).deferred.get? b = none → s.canListens channel = false → s.bufFrame channel b = f →
      f.fdf = false ∨ f.brs = false ∨ s.rd (F.CAN_Cc_TDC_TDC_EN channel) = 0 → b < 64 →
        ∃ t, exec (.canTxComplete channel) s = .next t ∧ t.statBit channel b 31 = false ∧ t.statBit channel b 28 = true ∧
          t.le 2 (canBuf channel b + 0x10) 12 = sof % 2 ^ 96 ∧ t.rd (F.CAN_Cc_IRQ_TXDONE channel) = 1 ∧ (t.canSt channel).attempt = none ∧ (t.canSt channel).sof = none ∧
          t.rd (F.CAN_Cc_STATUS_ACT channel) = (if s.rd (F.CAN_Cc_CTL_EN channel) ≠ 0 then 2 else 0) ∧
          t.rd (F.CAN_Cc_STATUS_TEC channel) = (s.rd (F.CAN_Cc_STATUS_TEC channel) - 1) % 2 ^ (F.CAN_Cc_STATUS_TEC channel).w ∧
          (s.egress ++ [.can channel.val b f.id (canInfo f false 0) f.data]) <+: t.egress ∧
          (∀ a : Nat, (a < memAddr 2 (canBuf channel b + 0x0C) ∨ memAddr 2 (canBuf channel b + 0x1C) ≤ a) → Mem.get t.mem a = Mem.get s.mem a) ∧
          (∀ n : Nat, n ≠ channel.val → t.canSt n = s.canSt n) ∧ t = { s.noted t with mem := t.mem, cans := t.cans, bom := t.bom } ∧ s.SameBlocks t [11, 26]) ∧
  (∀ (channel : Fin 16) (e : RemoteEntry) (x : CanState) (s : State),
      s.Live → s.canSt channel = x → x.attempt = some (.entry e.serial) → x.remote.find? (fun y => y.serial == e.serial) = some e →
      e.source = none → s.canListens channel = false →
      e.frame.fdf = false ∨ e.frame.brs = false ∨ s.rd (F.CAN_Cc_TDC_TDC_EN channel) = 0 →
        ∃ t, exec (.canTxComplete channel) s = .next t ∧ (t.canSt channel).remote = x.remote.filter (fun y => y.serial != e.serial) ∧
          (t.canSt channel).attempt = none ∧ (s.egress ++ [.can channel.val 64 e.frame.id (canInfo e.frame false 0) e.frame.data]) <+: t.egress ∧
          (∀ n : Nat, n ≠ channel.val → t.canSt n = s.canSt n) ∧ t = { s.noted t with cans := t.cans, bom := t.bom } ∧ s.SameBlocks t [11, 26]) ∧
  (∀ (channel : Fin 16) (s : State),
      s.Live → (s.canSt channel).attempt.isSome = true → s.canListens channel = true →
        exec (.canTxComplete channel) s = .next (s.settle (s.canFrameEnds channel))) ∧
  (∀ (channel : Fin 16) (arb err : Bool) (s : State),
      s.Live → (s.canSt channel).attempt = none →
        exec (.canTxComplete channel) s = .next (s.settle s) ∧ exec (.canTxAttemptFailed channel arb err) s = .next (s.settle s) ∧ exec (.canTxAttemptFailed channel false false) s = .next (s.settle s)) ∧
  (∀ (channel : Fin 16) (err : Bool) (b : Nat) (x : CanState) (s : State),
      s.Live → s.canSt channel = x → x.attempt = some (.buffer b) → s.rd (F.CAN_Cc_CTL_OSM channel) = 0 → s.bufWord channel b 8 = 0 →
        exec (.canTxAttemptFailed channel true err) s = .next (s.settle ((s.setCan channel { x with attempt := none }).bump (F.CAN_Cc_CNT1_ARBLOST channel))) ∧
          exec (.canTxAttemptFailed channel false true) s = .next (s.settle (s.canFrameEnds channel))) ∧
  (∀ (channel : Fin 16) (b : Nat) (arb err : Bool) (s : State),
      s.Live → arb = true ∨ err = true → (s.canSt channel).attempt = some (.buffer b) → (s.canSt channel).deferred.get? b = none →
      s.rd (F.CAN_Cc_CTL_OSM channel) ≠ 0 → b < 64 →
        ∃ t, exec (.canTxAttemptFailed channel arb err) s = .next t ∧ t.statBit channel b 31 = false ∧
          t.statBit channel b (if arb then 23 else 22) = true ∧ t.rd (F.CAN_Cc_IRQ_OSFAIL channel) = 1 ∧ (t.canSt channel).attempt = none ∧
          (∀ a : Nat, (a < memAddr 2 (canBuf channel b + 0x0C) ∨ memAddr 2 (canBuf channel b + 0x10) ≤ a) → Mem.get t.mem a = Mem.get s.mem a) ∧
          (∀ n : Nat, n ≠ channel.val → t.canSt n = s.canSt n) ∧ t = { s.noted t with mem := t.mem, cans := t.cans } ∧ s.SameBlocks t [11]) ∧
  (∀ (channel : Fin 16) (buffer : Fin 64) (d : Nat) (s : State),
      s.Live → s.bufMode channel buffer = 1 → s.statBit channel buffer 31 = true → s.canDeadline channel buffer = some d → d ≤ s.clk →
      (s.canSt channel).attempt ≠ some (.buffer buffer.val) → (s.canSt channel).deferred.get? buffer.val = none → s.together = 0 →
        ∃ t, exec (.canDeadlineExpiry channel buffer) s = .next t ∧ t.statBit channel buffer 31 = false ∧ t.statBit channel buffer 24 = true ∧
          t.rd (F.CAN_Cc_IRQ_EXPIRED channel) = 1 ∧
          t.rd (F.CAN_Cc_CNT1_EXPIRED channel) = satAdd (F.CAN_Cc_CNT1_EXPIRED channel).w (s.rd (F.CAN_Cc_CNT1_EXPIRED channel)) 1 ∧
          (∀ a : Nat, (a < memAddr 2 (canBuf channel buffer + 0x0C) ∨ memAddr 2 (canBuf channel buffer + 0x10) ≤ a) → Mem.get t.mem a = Mem.get s.mem a) ∧
          (∀ n : Nat, (t.canSt n).remote = (s.canSt n).remote.filter (fun e => e.source != some (channel.val, buffer.val) ||
            (s.canSt n).attempt == some (.entry e.serial) || (e.deadline.elim true (fun d => decide (s.clk < d))))) ∧
          t = { s.noted t with mem := t.mem, cans := t.cans, bom := t.bom } ∧ s.SameBlocks t [11, 26]) ∧
  (∀ (channel : Fin 16) (buffer : Fin 64) (s : State),
      s.Live → s.statBit channel buffer 31 = false ∨ s.bufWord channel buffer 8 = 0 →
        ∃ t, exec (.canDeadlineExpiry channel buffer) s = .next t ∧ t = { s.noted t with cans := t.cans } ∧ s.SameRegs t [] ∧
          (∀ n : Nat, t.canSt n = { s.canSt n with remote := (t.canSt n).remote })) ∧
  (∀ (channel : Fin 16) (frame : CanFrame) (x : CanState) (s : State),
      s.Live → s.canSt channel = x → x.remote.length < 16 →
        exec (.remoteQueueEntry channel frame) s = .next (s.settle (s.setCan channel
          { x with remote := x.remote ++ [{ frame := frame, serial := x.nextEntry }], nextEntry := x.nextEntry + 1 }))) ∧
  (∀ (channel : Fin 16) (frame : CanFrame) (s : State),
      s.Live → 16 ≤ (s.canSt channel).remote.length →
        exec (.remoteQueueEntry channel frame) s = .next (s.settle (s.bump (F.CAN_Cc_CNT1_RQ_DROP channel)))) ∧
  (∀ (channel : Fin 16) (buffer : Fin 64) (x : CanState) (s : State),
      s.Live → s.canSt channel = x →
        (bit x.copied buffer.val = true → exec (.guardianCopySent channel buffer) s = .next (s.settle (((s.setCan channel
            { x with copied := setBit x.copied buffer.val false, guarding := setBit x.guarding buffer.val false }).setStat channel buffer 26 true).raise (F.CAN_Cc_IRQ_GUARD channel)))) ∧
          (bit x.copied buffer.val = false → bit x.guarding buffer.val = false → exec (.guardianCopySent channel buffer) s = .next (s.settle s)))

/-- A received frame goes to the first RX buffer that matches: its identifier, stamp and data are stored, FULL is set, OVR where it was
full, and RXNEW. Without a buffer it goes to a FIFO of 32 by the first filter, or is counted as NOMATCH. A channel that is not in listen-
only acknowledges it. An FD frame with FDOE = 0 is no frame that the channel receives. RXACK clears FULL and OVR, POP removes the head. A
buffer's own words are written where no transmission is pending, else refused with 0x0B04. That ID, FDF, BRS and DLC take the frame's is
the model's reading (log entry 22). -/
def Obligations.CanReceiving : Prop :=
  (∀ (channel : Fin 16) (head : CanHead) (data : List Byte) (frame : CanFrame) (sof : Nat) (b : Nat) (s : State),
      s.Live → head.frame data = frame → s.canReads channel frame = true → (s.canSt channel).sof = some sof →
      s.rd (F.CAN_Cc_STATUS_ABDRUN channel) = 0 → s.canListens channel = true → s.rxMatch channel frame = some b →
      frame.data.length ≤ 64 →
        ∃ t, exec (.canFrameReceived channel head data) s = .next t ∧ t.bufWord channel b 0 = frame.id % 2 ^ 32 ∧
          t.bytes 2 (canBuf channel b + 0x20) frame.data.length = frame.data.map (· % 256) ∧
          t.le 2 (canBuf channel b + 0x10) 12 = sof % 2 ^ 96 ∧ t.statBit channel b 30 = true ∧ t.statBit channel b 29 = s.statBit channel b 30 ∧
          bit (t.rd (if b < 32 then F.CAN_Cc_RXNEW0_BUF channel else F.CAN_Cc_RXNEW1_BUF channel)) (b % 32) = true ∧
          t.rd (F.CAN_Cc_IRQ_RXNEW channel) = 1 ∧
          (∀ a : Nat, (a < memAddr 2 (canBuf channel b) ∨ memAddr 2 (canBuf channel b + 0x60) ≤ a) → Mem.get t.mem a = Mem.get s.mem a) ∧
          t.canSt channel = { s.canSt channel with sof := none, attempt := none, stopping := false, lomLate := false, oldFilters := [] } ∧
          (∀ n : Nat, n ≠ channel.val → t.canSt n = s.canSt n) ∧
          s.SameRegs t [if b < 32 then F.CAN_Cc_RXNEW0_BUF channel else F.CAN_Cc_RXNEW1_BUF channel, F.CAN_Cc_IRQ_RXNEW channel, F.CAN_Cc_STATUS_ACT channel] ∧
          t = { s.noted t with mem := t.mem, cans := t.cans }) ∧
  (∀ (channel : Fin 16) (head : CanHead) (data : List Byte) (frame : CanFrame) (sof : Nat) (k : Nat) (x : CanState) (s : State),
      s.Live → head.frame data = frame → s.canReads channel frame = true → s.canSt channel = x → x.sof = some sof →
      s.rd (F.CAN_Cc_STATUS_ABDRUN channel) = 0 → s.canListens channel = true → s.rxMatch channel frame = none →
      s.filterMatch channel frame = some k → bit (s.filterAt channel k) 63 = false → bit (s.filterAt channel k) 29 = false →
      x.fifo0.length < 32 →
        ∃ t, exec (.canFrameReceived channel head data) s = .next t ∧
          t.canSt channel = { x with fifo0 := x.fifo0 ++ [fifoElement frame x.loss0 k sof], loss0 := false, sof := none, attempt := none, stopping := false, lomLate := false, oldFilters := [] } ∧
          t.rd (F.CAN_Cc_IRQ_FIFO0 channel) = 1 ∧ (∀ n : Nat, n ≠ channel.val → t.canSt n = s.canSt n) ∧
          t = { s.noted t with cans := t.cans } ∧ s.SameRegs t [F.CAN_Cc_IRQ_FIFO0 channel, F.CAN_Cc_STATUS_ACT channel]) ∧
  (∀ (channel : Fin 16) (head : CanHead) (data : List Byte) (frame : CanFrame) (s : State),
      s.Live → head.frame data = frame → s.canReads channel frame = true → s.rd (F.CAN_Cc_STATUS_ABDRUN channel) = 0 →
      s.canListens channel = true → s.rxMatch channel frame = none → s.filterMatch channel frame = none →
        ∃ t, exec (.canFrameReceived channel head data) s = .next t ∧
          t.rd (F.CAN_Cc_CNT0_NOMATCH channel) = satAdd (F.CAN_Cc_CNT0_NOMATCH channel).w (s.rd (F.CAN_Cc_CNT0_NOMATCH channel)) 1 ∧
          (t.canSt channel).sof = none ∧ t = { s.noted t with bom := t.bom, cans := t.cans } ∧ s.SameBlocks t [11, 26]) ∧
  (∀ (channel : Fin 16) (head : CanHead) (data : List Byte) (frame : CanFrame) (s : State),
      s.Live → head.frame data = frame → s.canReads channel frame = true → s.rd (F.CAN_Cc_STATUS_ABDRUN channel) = 0 →
      s.canListens channel = false → s.rd (F.CAN_Cc_STATUS_REC channel) ≤ 127 →
        ∃ t, exec (.canFrameReceived channel head data) s = .next t ∧ (s.egress ++ [.canAck channel.val]) <+: t.egress ∧
          t.rd (F.CAN_Cc_STATUS_REC channel) = s.rd (F.CAN_Cc_STATUS_REC channel) - 1 ∧ (t.canSt channel).sof = none) ∧
  (∀ (channel : Fin 16) (head : CanHead) (data : List Byte) (frame : CanFrame) (s : State),
      s.Live → head.frame data = frame → (s.canSt channel).sof = none →
        exec (.canFrameReceived channel head data) s = .next (s.settle s)) ∧
  (∀ (channel : Fin 16) (head : CanHead) (data : List Byte) (frame : CanFrame) (s : State),
      s.Live → head.frame data = frame → s.canRuns channel = true → s.canEstate channel ≠ 2 → s.canHears channel = true →
      (s.canSt channel).sof.isSome = true → frame.fdf = true → s.rd (F.CAN_Cc_CTL_FDOE channel) = 0 →
        exec (.canFrameReceived channel head data) s = exec (.canErrorDetected channel 2 false false false) s) ∧
  (∀ (channel : Fin 16) (j : Fin 32) (s : State),
      s.Live → s.marked (.rxStored channel j) = false →
        exec (.canRxack channel 0 (BitVec.ofNat 32 (2 ^ j.val))) s = .next (s.settle (((s.setStat channel j 30 false).setStat channel j 29
          false).ack))) ∧
  (∀ (channel : Fin 16) (fifos : BitVec 2) (x : CanState) (s : State),
      s.Live → s.canSt channel = x → s.marked (.popped channel 0) = false → s.marked (.popped channel 1) = false →
        exec (.canPop channel fifos) s = .next (s.settle ((s.setCan channel { x with fifo0 := if bit fifos.toNat 0 then x.fifo0.drop 1 else x.fifo0, fifo1 := if bit fifos.toNat 1 then x.fifo1.drop 1 else x.fifo1 }).ack))) ∧
  (∀ (init : Initiator) (channel : Fin 16) (b : Fin 64) (s : State),
      s.Live → bit s.canned channel.val = true → s.bufMode channel b = 1 → s.statBit channel b 31 = true →
        exec (.canBufferWrite init channel (BitVec.ofNat 14 (0x80 * b.val)) ⟨[1, 2, 3, 4], true⟩) s =
          .next (s.settle (s.refuse init (s.ownFa 2 (canWindow channel + 0x80 * b.val)) 0x0B04))) ∧
  (∀ (init : Initiator) (channel : Fin 16) (b : Fin 64) (w : Word) (s : State),
      s.Live → bit s.canned channel.val = true → s.bufMode channel b ≠ 1 → s.bufMode channel b ≠ 3 → s.bom.poisoned = [] →
      s.bom.injected = [] → s.rd F.BOM_INJ_ARMED = 0 →
        exec (.canBufferWrite init channel (BitVec.ofNat 14 (0x80 * b.val)) ⟨(leBytes 4 w.toNat).map (BitVec.ofNat 8), true⟩) s =
          .next (s.settle ((s.setBufWord channel b 0 w.toNat).ack))) ∧
  (∀ (init : Initiator) (channel : Fin 16) (off : BitVec 14) (data : List Byte) (enabled : Bool) (s : State),
      s.Live →
        (bit s.canned channel.val = false → exec (.canBufferWrite init channel off ⟨data, enabled⟩) s =
            .next (s.settle (s.refuse init (s.ownFa 2 (canWindow channel + off.toNat)) 0x0005))) ∧
          (bit s.canned channel.val = true → touchesWindow off.toNat data.length = true → windowForm off.toNat data.length enabled = false →
            exec (.canBufferWrite init channel off ⟨data, enabled⟩) s = .next (s.settle (s.refuse init (s.ownFa 2 (canWindow channel + off.toNat)) 0x0B01))))

/-- A detected error is counted, recorded and flagged and moves the counters as ISO 11898-1 does (PRESUMED, log entry 22). RECOVER begins
recovery in bus-off with RECOV = 1; the occurrences of 11 recessive bits are counted, and with 128 the channel is error active. A stuck
line sets and clears STUCK. LOM and EN take their values, a channel stopping at the end of its frame. Rate detection starts in listen-only
mode, moves to the next candidate at each dwell, loads the candidate that matches, and ends with 0, 0x0B03, 0x0B06 or 0x0B02. -/
def Obligations.CanStates : Prop :=
  (∀ (channel : Fin 16) (lec : Fin 8) (dph : Bool) (s : State),
      s.Live → s.canRuns channel = true → lec.val ≠ 0 → lec.val ≠ 7 → s.rd (F.CAN_Cc_STATUS_ABDRUN channel) = 0 →
      s.canListens channel = false → s.canEstate channel = 0 → s.rd (F.CAN_Cc_STATUS_REC channel) = 0 →
      s.rd (F.CAN_Cc_STATUS_TEC channel) + 8 < 96 → (s.canSt channel).attempt.isSome = true ∨ (s.canSt channel).sof = none →
        ∃ t, exec (.canErrorDetected channel lec dph true false) s = .next t ∧
          t.rd (F.CAN_Cc_STATUS_TEC channel) = s.rd (F.CAN_Cc_STATUS_TEC channel) + 8 ∧ t.rd (F.CAN_Cc_ERR_LEC channel) = lec.val ∧
          t.rd (F.CAN_Cc_ERR_DPH channel) = b2n dph ∧ t.canEstate channel = 0 ∧ (s.egress ++ [.canFlag channel.val true]) <+: t.egress ∧
          t.rd (F.CAN_Cc_CNT0_ERRFRM channel) = satAdd (F.CAN_Cc_CNT0_ERRFRM channel).w (s.rd (F.CAN_Cc_CNT0_ERRFRM channel)) 1 ∧
          t = { s.noted t with bom := t.bom } ∧ s.SameBlocks t [11, 26]) ∧
  (∀ (channel : Fin 16) (dph : Bool) (s : State),
      s.Live → s.canRuns channel = true → s.rd (F.CAN_Cc_STATUS_ABDRUN channel) = 0 → s.canListens channel = false →
      s.canEstate channel ≠ 2 → 248 ≤ s.rd (F.CAN_Cc_STATUS_TEC channel) → s.cycle = [] → (∀ b < 64, s.bufMode channel b ≠ 1) →
        ∃ t, exec (.canErrorDetected channel 1 dph true false) s = .next t ∧ t.canEstate channel = 2 ∧ t.rd (F.CAN_Cc_IRQ_BOFF channel) = 1 ∧
          (t.canSt channel).recovering = (s.rd (F.CAN_Cc_CTL_RECOV channel) == 0) ∧ t.rd (F.CAN_Cc_STATUS_RECSEQ channel) = 0 ∧
          (∀ n : Nat, n ≠ channel.val → t.canSt n = s.canSt n) ∧ t = { s.noted t with bom := t.bom, cans := t.cans } ∧ s.SameBlocks t [11, 26]) ∧
  (∀ (channel : Fin 16) (dph sending special : Bool) (s : State),
      s.Live → s.canRuns channel = true → s.rd (F.CAN_Cc_CTL_PXHD channel) = 0 → s.rd (F.CAN_Cc_CTL_EN channel) ≠ 0 →
        ∃ t, exec (.canErrorDetected channel 7 dph sending special) s = .next t ∧ t.rd (F.CAN_Cc_STATUS_ACT channel) = 1 ∧ t.rd (F.CAN_Cc_IRQ_PXE channel) = 1 ∧
          t.rd (F.CAN_Cc_CNT0_PXE channel) = satAdd (F.CAN_Cc_CNT0_PXE channel).w (s.rd (F.CAN_Cc_CNT0_PXE channel)) 1 ∧ (t.canSt channel).sof = none ∧
          t = { s.noted t with bom := t.bom, cans := t.cans } ∧ s.SameBlocks t [11, 26]) ∧
  (∀ (channel : Fin 16) (lec : Fin 8) (dph sending special : Bool) (s : State),
      s.Live → s.canRuns channel = false ∨ lec.val = 0 →
        exec (.canErrorDetected channel lec dph sending special) s = .next (s.settle s)) ∧
  (∀ (channel : Fin 16) (s : State),
      s.Live → s.canEstate channel = 2 → s.rd (F.CAN_Cc_CTL_RECOV channel) ≠ 0 →
        exec (.canRecover channel) s = .next (s.settle ((s.setCan channel { s.canSt channel with recovering := true }).ack))) ∧
  (∀ (channel : Fin 16) (s : State),
      s.Live → s.canEstate channel ≠ 2 →
        exec (.canRecover channel) s = .next (s.settle s.ack) ∧ exec (.canRecoveryDone ⟨channel, 128⟩) s = .next (s.settle s)) ∧
  (∀ (channel : Fin 16) (sequences : BitVec 8) (s : State),
      s.Live → s.canEstate channel = 2 → (s.canSt channel).recovering = true →
      s.rd (F.CAN_Cc_STATUS_RECSEQ channel) + sequences.toNat < 128 →
        exec (.canRecoveryDone ⟨channel, sequences⟩) s = .next (s.settle (s.wr (F.CAN_Cc_STATUS_RECSEQ channel) (s.rd (F.CAN_Cc_STATUS_RECSEQ channel) + sequences.toNat)))) ∧
  (∀ (channel : Fin 16) (sequences : BitVec 8) (s : State),
      s.Live → s.canEstate channel = 2 → (s.canSt channel).recovering = true →
      128 ≤ s.rd (F.CAN_Cc_STATUS_RECSEQ channel) + sequences.toNat →
        ∃ t, exec (.canRecoveryDone ⟨channel, sequences⟩) s = .next t ∧ t.canEstate channel = 0 ∧ t.rd (F.CAN_Cc_STATUS_TEC channel) = 0 ∧
          t.rd (F.CAN_Cc_STATUS_REC channel) = 0 ∧ t.rd (F.CAN_Cc_IRQ_RECOVERED channel) = 1 ∧ (t.canSt channel).recovering = false ∧
          t.rd (F.CAN_Cc_STATUS_RECSEQ channel) = 128 ∧ t = { s.noted t with bom := t.bom, cans := t.cans } ∧ s.SameBlocks t [11, 26]) ∧
  (∀ (channel : Fin 16) (s : State),
      s.Live → s.canRuns channel = true →
        ∃ t, exec (.canStuckDominant channel) s = .next t ∧ t.rd (F.CAN_Cc_STATUS_STUCK channel) = 1 ∧ t.rd (F.CAN_Cc_IRQ_STUCK channel) = 1 ∧
          t = { s.noted t with bom := t.bom } ∧ s.SameBlocks t [11, 26]) ∧
  (∀ (channel : Fin 16) (s : State),
      s.Live →
        exec (.canStuckCleared channel) s = .next (s.settle (s.wr (F.CAN_Cc_STATUS_STUCK channel) 0)) ∧
          (s.canRuns channel = false → exec (.canStuckDominant channel) s = .next (s.settle s))) ∧
  (∀ (channel : Fin 16) (lom : Bool) (x : CanState) (s : State),
      s.Live → s.rd (F.CAN_Cc_STATUS_ABDRUN channel) = 0 → s.canSt channel = x →
        ∃ t, exec (.canLomWrite channel lom) s = .next t ∧ t.rd (F.CAN_Cc_CTL_LOM channel) = b2n lom ∧
          t.canSt channel = { x with lomLate := lom && (x.lomLate || (s.rd (F.CAN_Cc_CTL_LOM channel) == 0 && x.sof.isSome)) } ∧
          (∀ n : Nat, n ≠ channel.val → t.canSt n = s.canSt n) ∧ t = { s.noted t with answer := .done, cans := t.cans } ∧ s.SameRegs t [F.CAN_Cc_CTL_LOM channel]) ∧
  (∀ (channel : Fin 16) (s : State),
      s.Live → s.rd (F.CAN_Cc_STATUS_ABDRUN channel) ≠ 0 →
        ∃ t, exec (.canLomWrite channel false) s = .next t ∧ t.rd (F.CAN_Cc_CTL_LOM channel) = 0 ∧ t.rd (F.CAN_Cc_STATUS_ABDRUN channel) = 0 ∧
          t.rd (F.CAN_Cc_ABD_RES_VALID channel) = 1 ∧ t.rd (F.CAN_Cc_ABD_RES_CODE channel) = 0x0B06 ∧ t.rd (F.CAN_Cc_IRQ_ABD channel) = 1) ∧
  (∀ (channel : Fin 16) (s : State),
      s.Live → s.rd (F.CAN_Cc_CTL_EN channel) = 0 → (s.canSt channel).sof = none →
        (bit s.canned channel.val = true → exec (.canEnable channel true) s = .next (s.settle (((s.wr (F.CAN_Cc_CTL_EN channel) 1).wr (F.CAN_Cc_STATUS_ACT channel) 1).ack))) ∧
          (bit s.canned channel.val = false → exec (.canEnable channel true) s = .next (s.settle ((s.wr (F.CAN_Cc_CTL_EN channel) 1).ack)))) ∧
  (∀ (channel : Fin 16) (s : State),
      s.Live → s.rd (F.CAN_Cc_CTL_EN channel) ≠ 0 → s.rd (F.CAN_Cc_STATUS_ABDRUN channel) = 0 →
        ((s.canSt channel).sof.isSome = true → exec (.canEnable channel false) s = .next (s.settle (((s.wr (F.CAN_Cc_CTL_EN channel) 0).setCan channel
            { s.canSt channel with stopping := true }).ack))) ∧
          ((s.canSt channel).sof = none → exec (.canEnable channel false) s = .next (s.settle (((s.wr (F.CAN_Cc_CTL_EN channel) 0).wr (F.CAN_Cc_STATUS_ACT channel) 0).ack)))) ∧
  (∀ (init : Initiator) (channel : Fin 16) (s : State),
      s.Live → s.rd (F.CAN_Cc_STATUS_ABDRUN channel) = 0 → s.rd (F.CAN_Cc_CTL_EN channel) ≠ 0 → s.rd (F.CAN_Cc_CTL_LOM channel) ≠ 0 →
        ∃ t, exec (.abdGo init channel) s = .next t ∧ t.rd (F.CAN_Cc_STATUS_ABDRUN channel) = 1 ∧ t.rd (F.CAN_Cc_ABD_STAT_CUR channel) = 0 ∧
          t.rd (F.CAN_Cc_ABD_STAT_PASS channel) = 0 ∧ t.rd (F.CAN_Cc_ABD_RES_VALID channel) = 0 ∧ t.answer = .done ∧
          (t.canSt channel) = { s.canSt channel with abdGood := 0 } ∧ t = { s.noted t with answer := .done, cans := t.cans } ∧ s.SameBlocks t [11]) ∧
  (∀ (init : Initiator) (channel : Fin 16) (s : State),
      s.Live → s.rd (F.CAN_Cc_STATUS_ABDRUN channel) = 0 →
        (s.rd (F.CAN_Cc_CTL_EN channel) = 0 ∨ s.rd (F.CAN_Cc_CTL_LOM channel) = 0 →
            exec (.abdGo init channel) s = .next (s.settle ((s.ack.resStart (RR.CAN_Cc_ABD_RES channel)).resDone (RR.CAN_Cc_ABD_RES channel) 0x0B02))) ∧
          exec (.abdStop channel) s = .next (s.settle s.ack) ∧ exec (.abdDwellExpiry channel) s = .next (s.settle s)) ∧
  (∀ (init : Initiator) (channel : Fin 16) (s : State),
      s.Live → s.rd (F.CAN_Cc_STATUS_ABDRUN channel) ≠ 0 →
        exec (.abdGo init channel) s = .next (s.settle (s.refuseReg init (F.CAN_Cc_CTL_ABD_GO channel).off 0x0B07)) ∧
          exec (.abdStop channel) s = .next (s.settle ((((s.wr (F.CAN_Cc_STATUS_ABDRUN channel) 0).resDone (RR.CAN_Cc_ABD_RES channel)
            0x0B06).raise (F.CAN_Cc_IRQ_ABD channel)).ack))) ∧
  (∀ (channel : Fin 16) (s : State),
      s.Live → s.rd (F.CAN_Cc_STATUS_ABDRUN channel) ≠ 0 →
      s.rd (F.CAN_Cc_ABD_STAT_CUR channel) < s.rd (F.CAN_Cc_ABD_CFG_NCAND channel) → s.together = 0 →
        exec (.abdDwellExpiry channel) s = .next (s.settle ((s.setCan channel { s.canSt channel with abdGood := 0 }).wr
          (F.CAN_Cc_ABD_STAT_CUR channel) (s.rd (F.CAN_Cc_ABD_STAT_CUR channel) + 1)))) ∧
  (∀ (channel : Fin 16) (s : State),
      s.Live → s.rd (F.CAN_Cc_STATUS_ABDRUN channel) ≠ 0 →
      s.rd (F.CAN_Cc_ABD_CFG_NCAND channel) ≤ s.rd (F.CAN_Cc_ABD_STAT_CUR channel) → s.rd (F.CAN_Cc_ABD_CFG_PASSES channel) ≠ 0 →
      s.rd (F.CAN_Cc_ABD_CFG_PASSES channel) ≤ s.rd (F.CAN_Cc_ABD_STAT_PASS channel) + 1 → s.together = 0 →
        ∃ t, exec (.abdDwellExpiry channel) s = .next t ∧ t.rd (F.CAN_Cc_STATUS_ABDRUN channel) = 0 ∧ t.rd (F.CAN_Cc_ABD_RES_VALID channel) = 1 ∧
          t.rd (F.CAN_Cc_ABD_RES_CODE channel) = 0x0B03 ∧ t.rd (F.CAN_Cc_IRQ_ABD channel) = 1 ∧ t = { s.noted t with cans := t.cans } ∧ s.SameBlocks t [11]) ∧
  (∀ (channel : Fin 16) (head : CanHead) (data : List Byte) (frame : CanFrame) (k : Nat) (s : State),
      s.Live → head.frame data = frame → s.canReads channel frame = true → s.rd (F.CAN_Cc_STATUS_ABDRUN channel) ≠ 0 →
      s.rd (F.CAN_Cc_ABD_STAT_CUR channel) = k → k < 8 → s.rd (F.CAN_Cc_CANDk_DBT_REQ_FD channel k) = 0 →
      s.rd (F.CAN_Cc_ABD_CFG_MATCH_N channel) ≤ (s.canSt channel).abdGood + 1 → s.almInForce = true → s.cycle = [] →
        ∃ t, exec (.canFrameReceived channel head data) s = .next t ∧ t.rd (F.CAN_Cc_STATUS_ABDRUN channel) = 0 ∧ t.rd (F.CAN_Cc_ABD_STAT_INDEX channel) = k ∧
          t.rd (F.CAN_Cc_ABD_RES_VALID channel) = 1 ∧ t.rd (F.CAN_Cc_ABD_RES_CODE channel) = 0 ∧
          t.rd (F.CAN_Cc_NBT_NBRP channel) = s.rd (F.CAN_Cc_CANDk_NBT_NBRP channel k) % 2 ^ (F.CAN_Cc_NBT_NBRP channel).w ∧
          t.rd (F.CAN_Cc_NBT_NTSEG1 channel) = s.rd (F.CAN_Cc_CANDk_NBT_NTSEG1 channel k) % 2 ^ (F.CAN_Cc_NBT_NTSEG1 channel).w)

/-- An instruction that a running sawyer issues, without a side effect, moves PC by one or from WRAP_END to WRAP_START unless it writes
PC. BR goes to TARGET where COND holds (its pin conditions apart); LOOP counts LC down to 0; WAIT completes where its condition holds and
stalls the sawyer where not; HALT halts it with IRQ.HALT. An invalid word sends it to FAULT with the code and PC; a stalled instruction
completes once its condition holds, or its edge has come. A tick in a delay takes one from it. An injected NOP consumes the injection, an
invalid one is discarded with IRQ.INJ_BAD; a command for a sawyer that issues nothing does nothing. -/
def Obligations.SawyerControlFlow : Prop :=
  (∀ (sawyer : Fin 128) (pads : BitVec 16) (n w : Nat) (cond target : Nat) (s : State),
      s.Live → sawyer.val = n → s.sawNext n = some (w, false, some (.br cond target)) → sawSmask w = 0 → cond ≠ 7 → cond ≠ 8 →
        ∃ t, exec (.br sawyer pads) s = .next t ∧
          t.rd (F.SAW_Sn_STATUS_PC n) = (if s.brHolds n cond then target % 512 else (if s.rd (F.SAW_Sn_STATUS_PC n) = (s.saw n).wrapEnd then (s.saw n).wrapStart else s.rd (F.SAW_Sn_STATUS_PC n) + 1) % 512) ∧
          t.saw n = { s.saw n with edge := false, delay := (s.saw n).delay + sawDelay w } ∧ (∀ m : Nat, m ≠ n → t.saw m = s.saw m) ∧
          s.SameRegs t [F.SAW_Sn_PINS_LEVEL n, F.SAW_Sn_STATUS_PC n] ∧
          t = { s.noted t with saws := t.saws }) ∧
  (∀ (sawyer : Fin 128) (pads : BitVec 16) (n w : Nat) (target : Nat) (s : State),
      s.Live → sawyer.val = n → s.sawNext n = some (w, false, some (.loop target)) → sawSmask w = 0 → s.rd (F.SAW_Sn_LC_LC n) = 0 →
        ∃ t, exec (.loop sawyer pads) s = .next t ∧
          t.rd (F.SAW_Sn_STATUS_PC n) = (if s.rd (F.SAW_Sn_STATUS_PC n) = (s.saw n).wrapEnd then (s.saw n).wrapStart else s.rd (F.SAW_Sn_STATUS_PC n) + 1) % 512 ∧
          t.saw n = { s.saw n with edge := false, delay := (s.saw n).delay + sawDelay w } ∧ (∀ m : Nat, m ≠ n → t.saw m = s.saw m) ∧
          s.SameRegs t [F.SAW_Sn_PINS_LEVEL n, F.SAW_Sn_STATUS_PC n] ∧
          t = { s.noted t with saws := t.saws }) ∧
  (∀ (sawyer : Fin 128) (pads : BitVec 16) (n w : Nat) (target : Nat) (s : State),
      s.Live → sawyer.val = n → s.sawNext n = some (w, false, some (.loop target)) → sawSmask w = 0 → s.rd (F.SAW_Sn_LC_LC n) ≠ 0 →
        ∃ t, exec (.loop sawyer pads) s = .next t ∧
          t.rd (F.SAW_Sn_LC_LC n) = (s.rd (F.SAW_Sn_LC_LC n) - 1) % 2 ^ 16 ∧
          t.rd (F.SAW_Sn_STATUS_PC n) = target % 512 ∧
          t.saw n = { s.saw n with edge := false, delay := (s.saw n).delay + sawDelay w } ∧ (∀ m : Nat, m ≠ n → t.saw m = s.saw m) ∧
          s.SameRegs t [F.SAW_Sn_PINS_LEVEL n, F.SAW_Sn_STATUS_PC n, F.SAW_Sn_LC_LC n] ∧
          t = { s.noted t with saws := t.saws }) ∧
  (∀ (sawyer : Fin 128) (pads : BitVec 16) (n w : Nat) (index : Nat) (s : State),
      s.Live → sawyer.val = n → s.sawNext n = some (w, false, some (.wait 2 true false true index)) → sawSmask w = 0 →
      s.marked (.flagSet (n / 8) index) = false → bit (s.rd (F.SAW_Gg_FLAGS_FLAGS (n / 8))) index = true →
        ∃ t, exec (.wait sawyer pads) s = .next t ∧
          bit (t.rd (F.SAW_Gg_FLAGS_FLAGS (n / 8))) index = false ∧
          t.rd (F.SAW_Sn_STATUS_PC n) = (if s.rd (F.SAW_Sn_STATUS_PC n) = (s.saw n).wrapEnd then (s.saw n).wrapStart else s.rd (F.SAW_Sn_STATUS_PC n) + 1) % 512 ∧
          t.saw n = { s.saw n with edge := false, delay := (s.saw n).delay + sawDelay w } ∧ (∀ m : Nat, m ≠ n → t.saw m = s.saw m) ∧
          s.SameRegs t [F.SAW_Sn_PINS_LEVEL n, F.SAW_Sn_STATUS_PC n, F.SAW_Gg_FLAGS_FLAGS (n / 8)] ∧
          t = { s.noted t with saws := t.saws }) ∧
  (∀ (sawyer : Fin 128) (pads : BitVec 16) (n w : Nat) (clr : Bool) (index : Nat) (s : State),
      s.Live → sawyer.val = n → s.sawNext n = some (w, false, some (.wait 2 true false clr index)) → sawSmask w = 0 →
      bit (s.rd (F.SAW_Gg_FLAGS_FLAGS (n / 8))) index = false →
        ∃ t, exec (.wait sawyer pads) s = .next t ∧
          t.rd (F.SAW_Sn_STATUS_STATE n) = 2 ∧
          t.rd (F.SAW_Sn_STATUS_PC n) = s.rd (F.SAW_Sn_STATUS_PC n) ∧
          t.saw n = { s.saw n with edge := false } ∧ (∀ m : Nat, m ≠ n → t.saw m = s.saw m) ∧
          s.SameRegs t [F.SAW_Sn_PINS_LEVEL n, F.SAW_Sn_STATUS_PC n, F.SAW_Sn_STATUS_STATE n] ∧
          t = { s.noted t with saws := t.saws }) ∧
  (∀ (sawyer : Fin 128) (pads : BitVec 16) (n w : Nat) (s : State),
      s.Live → sawyer.val = n → s.sawNext n = some (w, false, some (.nop)) → sawSmask w = 0 →
        ∃ t, exec (.nop sawyer pads) s = .next t ∧
          t.rd (F.SAW_Sn_STATUS_PC n) = (if s.rd (F.SAW_Sn_STATUS_PC n) = (s.saw n).wrapEnd then (s.saw n).wrapStart else s.rd (F.SAW_Sn_STATUS_PC n) + 1) % 512 ∧
          t.saw n = { s.saw n with edge := false, delay := (s.saw n).delay + sawDelay w } ∧ (∀ m : Nat, m ≠ n → t.saw m = s.saw m) ∧
          s.SameRegs t [F.SAW_Sn_PINS_LEVEL n, F.SAW_Sn_STATUS_PC n] ∧
          t = { s.noted t with saws := t.saws }) ∧
  (∀ (sawyer : Fin 128) (pads : BitVec 16) (n w : Nat) (s : State),
      s.Live → sawyer.val = n → s.sawNext n = some (w, false, some (.halt)) → sawSmask w = 0 →
        ∃ t, exec (.halt sawyer pads) s = .next t ∧
          t.rd (F.SAW_Sn_STATUS_STATE n) = 3 ∧
          t.rd (F.SAW_Sn_IRQ_HALT n) = 1 ∧
          t.rd (F.SAW_Sn_STATUS_PC n) = (if s.rd (F.SAW_Sn_STATUS_PC n) = (s.saw n).wrapEnd then (s.saw n).wrapStart else s.rd (F.SAW_Sn_STATUS_PC n) + 1) % 512 ∧
          t.saw n = { s.saw n with edge := false, delay := (s.saw n).delay + sawDelay w } ∧ (∀ m : Nat, m ≠ n → t.saw m = s.saw m) ∧
          s.SameRegs t [F.SAW_Sn_PINS_LEVEL n, F.SAW_Sn_STATUS_PC n, F.SAW_Sn_STATUS_STATE n, F.SAW_Sn_IRQ_HALT n] ∧
          t = { s.noted t with saws := t.saws }) ∧
  (∀ (sawyer : Fin 128) (pads : BitVec 16) (n w : Nat) (s : State),
      s.Live → sawyer.val = n → s.sawNext n = some (w, false, none) → s.bom.queue.length < 16 → s.cycle = [] →
        ∃ t, exec (.invalidInstruction sawyer pads) s = .next t ∧ t.rd (F.SAW_Sn_STATUS_STATE n) = 4 ∧ t.rd (F.SAW_Sn_FAULT_CODE n) = 0x0C02 ∧
          t.rd (F.SAW_Sn_FAULT_PC n) = s.rd (F.SAW_Sn_STATUS_PC n) % 512 ∧ t.rd (F.SAW_Sn_IRQ_FAULT n) = 1 ∧
          t.bom = { s.bom with queue := s.bom.queue ++ [{ code := 0, kind := 2, unit := n, data := 4, writer := 0x0C }] } ∧
          s.SameRegs t [F.SAW_Sn_PINS_LEVEL n, F.SAW_Sn_STATUS_STATE n, F.SAW_Sn_FAULT_CODE n, F.SAW_Sn_FAULT_PC n, F.SAW_Sn_IRQ_FAULT n] ∧
          t = { s.noted t with bom := t.bom }) ∧
  (∀ (sawyer : Fin 128) (pads : BitVec 16) (n w index : Nat) (s : State),
      s.Live → sawyer.val = n → s.sawState n = 2 → s.sawFrozen n = false → s.together = 0 → s.sawFetch n = w →
      decodeSaw w = some (.wait 2 true false false index) → bit (s.rd (F.SAW_Gg_FLAGS_FLAGS (n / 8))) index = true →
        ∃ t, exec (.stallRelease sawyer pads) s = .next t ∧ t.rd (F.SAW_Sn_STATUS_STATE n) = 1 ∧
          t.rd (F.SAW_Sn_STATUS_PC n) = (if s.rd (F.SAW_Sn_STATUS_PC n) = (s.saw n).wrapEnd then (s.saw n).wrapStart else s.rd (F.SAW_Sn_STATUS_PC n) + 1) % 512 ∧
          s.SameRegs t [F.SAW_Sn_PINS_LEVEL n, F.SAW_Sn_STATUS_PC n, F.SAW_Sn_STATUS_STATE n] ∧
          t.saw n = { s.saw n with delay := (s.saw n).delay + sawDelay w } ∧ (∀ m : Nat, m ≠ n → t.saw m = s.saw m) ∧
          t = { s.noted t with saws := t.saws }) ∧
  (∀ (sawyer : Fin 128) (pads : BitVec 16) (n w : Nat) (s : State),
      s.Live → sawyer.val = n → s.sawState n = 2 → s.sawFrozen n = false → s.together = 0 → s.sawFetch n = w →
      decodeSaw w = some (.wait 1 true false false 3) → (s.saw n).edge = true →
        ∃ t, exec (.stallRelease sawyer pads) s = .next t ∧ t.rd (F.SAW_Sn_STATUS_STATE n) = 1 ∧
          t.rd (F.SAW_Sn_STATUS_PC n) = (if s.rd (F.SAW_Sn_STATUS_PC n) = (s.saw n).wrapEnd then (s.saw n).wrapStart else s.rd (F.SAW_Sn_STATUS_PC n) + 1) % 512 ∧
          s.SameRegs t [F.SAW_Sn_PINS_LEVEL n, F.SAW_Sn_STATUS_PC n, F.SAW_Sn_STATUS_STATE n]) ∧
  (∀ (sawyer : Fin 128) (pads : BitVec 16) (n : Nat) (s : State),
      s.Live → sawyer.val = n → s.sawDelaying n = true → s.sawFrozen n = false → s.rd (F.SAW_Sn_STATUS_INJ_PEND n) = 0 →
      s.rd (F.SAW_Sn_CTL_EN n) ≠ 0 →
        ∃ t, exec (.nop sawyer pads) s = .next t ∧
          t.saw n = { s.saw n with delay := (s.saw n).delay - 1 } ∧ (∀ m : Nat, m ≠ n → t.saw m = s.saw m) ∧
          s.SameRegs t [F.SAW_Sn_PINS_LEVEL n] ∧ t = { s.noted t with saws := t.saws }) ∧
  (∀ (sawyer : Fin 128) (pads : BitVec 16) (n w : Nat) (s : State),
      s.Live → sawyer.val = n → s.sawNext n = some (w, true, some .nop) → sawSmask w = 0 → s.sawState n = 3 →
        ∃ t, exec (.nop sawyer pads) s = .next t ∧
          t.rd (F.SAW_Sn_STATUS_INJ_PEND n) = 0 ∧
          s.SameRegs t [F.SAW_Sn_PINS_LEVEL n, F.SAW_Sn_STATUS_INJ_PEND n] ∧ t = s.noted t) ∧
  (∀ (sawyer : Fin 128) (pads : BitVec 16) (n w : Nat) (s : State),
      s.Live → sawyer.val = n → s.sawNext n = some (w, true, none) →
        ∃ t, exec (.invalidInstruction sawyer pads) s = .next t ∧
          t.rd (F.SAW_Sn_STATUS_INJ_PEND n) = 0 ∧ t.rd (F.SAW_Sn_IRQ_INJ_BAD n) = 1 ∧
          t.rd (F.SAW_Sn_STATUS_PC n) = s.rd (F.SAW_Sn_STATUS_PC n) ∧ t.rd (F.SAW_Sn_STATUS_STATE n) = s.rd (F.SAW_Sn_STATUS_STATE n)) ∧
  (∀ (sawyer : Fin 128) (pads : BitVec 16) (s : State),
      s.Live → s.sawNext sawyer = none → s.sawDelaying sawyer = false →
        exec (.br sawyer pads) s = .next (s.settle s))

/-- SHI and SHO shift N bits into ISR and out of OSR and move their counters, SEND and TAKE move words to and from the FIFOs and stall
where they are told to, COPY, LDI and CALC write their destination and F as R238 gives, PINSET drives pins from WBASE, POST adds to TALLY,
FLAG and STAMP do what their names say; each without a side effect leaves all else as it is and advances PC. -/
def Obligations.SawyerData : Prop :=
  (∀ (sawyer : Fin 128) (pads : BitVec 16) (n w : Nat) (k : Nat) (s : State),
      s.Live → sawyer.val = n → s.sawNext n = some (w, false, some (.shi 1 k)) → sawSmask w = 0 → k < 32 →
      s.rd (F.SAW_Sn_SHIFT_IN_RIGHT n) = 0 →
        ∃ t, exec (.shi sawyer pads) s = .next t ∧
          t.rd (F.SAW_Sn_ISR_VALUE n) = (s.rd (F.SAW_Sn_ISR_VALUE n) * 2 ^ k + s.rd (F.SAW_Sn_X_VALUE n) % 2 ^ k) % 2 ^ 32 ∧
          t.rd (F.SAW_Sn_STATUS_ISRCNT n) = min (s.rd (F.SAW_Sn_STATUS_ISRCNT n) + k) 32 ∧
          t.rd (F.SAW_Sn_STATUS_PC n) = (if s.rd (F.SAW_Sn_STATUS_PC n) = (s.saw n).wrapEnd then (s.saw n).wrapStart else s.rd (F.SAW_Sn_STATUS_PC n) + 1) % 512 ∧
          t.saw n = { s.saw n with edge := false, delay := (s.saw n).delay + sawDelay w } ∧ (∀ m : Nat, m ≠ n → t.saw m = s.saw m) ∧
          s.SameRegs t [F.SAW_Sn_PINS_LEVEL n, F.SAW_Sn_STATUS_PC n, F.SAW_Sn_ISR_VALUE n, F.SAW_Sn_STATUS_ISRCNT n] ∧
          t = { s.noted t with saws := t.saws }) ∧
  (∀ (sawyer : Fin 128) (pads : BitVec 16) (n w : Nat) (k : Nat) (s : State),
      s.Live → sawyer.val = n → s.sawNext n = some (w, false, some (.shi 1 k)) → sawSmask w = 0 → k < 32 →
      s.rd (F.SAW_Sn_SHIFT_IN_RIGHT n) ≠ 0 →
        ∃ t, exec (.shi sawyer pads) s = .next t ∧
          t.rd (F.SAW_Sn_ISR_VALUE n) = (s.rd (F.SAW_Sn_ISR_VALUE n) / 2 ^ k + s.rd (F.SAW_Sn_X_VALUE n) % 2 ^ k * 2 ^ (32 - k)) % 2 ^ 32 ∧
          t.rd (F.SAW_Sn_STATUS_PC n) = (if s.rd (F.SAW_Sn_STATUS_PC n) = (s.saw n).wrapEnd then (s.saw n).wrapStart else s.rd (F.SAW_Sn_STATUS_PC n) + 1) % 512 ∧
          t.saw n = { s.saw n with edge := false, delay := (s.saw n).delay + sawDelay w } ∧ (∀ m : Nat, m ≠ n → t.saw m = s.saw m) ∧
          s.SameRegs t [F.SAW_Sn_PINS_LEVEL n, F.SAW_Sn_STATUS_PC n, F.SAW_Sn_ISR_VALUE n, F.SAW_Sn_STATUS_ISRCNT n] ∧
          t = { s.noted t with saws := t.saws }) ∧
  (∀ (sawyer : Fin 128) (pads : BitVec 16) (n w : Nat) (k : Nat) (s : State),
      s.Live → sawyer.val = n → s.sawNext n = some (w, false, some (.sho 2 k)) → sawSmask w = 0 → k < 32 →
      s.rd (F.SAW_Sn_SHIFT_OUT_RIGHT n) = 0 → s.rd (F.SAW_Sn_OSR_VALUE n) < 2 ^ 32 →
        ∃ t, exec (.sho sawyer pads) s = .next t ∧
          t.rd (F.SAW_Sn_X_VALUE n) = s.rd (F.SAW_Sn_OSR_VALUE n) / 2 ^ (32 - k) ∧
          t.rd (F.SAW_Sn_OSR_VALUE n) = s.rd (F.SAW_Sn_OSR_VALUE n) * 2 ^ k % 2 ^ 32 ∧
          t.rd (F.SAW_Sn_STATUS_OSRCNT n) = min (s.rd (F.SAW_Sn_STATUS_OSRCNT n) + k) 32 ∧
          t.rd (F.SAW_Sn_STATUS_PC n) = (if s.rd (F.SAW_Sn_STATUS_PC n) = (s.saw n).wrapEnd then (s.saw n).wrapStart else s.rd (F.SAW_Sn_STATUS_PC n) + 1) % 512 ∧
          t.saw n = { s.saw n with edge := false, delay := (s.saw n).delay + sawDelay w } ∧ (∀ m : Nat, m ≠ n → t.saw m = s.saw m) ∧
          s.SameRegs t [F.SAW_Sn_PINS_LEVEL n, F.SAW_Sn_STATUS_PC n, F.SAW_Sn_X_VALUE n, F.SAW_Sn_OSR_VALUE n, F.SAW_Sn_STATUS_OSRCNT n] ∧
          t = { s.noted t with saws := t.saws }) ∧
  (∀ (sawyer : Fin 128) (pads : BitVec 16) (n w : Nat) (waitsp : Bool) (s : State),
      s.Live → sawyer.val = n → s.sawNext n = some (w, false, some (.send waitsp false)) → sawSmask w = 0 → (s.saw n).rx.length < 4 →
        ∃ t, exec (.send sawyer pads) s = .next t ∧
          t.rd (F.SAW_Sn_ISR_VALUE n) = 0 ∧
          t.rd (F.SAW_Sn_STATUS_ISRCNT n) = 0 ∧
          t.rd (F.SAW_Sn_LC_F n) = 0 ∧
          t.rd (F.SAW_Sn_STATUS_PC n) = (if s.rd (F.SAW_Sn_STATUS_PC n) = (s.saw n).wrapEnd then (s.saw n).wrapStart else s.rd (F.SAW_Sn_STATUS_PC n) + 1) % 512 ∧
          t.saw n = { s.saw n with edge := false, delay := (s.saw n).delay + sawDelay w, rx := (s.saw n).rx ++ [s.rd (F.SAW_Sn_ISR_VALUE n)] } ∧ (∀ m : Nat, m ≠ n → t.saw m = s.saw m) ∧
          s.SameRegs t [F.SAW_Sn_PINS_LEVEL n, F.SAW_Sn_STATUS_PC n, F.SAW_Sn_ISR_VALUE n, F.SAW_Sn_STATUS_ISRCNT n, F.SAW_Sn_LC_F n] ∧
          t = { s.noted t with saws := t.saws }) ∧
  (∀ (sawyer : Fin 128) (pads : BitVec 16) (n w : Nat) (s : State),
      s.Live → sawyer.val = n → s.sawNext n = some (w, false, some (.send true false)) → sawSmask w = 0 → (s.saw n).rx.length = 4 →
      s.together = 0 →
        ∃ t, exec (.send sawyer pads) s = .next t ∧
          t.rd (F.SAW_Sn_STATUS_STATE n) = 2 ∧
          t.rd (F.SAW_Sn_STATUS_PC n) = s.rd (F.SAW_Sn_STATUS_PC n) ∧
          t.saw n = { s.saw n with edge := false } ∧ (∀ m : Nat, m ≠ n → t.saw m = s.saw m) ∧
          s.SameRegs t [F.SAW_Sn_PINS_LEVEL n, F.SAW_Sn_STATUS_PC n, F.SAW_Sn_STATUS_STATE n] ∧
          t = { s.noted t with saws := t.saws }) ∧
  (∀ (sawyer : Fin 128) (pads : BitVec 16) (n w : Nat) (s : State),
      s.Live → sawyer.val = n → s.sawNext n = some (w, false, some (.send false false)) → sawSmask w = 0 → (s.saw n).rx.length = 4 →
      s.together = 0 →
        ∃ t, exec (.send sawyer pads) s = .next t ∧
          t.rd (F.SAW_Sn_IRQ_RXDROP n) = 1 ∧
          t.rd (F.SAW_Sn_LC_F n) = 1 ∧
          t.rd (F.SAW_Sn_ISR_VALUE n) = 0 ∧
          t.rd (F.SAW_Sn_STATUS_PC n) = (if s.rd (F.SAW_Sn_STATUS_PC n) = (s.saw n).wrapEnd then (s.saw n).wrapStart else s.rd (F.SAW_Sn_STATUS_PC n) + 1) % 512 ∧
          t.saw n = { s.saw n with edge := false, delay := (s.saw n).delay + sawDelay w } ∧ (∀ m : Nat, m ≠ n → t.saw m = s.saw m) ∧
          s.SameRegs t [F.SAW_Sn_PINS_LEVEL n, F.SAW_Sn_STATUS_PC n, F.SAW_Sn_ISR_VALUE n, F.SAW_Sn_STATUS_ISRCNT n, F.SAW_Sn_LC_F n, F.SAW_Sn_CNT_RXDROP n, F.SAW_Sn_IRQ_RXDROP n] ∧
          t = { s.noted t with saws := t.saws }) ∧
  (∀ (sawyer : Fin 128) (pads : BitVec 16) (n w : Nat) (waitdt : Bool) (v : Nat) (l : List Nat) (s : State),
      s.Live → sawyer.val = n → s.sawNext n = some (w, false, some (.take waitdt false)) → sawSmask w = 0 → (s.saw n).tx = v :: l →
        ∃ t, exec (.take sawyer pads) s = .next t ∧
          t.rd (F.SAW_Sn_OSR_VALUE n) = v % 2 ^ 32 ∧
          t.rd (F.SAW_Sn_STATUS_OSRCNT n) = 0 ∧
          t.rd (F.SAW_Sn_LC_F n) = 0 ∧
          t.rd (F.SAW_Sn_STATUS_PC n) = (if s.rd (F.SAW_Sn_STATUS_PC n) = (s.saw n).wrapEnd then (s.saw n).wrapStart else s.rd (F.SAW_Sn_STATUS_PC n) + 1) % 512 ∧
          t.saw n = { s.saw n with edge := false, delay := (s.saw n).delay + sawDelay w, tx := l } ∧ (∀ m : Nat, m ≠ n → t.saw m = s.saw m) ∧
          s.SameRegs t [F.SAW_Sn_PINS_LEVEL n, F.SAW_Sn_STATUS_PC n, F.SAW_Sn_OSR_VALUE n, F.SAW_Sn_STATUS_OSRCNT n, F.SAW_Sn_LC_F n] ∧
          t = { s.noted t with saws := t.saws }) ∧
  (∀ (sawyer : Fin 128) (pads : BitVec 16) (n w : Nat) (s : State),
      s.Live → sawyer.val = n → s.sawNext n = some (w, false, some (.take true false)) → sawSmask w = 0 → (s.saw n).tx = [] →
      s.together = 0 →
        ∃ t, exec (.take sawyer pads) s = .next t ∧
          t.rd (F.SAW_Sn_STATUS_STATE n) = 2 ∧
          t.rd (F.SAW_Sn_STATUS_PC n) = s.rd (F.SAW_Sn_STATUS_PC n) ∧
          t.saw n = { s.saw n with edge := false } ∧ (∀ m : Nat, m ≠ n → t.saw m = s.saw m) ∧
          s.SameRegs t [F.SAW_Sn_PINS_LEVEL n, F.SAW_Sn_STATUS_PC n, F.SAW_Sn_STATUS_STATE n] ∧
          t = { s.noted t with saws := t.saws }) ∧
  (∀ (sawyer : Fin 128) (pads : BitVec 16) (n w : Nat) (x : Nat) (s : State),
      s.Live → sawyer.val = n → s.sawNext n = some (w, false, some (.copy 1 0 x)) → sawSmask w = 0 →
        ∃ t, exec (.copy sawyer pads) s = .next t ∧
          t.rd (F.SAW_Sn_Y_VALUE n) = xform x (s.rd (F.SAW_Sn_X_VALUE n)) % 2 ^ 32 ∧
          t.rd (F.SAW_Sn_STATUS_PC n) = (if s.rd (F.SAW_Sn_STATUS_PC n) = (s.saw n).wrapEnd then (s.saw n).wrapStart else s.rd (F.SAW_Sn_STATUS_PC n) + 1) % 512 ∧
          t.saw n = { s.saw n with edge := false, delay := (s.saw n).delay + sawDelay w } ∧ (∀ m : Nat, m ≠ n → t.saw m = s.saw m) ∧
          s.SameRegs t [F.SAW_Sn_PINS_LEVEL n, F.SAW_Sn_STATUS_PC n, F.SAW_Sn_Y_VALUE n] ∧
          t = { s.noted t with saws := t.saws }) ∧
  (∀ (sawyer : Fin 128) (pads : BitVec 16) (n w : Nat) (s : State),
      s.Live → sawyer.val = n → s.sawNext n = some (w, false, some (.copy 2 1 0)) → sawSmask w = 0 →
        ∃ t, exec (.copy sawyer pads) s = .next t ∧
          t.rd (F.SAW_Sn_ISR_VALUE n) = s.rd (F.SAW_Sn_Y_VALUE n) % 2 ^ 32 ∧
          t.rd (F.SAW_Sn_STATUS_ISRCNT n) = 0 ∧
          t.rd (F.SAW_Sn_STATUS_PC n) = (if s.rd (F.SAW_Sn_STATUS_PC n) = (s.saw n).wrapEnd then (s.saw n).wrapStart else s.rd (F.SAW_Sn_STATUS_PC n) + 1) % 512 ∧
          t.saw n = { s.saw n with edge := false, delay := (s.saw n).delay + sawDelay w } ∧ (∀ m : Nat, m ≠ n → t.saw m = s.saw m) ∧
          s.SameRegs t [F.SAW_Sn_PINS_LEVEL n, F.SAW_Sn_STATUS_PC n, F.SAW_Sn_ISR_VALUE n, F.SAW_Sn_STATUS_ISRCNT n] ∧
          t = { s.noted t with saws := t.saws }) ∧
  (∀ (sawyer : Fin 128) (pads : BitVec 16) (n w : Nat) (imm : Nat) (s : State),
      s.Live → sawyer.val = n → s.sawNext n = some (w, false, some (.ldi 0 imm)) → sawSmask w = 0 →
        ∃ t, exec (.ldi sawyer pads) s = .next t ∧
          t.rd (F.SAW_Sn_X_VALUE n) = imm % 2 ^ 32 ∧
          t.rd (F.SAW_Sn_STATUS_PC n) = (if s.rd (F.SAW_Sn_STATUS_PC n) = (s.saw n).wrapEnd then (s.saw n).wrapStart else s.rd (F.SAW_Sn_STATUS_PC n) + 1) % 512 ∧
          t.saw n = { s.saw n with edge := false, delay := (s.saw n).delay + sawDelay w } ∧ (∀ m : Nat, m ≠ n → t.saw m = s.saw m) ∧
          s.SameRegs t [F.SAW_Sn_PINS_LEVEL n, F.SAW_Sn_STATUS_PC n, F.SAW_Sn_X_VALUE n] ∧
          t = { s.noted t with saws := t.saws }) ∧
  (∀ (sawyer : Fin 128) (pads : BitVec 16) (n w : Nat) (imm : Nat) (s : State),
      s.Live → sawyer.val = n → s.sawNext n = some (w, false, some (.ldi 3 imm)) → sawSmask w = 0 →
        ∃ t, exec (.ldi sawyer pads) s = .next t ∧
          t.rd (F.SAW_Sn_X_VALUE n) = (s.rd (F.SAW_Sn_X_VALUE n) * 2 ^ 12 + imm) % 2 ^ 32 ∧
          t.rd (F.SAW_Sn_STATUS_PC n) = (if s.rd (F.SAW_Sn_STATUS_PC n) = (s.saw n).wrapEnd then (s.saw n).wrapStart else s.rd (F.SAW_Sn_STATUS_PC n) + 1) % 512 ∧
          t.saw n = { s.saw n with edge := false, delay := (s.saw n).delay + sawDelay w } ∧ (∀ m : Nat, m ≠ n → t.saw m = s.saw m) ∧
          s.SameRegs t [F.SAW_Sn_PINS_LEVEL n, F.SAW_Sn_STATUS_PC n, F.SAW_Sn_X_VALUE n] ∧
          t = { s.noted t with saws := t.saws }) ∧
  (∀ (sawyer : Fin 128) (pads : BitVec 16) (n w : Nat) (v b : Nat) (s : State),
      s.Live → sawyer.val = n → s.sawNext n = some (w, false, some (.pinset false 1 v)) → sawSmask w = 0 →
      s.rd (F.SAW_Sn_WIN_WBASE n) = b → b < 16 → s.sawPin n b < 0xC0 →
        ∃ t, exec (.pinset sawyer pads) s = .next t ∧
          t.rd (F.SAW_Sn_STATUS_PC n) = (if s.rd (F.SAW_Sn_STATUS_PC n) = (s.saw n).wrapEnd then (s.saw n).wrapStart else s.rd (F.SAW_Sn_STATUS_PC n) + 1) % 512 ∧
          t.saw n = { s.saw n with edge := false, delay := (s.saw n).delay + sawDelay w, out := setBit (s.saw n).out b (bit v 0) } ∧ (∀ m : Nat, m ≠ n → t.saw m = s.saw m) ∧
          s.SameRegs t [F.SAW_Sn_PINS_LEVEL n, F.SAW_Sn_STATUS_PC n] ∧
          t = { s.noted t with saws := t.saws }) ∧
  (∀ (sawyer : Fin 128) (pads : BitVec 16) (n w : Nat) (imm : Nat) (s : State),
      s.Live → sawyer.val = n → s.sawNext n = some (w, false, some (.calc 0 imm)) → sawSmask w = 0 →
        ∃ t, exec (.calc sawyer pads) s = .next t ∧
          t.rd (F.SAW_Sn_X_VALUE n) = (s.rd (F.SAW_Sn_X_VALUE n) + s.rd (F.SAW_Sn_Y_VALUE n)) % 2 ^ 32 ∧
          t.rd (F.SAW_Sn_LC_F n) = b2n (decide (2 ^ 32 ≤ s.rd (F.SAW_Sn_X_VALUE n) + s.rd (F.SAW_Sn_Y_VALUE n))) ∧
          t.rd (F.SAW_Sn_STATUS_PC n) = (if s.rd (F.SAW_Sn_STATUS_PC n) = (s.saw n).wrapEnd then (s.saw n).wrapStart else s.rd (F.SAW_Sn_STATUS_PC n) + 1) % 512 ∧
          t.saw n = { s.saw n with edge := false, delay := (s.saw n).delay + sawDelay w } ∧ (∀ m : Nat, m ≠ n → t.saw m = s.saw m) ∧
          s.SameRegs t [F.SAW_Sn_PINS_LEVEL n, F.SAW_Sn_STATUS_PC n, F.SAW_Sn_X_VALUE n, F.SAW_Sn_LC_F n] ∧
          t = { s.noted t with saws := t.saws }) ∧
  (∀ (sawyer : Fin 128) (pads : BitVec 16) (n w : Nat) (imm : Nat) (s : State),
      s.Live → sawyer.val = n → s.sawNext n = some (w, false, some (.calc 1 imm)) → sawSmask w = 0 →
      s.rd (F.SAW_Sn_Y_VALUE n) < 2 ^ 32 →
        ∃ t, exec (.calc sawyer pads) s = .next t ∧
          t.rd (F.SAW_Sn_X_VALUE n) = (s.rd (F.SAW_Sn_X_VALUE n) + 2 ^ 32 - s.rd (F.SAW_Sn_Y_VALUE n)) % 2 ^ 32 ∧
          t.rd (F.SAW_Sn_LC_F n) = b2n (decide (s.rd (F.SAW_Sn_X_VALUE n) < s.rd (F.SAW_Sn_Y_VALUE n))) ∧
          t.rd (F.SAW_Sn_STATUS_PC n) = (if s.rd (F.SAW_Sn_STATUS_PC n) = (s.saw n).wrapEnd then (s.saw n).wrapStart else s.rd (F.SAW_Sn_STATUS_PC n) + 1) % 512 ∧
          t.saw n = { s.saw n with edge := false, delay := (s.saw n).delay + sawDelay w } ∧ (∀ m : Nat, m ≠ n → t.saw m = s.saw m) ∧
          s.SameRegs t [F.SAW_Sn_PINS_LEVEL n, F.SAW_Sn_STATUS_PC n, F.SAW_Sn_X_VALUE n, F.SAW_Sn_LC_F n] ∧
          t = { s.noted t with saws := t.saws }) ∧
  (∀ (sawyer : Fin 128) (pads : BitVec 16) (n w : Nat) (k : Nat) (s : State),
      s.Live → sawyer.val = n → s.sawNext n = some (w, false, some (.calc 9 k)) → sawSmask w = 0 → 0 < k → k < 32 →
        ∃ t, exec (.calc sawyer pads) s = .next t ∧
          t.rd (F.SAW_Sn_X_VALUE n) = s.rd (F.SAW_Sn_X_VALUE n) / 2 ^ k % 2 ^ 32 ∧
          t.rd (F.SAW_Sn_LC_F n) = b2n (bit (s.rd (F.SAW_Sn_X_VALUE n)) (k - 1)) ∧
          t.rd (F.SAW_Sn_STATUS_PC n) = (if s.rd (F.SAW_Sn_STATUS_PC n) = (s.saw n).wrapEnd then (s.saw n).wrapStart else s.rd (F.SAW_Sn_STATUS_PC n) + 1) % 512 ∧
          t.saw n = { s.saw n with edge := false, delay := (s.saw n).delay + sawDelay w } ∧ (∀ m : Nat, m ≠ n → t.saw m = s.saw m) ∧
          s.SameRegs t [F.SAW_Sn_PINS_LEVEL n, F.SAW_Sn_STATUS_PC n, F.SAW_Sn_X_VALUE n, F.SAW_Sn_LC_F n] ∧
          t = { s.noted t with saws := t.saws }) ∧
  (∀ (sawyer : Fin 128) (pads : BitVec 16) (n w : Nat) (s : State),
      s.Live → sawyer.val = n → s.sawNext n = some (w, false, some (.post false)) → sawSmask w = 0 →
        ∃ t, exec (.post sawyer pads) s = .next t ∧
          t.rd64 (F.SAW_Sn_TALLY_LO_TALLY n) (F.SAW_Sn_TALLY_HI_TALLY n) = ofSigned 64 ((s.rd64 (F.SAW_Sn_TALLY_LO_TALLY n) (F.SAW_Sn_TALLY_HI_TALLY n) : Int) + toSigned 32 (s.rd (F.SAW_Sn_X_VALUE n))) ∧
          t.rd (F.SAW_Sn_STATUS_PC n) = (if s.rd (F.SAW_Sn_STATUS_PC n) = (s.saw n).wrapEnd then (s.saw n).wrapStart else s.rd (F.SAW_Sn_STATUS_PC n) + 1) % 512 ∧
          t.saw n = { s.saw n with edge := false, delay := (s.saw n).delay + sawDelay w, postTs := s.now, posts := (s.saw n).posts + 1 } ∧ (∀ m : Nat, m ≠ n → t.saw m = s.saw m) ∧
          s.SameRegs t [F.SAW_Sn_PINS_LEVEL n, F.SAW_Sn_STATUS_PC n, F.SAW_Sn_TALLY_LO_TALLY n, F.SAW_Sn_TALLY_HI_TALLY n] ∧
          t = { s.noted t with saws := t.saws }) ∧
  (∀ (sawyer : Fin 128) (pads : BitVec 16) (n w : Nat) (k : Nat) (s : State),
      s.Live → sawyer.val = n → s.sawNext n = some (w, false, some (.flag 0 k)) → sawSmask w = 0 → k < 8 →
        ∃ t, exec (.flag sawyer pads) s = .next t ∧
          bit (t.rd (F.SAW_Gg_FLAGS_FLAGS (n / 8))) k = true ∧
          t.rd (F.SAW_Sn_STATUS_PC n) = (if s.rd (F.SAW_Sn_STATUS_PC n) = (s.saw n).wrapEnd then (s.saw n).wrapStart else s.rd (F.SAW_Sn_STATUS_PC n) + 1) % 512 ∧
          t.saw n = { s.saw n with edge := false, delay := (s.saw n).delay + sawDelay w } ∧ (∀ m : Nat, m ≠ n → t.saw m = s.saw m) ∧
          s.SameRegs t [F.SAW_Sn_PINS_LEVEL n, F.SAW_Sn_STATUS_PC n, F.SAW_Gg_FLAGS_FLAGS (n / 8)] ∧
          t = { s.noted t with saws := t.saws }) ∧
  (∀ (sawyer : Fin 128) (pads : BitVec 16) (n w : Nat) (k : Nat) (s : State),
      s.Live → sawyer.val = n → s.sawNext n = some (w, false, some (.flag 2 k)) → sawSmask w = 0 →
        ∃ t, exec (.flag sawyer pads) s = .next t ∧
          t.rd (F.SAW_Sn_IRQ_FLAGIRQ n) = 1 ∧
          t.rd (F.SAW_Sn_STATUS_PC n) = (if s.rd (F.SAW_Sn_STATUS_PC n) = (s.saw n).wrapEnd then (s.saw n).wrapStart else s.rd (F.SAW_Sn_STATUS_PC n) + 1) % 512 ∧
          t.saw n = { s.saw n with edge := false, delay := (s.saw n).delay + sawDelay w } ∧ (∀ m : Nat, m ≠ n → t.saw m = s.saw m) ∧
          s.SameRegs t [F.SAW_Sn_PINS_LEVEL n, F.SAW_Sn_STATUS_PC n, F.SAW_Sn_IRQ_FLAGIRQ n] ∧
          t = { s.noted t with saws := t.saws }) ∧
  (∀ (sawyer : Fin 128) (pads : BitVec 16) (n w : Nat) (s : State),
      s.Live → sawyer.val = n → s.sawNext n = some (w, false, some (.stamp)) → sawSmask w = 0 →
        ∃ t, exec (.stamp sawyer pads) s = .next t ∧
          t.rd (F.SAW_Sn_STATUS_PC n) = (if s.rd (F.SAW_Sn_STATUS_PC n) = (s.saw n).wrapEnd then (s.saw n).wrapStart else s.rd (F.SAW_Sn_STATUS_PC n) + 1) % 512 ∧
          t.saw n = { s.saw n with edge := false, delay := (s.saw n).delay + sawDelay w, stamp := ft96 s.now } ∧ (∀ m : Nat, m ≠ n → t.saw m = s.saw m) ∧
          s.SameRegs t [F.SAW_Sn_PINS_LEVEL n, F.SAW_Sn_STATUS_PC n] ∧
          t = { s.noted t with saws := t.saws })

/-- EN moves a sawyer between STOPPED and RUN. An injection is queued, or captured with 0x0C08 while one waits. A word joins the TX FIFO
of four or is counted; a read removes the head of the RX FIFO, or counts RXUND. A reload of used sawyers starts, of none answers 0x0C06,
and its completion resumes them at ENTRY with their new wrap. Program memory takes whole aligned words, else 0x0C01. -/
def Obligations.SawyerRegisters : Prop :=
  (∀ (sawyer : Fin 128) (s : State),
      s.Live → s.sawState sawyer = 0 → (s.saw sawyer).used = true →
        exec (.sawyerEnable sawyer true) s = .next (s.settle (((s.wr (F.SAW_Sn_CTL_EN sawyer) 1).wr (F.SAW_Sn_STATUS_STATE sawyer) 1).ack))) ∧
  (∀ (sawyer : Fin 128) (s : State),
      s.Live → s.sawState sawyer = 1 ∨ s.sawState sawyer = 2 → s.sawDelaying sawyer = false →
        exec (.sawyerEnable sawyer false) s = .next (s.settle (((s.wr (F.SAW_Sn_CTL_EN sawyer) 0).wr (F.SAW_Sn_STATUS_STATE sawyer) 0).ack))) ∧
  (∀ (init : Initiator) (sawyer : Fin 128) (word : Word) (s : State),
      s.Live → s.rd (F.SAW_Sn_STATUS_INJ_PEND sawyer) = 0 →
        exec (.sawyerInject init sawyer word) s = .next (s.settle ((((s.wr (F.SAW_Sn_INJ_WORD sawyer) word.toNat).raise
          (F.SAW_Sn_STATUS_INJ_PEND sawyer)).setSaw sawyer { s.saw sawyer with injInit := init }).ack))) ∧
  (∀ (init : Initiator) (sawyer : Fin 128) (word : Word) (s : State),
      s.Live → s.rd (F.SAW_Sn_STATUS_INJ_PEND sawyer) ≠ 0 →
        exec (.sawyerInject init sawyer word) s = .next (s.settle ((s.capture init (s.ownFa 0 (F.SAW_Sn_INJ_WORD sawyer).off) 0x0C08).ack))) ∧
  (∀ (sawyer : Fin 128) (word : Word) (x : SawState) (s : State),
      s.Live → s.marked (.txfTaken sawyer.val) = false → s.saw sawyer = x → x.tx.length < 4 →
        exec (.sawyerTxfWrite sawyer word) s = .next (s.settle ((s.setSaw sawyer { x with tx := x.tx ++ [word.toNat] }).ack))) ∧
  (∀ (sawyer : Fin 128) (word : Word) (s : State),
      s.Live → s.marked (.txfTaken sawyer.val) = false → 4 ≤ (s.saw sawyer).tx.length →
        exec (.sawyerTxfWrite sawyer word) s = .next (s.settle (((s.bump (F.SAW_Sn_CNT_TXOVF sawyer)).raise (F.SAW_Sn_IRQ_TXOVF sawyer)).ack))) ∧
  (∀ (sawyer : Fin 128) (x : SawState) (w : Nat) (l : List Nat) (s : State),
      s.Live → s.marked (.sawSent sawyer.val) = false → s.saw sawyer = x → x.rx = w :: l →
        exec (.sawyerRxfRead sawyer) s = .next (s.settle ((s.setSaw sawyer { x with rx := l }).give [w]))) ∧
  (∀ (sawyer : Fin 128) (s : State),
      s.Live → s.marked (.sawSent sawyer.val) = false → (s.saw sawyer).rx = [] →
        exec (.sawyerRxfRead sawyer) s = .next (s.settle ((s.bump (F.SAW_Sn_CNT_RXUND sawyer)).give [0]))) ∧
  (∀ (sawyer : Fin 128) (word : Word) (s : State),
      s.Live → s.marked (.dropHarvested sawyer.val) = false →
        exec (.sawyerDropWrite sawyer word) s = .next (s.settle ((s.wr (F.SAW_Sn_DROP_DROP sawyer) word.toNat).ack))) ∧
  (∀ (grove : Fin 16) (flags : BitVec 8) (s : State),
      s.Live → s.cycle = [] →
        exec (.groveFlagsWrite grove flags) s = .next (s.settle ((s.wr (F.SAW_Gg_FLAGS_FLAGS grove) flags.toNat).ack))) ∧
  (∀ (init : Initiator) (grove : Fin 16) (clean : Bool) (k : Fin 8) (s : State),
      s.Live → s.reloads.get? grove.val = none → (s.saw (8 * grove.val + k.val)).used = true →
        exec (.reload init grove (BitVec.ofNat 8 (2 ^ k.val)) clean) s = .next (s.settle
          { (((s.wr (F.SAW_Gg_RELOAD_MASK grove) (2 ^ k.val)).wrB (F.SAW_Gg_RELOAD_CLEAN grove) clean).ack.resStart (RR.SAW_Gg_RELOAD_RES grove)) with
            reloads := s.reloads.insert grove.val (2 ^ k.val, clean) })) ∧
  (∀ (init : Initiator) (grove : Fin 16) (mask : BitVec 8) (clean : Bool) (k : Nat) (s : State),
      s.Live → s.reloads.get? grove.val = none → k < 8 → bit mask.toNat k = true → (s.saw (8 * grove.val + k)).used = false →
        exec (.reload init grove mask clean) s = .next (s.settle ((((s.wr (F.SAW_Gg_RELOAD_MASK grove) mask.toNat).wrB (F.SAW_Gg_RELOAD_CLEAN grove)
          clean).ack.resStart (RR.SAW_Gg_RELOAD_RES grove)).resDone (RR.SAW_Gg_RELOAD_RES grove) 0x0C06))) ∧
  (∀ (grove : Fin 16) (mask : Nat) (s : State),
      s.Live → s.reloads.get? grove.val = some (mask, false) →
      (∀ k < 8, bit mask k = true → s.sawDelaying (8 * grove.val + k) = false) →
        ∃ t, exec (.reloadComplete grove) s = .next t ∧ t.reloads = s.reloads.erase grove.val ∧
          (∀ k < 8, bit mask k = true → t.rd (F.SAW_Sn_STATUS_PC (8 * grove.val + k)) = s.rd (F.SAW_Sn_PROG_ENTRY (8 * grove.val + k)) % 512 ∧
            t.rd (F.SAW_Sn_STATUS_STATE (8 * grove.val + k)) = (if s.rd (F.SAW_Sn_CTL_EN (8 * grove.val + k)) ≠ 0 then 1 else 0) ∧
            (t.saw (8 * grove.val + k)).wrapStart = s.rd (F.SAW_Sn_PROG_WRAP_START (8 * grove.val + k))) ∧
          (∀ m : Nat, (∀ k < 8, bit mask k = true → m ≠ 8 * grove.val + k) → t.saw m = s.saw m) ∧
          t.rd (F.SAW_Gg_RELOAD_RES_VALID grove) = 1 ∧ t.rd (F.SAW_Gg_RELOAD_RES_CODE grove) = 0 ∧
          t = { s.noted t with reloads := t.reloads, saws := t.saws } ∧ s.SameBlocks t [12]) ∧
  (∀ (init : Initiator) (off : BitVec 15) (data : List Byte) (enabled : Bool) (s : State),
      s.Live → groveForm off.toNat data.length enabled = true → s.bom.poisoned = [] → s.bom.injected = [] → s.rd F.BOM_INJ_ARMED = 0 →
        exec (.groveMemoryWrite init off ⟨data, enabled⟩) s = .next (s.settle ((s.store 3 off.toNat (data.map BitVec.toNat)).ack))) ∧
  (∀ (init : Initiator) (off : BitVec 15) (data : List Byte) (enabled : Bool) (s : State),
      s.Live → groveForm off.toNat data.length enabled = false →
        exec (.groveMemoryWrite init off ⟨data, enabled⟩) s = .next (s.settle (s.refuse init (s.ownFa 3 off.toNat) 0x0C01)))

/-- A DOWN port that locks settles with fresh hop state; it comes UP, or READY where both ends are admitted. A port that was UP goes DOWN
with LINKDN, the wrap and what it was caused by; one that only settled just starts again. LINK frames carry the ACK. DRAIN and HV_RUN end.
-/
def Obligations.RingPorts : Prop :=
  (∀ (port : Fin 8) (s : State),
      s.Live → portUsed s port = true → portDown s port = true → (port.val = 4 → s.stt.resigning = false) →
        ∃ t, exec (.blockLock port) s = .next t ∧ t.rd (portStateF port) = 1 ∧ t.rd (portLockF port) = 1 ∧ t.rd (portLfF port) = 0 ∧
          t.rd (portRfF port) = 0 ∧ t.mac port = {} ∧ (∀ n : Nat, n ≠ port.val → t.mac n = s.mac n) ∧
          s.SameRegs t [portStateF port, portLockF port, portLfF port, portRfF port, F.STT_IRQ_STLINK] ∧
          t = { s.noted t with ring := { s.ring with macs := t.ring.macs } }) ∧
  (∀ (port : Fin 4) (s : State),
      s.Live → portSettle s port = true → (s.admitted && (s.mac port).helloAdmitted) = false → s.cutNow port.val = false →
        ∃ t, exec (.settleExpiry ⟨port.val, by omega⟩) s = .next t ∧ t.rd (portStateF port) = 3 ∧ t.rd F.CRL_IRQ_LINKUP = 1 ∧
          t.rd F.CRL_STATUS_WRAP_E = b2n t.wrapE ∧ t.rd F.CRL_STATUS_WRAP_W = b2n t.wrapW ∧ t = s.noted t ∧
          s.SameRegs t [portStateF port, F.CRL_IRQ_LINKUP, F.CRL_STATUS_WRAP_E, F.CRL_STATUS_WRAP_W, F.CRL_IRQ_WRAP, F.CRL_IRQ_UNWRAP]) ∧
  (∀ (port : Fin 4) (s : State),
      s.Live → portSettle s port = true → s.admitted = true ∧ (s.mac port).helloAdmitted = true ∨ s.cutNow port.val = true →
        ∃ t, exec (.settleExpiry ⟨port.val, by omega⟩) s = .next t ∧ t.rd (portStateF port) = 2 ∧ t.rd F.CRL_IRQ_LINKUP = s.rd F.CRL_IRQ_LINKUP ∧
          t.rd F.CRL_STATUS_WRAP_E = s.rd F.CRL_STATUS_WRAP_E ∧ t.rd F.CRL_STATUS_WRAP_W = s.rd F.CRL_STATUS_WRAP_W ∧ t.ring.macs = s.ring.macs ∧
          s.SameRegs t [portStateF port, F.CRL_CNT2_UNREACH]) ∧
  (∀ (port : Fin 8) (s : State),
      s.Live → portSettle s port = true → 4 ≤ port.val →
        exec (.settleExpiry port) s = .next (s.settle ((s.wr (portStateF port) 3).raise F.STT_IRQ_STLINK))) ∧
  (∀ (port : Fin 4) (cause : LinkCause) (s : State),
      s.Live → portUp s port = true →
        ∃ t, exec (.portDown ⟨port.val, by omega⟩ cause) s = .next t ∧ t.rd (portStateF port) = 0 ∧ t.rd F.CRL_IRQ_LINKDN = 1 ∧
          t.rd F.CRL_STATUS_WRAP_E = b2n t.wrapE ∧ t.rd F.CRL_STATUS_WRAP_W = b2n t.wrapW ∧ (cause = .localFault → t.rd (portLfF port) = 1 ∧
          t.rd (portLockF port) = 0) ∧ (cause = .remoteFault → t.rd (portRfF port) = 1) ∧ (cause = .heartbeat → t.rd (portHbF port) = 0) ∧
          t = { s.noted t with ring := t.ring, swc := t.swc } ∧ s.SameBlocks t [16]) ∧
  (∀ (port : Fin 4) (s : State),
      s.Live → portSettle s port = true →
        exec (.portDown ⟨port.val, by omega⟩ .remoteFault) s = .next (s.settle ((s.raise (portRfF port)).wr (portStateF port) 0)) ∧
          exec (.portDown ⟨port.val, by omega⟩ .replay) s = .next (s.settle (s.wr (portStateF port) 0))) ∧
  (∀ (port : Fin 8) (s : State),
      s.Live → portUp s port = true → 4 ≤ port.val → s.ringHub = true → s.together = 0 →
        exec (.portDown port .replay) s = .next (s.settle ((s.wr (portStateF port) 0).raise F.STT_IRQ_STLINK))) ∧
  (∀ (port : Fin 7) (s : State),
      s.Live → portUsed s port = true →
        exec (.heartbeatSend port) s = .next (s.settle ((s.setMac port { s.mac port with unacked := 0 }).emit (.wire port
          { typ := 0xD, tc := 5, dest := 0xFFF, src := s.self, epoch := s.rd F.CRL_EPOCH_CUR, payload :=
            leBytes 2 ((s.mac port).rxExp + 65535) ++ [0, 0, 2 + 4 * b2n s.admitted, port.val, 0, 0] ++ leBytes 8 s.serial })))) ∧
  (∀ (port : Fin 7) (s : State),
      s.Live → portUsed s port = true → (s.mac port).unacked ≠ 0 →
        ∃ t, exec (.ackSend port) s = .next t ∧ exec (.heartbeatSend port) s = .next t ∧ (t.mac port).unacked = 0 ∧ t.regs = s.regs) ∧
  (∀ (port : Fin 7) (s : State),
      s.Live → (s.mac port).replay ≠ [] → s.rd (portHbF port) ≠ 0 → portUp s port = true →
        ∃ t, exec (.ackTimeout port) s = .next t ∧ exec (.portDown ⟨port.val, by omega⟩ .replay) s = .next t ∧ t.rd (portStateF port) = 0) ∧
  (∀ (port : Fin 4) (s : State),
      s.Live →
        ∃ t, exec (.drainExpiry port) s = .next t ∧ (t.mac port).draining = false ∧ t.mac port = { s.mac port with draining := false } ∧
          (∀ n : Nat, n ≠ port.val → t.mac n = s.mac n) ∧ t = { s with egress := t.egress, cycle := t.cycle, together := t.together, ring := { s.ring with macs := t.ring.macs } }) ∧
  (∀ (s : State),
      s.Live →
        ∃ t, exec .hvRunTimeout s = .next t ∧ t.rd F.CRL_STATUS_HV_RUN = 0 ∧ t = s.noted t ∧
          s.SameRegs t [F.CRL_STATUS_HV_RUN])

/-- A frame in its place advances the expected HOPSEQ and goes on, in transit to the ring egress or to this hub's consumer with its window
updated. An old HOPSEQ changes nothing. An error is counted and NAKed. A LINK frame releases what it acknowledges, and a NAK replays from
its HOPSEQ. An originated frame is stamped and queued, or refused with 0x1004; ports 14 and 15 originate none. A frame on PL0 is admitted
without hop replay. -/
def Obligations.RingHops : Prop :=
  (∀ (w : WireFrame) (s : State),
      s.Live → portUp s 1 = true → portUp s 0 = true → portUp s 2 = true → w.ours = true → w.fcs = .good → w.hcrcGood = true →
      w.reservedSet = false → w.frame.hopSeq = (s.mac 1).rxExp → w.frame.typ = 5 → w.frame.tc ≤ 5 → w.frame.dup = false →
      w.len = w.frame.payload.length → w.len ≤ 2048 → 2 ≤ w.frame.src / 4 → w.frame.src / 4 ≠ s.rd F.GLB_POS_STATION →
      s.epochFits w.frame = true → w.frame.dest / 4 ≠ s.rd F.GLB_POS_STATION → (s.ring.posmap.get? (w.frame.dest / 4)).isSome = true →
      w.frame.dest / 4 ≠ 0 → w.frame.dest / 4 ≠ 1023 → w.frame.corr ≤ (ns16 (1000 * s.rd F.CRL_TMO0_MAXAGE) : Nat) →
      (s.mac 1).unacked < 31 →
        exec (.ringFrameReceived 1 w) s = .next (s.settle ((s.setMac 1
          { s.mac 1 with rxExp := (w.frame.hopSeq + 1) % 65536, nakClk := none, unacked := (s.mac 1).unacked + 1 }).arrive { inPort := 1, outs := [0], frame := w.frame }))) ∧
  (∀ (port : Fin 3) (w : WireFrame) (x : Window) (s : State),
      s.Live → portUp s port = true → port.val ≠ 0 → s.admitted = true → s.quarantined = false → w.ours = true → w.fcs = .good →
      w.hcrcGood = true → w.reservedSet = false → w.frame.hopSeq = (s.mac port).rxExp → w.frame.typ = 5 → w.frame.kslot = 0 →
      w.frame.tc ≤ 5 → w.frame.dup = false → w.len = w.frame.payload.length → w.len ≤ 2048 → 2 ≤ w.frame.src / 4 →
      w.frame.src / 4 ≠ s.rd F.GLB_POS_STATION → s.epochFits w.frame = true → w.frame.dest = s.self →
      (s.ring.posmap.get? (s.rd F.GLB_POS_STATION)).isSome = true → 1 ≤ s.rd F.GLB_POS_STATION → s.rd F.GLB_POS_HUBPOS < 4 →
      w.frame.corr ≤ (ns16 (1000 * s.rd F.CRL_TMO0_MAXAGE) : Nat) → (s.mac port).unacked < 31 →
      Window.judge (s.ring.windows.get? (windowKey w.frame)) w.frame.flowSeq = .accept x →
        ∃ t, exec (.ringFrameReceived ⟨port.val, by omega⟩ w) s = .next t ∧
          t.mac port = { s.mac port with rxExp := (w.frame.hopSeq + 1) % 65536, nakClk := none, unacked := (s.mac port).unacked + 1 } ∧
          t.ring.windows = s.ring.windows.insert (windowKey w.frame) x ∧
          t.swc.arrivals = s.swc.arrivals ++ [{ inPort := port.val, outs := [8], frame := w.frame, ingress := s.now, undo := some (windowKey w.frame, s.ring.windows.get? (windowKey w.frame)) }] ∧
          t = { s with egress := t.egress, cycle := t.cycle, together := t.together, ring := t.ring, swc := { s.swc with arrivals := t.swc.arrivals } }) ∧
  (∀ (port : Fin 7) (w : WireFrame) (s : State),
      s.Live → w.ours = true → w.fcs = .good → w.hcrcGood = true → w.frame.hopSeq ≠ (s.mac port).rxExp →
      newer 16 w.frame.hopSeq (s.mac port).rxExp = false →
        exec (.ringFrameReceived port w) s = .next (s.settle s)) ∧
  (∀ (port : Fin 7) (w : WireFrame) (s : State),
      s.Live → portUp s port = true → w.ours = true →
      w.fcs = .bad ∧ w.frame.hopSeq ≠ (s.mac port).rxExp ∨ w.fcs = .good ∧ w.hcrcGood = false ∨ w.fcs = .bad ∧ w.hcrcGood = false →
      s.nakOpen port = false →
        ∃ t, exec (.ringFrameReceived port w) s = .next t ∧ t.mac port = { s.mac port with nakClk := some s.clk } ∧
          (s.egress ++ [.wire port
            { typ := 0xD, tc := 5, dest := 0xFFF, src := s.self, epoch := s.rd F.CRL_EPOCH_CUR, payload := leBytes 2 ((s.mac port).rxExp + 65535) ++ leBytes 2 (s.mac port).rxExp ++ [3 + 4 * b2n s.admitted, port.val, 0, 0] ++ leBytes 8 s.serial }]) <+: t.egress ∧
          t.rd (cntNakTx port) = satAdd (cntNakTx port).w (s.rd (cntNakTx port)) 1 ∧
          t = { s.noted t with ring := { s.ring with macs := t.ring.macs }, bom := t.bom } ∧
          s.SameRegs t [cntFcs port, cntHcrc port, cntNakTx port, F.BOM_STAT_QLOST, F.BOM_IRQ_QLOST]) ∧
  (∀ (port : Fin 4) (w : WireFrame) (s : State),
      s.Live → portUp s port = true → w.ours = true → w.fcs = .stomped → w.frame.hopSeq ≠ (s.mac port).rxExp →
        exec (.ringFrameReceived ⟨port.val, by omega⟩ w) s = .next (s.settle (s.bump (F.CRL_Pp_CNT1_STOMPRX port)))) ∧
  (∀ (port : Fin 7) (s : State),
      s.Live → (s.mac port).nakClk.isSome = true →
        ∃ t, exec (.hopNakRetry port) s = .next t ∧ t.mac port = { s.mac port with nakClk := some s.clk } ∧
          (s.egress ++ [.wire port
            { typ := 0xD, tc := 5, dest := 0xFFF, src := s.self, epoch := s.rd F.CRL_EPOCH_CUR, payload := leBytes 2 ((s.mac port).rxExp + 65535) ++ leBytes 2 (s.mac port).rxExp ++ [3 + 4 * b2n s.admitted, port.val, 0, 0] ++ leBytes 8 s.serial }]) <+: t.egress ∧
          t = { s.noted t with ring := { s.ring with macs := t.ring.macs } } ∧ s.SameRegs t [cntNakTx port]) ∧
  (∀ (port : Fin 7) (info : LinkInfo) (s : State),
      s.Live → portUsed s port = true → info.nak = none → s.ringHub = true →
        ∃ t, exec (.linkFrameReceived port info) s = .next t ∧ t.rd (portHbF port) = 1 ∧
          (t.mac port).replay = (s.mac port).replay.filter (fun f => newer 16 f.hopSeq info.ack) ∧
          (t.mac port).helloSerial = (if info.hello then info.serial else (s.mac port).helloSerial) ∧
          (t.mac port).helloAdmitted = (if info.hello then info.admitted else (s.mac port).helloAdmitted) ∧
          t = { s.noted t with ring := { s.ring with macs := t.ring.macs } } ∧ s.SameRegs t [portHbF port]) ∧
  (∀ (port : Fin 7) (info : LinkInfo) (n : Nat) (s : State),
      s.Live → portUsed s port = true → info.nak = some n → s.downAhead port = false → s.ringHub = true → (s.mac port).nakCount = 0 →
        ∃ t, exec (.linkFrameReceived port info) s = .next t ∧ (t.mac port).naked = n ∧ (t.mac port).nakCount = 1 ∧
          (s.egress ++ ((unackedBy (s.mac port).replay info.ack).filter (fun f => f.hopSeq == n || newer 16 f.hopSeq n)).map (fun f => Out.wire port.val (s.frameOut port f.buf f.hopSeq))) <+: t.egress ∧
          s.SameRegs t [portHbF port, cntReplay port]) ∧
  (∀ (port : Fin 7) (info : LinkInfo) (n : Nat) (s : State),
      s.Live → portUsed s port = true → portUp s port = true → info.nak = some n → s.downAhead port = false → (s.mac port).naked = n →
      (s.mac port).nakCount = 7 →
        ∃ t, exec (.linkFrameReceived port info) s = .next t ∧ t.rd (portStateF port) = 0) ∧
  (∀ (port : Fin 16) (frame : Frame) (outs : List Nat) (d : Bool) (s : State),
      s.Live → port.val < 14 → s.quarantined = false → frame.kslot = 0 → s.route frame = .ok (outs, d) → outs ≠ [] →
        ∃ t, exec (.frameOriginate port frame) s = .next t ∧ t.answer = .done ∧
          t.ring.flowTx = s.ring.flowTx.put frame.tc ((s.ring.flowTx.getD frame.tc 0 + 1) % 2 ^ 32) 0 ∧
          t.swc.arrivals = s.swc.arrivals ++ [{ inPort := max 8 port.val, outs := outs, dual := decide (6 ≤ frame.tc), ingress := s.now, frame := { frame with ringB := d, src := s.self, flowSeq := s.ring.flowTx.getD frame.tc 0, epoch := s.rd F.CRL_EPOCH_CUR, corr := 0, dup := decide (6 ≤ frame.tc), kepoch := 0 } }] ∧
          t = { s with egress := t.egress, cycle := t.cycle, together := t.together, answer := .done, ring := { s.ring with flowTx := t.ring.flowTx }, swc := { s.swc with arrivals := t.swc.arrivals } }) ∧
  (∀ (port : Fin 16) (frame : Frame) (s : State),
      s.Live → 14 ≤ port.val →
        exec (.frameOriginate port frame) s = .next (s.settle s)) ∧
  (∀ (port : Fin 16) (frame : Frame) (s : State),
      s.Live → port.val < 14 → s.quarantined = false → s.route frame = .error 0x1004 →
        ∃ t, exec (.frameOriginate port frame) s = .next t ∧ t.answer = .error 0x1004 ∧
          t.rd F.CRL_CNT2_UNREACH = satAdd 16 (s.rd F.CRL_CNT2_UNREACH) 1 % 65536 ∧ t = { s.noted t with answer := t.answer } ∧
          s.SameRegs t [F.CRL_CNT2_UNREACH]) ∧
  (∀ (w : WireFrame) (x : Window) (s : State),
      s.Live → portUsed s 7 = true → s.admitted = true → s.quarantined = false → w.ours = true → w.fcs = .good → w.hcrcGood = true →
      w.reservedSet = false → w.frame.typ = 5 → w.frame.kslot = 0 → w.frame.tc ≤ 5 → w.frame.dup = false →
      w.len = w.frame.payload.length → w.len ≤ 2048 → 2 ≤ w.frame.src / 4 → s.epochFits w.frame = true → w.frame.dest = s.self →
      (s.ring.posmap.get? (s.rd F.GLB_POS_STATION)).isSome = true → 1 ≤ s.rd F.GLB_POS_STATION → s.rd F.GLB_POS_HUBPOS < 4 →
      w.frame.corr ≤ (ns16 (1000 * s.rd F.CRL_TMO0_MAXAGE) : Nat) →
      Window.judge (s.ring.windows.get? (windowKey w.frame)) w.frame.flowSeq = .accept x →
        ∃ t, exec (.pl0FrameReceived w) s = .next t ∧ t.ring = { s.ring with windows := s.ring.windows.insert (windowKey w.frame) x } ∧
          t.swc.arrivals = s.swc.arrivals ++ [{ inPort := 7, outs := [8], frame := w.frame, ingress := s.now, undo := some (windowKey w.frame, s.ring.windows.get? (windowKey w.frame)) }] ∧
          t = { s with egress := t.egress, cycle := t.cycle, together := t.together, ring := t.ring, swc := { s.swc with arrivals := t.swc.arrivals } }) ∧
  (∀ (w : WireFrame) (s : State),
      s.Live → portUsed s 7 = true → w.ours = false ∨ w.fcs ≠ .good ∨ w.hcrcGood = false →
        exec (.pl0FrameReceived w) s = .next (s.settle (s.bump (cntFcs 7))))

/-- An unadmitted ring hub sends JOIN. The head answers a new ring hub with an ID, a map that holds it and an epoch one up, a known and
expected one with RELEASE, and a clash of serials with REFUSE. GRANT admits the hub in quarantine with every FLOWSEQ at 0. A link report
of a port DOWN cuts the link, and READY at both ends heals it, each with an epoch. -/
def Obligations.Admission : Prop :=
  (∀ (s : State),
      s.Live → s.ringHub = true → s.admitted = false → s.rd F.GLB_POS_STATION = 0 → s.rd F.CRL_CTL_HEAD = 0 → s.wrapE = false →
      s.ring.posmap.get? 1 = none →
        ∃ t, exec .joinSend s = .next t ∧ t.stt = { s.stt with carried := s.stt.records.map Prod.fst } ∧
          t.ring.flowTx = s.ring.flowTx.put 4 ((s.ring.flowTx.getD 4 0 + 1) % 2 ^ 32) 0 ∧
          t.swc.arrivals = s.swc.arrivals ++ [{ inPort := 8, outs := [0], ingress := s.now, frame := { typ := 0xB, tc := 4, dest := 4, src := s.self, flowSeq := s.ring.flowTx.getD 4 0, epoch := s.rd F.CRL_EPOCH_CUR, payload := s.joinPayload s.joinHubs } }] ∧
          t = { s with egress := t.egress, cycle := t.cycle, together := t.together, stt := t.stt, ring := { s.ring with flowTx := t.ring.flowTx }, swc := { s.swc with arrivals := t.swc.arrivals } }) ∧
  (∀ (info : JoinInfo) (expected : Bool) (hub : JoinHub) (sid : Nat) (s : State),
      s.Live → s.rd F.CRL_CTL_HEAD ≠ 0 → info.hubs.find? (fun x => x.pos == info.ringPos) = some hub → hub.serial ≠ s.serial →
      s.ring.head.roster.get? hub.serial = none → freeStation s.ring.head.roster = some sid →
      info.hubs.any (fun x => s.ring.head.hubs.any (fun p => p.2.serial == x.serial && p.1 / 4 != sid)) = false →
      s.trainFits ((s.ring.head.hubs.filter (fun p => p.1 / 4 != sid && p.1 / 4 != 1)).map (fun p => slotLen p.2) ++ info.hubs.map slotLen) (info.stepsA + info.stepsB + 2) = true →
      info.station ≠ sid → s.ring.coming = none → s.rd F.CRL_EPOCH_CUR < 65536 →
        ∃ t, exec (.join info expected) s = .next t ∧ t.ring.head.roster = s.ring.head.roster.insert hub.serial sid ∧
          t.ring.head.positions = s.ring.head.positions.insert sid (info.stepsA + 1) ∧ t.ring.head.hops = info.stepsA + info.stepsB + 2 ∧
          t.ring.coming = t.ring.head.announced ∧ t.ring.coming.map (·.newEpoch) = some ((s.rd F.CRL_EPOCH_CUR + 1) % 65536) ∧
          t.ring.coming.map (·.prevEpoch) = some (s.rd F.CRL_EPOCH_CUR) ∧
          t = { s.noted t with ring := t.ring, swc := { s.swc with arrivals := t.swc.arrivals } } ∧ s.SameRegs t [F.CRL_CNT2_UNREACH]) ∧
  (∀ (info : JoinInfo) (hub : JoinHub) (sid : Nat) (s : State),
      s.Live → s.rd F.CRL_CTL_HEAD ≠ 0 → info.hubs.find? (fun x => x.pos == info.ringPos) = some hub → hub.serial ≠ s.serial →
      s.ring.head.roster.get? hub.serial = some sid → sid ≠ 1 →
      info.hubs.any (fun x => s.ring.head.hubs.any (fun p => p.2.serial == x.serial && p.1 / 4 != sid)) = false →
      s.trainFits ((s.ring.head.hubs.filter (fun p => p.1 / 4 != sid && p.1 / 4 != 1)).map (fun p => slotLen p.2) ++ info.hubs.map slotLen) (info.stepsA + info.stepsB + 2) = true →
      s.granted info sid = true →
        exec (.join info true) s = .next (s.settle (s.send 9
          { typ := 0xB, tc := 4, dest := sid * 4, payload := [3, 0, 0, 0] ++ leBytes 2 (s.rd F.CRL_EPOCH_CUR) })) ∧
          exec (.join info false) s = .next (s.settle s)) ∧
  (∀ (info : JoinInfo) (expected : Bool) (hub : JoinHub) (sid : Nat) (s : State),
      s.Live → s.rd F.CRL_CTL_HEAD ≠ 0 → info.hubs.find? (fun x => x.pos == info.ringPos) = some hub → hub.serial ≠ s.serial →
      s.ring.head.roster.get? hub.serial = some sid →
      info.hubs.any (fun x => s.ring.head.hubs.any (fun p => p.2.serial == x.serial && p.1 / 4 != sid)) = true →
        exec (.join info expected) s = .next (s.settle (((s.send 9
          { typ := 0xB, tc := 4, dest := info.station * 4, payload := [4, 0] ++ leBytes 2 0x1012 ++ leBytes 8 hub.serial }).raise F.CRL_IRQ_REFUSED).violation 8 0x1012))) ∧
  (∀ (station : Fin 1023) (epoch : BitVec 16) (serial : BitVec 64) (s : State),
      s.Live → s.ringHub = true → serial.toNat = s.serial →
        ∃ t, exec (.grant station epoch serial) s = .next t ∧ t.rd F.GLB_POS_STATION = station.val ∧ t.rd F.CRL_EPOCH_CUR = epoch.toNat ∧
          t.admitted = true ∧ t.quarantined = true ∧ t.ring.grace = false ∧ t.ring.refused = false ∧ t.ring.released = false ∧
          (s.quarantined = true → t = { s.noted t with ring := t.ring, swc := t.swc, alm := t.alm } ∧
            s.SameRegs t [F.GLB_POS_STATION, F.CRL_EPOCH_CUR, F.CRL_STATUS_ADMITTED] ∧ (s.stt.carried = [] → t.ring.flowTx = [] ∧ t.swc = s.swc)) ∧
          (s.quarantined = false → t.rd F.CRL_IRQ_QUAR = 1)) ∧
  (∀ (station : Fin 1023) (epoch code : BitVec 16) (serial : BitVec 64) (s : State),
      s.Live → s.ringHub = true → serial.toNat ≠ s.serial →
        exec (.grant station epoch serial) s = .next (s.settle s) ∧ exec (.refuse code serial) s = .next (s.settle s)) ∧
  (∀ (epoch : BitVec 16) (s : State),
      s.Live → s.admitted = true → s.quarantined = true →
        ∃ t, exec (.release epoch) s = .next t ∧ t.ring.released = true ∧ t.quarantined = true ∧ t.regs = s.regs ∧
          t = { s with egress := t.egress, cycle := t.cycle, together := t.together, ring := t.ring, swc := { s.swc with arrivals := t.swc.arrivals } }) ∧
  (∀ (code : BitVec 16) (serial : BitVec 64) (s : State),
      s.Live → (s.ringHub = true → serial.toNat = s.serial) →
        ∃ t, exec (.refuse code serial) s = .next t ∧ t.ring.refused = true ∧ t.rd F.CRL_IRQ_REFUSED = 1 ∧ s.SameRegs t [F.CRL_IRQ_REFUSED] ∧
          t = { s.noted t with ring := t.ring, swc := { s.swc with arrivals := t.swc.arrivals } }) ∧
  (∀ (station : Fin 1023) (port : Fin 4) (serial : BitVec 64) (c : Nat) (s : State),
      s.Live → s.rd F.CRL_CTL_HEAD ≠ 0 → s.ring.head.linkAt station port = some c → s.ring.head.roster.get? serial.toNat = none →
      c ∉ s.ring.head.cuts → s.ring.coming = none → s.rd F.CRL_EPOCH_CUR < 65536 →
        ∃ t, exec (.linkrpt station port false serial) s = .next t ∧ t.ring.head.cuts = s.ring.head.cuts ++ [c] ∧
          t.ring.head.downs = s.ring.head.downs.insert (station.val * 4 + port.val) serial.toNat ∧
          t.ring.coming.map (·.newEpoch) = some ((s.rd F.CRL_EPOCH_CUR + 1) % 65536) ∧ t.ring.coming = t.ring.head.announced ∧
          t = { s with egress := t.egress, cycle := t.cycle, together := t.together, ring := t.ring }) ∧
  (∀ (station other : Fin 1023) (port far : Fin 4) (serial : BitVec 64) (c : Nat) (s : State),
      s.Live → s.rd F.CRL_CTL_HEAD ≠ 0 → s.ring.head.linkAt station port = some c → s.ring.head.linkAt other far = some c →
      far.val % 2 ≠ port.val % 2 → other.val * 4 + far.val ∈ s.ring.head.readies →
      s.ring.head.downs.erase (station.val * 4 + port.val) = [] → c ∈ s.ring.head.cuts → s.ring.coming = none →
      s.rd F.CRL_EPOCH_CUR < 65536 →
        ∃ t, exec (.linkrpt station port true serial) s = .next t ∧ t.ring.head.cuts = s.ring.head.cuts.filter (· != c) ∧
          t.ring.coming.map (·.newEpoch) = some ((s.rd F.CRL_EPOCH_CUR + 1) % 65536) ∧ t = { s with egress := t.egress, cycle := t.cycle, together := t.together, ring := t.ring })

/-- An EPOCH frame that follows the hub's epoch is taken and the windows of the stations it lists are cleared. One that is newer but does
not follow makes the hub stale. Any other changes nothing. At its boundary the hub takes epoch, map, cuts and harvest values, and READY
ports whose link is no longer cut come UP. A switch of the key epoch keeps the old keys for the grace, and a new KEP_NEXT is prepared. -/
def Obligations.Epochs : Prop :=
  (∀ (info : EpochInfo) (s : State),
      s.Live → epochNewer info.newEpoch (s.rd F.CRL_EPOCH_CUR) = true → info.prevEpoch = s.rd F.CRL_EPOCH_CUR →
      s.ring.coming ≠ some info →
        exec (.epochReceived info) s = .next (s.settle
          { s with ring := { s.ring with coming := some info, windows := s.ring.windows.filter (fun p => !info.resets.contains (p.1 / 32)) } })) ∧
  (∀ (info : EpochInfo) (s : State),
      s.Live → epochNewer info.newEpoch (s.rd F.CRL_EPOCH_CUR) = true → info.prevEpoch ≠ s.rd F.CRL_EPOCH_CUR →
        ∃ t, exec (.epochReceived info) s = .next t ∧ t.admitted = false ∧ t.quarantined = true ∧ t.ring.coming = s.ring.coming ∧
          t.rd F.CRL_EPOCH_CUR = s.rd F.CRL_EPOCH_CUR ∧ t.ring.released = false) ∧
  (∀ (info : EpochInfo) (s : State),
      s.Live → epochNewer info.newEpoch (s.rd F.CRL_EPOCH_CUR) = false →
        exec (.epochReceived info) s = .next (s.settle s)) ∧
  (∀ (e : EpochInfo) (s : State),
      s.Live → s.ring.coming = some e → s.rd F.CRL_CTL_HEAD = 0 → e.kepTx = s.rd F.CRL_KEY_TX → e.kepTx < 16 → e.kepNext = 0xFF →
        ∃ t, exec .epochEffect s = .next t ∧ t.rd F.CRL_EPOCH_CUR = e.newEpoch % 65536 ∧ t.rd F.CRL_EPOCH_PREV = s.rd F.CRL_EPOCH_CUR % 65536 ∧
          t.rd F.CRL_IRQ_EPOCH = 1 ∧ t.rd F.CRL_MAP_HOPS = e.hops % 1024 ∧ t.rd F.CRL_MAP_DRAIN = e.drain % 65536 ∧
          t.rd F.CRL_HPER_VALUE = e.hper % 2 ^ 19 ∧ t.rd F.CRL_HAPPLY_VALUE = e.happly % 2 ^ 19 ∧ t.rd F.CRL_HLAUNCH_VALUE = e.hlaunch % 2 ^ 19 ∧
          t.rd F.CRL_KEY_NEXT_VALID = 0 ∧ t.rd F.CRL_KEY_TX = e.kepTx ∧ t.rd F.CRL_STATUS_POS = (SMap.getD e.posmap (s.rd F.GLB_POS_STATION) 0x3FF) % 1024 ∧
          (∀ p < 4, portReady s p = true → t.linkOf p ∉ t.ring.cuts → portUp t p = true) ∧
          t.ring = { s.ring with macs := t.ring.macs, posmap := e.posmap, cuts := [e.cut0, e.cut1].filter (· != 0xFFFF), grace := true, coming := none } ∧
          t = { s.noted t with ring := t.ring } ∧ s.SameBlocks t [16]) ∧
  (∀ (e : EpochInfo) (s : State),
      s.Live → s.ring.coming = some e → s.rd F.CRL_CTL_HEAD = 0 → e.kepTx ≠ s.rd F.CRL_KEY_TX → e.kepTx < 16 → e.kepNext = 0xFF →
        ∃ t, exec .epochEffect s = .next t ∧ t.rd F.CRL_KEY_TX = e.kepTx ∧ t.ring.oldKeys = true ∧ t.rd F.CRL_IRQ_REKEY = 1 ∧
          t.rd F.CRL_STATUS_REKEY = 0 ∧ t.swc.frames = s.swc.frames.map (fun b => if b.hold.isSome then { b with hold := none, frame := { b.frame with kepoch := e.kepTx } } else b) ∧
          t = { s.noted t with ring := t.ring, swc := { s.swc with frames := t.swc.frames } } ∧ s.SameBlocks t [16]) ∧
  (∀ (e : EpochInfo) (s : State),
      s.Live → s.ring.coming = some e → s.rd F.CRL_CTL_HEAD = 0 → e.kepTx = s.rd F.CRL_KEY_TX → e.kepNext < 16 →
      s.rd F.CRL_KEY_NEXT_VALID = 0 →
        ∃ t, exec .epochEffect s = .next t ∧ t.rd F.CRL_KEY_NEXT_VALID = 1 ∧ t.rd F.CRL_KEY_NEXT = e.kepNext ∧ t.rd F.CRL_STATUS_REKEY = 1 ∧
          t.ring.preparing = true) ∧
  (∀ (e : EpochInfo) (s : State),
      s.Live → s.ring.head.announced = some e → s.rd F.CRL_CTL_HEAD ≠ 0 → s.ring.coming = none →
        exec .epochRepeat s = .next (s.settle (s.send 9 { typ := 0xC, tc := 7, dup := true, dest := 1023 * 4, payload := epochPayload e }))) ∧
  (∀ (s : State),
      s.Live →
        exec .graceExpiry s = .next (s.settle { s with ring := { s.ring with grace := false } }))

/-- CRL_CTL.REKEY or a request starts a rekey with KEP_NEXT one up; a second write is refused with 0x1015 and a second request counted.
When every hub has answered, or at REKEY_TMO, the head announces the switch. A hub that has derived its keys answers, and drops the old
keys after MAXAGE. -/
def Obligations.Rekey : Prop :=
  (∀ (init : Initiator) (s : State),
      s.Live → s.rd F.CRL_CTL_HEAD ≠ 0 → s.ring.head.kepNext = none → s.rd F.CRL_STATUS_REKEY = 0 → s.ring.coming = none →
      s.rd F.CRL_EPOCH_CUR < 65536 →
        ∃ t, exec (.rekey init) s = .next t ∧ t.rd F.CRL_STATUS_REKEY = 1 ∧ t.ring.head.kepNext = some ((s.ring.head.kepTx + 1) % 16) ∧
          t.ring.head.rekeyed = [] ∧ t.ring.coming.map (·.kepNext) = some ((s.ring.head.kepTx + 1) % 16) ∧
          t.ring.coming.map (·.newEpoch) = some ((s.rd F.CRL_EPOCH_CUR + 1) % 65536) ∧ t.answer = .done ∧ s.SameRegs t [F.CRL_STATUS_REKEY] ∧
          t = { s.noted t with ring := t.ring, answer := .done }) ∧
  (∀ (init : Initiator) (s : State),
      s.Live → s.rd F.CRL_CTL_HEAD = 0 ∨ s.ring.head.kepNext ≠ none ∨ s.rd F.CRL_STATUS_REKEY ≠ 0 →
        exec (.rekey init) s = .next (s.settle (s.refuseReg init F.CRL_CTL_REKEY.off 0x1015))) ∧
  (∀ (s : State),
      s.Live → s.rd F.CRL_CTL_HEAD ≠ 0 → s.rd F.CRL_STATUS_REKEY ≠ 0 →
        exec .rekeyReq s = .next (s.settle
          { s with ring := { s.ring with head := { s.ring.head with rekeyReqs := s.ring.head.rekeyReqs + 1 } } })) ∧
  (∀ (s : State),
      s.Live → s.rd F.CRL_CTL_HEAD ≠ 0 → s.rd F.CRL_STATUS_REKEY = 0 → s.ring.head.kepNext = none →
        ∃ t, exec .rekeyReq s = .next t ∧ t.rd F.CRL_STATUS_REKEY = 1 ∧ t.ring.head.kepNext = some ((s.ring.head.kepTx + 1) % 16) ∧
          t.ring.head.rekeyReqs = s.ring.head.rekeyReqs ∧ s.SameRegs t [F.CRL_STATUS_REKEY]) ∧
  (∀ (hub : Fin 4096) (kepoch : Fin 16) (s : State),
      s.Live → s.rd F.CRL_CTL_HEAD ≠ 0 → s.ring.head.kepNext = some kepoch.val →
      s.ring.head.hubs.all (fun p => p.1 == hub.val || s.ring.head.rekeyed.contains p.1) = true → s.ring.coming = none →
      s.rd F.CRL_EPOCH_CUR < 65536 → (s.rd F.CRL_EPOCH_CUR + 1 + 65536 - s.ring.head.switchEpoch % 65536) % 65536 < 32768 →
        ∃ t, exec (.rekeyReady hub kepoch) s = .next t ∧ t.ring.head.kepTx = kepoch.val ∧ t.ring.head.kepNext = none ∧
          t.ring.coming.map (fun e => (e.kepTx, e.kepNext)) = some (kepoch.val, 0xFF) ∧ t = { s with egress := t.egress, cycle := t.cycle, together := t.together, ring := t.ring }) ∧
  (∀ (hub : Fin 4096) (kepoch : Fin 16) (s : State),
      s.Live → s.rd F.CRL_CTL_HEAD ≠ 0 → s.ring.head.kepNext = some kepoch.val →
      s.ring.head.hubs.any (fun p => p.1 != hub.val && !s.ring.head.rekeyed.contains p.1) = true →
        exec (.rekeyReady hub kepoch) s = .next (s.settle
          { s with ring := { s.ring with head := { s.ring.head with rekeyed := hub.val :: s.ring.head.rekeyed.filter (· != hub.val) } } })) ∧
  (∀ (k : Nat) (s : State),
      s.Live → s.rd F.CRL_CTL_HEAD ≠ 0 → s.ring.head.kepNext = some k → s.ring.coming = none → s.rd F.CRL_EPOCH_CUR < 65536 →
      (s.rd F.CRL_EPOCH_CUR + 1 + 65536 - s.ring.head.switchEpoch % 65536) % 65536 < 32768 →
        ∃ t, exec .rekeyTmoExpiry s = .next t ∧ t.ring.head.kepTx = k ∧ t.ring.head.kepNext = none ∧
          t.ring.coming.map (fun e => (e.kepTx, e.kepNext)) = some (k, 0xFF) ∧ s.SameRegs t [F.CRL_CNT2_UNREACH]) ∧
  (∀ (s : State),
      s.Live → s.ring.preparing = true → s.tlatch = false →
        ∃ t, exec .epochKeysDerived s = .next t ∧ t.ring.preparing = false ∧ t.rd F.KEY_IRQ_DERIVED = 1 ∧
          t = { s.noted t with ring := t.ring, swc := { s.swc with arrivals := t.swc.arrivals } } ∧
          s.SameRegs t [F.KEY_IRQ_DERIVED, F.CRL_CNT2_UNREACH]) ∧
  (∀ (s : State),
      s.Live → s.ring.oldKeys = true →
        ∃ t, exec .oldKeyZeroise s = .next t ∧ t.ring.oldKeys = false ∧
          (∀ n ∈ s.masters, (t.rd (F.KEY_Sn_INFO_E0V n) ≠ 0 → t.rd (F.KEY_Sn_INFO_E0 n) = s.rd F.CRL_KEY_TX ∨
            s.rd F.CRL_KEY_NEXT_VALID ≠ 0 ∧ t.rd (F.KEY_Sn_INFO_E0 n) = s.rd F.CRL_KEY_NEXT)) ∧
          t = { s.noted t with ring := { s.ring with oldKeys := false }, sec := { s.sec with slots := t.sec.slots } } ∧ s.SameBlocks t [21])

/-- At a cycle start an admitted hub samples its input image. The head launches a train with the images it read, the boundary closes the
cycle, applies the output image taken or counts a miss, and the head completes the cycle with its counts. -/
def Obligations.HarvestCycle : Prop :=
  (∀ (s : State),
      s.Live → s.timeRuns = true → s.ring.harvest.cycle < s.cycleAt → s.admitted = true → s.rd F.CRL_STATUS_HV_RUN = 0 →
      s.ring.coming = none →
        ∃ t, exec .harvestCycleStart s = .next t ∧ t.rd F.CRL_HCYCLE_CYCLE = s.cycleAt % 2 ^ 32 ∧ t.mem = (s.store 1 0 s.inputImage).mem ∧
          t.ring.harvest = { s.ring.harvest with cycle := s.cycleAt, start := s.cycleAt * s.hper, sampled := s.inputImage, staged := none, closed := false, images := [], passedOn := [] } ∧
          s.SameRegs t [F.CRL_HCYCLE_CYCLE] ∧ t = { s.noted t with mem := t.mem, freeCtr := t.freeCtr, ring := t.ring, swc := { s.swc with arrivals := t.swc.arrivals } }) ∧
  (∀ (images : List (Nat × List Byte)) (s : State),
      s.Live → s.rd F.CRL_CTL_HEAD ≠ 0 → s.ring.head.trainOpen = false → s.ring.harvest.closed = false →
        ∃ t, exec (.harvestLaunch images) s = .next t ∧ t.ring.head.trainOpen = true ∧ t.ring.head.returned = [] ∧ t.ring.head.framesBack = [] ∧
          (∀ bs, images.find? (fun p => p.1 == s.self) = some (s.self, bs) →
            t.ring.harvest.staged = some (bytesAt (bs.map BitVec.toNat) 0 s.alm.outLen)) ∧
          (images.find? (fun p => p.1 == s.self) = none → t.ring.harvest.staged = s.ring.harvest.staged) ∧
          s.SameRegs t [F.CRL_STATUS_HV_RUN] ∧ (s.trainHubs ≠ [] → t.rd F.CRL_STATUS_HV_RUN = 1) ∧
          t = { s.noted t with ring := t.ring, swc := { s.swc with arrivals := t.swc.arrivals } }) ∧
  (∀ (img : List Nat) (s : State),
      s.Live → s.ring.harvest.closed = false → s.ring.harvest.start + ns16 (250 * s.rd F.CRL_HAPPLY_VALUE) ≤ s.now →
      s.ring.released = false → s.ring.harvest.staged = some img → s.drives = true → s.role = roleNone → s.alm.coming = none →
      s.alm.points = [] →
        ∃ t, exec .harvestBoundary s = .next t ∧ t.ring.harvest = { s.ring.harvest with closed := true, staged := none, written := false } ∧
          t.mem = (s.store 1 0x400 (bytesAt img 0 s.alm.outLen)).mem ∧ t.slc = { s.slc with watchdog := false, imageClk := some s.clk } ∧ t.regs = s.regs ∧
          t.stt = { s.stt with boundary := s.ring.harvest.cycle } ∧
          t = { s with egress := t.egress, cycle := t.cycle, together := t.together, mem := t.mem, ring := { s.ring with released := false, harvest := t.ring.harvest }, slc := t.slc, stt := t.stt }) ∧
  (∀ (s : State),
      s.Live → s.ring.harvest.closed = false → s.ring.harvest.start + ns16 (250 * s.rd F.CRL_HAPPLY_VALUE) ≤ s.now →
      s.ring.harvest.staged = none → s.ring.harvest.written = false → s.admitted = true → s.ring.released = true →
      s.quarantined = true → s.role = roleNone → s.alm.coming = none →
        ∃ t, exec .harvestBoundary s = .next t ∧ t.quarantined = false ∧ t.rd F.CRL_IRQ_RELEASE = 1 ∧
          t.rd F.CRL_HCNT_MISS = satAdd 16 (s.rd F.CRL_HCNT_MISS) 1 % 65536 ∧ t.rd F.CRL_IRQ_HMISS = 1 ∧ t.ring.harvest.closed = true ∧
          t.ring.released = false ∧ t.mem = s.mem ∧ s.SameRegs t [F.CRL_STATUS_QUAR, F.CRL_IRQ_RELEASE, F.CRL_HCNT_MISS, F.CRL_IRQ_HMISS]) ∧
  (∀ (s : State),
      s.Live → s.rd F.CRL_CTL_HEAD ≠ 0 → s.ring.head.trainOpen = true → s.ring.harvest.closed = true →
        ∃ t, exec .harvestCycleComplete s = .next t ∧ t.ring.head.trainOpen = false ∧ t.rd F.CRL_IRQ_HDONE = 1 ∧
          t.rd F.CRL_HDONE_MISSED = (s.cycleResults.filter (fun x => x.2.1 == 2)).length % 4096 ∧
          t.rd F.CRL_HDONE_FRESH = (s.cycleResults.length - (s.cycleResults.filter (fun x => x.2.1 == 2)).length) % 4096 ∧
          t.rd F.CRL_HDONE_CYC_CYCLE = s.ring.harvest.cycle % 2 ^ 32 ∧ s.SameRegs t [F.CRL_IRQ_HDONE, F.CRL_HDONE_MISSED, F.CRL_HDONE_FRESH, F.CRL_HDONE_CYC_CYCLE, F.CRL_CNT2_UNREACH] ∧
          t = { s.noted t with ring := t.ring, swc := { s.swc with arrivals := t.swc.arrivals }, brg := t.brg, stt := t.stt })

/-- READ, WRITE, POSTED_WRITE and ATOMIC on SRAM read and store exactly the bytes named and answer RSP (a posted write nothing). LOCK_ACQ
takes a free semaphore, is busy with 0x1204, or is decided as a crossing; LOCK_REL gives one back. What cannot be done is answered with a
NAK. -/
def Obligations.CommandsServed : Prop :=
  (∀ (f : Frame) (s : State),
      s.Live → f.typ = 5 → cmdOp f = 1 → cmdFits f = true → f.tc ≠ 7 → cmdB1 f % 2 = 0 → cmdFa f / 2 ^ 40 % 16 = 4 →
      cmdFa f % 2 ^ 40 + cmdBytes f ≤ 0x400000 → s.bom.injected = [] → s.bom.poisoned = [] →
        exec (.read f) s = .next (s.settle ((s.give (s.bytes 4 (cmdFa f % 2 ^ 40) (cmdBytes f))).send 8
          { typ := 6, tc := f.tc, dest := f.src, ctx := f.ctx, kslot := if f.kslot = 0 then 0 else s.sec.rspMap.getD f.kslot 0, payload :=
              [1, 0, cmdTag f, 0] ++ leBytes 2 (cmdBytes f) ++ List.replicate 10 0 ++ s.bytes 4 (cmdFa f % 2 ^ 40) (cmdBytes f) }))) ∧
  (∀ (f : Frame) (s : State),
      s.Live → f.typ = 5 → cmdOp f = 1 → cmdFits f = true → f.tc ≠ 7 → cmdB1 f % 2 = 1 → s.pageP (s.cmdPlace f) = false →
        exec (.read f) s = .next (s.settle (s.sendNak f 0x1203))) ∧
  (∀ (f : Frame) (s : State),
      s.Live → f.typ = 5 → cmdOp f = 2 → cmdFits f = true → f.tc ≠ 7 → cmdFa f / 2 ^ 40 % 16 = 4 →
      cmdFa f % 2 ^ 40 + cmdBytes f ≤ 0x400000 → s.bom.injected = [] → s.bom.poisoned = [] → s.rd F.BOM_INJ_ARMED = 0 →
        exec (.write f) s = .next (s.settle ((s.store 4 (cmdFa f % 2 ^ 40) (cmdData f)).ack.send 8
          { typ := 6, tc := f.tc, dest := f.src, ctx := f.ctx, kslot := if f.kslot = 0 then 0 else s.sec.rspMap.getD f.kslot 0, payload :=
              [2, 0, cmdTag f, 0] ++ List.replicate 12 0 }))) ∧
  (∀ (f : Frame) (s : State),
      s.Live → f.typ = 5 → cmdOp f = 3 → cmdFits f = true → cmdFa f / 2 ^ 40 % 16 = 4 → cmdFa f % 2 ^ 40 + cmdBytes f ≤ 0x400000 →
      s.bom.injected = [] → s.bom.poisoned = [] → s.rd F.BOM_INJ_ARMED = 0 →
        exec (.postedWrite f) s = .next (s.settle (s.store 4 (cmdFa f % 2 ^ 40) (cmdData f)).ack)) ∧
  (∀ (f : Frame) (s : State),
      s.Live → f.typ = 5 → cmdOp f = 3 → cmdFits f = true → cmdFa f / 2 ^ 40 % 16 = 5 → cmdFa f % 2 ^ 40 + cmdBytes f ≤ 0x100000 →
        exec (.postedWrite f) s = .next (s.settle ((s.refuse .tc4 (s.ownFa 5 (cmdFa f % 2 ^ 40)) 0x1A06).sendNak f 0x1A06))) ∧
  (∀ (f : Frame) (b : Bool) (s : State),
      s.Live → f.typ = 5 → cmdOp f = 4 → cmdFits f = true → f.tc ≠ 7 → s.brg.sems.get? (s.cmdPlace f / 4096) = none →
      s.brg.sems.length < 32 → (s.semsOf (lockWho f)).length < 4 → s.brg.waits.get? (lockWho f) ≠ some (s.cmdPlace f / 4096, true) →
        exec (.lockAcq f b) s = .next (s.settle (State.sendRsp
          { s with brg := { s.brg with waits := s.brg.waits.erase (lockWho f), sems := s.brg.sems.insert (s.cmdPlace f / 4096) (lockWho f) } } f []))) ∧
  (∀ (f : Frame) (holder : Nat) (b : Bool) (s : State),
      s.Live → f.typ = 5 → cmdOp f = 4 → cmdFits f = true → f.tc ≠ 7 → s.brg.sems.get? (s.cmdPlace f / 4096) = some holder →
      holder ≠ lockWho f → leAt (cmdData f) 0 7 < 4096 → s.brg.waits.get? (lockWho f) ≠ some (s.cmdPlace f / 4096, true) →
        exec (.lockAcq f b) s = .next (s.settle (State.sendNak
          { s with brg := { s.brg with waits := s.brg.waits.insert (lockWho f) (s.cmdPlace f / 4096, false) } } f 0x1204))) ∧
  (∀ (f : Frame) (holder held : Nat) (s : State),
      s.Live → f.typ = 5 → cmdOp f = 4 → cmdFits f = true → f.tc ≠ 7 → s.brg.sems.get? (s.cmdPlace f / 4096) = some holder →
      holder ≠ lockWho f → held = leAt (cmdData f) 0 7 / 4096 → held ≠ 0 →
      s.brg.waits.get? (lockWho f) ≠ some (s.cmdPlace f / 4096, true) →
        ∃ t, exec (.lockAcq f true) s = .next t ∧ t.rd F.BRG_IRQ_XLOCK = 1 ∧
          t.rd F.BRG_CNT1_XLOCK = satAdd 16 (s.rd F.BRG_CNT1_XLOCK) 1 % 65536 ∧
          (s.cmdPlace f / 4096 < held → t.brg.sems = s.brg.sems) ∧ (held ≤ s.cmdPlace f / 4096 → t.brg.sems.get? (s.cmdPlace f / 4096) = some (lockWho f))) ∧
  (∀ (f : Frame) (s : State),
      s.Live → f.typ = 5 → cmdOp f = 5 → cmdFits f = true → f.tc ≠ 7 → s.brg.sems.get? (s.cmdPlace f / 4096) = some (lockWho f) →
        exec (.lockRel f) s = .next (s.settle (State.sendRsp
          { s with brg := { s.brg with sems := s.brg.sems.erase (s.cmdPlace f / 4096) } } f []))) ∧
  (∀ (f : Frame) (s : State),
      s.Live → f.typ = 5 → cmdOp f = 5 → cmdFits f = true → f.tc ≠ 7 → s.brg.sems.get? (s.cmdPlace f / 4096) ≠ some (lockWho f) →
        exec (.lockRel f) s = .next (s.settle (s.sendNak f 0x120D))) ∧
  (∀ (f : Frame) (n off : Nat) (s : State),
      s.Live → f.typ = 5 → cmdOp f = 6 → cmdFits f = true → f.tc ≠ 7 → n = atomicSize (cmdB1 f / 2) → off = cmdFa f % 2 ^ 40 →
      cmdFa f / 2 ^ 40 % 16 = 4 → off % n = 0 → off + n ≤ 0x400000 → s.brg.sems.get? (s.cmdPlace f / 4096) = none →
      s.bom.injected = [] → s.bom.poisoned = [] → s.rd F.BOM_INJ_ARMED = 0 →
        exec (.atomic f) s = .next (s.settle (State.sendRsp
          (s.store 4 off (leBytes n (atomicNew (cmdB1 f / 2) (s.le 4 off n) (cmdData f)))).ack f (s.bytes 4 off n)))) ∧
  (∀ (f : Frame) (s : State),
      s.Live → f.typ = 5 → cmdOp f = 6 → cmdFits f = true → f.tc ≠ 7 →
      cmdFa f / 2 ^ 40 % 16 ≠ 4 ∨ cmdFa f % atomicSize (cmdB1 f / 2) ≠ 0 →
        exec (.atomic f) s = .next (s.settle (s.sendNak f 0x1207))) ∧
  (∀ (f : Frame) (s : State),
      s.Live → f.typ = 5 → cmdOp f = 1 → cmdFits f = false →
        exec (.read f) s = .next (s.settle ((s.violation 8 0x1007).sendNak f 0x1007))) ∧
  (∀ (f : Frame) (s : State),
      s.Live → f.typ = 5 → cmdOp f = 1 → cmdFits f = true → f.tc = 7 →
        exec (.read f) s = .next (s.settle (s.sendNak f 0x1008)))

/-- An RSP ends the request of its tag and a tag in quarantine counts it as late. A NAK is recorded and ends the request or the posted
write it answers. A time-out ends a request with 0x1202 and quarantines its tag. A tunnel or guard reaches its queue. The head takes EVENT
records. -/
def Obligations.AnswersAndTunnels : Prop :=
  (∀ (f : Frame) (b : Fin 3) (r : SrdRun) (s : State),
      s.Live → f.typ = 6 → 16 ≤ f.payload.length → s.brg.quarantined.contains (cmdTag f) = false →
      s.brg.tags.get? (cmdTag f) = some (.srd b) → s.brg.srd.get? b = some r → r.op = 1 → leAt f.payload 6 2 = 0 →
        ∃ t, exec (.rsp f) s = .next t ∧ t.rd64 (F.BRG_SRD_RDATA_LO_RDATA b) (F.BRG_SRD_RDATA_HI_RDATA b) = leAt (cmdData f) 0 8 % 2 ^ 64 ∧
          t.rd (F.BRG_SRD_RES_VALID b) = 1 ∧ t.rd (F.BRG_SRD_RES_CODE b) = 0 ∧ t.brg.tags = s.brg.tags.erase (cmdTag f) ∧ t.brg.srd = s.brg.srd.erase b ∧
          s.SameRegs t [F.BRG_SRD_RDATA_LO_RDATA b, F.BRG_SRD_RDATA_HI_RDATA b, F.BRG_SRD_RES_VALID b, F.BRG_SRD_RES_CODE b, F.BRG_SRD_RES_STALE b] ∧
          t = { s.noted t with brg := t.brg }) ∧
  (∀ (f : Frame) (s : State),
      s.Live → f.typ = 6 → 16 ≤ f.payload.length → s.brg.quarantined.contains (cmdTag f) = true →
        exec (.rsp f) s = .next (s.settle (s.bump F.BRG_CNT2_LATE_RSP))) ∧
  (∀ (f : Frame) (b : Fin 3) (r : SrdRun) (s : State),
      s.Live → f.typ = 7 → 16 ≤ f.payload.length → leAt f.payload 0 2 ≠ 0x1013 → f.payload.getD 2 0 = 5 → s.nakedPost f = none →
      s.brg.tags.get? (f.payload.getD 3 0) = some (.srd b) → s.brg.srd.get? b = some r → r.op ≠ 6 →
        ∃ t, exec (.nak f) s = .next t ∧ t.rd F.CRL_NAK_SRC = f.src % 4096 ∧ t.rd F.CRL_NAK_TYPE = 5 ∧ t.rd F.CRL_NAK_CODE = leAt f.payload 0 2 ∧
          t.rd F.CRL_IRQ_NAKRX = 1 ∧ t.rd (F.BRG_SRD_RES_CODE b) = leAt f.payload 0 2 ∧ t.rd (F.BRG_SRD_RES_VALID b) = 1 ∧
          t.brg.tags = s.brg.tags.erase (f.payload.getD 3 0) ∧ t = { s.noted t with brg := t.brg } ∧ s.SameRegs t [F.CRL_NAK_SRC, F.CRL_NAK_TYPE,
            F.CRL_NAK_CODE, F.CRL_IRQ_NAKRX, F.BRG_SRD_RES_CODE b, F.BRG_SRD_RES_VALID b, F.BRG_SRD_RES_STALE b]) ∧
  (∀ (f : Frame) (p : Posted) (s : State),
      s.Live → f.typ = 7 → 16 ≤ f.payload.length → leAt f.payload 0 2 ≠ 0x1013 → f.payload.getD 2 0 = 5 → s.nakedPost f = some p →
      p.who < 4 → s.rd F.BRG_PWERR_CAPT = 0 →
        ∃ t, exec (.nak f) s = .next t ∧ t.rd F.BRG_PWERR_CAPT = 1 ∧ t.rd F.BRG_PWERR_CODE = leAt f.payload 0 2 ∧ t.rd F.BRG_PWERR_ADDR_LO_ADDR = p.fa % 2 ^ 32 ∧
          t.rd F.BRG_PWERR_ADDR_HI_ADDR = p.fa / 2 ^ 32 % 2 ^ 24 ∧ t.rd F.BRG_IRQ_PWERR = 1 ∧ t.brg = { s.brg with posted := s.brg.posted.filter (· != p) } ∧
          t = { s.noted t with brg := t.brg, bom := t.bom } ∧ s.SameBlocks t [16, 18, 26]) ∧
  (∀ (f : Frame) (s : State),
      s.Live → f.typ = 7 → 16 ≤ f.payload.length → leAt f.payload 0 2 = 0x1013 → f.src / 4 = 1 → f.payload.getD 2 0 % 16 ≠ 5 →
        ∃ t, exec (.nak f) s = .next t ∧ t.quarantined = true ∧ t.rd F.CRL_NAK_CODE = 0x1013) ∧
  (∀ (tag : Fin 256) (slot : Nat) (s : State),
      s.Live → s.brg.tags.get? tag = some (.prefetch slot) → s.slotReaders slot = [] →
        ∃ t, exec (.prefetchNak tag) s = .next t ∧ t.brg = { s.brg with tags := s.brg.tags.erase tag, slots := s.brg.slots.erase slot } ∧
          t.rd F.BRG_IRQ_PFNAK = 1 ∧ t.rd F.BRG_CNT0_PFNAK = satAdd 16 (s.rd F.BRG_CNT0_PFNAK) 1 % 65536 ∧
          t = { s.noted t with brg := t.brg } ∧ s.SameRegs t [F.BRG_IRQ_PFNAK, F.BRG_CNT0_PFNAK]) ∧
  (∀ (tag : Fin 256) (b : Fin 3) (r : SrdRun) (s : State),
      s.Live → s.brg.tags.get? tag = some (.srd b) → s.brg.srd.get? b = some r → r.op = 1 →
        ∃ t, exec (.splitReadTimeout tag) s = .next t ∧ t.rd (F.BRG_SRD_RES_CODE b) = 0x1202 ∧ t.rd (F.BRG_SRD_RES_VALID b) = 1 ∧ t.rd F.BRG_IRQ_SRTMO = 1 ∧
          t.rd F.BRG_CNT2_SRTMO = satAdd 16 (s.rd F.BRG_CNT2_SRTMO) 1 % 65536 ∧ t.brg.tags = s.brg.tags.erase tag ∧ t.brg.quarantined = s.brg.quarantined ++ [tag.val] ∧
          t.brg.srd = s.brg.srd.erase b ∧ t = { s.noted t with brg := t.brg } ∧
          s.SameRegs t [F.BRG_IRQ_SRTMO, F.BRG_CNT2_SRTMO, F.BRG_SRD_RES_CODE b, F.BRG_SRD_RES_VALID b, F.BRG_SRD_RES_STALE b]) ∧
  (∀ (tag : Fin 256) (s : State),
      s.Live →
        exec (.tagQuarantineExpiry tag) s = .next (s.settle
          { s with brg := { s.brg with quarantined := s.brg.quarantined.filter (· != tag.val) } })) ∧
  (∀ (r : Request) (l : List Request) (tag : Nat) (s : State),
      s.Live → s.brg.waiting = r :: l → s.freeTag r.use.isDma = some tag →
      (State.sendTagged { s with brg := { s.brg with waiting := l } } tag r).2 = 0 →
        exec .tagFreed s = .next (s.settle (State.sendTagged { s with brg := { s.brg with waiting := l } } tag r).1) ∧
          (State.sendTagged { s with brg := { s.brg with waiting := l } } tag r).1.brg.tags = s.brg.tags.insert tag r.use) ∧
  (∀ (f : Frame) (unit : Fin 16) (x : CanFrame) (s : State),
      s.Live → 4 ≤ f.payload.length → leAt f.payload 2 2 = 0 → f.payload.getD 0 0 = 1 → f.payload.getD 1 0 = unit.val →
      canElement f.payload = some x → bit s.canned unit = true → (s.canSt unit).remote.length < 16 →
        (f.typ = 8 → exec (.tunnel f) s = .next (s.settle (s.setCan unit { s.canSt unit with remote := (s.canSt unit).remote ++ [{ frame := x, serial := (s.canSt unit).nextEntry }], nextEntry := (s.canSt unit).nextEntry + 1 }))) ∧
          (f.typ = 9 → exec (.guard f) s = .next (s.settle (s.setCan unit { s.canSt unit with remote := (s.canSt unit).remote ++ [{ frame := x, serial := (s.canSt unit).nextEntry }], nextEntry := (s.canSt unit).nextEntry + 1 })))) ∧
  (∀ (f : Frame) (unit : Fin 48) (item : Nat) (s : State),
      s.Live → f.typ = 8 → f.payload = [2, unit.val, 0, 0] ++ leBytes 8 item → item < 2 ^ 64 → bit s.ported unit = true →
      bit item 63 = false → bit item 61 = false → bit item 60 = false → itemCount item ≠ 0 → (s.slice unit).tx.length < flumeItems →
        exec (.tunnel f) s = .next (s.settle ((s.setSlice unit { s.slice unit with tx := (s.slice unit).tx ++ [item] }).mark (.txAppended unit.val item)))) ∧
  (∀ (f : Frame) (s : State),
      s.Live → f.typ = 8 ∧ bit s.canned (f.payload.getD 1 0) = false ∨ f.typ = 9 ∧ bit s.canned (f.payload.getD 1 0) = false →
      4 ≤ f.payload.length → leAt f.payload 2 2 = 0 → f.payload.getD 0 0 = 1 → (canElement f.payload).isSome = true →
        (f.typ = 8 → exec (.tunnel f) s = .next (s.settle ((s.violation 8 0x1009).sendNak f 0x1009))) ∧
          (f.typ = 9 → exec (.guard f) s = .next (s.settle ((s.violation 8 0x1009).sendNak f 0x1009)))) ∧
  (∀ (f : Frame) (s : State),
      s.Live → f.typ = 0xA → s.rd F.CRL_CTL_HEAD ≠ 0 → leAt f.payload 0 2 ≤ 63 → f.payload.length = 16 + 32 * leAt f.payload 0 2 →
        exec (.event f) s = .next (s.settle (s.give f.payload)))

/-- A host read of a window completes with the bytes of this hub, or leaves as a CMD READ with a tag; a write is performed here, only its
enabled bytes, or leaves posted; an AtomicOp returns the old value. Outside every window and for other TLPs the completion is Unsupported
Request. BAR0 reaches the registers. -/
def Obligations.HostRequests : Prop :=
  (∀ (enabled : Bool) (tag : BitVec 10) (off : BitVec 32) (len : Nat) (n fa : Nat) (s : State),
      s.Live → s.rd F.BRG_STATUS_EP ≠ 0 → s.window? off.toNat = some (n, fa) → fa / 2 ^ 46 ≠ 1023 → fa / 2 ^ 44 = s.self →
      fa / 2 ^ 40 % 16 = 4 → fa % 2 ^ 40 + len ≤ 0x400000 → s.brg.slots = [] → s.rd (F.BRG_Wn_CFG_POLL n) = 0 →
      s.rd (F.BRG_Wn_CFG_P n) = 0 → s.bom.injected = [] → s.bom.poisoned = [] →
        exec (.hostMrd tag off ⟨len, enabled⟩) s = .next (s.settle ((s.give (s.bytes 4 (fa % 2 ^ 40) len)).emit
          (.completion tag.toNat cplOk (s.bytes 4 (fa % 2 ^ 40) len))))) ∧
  (∀ (enabled : Bool) (tag : BitVec 10) (off : BitVec 32) (len : Nat) (n fa q : Nat) (s : State),
      s.Live → s.rd F.BRG_STATUS_EP ≠ 0 → s.window? off.toNat = some (n, fa) → fa / 2 ^ 46 ≠ 1023 →
      fa / 2 ^ 46 ≠ s.rd F.GLB_POS_STATION → fa / 2 ^ 44 ≠ s.self → 1 ≤ len ∧ len ≤ 2032 → s.brg.slots = [] →
      s.rd (F.BRG_Wn_CFG_POLL n) = 0 → s.rd (F.BRG_Wn_CFG_P n) = 0 → s.ringHub = false → s.uplink = some q → s.quarantined = false →
      s.brg.waiting = [] → s.brg.tags = [] → s.brg.quarantined = [] →
        ∃ t, exec (.hostMrd tag off ⟨len, enabled⟩) s = .next t ∧ t.brg.tags = [(0, .host s.brg.nextReq 0)] ∧ t.brg.nextReq = s.brg.nextReq + 1 ∧
          t.brg.hostReads.get? s.brg.nextReq = some { ptag := tag.toNat, fa := fa, len := len, parts := [none] } ∧
          t.swc.arrivals = s.swc.arrivals ++ [{ inPort := 8, outs := [q], ingress := s.now, frame := { typ := 5, tc := 4, dest := fa / 2 ^ 44, src := s.self, flowSeq := s.ring.flowTx.getD 4 0, epoch := s.rd F.CRL_EPOCH_CUR, payload := cmdPayload 1 0 0 len fa [] } }] ∧
          t.regs = s.regs ∧ t.mem = s.mem) ∧
  (∀ (enabled : Bool) (tag : BitVec 10) (off : BitVec 32) (len : Nat) (kind : Fin 6) (data : BitVec 128) (s : State),
      s.Live → s.rd F.BRG_STATUS_EP ≠ 0 → s.window? off.toNat = none →
        ∃ t, exec (.hostMrd tag off ⟨len, enabled⟩) s = .next t ∧ exec (.hostAtomicop tag kind off data) s = .next t ∧
          t = { s with egress := t.egress, cycle := t.cycle, together := t.together, answer := .error 0x1208 } ∧ (s.egress ++ [.completion tag.toNat cplUr []]) <+: t.egress) ∧
  (∀ (off : BitVec 32) (data : List Byte) (n fa : Nat) (s : State),
      s.Live → s.rd F.BRG_STATUS_EP ≠ 0 → s.window? off.toNat = some (n, fa) → fa / 2 ^ 46 ≠ 1023 → fa / 2 ^ 44 = s.self →
      fa / 2 ^ 40 % 16 = 4 → fa % 2 ^ 40 + data.length ≤ 0x400000 → s.bom.injected = [] → s.bom.poisoned = [] →
      s.rd F.BOM_INJ_ARMED = 0 →
        exec (.hostMwr off (data.map some)) s = .next (s.settle ((State.store
          { s with brg := { s.brg with slots := s.brg.slots.filter (fun p => p.2.fa / 4096 != fa / 4096) } } 4 (fa % 2 ^ 40) (data.map BitVec.toNat)).ack))) ∧
  (∀ (off : BitVec 32) (x y : Byte) (n fa : Nat) (s : State),
      s.Live → s.rd F.BRG_STATUS_EP ≠ 0 → s.window? off.toNat = some (n, fa) → fa / 2 ^ 46 ≠ 1023 → fa / 2 ^ 44 = s.self →
      fa / 2 ^ 40 % 16 = 4 → fa % 2 ^ 40 + 3 ≤ 0x400000 → s.bom.injected = [] → s.bom.poisoned = [] → s.rd F.BOM_INJ_ARMED = 0 →
        exec (.hostMwr off [some x, none, some y]) s = .next (s.settle (((State.store
          { s with brg := { s.brg with slots := s.brg.slots.filter (fun p => p.2.fa / 4096 != fa / 4096) } } 4 (fa % 2 ^ 40) [x.toNat]).store 4 (fa % 2 ^ 40 + 2) [y.toNat]).ack))) ∧
  (∀ (off : BitVec 32) (data : List Byte) (n fa q : Nat) (s : State),
      s.Live → s.rd F.BRG_STATUS_EP ≠ 0 → s.window? off.toNat = some (n, fa) → fa / 2 ^ 46 ≠ 1023 →
      fa / 2 ^ 46 ≠ s.rd F.GLB_POS_STATION → fa / 2 ^ 44 ≠ s.self → s.ringHub = false → s.uplink = some q → s.quarantined = false →
        ∃ t, exec (.hostMwr off (data.map some)) s = .next t ∧
          t.swc.arrivals = s.swc.arrivals ++ [{ inPort := 8, outs := [q], ingress := s.now, frame := { typ := 5, tc := 4, dest := fa / 2 ^ 44, src := s.self, flowSeq := s.ring.flowTx.getD 4 0, epoch := s.rd F.CRL_EPOCH_CUR, payload := cmdPayload 3 0 0 data.length fa (data.map BitVec.toNat) } }] ∧
          t.regs = s.regs ∧ t.mem = s.mem ∧ t.brg.tags = s.brg.tags) ∧
  (∀ (off : BitVec 32) (data : List Byte) (s : State),
      s.Live → s.rd F.BRG_STATUS_EP ≠ 0 → s.window? off.toNat = none → s.rd F.BRG_PWERR_CAPT = 0 →
        ∃ t, exec (.hostMwr off (data.map some)) s = .next t ∧ t.answer = .error 0x1208 ∧ t.rd F.BRG_PWERR_CAPT = 1 ∧ t.rd F.BRG_PWERR_INIT = 1 ∧
          t.rd F.BRG_PWERR_CODE = 0x1208 ∧ t.rd F.BRG_IRQ_PWERR = 1 ∧ t = { s.noted t with answer := t.answer, bom := t.bom } ∧
          s.SameBlocks t [18, 26]) ∧
  (∀ (tag : BitVec 10) (kind : Fin 6) (off : BitVec 32) (data : BitVec 128) (n fa m : Nat) (s : State),
      s.Live → s.rd F.BRG_STATUS_EP ≠ 0 → s.window? off.toNat = some (n, fa) → fa / 2 ^ 46 ≠ 1023 → fa / 2 ^ 44 = s.self →
      fa / 2 ^ 40 % 16 = 4 → m = atomicSize kind → fa % m = 0 → fa % 2 ^ 40 + m ≤ 0x400000 → s.brg.sems.get? (fa / 4096) = none →
      s.brg.hostAtomics = [] → (∀ r ∈ s.brg.backoff, r < 3) → s.bom.injected = [] → s.bom.poisoned = [] → s.rd F.BOM_INJ_ARMED = 0 →
        ∃ t, exec (.hostAtomicop tag kind off data) s = .next t ∧ t.mem = (s.store 4 (fa % 2 ^ 40) (leBytes m (atomicNew kind (s.le 4 (fa % 2 ^ 40) m)
          (leBytes (atomicBytes kind) data.toNat)))).mem ∧ (s.egress ++ [.completion tag.toNat cplOk (s.bytes 4 (fa % 2 ^ 40) m)]) <+: t.egress ∧
          t.regs = s.regs ∧ t.brg = { s.brg with nextReq := s.brg.nextReq + 1, slots := s.brg.slots.filter (fun p => p.2.fa / 4096 != fa / 4096) } ∧
          t = { s with mem := t.mem, egress := t.egress, cycle := t.cycle, together := t.together, answer := .done, brg := t.brg }) ∧
  (∀ (dw : BitVec 24) (tag : BitVec 10) (w : Nat) (s : State),
      s.Live → s.rd F.BRG_STATUS_EP ≠ 0 → (s.localRead .bar0 0 (4 * dw.toNat) 4).answer = .data [w] →
        exec (.bar0Access dw 1 0xF tag none) s = .next (s.settle ((s.localRead .bar0 0 (4 * dw.toNat) 4).emit (.completion tag.toNat cplOk (leBytes 4 w))))) ∧
  (∀ (dw : BitVec 24) (tag : BitVec 10) (word : Word) (s : State),
      s.Live → s.rd F.BRG_STATUS_EP ≠ 0 →
        exec (.bar0Access dw 1 0xF tag (some word)) s =
          exec (.registerWrite .bar0 (BitVec.ofNat 40 (4 * dw.toNat)) ((leBytes 4 word.toNat).map (BitVec.ofNat 8))) s ∧
          ∃ t, exec (.bar0Access dw 1 0xF tag (some word)) s = .next t) ∧
  (∀ (dw : BitVec 24) (dws tag : BitVec 10) (be : BitVec 4) (s : State),
      s.Live → s.rd F.BRG_STATUS_EP ≠ 0 → dws ≠ 1 ∨ be ≠ 0xF →
        exec (.bar0Access dw dws be tag none) s = .next (s.settle ((s.refuseReg .bar0 (4 * dw.toNat) 0x0003).emit (.completion tag.toNat cplUr [])))) ∧
  (∀ (tag : BitVec 10) (s : State),
      s.Live → s.rd F.BRG_STATUS_EP ≠ 0 →
        ∃ t, exec (.unsupportedTlp (some tag)) s = .next t ∧ t.answer = .error 0x1209 ∧ (s.egress ++ [.completion tag.toNat cplUr []]) <+: t.egress ∧
          t = { s with egress := t.egress, cycle := t.cycle, together := t.together, answer := .error 0x1209 }) ∧
  (∀ (slot : Fin 16) (x : PrefetchSlot) (sid : Nat) (l : SMap PrefetchSlot) (s : State),
      s.Live → s.brg.slots.drop slot = (sid, x) :: l → x.data.isSome = true →
        exec (.prefetchSlotExpiry slot) s = .next (s.settle { s with brg := { s.brg with slots := s.brg.slots.erase sid } }))

/-- BRG_SRD_CTL starts one command in the writer's bank: reads, writes, locks and atomics on this hub end at once with their result; a
read of another hub leaves with a tag. While one runs another is captured with 0x120B. A back-off retries, LOCK_TMO frees a semaphore. -/
def Obligations.SrdCommands : Prop :=
  (∀ (init : Initiator) (bytes : Fin 16) (b fa : Nat) (s : State),
      s.Live → b = bankOf init → s.brg.srd.get? b = none → 1 ≤ bytes.val ∧ bytes.val ≤ 8 →
      fa = s.rd64 (F.BRG_SRD_ADDR_LO_ADDR b) (F.BRG_SRD_ADDR_HI_ADDR b) % 2 ^ 56 → fa / 2 ^ 46 ≠ 1023 → fa / 2 ^ 44 = s.self →
      fa / 2 ^ 40 % 16 = 4 → fa % 2 ^ 40 + bytes.val ≤ 0x400000 → s.bom.injected = [] → s.bom.poisoned = [] →
        ∃ t, exec (.srdRead init bytes) s = .next t ∧ t.rd64 (F.BRG_SRD_RDATA_LO_RDATA b) (F.BRG_SRD_RDATA_HI_RDATA b) = s.le 4 (fa % 2 ^ 40) bytes ∧
          t.rd (F.BRG_SRD_RES_VALID b) = 1 ∧ t.rd (F.BRG_SRD_RES_CODE b) = 0 ∧ t.rd (F.BRG_SRD_RES_SEQ b) = (s.rd (F.BRG_SRD_RES_SEQ b) + 1) % 256 ∧
          t.answer = .done ∧ t.mem = s.mem ∧ t.brg.tags = s.brg.tags ∧ t.brg.srd.get? b = none ∧ s.SameRegs t [F.BRG_SRD_CTL_OP b, F.BRG_SRD_CTL_ATOM b,
            F.BRG_SRD_CTL_BYTES b, F.BRG_SRD_RDATA_LO_RDATA b, F.BRG_SRD_RDATA_HI_RDATA b, F.BRG_SRD_RES_VALID b, F.BRG_SRD_RES_STALE b, F.BRG_SRD_RES_SEQ b, F.BRG_SRD_RES_CODE b]) ∧
  (∀ (init : Initiator) (bytes : Fin 16) (b fa q : Nat) (s : State),
      s.Live → b = bankOf init → s.brg.srd.get? b = none → 1 ≤ bytes.val ∧ bytes.val ≤ 8 →
      fa = s.rd64 (F.BRG_SRD_ADDR_LO_ADDR b) (F.BRG_SRD_ADDR_HI_ADDR b) % 2 ^ 56 → fa / 2 ^ 46 ≠ 1023 →
      fa / 2 ^ 46 ≠ s.rd F.GLB_POS_STATION → fa / 2 ^ 44 ≠ s.self → s.ringHub = false → s.uplink = some q → s.quarantined = false →
      s.brg.waiting = [] → s.brg.tags = [] → s.brg.quarantined = [] →
        ∃ t, exec (.srdRead init bytes) s = .next t ∧ t.brg.tags = [(0, .srd b)] ∧ t.brg.srd.get? b = some { op := 1, b1 := 0, bytes := bytes.val, fa := fa, data := [] } ∧
          t.rd (F.BRG_SRD_RES_VALID b) = 0 ∧ t.rd (F.BRG_SRD_RES_SEQ b) = (s.rd (F.BRG_SRD_RES_SEQ b) + 1) % 256 ∧
          t.swc.arrivals = s.swc.arrivals ++ [{ inPort := 8, outs := [q], ingress := s.now, frame := { typ := 5, tc := 4, dest := fa / 2 ^ 44, src := s.self, flowSeq := s.ring.flowTx.getD 4 0, epoch := s.rd F.CRL_EPOCH_CUR, payload := cmdPayload 1 0 0 bytes.val fa [] } }]) ∧
  (∀ (init : Initiator) (bytes : Fin 16) (b fa : Nat) (s : State),
      s.Live → b = bankOf init → s.brg.srd.get? b = none → 1 ≤ bytes.val ∧ bytes.val ≤ 8 →
      fa = s.rd64 (F.BRG_SRD_ADDR_LO_ADDR b) (F.BRG_SRD_ADDR_HI_ADDR b) % 2 ^ 56 → fa / 2 ^ 46 ≠ 1023 → fa / 2 ^ 44 = s.self →
      fa / 2 ^ 40 % 16 = 4 → fa % 2 ^ 40 + bytes.val ≤ 0x400000 → s.bom.injected = [] → s.bom.poisoned = [] →
      s.rd F.BOM_INJ_ARMED = 0 →
        ∃ t, exec (.srdWrite init bytes) s = .next t ∧ t.rd (F.BRG_SRD_RES_VALID b) = 1 ∧ t.rd (F.BRG_SRD_RES_CODE b) = 0 ∧ t.answer = .done ∧
          t.mem = (s.store 4 (fa % 2 ^ 40) (leBytes bytes (s.rd64 (F.BRG_SRD_WDATA_LO_WDATA b) (F.BRG_SRD_WDATA_HI_WDATA b)))).mem ∧
          t.brg.srd.get? b = none ∧ t = { s.noted t with mem := t.mem, answer := .done, brg := t.brg } ∧ s.SameBlocks t [18]) ∧
  (∀ (init : Initiator) (bytes : Fin 16) (b fa : Nat) (s : State),
      s.Live → b = bankOf init → s.brg.srd.get? b = none → 1 ≤ bytes.val ∧ bytes.val ≤ 8 →
      fa = s.rd64 (F.BRG_SRD_ADDR_LO_ADDR b) (F.BRG_SRD_ADDR_HI_ADDR b) % 2 ^ 56 → fa / 2 ^ 46 ≠ 1023 → fa / 2 ^ 44 = s.self →
      fa / 2 ^ 40 % 16 = 4 → fa % 2 ^ 40 + bytes.val ≤ 0x400000 → s.bom.injected = [] → s.bom.poisoned = [] →
      s.rd F.BOM_INJ_ARMED = 0 →
        ∃ t, exec (.srdPostedWrite init bytes) s = .next t ∧ t.rd (F.BRG_SRD_RES_VALID b) = 1 ∧ t.rd (F.BRG_SRD_RES_CODE b) = 0 ∧ t.answer = .done ∧
          t.mem = (s.store 4 (fa % 2 ^ 40) (leBytes bytes (s.rd64 (F.BRG_SRD_WDATA_LO_WDATA b) (F.BRG_SRD_WDATA_HI_WDATA b)))).mem ∧
          t.brg.srd.get? b = none ∧ t = { s.noted t with mem := t.mem, answer := .done, brg := t.brg } ∧ s.SameBlocks t [18]) ∧
  (∀ (init : Initiator) (holderWaits : Bool) (b page : Nat) (s : State),
      s.Live → b = bankOf init → b < 2 → s.brg.srd.get? b = none →
      page = s.rd64 (F.BRG_SRD_ADDR_LO_ADDR b) (F.BRG_SRD_ADDR_HI_ADDR b) % 2 ^ 56 / 4096 → page / 2 ^ 34 ≠ 1023 →
      page / 2 ^ 32 = s.self → s.brg.sems.get? page = none → s.brg.sems.length < 32 → (s.semsOf (2 * s.self + b)).length < 4 →
      s.brg.waits.get? (2 * s.self + b) ≠ some (page, true) → s.brg.lost.contains b = false →
        ∃ t, exec (.srdLockAcq init holderWaits) s = .next t ∧ t.brg.sems = s.brg.sems.insert page (2 * s.self + b) ∧
          t.locksOf b = (s.locksOf b).filter (· != page) ++ [page] ∧ t.rd (F.BRG_SRD_RES_CODE b) = 0 ∧ t.rd (F.BRG_SRD_RES_VALID b) = 1 ∧ t.mem = s.mem) ∧
  (∀ (init : Initiator) (holderWaits : Bool) (b page holder : Nat) (s : State),
      s.Live → b = bankOf init → b < 2 → s.brg.srd.get? b = none →
      page = s.rd64 (F.BRG_SRD_ADDR_LO_ADDR b) (F.BRG_SRD_ADDR_HI_ADDR b) % 2 ^ 56 / 4096 → page / 2 ^ 34 ≠ 1023 →
      page / 2 ^ 32 = s.self → s.brg.sems.get? page = some holder → holder ≠ 2 * s.self + b → s.locksOf b = [] →
      s.brg.waits.get? (2 * s.self + b) ≠ some (page, true) → s.brg.lost.contains b = false → 1 < s.rd F.BRG_LOCKCFG_LOCK_TRIES →
        ∃ t, exec (.srdLockAcq init holderWaits) s = .next t ∧ t.brg.sems = s.brg.sems ∧ t.brg.backoff = s.brg.backoff ++ [b] ∧
          (t.brg.srd.get? b).map (·.tries) = some 1 ∧ t.rd (F.BRG_SRD_RES_VALID b) = 0 ∧ t.rd F.BRG_CNT1_LOCKBUSY = satAdd 16 (s.rd F.BRG_CNT1_LOCKBUSY) 1 % 65536) ∧
  (∀ (init : Initiator) (b page : Nat) (s : State),
      s.Live → b = bankOf init → b < 2 → s.brg.srd.get? b = none →
      page = s.rd64 (F.BRG_SRD_ADDR_LO_ADDR b) (F.BRG_SRD_ADDR_HI_ADDR b) % 2 ^ 56 / 4096 → page / 2 ^ 34 ≠ 1023 →
      page / 2 ^ 32 = s.self → s.brg.sems.get? page = some (2 * s.self + b) →
        ∃ t, exec (.srdLockRel init) s = .next t ∧ t.brg.sems = s.brg.sems.erase page ∧ t.locksOf b = (s.locksOf b).filter (· != page) ∧
          t.rd (F.BRG_SRD_RES_CODE b) = 0 ∧ t.rd (F.BRG_SRD_RES_VALID b) = 1 ∧ t.mem = s.mem) ∧
  (∀ (init : Initiator) (kind : Fin 8) (b fa m : Nat) (s : State),
      s.Live → b = bankOf init → s.brg.srd.get? b = none → kind.val < 5 → m = atomicSize kind →
      fa = s.rd64 (F.BRG_SRD_ADDR_LO_ADDR b) (F.BRG_SRD_ADDR_HI_ADDR b) % 2 ^ 56 → fa / 2 ^ 46 ≠ 1023 → fa / 2 ^ 44 = s.self →
      fa / 2 ^ 40 % 16 = 4 → fa % m = 0 → fa % 2 ^ 40 + m ≤ 0x400000 → s.brg.sems.get? (fa / 4096) = none → s.bom.injected = [] →
      s.bom.poisoned = [] → s.rd F.BOM_INJ_ARMED = 0 →
        ∃ t, exec (.srdAtomic init kind) s = .next t ∧ t.rd64 (F.BRG_SRD_RDATA_LO_RDATA b) (F.BRG_SRD_RDATA_HI_RDATA b) = s.le 4 (fa % 2 ^ 40) m ∧
          t.rd (F.BRG_SRD_RES_CODE b) = 0 ∧ t.rd (F.BRG_SRD_RES_VALID b) = 1 ∧ t.mem = (s.store 4 (fa % 2 ^ 40) (leBytes m (atomicNew kind (s.le 4 (fa % 2 ^ 40) m)
            (leBytes (atomicBytes kind) (s.rd64 (F.BRG_SRD_WDATA_LO_WDATA b) (F.BRG_SRD_WDATA_HI_WDATA b)))))).mem) ∧
  (∀ (init : Initiator) (kind : Fin 8) (b : Nat) (s : State),
      s.Live → b = bankOf init → s.brg.srd.get? b = none → 5 ≤ kind.val →
        ∃ t, exec (.srdAtomic init kind) s = .next t ∧ t.rd (F.BRG_SRD_RES_CODE b) = 0x1209 ∧ t.rd (F.BRG_SRD_RES_VALID b) = 1 ∧ t.mem = s.mem ∧ t.brg = s.brg) ∧
  (∀ (init : Initiator) (bytes : Fin 16) (r : SrdRun) (s : State),
      s.Live → s.brg.srd.get? (bankOf init) = some r → s.rd F.GLB_ACC_ERR_CAPT = 0 →
        ∃ t, exec (.srdRead init bytes) s = .next t ∧ t.rd F.GLB_ACC_ERR_CODE = 0x120B ∧ t.rd F.GLB_ACC_ERR_CAPT = 1 ∧ t.brg = s.brg ∧
          t.rd (F.BRG_SRD_RES_SEQ (bankOf init)) = s.rd (F.BRG_SRD_RES_SEQ (bankOf init))) ∧
  (∀ (who : Nat) (holderWaits : Bool) (s : State),
      s.Live → s.brg.backoff.contains who = false →
        exec (.lockBackoffExpiry who holderWaits) s = .next (s.settle { s with brg := { s.brg with lost := s.brg.lost.filter (· != who) } })) ∧
  (∀ (who page : Nat) (holderWaits : Bool) (r : SrdRun) (s : State),
      s.Live → who < 2 → s.brg.backoff.contains who = true → s.brg.srd.get? who = some r → r.op = 4 → page = r.fa / 4096 →
      r.fa / 2 ^ 46 ≠ 1023 → r.fa / 2 ^ 44 = s.self → s.brg.sems.get? page = none → s.brg.sems.length < 32 →
      (s.semsOf (2 * s.self + who)).length < 4 → s.brg.waits.get? (2 * s.self + who) ≠ some (page, true) →
      s.brg.lost.contains who = false →
        ∃ t, exec (.lockBackoffExpiry who holderWaits) s = .next t ∧ t.brg.sems = s.brg.sems.insert page (2 * s.self + who) ∧
          t.brg.backoff = s.brg.backoff.filter (· != who) ∧ t.rd (F.BRG_SRD_RES_CODE who) = 0 ∧ t.rd (F.BRG_SRD_RES_VALID who) = 1) ∧
  (∀ (page : BitVec 44) (holder : Nat) (s : State),
      s.Live → s.brg.sems.get? page.toNat = some holder → holder / 2 ≠ s.self →
        exec (.lockTmoExpiry page) s = .next (s.settle ((State.raise
          { s with brg := { s.brg with sems := s.brg.sems.erase page.toNat } } F.BRG_IRQ_LOCKTMO).boom { code := 0, kind := 2, unit := 0, data := holder, writer := 0x12 })))

/-- A frame that fits takes its cells behind the frames that wait; one of TC0 to TC3 without room is discarded and counted. A free output
starts the frame of the highest class first and keeps it for replay; a frame that has left its last output leaves the buffer. Launch
queues and hold lists hold their frames. -/
def Obligations.SwitchCore : Prop :=
  (∀ (port : Fin 16) (a : Arrival) (l : List Arrival) (g : Nat) (b : BufFrame) (s : State),
      s.Live → s.swc.arrivals = a :: l → a.inPort = port.val → a.lq = none →
      State.room { s with swc := { s.swc with arrivals := l } } a.frame.tc (cellsOf (frameLen a.frame)) = some g → s.anPort = none →
      s.together = 0 →
      b = { id := s.swc.nextId, inPort := a.inPort, outs := a.outs, cells := cellsOf (frameLen a.frame), guar := g, dual := a.dual, ingress := a.ingress, frame := a.frame } →
        exec (.switchAdmit port) s = .next (s.settle
          { s with swc := { s.swc with arrivals := l, nextId := s.swc.nextId + 1, frames := s.swc.frames ++ [
            { b with cut := a.outs.filter (fun p => !(s.outputBusy p) && s.startable p b && s.cutThrough p b) }] } })) ∧
  (∀ (port : Fin 16) (a : Arrival) (l : List Arrival) (s : State),
      s.Live → s.swc.arrivals = a :: l → a.inPort = port.val → port.val < 8 → a.lq = none → a.frame.tc = 0 →
      State.room { s with swc := { s.swc with arrivals := l } } 0 (cellsOf (frameLen a.frame)) = none →
      s.ceiling 0 < s.usedCells 0 + cellsOf (frameLen a.frame) → s.together = 0 →
        exec (.switchAdmit port) s = .next (s.settle ((State.bump
          { s with swc := { s.swc with arrivals := l } } (F.SWC_Cc_DROP_FRAMES 0)).raise F.SWC_IRQ_DROP))) ∧
  (∀ (port : Fin 16) (s : State),
      s.Live → takeArrival port s.swc.arrivals = none → s.together = 0 →
        exec (.switchAdmit port) s = .next (s.settle s)) ∧
  (∀ (port : Fin 7) (b : BufFrame) (s : State),
      s.Live → s.swc.frames = [b] → b.outs = [port.val] → b.leaving = [] → b.hold = none → b.lq = none → b.mirror = false →
      b.dual = false → b.launched = none → b.cut = [] → b.frame.typ ≠ 2 → s.nakAhead port = false → 4 ≤ b.frame.tc ∧ b.frame.tc ≤ 7 →
      8 ≤ b.inPort ∧ b.inPort < 16 → portUp s port = true → s.replayBytes port + frameLen b.frame ≤ replaySize port →
      (s.mac port).draining = false → s.swc.windows = [] → s.anPort = none →
        ∃ t, exec (.outputServe ⟨port.val, by omega⟩) s = .next t ∧ t.swc.frames = [{ b with leaving := [port.val] }] ∧
          t.mac port = { s.mac port with txNext := ((s.mac port).txNext + 1) % 65536, replay := (s.mac port).replay ++ [{ hopSeq := (s.mac port).txNext, buf := b }] } ∧
          (s.egress ++ [.wire port { b.frame with hopSeq := (s.mac port).txNext }]) <+: t.egress ∧ s.SameRegs t [F.SWC_Pp_CNT_SF port] ∧
          t = { s.noted t with ring := { s.ring with macs := t.ring.macs }, swc := t.swc }) ∧
  (∀ (port : Fin 16) (s : State),
      s.Live → s.outputBusy port = true →
        exec (.outputServe port) s = .next (s.settle s)) ∧
  (∀ (port : Fin 16) (s : State),
      s.Live → s.marked (.sent port.val) = true →
        exec (.frameTransmitted port) s = .next (s.settle s)) ∧
  (∀ (port : Fin 16) (s : State),
      s.Live → s.marked (.sent port.val) = false →
        ∃ t, exec (.frameTransmitted port) s = .next t ∧ t.outputBusy port = false ∧ t.regs = s.regs ∧ t = { s with egress := t.egress, cycle := t.cycle, together := t.together, swc := { s.swc with frames := t.swc.frames } } ∧
          (∀ b ∈ s.swc.frames, b.leaving.contains port.val = false → b.outs ≠ [] → b ∈ t.swc.frames)) ∧
  (∀ (queue : Fin 16) (frame : Frame) (g : Nat) (s : State),
      s.Live → s.rd (F.SWC_LQq_CFG_EN queue) ≠ 0 → s.lqDepth queue < 64 → frame.kslot = 0 →
      s.room 5 (cellsOf (frameLen frame)) = some g → s.anPort = none →
        ∃ t, exec (.launchQueuePlace queue frame) s = .next t ∧ t.answer = .done ∧ t.lqDepth queue = s.lqDepth queue + 1 ∧
          t.swc.frames = s.swc.frames ++ [{ id := s.swc.nextId, inPort := 13, outs := [s.rd (F.SWC_LQq_CFG_PORT queue)], cells := cellsOf (frameLen frame), guar := g, lq := some queue.val, ingress := s.now, frame := { frame with tc := 5, dup := false, src := s.self, flowSeq := s.ring.flowTx.getD 5 0, epoch := s.rd F.CRL_EPOCH_CUR, corr := 0, kepoch := 0 } }] ∧ t.regs = s.regs) ∧
  (∀ (queue : Fin 16) (frame : Frame) (s : State),
      s.Live → s.rd (F.SWC_LQq_CFG_EN queue) = 0 ∨ 64 ≤ s.lqDepth queue →
        ∃ t, exec (.launchQueuePlace queue frame) s = .next t ∧ t.answer = .error 0x1102 ∧ t.rd F.SWC_IRQ_LQFULL = 1 ∧
          t.rd F.SWC_CNT1_LQFULL = satAdd F.SWC_CNT1_LQFULL.w (s.rd F.SWC_CNT1_LQFULL) 1 % 2 ^ F.SWC_CNT1_LQFULL.w ∧ t.swc = s.swc ∧
          t = { s.noted t with answer := t.answer } ∧ s.SameRegs t [F.SWC_IRQ_LQFULL, F.SWC_CNT1_LQFULL]) ∧
  (∀ (slot : Fin 256) (b : BufFrame) (s : State),
      s.Live →
      s.swc.frames.find? (fun b => b.outs.contains 10 && b.leaving.isEmpty && b.hold.isNone && b.frame.kslot == slot.val) = some b →
      s.slotHolds slot = true →
        ∃ t, exec (.keyLimitHold slot) s = .next t ∧ t.rd F.CPH_IRQ_LIMIT = 1 ∧ t.rd F.SWC_IRQ_HOLD = 1 ∧
          t.swc = { s.swc with frames := s.swc.frames.map (fun x => if x.id = b.id then { x with hold := some b.frame.kslot } else x) } ∧
          t = { s.noted t with swc := t.swc } ∧ s.SameRegs t [F.CPH_IRQ_LIMIT, F.CPH_CNT0_LIMIT, F.SWC_IRQ_HOLD]) ∧
  (∀ (index : Fin 8192) (s : State),
      s.Live → (s.ent index).state = cCommitted ∨ (s.ent index).state = cArmed → (s.ent index).kind = 4 →
      s.windowDue (s.rd (F.SWC_LQq_CFG_PORT (s.ent index).unit)) index.val = true → s.swc.windows = [] →
        exec (.launchWindowOpen index) s = .next (s.settle
          { s with swc := { s.swc with windows := [(s.rd (F.SWC_LQq_CFG_PORT (s.ent index).unit), index.val)] } }))

/-- A doorbell makes an IDLE context with work READY. ENABLE, RESUME, ABORT, DISABLE and INVAL move a context as R344 gives and write
their result in the writer's bank; a wrong state is 0x1307. A record is written only while OFF, the hub's own bytes apart. A save ends in
READY or in ABORT. -/
def Obligations.DmaContexts : Prop :=
  (∀ (context tail : Fin 4096) (s : State),
      s.Live → context.val ≠ 0 → s.ctxState context = xIdle → s.ctx context 0x1A 2 ≠ tail.val →
        exec (.dmxDb context tail) s = .next (s.settle ((s.setCtx context 0x1C 2 tail).toCtx context xReady).ack) ∧
          ((s.setCtx context 0x1C 2 tail).toCtx context xReady).ctxState context = xReady) ∧
  (∀ (context tail : Fin 4096) (s : State),
      s.Live → context.val = 0 ∨ s.ctxState context = xOff →
        exec (.dmxDb context tail) s = .next (s.settle s.ack)) ∧
  (∀ (init : Initiator) (context : Fin 4096) (s : State),
      s.Live → context.val ≠ 0 → s.ctxState context = xOff → s.ctxValid context = true →
        ∃ t, exec (.enable init context) s = .next t ∧ t.ctxState context = xIdle ∧ t.rd (F.DMX_CMD_RES_VALID (bankOf init)) = 1 ∧
          t.rd (F.DMX_CMD_RES_CODE (bankOf init)) = 0 ∧ t.rd (F.DMX_CMD_RES_SEQ (bankOf init)) = (s.rd (F.DMX_CMD_RES_SEQ (bankOf init)) + 1) % 256 ∧
          t.answer = .done ∧ t.mem = (s.toCtx context xIdle).mem ∧ t = { s.noted t with mem := t.mem, answer := .done } ∧
          s.SameBlocks t [19]) ∧
  (∀ (init : Initiator) (context : Fin 4096) (s : State),
      s.Live → s.ctxState context ≠ xOff → s.ctxState context ≠ xFaulted →
        ∃ t, exec (.enable init context) s = .next t ∧ t.mem = s.mem ∧ t.rd (F.DMX_CMD_RES_CODE (bankOf init)) = 0x1307 ∧
          (∃ u, exec (.resume init context) s = .next u ∧ u.mem = s.mem ∧ u.rd (F.DMX_CMD_RES_CODE (bankOf init)) = 0x1307) ∧ s.SameBlocks t [19]) ∧
  (∀ (init : Initiator) (context : Fin 4096) (s : State),
      s.Live → s.ctxState context = xFaulted →
        ∃ t, exec (.resume init context) s = .next t ∧ t.ctxState context = xReady ∧ t.mem = (s.toCtx context xReady).mem ∧
          t.rd (F.DMX_CMD_RES_CODE (bankOf init)) = 0 ∧ t.rd (F.DMX_CMD_RES_VALID (bankOf init)) = 1 ∧ t.dmx = { s.dmx with held := s.dmx.held.erase context } ∧
          t = { s.noted t with mem := t.mem, answer := .done, dmx := t.dmx } ∧ s.SameBlocks t [19]) ∧
  (∀ (init : Initiator) (context : Fin 4096) (s : State),
      s.Live →
      s.ctxState context = xIdle ∨ s.ctxState context = xReady ∨ s.ctxState context = xFaulted ∨ s.ctxState context = xError →
      s.ctx context 0x1A 2 = s.ctx context 0x1C 2 →
        ∃ t, exec (.abort init context) s = .next t ∧ t.ctxState context = xIdle ∧ t.rd (F.DMX_CMD_RES_CODE (bankOf init)) = 0 ∧
          t.rd (F.DMX_CMD_RES_VALID (bankOf init)) = 1 ∧ t.ctx context 0x1A 2 = s.ctx context 0x1C 2 ∧ t.ctxLen context = 0 ∧ t.ctxDone context = 0 ∧ s.SameBlocks t [19]) ∧
  (∀ (init : Initiator) (context : Fin 4096) (s : State),
      s.Live → s.ctxState context = xRunning →
        ∃ t, exec (.abort init context) s = .next t ∧ t.ctxState context = xSaving ∧ t.rd (F.DMX_CMD_RES_VALID (bankOf init)) = 0 ∧
          t.mem = (s.toCtx context xSaving).mem ∧ t.dmx = { s.dmx with aborts := s.dmx.aborts.insert context (bankOf init) } ∧ s.SameBlocks t [19]) ∧
  (∀ (init : Initiator) (context : Fin 4096) (s : State),
      s.Live → s.ctxState context = xIdle ∨ s.ctxState context = xError →
        ∃ t, exec (.disable init context) s = .next t ∧ t.ctxState context = xOff ∧ t.mem = (s.toCtx context xOff).mem ∧
          t.rd (F.DMX_CMD_RES_CODE (bankOf init)) = 0 ∧ t.rd (F.DMX_CMD_RES_VALID (bankOf init)) = 1 ∧ t.dmx = s.dmx ∧ s.SameBlocks t [19]) ∧
  (∀ (init : Initiator) (context : Fin 4096) (s : State),
      s.Live → s.ctxState context ≠ xIdle → s.ctxState context ≠ xError →
        ∃ t, exec (.disable init context) s = .next t ∧ t.mem = s.mem ∧ t.rd (F.DMX_CMD_RES_CODE (bankOf init)) = 0x1307 ∧ t.dmx = s.dmx) ∧
  (∀ (init : Initiator) (context : Fin 4096) (s : State),
      s.Live →
        ∃ t, exec (.inval init context) s = .next t ∧ t.dmx = { s.dmx with cache := s.dmx.cache.filter (fun x => x.ctx != context.val || x.locked) } ∧
          t.rd (F.DMX_CMD_RES_CODE (bankOf init)) = 0 ∧ t.rd (F.DMX_CMD_RES_VALID (bankOf init)) = 1 ∧ t.mem = s.mem ∧
          t = { s.noted t with answer := .done, dmx := t.dmx } ∧ s.SameBlocks t [19]) ∧
  (∀ (init : Initiator) (off : BitVec 18) (data : List Byte) (s : State),
      s.Live → ctxForm off.toNat data.length = true → s.ctxState (off.toNat / 64) = xOff → s.bom.injected = [] → s.bom.poisoned = [] →
      s.rd F.BOM_INJ_ARMED = 0 →
        exec (.contextRecordWrite init off data) s = .next (s.settle (s.store 6 off.toNat
          (ctxMerge (s.bytes 6 off.toNat data.length) (data.map BitVec.toNat) (off.toNat % 64))).ack)) ∧
  (∀ (init : Initiator) (off : BitVec 18) (data : List Byte) (s : State),
      s.Live → ctxForm off.toNat data.length = false ∨ s.ctxState (off.toNat / 64) ≠ xOff →
        exec (.contextRecordWrite init off data) s = .next (s.settle (s.refuse init (s.ownFa 6 off.toNat) 0x1307))) ∧
  (∀ (engine : Fin 16) (x : Engine) (s : State),
      s.Live → s.dmx.engines.get? engine = some x → x.ctx < 4096 → s.ctxState x.ctx = xSaving → x.reading = false →
      s.dmx.aborts.get? x.ctx = none → s.dmx.held.get? x.ctx = none →
        exec (.saveComplete engine) s = .next (s.settle ((State.wr
          { s.toCtx x.ctx xReady with dmx := { s.dmx with engines := s.dmx.engines.erase engine } } (F.DMX_Ee_BUSY engine) 0))) ∧
          (s.toCtx x.ctx xReady).ctxState x.ctx = xReady) ∧
  (∀ (s : State),
      s.Live →
        exec .dmxFqPop s = .next (s.settle (State.ack { s with dmx := { s.dmx with queue := s.dmx.queue.tail } })))

/-- A free engine takes the highest READY context, and a running one is preempted by a higher. A descriptor is fetched after its check or
ends the context in ERROR, as does one outside what its region holds; a complete one is reported and the next follows. A walk fills the
cache or holds a fault, which takes effect at its page. An acknowledgement is progress; without it the context goes back to what was
acknowledged. -/
def Obligations.DmaEngines : Prop :=
  (∀ (engine : Fin 16) (c : Nat) (s : State),
      s.Live → bit (s.rd F.DMX_CTL_ENG_EN) engine = true → s.dmx.engines.get? engine = none → s.topReady = some c → c < 4096 →
        ∃ t, exec (.engineTakeContext engine) s = .next t ∧ t.ctxState c = xRunning ∧ t.mem = (s.toCtx c xRunning).mem ∧
          t.dmx = { s.dmx with engines := s.dmx.engines.insert engine { ctx := c, fetched := s.ctxDone c != 0 } } ∧ t.rd (F.DMX_Ee_BUSY engine) = 1 ∧
          t.rd (F.DMX_Ee_CTX engine) = c ∧ t = { s.noted t with mem := t.mem, dmx := t.dmx } ∧
          s.SameRegs t [F.DMX_Ee_BUSY engine, F.DMX_Ee_CTX engine]) ∧
  (∀ (engine : Fin 16) (x : Engine) (c : Nat) (s : State),
      s.Live → s.dmx.engines.get? engine = some x → x.ctx < 4096 → s.ctxState x.ctx = xRunning →
      bit (s.rd F.DMX_CTL_ENG_EN) engine = true → s.topReady = some c → s.engineFree = false → s.outranks c x.ctx = true →
      s.lowRunning = some x.ctx →
        exec (.preempt engine) s = .next (s.settle ((s.toCtx x.ctx xSaving).bump F.DMX_CNT0_PREEMPT)) ∧ (s.toCtx x.ctx xSaving).ctxState x.ctx = xSaving) ∧
  (∀ (engine : Fin 16) (x : Engine) (s : State),
      s.Live → s.dmx.engines.get? engine = some x → s.ctxState x.ctx = xRunning → bit (s.rd F.DMX_CTL_ENG_EN) engine = false →
        exec (.preempt engine) s = .next (s.settle (s.toCtx x.ctx xSaving))) ∧
  (∀ (engine : Fin 16) (host : List Byte) (x : Engine) (s : State),
      s.Live → s.dmx.engines.get? engine = some x → s.ctxState x.ctx = xRunning → x.fetched = false →
      s.ctx x.ctx 0x1A 2 ≠ s.ctx x.ctx 0x1C 2 → s.ownBad (s.descFa x.ctx (s.ctx x.ctx 0x1A 2)) 32 = none →
      s.descCode x.ctx (s.descBytes x.ctx (host.map BitVec.toNat)) = 0 →
        exec (.descriptorFetch engine host) s = .next (s.settle
          { s.store 6 (64 * x.ctx + 0x20) (bytesAt (s.descBytes x.ctx (host.map BitVec.toNat)) 0 24 ++ List.replicate 8 0) with
            dmx := { s.dmx with engines := s.dmx.engines.insert engine { x with fetched := true } } })) ∧
  (∀ (engine : Fin 16) (host : List Byte) (x : Engine) (code : Nat) (s : State),
      s.Live → s.dmx.engines.get? engine = some x → x.ctx < 4096 → s.ctxState x.ctx = xRunning → x.fetched = false →
      s.ctx x.ctx 0x1A 2 ≠ s.ctx x.ctx 0x1C 2 → s.ownBad (s.descFa x.ctx (s.ctx x.ctx 0x1A 2)) 32 = none →
      s.descCode x.ctx (s.descBytes x.ctx (host.map BitVec.toNat)) = code → code ≠ 0 → s.engineOf x.ctx = some engine.val →
      s.descFa x.ctx (s.ctx x.ctx 0x1A 2) / 2 ^ 40 % 16 = 4 →
        ∃ t, exec (.descriptorFetch engine host) s = .next t ∧ t.ctxState x.ctx = xError ∧ t.rd F.DMX_IRQ_ERROR = 1 ∧
          t.le 4 (s.descFa x.ctx (s.ctx x.ctx 0x1A 2) % 2 ^ 40 + 0x18) 4 = code ∧ t.dmx = { s.dmx with engines := s.dmx.engines.erase engine } ∧
          s.SameRegs t [F.DMX_IRQ_ERROR, F.DMX_Ee_BUSY engine]) ∧
  (∀ (engine : Fin 16) (host : List Byte) (x : Engine) (code : Nat) (s : State),
      s.Live → s.dmx.engines.get? engine = some x → x.ctx < 4096 → s.ctxState x.ctx = xRunning → x.fetched = false →
      s.ctx x.ctx 0x1A 2 ≠ s.ctx x.ctx 0x1C 2 → s.ownBad (s.descFa x.ctx (s.ctx x.ctx 0x1A 2)) 32 = some code →
      s.engineOf x.ctx = some engine.val →
        ∃ t, exec (.descriptorFetch engine host) s = .next t ∧ t.ctxState x.ctx = xError ∧ t.rd F.DMX_IRQ_ERROR = 1 ∧
          t.dmx = { s.dmx with engines := s.dmx.engines.erase engine } ∧ s.SameRegs t [F.DMX_IRQ_ERROR, F.DMX_Ee_BUSY engine]) ∧
  (∀ (context : Fin 4096) (s : State),
      s.Live → s.ctxState context = xRunning → s.together = 0 → s.descFa context (s.ctx context 0x1A 2) % 2 ^ 40 + 32 ≤ 0x400000 →
      s.ctxLen context ≠ 0 → s.ctxAcked context = s.ctxLen context → s.ctxDctl context = 0 →
      s.descFa context (s.ctx context 0x1A 2) / 2 ^ 40 % 16 = 4 → s.engineOf context = none →
        ∃ t, exec (.descriptorComplete context) s = .next t ∧ t.le 4 (s.descFa context (s.ctx context 0x1A 2) % 2 ^ 40 + 0x18) 4 = 2 ^ 31 ∧
          t.ctx context 0x1A 2 = s.nextDesc context (s.ctx context 0x1A 2) % 65536 ∧ t.ctxLen context = 0 ∧ t.ctxDone context = 0 ∧ t.ctxAcked context = 0 ∧
          t = { s with mem := t.mem, egress := t.egress, cycle := t.cycle, together := t.together }) ∧
  (∀ (engine : Fin 16) (dest : Bool) (given1 given2 : Option (BitVec 64)) (x : Engine) (tr : Translation) (s : State),
      s.Live → s.dmx.engines.get? engine = some x → s.ctxState x.ctx = xRunning → x.fetched = true → s.sideVirtual x.ctx dest = true →
      s.ctxDone x.ctx < s.ctxLen x.ctx → s.lookup x.ctx (s.sideAddr x.ctx dest) = none → s.dmx.held.get? x.ctx = none →
      (s.walk x.ctx (s.sideAddr x.ctx dest) dest (given1.map BitVec.toNat) (given2.map BitVec.toNat)).toOption = some tr →
      s.dmx.cache.length < 512 →
        ∃ t, exec (.tableWalk engine dest given1 given2) s = .next t ∧ t.dmx = { s.dmx with cache := s.dmx.cache ++ [tr] } ∧
          t.rd F.DMX_CNT1_WALK = satAdd 16 (s.rd F.DMX_CNT1_WALK) 1 % 65536 ∧ t = { s.noted t with dmx := t.dmx } ∧ s.SameRegs t [F.DMX_CNT1_WALK]) ∧
  (∀ (engine : Fin 16) (dest : Bool) (given1 given2 : Option (BitVec 64)) (x : Engine) (cause : Nat) (s : State),
      s.Live → s.dmx.engines.get? engine = some x → s.ctxState x.ctx = xRunning → x.fetched = true → s.sideVirtual x.ctx dest = true →
      s.ctxDone x.ctx < s.ctxLen x.ctx → s.lookup x.ctx (s.sideAddr x.ctx dest) = none → s.dmx.held.get? x.ctx = none →
      (match s.walk x.ctx (s.sideAddr x.ctx dest) dest (given1.map BitVec.toNat) (given2.map BitVec.toNat) with | .error k => some k | .ok _ => none) = some cause →
        ∃ t, exec (.tableWalk engine dest given1 given2) s = .next t ∧
          t.dmx = { s.dmx with held := s.dmx.held.insert x.ctx ⟨cause, dest, false, s.sideAddr x.ctx dest⟩ } ∧ s.SameRegs t [F.DMX_CNT1_WALK]) ∧
  (∀ (engine : Fin 16) (dest : Bool) (given1 given2 : Option (BitVec 64)) (x : Engine) (va cause : Nat) (s : State),
      s.Live → s.dmx.engines.get? engine = some x → s.aheadPage x.ctx dest = some va → x.fetched = true →
      s.sideVirtual x.ctx dest = true → s.lookup x.ctx va = none → s.dmx.held.get? x.ctx = none →
      (match s.walk x.ctx va dest (given1.map BitVec.toNat) (given2.map BitVec.toNat) with | .error k => some k | .ok _ => none) = some cause →
        ∃ t, exec (.lookaheadWalk engine dest given1 given2) s = .next t ∧
          t.dmx = { s.dmx with held := s.dmx.held.insert x.ctx ⟨cause, dest, true, va⟩ } ∧ t.rd F.DMX_CNT1_WALK = satAdd 16 (s.rd F.DMX_CNT1_WALK) 1 % 65536 ∧
          t = { s.noted t with dmx := t.dmx } ∧ s.SameRegs t [F.DMX_CNT1_WALK]) ∧
  (∀ (engine : Fin 16) (x : Engine) (f : HeldFault) (s : State),
      s.Live → s.dmx.engines.get? engine = some x → x.ctx < 4096 → s.dmx.held.get? x.ctx = some f → s.ctxState x.ctx = xRunning →
      f.va / 4096 ≤ s.sideAddr x.ctx f.dest / 4096 → s.dmx.queue.length < 64 → f.cause < 256 → s.together = 0 →
        ∃ t, exec (.dmaFaultEffect engine) s = .next t ∧ t.ctxState x.ctx = xFaulted ∧ t.ctx x.ctx 0x1E 2 = f.cause * 256 + 128 * b2n f.dest ∧
          t.dmx.queue = s.dmx.queue ++ [s.faultRecord x.ctx f] ∧ t.dmx.held = s.dmx.held.erase x.ctx ∧ t.rd F.DMX_IRQ_FAULT = 1 ∧
          t = { s.noted t with mem := t.mem, dmx := t.dmx } ∧ s.SameBlocks t [19]) ∧
  (∀ (tag : Fin 256) (c : Fin 4096) (n : Nat) (s : State),
      s.Live → s.brg.tags.get? tag = some (.dmaWrite c n) →
        ∃ t, exec (.dmaAckRsp tag) s = .next t ∧ t.brg = { s.brg with tags := s.brg.tags.erase tag } ∧ t.dmx = { s.dmx with retries := s.dmx.retries.erase c } ∧
          t.ctxAcked c = min (s.ctxDone c) (s.ctxAcked c + n) ∧ t.mem = (s.setCtx c 0x3C 4 (min (s.ctxDone c) (s.ctxAcked c + n))).mem ∧ t.regs = s.regs) ∧
  (∀ (context : Fin 4096) (s : State),
      s.Live → s.ctxState context = xReady ∨ s.ctxState context = xRunning ∨ s.ctxState context = xSaving → s.ctxTc context < 4 →
      s.ctxAcked context < s.ctxDone context → s.dmx.retries.getD context 0 < s.rd F.DMX_TMO_DMA_RETRY →
        ∃ t, exec (.dmaTmoRewind context) s = .next t ∧ t.ctxDone context = s.ctxAcked context ∧ t.ctxAcked context = s.ctxAcked context ∧
          t.rd F.DMX_IRQ_REWIND = 1 ∧ t.rd F.DMX_CNT1_REWIND = satAdd 16 (s.rd F.DMX_CNT1_REWIND) 1 % 65536 ∧
          t.dmx.retries.get? context = some (s.dmx.retries.getD context 0 + 1) ∧ s.SameRegs t [F.DMX_IRQ_REWIND, F.DMX_CNT1_REWIND])

/-- A key command is taken into its bank and a second is captured with 0x150F. At completion a load fills an empty slot with what the blob
says, or gives its code; ZERO empties a slot and ZERO_ALL every one, with 0x150A for a load of its cycle; STORE and SEAL write the
record's other half; a transition record moves the lifecycle. -/
def Obligations.KeyCommands : Prop :=
  (∀ (init : Initiator) (slot record : Fin 256) (b : Nat) (s : State),
      s.Live → b = bankOf init → s.sec.cmds.get? b = none →
        exec (.loadFlash init slot record) s = .next (s.settle { (((((s.wr (F.KEY_CMD_OP b) 1).wr (F.KEY_CMD_RECORD b) record).wr (F.KEY_CMD_SLOT b) slot).ack).resStart
          (RR.KEY_RES b)) with sec := { s.sec with cmds := s.sec.cmds.insert b ⟨1, record, slot⟩ } }) ∧
          exec (.loadStage init slot) s = .next (s.settle { (((((s.wr (F.KEY_CMD_OP b) 2).wr (F.KEY_CMD_RECORD b) (s.rd (F.KEY_CMD_RECORD b))).wr (F.KEY_CMD_SLOT b)
          slot).ack).resStart (RR.KEY_RES b)) with sec := { s.sec with cmds := s.sec.cmds.insert b ⟨2, s.rd (F.KEY_CMD_RECORD b), slot⟩ } })) ∧
  (∀ (init : Initiator) (record : Fin 256) (b : Nat) (s : State),
      s.Live → b = bankOf init → s.sec.cmds.get? b = none →
        ∃ t, exec (.store init record) s = .next t ∧ t.sec = { s.sec with cmds := s.sec.cmds.insert b ⟨3, record, s.rd (F.KEY_CMD_SLOT b)⟩ } ∧
          t.rd (F.KEY_RES_VALID b) = 0 ∧ t.rd (F.KEY_RES_SEQ b) = (s.rd (F.KEY_RES_SEQ b) + 1) % 256 ∧ t.answer = .done ∧
          t = { s.noted t with answer := .done, sec := t.sec } ∧ s.SameBlocks t [21]) ∧
  (∀ (init : Initiator) (record : Fin 256) (b : Nat) (s : State),
      s.Live → b = bankOf init → s.sec.cmds.get? b = none →
        ∃ t, exec (.seal init record) s = .next t ∧ t.sec = { s.sec with cmds := s.sec.cmds.insert b ⟨4, record, s.rd (F.KEY_CMD_SLOT b)⟩ } ∧
          t.rd (F.KEY_RES_VALID b) = 0 ∧ t.rd (F.KEY_RES_SEQ b) = (s.rd (F.KEY_RES_SEQ b) + 1) % 256 ∧ t.answer = .done ∧
          t = { s.noted t with answer := .done, sec := t.sec } ∧ s.SameBlocks t [21]) ∧
  (∀ (init : Initiator) (slot : Fin 256) (b : Nat) (s : State),
      s.Live → b = bankOf init → s.sec.cmds.get? b = none →
        ∃ t, exec (.zero init slot) s = .next t ∧ t.sec = { s.sec with cmds := s.sec.cmds.insert b ⟨5, s.rd (F.KEY_CMD_RECORD b), slot⟩ } ∧
          t.rd (F.KEY_RES_VALID b) = 0 ∧ t = { s.noted t with answer := .done, sec := t.sec } ∧ s.SameBlocks t [21]) ∧
  (∀ (init : Initiator) (b : Nat) (s : State),
      s.Live → b = bankOf init → s.sec.cmds.get? b = none →
        ∃ t, exec (.zeroAll init) s = .next t ∧ t.sec = { s.sec with cmds := s.sec.cmds.insert b ⟨6, s.rd (F.KEY_CMD_RECORD b), s.rd (F.KEY_CMD_SLOT b)⟩ } ∧
          t.rd (F.KEY_RES_VALID b) = 0 ∧ t = { s.noted t with answer := .done, sec := t.sec } ∧ s.SameBlocks t [21]) ∧
  (∀ (init : Initiator) (b : Nat) (s : State),
      s.Live → b = bankOf init → s.sec.cmds.get? b = none →
        ∃ t, exec (.lc init) s = .next t ∧ t.sec = { s.sec with cmds := s.sec.cmds.insert b ⟨7, s.rd (F.KEY_CMD_RECORD b), s.rd (F.KEY_CMD_SLOT b)⟩ } ∧
          t.rd (F.KEY_RES_VALID b) = 0 ∧ t.lc = s.lc ∧ t = { s.noted t with answer := .done, sec := t.sec } ∧ s.SameBlocks t [21]) ∧
  (∀ (init : Initiator) (r : KeyRun) (s : State),
      s.Live → s.sec.cmds.get? (bankOf init) = some r → s.rd F.GLB_ACC_ERR_CAPT = 0 →
        ∃ t, exec (.zeroAll init) s = .next t ∧ t.sec = s.sec ∧ t.rd F.GLB_ACC_ERR_CAPT = 1 ∧ t.rd F.GLB_ACC_ERR_CODE = 0x150F ∧
          t.rd (F.KEY_RES_SEQ (bankOf init)) = s.rd (F.KEY_RES_SEQ (bankOf init))) ∧
  (∀ (word : Fin 64) (data : Word) (s : State),
      s.Live →
        exec (.keyStageWrite word data) s = .next (s.settle ((s.wr (F.KEY_STAGE_DATA word) data.toNat).ack)) ∧
          (s.wr (F.KEY_STAGE_DATA word) data.toNat).rd (F.KEY_STAGE_DATA word) = data.toNat) ∧
  (∀ (bank : Fin 3) (record slot : Nat) (s : State),
      s.Live → s.sec.cmds.get? bank = some ⟨2, record, slot⟩ → 1 ≤ slot ∧ slot ≤ 255 → s.slotValid slot = false → s.tlatch = false →
      hasRoot s.lc = true → s.rd F.KEY_STATUS_ROOT_OK ≠ 0 → s.blobForm (s.stageBytes.take 104) = true → leAt s.stageBytes 5 1 = s.lc →
      leAt s.stageBytes 0x14 1 = 0xFF → s.sec.refs = [] → s.together = 0 → s.marked .zeroedAll = false →
        ∃ t, exec (.keyCmdComplete bank) s = .next t ∧ t.rd F.KEY_IRQ_DONE = 1 ∧ t.rd (F.KEY_RES_VALID bank) = 1 ∧ t.sec.cmds = s.sec.cmds.erase bank ∧ t.mem = s.mem ∧
          t.rd (F.KEY_RES_CODE bank) = (if t.slotValid slot then 0 else 0x1505) ∧ (t.slotValid slot = true → t.slotAttr slot = leAt s.stageBytes 6 1 ∧
            t.slotDattr slot = leAt s.stageBytes 7 1 ∧ t.rd (F.KEY_Sn_LIMIT_LIMIT slot) = leAt s.stageBytes 0x10 4 ∧ t.rd (F.KEY_Sn_INFO_RECORD slot) = 0xFF ∧
            (t.keySlot slot).uses = 0) ∧ (∀ n : Nat, n ≠ slot → t.keySlot n = s.keySlot n) ∧ s.SameBlocks t [21]) ∧
  (∀ (bank : Fin 3) (record slot : Nat) (s : State),
      s.Live → s.sec.cmds.get? bank = some ⟨2, record, slot⟩ → s.lc ≠ lcScrapped → s.together = 0 → s.marked .zeroedAll = true →
        ∃ t, exec (.keyCmdComplete bank) s = .next t ∧ t.rd F.KEY_IRQ_DONE = 1 ∧ t.rd (F.KEY_RES_CODE bank) = 0x150A ∧
          t.sec = { s.sec with cmds := s.sec.cmds.erase bank } ∧ t = { s.noted t with sec := t.sec }) ∧
  (∀ (bank : Fin 3) (record slot : Nat) (s : State),
      s.Live → s.sec.cmds.get? bank = some ⟨1, record, slot⟩ → 1 ≤ slot ∧ slot ≤ 255 → s.slotValid slot = false → s.tlatch = false →
      hasRoot s.lc = true → s.rd F.KEY_STATUS_ROOT_OK ≠ 0 → s.blobWinner record = none → s.together = 0 →
      s.marked .zeroedAll = false →
        ∃ t, exec (.keyCmdComplete bank) s = .next t ∧ t.rd F.KEY_IRQ_DONE = 1 ∧ t.rd (F.KEY_RES_CODE bank) = 0x150B ∧ t.sec = { s.sec with cmds := s.sec.cmds.erase bank } ∧
          t = { s.noted t with sec := t.sec } ∧
          s.SameRegs t [F.KEY_IRQ_DONE, F.KEY_RES_CODE bank, F.KEY_RES_VALID bank, F.KEY_RES_STALE bank]) ∧
  (∀ (bank : Fin 3) (record slot op code : Nat) (s : State),
      s.Live → s.sec.cmds.get? bank = some ⟨op, record, slot⟩ →
      op = 1 ∧ slot = 0 ∧ code = 0x1501 ∨ op = 2 ∧ slot = 0 ∧ code = 0x1501 ∨ op = 5 ∧ slot = 0 ∧ code = 0x1501 ∨
      op = 2 ∧ slot ≠ 0 ∧ s.slotValid slot = true ∧ code = 0x150A ∨ op = 3 ∧ s.tlatch = true ∧ code = 0x1506 →
      s.lc ≠ lcScrapped → s.together = 0 → s.marked .zeroedAll = false →
        ∃ t, exec (.keyCmdComplete bank) s = .next t ∧ t.rd F.KEY_IRQ_DONE = 1 ∧ t.rd (F.KEY_RES_CODE bank) = code ∧ t.sec = { s.sec with cmds := s.sec.cmds.erase bank } ∧
          t = { s.noted t with sec := t.sec } ∧
          s.SameRegs t [F.KEY_IRQ_DONE, F.KEY_RES_CODE bank, F.KEY_RES_VALID bank, F.KEY_RES_STALE bank]) ∧
  (∀ (bank : Fin 3) (record slot : Nat) (s : State),
      s.Live → s.sec.cmds.get? bank = some ⟨5, record, slot⟩ → 1 ≤ slot ∧ slot ≤ 255 → s.lc ≠ lcScrapped →
      s.swc.frames.all (fun b => b.hold.isNone) = true → s.together = 0 →
        ∃ t, exec (.keyCmdComplete bank) s = .next t ∧ t.slotValid slot = false ∧ t.slotAttr slot = 0 ∧ t.sec.slots.get? slot = none ∧
          t.sec.ops = s.sec.ops.filter (fun p => p.2.slot != slot) ∧ t.rd (F.KEY_RES_CODE bank) = 0 ∧ t.rd F.KEY_IRQ_DONE = 1 ∧ t.mem = s.mem ∧
          (∀ n : Nat, n ≠ slot → n < 256 → t.slotValid n = s.slotValid n) ∧ s.SameBlocks t [17, 20, 21]) ∧
  (∀ (bank : Fin 3) (record slot : Nat) (s : State),
      s.Live → s.sec.cmds.get? bank = some ⟨6, record, slot⟩ → s.lc ≠ lcScrapped → s.together = 0 →
        ∃ t, exec (.keyCmdComplete bank) s = .next t ∧ t.loadedSlots = [] ∧ t.rd F.KEY_IRQ_ZEROISED = 1 ∧ t.rd (F.KEY_RES_CODE bank) = 0 ∧ t.rd F.KEY_IRQ_DONE = 1) ∧
  (∀ (bank : Fin 3) (record slot : Nat) (s : State),
      s.Live → s.sec.cmds.get? bank = some ⟨4, record, slot⟩ → s.lc = lcProvision ∨ s.lc = lcRma → s.tlatch = false →
      s.rd F.KEY_STATUS_ROOT_OK ≠ 0 → s.blobForm s.stageBytes = true → leAt s.stageBytes 0x14 1 = 0xFF →
      leAt s.stageBytes 5 1 = s.lc ∨ leAt s.stageBytes 5 1 = s.lc + 1 → s.together = 0 →
        ∃ t, exec (.keyCmdComplete bank) s = .next t ∧ t.rd (F.KEY_RES_CODE bank) = 0 ∧ t.rd F.KEY_IRQ_DONE = 1 ∧
          (∀ n < 64, t.rd (F.KEY_STAGE_DATA n) = 0) ∧ t.mem = (s.storeBlob record (s.stageBytes.take 64 ++ exactly 40
          (Config.keyWrap (kek (s.root (leAt s.stageBytes 5 1)) (s.stageBytes.take 64)) (bytesAt s.stageBytes 64 32)))).mem ∧
          t.sec = { s.sec with cmds := s.sec.cmds.erase bank } ∧ s.SameBlocks t [21]) ∧
  (∀ (bank : Fin 3) (record slot : Nat) (s : State),
      s.Live → s.sec.cmds.get? bank = some ⟨4, record, slot⟩ → s.lc = lcBlank ∨ s.lc = lcDeployed ∨ s.lc = lcRedeployed →
      s.together = 0 →
        ∃ t, exec (.keyCmdComplete bank) s = .next t ∧ t.rd (F.KEY_RES_CODE bank) = 0x150D ∧ (∀ n < 64, t.rd (F.KEY_STAGE_DATA n) = 0) ∧ t.mem = s.mem ∧ s.SameBlocks t [21]) ∧
  (∀ (bank : Fin 3) (record slot : Nat) (s : State),
      s.Live → s.sec.cmds.get? bank = some ⟨7, record, slot⟩ → s.lc = lcBlank → s.recordFits s.stageBytes 0xA14C5452 = true →
      leAt s.stageBytes 4 1 = lcBlank → leAt s.stageBytes 5 1 = lcProvision → leAt s.stageBytes 6 1 = 0 →
      leAt s.stageBytes 0x20 16 = 0 → s.together = 0 →
        ∃ t, exec (.keyCmdComplete bank) s = .next t ∧ t.lc = lcProvision ∧ t.rd F.KEY_STATUS_ROOT_OK = 0 ∧ t.rd (F.KEY_RES_CODE bank) = 0 ∧
          (∀ n < 64, t.rd (F.KEY_STAGE_DATA n) = 0) ∧ (∀ st, 1 ≤ st → st ≤ 4 → (t.sec.salts.get? st).isSome = true) ∧ t.mem = s.mem ∧ s.SameBlocks t [21]) ∧
  (∀ (bank : Fin 3) (record slot : Nat) (s : State),
      s.Live → s.sec.cmds.get? bank = some ⟨7, record, slot⟩ → s.lc ≠ lcScrapped → s.recordFits s.stageBytes 0xA14C5452 = false →
      s.together = 0 →
        ∃ t, exec (.keyCmdComplete bank) s = .next t ∧ t.lc = s.lc ∧ t.rd (F.KEY_RES_CODE bank) = 0x150C ∧ (∀ n < 64, t.rd (F.KEY_STAGE_DATA n) = 0) ∧
          t.rd F.VGL_STATUS_TLATCH = s.rd F.VGL_STATUS_TLATCH ∧ t.mem = s.mem)

/-- ENC and DEC are taken into their bank; at completion an encryption stores the ciphertext and counts one use, a decryption stores its
output only when the tag verifies. A frame job encrypts one frame under the epoch key and counts one use. A tamper event latches, logs and
zeroises; enables are sticky. What AES-GCM computes is the model's opaque function. -/
def Obligations.CipherAndTamper : Prop :=
  (∀ (init : Initiator) (slot : Fin 256) (b : Nat) (s : State),
      s.Live → b = bankOf init → s.sec.ops.get? b = none →
        ∃ t, exec (.enc init slot) s = .next t ∧ (t.sec.ops.get? b).map (fun o => (o.op, o.slot, o.src, o.dst)) = some (1, slot.val, s.rd (F.CPH_SRC_OFFSET b), s.rd (F.CPH_DST_OFFSET b)) ∧
          (t.sec.ops.get? b).map (fun o => (o.aad, o.len)) = some (s.rd (F.CPH_LEN_AADLEN b), s.rd (F.CPH_LEN_LEN b)) ∧ t.rd (F.CPH_RES_VALID b) = 0 ∧
          t.rd (F.CPH_RES_SEQ b) = (s.rd (F.CPH_RES_SEQ b) + 1) % 256 ∧ t = { s.noted t with answer := .done, sec := { s.sec with ops := t.sec.ops } } ∧
          s.SameBlocks t [20]) ∧
  (∀ (init : Initiator) (slot : Fin 256) (b : Nat) (s : State),
      s.Live → b = bankOf init → s.sec.ops.get? b = none →
        ∃ t, exec (.dec init slot) s = .next t ∧ (t.sec.ops.get? b).map (fun o => (o.op, o.slot, o.src, o.dst)) = some (2, slot.val, s.rd (F.CPH_SRC_OFFSET b), s.rd (F.CPH_DST_OFFSET b)) ∧
          t.rd (F.CPH_RES_VALID b) = 0 ∧ t.rd (F.CPH_RES_SEQ b) = (s.rd (F.CPH_RES_SEQ b) + 1) % 256 ∧
          t = { s.noted t with answer := .done, sec := { s.sec with ops := t.sec.ops } } ∧ s.SameBlocks t [20]) ∧
  (∀ (init : Initiator) (slot : Fin 256) (o : HostOp) (s : State),
      s.Live → s.sec.ops.get? (bankOf init) = some o → s.rd F.GLB_ACC_ERR_CAPT = 0 →
        ∃ t, exec (.dec init slot) s = .next t ∧ t.sec = s.sec ∧ t.rd F.GLB_ACC_ERR_CODE = 0x1404 ∧ t.rd F.GLB_ACC_ERR_CAPT = 1) ∧
  (∀ (bank : Fin 3) (o : HostOp) (nonce : List Nat) (s : State),
      s.Live → s.sec.ops.get? bank = some o → o.op = 1 → s.lc ≠ lcScrapped →
      o.len ≤ 16384 ∧ o.aad ≤ 1024 ∧ o.src % 16 = 0 ∧ o.dst % 16 = 0 → o.src + o.aad + o.len ≤ 0x400000 ∧ o.dst + o.len ≤ 0x400000 →
      1 ≤ o.slot → s.slotValid o.slot = true → s.slotAttr o.slot = encOnly →
      (s.keySlot o.slot).uses < limitOf (s.rd (F.KEY_Sn_LIMIT_LIMIT o.slot)) →
      nonce = [1] ++ bytesAt (leBytes 8 s.serial) 0 7 ++ beBytes 4 (s.keySlot o.slot).uses → s.together = 0 →
        ∃ t, exec (.cphOpComplete bank) s = .next t ∧ t.rd (F.CPH_RES_CODE bank) = 0 ∧ t.rd (F.CPH_RES_VALID bank) = 1 ∧ t.rd F.CPH_IRQ_HOSTDONE = 1 ∧
          t.mem = (s.store 4 o.dst (exactly o.len (Config.gcmEncrypt (s.keySlot o.slot).key nonce (s.bytes 4 o.src o.aad) (s.bytes 4 (o.src + o.aad) o.len)).1)).mem ∧
          t.rd (F.CPH_TAG_TAG bank 0) = leAt (exactly 16 (Config.gcmEncrypt (s.keySlot o.slot).key nonce (s.bytes 4 o.src o.aad) (s.bytes 4 (o.src + o.aad) o.len)).2) 0 4 ∧
          t.rd (F.CPH_NONCE_NONCE bank 0) = leAt nonce 0 4 ∧ (t.keySlot o.slot).uses = (s.keySlot o.slot).uses + 1 ∧ t.sec.ops = s.sec.ops.erase bank) ∧
  (∀ (bank : Fin 3) (o : HostOp) (s : State),
      s.Live → s.sec.ops.get? bank = some o → o.op = 2 → s.lc ≠ lcScrapped →
      o.len ≤ 16384 ∧ o.aad ≤ 1024 ∧ o.src % 16 = 0 ∧ o.dst % 16 = 0 → o.src + o.aad + o.len ≤ 0x400000 ∧ o.dst + o.len ≤ 0x400000 →
      1 ≤ o.slot → s.slotValid o.slot = true → s.slotAttr o.slot = decOnly →
      (s.keySlot o.slot).uses < limitOf (s.rd (F.KEY_Sn_LIMIT_LIMIT o.slot)) → s.together = 0 →
        ∃ t, exec (.cphOpComplete bank) s = .next t ∧ t.rd (F.CPH_RES_VALID bank) = 1 ∧ t.rd F.CPH_IRQ_HOSTDONE = 1 ∧ (t.keySlot o.slot).uses = (s.keySlot o.slot).uses + 1 ∧
          (t.rd (F.CPH_RES_CODE bank), t.mem) = (match Config.gcmDecrypt (s.keySlot o.slot).key o.nonce (s.bytes 4 o.src o.aad) (s.bytes 4 (o.src + o.aad) o.len) o.tag with
          | some pt => (0, (s.store 4 o.dst (exactly o.len pt)).mem) | none => (0x1401, s.mem))) ∧
  (∀ (bank : Fin 3) (o : HostOp) (s : State),
      s.Live → s.sec.ops.get? bank = some o → s.lc ≠ lcScrapped → o.len ≤ 16384 ∧ o.aad ≤ 1024 ∧ o.src % 16 = 0 ∧ o.dst % 16 = 0 →
      o.src + o.aad + o.len ≤ 0x400000 ∧ o.dst + o.len ≤ 0x400000 → o.slot = 0 ∨ s.slotValid o.slot = false → s.together = 0 →
        ∃ t, exec (.cphOpComplete bank) s = .next t ∧ t.rd (F.CPH_RES_CODE bank) = 0x1501 ∧ t.mem = s.mem ∧ t.rd F.CPH_IRQ_HOSTDONE = 1 ∧
          t.rd F.CPH_CNT1_HOSTFAIL = satAdd 16 (s.rd F.CPH_CNT1_HOSTFAIL) 1 % 65536 ∧ t.sec = { s.sec with ops := s.sec.ops.erase bank } ∧ s.SameBlocks t [20]) ∧
  (∀ (b : BufFrame) (s : State),
      s.Live → s.rd F.CPH_CTL_CORE_EN ≠ 0 → s.swc.frames = [b] → b.outs = [10] ∧ b.leaving = [] ∧ b.hold = none → b.frame.tc = 4 →
      b.frame.tag = [] → s.tlatch = false → s.slotValid b.frame.kslot = true → s.slotAttr b.frame.kslot = deriveOnly →
      s.slotDattr b.frame.kslot = encOnly → s.bankOfEpoch b.frame.kslot (s.rd F.CRL_KEY_TX) = some 0 →
      (s.keySlot b.frame.kslot).use0 + 1 < warnAt (limitOf (s.rd (F.KEY_Sn_LIMIT_LIMIT b.frame.kslot))) → s.ringHub = false →
      s.uplink = some 5 → b.frame.dest / 4 ≠ s.rd F.GLB_POS_STATION → b.frame.dest ≠ s.self → s.together = 0 →
      b.frame.dest / 4 ≠ 1023 →
        ∃ t, exec .gcmFrameJob s = .next t ∧ (t.keySlot b.frame.kslot).use0 = (s.keySlot b.frame.kslot).use0 + 1 ∧ t.swc.frames = [] ∧
          t.swc.arrivals.map (fun a => (a.inPort, a.outs, a.frame.payload.length, a.frame.tag.length, a.frame.kepoch)) =
          s.swc.arrivals.map (fun a => (a.inPort, a.outs, a.frame.payload.length, a.frame.tag.length, a.frame.kepoch)) ++ [(10, [5], b.frame.payload.length, 16, s.rd F.CRL_KEY_TX)] ∧
          t.regs = s.regs ∧ t = { s with egress := t.egress, cycle := t.cycle, together := t.together, swc := t.swc, sec := { s.sec with slots := t.sec.slots, lastClass := t.sec.lastClass } }) ∧
  (∀ (b : BufFrame) (s : State),
      s.Live → s.rd F.CPH_CTL_CORE_EN ≠ 0 → s.nextJob = some b → b.frame.tag ≠ [] → s.slotValid b.frame.kslot = false →
      s.together = 0 →
        exec .gcmFrameJob s = .next (s.settle (((s.jobTaken b).violation b.inPort 0x1005).sendNak b.frame 0x1005))) ∧
  (∀ (active : BitVec 8) (k : Fin 8) (s : State),
      s.voided = false → s.pwr.vbat = false → s.pwr.standby = false → s.almInForce = true → s.rd F.VGL_STATUS_ACTIVE = 0 →
      active.toNat = 2 ^ k.val → bit s.tamperEn k = true → s.tlatch = false →
        ∃ t, exec (.tamperEvent active) s = .next t ∧ t.tlatch = true ∧ t.rd F.VGL_TLOG_CODE = 0x1810 + k.val ∧ t.rd F.VGL_TLOG_COUNT = 1 ∧
          t.rd F.GLB_HEALTH_TAMPER = 1 ∧ t.rd F.VGL_IRQ_TAMPER = 1 ∧ t.loadedSlots = [] ∧ t.rd F.KEY_STATUS_ROOT_OK = 0 ∧ t.rd F.VGL_STATUS_ACTIVE = 2 ^ k.val ∧
          t.sec.cmds = [] ∧ t.sec.ops = []) ∧
  (∀ (active : BitVec 8) (s : State),
      s.voided = false → (∀ k < 8, bit active.toNat k = true → bit (s.rd F.VGL_STATUS_ACTIVE) k = true ∨ bit s.watched k = false) →
        exec (.tamperEvent active) s = .next (s.settle (s.wr F.VGL_STATUS_ACTIVE active.toNat))) ∧
  (∀ (s : State),
      s.Live → s.rd F.VGL_STATUS_TSAFE ≠ 0 →
        exec .tsafeClr s = .next (s.settle ((s.ack.wr F.VGL_STATUS_TSAFE 0).raise F.VGL_IRQ_TSAFE_END))) ∧
  (∀ (init : Initiator) (en : BitVec 8) (s : State),
      s.Live → (∀ k < 8, bit s.tamperEn k = true → bit en.toNat k = true) →
        exec (.tamperEnableWrite init en) s = .next (s.settle (s.wr F.VGL_TCFG_EN en.toNat).ack)) ∧
  (∀ (init : Initiator) (en : BitVec 8) (k : Nat) (s : State),
      s.Live → k < 8 → bit s.tamperEn k = true → bit en.toNat k = false →
        exec (.tamperEnableWrite init en) s = .next (s.settle (s.refuseReg init F.VGL_TCFG_EN.off 0x1801)))

/-- A stitched hub sends its JOIN, the ring hub keeps it, and stitch images are held or staged. A standby commits a whole copy. A SYNC
standby claims, and its claims repeat; the referee grants, refuses, designates or queues by the pair record. GRANT takes the copy up,
TAKING becomes ACTIVE, FENCE fences, and a command word that is not the referee's is refused and counted. -/
def Obligations.StitchAndTwins : Prop :=
  (∀ (s : State),
      s.Live → s.ringHub = false → s.uplink.isSome = true → s.admitted = false →
        exec .stitchJoin s = .next (s.settle (s.toHead (s.joinPayload [s.ownRecord])))) ∧
  (∀ (hub : JoinHub) (s : State),
      s.Live → s.ringHub = true → hub.pos < 4 → hub.pos ≠ s.rd F.GLB_POS_HUBPOS → s.admitted = false →
        exec (.stitchJoinReceived hub) s = .next (s.settle { s with stt := { s.stt with records := s.stt.records.insert hub.pos hub } })) ∧
  (∀ (hub : JoinHub) (s : State),
      s.Live → s.ringHub = true → hub.pos < 4 → hub.pos ≠ s.rd F.GLB_POS_HUBPOS → s.admitted = true →
      s.stt.records.get? hub.pos = none →
        exec (.stitchJoinReceived hub) s = .next (s.settle (State.joinSend { s with stt := { s.stt with records := s.stt.records.insert hub.pos hub } }))) ∧
  (∀ (pos : Fin 4) (s : State),
      s.Live →
        exec (.stitchRecordExpiry pos) s = .next (s.settle { s with stt := { s.stt with records := s.stt.records.erase pos } })) ∧
  (∀ (payload : List Byte) (d : SlotData) (s : State),
      s.Live → s.ringHub = true → leAt (payload.map BitVec.toNat) 0 4 = s.ring.harvest.cycle % 2 ^ 32 →
      leAt (payload.map BitVec.toNat) 4 1 = 2 → parseSlots 1 ((payload.map BitVec.toNat).drop 8) = some [d] →
      d.hub / 4 = s.rd F.GLB_POS_STATION →
        exec (.stitchImageReceived payload) s = .next (s.settle { s with ring := { s.ring with harvest := { s.ring.harvest with
          images := s.ring.harvest.images.insert (d.hub % 4) (bit d.flags 3, d.body.take d.inLen) } } })) ∧
  (∀ (payload : List Byte) (d : SlotData) (s : State),
      s.Live → s.ringHub = false → leAt (payload.map BitVec.toNat) 4 1 = 3 →
      parseSlots 1 ((payload.map BitVec.toNat).drop 8) = some [d] → d.hub = s.self → bit d.flags 0 = true →
      s.ring.harvest.staged = none →
        exec (.stitchImageReceived payload) s = .next (s.settle
          (if leAt (payload.map BitVec.toNat) 0 4 = s.ring.harvest.cycle % 2 ^ 32 ∧ s.ring.harvest.closed = false then
            { s.raise F.CRL_STATUS_HV_RUN with ring := { s.ring with harvest := { s.ring.harvest with staged := some (d.body.take d.outLen) } } }
          else (((s.raise F.CRL_STATUS_HV_RUN).bump F.STT_CNT1_OUTLATE).bump F.CRL_HCNT_LATE).raise F.CRL_IRQ_HLATE))) ∧
  (∀ (rs : List (Nat × Nat × List Nat)) (s : State),
      s.Live → s.role = roleSync → s.copyBegun = true → s.stt.committed ≠ some s.stt.boundary →
      s.cpRecords 64 (cpOffset s.stt.boundary) = some rs → rs.getLast?.elim 0 (·.2.1) = rs.length → s.stt.boundary < 2 ^ 32 →
        ∃ t, exec .copyCommit s = .next t ∧ t.stt.committed = some s.stt.boundary ∧ t.stt.abandoned = 0 ∧ t.stt.absent = 0 ∧ t.role = roleSync ∧
          t.rd F.STT_COPY_VALUE = s.stt.boundary ∧ t.rd F.STT_STATUS_COPY_AGE = 0 ∧ t.rd F.STT_HREP_COPY = 1 ∧
          t.rd F.STT_HREP_TWINHASH = b2n (t.rd F.STT_STATUS_HASHMM == 0) ∧ t.stt.copySseq = s.stt.sseqBase ∧ t.mem = s.mem ∧
          t.rd F.STT_STATUS_RFENCE = s.rd F.STT_STATUS_RFENCE ∧ t.rd F.STT_HREP_ELIG = s.rd F.STT_HREP_ELIG ∧
          t = { s.noted t with stt := t.stt, ring := t.ring, swc := t.swc } ∧ s.SameBlocks t [10, 16, 22]) ∧
  (∀ (reason : Fin 16) (s : State),
      s.Live → s.role = roleSync → s.stt.claim = none → [1, 3, 5].contains reason.val = true →
        exec .st0Silence s = .next (s.settle (State.sendClaim { s with stt := { s.stt with claim := some (1, 1) } } 1 0)) ∧
          exec (.claimSend reason) s = .next (s.settle (State.sendClaim { s with stt := { s.stt with claim := some (reason.val, 1) } } reason 0)) ∧
          exec (.promptReceived ⟨s.stt.referee % 4096, Nat.mod_lt _ (by decide)⟩ ⟨s.stt.referee % 4096, Nat.mod_lt _ (by decide)⟩) s =
            .next (s.settle (if s.stt.referee < 4096 then (State.sendClaim { s with stt := { s.stt with claim := some (5, 1) } } 5 0).ack
              else (s.bump F.STT_CNT1_BADREF).refuseReg .tc4 F.STT_REFCMD_WORD.off 0x1603))) ∧
  (∀ (s : State),
      s.Live → s.role = roleSync → s.stt.claim = none → s.ringHub = true → s.quarantined = false → s.wrapE = false → s.wrapW = false →
      s.stt.referee / 4 ≠ s.rd F.GLB_POS_STATION → s.stt.referee / 4 ≠ 1023 → s.stt.referee ≠ s.self →
        ∃ t, exec .st0Silence s = .next t ∧ t.stt = { s.stt with claim := some (1, 1) } ∧ t.rd F.STT_STATUS_CLAIM = 1 ∧
          t.rd F.STT_CNT0_CLAIMS = satAdd F.STT_CNT0_CLAIMS.w (s.rd F.STT_CNT0_CLAIMS) 1 ∧
          t.swc.arrivals = s.swc.arrivals ++ [{ inPort := 8, outs := [0, 3], dual := true, ingress := s.now, frame := { typ := 5, tc := 7, dup := true, dest := s.stt.referee, src := s.self, flowSeq := s.ring.flowTx.getD 7 0, epoch := s.rd F.CRL_EPOCH_CUR, payload := cmdPayload 3 0 0 4 (s.stt.referee * 2 ^ 44 + F.STT_CLAIM_WORD.off) (leBytes 4 (s.claimWord 1 0)) } }] ∧
          s.SameRegs t [F.STT_STATUS_CLAIM, F.STT_CNT0_CLAIMS] ∧
          t = { s.noted t with stt := t.stt, ring := { s.ring with flowTx := t.ring.flowTx }, swc := t.swc }) ∧
  (∀ (reason n : Nat) (s : State),
      s.Live → s.stt.claim = some (reason, n) →
        exec .claimResend s = .next (s.settle (if n + 1 = 20 then (State.sendClaim { s with stt := { s.stt with claim := some (reason, n + 1) } } reason n).raise F.STT_IRQ_CLAIMTMO
          else State.sendClaim { s with stt := { s.stt with claim := some (reason, n + 1) } } reason n))) ∧
  (∀ (s : State),
      s.Live → s.role = roleUnsync → s.copyBegun = false →
        exec .startClaim s = .next (s.settle (State.sendClaim { s with stt := { s.stt with starts := s.stt.starts + 1 } } 6 s.stt.starts))) ∧
  (∀ (init : Initiator) (word : Word) (s : State),
      s.Live → s.rd F.STT_STATUS_REF = 0 →
        exec (.claimReceived init word) s = .next (s.settle (s.refuseReg init F.STT_CLAIM_WORD.off 0x1607)) ∧
          exec (.sttOrder init word) s = .next (s.settle (s.refuseReg init F.STT_ORDER_WORD.off 0x1607))) ∧
  (∀ (init : Initiator) (word : Word) (s : State),
      s.Live → s.rd F.STT_STATUS_REF = 1 → 64 ≤ s.stt.refq.length →
        exec (.claimReceived init word) s = .next (s.settle ((s.raise F.STT_IRQ_REFOVF).ack))) ∧
  (∀ (init : Initiator) (word : Word) (st pos reason : Nat) (s : State),
      s.Live → s.rd F.STT_STATUS_REF = 1 → s.stt.refq.length < 64 → st = bits word.toNat 16 10 → pos = bits word.toNat 14 2 →
      reason = bits word.toNat 8 4 → (bit (s.pairByte st 0) 0 = false ∨ ([1, 3, 5].contains reason = true ∧ pos ≠ s.pairStandby st)) →
        exec (.claimReceived init word) s = .next (s.settle ((s.refCmd 4 st pos).refQueue word.toNat 3 0x1604).ack)) ∧
  (∀ (init : Initiator) (word : Word) (st pos reason : Nat) (s : State),
      s.Live → s.rd F.STT_STATUS_REF = 1 → s.stt.refq.length < 64 → st = bits word.toNat 16 10 → pos = bits word.toNat 14 2 →
      reason = bits word.toNat 8 4 → bit (s.pairByte st 0) 0 = true → (([1, 3, 5].contains reason = true → pos = s.pairStandby st)) →
        exec (.claimReceived init word) s = .next (s.settle (
          if [1, 3, 5].contains reason = true ∧ bit word.toNat 7 = false then ((s.refCmd 4 st pos).refQueue word.toNat 3 0x1605).ack
          else if bit (s.pairByte st 0) 1 = false then (s.refQueue word.toNat 0 0).ack
          else if [1, 3, 5].contains reason = true then ((s.refGrant st pos (s.pairActive st)).refQueue word.toNat 1 0).ack
          else if reason = 6 ∧ s.pairDesignated st = false ∧ pos = s.pairActive st then
            (((s.refCmd 3 st pos).setPair st pos (s.pairStandby st) true).refQueue word.toNat 2 0).ack
          else if reason = 6 ∧ s.pairDesignated st = false ∧ pos = s.pairStandby st ∧ 10 ≤ bits word.toNat 3 4 then
            (((s.refCmd 3 st pos).setPair st pos (s.pairActive st) true).refQueue word.toNat 2 0).ack
          else (s.refQueue word.toNat 0 0).ack))) ∧
  (∀ (init : Initiator) (word : Word) (st pos : Nat) (s : State),
      s.Live → s.rd F.STT_STATUS_REF = 1 → s.stt.refq.length < 64 → st = bits word.toNat 16 10 → pos = bits word.toNat 14 2 →
      [1, 3, 5].contains (bits word.toNat 8 4) = true → bit (s.pairByte st 0) 0 = true → bit (s.pairByte st 0) 1 = true →
      bit word.toNat 7 = true → pos = s.pairStandby st →
        ∃ t, exec (.claimReceived init word) s = .next t ∧ t.stt = { s.stt with refq := s.stt.refq ++ [(word.toNat, 1, 0)] } ∧ t.rd F.STT_IRQ_REFQ = 1 ∧
          t.pairActive st = pos ∧ t.pairStandby st = s.pairActive st ∧ t.pairDesignated st = s.pairDesignated st ∧
          t.le 4 (s.pairOff st + 2) 2 = satAdd 16 (s.le 4 (s.pairOff st + 2) 2) 1 ∧
          t.le 4 (s.pairOff st + 4) 4 = s.ring.harvest.cycle % 2 ^ 32 ∧ t.answer = .done ∧
          (∀ a : Nat, (a < memAddr 4 (s.pairOff st + 1) ∨ memAddr 4 (s.pairOff st + 8) ≤ a) → Mem.get t.mem a = Mem.get s.mem a) ∧
          s.SameRegs t [F.STT_IRQ_REFQ, F.CRL_CNT2_UNREACH] ∧
          t = { s.noted t with mem := t.mem, answer := .done, stt := t.stt, ring := t.ring, swc := t.swc }) ∧
  (∀ (init : Initiator) (word : Word) (s : State),
      s.Live → s.rd F.STT_STATUS_REF = 1 →
        exec (.sttOrder init word) s = .next (s.settle (match bits word.toNat 28 4 with
          | 1 => (s.refGrant (bits word.toNat 18 10) (bits word.toNat 14 2) (if bits word.toNat 14 2 = s.pairActive (bits word.toNat 18 10) then
            s.pairStandby (bits word.toNat 18 10) else s.pairActive (bits word.toNat 18 10))).ack
          | 3 => (s.refCmd 3 (bits word.toNat 18 10) (bits word.toNat 14 2)).ack
          | 5 => (s.refCmd 5 (bits word.toNat 18 10) (bits word.toNat 14 2)).ack
          | _ => s.ack))) ∧
  (∀ (s : State),
      s.Live →
        exec .sttRefqPop s = .next (s.settle (State.ack { s with stt := { s.stt with refq := s.stt.refq.tail } }))) ∧
  (∀ (r : Fin 4096) (s : State),
      s.Live → s.stt.referee = r → s.role = roleSync →
        ∃ t, exec (.grantReceived r r) s = .next t ∧ t.role = roleTaking ∧ t.rd F.STT_STATUS_FDRV = 1 ∧ t.rd F.STT_IRQ_ROLE = 1 ∧
          t.rd F.STT_STATUS_CLAIM = 0 ∧ t.stt.claim = none ∧ t.stt.grantTime = s.now ∧ t.stt.committed = s.stt.committed ∧ t.answer = .done ∧
          t.cans = s.cans) ∧
  (∀ (r : Fin 4096) (c : Fin 1024) (item : List Nat) (s : State),
      s.Live → s.stt.referee = r → s.role = roleSync → s.stt.shadow = [(cpKey cpContext c, item)] → s.bom.queue = [] →
      bits (leAt item 8 4) 28 4 ≠ 0 →
        ∃ t, exec (.grantReceived r r) s = .next t ∧ t.ctxState c = 6 ∧ t.sch.entries = [] ∧
          t.bom.queue.contains { code := 0x1606, kind := 2, unit := c, data := 6 } = true ∧
          t.bytes 6 (64 * c + 4) 28 = bytesAt item 12 28 ∧ t.bytes 6 (64 * c + 0x38) 8 = bytesAt item 40 8) ∧
  (∀ (r : Fin 4096) (s : State),
      s.Live → s.stt.referee = r → s.role = roleUnsync → s.stt.claim = none →
        exec (.grantReceived r r) s = .next (s.settle (State.boom (State.wr { s with stt := { s.stt with claim := none } } F.STT_STATUS_CLAIM 0)
          { code := 0x1608, kind := 2, unit := s.self, data := roleUnsync }).ack)) ∧
  (∀ (src named : Fin 4096) (s : State),
      s.Live → ¬ (src.val = s.stt.referee ∧ named.val = s.stt.referee) →
        exec (.grantReceived src named) s = .next (s.settle ((s.bump F.STT_CNT1_BADREF).refuseReg .tc4 F.STT_REFCMD_WORD.off 0x1603)) ∧
          exec (.fenceReceived src named) s = .next (s.settle ((s.bump F.STT_CNT1_BADREF).refuseReg .tc4 F.STT_REFCMD_WORD.off 0x1603)) ∧
          exec (.designateReceived src named) s = .next (s.settle ((s.bump F.STT_CNT1_BADREF).refuseReg .tc4 F.STT_REFCMD_WORD.off 0x1603)) ∧
          exec (.refuseReceived src named) s = .next (s.settle ((s.bump F.STT_CNT1_BADREF).refuseReg .tc4 F.STT_REFCMD_WORD.off 0x1603)) ∧
          exec (.promptReceived src named) s = .next (s.settle ((s.bump F.STT_CNT1_BADREF).refuseReg .tc4 F.STT_REFCMD_WORD.off 0x1603))) ∧
  (∀ (s : State),
      s.Live → s.role = roleTaking → s.stt.grantImage = none → s.alm.points.filter (fun (p : Point) => p.output && p.kind == 5) = [] →
        ∃ t, exec .takeoverComplete s = .next t ∧ t.role = roleActive ∧ t.rd F.STT_IRQ_ROLE = 1 ∧ t.rd F.STT_IRQ_TAKEOVER = 1 ∧
          t.rd F.STT_TAKE_CYC_VALUE = s.stt.committed.getD 0 % 2 ^ 32 ∧ t.rd (F.STT_TAKE_TIME 0) = ft96 s.stt.grantTime % 2 ^ 32 ∧
          t.rd (F.STT_TAKE_TIME 1) = ft96 s.stt.grantTime / 2 ^ 32 % 2 ^ 32 ∧ t.rd (F.STT_TAKE_TIME 2) = ft96 s.stt.grantTime / 2 ^ 64 % 2 ^ 32 ∧
          t.stt = { s.stt with grantImage := none, base := [], sent := [], wantFull := false } ∧
          t = { s.noted t with stt := t.stt } ∧ s.SameBlocks t [22]) ∧
  (∀ (r : Fin 4096) (s : State),
      s.Live → s.stt.referee = r → s.role = roleActive →
        ∃ t, exec (.fenceReceived r r) s = .next t ∧ t.role = roleFenced ∧ t.rd F.STT_IRQ_FENCED = 1 ∧ t.rd F.STT_IRQ_ROLE = 1 ∧
          t.rd F.STT_STATUS_RFENCE = 1 ∧ t.rd F.STT_STATUS_FDRV = 0 ∧ t.rd F.STT_HREP_SNAP = 0 ∧ t.rd F.STT_HREP_COPY = 0 ∧ t.rd (portLfF 4) = 0 ∧
          t.stt = { s.stt with resigning := false, starts := 0, shadow := [], committed := none } ∧
          t.slc.fence = some (packBits 32 (fun n => (s.fastPad n).isSome), packBits 32 (fun n => s.fastPad n == some true)) ∧ t.slc.fencePins = some s.heldPins ∧ t.answer = .done ∧ t.mem = s.mem) ∧
  (∀ (r : Fin 4096) (s : State),
      s.Live → s.stt.referee = r → s.role ≠ roleActive → s.role ≠ roleTaking →
        exec (.fenceReceived r r) s = .next (s.settle s.ack)) ∧
  (∀ (r : Fin 4096) (s : State),
      s.Live → s.stt.referee = r → s.role = roleUnsync →
        ∃ t, exec (.designateReceived r r) s = .next t ∧ t.role = roleActive ∧ t.rd F.STT_IRQ_ROLE = 1 ∧ t.rd F.STT_STATUS_CLAIM = 0 ∧
          t.stt = { s.stt with claim := none, starts := 0, base := [], sent := [] } ∧
          t = { s.noted t with stt := t.stt, answer := .done } ∧
          s.SameRegs t [F.STT_STATUS_ROLE, F.STT_IRQ_ROLE, F.STT_STATUS_CLAIM]) ∧
  (∀ (r : Fin 4096) (s : State),
      s.Live → s.stt.referee = r →
        ∃ t, exec (.refuseReceived r r) s = .next t ∧ t.rd F.STT_IRQ_CLAIMREF = 1 ∧ t.rd F.STT_STATUS_CLAIM = 0 ∧ t.stt = { s.stt with claim := none } ∧
          t = { s.noted t with stt := t.stt, answer := .done } ∧ s.SameRegs t [F.STT_IRQ_CLAIMREF, F.STT_STATUS_CLAIM]) ∧
  (∀ (s : State),
      s.Live →
        exec .fenceHoldExpiry s = .next (s.settle { s with slc := { s.slc with fence := none, fencePins := none } })) ∧
  (∀ (init : Initiator) (s : State),
      s.Live → s.role ≠ roleActive →
        exec (.resign init) s = .next (s.settle (s.refuseReg init F.STT_CTL_FREL.off 0x1602)) ∧
          exec (.frel init) s = .next (s.settle (s.refuseReg init F.STT_CTL_FREL.off 0x1602)) ∧
          exec (.resync init) s = .next (s.settle (if s.role = roleNone then s.refuseReg init F.STT_CTL_FREL.off 0x1602 else s.ack))) ∧
  (∀ (init : Initiator) (s : State),
      s.Live → s.role = roleActive → portDown s 4 = false →
        exec (.resign init) s = .next (s.settle ((State.raise (State.raise (State.wr { s with stt := { s.stt with resigning := true } } (portStateF 4) 0) (portLfF 4)) F.STT_IRQ_STLINK).ack)) ∧
          exec (.frel init) s = .next (s.settle (s.wr F.STT_STATUS_FDRV 0).ack) ∧
          exec (.resync init) s = .next (s.settle (State.ack { s with stt := { s.stt with wantFull := true } }))) ∧
  (∀ (b : Fin 16) (port : Fin 8) (s : State),
      s.Live → (s.role = roleUnsync ∨ s.role = roleSync) →
        (s.hvLink = true → s.fld.loopback = none → exec (.standbySelfTestStart (some b) port) s = .next (s.settle (s.fldLb .yarder false (2 ^ b.val)))) ∧
          (s.bom.test = none → scanExclusive s port = false →
            exec (.standbySelfTestStart none port) s = .next (s.settle { s with bom := { s.bom with test := some (2, port.val, true) } }))) ∧
  (∀ (bank : Option (Fin 16)) (port : Fin 8) (s : State),
      s.Live → s.role ≠ roleUnsync → s.role ≠ roleSync →
        exec (.standbySelfTestStart bank port) s = .next (s.settle s))

/-- A fault sets its class, counts and is captured first; the reaction records, notifies or isolates, UE and LOCK at least notifying. A
double error poisons its word; an injection strikes the first read. Tests start, end and rotate. Records queue and are written whole;
marks are set, freed, overtaken and rewound to; EVENT frames carry the stream. The Boom's bytes read back; other forms of access give
0x1A06. -/
def Obligations.FaultsAndBoom : Prop :=
  (∀ (subsys : Fin 27) (cls : Fin 7) (s : State),
      s.Live → assigned subsys = true → classGiven subsys cls = true → s.reaction subsys cls = 0 → s.rd F.BOM_FIRST_CAPT = 0 →
      s.together = 0 →
        ∃ t, exec (.faultDetected subsys cls none) s = .next t ∧ t.rd (F.BOM_FWs_CLASS subsys) = setBit (s.rd (F.BOM_FWs_CLASS subsys)) cls true % 2 ^ 7 ∧
          t.rd (F.BOM_FWs_COUNT subsys) = satAdd (F.BOM_FWs_COUNT subsys).w (s.rd (F.BOM_FWs_COUNT subsys)) 1 ∧ t.rd F.BOM_FIRST_CAPT = 1 ∧
          t.rd F.BOM_FIRST_SUBSYS = subsys.val ∧ t.rd F.BOM_FIRST_CLASS = cls.val ∧ t.rd (F.BOM_FIRST_T_TIME 0) = s.stamp % 2 ^ 32 ∧
          t.rd (F.BOM_FIRST_T_TIME 1) = s.stamp / 2 ^ 32 % 2 ^ 32 ∧ t.rd (F.BOM_FIRST_T_TIME 2) = s.stamp / 2 ^ 64 % 2 ^ 32 ∧
          t = s.noted t ∧ s.SameRegs t [F.BOM_FWs_CLASS subsys, F.BOM_FWs_COUNT subsys, F.BOM_FIRST_CAPT,
          F.BOM_FIRST_SUBSYS, F.BOM_FIRST_CLASS, F.BOM_FIRST_T_TIME 0, F.BOM_FIRST_T_TIME 1, F.BOM_FIRST_T_TIME 2]) ∧
  (∀ (subsys : Fin 27) (cls : Fin 7) (unit : Option (Fin 256)) (s : State),
      s.Live → assigned subsys = true → classGiven subsys cls = true → s.reaction subsys cls = 2 → s.rd F.BOM_FIRST_CAPT ≠ 0 →
      s.together = 0 → s.cycle = [] → s.bom.queue.length < 16 →
        ∃ t, exec (.faultDetected subsys cls unit) s = .next t ∧ t.rd F.BOM_IRQ_FAULT = 1 ∧ t.rd F.BOM_FIRST_OVF = 1 ∧
          t.bom = { s.bom with queue := s.bom.queue ++ [{ code := 0x1A10 + cls, kind := 1, unit := subsys }] } ∧
          t.rd (F.BOM_FWs_CLASS subsys) = setBit (s.rd (F.BOM_FWs_CLASS subsys)) cls true % 2 ^ 7 ∧
          t = { s.noted t with bom := t.bom } ∧
          s.SameRegs t [F.BOM_FWs_CLASS subsys, F.BOM_FWs_COUNT subsys, F.BOM_FIRST_OVF, F.BOM_IRQ_FAULT]) ∧
  (∀ (cls : Fin 7) (u : Fin 16) (s : State),
      s.Live → classGiven 0x13 cls = true → s.reaction 0x13 cls = 3 → s.cycle = [] → s.bom.queue.length < 16 →
        ∃ t, exec (.faultDetected 0x13 cls (some ⟨u.val, by omega⟩)) s = .next t ∧ t.rd F.DMX_CTL_ENG_EN = setBit (s.rd F.DMX_CTL_ENG_EN) u false % 2 ^ 16 ∧
          t.rd F.BOM_IRQ_FAULT = 1 ∧ t.bom.queue = s.bom.queue ++ [{ code := 0x1A10 + cls, kind := 1, unit := 0x13 }]) ∧
  (∀ (subsys : Fin 27) (cls : Fin 7) (unit : Option (Fin 256)) (s : State),
      s.Live → (assigned subsys && classGiven subsys cls) = false →
        exec (.faultDetected subsys cls unit) s = .next (s.settle s)) ∧
  (∀ (region : Fin 18) (off : BitVec 40) (s : State),
      s.Live → s.bom.injected.get? (wordOf (memAddr region off.toNat)) = none →
        exec (.memoryError region off false) s = .next (s.settle (s.fault (memOwner (memAddr region off.toNat)) 0 false)) ∧
          exec (.memoryError region off true) s = .next (s.settle (State.fault
            { s with bom := { s.bom with poisoned := wordOf (memAddr region off.toNat) :: s.bom.poisoned.filter (fun x => x != wordOf (memAddr region off.toNat)) } }
            (memOwner (memAddr region off.toNat)) 1 false)) ∧
          exec (.scrub region off) s = .next (s.settle s)) ∧
  (∀ (region : Fin 18) (off : BitVec 40) (n : Nat) (s : State),
      s.Live → s.bom.injected.get? (wordOf (memAddr region off.toNat)) = some n →
        ∃ t, exec (.scrub region off) s = .next t ∧ t.bom.injected.get? (wordOf (memAddr region off.toNat)) = none ∧
          t.rd (F.BOM_FWs_INJ (memOwner (memAddr region off.toNat))) = 1 ∧ t.bom.poisoned.contains (wordOf (memAddr region off.toNat)) =
            (if n = 1 then s.bom.poisoned.contains (wordOf (memAddr region off.toNat)) else true) ∧ t.mem = s.mem) ∧
  (∀ (pair : Fin 2) (s : State),
      s.Live →
        exec (.lockstepMismatch pair) s = .next (s.settle (State.fault (State.bump (State.raise { s with stt := { s.stt with lockMiss := true } }
          (if pair.val = 0 then F.GLB_LOCKSTEP_PAIR0 else F.GLB_LOCKSTEP_PAIR1)) F.GLB_LOCKSTEP_COUNT) 0 3 false))) ∧
  (∀ (subsys : BitVec 5) (double : Bool) (s : State),
      s.Live →
        ∃ t, exec (.bomInj subsys double) s = .next t ∧ t.rd F.BOM_INJ_SUBSYS = subsys.toNat ∧ t.rd F.BOM_INJ_DOUBLE = b2n double ∧
          t.rd F.BOM_INJ_ARMED = 1 ∧ t.rd F.BOM_STAT_INJLOST = (if s.rd F.BOM_INJ_ARMED = 0 then s.rd F.BOM_STAT_INJLOST
            else satAdd F.BOM_STAT_INJLOST.w (s.rd F.BOM_STAT_INJLOST) 1) ∧ t.answer = .done ∧
          t = { s.noted t with answer := .done } ∧
          s.SameRegs t [F.BOM_INJ_SUBSYS, F.BOM_INJ_DOUBLE, F.BOM_INJ_ARMED, F.BOM_STAT_INJLOST]) ∧
  (∀ (init : Initiator) (s : State),
      s.Live → s.bom.test = none →
        ∃ t, exec (.mbist init) s = .next t ∧ t.bom = { s.bom with test := some (1, s.rd F.BOM_TEST_PORT, false) } ∧ t.rd F.BOM_TEST_OP = 1 ∧
          t.rd F.BOM_TEST_RES_VALID = 0 ∧ t.rd F.BOM_TEST_RES_SEQ = (s.rd F.BOM_TEST_RES_SEQ + 1) % 256 ∧ t.answer = .done ∧
          t = { s.noted t with answer := .done, bom := t.bom } ∧ s.SameRegs t [F.BOM_TEST_OP, F.BOM_TEST_PORT,
          F.BOM_TEST_MAINT, F.BOM_TEST_RES_VALID, F.BOM_TEST_RES_SEQ, F.BOM_TEST_RES_STALE]) ∧
  (∀ (init : Initiator) (s : State),
      s.Live → s.bom.test = none →
        ∃ t, exec (.hvLaneTest init) s = .next t ∧ t.bom = { s.bom with test := some (3, s.rd F.BOM_TEST_PORT, false) } ∧ t.rd F.BOM_TEST_OP = 3 ∧
          t.rd F.BOM_TEST_RES_VALID = 0 ∧ t.rd F.BOM_TEST_RES_SEQ = (s.rd F.BOM_TEST_RES_SEQ + 1) % 256 ∧ t.answer = .done ∧
          t = { s.noted t with answer := .done, bom := t.bom } ∧ s.SameRegs t [F.BOM_TEST_OP, F.BOM_TEST_PORT,
          F.BOM_TEST_MAINT, F.BOM_TEST_RES_VALID, F.BOM_TEST_RES_SEQ, F.BOM_TEST_RES_STALE]) ∧
  (∀ (init : Initiator) (port : Fin 8) (maint : Bool) (s : State),
      s.Live → s.bom.test = none →
        ∃ t, exec (.serdesMarginScan init port maint) s = .next t ∧ t.answer = .done ∧
          t.rd F.BOM_TEST_RES_SEQ = (s.rd F.BOM_TEST_RES_SEQ + 1) % 256 ∧ t.rd F.BOM_TEST_PORT = port.val ∧ t.rd F.BOM_TEST_OP = 2 ∧ t.rd F.BOM_TEST_MAINT = b2n maint ∧
          (if scanExclusive s port = true ∧ maint = false ∧ s.twinCode ≠ 2 ∧ s.twinCode ≠ 3
            then t.bom.test = none ∧ t.rd F.BOM_TEST_RES_VALID = 1 ∧ t.rd F.BOM_TEST_RES_CODE = 0x1A03
            else t.bom.test = some (2, port.val, false) ∧ t.rd F.BOM_TEST_RES_VALID = 0) ∧
          t = { s.noted t with answer := .done, bom := { s.bom with test := t.bom.test } } ∧ s.SameBlocks t [26]) ∧
  (∀ (init : Initiator) (op port : Nat) (s : State),
      s.Live → s.bom.test = some (op, port, false) → s.rd F.GLB_ACC_ERR_CAPT = 0 →
        ∃ t, exec (.mbist init) s = .next t ∧ t.bom = s.bom ∧ t.rd F.GLB_ACC_ERR_CAPT = 1 ∧ t.rd F.GLB_ACC_ERR_CODE = 0x1A04 ∧
          t.rd F.BOM_TEST_RES_SEQ = s.rd F.BOM_TEST_RES_SEQ ∧ t.rd F.BOM_TEST_RES_VALID = s.rd F.BOM_TEST_RES_VALID) ∧
  (∀ (failed : Bool) (memory : Fin 27) (op port : Nat) (s : State),
      s.Live → s.bom.test = some (op, port, false) → 1 ≤ op → op ≤ 3 → port < 8 →
        ∃ t, exec (.selfTestComplete failed memory) s = .next t ∧ t.bom.test = none ∧ t.rd F.BOM_IRQ_TEST = 1 ∧ t.rd F.BOM_TEST_RES_VALID = 1 ∧
          t.rd F.BOM_TEST_RES_CODE = (if failed then 0x1A08 else 0) ∧ t.rd F.STT_HREP_MBIST = (if op = 1 then b2n (!failed) else s.rd F.STT_HREP_MBIST) ∧
          t.rd F.STT_HREP_SERDES = (if op = 2 then b2n (!failed) else s.rd F.STT_HREP_SERDES) ∧ t.bom.bgFailed = s.bom.bgFailed ∧
          (failed = true → bit (t.rd (F.BOM_FWs_CLASS (testSubsys op port memory))) 5 = true) ∧
          t = { s.noted t with bom := t.bom } ∧ s.SameBlocks t [22, 26]) ∧
  (∀ (memory : Fin 27) (op port : Nat) (s : State),
      s.Live → s.bom.test = some (op, port, true) → op = 3 →
        exec (.selfTestComplete false memory) s = .next (s.settle (State.raise { s with bom := { s.bom with test := none, bgFailed := setBit s.bom.bgFailed 1 false } } F.BOM_IRQ_TEST))) ∧
  (∀ (s : State),
      s.Live → s.rd F.BOM_CTL_BG_EN = 1 → s.bom.test = none → s.bom.rotation ≤ 1 →
        exec .backgroundTestRotation s = .next (s.settle
          { s with bom := { s.bom with test := some (if s.bom.rotation = 0 then 1 else 3, 0, true), rotation := s.bom.rotation + 1 } })) ∧
  (∀ (r : BoomRec) (l : List BoomRec) (s : State),
      s.Live → s.bom.queue = r :: l → r.kind < 256 → r.flags < 256 → s.rd F.BOM_WPTR_INDEX < 2 ^ 32 →
        ∃ t, exec .boomRecordWrite s = .next t ∧ t.bom = { s.bom with queue := l, lost := s.bom.lost + (oldestOf (s.rd F.BOM_WPTR_INDEX + 1) - s.rd F.BOM_SCUR_INDEX) } ∧ t.rd F.BOM_WPTR_INDEX = (s.rd F.BOM_WPTR_INDEX + 1) % 2 ^ 32 ∧
          t.bytes 5 (32 * (s.rd F.BOM_WPTR_INDEX % 32768)) 32 = s.boomBytes r ∧
          t = { s.noted t with mem := t.mem, bom := t.bom } ∧ s.SameBlocks t [26] ∧
          (∀ a : Nat, (a < memAddr 5 (32 * (s.rd F.BOM_WPTR_INDEX % 32768)) ∨ memAddr 5 (32 * (s.rd F.BOM_WPTR_INDEX % 32768)) + 32 ≤ a) → Mem.get t.mem a = Mem.get s.mem a)) ∧
  (∀ (n : Fin 8) (r : BoomRec) (l : List BoomRec) (s : State),
      s.Live → s.bom.queue = r :: l → s.rd (F.BOM_MARKn_ST_ST n) = 1 →
      s.rd F.BOM_WPTR_INDEX = s.rd (F.BOM_MARKn_IDX_INDEX n) + 32768 → s.rd F.BOM_WPTR_INDEX + 1 < 2 ^ 32 →
        ∃ t, exec .boomRecordWrite s = .next t ∧ t.rd (F.BOM_MARKn_ST_ST n) = 2 ∧ t.rd F.BOM_IRQ_OVT = 1) ∧
  (∀ (n : Fin 8) (s : State),
      s.Live → s.bom.queue.length < 16 → s.together = 0 → s.cycle = [] →
        ∃ t, exec (.mark n) s = .next t ∧ t.rd (F.BOM_MARKn_ST_ST n) = 1 ∧ t.rd (F.BOM_MARKn_IDX_INDEX n) = s.rd F.BOM_WPTR_INDEX % 2 ^ 32 ∧
          t.bom = { s.bom with queue := s.bom.queue ++ [{ code := 0x1A09, kind := 6, unit := n, data := s.rd F.BOM_WPTR_INDEX }] } ∧
          t.rd F.BOM_CMD_RES_VALID = 1 ∧ t.rd F.BOM_CMD_RES_CODE = 0 ∧ t.rd F.BOM_CMD_RES_SEQ = (s.rd F.BOM_CMD_RES_SEQ + 1) % 256 ∧ t.answer = .done ∧
          t = { s.noted t with answer := .done, bom := t.bom } ∧ s.SameRegs t [F.BOM_CMD_OP, F.BOM_CMD_MARK,
          F.BOM_MARKn_ST_ST n, F.BOM_MARKn_IDX_INDEX n, F.BOM_CMD_RES_VALID, F.BOM_CMD_RES_CODE, F.BOM_CMD_RES_SEQ, F.BOM_CMD_RES_STALE]) ∧
  (∀ (n : Fin 8) (s : State),
      s.Live →
        ∃ t, exec (.free n) s = .next t ∧ t.rd (F.BOM_MARKn_ST_ST n) = 0 ∧ t.rd F.BOM_CMD_RES_VALID = 1 ∧ t.rd F.BOM_CMD_RES_CODE = 0 ∧
          t = { s.noted t with answer := .done } ∧ s.SameRegs t [F.BOM_CMD_OP, F.BOM_CMD_MARK,
          F.BOM_MARKn_ST_ST n, F.BOM_CMD_RES_VALID, F.BOM_CMD_RES_CODE, F.BOM_CMD_RES_SEQ, F.BOM_CMD_RES_STALE]) ∧
  (∀ (n : Fin 8) (s : State),
      s.Live →
        ∃ t, exec (.rewind n) s = .next t ∧ t.rd F.BOM_CMD_RES_VALID = 1 ∧
          (if s.rd (F.BOM_MARKn_ST_ST n) = 1 ∧ s.overtakes s.wptrNext n = false then t.rd F.BOM_CMD_RES_CODE = 0 ∧ t.rd F.BOM_REW_IDX_INDEX = s.rd (F.BOM_MARKn_IDX_INDEX n) % 2 ^ 32 ∧
            t.rd F.BOM_SCUR_INDEX = s.rd (F.BOM_MARKn_IDX_INDEX n) % 2 ^ 32
           else if s.rd (F.BOM_MARKn_ST_ST n) = 1 ∨ s.rd (F.BOM_MARKn_ST_ST n) = 2 then t.rd F.BOM_CMD_RES_CODE = 0x1A01 ∧ t.rd F.BOM_REW_IDX_INDEX = oldestOf s.wptrNext % 2 ^ 32 ∧
            t.rd F.BOM_SCUR_INDEX = oldestOf s.wptrNext % 2 ^ 32
           else t.rd F.BOM_CMD_RES_CODE = 0x1A02 ∧ t.rd F.BOM_REW_IDX_INDEX = s.rd F.BOM_REW_IDX_INDEX ∧ t.rd F.BOM_SCUR_INDEX = s.rd F.BOM_SCUR_INDEX) ∧
          t = { s.noted t with answer := .done } ∧ s.SameRegs t [F.BOM_CMD_OP, F.BOM_CMD_MARK,
          F.BOM_REW_IDX_INDEX, F.BOM_SCUR_INDEX, F.BOM_CMD_RES_VALID, F.BOM_CMD_RES_CODE, F.BOM_CMD_RES_SEQ, F.BOM_CMD_RES_STALE]) ∧
  (∀ (unit code : BitVec 16) (s : State),
      s.Live → s.bom.queue.length < 16 → s.cycle = [] →
        exec (.bomFwrec unit code) s = .next (s.settle (State.ack (s.boom ⟨code.toNat, 5, 0, unit.toNat, 0, s.rd64 F.BOM_FWREC_DATA_LO_DATA F.BOM_FWREC_DATA_HI_DATA, 0⟩))) ∧
          (s.boom ⟨code.toNat, 5, 0, unit.toNat, 0, s.rd64 F.BOM_FWREC_DATA_LO_DATA F.BOM_FWREC_DATA_HI_DATA, 0⟩).bom = { s.bom with queue := s.bom.queue ++ [⟨code.toNat, 5, 0, unit.toNat, 0, s.rd64 F.BOM_FWREC_DATA_LO_DATA F.BOM_FWREC_DATA_HI_DATA, 0⟩] }) ∧
  (∀ (unit code : BitVec 16) (s : State),
      s.Live → s.bom.queue.length = 16 → s.cycle = [] →
        exec (.bomFwrec unit code) s = .next (s.settle ((s.bump F.BOM_STAT_QLOST).raise F.BOM_IRQ_QLOST).ack)) ∧
  (∀ (next i : Nat) (l : List Nat) (s : State),
      s.Live → s.rd F.BOM_CTL_STREAM_EN = 1 → oldestOf s.wptrNext ≤ s.rd F.BOM_SCUR_INDEX → s.eventDue (i :: l) = true →
      s.streamFrom 32769 63 (s.rd F.BOM_SCUR_INDEX) = (next, i :: l) →
        ∃ t, exec .eventFrameSend s = .next t ∧ t.rd F.BOM_SCUR_INDEX = next % 2 ^ 32 ∧ t.bom = { s.bom with lost := 0 } ∧
          t = { s.send 9 { typ := 0xA, tc := 2, dest := 4, payload := (leBytes 2 (l.length + 1) ++ leBytes 2 (b2n (s.bom.lost != 0)) ++ leBytes 4 i ++ leBytes 4 s.bom.lost ++ leBytes 4 0) ++ ((i :: l).map s.boomRecord).flatten } with regs := t.regs, egress := t.egress, cycle := t.cycle, together := t.together, bom := t.bom } ∧ s.SameRegs t [F.BOM_SCUR_INDEX, F.CRL_CNT2_UNREACH]) ∧
  (∀ (init : Initiator) (off : BitVec 20) (len : Nat) (en : Bool) (s : State),
      s.Live → off.toNat + len ≤ 0x100000 → s.cycle = [] →
        (boomForm off.toNat len en = false → exec (.boomRead init off ⟨len, en⟩) s = .next (s.settle (s.refuse init (s.ownFa 5 off.toNat) 0x1A06))) ∧
          (boomForm off.toNat len en = true → s.bom.injected = [] → s.bom.poisoned = [] → exec (.boomRead init off ⟨len, en⟩) s = .next (s.settle (s.give (s.bytes 5 off.toNat len))))) ∧
  (∀ (init : Initiator) (s : State),
      s.Live → s.bom.injected = [] → s.bom.poisoned = [memAddr 5 0x48] → s.cycle = [] →
        exec (.boomRead init 0x40 ⟨32, true⟩) s = .next (s.settle (s.refuse init (s.ownFa 5 0x40) 0x1A05)) ∧
          exec (.boomRead init 0x50 ⟨16, true⟩) s = .next (s.settle (s.give (s.bytes 5 0x50 16))))

/-- An idle power slice goes to the deepest state that MAXST, its units and the next event allow; one that R431 holds is in HIBERNATE. A
wake starts where it is not held, and completes in RUN: NAP keeps what is not stale, HIBERNATE is restored, held triggers take effect with
WAKELATE. A list is checked when it is written. STANDBY stops the engines and writes the queue out, or is refused. -/
def Obligations.PowerAndStandby : Prop :=
  (∀ (slice : Fin 64) (st : Nat) (s : State),
      s.Live → s.power slice = pRun → s.rousedNow slice = false → s.powerHeld slice = false → s.rd F.PWR_CTL_GOV_EN = 1 →
      s.sleepState slice = some st → 1 ≤ st → st ≤ 3 →
        ∃ t, exec (.powerSliceIdle slice) s = .next t ∧ t.power slice = st ∧ (∀ n : Nat, n < 64 → n ≠ slice.val → t.power n = s.power n) ∧
          t.pwr.stamps = (if st = pNap then s.pwr.stamps.insert slice (s.rd (F.PWR_Sn_STAT_RSEQ slice)) else s.pwr.stamps) ∧
          t.rd (F.PWR_Sn_CNT_DOZE slice) = (if st = pDoze then satAdd (F.PWR_Sn_CNT_DOZE slice).w (s.rd (F.PWR_Sn_CNT_DOZE slice)) 1 else s.rd (F.PWR_Sn_CNT_DOZE slice)) ∧
          t.rd (F.PWR_Sn_CNT_NAP slice) = (if st = pNap then satAdd (F.PWR_Sn_CNT_NAP slice).w (s.rd (F.PWR_Sn_CNT_NAP slice)) 1 else s.rd (F.PWR_Sn_CNT_NAP slice)) ∧
          t.rd (F.PWR_Sn_CNT_HIB slice) = (if st = pHibernate then satAdd (F.PWR_Sn_CNT_HIB slice).w (s.rd (F.PWR_Sn_CNT_HIB slice)) 1 else s.rd (F.PWR_Sn_CNT_HIB slice)) ∧
          t.pwr.pins = (s.keepPins slice).pwr.pins ∧ t = { s.noted t with pwr := { s.pwr with stamps := t.pwr.stamps, pins := t.pwr.pins } } ∧
          s.SameRegs t [F.PWR_Sn_STAT_STATE slice, F.PWR_Sn_CNT_DOZE slice, F.PWR_Sn_CNT_NAP slice, F.PWR_Sn_CNT_HIB slice]) ∧
  (∀ (slice : Fin 64) (s : State),
      s.Live → s.power slice = pRun → s.rousedNow slice = false → s.powerHeld slice = true →
        exec (.powerSliceIdle slice) s = .next (s.settle (((s.keepPins slice).wr (F.PWR_Sn_STAT_STATE slice) 3).bump (F.PWR_Sn_CNT_HIB slice))) ∧
          exec (.wakeStart slice) s = .next (s.settle s)) ∧
  (∀ (slice : Fin 64) (s : State),
      s.Live → s.power slice = pRun → s.powerHeld slice = false → (s.rd F.PWR_CTL_GOV_EN = 0 ∨ s.sleepState slice = none) →
        exec (.powerSliceIdle slice) s = .next (s.settle s)) ∧
  (∀ (slice : Fin 64) (d : Nat) (s : State),
      s.Live → s.deepest slice = some d →
        ∀ st : Nat, s.sleepState slice = some st → st ≤ d ∧ 1 ≤ st ∧ s.wakesInTime slice st = true ∧
          (∀ r : Nat, st < r → r ≤ d → r ≤ 3 → s.wakesInTime slice r = false)) ∧
  (∀ (slice : Fin 64) (s : State),
      s.Live → s.powerHeld slice = false → s.power slice ≠ pRun → s.pwr.waking.contains slice.val = false →
        exec (.wakeStart slice) s = .next (s.settle (State.mark { s with pwr := { s.pwr with waking := s.pwr.waking ++ [slice.val] } } (.roused slice)))) ∧
  (∀ (slice : Fin 64) (pin : Fin 16) (s : State),
      s.Live →
        exec (.wakeOnEdge slice pin) s = .next (s.settle (if bit (s.rd (F.PWR_Sn_CFG_WOE slice)) pin = true then
          (if s.powerHeld slice = true then s
            else if s.power slice = pRun ∨ s.pwr.waking.contains slice.val = true then s.mark (.roused slice)
            else State.mark { s with pwr := { s.pwr with waking := s.pwr.waking ++ [slice.val] } } (.roused slice)) else s))) ∧
  (∀ (slice : Fin 64) (s : State),
      s.Live → s.pwr.waking.contains slice.val = true → s.pwr.held = [] →
      (s.power slice = pDoze ∨ (s.power slice = pNap ∧ s.napStale slice = false)) →
        ∃ t, exec (.wakeComplete slice) s = .next t ∧ t.power slice = pRun ∧ t.pwr = { s.pwr with waking := s.pwr.waking.filter (· != slice.val), stamps := s.pwr.stamps.erase slice, pins := s.pwr.pins.filter (fun p => !((s.powerPins slice).contains p.1)) } ∧
          t.rd (F.PWR_Sn_STAT_STALE slice) = (if s.power slice = pNap then 0 else s.rd (F.PWR_Sn_STAT_STALE slice)) ∧
          t = { s.noted t with pwr := t.pwr } ∧ s.SameRegs t [F.PWR_Sn_STAT_STATE slice, F.PWR_Sn_STAT_STALE slice]) ∧
  (∀ (slice : Fin 64) (s : State),
      s.Live → s.pwr.waking.contains slice.val = true → s.pwr.held = [] → s.power slice = pHibernate → powerPorts slice = [] →
      (s.reloadList slice).2 = false →
        ∃ t, exec (.wakeComplete slice) s = .next t ∧ t.power slice = pRun ∧ t.rd (F.PWR_Sn_STAT_STALE slice) = 1 ∧
          t.pwr = { s.pwr with waking := s.pwr.waking.filter (· != slice.val), stamps := s.pwr.stamps.erase slice, pins := s.pwr.pins.filter (fun p => !((s.powerPins slice).contains p.1)) } ∧
          t = { s.noted t with pwr := t.pwr } ∧ s.SameRegs t [F.PWR_Sn_STAT_STATE slice, F.PWR_Sn_STAT_STALE slice]) ∧
  (∀ (slice : Fin 64) (s : State),
      s.Live → s.pwr.waking.contains slice.val = true → s.pwr.held = [] → s.power slice = pNap → s.napStale slice = true →
      powerPorts slice = [] → (s.reloadList slice).2 = false →
        ∃ t, exec (.wakeComplete slice) s = .next t ∧ t.power slice = pRun ∧ t.rd (F.PWR_Sn_STAT_STALE slice) = 1 ∧ t.rd F.PWR_IRQ_STALE = 1 ∧
          t.rd F.PWR_CNT_STALE = satAdd F.PWR_CNT_STALE.w (s.rd F.PWR_CNT_STALE) 1 ∧ t.pwr = { s.pwr with waking := s.pwr.waking.filter (· != slice.val), stamps := s.pwr.stamps.erase slice, pins := s.pwr.pins.filter (fun p => !((s.powerPins slice).contains p.1)) } ∧
          t = { s.noted t with pwr := t.pwr }) ∧
  (∀ (slice : Fin 64) (h : HeldTrigger) (s : State),
      s.Live → s.pwr.waking.contains slice.val = true → s.pwr.held = [h] → h.slice = slice.val → h.kind = 6 →
      s.bom.queue.length < 16 → s.cycle = [] → s.power slice = pDoze →
        ∃ t, exec (.wakeComplete slice) s = .next t ∧ t.power slice = pRun ∧ t.pwr = { s.pwr with waking := s.pwr.waking.filter (· != slice.val), stamps := s.pwr.stamps.erase slice, held := [], pins := s.pwr.pins.filter (fun p => !((s.powerPins slice).contains p.1)) } ∧
          t.rd F.PWR_IRQ_WAKELATE = 1 ∧ t.rd F.PWR_CNT_WAKELATE = satAdd F.PWR_CNT_WAKELATE.w (s.rd F.PWR_CNT_WAKELATE) 1 ∧
          t.rd (F.PWR_Sn_CNT_WAKELATE slice) = satAdd (F.PWR_Sn_CNT_WAKELATE slice).w (s.rd (F.PWR_Sn_CNT_WAKELATE slice)) 1 ∧
          (∃ u : State, u.rd F.PWR_CNT_WAKELATE = t.rd F.PWR_CNT_WAKELATE ∧ u.power slice = pRun ∧ u.mem = s.mem ∧ u.bom.queue = s.bom.queue ++
            [{ code := 0, kind := 2, unit := slice, data := (s.clk - h.clk) * 4 / 5, writer := 0x17 }] ∧ t = s.settle (u.sliceStart h.unit))) ∧
  (∀ (init : Initiator) (slice : Fin 64) (off : BitVec 22) (s : State),
      s.Live → s.listValid slice off.toNat = true →
        ∃ t, exec (.pwrListWrite init slice off) s = .next t ∧ t.rd (F.PWR_Sn_LIST_OFFSET slice) = off.toNat ∧ t.rd (F.PWR_Sn_STAT_LISTOK slice) = 1 ∧
          t.answer = .done ∧ t = { s.noted t with answer := .done } ∧
          s.SameRegs t [F.PWR_Sn_LIST_OFFSET slice, F.PWR_Sn_STAT_LISTOK slice]) ∧
  (∀ (init : Initiator) (slice : Fin 64) (off : BitVec 22) (s : State),
      s.Live → s.listValid slice off.toNat = false → s.rd F.GLB_ACC_ERR_CAPT = 0 →
        ∃ t, exec (.pwrListWrite init slice off) s = .next t ∧ t.rd (F.PWR_Sn_LIST_OFFSET slice) = off.toNat ∧ t.rd (F.PWR_Sn_STAT_LISTOK slice) = 0 ∧
          t.rd F.PWR_IRQ_LISTBAD = 1 ∧ t.rd F.GLB_ACC_ERR_CAPT = 1 ∧ t.rd F.GLB_ACC_ERR_CODE = 0x1703 ∧ t.answer = .done ∧
          t = { s.noted t with answer := .done }) ∧
  (∀ (s : State),
      s.Live → ((∃ p : Fin 7, portDown s p = false) ∨ s.role = roleActive ∨ s.role = roleTaking) →
        ∃ t, exec .standby s = .next t ∧ t.pwr = s.pwr ∧ t.rd F.PWR_RES_VALID = 1 ∧ t.rd F.PWR_RES_CODE = 0x1702 ∧
          t.rd F.PWR_RES_SEQ = (s.rd F.PWR_RES_SEQ + 1) % 256 ∧ t = { s.noted t with answer := .done } ∧
          s.SameRegs t [F.PWR_RES_VALID, F.PWR_RES_CODE, F.PWR_RES_SEQ, F.PWR_RES_STALE]) ∧
  (∀ (s : State),
      s.Live → (∀ p : Fin 7, portDown s p = true) → s.role ≠ roleActive → s.role ≠ roleTaking →
        ∃ t, exec .standby s = .next t ∧ t.pwr = { s.pwr with standby := true, since := s.clk } ∧ t.bom.queue = [] ∧ t.rd F.PWR_RES_VALID = 1 ∧ t.rd F.PWR_RES_CODE = 0 ∧
          t.rd F.BOM_WPTR_INDEX = (s.rd F.BOM_WPTR_INDEX + s.bom.queue.length) % 2 ^ 32 ∧ t.hvLink = false ∧ t.answer = .done ∧
          (∀ n : Fin 48, t.rd (F.PSL_Sn_CTL_EN n) = 0) ∧ (∀ c : Fin 16, t.rd (F.CAN_Cc_CTL_EN c) = 0) ∧ (∀ n : Fin 128, t.rd (F.SAW_Sn_CTL_EN n) = 0) ∧
          t.sec.slots = s.sec.slots)

/-- The three stages of a start hand on or divert, by what verifies. An engine image is loaded or refused with the first check it fails.
INSTALL writes what it does not refuse; SVNRAISE raises a floor; KEYREC takes what is signed. Net recovery joins in quarantine. Recovery
packets are answered; a repeated SEQ is answered again without effect; HALT takes no download. What verifies rests on the free functions
of log entry 9. -/
def Obligations.BootUpdateRecovery : Prop :=
  (∀ (s : State),
      s.Live → s.rd F.UPD_BOOT_STAGE = 0 → s.rd F.VGL_STATUS_TLATCH = 0 →
      setBits (Nat.land (s.rd F.VGL_STATUS_ACTIVE) s.tamperEn) 8 = [] →
        ∃ t, exec .bootVigilStage s = .next t ∧ t.rd F.UPD_BOOT_STAGE = 1 ∧ t.rd F.UPD_BOOT_CODE = 0 ∧ t.rd F.KEY_STATUS_ROOT_OK = b2n (hasRoot s.lc) ∧
          t = { s.noted t with freeCtr := s.freeCtr + 4 } ∧ s.SameRegs t [F.UPD_BOOT_STAGE, F.UPD_BOOT_CODE,
          F.KEY_STATUS_ROOT_OK, F.KEY_LC_NONCE_NONCE 0, F.KEY_LC_NONCE_NONCE 1, F.KEY_LC_NONCE_NONCE 2, F.KEY_LC_NONCE_NONCE 3]) ∧
  (∀ (s : State),
      s.Live → s.rd F.UPD_BOOT_STAGE = 0 → s.rd F.VGL_STATUS_TLATCH = 1 →
        ∃ t, exec .bootVigilStage s = .next t ∧ t.rd F.UPD_BOOT_STAGE = 7 ∧ t.rd F.UPD_BOOT_CODE = s.rd F.VGL_TLOG_CODE % 2 ^ 16 ∧
          t.rd F.KEY_STATUS_ROOT_OK = 0) ∧
  (∀ (s : State),
      s.Live → s.rd F.UPD_BOOT_STAGE = 1 → 2 ≤ s.rd F.UPD_BOOT_BOOT_SRC →
        exec .bootRomStage s = .next (s.settle ((s.wr F.UPD_BOOT_STAGE 2).wr F.UPD_BOOT_CODE 0))) ∧
  (∀ (s : State),
      s.Live → s.rd F.UPD_BOOT_STAGE = 1 → s.rd F.UPD_BOOT_BOOT_SRC < 2 →
        ∃ t, exec .bootRomStage s = .next t ∧ t.rd F.UPD_BOOT_STAGE = (if (s.imageCode flashRegion 0 1).isSome then 2 else 3) ∧
          t.rd F.UPD_BOOT_CODE = (s.imageCode flashRegion 0 1).getD 0 ∧ t.upd = (if (s.imageCode flashRegion 0 1).isSome then s.upd else { s.upd with stumpLocked := true }) ∧
          t = { s.noted t with freeCtr := t.freeCtr, upd := t.upd } ∧
          s.SameRegs t [F.UPD_BOOT_STAGE, F.UPD_BOOT_CODE, F.UPD_SVC_ADDR, F.UPD_VERc_VERSION 0, F.UPD_SVNc_IMG 0]) ∧
  (∀ (s : State),
      s.Live → leAt (s.imageHead flashRegion 0 1) 0 4 ≠ 0xA1494D47 →
        s.imageCode flashRegion 0 1 = some 0x1901) ∧
  (∀ (s : State),
      s.Live → s.rd F.UPD_BOOT_STAGE = 3 → s.rd F.UPD_BOOT_BOOT_SRC = 1 →
        exec .bootStumpStage s = .next (s.settle ((s.wr F.UPD_BOOT_STAGE 4).wr F.UPD_BOOT_CODE 0))) ∧
  (∀ (s : State),
      s.Live → s.rd F.UPD_BOOT_STAGE = 3 → s.rd F.UPD_BOOT_BOOT_SRC ≠ 1 →
        ∃ t, exec .bootStumpStage s = .next t ∧ t.rd F.UPD_BOOT_STAGE = (if s.needed = [] then 5 else 4) ∧
          t.rd F.UPD_BOOT_CODE = (if s.needed = [] then 0 else s.brokenCode) ∧
          t.upd = (if s.needed = [] then { s.upd with firmware := some (leAt (s.imageHead flashRegion 0x100000 2) 0x18 4) } else s.upd) ∧
          t.rd (F.UPD_VERc_VERSION 1) = (s.installed 2).elim 0 (imageVersion 2) ∧ t.rd (F.UPD_SVNc_IMG 3) = (s.installed 4).elim 0 (imageSvn 4) ∧
          t = { s.noted t with mem := t.mem, upd := t.upd } ∧ s.SameBlocks t [25]) ∧
  (∀ (init : Initiator) (cls : Fin 8) (s : State),
      s.Live → s.upd.loading = none →
        ∃ t, exec (.updEload init cls) s = .next t ∧ t.answer = .done ∧ t.rd F.UPD_ELOAD_CLASS = cls.val ∧
          t.rd F.UPD_ELOAD_RES_SEQ = (s.rd F.UPD_ELOAD_RES_SEQ + 1) % 256 ∧
          (if cls.val = 3 ∨ cls.val = 5 then t.upd = { s.upd with loading := some (cls.val, s.rd F.UPD_ELOAD_SRC_OFFSET) } ∧ t.rd F.UPD_ELOAD_RES_VALID = 0
           else t.upd = s.upd ∧ t.rd F.UPD_ELOAD_RES_VALID = 1 ∧ t.rd F.UPD_ELOAD_RES_CODE = 0x1901 ∧ t.rd F.UPD_IRQ_ELDONE = 1) ∧
          t = { s.noted t with answer := .done, upd := t.upd } ∧ s.SameBlocks t [25]) ∧
  (∀ (init : Initiator) (cls : Fin 8) (l : Nat × Nat) (s : State),
      s.Live → s.upd.loading = some l → s.rd F.GLB_ACC_ERR_CAPT = 0 →
        ∃ t, exec (.updEload init cls) s = .next t ∧ t.upd = s.upd ∧ t.rd F.GLB_ACC_ERR_CAPT = 1 ∧ t.rd F.GLB_ACC_ERR_CODE = 0x190E ∧
          t.rd F.UPD_ELOAD_RES_SEQ = s.rd F.UPD_ELOAD_RES_SEQ) ∧
  (∀ (c off code : Nat) (s : State),
      s.Live → s.upd.loading = some (c, off) → s.imageCode 4 off c = some code → code < 65536 →
        ∃ t, exec .updEloadComplete s = .next t ∧ t.upd = { s.upd with loading := none } ∧ t.rd F.UPD_ELOAD_RES_VALID = 1 ∧ t.rd F.UPD_ELOAD_RES_CODE = code ∧
          t.rd F.UPD_IRQ_ELDONE = 1 ∧ t = { s.noted t with upd := t.upd } ∧
          s.SameRegs t [F.UPD_ELOAD_RES_VALID, F.UPD_ELOAD_RES_CODE, F.UPD_ELOAD_RES_STALE, F.UPD_IRQ_ELDONE]) ∧
  (∀ (off : Nat) (s : State),
      s.Live → s.upd.loading = some (3, off) →
        s.imageCode 4 off 3 = none → clashes (s.combination [(3, s.imageHead 4 off 3)]) = [] →
          ∃ t, exec .updEloadComplete s = .next t ∧ t.rd F.UPD_ELOAD_RES_CODE = 0 ∧ t.rd F.FLD_STATUS_FW_OK = 1 ∧
            t.rd F.FLD_STATUS_FW_VER = imageVersion 3 (s.imageHead 4 off 3) % 2 ^ F.FLD_STATUS_FW_VER.w) ∧
  (∀ (off : Nat) (s : State),
      s.Live → s.upd.loading = some (5, off) →
        s.imageCode 4 off 5 = none → ∃ t, exec .updEloadComplete s = .next t ∧
            (if clashes (s.combination [(5, s.imageHead 4 off 5)]) = [] then t.rd F.UPD_ELOAD_RES_CODE = 0 ∧ t.upd = { s.upd with loading := none, microcode := true }
             else t.rd F.UPD_ELOAD_RES_CODE = 0x1906 ∧ t.upd = { s.upd with loading := none })) ∧
  (∀ (block : BitVec 22) (bad : Option (Fin 6)) (s : State),
      s.Live → s.upd.stumpLocked = true → s.countBad (s.le 4 block.toNat 4) = false →
        ∃ t, exec (.install block bad) s = .next t ∧
          t.answer = .data [(s.install (s.bytes 4 block.toNat 44) (bad.map (·.val))).2] ∧
          t = { s.noted t with mem := t.mem, answer := t.answer } ∧ s.SameBlocks t [25] ∧
          (∀ a : Nat, a / 2 ^ 40 ≠ flashRegion → Mem.get t.mem a = Mem.get s.mem a) ∧
          (∀ r : Nat × Nat, s.installRefused (installEntries (s.bytes 4 block.toNat 44)) = some r →
            t.answer = .data [r.1 + r.2 % 256 * 65536] ∧ t.mem = s.mem) ∧
          (s.installRefused (installEntries (s.bytes 4 block.toNat 44)) = none → bad = none → t.answer = .data [0])) ∧
  (∀ (block : BitVec 22) (bad : Option (Fin 6)) (s : State),
      s.Live → s.upd.stumpLocked = true → s.countBad (s.le 4 block.toNat 4) = true →
        exec (.install block bad) s = .next (s.settle (State.give { s with freeCtr := s.freeCtr + 1 } [s.freeOf updCodes]))) ∧
  (∀ (block : BitVec 22) (bad : Option (Fin 6)) (s : State),
      s.Live → s.upd.stumpLocked = false →
        exec (.install block bad) s = .next (s.settle s) ∧ exec (.svnraise block) s = .next (s.settle s) ∧ exec .keyrec s = .next (s.settle s)) ∧
  (∀ (block : BitVec 22) (c floor : Nat) (s : State),
      s.Live → s.upd.stumpLocked = true → c = s.le 4 block.toNat 4 → floor = s.le 4 (block.toNat + 4) 4 → 1 ≤ c → c ≤ 5 →
      s.rd (F.UPD_SVNc_FLOOR (c - 1)) ≠ 255 →
        ∃ t, exec (.svnraise block) s = .next t ∧
          t.answer = .data [if (s.installed c).any (fun h => decide (floor ≤ imageSvn c h)) then 0 else 0x190A] ∧
          t.rd (F.UPD_SVNc_FLOOR (c - 1)) = (if (s.installed c).any (fun h => decide (floor ≤ imageSvn c h)) = true ∧ s.rd (F.UPD_SVNc_FLOOR (c - 1)) < floor
            then floor else s.rd (F.UPD_SVNc_FLOOR (c - 1))) ∧
          t = { s.noted t with answer := t.answer } ∧ s.SameRegs t [F.UPD_SVNc_FLOOR (c - 1), F.UPD_IRQ_SVN]) ∧
  (∀ (s : State),
      s.Live → s.upd.stumpLocked = true →
        ∃ t, exec .keyrec s = .next t ∧ t.answer = .data [(s.keyRecord s.stageBytes).2] ∧
          t = { s.noted t with answer := t.answer, sec := { s.sec with pubKeys := t.sec.pubKeys } } ∧
          s.SameRegs t [F.UPD_KEYS_PROV, F.UPD_KEYS_REVOKED] ∧ ((s.keyRecord s.stageBytes).2 ≠ 0 → (s.keyRecord s.stageBytes).2 = 0x190B ∧ t.sec = s.sec ∧
            t.rd F.UPD_KEYS_PROV = s.rd F.UPD_KEYS_PROV ∧ t.rd F.UPD_KEYS_REVOKED = s.rd F.UPD_KEYS_REVOKED)) ∧
  (∀ (s : State),
      s.Live → s.rd F.UPD_BOOT_STAGE = 4 → s.rd F.CRL_STATUS_QUAR = 0 → s.flashSections = none →
        ∃ t, exec .netrec s = .next t ∧ t.rd F.UPD_RECOV_NEED = s.netPorts.netNeed % 2 ^ 5 ∧ t.rd F.CRL_STATUS_QUAR = 1 ∧ t.rd F.CRL_IRQ_QUAR = 1 ∧
          t.mem = s.mem ∧ t.upd = s.upd ∧ t.rd F.CRL_CTL_RING_EN = 1 ∧
          (∀ p : Fin 4, t.rd (F.CRL_Pp_CFG_USED p) = 1 ∧ t.rd (F.CRL_Pp_CFG_RATE p) = 0 ∧ t.rd (F.CRL_Pp_CFG_FEC p) = 0)) ∧
  (∀ (s : State),
      s.Live → s.rd F.UPD_BOOT_STAGE ≠ 4 →
        exec .updMboxGo s = .next (s.settle s.ack) ∧ exec .netrec s = .next (s.settle s)) ∧
  (∀ (r : Nat × Nat) (b : List Nat) (s : State),
      s.Live → s.rd F.UPD_BOOT_STAGE = 4 → s.rd F.UPD_BOOT_BOOT_SRC ≠ 1 →
      b = ((List.range 8).map (fun n => leBytes 4 (s.rd (F.UPD_MBOX_ARG n)))).flatten → s.countBad (leAt b 0 4) = false →
      s.installRefused (installEntries b) = some r →
        ∃ t, exec .updMboxGo s = .next t ∧ t.rd F.UPD_MBOX_RES_RES = 2 ^ 31 + (bits (s.rd F.UPD_MBOX_RES_RES) 16 8 + 1) % 256 * 65536 + r.1 % 65536 ∧
          t.rd F.UPD_IRQ_MBOX = 1 ∧ t.answer = .done ∧ t = { s.noted t with answer := .done } ∧
          s.SameRegs t [F.UPD_MBOX_RES_RES, F.UPD_IRQ_MBOX]) ∧
  (∀ (s : State),
      s.Live → (s.rd F.UPD_BOOT_STAGE = 2 ∨ s.rd F.UPD_BOOT_STAGE = 7) →
        exec .romrec s = .next (s.settle (State.emit { s with freeCtr := s.freeCtr + 1, upd := { s.upd with download := none, received := [], last := none } }
          (.packet (s.helloPacket (Config.freeValue s.freeCtr % 256)))))) ∧
  (∀ (code : Nat) (a : List Nat) (l : List (List Nat)) (s : State),
      s.Live →
        s.recAnswer true code l = { s with egress := s.egress ++ l.map Out.packet } ∧ (s.recAnswer false code [a]).rd F.UPD_RRES_VALID = 1 ∧
          (s.recAnswer false code [a]).rd F.UPD_RRES_CODE = code % 2 ^ 16 ∧ (s.recAnswer false code [a]).rd F.UPD_RRES_SEQ = (s.rd F.UPD_RRES_SEQ + 1) % 256 ∧
          (s.recAnswer false code [a]).rd (F.UPD_ROUT_DATA 1) = leAt a 4 4 % 2 ^ 32) ∧
  (∀ (uart : Bool) (seq : Byte) (baud : Word) (s : State),
      s.Live → s.rd F.UPD_BOOT_STAGE = 2 → ((∀ l : Nat × List (List Nat), s.upd.last = some l → l.1 ≠ seq.toNat)) →
        exec (.info uart seq) s = .next (s.settle (State.recAnswer
            { s with upd := { s.upd with last := some (seq.toNat, [ackPacket seq.toNat 0, s.helloPacket seq.toNat]) } } uart 0 [ackPacket seq.toNat 0, s.helloPacket seq.toNat])) ∧
          (115200 ≤ baud.toNat → baud.toNat ≤ 3000000 → exec (.setbaud uart seq baud) s = .next (s.settle (State.recAnswer
            { s with upd := { s.upd with baud := baud.toNat, last := some (seq.toNat, [ackPacket seq.toNat 0]) } } uart 0 [ackPacket seq.toNat 0]))) ∧
          (baud.toNat < 115200 → exec (.setbaud uart seq baud) s = .next (s.settle (State.recAnswer
            { s with upd := { s.upd with last := some (seq.toNat, [ackPacket seq.toNat 0x190C]) } } uart 0x190C [ackPacket seq.toNat 0x190C])))) ∧
  (∀ (uart : Bool) (seq cls mode : Byte) (total : Word) (s : State),
      s.Live → s.rd F.UPD_BOOT_STAGE = 2 → ((∀ l : Nat × List (List Nat), s.upd.last = some l → l.1 ≠ seq.toNat)) → 1 ≤ cls.toNat →
      cls.toNat ≤ 5 → mode.toNat ≤ 1 → ((mode.toNat = 0 → s.rd F.UPD_BOOT_BOOT_SRC ≠ 2)) →
        exec (.begin uart seq cls mode total) s = .next (s.settle (State.recAnswer
            { s with upd := { s.upd with download := some ⟨cls.toNat, mode.toNat, total.toNat, 0⟩, last := some (seq.toNat, [ackPacket seq.toNat 0]) } } uart 0 [ackPacket seq.toNat 0]))) ∧
  (∀ (uart : Bool) (seq : Byte) (off : Word) (data : List Byte) (d : Download) (s : State),
      s.Live → s.rd F.UPD_BOOT_STAGE = 2 → ((∀ l : Nat × List (List Nat), s.upd.last = some l → l.1 ≠ seq.toNat)) →
      s.upd.download = some d → off.toNat = d.got → 1 ≤ data.length → data.length ≤ 1024 → d.got + data.length ≤ d.total →
        ∃ t, exec (.data uart seq off data) s = .next t ∧ t.upd = { s.upd with download := some { d with got := d.got + data.length }, last := some (seq.toNat, [ackPacket seq.toNat 0]) } ∧
          t.bytes 4 (downloadAt d.cls + d.got) data.length = data.map (·.toNat) ∧
          (∀ a : Nat, (a < memAddr 4 (downloadAt d.cls + d.got) ∨ memAddr 4 (downloadAt d.cls + d.got) + data.length ≤ a) → Mem.get t.mem a = Mem.get s.mem a) ∧
          t = { s.noted t with mem := t.mem, upd := t.upd } ∧ s.SameBlocks t [25]) ∧
  (∀ (uart : Bool) (seq : Byte) (d : Download) (s : State),
      s.Live → s.rd F.UPD_BOOT_STAGE = 2 → ((∀ l : Nat × List (List Nat), s.upd.last = some l → l.1 ≠ seq.toNat)) →
      s.upd.download = some d → d.got = d.total → d.mode = 1 →
        exec (.endImage uart seq) s = .next (s.settle (match s.imageCode 4 (downloadAt d.cls) d.cls with
          | some code => State.recAnswer
            { s with upd := { s.upd with last := some (seq.toNat, [ackPacket seq.toNat code]) } } uart code [ackPacket seq.toNat code]
          | none => if d.total < imageBytes d.cls (s.imageHead 4 (downloadAt d.cls) d.cls) then State.recAnswer
              { s with upd := { s.upd with last := some (seq.toNat, [ackPacket seq.toNat 0x1901]) } } uart 0x1901 [ackPacket seq.toNat 0x1901]
            else if s.versionBelow d.cls (s.imageHead 4 (downloadAt d.cls) d.cls) = true then State.recAnswer
              { s with upd := { s.upd with last := some (seq.toNat, [ackPacket seq.toNat 0x1905]) } } uart 0x1905 [ackPacket seq.toNat 0x1905]
            else if clashes (s.combination [(d.cls, s.imageHead 4 (downloadAt d.cls) d.cls)]) ≠ [] then State.recAnswer
              { s with upd := { s.upd with last := some (seq.toNat, [ackPacket seq.toNat 0x1906]) } } uart 0x1906 [ackPacket seq.toNat 0x1906]
            else State.recAnswer
              { s with upd := { s.upd with received := d.cls :: s.upd.received, last := some (seq.toNat, [ackPacket seq.toNat 0]) } } uart 0 [ackPacket seq.toNat 0]))) ∧
  (∀ (uart : Bool) (seq : Byte) (d : Download) (s : State),
      s.Live → s.rd F.UPD_BOOT_STAGE = 2 → ((∀ l : Nat × List (List Nat), s.upd.last = some l → l.1 ≠ seq.toNat)) →
      s.upd.download = some d → d.mode = 1 →
        (s.upd.received.contains 2 = false → exec (.run uart seq) s = .next (s.settle (State.recAnswer
              { s with upd := { s.upd with last := some (seq.toNat, [ackPacket seq.toNat 0x190C]) } } uart 0x190C [ackPacket seq.toNat 0x190C]))) ∧
          (s.upd.received.contains 2 = true → ∃ t, exec (.run uart seq) s = .next t ∧ t.rd F.UPD_BOOT_STAGE = 5 ∧ t.upd.firmware.isSome = true)) ∧
  (∀ (uart : Bool) (seq : Byte) (s : State),
      s.Live → s.rd F.UPD_BOOT_STAGE = 7 → ((∀ l : Nat × List (List Nat), s.upd.last = some l → l.1 ≠ seq.toNat)) →
        ∃ t, exec (.run uart seq) s = .next t ∧ t.rd F.UPD_BOOT_STAGE = 0 ∧ t.rd F.UPD_BOOT_REASON = 1 ∧ t.upd = {} ∧ t.alm = {} ∧ t.bom = {}) ∧
  (∀ (uart : Bool) (seq cls mode : Byte) (total off : Word) (data : List Byte) (s : State),
      s.Live → s.rd F.UPD_BOOT_STAGE = 7 → ((∀ l : Nat × List (List Nat), s.upd.last = some l → l.1 ≠ seq.toNat)) →
        exec (.begin uart seq cls mode total) s = .next (s.settle (State.recAnswer
            { s with upd := { s.upd with last := some (seq.toNat, [ackPacket seq.toNat 0x190D]) } } uart 0x190D [ackPacket seq.toNat 0x190D])) ∧
          exec (.data uart seq off data) s = .next (s.settle (State.recAnswer
            { s with upd := { s.upd with last := some (seq.toNat, [ackPacket seq.toNat 0x190D]) } } uart 0x190D [ackPacket seq.toNat 0x190D])) ∧
          exec (.endImage uart seq) s = .next (s.settle (State.recAnswer
            { s with upd := { s.upd with last := some (seq.toNat, [ackPacket seq.toNat 0x190D]) } } uart 0x190D [ackPacket seq.toNat 0x190D]))) ∧
  (∀ (uart : Bool) (seq : Byte) (record : List Byte) (s : State),
      s.Live → s.inRecovery = true → ((∀ l : Nat × List (List Nat), s.upd.last = some l → l.1 ≠ seq.toNat)) →
      ((leAt (record.map (·.toNat)) 0 4 = 0xA14C5452 → record.length ≠ 144)) →
        (record.length ≠ 224 → record.length ≠ 144 → exec (.record uart seq record) s = .next (s.settle (State.recAnswer
            { s with upd := { s.upd with last := some (seq.toNat, [ackPacket seq.toNat 0x190C]) } } uart 0x190C [ackPacket seq.toNat 0x190C]))) ∧
          ((record.length = 224 ∧ leAt (record.map (·.toNat)) 0 4 = 0xA14B5052) ∨ (record.length = 144 ∧ leAt (record.map (·.toNat)) 0 4 = 0xA14B5256) →
            exec (.record uart seq record) s = .next (s.settle ((State.setUpd (s.keyRecord (record.map (·.toNat))).1 { s.upd with last := some (seq.toNat,
              [ackPacket seq.toNat (s.keyRecord (record.map (·.toNat))).2]) }).recAnswer uart (s.keyRecord (record.map (·.toNat))).2
              [ackPacket seq.toNat (s.keyRecord (record.map (·.toNat))).2])))) ∧
  (∀ (seq : Byte) (l : List (List Nat)) (total : Word) (s : State),
      s.Live → s.inRecovery = true → s.upd.last = some (seq.toNat, l) →
        exec (.begin true seq 1 0 total) s = .next (s.settle { s with egress := s.egress ++ l.map Out.packet }) ∧
          exec (.run true seq) s = .next (s.settle { s with egress := s.egress ++ l.map Out.packet }))
end

