-- ==== Sys2Proof/Laws/Sparse.lean ====
section
/-! SUPPORT. Laws of sparse maps: a read after a write, and the canonical form. -/

namespace Sys2Proof

variable {α : Type}

@[simp] theorem SMap.get?_insert_same (m : SMap α) (k : Nat) (a : α) : SMap.get? (SMap.insert m k a) k = some a := by
  induction m with
  | nil => simp [SMap.insert, SMap.get?]
  | cons p m ih =>
    obtain ⟨j, b⟩ := p
    simp only [SMap.insert]
    split
    · simp [SMap.get?]
    · split
      · simp [SMap.get?]
      · rename_i _ h
        simp [SMap.get?, Ne.symm h, ih]

theorem SMap.get?_insert_ne (m : SMap α) (k j : Nat) (a : α) (h : j ≠ k) : SMap.get? (SMap.insert m k a) j = SMap.get? m j := by
  induction m with
  | nil => simp [SMap.insert, SMap.get?, Ne.symm h]
  | cons p m ih =>
    obtain ⟨i, b⟩ := p
    simp only [SMap.insert]
    split
    · simp [SMap.get?, Ne.symm h]
    · split
      · rename_i e
        subst e
        simp [SMap.get?, Ne.symm h]
      · simp [SMap.get?, ih]

@[simp] theorem SMap.get?_erase_same (m : SMap α) (k : Nat) : SMap.get? (SMap.erase m k) k = none := by
  induction m with
  | nil => rfl
  | cons p m ih =>
    obtain ⟨j, b⟩ := p
    unfold SMap.erase at *
    by_cases h : j = k
    · subst h
      simp [ih]
    · simp [h, SMap.get?, ih]

theorem SMap.get?_erase_ne (m : SMap α) (k j : Nat) (h : j ≠ k) : SMap.get? (SMap.erase m k) j = SMap.get? m j := by
  induction m with
  | nil => rfl
  | cons p m ih =>
    obtain ⟨i, b⟩ := p
    unfold SMap.erase at *
    by_cases e : i = k
    · subst e
      simp [SMap.get?, Ne.symm h, ih]
    · simp [e, SMap.get?, ih]

variable [DecidableEq α]

/-- A read of the key just written gives what was written. -/
@[simp] theorem SMap.getD_put_same (m : SMap α) (k : Nat) (a d : α) : SMap.getD (SMap.put m k a d) k d = a := by
  unfold SMap.put
  split
  · rename_i h
    simp [SMap.getD, h]
  · simp [SMap.getD]

/-- A write leaves every other key alone. -/
theorem SMap.getD_put_ne (m : SMap α) (k j : Nat) (a d e : α) (h : j ≠ k) : SMap.getD (SMap.put m k a d) j e = SMap.getD m j e := by
  unfold SMap.put
  split
  · simp [SMap.getD, SMap.get?_erase_ne m k j h]
  · simp [SMap.getD, SMap.get?_insert_ne m k j a h]

theorem SMap.get?_put_ne (m : SMap α) (k j : Nat) (a d : α) (h : j ≠ k) : SMap.get? (SMap.put m k a d) j = SMap.get? m j := by
  unfold SMap.put
  split
  · exact SMap.get?_erase_ne m k j h
  · exact SMap.get?_insert_ne m k j a h

omit [DecidableEq α]

/-- Rising keys, said of the head: it lies below every later key, which rise too. -/
theorem SMap.risesFrom_cons (b j : Nat) (a : α) (m : SMap α) :
    SMap.risesFrom (some b) ((j, a) :: m) = true ↔ b < j ∧ SMap.risesFrom (some j) m = true := by
  simp [SMap.risesFrom]

theorem SMap.risesFrom_weaken (b c : Nat) (m : SMap α) (h : c ≤ b) (hm : SMap.risesFrom (some b) m = true) :
    SMap.risesFrom (some c) m = true := by
  cases m with
  | nil => rfl
  | cons p m =>
    obtain ⟨j, a⟩ := p
    rw [SMap.risesFrom_cons] at *
    exact ⟨Nat.lt_of_le_of_lt h hm.1, hm.2⟩

theorem SMap.risesFrom_filter (p : Nat × α → Bool) (m : SMap α) : ∀ b, SMap.risesFrom (some b) m = true →
    SMap.risesFrom (some b) (m.filter p) = true := by
  induction m with
  | nil => intro b h; rfl
  | cons q m ih =>
    obtain ⟨j, a⟩ := q
    intro b h
    rw [SMap.risesFrom_cons] at h
    by_cases e : p (j, a) = true
    · rw [List.filter_cons_of_pos e, SMap.risesFrom_cons]
      exact ⟨h.1, ih j h.2⟩
    · rw [List.filter_cons_of_neg e]
      exact ih b (SMap.risesFrom_weaken j b m (Nat.le_of_lt h.1) h.2)

/-- A filter keeps the keys rising. -/
theorem SMap.rises_filter (p : Nat × α → Bool) (m : SMap α) (h : SMap.rises m = true) : SMap.rises (m.filter p) = true := by
  unfold SMap.rises at *
  cases m with
  | nil => rfl
  | cons q m =>
    obtain ⟨j, a⟩ := q
    by_cases e : p (j, a) = true
    · rw [List.filter_cons_of_pos e]
      exact SMap.risesFrom_filter p m j h
    · rw [List.filter_cons_of_neg e]
      have := SMap.risesFrom_filter p m j h
      cases hm : m.filter p with
      | nil => rfl
      | cons r n =>
        rw [hm] at this
        exact ((SMap.risesFrom_cons j r.1 r.2 n).1 this).2

theorem SMap.risesFrom_insert (m : SMap α) (k : Nat) (a : α) : ∀ b, b < k → SMap.risesFrom (some b) m = true →
    SMap.risesFrom (some b) (SMap.insert m k a) = true := by
  induction m with
  | nil => intro b hb h; simpa [SMap.insert, SMap.risesFrom] using hb
  | cons q m ih =>
    obtain ⟨j, c⟩ := q
    intro b hb h
    rw [SMap.risesFrom_cons] at h
    simp only [SMap.insert]
    split
    · rename_i e
      simp only [SMap.risesFrom_cons]
      exact ⟨hb, e, h.2⟩
    · split
      · rename_i e
        subst e
        rw [SMap.risesFrom_cons]
        exact ⟨hb, h.2⟩
      · rename_i e f
        rw [SMap.risesFrom_cons]
        exact ⟨h.1, ih j (by omega) h.2⟩

/-- A listing keeps the keys rising. -/
theorem SMap.rises_insert (m : SMap α) (k : Nat) (a : α) (h : SMap.rises m = true) : SMap.rises (SMap.insert m k a) = true := by
  unfold SMap.rises at *
  cases m with
  | nil => rfl
  | cons q m =>
    obtain ⟨j, c⟩ := q
    simp only [SMap.insert]
    split
    · rename_i e
      simp only [SMap.risesFrom] at h ⊢
      simp [e, h]
    · split
      · rename_i e
        subst e
        exact h
      · rename_i e f
        exact SMap.risesFrom_insert m k a j (by omega) h

/-- The canonical write keeps the keys rising. -/
theorem SMap.rises_put [DecidableEq α] (m : SMap α) (k : Nat) (a d : α) (h : SMap.rises m = true) :
    SMap.rises (SMap.put m k a d) = true := by
  unfold SMap.put
  split
  · exact SMap.rises_filter _ m h
  · exact SMap.rises_insert m k a h

/-- Every listed value meets a test that the new value meets. -/
theorem SMap.all_insert (p : α → Bool) (m : SMap α) (k : Nat) (a : α) (ha : p a = true) (h : m.all (fun c => p c.2) = true) :
    (SMap.insert m k a).all (fun c => p c.2) = true := by
  induction m with
  | nil => simpa [SMap.insert] using ha
  | cons q m ih =>
    obtain ⟨j, c⟩ := q
    simp only [List.all_cons, Bool.and_eq_true] at h
    simp only [SMap.insert]
    split
    · simp [ha, h.1, h.2]
    · split
      · simp [ha, h.2]
      · simp [h.1, ih h.2]

end Sys2Proof
end

