-- ==== Sys2Proof/Laws/State.lean ====
section
/-!
SUPPORT. What each plain update of the state leaves alone, field by field; a register field read after a write; and what
the wrapper around every command adds.
-/

namespace Sys2Proof.Machine

variable (s : State)

@[simp] theorem State.wr_pending (f : Fld) (v : Nat) : (s.wr f v).pending = s.pending := rfl
@[simp] theorem State.wr_staged (f : Fld) (v : Nat) : (s.wr f v).staged = s.staged := rfl
@[simp] theorem State.wr_clk (f : Fld) (v : Nat) : (s.wr f v).clk = s.clk := rfl
@[simp] theorem State.wr_cycle (f : Fld) (v : Nat) : (s.wr f v).cycle = s.cycle := rfl
@[simp] theorem State.wr_together (f : Fld) (v : Nat) : (s.wr f v).together = s.together := rfl
@[simp] theorem State.wr_mem (f : Fld) (v : Nat) : (s.wr f v).mem = s.mem := rfl
@[simp] theorem State.wr_voided (f : Fld) (v : Nat) : (s.wr f v).voided = s.voided := rfl
@[simp] theorem State.wr_answer (f : Fld) (v : Nat) : (s.wr f v).answer = s.answer := rfl
@[simp] theorem State.wr_egress (f : Fld) (v : Nat) : (s.wr f v).egress = s.egress := rfl
@[simp] theorem State.wr_freeCtr (f : Fld) (v : Nat) : (s.wr f v).freeCtr = s.freeCtr := rfl
@[simp] theorem State.wr_bom (f : Fld) (v : Nat) : (s.wr f v).bom = s.bom := rfl
@[simp] theorem State.wr_tim (f : Fld) (v : Nat) : (s.wr f v).tim = s.tim := rfl
@[simp] theorem State.wr_tly (f : Fld) (v : Nat) : (s.wr f v).tly = s.tly := rfl
@[simp] theorem State.wr_queries (f : Fld) (v : Nat) : (s.wr f v).queries = s.queries := rfl
@[simp] theorem State.wr_sch (f : Fld) (v : Nat) : (s.wr f v).sch = s.sch := rfl
@[simp] theorem State.wr_slc (f : Fld) (v : Nat) : (s.wr f v).slc = s.slc := rfl
@[simp] theorem State.wr_fld (f : Fld) (v : Nat) : (s.wr f v).fld = s.fld := rfl
@[simp] theorem State.wr_chk (f : Fld) (v : Nat) : (s.wr f v).chk = s.chk := rfl
@[simp] theorem State.wr_swc (f : Fld) (v : Nat) : (s.wr f v).swc = s.swc := rfl
@[simp] theorem State.wr_ring (f : Fld) (v : Nat) : (s.wr f v).ring = s.ring := rfl
@[simp] theorem State.wr_slices (f : Fld) (v : Nat) : (s.wr f v).slices = s.slices := rfl
@[simp] theorem State.wr_ported (f : Fld) (v : Nat) : (s.wr f v).ported = s.ported := rfl
@[simp] theorem State.wr_cans (f : Fld) (v : Nat) : (s.wr f v).cans = s.cans := rfl
@[simp] theorem State.wr_canned (f : Fld) (v : Nat) : (s.wr f v).canned = s.canned := rfl
@[simp] theorem State.wr_saws (f : Fld) (v : Nat) : (s.wr f v).saws = s.saws := rfl
@[simp] theorem State.wr_reloads (f : Fld) (v : Nat) : (s.wr f v).reloads = s.reloads := rfl
@[simp] theorem State.wr_alm (f : Fld) (v : Nat) : (s.wr f v).alm = s.alm := rfl
@[simp] theorem State.wr_sec (f : Fld) (v : Nat) : (s.wr f v).sec = s.sec := rfl
@[simp] theorem State.wr_stt (f : Fld) (v : Nat) : (s.wr f v).stt = s.stt := rfl
@[simp] theorem State.wr_brg (f : Fld) (v : Nat) : (s.wr f v).brg = s.brg := rfl
@[simp] theorem State.wr_dmx (f : Fld) (v : Nat) : (s.wr f v).dmx = s.dmx := rfl
@[simp] theorem State.wr_pwr (f : Fld) (v : Nat) : (s.wr f v).pwr = s.pwr := rfl
@[simp] theorem State.wr_upd (f : Fld) (v : Nat) : (s.wr f v).upd = s.upd := rfl
@[simp] theorem State.wr_ageing (f : Fld) (v : Nat) : (s.wr f v).ageing = s.ageing := rfl
@[simp] theorem State.wr_banksOut (f : Fld) (v : Nat) : (s.wr f v).banksOut = s.banksOut := rfl

@[simp] theorem State.emit_pending (o : Out) : (s.emit o).pending = s.pending := rfl
@[simp] theorem State.emit_regs (o : Out) : (s.emit o).regs = s.regs := rfl
@[simp] theorem State.emit_staged (o : Out) : (s.emit o).staged = s.staged := rfl
@[simp] theorem State.emit_clk (o : Out) : (s.emit o).clk = s.clk := rfl
@[simp] theorem State.emit_cycle (o : Out) : (s.emit o).cycle = s.cycle := rfl
@[simp] theorem State.emit_together (o : Out) : (s.emit o).together = s.together := rfl
@[simp] theorem State.emit_mem (o : Out) : (s.emit o).mem = s.mem := rfl
@[simp] theorem State.emit_voided (o : Out) : (s.emit o).voided = s.voided := rfl
@[simp] theorem State.emit_answer (o : Out) : (s.emit o).answer = s.answer := rfl
@[simp] theorem State.emit_freeCtr (o : Out) : (s.emit o).freeCtr = s.freeCtr := rfl
@[simp] theorem State.emit_bom (o : Out) : (s.emit o).bom = s.bom := rfl
@[simp] theorem State.emit_tim (o : Out) : (s.emit o).tim = s.tim := rfl
@[simp] theorem State.emit_tly (o : Out) : (s.emit o).tly = s.tly := rfl
@[simp] theorem State.emit_queries (o : Out) : (s.emit o).queries = s.queries := rfl
@[simp] theorem State.emit_sch (o : Out) : (s.emit o).sch = s.sch := rfl
@[simp] theorem State.emit_slc (o : Out) : (s.emit o).slc = s.slc := rfl
@[simp] theorem State.emit_fld (o : Out) : (s.emit o).fld = s.fld := rfl
@[simp] theorem State.emit_chk (o : Out) : (s.emit o).chk = s.chk := rfl
@[simp] theorem State.emit_swc (o : Out) : (s.emit o).swc = s.swc := rfl
@[simp] theorem State.emit_ring (o : Out) : (s.emit o).ring = s.ring := rfl
@[simp] theorem State.emit_slices (o : Out) : (s.emit o).slices = s.slices := rfl
@[simp] theorem State.emit_ported (o : Out) : (s.emit o).ported = s.ported := rfl
@[simp] theorem State.emit_cans (o : Out) : (s.emit o).cans = s.cans := rfl
@[simp] theorem State.emit_canned (o : Out) : (s.emit o).canned = s.canned := rfl
@[simp] theorem State.emit_saws (o : Out) : (s.emit o).saws = s.saws := rfl
@[simp] theorem State.emit_reloads (o : Out) : (s.emit o).reloads = s.reloads := rfl
@[simp] theorem State.emit_alm (o : Out) : (s.emit o).alm = s.alm := rfl
@[simp] theorem State.emit_sec (o : Out) : (s.emit o).sec = s.sec := rfl
@[simp] theorem State.emit_stt (o : Out) : (s.emit o).stt = s.stt := rfl
@[simp] theorem State.emit_brg (o : Out) : (s.emit o).brg = s.brg := rfl
@[simp] theorem State.emit_dmx (o : Out) : (s.emit o).dmx = s.dmx := rfl
@[simp] theorem State.emit_pwr (o : Out) : (s.emit o).pwr = s.pwr := rfl
@[simp] theorem State.emit_upd (o : Out) : (s.emit o).upd = s.upd := rfl
@[simp] theorem State.emit_ageing (o : Out) : (s.emit o).ageing = s.ageing := rfl
@[simp] theorem State.emit_banksOut (o : Out) : (s.emit o).banksOut = s.banksOut := rfl

@[simp] theorem State.ack_pending : (s.ack).pending = s.pending := rfl
@[simp] theorem State.ack_regs : (s.ack).regs = s.regs := rfl
@[simp] theorem State.ack_staged : (s.ack).staged = s.staged := rfl
@[simp] theorem State.ack_clk : (s.ack).clk = s.clk := rfl
@[simp] theorem State.ack_cycle : (s.ack).cycle = s.cycle := rfl
@[simp] theorem State.ack_together : (s.ack).together = s.together := rfl
@[simp] theorem State.ack_mem : (s.ack).mem = s.mem := rfl
@[simp] theorem State.ack_voided : (s.ack).voided = s.voided := rfl
@[simp] theorem State.ack_egress : (s.ack).egress = s.egress := rfl
@[simp] theorem State.ack_freeCtr : (s.ack).freeCtr = s.freeCtr := rfl
@[simp] theorem State.ack_bom : (s.ack).bom = s.bom := rfl
@[simp] theorem State.ack_tim : (s.ack).tim = s.tim := rfl
@[simp] theorem State.ack_tly : (s.ack).tly = s.tly := rfl
@[simp] theorem State.ack_queries : (s.ack).queries = s.queries := rfl
@[simp] theorem State.ack_sch : (s.ack).sch = s.sch := rfl
@[simp] theorem State.ack_slc : (s.ack).slc = s.slc := rfl
@[simp] theorem State.ack_fld : (s.ack).fld = s.fld := rfl
@[simp] theorem State.ack_chk : (s.ack).chk = s.chk := rfl
@[simp] theorem State.ack_swc : (s.ack).swc = s.swc := rfl
@[simp] theorem State.ack_ring : (s.ack).ring = s.ring := rfl
@[simp] theorem State.ack_slices : (s.ack).slices = s.slices := rfl
@[simp] theorem State.ack_ported : (s.ack).ported = s.ported := rfl
@[simp] theorem State.ack_cans : (s.ack).cans = s.cans := rfl
@[simp] theorem State.ack_canned : (s.ack).canned = s.canned := rfl
@[simp] theorem State.ack_saws : (s.ack).saws = s.saws := rfl
@[simp] theorem State.ack_reloads : (s.ack).reloads = s.reloads := rfl
@[simp] theorem State.ack_alm : (s.ack).alm = s.alm := rfl
@[simp] theorem State.ack_sec : (s.ack).sec = s.sec := rfl
@[simp] theorem State.ack_stt : (s.ack).stt = s.stt := rfl
@[simp] theorem State.ack_brg : (s.ack).brg = s.brg := rfl
@[simp] theorem State.ack_dmx : (s.ack).dmx = s.dmx := rfl
@[simp] theorem State.ack_pwr : (s.ack).pwr = s.pwr := rfl
@[simp] theorem State.ack_upd : (s.ack).upd = s.upd := rfl
@[simp] theorem State.ack_ageing : (s.ack).ageing = s.ageing := rfl
@[simp] theorem State.ack_banksOut : (s.ack).banksOut = s.banksOut := rfl

@[simp] theorem State.give_pending (ws : List Nat) : (s.give ws).pending = s.pending := rfl
@[simp] theorem State.give_regs (ws : List Nat) : (s.give ws).regs = s.regs := rfl
@[simp] theorem State.give_staged (ws : List Nat) : (s.give ws).staged = s.staged := rfl
@[simp] theorem State.give_clk (ws : List Nat) : (s.give ws).clk = s.clk := rfl
@[simp] theorem State.give_cycle (ws : List Nat) : (s.give ws).cycle = s.cycle := rfl
@[simp] theorem State.give_together (ws : List Nat) : (s.give ws).together = s.together := rfl
@[simp] theorem State.give_mem (ws : List Nat) : (s.give ws).mem = s.mem := rfl
@[simp] theorem State.give_voided (ws : List Nat) : (s.give ws).voided = s.voided := rfl
@[simp] theorem State.give_egress (ws : List Nat) : (s.give ws).egress = s.egress := rfl
@[simp] theorem State.give_freeCtr (ws : List Nat) : (s.give ws).freeCtr = s.freeCtr := rfl
@[simp] theorem State.give_bom (ws : List Nat) : (s.give ws).bom = s.bom := rfl
@[simp] theorem State.give_tim (ws : List Nat) : (s.give ws).tim = s.tim := rfl
@[simp] theorem State.give_tly (ws : List Nat) : (s.give ws).tly = s.tly := rfl
@[simp] theorem State.give_queries (ws : List Nat) : (s.give ws).queries = s.queries := rfl
@[simp] theorem State.give_sch (ws : List Nat) : (s.give ws).sch = s.sch := rfl
@[simp] theorem State.give_slc (ws : List Nat) : (s.give ws).slc = s.slc := rfl
@[simp] theorem State.give_fld (ws : List Nat) : (s.give ws).fld = s.fld := rfl
@[simp] theorem State.give_chk (ws : List Nat) : (s.give ws).chk = s.chk := rfl
@[simp] theorem State.give_swc (ws : List Nat) : (s.give ws).swc = s.swc := rfl
@[simp] theorem State.give_ring (ws : List Nat) : (s.give ws).ring = s.ring := rfl
@[simp] theorem State.give_slices (ws : List Nat) : (s.give ws).slices = s.slices := rfl
@[simp] theorem State.give_ported (ws : List Nat) : (s.give ws).ported = s.ported := rfl
@[simp] theorem State.give_cans (ws : List Nat) : (s.give ws).cans = s.cans := rfl
@[simp] theorem State.give_canned (ws : List Nat) : (s.give ws).canned = s.canned := rfl
@[simp] theorem State.give_saws (ws : List Nat) : (s.give ws).saws = s.saws := rfl
@[simp] theorem State.give_reloads (ws : List Nat) : (s.give ws).reloads = s.reloads := rfl
@[simp] theorem State.give_alm (ws : List Nat) : (s.give ws).alm = s.alm := rfl
@[simp] theorem State.give_sec (ws : List Nat) : (s.give ws).sec = s.sec := rfl
@[simp] theorem State.give_stt (ws : List Nat) : (s.give ws).stt = s.stt := rfl
@[simp] theorem State.give_brg (ws : List Nat) : (s.give ws).brg = s.brg := rfl
@[simp] theorem State.give_dmx (ws : List Nat) : (s.give ws).dmx = s.dmx := rfl
@[simp] theorem State.give_pwr (ws : List Nat) : (s.give ws).pwr = s.pwr := rfl
@[simp] theorem State.give_upd (ws : List Nat) : (s.give ws).upd = s.upd := rfl
@[simp] theorem State.give_ageing (ws : List Nat) : (s.give ws).ageing = s.ageing := rfl
@[simp] theorem State.give_banksOut (ws : List Nat) : (s.give ws).banksOut = s.banksOut := rfl

@[simp] theorem State.draw_pending : (s.draw).pending = s.pending := rfl
@[simp] theorem State.draw_regs : (s.draw).regs = s.regs := rfl
@[simp] theorem State.draw_staged : (s.draw).staged = s.staged := rfl
@[simp] theorem State.draw_clk : (s.draw).clk = s.clk := rfl
@[simp] theorem State.draw_cycle : (s.draw).cycle = s.cycle := rfl
@[simp] theorem State.draw_together : (s.draw).together = s.together := rfl
@[simp] theorem State.draw_mem : (s.draw).mem = s.mem := rfl
@[simp] theorem State.draw_voided : (s.draw).voided = s.voided := rfl
@[simp] theorem State.draw_answer : (s.draw).answer = s.answer := rfl
@[simp] theorem State.draw_egress : (s.draw).egress = s.egress := rfl
@[simp] theorem State.draw_bom : (s.draw).bom = s.bom := rfl
@[simp] theorem State.draw_tim : (s.draw).tim = s.tim := rfl
@[simp] theorem State.draw_tly : (s.draw).tly = s.tly := rfl
@[simp] theorem State.draw_queries : (s.draw).queries = s.queries := rfl
@[simp] theorem State.draw_sch : (s.draw).sch = s.sch := rfl
@[simp] theorem State.draw_slc : (s.draw).slc = s.slc := rfl
@[simp] theorem State.draw_fld : (s.draw).fld = s.fld := rfl
@[simp] theorem State.draw_chk : (s.draw).chk = s.chk := rfl
@[simp] theorem State.draw_swc : (s.draw).swc = s.swc := rfl
@[simp] theorem State.draw_ring : (s.draw).ring = s.ring := rfl
@[simp] theorem State.draw_slices : (s.draw).slices = s.slices := rfl
@[simp] theorem State.draw_ported : (s.draw).ported = s.ported := rfl
@[simp] theorem State.draw_cans : (s.draw).cans = s.cans := rfl
@[simp] theorem State.draw_canned : (s.draw).canned = s.canned := rfl
@[simp] theorem State.draw_saws : (s.draw).saws = s.saws := rfl
@[simp] theorem State.draw_reloads : (s.draw).reloads = s.reloads := rfl
@[simp] theorem State.draw_alm : (s.draw).alm = s.alm := rfl
@[simp] theorem State.draw_sec : (s.draw).sec = s.sec := rfl
@[simp] theorem State.draw_stt : (s.draw).stt = s.stt := rfl
@[simp] theorem State.draw_brg : (s.draw).brg = s.brg := rfl
@[simp] theorem State.draw_dmx : (s.draw).dmx = s.dmx := rfl
@[simp] theorem State.draw_pwr : (s.draw).pwr = s.pwr := rfl
@[simp] theorem State.draw_upd : (s.draw).upd = s.upd := rfl
@[simp] theorem State.draw_ageing : (s.draw).ageing = s.ageing := rfl
@[simp] theorem State.draw_banksOut : (s.draw).banksOut = s.banksOut := rfl

@[simp] theorem State.store_pending (r o : Nat) (bs : List Nat) : (s.store r o bs).pending = s.pending := rfl
@[simp] theorem State.store_regs (r o : Nat) (bs : List Nat) : (s.store r o bs).regs = s.regs := rfl
@[simp] theorem State.store_staged (r o : Nat) (bs : List Nat) : (s.store r o bs).staged = s.staged := rfl
@[simp] theorem State.store_clk (r o : Nat) (bs : List Nat) : (s.store r o bs).clk = s.clk := rfl
@[simp] theorem State.store_cycle (r o : Nat) (bs : List Nat) : (s.store r o bs).cycle = s.cycle := rfl
@[simp] theorem State.store_together (r o : Nat) (bs : List Nat) : (s.store r o bs).together = s.together := rfl
@[simp] theorem State.store_voided (r o : Nat) (bs : List Nat) : (s.store r o bs).voided = s.voided := rfl
@[simp] theorem State.store_answer (r o : Nat) (bs : List Nat) : (s.store r o bs).answer = s.answer := rfl
@[simp] theorem State.store_egress (r o : Nat) (bs : List Nat) : (s.store r o bs).egress = s.egress := rfl
@[simp] theorem State.store_freeCtr (r o : Nat) (bs : List Nat) : (s.store r o bs).freeCtr = s.freeCtr := rfl
@[simp] theorem State.store_bom (r o : Nat) (bs : List Nat) : (s.store r o bs).bom = s.bom := rfl
@[simp] theorem State.store_tim (r o : Nat) (bs : List Nat) : (s.store r o bs).tim = s.tim := rfl
@[simp] theorem State.store_tly (r o : Nat) (bs : List Nat) : (s.store r o bs).tly = s.tly := rfl
@[simp] theorem State.store_queries (r o : Nat) (bs : List Nat) : (s.store r o bs).queries = s.queries := rfl
@[simp] theorem State.store_sch (r o : Nat) (bs : List Nat) : (s.store r o bs).sch = s.sch := rfl
@[simp] theorem State.store_slc (r o : Nat) (bs : List Nat) : (s.store r o bs).slc = s.slc := rfl
@[simp] theorem State.store_fld (r o : Nat) (bs : List Nat) : (s.store r o bs).fld = s.fld := rfl
@[simp] theorem State.store_chk (r o : Nat) (bs : List Nat) : (s.store r o bs).chk = s.chk := rfl
@[simp] theorem State.store_swc (r o : Nat) (bs : List Nat) : (s.store r o bs).swc = s.swc := rfl
@[simp] theorem State.store_ring (r o : Nat) (bs : List Nat) : (s.store r o bs).ring = s.ring := rfl
@[simp] theorem State.store_slices (r o : Nat) (bs : List Nat) : (s.store r o bs).slices = s.slices := rfl
@[simp] theorem State.store_ported (r o : Nat) (bs : List Nat) : (s.store r o bs).ported = s.ported := rfl
@[simp] theorem State.store_cans (r o : Nat) (bs : List Nat) : (s.store r o bs).cans = s.cans := rfl
@[simp] theorem State.store_canned (r o : Nat) (bs : List Nat) : (s.store r o bs).canned = s.canned := rfl
@[simp] theorem State.store_saws (r o : Nat) (bs : List Nat) : (s.store r o bs).saws = s.saws := rfl
@[simp] theorem State.store_reloads (r o : Nat) (bs : List Nat) : (s.store r o bs).reloads = s.reloads := rfl
@[simp] theorem State.store_alm (r o : Nat) (bs : List Nat) : (s.store r o bs).alm = s.alm := rfl
@[simp] theorem State.store_sec (r o : Nat) (bs : List Nat) : (s.store r o bs).sec = s.sec := rfl
@[simp] theorem State.store_stt (r o : Nat) (bs : List Nat) : (s.store r o bs).stt = s.stt := rfl
@[simp] theorem State.store_brg (r o : Nat) (bs : List Nat) : (s.store r o bs).brg = s.brg := rfl
@[simp] theorem State.store_dmx (r o : Nat) (bs : List Nat) : (s.store r o bs).dmx = s.dmx := rfl
@[simp] theorem State.store_pwr (r o : Nat) (bs : List Nat) : (s.store r o bs).pwr = s.pwr := rfl
@[simp] theorem State.store_upd (r o : Nat) (bs : List Nat) : (s.store r o bs).upd = s.upd := rfl
@[simp] theorem State.store_ageing (r o : Nat) (bs : List Nat) : (s.store r o bs).ageing = s.ageing := rfl
@[simp] theorem State.store_banksOut (r o : Nat) (bs : List Nat) : (s.store r o bs).banksOut = s.banksOut := rfl

@[simp] theorem State.emit_egress (o : Out) : (s.emit o).egress = s.egress ++ [o] := rfl
@[simp] theorem State.ack_answer : s.ack.answer = .done := rfl
@[simp] theorem State.give_answer (ws : List Nat) : (s.give ws).answer = .data ws := rfl
@[simp] theorem State.draw_freeCtr : s.draw.freeCtr = s.freeCtr + 1 := rfl
@[simp] theorem State.store_mem (r o : Nat) (bs : List Nat) : (s.store r o bs).mem = Mem.store s.mem (memAddr r o) bs := rfl

/-! Reads of register fields -/

/-- A field read after it was written. -/
@[simp] theorem State.rd_wr_same (f : Fld) (v : Nat) : (s.wr f v).rd f = v % 2 ^ f.w := by
  simp [State.rd, State.wr]

/-- A field read after a field of another place was written. -/
theorem State.rd_wr_ne (f g : Fld) (v : Nat) (h : g.key ≠ f.key) : (s.wr f v).rd g = s.rd g := by
  simp [State.rd, State.wr, SMap.getD_put_ne _ _ _ _ _ _ h]

/-- Reads depend on the register file alone. -/
theorem State.rd_congr (t : State) (f : Fld) (h : t.regs = s.regs) : t.rd f = s.rd f := by
  simp [State.rd, h]

@[simp] theorem State.rd_emit (o : Out) (f : Fld) : (s.emit o).rd f = s.rd f := rfl
@[simp] theorem State.rd_ack (f : Fld) : s.ack.rd f = s.rd f := rfl
@[simp] theorem State.rd_give (ws : List Nat) (f : Fld) : (s.give ws).rd f = s.rd f := rfl
@[simp] theorem State.rd_draw (f : Fld) : s.draw.rd f = s.rd f := rfl
@[simp] theorem State.rd_store (r o : Nat) (bs : List Nat) (f : Fld) : (s.store r o bs).rd f = s.rd f := rfl

/-! The wrapper -/

/-- A command whose guarantee is not void runs its effect, and the vectors it raises leave. -/
theorem guardedVigil_next (k : State → State) (hv : s.voided = false) : guardedVigil s k = .next (s.settle (k s)) := by
  simp [guardedVigil, hv]

/-- The same for a command of the main die, where that has its supply. -/
theorem guarded_next (k : State → State) (hv : s.voided = false) (hs : s.pwr.standby = false) :
    guarded s k = .next (s.settle (k s)) := by
  simp [guarded, guardedVigil, hv, hs]

/-- What a guarded command can answer: a next state, or the one fault. -/
theorem guarded_cases (k : State → State) (t : State) (h : guarded s k = .next t) :
    s.voided = false ∧ t = s.settle (if s.pwr.standby then s else k s) := by
  unfold guarded guardedVigil at h
  split at h
  · cases h
  · rename_i hv
    injection h with h
    exact ⟨by simpa using hv, h.symm⟩

theorem guardedVigil_cases (k : State → State) (t : State) (h : guardedVigil s k = .next t) :
    s.voided = false ∧ t = s.settle (k s) := by
  unfold guardedVigil at h
  split at h
  · cases h
  · rename_i hv
    injection h with h
    exact ⟨by simpa using hv, h.symm⟩

@[simp] theorem State.settle_pending (t : State) : (s.settle t).pending = t.pending := rfl
@[simp] theorem State.settle_regs (t : State) : (s.settle t).regs = t.regs := rfl
@[simp] theorem State.settle_staged (t : State) : (s.settle t).staged = t.staged := rfl
@[simp] theorem State.settle_clk (t : State) : (s.settle t).clk = t.clk := rfl
@[simp] theorem State.settle_cycle (t : State) : (s.settle t).cycle = if t.together = 0 then [] else t.cycle := rfl
@[simp] theorem State.settle_together (t : State) : (s.settle t).together = t.together - 1 := rfl
@[simp] theorem State.settle_mem (t : State) : (s.settle t).mem = t.mem := rfl
@[simp] theorem State.settle_voided (t : State) : (s.settle t).voided = t.voided := rfl
@[simp] theorem State.settle_answer (t : State) : (s.settle t).answer = t.answer := rfl
@[simp] theorem State.settle_freeCtr (t : State) : (s.settle t).freeCtr = t.freeCtr := rfl
@[simp] theorem State.settle_bom (t : State) : (s.settle t).bom = t.bom := rfl
@[simp] theorem State.settle_tim (t : State) : (s.settle t).tim = t.tim := rfl
@[simp] theorem State.settle_tly (t : State) : (s.settle t).tly = t.tly := rfl
@[simp] theorem State.settle_queries (t : State) : (s.settle t).queries = t.queries := rfl
@[simp] theorem State.settle_sch (t : State) : (s.settle t).sch = t.sch := rfl
@[simp] theorem State.settle_slc (t : State) : (s.settle t).slc = t.slc := rfl
@[simp] theorem State.settle_fld (t : State) : (s.settle t).fld = t.fld := rfl
@[simp] theorem State.settle_chk (t : State) : (s.settle t).chk = t.chk := rfl
@[simp] theorem State.settle_swc (t : State) : (s.settle t).swc = t.swc := rfl
@[simp] theorem State.settle_ring (t : State) : (s.settle t).ring = t.ring := rfl
@[simp] theorem State.settle_slices (t : State) : (s.settle t).slices = t.slices := rfl
@[simp] theorem State.settle_ported (t : State) : (s.settle t).ported = t.ported := rfl
@[simp] theorem State.settle_cans (t : State) : (s.settle t).cans = t.cans := rfl
@[simp] theorem State.settle_canned (t : State) : (s.settle t).canned = t.canned := rfl
@[simp] theorem State.settle_saws (t : State) : (s.settle t).saws = t.saws := rfl
@[simp] theorem State.settle_reloads (t : State) : (s.settle t).reloads = t.reloads := rfl
@[simp] theorem State.settle_alm (t : State) : (s.settle t).alm = t.alm := rfl
@[simp] theorem State.settle_sec (t : State) : (s.settle t).sec = t.sec := rfl
@[simp] theorem State.settle_stt (t : State) : (s.settle t).stt = t.stt := rfl
@[simp] theorem State.settle_brg (t : State) : (s.settle t).brg = t.brg := rfl
@[simp] theorem State.settle_dmx (t : State) : (s.settle t).dmx = t.dmx := rfl
@[simp] theorem State.settle_pwr (t : State) : (s.settle t).pwr = t.pwr := rfl
@[simp] theorem State.settle_upd (t : State) : (s.settle t).upd = t.upd := rfl
@[simp] theorem State.settle_ageing (t : State) : (s.settle t).ageing = t.ageing := rfl
@[simp] theorem State.settle_banksOut (t : State) : (s.settle t).banksOut = t.banksOut := rfl
@[simp] theorem State.settle_egress (t : State) : (s.settle t).egress = t.egress ++ newVectors s t := rfl
@[simp] theorem State.settle_rd (t : State) (f : Fld) : (s.settle t).rd f = t.rd f := rfl

end Sys2Proof.Machine
end

