-- ==== Sys2Proof/Laws/Ops.lean ====
section
/-!
SUPPORT. The shared operations of Machine/Ops.lean: what each leaves alone, and what the fields it writes read as.
-/

namespace Sys2Proof.Machine

variable (s : State)

@[simp] theorem State.wrB_pending (f : Fld) (b : Bool) : (s.wrB f b).pending = s.pending := rfl
@[simp] theorem State.wrB_staged (f : Fld) (b : Bool) : (s.wrB f b).staged = s.staged := rfl
@[simp] theorem State.wrB_clk (f : Fld) (b : Bool) : (s.wrB f b).clk = s.clk := rfl
@[simp] theorem State.wrB_cycle (f : Fld) (b : Bool) : (s.wrB f b).cycle = s.cycle := rfl
@[simp] theorem State.wrB_together (f : Fld) (b : Bool) : (s.wrB f b).together = s.together := rfl
@[simp] theorem State.wrB_mem (f : Fld) (b : Bool) : (s.wrB f b).mem = s.mem := rfl
@[simp] theorem State.wrB_voided (f : Fld) (b : Bool) : (s.wrB f b).voided = s.voided := rfl
@[simp] theorem State.wrB_answer (f : Fld) (b : Bool) : (s.wrB f b).answer = s.answer := rfl
@[simp] theorem State.wrB_egress (f : Fld) (b : Bool) : (s.wrB f b).egress = s.egress := rfl
@[simp] theorem State.wrB_freeCtr (f : Fld) (b : Bool) : (s.wrB f b).freeCtr = s.freeCtr := rfl
@[simp] theorem State.wrB_bom (f : Fld) (b : Bool) : (s.wrB f b).bom = s.bom := rfl
@[simp] theorem State.wrB_tim (f : Fld) (b : Bool) : (s.wrB f b).tim = s.tim := rfl
@[simp] theorem State.wrB_tly (f : Fld) (b : Bool) : (s.wrB f b).tly = s.tly := rfl
@[simp] theorem State.wrB_queries (f : Fld) (b : Bool) : (s.wrB f b).queries = s.queries := rfl
@[simp] theorem State.wrB_sch (f : Fld) (b : Bool) : (s.wrB f b).sch = s.sch := rfl
@[simp] theorem State.wrB_slc (f : Fld) (b : Bool) : (s.wrB f b).slc = s.slc := rfl
@[simp] theorem State.wrB_fld (f : Fld) (b : Bool) : (s.wrB f b).fld = s.fld := rfl
@[simp] theorem State.wrB_chk (f : Fld) (b : Bool) : (s.wrB f b).chk = s.chk := rfl
@[simp] theorem State.wrB_swc (f : Fld) (b : Bool) : (s.wrB f b).swc = s.swc := rfl
@[simp] theorem State.wrB_ring (f : Fld) (b : Bool) : (s.wrB f b).ring = s.ring := rfl
@[simp] theorem State.wrB_slices (f : Fld) (b : Bool) : (s.wrB f b).slices = s.slices := rfl
@[simp] theorem State.wrB_ported (f : Fld) (b : Bool) : (s.wrB f b).ported = s.ported := rfl
@[simp] theorem State.wrB_cans (f : Fld) (b : Bool) : (s.wrB f b).cans = s.cans := rfl
@[simp] theorem State.wrB_canned (f : Fld) (b : Bool) : (s.wrB f b).canned = s.canned := rfl
@[simp] theorem State.wrB_saws (f : Fld) (b : Bool) : (s.wrB f b).saws = s.saws := rfl
@[simp] theorem State.wrB_reloads (f : Fld) (b : Bool) : (s.wrB f b).reloads = s.reloads := rfl
@[simp] theorem State.wrB_alm (f : Fld) (b : Bool) : (s.wrB f b).alm = s.alm := rfl
@[simp] theorem State.wrB_sec (f : Fld) (b : Bool) : (s.wrB f b).sec = s.sec := rfl
@[simp] theorem State.wrB_stt (f : Fld) (b : Bool) : (s.wrB f b).stt = s.stt := rfl
@[simp] theorem State.wrB_brg (f : Fld) (b : Bool) : (s.wrB f b).brg = s.brg := rfl
@[simp] theorem State.wrB_dmx (f : Fld) (b : Bool) : (s.wrB f b).dmx = s.dmx := rfl
@[simp] theorem State.wrB_pwr (f : Fld) (b : Bool) : (s.wrB f b).pwr = s.pwr := rfl
@[simp] theorem State.wrB_upd (f : Fld) (b : Bool) : (s.wrB f b).upd = s.upd := rfl
@[simp] theorem State.wrB_ageing (f : Fld) (b : Bool) : (s.wrB f b).ageing = s.ageing := rfl
@[simp] theorem State.wrB_banksOut (f : Fld) (b : Bool) : (s.wrB f b).banksOut = s.banksOut := rfl

@[simp] theorem State.raise_pending (f : Fld) : (s.raise f).pending = s.pending := rfl
@[simp] theorem State.raise_staged (f : Fld) : (s.raise f).staged = s.staged := rfl
@[simp] theorem State.raise_clk (f : Fld) : (s.raise f).clk = s.clk := rfl
@[simp] theorem State.raise_cycle (f : Fld) : (s.raise f).cycle = s.cycle := rfl
@[simp] theorem State.raise_together (f : Fld) : (s.raise f).together = s.together := rfl
@[simp] theorem State.raise_mem (f : Fld) : (s.raise f).mem = s.mem := rfl
@[simp] theorem State.raise_voided (f : Fld) : (s.raise f).voided = s.voided := rfl
@[simp] theorem State.raise_answer (f : Fld) : (s.raise f).answer = s.answer := rfl
@[simp] theorem State.raise_egress (f : Fld) : (s.raise f).egress = s.egress := rfl
@[simp] theorem State.raise_freeCtr (f : Fld) : (s.raise f).freeCtr = s.freeCtr := rfl
@[simp] theorem State.raise_bom (f : Fld) : (s.raise f).bom = s.bom := rfl
@[simp] theorem State.raise_tim (f : Fld) : (s.raise f).tim = s.tim := rfl
@[simp] theorem State.raise_tly (f : Fld) : (s.raise f).tly = s.tly := rfl
@[simp] theorem State.raise_queries (f : Fld) : (s.raise f).queries = s.queries := rfl
@[simp] theorem State.raise_sch (f : Fld) : (s.raise f).sch = s.sch := rfl
@[simp] theorem State.raise_slc (f : Fld) : (s.raise f).slc = s.slc := rfl
@[simp] theorem State.raise_fld (f : Fld) : (s.raise f).fld = s.fld := rfl
@[simp] theorem State.raise_chk (f : Fld) : (s.raise f).chk = s.chk := rfl
@[simp] theorem State.raise_swc (f : Fld) : (s.raise f).swc = s.swc := rfl
@[simp] theorem State.raise_ring (f : Fld) : (s.raise f).ring = s.ring := rfl
@[simp] theorem State.raise_slices (f : Fld) : (s.raise f).slices = s.slices := rfl
@[simp] theorem State.raise_ported (f : Fld) : (s.raise f).ported = s.ported := rfl
@[simp] theorem State.raise_cans (f : Fld) : (s.raise f).cans = s.cans := rfl
@[simp] theorem State.raise_canned (f : Fld) : (s.raise f).canned = s.canned := rfl
@[simp] theorem State.raise_saws (f : Fld) : (s.raise f).saws = s.saws := rfl
@[simp] theorem State.raise_reloads (f : Fld) : (s.raise f).reloads = s.reloads := rfl
@[simp] theorem State.raise_alm (f : Fld) : (s.raise f).alm = s.alm := rfl
@[simp] theorem State.raise_sec (f : Fld) : (s.raise f).sec = s.sec := rfl
@[simp] theorem State.raise_stt (f : Fld) : (s.raise f).stt = s.stt := rfl
@[simp] theorem State.raise_brg (f : Fld) : (s.raise f).brg = s.brg := rfl
@[simp] theorem State.raise_dmx (f : Fld) : (s.raise f).dmx = s.dmx := rfl
@[simp] theorem State.raise_pwr (f : Fld) : (s.raise f).pwr = s.pwr := rfl
@[simp] theorem State.raise_upd (f : Fld) : (s.raise f).upd = s.upd := rfl
@[simp] theorem State.raise_ageing (f : Fld) : (s.raise f).ageing = s.ageing := rfl
@[simp] theorem State.raise_banksOut (f : Fld) : (s.raise f).banksOut = s.banksOut := rfl

@[simp] theorem State.raiseBit_pending (f : Fld) (n : Nat) : (s.raiseBit f n).pending = s.pending := rfl
@[simp] theorem State.raiseBit_staged (f : Fld) (n : Nat) : (s.raiseBit f n).staged = s.staged := rfl
@[simp] theorem State.raiseBit_clk (f : Fld) (n : Nat) : (s.raiseBit f n).clk = s.clk := rfl
@[simp] theorem State.raiseBit_cycle (f : Fld) (n : Nat) : (s.raiseBit f n).cycle = s.cycle := rfl
@[simp] theorem State.raiseBit_together (f : Fld) (n : Nat) : (s.raiseBit f n).together = s.together := rfl
@[simp] theorem State.raiseBit_mem (f : Fld) (n : Nat) : (s.raiseBit f n).mem = s.mem := rfl
@[simp] theorem State.raiseBit_voided (f : Fld) (n : Nat) : (s.raiseBit f n).voided = s.voided := rfl
@[simp] theorem State.raiseBit_answer (f : Fld) (n : Nat) : (s.raiseBit f n).answer = s.answer := rfl
@[simp] theorem State.raiseBit_egress (f : Fld) (n : Nat) : (s.raiseBit f n).egress = s.egress := rfl
@[simp] theorem State.raiseBit_freeCtr (f : Fld) (n : Nat) : (s.raiseBit f n).freeCtr = s.freeCtr := rfl
@[simp] theorem State.raiseBit_bom (f : Fld) (n : Nat) : (s.raiseBit f n).bom = s.bom := rfl
@[simp] theorem State.raiseBit_tim (f : Fld) (n : Nat) : (s.raiseBit f n).tim = s.tim := rfl
@[simp] theorem State.raiseBit_tly (f : Fld) (n : Nat) : (s.raiseBit f n).tly = s.tly := rfl
@[simp] theorem State.raiseBit_queries (f : Fld) (n : Nat) : (s.raiseBit f n).queries = s.queries := rfl
@[simp] theorem State.raiseBit_sch (f : Fld) (n : Nat) : (s.raiseBit f n).sch = s.sch := rfl
@[simp] theorem State.raiseBit_slc (f : Fld) (n : Nat) : (s.raiseBit f n).slc = s.slc := rfl
@[simp] theorem State.raiseBit_fld (f : Fld) (n : Nat) : (s.raiseBit f n).fld = s.fld := rfl
@[simp] theorem State.raiseBit_chk (f : Fld) (n : Nat) : (s.raiseBit f n).chk = s.chk := rfl
@[simp] theorem State.raiseBit_swc (f : Fld) (n : Nat) : (s.raiseBit f n).swc = s.swc := rfl
@[simp] theorem State.raiseBit_ring (f : Fld) (n : Nat) : (s.raiseBit f n).ring = s.ring := rfl
@[simp] theorem State.raiseBit_slices (f : Fld) (n : Nat) : (s.raiseBit f n).slices = s.slices := rfl
@[simp] theorem State.raiseBit_ported (f : Fld) (n : Nat) : (s.raiseBit f n).ported = s.ported := rfl
@[simp] theorem State.raiseBit_cans (f : Fld) (n : Nat) : (s.raiseBit f n).cans = s.cans := rfl
@[simp] theorem State.raiseBit_canned (f : Fld) (n : Nat) : (s.raiseBit f n).canned = s.canned := rfl
@[simp] theorem State.raiseBit_saws (f : Fld) (n : Nat) : (s.raiseBit f n).saws = s.saws := rfl
@[simp] theorem State.raiseBit_reloads (f : Fld) (n : Nat) : (s.raiseBit f n).reloads = s.reloads := rfl
@[simp] theorem State.raiseBit_alm (f : Fld) (n : Nat) : (s.raiseBit f n).alm = s.alm := rfl
@[simp] theorem State.raiseBit_sec (f : Fld) (n : Nat) : (s.raiseBit f n).sec = s.sec := rfl
@[simp] theorem State.raiseBit_stt (f : Fld) (n : Nat) : (s.raiseBit f n).stt = s.stt := rfl
@[simp] theorem State.raiseBit_brg (f : Fld) (n : Nat) : (s.raiseBit f n).brg = s.brg := rfl
@[simp] theorem State.raiseBit_dmx (f : Fld) (n : Nat) : (s.raiseBit f n).dmx = s.dmx := rfl
@[simp] theorem State.raiseBit_pwr (f : Fld) (n : Nat) : (s.raiseBit f n).pwr = s.pwr := rfl
@[simp] theorem State.raiseBit_upd (f : Fld) (n : Nat) : (s.raiseBit f n).upd = s.upd := rfl
@[simp] theorem State.raiseBit_ageing (f : Fld) (n : Nat) : (s.raiseBit f n).ageing = s.ageing := rfl
@[simp] theorem State.raiseBit_banksOut (f : Fld) (n : Nat) : (s.raiseBit f n).banksOut = s.banksOut := rfl

@[simp] theorem State.wrBit_pending (f : Fld) (n : Nat) (b : Bool) : (s.wrBit f n b).pending = s.pending := rfl
@[simp] theorem State.wrBit_staged (f : Fld) (n : Nat) (b : Bool) : (s.wrBit f n b).staged = s.staged := rfl
@[simp] theorem State.wrBit_clk (f : Fld) (n : Nat) (b : Bool) : (s.wrBit f n b).clk = s.clk := rfl
@[simp] theorem State.wrBit_cycle (f : Fld) (n : Nat) (b : Bool) : (s.wrBit f n b).cycle = s.cycle := rfl
@[simp] theorem State.wrBit_together (f : Fld) (n : Nat) (b : Bool) : (s.wrBit f n b).together = s.together := rfl
@[simp] theorem State.wrBit_mem (f : Fld) (n : Nat) (b : Bool) : (s.wrBit f n b).mem = s.mem := rfl
@[simp] theorem State.wrBit_voided (f : Fld) (n : Nat) (b : Bool) : (s.wrBit f n b).voided = s.voided := rfl
@[simp] theorem State.wrBit_answer (f : Fld) (n : Nat) (b : Bool) : (s.wrBit f n b).answer = s.answer := rfl
@[simp] theorem State.wrBit_egress (f : Fld) (n : Nat) (b : Bool) : (s.wrBit f n b).egress = s.egress := rfl
@[simp] theorem State.wrBit_freeCtr (f : Fld) (n : Nat) (b : Bool) : (s.wrBit f n b).freeCtr = s.freeCtr := rfl
@[simp] theorem State.wrBit_bom (f : Fld) (n : Nat) (b : Bool) : (s.wrBit f n b).bom = s.bom := rfl
@[simp] theorem State.wrBit_tim (f : Fld) (n : Nat) (b : Bool) : (s.wrBit f n b).tim = s.tim := rfl
@[simp] theorem State.wrBit_tly (f : Fld) (n : Nat) (b : Bool) : (s.wrBit f n b).tly = s.tly := rfl
@[simp] theorem State.wrBit_queries (f : Fld) (n : Nat) (b : Bool) : (s.wrBit f n b).queries = s.queries := rfl
@[simp] theorem State.wrBit_sch (f : Fld) (n : Nat) (b : Bool) : (s.wrBit f n b).sch = s.sch := rfl
@[simp] theorem State.wrBit_slc (f : Fld) (n : Nat) (b : Bool) : (s.wrBit f n b).slc = s.slc := rfl
@[simp] theorem State.wrBit_fld (f : Fld) (n : Nat) (b : Bool) : (s.wrBit f n b).fld = s.fld := rfl
@[simp] theorem State.wrBit_chk (f : Fld) (n : Nat) (b : Bool) : (s.wrBit f n b).chk = s.chk := rfl
@[simp] theorem State.wrBit_swc (f : Fld) (n : Nat) (b : Bool) : (s.wrBit f n b).swc = s.swc := rfl
@[simp] theorem State.wrBit_ring (f : Fld) (n : Nat) (b : Bool) : (s.wrBit f n b).ring = s.ring := rfl
@[simp] theorem State.wrBit_slices (f : Fld) (n : Nat) (b : Bool) : (s.wrBit f n b).slices = s.slices := rfl
@[simp] theorem State.wrBit_ported (f : Fld) (n : Nat) (b : Bool) : (s.wrBit f n b).ported = s.ported := rfl
@[simp] theorem State.wrBit_cans (f : Fld) (n : Nat) (b : Bool) : (s.wrBit f n b).cans = s.cans := rfl
@[simp] theorem State.wrBit_canned (f : Fld) (n : Nat) (b : Bool) : (s.wrBit f n b).canned = s.canned := rfl
@[simp] theorem State.wrBit_saws (f : Fld) (n : Nat) (b : Bool) : (s.wrBit f n b).saws = s.saws := rfl
@[simp] theorem State.wrBit_reloads (f : Fld) (n : Nat) (b : Bool) : (s.wrBit f n b).reloads = s.reloads := rfl
@[simp] theorem State.wrBit_alm (f : Fld) (n : Nat) (b : Bool) : (s.wrBit f n b).alm = s.alm := rfl
@[simp] theorem State.wrBit_sec (f : Fld) (n : Nat) (b : Bool) : (s.wrBit f n b).sec = s.sec := rfl
@[simp] theorem State.wrBit_stt (f : Fld) (n : Nat) (b : Bool) : (s.wrBit f n b).stt = s.stt := rfl
@[simp] theorem State.wrBit_brg (f : Fld) (n : Nat) (b : Bool) : (s.wrBit f n b).brg = s.brg := rfl
@[simp] theorem State.wrBit_dmx (f : Fld) (n : Nat) (b : Bool) : (s.wrBit f n b).dmx = s.dmx := rfl
@[simp] theorem State.wrBit_pwr (f : Fld) (n : Nat) (b : Bool) : (s.wrBit f n b).pwr = s.pwr := rfl
@[simp] theorem State.wrBit_upd (f : Fld) (n : Nat) (b : Bool) : (s.wrBit f n b).upd = s.upd := rfl
@[simp] theorem State.wrBit_ageing (f : Fld) (n : Nat) (b : Bool) : (s.wrBit f n b).ageing = s.ageing := rfl
@[simp] theorem State.wrBit_banksOut (f : Fld) (n : Nat) (b : Bool) : (s.wrBit f n b).banksOut = s.banksOut := rfl

@[simp] theorem State.bump_pending (f : Fld) (n : Nat) : (s.bump f n).pending = s.pending := rfl
@[simp] theorem State.bump_staged (f : Fld) (n : Nat) : (s.bump f n).staged = s.staged := rfl
@[simp] theorem State.bump_clk (f : Fld) (n : Nat) : (s.bump f n).clk = s.clk := rfl
@[simp] theorem State.bump_cycle (f : Fld) (n : Nat) : (s.bump f n).cycle = s.cycle := rfl
@[simp] theorem State.bump_together (f : Fld) (n : Nat) : (s.bump f n).together = s.together := rfl
@[simp] theorem State.bump_mem (f : Fld) (n : Nat) : (s.bump f n).mem = s.mem := rfl
@[simp] theorem State.bump_voided (f : Fld) (n : Nat) : (s.bump f n).voided = s.voided := rfl
@[simp] theorem State.bump_answer (f : Fld) (n : Nat) : (s.bump f n).answer = s.answer := rfl
@[simp] theorem State.bump_egress (f : Fld) (n : Nat) : (s.bump f n).egress = s.egress := rfl
@[simp] theorem State.bump_freeCtr (f : Fld) (n : Nat) : (s.bump f n).freeCtr = s.freeCtr := rfl
@[simp] theorem State.bump_bom (f : Fld) (n : Nat) : (s.bump f n).bom = s.bom := rfl
@[simp] theorem State.bump_tim (f : Fld) (n : Nat) : (s.bump f n).tim = s.tim := rfl
@[simp] theorem State.bump_tly (f : Fld) (n : Nat) : (s.bump f n).tly = s.tly := rfl
@[simp] theorem State.bump_queries (f : Fld) (n : Nat) : (s.bump f n).queries = s.queries := rfl
@[simp] theorem State.bump_sch (f : Fld) (n : Nat) : (s.bump f n).sch = s.sch := rfl
@[simp] theorem State.bump_slc (f : Fld) (n : Nat) : (s.bump f n).slc = s.slc := rfl
@[simp] theorem State.bump_fld (f : Fld) (n : Nat) : (s.bump f n).fld = s.fld := rfl
@[simp] theorem State.bump_chk (f : Fld) (n : Nat) : (s.bump f n).chk = s.chk := rfl
@[simp] theorem State.bump_swc (f : Fld) (n : Nat) : (s.bump f n).swc = s.swc := rfl
@[simp] theorem State.bump_ring (f : Fld) (n : Nat) : (s.bump f n).ring = s.ring := rfl
@[simp] theorem State.bump_slices (f : Fld) (n : Nat) : (s.bump f n).slices = s.slices := rfl
@[simp] theorem State.bump_ported (f : Fld) (n : Nat) : (s.bump f n).ported = s.ported := rfl
@[simp] theorem State.bump_cans (f : Fld) (n : Nat) : (s.bump f n).cans = s.cans := rfl
@[simp] theorem State.bump_canned (f : Fld) (n : Nat) : (s.bump f n).canned = s.canned := rfl
@[simp] theorem State.bump_saws (f : Fld) (n : Nat) : (s.bump f n).saws = s.saws := rfl
@[simp] theorem State.bump_reloads (f : Fld) (n : Nat) : (s.bump f n).reloads = s.reloads := rfl
@[simp] theorem State.bump_alm (f : Fld) (n : Nat) : (s.bump f n).alm = s.alm := rfl
@[simp] theorem State.bump_sec (f : Fld) (n : Nat) : (s.bump f n).sec = s.sec := rfl
@[simp] theorem State.bump_stt (f : Fld) (n : Nat) : (s.bump f n).stt = s.stt := rfl
@[simp] theorem State.bump_brg (f : Fld) (n : Nat) : (s.bump f n).brg = s.brg := rfl
@[simp] theorem State.bump_dmx (f : Fld) (n : Nat) : (s.bump f n).dmx = s.dmx := rfl
@[simp] theorem State.bump_pwr (f : Fld) (n : Nat) : (s.bump f n).pwr = s.pwr := rfl
@[simp] theorem State.bump_upd (f : Fld) (n : Nat) : (s.bump f n).upd = s.upd := rfl
@[simp] theorem State.bump_ageing (f : Fld) (n : Nat) : (s.bump f n).ageing = s.ageing := rfl
@[simp] theorem State.bump_banksOut (f : Fld) (n : Nat) : (s.bump f n).banksOut = s.banksOut := rfl

@[simp] theorem State.wr64_pending (lo hi : Fld) (v : Nat) : (s.wr64 lo hi v).pending = s.pending := rfl
@[simp] theorem State.wr64_staged (lo hi : Fld) (v : Nat) : (s.wr64 lo hi v).staged = s.staged := rfl
@[simp] theorem State.wr64_clk (lo hi : Fld) (v : Nat) : (s.wr64 lo hi v).clk = s.clk := rfl
@[simp] theorem State.wr64_cycle (lo hi : Fld) (v : Nat) : (s.wr64 lo hi v).cycle = s.cycle := rfl
@[simp] theorem State.wr64_together (lo hi : Fld) (v : Nat) : (s.wr64 lo hi v).together = s.together := rfl
@[simp] theorem State.wr64_mem (lo hi : Fld) (v : Nat) : (s.wr64 lo hi v).mem = s.mem := rfl
@[simp] theorem State.wr64_voided (lo hi : Fld) (v : Nat) : (s.wr64 lo hi v).voided = s.voided := rfl
@[simp] theorem State.wr64_answer (lo hi : Fld) (v : Nat) : (s.wr64 lo hi v).answer = s.answer := rfl
@[simp] theorem State.wr64_egress (lo hi : Fld) (v : Nat) : (s.wr64 lo hi v).egress = s.egress := rfl
@[simp] theorem State.wr64_freeCtr (lo hi : Fld) (v : Nat) : (s.wr64 lo hi v).freeCtr = s.freeCtr := rfl
@[simp] theorem State.wr64_bom (lo hi : Fld) (v : Nat) : (s.wr64 lo hi v).bom = s.bom := rfl
@[simp] theorem State.wr64_tim (lo hi : Fld) (v : Nat) : (s.wr64 lo hi v).tim = s.tim := rfl
@[simp] theorem State.wr64_tly (lo hi : Fld) (v : Nat) : (s.wr64 lo hi v).tly = s.tly := rfl
@[simp] theorem State.wr64_queries (lo hi : Fld) (v : Nat) : (s.wr64 lo hi v).queries = s.queries := rfl
@[simp] theorem State.wr64_sch (lo hi : Fld) (v : Nat) : (s.wr64 lo hi v).sch = s.sch := rfl
@[simp] theorem State.wr64_slc (lo hi : Fld) (v : Nat) : (s.wr64 lo hi v).slc = s.slc := rfl
@[simp] theorem State.wr64_fld (lo hi : Fld) (v : Nat) : (s.wr64 lo hi v).fld = s.fld := rfl
@[simp] theorem State.wr64_chk (lo hi : Fld) (v : Nat) : (s.wr64 lo hi v).chk = s.chk := rfl
@[simp] theorem State.wr64_swc (lo hi : Fld) (v : Nat) : (s.wr64 lo hi v).swc = s.swc := rfl
@[simp] theorem State.wr64_ring (lo hi : Fld) (v : Nat) : (s.wr64 lo hi v).ring = s.ring := rfl
@[simp] theorem State.wr64_slices (lo hi : Fld) (v : Nat) : (s.wr64 lo hi v).slices = s.slices := rfl
@[simp] theorem State.wr64_ported (lo hi : Fld) (v : Nat) : (s.wr64 lo hi v).ported = s.ported := rfl
@[simp] theorem State.wr64_cans (lo hi : Fld) (v : Nat) : (s.wr64 lo hi v).cans = s.cans := rfl
@[simp] theorem State.wr64_canned (lo hi : Fld) (v : Nat) : (s.wr64 lo hi v).canned = s.canned := rfl
@[simp] theorem State.wr64_saws (lo hi : Fld) (v : Nat) : (s.wr64 lo hi v).saws = s.saws := rfl
@[simp] theorem State.wr64_reloads (lo hi : Fld) (v : Nat) : (s.wr64 lo hi v).reloads = s.reloads := rfl
@[simp] theorem State.wr64_alm (lo hi : Fld) (v : Nat) : (s.wr64 lo hi v).alm = s.alm := rfl
@[simp] theorem State.wr64_sec (lo hi : Fld) (v : Nat) : (s.wr64 lo hi v).sec = s.sec := rfl
@[simp] theorem State.wr64_stt (lo hi : Fld) (v : Nat) : (s.wr64 lo hi v).stt = s.stt := rfl
@[simp] theorem State.wr64_brg (lo hi : Fld) (v : Nat) : (s.wr64 lo hi v).brg = s.brg := rfl
@[simp] theorem State.wr64_dmx (lo hi : Fld) (v : Nat) : (s.wr64 lo hi v).dmx = s.dmx := rfl
@[simp] theorem State.wr64_pwr (lo hi : Fld) (v : Nat) : (s.wr64 lo hi v).pwr = s.pwr := rfl
@[simp] theorem State.wr64_upd (lo hi : Fld) (v : Nat) : (s.wr64 lo hi v).upd = s.upd := rfl
@[simp] theorem State.wr64_ageing (lo hi : Fld) (v : Nat) : (s.wr64 lo hi v).ageing = s.ageing := rfl
@[simp] theorem State.wr64_banksOut (lo hi : Fld) (v : Nat) : (s.wr64 lo hi v).banksOut = s.banksOut := rfl

@[simp] theorem State.wr96_pending (f : Nat → Fld) (v : Nat) : (s.wr96 f v).pending = s.pending := rfl
@[simp] theorem State.wr96_staged (f : Nat → Fld) (v : Nat) : (s.wr96 f v).staged = s.staged := rfl
@[simp] theorem State.wr96_clk (f : Nat → Fld) (v : Nat) : (s.wr96 f v).clk = s.clk := rfl
@[simp] theorem State.wr96_cycle (f : Nat → Fld) (v : Nat) : (s.wr96 f v).cycle = s.cycle := rfl
@[simp] theorem State.wr96_together (f : Nat → Fld) (v : Nat) : (s.wr96 f v).together = s.together := rfl
@[simp] theorem State.wr96_mem (f : Nat → Fld) (v : Nat) : (s.wr96 f v).mem = s.mem := rfl
@[simp] theorem State.wr96_voided (f : Nat → Fld) (v : Nat) : (s.wr96 f v).voided = s.voided := rfl
@[simp] theorem State.wr96_answer (f : Nat → Fld) (v : Nat) : (s.wr96 f v).answer = s.answer := rfl
@[simp] theorem State.wr96_egress (f : Nat → Fld) (v : Nat) : (s.wr96 f v).egress = s.egress := rfl
@[simp] theorem State.wr96_freeCtr (f : Nat → Fld) (v : Nat) : (s.wr96 f v).freeCtr = s.freeCtr := rfl
@[simp] theorem State.wr96_bom (f : Nat → Fld) (v : Nat) : (s.wr96 f v).bom = s.bom := rfl
@[simp] theorem State.wr96_tim (f : Nat → Fld) (v : Nat) : (s.wr96 f v).tim = s.tim := rfl
@[simp] theorem State.wr96_tly (f : Nat → Fld) (v : Nat) : (s.wr96 f v).tly = s.tly := rfl
@[simp] theorem State.wr96_queries (f : Nat → Fld) (v : Nat) : (s.wr96 f v).queries = s.queries := rfl
@[simp] theorem State.wr96_sch (f : Nat → Fld) (v : Nat) : (s.wr96 f v).sch = s.sch := rfl
@[simp] theorem State.wr96_slc (f : Nat → Fld) (v : Nat) : (s.wr96 f v).slc = s.slc := rfl
@[simp] theorem State.wr96_fld (f : Nat → Fld) (v : Nat) : (s.wr96 f v).fld = s.fld := rfl
@[simp] theorem State.wr96_chk (f : Nat → Fld) (v : Nat) : (s.wr96 f v).chk = s.chk := rfl
@[simp] theorem State.wr96_swc (f : Nat → Fld) (v : Nat) : (s.wr96 f v).swc = s.swc := rfl
@[simp] theorem State.wr96_ring (f : Nat → Fld) (v : Nat) : (s.wr96 f v).ring = s.ring := rfl
@[simp] theorem State.wr96_slices (f : Nat → Fld) (v : Nat) : (s.wr96 f v).slices = s.slices := rfl
@[simp] theorem State.wr96_ported (f : Nat → Fld) (v : Nat) : (s.wr96 f v).ported = s.ported := rfl
@[simp] theorem State.wr96_cans (f : Nat → Fld) (v : Nat) : (s.wr96 f v).cans = s.cans := rfl
@[simp] theorem State.wr96_canned (f : Nat → Fld) (v : Nat) : (s.wr96 f v).canned = s.canned := rfl
@[simp] theorem State.wr96_saws (f : Nat → Fld) (v : Nat) : (s.wr96 f v).saws = s.saws := rfl
@[simp] theorem State.wr96_reloads (f : Nat → Fld) (v : Nat) : (s.wr96 f v).reloads = s.reloads := rfl
@[simp] theorem State.wr96_alm (f : Nat → Fld) (v : Nat) : (s.wr96 f v).alm = s.alm := rfl
@[simp] theorem State.wr96_sec (f : Nat → Fld) (v : Nat) : (s.wr96 f v).sec = s.sec := rfl
@[simp] theorem State.wr96_stt (f : Nat → Fld) (v : Nat) : (s.wr96 f v).stt = s.stt := rfl
@[simp] theorem State.wr96_brg (f : Nat → Fld) (v : Nat) : (s.wr96 f v).brg = s.brg := rfl
@[simp] theorem State.wr96_dmx (f : Nat → Fld) (v : Nat) : (s.wr96 f v).dmx = s.dmx := rfl
@[simp] theorem State.wr96_pwr (f : Nat → Fld) (v : Nat) : (s.wr96 f v).pwr = s.pwr := rfl
@[simp] theorem State.wr96_upd (f : Nat → Fld) (v : Nat) : (s.wr96 f v).upd = s.upd := rfl
@[simp] theorem State.wr96_ageing (f : Nat → Fld) (v : Nat) : (s.wr96 f v).ageing = s.ageing := rfl
@[simp] theorem State.wr96_banksOut (f : Nat → Fld) (v : Nat) : (s.wr96 f v).banksOut = s.banksOut := rfl

@[simp] theorem State.resStart_pending (off : Nat) : (s.resStart off).pending = s.pending := rfl
@[simp] theorem State.resStart_staged (off : Nat) : (s.resStart off).staged = s.staged := rfl
@[simp] theorem State.resStart_clk (off : Nat) : (s.resStart off).clk = s.clk := rfl
@[simp] theorem State.resStart_cycle (off : Nat) : (s.resStart off).cycle = s.cycle := rfl
@[simp] theorem State.resStart_together (off : Nat) : (s.resStart off).together = s.together := rfl
@[simp] theorem State.resStart_mem (off : Nat) : (s.resStart off).mem = s.mem := rfl
@[simp] theorem State.resStart_voided (off : Nat) : (s.resStart off).voided = s.voided := rfl
@[simp] theorem State.resStart_answer (off : Nat) : (s.resStart off).answer = s.answer := rfl
@[simp] theorem State.resStart_egress (off : Nat) : (s.resStart off).egress = s.egress := rfl
@[simp] theorem State.resStart_freeCtr (off : Nat) : (s.resStart off).freeCtr = s.freeCtr := rfl
@[simp] theorem State.resStart_bom (off : Nat) : (s.resStart off).bom = s.bom := rfl
@[simp] theorem State.resStart_tim (off : Nat) : (s.resStart off).tim = s.tim := rfl
@[simp] theorem State.resStart_tly (off : Nat) : (s.resStart off).tly = s.tly := rfl
@[simp] theorem State.resStart_queries (off : Nat) : (s.resStart off).queries = s.queries := rfl
@[simp] theorem State.resStart_sch (off : Nat) : (s.resStart off).sch = s.sch := rfl
@[simp] theorem State.resStart_slc (off : Nat) : (s.resStart off).slc = s.slc := rfl
@[simp] theorem State.resStart_fld (off : Nat) : (s.resStart off).fld = s.fld := rfl
@[simp] theorem State.resStart_chk (off : Nat) : (s.resStart off).chk = s.chk := rfl
@[simp] theorem State.resStart_swc (off : Nat) : (s.resStart off).swc = s.swc := rfl
@[simp] theorem State.resStart_ring (off : Nat) : (s.resStart off).ring = s.ring := rfl
@[simp] theorem State.resStart_slices (off : Nat) : (s.resStart off).slices = s.slices := rfl
@[simp] theorem State.resStart_ported (off : Nat) : (s.resStart off).ported = s.ported := rfl
@[simp] theorem State.resStart_cans (off : Nat) : (s.resStart off).cans = s.cans := rfl
@[simp] theorem State.resStart_canned (off : Nat) : (s.resStart off).canned = s.canned := rfl
@[simp] theorem State.resStart_saws (off : Nat) : (s.resStart off).saws = s.saws := rfl
@[simp] theorem State.resStart_reloads (off : Nat) : (s.resStart off).reloads = s.reloads := rfl
@[simp] theorem State.resStart_alm (off : Nat) : (s.resStart off).alm = s.alm := rfl
@[simp] theorem State.resStart_sec (off : Nat) : (s.resStart off).sec = s.sec := rfl
@[simp] theorem State.resStart_stt (off : Nat) : (s.resStart off).stt = s.stt := rfl
@[simp] theorem State.resStart_brg (off : Nat) : (s.resStart off).brg = s.brg := rfl
@[simp] theorem State.resStart_dmx (off : Nat) : (s.resStart off).dmx = s.dmx := rfl
@[simp] theorem State.resStart_pwr (off : Nat) : (s.resStart off).pwr = s.pwr := rfl
@[simp] theorem State.resStart_upd (off : Nat) : (s.resStart off).upd = s.upd := rfl
@[simp] theorem State.resStart_ageing (off : Nat) : (s.resStart off).ageing = s.ageing := rfl
@[simp] theorem State.resStart_banksOut (off : Nat) : (s.resStart off).banksOut = s.banksOut := rfl

@[simp] theorem State.resDone_pending (off code : Nat) : (s.resDone off code).pending = s.pending := rfl
@[simp] theorem State.resDone_staged (off code : Nat) : (s.resDone off code).staged = s.staged := rfl
@[simp] theorem State.resDone_clk (off code : Nat) : (s.resDone off code).clk = s.clk := rfl
@[simp] theorem State.resDone_cycle (off code : Nat) : (s.resDone off code).cycle = s.cycle := rfl
@[simp] theorem State.resDone_together (off code : Nat) : (s.resDone off code).together = s.together := rfl
@[simp] theorem State.resDone_mem (off code : Nat) : (s.resDone off code).mem = s.mem := rfl
@[simp] theorem State.resDone_voided (off code : Nat) : (s.resDone off code).voided = s.voided := rfl
@[simp] theorem State.resDone_answer (off code : Nat) : (s.resDone off code).answer = s.answer := rfl
@[simp] theorem State.resDone_egress (off code : Nat) : (s.resDone off code).egress = s.egress := rfl
@[simp] theorem State.resDone_freeCtr (off code : Nat) : (s.resDone off code).freeCtr = s.freeCtr := rfl
@[simp] theorem State.resDone_bom (off code : Nat) : (s.resDone off code).bom = s.bom := rfl
@[simp] theorem State.resDone_tim (off code : Nat) : (s.resDone off code).tim = s.tim := rfl
@[simp] theorem State.resDone_tly (off code : Nat) : (s.resDone off code).tly = s.tly := rfl
@[simp] theorem State.resDone_queries (off code : Nat) : (s.resDone off code).queries = s.queries := rfl
@[simp] theorem State.resDone_sch (off code : Nat) : (s.resDone off code).sch = s.sch := rfl
@[simp] theorem State.resDone_slc (off code : Nat) : (s.resDone off code).slc = s.slc := rfl
@[simp] theorem State.resDone_fld (off code : Nat) : (s.resDone off code).fld = s.fld := rfl
@[simp] theorem State.resDone_chk (off code : Nat) : (s.resDone off code).chk = s.chk := rfl
@[simp] theorem State.resDone_swc (off code : Nat) : (s.resDone off code).swc = s.swc := rfl
@[simp] theorem State.resDone_ring (off code : Nat) : (s.resDone off code).ring = s.ring := rfl
@[simp] theorem State.resDone_slices (off code : Nat) : (s.resDone off code).slices = s.slices := rfl
@[simp] theorem State.resDone_ported (off code : Nat) : (s.resDone off code).ported = s.ported := rfl
@[simp] theorem State.resDone_cans (off code : Nat) : (s.resDone off code).cans = s.cans := rfl
@[simp] theorem State.resDone_canned (off code : Nat) : (s.resDone off code).canned = s.canned := rfl
@[simp] theorem State.resDone_saws (off code : Nat) : (s.resDone off code).saws = s.saws := rfl
@[simp] theorem State.resDone_reloads (off code : Nat) : (s.resDone off code).reloads = s.reloads := rfl
@[simp] theorem State.resDone_alm (off code : Nat) : (s.resDone off code).alm = s.alm := rfl
@[simp] theorem State.resDone_sec (off code : Nat) : (s.resDone off code).sec = s.sec := rfl
@[simp] theorem State.resDone_stt (off code : Nat) : (s.resDone off code).stt = s.stt := rfl
@[simp] theorem State.resDone_brg (off code : Nat) : (s.resDone off code).brg = s.brg := rfl
@[simp] theorem State.resDone_dmx (off code : Nat) : (s.resDone off code).dmx = s.dmx := rfl
@[simp] theorem State.resDone_pwr (off code : Nat) : (s.resDone off code).pwr = s.pwr := rfl
@[simp] theorem State.resDone_upd (off code : Nat) : (s.resDone off code).upd = s.upd := rfl
@[simp] theorem State.resDone_ageing (off code : Nat) : (s.resDone off code).ageing = s.ageing := rfl
@[simp] theorem State.resDone_banksOut (off code : Nat) : (s.resDone off code).banksOut = s.banksOut := rfl

/-! What the fields read as -/

@[simp] theorem State.rd_raise_same (f : Fld) : (s.raise f).rd f = 1 % 2 ^ f.w := by simp [State.raise]

theorem State.rd_raise_ne (f g : Fld) (h : g.key ≠ f.key) : (s.raise f).rd g = s.rd g := State.rd_wr_ne s f g 1 h

@[simp] theorem State.rd_bump_same (f : Fld) (n : Nat) : (s.bump f n).rd f = satAdd f.w (s.rd f) n % 2 ^ f.w := by
  simp [State.bump]

theorem State.rd_bump_ne (f g : Fld) (n : Nat) (h : g.key ≠ f.key) : (s.bump f n).rd g = s.rd g := State.rd_wr_ne s f g _ h

theorem State.rd_raiseBit_ne (f g : Fld) (n : Nat) (h : g.key ≠ f.key) : (s.raiseBit f n).rd g = s.rd g :=
  State.rd_wr_ne s f g _ h

/-! Result registers (R41) -/

theorem State.rd_resStart_seq (off : Nat) : (s.resStart off).rd (resSeq off) = (s.rd (resSeq off) + 1) % 2 ^ 8 := by
  unfold State.resStart
  rw [State.rd_wr_ne, State.rd_wr_ne, State.rd_wr_same]
  · rfl
  all_goals simp only [Fld.key, resSeq, resValid, resStale]; omega

theorem State.rd_resStart_valid (off : Nat) : (s.resStart off).rd (resValid off) = 0 := by
  unfold State.resStart
  rw [State.rd_wr_ne, State.rd_wr_same]
  · rfl
  · simp only [Fld.key, resValid, resStale]; omega

theorem State.rd_resStart_stale (off : Nat) : (s.resStart off).rd (resStale off) = 0 := by
  unfold State.resStart
  rw [State.rd_wr_same]
  rfl

theorem State.rd_resStart_other (off : Nat) (g : Fld) (h : g.off ≠ off) (hl : g.lo < 32) : (s.resStart off).rd g = s.rd g := by
  unfold State.resStart
  rw [State.rd_wr_ne, State.rd_wr_ne, State.rd_wr_ne]
  all_goals simp only [Fld.key, resSeq, resValid, resStale]; omega

theorem State.rd_resDone_code (off code : Nat) : (s.resDone off code).rd (resCode off) = code % 2 ^ 16 := by
  unfold State.resDone
  rw [State.rd_wr_ne, State.rd_wr_ne, State.rd_wr_same]
  · rfl
  all_goals simp only [Fld.key, resCode, resValid, resStale]; omega

theorem State.rd_resDone_valid (off code : Nat) : (s.resDone off code).rd (resValid off) = 1 := by
  unfold State.resDone
  rw [State.rd_wr_ne, State.rd_wr_same]
  · rfl
  · simp only [Fld.key, resValid, resStale]; omega

theorem State.rd_resDone_stale (off code : Nat) : (s.resDone off code).rd (resStale off) = 0 := by
  unfold State.resDone
  rw [State.rd_wr_same]
  rfl

theorem State.rd_resDone_seq (off code : Nat) : (s.resDone off code).rd (resSeq off) = s.rd (resSeq off) := by
  unfold State.resDone
  rw [State.rd_wr_ne, State.rd_wr_ne, State.rd_wr_ne]
  all_goals simp only [Fld.key, resSeq, resCode, resValid, resStale]; omega

theorem State.rd_resDone_other (off code : Nat) (g : Fld) (h : g.off ≠ off) (hl : g.lo < 32) :
    (s.resDone off code).rd g = s.rd g := by
  unfold State.resDone
  rw [State.rd_wr_ne, State.rd_wr_ne, State.rd_wr_ne]
  all_goals simp only [Fld.key, resCode, resValid, resStale]; omega

/-! Refused accesses (R47) -/

/-- The first refusal is captured, with its initiator, code and address. -/
theorem State.capture_first (init : Initiator) (fa code : Nat) (h : s.rd F.GLB_ACC_ERR_CAPT = 0) :
    (s.capture init fa code).rd F.GLB_ACC_ERR_CAPT = 1 ∧ (s.capture init fa code).rd F.GLB_ACC_ERR_INIT = initCode init ∧
      (s.capture init fa code).rd F.GLB_ACC_ERR_CODE = code % 2 ^ 16 ∧
      (s.capture init fa code).rd F.GLB_ACC_ADDR_LO_ADDR = fa % 2 ^ 32 ∧
      (s.capture init fa code).rd F.GLB_ACC_ADDR_HI_ADDR = fa / 2 ^ 32 % 2 ^ F.GLB_ACC_ADDR_HI_ADDR.w := by
  have hc : s.on F.GLB_ACC_ERR_CAPT = false := by simp [State.on, h]
  unfold State.capture
  simp only [hc, Bool.false_eq_true, if_false]
  refine ⟨?_, ?_, ?_, ?_, ?_⟩
  · rw [State.rd_wr_ne _ _ _ _ (by decide), State.rd_wr_ne _ _ _ _ (by decide), State.rd_wr_ne _ _ _ _ (by decide),
      State.rd_wr_ne _ _ _ _ (by decide), State.rd_raise_same]
    rfl
  · rw [State.rd_wr_ne _ _ _ _ (by decide), State.rd_wr_ne _ _ _ _ (by decide), State.rd_wr_ne _ _ _ _ (by decide), State.rd_wr_same]
    cases init <;> rfl
  · rw [State.rd_wr_ne _ _ _ _ (by decide), State.rd_wr_ne _ _ _ _ (by decide), State.rd_wr_same]
    rfl
  · rw [State.rd_wr_ne _ _ _ _ (by decide), State.rd_wr_same]
    rfl
  · rw [State.rd_wr_same]

/-- What a capture leaves alone. -/
theorem State.rd_capture_other (init : Initiator) (fa code : Nat) (g : Fld) (h1 : g.off ≠ F.GLB_ACC_ERR_CAPT.off)
    (h2 : g.off ≠ F.GLB_ACC_ADDR_LO_ADDR.off) (h3 : g.off ≠ F.GLB_ACC_ADDR_HI_ADDR.off) (hl : g.lo < 32) :
    (s.capture init fa code).rd g = s.rd g := by
  have k1 : ∀ f : Fld, f.off = F.GLB_ACC_ERR_CAPT.off → f.lo < 32 → g.key ≠ f.key := by
    intro f e l
    simp only [Fld.key]
    omega
  have k2 : g.key ≠ F.GLB_ACC_ADDR_LO_ADDR.key := by
    simp only [Fld.key, F.GLB_ACC_ADDR_LO_ADDR] at *
    omega
  have k3 : g.key ≠ F.GLB_ACC_ADDR_HI_ADDR.key := by
    simp only [Fld.key, F.GLB_ACC_ADDR_HI_ADDR] at *
    omega
  unfold State.capture
  split
  · exact State.rd_raise_ne _ F.GLB_ACC_ERR_OVF _ (k1 _ rfl (by decide))
  · rw [State.rd_wr_ne _ _ _ _ k3, State.rd_wr_ne _ _ _ _ k2, State.rd_wr_ne _ _ _ _ (k1 F.GLB_ACC_ERR_CODE rfl (by decide)),
      State.rd_wr_ne _ _ _ _ (k1 F.GLB_ACC_ERR_INIT rfl (by decide)), State.rd_raise_ne _ _ _ (k1 F.GLB_ACC_ERR_CAPT rfl (by decide))]

@[simp] theorem State.rd_refuse (init : Initiator) (fa code : Nat) (g : Fld) :
    (s.refuse init fa code).rd g = (s.capture init fa code).rd g := rfl

@[simp] theorem State.refuse_answer (init : Initiator) (fa code : Nat) : (s.refuse init fa code).answer = .error code := rfl

/-- Everything but the register file and the answer is as before a refusal. -/
theorem State.refuse_frame (init : Initiator) (fa code : Nat) :
    (s.refuse init fa code) = { s with regs := (s.capture init fa code).regs, answer := .error code } := by
  unfold State.refuse State.capture
  split <;> rfl

end Sys2Proof.Machine
end

