-- ==== Sys2Proof/Laws/Access.lean ====
section
/-! SUPPORT. Little-endian numbers, and what an access to region 0 comes to once its form and its register are known (R30, R32). -/

namespace Sys2Proof.Machine

theorem ofLe_leBytes (n : Nat) : ∀ v, v < 2 ^ (8 * n) → ofLe (leBytes n v) = v := by
  induction n with
  | zero =>
    intro v h
    simp only [Nat.mul_zero, Nat.pow_zero] at h
    simp only [leBytes, ofLe]
    omega
  | succ n ih =>
    intro v h
    have : v / 256 < 2 ^ (8 * n) := by
      rw [Nat.div_lt_iff_lt_mul (by decide)]
      calc v < 2 ^ (8 * (n + 1)) := h
        _ = 2 ^ (8 * n) * 256 := by rw [Nat.mul_add, Nat.pow_add]
    simp only [leBytes, ofLe, ih _ this]
    omega

@[simp] theorem leBytes_length (n : Nat) : ∀ v, (leBytes n v).length = n := by
  induction n with
  | zero => exact fun _ => rfl
  | succ n ih => intro v; simp [leBytes, ih]

theorem bytesAt_zero (l : List Nat) : bytesAt l 0 l.length = l := by
  apply List.ext_getElem
  · simp [bytesAt]
  · intro i h1 h2
    simp [bytesAt]

/-- A number written in n bytes reads back. -/
theorem leAt_leBytes (n v : Nat) (h : v < 2 ^ (8 * n)) : leAt (leBytes n v) 0 n = v := by
  have := bytesAt_zero (leBytes n v)
  rw [leBytes_length] at this
  rw [leAt, this, ofLe_leBytes n v h]

variable (s : State)

/-- A well-formed write of a word that nothing refuses is performed. -/
theorem State.wordWrite_perform (init : Initiator) (off w : Nat) (r : RRow) (h4 : off % 4 = 0) (hb : off + 4 ≤ 2 ^ 40)
    (ha : assignedBlock off = true) (hf : findRow off (s.persAt off) = some r) (hr : s.writeRefused off w r = none)
    (hw : w < 2 ^ 32) : s.wordWrite init off w = s.ack.regPerform (State.srdStart false) init s.self off w r := by
  have hlen : ¬ (regionEnd 0 < off + 4) := by
    simp only [regionEnd]
    omega
  unfold State.wordWrite State.csrWrite State.localWrite formCode
  simp only [leBytes_length, hlen, leAt_leBytes 4 w hw, h4, if_false, if_true, ne_eq, not_true_eq_false, Bool.not_true, Bool.false_eq_true,
    or_self]
  unfold State.regWrite
  simp only [ha, hf, hr, Bool.not_true, Bool.false_eq_true, if_false]

/-- A well-formed read of region 0 is the register's. -/
theorem State.localRead_word (init : Initiator) (off : Nat) (h4 : off % 4 = 0) (hb : off + 4 ≤ 2 ^ 40) :
    s.localRead init 0 off 4 = s.regRead init off := by
  have hlen : ¬ (regionEnd 0 < off + 4) := by
    simp only [regionEnd]
    omega
  unfold State.localRead formCode
  simp only [hlen, h4, if_false, if_true, ne_eq, not_true_eq_false, Bool.not_true, Bool.false_eq_true, or_self]

/-- A write of a register that is no half of a pair: its fields take the word, and then what it starts happens. -/
theorem State.regPerform_single (srd : State → Initiator → State) (init : Initiator) (src off word : Nat) (r : RRow)
    (h1 : lowHalves.contains r.off = false) (h2 : lowHalves.contains (r.off - 4) = false) :
    s.regPerform srd init src off word r =
      (r.fields.foldl (fun (t : State) (f : FRow) =>
        if f.acc = .rw ∧ ownField r f.lo off (s.persAt off) then t
        else t.putField (off / 0x10000) f (r.place off (s.persAt off) (bankOf init)) word) s).regAction srd init src off word r := by
  unfold State.regPerform
  simp only [h1, h2, Bool.false_eq_true, if_false]

end Sys2Proof.Machine
end

