-- ==== Sys2Proof/Laws/Keeps.lean ====
section
/-!
SUPPORT. `Keeps s t`: t comes from s by operations of the block. They keep the canonical forms of the memories and the register
file and the bound of the Boom queue, they leave the queue of commands alone, and they take back nothing that was sent.
The files Keeps*.lean show it once for every operation, so that no later proof unfolds one.
-/

namespace Sys2Proof.Machine

/-- What every operation of the block keeps. -/
structure Keeps (s t : State) : Prop where
  good : s.Good → t.Good
  pending : t.pending = s.pending
  egress : s.egress <+: t.egress

variable {s₀ s t x y : State}

theorem Keeps.refl (s : State) : Keeps s s := ⟨id, rfl, List.prefix_refl _⟩

theorem Keeps.trans (h : Keeps s t) (k : Keeps t x) : Keeps s x :=
  ⟨fun g => k.good (h.good g), k.pending.trans h.pending, h.egress.trans k.egress⟩

/-- A state reached on the way. -/
theorem Keeps.cut (h : Keeps s₀ x) (k : Keeps s₀ x → Keeps s₀ y) : Keeps s₀ y := k h

/-- A state that agrees on what is kept. -/
theorem Keeps.same (h : Keeps s₀ x) (hr : y.regs = x.regs) (hm : y.mem = x.mem) (hb : y.bom.queue = x.bom.queue)
    (hp : y.pending = x.pending) (he : y.egress = x.egress) : Keeps s₀ y := by
  refine ⟨fun g => ?_, hp.trans h.pending, he ▸ h.egress⟩
  obtain ⟨a, b, c⟩ := h.good g
  exact ⟨hm ▸ a, hr ▸ b, hb ▸ c⟩

/-- An update of fields of the state that nothing is claimed of. -/
theorem Keeps.upd
    {staged : SMap Nat} {clk : Nat} {cycle : List Mark} {together : Nat} {voided : Bool} {answer : Answer} {freeCtr : Nat} {tim : TimState} {tly : SMap TallySlot} {queries
    : SMap Query} {sch : SchState} {slc : SlcState} {fld : FldState} {chk : ChkState} {swc : SwcState} {ring : RingState} {slices :
    SMap SliceState} {ported : Nat} {cans : SMap CanState} {canned : Nat} {saws : SMap SawState} {reloads : SMap (Nat × Bool)} {alm :
    AlmState} {sec : SecState} {stt : SttState} {brg : BrgState} {dmx : DmxState} {pwr : PwrState} {upd : UpdState} {ageing : SMap
    AgeReading} {banksOut : Nat} {b : BomState} {e : List Out}
    (h : Keeps s₀ x) (hb : b.queue = x.bom.queue := by rfl) (he : e = x.egress := by rfl) :
    Keeps s₀
      ⟨x.pending, x.regs, staged, clk, cycle, together, x.mem, voided, answer, e, freeCtr, b, tim, tly, queries, sch, slc, fld, chk, swc, ring,
        slices, ported, cans, canned, saws, reloads, alm, sec, stt, brg, dmx, pwr, upd, ageing, banksOut⟩ :=
  h.same rfl rfl hb rfl he

/-- A fold over a list. -/
theorem Keeps.foldl {α : Type} {f : State → α → State} {l : List α} (h : Keeps s₀ x)
    (hf : ∀ t a, Keeps s₀ t → Keeps s₀ (f t a)) : Keeps s₀ (l.foldl f x) := by
  induction l generalizing x with
  | nil => exact h
  | cons a l ih => exact ih (hf x a h)

/-- A fold that carries more than the state. -/
theorem Keeps.foldlFst {α β : Type} {f : State × β → α → State × β} {l : List α} {p : State × β} (h : Keeps s₀ p.1)
    (hf : ∀ q a, Keeps s₀ q.1 → Keeps s₀ (f q a).1) : Keeps s₀ (l.foldl f p).1 := by
  induction l generalizing p with
  | nil => exact h
  | cons a l ih => exact ih (hf p a h)

/-- The state of a pair. -/
theorem Keeps.pair {β : Type} {b : β} (h : Keeps s₀ x) : Keeps s₀ (x, b).1 := h

/-- The state of a pair that was taken apart. -/
theorem Keeps.fst {β : Type} {p : State × β} {b : β} (e : p = (x, b)) (h : Keeps s₀ p.1) : Keeps s₀ x := by
  rw [e] at h
  exact h

/-- The state that a choice gave. -/
theorem Keeps.opt {o : Option State} (e : o = some x) (h : ∀ y, o = some y → Keeps s₀ y) : Keeps s₀ x := h x e

/-- The state that a choice gave with something else. -/
theorem Keeps.optFst {β : Type} {o : Option (State × β)} {b : β} (e : o = some (x, b))
    (h : ∀ q, o = some q → Keeps s₀ q.1) : Keeps s₀ x := h _ e

/-! Memory -/

/-- Writing a byte keeps the canonical form. -/
theorem Mem.set_wf (m : List Host.Cell) (a : Nat) (v : Byte) (h : Memory.wf m = true) : Memory.wf (Mem.set m a v) = true := by
  simp only [Memory.wf, Bool.and_eq_true] at *
  refine ⟨SMap.rises_put m a v 0 h.1, ?_⟩
  unfold Mem.set SMap.put
  split
  · exact List.all_eq_true.2 fun c hc => List.all_eq_true.1 h.2 c (List.mem_filter.1 hc).1
  · rename_i hv
    exact SMap.all_insert (fun c => c != 0) m a v (by simpa using hv) h.2

/-- Dropping cells keeps the canonical form. -/
theorem Mem.filter_wf (p : Host.Cell → Bool) (m : List Host.Cell) (h : Memory.wf m = true) : Memory.wf (m.filter p) = true := by
  simp only [Memory.wf, Bool.and_eq_true] at *
  exact ⟨SMap.rises_filter p m h.1, List.all_eq_true.2 fun c hc => List.all_eq_true.1 h.2 c (List.mem_filter.1 hc).1⟩

/-- Storing bytes keeps the canonical form. -/
theorem Mem.store_wf (bs : List Nat) : ∀ (m : List Host.Cell) (a : Nat), Memory.wf m = true → Memory.wf (Mem.store m a bs) = true := by
  induction bs with
  | nil => exact fun m a h => h
  | cons b bs ih => exact fun m a h => ih _ _ (Mem.set_wf m a _ h)

/-- A byte read after a write of it. -/
@[simp] theorem Mem.get_set_same (m : List Host.Cell) (a : Nat) (v : Byte) : Mem.get (Mem.set m a v) a = v := by
  simp [Mem.get, Mem.set]

/-- A write leaves every other byte alone. -/
theorem Mem.get_set_ne (m : List Host.Cell) (a b : Nat) (v : Byte) (h : b ≠ a) : Mem.get (Mem.set m a v) b = Mem.get m b := by
  simp [Mem.get, Mem.set, SMap.getD_put_ne _ _ _ _ _ _ h]

/-- A byte outside the stored range reads as before. -/
theorem Mem.get_store_out (bs : List Nat) : ∀ (m : List Host.Cell) (a b : Nat), b < a ∨ a + bs.length ≤ b →
    Mem.get (Mem.store m a bs) b = Mem.get m b := by
  induction bs with
  | nil => intro m a b _; rfl
  | cons c bs ih =>
    intro m a b h
    simp only [List.length_cons] at h
    rw [Mem.store, ih _ _ _ (by omega), Mem.get_set_ne _ _ _ _ (by omega)]

/-! The operations that touch what is kept -/

theorem State.wr_keeps (f : Fld) (v : Nat) (h : Keeps s₀ s) : Keeps s₀ (s.wr f v) :=
  ⟨fun g => ⟨(h.good g).mem, SMap.rises_put _ _ _ _ (h.good g).regs, (h.good g).queue⟩, h.pending, h.egress⟩

/-- A fold of field writes. -/
theorem State.regsFilter_keeps (p : Nat × Nat → Bool) (h : Keeps s₀ s) : Keeps s₀ { s with regs := s.regs.filter p } :=
  ⟨fun g => ⟨(h.good g).mem, SMap.rises_filter _ _ (h.good g).regs, (h.good g).queue⟩, h.pending, h.egress⟩

theorem State.memFilter_keeps (p : Host.Cell → Bool) (h : Keeps s₀ s) : Keeps s₀ { s with mem := s.mem.filter p } :=
  ⟨fun g => ⟨Mem.filter_wf _ _ (h.good g).mem, (h.good g).regs, (h.good g).queue⟩, h.pending, h.egress⟩

theorem State.store_keeps (r o : Nat) (bs : List Nat) (h : Keeps s₀ s) : Keeps s₀ (s.store r o bs) :=
  ⟨fun g => ⟨Mem.store_wf _ _ _ (h.good g).mem, (h.good g).regs, (h.good g).queue⟩, h.pending, h.egress⟩

theorem State.emit_keeps (o : Out) (h : Keeps s₀ s) : Keeps s₀ (s.emit o) :=
  ⟨fun g => ⟨(h.good g).mem, (h.good g).regs, (h.good g).queue⟩, h.pending, h.egress.trans (List.prefix_append _ _)⟩

theorem State.settle_keeps (a : State) (h : Keeps s₀ s) : Keeps s₀ (a.settle s) :=
  ⟨fun g => ⟨(h.good g).mem, (h.good g).regs, (h.good g).queue⟩, h.pending, h.egress.trans (List.prefix_append _ _)⟩

theorem State.mark_keeps (m : Mark) (h : Keeps s₀ s) : Keeps s₀ (s.mark m) := h.upd

theorem State.boom_keeps (r : BoomRec) (h : Keeps s₀ s) : Keeps s₀ (s.boom r) := by
  have k : Keeps s₀ { s with bom := { s.bom with queue := (s.boomPlace r).take 16 } } :=
    ⟨fun g => ⟨(h.good g).mem, (h.good g).regs, List.length_take_le _ _⟩, h.pending, h.egress⟩
  unfold State.boom
  extract_lets q t
  split
  · exact State.mark_keeps _ k
  · exact State.wr_keeps _ _ (State.wr_keeps _ _ k)

/-! What a command answers -/

/-- Every next state that an answer gives is kept. -/
def KeepsRes (s : State) (r : Res) : Prop := ∀ t, r = .next t → Keeps s t

theorem KeepsRes.next (h : Keeps s t) : KeepsRes s (.next t) := fun _ e => by
  injection e with e
  exact e ▸ h

theorem KeepsRes.guardedVigil {k : State → State} (h : ∀ x, Keeps s x → Keeps s (k x)) : KeepsRes s (guardedVigil s k) := fun t e => by
  rw [(guardedVigil_cases s k t e).2]
  exact State.settle_keeps _ (h s (Keeps.refl s))

theorem KeepsRes.guarded {k : State → State} (h : ∀ x, Keeps s x → Keeps s (k x)) : KeepsRes s (guarded s k) := fun t e => by
  rw [(guarded_cases s k t e).2]
  refine State.settle_keeps _ ?_
  split
  · exact Keeps.refl s
  · exact h s (Keeps.refl s)

end Sys2Proof.Machine
end

