-- ==== Sys2Proof/Laws/KeepsOps.lean ====
section
/-! SUPPORT. The operations of Machine/Ops.lean keep the canonical forms, the queue and what was sent. -/

namespace Sys2Proof.Machine

variable {s₀ : State}

theorem State.wrB_keeps (s : State) (f : Fld) (b : Bool) (kept : Keeps s₀ s) : Keeps s₀ (State.wrB s f b) := by
  unfold State.wrB
  repeat' first
    | with_reducible assumption
    | with_reducible apply State.wr_keeps

theorem State.raise_keeps (s : State) (f : Fld) (kept : Keeps s₀ s) : Keeps s₀ (State.raise s f) := by
  unfold State.raise
  repeat' first
    | with_reducible assumption
    | with_reducible apply State.wr_keeps

theorem State.raiseBit_keeps (s : State) (f : Fld) (n : Nat) (kept : Keeps s₀ s) : Keeps s₀ (State.raiseBit s f n) := by
  unfold State.raiseBit
  repeat' first
    | with_reducible assumption
    | with_reducible apply State.wr_keeps

theorem State.wrBit_keeps (s : State) (f : Fld) (n : Nat) (b : Bool) (kept : Keeps s₀ s) : Keeps s₀ (State.wrBit s f n b) := by
  unfold State.wrBit
  repeat' first
    | with_reducible assumption
    | with_reducible apply State.wr_keeps

theorem State.bump_keeps (s : State) (f : Fld) (n : Nat) (kept : Keeps s₀ s) : Keeps s₀ (State.bump s f n) := by
  unfold State.bump
  repeat' first
    | with_reducible assumption
    | with_reducible apply State.wr_keeps

theorem State.wr64_keeps (s : State) (lo hi : Fld) (v : Nat) (kept : Keeps s₀ s) : Keeps s₀ (State.wr64 s lo hi v) := by
  unfold State.wr64
  repeat' first
    | with_reducible assumption
    | with_reducible apply State.wr_keeps

theorem State.wr96_keeps (s : State) (f : Nat → Fld) (v : Nat) (kept : Keeps s₀ s) : Keeps s₀ (State.wr96 s f v) := by
  unfold State.wr96
  repeat' first
    | with_reducible assumption
    | with_reducible apply State.wr_keeps

theorem State.resStart_keeps (s : State) (off : Nat) (kept : Keeps s₀ s) : Keeps s₀ (State.resStart s off) := by
  unfold State.resStart
  repeat' first
    | with_reducible assumption
    | with_reducible apply State.wr_keeps

theorem State.resDone_keeps (s : State) (off code : Nat) (kept : Keeps s₀ s) : Keeps s₀ (State.resDone s off code) := by
  unfold State.resDone
  repeat' first
    | with_reducible assumption
    | with_reducible apply State.wr_keeps

theorem State.capture_keeps (s : State) (init : Initiator) (fa code : Nat) (kept : Keeps s₀ s) : Keeps s₀ (State.capture s init fa code) := by
  unfold State.capture
  repeat' first
    | with_reducible assumption
    | with_reducible apply State.raise_keeps
    | with_reducible apply State.wr_keeps
    | split

theorem State.refuse_keeps (s : State) (init : Initiator) (fa code : Nat) (kept : Keeps s₀ s) : Keeps s₀ (State.refuse s init fa code) := by
  unfold State.refuse
  repeat' first
    | with_reducible assumption
    | exact rfl
    | with_reducible apply State.capture_keeps
    | (extract_lets +onlyGivenNames x; with_reducible refine Keeps.cut (x := x) ?_ fun _ => ?_; rotate_left; clear_value x; rotate_left; subst x)
    | with_reducible refine Keeps.upd ?_ ?_ ?_

theorem State.refuseReg_keeps (s : State) (init : Initiator) (off code : Nat) (kept : Keeps s₀ s) : Keeps s₀ (State.refuseReg s init off code) := by
  unfold State.refuseReg
  repeat' first
    | with_reducible assumption
    | with_reducible apply State.refuse_keeps

theorem State.ack_keeps (s : State) (kept : Keeps s₀ s) : Keeps s₀ (State.ack s) := by
  unfold State.ack
  repeat' first
    | with_reducible assumption
    | exact rfl
    | with_reducible refine Keeps.upd ?_ ?_ ?_

theorem State.give_keeps (s : State) (ws : List Nat) (kept : Keeps s₀ s) : Keeps s₀ (State.give s ws) := by
  unfold State.give
  repeat' first
    | with_reducible assumption
    | exact rfl
    | with_reducible refine Keeps.upd ?_ ?_ ?_

theorem State.draw_keeps (s : State) (kept : Keeps s₀ s) : Keeps s₀ (State.draw s) := by
  unfold State.draw
  repeat' first
    | with_reducible assumption
    | exact rfl
    | with_reducible refine Keeps.upd ?_ ?_ ?_

theorem State.boomState_keeps (s : State) (subsys unit state : Nat) (kept : Keeps s₀ s) : Keeps s₀ (State.boomState s subsys unit state) := by
  unfold State.boomState
  repeat' first
    | with_reducible assumption
    | with_reducible apply State.boom_keeps

theorem State.boomLimited_keeps (s : State) (source : Nat) (r : BoomRec) (kept : Keeps s₀ s) : Keeps s₀ (State.boomLimited s source r) := by
  unfold State.boomLimited
  repeat' first
    | with_reducible assumption
    | exact rfl
    | with_reducible apply State.boom_keeps
    | (extract_lets +onlyGivenNames x; with_reducible refine Keeps.cut (x := x) ?_ fun _ => ?_; rotate_left; clear_value x; rotate_left; subst x)
    | (extract_lets +onlyGivenNames x; have _ : BomState := x; subst x)
    | split
    | with_reducible refine Keeps.upd ?_ ?_ ?_

theorem State.captureFault_keeps (s : State) (subsys cls : Nat) (kept : Keeps s₀ s) : Keeps s₀ (State.captureFault s subsys cls) := by
  unfold State.captureFault
  repeat' first
    | with_reducible assumption
    | with_reducible apply State.raise_keeps
    | with_reducible apply State.wr_keeps
    | with_reducible apply State.wr96_keeps
    | with_reducible apply State.mark_keeps
    | (extract_lets +onlyGivenNames x; with_reducible refine Keeps.cut (x := x) ?_ fun _ => ?_; rotate_left; clear_value x; rotate_left; subst x)
    | split

theorem State.firstFault_keeps (s : State) (subsys cls : Nat) (kept : Keeps s₀ s) : Keeps s₀ (State.firstFault s subsys cls) := by
  unfold State.firstFault
  repeat' first
    | with_reducible assumption
    | with_reducible apply State.mark_keeps
    | with_reducible apply State.captureFault_keeps
    | split

theorem State.waitingFaults_keeps (s : State) (kept : Keeps s₀ s) : Keeps s₀ (State.waitingFaults s) := by
  unfold State.waitingFaults
  repeat' first
    | with_reducible assumption
    | exact rfl
    | with_reducible apply State.captureFault_keeps
    | with_reducible refine Keeps.foldl ?_ fun _ _ _ => ?_
    | (extract_lets +onlyGivenNames x; clear_value x)
    | split

theorem State.fault_keeps (s : State) (subsys cls : Nat) (inj : Bool) (kept : Keeps s₀ s) : Keeps s₀ (State.fault s subsys cls inj) := by
  unfold State.fault
  repeat' first
    | with_reducible assumption
    | exact rfl
    | with_reducible apply State.raiseBit_keeps
    | with_reducible apply State.bump_keeps
    | with_reducible apply State.raise_keeps
    | with_reducible apply State.firstFault_keeps
    | with_reducible apply State.boomLimited_keeps
    | with_reducible apply State.boom_keeps
    | (extract_lets +onlyGivenNames x; with_reducible refine Keeps.cut (x := x) ?_ fun _ => ?_; rotate_left; clear_value x; rotate_left; subst x)
    | (extract_lets +onlyGivenNames x; clear_value x)
    | split

end Sys2Proof.Machine
end

