-- ==== Sys2Proof/Laws/KeepsPowerState.lean ====
section
/-! SUPPORT. The operations of Machine/PowerState.lean keep the canonical forms, the queue and what was sent. -/

namespace Sys2Proof.Machine

variable {s₀ : State}

theorem State.toPower_keeps (s : State) (n st : Nat) (kept : Keeps s₀ s) : Keeps s₀ (State.toPower s n st) := by
  unfold State.toPower
  repeat' first
    | with_reducible assumption
    | with_reducible apply State.wr_keeps

theorem State.holdTrigger_keeps (s : State) (n kind unit param : Nat) (kept : Keeps s₀ s) : Keeps s₀ (State.holdTrigger s n kind unit param) := by
  unfold State.holdTrigger
  repeat' first
    | with_reducible assumption
    | exact rfl
    | (extract_lets +onlyGivenNames x; clear_value x)
    | with_reducible refine Keeps.upd ?_ ?_ ?_

theorem State.wake_keeps (s : State) (n : Nat) (kept : Keeps s₀ s) : Keeps s₀ (State.wake s n) := by
  unfold State.wake
  repeat' first
    | with_reducible assumption
    | exact rfl
    | (extract_lets +onlyGivenNames x; clear_value x)
    | split
    | with_reducible refine Keeps.upd ?_ ?_ ?_

end Sys2Proof.Machine
end

