-- ==== Sys2Proof/Laws/KeepsFrames.lean ====
section
/-! SUPPORT. The operations of Machine/Frames.lean keep the canonical forms, the queue and what was sent. -/

namespace Sys2Proof.Machine

variable {s₀ : State}

theorem State.setMac_keeps (s : State) (p : Nat) (m : MacState) (kept : Keeps s₀ s) : Keeps s₀ (State.setMac s p m) := by
  unfold State.setMac
  repeat' first
    | with_reducible assumption
    | exact rfl
    | (extract_lets +onlyGivenNames x; clear_value x)
    | with_reducible refine Keeps.upd ?_ ?_ ?_

theorem State.wrapChanged_keeps (s : State) (kept : Keeps s₀ s) : Keeps s₀ (State.wrapChanged s) := by
  unfold State.wrapChanged
  repeat' first
    | with_reducible assumption
    | with_reducible apply State.wrB_keeps
    | with_reducible apply State.raise_keeps
    | (extract_lets +onlyGivenNames x; with_reducible refine Keeps.cut (x := x) ?_ fun _ => ?_; rotate_left; clear_value x; rotate_left; subst x)
    | (extract_lets +onlyGivenNames x; clear_value x)
    | split

theorem State.arrive_keeps (s : State) (a : Arrival) (kept : Keeps s₀ s) : Keeps s₀ (State.arrive s a) := by
  unfold State.arrive
  repeat' first
    | with_reducible assumption
    | exact rfl
    | (extract_lets +onlyGivenNames x; clear_value x)
    | with_reducible refine Keeps.upd ?_ ?_ ?_

theorem State.deliver_keeps (s : State) (inPort : Nat) (f : Frame) (undo : Option (Nat × Option Window)) (kept : Keeps s₀ s) : Keeps s₀ (State.deliver s inPort f undo) := by
  unfold State.deliver
  repeat' first
    | with_reducible assumption
    | exact rfl
    | with_reducible apply State.arrive_keeps
    | with_reducible apply State.emit_keeps
    | split

theorem State.stampFrame_keeps (s : State) (f : Frame) (kept : Keeps s₀ s) : Keeps s₀ (State.stampFrame s f).1 := by
  unfold State.stampFrame
  repeat' first
    | with_reducible assumption
    | exact rfl
    | (extract_lets +onlyGivenNames x; clear_value x)
    | split
    | with_reducible refine Keeps.upd ?_ ?_ ?_

theorem State.unreachable_keeps (s : State) (code : Nat) (kept : Keeps s₀ s) : Keeps s₀ (State.unreachable s code) := by
  unfold State.unreachable
  repeat' first
    | with_reducible assumption
    | with_reducible apply State.bump_keeps
    | split

theorem State.originate_keeps (s : State) (inPort : Nat) (f : Frame) (lq : Option Nat) (kept : Keeps s₀ s) : Keeps s₀ (State.originate s inPort f lq).1 := by
  unfold State.originate
  repeat' first
    | with_reducible assumption
    | exact rfl
    | with_reducible refine Keeps.fst (by with_reducible assumption) ?_
    | with_reducible apply State.unreachable_keeps
    | with_reducible apply State.stampFrame_keeps
    | with_reducible apply State.emit_keeps
    | with_reducible apply State.deliver_keeps
    | with_reducible apply State.arrive_keeps
    | (extract_lets +onlyGivenNames x; clear_value x)
    | split

theorem State.send_keeps (s : State) (inPort : Nat) (f : Frame) (kept : Keeps s₀ s) : Keeps s₀ (State.send s inPort f) := by
  unfold State.send
  repeat' first
    | with_reducible assumption
    | with_reducible refine Keeps.fst (by with_reducible assumption) ?_
    | with_reducible apply State.originate_keeps

theorem State.sendNak_keeps (s : State) (f : Frame) (code : Nat) (kept : Keeps s₀ s) : Keeps s₀ (State.sendNak s f code) := by
  unfold State.sendNak
  repeat' first
    | with_reducible assumption
    | exact rfl
    | with_reducible apply State.send_keeps
    | with_reducible apply State.bump_keeps
    | (extract_lets +onlyGivenNames x; have _ : State → _ := x; subst x)
    | (extract_lets +onlyGivenNames x; clear_value x)
    | split
    | with_reducible refine Keeps.upd ?_ ?_ ?_

theorem State.report_keeps (s : State) (f : Frame) (code : Nat) (kept : Keeps s₀ s) : Keeps s₀ (State.report s f code) := by
  unfold State.report
  repeat' first
    | with_reducible assumption
    | with_reducible apply State.deliver_keeps
    | with_reducible apply State.sendNak_keeps
    | split

theorem State.toHead_keeps (s : State) (payload : List Nat) (kept : Keeps s₀ s) : Keeps s₀ (State.toHead s payload) := by
  unfold State.toHead
  repeat' first
    | with_reducible assumption
    | with_reducible apply State.deliver_keeps
    | with_reducible apply State.send_keeps
    | split

theorem State.violation_keeps (s : State) (port code : Nat) (data : Nat) (kept : Keeps s₀ s) : Keeps s₀ (State.violation s port code data) := by
  unfold State.violation
  repeat' first
    | with_reducible assumption
    | with_reducible apply State.boomLimited_keeps

theorem State.headerViolation_keeps (s : State) (port : Nat) (f : Frame) (kept : Keeps s₀ s) : Keeps s₀ (State.headerViolation s port f) := by
  unfold State.headerViolation
  repeat' first
    | with_reducible assumption
    | with_reducible apply State.bump_keeps
    | with_reducible apply State.raise_keeps
    | with_reducible apply State.violation_keeps
    | with_reducible apply State.sendNak_keeps

theorem State.windowStep_keeps (s : State) (f : Frame) (kept : Keeps s₀ s) : Keeps s₀ (State.windowStep s f).1 := by
  unfold State.windowStep
  repeat' first
    | with_reducible assumption
    | exact rfl
    | with_reducible apply State.bump_keeps
    | (extract_lets +onlyGivenNames x; clear_value x)
    | split
    | with_reducible refine Keeps.upd ?_ ?_ ?_

theorem State.clearWindows_keeps (s : State) (station : Nat) (kept : Keeps s₀ s) : Keeps s₀ (State.clearWindows s station) := by
  unfold State.clearWindows
  repeat' first
    | with_reducible assumption
    | exact rfl
    | (extract_lets +onlyGivenNames x; clear_value x)
    | intro _
    | with_reducible refine Keeps.upd ?_ ?_ ?_

theorem State.sendPosted_keeps (s : State) (inPort tc dest : Nat) (region off : Nat) (data : List Nat) (kept : Keeps s₀ s) : Keeps s₀ (State.sendPosted s inPort tc dest region off data) := by
  unfold State.sendPosted
  repeat' first
    | with_reducible assumption
    | with_reducible apply State.send_keeps

end Sys2Proof.Machine
end

