-- ==== Sys2Proof/Laws/KeepsSwitch.lean ====
section
/-! SUPPORT. The operations of Machine/Switch.lean keep the canonical forms, the queue and what was sent. -/

namespace Sys2Proof.Machine

variable {s₀ : State}

theorem State.drr_keeps (s : State) (p : Nat) (l : List BufFrame) (k : Nat) (h : Keeps s₀ s) :
    ∀ q, State.drr s p l k = some q → Keeps s₀ q.1 := by
  induction k generalizing s with
  | zero => intro q e; cases e
  | succ k ih =>
    intro q e
    unfold State.drr at e
    dsimp only at e
    split at e
    · split at e
      · injection e with e
        exact e ▸ Keeps.upd h
      · exact ih _ (Keeps.upd h) q e
    · exact ih _ (Keeps.upd h) q e

theorem State.choose_keeps (s : State) (p : Nat) (h : Keeps s₀ s) : ∀ q, State.choose s p = some q → Keeps s₀ q.1 := by
  intro q e
  unfold State.choose at e
  dsimp only at e
  split at e
  · injection e with e
    exact e ▸ h
  · split at e
    · injection e with e
      exact e ▸ h
    · split at e
      · exact State.drr_keeps s p _ _ h q e
      · obtain ⟨b, _, rfl⟩ := Option.map_eq_some_iff.1 e
        exact h

theorem State.evictOne_keeps (s : State) (l : List Nat) (h : Keeps s₀ s) : ∀ y, State.evictOne s l = some y → Keeps s₀ y := by
  induction l with
  | nil => intro y e; cases e
  | cons c l ih =>
    intro y e
    unfold State.evictOne at e
    split at e
    · exact ih y e
    · injection e with e
      subst e
      split
      all_goals
        with_reducible apply State.raise_keeps
        with_reducible apply State.bump_keeps
        exact Keeps.upd h

theorem State.pushOut_keeps (s : State) (cats : List Nat) (c n k : Nat) (h : Keeps s₀ s) :
    Keeps s₀ (State.pushOut s cats c n k) := by
  induction k generalizing s with
  | zero => exact h
  | succ k ih =>
    unfold State.pushOut
    split
    · exact h
    · split
      · rename_i e
        exact ih _ (State.evictOne_keeps s cats h _ e)
      · exact h

theorem State.mirrorCopy_keeps (s : State) (f : Frame) (inPort : Nat) (kept : Keeps s₀ s) : Keeps s₀ (State.mirrorCopy s f inPort) := by
  unfold State.mirrorCopy
  repeat' first
    | with_reducible assumption
    | exact rfl
    | with_reducible apply State.bump_keeps
    | with_reducible apply State.raise_keeps
    | (extract_lets +onlyGivenNames x; clear_value x)
    | split
    | with_reducible refine Keeps.upd ?_ ?_ ?_

theorem State.placed_keeps (s : State) (a : Arrival) (n g : Nat) (kept : Keeps s₀ s) : Keeps s₀ (State.placed s a n g) := by
  unfold State.placed
  repeat' first
    | with_reducible assumption
    | exact rfl
    | with_reducible apply State.mirrorCopy_keeps
    | (extract_lets +onlyGivenNames x; with_reducible refine Keeps.cut (x := x) ?_ fun _ => ?_; rotate_left; clear_value x; rotate_left; subst x)
    | (extract_lets +onlyGivenNames x; clear_value x)
    | split
    | intro _
    | with_reducible refine Keeps.upd ?_ ?_ ?_

theorem State.hopNak_keeps (s : State) (port : Nat) (kept : Keeps s₀ s) : Keeps s₀ (State.hopNak s port) := by
  unfold State.hopNak
  repeat' first
    | with_reducible assumption
    | exact rfl
    | with_reducible apply State.setMac_keeps
    | with_reducible apply State.bump_keeps
    | with_reducible apply State.emit_keeps

theorem State.notReceived_keeps (s : State) (a : Arrival) (kept : Keeps s₀ s) : Keeps s₀ (State.notReceived s a) := by
  unfold State.notReceived
  repeat' first
    | with_reducible assumption
    | exact rfl
    | with_reducible apply State.setMac_keeps
    | with_reducible apply State.hopNak_keeps
    | (extract_lets +onlyGivenNames x; clear_value x)
    | split
    | with_reducible refine Keeps.upd ?_ ?_ ?_

theorem State.classDrop_keeps (s : State) (c : Nat) (kept : Keeps s₀ s) : Keeps s₀ (State.classDrop s c) := by
  unfold State.classDrop
  repeat' first
    | with_reducible assumption
    | with_reducible apply State.bump_keeps
    | with_reducible apply State.raise_keeps

theorem State.noRoom_keeps (s : State) (a : Arrival) (c : Nat) (kept : Keeps s₀ s) : Keeps s₀ (State.noRoom s a c).1 := by
  unfold State.noRoom
  repeat' first
    | with_reducible assumption
    | with_reducible apply State.bump_keeps
    | with_reducible apply State.raise_keeps
    | with_reducible apply State.sendNak_keeps
    | with_reducible apply State.notReceived_keeps
    | with_reducible apply State.classDrop_keeps
    | (extract_lets +onlyGivenNames x; with_reducible refine Keeps.cut (x := x) ?_ fun _ => ?_; rotate_left; clear_value x; rotate_left; subst x)
    | split

theorem State.place_keeps (s : State) (a : Arrival) (kept : Keeps s₀ s) : Keeps s₀ (State.place s a).1 := by
  unfold State.place
  repeat' first
    | with_reducible assumption
    | exact rfl
    | with_reducible refine Keeps.fst (by with_reducible assumption) ?_
    | with_reducible apply State.placed_keeps
    | with_reducible apply State.pushOut_keeps
    | with_reducible apply State.noRoom_keeps
    | (extract_lets +onlyGivenNames x; with_reducible refine Keeps.cut (x := x) ?_ fun _ => ?_; rotate_left; clear_value x; rotate_left; subst x)
    | (extract_lets +onlyGivenNames x; clear_value x)
    | split

theorem State.transmitted_keeps (s : State) (p : Nat) (kept : Keeps s₀ s) : Keeps s₀ (State.transmitted s p) := by
  unfold State.transmitted
  repeat' first
    | with_reducible assumption
    | exact rfl
    | (extract_lets +onlyGivenNames x; clear_value x)
    | split
    | intro _
    | with_reducible refine Keeps.upd ?_ ?_ ?_

theorem State.freedFirst_keeps (s : State) (kept : Keeps s₀ s) : Keeps s₀ (State.freedFirst s) := by
  unfold State.freedFirst
  repeat' first
    | with_reducible assumption
    | exact rfl
    | with_reducible apply State.transmitted_keeps
    | with_reducible apply State.mark_keeps
    | with_reducible refine Keeps.foldl ?_ fun _ _ _ => ?_
    | (extract_lets +onlyGivenNames x; clear_value x)
    | split

theorem execSwitchAdmit_keeps (port : Fin 16) (s : State) : KeepsRes s (execSwitchAdmit port s) := by
  unfold execSwitchAdmit
  repeat' first
    | with_reducible assumption
    | exact rfl
    | with_reducible refine Keeps.fst (by with_reducible assumption) ?_
    | with_reducible refine KeepsRes.guarded fun x hx => ?_
    | with_reducible apply State.freedFirst_keeps
    | with_reducible apply State.place_keeps
    | (extract_lets +onlyGivenNames x; with_reducible refine Keeps.cut (x := x) ?_ fun _ => ?_; rotate_left; clear_value x; rotate_left; subst x)
    | (extract_lets +onlyGivenNames x; clear_value x)
    | split
    | intro _
    | with_reducible refine Keeps.upd ?_ ?_ ?_

theorem State.keepForReplay_keeps (s : State) (p : Nat) (b : BufFrame) (kept : Keeps s₀ s) : Keeps s₀ (State.keepForReplay s p b) := by
  unfold State.keepForReplay
  repeat' first
    | with_reducible assumption
    | exact rfl
    | with_reducible apply State.setMac_keeps
    | (extract_lets +onlyGivenNames x; clear_value x)
    | split

theorem State.launchLeft_keeps (s : State) (p : Nat) (b : BufFrame) (kept : Keeps s₀ s) : Keeps s₀ (State.launchLeft s p b) := by
  unfold State.launchLeft
  repeat' first
    | with_reducible assumption
    | exact rfl
    | with_reducible apply State.wr_keeps
    | with_reducible apply State.raise_keeps
    | (extract_lets +onlyGivenNames x; with_reducible refine Keeps.cut (x := x) ?_ fun _ => ?_; rotate_left; clear_value x; rotate_left; subst x)
    | (extract_lets +onlyGivenNames x; clear_value x)
    | split
    | with_reducible refine Keeps.upd ?_ ?_ ?_

theorem State.startFrame_keeps (s : State) (p : Nat) (b : BufFrame) (kept : Keeps s₀ s) : Keeps s₀ (State.startFrame s p b) := by
  unfold State.startFrame
  repeat' first
    | with_reducible assumption
    | exact rfl
    | with_reducible apply State.bump_keeps
    | with_reducible apply State.keepForReplay_keeps
    | with_reducible apply State.launchLeft_keeps
    | with_reducible apply State.emit_keeps
    | with_reducible apply State.deliver_keeps
    | with_reducible apply State.mirrorCopy_keeps
    | (extract_lets +onlyGivenNames x; with_reducible refine Keeps.cut (x := x) ?_ fun _ => ?_; rotate_left; clear_value x; rotate_left; subst x)
    | (extract_lets +onlyGivenNames x; clear_value x)
    | split
    | intro _
    | with_reducible refine Keeps.upd ?_ ?_ ?_

theorem execOutputServe_keeps (port : Fin 16) (s : State) : KeepsRes s (execOutputServe port s) := by
  unfold execOutputServe
  repeat' first
    | with_reducible assumption
    | exact rfl
    | with_reducible refine Keeps.optFst (by with_reducible assumption) ?_
    | with_reducible refine KeepsRes.guarded fun x hx => ?_
    | with_reducible apply State.choose_keeps
    | with_reducible apply State.startFrame_keeps
    | (extract_lets +onlyGivenNames x; clear_value x)
    | split

theorem execFrameTransmitted_keeps (port : Fin 16) (s : State) : KeepsRes s (execFrameTransmitted port s) := by
  unfold execFrameTransmitted
  repeat' first
    | with_reducible assumption
    | with_reducible refine KeepsRes.guarded fun x hx => ?_
    | with_reducible apply State.transmitted_keeps
    | split

theorem State.placeInQueue_keeps (s : State) (q : Nat) (f : Frame) (kept : Keeps s₀ s) : Keeps s₀ (State.placeInQueue s q f).1 := by
  unfold State.placeInQueue
  repeat' first
    | with_reducible assumption
    | exact rfl
    | with_reducible refine Keeps.fst (by with_reducible assumption) ?_
    | with_reducible apply State.bump_keeps
    | with_reducible apply State.raise_keeps
    | with_reducible apply State.stampFrame_keeps
    | with_reducible apply State.place_keeps
    | with_reducible apply State.arrive_keeps
    | (extract_lets +onlyGivenNames x; clear_value x)
    | split

theorem execLaunchQueuePlace_keeps (queue : Fin 16) (frame : Frame) (s : State) : KeepsRes s (execLaunchQueuePlace queue frame s) := by
  unfold execLaunchQueuePlace
  repeat' first
    | with_reducible assumption
    | exact rfl
    | with_reducible refine Keeps.fst (by with_reducible assumption) ?_
    | with_reducible refine KeepsRes.guarded fun x hx => ?_
    | with_reducible apply State.placeInQueue_keeps
    | with_reducible apply State.ack_keeps
    | (extract_lets +onlyGivenNames x; clear_value x)
    | split
    | intro _
    | with_reducible refine Keeps.upd ?_ ?_ ?_

theorem State.resubmitHeld_keeps (s : State) (kept : Keeps s₀ s) : Keeps s₀ (State.resubmitHeld s) := by
  unfold State.resubmitHeld
  repeat' first
    | with_reducible assumption
    | exact rfl
    | (extract_lets +onlyGivenNames x; clear_value x)
    | split
    | intro _
    | with_reducible refine Keeps.upd ?_ ?_ ?_

theorem State.discardHeld_keeps (s : State) (slot : Option Nat) (kept : Keeps s₀ s) : Keeps s₀ (State.discardHeld s slot) := by
  unfold State.discardHeld
  repeat' first
    | with_reducible assumption
    | exact rfl
    | with_reducible apply State.bump_keeps
    | with_reducible apply State.report_keeps
    | with_reducible refine Keeps.foldl ?_ fun _ _ _ => ?_
    | (extract_lets +onlyGivenNames x; clear_value x)
    | intro _
    | with_reducible refine Keeps.upd ?_ ?_ ?_

theorem State.requeue_keeps (s : State) (old new : Nat) (kept : Keeps s₀ s) : Keeps s₀ (State.requeue s old new) := by
  unfold State.requeue
  repeat' first
    | with_reducible assumption
    | exact rfl
    | (extract_lets +onlyGivenNames x; clear_value x)
    | split
    | intro _
    | with_reducible refine Keeps.upd ?_ ?_ ?_

end Sys2Proof.Machine
end

