-- ==== Sys2Proof/Laws/KeepsField.lean ====
section
/-! SUPPORT. The operations of Machine/Field.lean keep the canonical forms, the queue and what was sent. -/

namespace Sys2Proof.Machine

variable {s₀ : State}

theorem State.hvRaise_keeps (s : State) (f : Fld) (n : Nat) (kept : Keeps s₀ s) : Keeps s₀ (State.hvRaise s f n) := by
  unfold State.hvRaise
  repeat' first
    | with_reducible assumption
    | exact rfl
    | with_reducible apply State.raiseBit_keeps
    | (extract_lets +onlyGivenNames x; clear_value x)
    | split
    | with_reducible refine Keeps.upd ?_ ?_ ?_

theorem State.setLine_keeps (s : State) (n : Nat) (l : FldLine) (kept : Keeps s₀ s) : Keeps s₀ (State.setLine s n l) := by
  unfold State.setLine
  repeat' first
    | with_reducible assumption
    | exact rfl
    | (extract_lets +onlyGivenNames x; clear_value x)
    | with_reducible refine Keeps.upd ?_ ?_ ?_

theorem State.setSlice_keeps (s : State) (n : Nat) (x : SliceState) (kept : Keeps s₀ s) : Keeps s₀ (State.setSlice s n x) := by
  unfold State.setSlice
  repeat' first
    | with_reducible assumption
    | exact rfl
    | with_reducible refine Keeps.upd ?_ ?_ ?_

theorem State.lineFault_keeps (s : State) (n : Nat) (kept : Keeps s₀ s) : Keeps s₀ (State.lineFault s n) := by
  unfold State.lineFault
  repeat' first
    | with_reducible assumption
    | with_reducible apply State.hvRaise_keeps

theorem State.clearLatch_keeps (s : State) (n : Nat) (kept : Keeps s₀ s) : Keeps s₀ (State.clearLatch s n) := by
  unfold State.clearLatch
  repeat' first
    | with_reducible assumption
    | exact rfl
    | with_reducible apply State.setLine_keeps
    | with_reducible apply State.wr_keeps
    | (extract_lets +onlyGivenNames x; clear_value x)
    | split

theorem State.setCmd_keeps (s : State) (n : Nat) (v : Bool) (kept : Keeps s₀ s) : Keeps s₀ (State.setCmd s n v) := by
  unfold State.setCmd
  repeat' first
    | with_reducible assumption
    | with_reducible apply State.wrB_keeps
    | with_reducible apply State.clearLatch_keeps
    | (extract_lets +onlyGivenNames x; with_reducible refine Keeps.cut (x := x) ?_ fun _ => ?_; rotate_left; clear_value x; rotate_left; subst x)
    | (extract_lets +onlyGivenNames x; clear_value x)
    | split

theorem State.lineCommand_keeps (s : State) (n : Nat) (v : Bool) (kept : Keeps s₀ s) : Keeps s₀ (State.lineCommand s n v) := by
  unfold State.lineCommand
  repeat' first
    | with_reducible assumption
    | with_reducible apply State.setCmd_keeps
    | split

theorem State.endCal_keeps (s : State) (code : Nat) (kept : Keeps s₀ s) : Keeps s₀ (State.endCal s code) := by
  unfold State.endCal
  repeat' first
    | with_reducible assumption
    | exact rfl
    | with_reducible apply State.resDone_keeps
    | (extract_lets +onlyGivenNames x; clear_value x)
    | split
    | with_reducible refine Keeps.upd ?_ ?_ ?_

theorem State.endLoop_keeps (s : State) (code : Nat) (kept : Keeps s₀ s) : Keeps s₀ (State.endLoop s code) := by
  unfold State.endLoop
  repeat' first
    | with_reducible assumption
    | exact rfl
    | with_reducible apply State.resDone_keeps
    | (extract_lets +onlyGivenNames x; clear_value x)
    | split
    | with_reducible refine Keeps.upd ?_ ?_ ?_

theorem State.calHit_keeps (s : State) (f : Nat) (kept : Keeps s₀ s) : Keeps s₀ (State.calHit s f) := by
  unfold State.calHit
  repeat' first
    | with_reducible assumption
    | exact rfl
    | with_reducible apply State.endCal_keeps
    | split

theorem State.dropEdges_keeps (s : State) (b : Nat) (kept : Keeps s₀ s) : Keeps s₀ (State.dropEdges s b) := by
  unfold State.dropEdges
  repeat' first
    | with_reducible assumption
    | exact rfl
    | (extract_lets +onlyGivenNames x; clear_value x)
    | split
    | intro _
    | with_reducible refine Keeps.upd ?_ ?_ ?_

theorem State.keepBank_keeps (s : State) (b : Nat) (kept : Keeps s₀ s) : Keeps s₀ (State.keepBank s b) := by
  unfold State.keepBank
  repeat' first
    | with_reducible assumption
    | exact rfl
    | with_reducible apply State.setLine_keeps
    | with_reducible apply State.dropEdges_keeps
    | with_reducible apply State.wr_keeps
    | with_reducible apply State.hvRaise_keeps
    | with_reducible refine Keeps.foldl ?_ fun _ _ _ => ?_
    | (extract_lets +onlyGivenNames x; with_reducible refine Keeps.cut (x := x) ?_ fun _ => ?_; rotate_left; clear_value x; rotate_left; subst x)
    | split

theorem State.keepAll_keeps (s : State) (kept : Keeps s₀ s) : Keeps s₀ (State.keepAll s) := by
  unfold State.keepAll
  repeat' first
    | with_reducible assumption
    | with_reducible apply State.keepBank_keeps
    | with_reducible apply State.endLoop_keeps
    | with_reducible refine Keeps.foldl ?_ fun _ _ _ => ?_
    | (extract_lets +onlyGivenNames x; with_reducible refine Keeps.cut (x := x) ?_ fun _ => ?_; rotate_left; clear_value x; rotate_left; subst x)
    | split

theorem State.iolDark_keeps (s : State) (b : Nat) (kept : Keeps s₀ s) : Keeps s₀ (State.iolDark s b) := by
  unfold State.iolDark
  repeat' first
    | with_reducible assumption
    | exact rfl
    | with_reducible apply State.wr_keeps
    | with_reducible apply State.setSlice_keeps
    | with_reducible refine Keeps.foldl ?_ fun _ _ _ => ?_
    | (extract_lets +onlyGivenNames x; clear_value x)
    | split

theorem State.hvLinkLost_keeps (s : State) (lanes : Nat) (kept : Keeps s₀ s) : Keeps s₀ (State.hvLinkLost s lanes) := by
  unfold State.hvLinkLost
  repeat' first
    | with_reducible assumption
    | exact rfl
    | with_reducible apply State.iolDark_keeps
    | with_reducible apply State.wr_keeps
    | with_reducible apply State.raise_keeps
    | with_reducible apply State.keepAll_keeps
    | with_reducible apply State.endLoop_keeps
    | with_reducible apply State.endCal_keeps
    | with_reducible refine Keeps.foldl ?_ fun _ _ _ => ?_
    | (extract_lets +onlyGivenNames x; clear_value x)
    | intro _
    | with_reducible refine Keeps.upd ?_ ?_ ?_

theorem execHvLinkLost_keeps (lanes : Fin 5) (s : State) : KeepsRes s (execHvLinkLost lanes s) := by
  unfold execHvLinkLost
  repeat' first
    | with_reducible assumption
    | with_reducible refine KeepsRes.guarded fun x hx => ?_
    | with_reducible apply State.hvLinkLost_keeps
    | split

theorem execHvLinkUp_keeps (lanes : Fin 5) (s : State) : KeepsRes s (execHvLinkUp lanes s) := by
  unfold execHvLinkUp
  repeat' first
    | with_reducible assumption
    | exact rfl
    | with_reducible refine KeepsRes.guarded fun x hx => ?_
    | with_reducible apply State.wr_keeps
    | with_reducible apply State.hvLinkLost_keeps
    | with_reducible apply State.raise_keeps
    | with_reducible apply State.raiseBit_keeps
    | with_reducible refine Keeps.foldl ?_ fun _ _ _ => ?_
    | with_reducible refine Keeps.foldlFst ?_ fun _ _ _ => ?_
    | (extract_lets +onlyGivenNames x; with_reducible refine Keeps.cut (x := x) ?_ fun _ => ?_; rotate_left; clear_value x; rotate_left; subst x)
    | (extract_lets +onlyGivenNames x; clear_value x)
    | split
    | intro _
    | with_reducible refine Keeps.upd ?_ ?_ ?_

theorem execKeepTmoExpiry_keeps (bank : Fin 16) (s : State) : KeepsRes s (execKeepTmoExpiry bank s) := by
  unfold execKeepTmoExpiry
  repeat' first
    | with_reducible assumption
    | with_reducible refine KeepsRes.guardedVigil fun x hx => ?_
    | with_reducible apply State.wr_keeps
    | with_reducible apply State.hvRaise_keeps
    | split

theorem execKeeperResume_keeps (bank : Fin 16) (s : State) : KeepsRes s (execKeeperResume bank s) := by
  unfold execKeeperResume
  repeat' first
    | with_reducible assumption
    | with_reducible refine KeepsRes.guardedVigil fun x hx => ?_
    | with_reducible apply State.setCmd_keeps
    | with_reducible apply State.wr_keeps
    | with_reducible refine Keeps.foldl ?_ fun _ _ _ => ?_
    | (extract_lets +onlyGivenNames x; clear_value x)
    | split

theorem execFieldInputChange_keeps (line : Fin 128) (level : Bool) (s : State) : KeepsRes s (execFieldInputChange line level s) := by
  unfold execFieldInputChange
  repeat' first
    | with_reducible assumption
    | with_reducible refine KeepsRes.guardedVigil fun x hx => ?_
    | with_reducible apply State.wrB_keeps
    | split

theorem execWireBreak_keeps (line : Fin 128) (broken : Bool) (s : State) : KeepsRes s (execWireBreak line broken s) := by
  unfold execWireBreak
  repeat' first
    | with_reducible assumption
    | with_reducible refine KeepsRes.guardedVigil fun x hx => ?_
    | with_reducible apply State.wrB_keeps
    | with_reducible apply State.lineFault_keeps
    | (extract_lets +onlyGivenNames x; with_reducible refine Keeps.cut (x := x) ?_ fun _ => ?_; rotate_left; clear_value x; rotate_left; subst x)
    | split

theorem execZeroCrossing_keeps (line : Fin 128) (s : State) : KeepsRes s (execZeroCrossing line s) := by
  unfold execZeroCrossing
  repeat' first
    | with_reducible assumption
    | exact rfl
    | with_reducible refine KeepsRes.guardedVigil fun x hx => ?_
    | with_reducible apply State.setLine_keeps
    | (extract_lets +onlyGivenNames x; clear_value x)
    | split

theorem execLineLatchOff_keeps (line : Fin 128) (thermal : Bool) (s : State) : KeepsRes s (execLineLatchOff line thermal s) := by
  unfold execLineLatchOff
  repeat' first
    | with_reducible assumption
    | with_reducible refine KeepsRes.guardedVigil fun x hx => ?_
    | with_reducible apply State.wr_keeps
    | with_reducible apply State.lineFault_keeps
    | (extract_lets +onlyGivenNames x; with_reducible refine Keeps.cut (x := x) ?_ fun _ => ?_; rotate_left; clear_value x; rotate_left; subst x)
    | split

theorem State.clearLatches_keeps (s : State) (init : Initiator) (k mask : Nat) (kept : Keeps s₀ s) : Keeps s₀ (State.clearLatches s init k mask) := by
  unfold State.clearLatches
  repeat' first
    | with_reducible assumption
    | with_reducible apply State.clearLatch_keeps
    | with_reducible apply State.ack_keeps
    | with_reducible apply State.refuseReg_keeps
    | with_reducible refine Keeps.foldl ?_ fun _ _ _ => ?_
    | split

theorem execLineLatchClear_keeps (init : Initiator) (k : Fin 4) (lines : BitVec 32) (s : State) : KeepsRes s (execLineLatchClear init k lines s) := by
  unfold execLineLatchClear
  repeat' first
    | with_reducible assumption
    | with_reducible refine KeepsRes.guarded fun x hx => ?_
    | with_reducible apply State.clearLatches_keeps

theorem execCellCooled_keeps (line : Fin 128) (s : State) : KeepsRes s (execCellCooled line s) := by
  unfold execCellCooled
  repeat' first
    | with_reducible assumption
    | exact rfl
    | with_reducible refine KeepsRes.guardedVigil fun x hx => ?_
    | with_reducible apply State.wr_keeps
    | with_reducible apply State.setLine_keeps
    | (extract_lets +onlyGivenNames x; with_reducible refine Keeps.cut (x := x) ?_ fun _ => ?_; rotate_left; clear_value x; rotate_left; subst x)
    | (extract_lets +onlyGivenNames x; clear_value x)
    | split

theorem execOpenLoad_keeps (line : Fin 128) (present : Bool) (s : State) : KeepsRes s (execOpenLoad line present s) := by
  unfold execOpenLoad
  repeat' first
    | with_reducible assumption
    | with_reducible refine KeepsRes.guardedVigil fun x hx => ?_
    | with_reducible apply State.wrB_keeps
    | with_reducible apply State.lineFault_keeps
    | (extract_lets +onlyGivenNames x; with_reducible refine Keeps.cut (x := x) ?_ fun _ => ?_; rotate_left; clear_value x; rotate_left; subst x)
    | split

theorem State.restoreLine_keeps (s : State) (n : Nat) (kept : Keeps s₀ s) : Keeps s₀ (State.restoreLine s n) := by
  unfold State.restoreLine
  repeat' first
    | with_reducible assumption
    | exact rfl
    | with_reducible apply State.setLine_keeps
    | with_reducible apply State.setCmd_keeps
    | (extract_lets +onlyGivenNames x; with_reducible refine Keeps.cut (x := x) ?_ fun _ => ?_; rotate_left; clear_value x; rotate_left; subst x)
    | (extract_lets +onlyGivenNames x; clear_value x)
    | split

theorem execLineRestore_keeps (line : Fin 128) (s : State) : KeepsRes s (execLineRestore line s) := by
  unfold execLineRestore
  repeat' first
    | with_reducible assumption
    | with_reducible refine KeepsRes.guardedVigil fun x hx => ?_
    | with_reducible exact Keeps.refl _
    | with_reducible refine KeepsRes.next ?_
    | with_reducible apply State.restoreLine_keeps
    | split

theorem State.toFeed_keeps (s : State) (f st : Nat) (kept : Keeps s₀ s) : Keeps s₀ (State.toFeed s f st) := by
  unfold State.toFeed
  repeat' first
    | with_reducible assumption
    | with_reducible apply State.wr_keeps

theorem State.feedEvt_keeps (s : State) (f : Nat) (e : Fld) (kept : Keeps s₀ s) : Keeps s₀ (State.feedEvt s f e) := by
  unfold State.feedEvt
  repeat' first
    | with_reducible assumption
    | with_reducible apply State.hvRaise_keeps

theorem State.gatesOff_keeps (s : State) (f : Nat) (kept : Keeps s₀ s) : Keeps s₀ (State.gatesOff s f) := by
  unfold State.gatesOff
  repeat' first
    | with_reducible assumption
    | exact rfl
    | with_reducible apply State.wr_keeps
    | with_reducible apply State.setLine_keeps
    | with_reducible apply State.iolDark_keeps
    | with_reducible refine Keeps.foldl ?_ fun _ _ _ => ?_
    | (extract_lets +onlyGivenNames x; clear_value x)
    | split

theorem State.feedRetry_keeps (s : State) (f : Nat) (e : Fld) (kept : Keeps s₀ s) : Keeps s₀ (State.feedRetry s f e) := by
  unfold State.feedRetry
  repeat' first
    | with_reducible assumption
    | with_reducible apply State.gatesOff_keeps
    | with_reducible apply State.feedEvt_keeps
    | with_reducible apply State.wr_keeps
    | with_reducible apply State.calHit_keeps
    | with_reducible apply State.toFeed_keeps
    | (extract_lets +onlyGivenNames x; with_reducible refine Keeps.cut (x := x) ?_ fun _ => ?_; rotate_left; clear_value x; rotate_left; subst x)
    | (extract_lets +onlyGivenNames x; clear_value x)
    | split

theorem State.feedSupply_keeps (s : State) (f : Nat) (kept : Keeps s₀ s) : Keeps s₀ (State.feedSupply s f) := by
  unfold State.feedSupply
  repeat' first
    | with_reducible assumption
    | with_reducible apply State.gatesOff_keeps
    | with_reducible apply State.feedEvt_keeps
    | with_reducible apply State.toFeed_keeps

theorem State.feedPrecharge_keeps (s : State) (f : Nat) (kept : Keeps s₀ s) : Keeps s₀ (State.feedPrecharge s f) := by
  unfold State.feedPrecharge
  repeat' first
    | with_reducible assumption
    | with_reducible apply State.toFeed_keeps
    | with_reducible apply State.feedSupply_keeps
    | split

theorem State.powerGood_keeps (s : State) (f : Nat) (kept : Keeps s₀ s) : Keeps s₀ (State.powerGood s f) := by
  unfold State.powerGood
  repeat' first
    | with_reducible assumption
    | exact rfl
    | with_reducible apply State.wr_keeps
    | with_reducible apply State.setLine_keeps
    | with_reducible apply State.restoreLine_keeps
    | with_reducible refine Keeps.foldl ?_ fun _ _ _ => ?_
    | (extract_lets +onlyGivenNames x; with_reducible refine Keeps.cut (x := x) ?_ fun _ => ?_; rotate_left; clear_value x; rotate_left; subst x)
    | (extract_lets +onlyGivenNames x; clear_value x)
    | split

theorem State.feedEnable_keeps (s : State) (f : Nat) (kept : Keeps s₀ s) : Keeps s₀ (State.feedEnable s f) := by
  unfold State.feedEnable
  repeat' first
    | with_reducible assumption
    | with_reducible apply State.toFeed_keeps
    | with_reducible apply State.gatesOff_keeps
    | split

theorem State.feedFitted_keeps (s : State) (f : Nat) (fitted : Bool) (kept : Keeps s₀ s) : Keeps s₀ (State.feedFitted s f fitted) := by
  unfold State.feedFitted
  repeat' first
    | with_reducible assumption
    | with_reducible apply State.wrB_keeps
    | with_reducible apply State.gatesOff_keeps
    | with_reducible apply State.toFeed_keeps
    | with_reducible apply State.powerGood_keeps
    | (extract_lets +onlyGivenNames x; with_reducible refine Keeps.cut (x := x) ?_ fun _ => ?_; rotate_left; clear_value x; rotate_left; subst x)
    | split

theorem execSeatDebounceExpiry_keeps (feed : Fin 16) (s : State) : KeepsRes s (execSeatDebounceExpiry feed s) := by
  unfold execSeatDebounceExpiry
  repeat' first
    | with_reducible assumption
    | with_reducible refine KeepsRes.guardedVigil fun x hx => ?_
    | with_reducible apply State.feedEvt_keeps
    | with_reducible apply State.toFeed_keeps
    | with_reducible apply State.feedPrecharge_keeps
    | (extract_lets +onlyGivenNames x; with_reducible refine Keeps.cut (x := x) ?_ fun _ => ?_; rotate_left; clear_value x; rotate_left; subst x)
    | split

theorem State.feedRemoved_keeps (s : State) (f : Nat) (kept : Keeps s₀ s) : Keeps s₀ (State.feedRemoved s f) := by
  unfold State.feedRemoved
  repeat' first
    | with_reducible assumption
    | exact rfl
    | with_reducible apply State.gatesOff_keeps
    | with_reducible apply State.feedEvt_keeps
    | with_reducible apply State.toFeed_keeps
    | with_reducible apply State.calHit_keeps
    | (extract_lets +onlyGivenNames x; clear_value x)
    | with_reducible refine Keeps.upd ?_ ?_ ?_

theorem execSeatContactOpen_keeps (feed : Fin 16) (second : Bool) (s : State) : KeepsRes s (execSeatContactOpen feed second s) := by
  unfold execSeatContactOpen
  repeat' first
    | with_reducible assumption
    | exact rfl
    | with_reducible refine KeepsRes.guardedVigil fun x hx => ?_
    | with_reducible apply State.wr_keeps
    | with_reducible apply State.mark_keeps
    | with_reducible apply State.feedRemoved_keeps
    | (extract_lets +onlyGivenNames x; with_reducible refine Keeps.cut (x := x) ?_ fun _ => ?_; rotate_left; clear_value x; rotate_left; subst x)
    | (extract_lets +onlyGivenNames x; clear_value x)
    | split
    | intro _
    | with_reducible refine Keeps.upd ?_ ?_ ?_

theorem execSeatContactsClosed_keeps (contacts : SeatContacts) (s : State) : KeepsRes s (execSeatContactsClosed contacts s) := by
  unfold execSeatContactsClosed
  repeat' first
    | with_reducible assumption
    | exact rfl
    | with_reducible refine KeepsRes.guardedVigil fun x hx => ?_
    | with_reducible apply State.wr_keeps
    | with_reducible apply State.feedEvt_keeps
    | with_reducible apply State.toFeed_keeps
    | (extract_lets +onlyGivenNames x; with_reducible refine Keeps.cut (x := x) ?_ fun _ => ?_; rotate_left; clear_value x; rotate_left; subst x)
    | (extract_lets +onlyGivenNames x; have _ : State → _ := x; subst x)
    | (extract_lets +onlyGivenNames x; clear_value x)
    | split
    | intro _
    | with_reducible refine Keeps.upd ?_ ?_ ?_

theorem execPrechargeReached_keeps (feed : Fin 16) (s : State) : KeepsRes s (execPrechargeReached feed s) := by
  unfold execPrechargeReached
  repeat' first
    | with_reducible assumption
    | with_reducible refine KeepsRes.guardedVigil fun x hx => ?_
    | with_reducible apply State.toFeed_keeps
    | split

theorem execPreTmoExpiry_keeps (feed : Fin 16) (s : State) : KeepsRes s (execPreTmoExpiry feed s) := by
  unfold execPreTmoExpiry
  repeat' first
    | with_reducible assumption
    | with_reducible refine KeepsRes.guardedVigil fun x hx => ?_
    | with_reducible apply State.feedRetry_keeps
    | split

theorem execGateRise_keeps (feed : Fin 16) (s : State) : KeepsRes s (execGateRise feed s) := by
  unfold execGateRise
  repeat' first
    | with_reducible assumption
    | with_reducible refine KeepsRes.guardedVigil fun x hx => ?_
    | with_reducible apply State.toFeed_keeps
    | split

theorem execGateRiseTimeout_keeps (feed : Fin 16) (s : State) : KeepsRes s (execGateRiseTimeout feed s) := by
  unfold execGateRiseTimeout
  repeat' first
    | with_reducible assumption
    | with_reducible refine KeepsRes.guardedVigil fun x hx => ?_
    | with_reducible apply State.gatesOff_keeps
    | with_reducible apply State.feedEvt_keeps
    | with_reducible apply State.toFeed_keeps
    | split

theorem execQualifyComplete_keeps (feed : Fin 16) (s : State) : KeepsRes s (execQualifyComplete feed s) := by
  unfold execQualifyComplete
  repeat' first
    | with_reducible assumption
    | with_reducible refine KeepsRes.guardedVigil fun x hx => ?_
    | with_reducible apply State.toFeed_keeps
    | with_reducible apply State.powerGood_keeps
    | with_reducible apply State.feedEvt_keeps
    | split

theorem execFaultTimerStart_keeps (feed : Fin 16) (s : State) : KeepsRes s (execFaultTimerStart feed s) := by
  unfold execFaultTimerStart
  repeat' first
    | with_reducible assumption
    | with_reducible refine KeepsRes.guardedVigil fun x hx => ?_
    | with_reducible apply State.wr_keeps
    | with_reducible apply State.feedEvt_keeps
    | (extract_lets +onlyGivenNames x; with_reducible refine Keeps.cut (x := x) ?_ fun _ => ?_; rotate_left; clear_value x; rotate_left; subst x)
    | (extract_lets +onlyGivenNames x; clear_value x)
    | split

theorem execFaultTimerStop_keeps (feed : Fin 16) (s : State) : KeepsRes s (execFaultTimerStop feed s) := by
  unfold execFaultTimerStop
  repeat' first
    | with_reducible assumption
    | with_reducible refine KeepsRes.guardedVigil fun x hx => ?_
    | with_reducible apply State.wr_keeps

theorem execFaultTimerExpiry_keeps (feed : Fin 16) (s : State) : KeepsRes s (execFaultTimerExpiry feed s) := by
  unfold execFaultTimerExpiry
  repeat' first
    | with_reducible assumption
    | with_reducible refine KeepsRes.guardedVigil fun x hx => ?_
    | with_reducible apply State.feedRetry_keeps
    | (extract_lets +onlyGivenNames x; clear_value x)
    | split

theorem execFastTrip_keeps (feed : Fin 16) (s : State) : KeepsRes s (execFastTrip feed s) := by
  unfold execFastTrip
  repeat' first
    | with_reducible assumption
    | with_reducible refine KeepsRes.guardedVigil fun x hx => ?_
    | with_reducible apply State.feedRetry_keeps
    | split

theorem execCooloffExpiry_keeps (feed : Fin 16) (s : State) : KeepsRes s (execCooloffExpiry feed s) := by
  unfold execCooloffExpiry
  repeat' first
    | with_reducible assumption
    | with_reducible refine KeepsRes.guardedVigil fun x hx => ?_
    | with_reducible apply State.wr_keeps
    | with_reducible apply State.feedPrecharge_keeps
    | (extract_lets +onlyGivenNames x; with_reducible refine Keeps.cut (x := x) ?_ fun _ => ?_; rotate_left; clear_value x; rotate_left; subst x)
    | split

theorem execRetryClrExpiry_keeps (feed : Fin 16) (s : State) : KeepsRes s (execRetryClrExpiry feed s) := by
  unfold execRetryClrExpiry
  repeat' first
    | with_reducible assumption
    | with_reducible refine KeepsRes.guardedVigil fun x hx => ?_
    | with_reducible apply State.wr_keeps
    | split

theorem execRailLost_keeps (s : State) : KeepsRes s (execRailLost s) := by
  unfold execRailLost
  repeat' first
    | with_reducible assumption
    | with_reducible refine KeepsRes.guardedVigil fun x hx => ?_
    | with_reducible apply State.feedSupply_keeps
    | with_reducible apply State.calHit_keeps
    | with_reducible apply State.gatesOff_keeps
    | with_reducible refine Keeps.foldl ?_ fun _ _ _ => ?_
    | (extract_lets +onlyGivenNames x; clear_value x)
    | split

theorem execRailBack_keeps (s : State) : KeepsRes s (execRailBack s) := by
  unfold execRailBack
  repeat' first
    | with_reducible assumption
    | with_reducible refine KeepsRes.guardedVigil fun x hx => ?_
    | with_reducible apply State.toFeed_keeps
    | with_reducible apply State.powerGood_keeps
    | with_reducible refine Keeps.foldl ?_ fun _ _ _ => ?_
    | (extract_lets +onlyGivenNames x; clear_value x)
    | split

theorem State.feedClear_keeps (s : State) (init : Initiator) (f : Nat) (kept : Keeps s₀ s) : Keeps s₀ (State.feedClear s init f) := by
  unfold State.feedClear
  repeat' first
    | with_reducible assumption
    | with_reducible apply State.toFeed_keeps
    | with_reducible apply State.wr_keeps
    | with_reducible apply State.feedRemoved_keeps
    | with_reducible apply State.mark_keeps
    | with_reducible apply State.ack_keeps
    | with_reducible apply State.refuseReg_keeps
    | (extract_lets +onlyGivenNames x; with_reducible refine Keeps.cut (x := x) ?_ fun _ => ?_; rotate_left; clear_value x; rotate_left; subst x)
    | (extract_lets +onlyGivenNames x; clear_value x)
    | split

theorem execFeedClr_keeps (init : Initiator) (feed : Fin 16) (s : State) : KeepsRes s (execFeedClr init feed s) := by
  unfold execFeedClr
  repeat' first
    | with_reducible assumption
    | with_reducible refine KeepsRes.guarded fun x hx => ?_
    | with_reducible apply State.feedClear_keeps

theorem State.supplySet_keeps (s : State) (b : Bool) (f : Fld) (v : Bool) (kept : Keeps s₀ s) : Keeps s₀ (State.supplySet s b f v) := by
  unfold State.supplySet
  repeat' first
    | with_reducible assumption
    | with_reducible apply State.wrB_keeps
    | with_reducible apply State.hvRaise_keeps
    | split

theorem execSupplyInWindow_keeps (supplyB inWindow : Bool) (volts : BitVec 12) (s : State) : KeepsRes s (execSupplyInWindow supplyB inWindow volts s) := by
  unfold execSupplyInWindow
  repeat' first
    | with_reducible assumption
    | with_reducible refine KeepsRes.guardedVigil fun x hx => ?_
    | with_reducible apply State.wr_keeps
    | with_reducible apply State.supplySet_keeps
    | (extract_lets +onlyGivenNames x; with_reducible refine Keeps.cut (x := x) ?_ fun _ => ?_; rotate_left; clear_value x; rotate_left; subst x)
    | split

theorem execInsDlyExpiry_keeps (supplyB : Bool) (s : State) : KeepsRes s (execInsDlyExpiry supplyB s) := by
  unfold execInsDlyExpiry
  repeat' first
    | with_reducible assumption
    | with_reducible refine KeepsRes.guardedVigil fun x hx => ?_
    | with_reducible apply State.supplySet_keeps
    | split

theorem execSupplyOvervoltage_keeps (supplyB : Bool) (s : State) : KeepsRes s (execSupplyOvervoltage supplyB s) := by
  unfold execSupplyOvervoltage
  repeat' first
    | with_reducible assumption
    | with_reducible refine KeepsRes.guardedVigil fun x hx => ?_
    | with_reducible apply State.supplySet_keeps

theorem execOringReverse_keeps (supplyB : Bool) (s : State) : KeepsRes s (execOringReverse supplyB s) := by
  unfold execOringReverse
  repeat' first
    | with_reducible assumption
    | with_reducible refine KeepsRes.guardedVigil fun x hx => ?_
    | with_reducible apply State.supplySet_keeps
    | split

theorem State.hvReset_keeps (s : State) (kept : Keeps s₀ s) : Keeps s₀ (State.hvReset s) := by
  unfold State.hvReset
  repeat' first
    | with_reducible assumption
    | exact rfl
    | with_reducible apply State.wr_keeps
    | with_reducible apply State.hvRaise_keeps
    | with_reducible apply State.dropEdges_keeps
    | with_reducible apply State.iolDark_keeps
    | with_reducible apply State.toFeed_keeps
    | with_reducible apply State.endLoop_keeps
    | with_reducible apply State.endCal_keeps
    | with_reducible refine Keeps.foldl ?_ fun _ _ _ => ?_
    | (extract_lets +onlyGivenNames x; with_reducible refine Keeps.cut (x := x) ?_ fun _ => ?_; rotate_left; clear_value x; rotate_left; subst x)
    | (extract_lets +onlyGivenNames x; clear_value x)
    | split
    | intro _
    | with_reducible refine Keeps.upd ?_ ?_ ?_

theorem execHvDieReset_keeps (s : State) : KeepsRes s (execHvDieReset s) := by
  unfold execHvDieReset
  repeat' first
    | with_reducible assumption
    | with_reducible refine KeepsRes.guardedVigil fun x hx => ?_
    | with_reducible apply State.hvReset_keeps

theorem execHvDieStart_keeps (s : State) : KeepsRes s (execHvDieStart s) := by
  unfold execHvDieStart
  repeat' first
    | with_reducible assumption
    | exact rfl
    | with_reducible refine KeepsRes.guardedVigil fun x hx => ?_
    | with_reducible apply State.wr_keeps
    | with_reducible apply State.powerGood_keeps
    | with_reducible apply State.feedEnable_keeps
    | with_reducible refine Keeps.foldl ?_ fun _ _ _ => ?_
    | (extract_lets +onlyGivenNames x; with_reducible refine Keeps.cut (x := x) ?_ fun _ => ?_; rotate_left; clear_value x; rotate_left; subst x)
    | (extract_lets +onlyGivenNames x; clear_value x)
    | split
    | intro _
    | with_reducible refine Keeps.upd ?_ ?_ ?_

theorem State.chkCal_keeps (s : State) (init : Initiator) (maint : Bool) (feeds : Nat) (kept : Keeps s₀ s) : Keeps s₀ (State.chkCal s init maint feeds) := by
  unfold State.chkCal
  repeat' first
    | with_reducible assumption
    | exact rfl
    | with_reducible apply State.refuseReg_keeps
    | with_reducible apply State.wrB_keeps
    | with_reducible apply State.wr_keeps
    | with_reducible apply State.ack_keeps
    | with_reducible apply State.resStart_keeps
    | with_reducible apply State.resDone_keeps
    | (extract_lets +onlyGivenNames x; with_reducible refine Keeps.cut (x := x) ?_ fun _ => ?_; rotate_left; clear_value x; rotate_left; subst x)
    | (extract_lets +onlyGivenNames x; clear_value x)
    | split
    | with_reducible refine Keeps.upd ?_ ?_ ?_

theorem execChkCal_keeps (init : Initiator) (maint : Bool) (feeds : BitVec 16) (s : State) : KeepsRes s (execChkCal init maint feeds s) := by
  unfold execChkCal
  repeat' first
    | with_reducible assumption
    | with_reducible refine KeepsRes.guarded fun x hx => ?_
    | with_reducible apply State.chkCal_keeps

theorem execChkCalComplete_keeps (offsets : List (Fin 16 × Int)) (s : State) : KeepsRes s (execChkCalComplete offsets s) := by
  unfold execChkCalComplete
  repeat' first
    | with_reducible assumption
    | exact rfl
    | with_reducible refine KeepsRes.guarded fun x hx => ?_
    | with_reducible apply State.wr_keeps
    | with_reducible apply State.endCal_keeps
    | with_reducible refine Keeps.foldl ?_ fun _ _ _ => ?_
    | with_reducible refine Keeps.foldlFst ?_ fun _ _ _ => ?_
    | (extract_lets +onlyGivenNames x; clear_value x)
    | split

theorem State.fldLb_keeps (s : State) (init : Initiator) (maint : Bool) (banks : Nat) (kept : Keeps s₀ s) : Keeps s₀ (State.fldLb s init maint banks) := by
  unfold State.fldLb
  repeat' first
    | with_reducible assumption
    | exact rfl
    | with_reducible apply State.refuseReg_keeps
    | with_reducible apply State.wrB_keeps
    | with_reducible apply State.wr_keeps
    | with_reducible apply State.ack_keeps
    | with_reducible apply State.resStart_keeps
    | with_reducible apply State.resDone_keeps
    | (extract_lets +onlyGivenNames x; with_reducible refine Keeps.cut (x := x) ?_ fun _ => ?_; rotate_left; clear_value x; rotate_left; subst x)
    | (extract_lets +onlyGivenNames x; clear_value x)
    | split
    | with_reducible refine Keeps.upd ?_ ?_ ?_

theorem execFldLb_keeps (init : Initiator) (maint : Bool) (banks : BitVec 16) (s : State) : KeepsRes s (execFldLb init maint banks s) := by
  unfold execFldLb
  repeat' first
    | with_reducible assumption
    | with_reducible refine KeepsRes.guarded fun x hx => ?_
    | with_reducible apply State.fldLb_keeps

theorem execFldLbComplete_keeps (levels : BitVec 128) (s : State) : KeepsRes s (execFldLbComplete levels s) := by
  unfold execFldLbComplete
  repeat' first
    | with_reducible assumption
    | exact rfl
    | with_reducible refine KeepsRes.guarded fun x hx => ?_
    | with_reducible apply State.wr_keeps
    | with_reducible apply State.wrB_keeps
    | with_reducible apply State.endLoop_keeps
    | with_reducible refine Keeps.foldl ?_ fun _ _ _ => ?_
    | (extract_lets +onlyGivenNames x; clear_value x)
    | split

end Sys2Proof.Machine
end

