-- ==== Sys2Proof/Laws/KeepsSlice.lean ====
section
/-! SUPPORT. The operations of Machine/Slice.lean keep the canonical forms, the queue and what was sent. -/

namespace Sys2Proof.Machine

variable {s₀ : State}

theorem State.toIol_keeps (s : State) (n st : Nat) (kept : Keeps s₀ s) : Keeps s₀ (State.toIol s n st) := by
  unfold State.toIol
  repeat' first
    | with_reducible assumption
    | with_reducible apply State.wr_keeps

theorem State.iolByMode_keeps (s : State) (n : Nat) (kept : Keeps s₀ s) : Keeps s₀ (State.iolByMode s n) := by
  unfold State.iolByMode
  repeat' first
    | with_reducible assumption
    | with_reducible apply State.toIol_keeps

theorem State.iolFollow_keeps (s : State) (n : Nat) (kept : Keeps s₀ s) : Keeps s₀ (State.iolFollow s n) := by
  unfold State.iolFollow
  repeat' first
    | with_reducible assumption
    | with_reducible apply State.iolByMode_keeps
    | with_reducible apply State.wr_keeps
    | split

theorem State.keepPar_keeps (s : State) (n : Nat) (f : Fld) (kept : Keeps s₀ s) : Keeps s₀ (State.keepPar s n f) := by
  unfold State.keepPar
  repeat' first
    | with_reducible assumption
    | exact rfl
    | with_reducible apply State.setSlice_keeps
    | (extract_lets +onlyGivenNames x; clear_value x)
    | split

theorem State.atBoundary_keeps (s : State) (n : Nat) (kept : Keeps s₀ s) : Keeps s₀ (State.atBoundary s n) := by
  unfold State.atBoundary
  repeat' first
    | with_reducible assumption
    | exact rfl
    | with_reducible apply State.setSlice_keeps
    | with_reducible apply State.iolFollow_keeps
    | (extract_lets +onlyGivenNames x; clear_value x)
    | split

theorem State.closeItem_keeps (s : State) (n : Nat) (fin trunc : Bool) (kept : Keeps s₀ s) : Keeps s₀ (State.closeItem s n fin trunc) := by
  unfold State.closeItem
  repeat' first
    | with_reducible assumption
    | exact rfl
    | with_reducible apply State.mark_keeps
    | with_reducible apply State.setSlice_keeps
    | with_reducible apply State.bump_keeps
    | with_reducible apply State.raise_keeps
    | (extract_lets +onlyGivenNames x; with_reducible refine Keeps.cut (x := x) ?_ fun _ => ?_; rotate_left; clear_value x; rotate_left; subst x)
    | (extract_lets +onlyGivenNames x; clear_value x)
    | split

theorem State.rxByte_keeps (s : State) (n b : Nat) (err attr : Bool) (kept : Keeps s₀ s) : Keeps s₀ (State.rxByte s n b err attr) := by
  unfold State.rxByte
  repeat' first
    | with_reducible assumption
    | exact rfl
    | with_reducible apply State.setSlice_keeps
    | with_reducible apply State.bump_keeps
    | with_reducible apply State.raise_keeps
    | with_reducible apply State.closeItem_keeps
    | (extract_lets +onlyGivenNames x; with_reducible refine Keeps.cut (x := x) ?_ fun _ => ?_; rotate_left; clear_value x; rotate_left; subst x)
    | (extract_lets +onlyGivenNames x; clear_value x)
    | split

theorem State.rxBytes_keeps (s : State) (n : Nat) (bs : List Nat) (kept : Keeps s₀ s) : Keeps s₀ (State.rxBytes s n bs) := by
  unfold State.rxBytes
  repeat' first
    | with_reducible assumption
    | with_reducible apply State.rxByte_keeps
    | with_reducible refine Keeps.foldl ?_ fun _ _ _ => ?_

theorem State.rxEnd_keeps (s : State) (n : Nat) (kept : Keeps s₀ s) : Keeps s₀ (State.rxEnd s n) := by
  unfold State.rxEnd
  repeat' first
    | with_reducible assumption
    | exact rfl
    | with_reducible apply State.setSlice_keeps
    | with_reducible apply State.atBoundary_keeps
    | with_reducible apply State.closeItem_keeps
    | with_reducible apply State.raise_keeps
    | (extract_lets +onlyGivenNames x; have _ : State → _ := x; subst x)
    | (extract_lets +onlyGivenNames x; clear_value x)
    | split

theorem State.rxPacket_keeps (s : State) (n : Nat) (bs : List Nat) (kept : Keeps s₀ s) : Keeps s₀ (State.rxPacket s n bs) := by
  unfold State.rxPacket
  repeat' first
    | with_reducible assumption
    | with_reducible apply State.rxBytes_keeps
    | with_reducible apply State.rxEnd_keeps

theorem State.rxCut_keeps (s : State) (n : Nat) (kept : Keeps s₀ s) : Keeps s₀ (State.rxCut s n) := by
  unfold State.rxCut
  repeat' first
    | with_reducible assumption
    | exact rfl
    | with_reducible apply State.closeItem_keeps
    | with_reducible apply State.setSlice_keeps
    | with_reducible apply State.atBoundary_keeps
    | (extract_lets +onlyGivenNames x; with_reducible refine Keeps.cut (x := x) ?_ fun _ => ?_; rotate_left; clear_value x; rotate_left; subst x)
    | (extract_lets +onlyGivenNames x; clear_value x)
    | split

theorem State.txUnit_keeps (s : State) (n u : Nat) (kept : Keeps s₀ s) : Keeps s₀ (State.txUnit s n u) := by
  unfold State.txUnit
  repeat' first
    | with_reducible assumption
    | exact rfl
    | with_reducible apply State.bump_keeps
    | with_reducible apply State.raise_keeps
    | with_reducible apply State.setSlice_keeps
    | with_reducible apply State.mark_keeps
    | (extract_lets +onlyGivenNames x; clear_value x)
    | split

theorem State.startLost_keeps (s : State) (n : Nat) (kept : Keeps s₀ s) : Keeps s₀ (State.startLost s n) := by
  unfold State.startLost
  repeat' first
    | with_reducible assumption
    | with_reducible apply State.bump_keeps
    | with_reducible apply State.raise_keeps

theorem State.pendStart_keeps (s : State) (n : Nat) (kept : Keeps s₀ s) : Keeps s₀ (State.pendStart s n) := by
  unfold State.pendStart
  repeat' first
    | with_reducible assumption
    | exact rfl
    | with_reducible apply State.startLost_keeps
    | with_reducible apply State.setSlice_keeps
    | (extract_lets +onlyGivenNames x; clear_value x)
    | split

theorem State.pulseBegin_keeps (s : State) (n : Nat) (kept : Keeps s₀ s) : Keeps s₀ (State.pulseBegin s n) := by
  unfold State.pulseBegin
  repeat' first
    | with_reducible assumption
    | exact rfl
    | with_reducible apply State.wr_keeps
    | with_reducible apply State.setSlice_keeps

theorem State.sliceStart_keeps (s : State) (n : Nat) (kept : Keeps s₀ s) : Keeps s₀ (State.sliceStart s n) := by
  unfold State.sliceStart
  repeat' first
    | with_reducible assumption
    | exact rfl
    | with_reducible apply State.pendStart_keeps
    | with_reducible apply State.wr_keeps
    | with_reducible apply State.raise_keeps
    | with_reducible apply State.pulseBegin_keeps
    | split

theorem execSliceStart_keeps (slice : Fin 48) (s : State) : KeepsRes s (execSliceStart slice s) := by
  unfold execSliceStart
  repeat' first
    | with_reducible assumption
    | with_reducible refine KeepsRes.guarded fun x hx => ?_
    | with_reducible apply State.sliceStart_keeps
    | with_reducible apply State.ack_keeps

theorem State.flushDone_keeps (s : State) (n code : Nat) (kept : Keeps s₀ s) : Keeps s₀ (State.flushDone s n code) := by
  unfold State.flushDone
  repeat' first
    | with_reducible assumption
    | exact rfl
    | with_reducible apply State.setSlice_keeps
    | with_reducible apply State.resDone_keeps
    | with_reducible apply State.raise_keeps

theorem State.flushRequest_keeps (s : State) (n : Nat) (rx tx : Bool) (kept : Keeps s₀ s) : Keeps s₀ (State.flushRequest s n rx tx) := by
  unfold State.flushRequest
  repeat' first
    | with_reducible assumption
    | exact rfl
    | with_reducible apply State.resStart_keeps
    | with_reducible apply State.setSlice_keeps
    | (extract_lets +onlyGivenNames x; clear_value x)
    | split

theorem execRxFlush_keeps (slice : Fin 48) (s : State) : KeepsRes s (execRxFlush slice s) := by
  unfold execRxFlush
  repeat' first
    | with_reducible assumption
    | with_reducible refine KeepsRes.guarded fun x hx => ?_
    | with_reducible apply State.flushRequest_keeps
    | with_reducible apply State.ack_keeps

theorem execTxFlush_keeps (slice : Fin 48) (s : State) : KeepsRes s (execTxFlush slice s) := by
  unfold execTxFlush
  repeat' first
    | with_reducible assumption
    | with_reducible refine KeepsRes.guarded fun x hx => ?_
    | with_reducible apply State.flushRequest_keeps
    | with_reducible apply State.ack_keeps

theorem execFlushEffect_keeps (slice : Fin 48) (s : State) : KeepsRes s (execFlushEffect slice s) := by
  unfold execFlushEffect
  repeat' first
    | with_reducible assumption
    | exact rfl
    | with_reducible refine KeepsRes.guarded fun x hx => ?_
    | with_reducible apply State.mark_keeps
    | with_reducible apply State.setSlice_keeps
    | with_reducible apply State.flushDone_keeps
    | (extract_lets +onlyGivenNames x; with_reducible refine Keeps.cut (x := x) ?_ fun _ => ?_; rotate_left; clear_value x; rotate_left; subst x)
    | (extract_lets +onlyGivenNames x; clear_value x)
    | split

theorem State.flushForced_keeps (s : State) (n : Nat) (kept : Keeps s₀ s) : Keeps s₀ (State.flushForced s n) := by
  unfold State.flushForced
  repeat' first
    | with_reducible assumption
    | exact rfl
    | with_reducible apply State.rxCut_keeps
    | with_reducible apply State.setSlice_keeps
    | with_reducible apply State.atBoundary_keeps
    | with_reducible apply State.flushDone_keeps
    | (extract_lets +onlyGivenNames x; with_reducible refine Keeps.cut (x := x) ?_ fun _ => ?_; rotate_left; clear_value x; rotate_left; subst x)
    | (extract_lets +onlyGivenNames x; clear_value x)
    | split

theorem execFlushTmoExpiry_keeps (slice : Fin 48) (s : State) : KeepsRes s (execFlushTmoExpiry slice s) := by
  unfold execFlushTmoExpiry
  repeat' first
    | with_reducible assumption
    | with_reducible refine KeepsRes.guarded fun x hx => ?_
    | with_reducible apply State.flushForced_keeps
    | (extract_lets +onlyGivenNames x; clear_value x)
    | split

theorem State.sliceStop_keeps (s : State) (n : Nat) (kept : Keeps s₀ s) : Keeps s₀ (State.sliceStop s n) := by
  unfold State.sliceStop
  repeat' first
    | with_reducible assumption
    | exact rfl
    | with_reducible apply State.wr_keeps
    | with_reducible apply State.flushForced_keeps
    | with_reducible apply State.rxCut_keeps
    | with_reducible apply State.setSlice_keeps
    | with_reducible apply State.atBoundary_keeps
    | (extract_lets +onlyGivenNames x; with_reducible refine Keeps.cut (x := x) ?_ fun _ => ?_; rotate_left; clear_value x; rotate_left; subst x)
    | (extract_lets +onlyGivenNames x; clear_value x)
    | split

theorem State.afterEnd_keeps (s : State) (n : Nat) (kept : Keeps s₀ s) : Keeps s₀ (State.afterEnd s n) := by
  unfold State.afterEnd
  repeat' first
    | with_reducible assumption
    | with_reducible apply State.sliceStop_keeps
    | split

theorem State.sliceEnable_keeps (s : State) (n : Nat) (en : Bool) (kept : Keeps s₀ s) : Keeps s₀ (State.sliceEnable s n en) := by
  unfold State.sliceEnable
  repeat' first
    | with_reducible assumption
    | exact rfl
    | with_reducible apply State.mark_keeps
    | with_reducible apply State.sliceStop_keeps
    | with_reducible apply State.wr_keeps
    | with_reducible apply State.setSlice_keeps
    | with_reducible apply State.iolByMode_keeps
    | with_reducible apply State.toIol_keeps
    | (extract_lets +onlyGivenNames x; with_reducible refine Keeps.cut (x := x) ?_ fun _ => ?_; rotate_left; clear_value x; rotate_left; subst x)
    | (extract_lets +onlyGivenNames x; clear_value x)
    | split

theorem execSliceEnable_keeps (slice : Fin 48) (en : Bool) (s : State) : KeepsRes s (execSliceEnable slice en s) := by
  unfold execSliceEnable
  repeat' first
    | with_reducible assumption
    | with_reducible refine KeepsRes.guarded fun x hx => ?_
    | with_reducible apply State.sliceEnable_keeps
    | with_reducible apply State.ack_keeps

theorem State.rxUnits_keeps (s : State) (n k : Nat) (kept : Keeps s₀ s) : Keeps s₀ (State.rxUnits s n k).1 := by
  unfold State.rxUnits
  repeat' first
    | with_reducible assumption
    | exact rfl
    | with_reducible apply State.setSlice_keeps

theorem State.rxPortRead_keeps (s : State) (init : Initiator) (n off len : Nat) (enabled : Bool) (kept : Keeps s₀ s) : Keeps s₀ (State.rxPortRead s init n off len enabled) := by
  unfold State.rxPortRead
  repeat' first
    | with_reducible assumption
    | with_reducible refine Keeps.fst (by with_reducible assumption) ?_
    | with_reducible apply State.refuse_keeps
    | with_reducible apply State.rxUnits_keeps
    | with_reducible apply State.give_keeps
    | (extract_lets +onlyGivenNames x; clear_value x)
    | split

theorem State.txPortWrite_keeps (s : State) (init : Initiator) (n off : Nat) (units : List Nat) (len : Nat) (enabled : Bool) (kept : Keeps s₀ s) : Keeps s₀ (State.txPortWrite s init n off units len enabled) := by
  unfold State.txPortWrite
  repeat' first
    | with_reducible assumption
    | with_reducible apply State.refuse_keeps
    | with_reducible apply State.txUnit_keeps
    | with_reducible apply State.ack_keeps
    | with_reducible refine Keeps.foldl ?_ fun _ _ _ => ?_
    | (extract_lets +onlyGivenNames x; clear_value x)
    | split

theorem execRxPortRead_keeps (init : Initiator) (slice : Fin 48) (off : Nat) (bytes : ReadBytes) (s : State) : KeepsRes s (execRxPortRead init slice off bytes s) := by
  unfold execRxPortRead
  repeat' first
    | with_reducible assumption
    | with_reducible refine KeepsRes.guarded fun x hx => ?_
    | with_reducible apply State.rxPortRead_keeps

theorem execTxPortWrite_keeps (init : Initiator) (slice : Fin 48) (off : Nat) (data : WriteBytes) (s : State) : KeepsRes s (execTxPortWrite init slice off data s) := by
  unfold execTxPortWrite
  repeat' first
    | with_reducible assumption
    | with_reducible refine KeepsRes.guarded fun x hx => ?_
    | with_reducible apply State.txPortWrite_keeps

theorem State.serialOut_keeps (s : State) (n : Nat) (bs : List Nat) (kept : Keeps s₀ s) : Keeps s₀ (State.serialOut s n bs) := by
  unfold State.serialOut
  repeat' first
    | with_reducible assumption
    | with_reducible apply State.emit_keeps
    | split

theorem execUartCharacterReceived_keeps (slice : Fin 48) (char : BitVec 9) (bad brk : Bool) (s : State) : KeepsRes s (execUartCharacterReceived slice char bad brk s) := by
  unfold execUartCharacterReceived
  repeat' first
    | with_reducible assumption
    | with_reducible refine KeepsRes.guarded fun x hx => ?_
    | with_reducible apply State.rxEnd_keeps
    | with_reducible apply State.afterEnd_keeps
    | with_reducible apply State.rxByte_keeps
    | (extract_lets +onlyGivenNames x; with_reducible refine Keeps.cut (x := x) ?_ fun _ => ?_; rotate_left; clear_value x; rotate_left; subst x)
    | (extract_lets +onlyGivenNames x; clear_value x)
    | split

theorem execUartGapExpiry_keeps (slice : Fin 48) (s : State) : KeepsRes s (execUartGapExpiry slice s) := by
  unfold execUartGapExpiry
  repeat' first
    | with_reducible assumption
    | with_reducible refine KeepsRes.guarded fun x hx => ?_
    | with_reducible apply State.rxEnd_keeps
    | with_reducible apply State.afterEnd_keeps
    | split

theorem State.packetBegin_keeps (s : State) (n : Nat) (kept : Keeps s₀ s) : Keeps s₀ (State.packetBegin s n) := by
  unfold State.packetBegin
  repeat' first
    | with_reducible assumption
    | exact rfl
    | with_reducible apply State.setSlice_keeps

theorem execTxPacketSend_keeps (slice : Fin 48) (s : State) : KeepsRes s (execTxPacketSend slice s) := by
  unfold execTxPacketSend
  repeat' first
    | with_reducible assumption
    | exact rfl
    | with_reducible refine KeepsRes.guarded fun x hx => ?_
    | with_reducible apply State.packetBegin_keeps
    | with_reducible apply State.setSlice_keeps
    | with_reducible apply State.serialOut_keeps
    | (extract_lets +onlyGivenNames x; with_reducible refine Keeps.cut (x := x) ?_ fun _ => ?_; rotate_left; clear_value x; rotate_left; subst x)
    | (extract_lets +onlyGivenNames x; clear_value x)
    | split

theorem execTxPacketDone_keeps (slice : Fin 48) (s : State) : KeepsRes s (execTxPacketDone slice s) := by
  unfold execTxPacketDone
  repeat' first
    | with_reducible assumption
    | exact rfl
    | with_reducible refine KeepsRes.guarded fun x hx => ?_
    | with_reducible apply State.setSlice_keeps
    | with_reducible apply State.serialOut_keeps
    | with_reducible apply State.raise_keeps
    | with_reducible apply State.atBoundary_keeps
    | with_reducible apply State.afterEnd_keeps
    | (extract_lets +onlyGivenNames x; clear_value x)
    | split

theorem execSpiMasterTransfer_keeps (slice : Fin 48) (miso : List Byte) (s : State) : KeepsRes s (execSpiMasterTransfer slice miso s) := by
  unfold execSpiMasterTransfer
  repeat' first
    | with_reducible assumption
    | exact rfl
    | with_reducible refine KeepsRes.guarded fun x hx => ?_
    | with_reducible apply State.packetBegin_keeps
    | with_reducible apply State.setSlice_keeps
    | with_reducible apply State.rxBytes_keeps
    | with_reducible apply State.serialOut_keeps
    | with_reducible apply State.rxEnd_keeps
    | with_reducible apply State.raise_keeps
    | with_reducible apply State.atBoundary_keeps
    | (extract_lets +onlyGivenNames x; with_reducible refine Keeps.cut (x := x) ?_ fun _ => ?_; rotate_left; clear_value x; rotate_left; subst x)
    | (extract_lets +onlyGivenNames x; clear_value x)
    | split

theorem State.lastItemErr_keeps (s : State) (n : Nat) (kept : Keeps s₀ s) : Keeps s₀ (State.lastItemErr s n) := by
  unfold State.lastItemErr
  repeat' first
    | with_reducible assumption
    | exact rfl
    | with_reducible apply State.setSlice_keeps
    | with_reducible apply State.bump_keeps
    | with_reducible apply State.raise_keeps
    | (extract_lets +onlyGivenNames x; clear_value x)
    | split

theorem execSpiSlaveSelect_keeps (slice : Fin 48) (mosi : List Byte) (partialWord : Bool) (s : State) : KeepsRes s (execSpiSlaveSelect slice mosi partialWord s) := by
  unfold execSpiSlaveSelect
  repeat' first
    | with_reducible assumption
    | exact rfl
    | with_reducible refine KeepsRes.guarded fun x hx => ?_
    | with_reducible apply State.setSlice_keeps
    | with_reducible apply State.rxByte_keeps
    | with_reducible apply State.lastItemErr_keeps
    | with_reducible apply State.rxEnd_keeps
    | with_reducible apply State.serialOut_keeps
    | with_reducible apply State.raise_keeps
    | with_reducible refine Keeps.foldl ?_ fun _ _ _ => ?_
    | with_reducible refine Keeps.foldlFst ?_ fun _ _ _ => ?_
    | (extract_lets +onlyGivenNames x; with_reducible refine Keeps.cut (x := x) ?_ fun _ => ?_; rotate_left; clear_value x; rotate_left; subst x)
    | (extract_lets +onlyGivenNames x; clear_value x)
    | split

theorem execI2cTransaction_keeps (slice : Fin 48) (outcome : I2cEnd) (reads : List Byte) (s : State) : KeepsRes s (execI2cTransaction slice outcome reads s) := by
  unfold execI2cTransaction
  repeat' first
    | with_reducible assumption
    | exact rfl
    | with_reducible refine KeepsRes.guarded fun x hx => ?_
    | with_reducible apply State.packetBegin_keeps
    | with_reducible apply State.setSlice_keeps
    | with_reducible apply State.serialOut_keeps
    | with_reducible apply State.rxBytes_keeps
    | with_reducible apply State.rxByte_keeps
    | with_reducible apply State.rxEnd_keeps
    | with_reducible apply State.raise_keeps
    | with_reducible apply State.atBoundary_keeps
    | with_reducible refine Keeps.foldl ?_ fun _ _ _ => ?_
    | (extract_lets +onlyGivenNames x; with_reducible refine Keeps.cut (x := x) ?_ fun _ => ?_; rotate_left; clear_value x; rotate_left; subst x)
    | (extract_lets +onlyGivenNames x; clear_value x)
    | split

theorem State.wrStamp_keeps (s : State) (f0 f1 f2 : Fld) (v : Nat) (kept : Keeps s₀ s) : Keeps s₀ (State.wrStamp s f0 f1 f2 v) := by
  unfold State.wrStamp
  repeat' first
    | with_reducible assumption
    | with_reducible apply State.wr_keeps

theorem execSsiTransfer_keeps (slice : Fin 48) (data : BitVec 64) (ebits : Fin 8) (parityBad timeout : Bool) (s : State) : KeepsRes s (execSsiTransfer slice data ebits parityBad timeout s) := by
  unfold execSsiTransfer
  repeat' first
    | with_reducible assumption
    | exact rfl
    | with_reducible refine KeepsRes.guarded fun x hx => ?_
    | with_reducible apply State.wr64_keeps
    | with_reducible apply State.wrStamp_keeps
    | with_reducible apply State.wr_keeps
    | with_reducible apply State.raise_keeps
    | with_reducible apply State.setSlice_keeps
    | with_reducible apply State.rxBytes_keeps
    | with_reducible apply State.rxByte_keeps
    | with_reducible apply State.rxEnd_keeps
    | (extract_lets +onlyGivenNames x; with_reducible refine Keeps.cut (x := x) ?_ fun _ => ?_; rotate_left; clear_value x; rotate_left; subst x)
    | (extract_lets +onlyGivenNames x; clear_value x)
    | split

theorem execQuadratureEdge_keeps (slice : Fin 48) (a b : Bool) (s : State) : KeepsRes s (execQuadratureEdge slice a b s) := by
  unfold execQuadratureEdge
  repeat' first
    | with_reducible assumption
    | exact rfl
    | with_reducible refine KeepsRes.guarded fun x hx => ?_
    | with_reducible apply State.setSlice_keeps
    | with_reducible apply State.raise_keeps
    | with_reducible apply State.wr64_keeps
    | with_reducible apply State.wrB_keeps
    | with_reducible apply State.wrStamp_keeps
    | (extract_lets +onlyGivenNames x; with_reducible refine Keeps.cut (x := x) ?_ fun _ => ?_; rotate_left; clear_value x; rotate_left; subst x)
    | (extract_lets +onlyGivenNames x; clear_value x)
    | split

theorem execQuadratureIndex_keeps (slice : Fin 48) (s : State) : KeepsRes s (execQuadratureIndex slice s) := by
  unfold execQuadratureIndex
  repeat' first
    | with_reducible assumption
    | exact rfl
    | with_reducible refine KeepsRes.guarded fun x hx => ?_
    | with_reducible apply State.raise_keeps
    | with_reducible apply State.wr64_keeps
    | with_reducible apply State.setSlice_keeps
    | (extract_lets +onlyGivenNames x; with_reducible refine Keeps.cut (x := x) ?_ fun _ => ?_; rotate_left; clear_value x; rotate_left; subst x)
    | (extract_lets +onlyGivenNames x; clear_value x)
    | split

theorem State.pulseWrite_keeps (s : State) (n v : Nat) (kept : Keeps s₀ s) : Keeps s₀ (State.pulseWrite s n v) := by
  unfold State.pulseWrite
  repeat' first
    | with_reducible assumption
    | exact rfl
    | with_reducible apply State.wr_keeps
    | with_reducible apply State.setSlice_keeps
    | with_reducible apply State.raise_keeps
    | (extract_lets +onlyGivenNames x; clear_value x)
    | split

theorem execPulsePeriodWrite_keeps (slice : Fin 48) (high : BitVec 32) (s : State) : KeepsRes s (execPulsePeriodWrite slice high s) := by
  unfold execPulsePeriodWrite
  repeat' first
    | with_reducible assumption
    | with_reducible refine KeepsRes.guarded fun x hx => ?_
    | with_reducible apply State.pulseWrite_keeps
    | with_reducible apply State.ack_keeps
    | split

theorem execPulseGate_keeps (slice : Fin 48) (high : Bool) (s : State) : KeepsRes s (execPulseGate slice high s) := by
  unfold execPulseGate
  repeat' first
    | with_reducible assumption
    | exact rfl
    | with_reducible refine KeepsRes.guarded fun x hx => ?_
    | with_reducible apply State.setSlice_keeps
    | (extract_lets +onlyGivenNames x; clear_value x)
    | split

theorem State.pulseDone_keeps (s : State) (n : Nat) (kept : Keeps s₀ s) : Keeps s₀ (State.pulseDone s n) := by
  unfold State.pulseDone
  repeat' first
    | with_reducible assumption
    | with_reducible apply State.wr_keeps
    | with_reducible apply State.raise_keeps
    | with_reducible apply State.pulseBegin_keeps
    | (extract_lets +onlyGivenNames x; with_reducible refine Keeps.cut (x := x) ?_ fun _ => ?_; rotate_left; clear_value x; rotate_left; subst x)
    | split

theorem execPulseBurstDone_keeps (slice : Fin 48) (s : State) : KeepsRes s (execPulseBurstDone slice s) := by
  unfold execPulseBurstDone
  repeat' first
    | with_reducible assumption
    | with_reducible refine KeepsRes.guarded fun x hx => ?_
    | with_reducible apply State.pulseDone_keeps
    | (extract_lets +onlyGivenNames x; clear_value x)
    | split

theorem State.pulseBoundary_keeps (s : State) (n : Nat) (kept : Keeps s₀ s) : Keeps s₀ (State.pulseBoundary s n) := by
  unfold State.pulseBoundary
  repeat' first
    | with_reducible assumption
    | exact rfl
    | with_reducible apply State.wr_keeps
    | with_reducible apply State.pulseBegin_keeps
    | with_reducible apply State.pulseDone_keeps
    | with_reducible apply State.setSlice_keeps
    | (extract_lets +onlyGivenNames x; with_reducible refine Keeps.cut (x := x) ?_ fun _ => ?_; rotate_left; clear_value x; rotate_left; subst x)
    | (extract_lets +onlyGivenNames x; clear_value x)
    | split

theorem State.pulseTick_keeps (s : State) (n : Nat) (kept : Keeps s₀ s) : Keeps s₀ (State.pulseTick s n) := by
  unfold State.pulseTick
  repeat' first
    | with_reducible assumption
    | exact rfl
    | with_reducible apply State.setSlice_keeps
    | with_reducible apply State.pulseBoundary_keeps
    | (extract_lets +onlyGivenNames x; clear_value x)
    | split

theorem State.pulseTicks_keeps (s : State) (kept : Keeps s₀ s) : Keeps s₀ (State.pulseTicks s) := by
  unfold State.pulseTicks
  repeat' first
    | with_reducible assumption
    | with_reducible apply State.pulseTick_keeps
    | with_reducible refine Keeps.foldl ?_ fun _ _ _ => ?_

theorem execIolFeedChange_keeps (slice : Fin 48) (on : Bool) (s : State) : KeepsRes s (execIolFeedChange slice on s) := by
  unfold execIolFeedChange
  repeat' first
    | with_reducible assumption
    | exact rfl
    | with_reducible refine KeepsRes.guarded fun x hx => ?_
    | with_reducible apply State.toIol_keeps
    | with_reducible apply State.wr_keeps
    | with_reducible apply State.setSlice_keeps
    | with_reducible apply State.iolByMode_keeps
    | (extract_lets +onlyGivenNames x; clear_value x)
    | split

theorem execIolWakeup_keeps (slice : Fin 48) (rate : Option (Fin 4)) (s : State) : KeepsRes s (execIolWakeup slice rate s) := by
  unfold execIolWakeup
  repeat' first
    | with_reducible assumption
    | exact rfl
    | with_reducible refine KeepsRes.guarded fun x hx => ?_
    | with_reducible apply State.toIol_keeps
    | with_reducible apply State.wr_keeps
    | (extract_lets +onlyGivenNames x; clear_value x)
    | split

theorem execIolValidation_keeps (slice : Fin 48) (vid : BitVec 16) (did : BitVec 24) (s : State) : KeepsRes s (execIolValidation slice vid did s) := by
  unfold execIolValidation
  repeat' first
    | with_reducible assumption
    | with_reducible refine KeepsRes.guarded fun x hx => ?_
    | with_reducible apply State.toIol_keeps
    | with_reducible apply State.raise_keeps
    | split

theorem execIolMessageFailure_keeps (slice : Fin 48) (s : State) : KeepsRes s (execIolMessageFailure slice s) := by
  unfold execIolMessageFailure
  repeat' first
    | with_reducible assumption
    | exact rfl
    | with_reducible refine KeepsRes.guarded fun x hx => ?_
    | with_reducible apply State.setSlice_keeps
    | with_reducible apply State.bump_keeps
    | with_reducible apply State.toIol_keeps
    | with_reducible apply State.wr_keeps
    | with_reducible apply State.raise_keeps
    | (extract_lets +onlyGivenNames x; clear_value x)
    | split

theorem execIolComlostExpiry_keeps (slice : Fin 48) (s : State) : KeepsRes s (execIolComlostExpiry slice s) := by
  unfold execIolComlostExpiry
  repeat' first
    | with_reducible assumption
    | with_reducible refine KeepsRes.guarded fun x hx => ?_
    | with_reducible apply State.toIol_keeps
    | split

theorem execIolMessageExchange_keeps (slice : Fin 48) (pd : List Byte) (valid : Bool) (event : Option (Byte × BitVec 16)) (isdu : Option (List Byte)) (s : State) : KeepsRes s (execIolMessageExchange slice pd valid event isdu s) := by
  unfold execIolMessageExchange
  repeat' first
    | with_reducible assumption
    | exact rfl
    | with_reducible refine KeepsRes.guarded fun x hx => ?_
    | with_reducible apply State.setSlice_keeps
    | with_reducible apply State.wrB_keeps
    | with_reducible apply State.emit_keeps
    | with_reducible apply State.rxByte_keeps
    | with_reducible apply State.rxEnd_keeps
    | with_reducible apply State.rxPacket_keeps
    | (extract_lets +onlyGivenNames x; with_reducible refine Keeps.cut (x := x) ?_ fun _ => ?_; rotate_left; clear_value x; rotate_left; subst x)
    | (extract_lets +onlyGivenNames x; clear_value x)
    | split

end Sys2Proof.Machine
end

