-- ==== Sys2Proof/Laws/KeepsDrift.lean ====
section
/-! SUPPORT. The operations of Machine/Drift.lean keep the canonical forms, the queue and what was sent. -/

namespace Sys2Proof.Machine

variable {s₀ : State}

theorem State.setDeparting_keeps (s : State) (l : List Nat) (kept : Keeps s₀ s) : Keeps s₀ (State.setDeparting s l) := by
  unfold State.setDeparting
  repeat' first
    | with_reducible assumption
    | exact rfl
    | (extract_lets +onlyGivenNames x; clear_value x)
    | with_reducible refine Keeps.upd ?_ ?_ ?_

theorem State.noteDeparture_keeps (s : State) (f : Fld) (kept : Keeps s₀ s) : Keeps s₀ (State.noteDeparture s f) := by
  unfold State.noteDeparture
  repeat' first
    | with_reducible assumption
    | with_reducible apply State.setDeparting_keeps
    | with_reducible apply State.raise_keeps
    | with_reducible apply State.mark_keeps
    | with_reducible apply State.wr_keeps
    | (extract_lets +onlyGivenNames x; with_reducible refine Keeps.cut (x := x) ?_ fun _ => ?_; rotate_left; clear_value x; rotate_left; subst x)
    | (extract_lets +onlyGivenNames x; clear_value x)
    | split

theorem State.wrA_keeps (s : State) (f : Fld) (v : Nat) (kept : Keeps s₀ s) : Keeps s₀ (State.wrA s f v) := by
  unfold State.wrA
  repeat' first
    | with_reducible assumption
    | with_reducible apply State.wr_keeps
    | with_reducible apply State.noteDeparture_keeps
    | split

theorem State.markLoaded_keeps (s : State) (f : Fld) (kept : Keeps s₀ s) : Keeps s₀ (State.markLoaded s f) := by
  unfold State.markLoaded
  repeat' first
    | with_reducible assumption
    | with_reducible apply State.mark_keeps
    | split

theorem State.loadA_keeps (s : State) (f : Fld) (v : Nat) (kept : Keeps s₀ s) : Keeps s₀ (State.loadA s f v) := by
  unfold State.loadA
  repeat' first
    | with_reducible assumption
    | exact rfl
    | with_reducible apply State.wr_keeps
    | with_reducible apply State.markLoaded_keeps
    | with_reducible apply State.setDeparting_keeps
    | (extract_lets +onlyGivenNames x; with_reducible refine Keeps.cut (x := x) ?_ fun _ => ?_; rotate_left; clear_value x; rotate_left; subst x)
    | (extract_lets +onlyGivenNames x; clear_value x)
    | intro _
    | with_reducible refine Keeps.upd ?_ ?_ ?_

theorem State.endDrift_keeps (s : State) (kept : Keeps s₀ s) : Keeps s₀ (State.endDrift s) := by
  unfold State.endDrift
  repeat' first
    | with_reducible assumption
    | with_reducible apply State.wr_keeps

theorem State.driftAck_keeps (s : State) (kept : Keeps s₀ s) : Keeps s₀ (State.driftAck s) := by
  unfold State.driftAck
  repeat' first
    | with_reducible assumption
    | with_reducible apply State.endDrift_keeps
    | split

theorem execDriftAck_keeps (s : State) : KeepsRes s (execDriftAck s) := by
  unfold execDriftAck
  repeat' first
    | with_reducible assumption
    | with_reducible refine KeepsRes.guarded fun x hx => ?_
    | with_reducible apply State.driftAck_keeps
    | with_reducible apply State.ack_keeps

end Sys2Proof.Machine
end

