-- ==== Sys2Proof/Laws/KeepsCan.lean ====
section
/-! SUPPORT. The operations of Machine/Can.lean keep the canonical forms, the queue and what was sent. -/

namespace Sys2Proof.Machine

variable {s₀ : State}

theorem State.setCan_keeps (s : State) (c : Nat) (x : CanState) (kept : Keeps s₀ s) : Keeps s₀ (State.setCan s c x) := by
  unfold State.setCan
  repeat' first
    | with_reducible assumption
    | exact rfl
    | with_reducible refine Keeps.upd ?_ ?_ ?_

theorem State.setBufWord_keeps (s : State) (c b off v : Nat) (kept : Keeps s₀ s) : Keeps s₀ (State.setBufWord s c b off v) := by
  unfold State.setBufWord
  repeat' first
    | with_reducible assumption
    | with_reducible apply State.store_keeps

theorem State.setStat_keeps (s : State) (c b n : Nat) (v : Bool) (kept : Keeps s₀ s) : Keeps s₀ (State.setStat s c b n v) := by
  unfold State.setStat
  repeat' first
    | with_reducible assumption
    | with_reducible apply State.setBufWord_keeps

theorem State.canRecord_keeps (s : State) (c cls : Nat) (data : Nat) (kept : Keeps s₀ s) : Keeps s₀ (State.canRecord s c cls data) := by
  unfold State.canRecord
  repeat' first
    | with_reducible assumption
    | with_reducible apply State.boomLimited_keeps

theorem State.canBoom_keeps (s : State) (c : Nat) (kept : Keeps s₀ s) : Keeps s₀ (State.canBoom s c) := by
  unfold State.canBoom
  repeat' first
    | with_reducible assumption
    | with_reducible apply State.boomState_keeps

theorem State.toRemote_keeps (s : State) (c : Nat) (e : RemoteEntry) (kept : Keeps s₀ s) : Keeps s₀ (State.toRemote s c e) := by
  unfold State.toRemote
  repeat' first
    | with_reducible assumption
    | exact rfl
    | with_reducible apply State.setCan_keeps
    | with_reducible apply State.bump_keeps
    | (extract_lets +onlyGivenNames x; clear_value x)
    | split

theorem State.guardFails_keeps (s : State) (c b : Nat) (kept : Keeps s₀ s) : Keeps s₀ (State.guardFails s c b) := by
  unfold State.guardFails
  repeat' first
    | with_reducible assumption
    | with_reducible apply State.setStat_keeps
    | with_reducible apply State.raise_keeps
    | with_reducible apply State.canBoom_keeps

theorem State.passGuardian_keeps (s : State) (c b : Nat) (kept : Keeps s₀ s) : Keeps s₀ (State.passGuardian s c b) := by
  unfold State.passGuardian
  repeat' first
    | with_reducible assumption
    | exact rfl
    | with_reducible apply State.setCan_keeps
    | with_reducible apply State.send_keeps
    | with_reducible apply State.toRemote_keeps
    | with_reducible apply State.mark_keeps
    | with_reducible apply State.guardFails_keeps
    | (extract_lets +onlyGivenNames x; with_reducible refine Keeps.cut (x := x) ?_ fun _ => ?_; rotate_left; clear_value x; rotate_left; subst x)
    | (extract_lets +onlyGivenNames x; clear_value x)
    | split

theorem State.canRequest_keeps (s : State) (c b : Nat) (kept : Keeps s₀ s) : Keeps s₀ (State.canRequest s c b) := by
  unfold State.canRequest
  repeat' first
    | with_reducible assumption
    | exact rfl
    | with_reducible apply State.raise_keeps
    | with_reducible apply State.bump_keeps
    | with_reducible apply State.setBufWord_keeps
    | with_reducible apply State.setCan_keeps
    | with_reducible apply State.setStat_keeps
    | with_reducible apply State.passGuardian_keeps
    | (extract_lets +onlyGivenNames x; with_reducible refine Keeps.cut (x := x) ?_ fun _ => ?_; rotate_left; clear_value x; rotate_left; subst x)
    | (extract_lets +onlyGivenNames x; clear_value x)
    | split

theorem State.canHarvest_keeps (s : State) (c b : Nat) (bs : List (Nat × Nat)) (kept : Keeps s₀ s) : Keeps s₀ (State.canHarvest s c b bs) := by
  unfold State.canHarvest
  repeat' first
    | with_reducible assumption
    | exact rfl
    | with_reducible apply State.setCan_keeps
    | with_reducible apply State.setStat_keeps
    | with_reducible apply State.store_keeps
    | with_reducible apply State.canRequest_keeps
    | with_reducible refine Keeps.foldl ?_ fun _ _ _ => ?_
    | with_reducible refine Keeps.foldlFst ?_ fun _ _ _ => ?_
    | (extract_lets +onlyGivenNames x; with_reducible refine Keeps.cut (x := x) ?_ fun _ => ?_; rotate_left; clear_value x; rotate_left; subst x)
    | (extract_lets +onlyGivenNames x; clear_value x)
    | split

theorem State.canPendFell_keeps (s : State) (c b : Nat) (kept : Keeps s₀ s) : Keeps s₀ (State.canPendFell s c b) := by
  unfold State.canPendFell
  repeat' first
    | with_reducible assumption
    | exact rfl
    | with_reducible apply State.setCan_keeps
    | with_reducible apply State.setStat_keeps
    | with_reducible apply State.canHarvest_keeps
    | (extract_lets +onlyGivenNames x; with_reducible refine Keeps.cut (x := x) ?_ fun _ => ?_; rotate_left; clear_value x; rotate_left; subst x)
    | (extract_lets +onlyGivenNames x; clear_value x)
    | split

theorem State.canTxReq_keeps (s : State) (c k mask : Nat) (kept : Keeps s₀ s) : Keeps s₀ (State.canTxReq s c k mask) := by
  unfold State.canTxReq
  repeat' first
    | with_reducible assumption
    | with_reducible apply State.canRequest_keeps
    | with_reducible refine Keeps.foldl ?_ fun _ _ _ => ?_

theorem execCanTxRequest_keeps (channel : Fin 16) (k : Fin 2) (buffers : BitVec 32) (s : State) : KeepsRes s (execCanTxRequest channel k buffers s) := by
  unfold execCanTxRequest
  repeat' first
    | with_reducible assumption
    | with_reducible refine KeepsRes.guarded fun x hx => ?_
    | with_reducible apply State.canTxReq_keeps
    | with_reducible apply State.ack_keeps

theorem execCanStartOfFrame_keeps (channel : Fin 16) (s : State) : KeepsRes s (execCanStartOfFrame channel s) := by
  unfold execCanStartOfFrame
  repeat' first
    | with_reducible assumption
    | exact rfl
    | with_reducible refine KeepsRes.guarded fun x hx => ?_
    | with_reducible apply State.setCan_keeps
    | with_reducible apply State.wr_keeps
    | (extract_lets +onlyGivenNames x; clear_value x)
    | split

theorem State.canFrameEnds_keeps (s : State) (c : Nat) (kept : Keeps s₀ s) : Keeps s₀ (State.canFrameEnds s c) := by
  unfold State.canFrameEnds
  repeat' first
    | with_reducible assumption
    | exact rfl
    | with_reducible apply State.setCan_keeps
    | with_reducible apply State.wr_keeps

theorem State.canWithdraw_keeps (s : State) (c b : Nat) (kept : Keeps s₀ s) : Keeps s₀ (State.canWithdraw s c b) := by
  unfold State.canWithdraw
  repeat' first
    | with_reducible assumption
    | with_reducible apply State.setStat_keeps
    | with_reducible apply State.bump_keeps
    | with_reducible apply State.raise_keeps
    | with_reducible apply State.canBoom_keeps
    | with_reducible apply State.canPendFell_keeps

theorem State.dropCopies_keeps (s : State) (c b : Nat) (kept : Keeps s₀ s) : Keeps s₀ (State.dropCopies s c b) := by
  unfold State.dropCopies
  repeat' first
    | with_reducible assumption
    | exact rfl
    | split
    | intro _
    | with_reducible refine Keeps.upd ?_ ?_ ?_

theorem State.canGood_keeps (s : State) (c : Nat) (tx : Bool) (kept : Keeps s₀ s) : Keeps s₀ (State.canGood s c tx) := by
  unfold State.canGood
  repeat' first
    | with_reducible assumption
    | with_reducible apply State.wr_keeps
    | with_reducible apply State.draw_keeps
    | (extract_lets +onlyGivenNames x; clear_value x)
    | split

theorem State.canCounters_keeps (s : State) (c : Nat) (kept : Keeps s₀ s) : Keeps s₀ (State.canCounters s c) := by
  unfold State.canCounters
  repeat' first
    | with_reducible assumption
    | with_reducible apply State.raise_keeps
    | with_reducible apply State.wrB_keeps
    | with_reducible apply State.wr_keeps
    | with_reducible apply State.canBoom_keeps
    | (extract_lets +onlyGivenNames x; with_reducible refine Keeps.cut (x := x) ?_ fun _ => ?_; rotate_left; clear_value x; rotate_left; subst x)
    | (extract_lets +onlyGivenNames x; clear_value x)
    | split

theorem State.canMeasure_keeps (s : State) (c : Nat) (f : CanFrame) (kept : Keeps s₀ s) : Keeps s₀ (State.canMeasure s c f) := by
  unfold State.canMeasure
  repeat' first
    | with_reducible assumption
    | with_reducible apply State.draw_keeps
    | with_reducible apply State.wr_keeps
    | (extract_lets +onlyGivenNames x; with_reducible refine Keeps.cut (x := x) ?_ fun _ => ?_; rotate_left; clear_value x; rotate_left; subst x)
    | (extract_lets +onlyGivenNames x; clear_value x)
    | split

theorem State.canSentOne_keeps (s : State) (c : Nat) (f : CanFrame) (kept : Keeps s₀ s) : Keeps s₀ (State.canSentOne s c f) := by
  unfold State.canSentOne
  repeat' first
    | with_reducible assumption
    | with_reducible apply State.canMeasure_keeps
    | with_reducible apply State.canFrameEnds_keeps
    | with_reducible apply State.canGood_keeps
    | with_reducible apply State.canCounters_keeps

theorem execCanTxComplete_keeps (channel : Fin 16) (s : State) : KeepsRes s (execCanTxComplete channel s) := by
  unfold execCanTxComplete
  repeat' first
    | with_reducible assumption
    | exact rfl
    | with_reducible refine KeepsRes.guarded fun x hx => ?_
    | with_reducible apply State.canFrameEnds_keeps
    | with_reducible apply State.setStat_keeps
    | with_reducible apply State.store_keeps
    | with_reducible apply State.raise_keeps
    | with_reducible apply State.emit_keeps
    | with_reducible apply State.canSentOne_keeps
    | with_reducible apply State.canPendFell_keeps
    | with_reducible apply State.setCan_keeps
    | (extract_lets +onlyGivenNames x; clear_value x)
    | split

theorem execCanTxAttemptFailed_keeps (channel : Fin 16) (arbitration error : Bool) (s : State) : KeepsRes s (execCanTxAttemptFailed channel arbitration error s) := by
  unfold execCanTxAttemptFailed
  repeat' first
    | with_reducible assumption
    | exact rfl
    | with_reducible refine KeepsRes.guarded fun x hx => ?_
    | with_reducible apply State.setCan_keeps
    | with_reducible apply State.bump_keeps
    | with_reducible apply State.canFrameEnds_keeps
    | with_reducible apply State.setStat_keeps
    | with_reducible apply State.raise_keeps
    | with_reducible apply State.canPendFell_keeps
    | with_reducible apply State.canWithdraw_keeps
    | (extract_lets +onlyGivenNames x; with_reducible refine Keeps.cut (x := x) ?_ fun _ => ?_; rotate_left; clear_value x; rotate_left; subst x)
    | (extract_lets +onlyGivenNames x; have _ : State → _ := x; subst x)
    | (extract_lets +onlyGivenNames x; clear_value x)
    | split

theorem execCanDeadlineExpiry_keeps (channel : Fin 16) (buffer : Fin 64) (s : State) : KeepsRes s (execCanDeadlineExpiry channel buffer s) := by
  unfold execCanDeadlineExpiry
  repeat' first
    | with_reducible assumption
    | exact rfl
    | with_reducible refine KeepsRes.guarded fun x hx => ?_
    | with_reducible apply State.dropCopies_keeps
    | with_reducible apply State.canWithdraw_keeps
    | (extract_lets +onlyGivenNames x; with_reducible refine Keeps.cut (x := x) ?_ fun _ => ?_; rotate_left; clear_value x; rotate_left; subst x)
    | (extract_lets +onlyGivenNames x; clear_value x)
    | split

theorem State.abdEnd_keeps (s : State) (c code : Nat) (kept : Keeps s₀ s) : Keeps s₀ (State.abdEnd s c code) := by
  unfold State.abdEnd
  repeat' first
    | with_reducible assumption
    | with_reducible apply State.wr_keeps
    | with_reducible apply State.resDone_keeps
    | with_reducible apply State.raise_keeps
    | split

theorem State.abdMatch_keeps (s : State) (c : Nat) (kept : Keeps s₀ s) : Keeps s₀ (State.abdMatch s c) := by
  unfold State.abdMatch
  repeat' first
    | with_reducible assumption
    | with_reducible apply State.wrA_keeps
    | with_reducible apply State.wr_keeps
    | with_reducible apply State.abdEnd_keeps
    | with_reducible refine Keeps.foldl ?_ fun _ _ _ => ?_

theorem State.abdFrame_keeps (s : State) (c : Nat) (f : CanFrame) (kept : Keeps s₀ s) : Keeps s₀ (State.abdFrame s c f) := by
  unfold State.abdFrame
  repeat' first
    | with_reducible assumption
    | exact rfl
    | with_reducible apply State.setCan_keeps
    | with_reducible apply State.abdMatch_keeps
    | (extract_lets +onlyGivenNames x; with_reducible refine Keeps.cut (x := x) ?_ fun _ => ?_; rotate_left; clear_value x; rotate_left; subst x)
    | (extract_lets +onlyGivenNames x; clear_value x)
    | split

theorem State.abdGo_keeps (s : State) (init : Initiator) (c : Nat) (kept : Keeps s₀ s) : Keeps s₀ (State.abdGo s init c) := by
  unfold State.abdGo
  repeat' first
    | with_reducible assumption
    | exact rfl
    | with_reducible apply State.refuseReg_keeps
    | with_reducible apply State.ack_keeps
    | with_reducible apply State.resStart_keeps
    | with_reducible apply State.wr_keeps
    | with_reducible apply State.setCan_keeps
    | with_reducible apply State.resDone_keeps
    | (extract_lets +onlyGivenNames x; with_reducible refine Keeps.cut (x := x) ?_ fun _ => ?_; rotate_left; clear_value x; rotate_left; subst x)
    | (extract_lets +onlyGivenNames x; clear_value x)
    | split

theorem execAbdGo_keeps (init : Initiator) (channel : Fin 16) (s : State) : KeepsRes s (execAbdGo init channel s) := by
  unfold execAbdGo
  repeat' first
    | with_reducible assumption
    | with_reducible refine KeepsRes.guarded fun x hx => ?_
    | with_reducible apply State.abdGo_keeps

theorem execAbdStop_keeps (channel : Fin 16) (s : State) : KeepsRes s (execAbdStop channel s) := by
  unfold execAbdStop
  repeat' first
    | with_reducible assumption
    | with_reducible refine KeepsRes.guarded fun x hx => ?_
    | with_reducible apply State.abdEnd_keeps
    | with_reducible apply State.ack_keeps

theorem execAbdDwellExpiry_keeps (channel : Fin 16) (s : State) : KeepsRes s (execAbdDwellExpiry channel s) := by
  unfold execAbdDwellExpiry
  repeat' first
    | with_reducible assumption
    | exact rfl
    | with_reducible refine KeepsRes.guarded fun x hx => ?_
    | with_reducible apply State.setCan_keeps
    | with_reducible apply State.wr_keeps
    | with_reducible apply State.abdEnd_keeps
    | (extract_lets +onlyGivenNames x; with_reducible refine Keeps.cut (x := x) ?_ fun _ => ?_; rotate_left; clear_value x; rotate_left; subst x)
    | (extract_lets +onlyGivenNames x; clear_value x)
    | split

theorem State.storeRx_keeps (s : State) (c b : Nat) (f : CanFrame) (sof : Nat) (kept : Keeps s₀ s) : Keeps s₀ (State.storeRx s c b f sof) := by
  unfold State.storeRx
  repeat' first
    | with_reducible assumption
    | with_reducible apply State.setBufWord_keeps
    | with_reducible apply State.store_keeps
    | with_reducible apply State.setStat_keeps
    | with_reducible apply State.raiseBit_keeps
    | with_reducible apply State.raise_keeps
    | with_reducible apply State.mark_keeps
    | (extract_lets +onlyGivenNames x; clear_value x)
    | split

theorem State.toFifo_keeps (s : State) (c : Nat) (one : Bool) (f : CanFrame) (filt sof : Nat) (kept : Keeps s₀ s) : Keeps s₀ (State.toFifo s c one f filt sof) := by
  unfold State.toFifo
  repeat' first
    | with_reducible assumption
    | exact rfl
    | with_reducible apply State.send_keeps
    | with_reducible apply State.setCan_keeps
    | with_reducible apply State.raise_keeps
    | with_reducible apply State.mark_keeps
    | with_reducible apply State.bump_keeps
    | (extract_lets +onlyGivenNames x; with_reducible refine Keeps.cut (x := x) ?_ fun _ => ?_; rotate_left; clear_value x; rotate_left; subst x)
    | (extract_lets +onlyGivenNames x; have _ : State → _ := x; subst x)
    | (extract_lets +onlyGivenNames x; clear_value x)
    | split

theorem State.canReceive_keeps (s : State) (c : Nat) (f : CanFrame) (sof : Nat) (kept : Keeps s₀ s) : Keeps s₀ (State.canReceive s c f sof) := by
  unfold State.canReceive
  repeat' first
    | with_reducible assumption
    | exact rfl
    | with_reducible apply State.storeRx_keeps
    | with_reducible apply State.toFifo_keeps
    | with_reducible apply State.bump_keeps
    | with_reducible apply State.canRecord_keeps
    | split

theorem State.canRxAck_keeps (s : State) (c k mask : Nat) (kept : Keeps s₀ s) : Keeps s₀ (State.canRxAck s c k mask) := by
  unfold State.canRxAck
  repeat' first
    | with_reducible assumption
    | with_reducible apply State.setStat_keeps
    | with_reducible refine Keeps.foldl ?_ fun _ _ _ => ?_

theorem execCanRxack_keeps (channel : Fin 16) (k : Fin 2) (buffers : BitVec 32) (s : State) : KeepsRes s (execCanRxack channel k buffers s) := by
  unfold execCanRxack
  repeat' first
    | with_reducible assumption
    | with_reducible refine KeepsRes.guarded fun x hx => ?_
    | with_reducible apply State.canRxAck_keeps
    | with_reducible apply State.ack_keeps

theorem State.canPop_keeps (s : State) (c mask : Nat) (kept : Keeps s₀ s) : Keeps s₀ (State.canPop s c mask) := by
  unfold State.canPop
  repeat' first
    | with_reducible assumption
    | exact rfl
    | with_reducible apply State.setCan_keeps

theorem execCanPop_keeps (channel : Fin 16) (fifos : BitVec 2) (s : State) : KeepsRes s (execCanPop channel fifos s) := by
  unfold execCanPop
  repeat' first
    | with_reducible assumption
    | with_reducible refine KeepsRes.guarded fun x hx => ?_
    | with_reducible apply State.canPop_keeps
    | with_reducible apply State.ack_keeps

theorem State.bufferWrite_keeps (s : State) (init : Initiator) (c off : Nat) (bs : List Nat) (kept : Keeps s₀ s) : Keeps s₀ (State.bufferWrite s init c off bs) := by
  unfold State.bufferWrite
  repeat' first
    | with_reducible assumption
    | with_reducible apply State.refuse_keeps
    | with_reducible apply State.store_keeps
    | with_reducible apply State.ack_keeps
    | with_reducible refine Keeps.foldl ?_ fun _ _ _ => ?_
    | with_reducible refine Keeps.foldlFst ?_ fun _ _ _ => ?_
    | (extract_lets +onlyGivenNames x; with_reducible refine Keeps.cut (x := x) ?_ fun _ => ?_; rotate_left; clear_value x; rotate_left; subst x)
    | (extract_lets +onlyGivenNames x; clear_value x)
    | split

theorem State.filterWrite_keeps (s : State) (c off : Nat) (bs : List Nat) (kept : Keeps s₀ s) : Keeps s₀ (State.filterWrite s c off bs) := by
  unfold State.filterWrite
  repeat' first
    | with_reducible assumption
    | exact rfl
    | with_reducible apply State.setCan_keeps
    | with_reducible apply State.store_keeps
    | with_reducible apply State.ack_keeps

theorem State.canWindowWrite_keeps (s : State) (init : Initiator) (c off : Nat) (bs : List Nat) (enabled : Bool) (kept : Keeps s₀ s) : Keeps s₀ (State.canWindowWrite s init c off bs enabled) := by
  unfold State.canWindowWrite
  repeat' first
    | with_reducible assumption
    | with_reducible apply State.refuse_keeps
    | with_reducible apply State.ack_keeps
    | with_reducible apply State.bufferWrite_keeps
    | with_reducible apply State.filterWrite_keeps
    | (extract_lets +onlyGivenNames x; clear_value x)
    | split

theorem State.canWindowRead_keeps (s : State) (init : Initiator) (c off len : Nat) (enabled : Bool) (kept : Keeps s₀ s) : Keeps s₀ (State.canWindowRead s init c off len enabled) := by
  unfold State.canWindowRead
  repeat' first
    | with_reducible assumption
    | with_reducible apply State.refuse_keeps
    | with_reducible apply State.give_keeps
    | (extract_lets +onlyGivenNames x; clear_value x)
    | split

theorem State.copiesBack_keeps (s : State) (g : Nat) (kept : Keeps s₀ s) : Keeps s₀ (State.copiesBack s g) := by
  unfold State.copiesBack
  repeat' first
    | with_reducible assumption
    | exact rfl
    | with_reducible apply State.setCan_keeps
    | with_reducible apply State.guardFails_keeps
    | with_reducible refine Keeps.foldl ?_ fun _ _ _ => ?_
    | (extract_lets +onlyGivenNames x; clear_value x)
    | split

theorem State.canBusOff_keeps (s : State) (c : Nat) (kept : Keeps s₀ s) : Keeps s₀ (State.canBusOff s c) := by
  unfold State.canBusOff
  repeat' first
    | with_reducible assumption
    | exact rfl
    | with_reducible apply State.copiesBack_keeps
    | with_reducible apply State.wr_keeps
    | with_reducible apply State.bump_keeps
    | with_reducible apply State.raise_keeps
    | with_reducible apply State.setCan_keeps
    | with_reducible apply State.canFrameEnds_keeps
    | with_reducible apply State.canBoom_keeps
    | with_reducible apply State.setStat_keeps
    | with_reducible apply State.passGuardian_keeps
    | with_reducible refine Keeps.foldl ?_ fun _ _ _ => ?_
    | (extract_lets +onlyGivenNames x; clear_value x)
    | split

theorem State.canCountError_keeps (s : State) (c lec : Nat) (sending special : Bool) (kept : Keeps s₀ s) : Keeps s₀ (State.canCountError s c lec sending special) := by
  unfold State.canCountError
  repeat' first
    | with_reducible assumption
    | with_reducible apply State.canBusOff_keeps
    | with_reducible apply State.wr_keeps
    | with_reducible apply State.canCounters_keeps
    | (extract_lets +onlyGivenNames x; clear_value x)
    | split

theorem State.canError_keeps (s : State) (c lec : Nat) (dataPhase sending special : Bool) (kept : Keeps s₀ s) : Keeps s₀ (State.canError s c lec dataPhase sending special) := by
  unfold State.canError
  repeat' first
    | with_reducible assumption
    | exact rfl
    | with_reducible apply State.wr_keeps
    | with_reducible apply State.wrB_keeps
    | with_reducible apply State.bump_keeps
    | with_reducible apply State.canRecord_keeps
    | with_reducible apply State.setCan_keeps
    | with_reducible apply State.emit_keeps
    | with_reducible apply State.canCountError_keeps
    | with_reducible apply State.canFrameEnds_keeps
    | (extract_lets +onlyGivenNames x; with_reducible refine Keeps.cut (x := x) ?_ fun _ => ?_; rotate_left; clear_value x; rotate_left; subst x)
    | (extract_lets +onlyGivenNames x; clear_value x)
    | split

theorem execCanErrorDetected_keeps (channel : Fin 16) (lec : Fin 8) (dataPhase sending special : Bool) (s : State) : KeepsRes s (execCanErrorDetected channel lec dataPhase sending special s) := by
  unfold execCanErrorDetected
  repeat' first
    | with_reducible assumption
    | with_reducible refine KeepsRes.guarded fun x hx => ?_
    | with_reducible apply State.bump_keeps
    | with_reducible apply State.raise_keeps
    | with_reducible apply State.canRecord_keeps
    | with_reducible apply State.canFrameEnds_keeps
    | with_reducible apply State.wr_keeps
    | with_reducible apply State.canError_keeps
    | (extract_lets +onlyGivenNames x; with_reducible refine Keeps.cut (x := x) ?_ fun _ => ?_; rotate_left; clear_value x; rotate_left; subst x)
    | (extract_lets +onlyGivenNames x; clear_value x)
    | split

theorem execCanFrameReceived_keeps (channel : Fin 16) (head : CanHead) (data : List Byte) (s : State) : KeepsRes s (execCanFrameReceived channel head data s) := by
  unfold execCanFrameReceived
  repeat' first
    | with_reducible assumption
    | exact rfl
    | with_reducible refine KeepsRes.guarded fun x hx => ?_
    | with_reducible apply State.emit_keeps
    | with_reducible apply State.abdFrame_keeps
    | with_reducible apply State.canGood_keeps
    | with_reducible apply State.canCounters_keeps
    | with_reducible apply State.canReceive_keeps
    | with_reducible apply State.canFrameEnds_keeps
    | with_reducible apply State.canError_keeps
    | (extract_lets +onlyGivenNames x; with_reducible refine Keeps.cut (x := x) ?_ fun _ => ?_; rotate_left; clear_value x; rotate_left; subst x)
    | (extract_lets +onlyGivenNames x; clear_value x)
    | split

theorem execGuardianCopySent_keeps (channel : Fin 16) (buffer : Fin 64) (s : State) : KeepsRes s (execGuardianCopySent channel buffer s) := by
  unfold execGuardianCopySent
  repeat' first
    | with_reducible assumption
    | exact rfl
    | with_reducible refine KeepsRes.guarded fun x hx => ?_
    | with_reducible apply State.setCan_keeps
    | with_reducible apply State.setStat_keeps
    | with_reducible apply State.raise_keeps
    | (extract_lets +onlyGivenNames x; clear_value x)
    | split

theorem State.canRecover_keeps (s : State) (c : Nat) (kept : Keeps s₀ s) : Keeps s₀ (State.canRecover s c) := by
  unfold State.canRecover
  repeat' first
    | with_reducible assumption
    | exact rfl
    | with_reducible apply State.setCan_keeps
    | (extract_lets +onlyGivenNames x; clear_value x)
    | split

theorem execCanRecover_keeps (channel : Fin 16) (s : State) : KeepsRes s (execCanRecover channel s) := by
  unfold execCanRecover
  repeat' first
    | with_reducible assumption
    | with_reducible refine KeepsRes.guarded fun x hx => ?_
    | with_reducible apply State.canRecover_keeps
    | with_reducible apply State.ack_keeps

theorem execCanRecoveryDone_keeps (recovery : CanRecovery) (s : State) : KeepsRes s (execCanRecoveryDone recovery s) := by
  unfold execCanRecoveryDone
  repeat' first
    | with_reducible assumption
    | exact rfl
    | with_reducible refine KeepsRes.guarded fun x hx => ?_
    | with_reducible apply State.wr_keeps
    | with_reducible apply State.raise_keeps
    | with_reducible apply State.setCan_keeps
    | with_reducible apply State.canBoom_keeps
    | (extract_lets +onlyGivenNames x; with_reducible refine Keeps.cut (x := x) ?_ fun _ => ?_; rotate_left; clear_value x; rotate_left; subst x)
    | (extract_lets +onlyGivenNames x; clear_value x)
    | split

theorem execCanStuckDominant_keeps (channel : Fin 16) (s : State) : KeepsRes s (execCanStuckDominant channel s) := by
  unfold execCanStuckDominant
  repeat' first
    | with_reducible assumption
    | with_reducible refine KeepsRes.guarded fun x hx => ?_
    | with_reducible apply State.wr_keeps
    | with_reducible apply State.bump_keeps
    | with_reducible apply State.raise_keeps
    | with_reducible apply State.canRecord_keeps
    | split

theorem execCanStuckCleared_keeps (channel : Fin 16) (s : State) : KeepsRes s (execCanStuckCleared channel s) := by
  unfold execCanStuckCleared
  repeat' first
    | with_reducible assumption
    | with_reducible refine KeepsRes.guarded fun x hx => ?_
    | with_reducible apply State.wr_keeps

theorem State.canLom_keeps (s : State) (c : Nat) (lom : Bool) (kept : Keeps s₀ s) : Keeps s₀ (State.canLom s c lom) := by
  unfold State.canLom
  repeat' first
    | with_reducible assumption
    | exact rfl
    | with_reducible apply State.wrB_keeps
    | with_reducible apply State.setCan_keeps
    | with_reducible apply State.abdEnd_keeps
    | (extract_lets +onlyGivenNames x; with_reducible refine Keeps.cut (x := x) ?_ fun _ => ?_; rotate_left; clear_value x; rotate_left; subst x)
    | (extract_lets +onlyGivenNames x; clear_value x)
    | split

theorem execCanLomWrite_keeps (channel : Fin 16) (lom : Bool) (s : State) : KeepsRes s (execCanLomWrite channel lom s) := by
  unfold execCanLomWrite
  repeat' first
    | with_reducible assumption
    | with_reducible refine KeepsRes.guarded fun x hx => ?_
    | with_reducible apply State.canLom_keeps
    | with_reducible apply State.ack_keeps

theorem State.canEnable_keeps (s : State) (c : Nat) (en : Bool) (kept : Keeps s₀ s) : Keeps s₀ (State.canEnable s c en) := by
  unfold State.canEnable
  repeat' first
    | with_reducible assumption
    | exact rfl
    | with_reducible apply State.wrB_keeps
    | with_reducible apply State.abdEnd_keeps
    | with_reducible apply State.setCan_keeps
    | with_reducible apply State.wr_keeps
    | (extract_lets +onlyGivenNames x; with_reducible refine Keeps.cut (x := x) ?_ fun _ => ?_; rotate_left; clear_value x; rotate_left; subst x)
    | (extract_lets +onlyGivenNames x; clear_value x)
    | split

theorem execCanEnable_keeps (channel : Fin 16) (en : Bool) (s : State) : KeepsRes s (execCanEnable channel en s) := by
  unfold execCanEnable
  repeat' first
    | with_reducible assumption
    | with_reducible refine KeepsRes.guarded fun x hx => ?_
    | with_reducible apply State.canEnable_keeps
    | with_reducible apply State.ack_keeps

theorem execRemoteQueueEntry_keeps (channel : Fin 16) (frame : CanFrame) (s : State) : KeepsRes s (execRemoteQueueEntry channel frame s) := by
  unfold execRemoteQueueEntry
  repeat' first
    | with_reducible assumption
    | with_reducible refine KeepsRes.guarded fun x hx => ?_
    | with_reducible apply State.toRemote_keeps

end Sys2Proof.Machine
end

