-- ==== Sys2Proof/Laws/KeepsFlags.lean ====
section
/-! SUPPORT. The operations of Machine/Flags.lean keep the canonical forms, the queue and what was sent. -/

namespace Sys2Proof.Machine

variable {s₀ : State}

theorem State.setSlot_keeps (s : State) (n : Nat) (x : TallySlot) (kept : Keeps s₀ s) : Keeps s₀ (State.setSlot s n x) := by
  unfold State.setSlot
  repeat' first
    | with_reducible assumption
    | exact rfl
    | with_reducible refine Keeps.upd ?_ ?_ ?_

theorem State.filterTick_keeps (s : State) (kept : Keeps s₀ s) : Keeps s₀ (State.filterTick s) := by
  unfold State.filterTick
  repeat' first
    | with_reducible assumption
    | exact rfl
    | with_reducible refine Keeps.foldl ?_ fun _ _ _ => ?_
    | with_reducible refine Keeps.foldlFst ?_ fun _ _ _ => ?_
    | (extract_lets +onlyGivenNames x; clear_value x)
    | split
    | with_reducible refine Keeps.upd ?_ ?_ ?_

theorem State.setNormal_keeps (s : State) (n : Nat) (v : Bool) (kept : Keeps s₀ s) : Keeps s₀ (State.setNormal s n v) := by
  unfold State.setNormal
  repeat' first
    | with_reducible assumption
    | exact rfl
    | with_reducible apply State.wrBit_keeps
    | (extract_lets +onlyGivenNames x; clear_value x)
    | with_reducible refine Keeps.upd ?_ ?_ ?_

end Sys2Proof.Machine
end

