-- ==== Sys2Proof/Laws/KeepsSawyer.lean ====
section
/-! SUPPORT. The operations of Machine/Sawyer.lean keep the canonical forms, the queue and what was sent. -/

namespace Sys2Proof.Machine

variable {s₀ : State}

theorem State.setSaw_keeps (s : State) (n : Nat) (x : SawState) (kept : Keeps s₀ s) : Keeps s₀ (State.setSaw s n x) := by
  unfold State.setSaw
  repeat' first
    | with_reducible assumption
    | exact rfl
    | with_reducible refine Keeps.upd ?_ ?_ ?_

theorem State.toSaw_keeps (s : State) (n st : Nat) (kept : Keeps s₀ s) : Keeps s₀ (State.toSaw s n st) := by
  unfold State.toSaw
  repeat' first
    | with_reducible assumption
    | with_reducible apply State.wr_keeps

theorem State.putPin_keeps (s : State) (n k : Nat) (v : Bool) (kept : Keeps s₀ s) : Keeps s₀ (State.putPin s n k v) := by
  unfold State.putPin
  repeat' first
    | with_reducible assumption
    | exact rfl
    | with_reducible apply State.setSaw_keeps
    | with_reducible apply State.setNormal_keeps
    | (extract_lets +onlyGivenNames x; with_reducible refine Keeps.cut (x := x) ?_ fun _ => ?_; rotate_left; clear_value x; rotate_left; subst x)
    | (extract_lets +onlyGivenNames x; clear_value x)
    | split

theorem State.putDir_keeps (s : State) (n k : Nat) (v : Bool) (kept : Keeps s₀ s) : Keeps s₀ (State.putDir s n k v) := by
  unfold State.putDir
  repeat' first
    | with_reducible assumption
    | with_reducible apply State.wrBit_keeps
    | (extract_lets +onlyGivenNames x; clear_value x)
    | split

theorem State.putPins_keeps (s : State) (n : Nat) (dirs : Bool) (count v : Nat) (kept : Keeps s₀ s) : Keeps s₀ (State.putPins s n dirs count v) := by
  unfold State.putPins
  repeat' first
    | with_reducible assumption
    | with_reducible apply State.putDir_keeps
    | with_reducible apply State.putPin_keeps
    | with_reducible refine Keeps.foldl ?_ fun _ _ _ => ?_
    | (extract_lets +onlyGivenNames x; clear_value x)
    | split

theorem State.sideEffect_keeps (s : State) (n w : Nat) (kept : Keeps s₀ s) : Keeps s₀ (State.sideEffect s n w) := by
  unfold State.sideEffect
  repeat' first
    | with_reducible assumption
    | exact rfl
    | with_reducible apply State.putPin_keeps
    | with_reducible refine Keeps.foldl ?_ fun _ _ _ => ?_
    | (extract_lets +onlyGivenNames x; clear_value x)
    | split

theorem State.seePins_keeps (s : State) (n pads : Nat) (kept : Keeps s₀ s) : Keeps s₀ (State.seePins s n pads) := by
  unfold State.seePins
  repeat' first
    | with_reducible assumption
    | exact rfl
    | with_reducible apply State.wr_keeps
    | with_reducible apply State.setSaw_keeps
    | (extract_lets +onlyGivenNames x; with_reducible refine Keeps.cut (x := x) ?_ fun _ => ?_; rotate_left; clear_value x; rotate_left; subst x)
    | (extract_lets +onlyGivenNames x; clear_value x)
    | split

theorem State.sf_keeps (s : State) (n : Nat) (b : Bool) (kept : Keeps s₀ s) : Keeps s₀ (State.sf s n b) := by
  unfold State.sf
  repeat' first
    | with_reducible assumption
    | with_reducible apply State.wrB_keeps

theorem State.clearFlag_keeps (s : State) (g k : Nat) (kept : Keeps s₀ s) : Keeps s₀ (State.clearFlag s g k) := by
  unfold State.clearFlag
  repeat' first
    | with_reducible assumption
    | with_reducible apply State.wrBit_keeps
    | split

theorem State.waitDone_keeps (s : State) (n src : Nat) (clr : Bool) (index : Nat) (kept : Keeps s₀ s) : Keeps s₀ (State.waitDone s n src clr index) := by
  unfold State.waitDone
  repeat' first
    | with_reducible assumption
    | exact rfl
    | with_reducible apply State.clearFlag_keeps
    | with_reducible apply State.wr_keeps
    | split

theorem State.doShi_keeps (s : State) (n src k : Nat) (kept : Keeps s₀ s) : Keeps s₀ (State.doShi s n src k) := by
  unfold State.doShi
  repeat' first
    | with_reducible assumption
    | exact rfl
    | with_reducible apply State.wr_keeps

theorem State.doSho_keeps (s : State) (n dst k : Nat) (kept : Keeps s₀ s) : Keeps s₀ (State.doSho s n dst k).1 := by
  unfold State.doSho
  repeat' first
    | with_reducible assumption
    | exact rfl
    | with_reducible apply State.wr_keeps
    | with_reducible apply State.putPins_keeps
    | (extract_lets +onlyGivenNames x; with_reducible refine Keeps.cut (x := x) ?_ fun _ => ?_; rotate_left; clear_value x; rotate_left; subst x)
    | (extract_lets +onlyGivenNames x; clear_value x)
    | split

theorem State.doSend_keeps (s : State) (n : Nat) (whenfull : Bool) (kept : Keeps s₀ s) : Keeps s₀ (State.doSend s n whenfull) := by
  unfold State.doSend
  repeat' first
    | with_reducible assumption
    | exact rfl
    | with_reducible apply State.wr_keeps
    | with_reducible apply State.setSaw_keeps
    | with_reducible apply State.mark_keeps
    | with_reducible apply State.sf_keeps
    | with_reducible apply State.bump_keeps
    | with_reducible apply State.raise_keeps
    | (extract_lets +onlyGivenNames x; with_reducible refine Keeps.cut (x := x) ?_ fun _ => ?_; rotate_left; clear_value x; rotate_left; subst x)
    | (extract_lets +onlyGivenNames x; clear_value x)
    | split

theorem State.doTake_keeps (s : State) (n : Nat) (whenspent : Bool) (kept : Keeps s₀ s) : Keeps s₀ (State.doTake s n whenspent) := by
  unfold State.doTake
  repeat' first
    | with_reducible assumption
    | exact rfl
    | with_reducible apply State.wr_keeps
    | with_reducible apply State.sf_keeps
    | with_reducible apply State.setSaw_keeps
    | with_reducible apply State.mark_keeps
    | (extract_lets +onlyGivenNames x; have _ : State → _ := x; subst x)
    | (extract_lets +onlyGivenNames x; clear_value x)
    | split

theorem State.doCopy_keeps (s : State) (n dst src x : Nat) (kept : Keeps s₀ s) : Keeps s₀ (State.doCopy s n dst src x).1 := by
  unfold State.doCopy
  repeat' first
    | with_reducible assumption
    | exact rfl
    | with_reducible apply State.wr_keeps
    | with_reducible apply State.putPins_keeps
    | (extract_lets +onlyGivenNames x; clear_value x)
    | split

theorem State.doLdi_keeps (s : State) (n dst imm : Nat) (kept : Keeps s₀ s) : Keeps s₀ (State.doLdi s n dst imm) := by
  unfold State.doLdi
  repeat' first
    | with_reducible assumption
    | exact rfl
    | with_reducible apply State.wr_keeps
    | split

theorem State.addInto_keeps (s : State) (n : Nat) (f : Fld) (a b : Nat) (kept : Keeps s₀ s) : Keeps s₀ (State.addInto s n f a b) := by
  unfold State.addInto
  repeat' first
    | with_reducible assumption
    | with_reducible apply State.wr_keeps
    | with_reducible apply State.sf_keeps

theorem State.doCalc_keeps (s : State) (n fn imm : Nat) (kept : Keeps s₀ s) : Keeps s₀ (State.doCalc s n fn imm) := by
  unfold State.doCalc
  repeat' first
    | with_reducible assumption
    | exact rfl
    | with_reducible apply State.addInto_keeps
    | with_reducible apply State.wr_keeps
    | with_reducible apply State.sf_keeps
    | (extract_lets +onlyGivenNames x; clear_value x)
    | split

theorem State.doPost_keeps (s : State) (n : Nat) (abs : Bool) (kept : Keeps s₀ s) : Keeps s₀ (State.doPost s n abs) := by
  unfold State.doPost
  repeat' first
    | with_reducible assumption
    | exact rfl
    | with_reducible apply State.draw_keeps
    | with_reducible apply State.wr64_keeps
    | with_reducible apply State.setSaw_keeps
    | (extract_lets +onlyGivenNames x; clear_value x)
    | split

theorem State.doFlag_keeps (s : State) (n fn k : Nat) (kept : Keeps s₀ s) : Keeps s₀ (State.doFlag s n fn k) := by
  unfold State.doFlag
  repeat' first
    | with_reducible assumption
    | exact rfl
    | with_reducible apply State.wrBit_keeps
    | with_reducible apply State.mark_keeps
    | with_reducible apply State.clearFlag_keeps
    | with_reducible apply State.raise_keeps
    | split

theorem State.sawAct_keeps (s : State) (n : Nat) (op : SawOp) (kept : Keeps s₀ s) : Keeps s₀ (State.sawAct s n op).1 := by
  unfold State.sawAct
  repeat' first
    | with_reducible assumption
    | exact rfl
    | with_reducible refine Keeps.fst (by with_reducible assumption) ?_
    | with_reducible apply State.wr_keeps
    | with_reducible apply State.waitDone_keeps
    | with_reducible apply State.doShi_keeps
    | with_reducible apply State.doSho_keeps
    | with_reducible apply State.send_keeps
    | with_reducible apply State.doSend_keeps
    | with_reducible apply State.doTake_keeps
    | with_reducible apply State.doCopy_keeps
    | with_reducible apply State.doLdi_keeps
    | with_reducible apply State.putPins_keeps
    | with_reducible apply State.doCalc_keeps
    | with_reducible apply State.doPost_keeps
    | with_reducible apply State.doFlag_keeps
    | with_reducible apply State.setSaw_keeps
    | (extract_lets +onlyGivenNames x; clear_value x)
    | split

theorem State.sawAdvance_keeps (s : State) (n : Nat) (kept : Keeps s₀ s) : Keeps s₀ (State.sawAdvance s n) := by
  unfold State.sawAdvance
  repeat' first
    | with_reducible assumption
    | with_reducible apply State.wr_keeps

theorem State.sawHalts_keeps (s : State) (n : Nat) (op : SawOp) (kept : Keeps s₀ s) : Keeps s₀ (State.sawHalts s n op) := by
  unfold State.sawHalts
  repeat' first
    | with_reducible assumption
    | with_reducible apply State.toSaw_keeps
    | with_reducible apply State.raise_keeps
    | split

theorem State.sawFault_keeps (s : State) (n code : Nat) (kept : Keeps s₀ s) : Keeps s₀ (State.sawFault s n code) := by
  unfold State.sawFault
  repeat' first
    | with_reducible assumption
    | with_reducible apply State.wr_keeps
    | with_reducible apply State.toSaw_keeps
    | with_reducible apply State.raise_keeps
    | with_reducible apply State.boomState_keeps

theorem State.sawDelays_keeps (s : State) (n w : Nat) (kept : Keeps s₀ s) : Keeps s₀ (State.sawDelays s n w) := by
  unfold State.sawDelays
  repeat' first
    | with_reducible assumption
    | exact rfl
    | with_reducible apply State.setSaw_keeps

theorem State.sawDelayTick_keeps (s : State) (n : Nat) (kept : Keeps s₀ s) : Keeps s₀ (State.sawDelayTick s n) := by
  unfold State.sawDelayTick
  repeat' first
    | with_reducible assumption
    | exact rfl
    | with_reducible apply State.setSaw_keeps
    | with_reducible apply State.toSaw_keeps
    | (extract_lets +onlyGivenNames x; with_reducible refine Keeps.cut (x := x) ?_ fun _ => ?_; rotate_left; clear_value x; rotate_left; subst x)
    | (extract_lets +onlyGivenNames x; clear_value x)
    | split

theorem State.sawIssue_keeps (s : State) (n w : Nat) (op : SawOp) (kept : Keeps s₀ s) : Keeps s₀ (State.sawIssue s n w op) := by
  unfold State.sawIssue
  repeat' first
    | with_reducible assumption
    | exact rfl
    | with_reducible refine Keeps.fst (by with_reducible assumption) ?_
    | with_reducible apply State.setSaw_keeps
    | with_reducible apply State.sideEffect_keeps
    | with_reducible apply State.sawFault_keeps
    | with_reducible apply State.toSaw_keeps
    | with_reducible apply State.sawAct_keeps
    | with_reducible apply State.sawAdvance_keeps
    | with_reducible apply State.sawDelays_keeps
    | with_reducible apply State.sawHalts_keeps
    | (extract_lets +onlyGivenNames x; with_reducible refine Keeps.cut (x := x) ?_ fun _ => ?_; rotate_left; clear_value x; rotate_left; subst x)
    | (extract_lets +onlyGivenNames x; clear_value x)
    | split

theorem State.injBad_keeps (s : State) (n : Nat) (kept : Keeps s₀ s) : Keeps s₀ (State.injBad s n) := by
  unfold State.injBad
  repeat' first
    | with_reducible assumption
    | with_reducible apply State.raise_keeps

theorem State.sawLatch_keeps (s : State) (n : Nat) (kept : Keeps s₀ s) : Keeps s₀ (State.sawLatch s n) := by
  unfold State.sawLatch
  repeat' first
    | with_reducible assumption
    | exact rfl
    | with_reducible apply State.setSaw_keeps
    | (extract_lets +onlyGivenNames x; clear_value x)
    | split

theorem State.sawInjected_keeps (s : State) (n w : Nat) (op : SawOp) (kept : Keeps s₀ s) : Keeps s₀ (State.sawInjected s n w op) := by
  unfold State.sawInjected
  repeat' first
    | with_reducible assumption
    | exact rfl
    | with_reducible refine Keeps.fst (by with_reducible assumption) ?_
    | with_reducible apply State.wr_keeps
    | with_reducible apply State.sawLatch_keeps
    | with_reducible apply State.sawDelayTick_keeps
    | with_reducible apply State.injBad_keeps
    | with_reducible apply State.sideEffect_keeps
    | with_reducible apply State.sawAct_keeps
    | with_reducible apply State.toSaw_keeps
    | with_reducible apply State.sawDelays_keeps
    | with_reducible apply State.sawHalts_keeps
    | (extract_lets +onlyGivenNames x; with_reducible refine Keeps.cut (x := x) ?_ fun _ => ?_; rotate_left; clear_value x; rotate_left; subst x)
    | (extract_lets +onlyGivenNames x; clear_value x)
    | split

theorem State.sawPass_keeps (s : State) (n pads : Nat) (kept : Keeps s₀ s) : Keeps s₀ (State.sawPass s n pads) := by
  unfold State.sawPass
  repeat' first
    | with_reducible assumption
    | with_reducible apply State.seePins_keeps
    | with_reducible apply State.sawDelayTick_keeps
    | split

theorem State.sawTick_keeps (s : State) (n pads : Nat) (is : SawOp → Bool) (kept : Keeps s₀ s) : Keeps s₀ (State.sawTick s n pads is) := by
  unfold State.sawTick
  repeat' first
    | with_reducible assumption
    | exact rfl
    | with_reducible apply State.seePins_keeps
    | with_reducible apply State.sawInjected_keeps
    | with_reducible apply State.sawIssue_keeps
    | with_reducible apply State.sawPass_keeps
    | (extract_lets +onlyGivenNames x; with_reducible refine Keeps.cut (x := x) ?_ fun _ => ?_; rotate_left; clear_value x; rotate_left; subst x)
    | split

theorem execBr_keeps (sawyer : Fin 128) (pads : BitVec 16) (s : State) : KeepsRes s (execBr sawyer pads s) := by
  unfold execBr
  repeat' first
    | with_reducible assumption
    | with_reducible refine KeepsRes.guarded fun x hx => ?_
    | with_reducible apply State.sawTick_keeps

theorem execLoop_keeps (sawyer : Fin 128) (pads : BitVec 16) (s : State) : KeepsRes s (execLoop sawyer pads s) := by
  unfold execLoop
  repeat' first
    | with_reducible assumption
    | with_reducible refine KeepsRes.guarded fun x hx => ?_
    | with_reducible apply State.sawTick_keeps

theorem execWait_keeps (sawyer : Fin 128) (pads : BitVec 16) (s : State) : KeepsRes s (execWait sawyer pads s) := by
  unfold execWait
  repeat' first
    | with_reducible assumption
    | with_reducible refine KeepsRes.guarded fun x hx => ?_
    | with_reducible apply State.sawTick_keeps

theorem execShi_keeps (sawyer : Fin 128) (pads : BitVec 16) (s : State) : KeepsRes s (execShi sawyer pads s) := by
  unfold execShi
  repeat' first
    | with_reducible assumption
    | with_reducible refine KeepsRes.guarded fun x hx => ?_
    | with_reducible apply State.sawTick_keeps

theorem execSho_keeps (sawyer : Fin 128) (pads : BitVec 16) (s : State) : KeepsRes s (execSho sawyer pads s) := by
  unfold execSho
  repeat' first
    | with_reducible assumption
    | with_reducible refine KeepsRes.guarded fun x hx => ?_
    | with_reducible apply State.sawTick_keeps

theorem execSend_keeps (sawyer : Fin 128) (pads : BitVec 16) (s : State) : KeepsRes s (execSend sawyer pads s) := by
  unfold execSend
  repeat' first
    | with_reducible assumption
    | with_reducible refine KeepsRes.guarded fun x hx => ?_
    | with_reducible apply State.sawTick_keeps

theorem execTake_keeps (sawyer : Fin 128) (pads : BitVec 16) (s : State) : KeepsRes s (execTake sawyer pads s) := by
  unfold execTake
  repeat' first
    | with_reducible assumption
    | with_reducible refine KeepsRes.guarded fun x hx => ?_
    | with_reducible apply State.sawTick_keeps

theorem execCopy_keeps (sawyer : Fin 128) (pads : BitVec 16) (s : State) : KeepsRes s (execCopy sawyer pads s) := by
  unfold execCopy
  repeat' first
    | with_reducible assumption
    | with_reducible refine KeepsRes.guarded fun x hx => ?_
    | with_reducible apply State.sawTick_keeps

theorem execLdi_keeps (sawyer : Fin 128) (pads : BitVec 16) (s : State) : KeepsRes s (execLdi sawyer pads s) := by
  unfold execLdi
  repeat' first
    | with_reducible assumption
    | with_reducible refine KeepsRes.guarded fun x hx => ?_
    | with_reducible apply State.sawTick_keeps

theorem execPinset_keeps (sawyer : Fin 128) (pads : BitVec 16) (s : State) : KeepsRes s (execPinset sawyer pads s) := by
  unfold execPinset
  repeat' first
    | with_reducible assumption
    | with_reducible refine KeepsRes.guarded fun x hx => ?_
    | with_reducible apply State.sawTick_keeps

theorem execCalc_keeps (sawyer : Fin 128) (pads : BitVec 16) (s : State) : KeepsRes s (execCalc sawyer pads s) := by
  unfold execCalc
  repeat' first
    | with_reducible assumption
    | with_reducible refine KeepsRes.guarded fun x hx => ?_
    | with_reducible apply State.sawTick_keeps

theorem execPost_keeps (sawyer : Fin 128) (pads : BitVec 16) (s : State) : KeepsRes s (execPost sawyer pads s) := by
  unfold execPost
  repeat' first
    | with_reducible assumption
    | with_reducible refine KeepsRes.guarded fun x hx => ?_
    | with_reducible apply State.sawTick_keeps

theorem execFlag_keeps (sawyer : Fin 128) (pads : BitVec 16) (s : State) : KeepsRes s (execFlag sawyer pads s) := by
  unfold execFlag
  repeat' first
    | with_reducible assumption
    | with_reducible refine KeepsRes.guarded fun x hx => ?_
    | with_reducible apply State.sawTick_keeps

theorem execStamp_keeps (sawyer : Fin 128) (pads : BitVec 16) (s : State) : KeepsRes s (execStamp sawyer pads s) := by
  unfold execStamp
  repeat' first
    | with_reducible assumption
    | with_reducible refine KeepsRes.guarded fun x hx => ?_
    | with_reducible apply State.sawTick_keeps

theorem execNop_keeps (sawyer : Fin 128) (pads : BitVec 16) (s : State) : KeepsRes s (execNop sawyer pads s) := by
  unfold execNop
  repeat' first
    | with_reducible assumption
    | with_reducible refine KeepsRes.guarded fun x hx => ?_
    | with_reducible apply State.sawTick_keeps

theorem execHalt_keeps (sawyer : Fin 128) (pads : BitVec 16) (s : State) : KeepsRes s (execHalt sawyer pads s) := by
  unfold execHalt
  repeat' first
    | with_reducible assumption
    | with_reducible refine KeepsRes.guarded fun x hx => ?_
    | with_reducible apply State.sawTick_keeps

theorem execInvalidInstruction_keeps (sawyer : Fin 128) (pads : BitVec 16) (s : State) : KeepsRes s (execInvalidInstruction sawyer pads s) := by
  unfold execInvalidInstruction
  repeat' first
    | with_reducible assumption
    | exact rfl
    | with_reducible refine KeepsRes.guarded fun x hx => ?_
    | with_reducible apply State.seePins_keeps
    | with_reducible apply State.wr_keeps
    | with_reducible apply State.injBad_keeps
    | with_reducible apply State.capture_keeps
    | with_reducible apply State.sawFault_keeps
    | with_reducible apply State.sawIssue_keeps
    | with_reducible apply State.sawPass_keeps
    | (extract_lets +onlyGivenNames x; with_reducible refine Keeps.cut (x := x) ?_ fun _ => ?_; rotate_left; clear_value x; rotate_left; subst x)
    | (extract_lets +onlyGivenNames x; clear_value x)
    | split

theorem execStallRelease_keeps (sawyer : Fin 128) (pads : BitVec 16) (s : State) : KeepsRes s (execStallRelease sawyer pads s) := by
  unfold execStallRelease
  repeat' first
    | with_reducible assumption
    | exact rfl
    | with_reducible refine Keeps.fst (by with_reducible assumption) ?_
    | with_reducible refine KeepsRes.guarded fun x hx => ?_
    | with_reducible apply State.seePins_keeps
    | with_reducible apply State.sawAct_keeps
    | with_reducible apply State.sawAdvance_keeps
    | with_reducible apply State.sawDelays_keeps
    | with_reducible apply State.toSaw_keeps
    | (extract_lets +onlyGivenNames x; with_reducible refine Keeps.cut (x := x) ?_ fun _ => ?_; rotate_left; clear_value x; rotate_left; subst x)
    | (extract_lets +onlyGivenNames x; clear_value x)
    | split

theorem State.sawTrigger_keeps (s : State) (n : Nat) (kept : Keeps s₀ s) : Keeps s₀ (State.sawTrigger s n) := by
  unfold State.sawTrigger
  repeat' first
    | with_reducible assumption
    | with_reducible apply State.bump_keeps
    | with_reducible apply State.raise_keeps
    | split

theorem State.sawEnable_keeps (s : State) (n : Nat) (en : Bool) (kept : Keeps s₀ s) : Keeps s₀ (State.sawEnable s n en) := by
  unfold State.sawEnable
  repeat' first
    | with_reducible assumption
    | with_reducible apply State.wrB_keeps
    | with_reducible apply State.toSaw_keeps
    | (extract_lets +onlyGivenNames x; with_reducible refine Keeps.cut (x := x) ?_ fun _ => ?_; rotate_left; clear_value x; rotate_left; subst x)
    | (extract_lets +onlyGivenNames x; clear_value x)
    | split

theorem execSawyerEnable_keeps (sawyer : Fin 128) (en : Bool) (s : State) : KeepsRes s (execSawyerEnable sawyer en s) := by
  unfold execSawyerEnable
  repeat' first
    | with_reducible assumption
    | with_reducible refine KeepsRes.guarded fun x hx => ?_
    | with_reducible apply State.sawEnable_keeps
    | with_reducible apply State.ack_keeps

theorem State.sawInject_keeps (s : State) (init : Initiator) (n w : Nat) (kept : Keeps s₀ s) : Keeps s₀ (State.sawInject s init n w) := by
  unfold State.sawInject
  repeat' first
    | with_reducible assumption
    | exact rfl
    | with_reducible apply State.capture_keeps
    | with_reducible apply State.ack_keeps
    | with_reducible apply State.wr_keeps
    | with_reducible apply State.raise_keeps
    | with_reducible apply State.setSaw_keeps
    | (extract_lets +onlyGivenNames x; with_reducible refine Keeps.cut (x := x) ?_ fun _ => ?_; rotate_left; clear_value x; rotate_left; subst x)
    | (extract_lets +onlyGivenNames x; clear_value x)
    | split

theorem execSawyerInject_keeps (init : Initiator) (sawyer : Fin 128) (word : Word) (s : State) : KeepsRes s (execSawyerInject init sawyer word s) := by
  unfold execSawyerInject
  repeat' first
    | with_reducible assumption
    | with_reducible refine KeepsRes.guarded fun x hx => ?_
    | with_reducible apply State.sawInject_keeps

theorem State.sawTxf_keeps (s : State) (n w : Nat) (kept : Keeps s₀ s) : Keeps s₀ (State.sawTxf s n w) := by
  unfold State.sawTxf
  repeat' first
    | with_reducible assumption
    | exact rfl
    | with_reducible apply State.ack_keeps
    | with_reducible apply State.setSaw_keeps
    | with_reducible apply State.bump_keeps
    | with_reducible apply State.raise_keeps
    | (extract_lets +onlyGivenNames x; clear_value x)
    | split

theorem execSawyerTxfWrite_keeps (sawyer : Fin 128) (word : Word) (s : State) : KeepsRes s (execSawyerTxfWrite sawyer word s) := by
  unfold execSawyerTxfWrite
  repeat' first
    | with_reducible assumption
    | with_reducible refine KeepsRes.guarded fun x hx => ?_
    | with_reducible apply State.sawTxf_keeps

theorem State.sawRxf_keeps (s : State) (n : Nat) (kept : Keeps s₀ s) : Keeps s₀ (State.sawRxf s n).1 := by
  unfold State.sawRxf
  repeat' first
    | with_reducible assumption
    | exact rfl
    | with_reducible apply State.setSaw_keeps
    | with_reducible apply State.bump_keeps
    | (extract_lets +onlyGivenNames x; clear_value x)
    | split

theorem execSawyerRxfRead_keeps (sawyer : Fin 128) (s : State) : KeepsRes s (execSawyerRxfRead sawyer s) := by
  unfold execSawyerRxfRead
  repeat' first
    | with_reducible assumption
    | with_reducible refine Keeps.fst (by with_reducible assumption) ?_
    | with_reducible refine KeepsRes.guarded fun x hx => ?_
    | with_reducible apply State.sawRxf_keeps
    | with_reducible apply State.give_keeps

theorem State.sawDrop_keeps (s : State) (n w : Nat) (kept : Keeps s₀ s) : Keeps s₀ (State.sawDrop s n w) := by
  unfold State.sawDrop
  repeat' first
    | with_reducible assumption
    | with_reducible apply State.wr_keeps
    | split

theorem execSawyerDropWrite_keeps (sawyer : Fin 128) (word : Word) (s : State) : KeepsRes s (execSawyerDropWrite sawyer word s) := by
  unfold execSawyerDropWrite
  repeat' first
    | with_reducible assumption
    | with_reducible refine KeepsRes.guarded fun x hx => ?_
    | with_reducible apply State.sawDrop_keeps
    | with_reducible apply State.ack_keeps

theorem State.groveFlags_keeps (s : State) (g v : Nat) (kept : Keeps s₀ s) : Keeps s₀ (State.groveFlags s g v) := by
  unfold State.groveFlags
  repeat' first
    | with_reducible assumption
    | with_reducible apply State.wr_keeps

theorem execGroveFlagsWrite_keeps (grove : Fin 16) (flags : BitVec 8) (s : State) : KeepsRes s (execGroveFlagsWrite grove flags s) := by
  unfold execGroveFlagsWrite
  repeat' first
    | with_reducible assumption
    | with_reducible refine KeepsRes.guarded fun x hx => ?_
    | with_reducible apply State.groveFlags_keeps
    | with_reducible apply State.ack_keeps

theorem State.sawReload_keeps (s : State) (init : Initiator) (g mask : Nat) (clean : Bool) (kept : Keeps s₀ s) : Keeps s₀ (State.sawReload s init g mask clean) := by
  unfold State.sawReload
  repeat' first
    | with_reducible assumption
    | exact rfl
    | with_reducible apply State.wr_keeps
    | with_reducible apply State.wrB_keeps
    | with_reducible apply State.capture_keeps
    | with_reducible apply State.ack_keeps
    | with_reducible apply State.resStart_keeps
    | with_reducible apply State.resDone_keeps
    | (extract_lets +onlyGivenNames x; with_reducible refine Keeps.cut (x := x) ?_ fun _ => ?_; rotate_left; clear_value x; rotate_left; subst x)
    | split
    | intro _
    | with_reducible refine Keeps.upd ?_ ?_ ?_

theorem execReload_keeps (init : Initiator) (grove : Fin 16) (mask : BitVec 8) (clean : Bool) (s : State) : KeepsRes s (execReload init grove mask clean s) := by
  unfold execReload
  repeat' first
    | with_reducible assumption
    | with_reducible refine KeepsRes.guarded fun x hx => ?_
    | with_reducible apply State.sawReload_keeps

theorem State.sawLoad_keeps (s : State) (n : Nat) (clean : Bool) (kept : Keeps s₀ s) : Keeps s₀ (State.sawLoad s n clean) := by
  unfold State.sawLoad
  repeat' first
    | with_reducible assumption
    | exact rfl
    | with_reducible apply State.setSaw_keeps
    | with_reducible apply State.wr_keeps
    | with_reducible apply State.toSaw_keeps
    | with_reducible apply State.draw_keeps
    | with_reducible apply State.boom_keeps
    | with_reducible apply State.raise_keeps
    | (extract_lets +onlyGivenNames x; with_reducible refine Keeps.cut (x := x) ?_ fun _ => ?_; rotate_left; clear_value x; rotate_left; subst x)
    | (extract_lets +onlyGivenNames x; clear_value x)
    | split

theorem execReloadComplete_keeps (grove : Fin 16) (s : State) : KeepsRes s (execReloadComplete grove s) := by
  unfold execReloadComplete
  repeat' first
    | with_reducible assumption
    | exact rfl
    | with_reducible refine KeepsRes.guarded fun x hx => ?_
    | with_reducible apply State.sawLoad_keeps
    | with_reducible apply State.resDone_keeps
    | with_reducible refine Keeps.foldl ?_ fun _ _ _ => ?_
    | (extract_lets +onlyGivenNames x; with_reducible refine Keeps.cut (x := x) ?_ fun _ => ?_; rotate_left; clear_value x; rotate_left; subst x)
    | (extract_lets +onlyGivenNames x; clear_value x)
    | split
    | intro _
    | with_reducible refine Keeps.upd ?_ ?_ ?_

theorem State.groveWrite_keeps (s : State) (init : Initiator) (off : Nat) (bs : List Nat) (enabled : Bool) (kept : Keeps s₀ s) : Keeps s₀ (State.groveWrite s init off bs enabled) := by
  unfold State.groveWrite
  repeat' first
    | with_reducible assumption
    | with_reducible apply State.store_keeps
    | with_reducible apply State.ack_keeps
    | with_reducible apply State.refuse_keeps
    | split

theorem State.groveRead_keeps (s : State) (init : Initiator) (off len : Nat) (enabled : Bool) (kept : Keeps s₀ s) : Keeps s₀ (State.groveRead s init off len enabled) := by
  unfold State.groveRead
  repeat' first
    | with_reducible assumption
    | with_reducible apply State.give_keeps
    | with_reducible apply State.refuse_keeps
    | split

end Sys2Proof.Machine
end

