-- ==== Sys2Proof/Laws/KeepsCalendar.lean ====
section
/-! SUPPORT. The operations of Machine/Calendar.lean keep the canonical forms, the queue and what was sent. -/

namespace Sys2Proof.Machine

variable {s₀ : State}

theorem State.setEnt_keeps (s : State) (i : Nat) (e : CalEntry) (kept : Keeps s₀ s) : Keeps s₀ (State.setEnt s i e) := by
  unfold State.setEnt
  repeat' first
    | with_reducible assumption
    | exact rfl
    | (extract_lets +onlyGivenNames x; clear_value x)
    | with_reducible refine Keeps.upd ?_ ?_ ?_

theorem State.calWrite_keeps (s : State) (init : Initiator) (off : Nat) (bs : List Nat) (enabled : Bool) (kept : Keeps s₀ s) : Keeps s₀ (State.calWrite s init off bs enabled) := by
  unfold State.calWrite
  repeat' first
    | with_reducible assumption
    | with_reducible apply State.refuse_keeps
    | with_reducible apply State.setEnt_keeps
    | with_reducible apply State.ack_keeps
    | (extract_lets +onlyGivenNames x; clear_value x)
    | split

theorem State.calRead_keeps (s : State) (init : Initiator) (off len : Nat) (enabled : Bool) (kept : Keeps s₀ s) : Keeps s₀ (State.calRead s init off len enabled) := by
  unfold State.calRead
  repeat' first
    | with_reducible assumption
    | with_reducible apply State.give_keeps
    | with_reducible apply State.refuse_keeps
    | split

theorem State.calExpire_keeps (s : State) (i : Nat) (e : CalEntry) (kept : Keeps s₀ s) : Keeps s₀ (State.calExpire s i e) := by
  unfold State.calExpire
  repeat' first
    | with_reducible assumption
    | exact rfl
    | with_reducible apply State.setEnt_keeps
    | with_reducible apply State.raise_keeps
    | with_reducible apply State.bump_keeps

theorem State.noPower_keeps (s : State) (kept : Keeps s₀ s) : Keeps s₀ (State.noPower s) := by
  unfold State.noPower
  repeat' first
    | with_reducible assumption
    | with_reducible apply State.raise_keeps
    | with_reducible apply State.bump_keeps

theorem State.calCommit_keeps (s : State) (i : Nat) (e : CalEntry) (kept : Keeps s₀ s) : Keeps s₀ (State.calCommit s i e) := by
  unfold State.calCommit
  repeat' first
    | with_reducible assumption
    | exact rfl
    | with_reducible apply State.setEnt_keeps
    | with_reducible apply State.noPower_keeps
    | with_reducible apply State.boom_keeps
    | with_reducible apply State.calExpire_keeps
    | (extract_lets +onlyGivenNames x; with_reducible refine Keeps.cut (x := x) ?_ fun _ => ?_; rotate_left; clear_value x; rotate_left; subst x)
    | (extract_lets +onlyGivenNames x; clear_value x)
    | split

theorem State.calArm_keeps (s : State) (i : Nat) (e : CalEntry) (kept : Keeps s₀ s) : Keeps s₀ (State.calArm s i e) := by
  unfold State.calArm
  repeat' first
    | with_reducible assumption
    | exact rfl
    | with_reducible apply State.calCommit_keeps
    | with_reducible apply State.setEnt_keeps
    | split

theorem State.doArm_keeps (s : State) (i : Nat) (kept : Keeps s₀ s) : Keeps s₀ (State.doArm s i).1 := by
  unfold State.doArm
  repeat' first
    | with_reducible assumption
    | exact rfl
    | with_reducible apply State.calArm_keeps
    | with_reducible apply State.setEnt_keeps
    | (extract_lets +onlyGivenNames x; clear_value x)
    | split

theorem State.applyEdge_keeps (s : State) (e : CalEntry) (action : Nat) (kept : Keeps s₀ s) : Keeps s₀ (State.applyEdge s e action) := by
  unfold State.applyEdge
  repeat' first
    | with_reducible assumption
    | with_reducible apply State.setNormal_keeps
    | with_reducible apply State.mark_keeps
    | with_reducible apply State.lineCommand_keeps
    | split

theorem State.fallEdge_keeps (s : State) (i : Nat) (action t : Nat) (kept : Keeps s₀ s) : Keeps s₀ (State.fallEdge s i action t) := by
  unfold State.fallEdge
  repeat' first
    | with_reducible assumption
    | with_reducible apply State.setEnt_keeps
    | with_reducible apply State.raise_keeps
    | with_reducible apply State.bump_keeps
    | with_reducible apply State.applyEdge_keeps
    | with_reducible apply State.noPower_keeps
    | (extract_lets +onlyGivenNames x; with_reducible refine Keeps.cut (x := x) ?_ fun _ => ?_; rotate_left; clear_value x; rotate_left; subst x)
    | (extract_lets +onlyGivenNames x; clear_value x)
    | split

theorem State.launch_keeps (s : State) (i : Nat) (kept : Keeps s₀ s) : Keeps s₀ (State.launch s i) := by
  unfold State.launch
  repeat' first
    | with_reducible assumption
    | exact rfl
    | with_reducible apply State.sawTrigger_keeps
    | with_reducible apply State.holdTrigger_keeps
    | with_reducible apply State.setEnt_keeps
    | with_reducible apply State.raise_keeps
    | with_reducible apply State.canRequest_keeps
    | with_reducible apply State.sliceStart_keeps
    | (extract_lets +onlyGivenNames x; clear_value x)
    | split
    | intro _
    | with_reducible refine Keeps.upd ?_ ?_ ?_

theorem State.calFire_keeps (s : State) (i : Nat) (kept : Keeps s₀ s) : Keeps s₀ (State.calFire s i) := by
  unfold State.calFire
  repeat' first
    | with_reducible assumption
    | exact rfl
    | with_reducible apply State.raise_keeps
    | with_reducible apply State.launch_keeps
    | with_reducible apply State.fallEdge_keeps
    | with_reducible apply State.mark_keeps
    | with_reducible apply State.setEnt_keeps
    | (extract_lets +onlyGivenNames x; with_reducible refine Keeps.cut (x := x) ?_ fun _ => ?_; rotate_left; clear_value x; rotate_left; subst x)
    | (extract_lets +onlyGivenNames x; clear_value x)
    | split

theorem State.calTrail_keeps (s : State) (i : Nat) (kept : Keeps s₀ s) : Keeps s₀ (State.calTrail s i) := by
  unfold State.calTrail
  repeat' first
    | with_reducible assumption
    | exact rfl
    | with_reducible apply State.fallEdge_keeps
    | with_reducible apply State.mark_keeps
    | with_reducible apply State.setEnt_keeps

theorem State.calEdge_keeps (s : State) (i : Nat) (kept : Keeps s₀ s) : Keeps s₀ (State.calEdge s i) := by
  unfold State.calEdge
  repeat' first
    | with_reducible assumption
    | with_reducible apply State.calTrail_keeps
    | with_reducible apply State.calFire_keeps
    | split

theorem State.calDue_keeps (s : State) (i : Nat) (kept : Keeps s₀ s) : Keeps s₀ (State.calDue s i) := by
  unfold State.calDue
  repeat' first
    | with_reducible assumption
    | with_reducible apply State.calEdge_keeps
    | with_reducible refine Keeps.foldl ?_ fun _ _ _ => ?_
    | with_reducible refine Keeps.foldlFst ?_ fun _ _ _ => ?_
    | (extract_lets +onlyGivenNames x; clear_value x)
    | split

theorem State.calRetract_keeps (s : State) (i flag : Nat) (kept : Keeps s₀ s) : Keeps s₀ (State.calRetract s i flag) := by
  unfold State.calRetract
  repeat' first
    | with_reducible assumption
    | exact rfl
    | with_reducible apply State.calDue_keeps
    | with_reducible apply State.applyEdge_keeps
    | with_reducible apply State.setEnt_keeps
    | (extract_lets +onlyGivenNames x; with_reducible refine Keeps.cut (x := x) ?_ fun _ => ?_; rotate_left; clear_value x; rotate_left; subst x)
    | (extract_lets +onlyGivenNames x; clear_value x)
    | split

theorem State.retractGroups_keeps (s : State) (mask flag : Nat) (kept : Keeps s₀ s) : Keeps s₀ (State.retractGroups s mask flag) := by
  unfold State.retractGroups
  repeat' first
    | with_reducible assumption
    | with_reducible apply State.calRetract_keeps
    | with_reducible refine Keeps.foldl ?_ fun _ _ _ => ?_
    | split

theorem State.schDo_keeps (s : State) (op i : Nat) (kept : Keeps s₀ s) : Keeps s₀ (State.schDo s op i).1 := by
  unfold State.schDo
  repeat' first
    | with_reducible assumption
    | with_reducible refine Keeps.fst (by with_reducible assumption) ?_
    | with_reducible apply State.doArm_keeps
    | with_reducible apply State.calRetract_keeps
    | split

theorem State.schGo_keeps (s : State) (b op i : Nat) (kept : Keeps s₀ s) : Keeps s₀ (State.schGo s b op i) := by
  unfold State.schGo
  repeat' first
    | with_reducible assumption
    | exact rfl
    | with_reducible refine Keeps.fst (by with_reducible assumption) ?_
    | with_reducible apply State.resStart_keeps
    | with_reducible apply State.schDo_keeps
    | (extract_lets +onlyGivenNames x; with_reducible refine Keeps.cut (x := x) ?_ fun _ => ?_; rotate_left; clear_value x; rotate_left; subst x)
    | (extract_lets +onlyGivenNames x; clear_value x)
    | split
    | with_reducible refine Keeps.upd ?_ ?_ ?_

theorem State.schCmd_keeps (s : State) (init : Initiator) (op i : Nat) (go : Bool) (kept : Keeps s₀ s) : Keeps s₀ (State.schCmd s init op i go) := by
  unfold State.schCmd
  repeat' first
    | with_reducible assumption
    | with_reducible apply State.wr_keeps
    | with_reducible apply State.ack_keeps
    | with_reducible apply State.schGo_keeps
    | (extract_lets +onlyGivenNames x; with_reducible refine Keeps.cut (x := x) ?_ fun _ => ?_; rotate_left; clear_value x; rotate_left; subst x)
    | (extract_lets +onlyGivenNames x; clear_value x)
    | split

theorem execArm_keeps (init : Initiator) (index : Fin 8192) (s : State) : KeepsRes s (execArm init index s) := by
  unfold execArm
  repeat' first
    | with_reducible assumption
    | with_reducible refine KeepsRes.guarded fun x hx => ?_
    | with_reducible apply State.schCmd_keeps

theorem execRetract_keeps (init : Initiator) (index : Fin 8192) (s : State) : KeepsRes s (execRetract init index s) := by
  unfold execRetract
  repeat' first
    | with_reducible assumption
    | with_reducible refine KeepsRes.guarded fun x hx => ?_
    | with_reducible apply State.schCmd_keeps

theorem execSchCmdComplete_keeps (bank : Fin 3) (s : State) : KeepsRes s (execSchCmdComplete bank s) := by
  unfold execSchCmdComplete
  repeat' first
    | with_reducible assumption
    | exact rfl
    | with_reducible refine Keeps.fst (by with_reducible assumption) ?_
    | with_reducible refine KeepsRes.guarded fun x hx => ?_
    | with_reducible apply State.resDone_keeps
    | with_reducible apply State.schDo_keeps
    | (extract_lets +onlyGivenNames x; clear_value x)
    | split
    | intro _
    | with_reducible refine Keeps.upd ?_ ?_ ?_

theorem execRetractGroup_keeps (groups : Word) (s : State) : KeepsRes s (execRetractGroup groups s) := by
  unfold execRetractGroup
  repeat' first
    | with_reducible assumption
    | with_reducible refine KeepsRes.guarded fun x hx => ?_
    | with_reducible apply State.retractGroups_keeps
    | with_reducible apply State.ack_keeps

theorem execEntryCommit_keeps (index : Fin 8192) (s : State) : KeepsRes s (execEntryCommit index s) := by
  unfold execEntryCommit
  repeat' first
    | with_reducible assumption
    | with_reducible refine KeepsRes.guarded fun x hx => ?_
    | with_reducible apply State.calCommit_keeps
    | (extract_lets +onlyGivenNames x; clear_value x)
    | split

theorem execEntryInstant_keeps (index : Fin 8192) (s : State) : KeepsRes s (execEntryInstant index s) := by
  unfold execEntryInstant
  repeat' first
    | with_reducible assumption
    | with_reducible refine KeepsRes.guarded fun x hx => ?_
    | with_reducible apply State.calDue_keeps
    | (extract_lets +onlyGivenNames x; clear_value x)
    | split

theorem execPulseTrailingEdge_keeps (index : Fin 8192) (s : State) : KeepsRes s (execPulseTrailingEdge index s) := by
  unfold execPulseTrailingEdge
  repeat' first
    | with_reducible assumption
    | with_reducible refine KeepsRes.guarded fun x hx => ?_
    | with_reducible apply State.calDue_keeps
    | (extract_lets +onlyGivenNames x; clear_value x)
    | split

theorem execEntryExpiry_keeps (index : Fin 8192) (s : State) : KeepsRes s (execEntryExpiry index s) := by
  unfold execEntryExpiry
  repeat' first
    | with_reducible assumption
    | with_reducible refine KeepsRes.guarded fun x hx => ?_
    | with_reducible apply State.calExpire_keeps
    | (extract_lets +onlyGivenNames x; clear_value x)
    | split

theorem State.calWithdraw_keeps (s : State) (i : Nat) (e : CalEntry) (kept : Keeps s₀ s) : Keeps s₀ (State.calWithdraw s i e) := by
  unfold State.calWithdraw
  repeat' first
    | with_reducible assumption
    | exact rfl
    | with_reducible apply State.setEnt_keeps
    | with_reducible apply State.raise_keeps
    | with_reducible apply State.bump_keeps
    | (extract_lets +onlyGivenNames x; clear_value x)
    | split

theorem State.repredict_keeps (s : State) (i : Nat) (kept : Keeps s₀ s) : Keeps s₀ (State.repredict s i) := by
  unfold State.repredict
  repeat' first
    | with_reducible assumption
    | exact rfl
    | with_reducible apply State.calCommit_keeps
    | with_reducible apply State.calExpire_keeps
    | with_reducible apply State.calArm_keeps
    | with_reducible apply State.bump_keeps
    | with_reducible apply State.calWithdraw_keeps
    | (extract_lets +onlyGivenNames x; clear_value x)
    | split

theorem State.repredictSlot_keeps (s : State) (n : Nat) (waitingOnly : Bool) (kept : Keeps s₀ s) : Keeps s₀ (State.repredictSlot s n waitingOnly) := by
  unfold State.repredictSlot
  repeat' first
    | with_reducible assumption
    | with_reducible apply State.repredict_keeps
    | with_reducible refine Keeps.foldl ?_ fun _ _ _ => ?_
    | (extract_lets +onlyGivenNames x; clear_value x)
    | split

theorem State.calCheck_keeps (s : State) (i : Nat) (fit : Fit) (kept : Keeps s₀ s) : Keeps s₀ (State.calCheck s i fit) := by
  unfold State.calCheck
  repeat' first
    | with_reducible assumption
    | exact rfl
    | with_reducible apply State.setEnt_keeps
    | with_reducible apply State.raise_keeps
    | with_reducible apply State.wr_keeps
    | with_reducible apply State.bump_keeps
    | with_reducible apply State.boom_keeps
    | (extract_lets +onlyGivenNames x; with_reducible refine Keeps.cut (x := x) ?_ fun _ => ?_; rotate_left; clear_value x; rotate_left; subst x)
    | (extract_lets +onlyGivenNames x; clear_value x)
    | split

theorem State.calChecks_keeps (s : State) (n : Nat) (fit : Fit) (sampleTs : Nat) (kept : Keeps s₀ s) : Keeps s₀ (State.calChecks s n fit sampleTs) := by
  unfold State.calChecks
  repeat' first
    | with_reducible assumption
    | with_reducible apply State.calCheck_keeps
    | with_reducible refine Keeps.foldl ?_ fun _ _ _ => ?_
    | split

theorem State.calAbandon_keeps (s : State) (n : Nat) (kept : Keeps s₀ s) : Keeps s₀ (State.calAbandon s n) := by
  unfold State.calAbandon
  repeat' first
    | with_reducible assumption
    | exact rfl
    | with_reducible apply State.setEnt_keeps
    | with_reducible refine Keeps.foldl ?_ fun _ _ _ => ?_
    | (extract_lets +onlyGivenNames x; clear_value x)
    | split

theorem State.calStepEntry_keeps (s : State) (i : Nat) (kept : Keeps s₀ s) : Keeps s₀ (State.calStepEntry s i) := by
  unfold State.calStepEntry
  repeat' first
    | with_reducible assumption
    | exact rfl
    | with_reducible apply State.setEnt_keeps
    | with_reducible apply State.calArm_keeps
    | with_reducible apply State.calCommit_keeps
    | with_reducible apply State.calExpire_keeps
    | (extract_lets +onlyGivenNames x; clear_value x)
    | split

theorem State.calStep_keeps (s : State) (kept : Keeps s₀ s) : Keeps s₀ (State.calStep s) := by
  unfold State.calStep
  repeat' first
    | with_reducible assumption
    | with_reducible apply State.calStepEntry_keeps
    | with_reducible apply State.raise_keeps
    | with_reducible refine Keeps.foldl ?_ fun _ _ _ => ?_
    | (extract_lets +onlyGivenNames x; clear_value x)
    | split

theorem State.defCommitDue_keeps (s : State) (kept : Keeps s₀ s) : Keeps s₀ (State.defCommitDue s) := by
  unfold State.defCommitDue
  repeat' first
    | with_reducible assumption
    | with_reducible apply State.calCommit_keeps
    | with_reducible refine Keeps.foldl ?_ fun _ _ _ => ?_
    | (extract_lets +onlyGivenNames x; clear_value x)
    | split

theorem State.defCommitChanged_keeps (s : State) (kept : Keeps s₀ s) : Keeps s₀ (State.defCommitChanged s) := by
  unfold State.defCommitChanged
  repeat' first
    | with_reducible assumption
    | with_reducible apply State.calCommit_keeps
    | with_reducible refine Keeps.foldl ?_ fun _ _ _ => ?_
    | (extract_lets +onlyGivenNames x; clear_value x)
    | split

theorem execLaunchWindowOpen_keeps (index : Fin 8192) (s : State) : KeepsRes s (execLaunchWindowOpen index s) := by
  unfold execLaunchWindowOpen
  repeat' first
    | with_reducible assumption
    | exact rfl
    | with_reducible refine KeepsRes.guarded fun x hx => ?_
    | (extract_lets +onlyGivenNames x; clear_value x)
    | split
    | intro _
    | with_reducible refine Keeps.upd ?_ ?_ ?_

theorem State.noteForce_keeps (before s : State) (kept : Keeps s₀ s) : Keeps s₀ (State.noteForce before s) := by
  unfold State.noteForce
  repeat' first
    | with_reducible assumption
    | exact rfl
    | with_reducible apply State.setLine_keeps
    | with_reducible refine Keeps.foldl ?_ fun _ _ _ => ?_
    | (extract_lets +onlyGivenNames x; clear_value x)
    | split

theorem execSluiceEventRise_keeps (event : Fin 32) (s : State) : KeepsRes s (execSluiceEventRise event s) := by
  unfold execSluiceEventRise
  repeat' first
    | with_reducible assumption
    | exact rfl
    | with_reducible refine KeepsRes.guarded fun x hx => ?_
    | with_reducible apply State.noteForce_keeps
    | with_reducible apply State.retractGroups_keeps
    | with_reducible apply State.raise_keeps
    | with_reducible apply State.raiseBit_keeps
    | (extract_lets +onlyGivenNames x; with_reducible refine Keeps.cut (x := x) ?_ fun _ => ?_; rotate_left; clear_value x; rotate_left; subst x)
    | (extract_lets +onlyGivenNames x; clear_value x)
    | split
    | intro _
    | with_reducible refine Keeps.upd ?_ ?_ ?_

theorem execSluiceEventFall_keeps (event : Fin 32) (s : State) : KeepsRes s (execSluiceEventFall event s) := by
  unfold execSluiceEventFall
  repeat' first
    | with_reducible assumption
    | exact rfl
    | with_reducible refine KeepsRes.guarded fun x hx => ?_
    | (extract_lets +onlyGivenNames x; clear_value x)
    | split
    | intro _
    | with_reducible refine Keeps.upd ?_ ?_ ?_

theorem State.forceRelease_keeps (s : State) (mask : Nat) (kept : Keeps s₀ s) : Keeps s₀ (State.forceRelease s mask) := by
  unfold State.forceRelease
  repeat' first
    | with_reducible assumption
    | exact rfl
    | with_reducible refine Keeps.foldl ?_ fun _ _ _ => ?_
    | (extract_lets +onlyGivenNames x; clear_value x)
    | split
    | intro _
    | with_reducible refine Keeps.upd ?_ ?_ ?_

theorem execForceRelease_keeps (events : Word) (s : State) : KeepsRes s (execForceRelease events s) := by
  unfold execForceRelease
  repeat' first
    | with_reducible assumption
    | with_reducible refine KeepsRes.guarded fun x hx => ?_
    | with_reducible apply State.forceRelease_keeps
    | with_reducible apply State.ack_keeps

theorem execFastLineInputChange_keeps (line : Fin 32) (level : Bool) (s : State) : KeepsRes s (execFastLineInputChange line level s) := by
  unfold execFastLineInputChange
  repeat' first
    | with_reducible assumption
    | exact rfl
    | with_reducible refine KeepsRes.guarded fun x hx => ?_
    | with_reducible apply State.wrBit_keeps
    | (extract_lets +onlyGivenNames x; with_reducible refine Keeps.cut (x := x) ?_ fun _ => ?_; rotate_left; clear_value x; rotate_left; subst x)
    | (extract_lets +onlyGivenNames x; clear_value x)
    | split
    | intro _
    | with_reducible refine Keeps.upd ?_ ?_ ?_

theorem State.watchdogNow_keeps (s : State) (kept : Keeps s₀ s) : Keeps s₀ (State.watchdogNow s) := by
  unfold State.watchdogNow
  repeat' first
    | with_reducible assumption
    | exact rfl
    | (extract_lets +onlyGivenNames x; clear_value x)
    | split
    | with_reducible refine Keeps.upd ?_ ?_ ?_

theorem execHarvestWatchdogExpiry_keeps (s : State) : KeepsRes s (execHarvestWatchdogExpiry s) := by
  unfold execHarvestWatchdogExpiry
  repeat' first
    | with_reducible assumption
    | with_reducible refine KeepsRes.guarded fun x hx => ?_
    | with_reducible apply State.watchdogNow_keeps

theorem State.slcWrite_keeps (s : State) (f : Fld) (v : Nat) (kept : Keeps s₀ s) : Keeps s₀ (State.slcWrite s f v) := by
  unfold State.slcWrite
  repeat' first
    | with_reducible assumption
    | exact rfl
    | with_reducible apply State.wrA_keeps
    | with_reducible apply State.watchdogNow_keeps
    | (extract_lets +onlyGivenNames x; clear_value x)
    | split
    | with_reducible refine Keeps.upd ?_ ?_ ?_

theorem State.slcRelease_keeps (s : State) (kept : Keeps s₀ s) : Keeps s₀ (State.slcRelease s) := by
  unfold State.slcRelease
  repeat' first
    | with_reducible assumption
    | exact rfl
    | with_reducible apply State.wr_keeps
    | with_reducible apply State.wrA_keeps
    | with_reducible apply State.watchdogNow_keeps
    | with_reducible refine Keeps.foldl ?_ fun _ _ _ => ?_
    | with_reducible refine Keeps.foldlFst ?_ fun _ _ _ => ?_
    | (extract_lets +onlyGivenNames x; clear_value x)
    | intro _
    | with_reducible refine Keeps.upd ?_ ?_ ?_

theorem execSlcHoldRelease_keeps (s : State) : KeepsRes s (execSlcHoldRelease s) := by
  unfold execSlcHoldRelease
  repeat' first
    | with_reducible assumption
    | with_reducible refine KeepsRes.guarded fun x hx => ?_
    | with_reducible apply State.slcRelease_keeps
    | with_reducible apply State.ack_keeps

end Sys2Proof.Machine
end

