-- ==== Sys2Proof/Laws/KeepsTally.lean ====
section
/-! SUPPORT. The operations of Machine/Tally.lean keep the canonical forms, the queue and what was sent. -/

namespace Sys2Proof.Machine

variable {s₀ : State}

theorem State.toSlot_keeps (s : State) (n st : Nat) (kept : Keeps s₀ s) : Keeps s₀ (State.toSlot s n st) := by
  unfold State.toSlot
  repeat' first
    | with_reducible assumption
    | with_reducible apply State.wr_keeps
    | with_reducible apply State.raiseBit_keeps
    | split

theorem State.fitInForce_keeps (s : State) (n : Nat) (kept : Keeps s₀ s) : Keeps s₀ (State.fitInForce s n) := by
  unfold State.fitInForce
  repeat' first
    | with_reducible assumption
    | exact rfl
    | with_reducible apply State.setSlot_keeps
    | with_reducible apply State.toSlot_keeps
    | with_reducible apply State.calAbandon_keeps
    | with_reducible apply State.calChecks_keeps
    | with_reducible apply State.repredictSlot_keeps
    | (extract_lets +onlyGivenNames x; clear_value x)
    | split

theorem execTallyFitInForce_keeps (slot : Fin 32) (s : State) : KeepsRes s (execTallyFitInForce slot s) := by
  unfold execTallyFitInForce
  repeat' first
    | with_reducible assumption
    | with_reducible refine KeepsRes.guarded fun x hx => ?_
    | with_reducible apply State.fitInForce_keeps

theorem State.tallyBoom_keeps (s : State) (n code : Nat) (x : TallySample) (kept : Keeps s₀ s) : Keeps s₀ (State.tallyBoom s n code x) := by
  unfold State.tallyBoom
  repeat' first
    | with_reducible assumption
    | with_reducible apply State.boom_keeps

theorem State.residual_keeps (s : State) (n : Nat) (x : TallySample) (kept : Keeps s₀ s) : Keeps s₀ (State.residual s n x) := by
  unfold State.residual
  repeat' first
    | with_reducible assumption
    | exact rfl
    | with_reducible apply State.wr_keeps
    | with_reducible apply State.setSlot_keeps
    | with_reducible apply State.raiseBit_keeps
    | (extract_lets +onlyGivenNames x; with_reducible refine Keeps.cut (x := x) ?_ fun _ => ?_; rotate_left; clear_value x; rotate_left; subst x)
    | (extract_lets +onlyGivenNames x; clear_value x)
    | split

theorem State.acceptNewest_keeps (s : State) (n : Nat) (x : TallySample) (late : Bool) (kept : Keeps s₀ s) : Keeps s₀ (State.acceptNewest s n x late) := by
  unfold State.acceptNewest
  repeat' first
    | with_reducible assumption
    | exact rfl
    | with_reducible apply State.wr_keeps
    | with_reducible apply State.residual_keeps
    | with_reducible apply State.setSlot_keeps
    | (extract_lets +onlyGivenNames x; clear_value x)
    | split

theorem State.receiveSample_keeps (s : State) (n : Nat) (x : TallySample) (kept : Keeps s₀ s) : Keeps s₀ (State.receiveSample s n x) := by
  unfold State.receiveSample
  repeat' first
    | with_reducible assumption
    | exact rfl
    | with_reducible apply State.fitInForce_keeps
    | with_reducible apply State.bump_keeps
    | with_reducible apply State.tallyBoom_keeps
    | with_reducible apply State.setSlot_keeps
    | with_reducible apply State.acceptNewest_keeps
    | (extract_lets +onlyGivenNames x; with_reducible refine Keeps.cut (x := x) ?_ fun _ => ?_; rotate_left; clear_value x; rotate_left; subst x)
    | (extract_lets +onlyGivenNames x; have _ : State → _ := x; subst x)
    | (extract_lets +onlyGivenNames x; clear_value x)
    | split

theorem execTallyReceived_keeps (payload : List Byte) (s : State) : KeepsRes s (execTallyReceived payload s) := by
  unfold execTallyReceived
  repeat' first
    | with_reducible assumption
    | exact rfl
    | with_reducible refine KeepsRes.guarded fun x hx => ?_
    | with_reducible apply State.receiveSample_keeps
    | (extract_lets +onlyGivenNames x; clear_value x)
    | split

theorem State.slotLost_keeps (s : State) (n : Nat) (kept : Keeps s₀ s) : Keeps s₀ (State.slotLost s n) := by
  unfold State.slotLost
  repeat' first
    | with_reducible assumption
    | exact rfl
    | with_reducible apply State.setSlot_keeps
    | with_reducible apply State.toSlot_keeps
    | with_reducible apply State.calAbandon_keeps
    | with_reducible apply State.repredictSlot_keeps

theorem State.deadline_keeps (s : State) (n : Nat) (kept : Keeps s₀ s) : Keeps s₀ (State.deadline s n) := by
  unfold State.deadline
  repeat' first
    | with_reducible assumption
    | exact rfl
    | with_reducible apply State.fitInForce_keeps
    | with_reducible apply State.setSlot_keeps
    | with_reducible apply State.bump_keeps
    | with_reducible apply State.toSlot_keeps
    | with_reducible apply State.repredictSlot_keeps
    | with_reducible apply State.slotLost_keeps
    | (extract_lets +onlyGivenNames x; with_reducible refine Keeps.cut (x := x) ?_ fun _ => ?_; rotate_left; clear_value x; rotate_left; subst x)
    | (extract_lets +onlyGivenNames x; clear_value x)
    | split

theorem execTallyDeadline_keeps (slot : Fin 32) (s : State) : KeepsRes s (execTallyDeadline slot s) := by
  unfold execTallyDeadline
  repeat' first
    | with_reducible assumption
    | with_reducible refine KeepsRes.guarded fun x hx => ?_
    | with_reducible apply State.deadline_keeps
    | split

theorem State.slotCycle_keeps (s : State) (n : Nat) (kept : Keeps s₀ s) : Keeps s₀ (State.slotCycle s n) := by
  unfold State.slotCycle
  repeat' first
    | with_reducible assumption
    | exact rfl
    | with_reducible apply State.setSlot_keeps
    | with_reducible apply State.repredictSlot_keeps

theorem State.afterPost_keeps (s : State) (u : Nat) (kept : Keeps s₀ s) : Keeps s₀ (State.afterPost s u) := by
  unfold State.afterPost
  repeat' first
    | with_reducible assumption
    | exact rfl
    | with_reducible apply State.doPost_keeps
    | split

theorem State.sourceTaken_keeps (s : State) (n : Nat) (kept : Keeps s₀ s) : Keeps s₀ (State.sourceTaken s n) := by
  unfold State.sourceTaken
  repeat' first
    | with_reducible assumption
    | exact rfl
    | with_reducible apply State.setSlot_keeps
    | with_reducible apply State.draw_keeps
    | (extract_lets +onlyGivenNames x; with_reducible refine Keeps.cut (x := x) ?_ fun _ => ?_; rotate_left; clear_value x; rotate_left; subst x)
    | (extract_lets +onlyGivenNames x; clear_value x)
    | split

theorem State.sourceBound_keeps (s : State) (n : Nat) (kept : Keeps s₀ s) : Keeps s₀ (State.sourceBound s n) := by
  unfold State.sourceBound
  repeat' first
    | with_reducible assumption
    | exact rfl
    | with_reducible apply State.setSlot_keeps

theorem State.sampleOwner_keeps (s : State) (n : Nat) (kept : Keeps s₀ s) : Keeps s₀ (State.sampleOwner s n) := by
  unfold State.sampleOwner
  repeat' first
    | with_reducible assumption
    | exact rfl
    | with_reducible apply State.sourceTaken_keeps
    | with_reducible apply State.setSlot_keeps
    | with_reducible apply State.send_keeps
    | with_reducible apply State.receiveSample_keeps
    | (extract_lets +onlyGivenNames x; with_reducible refine Keeps.cut (x := x) ?_ fun _ => ?_; rotate_left; clear_value x; rotate_left; subst x)
    | (extract_lets +onlyGivenNames x; clear_value x)
    | split

theorem State.tallyCycle_keeps (s : State) (kept : Keeps s₀ s) : Keeps s₀ (State.tallyCycle s) := by
  unfold State.tallyCycle
  repeat' first
    | with_reducible assumption
    | exact rfl
    | with_reducible apply State.deadline_keeps
    | with_reducible apply State.slotCycle_keeps
    | with_reducible apply State.sampleOwner_keeps
    | with_reducible refine Keeps.foldl ?_ fun _ _ _ => ?_
    | (extract_lets +onlyGivenNames x; with_reducible refine Keeps.cut (x := x) ?_ fun _ => ?_; rotate_left; clear_value x; rotate_left; subst x)
    | (extract_lets +onlyGivenNames x; clear_value x)
    | split
    | intro _
    | with_reducible refine Keeps.upd ?_ ?_ ?_

theorem execWholeMillisecond_keeps (s : State) : KeepsRes s (execWholeMillisecond s) := by
  unfold execWholeMillisecond
  repeat' first
    | with_reducible assumption
    | with_reducible refine KeepsRes.guarded fun x hx => ?_
    | with_reducible apply State.tallyCycle_keeps
    | split

theorem State.slotStep_keeps (s : State) (n : Nat) (kept : Keeps s₀ s) : Keeps s₀ (State.slotStep s n) := by
  unfold State.slotStep
  repeat' first
    | with_reducible assumption
    | exact rfl
    | with_reducible apply State.setSlot_keeps
    | with_reducible apply State.toSlot_keeps
    | with_reducible apply State.calAbandon_keeps
    | with_reducible apply State.repredictSlot_keeps
    | (extract_lets +onlyGivenNames x; with_reducible refine Keeps.cut (x := x) ?_ fun _ => ?_; rotate_left; clear_value x; rotate_left; subst x)
    | (extract_lets +onlyGivenNames x; clear_value x)
    | split

theorem State.tallyStep_keeps (s : State) (kept : Keeps s₀ s) : Keeps s₀ (State.tallyStep s) := by
  unfold State.tallyStep
  repeat' first
    | with_reducible assumption
    | with_reducible apply State.slotStep_keeps
    | with_reducible refine Keeps.foldl ?_ fun _ _ _ => ?_

theorem State.out96_keeps (s : State) (b k v : Nat) (kept : Keeps s₀ s) : Keeps s₀ (State.out96 s b k v) := by
  unfold State.out96
  repeat' first
    | with_reducible assumption
    | with_reducible apply State.wr96_keeps

theorem State.answerQuery_keeps (s : State) (b : Nat) (q : Query) (kept : Keeps s₀ s) : Keeps s₀ (State.answerQuery s b q).1 := by
  unfold State.answerQuery
  repeat' first
    | with_reducible assumption
    | exact rfl
    | with_reducible apply State.out96_keeps
    | with_reducible apply State.wr_keeps
    | (extract_lets +onlyGivenNames x; with_reducible refine Keeps.cut (x := x) ?_ fun _ => ?_; rotate_left; clear_value x; rotate_left; subst x)
    | (extract_lets +onlyGivenNames x; clear_value x)
    | split

theorem State.queryGo_keeps (s : State) (init : Initiator) (op dir slot : Nat) (go : Bool) (kept : Keeps s₀ s) : Keeps s₀ (State.queryGo s init op dir slot go) := by
  unfold State.queryGo
  repeat' first
    | with_reducible assumption
    | exact rfl
    | with_reducible apply State.wr_keeps
    | with_reducible apply State.ack_keeps
    | with_reducible apply State.resStart_keeps
    | (extract_lets +onlyGivenNames x; with_reducible refine Keeps.cut (x := x) ?_ fun _ => ?_; rotate_left; clear_value x; rotate_left; subst x)
    | (extract_lets +onlyGivenNames x; clear_value x)
    | split
    | with_reducible refine Keeps.upd ?_ ?_ ?_

theorem execPosAt_keeps (init : Initiator) (slot : Fin 32) (s : State) : KeepsRes s (execPosAt init slot s) := by
  unfold execPosAt
  repeat' first
    | with_reducible assumption
    | with_reducible refine KeepsRes.guarded fun x hx => ?_
    | with_reducible apply State.queryGo_keeps

theorem execTimeOf_keeps (init : Initiator) (slot : Fin 32) (dir : Fin 4) (s : State) : KeepsRes s (execTimeOf init slot dir s) := by
  unfold execTimeOf
  repeat' first
    | with_reducible assumption
    | with_reducible refine KeepsRes.guarded fun x hx => ?_
    | with_reducible apply State.queryGo_keeps

theorem execReadFit_keeps (init : Initiator) (slot : Fin 32) (s : State) : KeepsRes s (execReadFit init slot s) := by
  unfold execReadFit
  repeat' first
    | with_reducible assumption
    | with_reducible refine KeepsRes.guarded fun x hx => ?_
    | with_reducible apply State.queryGo_keeps

theorem execTallyQueryComplete_keeps (bank : Fin 3) (s : State) : KeepsRes s (execTallyQueryComplete bank s) := by
  unfold execTallyQueryComplete
  repeat' first
    | with_reducible assumption
    | exact rfl
    | with_reducible refine Keeps.fst (by with_reducible assumption) ?_
    | with_reducible refine KeepsRes.guarded fun x hx => ?_
    | with_reducible apply State.answerQuery_keeps
    | with_reducible apply State.resDone_keeps
    | (extract_lets +onlyGivenNames x; clear_value x)
    | split
    | intro _
    | with_reducible refine Keeps.upd ?_ ?_ ?_

end Sys2Proof.Machine
end

