-- ==== Sys2Proof/Laws/KeepsTime.lean ====
section
/-! SUPPORT. The operations of Machine/Time.lean keep the canonical forms, the queue and what was sent. -/

namespace Sys2Proof.Machine

variable {s₀ : State}

theorem State.timCapture_keeps (s : State) (b : Nat) (kept : Keeps s₀ s) : Keeps s₀ (State.timCapture s b) := by
  unfold State.timCapture
  repeat' first
    | with_reducible assumption
    | with_reducible apply State.wr_keeps

theorem execTimCapture_keeps (init : Initiator) (s : State) : KeepsRes s (execTimCapture init s) := by
  unfold execTimCapture
  repeat' first
    | with_reducible assumption
    | with_reducible refine KeepsRes.guarded fun x hx => ?_
    | with_reducible apply State.timCapture_keeps
    | with_reducible apply State.ack_keeps

theorem State.timeStep_keeps (s : State) (counter : Nat) (kept : Keeps s₀ s) : Keeps s₀ (State.timeStep s counter) := by
  unfold State.timeStep
  repeat' first
    | with_reducible assumption
    | exact rfl
    | with_reducible apply State.raise_keeps
    | with_reducible apply State.calStep_keeps
    | with_reducible apply State.tallyStep_keeps
    | (extract_lets +onlyGivenNames x; clear_value x)
    | with_reducible refine Keeps.upd ?_ ?_ ?_

theorem State.timSet_keeps (s : State) (kept : Keeps s₀ s) : Keeps s₀ (State.timSet s) := by
  unfold State.timSet
  repeat' first
    | with_reducible assumption
    | exact rfl
    | with_reducible apply State.ack_keeps
    | with_reducible apply State.resStart_keeps
    | with_reducible apply State.timeStep_keeps
    | with_reducible apply State.resDone_keeps
    | (extract_lets +onlyGivenNames x; with_reducible refine Keeps.cut (x := x) ?_ fun _ => ?_; rotate_left; clear_value x; rotate_left; subst x)
    | (extract_lets +onlyGivenNames x; clear_value x)
    | split

theorem execTimSet_keeps (s : State) : KeepsRes s (execTimSet s) := by
  unfold execTimSet
  repeat' first
    | with_reducible assumption
    | with_reducible refine KeepsRes.guarded fun x hx => ?_
    | with_reducible apply State.timSet_keeps

theorem State.setDelayPort_keeps (s : State) (p : Nat) (d : DelayPort) (kept : Keeps s₀ s) : Keeps s₀ (State.setDelayPort s p d) := by
  unfold State.setDelayPort
  repeat' first
    | with_reducible assumption
    | exact rfl
    | (extract_lets +onlyGivenNames x; clear_value x)
    | with_reducible refine Keeps.upd ?_ ?_ ?_

theorem State.hopFrame_keeps (s : State) (p typ : Nat) (payload : List Nat) (kept : Keeps s₀ s) : Keeps s₀ (State.hopFrame s p typ payload) := by
  unfold State.hopFrame
  repeat' first
    | with_reducible assumption
    | with_reducible apply State.emit_keeps

theorem execPdelayRequestSend_keeps (port : Fin 7) (s : State) : KeepsRes s (execPdelayRequestSend port s) := by
  unfold execPdelayRequestSend
  repeat' first
    | with_reducible assumption
    | exact rfl
    | with_reducible refine KeepsRes.guarded fun x hx => ?_
    | with_reducible apply State.setDelayPort_keeps
    | with_reducible apply State.hopFrame_keeps
    | (extract_lets +onlyGivenNames x; with_reducible refine Keeps.cut (x := x) ?_ fun _ => ?_; rotate_left; clear_value x; rotate_left; subst x)
    | (extract_lets +onlyGivenNames x; clear_value x)
    | split

theorem execPdelayRequestReceived_keeps (port : Fin 7) (reqSeq : BitVec 16) (s : State) : KeepsRes s (execPdelayRequestReceived port reqSeq s) := by
  unfold execPdelayRequestReceived
  repeat' first
    | with_reducible assumption
    | with_reducible refine KeepsRes.guarded fun x hx => ?_
    | with_reducible apply State.hopFrame_keeps
    | split

theorem State.delayEnds_keeps (s : State) (p q : Nat) (kept : Keeps s₀ s) : Keeps s₀ (State.delayEnds s p q) := by
  unfold State.delayEnds
  repeat' first
    | with_reducible assumption
    | exact rfl
    | with_reducible apply State.setDelayPort_keeps

theorem State.delayBad_keeps (s : State) (p : Nat) (kept : Keeps s₀ s) : Keeps s₀ (State.delayBad s p) := by
  unfold State.delayBad
  repeat' first
    | with_reducible assumption
    | exact rfl
    | with_reducible apply State.setDelayPort_keeps
    | with_reducible apply State.bump_keeps
    | with_reducible apply State.raise_keeps
    | (extract_lets +onlyGivenNames x; with_reducible refine Keeps.cut (x := x) ?_ fun _ => ?_; rotate_left; clear_value x; rotate_left; subst x)
    | (extract_lets +onlyGivenNames x; clear_value x)
    | split

theorem State.delayKept_keeps (s : State) (p v : Nat) (kept : Keeps s₀ s) : Keeps s₀ (State.delayKept s p v) := by
  unfold State.delayKept
  repeat' first
    | with_reducible assumption
    | exact rfl
    | with_reducible apply State.setDelayPort_keeps
    | with_reducible apply State.wr_keeps

theorem execPdelayAnswerReceived_keeps (port : Fin 7) (payload : List Byte) (s : State) : KeepsRes s (execPdelayAnswerReceived port payload s) := by
  unfold execPdelayAnswerReceived
  repeat' first
    | with_reducible assumption
    | exact rfl
    | with_reducible refine KeepsRes.guarded fun x hx => ?_
    | with_reducible apply State.delayEnds_keeps
    | with_reducible apply State.delayBad_keeps
    | with_reducible apply State.delayKept_keeps
    | (extract_lets +onlyGivenNames x; with_reducible refine Keeps.cut (x := x) ?_ fun _ => ?_; rotate_left; clear_value x; rotate_left; subst x)
    | (extract_lets +onlyGivenNames x; clear_value x)
    | split

theorem execPdelayAnswerTimeout_keeps (port : Fin 7) (s : State) : KeepsRes s (execPdelayAnswerTimeout port s) := by
  unfold execPdelayAnswerTimeout
  repeat' first
    | with_reducible assumption
    | exact rfl
    | with_reducible refine KeepsRes.guarded fun x hx => ?_
    | with_reducible apply State.delayEnds_keeps
    | with_reducible apply State.delayBad_keeps
    | (extract_lets +onlyGivenNames x; clear_value x)
    | split

theorem State.sendSync_keeps (s : State) (ringB : Bool) (kept : Keeps s₀ s) : Keeps s₀ (State.sendSync s ringB) := by
  unfold State.sendSync
  repeat' first
    | with_reducible assumption
    | with_reducible refine Keeps.fst (by with_reducible assumption) ?_
    | with_reducible apply State.stampFrame_keeps
    | with_reducible apply State.arrive_keeps
    | (extract_lets +onlyGivenNames x; clear_value x)
    | split

theorem execSyncSend_keeps (s : State) : KeepsRes s (execSyncSend s) := by
  unfold execSyncSend
  repeat' first
    | with_reducible assumption
    | exact rfl
    | with_reducible refine KeepsRes.guarded fun x hx => ?_
    | with_reducible apply State.sendSync_keeps
    | (extract_lets +onlyGivenNames x; with_reducible refine Keeps.cut (x := x) ?_ fun _ => ?_; rotate_left; clear_value x; rotate_left; subst x)
    | (extract_lets +onlyGivenNames x; clear_value x)
    | split
    | intro _
    | with_reducible refine Keeps.upd ?_ ?_ ?_

theorem State.setFreq_keeps (s : State) (freq : Int) (kept : Keeps s₀ s) : Keeps s₀ (State.setFreq s freq) := by
  unfold State.setFreq
  repeat' first
    | with_reducible assumption
    | exact rfl
    | with_reducible apply State.wr_keeps
    | (extract_lets +onlyGivenNames x; clear_value x)
    | with_reducible refine Keeps.upd ?_ ?_ ?_

theorem State.servoLoop_keeps (s : State) (theta : Int) (kept : Keeps s₀ s) : Keeps s₀ (State.servoLoop s theta) := by
  unfold State.servoLoop
  repeat' first
    | with_reducible assumption
    | exact rfl
    | with_reducible apply State.setFreq_keeps
    | (extract_lets +onlyGivenNames x; clear_value x)
    | with_reducible refine Keeps.upd ?_ ?_ ?_

theorem State.servoStep_keeps (s : State) (theta : Int) (kept : Keeps s₀ s) : Keeps s₀ (State.servoStep s theta) := by
  unfold State.servoStep
  repeat' first
    | with_reducible assumption
    | exact rfl
    | with_reducible apply State.setFreq_keeps
    | with_reducible apply State.timeStep_keeps
    | (extract_lets +onlyGivenNames x; clear_value x)
    | with_reducible refine Keeps.upd ?_ ?_ ?_

theorem State.servoSlew_keeps (s : State) (theta : Int) (kept : Keeps s₀ s) : Keeps s₀ (State.servoSlew s theta) := by
  unfold State.servoSlew
  repeat' first
    | with_reducible assumption
    | exact rfl
    | with_reducible apply State.setFreq_keeps
    | (extract_lets +onlyGivenNames x; clear_value x)
    | split
    | with_reducible refine Keeps.upd ?_ ?_ ?_

theorem State.toServo_keeps (s : State) (st : Nat) (kept : Keeps s₀ s) : Keeps s₀ (State.toServo s st) := by
  unfold State.toServo
  repeat' first
    | with_reducible assumption
    | with_reducible apply State.wr_keeps

theorem State.unlocks_keeps (s : State) (kept : Keeps s₀ s) : Keeps s₀ (State.unlocks s) := by
  unfold State.unlocks
  repeat' first
    | with_reducible assumption
    | with_reducible apply State.raise_keeps
    | split

theorem State.servoCount_keeps (s : State) (theta : Int) (kept : Keeps s₀ s) : Keeps s₀ (State.servoCount s theta) := by
  unfold State.servoCount
  repeat' first
    | with_reducible assumption
    | exact rfl
    | with_reducible apply State.toServo_keeps
    | with_reducible apply State.raise_keeps
    | with_reducible apply State.unlocks_keeps
    | (extract_lets +onlyGivenNames x; with_reducible refine Keeps.cut (x := x) ?_ fun _ => ?_; rotate_left; clear_value x; rotate_left; subst x)
    | (extract_lets +onlyGivenNames x; clear_value x)
    | split
    | with_reducible refine Keeps.upd ?_ ?_ ?_

theorem State.servo_keeps (s : State) (theta : Int) (kept : Keeps s₀ s) : Keeps s₀ (State.servo s theta) := by
  unfold State.servo
  repeat' first
    | with_reducible assumption
    | exact rfl
    | with_reducible apply State.wr_keeps
    | with_reducible apply State.toServo_keeps
    | with_reducible apply State.servoStep_keeps
    | with_reducible apply State.unlocks_keeps
    | with_reducible apply State.servoSlew_keeps
    | with_reducible apply State.servoLoop_keeps
    | with_reducible apply State.servoCount_keeps
    | (extract_lets +onlyGivenNames x; with_reducible refine Keeps.cut (x := x) ?_ fun _ => ?_; rotate_left; clear_value x; rotate_left; subst x)
    | (extract_lets +onlyGivenNames x; clear_value x)
    | split
    | with_reducible refine Keeps.upd ?_ ?_ ?_

theorem execServoHoldover_keeps (s : State) : KeepsRes s (execServoHoldover s) := by
  unfold execServoHoldover
  repeat' first
    | with_reducible assumption
    | with_reducible refine KeepsRes.guarded fun x hx => ?_
    | with_reducible apply State.unlocks_keeps
    | with_reducible apply State.toServo_keeps
    | with_reducible apply State.setFreq_keeps
    | with_reducible apply State.raise_keeps
    | with_reducible refine Keeps.foldl ?_ fun _ _ _ => ?_
    | (extract_lets +onlyGivenNames x; clear_value x)
    | split

theorem State.badSync_keeps (s : State) (kept : Keeps s₀ s) : Keeps s₀ (State.badSync s) := by
  unfold State.badSync
  repeat' first
    | with_reducible assumption
    | with_reducible apply State.bump_keeps
    | with_reducible apply State.raise_keeps

theorem State.setUpstream_keeps (s : State) (ringB : Bool) (provisional : Bool) (kept : Keeps s₀ s) : Keeps s₀ (State.setUpstream s ringB provisional) := by
  unfold State.setUpstream
  repeat' first
    | with_reducible assumption
    | exact rfl
    | with_reducible apply State.wr_keeps
    | (extract_lets +onlyGivenNames x; clear_value x)
    | split
    | with_reducible refine Keeps.upd ?_ ?_ ?_

theorem State.selectSync_keeps (s : State) (ringB : Bool) (steps : Nat) (kept : Keeps s₀ s) : Keeps s₀ (State.selectSync s ringB steps).1 := by
  unfold State.selectSync
  repeat' first
    | with_reducible assumption
    | exact rfl
    | with_reducible apply State.setUpstream_keeps
    | with_reducible apply State.raise_keeps
    | (extract_lets +onlyGivenNames x; with_reducible refine Keeps.cut (x := x) ?_ fun _ => ?_; rotate_left; clear_value x; rotate_left; subst x)
    | (extract_lets +onlyGivenNames x; clear_value x)
    | split
    | with_reducible refine Keeps.upd ?_ ?_ ?_

theorem State.syncReceived_keeps (s : State) (port : Nat) (b : List Nat) (corr : Int) (kept : Keeps s₀ s) : Keeps s₀ (State.syncReceived s port b corr) := by
  unfold State.syncReceived
  repeat' first
    | with_reducible assumption
    | exact rfl
    | with_reducible refine Keeps.fst (by with_reducible assumption) ?_
    | with_reducible apply State.badSync_keeps
    | with_reducible apply State.selectSync_keeps
    | with_reducible apply State.raise_keeps
    | with_reducible apply State.wr64_keeps
    | with_reducible apply State.wr_keeps
    | with_reducible apply State.servo_keeps
    | (extract_lets +onlyGivenNames x; with_reducible refine Keeps.cut (x := x) ?_ fun _ => ?_; rotate_left; clear_value x; rotate_left; subst x)
    | (extract_lets +onlyGivenNames x; clear_value x)
    | split

theorem execSyncReceived_keeps (port : Fin 8) (payload : List Byte) (corr : Int) (s : State) : KeepsRes s (execSyncReceived port payload corr s) := by
  unfold execSyncReceived
  repeat' first
    | with_reducible assumption
    | with_reducible refine KeepsRes.guarded fun x hx => ?_
    | with_reducible apply State.syncReceived_keeps

theorem execUpstreamFinal_keeps (s : State) : KeepsRes s (execUpstreamFinal s) := by
  unfold execUpstreamFinal
  repeat' first
    | with_reducible assumption
    | exact rfl
    | with_reducible refine KeepsRes.guarded fun x hx => ?_
    | (extract_lets +onlyGivenNames x; clear_value x)
    | split
    | intro _
    | with_reducible refine Keeps.upd ?_ ?_ ?_

end Sys2Proof.Machine
end

