-- ==== Sys2Proof/Laws/KeepsPtp.lean ====
section
/-! SUPPORT. The operations of Machine/Ptp.lean keep the canonical forms, the queue and what was sent. -/

namespace Sys2Proof.Machine

variable {s₀ : State}

theorem State.setPtp_keeps (s : State) (x : PtpState) (kept : Keeps s₀ s) : Keeps s₀ (State.setPtp s x) := by
  unfold State.setPtp
  repeat' first
    | with_reducible assumption
    | exact rfl
    | (extract_lets +onlyGivenNames x; clear_value x)
    | with_reducible refine Keeps.upd ?_ ?_ ?_

theorem State.ptpSend_keeps (s : State) (seq : Nat) (body : PtpBody) (kept : Keeps s₀ s) : Keeps s₀ (State.ptpSend s seq body) := by
  unfold State.ptpSend
  repeat' first
    | with_reducible assumption
    | with_reducible apply State.emit_keeps

theorem State.ptpAsk_keeps (s : State) (kept : Keeps s₀ s) : Keeps s₀ (State.ptpAsk s) := by
  unfold State.ptpAsk
  repeat' first
    | with_reducible assumption
    | exact rfl
    | with_reducible apply State.setPtp_keeps
    | with_reducible apply State.ptpSend_keeps

theorem State.ptpChoose_keeps (s : State) (kept : Keeps s₀ s) : Keeps s₀ (State.ptpChoose s) := by
  unfold State.ptpChoose
  repeat' first
    | with_reducible assumption
    | exact rfl
    | with_reducible apply State.wr_keeps
    | with_reducible apply State.setPtp_keeps
    | (extract_lets +onlyGivenNames x; with_reducible refine Keeps.cut (x := x) ?_ fun _ => ?_; rotate_left; clear_value x; rotate_left; subst x)
    | (extract_lets +onlyGivenNames x; clear_value x)
    | split

theorem State.ptpAnnounce_keeps (s : State) (source : Nat) (d : PtpDataset) (utc : Nat) (kept : Keeps s₀ s) : Keeps s₀ (State.ptpAnnounce s source d utc) := by
  unfold State.ptpAnnounce
  repeat' first
    | with_reducible assumption
    | exact rfl
    | with_reducible apply State.setPtp_keeps
    | with_reducible apply State.ptpChoose_keeps
    | with_reducible apply State.ptpAsk_keeps
    | (extract_lets +onlyGivenNames x; with_reducible refine Keeps.cut (x := x) ?_ fun _ => ?_; rotate_left; clear_value x; rotate_left; subst x)
    | (extract_lets +onlyGivenNames x; clear_value x)
    | split

theorem State.ptpOffset_keeps (s : State) (origin t2 : Int) (kept : Keeps s₀ s) : Keeps s₀ (State.ptpOffset s origin t2) := by
  unfold State.ptpOffset
  repeat' first
    | with_reducible assumption
    | exact rfl
    | with_reducible apply State.setPtp_keeps
    | with_reducible apply State.servo_keeps
    | with_reducible apply State.ptpAsk_keeps
    | (extract_lets +onlyGivenNames x; with_reducible refine Keeps.cut (x := x) ?_ fun _ => ?_; rotate_left; clear_value x; rotate_left; subst x)
    | (extract_lets +onlyGivenNames x; clear_value x)
    | split

theorem State.ptpSync_keeps (s : State) (seq : Nat) (twoStep : Bool) (origin : Nat) (corr : Int) (kept : Keeps s₀ s) : Keeps s₀ (State.ptpSync s seq twoStep origin corr) := by
  unfold State.ptpSync
  repeat' first
    | with_reducible assumption
    | exact rfl
    | with_reducible apply State.setPtp_keeps
    | with_reducible apply State.ptpOffset_keeps
    | (extract_lets +onlyGivenNames x; clear_value x)
    | split

theorem State.ptpFollowUp_keeps (s : State) (seq origin : Nat) (corr : Int) (kept : Keeps s₀ s) : Keeps s₀ (State.ptpFollowUp s seq origin corr) := by
  unfold State.ptpFollowUp
  repeat' first
    | with_reducible assumption
    | exact rfl
    | with_reducible apply State.ptpOffset_keeps
    | split

theorem State.ptpDelayAnswer_keeps (s : State) (seq t4 : Nat) (corr : Int) (kept : Keeps s₀ s) : Keeps s₀ (State.ptpDelayAnswer s seq t4 corr) := by
  unfold State.ptpDelayAnswer
  repeat' first
    | with_reducible assumption
    | exact rfl
    | with_reducible apply State.setPtp_keeps
    | (extract_lets +onlyGivenNames x; clear_value x)
    | split

theorem State.ptpPeerDone_keeps (s : State) (t1 t2 t3 t4 corr : Int) (kept : Keeps s₀ s) : Keeps s₀ (State.ptpPeerDone s t1 t2 t3 t4 corr) := by
  unfold State.ptpPeerDone
  repeat' first
    | with_reducible assumption
    | exact rfl
    | with_reducible apply State.setPtp_keeps

theorem State.ptpPeerAnswer_keeps (s : State) (seq : Nat) (twoStep : Bool) (t2 : Nat) (corr : Int) (kept : Keeps s₀ s) : Keeps s₀ (State.ptpPeerAnswer s seq twoStep t2 corr) := by
  unfold State.ptpPeerAnswer
  repeat' first
    | with_reducible assumption
    | exact rfl
    | with_reducible apply State.setPtp_keeps
    | with_reducible apply State.ptpPeerDone_keeps
    | (extract_lets +onlyGivenNames x; clear_value x)
    | split

theorem State.ptpPeerFollowUp_keeps (s : State) (seq t3 : Nat) (corr : Int) (kept : Keeps s₀ s) : Keeps s₀ (State.ptpPeerFollowUp s seq t3 corr) := by
  unfold State.ptpPeerFollowUp
  repeat' first
    | with_reducible assumption
    | exact rfl
    | with_reducible apply State.ptpPeerDone_keeps
    | split

theorem State.ptpPeerRequest_keeps (s : State) (seq : Nat) (kept : Keeps s₀ s) : Keeps s₀ (State.ptpPeerRequest s seq) := by
  unfold State.ptpPeerRequest
  repeat' first
    | with_reducible assumption
    | with_reducible apply State.ptpSend_keeps
    | with_reducible apply State.ptpAsk_keeps
    | split

theorem State.ptpTake_keeps (s : State) (m : PtpMessage) (kept : Keeps s₀ s) : Keeps s₀ (State.ptpTake s m) := by
  unfold State.ptpTake
  repeat' first
    | with_reducible assumption
    | exact rfl
    | with_reducible apply State.ptpAnnounce_keeps
    | with_reducible apply State.ptpSync_keeps
    | with_reducible apply State.ptpFollowUp_keeps
    | with_reducible apply State.ptpDelayAnswer_keeps
    | with_reducible apply State.ptpPeerRequest_keeps
    | with_reducible apply State.ptpPeerAnswer_keeps
    | with_reducible apply State.ptpPeerFollowUp_keeps
    | (extract_lets +onlyGivenNames x; clear_value x)
    | split

theorem execPtpMessageReceived_keeps (message : PtpMessage) (s : State) : KeepsRes s (execPtpMessageReceived message s) := by
  unfold execPtpMessageReceived
  repeat' first
    | with_reducible assumption
    | with_reducible refine KeepsRes.guarded fun x hx => ?_
    | with_reducible apply State.bump_keeps
    | with_reducible apply State.ptpTake_keeps
    | split

theorem execPl0MasterLost_keeps (s : State) : KeepsRes s (execPl0MasterLost s) := by
  unfold execPl0MasterLost
  repeat' first
    | with_reducible assumption
    | exact rfl
    | with_reducible refine KeepsRes.guarded fun x hx => ?_
    | with_reducible apply State.setPtp_keeps
    | with_reducible apply State.raise_keeps
    | (extract_lets +onlyGivenNames x; clear_value x)
    | split

end Sys2Proof.Machine
end

