-- ==== Sys2Proof/Laws/KeepsBoom.lean ====
section
/-! SUPPORT. The operations of Machine/Boom.lean keep the canonical forms, the queue and what was sent. -/

namespace Sys2Proof.Machine

variable {s₀ : State}

theorem State.isolate_keeps (s : State) (subsys : Nat) (unit : Option Nat) (kept : Keeps s₀ s) : Keeps s₀ (State.isolate s subsys unit) := by
  unfold State.isolate
  repeat' first
    | with_reducible assumption
    | exact rfl
    | with_reducible apply State.wr_keeps
    | with_reducible apply State.feedEnable_keeps
    | with_reducible apply State.sliceEnable_keeps
    | with_reducible apply State.canEnable_keeps
    | with_reducible apply State.sawEnable_keeps
    | with_reducible apply State.wrBit_keeps
    | split

theorem State.faultAt_keeps (s : State) (subsys cls : Nat) (inj : Bool) (unit : Option Nat) (kept : Keeps s₀ s) : Keeps s₀ (State.faultAt s subsys cls inj unit) := by
  unfold State.faultAt
  repeat' first
    | with_reducible assumption
    | with_reducible apply State.fault_keeps
    | with_reducible apply State.isolate_keeps
    | (extract_lets +onlyGivenNames x; with_reducible refine Keeps.cut (x := x) ?_ fun _ => ?_; rotate_left; clear_value x; rotate_left; subst x)
    | (extract_lets +onlyGivenNames x; clear_value x)
    | split

theorem execFaultDetected_keeps (subsys : Fin 27) (cls : Fin 7) (unit : Option (Fin 256)) (s : State) : KeepsRes s (execFaultDetected subsys cls unit s) := by
  unfold execFaultDetected
  repeat' first
    | with_reducible assumption
    | with_reducible refine KeepsRes.guarded fun x hx => ?_
    | with_reducible apply State.faultAt_keeps
    | split

theorem State.memRead_keeps (s : State) (addr : Nat) (kept : Keeps s₀ s) : Keeps s₀ (State.memRead s addr) := by
  unfold State.memRead
  repeat' first
    | with_reducible assumption
    | exact rfl
    | with_reducible apply State.fault_keeps
    | (extract_lets +onlyGivenNames x; with_reducible refine Keeps.cut (x := x) ?_ fun _ => ?_; rotate_left; clear_value x; rotate_left; subst x)
    | (extract_lets +onlyGivenNames x; have _ : BomState := x; subst x)
    | (extract_lets +onlyGivenNames x; clear_value x)
    | split
    | intro _
    | with_reducible refine Keeps.upd ?_ ?_ ?_

theorem State.memWritten_keeps (s : State) (addr len : Nat) (kept : Keeps s₀ s) : Keeps s₀ (State.memWritten s addr len) := by
  unfold State.memWritten
  repeat' first
    | with_reducible assumption
    | exact rfl
    | with_reducible apply State.wr_keeps
    | (extract_lets +onlyGivenNames x; with_reducible refine Keeps.cut (x := x) ?_ fun _ => ?_; rotate_left; clear_value x; rotate_left; subst x)
    | (extract_lets +onlyGivenNames x; have _ : BomState := x; subst x)
    | (extract_lets +onlyGivenNames x; clear_value x)
    | split
    | intro _
    | with_reducible refine Keeps.upd ?_ ?_ ?_

theorem execMemoryError_keeps (region : Fin 18) (off : BitVec 40) (double : Bool) (s : State) : KeepsRes s (execMemoryError region off double s) := by
  unfold execMemoryError
  repeat' first
    | with_reducible assumption
    | exact rfl
    | with_reducible refine KeepsRes.guarded fun x hx => ?_
    | with_reducible apply State.memRead_keeps
    | with_reducible apply State.fault_keeps
    | (extract_lets +onlyGivenNames x; have _ : BomState := x; subst x)
    | (extract_lets +onlyGivenNames x; clear_value x)
    | split
    | intro _
    | with_reducible refine Keeps.upd ?_ ?_ ?_

theorem execScrub_keeps (region : Fin 18) (off : BitVec 40) (s : State) : KeepsRes s (execScrub region off s) := by
  unfold execScrub
  repeat' first
    | with_reducible assumption
    | with_reducible refine KeepsRes.guarded fun x hx => ?_
    | with_reducible apply State.memRead_keeps

theorem execLockstepMismatch_keeps (pair : Fin 2) (s : State) : KeepsRes s (execLockstepMismatch pair s) := by
  unfold execLockstepMismatch
  repeat' first
    | with_reducible assumption
    | exact rfl
    | with_reducible refine KeepsRes.guarded fun x hx => ?_
    | with_reducible apply State.raise_keeps
    | with_reducible apply State.bump_keeps
    | with_reducible apply State.fault_keeps
    | (extract_lets +onlyGivenNames x; clear_value x)
    | split
    | intro _
    | with_reducible refine Keeps.upd ?_ ?_ ?_

theorem State.bomInj_keeps (s : State) (subsys : Nat) (double go : Bool) (kept : Keeps s₀ s) : Keeps s₀ (State.bomInj s subsys double go) := by
  unfold State.bomInj
  repeat' first
    | with_reducible assumption
    | with_reducible apply State.wr_keeps
    | with_reducible apply State.wrB_keeps
    | with_reducible apply State.ack_keeps
    | with_reducible apply State.bump_keeps
    | with_reducible apply State.raise_keeps
    | (extract_lets +onlyGivenNames x; with_reducible refine Keeps.cut (x := x) ?_ fun _ => ?_; rotate_left; clear_value x; rotate_left; subst x)
    | split

theorem execBomInj_keeps (subsys : BitVec 5) (double : Bool) (s : State) : KeepsRes s (execBomInj subsys double s) := by
  unfold execBomInj
  repeat' first
    | with_reducible assumption
    | with_reducible refine KeepsRes.guarded fun x hx => ?_
    | with_reducible apply State.bomInj_keeps

theorem State.bomTest_keeps (s : State) (init : Initiator) (op port : Nat) (maint go : Bool) (kept : Keeps s₀ s) : Keeps s₀ (State.bomTest s init op port maint go) := by
  unfold State.bomTest
  repeat' first
    | with_reducible assumption
    | exact rfl
    | with_reducible apply State.wr_keeps
    | with_reducible apply State.wrB_keeps
    | with_reducible apply State.capture_keeps
    | with_reducible apply State.ack_keeps
    | with_reducible apply State.resStart_keeps
    | with_reducible apply State.resDone_keeps
    | (extract_lets +onlyGivenNames x; with_reducible refine Keeps.cut (x := x) ?_ fun _ => ?_; rotate_left; clear_value x; rotate_left; subst x)
    | (extract_lets +onlyGivenNames x; have _ : BomState := x; subst x)
    | split
    | with_reducible refine Keeps.upd ?_ ?_ ?_

theorem execMbist_keeps (init : Initiator) (s : State) : KeepsRes s (execMbist init s) := by
  unfold execMbist
  repeat' first
    | with_reducible assumption
    | with_reducible refine KeepsRes.guarded fun x hx => ?_
    | with_reducible apply State.bomTest_keeps

theorem execSerdesMarginScan_keeps (init : Initiator) (port : Fin 8) (maint : Bool) (s : State) : KeepsRes s (execSerdesMarginScan init port maint s) := by
  unfold execSerdesMarginScan
  repeat' first
    | with_reducible assumption
    | with_reducible refine KeepsRes.guarded fun x hx => ?_
    | with_reducible apply State.bomTest_keeps

theorem execHvLaneTest_keeps (init : Initiator) (s : State) : KeepsRes s (execHvLaneTest init s) := by
  unfold execHvLaneTest
  repeat' first
    | with_reducible assumption
    | with_reducible refine KeepsRes.guarded fun x hx => ?_
    | with_reducible apply State.bomTest_keeps

theorem execSelfTestComplete_keeps (failed : Bool) (memory : Fin 27) (s : State) : KeepsRes s (execSelfTestComplete failed memory s) := by
  unfold execSelfTestComplete
  repeat' first
    | with_reducible assumption
    | exact rfl
    | with_reducible refine KeepsRes.guarded fun x hx => ?_
    | with_reducible apply State.raise_keeps
    | with_reducible apply State.wrB_keeps
    | with_reducible apply State.fault_keeps
    | with_reducible apply State.resDone_keeps
    | (extract_lets +onlyGivenNames x; with_reducible refine Keeps.cut (x := x) ?_ fun _ => ?_; rotate_left; clear_value x; rotate_left; subst x)
    | (extract_lets +onlyGivenNames x; have _ : BomState := x; subst x)
    | (extract_lets +onlyGivenNames x; clear_value x)
    | split
    | intro _
    | with_reducible refine Keeps.upd ?_ ?_ ?_

theorem execBackgroundTestRotation_keeps (s : State) : KeepsRes s (execBackgroundTestRotation s) := by
  unfold execBackgroundTestRotation
  repeat' first
    | with_reducible assumption
    | exact rfl
    | with_reducible refine KeepsRes.guarded fun x hx => ?_
    | (extract_lets +onlyGivenNames x; have _ : BomState := x; subst x)
    | (extract_lets +onlyGivenNames x; clear_value x)
    | split
    | intro _
    | with_reducible refine Keeps.upd ?_ ?_ ?_

theorem State.overtake_keeps (s : State) (n : Nat) (kept : Keeps s₀ s) : Keeps s₀ (State.overtake s n) := by
  unfold State.overtake
  repeat' first
    | with_reducible assumption
    | with_reducible apply State.wr_keeps
    | with_reducible apply State.raise_keeps
    | split

theorem State.cursorUp_keeps (s : State) (o : Nat) (kept : Keeps s₀ s) : Keeps s₀ (State.cursorUp s o) := by
  unfold State.cursorUp
  repeat' first
    | with_reducible assumption
    | exact rfl
    | with_reducible apply State.wr_keeps
    | (extract_lets +onlyGivenNames x; have _ : BomState := x; subst x)
    | (extract_lets +onlyGivenNames x; clear_value x)
    | split
    | with_reducible refine Keeps.upd ?_ ?_ ?_

theorem State.boomWrite_keeps (s : State) (r : BoomRec) (kept : Keeps s₀ s) : Keeps s₀ (State.boomWrite s r) := by
  unfold State.boomWrite
  repeat' first
    | with_reducible assumption
    | with_reducible apply State.mark_keeps
    | with_reducible apply State.store_keeps
    | with_reducible apply State.wr_keeps
    | with_reducible apply State.overtake_keeps
    | with_reducible apply State.cursorUp_keeps
    | with_reducible refine Keeps.foldl ?_ fun _ _ _ => ?_

/-- A record leaves the front of the Boom queue. -/
theorem Keeps.pop {s : State} {r : BoomRec} {l : List BoomRec} (e : s.bom.queue = r :: l) (h : Keeps s₀ s) :
    Keeps s₀ { s with bom := { s.bom with queue := l } } := by
  refine ⟨fun g => ⟨(h.good g).mem, (h.good g).regs, ?_⟩, h.pending, h.egress⟩
  have := (h.good g).queue
  rw [e] at this
  exact Nat.le_of_succ_le this

theorem execBoomRecordWrite_keeps (s : State) : KeepsRes s (execBoomRecordWrite s) := by
  unfold execBoomRecordWrite
  refine KeepsRes.guarded fun x hx => ?_
  dsimp only
  split
  · exact hx
  · rename_i e
    exact State.boomWrite_keeps _ _ (Keeps.pop e hx)

theorem State.rewound_keeps (s : State) (i code : Nat) (kept : Keeps s₀ s) : Keeps s₀ (State.rewound s i code) := by
  unfold State.rewound
  repeat' first
    | with_reducible assumption
    | with_reducible apply State.wr_keeps
    | with_reducible apply State.resDone_keeps

theorem State.rewind_keeps (s : State) (n : Nat) (kept : Keeps s₀ s) : Keeps s₀ (State.rewind s n) := by
  unfold State.rewind
  repeat' first
    | with_reducible assumption
    | exact rfl
    | with_reducible apply State.resStart_keeps
    | with_reducible apply State.rewound_keeps
    | with_reducible apply State.resDone_keeps
    | (extract_lets +onlyGivenNames x; with_reducible refine Keeps.cut (x := x) ?_ fun _ => ?_; rotate_left; clear_value x; rotate_left; subst x)
    | (extract_lets +onlyGivenNames x; clear_value x)
    | split

theorem State.bomCmd_keeps (s : State) (op n : Nat) (go : Bool) (kept : Keeps s₀ s) : Keeps s₀ (State.bomCmd s op n go) := by
  unfold State.bomCmd
  repeat' first
    | with_reducible assumption
    | exact rfl
    | with_reducible apply State.wr_keeps
    | with_reducible apply State.ack_keeps
    | with_reducible apply State.resStart_keeps
    | with_reducible apply State.boom_keeps
    | with_reducible apply State.resDone_keeps
    | with_reducible apply State.rewind_keeps
    | (extract_lets +onlyGivenNames x; with_reducible refine Keeps.cut (x := x) ?_ fun _ => ?_; rotate_left; clear_value x; rotate_left; subst x)
    | (extract_lets +onlyGivenNames x; clear_value x)
    | split

theorem execMark_keeps (n : Fin 8) (s : State) : KeepsRes s (execMark n s) := by
  unfold execMark
  repeat' first
    | with_reducible assumption
    | with_reducible refine KeepsRes.guarded fun x hx => ?_
    | with_reducible apply State.bomCmd_keeps

theorem execFree_keeps (n : Fin 8) (s : State) : KeepsRes s (execFree n s) := by
  unfold execFree
  repeat' first
    | with_reducible assumption
    | with_reducible refine KeepsRes.guarded fun x hx => ?_
    | with_reducible apply State.bomCmd_keeps

theorem execRewind_keeps (n : Fin 8) (s : State) : KeepsRes s (execRewind n s) := by
  unfold execRewind
  repeat' first
    | with_reducible assumption
    | with_reducible refine KeepsRes.guarded fun x hx => ?_
    | with_reducible apply State.bomCmd_keeps

theorem State.bomFwrec_keeps (s : State) (unit code : Nat) (kept : Keeps s₀ s) : Keeps s₀ (State.bomFwrec s unit code) := by
  unfold State.bomFwrec
  repeat' first
    | with_reducible assumption
    | with_reducible apply State.boom_keeps
    | with_reducible apply State.ack_keeps

theorem execBomFwrec_keeps (unit code : BitVec 16) (s : State) : KeepsRes s (execBomFwrec unit code s) := by
  unfold execBomFwrec
  repeat' first
    | with_reducible assumption
    | with_reducible refine KeepsRes.guarded fun x hx => ?_
    | with_reducible apply State.bomFwrec_keeps

theorem execEventFrameSend_keeps (s : State) : KeepsRes s (execEventFrameSend s) := by
  unfold execEventFrameSend
  repeat' first
    | with_reducible assumption
    | exact rfl
    | with_reducible refine KeepsRes.guarded fun x hx => ?_
    | with_reducible apply State.cursorUp_keeps
    | with_reducible apply State.wr_keeps
    | with_reducible apply State.send_keeps
    | (extract_lets +onlyGivenNames x; with_reducible refine Keeps.cut (x := x) ?_ fun _ => ?_; rotate_left; clear_value x; rotate_left; subst x)
    | (extract_lets +onlyGivenNames x; have _ : BomState := x; subst x)
    | (extract_lets +onlyGivenNames x; clear_value x)
    | split
    | intro _
    | with_reducible refine Keeps.upd ?_ ?_ ?_

theorem State.boomRead_keeps (s : State) (init : Initiator) (off len : Nat) (enabled : Bool) (kept : Keeps s₀ s) : Keeps s₀ (State.boomRead s init off len enabled) := by
  unfold State.boomRead
  repeat' first
    | with_reducible assumption
    | with_reducible apply State.give_keeps
    | with_reducible apply State.refuse_keeps
    | split

end Sys2Proof.Machine
end

