-- ==== Sys2Proof/Laws/KeepsSecurity.lean ====
section
/-! SUPPORT. The operations of Machine/Security.lean keep the canonical forms, the queue and what was sent. -/

namespace Sys2Proof.Machine

variable {s₀ : State}

theorem State.setKeySlot_keeps (s : State) (n : Nat) (k : KeySlot) (kept : Keeps s₀ s) : Keeps s₀ (State.setKeySlot s n k) := by
  unfold State.setKeySlot
  repeat' first
    | with_reducible assumption
    | exact rfl
    | (extract_lets +onlyGivenNames x; clear_value x)
    | with_reducible refine Keeps.upd ?_ ?_ ?_

theorem State.emptySlot_keeps (s : State) (n : Nat) (kept : Keeps s₀ s) : Keeps s₀ (State.emptySlot s n) := by
  unfold State.emptySlot
  repeat' first
    | with_reducible assumption
    | exact rfl
    | with_reducible apply State.wr_keeps
    | with_reducible apply State.wr64_keeps
    | (extract_lets +onlyGivenNames x; clear_value x)
    | with_reducible refine Keeps.upd ?_ ?_ ?_

theorem State.endHostOps_keeps (s : State) (slot : Option Nat) (code : Nat) (kept : Keeps s₀ s) : Keeps s₀ (State.endHostOps s slot code) := by
  unfold State.endHostOps
  repeat' first
    | with_reducible assumption
    | exact rfl
    | with_reducible apply State.resDone_keeps
    | with_reducible apply State.raise_keeps
    | with_reducible apply State.bump_keeps
    | with_reducible refine Keeps.foldl ?_ fun _ _ _ => ?_
    | with_reducible refine Keeps.foldlFst ?_ fun _ _ _ => ?_
    | (extract_lets +onlyGivenNames x; clear_value x)
    | intro _
    | with_reducible refine Keeps.upd ?_ ?_ ?_

theorem State.zeroSlot_keeps (s : State) (n : Nat) (kept : Keeps s₀ s) : Keeps s₀ (State.zeroSlot s n) := by
  unfold State.zeroSlot
  repeat' first
    | with_reducible assumption
    | with_reducible apply State.emptySlot_keeps
    | with_reducible apply State.endHostOps_keeps
    | with_reducible apply State.discardHeld_keeps

theorem State.zeroSlots_keeps (s : State) (kept : Keeps s₀ s) : Keeps s₀ (State.zeroSlots s) := by
  unfold State.zeroSlots
  repeat' first
    | with_reducible assumption
    | with_reducible apply State.zeroSlot_keeps
    | with_reducible refine Keeps.foldl ?_ fun _ _ _ => ?_

theorem State.zeroAll_keeps (s : State) (kept : Keeps s₀ s) : Keeps s₀ (State.zeroAll s) := by
  unfold State.zeroAll
  repeat' first
    | with_reducible assumption
    | with_reducible apply State.zeroSlots_keeps
    | with_reducible apply State.raise_keeps
    | with_reducible apply State.mark_keeps

theorem State.zeroStage_keeps (s : State) (kept : Keeps s₀ s) : Keeps s₀ (State.zeroStage s) := by
  unfold State.zeroStage
  repeat' first
    | with_reducible assumption
    | with_reducible apply State.wr_keeps
    | with_reducible refine Keeps.foldl ?_ fun _ _ _ => ?_

theorem State.stageWrite_keeps (s : State) (n data : Nat) (kept : Keeps s₀ s) : Keeps s₀ (State.stageWrite s n data) := by
  unfold State.stageWrite
  repeat' first
    | with_reducible assumption
    | with_reducible apply State.wr_keeps
    | with_reducible apply State.ack_keeps

theorem execKeyStageWrite_keeps (word : Fin 64) (data : Word) (s : State) : KeepsRes s (execKeyStageWrite word data s) := by
  unfold execKeyStageWrite
  repeat' first
    | with_reducible assumption
    | with_reducible refine KeepsRes.guarded fun x hx => ?_
    | with_reducible apply State.stageWrite_keeps

theorem State.flashErase_keeps (s : State) (off n : Nat) (h : Keeps s₀ s) : Keeps s₀ (State.flashErase s off n) :=
  State.memFilter_keeps _ h

theorem State.storeBlob_keeps (s : State) (r : Nat) (b : List Nat) (kept : Keeps s₀ s) : Keeps s₀ (State.storeBlob s r b) := by
  unfold State.storeBlob
  repeat' first
    | with_reducible assumption
    | exact rfl
    | with_reducible apply State.flashErase_keeps
    | with_reducible apply State.store_keeps

theorem State.loadBlob_keeps (s : State) (slot record : Nat) (b : List Nat) (kept : Keeps s₀ s) : Keeps s₀ (State.loadBlob s slot record b).1 := by
  unfold State.loadBlob
  repeat' first
    | with_reducible assumption
    | exact rfl
    | with_reducible apply State.setKeySlot_keeps
    | with_reducible apply State.raise_keeps
    | with_reducible apply State.wr_keeps
    | with_reducible apply State.wr64_keeps
    | split

theorem State.loadKey_keeps (s : State) (slot : Nat) (record : Option Nat) (kept : Keeps s₀ s) : Keeps s₀ (State.loadKey s slot record).1 := by
  unfold State.loadKey
  repeat' first
    | with_reducible assumption
    | exact rfl
    | with_reducible refine Keeps.fst (by with_reducible assumption) ?_
    | with_reducible apply State.loadBlob_keeps
    | split

theorem State.storeKey_keeps (s : State) (record : Nat) (kept : Keeps s₀ s) : Keeps s₀ (State.storeKey s record).1 := by
  unfold State.storeKey
  repeat' first
    | with_reducible assumption
    | exact rfl
    | with_reducible apply State.storeBlob_keeps
    | (extract_lets +onlyGivenNames x; clear_value x)
    | split

theorem State.sealKey_keeps (s : State) (record : Nat) (kept : Keeps s₀ s) : Keeps s₀ (State.sealKey s record).1 := by
  unfold State.sealKey
  repeat' first
    | with_reducible assumption
    | with_reducible apply State.storeBlob_keeps
    | with_reducible apply State.zeroStage_keeps
    | (extract_lets +onlyGivenNames x; clear_value x)
    | split

theorem State.renewNonce_keeps (s : State) (kept : Keeps s₀ s) : Keeps s₀ (State.renewNonce s) := by
  unfold State.renewNonce
  repeat' first
    | with_reducible assumption
    | with_reducible apply State.wr_keeps
    | with_reducible apply State.draw_keeps
    | with_reducible refine Keeps.foldl ?_ fun _ _ _ => ?_

theorem State.drawSalts_keeps (s : State) (kept : Keeps s₀ s) : Keeps s₀ (State.drawSalts s) := by
  unfold State.drawSalts
  repeat' first
    | with_reducible assumption
    | exact rfl
    | with_reducible apply State.draw_keeps
    | with_reducible refine Keeps.foldl ?_ fun _ _ _ => ?_
    | (extract_lets +onlyGivenNames x; clear_value x)
    | intro _
    | with_reducible refine Keeps.upd ?_ ?_ ?_

theorem State.enterLc_keeps (s : State) (nxt : Nat) (kept : Keeps s₀ s) : Keeps s₀ (State.enterLc s nxt) := by
  unfold State.enterLc
  repeat' first
    | with_reducible assumption
    | with_reducible apply State.drawSalts_keeps
    | with_reducible apply State.wr_keeps
    | with_reducible apply State.zeroSlots_keeps
    | (extract_lets +onlyGivenNames x; with_reducible refine Keeps.cut (x := x) ?_ fun _ => ?_; rotate_left; clear_value x; rotate_left; subst x)
    | split

theorem State.lcRecord_keeps (s : State) (b : List Nat) (kept : Keeps s₀ s) : Keeps s₀ (State.lcRecord s b).1 := by
  unfold State.lcRecord
  repeat' first
    | with_reducible assumption
    | with_reducible apply State.ack_keeps
    | with_reducible apply State.wr_keeps
    | with_reducible apply State.raise_keeps
    | with_reducible apply State.enterLc_keeps
    | (extract_lets +onlyGivenNames x; with_reducible refine Keeps.cut (x := x) ?_ fun _ => ?_; rotate_left; clear_value x; rotate_left; subst x)
    | (extract_lets +onlyGivenNames x; clear_value x)
    | split

theorem State.lcOp_keeps (s : State) (b : List Nat) (kept : Keeps s₀ s) : Keeps s₀ (State.lcOp s b).1 := by
  unfold State.lcOp
  repeat' first
    | with_reducible assumption
    | with_reducible refine Keeps.fst (by with_reducible assumption) ?_
    | with_reducible apply State.lcRecord_keeps
    | with_reducible apply State.renewNonce_keeps
    | with_reducible apply State.zeroStage_keeps

theorem State.keyCmd_keeps (s : State) (init : Initiator) (op record slot : Nat) (go : Bool) (kept : Keeps s₀ s) : Keeps s₀ (State.keyCmd s init op record slot go) := by
  unfold State.keyCmd
  repeat' first
    | with_reducible assumption
    | exact rfl
    | with_reducible apply State.wr_keeps
    | with_reducible apply State.ack_keeps
    | with_reducible apply State.capture_keeps
    | with_reducible apply State.resStart_keeps
    | (extract_lets +onlyGivenNames x; with_reducible refine Keeps.cut (x := x) ?_ fun _ => ?_; rotate_left; clear_value x; rotate_left; subst x)
    | (extract_lets +onlyGivenNames x; clear_value x)
    | split
    | with_reducible refine Keeps.upd ?_ ?_ ?_

theorem execLoadFlash_keeps (init : Initiator) (slot record : Fin 256) (s : State) : KeepsRes s (execLoadFlash init slot record s) := by
  unfold execLoadFlash
  repeat' first
    | with_reducible assumption
    | with_reducible refine KeepsRes.guarded fun x hx => ?_
    | with_reducible apply State.keyCmd_keeps

theorem execLoadStage_keeps (init : Initiator) (slot : Fin 256) (s : State) : KeepsRes s (execLoadStage init slot s) := by
  unfold execLoadStage
  repeat' first
    | with_reducible assumption
    | with_reducible refine KeepsRes.guarded fun x hx => ?_
    | with_reducible apply State.keyCmd_keeps

theorem execStore_keeps (init : Initiator) (record : Fin 256) (s : State) : KeepsRes s (execStore init record s) := by
  unfold execStore
  repeat' first
    | with_reducible assumption
    | with_reducible refine KeepsRes.guarded fun x hx => ?_
    | with_reducible apply State.keyCmd_keeps

theorem execSeal_keeps (init : Initiator) (record : Fin 256) (s : State) : KeepsRes s (execSeal init record s) := by
  unfold execSeal
  repeat' first
    | with_reducible assumption
    | with_reducible refine KeepsRes.guarded fun x hx => ?_
    | with_reducible apply State.keyCmd_keeps

theorem execZero_keeps (init : Initiator) (slot : Fin 256) (s : State) : KeepsRes s (execZero init slot s) := by
  unfold execZero
  repeat' first
    | with_reducible assumption
    | with_reducible refine KeepsRes.guarded fun x hx => ?_
    | with_reducible apply State.keyCmd_keeps

theorem execZeroAll_keeps (init : Initiator) (s : State) : KeepsRes s (execZeroAll init s) := by
  unfold execZeroAll
  repeat' first
    | with_reducible assumption
    | with_reducible refine KeepsRes.guarded fun x hx => ?_
    | with_reducible apply State.keyCmd_keeps

theorem execLc_keeps (init : Initiator) (s : State) : KeepsRes s (execLc init s) := by
  unfold execLc
  repeat' first
    | with_reducible assumption
    | with_reducible refine KeepsRes.guarded fun x hx => ?_
    | with_reducible apply State.keyCmd_keeps

theorem State.keyPerform_keeps (s : State) (r : KeyRun) (kept : Keeps s₀ s) : Keeps s₀ (State.keyPerform s r).1 := by
  unfold State.keyPerform
  repeat' first
    | with_reducible assumption
    | exact rfl
    | with_reducible refine Keeps.fst (by with_reducible assumption) ?_
    | with_reducible apply State.loadKey_keeps
    | with_reducible apply State.storeKey_keeps
    | with_reducible apply State.sealKey_keeps
    | with_reducible apply State.zeroSlot_keeps
    | with_reducible apply State.zeroAll_keeps
    | with_reducible apply State.lcOp_keeps
    | split

theorem execKeyCmdComplete_keeps (bank : Fin 3) (s : State) : KeepsRes s (execKeyCmdComplete bank s) := by
  unfold execKeyCmdComplete
  repeat' first
    | with_reducible assumption
    | exact rfl
    | with_reducible refine Keeps.fst (by with_reducible assumption) ?_
    | with_reducible refine KeepsRes.guarded fun x hx => ?_
    | with_reducible apply State.keyPerform_keeps
    | with_reducible apply State.resDone_keeps
    | with_reducible apply State.raise_keeps
    | (extract_lets +onlyGivenNames x; with_reducible refine Keeps.cut (x := x) ?_ fun _ => ?_; rotate_left; clear_value x; rotate_left; subst x)
    | (extract_lets +onlyGivenNames x; clear_value x)
    | split
    | intro _
    | with_reducible refine Keeps.upd ?_ ?_ ?_

theorem State.rekeyReq_keeps (s : State) (reason : Nat) (kept : Keeps s₀ s) : Keeps s₀ (State.rekeyReq s reason) := by
  unfold State.rekeyReq
  repeat' first
    | with_reducible assumption
    | with_reducible apply State.toHead_keeps

theorem State.useKey_keeps (s : State) (n : Nat) (b : Option Nat) (kept : Keeps s₀ s) : Keeps s₀ (State.useKey s n b).1 := by
  unfold State.useKey
  repeat' first
    | with_reducible assumption
    | with_reducible apply State.raise_keeps
    | with_reducible apply State.rekeyReq_keeps
    | with_reducible apply State.setKeySlot_keeps
    | (extract_lets +onlyGivenNames x; with_reducible refine Keeps.cut (x := x) ?_ fun _ => ?_; rotate_left; clear_value x; rotate_left; subst x)
    | (extract_lets +onlyGivenNames x; clear_value x)
    | split

theorem State.emptyBank_keeps (s : State) (n b : Nat) (kept : Keeps s₀ s) : Keeps s₀ (State.emptyBank s n b) := by
  unfold State.emptyBank
  repeat' first
    | with_reducible assumption
    | exact rfl
    | with_reducible apply State.wr_keeps
    | with_reducible apply State.setKeySlot_keeps
    | (extract_lets +onlyGivenNames x; clear_value x)
    | split

theorem State.deriveOne_keeps (s : State) (e ring n : Nat) (kept : Keeps s₀ s) : Keeps s₀ (State.deriveOne s e ring n) := by
  unfold State.deriveOne
  repeat' first
    | with_reducible assumption
    | exact rfl
    | with_reducible refine Keeps.fst (by with_reducible assumption) ?_
    | with_reducible apply State.emptyBank_keeps
    | with_reducible apply State.useKey_keeps
    | with_reducible apply State.raise_keeps
    | with_reducible apply State.wr_keeps
    | with_reducible apply State.setKeySlot_keeps
    | (extract_lets +onlyGivenNames x; with_reducible refine Keeps.cut (x := x) ?_ fun _ => ?_; rotate_left; clear_value x; rotate_left; subst x)
    | (extract_lets +onlyGivenNames x; clear_value x)
    | split

theorem State.deriveEpoch_keeps (s : State) (e ring : Nat) (kept : Keeps s₀ s) : Keeps s₀ (State.deriveEpoch s e ring) := by
  unfold State.deriveEpoch
  repeat' first
    | with_reducible assumption
    | exact rfl
    | with_reducible apply State.deriveOne_keeps
    | with_reducible refine Keeps.foldl ?_ fun _ _ _ => ?_
    | (extract_lets +onlyGivenNames x; with_reducible refine Keeps.cut (x := x) ?_ fun _ => ?_; rotate_left; clear_value x; rotate_left; subst x)
    | (extract_lets +onlyGivenNames x; clear_value x)
    | intro _
    | with_reducible refine Keeps.upd ?_ ?_ ?_

theorem execEpochKeysDerived_keeps (s : State) : KeepsRes s (execEpochKeysDerived s) := by
  unfold execEpochKeysDerived
  repeat' first
    | with_reducible assumption
    | exact rfl
    | with_reducible refine KeepsRes.guarded fun x hx => ?_
    | with_reducible apply State.raise_keeps
    | with_reducible apply State.toHead_keeps
    | (extract_lets +onlyGivenNames x; with_reducible refine Keeps.cut (x := x) ?_ fun _ => ?_; rotate_left; clear_value x; rotate_left; subst x)
    | (extract_lets +onlyGivenNames x; clear_value x)
    | split
    | intro _
    | with_reducible refine Keeps.upd ?_ ?_ ?_

theorem State.zeroOldBanks_keeps (s : State) (kept : Keeps s₀ s) : Keeps s₀ (State.zeroOldBanks s) := by
  unfold State.zeroOldBanks
  repeat' first
    | with_reducible assumption
    | with_reducible apply State.emptyBank_keeps
    | with_reducible refine Keeps.foldl ?_ fun _ _ _ => ?_
    | (extract_lets +onlyGivenNames x; with_reducible refine Keeps.cut (x := x) ?_ fun _ => ?_; rotate_left; clear_value x; rotate_left; subst x)
    | split

theorem execOldKeyZeroise_keeps (s : State) : KeepsRes s (execOldKeyZeroise s) := by
  unfold execOldKeyZeroise
  repeat' first
    | with_reducible assumption
    | exact rfl
    | with_reducible refine KeepsRes.guarded fun x hx => ?_
    | with_reducible apply State.zeroOldBanks_keeps
    | (extract_lets +onlyGivenNames x; with_reducible refine Keeps.cut (x := x) ?_ fun _ => ?_; rotate_left; clear_value x; rotate_left; subst x)
    | (extract_lets +onlyGivenNames x; clear_value x)
    | split
    | intro _
    | with_reducible refine Keeps.upd ?_ ?_ ?_

theorem State.jobTaken_keeps (s : State) (b : BufFrame) (kept : Keeps s₀ s) : Keeps s₀ (State.jobTaken s b) := by
  unfold State.jobTaken
  repeat' first
    | with_reducible assumption
    | exact rfl
    | (extract_lets +onlyGivenNames x; clear_value x)
    | split
    | intro _
    | with_reducible refine Keeps.upd ?_ ?_ ?_

theorem State.holdFrame_keeps (s : State) (b : BufFrame) (kept : Keeps s₀ s) : Keeps s₀ (State.holdFrame s b) := by
  unfold State.holdFrame
  repeat' first
    | with_reducible assumption
    | exact rfl
    | with_reducible apply State.raise_keeps
    | with_reducible apply State.bump_keeps
    | (extract_lets +onlyGivenNames x; with_reducible refine Keeps.cut (x := x) ?_ fun _ => ?_; rotate_left; clear_value x; rotate_left; subst x)
    | (extract_lets +onlyGivenNames x; clear_value x)
    | split
    | intro _
    | with_reducible refine Keeps.upd ?_ ?_ ?_

theorem State.encryptJob_keeps (s : State) (b : BufFrame) (kept : Keeps s₀ s) : Keeps s₀ (State.encryptJob s b) := by
  unfold State.encryptJob
  repeat' first
    | with_reducible assumption
    | exact rfl
    | with_reducible refine Keeps.fst (by with_reducible assumption) ?_
    | with_reducible apply State.jobTaken_keeps
    | with_reducible apply State.bump_keeps
    | with_reducible apply State.raise_keeps
    | with_reducible apply State.report_keeps
    | with_reducible apply State.holdFrame_keeps
    | with_reducible apply State.useKey_keeps
    | with_reducible apply State.unreachable_keeps
    | with_reducible apply State.arrive_keeps
    | (extract_lets +onlyGivenNames x; with_reducible refine Keeps.cut (x := x) ?_ fun _ => ?_; rotate_left; clear_value x; rotate_left; subst x)
    | (extract_lets +onlyGivenNames x; clear_value x)
    | split

theorem State.authFail_keeps (s : State) (f : Frame) (kept : Keeps s₀ s) : Keeps s₀ (State.authFail s f) := by
  unfold State.authFail
  repeat' first
    | with_reducible assumption
    | with_reducible apply State.bump_keeps
    | with_reducible apply State.raise_keeps
    | with_reducible apply State.wr_keeps
    | with_reducible apply State.boomLimited_keeps

theorem State.decryptJob_keeps (s : State) (b : BufFrame) (kept : Keeps s₀ s) : Keeps s₀ (State.decryptJob s b) := by
  unfold State.decryptJob
  repeat' first
    | with_reducible assumption
    | exact rfl
    | with_reducible refine Keeps.fst (by with_reducible assumption) ?_
    | with_reducible apply State.jobTaken_keeps
    | with_reducible apply State.violation_keeps
    | with_reducible apply State.sendNak_keeps
    | with_reducible apply State.holdFrame_keeps
    | with_reducible apply State.useKey_keeps
    | with_reducible apply State.authFail_keeps
    | with_reducible apply State.arrive_keeps
    | with_reducible apply State.emit_keeps
    | with_reducible apply State.deliver_keeps
    | (extract_lets +onlyGivenNames x; with_reducible refine Keeps.cut (x := x) ?_ fun _ => ?_; rotate_left; clear_value x; rotate_left; subst x)
    | (extract_lets +onlyGivenNames x; clear_value x)
    | split

theorem execGcmFrameJob_keeps (s : State) : KeepsRes s (execGcmFrameJob s) := by
  unfold execGcmFrameJob
  repeat' first
    | with_reducible assumption
    | exact rfl
    | with_reducible refine KeepsRes.guarded fun x hx => ?_
    | with_reducible exact Keeps.refl _
    | with_reducible refine KeepsRes.next ?_
    | with_reducible apply State.jobTaken_keeps
    | with_reducible apply State.report_keeps
    | with_reducible apply State.encryptJob_keeps
    | with_reducible apply State.decryptJob_keeps
    | (extract_lets +onlyGivenNames x; clear_value x)
    | split

theorem execKeyLimitHold_keeps (slot : Fin 256) (s : State) : KeepsRes s (execKeyLimitHold slot s) := by
  unfold execKeyLimitHold
  repeat' first
    | with_reducible assumption
    | exact rfl
    | with_reducible refine KeepsRes.guarded fun x hx => ?_
    | with_reducible apply State.holdFrame_keeps
    | (extract_lets +onlyGivenNames x; clear_value x)
    | split

theorem State.cphOp_keeps (s : State) (init : Initiator) (op slot : Nat) (go : Bool) (kept : Keeps s₀ s) : Keeps s₀ (State.cphOp s init op slot go) := by
  unfold State.cphOp
  repeat' first
    | with_reducible assumption
    | exact rfl
    | with_reducible apply State.wr_keeps
    | with_reducible apply State.ack_keeps
    | with_reducible apply State.capture_keeps
    | with_reducible apply State.resStart_keeps
    | (extract_lets +onlyGivenNames x; with_reducible refine Keeps.cut (x := x) ?_ fun _ => ?_; rotate_left; clear_value x; rotate_left; subst x)
    | (extract_lets +onlyGivenNames x; clear_value x)
    | split
    | intro _
    | with_reducible refine Keeps.upd ?_ ?_ ?_

theorem execEnc_keeps (init : Initiator) (slot : Fin 256) (s : State) : KeepsRes s (execEnc init slot s) := by
  unfold execEnc
  repeat' first
    | with_reducible assumption
    | with_reducible refine KeepsRes.guarded fun x hx => ?_
    | with_reducible apply State.cphOp_keeps

theorem execDec_keeps (init : Initiator) (slot : Fin 256) (s : State) : KeepsRes s (execDec init slot s) := by
  unfold execDec
  repeat' first
    | with_reducible assumption
    | with_reducible refine KeepsRes.guarded fun x hx => ?_
    | with_reducible apply State.cphOp_keeps

theorem State.wrBytes_keeps (s : State) (f : Nat → Fld) (bs : List Nat) (kept : Keeps s₀ s) : Keeps s₀ (State.wrBytes s f bs) := by
  unfold State.wrBytes
  repeat' first
    | with_reducible assumption
    | with_reducible apply State.wr_keeps
    | with_reducible refine Keeps.foldl ?_ fun _ _ _ => ?_

theorem State.hostPerform_keeps (s : State) (k : Nat) (o : HostOp) (kept : Keeps s₀ s) : Keeps s₀ (State.hostPerform s k o).1 := by
  unfold State.hostPerform
  repeat' first
    | with_reducible assumption
    | exact rfl
    | with_reducible refine Keeps.fst (by with_reducible assumption) ?_
    | with_reducible apply State.useKey_keeps
    | with_reducible apply State.store_keeps
    | with_reducible apply State.wrBytes_keeps
    | with_reducible apply State.bump_keeps
    | with_reducible apply State.raise_keeps
    | (extract_lets +onlyGivenNames x; clear_value x)
    | split

theorem execCphOpComplete_keeps (bank : Fin 3) (s : State) : KeepsRes s (execCphOpComplete bank s) := by
  unfold execCphOpComplete
  repeat' first
    | with_reducible assumption
    | exact rfl
    | with_reducible refine Keeps.fst (by with_reducible assumption) ?_
    | with_reducible refine KeepsRes.guarded fun x hx => ?_
    | with_reducible apply State.hostPerform_keeps
    | with_reducible apply State.resDone_keeps
    | with_reducible apply State.raise_keeps
    | with_reducible apply State.bump_keeps
    | (extract_lets +onlyGivenNames x; with_reducible refine Keeps.cut (x := x) ?_ fun _ => ?_; rotate_left; clear_value x; rotate_left; subst x)
    | (extract_lets +onlyGivenNames x; clear_value x)
    | split
    | intro _
    | with_reducible refine Keeps.upd ?_ ?_ ?_

theorem State.tamperKeys_keeps (s : State) (kept : Keeps s₀ s) : Keeps s₀ (State.tamperKeys s) := by
  unfold State.tamperKeys
  repeat' first
    | with_reducible assumption
    | exact rfl
    | with_reducible apply State.endHostOps_keeps
    | with_reducible apply State.resDone_keeps
    | with_reducible apply State.raise_keeps
    | with_reducible apply State.zeroAll_keeps
    | with_reducible apply State.wr_keeps
    | with_reducible apply State.discardHeld_keeps
    | with_reducible refine Keeps.foldl ?_ fun _ _ _ => ?_
    | with_reducible refine Keeps.foldlFst ?_ fun _ _ _ => ?_
    | (extract_lets +onlyGivenNames x; clear_value x)
    | intro _
    | with_reducible refine Keeps.upd ?_ ?_ ?_

theorem State.tamperLog_keeps (s : State) (k : Nat) (kept : Keeps s₀ s) : Keeps s₀ (State.tamperLog s k) := by
  unfold State.tamperLog
  repeat' first
    | with_reducible assumption
    | with_reducible apply State.raise_keeps
    | with_reducible apply State.wr_keeps
    | with_reducible apply State.wr96_keeps
    | with_reducible apply State.bump_keeps
    | (extract_lets +onlyGivenNames x; clear_value x)
    | split

theorem State.tsafeClr_keeps (s : State) (kept : Keeps s₀ s) : Keeps s₀ (State.tsafeClr s) := by
  unfold State.tsafeClr
  repeat' first
    | with_reducible assumption
    | with_reducible apply State.ack_keeps
    | with_reducible apply State.wr_keeps
    | with_reducible apply State.raise_keeps
    | (extract_lets +onlyGivenNames x; with_reducible refine Keeps.cut (x := x) ?_ fun _ => ?_; rotate_left; clear_value x; rotate_left; subst x)
    | split

theorem execTsafeClr_keeps (s : State) : KeepsRes s (execTsafeClr s) := by
  unfold execTsafeClr
  repeat' first
    | with_reducible assumption
    | with_reducible refine KeepsRes.guarded fun x hx => ?_
    | with_reducible apply State.tsafeClr_keeps

theorem State.tamperEnable_keeps (s : State) (init : Initiator) (en : Nat) (kept : Keeps s₀ s) : Keeps s₀ (State.tamperEnable s init en) := by
  unfold State.tamperEnable
  repeat' first
    | with_reducible assumption
    | with_reducible apply State.wr_keeps
    | with_reducible apply State.ack_keeps
    | with_reducible apply State.refuseReg_keeps
    | split

theorem execTamperEnableWrite_keeps (init : Initiator) (en : BitVec 8) (s : State) : KeepsRes s (execTamperEnableWrite init en s) := by
  unfold execTamperEnableWrite
  repeat' first
    | with_reducible assumption
    | with_reducible refine KeepsRes.guarded fun x hx => ?_
    | with_reducible apply State.tamperEnable_keeps

end Sys2Proof.Machine
end

