-- ==== Sys2Proof/Laws/KeepsRing.lean ====
section
/-! SUPPORT. The operations of Machine/Ring.lean keep the canonical forms, the queue and what was sent. -/

namespace Sys2Proof.Machine

variable {s₀ : State}

theorem State.enterQuarantine_keeps (s : State) (kept : Keeps s₀ s) : Keeps s₀ (State.enterQuarantine s) := by
  unfold State.enterQuarantine
  repeat' first
    | with_reducible assumption
    | exact rfl
    | with_reducible apply State.setLine_keeps
    | with_reducible apply State.raise_keeps
    | with_reducible apply State.discardHeld_keeps
    | with_reducible refine Keeps.foldl ?_ fun _ _ _ => ?_
    | (extract_lets +onlyGivenNames x; with_reducible refine Keeps.cut (x := x) ?_ fun _ => ?_; rotate_left; clear_value x; rotate_left; subst x)
    | (extract_lets +onlyGivenNames x; clear_value x)
    | split

theorem State.stale_keeps (s : State) (kept : Keeps s₀ s) : Keeps s₀ (State.stale s) := by
  unfold State.stale
  repeat' first
    | with_reducible assumption
    | exact rfl
    | with_reducible apply State.wr_keeps
    | with_reducible apply State.enterQuarantine_keeps
    | (extract_lets +onlyGivenNames x; with_reducible refine Keeps.cut (x := x) ?_ fun _ => ?_; rotate_left; clear_value x; rotate_left; subst x)
    | (extract_lets +onlyGivenNames x; clear_value x)
    | with_reducible refine Keeps.upd ?_ ?_ ?_

theorem State.leaveQuarantine_keeps (s : State) (kept : Keeps s₀ s) : Keeps s₀ (State.leaveQuarantine s) := by
  unfold State.leaveQuarantine
  repeat' first
    | with_reducible assumption
    | with_reducible apply State.wr_keeps
    | with_reducible apply State.raise_keeps
    | split

theorem State.linkFrame_keeps (s : State) (p : Nat) (kept : Keeps s₀ s) : Keeps s₀ (State.linkFrame s p) := by
  unfold State.linkFrame
  repeat' first
    | with_reducible assumption
    | exact rfl
    | with_reducible apply State.setMac_keeps
    | with_reducible apply State.hopFrame_keeps

theorem State.stitchChanged_keeps (s : State) (p : Nat) (kept : Keeps s₀ s) : Keeps s₀ (State.stitchChanged s p) := by
  unfold State.stitchChanged
  repeat' first
    | with_reducible assumption
    | with_reducible apply State.raise_keeps
    | split

theorem execBlockLock_keeps (port : Fin 8) (s : State) : KeepsRes s (execBlockLock port s) := by
  unfold execBlockLock
  repeat' first
    | with_reducible assumption
    | with_reducible refine KeepsRes.guarded fun x hx => ?_
    | with_reducible apply State.raise_keeps
    | with_reducible apply State.wr_keeps
    | with_reducible apply State.setMac_keeps
    | with_reducible apply State.stitchChanged_keeps
    | (extract_lets +onlyGivenNames x; with_reducible refine Keeps.cut (x := x) ?_ fun _ => ?_; rotate_left; clear_value x; rotate_left; subst x)
    | (extract_lets +onlyGivenNames x; clear_value x)
    | split

theorem State.linkRpt_keeps (s : State) (p state : Nat) (kept : Keeps s₀ s) : Keeps s₀ (State.linkRpt s p state) := by
  unfold State.linkRpt
  repeat' first
    | with_reducible assumption
    | with_reducible apply State.toHead_keeps

theorem State.portToUp_keeps (s : State) (p : Nat) (kept : Keeps s₀ s) : Keeps s₀ (State.portToUp s p) := by
  unfold State.portToUp
  repeat' first
    | with_reducible assumption
    | with_reducible apply State.wr_keeps
    | with_reducible apply State.raise_keeps
    | with_reducible apply State.wrapChanged_keeps
    | with_reducible apply State.stitchChanged_keeps
    | (extract_lets +onlyGivenNames x; with_reducible refine Keeps.cut (x := x) ?_ fun _ => ?_; rotate_left; clear_value x; rotate_left; subst x)
    | split

theorem execSettleExpiry_keeps (port : Fin 8) (s : State) : KeepsRes s (execSettleExpiry port s) := by
  unfold execSettleExpiry
  repeat' first
    | with_reducible assumption
    | with_reducible refine KeepsRes.guarded fun x hx => ?_
    | with_reducible apply State.wr_keeps
    | with_reducible apply State.linkRpt_keeps
    | with_reducible apply State.portToUp_keeps
    | (extract_lets +onlyGivenNames x; clear_value x)
    | split

theorem State.divert_keeps (s : State) (p new : Nat) (kept : Keeps s₀ s) : Keeps s₀ (State.divert s p new) := by
  unfold State.divert
  repeat' first
    | with_reducible assumption
    | exact rfl
    | with_reducible apply State.setMac_keeps
    | with_reducible apply State.keepForReplay_keeps
    | with_reducible apply State.emit_keeps
    | with_reducible refine Keeps.foldl ?_ fun _ _ _ => ?_
    | (extract_lets +onlyGivenNames x; with_reducible refine Keeps.cut (x := x) ?_ fun _ => ?_; rotate_left; clear_value x; rotate_left; subst x)
    | (extract_lets +onlyGivenNames x; clear_value x)
    | split
    | intro _
    | with_reducible refine Keeps.upd ?_ ?_ ?_

theorem State.resign_keeps (s : State) (kept : Keeps s₀ s) : Keeps s₀ (State.resign s) := by
  unfold State.resign
  repeat' first
    | with_reducible assumption
    | exact rfl
    | with_reducible apply State.wr_keeps
    | with_reducible apply State.raise_keeps
    | (extract_lets +onlyGivenNames x; with_reducible refine Keeps.cut (x := x) ?_ fun _ => ?_; rotate_left; clear_value x; rotate_left; subst x)
    | (extract_lets +onlyGivenNames x; clear_value x)
    | split
    | with_reducible refine Keeps.upd ?_ ?_ ?_

theorem State.afterDown_keeps (s : State) (p : Nat) (kept : Keeps s₀ s) : Keeps s₀ (State.afterDown s p) := by
  unfold State.afterDown
  repeat' first
    | with_reducible assumption
    | with_reducible apply State.raise_keeps
    | with_reducible apply State.wrapChanged_keeps
    | with_reducible apply State.divert_keeps
    | with_reducible apply State.requeue_keeps
    | with_reducible apply State.linkRpt_keeps
    | with_reducible apply State.resign_keeps
    | with_reducible apply State.enterQuarantine_keeps
    | (extract_lets +onlyGivenNames x; with_reducible refine Keeps.cut (x := x) ?_ fun _ => ?_; rotate_left; clear_value x; rotate_left; subst x)
    | split

theorem State.ackedAhead_keeps (s : State) (p : Nat) (kept : Keeps s₀ s) : Keeps s₀ (State.ackedAhead s p) := by
  unfold State.ackedAhead
  repeat' first
    | with_reducible assumption
    | exact rfl
    | with_reducible apply State.setMac_keeps
    | with_reducible apply State.ack_keeps
    | with_reducible refine Keeps.foldl ?_ fun _ _ _ => ?_
    | (extract_lets +onlyGivenNames x; clear_value x)
    | split

theorem State.portFails_keeps (s : State) (p : Nat) (cause : LinkCause) (kept : Keeps s₀ s) : Keeps s₀ (State.portFails s p cause) := by
  unfold State.portFails
  repeat' first
    | with_reducible assumption
    | exact rfl
    | with_reducible apply State.raise_keeps
    | with_reducible apply State.wr_keeps
    | with_reducible apply State.stitchChanged_keeps
    | with_reducible apply State.ackedAhead_keeps
    | with_reducible apply State.afterDown_keeps
    | (extract_lets +onlyGivenNames x; with_reducible refine Keeps.cut (x := x) ?_ fun _ => ?_; rotate_left; clear_value x; rotate_left; subst x)
    | (extract_lets +onlyGivenNames x; clear_value x)
    | split

theorem execPortDown_keeps (port : Fin 8) (cause : LinkCause) (s : State) : KeepsRes s (execPortDown port cause s) := by
  unfold execPortDown
  repeat' first
    | with_reducible assumption
    | with_reducible refine KeepsRes.guarded fun x hx => ?_
    | with_reducible apply State.portFails_keeps

theorem execHeartbeatSend_keeps (port : Fin 7) (s : State) : KeepsRes s (execHeartbeatSend port s) := by
  unfold execHeartbeatSend
  repeat' first
    | with_reducible assumption
    | with_reducible refine KeepsRes.guarded fun x hx => ?_
    | with_reducible apply State.linkFrame_keeps
    | split

theorem execAckSend_keeps (port : Fin 7) (s : State) : KeepsRes s (execAckSend port s) := by
  unfold execAckSend
  repeat' first
    | with_reducible assumption
    | with_reducible refine KeepsRes.guarded fun x hx => ?_
    | with_reducible apply State.linkFrame_keeps
    | split

theorem execAckTimeout_keeps (port : Fin 7) (s : State) : KeepsRes s (execAckTimeout port s) := by
  unfold execAckTimeout
  repeat' first
    | with_reducible assumption
    | with_reducible refine KeepsRes.guarded fun x hx => ?_
    | with_reducible apply State.portFails_keeps
    | split

theorem execDrainExpiry_keeps (port : Fin 4) (s : State) : KeepsRes s (execDrainExpiry port s) := by
  unfold execDrainExpiry
  repeat' first
    | with_reducible assumption
    | exact rfl
    | with_reducible refine KeepsRes.guarded fun x hx => ?_
    | with_reducible apply State.setMac_keeps

theorem State.goBack_keeps (s : State) (p n : Nat) (kept : Keeps s₀ s) : Keeps s₀ (State.goBack s p n) := by
  unfold State.goBack
  repeat' first
    | with_reducible assumption
    | with_reducible apply State.emit_keeps
    | with_reducible apply State.bump_keeps
    | with_reducible refine Keeps.foldl ?_ fun _ _ _ => ?_

theorem State.hopNaked_keeps (s : State) (p n : Nat) (kept : Keeps s₀ s) : Keeps s₀ (State.hopNaked s p n) := by
  unfold State.hopNaked
  repeat' first
    | with_reducible assumption
    | exact rfl
    | with_reducible apply State.setMac_keeps
    | with_reducible apply State.portFails_keeps
    | with_reducible apply State.goBack_keeps
    | (extract_lets +onlyGivenNames x; with_reducible refine Keeps.cut (x := x) ?_ fun _ => ?_; rotate_left; clear_value x; rotate_left; subst x)
    | (extract_lets +onlyGivenNames x; clear_value x)
    | split

theorem State.linkReceived_keeps (s : State) (p : Nat) (i : LinkInfo) (kept : Keeps s₀ s) : Keeps s₀ (State.linkReceived s p i) := by
  unfold State.linkReceived
  repeat' first
    | with_reducible assumption
    | exact rfl
    | with_reducible apply State.raise_keeps
    | with_reducible apply State.setMac_keeps
    | with_reducible apply State.ack_keeps
    | with_reducible apply State.enterQuarantine_keeps
    | with_reducible apply State.hopNaked_keeps
    | (extract_lets +onlyGivenNames x; with_reducible refine Keeps.cut (x := x) ?_ fun _ => ?_; rotate_left; clear_value x; rotate_left; subst x)
    | (extract_lets +onlyGivenNames x; clear_value x)
    | split

theorem execLinkFrameReceived_keeps (port : Fin 7) (info : LinkInfo) (s : State) : KeepsRes s (execLinkFrameReceived port info s) := by
  unfold execLinkFrameReceived
  repeat' first
    | with_reducible assumption
    | with_reducible refine KeepsRes.guarded fun x hx => ?_
    | with_reducible apply State.linkReceived_keeps
    | split

theorem execHopNakRetry_keeps (port : Fin 7) (s : State) : KeepsRes s (execHopNakRetry port s) := by
  unfold execHopNakRetry
  repeat' first
    | with_reducible assumption
    | with_reducible refine KeepsRes.guarded fun x hx => ?_
    | with_reducible apply State.hopNak_keeps
    | split

theorem State.linkError_keeps (s : State) (p : Nat) (cnt : Fld) (kept : Keeps s₀ s) : Keeps s₀ (State.linkError s p cnt) := by
  unfold State.linkError
  repeat' first
    | with_reducible assumption
    | with_reducible apply State.bump_keeps
    | with_reducible apply State.violation_keeps
    | with_reducible apply State.hopNak_keeps
    | (extract_lets +onlyGivenNames x; with_reducible refine Keeps.cut (x := x) ?_ fun _ => ?_; rotate_left; clear_value x; rotate_left; subst x)
    | split

theorem State.hopAccepted_keeps (s : State) (p : Nat) (kept : Keeps s₀ s) : Keeps s₀ (State.hopAccepted s p) := by
  unfold State.hopAccepted
  repeat' first
    | with_reducible assumption
    | exact rfl
    | with_reducible apply State.setMac_keeps
    | with_reducible apply State.linkFrame_keeps
    | (extract_lets +onlyGivenNames x; with_reducible refine Keeps.cut (x := x) ?_ fun _ => ?_; rotate_left; clear_value x; rotate_left; subst x)
    | (extract_lets +onlyGivenNames x; clear_value x)
    | split

theorem State.stompThrough_keeps (s : State) (p : Nat) (f : Frame) (kept : Keeps s₀ s) : Keeps s₀ (State.stompThrough s p f) := by
  unfold State.stompThrough
  repeat' first
    | with_reducible assumption
    | exact rfl
    | with_reducible apply State.setMac_keeps
    | with_reducible apply State.emit_keeps
    | with_reducible apply State.bump_keeps
    | (extract_lets +onlyGivenNames x; with_reducible refine Keeps.cut (x := x) ?_ fun _ => ?_; rotate_left; clear_value x; rotate_left; subst x)
    | (extract_lets +onlyGivenNames x; clear_value x)
    | split

theorem State.headerChecks_keeps (s : State) (p : Nat) (w : WireFrame) (kept : Keeps s₀ s) : Keeps s₀ (State.headerChecks s p w).1 := by
  unfold State.headerChecks
  repeat' first
    | with_reducible assumption
    | with_reducible apply State.headerViolation_keeps
    | with_reducible apply State.bump_keeps
    | with_reducible apply State.violation_keeps
    | with_reducible apply State.sendNak_keeps
    | with_reducible apply State.stale_keeps
    | (extract_lets +onlyGivenNames x; with_reducible refine Keeps.cut (x := x) ?_ fun _ => ?_; rotate_left; clear_value x; rotate_left; subst x)
    | (extract_lets +onlyGivenNames x; clear_value x)
    | split

theorem State.takeIn_keeps (s : State) (p : Nat) (f : Frame) (kept : Keeps s₀ s) : Keeps s₀ (State.takeIn s p f).1 := by
  unfold State.takeIn
  repeat' first
    | with_reducible assumption
    | exact rfl
    | with_reducible refine Keeps.fst (by with_reducible assumption) ?_
    | with_reducible apply State.violation_keeps
    | with_reducible apply State.sendNak_keeps
    | with_reducible apply State.bump_keeps
    | with_reducible apply State.windowStep_keeps
    | with_reducible apply State.emit_keeps
    | with_reducible apply State.deliver_keeps
    | (extract_lets +onlyGivenNames x; clear_value x)
    | split

theorem State.noForward_keeps (s : State) (kept : Keeps s₀ s) : Keeps s₀ (State.noForward s) := by
  unfold State.noForward
  repeat' first
    | with_reducible assumption
    | with_reducible apply State.bump_keeps

theorem State.toOutputs_keeps (s : State) (p : Nat) (f : Frame) (outs : List Nat) (undo : Option (Nat × Option Window)) (kept : Keeps s₀ s) : Keeps s₀ (State.toOutputs s p f outs undo) := by
  unfold State.toOutputs
  repeat' first
    | with_reducible assumption
    | with_reducible apply State.arrive_keeps
    | split

theorem State.broadcast_keeps (s : State) (p : Nat) (f : Frame) (onward : List Nat) (kept : Keeps s₀ s) : Keeps s₀ (State.broadcast s p f onward) := by
  unfold State.broadcast
  repeat' first
    | with_reducible assumption
    | with_reducible refine Keeps.fst (by with_reducible assumption) ?_
    | with_reducible apply State.takeIn_keeps
    | with_reducible apply State.toOutputs_keeps
    | (extract_lets +onlyGivenNames x; clear_value x)
    | split

theorem State.stationFrame_keeps (s : State) (p : Nat) (f : Frame) (kept : Keeps s₀ s) : Keeps s₀ (State.stationFrame s p f) := by
  unfold State.stationFrame
  repeat' first
    | with_reducible assumption
    | exact rfl
    | with_reducible refine Keeps.fst (by with_reducible assumption) ?_
    | with_reducible apply State.takeIn_keeps
    | with_reducible apply State.toOutputs_keeps
    | with_reducible apply State.noForward_keeps
    | (extract_lets +onlyGivenNames x; clear_value x)
    | split

theorem State.sendStitchOutput_keeps (s : State) (pos : Nat) (d : SlotData) (kept : Keeps s₀ s) : Keeps s₀ (State.sendStitchOutput s pos d) := by
  unfold State.sendStitchOutput
  repeat' first
    | with_reducible assumption
    | exact rfl
    | with_reducible refine Keeps.fst (by with_reducible assumption) ?_
    | with_reducible apply State.stampFrame_keeps
    | with_reducible apply State.toOutputs_keeps
    | (extract_lets +onlyGivenNames x; with_reducible refine Keeps.cut (x := x) ?_ fun _ => ?_; rotate_left; clear_value x; rotate_left; subst x)
    | (extract_lets +onlyGivenNames x; clear_value x)
    | split
    | with_reducible refine Keeps.upd ?_ ?_ ?_

theorem State.ownSlot_keeps (s : State) (late : Bool) (d : SlotData) (kept : Keeps s₀ s) : Keeps s₀ (State.ownSlot s late d).1 := by
  unfold State.ownSlot
  repeat' first
    | with_reducible assumption
    | exact rfl
    | with_reducible apply State.bump_keeps
    | with_reducible apply State.raise_keeps
    | (extract_lets +onlyGivenNames x; with_reducible refine Keeps.cut (x := x) ?_ fun _ => ?_; rotate_left; clear_value x; rotate_left; subst x)
    | (extract_lets +onlyGivenNames x; clear_value x)
    | split
    | with_reducible refine Keeps.upd ?_ ?_ ?_

theorem State.stitchedSlot_keeps (s : State) (late : Bool) (d : SlotData) (kept : Keeps s₀ s) : Keeps s₀ (State.stitchedSlot s late d).1 := by
  unfold State.stitchedSlot
  repeat' first
    | with_reducible assumption
    | exact rfl
    | with_reducible apply State.sendStitchOutput_keeps
    | with_reducible apply State.bump_keeps
    | with_reducible apply State.raise_keeps
    | (extract_lets +onlyGivenNames x; with_reducible refine Keeps.cut (x := x) ?_ fun _ => ?_; rotate_left; clear_value x; rotate_left; subst x)
    | (extract_lets +onlyGivenNames x; clear_value x)
    | split

theorem State.passSlot_keeps (s : State) (late : Bool) (d : SlotData) (kept : Keeps s₀ s) : Keeps s₀ (State.passSlot s late d).1 := by
  unfold State.passSlot
  repeat' first
    | with_reducible assumption
    | with_reducible refine Keeps.fst (by with_reducible assumption) ?_
    | with_reducible apply State.ownSlot_keeps
    | with_reducible apply State.stitchedSlot_keeps
    | split

theorem State.passSlots_keeps (s : State) (late : Bool) (l : List SlotData) (h : Keeps s₀ s) :
    Keeps s₀ (State.passSlots s late l).1 := by
  induction l generalizing s with
  | nil => exact h
  | cons d l ih => exact ih _ (State.passSlot_keeps s late d h)

theorem State.trainSeen_keeps (s : State) (kept : Keeps s₀ s) : Keeps s₀ (State.trainSeen s) := by
  unfold State.trainSeen
  repeat' first
    | with_reducible assumption
    | with_reducible apply State.raise_keeps

theorem State.trainPasses_keeps (s : State) (f : Frame) (slots : List SlotData) (kept : Keeps s₀ s) : Keeps s₀ (State.trainPasses s f slots).1 := by
  unfold State.trainPasses
  repeat' first
    | with_reducible assumption
    | exact rfl
    | with_reducible refine Keeps.fst (by with_reducible assumption) ?_
    | with_reducible apply State.trainSeen_keeps
    | with_reducible apply State.passSlots_keeps
    | (extract_lets +onlyGivenNames x; with_reducible refine Keeps.cut (x := x) ?_ fun _ => ?_; rotate_left; clear_value x; rotate_left; subst x)
    | (extract_lets +onlyGivenNames x; clear_value x)
    | split

theorem State.trainBack_keeps (s : State) (f : Frame) (slots : List SlotData) (kept : Keeps s₀ s) : Keeps s₀ (State.trainBack s f slots) := by
  unfold State.trainBack
  repeat' first
    | with_reducible assumption
    | exact rfl
    | with_reducible apply State.trainSeen_keeps
    | with_reducible refine Keeps.foldl ?_ fun _ _ _ => ?_
    | with_reducible refine Keeps.foldlFst ?_ fun _ _ _ => ?_
    | (extract_lets +onlyGivenNames x; with_reducible refine Keeps.cut (x := x) ?_ fun _ => ?_; rotate_left; clear_value x; rotate_left; subst x)
    | (extract_lets +onlyGivenNames x; clear_value x)
    | split
    | intro _
    | with_reducible refine Keeps.upd ?_ ?_ ?_

theorem State.harvestFrame_keeps (s : State) (p : Nat) (f : Frame) (kept : Keeps s₀ s) : Keeps s₀ (State.harvestFrame s p f) := by
  unfold State.harvestFrame
  repeat' first
    | with_reducible assumption
    | exact rfl
    | with_reducible refine Keeps.fst (by with_reducible assumption) ?_
    | with_reducible apply State.violation_keeps
    | with_reducible apply State.sendNak_keeps
    | with_reducible apply State.trainBack_keeps
    | with_reducible apply State.trainPasses_keeps
    | with_reducible apply State.toOutputs_keeps
    | split

theorem State.ringFrame_keeps (s : State) (p : Nat) (w : WireFrame) (kept : Keeps s₀ s) : Keeps s₀ (State.ringFrame s p w) := by
  unfold State.ringFrame
  repeat' first
    | with_reducible assumption
    | exact rfl
    | with_reducible refine Keeps.fst (by with_reducible assumption) ?_
    | with_reducible apply State.headerChecks_keeps
    | with_reducible apply State.harvestFrame_keeps
    | with_reducible apply State.bump_keeps
    | with_reducible apply State.emit_keeps
    | with_reducible apply State.deliver_keeps
    | with_reducible apply State.stationFrame_keeps
    | with_reducible apply State.broadcast_keeps
    | with_reducible apply State.toOutputs_keeps
    | (extract_lets +onlyGivenNames x; clear_value x)
    | split

theorem State.stitchFrame_keeps (s : State) (p : Nat) (w : WireFrame) (kept : Keeps s₀ s) : Keeps s₀ (State.stitchFrame s p w) := by
  unfold State.stitchFrame
  repeat' first
    | with_reducible assumption
    | exact rfl
    | with_reducible refine Keeps.fst (by with_reducible assumption) ?_
    | with_reducible apply State.headerViolation_keeps
    | with_reducible apply State.emit_keeps
    | with_reducible apply State.deliver_keeps
    | with_reducible apply State.headerChecks_keeps
    | with_reducible apply State.bump_keeps
    | with_reducible apply State.stationFrame_keeps
    | with_reducible apply State.broadcast_keeps
    | with_reducible apply State.noForward_keeps
    | with_reducible apply State.arrive_keeps
    | (extract_lets +onlyGivenNames x; clear_value x)
    | split

theorem State.acceptedFrame_keeps (s : State) (p : Nat) (w : WireFrame) (kept : Keeps s₀ s) : Keeps s₀ (State.acceptedFrame s p w) := by
  unfold State.acceptedFrame
  repeat' first
    | with_reducible assumption
    | with_reducible apply State.hopAccepted_keeps
    | with_reducible apply State.ringFrame_keeps
    | with_reducible apply State.stitchFrame_keeps
    | (extract_lets +onlyGivenNames x; with_reducible refine Keeps.cut (x := x) ?_ fun _ => ?_; rotate_left; clear_value x; rotate_left; subst x)
    | split

theorem State.hopCheck_keeps (s : State) (p : Nat) (w : WireFrame) (kept : Keeps s₀ s) : Keeps s₀ (State.hopCheck s p w) := by
  unfold State.hopCheck
  repeat' first
    | with_reducible assumption
    | with_reducible apply State.acceptedFrame_keeps
    | with_reducible apply State.linkError_keeps
    | (extract_lets +onlyGivenNames x; clear_value x)
    | split

theorem State.frameReceived_keeps (s : State) (p : Nat) (w : WireFrame) (kept : Keeps s₀ s) : Keeps s₀ (State.frameReceived s p w) := by
  unfold State.frameReceived
  repeat' first
    | with_reducible assumption
    | exact rfl
    | with_reducible apply State.bump_keeps
    | with_reducible apply State.hopAccepted_keeps
    | with_reducible apply State.stompThrough_keeps
    | with_reducible apply State.linkError_keeps
    | with_reducible apply State.hopCheck_keeps
    | (extract_lets +onlyGivenNames x; with_reducible refine Keeps.cut (x := x) ?_ fun _ => ?_; rotate_left; clear_value x; rotate_left; subst x)
    | (extract_lets +onlyGivenNames x; clear_value x)
    | split

theorem execRingFrameReceived_keeps (port : Fin 7) (frame : WireFrame) (s : State) : KeepsRes s (execRingFrameReceived port frame s) := by
  unfold execRingFrameReceived
  repeat' first
    | with_reducible assumption
    | with_reducible refine KeepsRes.guarded fun x hx => ?_
    | with_reducible apply State.frameReceived_keeps

theorem execPl0FrameReceived_keeps (frame : WireFrame) (s : State) : KeepsRes s (execPl0FrameReceived frame s) := by
  unfold execPl0FrameReceived
  repeat' first
    | with_reducible assumption
    | with_reducible refine KeepsRes.guarded fun x hx => ?_
    | with_reducible apply State.bump_keeps
    | with_reducible apply State.stitchFrame_keeps
    | split

theorem execFrameOriginate_keeps (port : Fin 16) (frame : Frame) (s : State) : KeepsRes s (execFrameOriginate port frame s) := by
  unfold execFrameOriginate
  repeat' first
    | with_reducible assumption
    | exact rfl
    | with_reducible refine Keeps.fst (by with_reducible assumption) ?_
    | with_reducible refine KeepsRes.guarded fun x hx => ?_
    | with_reducible apply State.originate_keeps
    | with_reducible apply State.ack_keeps
    | (extract_lets +onlyGivenNames x; clear_value x)
    | split
    | intro _
    | with_reducible refine Keeps.upd ?_ ?_ ?_

theorem State.joinSend_keeps (s : State) (kept : Keeps s₀ s) : Keeps s₀ (State.joinSend s) := by
  unfold State.joinSend
  repeat' first
    | with_reducible assumption
    | exact rfl
    | with_reducible apply State.toHead_keeps
    | (extract_lets +onlyGivenNames x; clear_value x)
    | with_reducible refine Keeps.upd ?_ ?_ ?_

theorem execJoinSend_keeps (s : State) : KeepsRes s (execJoinSend s) := by
  unfold execJoinSend
  repeat' first
    | with_reducible assumption
    | with_reducible refine KeepsRes.guarded fun x hx => ?_
    | with_reducible apply State.joinSend_keeps
    | split

theorem State.passAdmit_keeps (s : State) (payload : List Nat) (kept : Keeps s₀ s) : Keeps s₀ (State.passAdmit s payload) := by
  unfold State.passAdmit
  repeat' first
    | with_reducible assumption
    | with_reducible refine Keeps.fst (by with_reducible assumption) ?_
    | with_reducible apply State.stampFrame_keeps
    | with_reducible apply State.toOutputs_keeps
    | with_reducible refine Keeps.foldl ?_ fun _ _ _ => ?_
    | split

theorem execGrant_keeps (station : Fin 1023) (epoch : BitVec 16) (serial : BitVec 64) (s : State) : KeepsRes s (execGrant station epoch serial s) := by
  unfold execGrant
  repeat' first
    | with_reducible assumption
    | exact rfl
    | with_reducible refine KeepsRes.guarded fun x hx => ?_
    | with_reducible apply State.wr_keeps
    | with_reducible apply State.raise_keeps
    | with_reducible apply State.enterQuarantine_keeps
    | with_reducible apply State.passAdmit_keeps
    | (extract_lets +onlyGivenNames x; with_reducible refine Keeps.cut (x := x) ?_ fun _ => ?_; rotate_left; clear_value x; rotate_left; subst x)
    | (extract_lets +onlyGivenNames x; clear_value x)
    | split
    | intro _
    | with_reducible refine Keeps.upd ?_ ?_ ?_

theorem execRelease_keeps (epoch : BitVec 16) (s : State) : KeepsRes s (execRelease epoch s) := by
  unfold execRelease
  repeat' first
    | with_reducible assumption
    | exact rfl
    | with_reducible refine KeepsRes.guarded fun x hx => ?_
    | with_reducible apply State.passAdmit_keeps
    | (extract_lets +onlyGivenNames x; clear_value x)
    | split
    | intro _
    | with_reducible refine Keeps.upd ?_ ?_ ?_

theorem execRefuse_keeps (code : BitVec 16) (serial : BitVec 64) (s : State) : KeepsRes s (execRefuse code serial s) := by
  unfold execRefuse
  repeat' first
    | with_reducible assumption
    | exact rfl
    | with_reducible refine KeepsRes.guarded fun x hx => ?_
    | with_reducible apply State.raise_keeps
    | with_reducible apply State.passAdmit_keeps
    | (extract_lets +onlyGivenNames x; with_reducible refine Keeps.cut (x := x) ?_ fun _ => ?_; rotate_left; clear_value x; rotate_left; subst x)
    | (extract_lets +onlyGivenNames x; clear_value x)
    | split
    | intro _
    | with_reducible refine Keeps.upd ?_ ?_ ?_

theorem State.epochReceived_keeps (s : State) (e : EpochInfo) (kept : Keeps s₀ s) : Keeps s₀ (State.epochReceived s e) := by
  unfold State.epochReceived
  repeat' first
    | with_reducible assumption
    | exact rfl
    | with_reducible apply State.stale_keeps
    | with_reducible apply State.clearWindows_keeps
    | with_reducible refine Keeps.foldl ?_ fun _ _ _ => ?_
    | (extract_lets +onlyGivenNames x; with_reducible refine Keeps.cut (x := x) ?_ fun _ => ?_; rotate_left; clear_value x; rotate_left; subst x)
    | (extract_lets +onlyGivenNames x; clear_value x)
    | split
    | intro _
    | with_reducible refine Keeps.upd ?_ ?_ ?_

theorem execEpochReceived_keeps (info : EpochInfo) (s : State) : KeepsRes s (execEpochReceived info s) := by
  unfold execEpochReceived
  repeat' first
    | with_reducible assumption
    | with_reducible refine KeepsRes.guarded fun x hx => ?_
    | with_reducible apply State.epochReceived_keeps

theorem State.healPort_keeps (s : State) (p : Nat) (kept : Keeps s₀ s) : Keeps s₀ (State.healPort s p) := by
  unfold State.healPort
  repeat' first
    | with_reducible assumption
    | exact rfl
    | with_reducible apply State.portToUp_keeps
    | with_reducible apply State.setMac_keeps
    | (extract_lets +onlyGivenNames x; with_reducible refine Keeps.cut (x := x) ?_ fun _ => ?_; rotate_left; clear_value x; rotate_left; subst x)
    | (extract_lets +onlyGivenNames x; clear_value x)
    | split

theorem State.keyEpochs_keeps (s : State) (e : EpochInfo) (kept : Keeps s₀ s) : Keeps s₀ (State.keyEpochs s e) := by
  unfold State.keyEpochs
  repeat' first
    | with_reducible assumption
    | exact rfl
    | with_reducible apply State.wr_keeps
    | with_reducible apply State.wrB_keeps
    | with_reducible apply State.raise_keeps
    | with_reducible apply State.resubmitHeld_keeps
    | with_reducible apply State.deriveEpoch_keeps
    | (extract_lets +onlyGivenNames x; with_reducible refine Keeps.cut (x := x) ?_ fun _ => ?_; rotate_left; clear_value x; rotate_left; subst x)
    | (extract_lets +onlyGivenNames x; clear_value x)
    | split
    | with_reducible refine Keeps.upd ?_ ?_ ?_

theorem State.epochEffect_keeps (s : State) (e : EpochInfo) (kept : Keeps s₀ s) : Keeps s₀ (State.epochEffect s e) := by
  unfold State.epochEffect
  repeat' first
    | with_reducible assumption
    | exact rfl
    | with_reducible apply State.wr_keeps
    | with_reducible apply State.raise_keeps
    | with_reducible apply State.mark_keeps
    | with_reducible apply State.healPort_keeps
    | with_reducible apply State.keyEpochs_keeps
    | with_reducible refine Keeps.foldl ?_ fun _ _ _ => ?_
    | (extract_lets +onlyGivenNames x; clear_value x)
    | split
    | intro _
    | with_reducible refine Keeps.upd ?_ ?_ ?_

theorem execGraceExpiry_keeps (s : State) : KeepsRes s (execGraceExpiry s) := by
  unfold execGraceExpiry
  repeat' first
    | with_reducible assumption
    | exact rfl
    | with_reducible refine KeepsRes.guarded fun x hx => ?_
    | (extract_lets +onlyGivenNames x; clear_value x)
    | intro _
    | with_reducible refine Keeps.upd ?_ ?_ ?_

theorem execHvRunTimeout_keeps (s : State) : KeepsRes s (execHvRunTimeout s) := by
  unfold execHvRunTimeout
  repeat' first
    | with_reducible assumption
    | with_reducible refine KeepsRes.guarded fun x hx => ?_
    | with_reducible apply State.wr_keeps

theorem State.setHead_keeps (s : State) (h : HeadState) (kept : Keeps s₀ s) : Keeps s₀ (State.setHead s h) := by
  unfold State.setHead
  repeat' first
    | with_reducible assumption
    | exact rfl
    | (extract_lets +onlyGivenNames x; clear_value x)
    | with_reducible refine Keeps.upd ?_ ?_ ?_

theorem State.announce_keeps (s : State) (kept : Keeps s₀ s) : Keeps s₀ (State.announce s) := by
  unfold State.announce
  repeat' first
    | with_reducible assumption
    | exact rfl
    | with_reducible apply State.setHead_keeps
    | with_reducible apply State.epochReceived_keeps
    | (extract_lets +onlyGivenNames x; with_reducible refine Keeps.cut (x := x) ?_ fun _ => ?_; rotate_left; clear_value x; rotate_left; subst x)
    | (extract_lets +onlyGivenNames x; clear_value x)
    | split

theorem State.sendEpoch_keeps (s : State) (e : EpochInfo) (kept : Keeps s₀ s) : Keeps s₀ (State.sendEpoch s e) := by
  unfold State.sendEpoch
  repeat' first
    | with_reducible assumption
    | with_reducible apply State.send_keeps

theorem State.headEpochs_keeps (s : State) (kept : Keeps s₀ s) : Keeps s₀ (State.headEpochs s) := by
  unfold State.headEpochs
  repeat' first
    | with_reducible assumption
    | exact rfl
    | with_reducible apply State.sendEpoch_keeps
    | (extract_lets +onlyGivenNames x; clear_value x)
    | split

theorem execEpochRepeat_keeps (s : State) : KeepsRes s (execEpochRepeat s) := by
  unfold execEpochRepeat
  repeat' first
    | with_reducible assumption
    | exact rfl
    | with_reducible refine KeepsRes.guarded fun x hx => ?_
    | with_reducible apply State.sendEpoch_keeps
    | (extract_lets +onlyGivenNames x; clear_value x)
    | split

theorem execEpochEffect_keeps (s : State) : KeepsRes s (execEpochEffect s) := by
  unfold execEpochEffect
  repeat' first
    | with_reducible assumption
    | exact rfl
    | with_reducible refine KeepsRes.guarded fun x hx => ?_
    | with_reducible apply State.epochEffect_keeps
    | with_reducible apply State.setHead_keeps
    | with_reducible apply State.announce_keeps
    | (extract_lets +onlyGivenNames x; with_reducible refine Keeps.cut (x := x) ?_ fun _ => ?_; rotate_left; clear_value x; rotate_left; subst x)
    | (extract_lets +onlyGivenNames x; clear_value x)
    | split

theorem State.sendRefuse_keeps (s : State) (station code serial : Nat) (kept : Keeps s₀ s) : Keeps s₀ (State.sendRefuse s station code serial) := by
  unfold State.sendRefuse
  repeat' first
    | with_reducible assumption
    | with_reducible apply State.send_keeps
    | with_reducible apply State.raise_keeps

theorem State.sendRelease_keeps (s : State) (station : Nat) (kept : Keeps s₀ s) : Keeps s₀ (State.sendRelease s station) := by
  unfold State.sendRelease
  repeat' first
    | with_reducible assumption
    | with_reducible apply State.send_keeps

theorem State.grantStation_keeps (s : State) (i : JoinInfo) (id serial : Nat) (kept : Keeps s₀ s) : Keeps s₀ (State.grantStation s i id serial) := by
  unfold State.grantStation
  repeat' first
    | with_reducible assumption
    | exact rfl
    | with_reducible apply State.setHead_keeps
    | with_reducible apply State.announce_keeps
    | with_reducible apply State.send_keeps

theorem State.join_keeps (s : State) (i : JoinInfo) (expected : Bool) (kept : Keeps s₀ s) : Keeps s₀ (State.join s i expected) := by
  unfold State.join
  repeat' first
    | with_reducible assumption
    | exact rfl
    | with_reducible apply State.sendRefuse_keeps
    | with_reducible apply State.violation_keeps
    | with_reducible apply State.grantStation_keeps
    | with_reducible apply State.sendRelease_keeps
    | (extract_lets +onlyGivenNames x; with_reducible refine Keeps.cut (x := x) ?_ fun _ => ?_; rotate_left; clear_value x; rotate_left; subst x)
    | (extract_lets +onlyGivenNames x; clear_value x)
    | split

theorem execJoin_keeps (info : JoinInfo) (expected : Bool) (s : State) : KeepsRes s (execJoin info expected s) := by
  unfold execJoin
  repeat' first
    | with_reducible assumption
    | with_reducible refine KeepsRes.guarded fun x hx => ?_
    | with_reducible apply State.join_keeps
    | split

theorem State.stationLost_keeps (s : State) (id : Nat) (kept : Keeps s₀ s) : Keeps s₀ (State.stationLost s id) := by
  unfold State.stationLost
  repeat' first
    | with_reducible assumption
    | exact rfl
    | with_reducible apply State.setHead_keeps
    | with_reducible apply State.announce_keeps
    | with_reducible refine Keeps.foldl ?_ fun _ _ _ => ?_
    | with_reducible refine Keeps.foldlFst ?_ fun _ _ _ => ?_
    | (extract_lets +onlyGivenNames x; clear_value x)
    | split

theorem State.linkReport_keeps (s : State) (station port : Nat) (ready : Bool) (serial : Nat) (kept : Keeps s₀ s) : Keeps s₀ (State.linkReport s station port ready serial) := by
  unfold State.linkReport
  repeat' first
    | with_reducible assumption
    | exact rfl
    | with_reducible apply State.setHead_keeps
    | with_reducible apply State.stationLost_keeps
    | with_reducible apply State.announce_keeps
    | (extract_lets +onlyGivenNames x; clear_value x)
    | split

theorem execLinkrpt_keeps (station : Fin 1023) (port : Fin 4) (ready : Bool) (serial : BitVec 64) (s : State) : KeepsRes s (execLinkrpt station port ready serial s) := by
  unfold execLinkrpt
  repeat' first
    | with_reducible assumption
    | with_reducible refine KeepsRes.guarded fun x hx => ?_
    | with_reducible apply State.linkReport_keeps
    | split

theorem State.rekeyStart_keeps (s : State) (kept : Keeps s₀ s) : Keeps s₀ (State.rekeyStart s) := by
  unfold State.rekeyStart
  repeat' first
    | with_reducible assumption
    | exact rfl
    | with_reducible apply State.raise_keeps
    | with_reducible apply State.setHead_keeps
    | with_reducible apply State.announce_keeps

theorem State.rekeyWrite_keeps (s : State) (init : Initiator) (kept : Keeps s₀ s) : Keeps s₀ (State.rekeyWrite s init) := by
  unfold State.rekeyWrite
  repeat' first
    | with_reducible assumption
    | with_reducible apply State.refuseReg_keeps
    | with_reducible apply State.rekeyStart_keeps
    | with_reducible apply State.ack_keeps
    | split

theorem execRekey_keeps (init : Initiator) (s : State) : KeepsRes s (execRekey init s) := by
  unfold execRekey
  repeat' first
    | with_reducible assumption
    | with_reducible refine KeepsRes.guarded fun x hx => ?_
    | with_reducible apply State.rekeyWrite_keeps

theorem execRekeyReq_keeps (s : State) : KeepsRes s (execRekeyReq s) := by
  unfold execRekeyReq
  repeat' first
    | with_reducible assumption
    | exact rfl
    | with_reducible refine KeepsRes.guarded fun x hx => ?_
    | with_reducible apply State.setHead_keeps
    | with_reducible apply State.rekeyStart_keeps
    | (extract_lets +onlyGivenNames x; clear_value x)
    | split

theorem State.rekeySwitch_keeps (s : State) (kept : Keeps s₀ s) : Keeps s₀ (State.rekeySwitch s) := by
  unfold State.rekeySwitch
  repeat' first
    | with_reducible assumption
    | exact rfl
    | with_reducible apply State.setHead_keeps
    | with_reducible apply State.announce_keeps
    | (extract_lets +onlyGivenNames x; clear_value x)
    | split

theorem execRekeyReady_keeps (hub : Fin 4096) (kepoch : Fin 16) (s : State) : KeepsRes s (execRekeyReady hub kepoch s) := by
  unfold execRekeyReady
  repeat' first
    | with_reducible assumption
    | exact rfl
    | with_reducible refine KeepsRes.guarded fun x hx => ?_
    | with_reducible apply State.setHead_keeps
    | with_reducible apply State.rekeySwitch_keeps
    | (extract_lets +onlyGivenNames x; with_reducible refine Keeps.cut (x := x) ?_ fun _ => ?_; rotate_left; clear_value x; rotate_left; subst x)
    | (extract_lets +onlyGivenNames x; clear_value x)
    | split

theorem execRekeyTmoExpiry_keeps (s : State) : KeepsRes s (execRekeyTmoExpiry s) := by
  unfold execRekeyTmoExpiry
  repeat' first
    | with_reducible assumption
    | with_reducible refine KeepsRes.guarded fun x hx => ?_
    | with_reducible apply State.send_keeps
    | with_reducible apply State.rekeySwitch_keeps
    | with_reducible refine Keeps.foldl ?_ fun _ _ _ => ?_
    | with_reducible refine Keeps.foldlFst ?_ fun _ _ _ => ?_
    | (extract_lets +onlyGivenNames x; with_reducible refine Keeps.cut (x := x) ?_ fun _ => ?_; rotate_left; clear_value x; rotate_left; subst x)
    | (extract_lets +onlyGivenNames x; clear_value x)
    | split

end Sys2Proof.Machine
end

