-- ==== Sys2Proof/Laws/KeepsStation.lean ====
section
/-! SUPPORT. The operations of Machine/Station.lean keep the canonical forms, the queue and what was sent. -/

namespace Sys2Proof.Machine

variable {s₀ : State}

theorem State.setStt_keeps (s : State) (x : SttState) (kept : Keeps s₀ s) : Keeps s₀ (State.setStt s x) := by
  unfold State.setStt
  repeat' first
    | with_reducible assumption
    | exact rfl
    | with_reducible refine Keeps.upd ?_ ?_ ?_

theorem execStitchJoin_keeps (s : State) : KeepsRes s (execStitchJoin s) := by
  unfold execStitchJoin
  repeat' first
    | with_reducible assumption
    | with_reducible refine KeepsRes.guarded fun x hx => ?_
    | with_reducible apply State.toHead_keeps
    | split

theorem execStitchJoinReceived_keeps (hub : JoinHub) (s : State) : KeepsRes s (execStitchJoinReceived hub s) := by
  unfold execStitchJoinReceived
  repeat' first
    | with_reducible assumption
    | exact rfl
    | with_reducible refine KeepsRes.guarded fun x hx => ?_
    | with_reducible apply State.setStt_keeps
    | with_reducible apply State.joinSend_keeps
    | (extract_lets +onlyGivenNames x; with_reducible refine Keeps.cut (x := x) ?_ fun _ => ?_; rotate_left; clear_value x; rotate_left; subst x)
    | (extract_lets +onlyGivenNames x; clear_value x)
    | split

theorem execStitchRecordExpiry_keeps (pos : Fin 4) (s : State) : KeepsRes s (execStitchRecordExpiry pos s) := by
  unfold execStitchRecordExpiry
  repeat' first
    | with_reducible assumption
    | exact rfl
    | with_reducible refine KeepsRes.guarded fun x hx => ?_
    | with_reducible apply State.setStt_keeps

theorem State.outputLate_keeps (s : State) (kept : Keeps s₀ s) : Keeps s₀ (State.outputLate s) := by
  unfold State.outputLate
  repeat' first
    | with_reducible assumption
    | with_reducible apply State.bump_keeps
    | with_reducible apply State.raise_keeps

theorem State.stitchImageIn_keeps (s : State) (bs : List Nat) (kept : Keeps s₀ s) : Keeps s₀ (State.stitchImageIn s bs) := by
  unfold State.stitchImageIn
  repeat' first
    | with_reducible assumption
    | exact rfl
    | with_reducible apply State.trainSeen_keeps
    | with_reducible apply State.outputLate_keeps
    | (extract_lets +onlyGivenNames x; with_reducible refine Keeps.cut (x := x) ?_ fun _ => ?_; rotate_left; clear_value x; rotate_left; subst x)
    | (extract_lets +onlyGivenNames x; clear_value x)
    | split
    | with_reducible refine Keeps.upd ?_ ?_ ?_

theorem execStitchImageReceived_keeps (payload : List Byte) (s : State) : KeepsRes s (execStitchImageReceived payload s) := by
  unfold execStitchImageReceived
  repeat' first
    | with_reducible assumption
    | with_reducible refine KeepsRes.guarded fun x hx => ?_
    | with_reducible apply State.stitchImageIn_keeps

theorem State.toRole_keeps (s : State) (r : Nat) (kept : Keeps s₀ s) : Keeps s₀ (State.toRole s r) := by
  unfold State.toRole
  repeat' first
    | with_reducible assumption
    | with_reducible apply State.wr_keeps
    | with_reducible apply State.raise_keeps
    | split

theorem State.answered_keeps (s : State) (kept : Keeps s₀ s) : Keeps s₀ (State.answered s) := by
  unfold State.answered
  repeat' first
    | with_reducible assumption
    | exact rfl
    | with_reducible apply State.setStt_keeps
    | with_reducible apply State.wr_keeps

theorem State.sendCopy_keeps (s : State) (cycle : Nat) (bs : List Nat) (kept : Keeps s₀ s) : Keeps s₀ (State.sendCopy s cycle bs) := by
  unfold State.sendCopy
  repeat' first
    | with_reducible assumption
    | with_reducible apply State.sendPosted_keeps
    | with_reducible refine Keeps.foldl ?_ fun _ _ _ => ?_

theorem State.snapshot_keeps (s : State) (cycle : Nat) (kept : Keeps s₀ s) : Keeps s₀ (State.snapshot s cycle) := by
  unfold State.snapshot
  repeat' first
    | with_reducible assumption
    | exact rfl
    | with_reducible apply State.setStt_keeps
    | with_reducible apply State.sendCopy_keeps

theorem State.takeQuad_keeps (s : State) (items : SMap (List Nat)) (kept : Keeps s₀ s) : Keeps s₀ (State.takeQuad s items) := by
  unfold State.takeQuad
  repeat' first
    | with_reducible assumption
    | with_reducible apply State.wr64_keeps
    | with_reducible refine Keeps.foldl ?_ fun _ _ _ => ?_

theorem State.sendReport_keeps (s : State) (kept : Keeps s₀ s) : Keeps s₀ (State.sendReport s) := by
  unfold State.sendReport
  repeat' first
    | with_reducible assumption
    | with_reducible apply State.sendPosted_keeps

theorem State.commitCopy_keeps (s : State) (items : SMap (List Nat)) (kept : Keeps s₀ s) : Keeps s₀ (State.commitCopy s items) := by
  unfold State.commitCopy
  repeat' first
    | with_reducible assumption
    | exact rfl
    | with_reducible apply State.wr_keeps
    | with_reducible apply State.toRole_keeps
    | with_reducible apply State.wrB_keeps
    | with_reducible apply State.setStt_keeps
    | with_reducible apply State.takeQuad_keeps
    | with_reducible apply State.raise_keeps
    | with_reducible apply State.sendReport_keeps
    | with_reducible refine Keeps.foldl ?_ fun _ _ _ => ?_
    | with_reducible refine Keeps.foldlFst ?_ fun _ _ _ => ?_
    | (extract_lets +onlyGivenNames x; with_reducible refine Keeps.cut (x := x) ?_ fun _ => ?_; rotate_left; clear_value x; rotate_left; subst x)
    | (extract_lets +onlyGivenNames x; clear_value x)
    | split

theorem execCopyCommit_keeps (s : State) : KeepsRes s (execCopyCommit s) := by
  unfold execCopyCommit
  repeat' first
    | with_reducible assumption
    | exact rfl
    | with_reducible refine KeepsRes.guarded fun x hx => ?_
    | with_reducible apply State.commitCopy_keeps
    | with_reducible refine Keeps.foldl ?_ fun _ _ _ => ?_
    | with_reducible refine Keeps.foldlFst ?_ fun _ _ _ => ?_
    | (extract_lets +onlyGivenNames x; clear_value x)
    | split

theorem State.sendClaim_keeps (s : State) (reason rep : Nat) (kept : Keeps s₀ s) : Keeps s₀ (State.sendClaim s reason rep) := by
  unfold State.sendClaim
  repeat' first
    | with_reducible assumption
    | with_reducible apply State.bump_keeps
    | with_reducible apply State.raise_keeps
    | with_reducible apply State.sendPosted_keeps

theorem State.claim_keeps (s : State) (reason : Nat) (kept : Keeps s₀ s) : Keeps s₀ (State.claim s reason) := by
  unfold State.claim
  repeat' first
    | with_reducible assumption
    | exact rfl
    | with_reducible apply State.setStt_keeps
    | with_reducible apply State.sendClaim_keeps
    | (extract_lets +onlyGivenNames x; clear_value x)
    | split

theorem execSt0Silence_keeps (s : State) : KeepsRes s (execSt0Silence s) := by
  unfold execSt0Silence
  repeat' first
    | with_reducible assumption
    | with_reducible refine KeepsRes.guarded fun x hx => ?_
    | with_reducible apply State.claim_keeps

theorem execClaimSend_keeps (reason : Fin 16) (s : State) : KeepsRes s (execClaimSend reason s) := by
  unfold execClaimSend
  repeat' first
    | with_reducible assumption
    | with_reducible refine KeepsRes.guarded fun x hx => ?_
    | with_reducible apply State.claim_keeps
    | split

theorem execClaimResend_keeps (s : State) : KeepsRes s (execClaimResend s) := by
  unfold execClaimResend
  repeat' first
    | with_reducible assumption
    | exact rfl
    | with_reducible refine KeepsRes.guarded fun x hx => ?_
    | with_reducible apply State.claim_keeps
    | with_reducible apply State.setStt_keeps
    | with_reducible apply State.sendClaim_keeps
    | with_reducible apply State.raise_keeps
    | (extract_lets +onlyGivenNames x; with_reducible refine Keeps.cut (x := x) ?_ fun _ => ?_; rotate_left; clear_value x; rotate_left; subst x)
    | (extract_lets +onlyGivenNames x; clear_value x)
    | split

theorem execStartClaim_keeps (s : State) : KeepsRes s (execStartClaim s) := by
  unfold execStartClaim
  repeat' first
    | with_reducible assumption
    | exact rfl
    | with_reducible refine KeepsRes.guarded fun x hx => ?_
    | with_reducible apply State.setStt_keeps
    | with_reducible apply State.sendClaim_keeps
    | (extract_lets +onlyGivenNames x; clear_value x)
    | split

theorem State.refWord_keeps (s : State) (init : Initiator) (src named : Nat) (k : State → State) (hk : ∀ x, Keeps s₀ x → Keeps s₀ (k x)) (kept : Keeps s₀ s) : Keeps s₀ (State.refWord s init src named k) := by
  unfold State.refWord
  repeat' first
    | with_reducible assumption
    | with_reducible apply hk
    | with_reducible apply State.ack_keeps
    | with_reducible apply State.bump_keeps
    | with_reducible apply State.refuseReg_keeps
    | split

theorem execPromptReceived_keeps (src named : Fin 4096) (s : State) : KeepsRes s (execPromptReceived src named s) := by
  unfold execPromptReceived
  repeat' first
    | with_reducible assumption
    | with_reducible refine KeepsRes.guarded fun x hx => ?_
    | with_reducible apply State.refWord_keeps
    | with_reducible apply State.claim_keeps
    | intro _

theorem State.setPair_keeps (s : State) (station active standby : Nat) (designated : Bool) (kept : Keeps s₀ s) : Keeps s₀ (State.setPair s station active standby designated) := by
  unfold State.setPair
  repeat' first
    | with_reducible assumption
    | with_reducible apply State.store_keeps

theorem State.refCmd_keeps (s : State) (op station pos : Nat) (kept : Keeps s₀ s) : Keeps s₀ (State.refCmd s op station pos) := by
  unfold State.refCmd
  repeat' first
    | with_reducible assumption
    | with_reducible apply State.sendPosted_keeps

theorem State.refGrant_keeps (s : State) (station target partner : Nat) (kept : Keeps s₀ s) : Keeps s₀ (State.refGrant s station target partner) := by
  unfold State.refGrant
  repeat' first
    | with_reducible assumption
    | with_reducible apply State.refCmd_keeps
    | with_reducible apply State.setPair_keeps
    | with_reducible apply State.store_keeps

theorem State.refQueue_keeps (s : State) (claim decision code : Nat) (kept : Keeps s₀ s) : Keeps s₀ (State.refQueue s claim decision code) := by
  unfold State.refQueue
  repeat' first
    | with_reducible assumption
    | exact rfl
    | with_reducible apply State.setStt_keeps
    | with_reducible apply State.claim_keeps
    | with_reducible apply State.raise_keeps

theorem State.decideClaim_keeps (s : State) (w : Nat) (kept : Keeps s₀ s) : Keeps s₀ (State.decideClaim s w) := by
  unfold State.decideClaim
  repeat' first
    | with_reducible assumption
    | with_reducible apply State.refCmd_keeps
    | with_reducible apply State.refQueue_keeps
    | with_reducible apply State.refGrant_keeps
    | with_reducible apply State.setPair_keeps
    | (extract_lets +onlyGivenNames x; clear_value x)
    | split

theorem State.claimIn_keeps (s : State) (init : Initiator) (w : Nat) (kept : Keeps s₀ s) : Keeps s₀ (State.claimIn s init w) := by
  unfold State.claimIn
  repeat' first
    | with_reducible assumption
    | with_reducible apply State.refuseReg_keeps
    | with_reducible apply State.raise_keeps
    | with_reducible apply State.ack_keeps
    | with_reducible apply State.decideClaim_keeps
    | split

theorem execClaimReceived_keeps (init : Initiator) (word : Word) (s : State) : KeepsRes s (execClaimReceived init word s) := by
  unfold execClaimReceived
  repeat' first
    | with_reducible assumption
    | with_reducible refine KeepsRes.guarded fun x hx => ?_
    | with_reducible apply State.claimIn_keeps

theorem State.orderIn_keeps (s : State) (init : Initiator) (w : Nat) (kept : Keeps s₀ s) : Keeps s₀ (State.orderIn s init w) := by
  unfold State.orderIn
  repeat' first
    | with_reducible assumption
    | exact rfl
    | with_reducible apply State.refuseReg_keeps
    | with_reducible apply State.refGrant_keeps
    | with_reducible apply State.refCmd_keeps
    | with_reducible apply State.ack_keeps
    | (extract_lets +onlyGivenNames x; clear_value x)
    | split

theorem execSttOrder_keeps (init : Initiator) (word : Word) (s : State) : KeepsRes s (execSttOrder init word s) := by
  unfold execSttOrder
  repeat' first
    | with_reducible assumption
    | with_reducible refine KeepsRes.guarded fun x hx => ?_
    | with_reducible apply State.orderIn_keeps

theorem State.refqPop_keeps (s : State) (kept : Keeps s₀ s) : Keeps s₀ (State.refqPop s) := by
  unfold State.refqPop
  repeat' first
    | with_reducible assumption
    | exact rfl
    | with_reducible apply State.setStt_keeps

theorem execSttRefqPop_keeps (s : State) : KeepsRes s (execSttRefqPop s) := by
  unfold execSttRefqPop
  repeat' first
    | with_reducible assumption
    | with_reducible refine KeepsRes.guarded fun x hx => ?_
    | with_reducible apply State.refqPop_keeps
    | with_reducible apply State.ack_keeps

theorem State.missedEdge_keeps (s : State) (i : Nat) (e : CalEntry) (kept : Keeps s₀ s) : Keeps s₀ (State.missedEdge s i e) := by
  unfold State.missedEdge
  repeat' first
    | with_reducible assumption
    | exact rfl
    | with_reducible apply State.setEnt_keeps
    | with_reducible apply State.calExpire_keeps
    | (extract_lets +onlyGivenNames x; clear_value x)
    | split

theorem State.takeWaiting_keeps (s : State) (since i : Nat) (e : CalEntry) (kept : Keeps s₀ s) : Keeps s₀ (State.takeWaiting s since i e) := by
  unfold State.takeWaiting
  repeat' first
    | with_reducible assumption
    | exact rfl
    | with_reducible apply State.missedEdge_keeps
    | with_reducible apply State.calExpire_keeps
    | with_reducible apply State.calArm_keeps
    | with_reducible apply State.calWithdraw_keeps
    | split

theorem State.takeFired_keeps (s : State) (since i : Nat) (e : CalEntry) (kept : Keeps s₀ s) : Keeps s₀ (State.takeFired s since i e) := by
  unfold State.takeFired
  repeat' first
    | with_reducible assumption
    | exact rfl
    | with_reducible apply State.setEnt_keeps
    | split

theorem State.takeEntry_keeps (s : State) (since : Nat) (i : Nat) (kept : Keeps s₀ s) : Keeps s₀ (State.takeEntry s since i) := by
  unfold State.takeEntry
  repeat' first
    | with_reducible assumption
    | exact rfl
    | with_reducible apply State.takeWaiting_keeps
    | with_reducible apply State.takeFired_keeps
    | with_reducible apply State.missedEdge_keeps
    | with_reducible apply State.setEnt_keeps
    | (extract_lets +onlyGivenNames x; clear_value x)
    | split

theorem State.takeCalendar_keeps (s : State) (m : SMap (List Nat)) (since : Nat) (kept : Keeps s₀ s) : Keeps s₀ (State.takeCalendar s m since) := by
  unfold State.takeCalendar
  repeat' first
    | with_reducible assumption
    | exact rfl
    | with_reducible apply State.takeEntry_keeps
    | with_reducible refine Keeps.foldl ?_ fun _ _ _ => ?_
    | with_reducible refine Keeps.foldlFst ?_ fun _ _ _ => ?_
    | (extract_lets +onlyGivenNames x; clear_value x)
    | intro _
    | with_reducible refine Keeps.upd ?_ ?_ ?_

theorem State.takeSlot_keeps (s : State) (m : SMap (List Nat)) (n : Nat) (kept : Keeps s₀ s) : Keeps s₀ (State.takeSlot s m n) := by
  unfold State.takeSlot
  repeat' first
    | with_reducible assumption
    | exact rfl
    | with_reducible apply State.setSlot_keeps
    | with_reducible apply State.toSlot_keeps
    | with_reducible apply State.wr_keeps
    | (extract_lets +onlyGivenNames x; clear_value x)
    | split

theorem State.takeSawyer_keeps (s : State) (m : SMap (List Nat)) (n : Nat) (kept : Keeps s₀ s) : Keeps s₀ (State.takeSawyer s m n) := by
  unfold State.takeSawyer
  repeat' first
    | with_reducible assumption
    | exact rfl
    | with_reducible apply State.draw_keeps
    | with_reducible apply State.setSaw_keeps
    | with_reducible apply State.toSaw_keeps
    | with_reducible apply State.wrB_keeps
    | with_reducible apply State.wr_keeps
    | with_reducible apply State.wr64_keeps

theorem State.takeContext_keeps (s : State) (m : SMap (List Nat)) (c : Nat) (kept : Keeps s₀ s) : Keeps s₀ (State.takeContext s m c) := by
  unfold State.takeContext
  repeat' first
    | with_reducible assumption
    | with_reducible apply State.store_keeps
    | with_reducible apply State.boom_keeps
    | (extract_lets +onlyGivenNames x; clear_value x)
    | split

theorem State.takeSlices_keeps (s : State) (ens : Nat) (kept : Keeps s₀ s) : Keeps s₀ (State.takeSlices s ens) := by
  unfold State.takeSlices
  repeat' first
    | with_reducible assumption
    | exact rfl
    | with_reducible apply State.sliceEnable_keeps
    | with_reducible apply State.setSlice_keeps
    | with_reducible refine Keeps.foldl ?_ fun _ _ _ => ?_
    | (extract_lets +onlyGivenNames x; with_reducible refine Keeps.cut (x := x) ?_ fun _ => ?_; rotate_left; clear_value x; rotate_left; subst x)
    | (extract_lets +onlyGivenNames x; clear_value x)
    | split

theorem State.takeOutputs_keeps (s : State) (b : List Nat) (kept : Keeps s₀ s) : Keeps s₀ (State.takeOutputs s b) := by
  unfold State.takeOutputs
  repeat' first
    | with_reducible assumption
    | with_reducible apply State.store_keeps
    | with_reducible apply State.setCmd_keeps
    | with_reducible apply State.wr_keeps
    | with_reducible apply State.takeSlices_keeps
    | with_reducible refine Keeps.foldl ?_ fun _ _ _ => ?_
    | (extract_lets +onlyGivenNames x; clear_value x)
    | split

theorem State.takeCopy_keeps (s : State) (kept : Keeps s₀ s) : Keeps s₀ (State.takeCopy s) := by
  unfold State.takeCopy
  repeat' first
    | with_reducible assumption
    | with_reducible apply State.takeOutputs_keeps
    | with_reducible apply State.takeSlot_keeps
    | with_reducible apply State.takeSawyer_keeps
    | with_reducible apply State.takeContext_keeps
    | with_reducible apply State.takeCalendar_keeps
    | with_reducible refine Keeps.foldl ?_ fun _ _ _ => ?_

theorem State.grantIn_keeps (s : State) (kept : Keeps s₀ s) : Keeps s₀ (State.grantIn s) := by
  unfold State.grantIn
  repeat' first
    | with_reducible assumption
    | exact rfl
    | with_reducible apply State.claim_keeps
    | with_reducible apply State.answered_keeps
    | with_reducible apply State.raise_keeps
    | with_reducible apply State.toRole_keeps
    | with_reducible apply State.setStt_keeps
    | with_reducible apply State.takeCopy_keeps
    | with_reducible apply State.boom_keeps
    | (extract_lets +onlyGivenNames x; with_reducible refine Keeps.cut (x := x) ?_ fun _ => ?_; rotate_left; clear_value x; rotate_left; subst x)
    | (extract_lets +onlyGivenNames x; clear_value x)
    | split

theorem execGrantReceived_keeps (src named : Fin 4096) (s : State) : KeepsRes s (execGrantReceived src named s) := by
  unfold execGrantReceived
  repeat' first
    | with_reducible assumption
    | with_reducible refine KeepsRes.guarded fun x hx => ?_
    | with_reducible apply State.refWord_keeps
    | with_reducible apply State.grantIn_keeps

theorem State.becomeFenced_keeps (s : State) (kept : Keeps s₀ s) : Keeps s₀ (State.becomeFenced s) := by
  unfold State.becomeFenced
  repeat' first
    | with_reducible assumption
    | exact rfl
    | with_reducible apply State.keepAll_keeps
    | with_reducible apply State.draw_keeps
    | with_reducible apply State.setStt_keeps
    | with_reducible apply State.wr_keeps
    | with_reducible apply State.toRole_keeps
    | with_reducible apply State.raise_keeps
    | (extract_lets +onlyGivenNames x; with_reducible refine Keeps.cut (x := x) ?_ fun _ => ?_; rotate_left; clear_value x; rotate_left; subst x)
    | (extract_lets +onlyGivenNames x; clear_value x)
    | split
    | intro _
    | with_reducible refine Keeps.upd ?_ ?_ ?_

theorem State.fenceIn_keeps (s : State) (kept : Keeps s₀ s) : Keeps s₀ (State.fenceIn s) := by
  unfold State.fenceIn
  repeat' first
    | with_reducible assumption
    | with_reducible apply State.becomeFenced_keeps
    | with_reducible apply State.raise_keeps
    | (extract_lets +onlyGivenNames x; with_reducible refine Keeps.cut (x := x) ?_ fun _ => ?_; rotate_left; clear_value x; rotate_left; subst x)
    | split

theorem execFenceReceived_keeps (src named : Fin 4096) (s : State) : KeepsRes s (execFenceReceived src named s) := by
  unfold execFenceReceived
  repeat' first
    | with_reducible assumption
    | with_reducible refine KeepsRes.guarded fun x hx => ?_
    | with_reducible apply State.refWord_keeps
    | with_reducible apply State.fenceIn_keeps

theorem execFenceHoldExpiry_keeps (s : State) : KeepsRes s (execFenceHoldExpiry s) := by
  unfold execFenceHoldExpiry
  repeat' first
    | with_reducible assumption
    | exact rfl
    | with_reducible refine KeepsRes.guarded fun x hx => ?_
    | (extract_lets +onlyGivenNames x; clear_value x)
    | intro _
    | with_reducible refine Keeps.upd ?_ ?_ ?_

theorem execTwnFenceNFall_keeps (s : State) : KeepsRes s (execTwnFenceNFall s) := by
  unfold execTwnFenceNFall
  repeat' first
    | with_reducible assumption
    | with_reducible refine KeepsRes.guardedVigil fun x hx => ?_
    | with_reducible apply State.raise_keeps
    | with_reducible apply State.keepAll_keeps
    | with_reducible apply State.becomeFenced_keeps
    | (extract_lets +onlyGivenNames x; with_reducible refine Keeps.cut (x := x) ?_ fun _ => ?_; rotate_left; clear_value x; rotate_left; subst x)
    | split

theorem execTwnFenceNRise_keeps (s : State) : KeepsRes s (execTwnFenceNRise s) := by
  unfold execTwnFenceNRise
  repeat' first
    | with_reducible assumption
    | with_reducible refine KeepsRes.guardedVigil fun x hx => ?_
    | with_reducible apply State.wr_keeps

theorem State.designateIn_keeps (s : State) (kept : Keeps s₀ s) : Keeps s₀ (State.designateIn s) := by
  unfold State.designateIn
  repeat' first
    | with_reducible assumption
    | exact rfl
    | with_reducible apply State.answered_keeps
    | with_reducible apply State.setStt_keeps
    | with_reducible apply State.toRole_keeps
    | (extract_lets +onlyGivenNames x; with_reducible refine Keeps.cut (x := x) ?_ fun _ => ?_; rotate_left; clear_value x; rotate_left; subst x)
    | (extract_lets +onlyGivenNames x; clear_value x)
    | split

theorem execDesignateReceived_keeps (src named : Fin 4096) (s : State) : KeepsRes s (execDesignateReceived src named s) := by
  unfold execDesignateReceived
  repeat' first
    | with_reducible assumption
    | with_reducible refine KeepsRes.guarded fun x hx => ?_
    | with_reducible apply State.refWord_keeps
    | with_reducible apply State.designateIn_keeps

theorem State.refuseIn_keeps (s : State) (kept : Keeps s₀ s) : Keeps s₀ (State.refuseIn s) := by
  unfold State.refuseIn
  repeat' first
    | with_reducible assumption
    | with_reducible apply State.answered_keeps
    | with_reducible apply State.raise_keeps

theorem execRefuseReceived_keeps (src named : Fin 4096) (s : State) : KeepsRes s (execRefuseReceived src named s) := by
  unfold execRefuseReceived
  repeat' first
    | with_reducible assumption
    | with_reducible refine KeepsRes.guarded fun x hx => ?_
    | with_reducible apply State.refWord_keeps
    | with_reducible apply State.refuseIn_keeps

theorem State.refcmdIn_keeps (s : State) (init : Initiator) (src w : Nat) (kept : Keeps s₀ s) : Keeps s₀ (State.refcmdIn s init src w) := by
  unfold State.refcmdIn
  repeat' first
    | with_reducible assumption
    | exact rfl
    | with_reducible apply State.refWord_keeps
    | with_reducible apply State.grantIn_keeps
    | with_reducible apply State.fenceIn_keeps
    | with_reducible apply State.designateIn_keeps
    | with_reducible apply State.refuseIn_keeps
    | with_reducible apply State.claim_keeps
    | (extract_lets +onlyGivenNames x; clear_value x)
    | split
    | intro _

theorem State.sttCtl_keeps (s : State) (init : Initiator) (resign resync frel : Bool) (kept : Keeps s₀ s) : Keeps s₀ (State.sttCtl s init resign resync frel) := by
  unfold State.sttCtl
  repeat' first
    | with_reducible assumption
    | exact rfl
    | with_reducible apply State.resign_keeps
    | with_reducible apply State.refuseReg_keeps
    | with_reducible apply State.wr_keeps
    | with_reducible apply State.setStt_keeps
    | with_reducible apply State.ack_keeps
    | (extract_lets +onlyGivenNames x; with_reducible refine Keeps.cut (x := x) ?_ fun _ => ?_; rotate_left; clear_value x; rotate_left; subst x)
    | (extract_lets +onlyGivenNames x; clear_value x)
    | split

theorem execResign_keeps (init : Initiator) (s : State) : KeepsRes s (execResign init s) := by
  unfold execResign
  repeat' first
    | with_reducible assumption
    | with_reducible refine KeepsRes.guarded fun x hx => ?_
    | with_reducible apply State.sttCtl_keeps

theorem execResync_keeps (init : Initiator) (s : State) : KeepsRes s (execResync init s) := by
  unfold execResync
  repeat' first
    | with_reducible assumption
    | with_reducible refine KeepsRes.guarded fun x hx => ?_
    | with_reducible apply State.sttCtl_keeps

theorem execFrel_keeps (init : Initiator) (s : State) : KeepsRes s (execFrel init s) := by
  unfold execFrel
  repeat' first
    | with_reducible assumption
    | with_reducible refine KeepsRes.guarded fun x hx => ?_
    | with_reducible apply State.sttCtl_keeps

theorem State.peerIn_keeps (s : State) (init : Initiator) (src w : Nat) (kept : Keeps s₀ s) : Keeps s₀ (State.peerIn s init src w) := by
  unfold State.peerIn
  repeat' first
    | with_reducible assumption
    | exact rfl
    | with_reducible apply State.refuseReg_keeps
    | with_reducible apply State.wr_keeps
    | with_reducible apply State.setStt_keeps
    | with_reducible apply State.ack_keeps
    | with_reducible refine Keeps.foldl ?_ fun _ _ _ => ?_
    | (extract_lets +onlyGivenNames x; with_reducible refine Keeps.cut (x := x) ?_ fun _ => ?_; rotate_left; clear_value x; rotate_left; subst x)
    | (extract_lets +onlyGivenNames x; clear_value x)
    | split

theorem State.writeReport_keeps (s : State) (copied : Bool) (kept : Keeps s₀ s) : Keeps s₀ (State.writeReport s copied) := by
  unfold State.writeReport
  repeat' first
    | with_reducible assumption
    | exact rfl
    | with_reducible apply State.wrB_keeps
    | with_reducible apply State.setStt_keeps
    | with_reducible apply State.raise_keeps
    | (extract_lets +onlyGivenNames x; with_reducible refine Keeps.cut (x := x) ?_ fun _ => ?_; rotate_left; clear_value x; rotate_left; subst x)
    | (extract_lets +onlyGivenNames x; clear_value x)
    | split

theorem State.toUnsync_keeps (s : State) (kept : Keeps s₀ s) : Keeps s₀ (State.toUnsync s) := by
  unfold State.toUnsync
  repeat' first
    | with_reducible assumption
    | with_reducible apply State.wr_keeps
    | with_reducible apply State.toRole_keeps
    | split

theorem State.standbyBoundary_keeps (s : State) (cycle : Nat) (kept : Keeps s₀ s) : Keeps s₀ (State.standbyBoundary s cycle) := by
  unfold State.standbyBoundary
  repeat' first
    | with_reducible assumption
    | exact rfl
    | with_reducible apply State.bump_keeps
    | with_reducible apply State.raise_keeps
    | with_reducible apply State.setStt_keeps
    | with_reducible apply State.writeReport_keeps
    | with_reducible apply State.toUnsync_keeps
    | with_reducible apply State.toRole_keeps
    | with_reducible apply State.sendReport_keeps
    | with_reducible apply State.claim_keeps
    | (extract_lets +onlyGivenNames x; clear_value x)
    | split

theorem State.twinBoundary_keeps (s : State) (cycle : Nat) (kept : Keeps s₀ s) : Keeps s₀ (State.twinBoundary s cycle) := by
  unfold State.twinBoundary
  repeat' first
    | with_reducible assumption
    | exact rfl
    | with_reducible apply State.setStt_keeps
    | with_reducible apply State.standbyBoundary_keeps
    | with_reducible apply State.snapshot_keeps
    | (extract_lets +onlyGivenNames x; clear_value x)
    | split

theorem execStandbySelfTestStart_keeps (bank : Option (Fin 16)) (port : Fin 8) (s : State) : KeepsRes s (execStandbySelfTestStart bank port s) := by
  unfold execStandbySelfTestStart
  repeat' first
    | with_reducible assumption
    | exact rfl
    | with_reducible refine KeepsRes.guarded fun x hx => ?_
    | with_reducible apply State.fldLb_keeps
    | (extract_lets +onlyGivenNames x; have _ : BomState := x; subst x)
    | split
    | intro _
    | with_reducible refine Keeps.upd ?_ ?_ ?_

end Sys2Proof.Machine
end

