-- ==== Sys2Proof/Laws/KeepsDma.lean ====
section
/-! SUPPORT. The operations of Machine/Dma.lean keep the canonical forms, the queue and what was sent. -/

namespace Sys2Proof.Machine

variable {s₀ : State}

theorem State.setDmx_keeps (s : State) (x : DmxState) (kept : Keeps s₀ s) : Keeps s₀ (State.setDmx s x) := by
  unfold State.setDmx
  repeat' first
    | with_reducible assumption
    | exact rfl
    | with_reducible refine Keeps.upd ?_ ?_ ?_

theorem State.setBrg_keeps (s : State) (x : BrgState) (kept : Keeps s₀ s) : Keeps s₀ (State.setBrg s x) := by
  unfold State.setBrg
  repeat' first
    | with_reducible assumption
    | exact rfl
    | with_reducible refine Keeps.upd ?_ ?_ ?_

theorem State.setCtx_keeps (s : State) (c off n v : Nat) (kept : Keeps s₀ s) : Keeps s₀ (State.setCtx s c off n v) := by
  unfold State.setCtx
  repeat' first
    | with_reducible assumption
    | with_reducible apply State.store_keeps

theorem State.toCtx_keeps (s : State) (c st : Nat) (kept : Keeps s₀ s) : Keeps s₀ (State.toCtx s c st) := by
  unfold State.toCtx
  repeat' first
    | with_reducible assumption
    | with_reducible apply State.setCtx_keeps

theorem State.contextWrite_keeps (s : State) (init : Initiator) (off : Nat) (bs : List Nat) (kept : Keeps s₀ s) : Keeps s₀ (State.contextWrite s init off bs) := by
  unfold State.contextWrite
  repeat' first
    | with_reducible assumption
    | with_reducible apply State.refuse_keeps
    | with_reducible apply State.store_keeps
    | with_reducible apply State.ack_keeps
    | split

theorem State.contextRead_keeps (s : State) (init : Initiator) (off len : Nat) (kept : Keeps s₀ s) : Keeps s₀ (State.contextRead s init off len) := by
  unfold State.contextRead
  repeat' first
    | with_reducible assumption
    | with_reducible apply State.give_keeps
    | with_reducible apply State.refuse_keeps
    | split

theorem State.freeEngine_keeps (s : State) (e : Nat) (kept : Keeps s₀ s) : Keeps s₀ (State.freeEngine s e) := by
  unfold State.freeEngine
  repeat' first
    | with_reducible assumption
    | exact rfl
    | with_reducible apply State.setDmx_keeps
    | with_reducible apply State.wr_keeps

theorem State.releaseCtx_keeps (s : State) (c : Nat) (kept : Keeps s₀ s) : Keeps s₀ (State.releaseCtx s c) := by
  unfold State.releaseCtx
  repeat' first
    | with_reducible assumption
    | exact rfl
    | with_reducible apply State.freeEngine_keeps
    | split

theorem State.setEngine_keeps (s : State) (e : Nat) (x : Engine) (kept : Keeps s₀ s) : Keeps s₀ (State.setEngine s e x) := by
  unfold State.setEngine
  repeat' first
    | with_reducible assumption
    | exact rfl
    | with_reducible apply State.setDmx_keeps

theorem State.ownStore_keeps (s : State) (fa : Nat) (bs : List Nat) (kept : Keeps s₀ s) : Keeps s₀ (State.ownStore s fa bs) := by
  unfold State.ownStore
  repeat' first
    | with_reducible assumption
    | with_reducible apply State.emit_keeps
    | with_reducible apply State.store_keeps
    | split

theorem State.setStatus_keeps (s : State) (c i v : Nat) (kept : Keeps s₀ s) : Keeps s₀ (State.setStatus s c i v) := by
  unfold State.setStatus
  repeat' first
    | with_reducible assumption
    | with_reducible apply State.ownStore_keeps

theorem State.ctxFails_keeps (s : State) (c code : Nat) (kept : Keeps s₀ s) : Keeps s₀ (State.ctxFails s c code) := by
  unfold State.ctxFails
  repeat' first
    | with_reducible assumption
    | with_reducible apply State.setStatus_keeps
    | with_reducible apply State.toCtx_keeps
    | with_reducible apply State.releaseCtx_keeps
    | with_reducible apply State.raise_keeps

theorem State.doorbell_keeps (s : State) (c tail : Nat) (kept : Keeps s₀ s) : Keeps s₀ (State.doorbell s c tail) := by
  unfold State.doorbell
  repeat' first
    | with_reducible assumption
    | with_reducible apply State.setCtx_keeps
    | with_reducible apply State.toCtx_keeps
    | (extract_lets +onlyGivenNames x; with_reducible refine Keeps.cut (x := x) ?_ fun _ => ?_; rotate_left; clear_value x; rotate_left; subst x)
    | split

theorem execDmxDb_keeps (context : Fin 4096) (tail : Fin 4096) (s : State) : KeepsRes s (execDmxDb context tail s) := by
  unfold execDmxDb
  repeat' first
    | with_reducible assumption
    | with_reducible refine KeepsRes.guarded fun x hx => ?_
    | with_reducible apply State.doorbell_keeps
    | with_reducible apply State.ack_keeps

theorem State.abortNow_keeps (s : State) (c : Nat) (kept : Keeps s₀ s) : Keeps s₀ (State.abortNow s c) := by
  unfold State.abortNow
  repeat' first
    | with_reducible assumption
    | exact rfl
    | with_reducible apply State.setStatus_keeps
    | with_reducible apply State.setCtx_keeps
    | with_reducible apply State.store_keeps
    | with_reducible apply State.setDmx_keeps
    | with_reducible apply State.toCtx_keeps
    | with_reducible refine Keeps.foldl ?_ fun _ _ _ => ?_

theorem State.inval_keeps (s : State) (c : Nat) (kept : Keeps s₀ s) : Keeps s₀ (State.inval s c) := by
  unfold State.inval
  repeat' first
    | with_reducible assumption
    | exact rfl
    | with_reducible apply State.setDmx_keeps

theorem State.dmxDo_keeps (s : State) (b op c : Nat) (kept : Keeps s₀ s) : Keeps s₀ (State.dmxDo s b op c).1 := by
  unfold State.dmxDo
  repeat' first
    | with_reducible assumption
    | exact rfl
    | with_reducible apply State.toCtx_keeps
    | with_reducible apply State.setDmx_keeps
    | with_reducible apply State.abortNow_keeps
    | with_reducible apply State.inval_keeps
    | (extract_lets +onlyGivenNames x; clear_value x)
    | split

theorem State.dmxCmd_keeps (s : State) (init : Initiator) (op c : Nat) (go : Bool) (kept : Keeps s₀ s) : Keeps s₀ (State.dmxCmd s init op c go) := by
  unfold State.dmxCmd
  repeat' first
    | with_reducible assumption
    | exact rfl
    | with_reducible refine Keeps.fst (by with_reducible assumption) ?_
    | with_reducible apply State.wr_keeps
    | with_reducible apply State.resStart_keeps
    | with_reducible apply State.dmxDo_keeps
    | with_reducible apply State.resDone_keeps
    | with_reducible apply State.ack_keeps
    | (extract_lets +onlyGivenNames x; with_reducible refine Keeps.cut (x := x) ?_ fun _ => ?_; rotate_left; clear_value x; rotate_left; subst x)
    | (extract_lets +onlyGivenNames x; clear_value x)
    | split

theorem execEnable_keeps (init : Initiator) (context : Fin 4096) (s : State) : KeepsRes s (execEnable init context s) := by
  unfold execEnable
  repeat' first
    | with_reducible assumption
    | with_reducible refine KeepsRes.guarded fun x hx => ?_
    | with_reducible apply State.dmxCmd_keeps

theorem execResume_keeps (init : Initiator) (context : Fin 4096) (s : State) : KeepsRes s (execResume init context s) := by
  unfold execResume
  repeat' first
    | with_reducible assumption
    | with_reducible refine KeepsRes.guarded fun x hx => ?_
    | with_reducible apply State.dmxCmd_keeps

theorem execAbort_keeps (init : Initiator) (context : Fin 4096) (s : State) : KeepsRes s (execAbort init context s) := by
  unfold execAbort
  repeat' first
    | with_reducible assumption
    | with_reducible refine KeepsRes.guarded fun x hx => ?_
    | with_reducible apply State.dmxCmd_keeps

theorem execDisable_keeps (init : Initiator) (context : Fin 4096) (s : State) : KeepsRes s (execDisable init context s) := by
  unfold execDisable
  repeat' first
    | with_reducible assumption
    | with_reducible refine KeepsRes.guarded fun x hx => ?_
    | with_reducible apply State.dmxCmd_keeps

theorem execInval_keeps (init : Initiator) (context : Fin 4096) (s : State) : KeepsRes s (execInval init context s) := by
  unfold execInval
  repeat' first
    | with_reducible assumption
    | with_reducible refine KeepsRes.guarded fun x hx => ?_
    | with_reducible apply State.dmxCmd_keeps

theorem execEngineTakeContext_keeps (engine : Fin 16) (s : State) : KeepsRes s (execEngineTakeContext engine s) := by
  unfold execEngineTakeContext
  repeat' first
    | with_reducible assumption
    | exact rfl
    | with_reducible refine KeepsRes.guarded fun x hx => ?_
    | with_reducible apply State.toCtx_keeps
    | with_reducible apply State.setEngine_keeps
    | with_reducible apply State.raise_keeps
    | with_reducible apply State.wr_keeps
    | (extract_lets +onlyGivenNames x; clear_value x)
    | split

theorem execPreempt_keeps (engine : Fin 16) (s : State) : KeepsRes s (execPreempt engine s) := by
  unfold execPreempt
  repeat' first
    | with_reducible assumption
    | exact rfl
    | with_reducible refine KeepsRes.guarded fun x hx => ?_
    | with_reducible apply State.toCtx_keeps
    | with_reducible apply State.bump_keeps
    | (extract_lets +onlyGivenNames x; clear_value x)
    | split

theorem State.ctxFaulted_keeps (s : State) (c : Nat) (f : HeldFault) (kept : Keeps s₀ s) : Keeps s₀ (State.ctxFaulted s c f) := by
  unfold State.ctxFaulted
  repeat' first
    | with_reducible assumption
    | exact rfl
    | with_reducible apply State.setDmx_keeps
    | with_reducible apply State.bump_keeps
    | with_reducible apply State.raise_keeps
    | with_reducible apply State.setCtx_keeps
    | with_reducible apply State.toCtx_keeps
    | with_reducible apply State.releaseCtx_keeps
    | (extract_lets +onlyGivenNames x; clear_value x)
    | split

theorem execSaveComplete_keeps (engine : Fin 16) (s : State) : KeepsRes s (execSaveComplete engine s) := by
  unfold execSaveComplete
  repeat' first
    | with_reducible assumption
    | exact rfl
    | with_reducible refine KeepsRes.guarded fun x hx => ?_
    | with_reducible apply State.setDmx_keeps
    | with_reducible apply State.freeEngine_keeps
    | with_reducible apply State.abortNow_keeps
    | with_reducible apply State.resDone_keeps
    | with_reducible apply State.ctxFaulted_keeps
    | with_reducible apply State.toCtx_keeps
    | (extract_lets +onlyGivenNames x; with_reducible refine Keeps.cut (x := x) ?_ fun _ => ?_; rotate_left; clear_value x; rotate_left; subst x)
    | (extract_lets +onlyGivenNames x; clear_value x)
    | split

theorem State.fqPop_keeps (s : State) (kept : Keeps s₀ s) : Keeps s₀ (State.fqPop s) := by
  unfold State.fqPop
  repeat' first
    | with_reducible assumption
    | exact rfl
    | with_reducible apply State.setDmx_keeps

theorem execDmxFqPop_keeps (s : State) : KeepsRes s (execDmxFqPop s) := by
  unfold execDmxFqPop
  repeat' first
    | with_reducible assumption
    | with_reducible refine KeepsRes.guarded fun x hx => ?_
    | with_reducible apply State.fqPop_keeps
    | with_reducible apply State.ack_keeps

theorem execDescriptorFetch_keeps (engine : Fin 16) (host : List Byte) (s : State) : KeepsRes s (execDescriptorFetch engine host s) := by
  unfold execDescriptorFetch
  repeat' first
    | with_reducible assumption
    | exact rfl
    | with_reducible refine KeepsRes.guarded fun x hx => ?_
    | with_reducible apply State.ctxFails_keeps
    | with_reducible apply State.store_keeps
    | with_reducible apply State.setEngine_keeps
    | (extract_lets +onlyGivenNames x; clear_value x)
    | split

theorem State.descDone_keeps (s : State) (c code : Nat) (kept : Keeps s₀ s) : Keeps s₀ (State.descDone s c code) := by
  unfold State.descDone
  repeat' first
    | with_reducible assumption
    | exact rfl
    | with_reducible apply State.setStatus_keeps
    | with_reducible apply State.setCtx_keeps
    | with_reducible apply State.store_keeps
    | with_reducible apply State.emit_keeps
    | with_reducible apply State.raise_keeps
    | with_reducible apply State.toCtx_keeps
    | with_reducible apply State.freeEngine_keeps
    | with_reducible apply State.setEngine_keeps
    | (extract_lets +onlyGivenNames x; with_reducible refine Keeps.cut (x := x) ?_ fun _ => ?_; rotate_left; clear_value x; rotate_left; subst x)
    | (extract_lets +onlyGivenNames x; clear_value x)
    | split

theorem State.doorbellFirst_keeps (s : State) (c : Nat) (kept : Keeps s₀ s) : Keeps s₀ (State.doorbellFirst s c) := by
  unfold State.doorbellFirst
  repeat' first
    | with_reducible assumption
    | exact rfl
    | with_reducible apply State.setCtx_keeps
    | with_reducible refine Keeps.foldl ?_ fun _ _ _ => ?_
    | (extract_lets +onlyGivenNames x; clear_value x)
    | split

theorem execDescriptorComplete_keeps (context : Fin 4096) (s : State) : KeepsRes s (execDescriptorComplete context s) := by
  unfold execDescriptorComplete
  repeat' first
    | with_reducible assumption
    | with_reducible refine KeepsRes.guarded fun x hx => ?_
    | with_reducible apply State.doorbellFirst_keeps
    | with_reducible apply State.descDone_keeps
    | (extract_lets +onlyGivenNames x; clear_value x)
    | split

theorem State.walked_keeps (s : State) (c va : Nat) (dest ahead : Bool) (given1 given2 : Option Nat) (kept : Keeps s₀ s) : Keeps s₀ (State.walked s c va dest ahead given1 given2) := by
  unfold State.walked
  repeat' first
    | with_reducible assumption
    | exact rfl
    | with_reducible apply State.bump_keeps
    | with_reducible apply State.setDmx_keeps
    | (extract_lets +onlyGivenNames x; with_reducible refine Keeps.cut (x := x) ?_ fun _ => ?_; rotate_left; clear_value x; rotate_left; subst x)
    | (extract_lets +onlyGivenNames x; clear_value x)
    | split

theorem execTableWalk_keeps (engine : Fin 16) (dest : Bool) (given1 given2 : Option (BitVec 64)) (s : State) : KeepsRes s (execTableWalk engine dest given1 given2 s) := by
  unfold execTableWalk
  repeat' first
    | with_reducible assumption
    | exact rfl
    | with_reducible refine KeepsRes.guarded fun x hx => ?_
    | with_reducible apply State.walked_keeps
    | (extract_lets +onlyGivenNames x; clear_value x)
    | split

theorem execLookaheadWalk_keeps (engine : Fin 16) (dest : Bool) (given1 given2 : Option (BitVec 64)) (s : State) : KeepsRes s (execLookaheadWalk engine dest given1 given2 s) := by
  unfold execLookaheadWalk
  repeat' first
    | with_reducible assumption
    | exact rfl
    | with_reducible refine KeepsRes.guarded fun x hx => ?_
    | with_reducible apply State.walked_keeps
    | (extract_lets +onlyGivenNames x; clear_value x)
    | split

theorem execDmaFaultEffect_keeps (engine : Fin 16) (s : State) : KeepsRes s (execDmaFaultEffect engine s) := by
  unfold execDmaFaultEffect
  repeat' first
    | with_reducible assumption
    | exact rfl
    | with_reducible refine KeepsRes.guarded fun x hx => ?_
    | with_reducible apply State.ctxFaulted_keeps
    | (extract_lets +onlyGivenNames x; clear_value x)
    | split

theorem State.dropDmaTags_keeps (s : State) (c : Nat) (kept : Keeps s₀ s) : Keeps s₀ (State.dropDmaTags s c) := by
  unfold State.dropDmaTags
  repeat' first
    | with_reducible assumption
    | exact rfl
    | with_reducible apply State.setBrg_keeps

theorem State.dmaAcked_keeps (s : State) (c n : Nat) (kept : Keeps s₀ s) : Keeps s₀ (State.dmaAcked s c n) := by
  unfold State.dmaAcked
  repeat' first
    | with_reducible assumption
    | exact rfl
    | with_reducible apply State.setCtx_keeps
    | with_reducible apply State.setDmx_keeps

theorem State.ctxError_keeps (s : State) (c code : Nat) (kept : Keeps s₀ s) : Keeps s₀ (State.ctxError s c code) := by
  unfold State.ctxError
  repeat' first
    | with_reducible assumption
    | exact rfl
    | with_reducible apply State.setDmx_keeps
    | with_reducible apply State.releaseCtx_keeps
    | with_reducible apply State.abortNow_keeps
    | with_reducible apply State.resDone_keeps
    | with_reducible apply State.ctxFails_keeps
    | (extract_lets +onlyGivenNames x; with_reducible refine Keeps.cut (x := x) ?_ fun _ => ?_; rotate_left; clear_value x; rotate_left; subst x)
    | (extract_lets +onlyGivenNames x; clear_value x)
    | split

theorem execDmaAckRsp_keeps (tag : Fin 256) (s : State) : KeepsRes s (execDmaAckRsp tag s) := by
  unfold execDmaAckRsp
  repeat' first
    | with_reducible assumption
    | exact rfl
    | with_reducible refine KeepsRes.guarded fun x hx => ?_
    | with_reducible apply State.setBrg_keeps
    | with_reducible apply State.dmaAcked_keeps
    | (extract_lets +onlyGivenNames x; clear_value x)
    | split

theorem State.ctxRewind_keeps (s : State) (c : Nat) (kept : Keeps s₀ s) : Keeps s₀ (State.ctxRewind s c) := by
  unfold State.ctxRewind
  repeat' first
    | with_reducible assumption
    | with_reducible apply State.setCtx_keeps
    | with_reducible apply State.bump_keeps
    | with_reducible apply State.raise_keeps
    | split

theorem State.ctxRetry_keeps (s : State) (c n : Nat) (kept : Keeps s₀ s) : Keeps s₀ (State.ctxRetry s c n) := by
  unfold State.ctxRetry
  repeat' first
    | with_reducible assumption
    | exact rfl
    | with_reducible apply State.setDmx_keeps
    | with_reducible apply State.ctxError_keeps
    | with_reducible apply State.ctxRewind_keeps
    | (extract_lets +onlyGivenNames x; clear_value x)
    | split

theorem State.ctxReissue_keeps (s : State) (c : Nat) (kept : Keeps s₀ s) : Keeps s₀ (State.ctxReissue s c) := by
  unfold State.ctxReissue
  repeat' first
    | with_reducible assumption
    | exact rfl
    | with_reducible apply State.setEngine_keeps
    | split

theorem execDmaTmoRewind_keeps (context : Fin 4096) (s : State) : KeepsRes s (execDmaTmoRewind context s) := by
  unfold execDmaTmoRewind
  repeat' first
    | with_reducible assumption
    | with_reducible refine KeepsRes.guarded fun x hx => ?_
    | with_reducible apply State.dropDmaTags_keeps
    | with_reducible apply State.ctxReissue_keeps
    | with_reducible apply State.ctxRetry_keeps
    | (extract_lets +onlyGivenNames x; clear_value x)
    | split

end Sys2Proof.Machine
end

