-- ==== Sys2Proof/Laws/KeepsPower.lean ====
section
/-! SUPPORT. The operations of Machine/Power.lean keep the canonical forms, the queue and what was sent. -/

namespace Sys2Proof.Machine

variable {s₀ : State}

theorem State.keepPins_keeps (s : State) (n : Nat) (kept : Keeps s₀ s) : Keeps s₀ (State.keepPins s n) := by
  unfold State.keepPins
  repeat' first
    | with_reducible assumption
    | exact rfl
    | with_reducible refine Keeps.foldl ?_ fun _ _ _ => ?_
    | (extract_lets +onlyGivenNames x; clear_value x)
    | split
    | intro _
    | with_reducible refine Keeps.upd ?_ ?_ ?_

theorem State.sleep_keeps (s : State) (n st : Nat) (kept : Keeps s₀ s) : Keeps s₀ (State.sleep s n st) := by
  unfold State.sleep
  repeat' first
    | with_reducible assumption
    | exact rfl
    | with_reducible apply State.keepPins_keeps
    | with_reducible apply State.toPower_keeps
    | with_reducible apply State.bump_keeps
    | (extract_lets +onlyGivenNames x; with_reducible refine Keeps.cut (x := x) ?_ fun _ => ?_; rotate_left; clear_value x; rotate_left; subst x)
    | (extract_lets +onlyGivenNames x; clear_value x)
    | split
    | with_reducible refine Keeps.upd ?_ ?_ ?_

theorem State.powerIdle_keeps (s : State) (n : Nat) (kept : Keeps s₀ s) : Keeps s₀ (State.powerIdle s n) := by
  unfold State.powerIdle
  repeat' first
    | with_reducible assumption
    | exact rfl
    | with_reducible apply State.sleep_keeps
    | split

theorem execPowerSliceIdle_keeps (slice : Fin 64) (s : State) : KeepsRes s (execPowerSliceIdle slice s) := by
  unfold execPowerSliceIdle
  repeat' first
    | with_reducible assumption
    | with_reducible refine KeepsRes.guarded fun x hx => ?_
    | with_reducible apply State.powerIdle_keeps

theorem State.wakeStart_keeps (s : State) (n : Nat) (kept : Keeps s₀ s) : Keeps s₀ (State.wakeStart s n) := by
  unfold State.wakeStart
  repeat' first
    | with_reducible assumption
    | with_reducible apply State.wake_keeps
    | with_reducible apply State.mark_keeps
    | split

theorem execWakeStart_keeps (slice : Fin 64) (s : State) : KeepsRes s (execWakeStart slice s) := by
  unfold execWakeStart
  repeat' first
    | with_reducible assumption
    | with_reducible refine KeepsRes.guarded fun x hx => ?_
    | with_reducible apply State.wakeStart_keeps

theorem execWakeOnEdge_keeps (slice : Fin 64) (pin : Fin 16) (s : State) : KeepsRes s (execWakeOnEdge slice pin s) := by
  unfold execWakeOnEdge
  repeat' first
    | with_reducible assumption
    | with_reducible refine KeepsRes.guarded fun x hx => ?_
    | with_reducible apply State.wakeStart_keeps
    | split

theorem State.listWrite_keeps (s : State) (init : Initiator) (n off : Nat) (kept : Keeps s₀ s) : Keeps s₀ (State.listWrite s init n off) := by
  unfold State.listWrite
  repeat' first
    | with_reducible assumption
    | with_reducible apply State.mark_keeps
    | with_reducible apply State.wr_keeps
    | with_reducible apply State.ack_keeps
    | with_reducible apply State.raise_keeps
    | with_reducible apply State.capture_keeps
    | (extract_lets +onlyGivenNames x; with_reducible refine Keeps.cut (x := x) ?_ fun _ => ?_; rotate_left; clear_value x; rotate_left; subst x)
    | split

theorem execPwrListWrite_keeps (init : Initiator) (slice : Fin 64) (off : BitVec 22) (s : State) : KeepsRes s (execPwrListWrite init slice off s) := by
  unfold execPwrListWrite
  repeat' first
    | with_reducible assumption
    | with_reducible refine KeepsRes.guarded fun x hx => ?_
    | with_reducible apply State.listWrite_keeps

/-- The Boom queue is emptied. -/
theorem Keeps.emptied {s : State} (kept : Keeps s₀ s) : Keeps s₀ { s with bom := { s.bom with queue := [] } } :=
  ⟨fun g => ⟨(kept.good g).mem, (kept.good g).regs, Nat.zero_le _⟩, kept.pending, kept.egress⟩

theorem State.boomOut_keeps (s : State) (kept : Keeps s₀ s) : Keeps s₀ (State.boomOut s) :=
  Keeps.foldl kept.emptied fun t r h => State.boomWrite_keeps t r h

theorem State.stopEngines_keeps (s : State) (kept : Keeps s₀ s) : Keeps s₀ (State.stopEngines s) := by
  unfold State.stopEngines
  repeat' first
    | with_reducible assumption
    | with_reducible apply State.sliceStop_keeps
    | with_reducible apply State.canEnable_keeps
    | with_reducible apply State.sawEnable_keeps
    | with_reducible refine Keeps.foldl ?_ fun _ _ _ => ?_
    | (extract_lets +onlyGivenNames x; clear_value x)
    | split

theorem State.pwrCtl_keeps (s : State) (standby : Bool) (kept : Keeps s₀ s) : Keeps s₀ (State.pwrCtl s standby) := by
  unfold State.pwrCtl
  repeat' first
    | with_reducible assumption
    | exact rfl
    | with_reducible apply State.resStart_keeps
    | with_reducible apply State.resDone_keeps
    | with_reducible apply State.boomOut_keeps
    | with_reducible apply State.stopEngines_keeps
    | with_reducible apply State.hvLinkLost_keeps
    | (extract_lets +onlyGivenNames x; with_reducible refine Keeps.cut (x := x) ?_ fun _ => ?_; rotate_left; clear_value x; rotate_left; subst x)
    | (extract_lets +onlyGivenNames x; clear_value x)
    | split
    | with_reducible refine Keeps.upd ?_ ?_ ?_

theorem execStandby_keeps (s : State) : KeepsRes s (execStandby s) := by
  unfold execStandby
  repeat' first
    | with_reducible assumption
    | with_reducible refine KeepsRes.guarded fun x hx => ?_
    | with_reducible apply State.pwrCtl_keeps
    | with_reducible apply State.ack_keeps

end Sys2Proof.Machine
end

