-- ==== Sys2Proof/Laws/KeepsAccess.lean ====
section
/-! SUPPORT. The operations of Machine/Access.lean keep the canonical forms, the queue and what was sent. -/

namespace Sys2Proof.Machine

variable {s₀ : State}

theorem State.loadField_keeps (s : State) (f : FRow) (place v : Nat) (kept : Keeps s₀ s) : Keeps s₀ (State.loadField s f place v) := by
  unfold State.loadField
  repeat' first
    | with_reducible assumption
    | exact rfl
    | with_reducible refine Keeps.fst (by with_reducible assumption) ?_
    | with_reducible apply State.loadA_keeps
    | with_reducible apply State.place_keeps
    | with_reducible apply State.wr_keeps
    | split

theorem State.loadReg_keeps (s : State) (off pers word : Nat) (kept : Keeps s₀ s) : Keeps s₀ (State.loadReg s off pers word) := by
  unfold State.loadReg
  repeat' first
    | with_reducible assumption
    | exact rfl
    | with_reducible refine Keeps.fst (by with_reducible assumption) ?_
    | with_reducible apply State.loadField_keeps
    | with_reducible apply State.place_keeps
    | with_reducible refine Keeps.foldl ?_ fun _ _ _ => ?_
    | split

theorem State.loadBits_keeps (s : State) (f : Fld) (lo w v : Nat) (h : Keeps s₀ s) : Keeps s₀ (State.loadBits s f lo w v) := by
  unfold State.loadBits
  dsimp only
  split
  · exact State.setDeparting_keeps _ _ (State.markLoaded_keeps _ _ (State.wr_keeps _ _ (Keeps.upd h)))
  · exact State.markLoaded_keeps _ _ (State.wr_keeps _ _ (Keeps.upd h))

theorem State.endDepartures_keeps (s : State) (keys : List Nat) (kept : Keeps s₀ s) : Keeps s₀ (State.endDepartures s keys) := by
  unfold State.endDepartures
  repeat' first
    | with_reducible assumption
    | exact rfl
    | with_reducible apply State.wr_keeps
    | with_reducible apply State.setDeparting_keeps
    | with_reducible refine Keeps.foldl ?_ fun _ _ _ => ?_
    | (extract_lets +onlyGivenNames x; clear_value x)
    | split

theorem State.clearRegs_keeps (s : State) (p : Nat → Bool) (h : Keeps s₀ s) : Keeps s₀ (State.clearRegs s p) :=
  (State.regsFilter_keeps (fun x => !(p (x.1 / 32))) h).same rfl rfl rfl rfl rfl

end Sys2Proof.Machine
end

