-- ==== Sys2Proof/Laws/KeepsAlmApply.lean ====
section
/-! SUPPORT. The operations of Machine/AlmApply.lean keep the canonical forms, the queue and what was sent. -/

namespace Sys2Proof.Machine

variable {s₀ : State}

theorem State.loadWords_keeps (s : State) (l : List (Nat × Nat)) (kept : Keeps s₀ s) : Keeps s₀ (State.loadWords s l) := by
  unfold State.loadWords
  repeat' first
    | with_reducible assumption
    | with_reducible apply State.loadReg_keeps
    | with_reducible refine Keeps.foldl ?_ fun _ _ _ => ?_

theorem State.loadsA_keeps (s : State) (l : List (Fld × Nat)) (kept : Keeps s₀ s) : Keeps s₀ (State.loadsA s l) := by
  unfold State.loadsA
  repeat' first
    | with_reducible assumption
    | with_reducible apply State.loadA_keeps
    | with_reducible refine Keeps.foldl ?_ fun _ _ _ => ?_

theorem State.loadsF_keeps (s : State) (l : List (Fld × Nat)) (kept : Keeps s₀ s) : Keeps s₀ (State.loadsF s l) := by
  unfold State.loadsF
  repeat' first
    | with_reducible assumption
    | with_reducible apply State.wr_keeps
    | with_reducible refine Keeps.foldl ?_ fun _ _ _ => ?_

theorem State.loadSlice_keeps (s : State) (n : Nat) (o : Option Section) (kept : Keeps s₀ s) : Keeps s₀ (State.loadSlice s n o) := by
  unfold State.loadSlice
  repeat' first
    | with_reducible assumption
    | exact rfl
    | with_reducible apply State.sliceEnable_keeps
    | with_reducible apply State.setSlice_keeps
    | with_reducible apply State.clearRegs_keeps
    | with_reducible apply State.loadsF_keeps
    | with_reducible apply State.loadsA_keeps
    | with_reducible apply State.loadReg_keeps
    | with_reducible refine Keeps.foldl ?_ fun _ _ _ => ?_
    | with_reducible refine Keeps.foldlFst ?_ fun _ _ _ => ?_
    | (extract_lets +onlyGivenNames x; with_reducible refine Keeps.cut (x := x) ?_ fun _ => ?_; rotate_left; clear_value x; rotate_left; subst x)
    | (extract_lets +onlyGivenNames x; clear_value x)
    | split
    | intro _
    | with_reducible refine Keeps.upd ?_ ?_ ?_

theorem State.loadBuffer_keeps (s : State) (c b : Nat) (x : Section) (kept : Keeps s₀ s) : Keeps s₀ (State.loadBuffer s c b x) := by
  unfold State.loadBuffer
  repeat' first
    | with_reducible assumption
    | with_reducible apply State.store_keeps

theorem State.loadCan_keeps (s : State) (c : Nat) (o : Option Section) (kept : Keeps s₀ s) : Keeps s₀ (State.loadCan s c o) := by
  unfold State.loadCan
  repeat' first
    | with_reducible assumption
    | exact rfl
    | with_reducible apply State.canEnable_keeps
    | with_reducible apply State.setCan_keeps
    | with_reducible apply State.wr_keeps
    | with_reducible apply State.clearRegs_keeps
    | with_reducible apply State.loadsA_keeps
    | with_reducible apply State.loadsF_keeps
    | with_reducible apply State.loadWords_keeps
    | with_reducible apply State.store_keeps
    | with_reducible apply State.loadBuffer_keeps
    | with_reducible refine Keeps.foldl ?_ fun _ _ _ => ?_
    | (extract_lets +onlyGivenNames x; with_reducible refine Keeps.cut (x := x) ?_ fun _ => ?_; rotate_left; clear_value x; rotate_left; subst x)
    | (extract_lets +onlyGivenNames x; clear_value x)
    | split
    | intro _
    | with_reducible refine Keeps.upd ?_ ?_ ?_

theorem State.loadSawyer_keeps (s : State) (n : Nat) (x : Section) (kept : Keeps s₀ s) : Keeps s₀ (State.loadSawyer s n x) := by
  unfold State.loadSawyer
  repeat' first
    | with_reducible assumption
    | with_reducible apply State.sawEnable_keeps
    | with_reducible apply State.clearRegs_keeps
    | with_reducible apply State.setSaw_keeps
    | with_reducible apply State.loadWords_keeps
    | with_reducible apply State.wr_keeps
    | (extract_lets +onlyGivenNames x; with_reducible refine Keeps.cut (x := x) ?_ fun _ => ?_; rotate_left; clear_value x; rotate_left; subst x)
    | (extract_lets +onlyGivenNames x; clear_value x)
    | split

theorem State.loadGrove_keeps (s : State) (g : Nat) (o : Option Section) (kept : Keeps s₀ s) : Keeps s₀ (State.loadGrove s g o) := by
  unfold State.loadGrove
  repeat' first
    | with_reducible assumption
    | with_reducible apply State.loadSawyer_keeps
    | with_reducible apply State.wr_keeps
    | with_reducible apply State.store_keeps
    | with_reducible refine Keeps.foldl ?_ fun _ _ _ => ?_

theorem State.loadLine_keeps (s : State) (n : Nat) (x : Section) (kept : Keeps s₀ s) : Keeps s₀ (State.loadLine s n x) := by
  unfold State.loadLine
  repeat' first
    | with_reducible assumption
    | with_reducible apply State.wr_keeps
    | with_reducible apply State.loadsA_keeps
    | with_reducible apply State.setCmd_keeps
    | (extract_lets +onlyGivenNames x; with_reducible refine Keeps.cut (x := x) ?_ fun _ => ?_; rotate_left; clear_value x; rotate_left; subst x)
    | (extract_lets +onlyGivenNames x; clear_value x)
    | split

theorem State.loadBank_keeps (s : State) (b : Nat) (o : Option Section) (kept : Keeps s₀ s) : Keeps s₀ (State.loadBank s b o) := by
  unfold State.loadBank
  repeat' first
    | with_reducible assumption
    | exact rfl
    | with_reducible apply State.clearRegs_keeps
    | with_reducible apply State.loadLine_keeps
    | with_reducible apply State.loadsA_keeps
    | with_reducible apply State.loadWords_keeps
    | with_reducible apply State.wr_keeps
    | with_reducible apply State.wrB_keeps
    | with_reducible apply State.loadA_keeps
    | with_reducible apply State.feedEnable_keeps
    | with_reducible refine Keeps.foldl ?_ fun _ _ _ => ?_
    | with_reducible refine Keeps.foldlFst ?_ fun _ _ _ => ?_
    | (extract_lets +onlyGivenNames x; with_reducible refine Keeps.cut (x := x) ?_ fun _ => ?_; rotate_left; clear_value x; rotate_left; subst x)
    | (extract_lets +onlyGivenNames x; clear_value x)
    | split
    | intro _
    | with_reducible refine Keeps.upd ?_ ?_ ?_

theorem State.loadFast_keeps (s : State) (n : Nat) (o : Option Section) (kept : Keeps s₀ s) : Keeps s₀ (State.loadFast s n o) := by
  unfold State.loadFast
  repeat' first
    | with_reducible assumption
    | exact rfl
    | with_reducible apply State.loadsF_keeps
    | with_reducible apply State.loadsA_keeps
    | with_reducible apply State.loadBits_keeps
    | with_reducible apply State.setNormal_keeps
    | (extract_lets +onlyGivenNames x; with_reducible refine Keeps.cut (x := x) ?_ fun _ => ?_; rotate_left; clear_value x; rotate_left; subst x)
    | (extract_lets +onlyGivenNames x; clear_value x)
    | split
    | with_reducible refine Keeps.upd ?_ ?_ ?_

theorem State.stopPort_keeps (s : State) (t n : Nat) (kept : Keeps s₀ s) : Keeps s₀ (State.stopPort s t n) := by
  unfold State.stopPort
  repeat' first
    | with_reducible assumption
    | with_reducible apply State.sliceEnable_keeps
    | with_reducible apply State.canEnable_keeps
    | with_reducible apply State.sawEnable_keeps
    | with_reducible refine Keeps.foldl ?_ fun _ _ _ => ?_
    | split

theorem State.loadPort_keeps (s : State) (l : List Section) (p : Nat × Nat) (kept : Keeps s₀ s) : Keeps s₀ (State.loadPort s l p) := by
  unfold State.loadPort
  repeat' first
    | with_reducible assumption
    | with_reducible apply State.loadSlice_keeps
    | with_reducible apply State.loadCan_keeps
    | with_reducible apply State.loadGrove_keeps
    | with_reducible apply State.loadBank_keeps
    | with_reducible apply State.loadFast_keeps
    | (extract_lets +onlyGivenNames x; clear_value x)
    | split

theorem State.loadPoints_keeps (s : State) (x : Section) (kept : Keeps s₀ s) : Keeps s₀ (State.loadPoints s x) := by
  unfold State.loadPoints
  repeat' first
    | with_reducible assumption
    | exact rfl
    | (extract_lets +onlyGivenNames x; clear_value x)
    | with_reducible refine Keeps.upd ?_ ?_ ?_

theorem State.loadSluice_keeps (s : State) (x : Section) (kept : Keeps s₀ s) : Keeps s₀ (State.loadSluice s x) := by
  unfold State.loadSluice
  repeat' first
    | with_reducible assumption
    | exact rfl
    | with_reducible apply State.loadWords_keeps
    | with_reducible apply State.noteForce_keeps
    | (extract_lets +onlyGivenNames x; clear_value x)
    | with_reducible refine Keeps.upd ?_ ?_ ?_

theorem State.loadSwitch_keeps (s : State) (x : Section) (kept : Keeps s₀ s) : Keeps s₀ (State.loadSwitch s x) := by
  unfold State.loadSwitch
  repeat' first
    | with_reducible assumption
    | with_reducible apply State.loadWords_keeps

theorem State.loadCalendar_keeps (s : State) (x : Section) (kept : Keeps s₀ s) : Keeps s₀ (State.loadCalendar s x) := by
  unfold State.loadCalendar
  repeat' first
    | with_reducible assumption
    | with_reducible apply State.calRetract_keeps
    | with_reducible apply State.loadWords_keeps
    | with_reducible apply State.defCommitChanged_keeps
    | with_reducible refine Keeps.foldl ?_ fun _ _ _ => ?_
    | with_reducible refine Keeps.foldlFst ?_ fun _ _ _ => ?_
    | (extract_lets +onlyGivenNames x; clear_value x)
    | split

theorem State.loadSlot_keeps (s : State) (n : Nat) (o : Option (List Nat)) (kept : Keeps s₀ s) : Keeps s₀ (State.loadSlot s n o) := by
  unfold State.loadSlot
  repeat' first
    | with_reducible assumption
    | exact rfl
    | with_reducible apply State.clearRegs_keeps
    | with_reducible apply State.toSlot_keeps
    | with_reducible apply State.wr_keeps
    | with_reducible apply State.setSlot_keeps
    | with_reducible apply State.loadWords_keeps
    | with_reducible apply State.sourceBound_keeps
    | with_reducible apply State.calAbandon_keeps
    | with_reducible apply State.repredictSlot_keeps
    | (extract_lets +onlyGivenNames x; clear_value x)
    | split

theorem State.loadTally_keeps (s : State) (old x : Section) (kept : Keeps s₀ s) : Keeps s₀ (State.loadTally s old x) := by
  unfold State.loadTally
  repeat' first
    | with_reducible assumption
    | with_reducible apply State.loadSlot_keeps
    | with_reducible refine Keeps.foldl ?_ fun _ _ _ => ?_
    | split

theorem State.loadBridge_keeps (s : State) (x : Section) (kept : Keeps s₀ s) : Keeps s₀ (State.loadBridge s x) := by
  unfold State.loadBridge
  repeat' first
    | with_reducible assumption
    | exact rfl
    | with_reducible apply State.loadWords_keeps
    | with_reducible apply State.loadA_keeps
    | with_reducible refine Keeps.foldl ?_ fun _ _ _ => ?_
    | (extract_lets +onlyGivenNames x; with_reducible refine Keeps.cut (x := x) ?_ fun _ => ?_; rotate_left; clear_value x; rotate_left; subst x)
    | (extract_lets +onlyGivenNames x; clear_value x)
    | split
    | intro _
    | with_reducible refine Keeps.upd ?_ ?_ ?_

theorem State.loadPower_keeps (s : State) (x : Section) (kept : Keeps s₀ s) : Keeps s₀ (State.loadPower s x) := by
  unfold State.loadPower
  repeat' first
    | with_reducible assumption
    | with_reducible apply State.loadsA_keeps
    | with_reducible apply State.loadWords_keeps
    | with_reducible apply State.wake_keeps
    | with_reducible refine Keeps.foldl ?_ fun _ _ _ => ?_
    | (extract_lets +onlyGivenNames x; clear_value x)
    | split

theorem State.loadFault_keeps (s : State) (x : Section) (kept : Keeps s₀ s) : Keeps s₀ (State.loadFault s x) := by
  unfold State.loadFault
  repeat' first
    | with_reducible assumption
    | with_reducible apply State.loadWords_keeps

theorem State.switchGlobals_keeps (s : State) (old new : List Section) (kept : Keeps s₀ s) : Keeps s₀ (State.switchGlobals s old new) := by
  unfold State.switchGlobals
  repeat' first
    | with_reducible assumption
    | with_reducible apply State.loadPoints_keeps
    | with_reducible apply State.loadSluice_keeps
    | with_reducible apply State.loadSwitch_keeps
    | with_reducible apply State.loadCalendar_keeps
    | with_reducible apply State.loadTally_keeps
    | with_reducible apply State.loadBridge_keeps
    | with_reducible apply State.loadPower_keeps
    | with_reducible apply State.loadFault_keeps

theorem State.loadBoard_keeps (s : State) (x : Section) (kept : Keeps s₀ s) : Keeps s₀ (State.loadBoard s x) := by
  unfold State.loadBoard
  repeat' first
    | with_reducible assumption
    | with_reducible apply State.loadsF_keeps
    | with_reducible apply State.feedFitted_keeps
    | with_reducible apply State.loadWords_keeps
    | with_reducible refine Keeps.foldl ?_ fun _ _ _ => ?_

theorem State.loadTime_keeps (s : State) (x : Section) (kept : Keeps s₀ s) : Keeps s₀ (State.loadTime s x) := by
  unfold State.loadTime
  repeat' first
    | with_reducible assumption
    | exact rfl
    | with_reducible apply State.loadWords_keeps
    | with_reducible apply State.setFreq_keeps
    | with_reducible apply State.toServo_keeps
    | (extract_lets +onlyGivenNames x; clear_value x)
    | split
    | intro _
    | with_reducible refine Keeps.upd ?_ ?_ ?_

theorem State.loadRing_keeps (s : State) (x : Section) (kept : Keeps s₀ s) : Keeps s₀ (State.loadRing s x) := by
  unfold State.loadRing
  repeat' first
    | with_reducible assumption
    | with_reducible apply State.loadWords_keeps

theorem State.loadStation_keeps (s : State) (x : Section) (kept : Keeps s₀ s) : Keeps s₀ (State.loadStation s x) := by
  unfold State.loadStation
  repeat' first
    | with_reducible assumption
    | exact rfl
    | with_reducible apply State.loadsF_keeps
    | with_reducible apply State.loadWords_keeps
    | with_reducible apply State.toRole_keeps
    | with_reducible apply State.wr_keeps
    | (extract_lets +onlyGivenNames x; with_reducible refine Keeps.cut (x := x) ?_ fun _ => ?_; rotate_left; clear_value x; rotate_left; subst x)
    | (extract_lets +onlyGivenNames x; clear_value x)
    | split
    | with_reducible refine Keeps.upd ?_ ?_ ?_

theorem State.loadTamper_keeps (s : State) (x : Section) (kept : Keeps s₀ s) : Keeps s₀ (State.loadTamper s x) := by
  unfold State.loadTamper
  repeat' first
    | with_reducible assumption
    | exact rfl
    | with_reducible apply State.loadWords_keeps
    | with_reducible apply State.wr_keeps
    | (extract_lets +onlyGivenNames x; clear_value x)
    | split
    | with_reducible refine Keeps.upd ?_ ?_ ?_

theorem State.loadSecurity_keeps (s : State) (x : Section) (kept : Keeps s₀ s) : Keeps s₀ (State.loadSecurity s x) := by
  unfold State.loadSecurity
  repeat' first
    | with_reducible assumption
    | exact rfl
    | with_reducible refine Keeps.fst (by with_reducible assumption) ?_
    | with_reducible apply State.zeroSlots_keeps
    | with_reducible apply State.loadKey_keeps
    | with_reducible apply State.raise_keeps
    | with_reducible apply State.boom_keeps
    | with_reducible refine Keeps.foldl ?_ fun _ _ _ => ?_
    | (extract_lets +onlyGivenNames x; clear_value x)
    | split
    | intro _
    | with_reducible refine Keeps.upd ?_ ?_ ?_

theorem State.portsDown_keeps (s : State) (kept : Keeps s₀ s) : Keeps s₀ (State.portsDown s) := by
  unfold State.portsDown
  repeat' first
    | with_reducible assumption
    | with_reducible apply State.wr_keeps
    | with_reducible apply State.setMac_keeps
    | with_reducible apply State.wrapChanged_keeps
    | with_reducible refine Keeps.foldl ?_ fun _ _ _ => ?_

theorem State.structural_keeps (s : State) (new : List Section) (kept : Keeps s₀ s) : Keeps s₀ (State.structural s new) := by
  unfold State.structural
  repeat' first
    | with_reducible assumption
    | with_reducible apply State.loadBoard_keeps
    | with_reducible apply State.loadTime_keeps
    | with_reducible apply State.loadRing_keeps
    | with_reducible apply State.loadStation_keeps
    | with_reducible apply State.loadTamper_keeps
    | with_reducible apply State.portsDown_keeps
    | with_reducible apply State.wr_keeps
    | with_reducible apply State.feedEnable_keeps
    | with_reducible refine Keeps.foldl ?_ fun _ _ _ => ?_

theorem State.toAlm_keeps (s : State) (st : Nat) (kept : Keeps s₀ s) : Keeps s₀ (State.toAlm s st) := by
  unfold State.toAlm
  repeat' first
    | with_reducible assumption
    | with_reducible apply State.wr_keeps

theorem State.almIgnored_keeps (s : State) (kept : Keeps s₀ s) : Keeps s₀ (State.almIgnored s) := by
  unfold State.almIgnored
  repeat' first
    | with_reducible assumption
    | with_reducible apply State.raise_keeps

theorem State.stageData_keeps (s : State) (w : Nat) (kept : Keeps s₀ s) : Keeps s₀ (State.stageData s w) := by
  unfold State.stageData
  repeat' first
    | with_reducible assumption
    | with_reducible apply State.almIgnored_keeps
    | with_reducible apply State.raise_keeps
    | with_reducible apply State.store_keeps
    | with_reducible apply State.wr_keeps
    | (extract_lets +onlyGivenNames x; clear_value x)
    | split

theorem execAlmStageDataWrite_keeps (data : Word) (s : State) : KeepsRes s (execAlmStageDataWrite data s) := by
  unfold execAlmStageDataWrite
  repeat' first
    | with_reducible assumption
    | with_reducible refine KeepsRes.guarded fun x hx => ?_
    | with_reducible apply State.stageData_keeps
    | with_reducible apply State.ack_keeps

theorem State.stagePtr_keeps (s : State) (p : Nat) (kept : Keeps s₀ s) : Keeps s₀ (State.stagePtr s p) := by
  unfold State.stagePtr
  repeat' first
    | with_reducible assumption
    | with_reducible apply State.raise_keeps
    | with_reducible apply State.wr_keeps
    | split

theorem execAlmStagePtrWrite_keeps (ptr : BitVec 18) (s : State) : KeepsRes s (execAlmStagePtrWrite ptr s) := by
  unfold execAlmStagePtrWrite
  repeat' first
    | with_reducible assumption
    | with_reducible refine KeepsRes.guarded fun x hx => ?_
    | with_reducible apply State.stagePtr_keeps
    | with_reducible apply State.ack_keeps

theorem State.clrStage_keeps (s : State) (h : Keeps s₀ s) : Keeps s₀ (State.clrStage s) := by
  unfold State.clrStage
  split
  · exact State.almIgnored_keeps s h
  · exact State.wr_keeps _ _ (State.memFilter_keeps _ h)

theorem execClrStage_keeps (s : State) : KeepsRes s (execClrStage s) := by
  unfold execClrStage
  repeat' first
    | with_reducible assumption
    | with_reducible refine KeepsRes.guarded fun x hx => ?_
    | with_reducible apply State.clrStage_keeps
    | with_reducible apply State.ack_keeps

theorem State.almEnable_keeps (s : State) (kept : Keeps s₀ s) : Keeps s₀ (State.almEnable s) := by
  unfold State.almEnable
  repeat' first
    | with_reducible assumption
    | exact rfl
    | with_reducible apply State.almIgnored_keeps
    | with_reducible apply State.toAlm_keeps
    | with_reducible apply State.wr_keeps
    | (extract_lets +onlyGivenNames x; with_reducible refine Keeps.cut (x := x) ?_ fun _ => ?_; rotate_left; clear_value x; rotate_left; subst x)
    | (extract_lets +onlyGivenNames x; clear_value x)
    | split
    | with_reducible refine Keeps.upd ?_ ?_ ?_

theorem execAlmanacEnable_keeps (s : State) : KeepsRes s (execAlmanacEnable s) := by
  unfold execAlmanacEnable
  repeat' first
    | with_reducible assumption
    | with_reducible refine KeepsRes.guarded fun x hx => ?_
    | with_reducible apply State.almEnable_keeps
    | with_reducible apply State.ack_keeps

theorem State.almCancel_keeps (s : State) (kept : Keeps s₀ s) : Keeps s₀ (State.almCancel s) := by
  unfold State.almCancel
  repeat' first
    | with_reducible assumption
    | exact rfl
    | with_reducible apply State.toAlm_keeps
    | with_reducible apply State.wr_keeps
    | with_reducible apply State.raise_keeps
    | (extract_lets +onlyGivenNames x; with_reducible refine Keeps.cut (x := x) ?_ fun _ => ?_; rotate_left; clear_value x; rotate_left; subst x)
    | (extract_lets +onlyGivenNames x; clear_value x)
    | split
    | with_reducible refine Keeps.upd ?_ ?_ ?_

theorem execAlmanacCancel_keeps (s : State) : KeepsRes s (execAlmanacCancel s) := by
  unfold execAlmanacCancel
  repeat' first
    | with_reducible assumption
    | with_reducible refine KeepsRes.guarded fun x hx => ?_
    | with_reducible apply State.almCancel_keeps
    | with_reducible apply State.ack_keeps

theorem State.wrOrFree_keeps (s : State) (f : Fld) (v : Option Nat) (l : List Nat) (kept : Keeps s₀ s) : Keeps s₀ (State.wrOrFree s f v l) := by
  unfold State.wrOrFree
  repeat' first
    | with_reducible assumption
    | exact rfl
    | with_reducible apply State.wr_keeps
    | with_reducible apply State.draw_keeps
    | split

theorem State.almRefuse_keeps (s : State) (code sect off : Option Nat) (kept : Keeps s₀ s) : Keeps s₀ (State.almRefuse s code sect off) := by
  unfold State.almRefuse
  repeat' first
    | with_reducible assumption
    | exact rfl
    | with_reducible apply State.wrOrFree_keeps
    | with_reducible apply State.wr_keeps
    | with_reducible apply State.toAlm_keeps
    | with_reducible apply State.raise_keeps
    | (extract_lets +onlyGivenNames x; clear_value x)
    | split
    | with_reducible refine Keeps.upd ?_ ?_ ?_

theorem State.checkDone_keeps (s : State) (kept : Keeps s₀ s) : Keeps s₀ (State.checkDone s) := by
  unfold State.checkDone
  repeat' first
    | with_reducible assumption
    | exact rfl
    | with_reducible apply State.almRefuse_keeps
    | with_reducible apply State.toAlm_keeps
    | with_reducible apply State.wr_keeps
    | with_reducible apply State.raise_keeps
    | (extract_lets +onlyGivenNames x; with_reducible refine Keeps.cut (x := x) ?_ fun _ => ?_; rotate_left; clear_value x; rotate_left; subst x)
    | (extract_lets +onlyGivenNames x; have _ : State → _ := x; subst x)
    | (extract_lets +onlyGivenNames x; clear_value x)
    | split
    | with_reducible refine Keeps.upd ?_ ?_ ?_

theorem execAlmanacCheckDone_keeps (s : State) : KeepsRes s (execAlmanacCheckDone s) := by
  unfold execAlmanacCheckDone
  repeat' first
    | with_reducible assumption
    | with_reducible refine KeepsRes.guarded fun x hx => ?_
    | with_reducible apply State.checkDone_keeps

theorem State.almSwitch_keeps (s : State) (i : Image) (kept : Keeps s₀ s) : Keeps s₀ (State.almSwitch s i) := by
  unfold State.almSwitch
  repeat' first
    | with_reducible assumption
    | exact rfl
    | with_reducible apply State.switchGlobals_keeps
    | with_reducible apply State.loadPoints_keeps
    | with_reducible apply State.stopPort_keeps
    | with_reducible refine Keeps.foldl ?_ fun _ _ _ => ?_
    | with_reducible refine Keeps.foldlFst ?_ fun _ _ _ => ?_
    | (extract_lets +onlyGivenNames x; clear_value x)
    | split
    | intro _
    | with_reducible refine Keeps.upd ?_ ?_ ?_

theorem State.almBoundary_keeps (s : State) (kept : Keeps s₀ s) : Keeps s₀ (State.almBoundary s) := by
  unfold State.almBoundary
  repeat' first
    | with_reducible assumption
    | exact rfl
    | with_reducible apply State.almRefuse_keeps
    | with_reducible apply State.almSwitch_keeps
    | with_reducible apply State.toAlm_keeps
    | (extract_lets +onlyGivenNames x; with_reducible refine Keeps.cut (x := x) ?_ fun _ => ?_; rotate_left; clear_value x; rotate_left; subst x)
    | (extract_lets +onlyGivenNames x; clear_value x)
    | split
    | with_reducible refine Keeps.upd ?_ ?_ ?_

theorem State.powerChanged_keeps (s : State) (was : List Nat) (ports : List (Nat × Nat)) (kept : Keeps s₀ s) : Keeps s₀ (State.powerChanged s was ports) := by
  unfold State.powerChanged
  repeat' first
    | with_reducible assumption
    | with_reducible apply State.wr_keeps
    | with_reducible apply State.toPower_keeps
    | with_reducible refine Keeps.foldl ?_ fun _ _ _ => ?_
    | with_reducible refine Keeps.foldlFst ?_ fun _ _ _ => ?_
    | (extract_lets +onlyGivenNames x; with_reducible refine Keeps.cut (x := x) ?_ fun _ => ?_; rotate_left; clear_value x; rotate_left; subst x)
    | split

theorem State.showStructure_keeps (s : State) (i : Image) (kept : Keeps s₀ s) : Keeps s₀ (State.showStructure s i) := by
  unfold State.showStructure
  repeat' first
    | with_reducible assumption
    | with_reducible apply State.wr_keeps
    | with_reducible apply State.raise_keeps
    | with_reducible refine Keeps.foldl ?_ fun _ _ _ => ?_

theorem State.driftAfter_keeps (s : State) (full : Bool) (kept : Keeps s₀ s) : Keeps s₀ (State.driftAfter s full) := by
  unfold State.driftAfter
  repeat' first
    | with_reducible assumption
    | with_reducible apply State.endDrift_keeps
    | with_reducible apply State.raise_keeps
    | split

theorem State.inForceNow_keeps (s : State) (i : Image) (kept : Keeps s₀ s) : Keeps s₀ (State.inForceNow s i) := by
  unfold State.inForceNow
  repeat' first
    | with_reducible assumption
    | exact rfl
    | (extract_lets +onlyGivenNames x; with_reducible refine Keeps.cut (x := x) ?_ fun _ => ?_; rotate_left; clear_value x; rotate_left; subst x)
    | (extract_lets +onlyGivenNames x; clear_value x)
    | split
    | intro _
    | with_reducible refine Keeps.upd ?_ ?_ ?_

theorem State.joinAfter_keeps (s : State) (kept : Keeps s₀ s) : Keeps s₀ (State.joinAfter s) := by
  unfold State.joinAfter
  repeat' first
    | with_reducible assumption
    | with_reducible apply State.joinSend_keeps
    | with_reducible apply State.toHead_keeps
    | split

theorem State.almApplied_keeps (s : State) (kept : Keeps s₀ s) : Keeps s₀ (State.almApplied s) := by
  unfold State.almApplied
  repeat' first
    | with_reducible assumption
    | exact rfl
    | with_reducible apply State.almSwitch_keeps
    | with_reducible apply State.structural_keeps
    | with_reducible apply State.loadPort_keeps
    | with_reducible apply State.endDepartures_keeps
    | with_reducible apply State.loadSecurity_keeps
    | with_reducible apply State.showStructure_keeps
    | with_reducible apply State.inForceNow_keeps
    | with_reducible apply State.driftAfter_keeps
    | with_reducible apply State.powerChanged_keeps
    | with_reducible apply State.toAlm_keeps
    | with_reducible apply State.raise_keeps
    | with_reducible apply State.joinAfter_keeps
    | with_reducible refine Keeps.foldl ?_ fun _ _ _ => ?_
    | (extract_lets +onlyGivenNames x; with_reducible refine Keeps.cut (x := x) ?_ fun _ => ?_; rotate_left; clear_value x; rotate_left; subst x)
    | (extract_lets +onlyGivenNames x; clear_value x)
    | split

theorem execAlmanacApplied_keeps (s : State) : KeepsRes s (execAlmanacApplied s) := by
  unfold execAlmanacApplied
  repeat' first
    | with_reducible assumption
    | with_reducible refine KeepsRes.guarded fun x hx => ?_
    | with_reducible apply State.almApplied_keeps

end Sys2Proof.Machine
end

