-- ==== Sys2Proof/Laws/KeepsReset.lean ====
section
/-! SUPPORT. The operations of Machine/Reset.lean keep the canonical forms, the queue and what was sent. -/

namespace Sys2Proof.Machine

variable {s₀ : State}

/-- What a reset leaves: the canonical forms, an empty Boom queue, the commands, and what was sent. -/
theorem Keeps.afterReset {t : State} (p : Nat × Nat → Bool) (q : Host.Cell → Bool) (s : State) (hr : t.regs = s.regs.filter p)
    (hm : t.mem = s.mem.filter q) (hb : t.bom.queue = []) (hp : t.pending = s.pending) (he : t.egress = s.egress)
    (h : Keeps s₀ s) : Keeps s₀ t := by
  refine ⟨fun g => ⟨?_, ?_, ?_⟩, hp.trans h.pending, he ▸ h.egress⟩
  · rw [hm]
    exact Mem.filter_wf q _ (h.good g).mem
  · rw [hr]
    exact SMap.rises_filter p _ (h.good g).regs
  · rw [hb]
    exact Nat.zero_le _

theorem State.mainReset_keeps (s : State) (por : Bool) (reason : Nat) (h : Keeps s₀ s) : Keeps s₀ (State.mainReset s por reason) := by
  unfold State.mainReset
  extract_lets +onlyGivenNames x
  have hx : Keeps s₀ x := by
    subst x
    split
    · exact State.hvLinkLost_keeps _ _ h
    · exact h
  clear_value x
  dsimp only
  refine State.wr_keeps _ _ (Keeps.foldl (Keeps.afterReset _ _ x rfl rfl rfl rfl rfl hx) fun _ _ hu => State.wr_keeps _ _ hu)

theorem State.sampleBoot_keeps (s : State) (bootSrc : Nat) (kept : Keeps s₀ s) : Keeps s₀ (State.sampleBoot s bootSrc) := by
  unfold State.sampleBoot
  repeat' first
    | with_reducible assumption
    | with_reducible apply State.wr_keeps

theorem State.porReset_keeps (s : State) (stnPos bootSrc : Nat) (kept : Keeps s₀ s) : Keeps s₀ (State.porReset s stnPos bootSrc) := by
  unfold State.porReset
  repeat' first
    | with_reducible assumption
    | with_reducible apply State.mainReset_keeps
    | with_reducible apply State.sampleBoot_keeps
    | with_reducible apply State.wr_keeps

theorem execPorNAssert_keeps (stnPos bootSrc : Fin 4) (s : State) : KeepsRes s (execPorNAssert stnPos bootSrc s) := by
  unfold execPorNAssert
  repeat' first
    | with_reducible assumption
    | with_reducible exact Keeps.refl _
    | with_reducible refine KeepsRes.next ?_
    | with_reducible apply State.porReset_keeps

theorem execSysRstNAssert_keeps (bootSrc : Fin 4) (s : State) : KeepsRes s (execSysRstNAssert bootSrc s) := by
  unfold execSysRstNAssert
  repeat' first
    | with_reducible assumption
    | with_reducible exact Keeps.refl _
    | with_reducible refine KeepsRes.next ?_
    | with_reducible apply State.mainReset_keeps
    | with_reducible apply State.sampleBoot_keeps
    | split

theorem State.sysrst_keeps (s : State) (bootSrc : Nat) (kept : Keeps s₀ s) : Keeps s₀ (State.sysrst s bootSrc) := by
  unfold State.sysrst
  repeat' first
    | with_reducible assumption
    | with_reducible apply State.mainReset_keeps
    | with_reducible apply State.sampleBoot_keeps

theorem execSysrst_keeps (bootSrc : Fin 4) (s : State) : KeepsRes s (execSysrst bootSrc s) := by
  unfold execSysrst
  repeat' first
    | with_reducible assumption
    | with_reducible refine KeepsRes.guarded fun x hx => ?_
    | with_reducible apply State.sysrst_keeps

theorem State.perst_keeps (s : State) (kept : Keeps s₀ s) : Keeps s₀ (State.perst s) := by
  unfold State.perst
  repeat' first
    | with_reducible assumption
    | exact rfl
    | with_reducible apply State.wr_keeps
    | with_reducible apply State.raise_keeps
    | with_reducible refine Keeps.foldl ?_ fun _ _ _ => ?_
    | (extract_lets +onlyGivenNames x; with_reducible refine Keeps.cut (x := x) ?_ fun _ => ?_; rotate_left; clear_value x; rotate_left; subst x)
    | (extract_lets +onlyGivenNames x; clear_value x)
    | split
    | intro _
    | with_reducible refine Keeps.upd ?_ ?_ ?_

theorem execPerstNAssert_keeps (s : State) : KeepsRes s (execPerstNAssert s) := by
  unfold execPerstNAssert
  repeat' first
    | with_reducible assumption
    | with_reducible refine KeepsRes.guarded fun x hx => ?_
    | with_reducible apply State.perst_keeps

theorem execPcieLinkChange_keeps (up : Bool) (speed width : Fin 8) (s : State) : KeepsRes s (execPcieLinkChange up speed width s) := by
  unfold execPcieLinkChange
  repeat' first
    | with_reducible assumption
    | with_reducible refine KeepsRes.guarded fun x hx => ?_
    | with_reducible apply State.wrB_keeps
    | with_reducible apply State.wr_keeps
    | with_reducible apply State.raise_keeps
    | (extract_lets +onlyGivenNames x; with_reducible refine Keeps.cut (x := x) ?_ fun _ => ?_; rotate_left; clear_value x; rotate_left; subst x)
    | (extract_lets +onlyGivenNames x; clear_value x)
    | split

theorem State.standbyExit_keeps (s : State) (reason : Nat) (kept : Keeps s₀ s) : Keeps s₀ (State.standbyExit s reason) := by
  unfold State.standbyExit
  repeat' first
    | with_reducible assumption
    | with_reducible apply State.mainReset_keeps

theorem execStandbyWake_keeps (source bootSrc stnPos : Fin 4) (s : State) : KeepsRes s (execStandbyWake source bootSrc stnPos s) := by
  unfold execStandbyWake
  repeat' first
    | with_reducible assumption
    | exact rfl
    | with_reducible refine KeepsRes.guardedVigil fun x hx => ?_
    | with_reducible apply State.standbyExit_keeps
    | with_reducible apply State.sampleBoot_keeps
    | with_reducible apply State.porReset_keeps
    | (extract_lets +onlyGivenNames x; clear_value x)
    | split

theorem State.toStage_keeps (s : State) (st code : Nat) (kept : Keeps s₀ s) : Keeps s₀ (State.toStage s st code) := by
  unfold State.toStage
  repeat' first
    | with_reducible assumption
    | with_reducible apply State.wr_keeps

theorem State.tamper_keeps (s : State) (k : Nat) (kept : Keeps s₀ s) : Keeps s₀ (State.tamper s k) := by
  unfold State.tamper
  repeat' first
    | with_reducible assumption
    | with_reducible apply State.tamperLog_keeps
    | with_reducible apply State.tamperKeys_keeps
    | with_reducible apply State.standbyExit_keeps
    | with_reducible apply State.raise_keeps
    | with_reducible apply State.mainReset_keeps
    | with_reducible apply State.toStage_keeps
    | (extract_lets +onlyGivenNames x; with_reducible refine Keeps.cut (x := x) ?_ fun _ => ?_; rotate_left; clear_value x; rotate_left; subst x)
    | split

theorem execTamperEvent_keeps (active : BitVec 8) (s : State) : KeepsRes s (execTamperEvent active s) := by
  unfold execTamperEvent
  repeat' first
    | with_reducible assumption
    | with_reducible refine KeepsRes.guardedVigil fun x hx => ?_
    | with_reducible apply State.tamper_keeps
    | with_reducible apply State.wr_keeps
    | with_reducible refine Keeps.foldl ?_ fun _ _ _ => ?_

theorem execVbatLow_keeps (mv : BitVec 16) (s : State) : KeepsRes s (execVbatLow mv s) := by
  unfold execVbatLow
  repeat' first
    | with_reducible assumption
    | with_reducible refine KeepsRes.guardedVigil fun x hx => ?_
    | with_reducible apply State.wr_keeps
    | with_reducible apply State.wrB_keeps
    | with_reducible apply State.raise_keeps
    | (extract_lets +onlyGivenNames x; with_reducible refine Keeps.cut (x := x) ?_ fun _ => ?_; rotate_left; clear_value x; rotate_left; subst x)
    | (extract_lets +onlyGivenNames x; clear_value x)
    | split

theorem execVauxLost_keeps (s : State) : KeepsRes s (execVauxLost s) := by
  unfold execVauxLost
  repeat' first
    | with_reducible assumption
    | exact rfl
    | with_reducible refine KeepsRes.guardedVigil fun x hx => ?_
    | with_reducible apply State.emptySlot_keeps
    | with_reducible apply State.mainReset_keeps
    | with_reducible refine Keeps.foldl ?_ fun _ _ _ => ?_
    | (extract_lets +onlyGivenNames x; with_reducible refine Keeps.cut (x := x) ?_ fun _ => ?_; rotate_left; clear_value x; rotate_left; subst x)
    | (extract_lets +onlyGivenNames x; clear_value x)
    | intro _
    | with_reducible refine Keeps.upd ?_ ?_ ?_

theorem execBankSupplyWindow_keeps (bank : Fin 2) (inside : Bool) (s : State) : KeepsRes s (execBankSupplyWindow bank inside s) := by
  unfold execBankSupplyWindow
  repeat' first
    | with_reducible assumption
    | exact rfl
    | with_reducible refine KeepsRes.guardedVigil fun x hx => ?_
    | with_reducible apply State.wrB_keeps
    | (extract_lets +onlyGivenNames x; with_reducible refine Keeps.cut (x := x) ?_ fun _ => ?_; rotate_left; clear_value x; rotate_left; subst x)
    | split
    | intro _
    | with_reducible refine Keeps.upd ?_ ?_ ?_

theorem State.ageRecord_keeps (s : State) (m : Nat) (kept : Keeps s₀ s) : Keeps s₀ (State.ageRecord s m) := by
  unfold State.ageRecord
  repeat' first
    | with_reducible assumption
    | exact rfl
    | with_reducible refine Keeps.fst (by with_reducible assumption) ?_
    | with_reducible apply State.boom_keeps
    | with_reducible apply State.place_keeps
    | split

theorem execAgeingMeasure_keeps (monitor : Fin 3) (place : Fin 8) (value : BitVec 16) (s : State) : KeepsRes s (execAgeingMeasure monitor place value s) := by
  unfold execAgeingMeasure
  repeat' first
    | with_reducible assumption
    | exact rfl
    | with_reducible refine Keeps.fst (by with_reducible assumption) ?_
    | with_reducible refine KeepsRes.guarded fun x hx => ?_
    | with_reducible apply State.place_keeps
    | with_reducible apply State.wrB_keeps
    | with_reducible apply State.ageRecord_keeps
    | (extract_lets +onlyGivenNames x; with_reducible refine Keeps.cut (x := x) ?_ fun _ => ?_; rotate_left; clear_value x; rotate_left; subst x)
    | (extract_lets +onlyGivenNames x; clear_value x)
    | split
    | intro _
    | with_reducible refine Keeps.upd ?_ ?_ ?_

theorem execAgeingRecord_keeps (monitor : Fin 3) (s : State) : KeepsRes s (execAgeingRecord monitor s) := by
  unfold execAgeingRecord
  repeat' first
    | with_reducible assumption
    | with_reducible refine KeepsRes.guarded fun x hx => ?_
    | with_reducible apply State.ageRecord_keeps

end Sys2Proof.Machine
end

