-- ==== Sys2Proof/Laws/KeepsUpdate.lean ====
section
/-! SUPPORT. The operations of Machine/Update.lean keep the canonical forms, the queue and what was sent. -/

namespace Sys2Proof.Machine

variable {s₀ : State}

theorem State.showImage_keeps (s : State) (c : Nat) (kept : Keeps s₀ s) : Keeps s₀ (State.showImage s c) := by
  unfold State.showImage
  repeat' first
    | with_reducible assumption
    | with_reducible apply State.wr_keeps

theorem State.startFirmware_keeps (s : State) (region off : Nat) (kept : Keeps s₀ s) : Keeps s₀ (State.startFirmware s region off) := by
  unfold State.startFirmware
  repeat' first
    | with_reducible assumption
    | exact rfl
    | with_reducible apply State.store_keeps
    | with_reducible apply State.toStage_keeps
    | (extract_lets +onlyGivenNames x; with_reducible refine Keeps.cut (x := x) ?_ fun _ => ?_; rotate_left; clear_value x; rotate_left; subst x)
    | (extract_lets +onlyGivenNames x; clear_value x)
    | with_reducible refine Keeps.upd ?_ ?_ ?_

theorem execBootVigilStage_keeps (s : State) : KeepsRes s (execBootVigilStage s) := by
  unfold execBootVigilStage
  repeat' first
    | with_reducible assumption
    | exact rfl
    | with_reducible refine KeepsRes.guarded fun x hx => ?_
    | with_reducible apply State.tamperLog_keeps
    | with_reducible apply State.tamperKeys_keeps
    | with_reducible apply State.wrB_keeps
    | with_reducible apply State.renewNonce_keeps
    | with_reducible apply State.toStage_keeps
    | (extract_lets +onlyGivenNames x; with_reducible refine Keeps.cut (x := x) ?_ fun _ => ?_; rotate_left; clear_value x; rotate_left; subst x)
    | (extract_lets +onlyGivenNames x; clear_value x)
    | split

theorem execBootRomStage_keeps (s : State) : KeepsRes s (execBootRomStage s) := by
  unfold execBootRomStage
  repeat' first
    | with_reducible assumption
    | exact rfl
    | with_reducible refine KeepsRes.guarded fun x hx => ?_
    | with_reducible apply State.toStage_keeps
    | with_reducible apply State.wr_keeps
    | with_reducible apply State.draw_keeps
    | with_reducible apply State.showImage_keeps
    | (extract_lets +onlyGivenNames x; with_reducible refine Keeps.cut (x := x) ?_ fun _ => ?_; rotate_left; clear_value x; rotate_left; subst x)
    | (extract_lets +onlyGivenNames x; clear_value x)
    | split
    | intro _
    | with_reducible refine Keeps.upd ?_ ?_ ?_

theorem execBootStumpStage_keeps (s : State) : KeepsRes s (execBootStumpStage s) := by
  unfold execBootStumpStage
  repeat' first
    | with_reducible assumption
    | with_reducible refine KeepsRes.guarded fun x hx => ?_
    | with_reducible apply State.toStage_keeps
    | with_reducible apply State.showImage_keeps
    | with_reducible apply State.startFirmware_keeps
    | with_reducible refine Keeps.foldl ?_ fun _ _ _ => ?_
    | with_reducible refine Keeps.foldlFst ?_ fun _ _ _ => ?_
    | (extract_lets +onlyGivenNames x; with_reducible refine Keeps.cut (x := x) ?_ fun _ => ?_; rotate_left; clear_value x; rotate_left; subst x)
    | split

theorem State.eload_keeps (s : State) (init : Initiator) (cls : Nat) (go : Bool) (kept : Keeps s₀ s) : Keeps s₀ (State.eload s init cls go) := by
  unfold State.eload
  repeat' first
    | with_reducible assumption
    | exact rfl
    | with_reducible apply State.wr_keeps
    | with_reducible apply State.ack_keeps
    | with_reducible apply State.capture_keeps
    | with_reducible apply State.resStart_keeps
    | with_reducible apply State.resDone_keeps
    | with_reducible apply State.raise_keeps
    | (extract_lets +onlyGivenNames x; with_reducible refine Keeps.cut (x := x) ?_ fun _ => ?_; rotate_left; clear_value x; rotate_left; subst x)
    | (extract_lets +onlyGivenNames x; clear_value x)
    | split
    | with_reducible refine Keeps.upd ?_ ?_ ?_

theorem execUpdEload_keeps (init : Initiator) (cls : Fin 8) (s : State) : KeepsRes s (execUpdEload init cls s) := by
  unfold execUpdEload
  repeat' first
    | with_reducible assumption
    | with_reducible refine KeepsRes.guarded fun x hx => ?_
    | with_reducible apply State.eload_keeps

theorem State.eloadDone_keeps (s : State) (kept : Keeps s₀ s) : Keeps s₀ (State.eloadDone s) := by
  unfold State.eloadDone
  repeat' first
    | with_reducible assumption
    | exact rfl
    | with_reducible apply State.resDone_keeps
    | with_reducible apply State.raise_keeps
    | with_reducible apply State.wr_keeps
    | (extract_lets +onlyGivenNames x; clear_value x)
    | split
    | with_reducible refine Keeps.upd ?_ ?_ ?_

theorem execUpdEloadComplete_keeps (s : State) : KeepsRes s (execUpdEloadComplete s) := by
  unfold execUpdEloadComplete
  repeat' first
    | with_reducible assumption
    | with_reducible refine KeepsRes.guarded fun x hx => ?_
    | with_reducible apply State.eloadDone_keeps

theorem State.writeState_keeps (s : State) (st mask : Nat) (kept : Keeps s₀ s) : Keeps s₀ (State.writeState s st mask) := by
  unfold State.writeState
  repeat' first
    | with_reducible assumption
    | exact rfl
    | with_reducible apply State.flashErase_keeps
    | with_reducible apply State.store_keeps

theorem State.programImage_keeps (s : State) (c region off : Nat) (kept : Keeps s₀ s) : Keeps s₀ (State.programImage s c region off) := by
  unfold State.programImage
  repeat' first
    | with_reducible assumption
    | with_reducible apply State.flashErase_keeps
    | with_reducible apply State.store_keeps
    | with_reducible apply State.showImage_keeps

theorem State.writeImages_keeps (s : State) (l : List (Nat × Nat)) (bad : Option Nat) (kept : Keeps s₀ s) : Keeps s₀ (State.writeImages s l bad).1 := by
  unfold State.writeImages
  repeat' first
    | with_reducible assumption
    | exact rfl
    | with_reducible apply State.writeState_keeps
    | with_reducible apply State.programImage_keeps
    | with_reducible apply State.flashErase_keeps
    | with_reducible apply State.showImage_keeps
    | with_reducible refine Keeps.foldl ?_ fun _ _ _ => ?_
    | with_reducible refine Keeps.foldlFst ?_ fun _ _ _ => ?_
    | (extract_lets +onlyGivenNames x; with_reducible refine Keeps.cut (x := x) ?_ fun _ => ?_; rotate_left; clear_value x; rotate_left; subst x)
    | (extract_lets +onlyGivenNames x; clear_value x)
    | split

theorem State.install_keeps (s : State) (b : List Nat) (bad : Option Nat) (kept : Keeps s₀ s) : Keeps s₀ (State.install s b bad).1 := by
  unfold State.install
  repeat' first
    | with_reducible assumption
    | exact rfl
    | with_reducible refine Keeps.fst (by with_reducible assumption) ?_
    | with_reducible apply State.draw_keeps
    | with_reducible apply State.writeImages_keeps
    | (extract_lets +onlyGivenNames x; clear_value x)
    | split

theorem State.service_keeps (s : State) (op : State → State × Nat) (hop : ∀ x, Keeps s₀ x → Keeps s₀ (op x).1) (kept : Keeps s₀ s) : Keeps s₀ (State.service s op) := by
  unfold State.service
  repeat' first
    | with_reducible assumption
    | with_reducible apply hop
    | with_reducible apply State.give_keeps
    | split

theorem execInstall_keeps (block : BitVec 22) (bad : Option (Fin 6)) (s : State) : KeepsRes s (execInstall block bad s) := by
  unfold execInstall
  repeat' first
    | with_reducible assumption
    | with_reducible refine Keeps.fst (by with_reducible assumption) ?_
    | with_reducible refine KeepsRes.guarded fun x hx => ?_
    | with_reducible apply State.service_keeps
    | with_reducible apply State.install_keeps
    | intro _

theorem State.svnRaise_keeps (s : State) (c floor : Nat) (kept : Keeps s₀ s) : Keeps s₀ (State.svnRaise s c floor).1 := by
  unfold State.svnRaise
  repeat' first
    | with_reducible assumption
    | exact rfl
    | with_reducible apply State.wr_keeps
    | with_reducible apply State.raise_keeps
    | (extract_lets +onlyGivenNames x; clear_value x)
    | split

theorem execSvnraise_keeps (block : BitVec 22) (s : State) : KeepsRes s (execSvnraise block s) := by
  unfold execSvnraise
  repeat' first
    | with_reducible assumption
    | with_reducible refine Keeps.fst (by with_reducible assumption) ?_
    | with_reducible refine KeepsRes.guarded fun x hx => ?_
    | with_reducible apply State.service_keeps
    | with_reducible apply State.svnRaise_keeps
    | intro _

theorem State.keyRecord_keeps (s : State) (b : List Nat) (kept : Keeps s₀ s) : Keeps s₀ (State.keyRecord s b).1 := by
  unfold State.keyRecord
  repeat' first
    | with_reducible assumption
    | exact rfl
    | with_reducible apply State.wr_keeps
    | (extract_lets +onlyGivenNames x; with_reducible refine Keeps.cut (x := x) ?_ fun _ => ?_; rotate_left; clear_value x; rotate_left; subst x)
    | (extract_lets +onlyGivenNames x; clear_value x)
    | split
    | intro _
    | with_reducible refine Keeps.upd ?_ ?_ ?_

theorem execKeyrec_keeps (s : State) : KeepsRes s (execKeyrec s) := by
  unfold execKeyrec
  repeat' first
    | with_reducible assumption
    | with_reducible refine Keeps.fst (by with_reducible assumption) ?_
    | with_reducible refine KeepsRes.guarded fun x hx => ?_
    | with_reducible apply State.service_keeps
    | with_reducible apply State.keyRecord_keeps
    | intro _

theorem State.plainPorts_keeps (s : State) (kept : Keeps s₀ s) : Keeps s₀ (State.plainPorts s) := by
  unfold State.plainPorts
  repeat' first
    | with_reducible assumption
    | with_reducible apply State.wr_keeps
    | with_reducible refine Keeps.foldl ?_ fun _ _ _ => ?_

theorem State.netPorts_keeps (s : State) (kept : Keeps s₀ s) : Keeps s₀ (State.netPorts s) := by
  unfold State.netPorts
  repeat' first
    | with_reducible assumption
    | exact rfl
    | with_reducible apply State.loadRing_keeps
    | with_reducible apply State.loadStation_keeps
    | with_reducible apply State.plainPorts_keeps
    | split

theorem State.netrec_keeps (s : State) (kept : Keeps s₀ s) : Keeps s₀ (State.netrec s) := by
  unfold State.netrec
  repeat' first
    | with_reducible assumption
    | with_reducible apply State.netPorts_keeps
    | with_reducible apply State.wr_keeps
    | with_reducible apply State.enterQuarantine_keeps
    | (extract_lets +onlyGivenNames x; with_reducible refine Keeps.cut (x := x) ?_ fun _ => ?_; rotate_left; clear_value x; rotate_left; subst x)
    | split

theorem execNetrec_keeps (s : State) : KeepsRes s (execNetrec s) := by
  unfold execNetrec
  repeat' first
    | with_reducible assumption
    | with_reducible refine KeepsRes.guarded fun x hx => ?_
    | with_reducible apply State.netrec_keeps

theorem State.keepImages_keeps (s : State) (l : List (Nat × Nat)) (kept : Keeps s₀ s) : Keeps s₀ (State.keepImages s l) := by
  unfold State.keepImages
  repeat' first
    | with_reducible assumption
    | exact rfl
    | with_reducible apply State.wr_keeps
    | with_reducible apply State.startFirmware_keeps
    | with_reducible refine Keeps.foldl ?_ fun _ _ _ => ?_
    | with_reducible refine Keeps.foldlFst ?_ fun _ _ _ => ?_
    | (extract_lets +onlyGivenNames x; with_reducible refine Keeps.cut (x := x) ?_ fun _ => ?_; rotate_left; clear_value x; rotate_left; subst x)
    | (extract_lets +onlyGivenNames x; clear_value x)
    | split
    | intro _
    | with_reducible refine Keeps.upd ?_ ?_ ?_

theorem State.mboxGo_keeps (s : State) (kept : Keeps s₀ s) : Keeps s₀ (State.mboxGo s) := by
  unfold State.mboxGo
  repeat' first
    | with_reducible assumption
    | exact rfl
    | with_reducible refine Keeps.fst (by with_reducible assumption) ?_
    | with_reducible apply State.report_keeps
    | with_reducible apply State.wr_keeps
    | with_reducible apply State.raise_keeps
    | with_reducible apply State.keepImages_keeps
    | with_reducible apply State.install_keeps
    | with_reducible apply State.mainReset_keeps
    | (extract_lets +onlyGivenNames x; have _ : State → _ := x; subst x)
    | (extract_lets +onlyGivenNames x; clear_value x)
    | split

theorem execUpdMboxGo_keeps (s : State) : KeepsRes s (execUpdMboxGo s) := by
  unfold execUpdMboxGo
  repeat' first
    | with_reducible assumption
    | with_reducible refine KeepsRes.guarded fun x hx => ?_
    | with_reducible apply State.mboxGo_keeps
    | with_reducible apply State.ack_keeps

theorem execRomrec_keeps (s : State) : KeepsRes s (execRomrec s) := by
  unfold execRomrec
  repeat' first
    | with_reducible assumption
    | exact rfl
    | with_reducible refine KeepsRes.guarded fun x hx => ?_
    | with_reducible apply State.draw_keeps
    | with_reducible apply State.emit_keeps
    | (extract_lets +onlyGivenNames x; with_reducible refine Keeps.cut (x := x) ?_ fun _ => ?_; rotate_left; clear_value x; rotate_left; subst x)
    | (extract_lets +onlyGivenNames x; clear_value x)
    | split
    | intro _
    | with_reducible refine Keeps.upd ?_ ?_ ?_

theorem State.setUpd_keeps (s : State) (u : UpdState) (kept : Keeps s₀ s) : Keeps s₀ (State.setUpd s u) := by
  unfold State.setUpd
  repeat' first
    | with_reducible assumption
    | exact rfl
    | with_reducible refine Keeps.upd ?_ ?_ ?_

theorem State.recBegin_keeps (s : State) (p : List Nat) (kept : Keeps s₀ s) : Keeps s₀ (State.recBegin s p).1 := by
  unfold State.recBegin
  repeat' first
    | with_reducible assumption
    | exact rfl
    | with_reducible apply State.setUpd_keeps
    | (extract_lets +onlyGivenNames x; clear_value x)
    | split

theorem State.recData_keeps (s : State) (p : List Nat) (kept : Keeps s₀ s) : Keeps s₀ (State.recData s p).1 := by
  unfold State.recData
  repeat' first
    | with_reducible assumption
    | exact rfl
    | with_reducible apply State.store_keeps
    | with_reducible apply State.setUpd_keeps
    | (extract_lets +onlyGivenNames x; clear_value x)
    | split

theorem State.recEnd_keeps (s : State) (p : List Nat) (kept : Keeps s₀ s) : Keeps s₀ (State.recEnd s p).1 := by
  unfold State.recEnd
  repeat' first
    | with_reducible assumption
    | exact rfl
    | with_reducible apply State.programImage_keeps
    | with_reducible apply State.setUpd_keeps
    | (extract_lets +onlyGivenNames x; clear_value x)
    | split

theorem State.recAfter_keeps (t s : State) (typ : Nat) (p : List Nat) (kept : Keeps s₀ t) : Keeps s₀ (State.recAfter t s typ p) := by
  unfold State.recAfter
  repeat' first
    | with_reducible assumption
    | with_reducible apply State.mainReset_keeps
    | with_reducible apply State.startFirmware_keeps
    | split

theorem State.recRecord_keeps (s : State) (p : List Nat) (kept : Keeps s₀ s) : Keeps s₀ (State.recRecord s p).1 := by
  unfold State.recRecord
  repeat' first
    | with_reducible assumption
    | with_reducible refine Keeps.fst (by with_reducible assumption) ?_
    | with_reducible apply State.lcOp_keeps
    | with_reducible apply State.keyRecord_keeps
    | split

theorem State.recBaud_keeps (s : State) (p : List Nat) (kept : Keeps s₀ s) : Keeps s₀ (State.recBaud s p).1 := by
  unfold State.recBaud
  repeat' first
    | with_reducible assumption
    | exact rfl
    | with_reducible apply State.setUpd_keeps
    | (extract_lets +onlyGivenNames x; clear_value x)
    | split

theorem State.recApply_keeps (s : State) (typ : Nat) (p : List Nat) (kept : Keeps s₀ s) : Keeps s₀ (State.recApply s typ p).1 := by
  unfold State.recApply
  repeat' first
    | with_reducible assumption
    | exact rfl
    | with_reducible refine Keeps.fst (by with_reducible assumption) ?_
    | with_reducible apply State.recBaud_keeps
    | with_reducible apply State.recBegin_keeps
    | with_reducible apply State.recData_keeps
    | with_reducible apply State.recEnd_keeps
    | with_reducible apply State.recRecord_keeps
    | split

theorem State.recAnswer_keeps (s : State) (uart : Bool) (code : Nat) (l : List (List Nat)) (kept : Keeps s₀ s) : Keeps s₀ (State.recAnswer s uart code l) := by
  unfold State.recAnswer
  repeat' first
    | with_reducible assumption
    | with_reducible apply State.emit_keeps
    | with_reducible apply State.wr_keeps
    | with_reducible apply State.resStart_keeps
    | with_reducible apply State.resDone_keeps
    | with_reducible refine Keeps.foldl ?_ fun _ _ _ => ?_
    | (extract_lets +onlyGivenNames x; with_reducible refine Keeps.cut (x := x) ?_ fun _ => ?_; rotate_left; clear_value x; rotate_left; subst x)
    | (extract_lets +onlyGivenNames x; clear_value x)
    | split

theorem State.recPacket_keeps (s : State) (uart : Bool) (typ seq : Nat) (p : List Nat) (kept : Keeps s₀ s) : Keeps s₀ (State.recPacket s uart typ seq p) := by
  unfold State.recPacket
  repeat' first
    | with_reducible assumption
    | exact rfl
    | with_reducible refine Keeps.fst (by with_reducible assumption) ?_
    | with_reducible apply State.recAnswer_keeps
    | with_reducible apply State.recApply_keeps
    | with_reducible apply State.setUpd_keeps
    | with_reducible apply State.recAfter_keeps
    | (extract_lets +onlyGivenNames x; clear_value x)
    | split

theorem State.rcmd_keeps (s : State) (len : Nat) (kept : Keeps s₀ s) : Keeps s₀ (State.rcmd s len) := by
  unfold State.rcmd
  repeat' first
    | with_reducible assumption
    | with_reducible apply State.recAnswer_keeps
    | with_reducible apply State.recPacket_keeps
    | (extract_lets +onlyGivenNames x; clear_value x)
    | split

theorem execInfo_keeps (uart : Bool) (seq : Byte) (s : State) : KeepsRes s (execInfo uart seq s) := by
  unfold execInfo
  repeat' first
    | with_reducible assumption
    | with_reducible refine KeepsRes.guarded fun x hx => ?_
    | with_reducible apply State.recPacket_keeps

theorem execSetbaud_keeps (uart : Bool) (seq : Byte) (baud : Word) (s : State) : KeepsRes s (execSetbaud uart seq baud s) := by
  unfold execSetbaud
  repeat' first
    | with_reducible assumption
    | with_reducible refine KeepsRes.guarded fun x hx => ?_
    | with_reducible apply State.recPacket_keeps

theorem execBegin_keeps (uart : Bool) (seq cls mode : Byte) (total : Word) (s : State) : KeepsRes s (execBegin uart seq cls mode total s) := by
  unfold execBegin
  repeat' first
    | with_reducible assumption
    | with_reducible refine KeepsRes.guarded fun x hx => ?_
    | with_reducible apply State.recPacket_keeps

theorem execData_keeps (uart : Bool) (seq : Byte) (off : Word) (data : List Byte) (s : State) : KeepsRes s (execData uart seq off data s) := by
  unfold execData
  repeat' first
    | with_reducible assumption
    | with_reducible refine KeepsRes.guarded fun x hx => ?_
    | with_reducible apply State.recPacket_keeps

theorem execEnd_keeps (uart : Bool) (seq : Byte) (s : State) : KeepsRes s (execEnd uart seq s) := by
  unfold execEnd
  repeat' first
    | with_reducible assumption
    | with_reducible refine KeepsRes.guarded fun x hx => ?_
    | with_reducible apply State.recPacket_keeps

theorem execRun_keeps (uart : Bool) (seq : Byte) (s : State) : KeepsRes s (execRun uart seq s) := by
  unfold execRun
  repeat' first
    | with_reducible assumption
    | with_reducible refine KeepsRes.guarded fun x hx => ?_
    | with_reducible apply State.recPacket_keeps

theorem execRecord_keeps (uart : Bool) (seq : Byte) (record : List Byte) (s : State) : KeepsRes s (execRecord uart seq record s) := by
  unfold execRecord
  repeat' first
    | with_reducible assumption
    | with_reducible refine KeepsRes.guarded fun x hx => ?_
    | with_reducible apply State.recPacket_keeps

end Sys2Proof.Machine
end

