-- ==== Sys2Proof/Laws/KeepsRegAccess.lean ====
section
/-! SUPPORT. The operations of Machine/RegAccess.lean keep the canonical forms, the queue and what was sent. -/

namespace Sys2Proof.Machine

variable {s₀ : State}

theorem State.noteMeasured_keeps (s : State) (off : Nat) (kept : Keeps s₀ s) : Keeps s₀ (State.noteMeasured s off) := by
  unfold State.noteMeasured
  repeat' first
    | with_reducible assumption
    | exact rfl
    | with_reducible apply State.draw_keeps
    | (extract_lets +onlyGivenNames x; with_reducible refine Keeps.cut (x := x) ?_ fun _ => ?_; rotate_left; clear_value x; rotate_left; subst x)
    | (extract_lets +onlyGivenNames x; clear_value x)
    | split
    | with_reducible refine Keeps.upd ?_ ?_ ?_

theorem State.readEffect_keeps (s : State) (r : RRow) (place : Nat) (kept : Keeps s₀ s) : Keeps s₀ (State.readEffect s r place) := by
  unfold State.readEffect
  repeat' first
    | with_reducible assumption
    | exact rfl
    | with_reducible refine Keeps.fst (by with_reducible assumption) ?_
    | with_reducible apply State.wr_keeps
    | with_reducible apply State.place_keeps
    | with_reducible apply State.waitingFaults_keeps
    | with_reducible refine Keeps.foldl ?_ fun _ _ _ => ?_
    | with_reducible refine Keeps.foldlFst ?_ fun _ _ _ => ?_
    | (extract_lets +onlyGivenNames x; with_reducible refine Keeps.cut (x := x) ?_ fun _ => ?_; rotate_left; clear_value x; rotate_left; subst x)
    | (extract_lets +onlyGivenNames x; clear_value x)
    | split

theorem State.regRead_keeps (s : State) (init : Initiator) (off : Nat) (kept : Keeps s₀ s) : Keeps s₀ (State.regRead s init off) := by
  unfold State.regRead
  repeat' first
    | with_reducible assumption
    | exact rfl
    | with_reducible refine Keeps.fst (by with_reducible assumption) ?_
    | with_reducible apply State.refuseReg_keeps
    | with_reducible apply State.give_keeps
    | with_reducible apply State.sawRxf_keeps
    | with_reducible apply State.place_keeps
    | with_reducible apply State.noteMeasured_keeps
    | with_reducible apply State.wr_keeps
    | with_reducible apply State.readEffect_keeps
    | (extract_lets +onlyGivenNames x; with_reducible refine Keeps.cut (x := x) ?_ fun _ => ?_; rotate_left; clear_value x; rotate_left; subst x)
    | (extract_lets +onlyGivenNames x; clear_value x)
    | split

theorem State.putField_keeps (s : State) (block : Nat) (f : FRow) (place word : Nat) (kept : Keeps s₀ s) : Keeps s₀ (State.putField s block f place word) := by
  unfold State.putField
  repeat' first
    | with_reducible assumption
    | exact rfl
    | with_reducible refine Keeps.fst (by with_reducible assumption) ?_
    | with_reducible apply State.place_keeps
    | with_reducible apply State.wr_keeps
    | with_reducible apply State.slcWrite_keeps
    | with_reducible apply State.keepPar_keeps
    | with_reducible apply State.wrA_keeps
    | (extract_lets +onlyGivenNames x; with_reducible refine Keeps.cut (x := x) ?_ fun _ => ?_; rotate_left; clear_value x; rotate_left; subst x)
    | (extract_lets +onlyGivenNames x; clear_value x)
    | split
    | with_reducible refine Keeps.upd ?_ ?_ ?_

theorem State.putReserved_keeps (s : State) (r : RRow) (place word : Nat) (kept : Keeps s₀ s) : Keeps s₀ (State.putReserved s r place word) := by
  unfold State.putReserved
  repeat' first
    | with_reducible assumption
    | with_reducible refine Keeps.fst (by with_reducible assumption) ?_
    | with_reducible apply State.putField_keeps
    | with_reducible apply State.place_keeps
    | with_reducible refine Keeps.foldl ?_ fun _ _ _ => ?_
    | with_reducible refine Keeps.foldlFst ?_ fun _ _ _ => ?_
    | split

theorem State.stageLow_keeps (s : State) (r : RRow) (place word : Nat) (kept : Keeps s₀ s) : Keeps s₀ (State.stageLow s r place word) := by
  unfold State.stageLow
  repeat' first
    | with_reducible assumption
    | exact rfl
    | with_reducible refine Keeps.fst (by with_reducible assumption) ?_
    | with_reducible apply State.putReserved_keeps
    | with_reducible apply State.place_keeps
    | (extract_lets +onlyGivenNames x; with_reducible refine Keeps.cut (x := x) ?_ fun _ => ?_; rotate_left; clear_value x; rotate_left; subst x)
    | with_reducible refine Keeps.upd ?_ ?_ ?_

theorem State.commitPair_keeps (s : State) (low : RRow) (r : RRow) (block place word : Nat) (kept : Keeps s₀ s) : Keeps s₀ (State.commitPair s low r block place word) := by
  unfold State.commitPair
  repeat' first
    | with_reducible assumption
    | with_reducible refine Keeps.fst (by with_reducible assumption) ?_
    | with_reducible apply State.place_keeps
    | with_reducible apply State.putField_keeps
    | with_reducible refine Keeps.foldl ?_ fun _ _ _ => ?_
    | with_reducible refine Keeps.foldlFst ?_ fun _ _ _ => ?_
    | (extract_lets +onlyGivenNames x; clear_value x)
    | split

theorem State.dropWindow_keeps (s : State) (n : Nat) (kept : Keeps s₀ s) : Keeps s₀ (State.dropWindow s n) := by
  unfold State.dropWindow
  repeat' first
    | with_reducible assumption
    | exact rfl
    | with_reducible apply State.setBrg_keeps

theorem State.govern_keeps (s : State) (kept : Keeps s₀ s) : Keeps s₀ (State.govern s) := by
  unfold State.govern
  repeat' first
    | with_reducible assumption
    | with_reducible apply State.wakeStart_keeps
    | with_reducible refine Keeps.foldl ?_ fun _ _ _ => ?_
    | split

theorem State.paramAction_keeps (s : State) (off pers word : Nat) (kept : Keeps s₀ s) : Keeps s₀ (State.paramAction s off pers word) := by
  unfold State.paramAction
  repeat' first
    | with_reducible assumption
    | with_reducible apply State.pulseWrite_keeps
    | with_reducible apply State.toIol_keeps
    | with_reducible apply State.iolFollow_keeps
    | (extract_lets +onlyGivenNames x; clear_value x)
    | split

theorem State.engineAction_keeps (s : State) (init : Initiator) (off word : Nat) (r : RRow) (kept : Keeps s₀ s) : Keeps s₀ (State.engineAction s init off word r) := by
  unfold State.engineAction
  repeat' first
    | with_reducible assumption
    | exact rfl
    | with_reducible apply State.sliceEnable_keeps
    | with_reducible apply State.flushRequest_keeps
    | with_reducible apply State.sliceStart_keeps
    | with_reducible apply State.canLom_keeps
    | with_reducible apply State.canEnable_keeps
    | with_reducible apply State.canRecover_keeps
    | with_reducible apply State.abdEnd_keeps
    | with_reducible apply State.abdGo_keeps
    | with_reducible apply State.canTxReq_keeps
    | with_reducible apply State.canRxAck_keeps
    | with_reducible apply State.canPop_keeps
    | with_reducible apply State.sawReload_keeps
    | with_reducible apply State.groveFlags_keeps
    | with_reducible apply State.sawEnable_keeps
    | with_reducible apply State.sawInject_keeps
    | with_reducible apply State.sawTxf_keeps
    | with_reducible apply State.sawDrop_keeps
    | (extract_lets +onlyGivenNames x; with_reducible refine Keeps.cut (x := x) ?_ fun _ => ?_; rotate_left; clear_value x; rotate_left; subst x)
    | (extract_lets +onlyGivenNames x; clear_value x)
    | split

theorem State.fieldAction_keeps (s : State) (init : Initiator) (off word : Nat) (r : RRow) (kept : Keeps s₀ s) : Keeps s₀ (State.fieldAction s init off word r) := by
  unfold State.fieldAction
  repeat' first
    | with_reducible assumption
    | exact rfl
    | with_reducible apply State.clearLatches_keeps
    | with_reducible apply State.fldLb_keeps
    | with_reducible apply State.wr_keeps
    | with_reducible apply State.feedEnable_keeps
    | with_reducible apply State.chkCal_keeps
    | with_reducible apply State.feedClear_keeps
    | (extract_lets +onlyGivenNames x; with_reducible refine Keeps.cut (x := x) ?_ fun _ => ?_; rotate_left; clear_value x; rotate_left; subst x)
    | (extract_lets +onlyGivenNames x; clear_value x)
    | split

theorem State.fabricAction_keeps (s : State) (srd : State → Initiator → State) (init : Initiator) (src off word : Nat) (r : RRow) (hsrd : ∀ x i, Keeps s₀ x → Keeps s₀ (srd x i)) (kept : Keeps s₀ s) : Keeps s₀ (State.fabricAction s srd init src off word r) := by
  unfold State.fabricAction
  repeat' first
    | with_reducible assumption
    | exact rfl
    | with_reducible apply hsrd
    | with_reducible apply State.rekeyWrite_keeps
    | with_reducible apply State.dropWindow_keeps
    | with_reducible apply State.doorbell_keeps
    | with_reducible apply State.dmxCmd_keeps
    | with_reducible apply State.fqPop_keeps
    | with_reducible apply State.cphOp_keeps
    | with_reducible apply State.keyCmd_keeps
    | with_reducible apply State.stageWrite_keeps
    | with_reducible apply State.sttCtl_keeps
    | with_reducible apply State.peerIn_keeps
    | with_reducible apply State.claimIn_keeps
    | with_reducible apply State.refcmdIn_keeps
    | with_reducible apply State.refqPop_keeps
    | with_reducible apply State.orderIn_keeps
    | (extract_lets +onlyGivenNames x; clear_value x)
    | split

theorem State.hubAction_keeps (s : State) (init : Initiator) (off word : Nat) (r : RRow) (kept : Keeps s₀ s) : Keeps s₀ (State.hubAction s init off word r) := by
  unfold State.hubAction
  repeat' first
    | with_reducible assumption
    | exact rfl
    | with_reducible apply State.driftAck_keeps
    | with_reducible apply State.raise_keeps
    | with_reducible apply State.clrStage_keeps
    | with_reducible apply State.almEnable_keeps
    | with_reducible apply State.almCancel_keeps
    | with_reducible apply State.stagePtr_keeps
    | with_reducible apply State.stageData_keeps
    | with_reducible apply State.timCapture_keeps
    | with_reducible apply State.timSet_keeps
    | with_reducible apply State.queryGo_keeps
    | with_reducible apply State.defCommitDue_keeps
    | with_reducible apply State.wrA_keeps
    | with_reducible apply State.defCommitChanged_keeps
    | with_reducible apply State.schCmd_keeps
    | with_reducible apply State.retractGroups_keeps
    | with_reducible apply State.forceRelease_keeps
    | with_reducible apply State.slcRelease_keeps
    | with_reducible apply State.govern_keeps
    | with_reducible apply State.pwrCtl_keeps
    | with_reducible apply State.listWrite_keeps
    | with_reducible apply State.tsafeClr_keeps
    | with_reducible apply State.tamperEnable_keeps
    | with_reducible apply State.sysrst_keeps
    | with_reducible apply State.eload_keeps
    | with_reducible apply State.mboxGo_keeps
    | with_reducible apply State.rcmd_keeps
    | with_reducible apply State.wr_keeps
    | with_reducible apply State.bomCmd_keeps
    | with_reducible apply State.bomInj_keeps
    | with_reducible apply State.bomTest_keeps
    | with_reducible apply State.bomFwrec_keeps
    | (extract_lets +onlyGivenNames x; with_reducible refine Keeps.cut (x := x) ?_ fun _ => ?_; rotate_left; clear_value x; rotate_left; subst x)
    | (extract_lets +onlyGivenNames x; clear_value x)
    | split

theorem State.regAction_keeps (s : State) (srd : State → Initiator → State) (init : Initiator) (src off word : Nat) (r : RRow) (hsrd : ∀ x i, Keeps s₀ x → Keeps s₀ (srd x i)) (kept : Keeps s₀ s) : Keeps s₀ (State.regAction s srd init src off word r) := by
  unfold State.regAction
  repeat' first
    | with_reducible assumption
    | with_reducible apply hsrd
    | with_reducible apply State.paramAction_keeps
    | with_reducible apply State.fieldAction_keeps
    | with_reducible apply State.engineAction_keeps
    | with_reducible apply State.fabricAction_keeps
    | with_reducible apply State.hubAction_keeps
    | (extract_lets +onlyGivenNames x; clear_value x)
    | split

theorem State.regPerform_keeps (s : State) (srd : State → Initiator → State) (init : Initiator) (src off word : Nat) (r : RRow) (hsrd : ∀ x i, Keeps s₀ x → Keeps s₀ (srd x i)) (kept : Keeps s₀ s) : Keeps s₀ (State.regPerform s srd init src off word r) := by
  unfold State.regPerform
  repeat' first
    | with_reducible assumption
    | exact rfl
    | with_reducible refine Keeps.fst (by with_reducible assumption) ?_
    | with_reducible apply hsrd
    | with_reducible apply State.place_keeps
    | with_reducible apply State.stageLow_keeps
    | with_reducible apply State.commitPair_keeps
    | with_reducible apply State.regAction_keeps
    | with_reducible apply State.putField_keeps
    | with_reducible refine Keeps.foldl ?_ fun _ _ _ => ?_
    | with_reducible refine Keeps.foldlFst ?_ fun _ _ _ => ?_
    | (extract_lets +onlyGivenNames x; with_reducible refine Keeps.cut (x := x) ?_ fun _ => ?_; rotate_left; clear_value x; rotate_left; subst x)
    | (extract_lets +onlyGivenNames x; clear_value x)
    | split

theorem State.regWrite_keeps (s : State) (srd : State → Initiator → State) (init : Initiator) (src off word : Nat) (hsrd : ∀ x i, Keeps s₀ x → Keeps s₀ (srd x i)) (kept : Keeps s₀ s) : Keeps s₀ (State.regWrite s srd init src off word) := by
  unfold State.regWrite
  repeat' first
    | with_reducible assumption
    | exact rfl
    | with_reducible apply hsrd
    | with_reducible apply State.refuseReg_keeps
    | with_reducible apply State.ack_keeps
    | with_reducible apply State.capture_keeps
    | with_reducible apply State.regPerform_keeps
    | split

theorem State.imageWrite_keeps (s : State) (off : Nat) (bs : List Nat) (kept : Keeps s₀ s) : Keeps s₀ (State.imageWrite s off bs) := by
  unfold State.imageWrite
  repeat' first
    | with_reducible assumption
    | exact rfl
    | with_reducible apply State.store_keeps
    | with_reducible apply State.ack_keeps
    | with_reducible refine Keeps.foldl ?_ fun _ _ _ => ?_
    | (extract_lets +onlyGivenNames x; clear_value x)
    | split
    | intro _
    | with_reducible refine Keeps.upd ?_ ?_ ?_

theorem State.unitsToBytes_keeps (s : State) (kept : Keeps s₀ s) : Keeps s₀ (State.unitsToBytes s) := by
  unfold State.unitsToBytes
  repeat' first
    | with_reducible assumption
    | exact rfl
    | with_reducible apply State.give_keeps
    | split

theorem State.memCheck_keeps (s : State) (region off len : Nat) (kept : Keeps s₀ s) : Keeps s₀ (State.memCheck s region off len) := by
  unfold State.memCheck
  repeat' first
    | with_reducible assumption
    | with_reducible apply State.memRead_keeps
    | with_reducible refine Keeps.foldl ?_ fun _ _ _ => ?_

theorem State.memoryRead_keeps (s : State) (init : Initiator) (region off len : Nat) (enabled : Bool) (kept : Keeps s₀ s) : Keeps s₀ (State.memoryRead s init region off len enabled) := by
  unfold State.memoryRead
  repeat' first
    | with_reducible assumption
    | exact rfl
    | with_reducible apply State.give_keeps
    | with_reducible apply State.rxPortRead_keeps
    | with_reducible apply State.unitsToBytes_keeps
    | with_reducible apply State.canWindowRead_keeps
    | with_reducible apply State.groveRead_keeps
    | with_reducible apply State.boomRead_keeps
    | with_reducible apply State.contextRead_keeps
    | with_reducible apply State.calRead_keeps
    | split

theorem State.checkedRead_keeps (s : State) (init : Initiator) (region off len : Nat) (enabled : Bool) (kept : Keeps s₀ s) : Keeps s₀ (State.checkedRead s init region off len enabled) := by
  unfold State.checkedRead
  repeat' first
    | with_reducible assumption
    | exact rfl
    | with_reducible apply State.memoryRead_keeps
    | with_reducible apply State.memCheck_keeps
    | with_reducible apply State.refuse_keeps
    | (extract_lets +onlyGivenNames x; with_reducible refine Keeps.cut (x := x) ?_ fun _ => ?_; rotate_left; clear_value x; rotate_left; subst x)
    | split

theorem State.localRead_keeps (s : State) (init : Initiator) (region off len : Nat) (enabled : Bool) (kept : Keeps s₀ s) : Keeps s₀ (State.localRead s init region off len enabled) := by
  unfold State.localRead
  repeat' first
    | with_reducible assumption
    | exact rfl
    | with_reducible apply State.refuse_keeps
    | with_reducible apply State.refuseReg_keeps
    | with_reducible apply State.regRead_keeps
    | with_reducible apply State.draw_keeps
    | with_reducible apply State.give_keeps
    | with_reducible apply State.checkedRead_keeps
    | with_reducible refine Keeps.foldl ?_ fun _ _ _ => ?_
    | with_reducible refine Keeps.foldlFst ?_ fun _ _ _ => ?_
    | split

theorem State.memoryWrite_keeps (s : State) (init : Initiator) (region off : Nat) (bs : List Nat) (enabled : Bool) (kept : Keeps s₀ s) : Keeps s₀ (State.memoryWrite s init region off bs enabled) := by
  unfold State.memoryWrite
  repeat' first
    | with_reducible assumption
    | exact rfl
    | with_reducible apply State.imageWrite_keeps
    | with_reducible apply State.txPortWrite_keeps
    | with_reducible apply State.canWindowWrite_keeps
    | with_reducible apply State.groveWrite_keeps
    | with_reducible apply State.store_keeps
    | with_reducible apply State.ack_keeps
    | with_reducible apply State.refuse_keeps
    | with_reducible apply State.contextWrite_keeps
    | with_reducible apply State.calWrite_keeps
    | split

theorem State.wrote_keeps (s : State) (region off len : Nat) (kept : Keeps s₀ s) : Keeps s₀ (State.wrote s region off len) := by
  unfold State.wrote
  repeat' first
    | with_reducible assumption
    | exact rfl
    | with_reducible apply State.memWritten_keeps
    | split

theorem State.localWrite_keeps (s : State) (srd : State → Initiator → State) (init : Initiator) (src region off : Nat) (bs : List Nat) (enabled : Bool) (hsrd : ∀ x i, Keeps s₀ x → Keeps s₀ (srd x i)) (kept : Keeps s₀ s) : Keeps s₀ (State.localWrite s srd init src region off bs enabled) := by
  unfold State.localWrite
  repeat' first
    | with_reducible assumption
    | exact rfl
    | with_reducible apply hsrd
    | with_reducible apply State.refuse_keeps
    | with_reducible apply State.refuseReg_keeps
    | with_reducible apply State.regWrite_keeps
    | with_reducible apply State.emit_keeps
    | with_reducible apply State.ack_keeps
    | with_reducible apply State.memoryWrite_keeps
    | with_reducible apply State.wrote_keeps
    | split

theorem execBoomRead_keeps (init : Initiator) (off : BitVec 20) (bytes : ReadBytes) (s : State) : KeepsRes s (execBoomRead init off bytes s) := by
  unfold execBoomRead
  repeat' first
    | with_reducible assumption
    | with_reducible refine KeepsRes.guarded fun x hx => ?_
    | with_reducible apply State.checkedRead_keeps

theorem execCalendarEntryWrite_keeps (init : Initiator) (off : BitVec 18) (data : WriteBytes) (s : State) : KeepsRes s (execCalendarEntryWrite init off data s) := by
  unfold execCalendarEntryWrite
  repeat' first
    | with_reducible assumption
    | with_reducible refine KeepsRes.guarded fun x hx => ?_
    | with_reducible apply State.calWrite_keeps
    | with_reducible apply State.wrote_keeps

theorem execContextRecordWrite_keeps (init : Initiator) (off : BitVec 18) (data : List Byte) (s : State) : KeepsRes s (execContextRecordWrite init off data s) := by
  unfold execContextRecordWrite
  repeat' first
    | with_reducible assumption
    | with_reducible refine KeepsRes.guarded fun x hx => ?_
    | with_reducible apply State.contextWrite_keeps
    | with_reducible apply State.wrote_keeps

theorem execGroveMemoryWrite_keeps (init : Initiator) (off : BitVec 15) (data : WriteBytes) (s : State) : KeepsRes s (execGroveMemoryWrite init off data s) := by
  unfold execGroveMemoryWrite
  repeat' first
    | with_reducible assumption
    | with_reducible refine KeepsRes.guarded fun x hx => ?_
    | with_reducible apply State.groveWrite_keeps
    | with_reducible apply State.wrote_keeps

theorem execCanBufferWrite_keeps (init : Initiator) (channel : Fin 16) (off : BitVec 14) (data : WriteBytes) (s : State) : KeepsRes s (execCanBufferWrite init channel off data s) := by
  unfold execCanBufferWrite
  repeat' first
    | with_reducible assumption
    | with_reducible refine KeepsRes.guarded fun x hx => ?_
    | with_reducible apply State.canWindowWrite_keeps
    | with_reducible apply State.wrote_keeps

end Sys2Proof.Machine
end

