-- ==== Sys2Proof/Laws/KeepsWake.lean ====
section
/-! SUPPORT. The operations of Machine/Wake.lean keep the canonical forms, the queue and what was sent. -/

namespace Sys2Proof.Machine

variable {s₀ : State}

theorem replayWrite_keeps (s : State) (off data : Nat) (kept : Keeps s₀ s) : Keeps s₀ (replayWrite s off data) := by
  unfold replayWrite
  repeat' first
    | with_reducible assumption
    | with_reducible apply State.regWrite_keeps
    | intro _

theorem State.replayEntry_keeps (s : State) (n e : Nat) (kept : Keeps s₀ s) : Keeps s₀ (State.replayEntry s n e) := by
  unfold State.replayEntry
  repeat' first
    | with_reducible assumption
    | with_reducible apply State.store_keeps
    | with_reducible apply replayWrite_keeps
    | (extract_lets +onlyGivenNames x; clear_value x)
    | split

theorem State.replay_keeps (s : State) (n : Nat) (kept : Keeps s₀ s) : Keeps s₀ (State.replay s n) := by
  unfold State.replay
  repeat' first
    | with_reducible assumption
    | exact rfl
    | with_reducible apply State.replayEntry_keeps
    | with_reducible refine Keeps.foldl ?_ fun _ _ _ => ?_
    | (extract_lets +onlyGivenNames x; with_reducible refine Keeps.cut (x := x) ?_ fun _ => ?_; rotate_left; clear_value x; rotate_left; subst x)
    | intro _
    | with_reducible refine Keeps.upd ?_ ?_ ?_

theorem State.restoreUnit_keeps (s : State) (p : Nat × Nat) (kept : Keeps s₀ s) : Keeps s₀ (State.restoreUnit s p) := by
  unfold State.restoreUnit
  repeat' first
    | with_reducible assumption
    | exact rfl
    | with_reducible apply State.loadSlice_keeps
    | with_reducible apply State.loadCan_keeps
    | with_reducible apply State.loadGrove_keeps
    | split

theorem State.restore_keeps (s : State) (n : Nat) (kept : Keeps s₀ s) : Keeps s₀ (State.restore s n) := by
  unfold State.restore
  repeat' first
    | with_reducible assumption
    | with_reducible apply State.restoreUnit_keeps
    | with_reducible apply State.replay_keeps
    | with_reducible apply State.wr_keeps
    | with_reducible apply State.raise_keeps
    | with_reducible refine Keeps.foldl ?_ fun _ _ _ => ?_
    | with_reducible refine Keeps.foldlFst ?_ fun _ _ _ => ?_
    | (extract_lets +onlyGivenNames x; with_reducible refine Keeps.cut (x := x) ?_ fun _ => ?_; rotate_left; clear_value x; rotate_left; subst x)
    | split

theorem State.staleWake_keeps (s : State) (n : Nat) (kept : Keeps s₀ s) : Keeps s₀ (State.staleWake s n) := by
  unfold State.staleWake
  repeat' first
    | with_reducible assumption
    | with_reducible apply State.raise_keeps
    | with_reducible apply State.bump_keeps

theorem State.wakeState_keeps (s : State) (n : Nat) (kept : Keeps s₀ s) : Keeps s₀ (State.wakeState s n) := by
  unfold State.wakeState
  repeat' first
    | with_reducible assumption
    | with_reducible apply State.restore_keeps
    | with_reducible apply State.staleWake_keeps
    | with_reducible apply State.wr_keeps
    | split

theorem State.lateTrigger_keeps (s : State) (h : HeldTrigger) (kept : Keeps s₀ s) : Keeps s₀ (State.lateTrigger s h) := by
  unfold State.lateTrigger
  repeat' first
    | with_reducible assumption
    | exact rfl
    | with_reducible apply State.raise_keeps
    | with_reducible apply State.bump_keeps
    | with_reducible apply State.boom_keeps
    | with_reducible apply State.sawTrigger_keeps
    | with_reducible apply State.canRequest_keeps
    | with_reducible apply State.sliceStart_keeps
    | (extract_lets +onlyGivenNames x; with_reducible refine Keeps.cut (x := x) ?_ fun _ => ?_; rotate_left; clear_value x; rotate_left; subst x)
    | split

theorem State.wakeDone_keeps (s : State) (n : Nat) (kept : Keeps s₀ s) : Keeps s₀ (State.wakeDone s n) := by
  unfold State.wakeDone
  repeat' first
    | with_reducible assumption
    | exact rfl
    | with_reducible apply State.wakeState_keeps
    | with_reducible apply State.toPower_keeps
    | with_reducible apply State.lateTrigger_keeps
    | with_reducible refine Keeps.foldl ?_ fun _ _ _ => ?_
    | with_reducible refine Keeps.foldlFst ?_ fun _ _ _ => ?_
    | (extract_lets +onlyGivenNames x; with_reducible refine Keeps.cut (x := x) ?_ fun _ => ?_; rotate_left; clear_value x; rotate_left; subst x)
    | (extract_lets +onlyGivenNames x; clear_value x)
    | split
    | intro _
    | with_reducible refine Keeps.upd ?_ ?_ ?_

theorem execWakeComplete_keeps (slice : Fin 64) (s : State) : KeepsRes s (execWakeComplete slice s) := by
  unfold execWakeComplete
  repeat' first
    | with_reducible assumption
    | with_reducible refine KeepsRes.guarded fun x hx => ?_
    | with_reducible apply State.wakeDone_keeps

end Sys2Proof.Machine
end

