-- ==== Sys2Proof/Laws/KeepsBridge.lean ====
section
/-! SUPPORT. The operations of Machine/Bridge.lean keep the canonical forms, the queue and what was sent. -/

namespace Sys2Proof.Machine

variable {s₀ : State}

theorem State.readOwn_keeps (s : State) (init : Initiator) (fa len : Nat) (enabled : Bool) (kept : Keeps s₀ s) : Keeps s₀ (State.readOwn s init fa len enabled).1 := by
  unfold State.readOwn
  repeat' first
    | with_reducible assumption
    | with_reducible apply State.localRead_keeps

theorem State.srdRunning_keeps (s : State) (init : Initiator) (kept : Keeps s₀ s) : Keeps s₀ (State.srdRunning s init) := by
  unfold State.srdRunning
  repeat' first
    | with_reducible assumption
    | with_reducible apply State.capture_keeps

theorem State.writeOwn_keeps (s : State) (srd : State → Initiator → State) (init : Initiator) (src fa : Nat) (bs : List Nat) (enabled : Bool) (hsrd : ∀ x i, Keeps s₀ x → Keeps s₀ (srd x i)) (kept : Keeps s₀ s) : Keeps s₀ (State.writeOwn s srd init src fa bs enabled).1 := by
  unfold State.writeOwn
  repeat' first
    | with_reducible assumption
    | exact rfl
    | with_reducible apply hsrd
    | with_reducible apply State.localWrite_keeps

theorem State.sendTagged_keeps (s : State) (t : Nat) (r : Request) (kept : Keeps s₀ s) : Keeps s₀ (State.sendTagged s t r).1 := by
  unfold State.sendTagged
  repeat' first
    | with_reducible assumption
    | exact rfl
    | with_reducible refine Keeps.fst (by with_reducible assumption) ?_
    | with_reducible apply State.originate_keeps
    | with_reducible apply State.setBrg_keeps
    | (extract_lets +onlyGivenNames x; clear_value x)
    | split

theorem State.sendRequest_keeps (s : State) (r : Request) (kept : Keeps s₀ s) : Keeps s₀ (State.sendRequest s r).1 := by
  unfold State.sendRequest
  repeat' first
    | with_reducible assumption
    | exact rfl
    | with_reducible refine Keeps.fst (by with_reducible assumption) ?_
    | with_reducible apply State.sendTagged_keeps
    | with_reducible apply State.setBrg_keeps
    | with_reducible apply State.bump_keeps
    | (extract_lets +onlyGivenNames x; clear_value x)
    | split

theorem State.postedCaptured_keeps (s : State) (who fa code : Nat) (kept : Keeps s₀ s) : Keeps s₀ (State.postedCaptured s who fa code) := by
  unfold State.postedCaptured
  repeat' first
    | with_reducible assumption
    | with_reducible apply State.raise_keeps
    | with_reducible apply State.wr_keeps
    | with_reducible apply State.boom_keeps
    | (extract_lets +onlyGivenNames x; clear_value x)
    | split

theorem State.ctxDataFails_keeps (s : State) (c code : Nat) (kept : Keeps s₀ s) : Keeps s₀ (State.ctxDataFails s c code) := by
  unfold State.ctxDataFails
  repeat' first
    | with_reducible assumption
    | with_reducible apply State.dropDmaTags_keeps
    | with_reducible apply State.ctxError_keeps
    | split

theorem State.postedFails_keeps (s : State) (who fa code : Nat) (kept : Keeps s₀ s) : Keeps s₀ (State.postedFails s who fa code) := by
  unfold State.postedFails
  repeat' first
    | with_reducible assumption
    | with_reducible apply State.postedCaptured_keeps
    | with_reducible apply State.ctxDataFails_keeps
    | split

theorem State.postWrite_keeps (s : State) (who tc fa : Nat) (data : List Nat) (ctx : Nat) (kslot : Nat) (kept : Keeps s₀ s) : Keeps s₀ (State.postWrite s who tc fa data ctx kslot).1 := by
  unfold State.postWrite
  repeat' first
    | with_reducible assumption
    | exact rfl
    | with_reducible refine Keeps.fst (by with_reducible assumption) ?_
    | with_reducible apply State.originate_keeps
    | with_reducible apply State.setBrg_keeps
    | (extract_lets +onlyGivenNames x; clear_value x)
    | split

theorem State.setSems_keeps (s : State) (m : SMap Nat) (kept : Keeps s₀ s) : Keeps s₀ (State.setSems s m) := by
  unfold State.setSems
  repeat' first
    | with_reducible assumption
    | exact rfl
    | with_reducible apply State.setBrg_keeps

theorem State.lockAcq_keeps (s : State) (who held page : Nat) (holderWaits : Bool) (kept : Keeps s₀ s) : Keeps s₀ (State.lockAcq s who held page holderWaits).1 := by
  unfold State.lockAcq
  repeat' first
    | with_reducible assumption
    | exact rfl
    | with_reducible apply State.bump_keeps
    | with_reducible apply State.raise_keeps
    | with_reducible apply State.setBrg_keeps
    | with_reducible apply State.setSems_keeps
    | (extract_lets +onlyGivenNames x; with_reducible refine Keeps.cut (x := x) ?_ fun _ => ?_; rotate_left; clear_value x; rotate_left; subst x)
    | (extract_lets +onlyGivenNames x; have _ : State → _ := x; subst x)
    | (extract_lets +onlyGivenNames x; clear_value x)
    | split

theorem State.lockRel_keeps (s : State) (who page : Nat) (kept : Keeps s₀ s) : Keeps s₀ (State.lockRel s who page).1 := by
  unfold State.lockRel
  repeat' first
    | with_reducible assumption
    | with_reducible apply State.setSems_keeps
    | split

theorem State.setLocks_keeps (s : State) (b : Nat) (l : List Nat) (kept : Keeps s₀ s) : Keeps s₀ (State.setLocks s b l) := by
  unfold State.setLocks
  repeat' first
    | with_reducible assumption
    | exact rfl
    | with_reducible apply State.setBrg_keeps

theorem State.srdEnd_keeps (s : State) (b code : Nat) (kept : Keeps s₀ s) : Keeps s₀ (State.srdEnd s b code) := by
  unfold State.srdEnd
  repeat' first
    | with_reducible assumption
    | exact rfl
    | with_reducible apply State.setBrg_keeps
    | with_reducible apply State.resDone_keeps

theorem State.releasePage_keeps (s : State) (b page : Nat) (kept : Keeps s₀ s) : Keeps s₀ (State.releasePage s b page) := by
  unfold State.releasePage
  repeat' first
    | with_reducible assumption
    | with_reducible refine Keeps.fst (by with_reducible assumption) ?_
    | with_reducible apply State.lockRel_keeps
    | with_reducible apply State.sendRequest_keeps
    | split

theorem State.loseLock_keeps (s : State) (b : Nat) (kept : Keeps s₀ s) : Keeps s₀ (State.loseLock s b) := by
  unfold State.loseLock
  repeat' first
    | with_reducible assumption
    | exact rfl
    | with_reducible apply State.setLocks_keeps
    | with_reducible apply State.releasePage_keeps
    | with_reducible apply State.setBrg_keeps
    | with_reducible apply State.srdEnd_keeps
    | with_reducible refine Keeps.foldl ?_ fun _ _ _ => ?_

theorem State.srdBusy_keeps (s : State) (b : Nat) (kept : Keeps s₀ s) : Keeps s₀ (State.srdBusy s b) := by
  unfold State.srdBusy
  repeat' first
    | with_reducible assumption
    | exact rfl
    | with_reducible apply State.bump_keeps
    | with_reducible apply State.srdEnd_keeps
    | with_reducible apply State.setBrg_keeps
    | (extract_lets +onlyGivenNames x; with_reducible refine Keeps.cut (x := x) ?_ fun _ => ?_; rotate_left; clear_value x; rotate_left; subst x)
    | (extract_lets +onlyGivenNames x; clear_value x)
    | split

theorem State.lockAnswered_keeps (s : State) (b page code : Nat) (kept : Keeps s₀ s) : Keeps s₀ (State.lockAnswered s b page code) := by
  unfold State.lockAnswered
  repeat' first
    | with_reducible assumption
    | exact rfl
    | with_reducible apply State.setLocks_keeps
    | with_reducible apply State.srdEnd_keeps
    | with_reducible apply State.srdBusy_keeps
    | with_reducible apply State.loseLock_keeps
    | split

theorem State.ownLoser_keeps (s : State) (v : LockVerdict) (kept : Keeps s₀ s) : Keeps s₀ (State.ownLoser s v) := by
  unfold State.ownLoser
  repeat' first
    | with_reducible assumption
    | exact rfl
    | with_reducible apply State.loseLock_keeps
    | split

theorem State.atomic_keeps (s : State) (init : Initiator) (fa kind : Nat) (data : List Nat) (kept : Keeps s₀ s) : Keeps s₀ (State.atomic s init fa kind data).1 := by
  unfold State.atomic
  repeat' first
    | with_reducible assumption
    | exact rfl
    | with_reducible refine Keeps.fst (by with_reducible assumption) ?_
    | with_reducible apply State.readOwn_keeps
    | with_reducible apply State.writeOwn_keeps
    | with_reducible apply State.srdRunning_keeps
    | (extract_lets +onlyGivenNames x; clear_value x)
    | split

theorem State.complete_keeps (s : State) (ptag status : Nat) (bs : List Nat) (kept : Keeps s₀ s) : Keeps s₀ (State.complete s ptag status bs) := by
  unfold State.complete
  repeat' first
    | with_reducible assumption
    | with_reducible apply State.emit_keeps
    | with_reducible apply State.raise_keeps
    | (extract_lets +onlyGivenNames x; with_reducible refine Keeps.cut (x := x) ?_ fun _ => ?_; rotate_left; clear_value x; rotate_left; subst x)
    | split

theorem State.hostEnds_keeps (s : State) (req status : Nat) (bs : List Nat) (kept : Keeps s₀ s) : Keeps s₀ (State.hostEnds s req status bs) := by
  unfold State.hostEnds
  repeat' first
    | with_reducible assumption
    | exact rfl
    | with_reducible apply State.setBrg_keeps
    | with_reducible apply State.complete_keeps
    | (extract_lets +onlyGivenNames x; clear_value x)
    | split

theorem State.demand_keeps (s : State) (req : Nat) (kept : Keeps s₀ s) : Keeps s₀ (State.demand s req) := by
  unfold State.demand
  repeat' first
    | with_reducible assumption
    | exact rfl
    | with_reducible refine Keeps.fst (by with_reducible assumption) ?_
    | with_reducible apply State.setBrg_keeps
    | with_reducible apply State.hostEnds_keeps
    | with_reducible apply State.sendRequest_keeps
    | with_reducible refine Keeps.foldl ?_ fun _ _ _ => ?_
    | with_reducible refine Keeps.foldlFst ?_ fun _ _ _ => ?_
    | (extract_lets +onlyGivenNames x; with_reducible refine Keeps.cut (x := x) ?_ fun _ => ?_; rotate_left; clear_value x; rotate_left; subst x)
    | (extract_lets +onlyGivenNames x; clear_value x)
    | split

theorem State.hostPart_keeps (s : State) (req part : Nat) (bs : List Nat) (kept : Keeps s₀ s) : Keeps s₀ (State.hostPart s req part bs) := by
  unfold State.hostPart
  repeat' first
    | with_reducible assumption
    | exact rfl
    | with_reducible apply State.setBrg_keeps
    | with_reducible apply State.hostEnds_keeps
    | (extract_lets +onlyGivenNames x; with_reducible refine Keeps.cut (x := x) ?_ fun _ => ?_; rotate_left; clear_value x; rotate_left; subst x)
    | (extract_lets +onlyGivenNames x; clear_value x)
    | split

theorem State.hostAtomicEnds_keeps (s : State) (req status : Nat) (bs : List Nat) (kept : Keeps s₀ s) : Keeps s₀ (State.hostAtomicEnds s req status bs) := by
  unfold State.hostAtomicEnds
  repeat' first
    | with_reducible assumption
    | exact rfl
    | with_reducible apply State.setBrg_keeps
    | with_reducible apply State.complete_keeps
    | (extract_lets +onlyGivenNames x; clear_value x)
    | split

theorem State.hostBusy_keeps (s : State) (req : Nat) (kept : Keeps s₀ s) : Keeps s₀ (State.hostBusy s req) := by
  unfold State.hostBusy
  repeat' first
    | with_reducible assumption
    | exact rfl
    | with_reducible apply State.bump_keeps
    | with_reducible apply State.hostAtomicEnds_keeps
    | with_reducible apply State.setBrg_keeps
    | (extract_lets +onlyGivenNames x; with_reducible refine Keeps.cut (x := x) ?_ fun _ => ?_; rotate_left; clear_value x; rotate_left; subst x)
    | (extract_lets +onlyGivenNames x; clear_value x)
    | split

theorem State.setSlots_keeps (s : State) (m : SMap PrefetchSlot) (kept : Keeps s₀ s) : Keeps s₀ (State.setSlots s m) := by
  unfold State.setSlots
  repeat' first
    | with_reducible assumption
    | exact rfl
    | with_reducible apply State.setBrg_keeps

theorem State.slotFails_keeps (s : State) (slot : Nat) (kept : Keeps s₀ s) : Keeps s₀ (State.slotFails s slot) := by
  unfold State.slotFails
  repeat' first
    | with_reducible assumption
    | with_reducible apply State.demand_keeps
    | with_reducible apply State.setSlots_keeps
    | with_reducible refine Keeps.foldl ?_ fun _ _ _ => ?_

theorem State.pfNak_keeps (s : State) (kept : Keeps s₀ s) : Keeps s₀ (State.pfNak s) := by
  unfold State.pfNak
  repeat' first
    | with_reducible assumption
    | with_reducible apply State.bump_keeps
    | with_reducible apply State.raise_keeps

theorem State.slotFills_keeps (s : State) (slot : Nat) (bs : List Nat) (kept : Keeps s₀ s) : Keeps s₀ (State.slotFills s slot bs) := by
  unfold State.slotFills
  repeat' first
    | with_reducible assumption
    | exact rfl
    | with_reducible apply State.slotFails_keeps
    | with_reducible apply State.setSlots_keeps
    | with_reducible apply State.hostEnds_keeps
    | with_reducible refine Keeps.foldl ?_ fun _ _ _ => ?_
    | (extract_lets +onlyGivenNames x; clear_value x)
    | split

theorem State.prefetch_keeps (s : State) (window fa len : Nat) (poll : Bool) (kept : Keeps s₀ s) : Keeps s₀ (State.prefetch s window fa len poll) := by
  unfold State.prefetch
  repeat' first
    | with_reducible assumption
    | exact rfl
    | with_reducible refine Keeps.fst (by with_reducible assumption) ?_
    | with_reducible apply State.setBrg_keeps
    | with_reducible apply State.pfNak_keeps
    | with_reducible apply State.readOwn_keeps
    | with_reducible apply State.setSlots_keeps
    | with_reducible apply State.sendRequest_keeps
    | (extract_lets +onlyGivenNames x; with_reducible refine Keeps.cut (x := x) ?_ fun _ => ?_; rotate_left; clear_value x; rotate_left; subst x)
    | (extract_lets +onlyGivenNames x; clear_value x)
    | split

theorem State.afterRead_keeps (s : State) (n fa len : Nat) (kept : Keeps s₀ s) : Keeps s₀ (State.afterRead s n fa len) := by
  unfold State.afterRead
  repeat' first
    | with_reducible assumption
    | with_reducible apply State.prefetch_keeps
    | with_reducible refine Keeps.foldl ?_ fun _ _ _ => ?_
    | with_reducible refine Keeps.foldlFst ?_ fun _ _ _ => ?_
    | (extract_lets +onlyGivenNames x; with_reducible refine Keeps.cut (x := x) ?_ fun _ => ?_; rotate_left; clear_value x; rotate_left; subst x)
    | (extract_lets +onlyGivenNames x; clear_value x)
    | split

theorem State.dropPage_keeps (s : State) (fa : Nat) (kept : Keeps s₀ s) : Keeps s₀ (State.dropPage s fa) := by
  unfold State.dropPage
  repeat' first
    | with_reducible assumption
    | with_reducible apply State.setSlots_keeps

theorem State.requestFails_keeps (s : State) (u : TagUse) (code : Nat) (before : Bool) (kept : Keeps s₀ s) : Keeps s₀ (State.requestFails s u code before) := by
  unfold State.requestFails
  repeat' first
    | with_reducible assumption
    | exact rfl
    | with_reducible apply State.srdBusy_keeps
    | with_reducible apply State.srdEnd_keeps
    | with_reducible apply State.lockAnswered_keeps
    | with_reducible apply State.hostEnds_keeps
    | with_reducible apply State.hostBusy_keeps
    | with_reducible apply State.hostAtomicEnds_keeps
    | with_reducible apply State.prefetch_keeps
    | with_reducible apply State.pfNak_keeps
    | with_reducible apply State.slotFails_keeps
    | with_reducible apply State.ctxDataFails_keeps
    | (extract_lets +onlyGivenNames x; clear_value x)
    | split

theorem State.issue_keeps (s : State) (r : Request) (kept : Keeps s₀ s) : Keeps s₀ (State.issue s r) := by
  unfold State.issue
  repeat' first
    | with_reducible assumption
    | exact rfl
    | with_reducible refine Keeps.fst (by with_reducible assumption) ?_
    | with_reducible apply State.sendRequest_keeps
    | with_reducible apply State.requestFails_keeps
    | split

theorem execTagFreed_keeps (s : State) : KeepsRes s (execTagFreed s) := by
  unfold execTagFreed
  repeat' first
    | with_reducible assumption
    | exact rfl
    | with_reducible refine Keeps.fst (by with_reducible assumption) ?_
    | with_reducible refine KeepsRes.guarded fun x hx => ?_
    | with_reducible apply State.setBrg_keeps
    | with_reducible apply State.sendTagged_keeps
    | with_reducible apply State.requestFails_keeps
    | (extract_lets +onlyGivenNames x; with_reducible refine Keeps.cut (x := x) ?_ fun _ => ?_; rotate_left; clear_value x; rotate_left; subst x)
    | (extract_lets +onlyGivenNames x; clear_value x)
    | split

theorem State.srdData_keeps (s : State) (b : Nat) (bs : List Nat) (kept : Keeps s₀ s) : Keeps s₀ (State.srdData s b bs) := by
  unfold State.srdData
  repeat' first
    | with_reducible assumption
    | with_reducible apply State.wr64_keeps

theorem State.srdOwn_keeps (s : State) (b : Nat) (r : SrdRun) (holderWaits : Bool) (kept : Keeps s₀ s) : Keeps s₀ (State.srdOwn s b r holderWaits) := by
  unfold State.srdOwn
  repeat' first
    | with_reducible assumption
    | exact rfl
    | with_reducible refine Keeps.fst (by with_reducible assumption) ?_
    | with_reducible apply State.readOwn_keeps
    | with_reducible apply State.srdData_keeps
    | with_reducible apply State.srdEnd_keeps
    | with_reducible apply State.lockAcq_keeps
    | with_reducible apply State.ownLoser_keeps
    | with_reducible apply State.lockAnswered_keeps
    | with_reducible apply State.lockRel_keeps
    | with_reducible apply State.setLocks_keeps
    | with_reducible apply State.atomic_keeps
    | with_reducible apply State.srdBusy_keeps
    | with_reducible apply State.writeOwn_keeps
    | with_reducible apply State.srdRunning_keeps
    | with_reducible apply State.postedFails_keeps
    | (extract_lets +onlyGivenNames x; clear_value x)
    | split

theorem State.srdTry_keeps (s : State) (b : Nat) (r : SrdRun) (holderWaits : Bool) (kept : Keeps s₀ s) : Keeps s₀ (State.srdTry s b r holderWaits) := by
  unfold State.srdTry
  repeat' first
    | with_reducible assumption
    | exact rfl
    | with_reducible refine Keeps.fst (by with_reducible assumption) ?_
    | with_reducible apply State.dropPage_keeps
    | with_reducible apply State.srdEnd_keeps
    | with_reducible apply State.postedFails_keeps
    | with_reducible apply State.srdOwn_keeps
    | with_reducible apply State.postWrite_keeps
    | with_reducible apply State.issue_keeps
    | (extract_lets +onlyGivenNames x; with_reducible refine Keeps.cut (x := x) ?_ fun _ => ?_; rotate_left; clear_value x; rotate_left; subst x)
    | (extract_lets +onlyGivenNames x; clear_value x)
    | split

theorem State.srdStart_keeps (holderWaits : Bool) (s : State) (init : Initiator) (kept : Keeps s₀ s) : Keeps s₀ (State.srdStart holderWaits s init) := by
  unfold State.srdStart
  repeat' first
    | with_reducible assumption
    | exact rfl
    | with_reducible apply State.srdRunning_keeps
    | with_reducible apply State.resStart_keeps
    | with_reducible apply State.resDone_keeps
    | with_reducible apply State.setBrg_keeps
    | with_reducible apply State.srdTry_keeps
    | (extract_lets +onlyGivenNames x; with_reducible refine Keeps.cut (x := x) ?_ fun _ => ?_; rotate_left; clear_value x; rotate_left; subst x)
    | (extract_lets +onlyGivenNames x; clear_value x)
    | split

theorem State.srdGo_keeps (s : State) (init : Initiator) (op atom bytes : Nat) (holderWaits : Bool) (kept : Keeps s₀ s) : Keeps s₀ (State.srdGo s init op atom bytes holderWaits) := by
  unfold State.srdGo
  repeat' first
    | with_reducible assumption
    | with_reducible apply State.wr_keeps
    | with_reducible apply State.srdStart_keeps
    | with_reducible apply State.ack_keeps

theorem execSrdRead_keeps (init : Initiator) (bytes : Fin 16) (s : State) : KeepsRes s (execSrdRead init bytes s) := by
  unfold execSrdRead
  repeat' first
    | with_reducible assumption
    | with_reducible refine KeepsRes.guarded fun x hx => ?_
    | with_reducible apply State.srdGo_keeps

theorem execSrdWrite_keeps (init : Initiator) (bytes : Fin 16) (s : State) : KeepsRes s (execSrdWrite init bytes s) := by
  unfold execSrdWrite
  repeat' first
    | with_reducible assumption
    | with_reducible refine KeepsRes.guarded fun x hx => ?_
    | with_reducible apply State.srdGo_keeps

theorem execSrdPostedWrite_keeps (init : Initiator) (bytes : Fin 16) (s : State) : KeepsRes s (execSrdPostedWrite init bytes s) := by
  unfold execSrdPostedWrite
  repeat' first
    | with_reducible assumption
    | with_reducible refine KeepsRes.guarded fun x hx => ?_
    | with_reducible apply State.srdGo_keeps

theorem execSrdLockAcq_keeps (init : Initiator) (holderWaits : Bool) (s : State) : KeepsRes s (execSrdLockAcq init holderWaits s) := by
  unfold execSrdLockAcq
  repeat' first
    | with_reducible assumption
    | with_reducible refine KeepsRes.guarded fun x hx => ?_
    | with_reducible apply State.srdGo_keeps

theorem execSrdLockRel_keeps (init : Initiator) (s : State) : KeepsRes s (execSrdLockRel init s) := by
  unfold execSrdLockRel
  repeat' first
    | with_reducible assumption
    | with_reducible refine KeepsRes.guarded fun x hx => ?_
    | with_reducible apply State.srdGo_keeps

theorem execSrdAtomic_keeps (init : Initiator) (kind : Fin 8) (s : State) : KeepsRes s (execSrdAtomic init kind s) := by
  unfold execSrdAtomic
  repeat' first
    | with_reducible assumption
    | with_reducible refine KeepsRes.guarded fun x hx => ?_
    | with_reducible apply State.srdGo_keeps

theorem State.unsupported_keeps (s : State) (ptag code : Nat) (kept : Keeps s₀ s) : Keeps s₀ (State.unsupported s ptag code) := by
  unfold State.unsupported
  repeat' first
    | with_reducible assumption
    | exact rfl
    | with_reducible apply State.complete_keeps
    | (extract_lets +onlyGivenNames x; with_reducible refine Keeps.cut (x := x) ?_ fun _ => ?_; rotate_left; clear_value x; rotate_left; subst x)
    | with_reducible refine Keeps.upd ?_ ?_ ?_

theorem State.hostReadAt_keeps (s : State) (ptag fa len : Nat) (enabled : Bool) (kept : Keeps s₀ s) : Keeps s₀ (State.hostReadAt s ptag fa len enabled) := by
  unfold State.hostReadAt
  repeat' first
    | with_reducible assumption
    | exact rfl
    | with_reducible refine Keeps.fst (by with_reducible assumption) ?_
    | with_reducible apply State.setSlots_keeps
    | with_reducible apply State.complete_keeps
    | with_reducible apply State.setBrg_keeps
    | with_reducible apply State.readOwn_keeps
    | with_reducible apply State.demand_keeps
    | (extract_lets +onlyGivenNames x; clear_value x)
    | split

theorem execHostMrd_keeps (tag : BitVec 10) (off : BitVec 32) (bytes : ReadBytes) (s : State) : KeepsRes s (execHostMrd tag off bytes s) := by
  unfold execHostMrd
  repeat' first
    | with_reducible assumption
    | exact rfl
    | with_reducible refine KeepsRes.guarded fun x hx => ?_
    | with_reducible apply State.unsupported_keeps
    | with_reducible apply State.hostReadAt_keeps
    | with_reducible apply State.afterRead_keeps
    | (extract_lets +onlyGivenNames x; clear_value x)
    | split

theorem State.hostWriteAt_keeps (s : State) (fa : Nat) (bs : List Nat) (enabled : Bool) (kept : Keeps s₀ s) : Keeps s₀ (State.hostWriteAt s fa bs enabled) := by
  unfold State.hostWriteAt
  repeat' first
    | with_reducible assumption
    | exact rfl
    | with_reducible refine Keeps.fst (by with_reducible assumption) ?_
    | with_reducible apply State.writeOwn_keeps
    | with_reducible apply State.srdStart_keeps
    | with_reducible apply State.postWrite_keeps
    | with_reducible apply State.postedFails_keeps
    | (extract_lets +onlyGivenNames x; clear_value x)
    | split

theorem execHostMwr_keeps (off : BitVec 32) (data : List (Option Byte)) (s : State) : KeepsRes s (execHostMwr off data s) := by
  unfold execHostMwr
  repeat' first
    | with_reducible assumption
    | exact rfl
    | with_reducible refine KeepsRes.guarded fun x hx => ?_
    | with_reducible apply State.postedFails_keeps
    | with_reducible apply State.dropPage_keeps
    | with_reducible apply State.hostWriteAt_keeps
    | with_reducible refine Keeps.foldl ?_ fun _ _ _ => ?_
    | with_reducible refine Keeps.foldlFst ?_ fun _ _ _ => ?_
    | (extract_lets +onlyGivenNames x; with_reducible refine Keeps.cut (x := x) ?_ fun _ => ?_; rotate_left; clear_value x; rotate_left; subst x)
    | split
    | intro _
    | with_reducible refine Keeps.upd ?_ ?_ ?_

theorem State.hostAtomicTry_keeps (s : State) (req : Nat) (h : HostAtomic) (kept : Keeps s₀ s) : Keeps s₀ (State.hostAtomicTry s req h) := by
  unfold State.hostAtomicTry
  repeat' first
    | with_reducible assumption
    | exact rfl
    | with_reducible refine Keeps.fst (by with_reducible assumption) ?_
    | with_reducible apply State.atomic_keeps
    | with_reducible apply State.hostAtomicEnds_keeps
    | with_reducible apply State.hostBusy_keeps
    | with_reducible apply State.issue_keeps
    | split

theorem execHostAtomicop_keeps (tag : BitVec 10) (kind : Fin 6) (off : BitVec 32) (data : BitVec 128) (s : State) : KeepsRes s (execHostAtomicop tag kind off data s) := by
  unfold execHostAtomicop
  repeat' first
    | with_reducible assumption
    | exact rfl
    | with_reducible refine KeepsRes.guarded fun x hx => ?_
    | with_reducible exact Keeps.refl _
    | with_reducible refine KeepsRes.next ?_
    | with_reducible apply State.unsupported_keeps
    | with_reducible apply State.dropPage_keeps
    | with_reducible apply State.setBrg_keeps
    | with_reducible apply State.hostAtomicTry_keeps
    | (extract_lets +onlyGivenNames x; with_reducible refine Keeps.cut (x := x) ?_ fun _ => ?_; rotate_left; clear_value x; rotate_left; subst x)
    | (extract_lets +onlyGivenNames x; clear_value x)
    | split

theorem execUnsupportedTlp_keeps (tag : Option (BitVec 10)) (s : State) : KeepsRes s (execUnsupportedTlp tag s) := by
  unfold execUnsupportedTlp
  repeat' first
    | with_reducible assumption
    | exact rfl
    | with_reducible refine KeepsRes.guarded fun x hx => ?_
    | with_reducible apply State.unsupported_keeps
    | (extract_lets +onlyGivenNames x; clear_value x)
    | split
    | intro _
    | with_reducible refine Keeps.upd ?_ ?_ ?_

theorem execPrefetchSlotExpiry_keeps (slot : Fin 16) (s : State) : KeepsRes s (execPrefetchSlotExpiry slot s) := by
  unfold execPrefetchSlotExpiry
  repeat' first
    | with_reducible assumption
    | exact rfl
    | with_reducible refine KeepsRes.guarded fun x hx => ?_
    | with_reducible apply State.setSlots_keeps
    | (extract_lets +onlyGivenNames x; clear_value x)
    | split

theorem execLockBackoffExpiry_keeps (who : Nat) (holderWaits : Bool) (s : State) : KeepsRes s (execLockBackoffExpiry who holderWaits s) := by
  unfold execLockBackoffExpiry
  repeat' first
    | with_reducible assumption
    | exact rfl
    | with_reducible refine KeepsRes.guarded fun x hx => ?_
    | with_reducible apply State.setBrg_keeps
    | with_reducible apply State.srdTry_keeps
    | with_reducible apply State.hostAtomicTry_keeps
    | (extract_lets +onlyGivenNames x; with_reducible refine Keeps.cut (x := x) ?_ fun _ => ?_; rotate_left; clear_value x; rotate_left; subst x)
    | (extract_lets +onlyGivenNames x; clear_value x)
    | split

theorem execLockTmoExpiry_keeps (page : BitVec 44) (s : State) : KeepsRes s (execLockTmoExpiry page s) := by
  unfold execLockTmoExpiry
  repeat' first
    | with_reducible assumption
    | exact rfl
    | with_reducible refine KeepsRes.guarded fun x hx => ?_
    | with_reducible apply State.setSems_keeps
    | with_reducible apply State.setLocks_keeps
    | with_reducible apply State.raise_keeps
    | with_reducible apply State.boom_keeps
    | (extract_lets +onlyGivenNames x; with_reducible refine Keeps.cut (x := x) ?_ fun _ => ?_; rotate_left; clear_value x; rotate_left; subst x)
    | (extract_lets +onlyGivenNames x; clear_value x)
    | split

end Sys2Proof.Machine
end

