-- ==== Sys2Proof/Laws/KeepsTransfer.lean ====
section
/-! SUPPORT. The operations of Machine/Transfer.lean keep the canonical forms, the queue and what was sent. -/

namespace Sys2Proof.Machine

variable {s₀ : State}

theorem State.moveRead_keeps (s : State) (fa n : Nat) (kept : Keeps s₀ s) : Keeps s₀ (State.moveRead s fa n).1 := by
  unfold State.moveRead
  repeat' first
    | with_reducible assumption
    | exact rfl
    | with_reducible refine Keeps.fst (by with_reducible assumption) ?_
    | with_reducible apply State.readOwn_keeps
    | with_reducible refine Keeps.foldl ?_ fun _ _ _ => ?_
    | with_reducible refine Keeps.foldlFst ?_ fun _ _ _ => ?_
    | (extract_lets +onlyGivenNames x; clear_value x)
    | split

theorem State.moveWrite_keeps (s : State) (fa : Nat) (bs : List Nat) (kept : Keeps s₀ s) : Keeps s₀ (State.moveWrite s fa bs).1 := by
  unfold State.moveWrite
  repeat' first
    | with_reducible assumption
    | with_reducible refine Keeps.fst (by with_reducible assumption) ?_
    | with_reducible apply State.writeOwn_keeps
    | with_reducible apply State.srdStart_keeps
    | with_reducible refine Keeps.foldl ?_ fun _ _ _ => ?_
    | with_reducible refine Keeps.foldlFst ?_ fun _ _ _ => ?_
    | split

theorem State.advance_keeps (s : State) (c n : Nat) (acked : Bool) (kept : Keeps s₀ s) : Keeps s₀ (State.advance s c n acked) := by
  unfold State.advance
  repeat' first
    | with_reducible assumption
    | with_reducible apply State.setCtx_keeps
    | (extract_lets +onlyGivenNames x; with_reducible refine Keeps.cut (x := x) ?_ fun _ => ?_; rotate_left; clear_value x; rotate_left; subst x)
    | split

theorem State.gather_keeps (s : State) (c : Nat) (bs : List Nat) (kept : Keeps s₀ s) : Keeps s₀ (State.gather s c bs) := by
  unfold State.gather
  repeat' first
    | with_reducible assumption
    | exact rfl
    | with_reducible refine Keeps.fst (by with_reducible assumption) ?_
    | with_reducible apply State.advance_keeps
    | with_reducible apply State.setDmx_keeps
    | with_reducible apply State.ctxError_keeps
    | with_reducible apply State.placeInQueue_keeps
    | with_reducible apply State.setCtx_keeps
    | with_reducible apply State.descDone_keeps
    | (extract_lets +onlyGivenNames x; with_reducible refine Keeps.cut (x := x) ?_ fun _ => ?_; rotate_left; clear_value x; rotate_left; subst x)
    | (extract_lets +onlyGivenNames x; clear_value x)
    | split

theorem State.moveOut_keeps (s : State) (c : Nat) (bs : List Nat) (kept : Keeps s₀ s) : Keeps s₀ (State.moveOut s c bs) := by
  unfold State.moveOut
  repeat' first
    | with_reducible assumption
    | exact rfl
    | with_reducible refine Keeps.fst (by with_reducible assumption) ?_
    | with_reducible apply State.gather_keeps
    | with_reducible apply State.ctxError_keeps
    | with_reducible apply State.moveWrite_keeps
    | with_reducible apply State.advance_keeps
    | with_reducible apply State.postWrite_keeps
    | with_reducible apply State.sendRequest_keeps
    | (extract_lets +onlyGivenNames x; clear_value x)
    | split

theorem State.moveLine_keeps (s : State) (e : Nat) (kept : Keeps s₀ s) : Keeps s₀ (State.moveLine s e) := by
  unfold State.moveLine
  repeat' first
    | with_reducible assumption
    | exact rfl
    | with_reducible refine Keeps.fst (by with_reducible assumption) ?_
    | with_reducible apply State.ctxFaulted_keeps
    | with_reducible apply State.ctxError_keeps
    | with_reducible apply State.moveRead_keeps
    | with_reducible apply State.moveOut_keeps
    | with_reducible apply State.sendRequest_keeps
    | with_reducible apply State.setEngine_keeps
    | (extract_lets +onlyGivenNames x; clear_value x)
    | split

theorem State.dmaTick_keeps (s : State) (kept : Keeps s₀ s) : Keeps s₀ (State.dmaTick s) := by
  unfold State.dmaTick
  repeat' first
    | with_reducible assumption
    | with_reducible apply State.moveLine_keeps
    | with_reducible refine Keeps.foldl ?_ fun _ _ _ => ?_
    | split

theorem State.dmaData_keeps (s : State) (c : Nat) (bs : List Nat) (kept : Keeps s₀ s) : Keeps s₀ (State.dmaData s c bs) := by
  unfold State.dmaData
  repeat' first
    | with_reducible assumption
    | exact rfl
    | with_reducible apply State.setEngine_keeps
    | with_reducible apply State.moveOut_keeps
    | (extract_lets +onlyGivenNames x; with_reducible refine Keeps.cut (x := x) ?_ fun _ => ?_; rotate_left; clear_value x; rotate_left; subst x)
    | split

theorem State.sendRsp_keeps (s : State) (f : Frame) (data : List Nat) (kept : Keeps s₀ s) : Keeps s₀ (State.sendRsp s f data) := by
  unfold State.sendRsp
  repeat' first
    | with_reducible assumption
    | with_reducible apply State.send_keeps

theorem State.malformed_keeps (s : State) (port : Nat) (f : Frame) (kept : Keeps s₀ s) : Keeps s₀ (State.malformed s port f) := by
  unfold State.malformed
  repeat' first
    | with_reducible assumption
    | with_reducible apply State.violation_keeps
    | with_reducible apply State.sendNak_keeps

theorem State.answerCmd_keeps (s : State) (f : Frame) (r : Except Nat (List Nat)) (kept : Keeps s₀ s) : Keeps s₀ (State.answerCmd s f r) := by
  unfold State.answerCmd
  repeat' first
    | with_reducible assumption
    | exact rfl
    | with_reducible apply State.sendRsp_keeps
    | with_reducible apply State.sendNak_keeps
    | split

theorem State.serveRead_keeps (s : State) (f : Frame) (kept : Keeps s₀ s) : Keeps s₀ (State.serveRead s f) := by
  have h := State.readOwn_keeps s .tc4 (s.cmdPlace f) (cmdBytes f) true kept
  unfold State.serveRead
  split
  · exact State.sendNak_keeps _ _ _ kept
  · exact State.answerCmd_keeps _ _ _ h

theorem State.serveWrite_keeps (s : State) (f : Frame) (kept : Keeps s₀ s) : Keeps s₀ (State.serveWrite s f) := by
  have h := State.writeOwn_keeps s (State.srdStart false) .tc4 f.src (s.cmdPlace f) (cmdData f) true
    (fun x i hx => State.srdStart_keeps _ _ _ hx) kept
  unfold State.serveWrite
  exact State.answerCmd_keeps _ _ _ h

theorem State.servePosted_keeps (s : State) (f : Frame) (kept : Keeps s₀ s) : Keeps s₀ (State.servePosted s f) := by
  have h := State.writeOwn_keeps s (State.srdStart false) .tc4 f.src (s.cmdPlace f) (cmdData f) true
    (fun x i hx => State.srdStart_keeps _ _ _ hx) kept
  unfold State.servePosted
  dsimp only
  split
  · exact h
  · exact State.sendNak_keeps _ _ _ h

theorem State.serveLockAcq_keeps (s : State) (f : Frame) (holderWaits : Bool) (kept : Keeps s₀ s) : Keeps s₀ (State.serveLockAcq s f holderWaits) := by
  have h := State.lockAcq_keeps s (lockWho f) (leAt (cmdData f) 0 7 / 4096) (s.cmdPlace f / 4096) holderWaits kept
  unfold State.serveLockAcq
  exact State.answerCmd_keeps _ _ _ (State.ownLoser_keeps _ _ h)

theorem State.serveLockRel_keeps (s : State) (f : Frame) (kept : Keeps s₀ s) : Keeps s₀ (State.serveLockRel s f) := by
  have h := State.lockRel_keeps s (lockWho f) (s.cmdPlace f / 4096) kept
  unfold State.serveLockRel
  dsimp only
  split
  · exact State.answerCmd_keeps _ _ _ h
  · exact State.sendNak_keeps _ _ _ h

theorem State.serveAtomic_keeps (s : State) (f : Frame) (kept : Keeps s₀ s) : Keeps s₀ (State.serveAtomic s f) := by
  have h := State.atomic_keeps s .tc4 (s.cmdPlace f) (cmdB1 f / 2) (cmdData f) kept
  unfold State.serveAtomic
  exact State.answerCmd_keeps _ _ _ h

theorem State.serveCmd_keeps (s : State) (f : Frame) (holderWaits : Bool) (kept : Keeps s₀ s) : Keeps s₀ (State.serveCmd s f holderWaits) := by
  unfold State.serveCmd
  repeat' first
    | with_reducible assumption
    | exact rfl
    | with_reducible apply State.serveRead_keeps
    | with_reducible apply State.serveWrite_keeps
    | with_reducible apply State.servePosted_keeps
    | with_reducible apply State.serveLockAcq_keeps
    | with_reducible apply State.serveLockRel_keeps
    | with_reducible apply State.serveAtomic_keeps
    | split

theorem State.cmdIn_keeps (s : State) (op : Nat) (f : Frame) (holderWaits : Bool) (kept : Keeps s₀ s) : Keeps s₀ (State.cmdIn s op f holderWaits) := by
  unfold State.cmdIn
  repeat' first
    | with_reducible assumption
    | with_reducible apply State.malformed_keeps
    | with_reducible apply State.sendNak_keeps
    | with_reducible apply State.serveCmd_keeps
    | split

theorem execRead_keeps (frame : Frame) (s : State) : KeepsRes s (execRead frame s) := by
  unfold execRead
  repeat' first
    | with_reducible assumption
    | with_reducible refine KeepsRes.guarded fun x hx => ?_
    | with_reducible apply State.cmdIn_keeps

theorem execWrite_keeps (frame : Frame) (s : State) : KeepsRes s (execWrite frame s) := by
  unfold execWrite
  repeat' first
    | with_reducible assumption
    | with_reducible refine KeepsRes.guarded fun x hx => ?_
    | with_reducible apply State.cmdIn_keeps

theorem execPostedWrite_keeps (frame : Frame) (s : State) : KeepsRes s (execPostedWrite frame s) := by
  unfold execPostedWrite
  repeat' first
    | with_reducible assumption
    | with_reducible refine KeepsRes.guarded fun x hx => ?_
    | with_reducible apply State.cmdIn_keeps

theorem execLockAcq_keeps (frame : Frame) (holderWaits : Bool) (s : State) : KeepsRes s (execLockAcq frame holderWaits s) := by
  unfold execLockAcq
  repeat' first
    | with_reducible assumption
    | with_reducible refine KeepsRes.guarded fun x hx => ?_
    | with_reducible apply State.cmdIn_keeps

theorem execLockRel_keeps (frame : Frame) (s : State) : KeepsRes s (execLockRel frame s) := by
  unfold execLockRel
  repeat' first
    | with_reducible assumption
    | with_reducible refine KeepsRes.guarded fun x hx => ?_
    | with_reducible apply State.cmdIn_keeps

theorem execAtomic_keeps (frame : Frame) (s : State) : KeepsRes s (execAtomic frame s) := by
  unfold execAtomic
  repeat' first
    | with_reducible assumption
    | with_reducible refine KeepsRes.guarded fun x hx => ?_
    | with_reducible apply State.cmdIn_keeps

theorem State.dropTag_keeps (s : State) (t : Nat) (kept : Keeps s₀ s) : Keeps s₀ (State.dropTag s t) := by
  unfold State.dropTag
  repeat' first
    | with_reducible assumption
    | exact rfl
    | with_reducible apply State.setBrg_keeps

theorem State.tagAnswered_keeps (s : State) (u : TagUse) (bs : List Nat) (kept : Keeps s₀ s) : Keeps s₀ (State.tagAnswered s u bs) := by
  unfold State.tagAnswered
  repeat' first
    | with_reducible assumption
    | exact rfl
    | with_reducible apply State.srdData_keeps
    | with_reducible apply State.setLocks_keeps
    | with_reducible apply State.srdEnd_keeps
    | with_reducible apply State.lockAnswered_keeps
    | with_reducible apply State.releasePage_keeps
    | with_reducible apply State.hostPart_keeps
    | with_reducible apply State.hostAtomicEnds_keeps
    | with_reducible apply State.prefetch_keeps
    | with_reducible apply State.slotFills_keeps
    | with_reducible apply State.dmaData_keeps
    | with_reducible apply State.dmaAcked_keeps
    | (extract_lets +onlyGivenNames x; clear_value x)
    | split

theorem execRsp_keeps (frame : Frame) (s : State) : KeepsRes s (execRsp frame s) := by
  unfold execRsp
  repeat' first
    | with_reducible assumption
    | exact rfl
    | with_reducible refine KeepsRes.guarded fun x hx => ?_
    | with_reducible apply State.malformed_keeps
    | with_reducible apply State.bump_keeps
    | with_reducible apply State.dropTag_keeps
    | with_reducible apply State.tagAnswered_keeps
    | with_reducible apply State.requestFails_keeps
    | (extract_lets +onlyGivenNames x; clear_value x)
    | split

theorem execNak_keeps (frame : Frame) (s : State) : KeepsRes s (execNak frame s) := by
  unfold execNak
  repeat' first
    | with_reducible assumption
    | exact rfl
    | with_reducible refine KeepsRes.guarded fun x hx => ?_
    | with_reducible apply State.violation_keeps
    | with_reducible apply State.wr_keeps
    | with_reducible apply State.raise_keeps
    | with_reducible apply State.enterQuarantine_keeps
    | with_reducible apply State.setBrg_keeps
    | with_reducible apply State.postedFails_keeps
    | with_reducible apply State.dropTag_keeps
    | with_reducible apply State.requestFails_keeps
    | (extract_lets +onlyGivenNames x; with_reducible refine Keeps.cut (x := x) ?_ fun _ => ?_; rotate_left; clear_value x; rotate_left; subst x)
    | (extract_lets +onlyGivenNames x; clear_value x)
    | split

theorem execPrefetchNak_keeps (tag : Fin 256) (s : State) : KeepsRes s (execPrefetchNak tag s) := by
  unfold execPrefetchNak
  repeat' first
    | with_reducible assumption
    | exact rfl
    | with_reducible refine KeepsRes.guarded fun x hx => ?_
    | with_reducible apply State.prefetch_keeps
    | with_reducible apply State.dropTag_keeps
    | with_reducible apply State.requestFails_keeps
    | (extract_lets +onlyGivenNames x; clear_value x)
    | split

theorem State.dmaReadLost_keeps (s : State) (c : Nat) (kept : Keeps s₀ s) : Keeps s₀ (State.dmaReadLost s c) := by
  unfold State.dmaReadLost
  repeat' first
    | with_reducible assumption
    | exact rfl
    | with_reducible apply State.ctxDataFails_keeps
    | split

theorem execSplitReadTimeout_keeps (tag : Fin 256) (s : State) : KeepsRes s (execSplitReadTimeout tag s) := by
  unfold execSplitReadTimeout
  repeat' first
    | with_reducible assumption
    | exact rfl
    | with_reducible refine KeepsRes.guarded fun x hx => ?_
    | with_reducible apply State.dropTag_keeps
    | with_reducible apply State.setBrg_keeps
    | with_reducible apply State.bump_keeps
    | with_reducible apply State.raise_keeps
    | with_reducible apply State.dmaReadLost_keeps
    | with_reducible apply State.requestFails_keeps
    | (extract_lets +onlyGivenNames x; have _ : State → _ := x; subst x)
    | split

theorem execTagQuarantineExpiry_keeps (tag : Fin 256) (s : State) : KeepsRes s (execTagQuarantineExpiry tag s) := by
  unfold execTagQuarantineExpiry
  repeat' first
    | with_reducible assumption
    | exact rfl
    | with_reducible refine KeepsRes.guarded fun x hx => ?_
    | with_reducible apply State.setBrg_keeps

theorem State.canIn_keeps (s : State) (f : Frame) (kept : Keeps s₀ s) : Keeps s₀ (State.canIn s f) := by
  unfold State.canIn
  repeat' first
    | with_reducible assumption
    | exact rfl
    | with_reducible apply State.malformed_keeps
    | with_reducible apply State.toRemote_keeps
    | with_reducible apply State.violation_keeps
    | with_reducible apply State.sendNak_keeps
    | (extract_lets +onlyGivenNames x; clear_value x)
    | split

theorem State.flumeIn_keeps (s : State) (f : Frame) (kept : Keeps s₀ s) : Keeps s₀ (State.flumeIn s f) := by
  unfold State.flumeIn
  repeat' first
    | with_reducible assumption
    | with_reducible apply State.malformed_keeps
    | with_reducible apply State.txUnit_keeps
    | with_reducible apply State.violation_keeps
    | with_reducible apply State.sendNak_keeps
    | with_reducible refine Keeps.foldl ?_ fun _ _ _ => ?_
    | (extract_lets +onlyGivenNames x; clear_value x)
    | split

theorem execTunnel_keeps (frame : Frame) (s : State) : KeepsRes s (execTunnel frame s) := by
  unfold execTunnel
  repeat' first
    | with_reducible assumption
    | exact rfl
    | with_reducible refine KeepsRes.guarded fun x hx => ?_
    | with_reducible apply State.malformed_keeps
    | with_reducible apply State.canIn_keeps
    | with_reducible apply State.flumeIn_keeps
    | (extract_lets +onlyGivenNames x; clear_value x)
    | split

theorem execGuard_keeps (frame : Frame) (s : State) : KeepsRes s (execGuard frame s) := by
  unfold execGuard
  repeat' first
    | with_reducible assumption
    | with_reducible refine KeepsRes.guarded fun x hx => ?_
    | with_reducible apply State.malformed_keeps
    | with_reducible apply State.canIn_keeps
    | split

theorem execEvent_keeps (frame : Frame) (s : State) : KeepsRes s (execEvent frame s) := by
  unfold execEvent
  repeat' first
    | with_reducible assumption
    | with_reducible refine KeepsRes.guarded fun x hx => ?_
    | with_reducible apply State.malformed_keeps
    | with_reducible apply State.give_keeps
    | (extract_lets +onlyGivenNames x; clear_value x)
    | split

end Sys2Proof.Machine
end

