-- ==== Sys2Proof/Laws/KeepsRegRows.lean ====
section
/-! SUPPORT. The operations of Machine/RegRows.lean keep the canonical forms, the queue and what was sent. -/

namespace Sys2Proof.Machine

variable {s₀ : State}

theorem State.csrWrite_keeps (s : State) (init : Initiator) (off : Nat) (bs : List Nat) (kept : Keeps s₀ s) : Keeps s₀ (State.csrWrite s init off bs) := by
  unfold State.csrWrite
  repeat' first
    | with_reducible assumption
    | with_reducible apply State.localWrite_keeps
    | with_reducible apply State.srdStart_keeps

theorem State.wordWrite_keeps (s : State) (init : Initiator) (off word : Nat) (kept : Keeps s₀ s) : Keeps s₀ (State.wordWrite s init off word) := by
  unfold State.wordWrite
  repeat' first
    | with_reducible assumption
    | with_reducible apply State.csrWrite_keeps

theorem execRegisterWrite_keeps (init : Initiator) (off : BitVec 40) (data : List Byte) (s : State) : KeepsRes s (execRegisterWrite init off data s) := by
  unfold execRegisterWrite
  repeat' first
    | with_reducible assumption
    | with_reducible refine KeepsRes.guarded fun x hx => ?_
    | with_reducible apply State.csrWrite_keeps

theorem State.voidRead_keeps (s : State) (r : RRow) (place : Nat) (kept : Keeps s₀ s) : Keeps s₀ (State.voidRead s r place) := by
  unfold State.voidRead
  repeat' first
    | with_reducible assumption
    | with_reducible refine Keeps.fst (by with_reducible assumption) ?_
    | with_reducible apply State.draw_keeps
    | with_reducible apply State.give_keeps

theorem execClearOnRead_keeps (init : Initiator) (off : BitVec 40) (len : Nat) (s : State) : KeepsRes s (execClearOnRead init off len s) := by
  unfold execClearOnRead
  split
  · exact KeepsRes.next (State.settle_keeps _ (State.voidRead_keeps _ _ _ (Keeps.refl s)))
  · exact KeepsRes.guarded fun x hx => State.localRead_keeps _ _ _ _ _ _ hx

theorem execResultRegisterRead_keeps (init : Initiator) (off : BitVec 40) (s : State) : KeepsRes s (execResultRegisterRead init off s) := by
  unfold execResultRegisterRead
  repeat' first
    | with_reducible assumption
    | exact rfl
    | with_reducible refine KeepsRes.guarded fun x hx => ?_
    | with_reducible apply State.localRead_keeps
    | (extract_lets +onlyGivenNames x; clear_value x)
    | split

theorem execWrite64Lo_keeps (init : Initiator) (off : BitVec 40) (word : Word) (s : State) : KeepsRes s (execWrite64Lo init off word s) := by
  unfold execWrite64Lo
  repeat' first
    | with_reducible assumption
    | exact rfl
    | with_reducible refine KeepsRes.guarded fun x hx => ?_
    | with_reducible apply State.wordWrite_keeps
    | (extract_lets +onlyGivenNames x; clear_value x)
    | split

theorem execWrite64Hi_keeps (init : Initiator) (off : BitVec 40) (word : Word) (s : State) : KeepsRes s (execWrite64Hi init off word s) := by
  unfold execWrite64Hi
  repeat' first
    | with_reducible assumption
    | exact rfl
    | with_reducible refine KeepsRes.guarded fun x hx => ?_
    | with_reducible apply State.wordWrite_keeps
    | (extract_lets +onlyGivenNames x; clear_value x)
    | split

theorem execPair1Release_keeps (init : Initiator) (s : State) : KeepsRes s (execPair1Release init s) := by
  unfold execPair1Release
  repeat' first
    | with_reducible assumption
    | with_reducible refine KeepsRes.guarded fun x hx => ?_
    | with_reducible apply State.wordWrite_keeps

theorem execIolConfigWrite_keeps (init : Initiator) (slice : Fin 48) (k : Fin 3) (word : Word) (s : State) : KeepsRes s (execIolConfigWrite init slice k word s) := by
  unfold execIolConfigWrite
  repeat' first
    | with_reducible assumption
    | with_reducible refine KeepsRes.guarded fun x hx => ?_
    | with_reducible apply State.wordWrite_keeps
    | split

theorem execBar0Access_keeps (dw : BitVec 24) (dws : BitVec 10) (be : BitVec 4) (tag : BitVec 10) (word : Option Word) (s : State) : KeepsRes s (execBar0Access dw dws be tag word s) := by
  unfold execBar0Access
  repeat' first
    | with_reducible assumption
    | exact rfl
    | with_reducible refine KeepsRes.guarded fun x hx => ?_
    | with_reducible apply State.wordWrite_keeps
    | with_reducible apply State.refuseReg_keeps
    | with_reducible apply State.localRead_keeps
    | with_reducible apply State.complete_keeps
    | (extract_lets +onlyGivenNames x; with_reducible refine Keeps.cut (x := x) ?_ fun _ => ?_; rotate_left; clear_value x; rotate_left; subst x)
    | (extract_lets +onlyGivenNames x; clear_value x)
    | split

end Sys2Proof.Machine
end

