-- ==== Sys2Proof/Laws/KeepsHarvest.lean ====
section
/-! SUPPORT. The operations of Machine/Harvest.lean keep the canonical forms, the queue and what was sent. -/

namespace Sys2Proof.Machine

variable {s₀ : State}

theorem State.setHarvest_keeps (s : State) (h : HarvestState) (kept : Keeps s₀ s) : Keeps s₀ (State.setHarvest s h) := by
  unfold State.setHarvest
  repeat' first
    | with_reducible assumption
    | exact rfl
    | (extract_lets +onlyGivenNames x; clear_value x)
    | with_reducible refine Keeps.upd ?_ ?_ ?_

theorem State.pointOut_keeps (s : State) (img : List Nat) (p : Point) (kept : Keeps s₀ s) : Keeps s₀ (State.pointOut s img p) := by
  unfold State.pointOut
  repeat' first
    | with_reducible assumption
    | exact rfl
    | with_reducible apply State.lineCommand_keeps
    | with_reducible apply State.setNormal_keeps
    | with_reducible apply State.regWrite_keeps
    | with_reducible apply State.srdStart_keeps
    | with_reducible apply State.setSlice_keeps
    | with_reducible apply State.wr_keeps
    | with_reducible apply State.mark_keeps
    | (extract_lets +onlyGivenNames x; with_reducible refine Keeps.cut (x := x) ?_ fun _ => ?_; rotate_left; clear_value x; rotate_left; subst x)
    | (extract_lets +onlyGivenNames x; clear_value x)
    | split
    | with_reducible refine Keeps.upd ?_ ?_ ?_

theorem State.applyImage_keeps (s : State) (img : List Nat) (kept : Keeps s₀ s) : Keeps s₀ (State.applyImage s img) := by
  unfold State.applyImage
  repeat' first
    | with_reducible assumption
    | exact rfl
    | with_reducible apply State.store_keeps
    | with_reducible apply State.pointOut_keeps
    | with_reducible apply State.canHarvest_keeps
    | with_reducible refine Keeps.foldl ?_ fun _ _ _ => ?_
    | with_reducible refine Keeps.foldlFst ?_ fun _ _ _ => ?_
    | (extract_lets +onlyGivenNames x; with_reducible refine Keeps.cut (x := x) ?_ fun _ => ?_; rotate_left; clear_value x; rotate_left; subst x)
    | (extract_lets +onlyGivenNames x; clear_value x)
    | split
    | intro _
    | with_reducible refine Keeps.upd ?_ ?_ ?_

theorem State.sendStitchInput_keeps (s : State) (img : List Nat) (kept : Keeps s₀ s) : Keeps s₀ (State.sendStitchInput s img) := by
  unfold State.sendStitchInput
  repeat' first
    | with_reducible assumption
    | with_reducible refine Keeps.fst (by with_reducible assumption) ?_
    | with_reducible apply State.stampFrame_keeps
    | with_reducible apply State.toOutputs_keeps
    | (extract_lets +onlyGivenNames x; clear_value x)
    | split

theorem State.cycleStart_keeps (s : State) (k : Nat) (kept : Keeps s₀ s) : Keeps s₀ (State.cycleStart s k) := by
  unfold State.cycleStart
  repeat' first
    | with_reducible assumption
    | exact rfl
    | with_reducible apply State.setHarvest_keeps
    | with_reducible apply State.wr_keeps
    | with_reducible apply State.store_keeps
    | with_reducible apply State.draw_keeps
    | with_reducible apply State.sendStitchInput_keeps
    | with_reducible apply State.tallyCycle_keeps
    | with_reducible apply State.headEpochs_keeps
    | (extract_lets +onlyGivenNames x; clear_value x)
    | split

theorem execHarvestCycleStart_keeps (s : State) : KeepsRes s (execHarvestCycleStart s) := by
  unfold execHarvestCycleStart
  repeat' first
    | with_reducible assumption
    | with_reducible refine KeepsRes.guarded fun x hx => ?_
    | with_reducible apply State.cycleStart_keeps
    | split

theorem State.launchFrame_keeps (s : State) (f : Frame) (ringB : Bool) (payload : List Nat) (kept : Keeps s₀ s) : Keeps s₀ (State.launchFrame s f ringB payload) := by
  unfold State.launchFrame
  repeat' first
    | with_reducible assumption
    | exact rfl
    | with_reducible apply State.toOutputs_keeps

theorem execHarvestLaunch_keeps (images : List (Nat × List Byte)) (s : State) : KeepsRes s (execHarvestLaunch images s) := by
  unfold execHarvestLaunch
  repeat' first
    | with_reducible assumption
    | exact rfl
    | with_reducible refine Keeps.fst (by with_reducible assumption) ?_
    | with_reducible refine KeepsRes.guarded fun x hx => ?_
    | with_reducible apply State.setHead_keeps
    | with_reducible apply State.trainSeen_keeps
    | with_reducible apply State.setHarvest_keeps
    | with_reducible apply State.sendStitchOutput_keeps
    | with_reducible apply State.stampFrame_keeps
    | with_reducible apply State.launchFrame_keeps
    | with_reducible refine Keeps.foldl ?_ fun _ _ _ => ?_
    | with_reducible refine Keeps.foldlFst ?_ fun _ _ _ => ?_
    | (extract_lets +onlyGivenNames x; with_reducible refine Keeps.cut (x := x) ?_ fun _ => ?_; rotate_left; clear_value x; rotate_left; subst x)
    | (extract_lets +onlyGivenNames x; clear_value x)
    | split

theorem State.outputBoundary_keeps (s : State) (kept : Keeps s₀ s) : Keeps s₀ (State.outputBoundary s) := by
  unfold State.outputBoundary
  repeat' first
    | with_reducible assumption
    | exact rfl
    | with_reducible apply State.setHarvest_keeps
    | with_reducible apply State.setStt_keeps
    | with_reducible apply State.applyImage_keeps
    | with_reducible apply State.bump_keeps
    | with_reducible apply State.raise_keeps
    | (extract_lets +onlyGivenNames x; with_reducible refine Keeps.cut (x := x) ?_ fun _ => ?_; rotate_left; clear_value x; rotate_left; subst x)
    | (extract_lets +onlyGivenNames x; clear_value x)
    | split

theorem State.harvestBoundary_keeps (s : State) (kept : Keeps s₀ s) : Keeps s₀ (State.harvestBoundary s) := by
  unfold State.harvestBoundary
  repeat' first
    | with_reducible assumption
    | exact rfl
    | with_reducible apply State.leaveQuarantine_keeps
    | with_reducible apply State.outputBoundary_keeps
    | with_reducible apply State.mark_keeps
    | with_reducible apply State.twinBoundary_keeps
    | with_reducible apply State.almBoundary_keeps
    | (extract_lets +onlyGivenNames x; clear_value x)
    | split
    | with_reducible refine Keeps.upd ?_ ?_ ?_

theorem execHarvestBoundary_keeps (s : State) : KeepsRes s (execHarvestBoundary s) := by
  unfold execHarvestBoundary
  repeat' first
    | with_reducible assumption
    | with_reducible refine KeepsRes.guarded fun x hx => ?_
    | with_reducible apply State.harvestBoundary_keeps
    | (extract_lets +onlyGivenNames x; clear_value x)
    | split

theorem State.toHost_keeps (s : State) (addr : Nat) (bs : List Nat) (kept : Keeps s₀ s) : Keeps s₀ (State.toHost s addr bs) := by
  unfold State.toHost
  repeat' first
    | with_reducible assumption
    | with_reducible apply State.emit_keeps
    | split

theorem State.writeInputs_keeps (s : State) (buf : Nat) (l : List (Nat × Nat × List Nat)) (kept : Keeps s₀ s) : Keeps s₀ (State.writeInputs s buf l) := by
  unfold State.writeInputs
  repeat' first
    | with_reducible assumption
    | with_reducible apply State.toHost_keeps
    | with_reducible refine Keeps.foldl ?_ fun _ _ _ => ?_
    | with_reducible refine Keeps.foldlFst ?_ fun _ _ _ => ?_
    | (extract_lets +onlyGivenNames x; clear_value x)
    | split

theorem State.writeAttention_keeps (s : State) (buf : Nat) (l : List (Nat × Nat × List Nat)) (kept : Keeps s₀ s) : Keeps s₀ (State.writeAttention s buf l) := by
  unfold State.writeAttention
  repeat' first
    | with_reducible assumption
    | exact rfl
    | with_reducible apply State.toHost_keeps
    | with_reducible apply State.setBrg_keeps

theorem State.groupVectors_keeps (s : State) (old : List Nat) (kept : Keeps s₀ s) : Keeps s₀ (State.groupVectors s old) := by
  unfold State.groupVectors
  repeat' first
    | with_reducible assumption
    | with_reducible apply State.emit_keeps
    | with_reducible refine Keeps.foldl ?_ fun _ _ _ => ?_
    | (extract_lets +onlyGivenNames x; clear_value x)
    | split

theorem State.writeRecord_keeps (s : State) (buf : Nat) (l : List (Nat × Nat × List Nat)) (kept : Keeps s₀ s) : Keeps s₀ (State.writeRecord s buf l) := by
  unfold State.writeRecord
  repeat' first
    | with_reducible assumption
    | with_reducible apply State.toHost_keeps
    | with_reducible apply State.wr_keeps
    | with_reducible apply State.raise_keeps
    | with_reducible apply State.emit_keeps
    | (extract_lets +onlyGivenNames x; with_reducible refine Keeps.cut (x := x) ?_ fun _ => ?_; rotate_left; clear_value x; rotate_left; subst x)
    | (extract_lets +onlyGivenNames x; clear_value x)
    | split

theorem State.countMissed_keeps (s : State) (l : List (Nat × Nat × List Nat)) (kept : Keeps s₀ s) : Keeps s₀ (State.countMissed s l) := by
  unfold State.countMissed
  repeat' first
    | with_reducible assumption
    | exact rfl
    | with_reducible apply State.setHead_keeps
    | with_reducible apply State.stationLost_keeps
    | with_reducible refine Keeps.foldl ?_ fun _ _ _ => ?_

theorem State.missWatch_keeps (s : State) (l : List (Nat × Nat × List Nat)) (kept : Keeps s₀ s) : Keeps s₀ (State.missWatch s l) := by
  unfold State.missWatch
  repeat' first
    | with_reducible assumption
    | exact rfl
    | with_reducible apply State.setStt_keeps
    | with_reducible apply State.refCmd_keeps
    | with_reducible refine Keeps.foldl ?_ fun _ _ _ => ?_
    | with_reducible refine Keeps.foldlFst ?_ fun _ _ _ => ?_
    | (extract_lets +onlyGivenNames x; with_reducible refine Keeps.cut (x := x) ?_ fun _ => ?_; rotate_left; clear_value x; rotate_left; subst x)
    | (extract_lets +onlyGivenNames x; clear_value x)
    | split

theorem State.cycleComplete_keeps (s : State) (kept : Keeps s₀ s) : Keeps s₀ (State.cycleComplete s) := by
  unfold State.cycleComplete
  repeat' first
    | with_reducible assumption
    | exact rfl
    | with_reducible apply State.writeInputs_keeps
    | with_reducible apply State.writeAttention_keeps
    | with_reducible apply State.writeRecord_keeps
    | with_reducible apply State.groupVectors_keeps
    | with_reducible apply State.setHead_keeps
    | with_reducible apply State.missWatch_keeps
    | with_reducible apply State.countMissed_keeps

theorem execHarvestCycleComplete_keeps (s : State) : KeepsRes s (execHarvestCycleComplete s) := by
  unfold execHarvestCycleComplete
  repeat' first
    | with_reducible assumption
    | with_reducible refine KeepsRes.guarded fun x hx => ?_
    | with_reducible apply State.cycleComplete_keeps
    | (extract_lets +onlyGivenNames x; clear_value x)
    | split

theorem execTakeoverComplete_keeps (s : State) : KeepsRes s (execTakeoverComplete s) := by
  unfold execTakeoverComplete
  repeat' first
    | with_reducible assumption
    | exact rfl
    | with_reducible refine KeepsRes.guarded fun x hx => ?_
    | with_reducible apply State.wr96_keeps
    | with_reducible apply State.wr_keeps
    | with_reducible apply State.setStt_keeps
    | with_reducible apply State.toRole_keeps
    | with_reducible apply State.raise_keeps
    | with_reducible apply State.applyImage_keeps
    | with_reducible apply State.pointOut_keeps
    | with_reducible refine Keeps.foldl ?_ fun _ _ _ => ?_
    | (extract_lets +onlyGivenNames x; with_reducible refine Keeps.cut (x := x) ?_ fun _ => ?_; rotate_left; clear_value x; rotate_left; subst x)
    | (extract_lets +onlyGivenNames x; clear_value x)
    | split

end Sys2Proof.Machine
end

