-- ==== Sys2Proof/Laws/KeepsStep.lean ====
section
/-! SUPPORT. Every command, and a cycle of CCLK, keeps the canonical forms, the queue and what was sent. -/

namespace Sys2Proof.Machine

variable {s₀ : State}

theorem State.tick_keeps (s : State) (kept : Keeps s₀ s) : Keeps s₀ s.tick := by
  unfold State.tick
  extract_lets x
  have h : Keeps s₀ x := kept.upd
  split
  · exact h
  · exact State.dmaTick_keeps _ (State.pulseTicks_keeps _ (State.filterTick_keeps _ h.upd))

/-- A command's next state is kept, whatever the command. -/
theorem exec_keeps : (i : Instr) → (s : State) → KeepsRes s (exec i s)
  | .registerWrite init off data, s => execRegisterWrite_keeps init off data s
  | .clearOnRead init off len, s => execClearOnRead_keeps init off len s
  | .resultRegisterRead init off, s => execResultRegisterRead_keeps init off s
  | .write64Lo init off word, s => execWrite64Lo_keeps init off word s
  | .write64Hi init off word, s => execWrite64Hi_keeps init off word s
  | .driftAck, s => execDriftAck_keeps s
  | .pair1Release init, s => execPair1Release_keeps init s
  | .porNAssert stnPos bootSrc, s => execPorNAssert_keeps stnPos bootSrc s
  | .sysRstNAssert bootSrc, s => execSysRstNAssert_keeps bootSrc s
  | .sysrst bootSrc, s => execSysrst_keeps bootSrc s
  | .perstNAssert, s => execPerstNAssert_keeps s
  | .almStageDataWrite data, s => execAlmStageDataWrite_keeps data s
  | .almStagePtrWrite ptr, s => execAlmStagePtrWrite_keeps ptr s
  | .clrStage, s => execClrStage_keeps s
  | .almanacEnable, s => execAlmanacEnable_keeps s
  | .almanacCancel, s => execAlmanacCancel_keeps s
  | .almanacCheckDone, s => execAlmanacCheckDone_keeps s
  | .almanacApplied, s => execAlmanacApplied_keeps s
  | .timCapture init, s => execTimCapture_keeps init s
  | .timSet, s => execTimSet_keeps s
  | .pdelayRequestSend port, s => execPdelayRequestSend_keeps port s
  | .pdelayRequestReceived port reqSeq, s => execPdelayRequestReceived_keeps port reqSeq s
  | .pdelayAnswerReceived port payload, s => execPdelayAnswerReceived_keeps port payload s
  | .pdelayAnswerTimeout port, s => execPdelayAnswerTimeout_keeps port s
  | .syncSend, s => execSyncSend_keeps s
  | .syncReceived port payload corr, s => execSyncReceived_keeps port payload corr s
  | .upstreamFinal, s => execUpstreamFinal_keeps s
  | .servoHoldover, s => execServoHoldover_keeps s
  | .ptpMessageReceived message, s => execPtpMessageReceived_keeps message s
  | .harvestCycleStart, s => execHarvestCycleStart_keeps s
  | .tallyReceived payload, s => execTallyReceived_keeps payload s
  | .tallyFitInForce slot, s => execTallyFitInForce_keeps slot s
  | .tallyDeadline slot, s => execTallyDeadline_keeps slot s
  | .posAt init slot, s => execPosAt_keeps init slot s
  | .timeOf init slot dir, s => execTimeOf_keeps init slot dir s
  | .readFit init slot, s => execReadFit_keeps init slot s
  | .tallyQueryComplete bank, s => execTallyQueryComplete_keeps bank s
  | .calendarEntryWrite init off data, s => execCalendarEntryWrite_keeps init off data s
  | .arm init index, s => execArm_keeps init index s
  | .retract init index, s => execRetract_keeps init index s
  | .schCmdComplete bank, s => execSchCmdComplete_keeps bank s
  | .retractGroup groups, s => execRetractGroup_keeps groups s
  | .entryCommit index, s => execEntryCommit_keeps index s
  | .entryInstant index, s => execEntryInstant_keeps index s
  | .pulseTrailingEdge index, s => execPulseTrailingEdge_keeps index s
  | .entryExpiry index, s => execEntryExpiry_keeps index s
  | .fastLineInputChange line level, s => execFastLineInputChange_keeps line level s
  | .sluiceEventRise event, s => execSluiceEventRise_keeps event s
  | .sluiceEventFall event, s => execSluiceEventFall_keeps event s
  | .forceRelease events, s => execForceRelease_keeps events s
  | .slcHoldRelease, s => execSlcHoldRelease_keeps s
  | .harvestWatchdogExpiry, s => execHarvestWatchdogExpiry_keeps s
  | .hvLinkLost lanes, s => execHvLinkLost_keeps lanes s
  | .hvLinkUp lanes, s => execHvLinkUp_keeps lanes s
  | .twnFenceNFall, s => execTwnFenceNFall_keeps s
  | .twnFenceNRise, s => execTwnFenceNRise_keeps s
  | .keepTmoExpiry bank, s => execKeepTmoExpiry_keeps bank s
  | .keeperResume bank, s => execKeeperResume_keeps bank s
  | .hvDieReset, s => execHvDieReset_keeps s
  | .hvDieStart, s => execHvDieStart_keeps s
  | .fieldInputChange line level, s => execFieldInputChange_keeps line level s
  | .wireBreak line broken, s => execWireBreak_keeps line broken s
  | .zeroCrossing line, s => execZeroCrossing_keeps line s
  | .lineLatchOff line thermal, s => execLineLatchOff_keeps line thermal s
  | .lineLatchClear init k lines, s => execLineLatchClear_keeps init k lines s
  | .openLoad line present, s => execOpenLoad_keeps line present s
  | .lineRestore line, s => execLineRestore_keeps line s
  | .seatDebounceExpiry feed, s => execSeatDebounceExpiry_keeps feed s
  | .seatContactOpen feed second, s => execSeatContactOpen_keeps feed second s
  | .seatContactsClosed contacts, s => execSeatContactsClosed_keeps contacts s
  | .prechargeReached feed, s => execPrechargeReached_keeps feed s
  | .preTmoExpiry feed, s => execPreTmoExpiry_keeps feed s
  | .gateRise feed, s => execGateRise_keeps feed s
  | .gateRiseTimeout feed, s => execGateRiseTimeout_keeps feed s
  | .qualifyComplete feed, s => execQualifyComplete_keeps feed s
  | .faultTimerStart feed, s => execFaultTimerStart_keeps feed s
  | .faultTimerStop feed, s => execFaultTimerStop_keeps feed s
  | .faultTimerExpiry feed, s => execFaultTimerExpiry_keeps feed s
  | .fastTrip feed, s => execFastTrip_keeps feed s
  | .cooloffExpiry feed, s => execCooloffExpiry_keeps feed s
  | .retryClrExpiry feed, s => execRetryClrExpiry_keeps feed s
  | .railLost, s => execRailLost_keeps s
  | .railBack, s => execRailBack_keeps s
  | .feedClr init feed, s => execFeedClr_keeps init feed s
  | .supplyInWindow supplyB inWindow volts, s => execSupplyInWindow_keeps supplyB inWindow volts s
  | .insDlyExpiry supplyB, s => execInsDlyExpiry_keeps supplyB s
  | .supplyOvervoltage supplyB, s => execSupplyOvervoltage_keeps supplyB s
  | .oringReverse supplyB, s => execOringReverse_keeps supplyB s
  | .chkCal init maint feeds, s => execChkCal_keeps init maint feeds s
  | .chkCalComplete offsets, s => execChkCalComplete_keeps offsets s
  | .fldLb init maint banks, s => execFldLb_keeps init maint banks s
  | .fldLbComplete levels, s => execFldLbComplete_keeps levels s
  | .sliceStart slice, s => execSliceStart_keeps slice s
  | .sliceEnable slice en, s => execSliceEnable_keeps slice en s
  | .rxFlush slice, s => execRxFlush_keeps slice s
  | .txFlush slice, s => execTxFlush_keeps slice s
  | .flushEffect slice, s => execFlushEffect_keeps slice s
  | .flushTmoExpiry slice, s => execFlushTmoExpiry_keeps slice s
  | .rxPortRead init slice off bytes, s => execRxPortRead_keeps init slice off bytes s
  | .txPortWrite init slice off data, s => execTxPortWrite_keeps init slice off data s
  | .uartCharacterReceived slice char bad brk, s => execUartCharacterReceived_keeps slice char bad brk s
  | .uartGapExpiry slice, s => execUartGapExpiry_keeps slice s
  | .txPacketSend slice, s => execTxPacketSend_keeps slice s
  | .txPacketDone slice, s => execTxPacketDone_keeps slice s
  | .spiMasterTransfer slice miso, s => execSpiMasterTransfer_keeps slice miso s
  | .spiSlaveSelect slice mosi partialWord, s => execSpiSlaveSelect_keeps slice mosi partialWord s
  | .i2cTransaction slice outcome reads, s => execI2cTransaction_keeps slice outcome reads s
  | .ssiTransfer slice data ebits parityBad timeout, s => execSsiTransfer_keeps slice data ebits parityBad timeout s
  | .quadratureEdge slice a b, s => execQuadratureEdge_keeps slice a b s
  | .quadratureIndex slice, s => execQuadratureIndex_keeps slice s
  | .pulsePeriodWrite slice high, s => execPulsePeriodWrite_keeps slice high s
  | .pulseGate slice high, s => execPulseGate_keeps slice high s
  | .pulseBurstDone slice, s => execPulseBurstDone_keeps slice s
  | .iolFeedChange slice on, s => execIolFeedChange_keeps slice on s
  | .iolWakeup slice rate, s => execIolWakeup_keeps slice rate s
  | .iolValidation slice vid did, s => execIolValidation_keeps slice vid did s
  | .iolMessageFailure slice, s => execIolMessageFailure_keeps slice s
  | .iolComlostExpiry slice, s => execIolComlostExpiry_keeps slice s
  | .iolConfigWrite init slice k word, s => execIolConfigWrite_keeps init slice k word s
  | .canTxRequest channel k buffers, s => execCanTxRequest_keeps channel k buffers s
  | .canStartOfFrame channel, s => execCanStartOfFrame_keeps channel s
  | .canTxComplete channel, s => execCanTxComplete_keeps channel s
  | .canTxAttemptFailed channel arbitration error, s => execCanTxAttemptFailed_keeps channel arbitration error s
  | .canDeadlineExpiry channel buffer, s => execCanDeadlineExpiry_keeps channel buffer s
  | .canFrameReceived channel head data, s => execCanFrameReceived_keeps channel head data s
  | .canRxack channel k buffers, s => execCanRxack_keeps channel k buffers s
  | .canPop channel fifos, s => execCanPop_keeps channel fifos s
  | .canBufferWrite init channel off data, s => execCanBufferWrite_keeps init channel off data s
  | .canErrorDetected channel lec dataPhase sending special, s => execCanErrorDetected_keeps channel lec dataPhase sending special s
  | .guardianCopySent channel buffer, s => execGuardianCopySent_keeps channel buffer s
  | .canRecover channel, s => execCanRecover_keeps channel s
  | .canRecoveryDone recovery, s => execCanRecoveryDone_keeps recovery s
  | .canStuckDominant channel, s => execCanStuckDominant_keeps channel s
  | .canLomWrite channel lom, s => execCanLomWrite_keeps channel lom s
  | .canEnable channel en, s => execCanEnable_keeps channel en s
  | .abdGo init channel, s => execAbdGo_keeps init channel s
  | .abdStop channel, s => execAbdStop_keeps channel s
  | .abdDwellExpiry channel, s => execAbdDwellExpiry_keeps channel s
  | .remoteQueueEntry channel frame, s => execRemoteQueueEntry_keeps channel frame s
  | .br sawyer pads, s => execBr_keeps sawyer pads s
  | .loop sawyer pads, s => execLoop_keeps sawyer pads s
  | .wait sawyer pads, s => execWait_keeps sawyer pads s
  | .shi sawyer pads, s => execShi_keeps sawyer pads s
  | .sho sawyer pads, s => execSho_keeps sawyer pads s
  | .send sawyer pads, s => execSend_keeps sawyer pads s
  | .take sawyer pads, s => execTake_keeps sawyer pads s
  | .copy sawyer pads, s => execCopy_keeps sawyer pads s
  | .ldi sawyer pads, s => execLdi_keeps sawyer pads s
  | .pinset sawyer pads, s => execPinset_keeps sawyer pads s
  | .calc sawyer pads, s => execCalc_keeps sawyer pads s
  | .post sawyer pads, s => execPost_keeps sawyer pads s
  | .flag sawyer pads, s => execFlag_keeps sawyer pads s
  | .stamp sawyer pads, s => execStamp_keeps sawyer pads s
  | .nop sawyer pads, s => execNop_keeps sawyer pads s
  | .halt sawyer pads, s => execHalt_keeps sawyer pads s
  | .invalidInstruction sawyer pads, s => execInvalidInstruction_keeps sawyer pads s
  | .stallRelease sawyer pads, s => execStallRelease_keeps sawyer pads s
  | .sawyerEnable sawyer en, s => execSawyerEnable_keeps sawyer en s
  | .sawyerInject init sawyer word, s => execSawyerInject_keeps init sawyer word s
  | .sawyerTxfWrite sawyer word, s => execSawyerTxfWrite_keeps sawyer word s
  | .sawyerRxfRead sawyer, s => execSawyerRxfRead_keeps sawyer s
  | .sawyerDropWrite sawyer word, s => execSawyerDropWrite_keeps sawyer word s
  | .groveFlagsWrite grove flags, s => execGroveFlagsWrite_keeps grove flags s
  | .reload init grove mask clean, s => execReload_keeps init grove mask clean s
  | .reloadComplete grove, s => execReloadComplete_keeps grove s
  | .groveMemoryWrite init off data, s => execGroveMemoryWrite_keeps init off data s
  | .blockLock port, s => execBlockLock_keeps port s
  | .settleExpiry port, s => execSettleExpiry_keeps port s
  | .portDown port cause, s => execPortDown_keeps port cause s
  | .heartbeatSend port, s => execHeartbeatSend_keeps port s
  | .ringFrameReceived port frame, s => execRingFrameReceived_keeps port frame s
  | .hopNakRetry port, s => execHopNakRetry_keeps port s
  | .linkFrameReceived port info, s => execLinkFrameReceived_keeps port info s
  | .ackSend port, s => execAckSend_keeps port s
  | .ackTimeout port, s => execAckTimeout_keeps port s
  | .frameOriginate port frame, s => execFrameOriginate_keeps port frame s
  | .drainExpiry port, s => execDrainExpiry_keeps port s
  | .harvestLaunch images, s => execHarvestLaunch_keeps images s
  | .harvestBoundary, s => execHarvestBoundary_keeps s
  | .harvestCycleComplete, s => execHarvestCycleComplete_keeps s
  | .joinSend, s => execJoinSend_keeps s
  | .join info expected, s => execJoin_keeps info expected s
  | .grant station epoch serial, s => execGrant_keeps station epoch serial s
  | .release epoch, s => execRelease_keeps epoch s
  | .refuse code serial, s => execRefuse_keeps code serial s
  | .linkrpt station port ready serial, s => execLinkrpt_keeps station port ready serial s
  | .epochReceived info, s => execEpochReceived_keeps info s
  | .epochEffect, s => execEpochEffect_keeps s
  | .epochRepeat, s => execEpochRepeat_keeps s
  | .graceExpiry, s => execGraceExpiry_keeps s
  | .rekey init, s => execRekey_keeps init s
  | .rekeyReq, s => execRekeyReq_keeps s
  | .rekeyReady hub kepoch, s => execRekeyReady_keeps hub kepoch s
  | .rekeyTmoExpiry, s => execRekeyTmoExpiry_keeps s
  | .epochKeysDerived, s => execEpochKeysDerived_keeps s
  | .oldKeyZeroise, s => execOldKeyZeroise_keeps s
  | .read frame, s => execRead_keeps frame s
  | .write frame, s => execWrite_keeps frame s
  | .postedWrite frame, s => execPostedWrite_keeps frame s
  | .lockAcq frame holderWaits, s => execLockAcq_keeps frame holderWaits s
  | .lockRel frame, s => execLockRel_keeps frame s
  | .atomic frame, s => execAtomic_keeps frame s
  | .rsp frame, s => execRsp_keeps frame s
  | .nak frame, s => execNak_keeps frame s
  | .tunnel frame, s => execTunnel_keeps frame s
  | .guard frame, s => execGuard_keeps frame s
  | .event frame, s => execEvent_keeps frame s
  | .switchAdmit port, s => execSwitchAdmit_keeps port s
  | .outputServe port, s => execOutputServe_keeps port s
  | .launchWindowOpen index, s => execLaunchWindowOpen_keeps index s
  | .launchQueuePlace queue frame, s => execLaunchQueuePlace_keeps queue frame s
  | .keyLimitHold slot, s => execKeyLimitHold_keeps slot s
  | .hostMrd tag off bytes, s => execHostMrd_keeps tag off bytes s
  | .hostMwr off data, s => execHostMwr_keeps off data s
  | .hostAtomicop tag kind off data, s => execHostAtomicop_keeps tag kind off data s
  | .bar0Access dw dws be tag word, s => execBar0Access_keeps dw dws be tag word s
  | .unsupportedTlp tag, s => execUnsupportedTlp_keeps tag s
  | .splitReadTimeout tag, s => execSplitReadTimeout_keeps tag s
  | .tagQuarantineExpiry tag, s => execTagQuarantineExpiry_keeps tag s
  | .tagFreed, s => execTagFreed_keeps s
  | .prefetchSlotExpiry slot, s => execPrefetchSlotExpiry_keeps slot s
  | .prefetchNak tag, s => execPrefetchNak_keeps tag s
  | .srdRead init bytes, s => execSrdRead_keeps init bytes s
  | .srdWrite init bytes, s => execSrdWrite_keeps init bytes s
  | .srdPostedWrite init bytes, s => execSrdPostedWrite_keeps init bytes s
  | .srdLockAcq init holderWaits, s => execSrdLockAcq_keeps init holderWaits s
  | .srdLockRel init, s => execSrdLockRel_keeps init s
  | .srdAtomic init kind, s => execSrdAtomic_keeps init kind s
  | .lockBackoffExpiry who holderWaits, s => execLockBackoffExpiry_keeps who holderWaits s
  | .lockTmoExpiry page, s => execLockTmoExpiry_keeps page s
  | .dmxDb context tail, s => execDmxDb_keeps context tail s
  | .enable init context, s => execEnable_keeps init context s
  | .resume init context, s => execResume_keeps init context s
  | .abort init context, s => execAbort_keeps init context s
  | .disable init context, s => execDisable_keeps init context s
  | .inval init context, s => execInval_keeps init context s
  | .contextRecordWrite init off data, s => execContextRecordWrite_keeps init off data s
  | .engineTakeContext engine, s => execEngineTakeContext_keeps engine s
  | .preempt engine, s => execPreempt_keeps engine s
  | .saveComplete engine, s => execSaveComplete_keeps engine s
  | .descriptorFetch engine host, s => execDescriptorFetch_keeps engine host s
  | .descriptorComplete context, s => execDescriptorComplete_keeps context s
  | .tableWalk engine dest given1 given2, s => execTableWalk_keeps engine dest given1 given2 s
  | .lookaheadWalk engine dest given1 given2, s => execLookaheadWalk_keeps engine dest given1 given2 s
  | .dmaFaultEffect engine, s => execDmaFaultEffect_keeps engine s
  | .dmaAckRsp tag, s => execDmaAckRsp_keeps tag s
  | .dmaTmoRewind context, s => execDmaTmoRewind_keeps context s
  | .dmxFqPop, s => execDmxFqPop_keeps s
  | .loadFlash init slot record, s => execLoadFlash_keeps init slot record s
  | .loadStage init slot, s => execLoadStage_keeps init slot s
  | .store init record, s => execStore_keeps init record s
  | .seal init record, s => execSeal_keeps init record s
  | .zero init slot, s => execZero_keeps init slot s
  | .zeroAll init, s => execZeroAll_keeps init s
  | .lc init, s => execLc_keeps init s
  | .keyCmdComplete bank, s => execKeyCmdComplete_keeps bank s
  | .keyStageWrite word data, s => execKeyStageWrite_keeps word data s
  | .enc init slot, s => execEnc_keeps init slot s
  | .dec init slot, s => execDec_keeps init slot s
  | .cphOpComplete bank, s => execCphOpComplete_keeps bank s
  | .gcmFrameJob, s => execGcmFrameJob_keeps s
  | .tamperEvent active, s => execTamperEvent_keeps active s
  | .tsafeClr, s => execTsafeClr_keeps s
  | .tamperEnableWrite init en, s => execTamperEnableWrite_keeps init en s
  | .stitchJoin, s => execStitchJoin_keeps s
  | .stitchJoinReceived hub, s => execStitchJoinReceived_keeps hub s
  | .stitchImageReceived payload, s => execStitchImageReceived_keeps payload s
  | .copyCommit, s => execCopyCommit_keeps s
  | .st0Silence, s => execSt0Silence_keeps s
  | .claimSend reason, s => execClaimSend_keeps reason s
  | .claimResend, s => execClaimResend_keeps s
  | .startClaim, s => execStartClaim_keeps s
  | .claimReceived init word, s => execClaimReceived_keeps init word s
  | .sttOrder init word, s => execSttOrder_keeps init word s
  | .grantReceived src named, s => execGrantReceived_keeps src named s
  | .takeoverComplete, s => execTakeoverComplete_keeps s
  | .fenceReceived src named, s => execFenceReceived_keeps src named s
  | .designateReceived src named, s => execDesignateReceived_keeps src named s
  | .refuseReceived src named, s => execRefuseReceived_keeps src named s
  | .promptReceived src named, s => execPromptReceived_keeps src named s
  | .fenceHoldExpiry, s => execFenceHoldExpiry_keeps s
  | .resign init, s => execResign_keeps init s
  | .resync init, s => execResync_keeps init s
  | .frel init, s => execFrel_keeps init s
  | .sttRefqPop, s => execSttRefqPop_keeps s
  | .faultDetected subsys cls unit, s => execFaultDetected_keeps subsys cls unit s
  | .memoryError region off double, s => execMemoryError_keeps region off double s
  | .scrub region off, s => execScrub_keeps region off s
  | .lockstepMismatch pair, s => execLockstepMismatch_keeps pair s
  | .bomInj subsys double, s => execBomInj_keeps subsys double s
  | .mbist init, s => execMbist_keeps init s
  | .serdesMarginScan init port maint, s => execSerdesMarginScan_keeps init port maint s
  | .hvLaneTest init, s => execHvLaneTest_keeps init s
  | .selfTestComplete failed memory, s => execSelfTestComplete_keeps failed memory s
  | .backgroundTestRotation, s => execBackgroundTestRotation_keeps s
  | .boomRecordWrite, s => execBoomRecordWrite_keeps s
  | .mark n, s => execMark_keeps n s
  | .free n, s => execFree_keeps n s
  | .rewind n, s => execRewind_keeps n s
  | .bomFwrec unit code, s => execBomFwrec_keeps unit code s
  | .eventFrameSend, s => execEventFrameSend_keeps s
  | .boomRead init off bytes, s => execBoomRead_keeps init off bytes s
  | .powerSliceIdle slice, s => execPowerSliceIdle_keeps slice s
  | .wakeStart slice, s => execWakeStart_keeps slice s
  | .wakeOnEdge slice pin, s => execWakeOnEdge_keeps slice pin s
  | .wakeComplete slice, s => execWakeComplete_keeps slice s
  | .pwrListWrite init slice off, s => execPwrListWrite_keeps init slice off s
  | .standby, s => execStandby_keeps s
  | .standbyWake source bootSrc stnPos, s => execStandbyWake_keeps source bootSrc stnPos s
  | .bootVigilStage, s => execBootVigilStage_keeps s
  | .bootRomStage, s => execBootRomStage_keeps s
  | .bootStumpStage, s => execBootStumpStage_keeps s
  | .updEload init cls, s => execUpdEload_keeps init cls s
  | .updEloadComplete, s => execUpdEloadComplete_keeps s
  | .install block bad, s => execInstall_keeps block bad s
  | .svnraise block, s => execSvnraise_keeps block s
  | .keyrec, s => execKeyrec_keeps s
  | .updMboxGo, s => execUpdMboxGo_keeps s
  | .netrec, s => execNetrec_keeps s
  | .romrec, s => execRomrec_keeps s
  | .info uart seq, s => execInfo_keeps uart seq s
  | .setbaud uart seq baud, s => execSetbaud_keeps uart seq baud s
  | .begin uart seq cls mode total, s => execBegin_keeps uart seq cls mode total s
  | .data uart seq off data, s => execData_keeps uart seq off data s
  | .endImage uart seq, s => execEnd_keeps uart seq s
  | .run uart seq, s => execRun_keeps uart seq s
  | .record uart seq record, s => execRecord_keeps uart seq record s
  | .bankSupplyWindow bank inside, s => execBankSupplyWindow_keeps bank inside s
  | .vauxLost, s => execVauxLost_keeps s
  | .ageingMeasure monitor place value, s => execAgeingMeasure_keeps monitor place value s
  | .ageingRecord monitor, s => execAgeingRecord_keeps monitor s
  | .wholeMillisecond, s => execWholeMillisecond_keeps s
  | .pl0MasterLost, s => execPl0MasterLost_keeps s
  | .pl0FrameReceived frame, s => execPl0FrameReceived_keeps frame s
  | .pcieLinkChange up speed width, s => execPcieLinkChange_keeps up speed width s
  | .cellCooled line, s => execCellCooled_keeps line s
  | .canStuckCleared channel, s => execCanStuckCleared_keeps channel s
  | .iolMessageExchange slice pd valid event isdu, s => execIolMessageExchange_keeps slice pd valid event isdu s
  | .vbatLow mv, s => execVbatLow_keeps mv s
  | .hvRunTimeout, s => execHvRunTimeout_keeps s
  | .stitchRecordExpiry pos, s => execStitchRecordExpiry_keeps pos s
  | .standbySelfTestStart bank port, s => execStandbySelfTestStart_keeps bank port s
  | .frameTransmitted port, s => execFrameTransmitted_keeps port s

end Sys2Proof.Machine
end

