-- ==== Sys2Proof/Tests/Slice0.lean ====
section
/-!
SUPPORT. The smoke of WellFormed, the manual's worked examples, and for every obligation with hypotheses a state and operands that
meet them, clause by clause.
-/

namespace Sys2Proof.Tests

open Sys2Proof.Machine

-- One theorem after the other: hundreds of kernel evaluations at once would ask for a thread each.
set_option Elab.async false

/-! Operands that no sender can form -/

/-- A frame's TYPE has four bits (R257). -/
theorem test_ill_formed_frame_type : Instr.wellFormed (.frameOriginate 8 { typ := 16, tc := 0, dest := 0 }) = false := by decide
/-- A payload has at most 2048 bytes (R256). -/
theorem test_ill_formed_frame_payload :
    Instr.wellFormed (.guard { typ := 9, tc := 7, dest := 0, payload := List.replicate 2049 0 }) = false := by decide +kernel
/-- A GCM tag has 16 bytes (R256). -/
theorem test_ill_formed_frame_tag : Instr.wellFormed (.rsp { typ := 6, tc := 4, dest := 0, tag := [1] }) = false := by decide
/-- LEN has 12 bits (R257). -/
theorem test_ill_formed_wire : Instr.wellFormed (.ringFrameReceived 0 { frame := { typ := 5, tc := 4, dest := 0 }, len := 4096 }) = false := by
  decide
/-- Data as long as the DLC says (R214). -/
theorem test_ill_formed_can : Instr.wellFormed (.remoteQueueEntry 0 { id := 5, dlc := 2, data := [1] }) = false := by decide
/-- A hub position is below 4 (R279). -/
theorem test_ill_formed_hub : Instr.wellFormed (.stitchJoinReceived ⟨1, 4, 0, 8, 8, List.replicate 48 0⟩) = false := by decide
/-- A JOIN names at least one hub (R279). -/
theorem test_ill_formed_join : Instr.wellFormed (.join ⟨0, 5, 0, 1, 1, []⟩ false) = false := by decide
/-- Positions rise by station (R284). -/
theorem test_ill_formed_epoch : Instr.wellFormed (.epochReceived
    { newEpoch := 1, prevEpoch := 0, effectCycle := 3, hper := 4000, happly := 1000, hlaunch := 8, hops := 4, cut0 := 0xFFFF, cut1 := 0xFFFF,
      drain := 0, kepTx := 0, kepNext := 0, resets := [], posmap := [(5, 1), (4, 2)] }) = false := by decide
/-- HOPSEQ has 16 bits (R262). -/
theorem test_ill_formed_link : Instr.wellFormed (.linkFrameReceived 0 { ack := 65536, admitted := true, serial := 1 }) = false := by decide
/-- An output image has at most 1024 bytes (R274). -/
theorem test_ill_formed_images : Instr.wellFormed (.harvestLaunch [(4, List.replicate 1025 0)]) = false := by decide +kernel
/-- A data port's window has 4096 bytes (R190). -/
theorem test_ill_formed_port : Instr.wellFormed (.rxPortRead .bar0 3 4096 ⟨8, true⟩) = false := by decide

/-! Worked examples of the manual -/

/-- The Calendar registers of the hub that drives diverter FL4 (01, after R24). -/
theorem test_fabric_address : ((State.reset.wr F.GLB_POS_STATION 240).wr F.GLB_POS_HUBPOS 2).ownFa 0 0x60000 = 0x3C200000060000 := by
  decide +kernel
/-- The host window of the Marrowby head (01, after R24). -/
theorem test_host_window : (State.reset.wr F.GLB_POS_STATION 1).ownFa 15 0 = 0x004F0000000000 := by decide +kernel
/-- −1.5 counts in TP80 (R71). -/
theorem test_tp80 : ofSigned 80 (-98304) = 0xFFFFFFFFFFFFFFFE8000 := by decide +kernel
/-- Station 12 to station 240 of 412 is shorter by ring B, 184 hops (01, the Marrowby Sort Centre). -/
theorem test_direction : direction 412 [] 12 240 = some true := by decide +kernel

/-- A self-test's result register that reads 0xC041_0000 (02, after R42). -/
def resultRead41 : State := ((State.reset.wr F.BOM_TEST_RES_VALID 1).wr F.BOM_TEST_RES_STALE 1).wr F.BOM_TEST_RES_SEQ 0x41

/-- What reading a self-test's result register answers. -/
def readResult (s : State) : Answer := (s.regRead .bar0 RR.BOM_TEST_RES).answer

theorem test_result_started : readResult (resultRead41.resStart RR.BOM_TEST_RES) = .data [0x00420000] := by decide +kernel
theorem test_result_fresh :
    readResult ((resultRead41.resStart RR.BOM_TEST_RES).resDone RR.BOM_TEST_RES 0) = .data [0x80420000] := by decide +kernel
theorem test_result_stale :
    readResult (((resultRead41.resStart RR.BOM_TEST_RES).resDone RR.BOM_TEST_RES 0).regRead .yarder RR.BOM_TEST_RES) = .data [0xC0420000] := by
  decide +kernel

/-- The crossing of count 3,200,400 by a belt at 32,000 counts/s from 3,200,320 is 2.5 ms away (05, Chute 118). -/
theorem test_crossing : (Fit.mk (10 * second16) 3200320 32000 0).timeOf 3200400 1 (10 * second16) (11 * second16) =
    some (10 * second16 + ns16 2500000) := by decide +kernel
/-- The residual of the sample of cycle C2 lies between 65 and 66 units; the example gives 65 (04, Tally 7 at station 240). -/
theorem test_residual : (65 : Rat) ≤ 65536 * (3200064 - (Fit.mk (10 * second16) 3200032 32000 0).posAt (10 * second16 + ns16 999969)) ∧
    65536 * (3200064 - (Fit.mk (10 * second16) 3200032 32000 0).posAt (10 * second16 + ns16 999969)) < (66 : Rat) := by decide +kernel

/-! States and operands that meet the hypotheses of the obligations -/

/-- A hub after reset with one port slice enabled in a personality and its power slice in RUN. -/
def sliceOn (n p : Nat) : State :=
  ((State.reset.wr (F.PSL_Sn_CTL_EN n) 1).wr (F.PSL_Sn_CFG_PERS n) p).wr (F.PWR_Sn_STAT_STATE (slicePower n)) 0
/-- A hub after reset with an IO-Link port in slice n, its paired line's feed on and the bank's keeper NORMAL. -/
def fedOn (n : Nat) : State :=
  ((((sliceOn n 8).wr (F.PSL_Sn_CFG_LINK n) 0).wr F.FLD_STATUS_LINK 1).wr (F.CHK_Fn_STATUS_PG 0) 1).wr (F.FLD_Bb_CFG_KSTATE 0) 0
/-- A hub after reset with CAN channel c enabled, its power slice in RUN, and a CANCH section, and a word at an offset of a buffer. -/
def canOn (c b off v : Nat) : State :=
  { (((State.reset.wr (F.CAN_Cc_CTL_EN c) 1).wr (F.PWR_Sn_STAT_STATE (canPower c)) 0).wr F.GLB_HEALTH_ALM_OK 1).setBufWord c b off v with
    canned := 2 ^ c }
/-- An empty CAN frame. -/
def noFrame : CanFrame := { id := 0, fdf := false, brs := false, esi := false, dlc := 0, data := [] }
/-- A hub after reset with sawyer n in RUN at PC 0 and an instruction word there. -/
def sawOn (n w : Nat) : State :=
  (((State.reset.wr (F.SAW_Sn_CTL_EN n) 1).wr (F.SAW_Sn_STATUS_STATE n) 1).wr (F.PWR_Sn_STAT_STATE (sawPower n)) 0).store 3
    (groveOff (n / 8) 0) (leBytes 4 w)

/-- A CMD from hub 0 of station 5 with TAG 9 for this hub after reset. -/
def cmdTo (op b1 n fa : Nat) (data : List Nat) : Frame :=
  { typ := 5, tc := 4, dest := 0, src := 20, payload := cmdPayload op b1 9 n fa data }

/-- A hub after reset whose context c is in a state, with a ring of n + 1 descriptors at region 0x4 offset 0x1000, DHEAD and DTAIL. -/
def ctxOn (c st n head tail : Nat) : State :=
  State.reset.store 6 (64 * c) (leBytes 4 (st * 2 ^ 28 + 2 ^ 24) ++ leBytes 12 0 ++ leBytes 8 (4 * 2 ^ 40 + 0x1000) ++ leBytes 2 n ++ leBytes 2 head ++
    leBytes 2 tail)

/-- A hub after reset with LC, ROOT_OK = 1 and the first six words of KEY_STAGE. -/
def keyStaged (lc : Nat) (w : Nat → Nat) : State :=
  (List.range 6).foldl (fun t n => t.wr (F.KEY_STAGE_DATA n) (w n)) ((State.reset.wr F.KEY_STATUS_LC lc).wr F.KEY_STATUS_ROOT_OK 1)

/-- A blob header for serial 0: its state code and ATTR, KEY_ID 7, LIMIT 100, parent the root. -/
def blobWord (st attr n : Nat) : Nat :=
  [0xA14B4C42, 1 + 256 * st + 65536 * attr, 7, 0, 100, 0xFF].getD n 0

/-- A hub after reset with a key of an attribute in slot n. -/
def keyOn (n attr dattr : Nat) : State :=
  { (((State.reset.wr (F.KEY_Sn_INFO_VALID n) 1).wr (F.KEY_Sn_INFO_ATTR n) attr).wr (F.KEY_Sn_INFO_DATTR n) dattr).wr (F.KEY_Sn_LIMIT_LIMIT n) 100 with
    sec := { slots := [(n, { key := 5 })] } }

/-- A frame of an output in its replay buffer under a HOPSEQ. -/
def sentOn (p h : Nat) (f : Frame) : Sent := { hopSeq := h, buf := { id := 0, inPort := 8, outs := [p], cells := 1, guar := 0, frame := f } }

theorem witness_StepRunsFront :
    (∃ (s : State), s.Live ∧ s.pending = []) ∧
    (∃ (s : State), s.voided = false ∧ s.pwr.standby = true ∧ s.pending = []) :=
  ⟨⟨State.reset, by decide +kernel⟩,
    ⟨{ State.reset with pwr := { standby := true } }, by decide +kernel⟩⟩

theorem witness_StepKeepsGood : ∃ s t : State, s.Good ∧ step s = .next t :=
⟨State.reset, State.reset.settle State.reset.tick, ⟨by decide, by decide, by decide⟩, by unfold step guardedVigil; exact if_neg (by decide)⟩

theorem witness_QueueFifo : ∃ s t : State, step s = .next t := 
⟨State.reset, State.reset.settle State.reset.tick, by unfold step guardedVigil; exact if_neg (by decide)⟩

theorem witness_SentStands : ∃ s t : State, step s = .next t := 
⟨State.reset, State.reset.settle State.reset.tick, by unfold step guardedVigil; exact if_neg (by decide)⟩

theorem witness_VoidStops : (leAt ([0, 0, 0, 8].map (BitVec.toNat (w := 8))) 0 4 / 2 ^ 27 ≠ State.reset.rd ⟨0x1C, 27, 5, 0⟩) ∧
  (∃ s : State, s.voided = true ∧ exec (.sysrst 0) s = .fault .guaranteeVoid) ∧
  (∃ (s : State) (r : RRow), s.voided = true ∧ s.pwr.standby = false ∧ s.rd ⟨0x1C, 27, 5, 0⟩ < 32 ∧ s.voidPlace .bar0 0x1C 4 = some (r, 0x1C)) :=
⟨by decide +kernel, ⟨{ State.reset with voided := true }, rfl, rfl⟩,
  ⟨{ State.reset with voided := true }, ⟨0x1c, 1, 0, 1, 0, .plain, [⟨0, 27, .rw, 0, .run, 0, 0x7ffffff⟩, ⟨27, 5, .rwb, 0, .run, 0, 0x1f⟩]⟩, rfl, rfl,
    by decide +kernel, by decide +kernel⟩⟩

theorem witness_StandbyStill : ∃ s : State, s.voided = false ∧ s.pwr.standby = true ∧ outsideMainDie .graceExpiry = false ∧
  exec .graceExpiry s = .next (s.settle s) :=
⟨{ State.reset with pwr := { standby := true } }, rfl, rfl, rfl, rfl⟩

theorem witness_RegisterWriteFields : (∃ (r : RRow), findRow 0x1C (State.reset.persAt 0x1C) = some r ∧
    lowHalves.contains r.off = false ∧ lowHalves.contains (r.off - 4) = false ∧ assignedBlock 0x1C = true ∧ isParam 0x1C = false ∧
    State.reset.writeRefused 0x1C 0x07FFFFFF r = none ∧ leAt ([0xFF, 0xFF, 0xFF, 0x07].map (BitVec.toNat (w := 8))) 0 4 = 0x07FFFFFF ∧
    (∀ x : State, x.regAction (State.srdStart false) .bar0 State.reset.self 0x1C 0x07FFFFFF r = x) ∧
    (∀ f ∈ r.fields, (f.cls = .a → State.reset.almInForce = false) ∧ ownField r f.lo 0x1C 0 = false ∧
      (f.acc = .rwb → State.reset.rd (f.fld (r.place 0x1C 0 1)) = f.of 0x07FFFFFF)) ∧
    (r.fields.map (·.lo)).Nodup ∧ (∀ f ∈ r.fields, f.lo < 32)) ∧
  (assignedBlock 0x10800 = true ∧ findRow 0x10800 0 = none) ∧
  (∃ (r : RRow) (f : FRow), findRow 0x40044 0 = some r ∧ r.kind = .plain ∧ r.fields = [f] ∧ f.acc = .rw ∧ f.cls = .a ∧
    lowHalves.contains r.off = false ∧ lowHalves.contains (r.off - 4) = false ∧ ownField r f.lo 0x40044 0 = false ∧
    (State.reset.wr F.GLB_HEALTH_ALM_OK 1).almInForce = true ∧
    (State.reset.wr F.GLB_HEALTH_ALM_OK 1).writeRefused 0x40044 2000 r = none ∧
    (∀ x : State, x.regAction (State.srdStart false) .bar0 State.reset.self 0x40044 2000 r = x)) :=
⟨⟨⟨0x1c, 1, 0, 1, 0, .plain, [⟨0, 27, .rw, 0, .run, 0, 0x7ffffff⟩, ⟨27, 5, .rwb, 0, .run, 0, 0x1f⟩]⟩, by decide +kernel, by decide, by decide,
  by decide +kernel, by decide, by decide +kernel, by decide +kernel, fun _ => rfl, by decide +kernel, by decide, by decide⟩,
  by decide +kernel,
  ⟨0x40044, 1, 0, 1, 0, .plain, [⟨0, 32, .rw, 0x3e8, .a, 0x64, 0x3b9aca00⟩]⟩, ⟨0, 32, .rw, 0x3e8, .a, 0x64, 0x3b9aca00⟩, by decide +kernel,
  rfl, rfl, rfl, rfl, by decide, by decide, by decide, by decide +kernel, by decide +kernel, fun _ => rfl⟩

theorem witness_RegisterWriteRefused :
    (∃ (init : Initiator) (off : BitVec 40) (data : List Byte) (s : State), s.Live ∧ off.toNat + data.length ≤ 2 ^ 40 ∧ (data.length ≠ 4 ∨ off.toNat % 4 ≠ 0) ∧ s.rd F.GLB_ACC_ERR_CAPT = 0) ∧
    (∃ (init : Initiator) (off : BitVec 40) (len : Nat) (s : State), s.Live ∧ off.toNat + len ≤ 2 ^ 40 ∧ (len ≠ 4 ∨ off.toNat % 4 ≠ 0) ∧ s.rd F.GLB_ACC_ERR_CAPT = 0) ∧
    (∃ (dw : BitVec 24) (dws : BitVec 10) (be : BitVec 4) (tag : BitVec 10) (w : Word) (s : State), s.Live ∧ s.rd F.BRG_STATUS_EP = 1 ∧ (dws ≠ 1 ∨ be ≠ 0xF)) ∧
    (∃ (f : Frame) (s : State), s.Live ∧ f.typ = 5 ∧ cmdOp f = 2 ∧ cmdFits f = true ∧ f.tc ≠ 7 ∧ cmdFa f / 2 ^ 40 % 16 = 0 ∧ (cmdBytes f ≠ 4 ∨ cmdFa f % 4 ≠ 0) ∧ cmdFa f % 2 ^ 40 + cmdBytes f ≤ 2 ^ 40) :=
  ⟨⟨.bar0, 0x1D, [1, 2], State.reset, by decide +kernel⟩,
    ⟨.yarder, 0x1E, 4, State.reset, by decide +kernel⟩,
    ⟨7, 2, 0xF, 3, 5, State.reset.wr F.BRG_STATUS_EP 1, by decide +kernel⟩,
    ⟨cmdTo 2 0 2 0x1C [7, 8], State.reset, by decide +kernel⟩⟩

theorem witness_ReadsOfRegisters :
    (∃ (init : Initiator) (off : BitVec 40) (r : RRow) (s : State), s.Live ∧ off.toNat % 4 = 0 ∧ assignedBlock off.toNat = true ∧ findRow off.toNat (s.persAt off.toNat) = some r ∧ r.off ≠ (F.SAW_Sn_RXF_WORD 0).off ∧ r.off ≠ (F.SAW_Sn_STAMP0_STAMP 0).off ∧ r.kind = .plain ∧ measured off.toNat = false ∧ (off.toNat = F.BOM_FIRST_CAPT.off → s.cycle = []) ∧ (r.fields.map (·.lo)).Nodup ∧ (∀ f ∈ r.fields, f.lo < 32)) ∧
    (∃ (init : Initiator) (off : BitVec 40) (r : RRow) (s : State), s.Live ∧ off.toNat % 4 = 0 ∧ assignedBlock off.toNat = true ∧ isParam off.toNat = false ∧ findRow off.toNat 0 = some r ∧ r.off ≠ (F.SAW_Sn_RXF_WORD 0).off ∧ r.off ≠ (F.SAW_Sn_STAMP0_STAMP 0).off ∧ (r.kind = .bankedResult ∨ r.kind = .result) ∧ (∀ f ∈ r.fields, f.acc ≠ .rc) ∧ measured off.toNat = false) ∧
    (∃ (init : Initiator) (off : BitVec 40) (s : State), s.Live ∧ off.toNat % 4 = 0 ∧ assignedBlock off.toNat = true) ∧
    (∃ (init : Initiator) (n : Fin 128) (w : Nat) (l : List Nat) (s : State), s.Live ∧ s.marked (.sawSent n) = false ∧ (s.saw n).rx = w :: l) ∧
    (∃ (init : Initiator) (n : Fin 16) (s : State), s.Live ∧ s.hvLink = true ∧ s.feedState n ≠ fBypass) :=
  ⟨⟨.bar0, 0x50000, ⟨0x50000, 1, 0, 1, 0, .plain, [⟨0, 32, .rc, 0, .run, 0, 0xffffffff⟩]⟩, State.reset, by decide +kernel⟩,
    ⟨.tc4, 0x60014, (findRow 0x60014 0).getD ⟨0, 1, 0, 1, 0, .plain, []⟩, State.reset, by decide +kernel⟩,
    ⟨.bar0, 0x10800, State.reset, by decide +kernel⟩,
    ⟨.bar0, 5, 7, [8], State.reset.setSaw 5 { rx := [7, 8] }, by decide +kernel⟩,
    ⟨.bar0, 5, State.reset.wr F.FLD_STATUS_LINK 1, by decide +kernel⟩⟩

theorem witness_PairWrites :
    (∃ (init : Initiator) (off : BitVec 40) (w : Word) (r : RRow) (s : State), s.Live ∧ findRow off.toNat 0 = some r ∧ off.toNat % 4 = 0 ∧ assignedBlock off.toNat = true ∧ isParam off.toNat = false ∧ lowHalves.contains r.off = true ∧ s.writeRefused off.toNat w.toNat r = none ∧ (∀ f ∈ r.fields, f.acc = .rwb → s.rd (f.fld (r.place off.toNat 0 (bankOf init))) = f.of w.toNat)) ∧
    (∃ (init : Initiator) (w : Word) (s : State), s.Live) ∧
    (∃ (init : Initiator) (n : Fin 128) (w : Word) (s : State), s.Live) ∧
    (∃ (init : Initiator) (w : Word) (s : State), s.Live) ∧
    (∃ (init : Initiator) (w : Word) (s : State), s.Live) ∧
    (∃ (init : Initiator) (n : Fin 16) (w : Word) (s : State), s.Live ∧ s.rd ⟨0x120204 + 0x10 * n.val, 24, 8, 0⟩ = w.toNat / 2 ^ 24) ∧
    (∃ (init : Initiator) (n : Fin 32) (w : Word) (s : State), s.Live ∧ s.almInForce = true ∧ s.cycle = []) ∧
    (∃ (init : Initiator) (n : Fin 128) (w : Word) (s : State), s.Live ∧ s.almInForce = true ∧ s.cycle = [] ∧ s.rd F.SLC_CTL_HOLD = 0 ∧ (setBits w.toNat 32).any s.fastOut = false) ∧
    (∃ (init : Initiator) (n : Fin 128) (w : Word) (s : State), s.Live ∧ s.almInForce = true ∧ s.cycle = [] ∧ s.rd F.SLC_CTL_HOLD = 0 ∧ (setBits w.toNat 32).any s.fastOut = false) ∧
    (∃ (init : Initiator) (n : Fin 128) (w : Word) (s : State), s.Live ∧ s.almInForce = true ∧ s.rd F.SLC_CTL_HOLD = 1 ∧ (setBits w.toNat 32).any s.fastOut = false) ∧
    (∃ (init other : Initiator) (n : Fin 128) (w1 w2 w3 : Word) (s : State), s.Live) :=
  ⟨⟨.bar0, 0x1A004C, 0xDEADBEEF, (findRow 0x1A004C 0).getD ⟨0, 1, 0, 1, 0, .plain, []⟩, State.reset, by decide +kernel⟩,
    ⟨.bar0, 7, State.reset, by decide +kernel⟩,
    ⟨.bar0, 127, 7, State.reset, by decide +kernel⟩,
    ⟨.bar0, 7, State.reset, by decide +kernel⟩,
    ⟨.yarder, 7, State.reset, by decide +kernel⟩,
    ⟨.bar0, 3, 7, State.reset, by decide +kernel⟩,
    ⟨.bar0, 3, 7, State.reset.wr F.GLB_HEALTH_ALM_OK 1, by decide +kernel⟩,
    ⟨.bar0, 3, 7, State.reset.wr F.GLB_HEALTH_ALM_OK 1, by decide +kernel⟩,
    ⟨.bar0, 3, 7, State.reset.wr F.GLB_HEALTH_ALM_OK 1, by decide +kernel⟩,
    ⟨.bar0, 3, 7, (State.reset.wr F.GLB_HEALTH_ALM_OK 1).wr F.SLC_CTL_HOLD 1, by decide +kernel⟩,
    ⟨.bar0, .yarder, 5, 1, 2, 3, State.reset, by decide +kernel⟩⟩

theorem witness_HubControls :
    (∃ (s : State), s.Live ∧ s.marked .departed = false) ∧
    (∃ (s : State), s.Live ∧ s.marked .departed = true) ∧
    (∃ (init : Initiator) (s : State), s.Live) ∧
    (∃ (init : Initiator) (s : State), s.Live ∧ s.rd ⟨F.GLB_CTL_PAIR1_REL.off, 1, 31, 0⟩ = 0) ∧
    (∃ (dw : BitVec 24) (tag : BitVec 10) (w : Word) (s : State), s.Live ∧ s.on F.BRG_STATUS_EP = true) ∧
    (∃ (dw : BitVec 24) (tag : BitVec 10) (l : List Nat) (s : State), s.Live ∧ s.on F.BRG_STATUS_EP = true ∧ (s.regRead .bar0 (4 * dw.toNat)).answer = .data l) :=
  ⟨⟨State.reset, by decide +kernel⟩,
    ⟨State.reset.mark .departed, by decide +kernel⟩,
    ⟨.yarder, State.reset, by decide +kernel⟩,
    ⟨.yarder, State.reset, by decide +kernel⟩,
    ⟨0x7, 0, 5, State.reset.wr F.BRG_STATUS_EP 1, by decide +kernel⟩,
    ⟨0x1, 0, [0xC011], State.reset.wr F.BRG_STATUS_EP 1, by decide +kernel⟩⟩

theorem witness_ResetCommands :
    (∃ (bootSrc : Fin 4) (s : State), s.pwr.vbat = false) ∧
    (∃ (bootSrc : Fin 4) (s : State), s.Live) ∧
    (∃ (bootSrc : Fin 4) (s : State), s.pwr.vbat = true) ∧
    (∃ (source bootSrc stnPos : Fin 4) (s : State), s.voided = false ∧ s.pwr.standby = true ∧ s.pwr.vbat = false ∧ (source = 0 ∧ s.wakeTimer = true ∨ source = 1 ∧ s.tlatch = true ∨ source = 2)) ∧
    (∃ (bootSrc stnPos : Fin 4) (s : State), s.voided = false ∧ s.pwr.standby = true ∧ s.pwr.vbat = false) ∧
    (∃ (source bootSrc stnPos : Fin 4) (s : State), s.voided = false ∧ (s.pwr.standby = false ∨ s.pwr.vbat = true ∨ source = 0 ∧ s.wakeTimer = false ∨ source = 1 ∧ s.tlatch = false)) ∧
    (∃ (s : State), s.Live ∧ s.rd F.BRG_STATUS_EP = 0) ∧
    (∃ (s : State), s.Live ∧ s.rd F.BRG_STATUS_EP ≠ 0) :=
  ⟨⟨1, State.reset.store 4 0 [1], by decide +kernel⟩,
    ⟨1, State.reset.store 4 0 [1], by decide +kernel⟩,
    ⟨1, { State.reset with pwr := { vbat := true } }, by decide +kernel⟩,
    ⟨2, 1, 0, { State.reset with pwr := { standby := true } }, by decide +kernel⟩,
    ⟨1, 0, { State.reset with pwr := { standby := true } }, by decide +kernel⟩,
    ⟨2, 1, 0, State.reset, by decide +kernel⟩,
    ⟨State.reset, by decide +kernel⟩,
    ⟨State.reset.wr F.BRG_STATUS_EP 1, by decide +kernel⟩⟩

theorem witness_LinksAndSupplies :
    (∃ (up : Bool) (speed width : Fin 8) (s : State), s.Live ∧ s.on F.BRG_STATUS_EP = true ∧ s.on F.BRG_STATUS_DL_UP = up) ∧
    (∃ (up : Bool) (speed width : Fin 8) (s : State), s.Live ∧ s.on F.BRG_STATUS_EP = true ∧ s.on F.BRG_STATUS_DL_UP ≠ up) ∧
    (∃ (up : Bool) (speed width : Fin 8) (s : State), s.Live ∧ s.on F.BRG_STATUS_EP = false) ∧
    (∃ (mv : BitVec 16) (s : State), s.voided = false ∧ (2200 ≤ mv.toNat ∨ s.rd F.VGL_STATUS_VBAT_LOW ≠ 0)) ∧
    (∃ (mv : BitVec 16) (s : State), s.voided = false ∧ mv.toNat < 2200 ∧ s.rd F.VGL_STATUS_VBAT_LOW = 0) ∧
    (∃ (s : State), s.voided = false) ∧
    (∃ (inside : Bool) (s : State), s.voided = false) ∧
    (∃ (m : Fin 3) (place : Fin 8) (v : BitVec 16) (s : State), s.Live ∧ s.ageing.get? m = some ⟨v.toNat, if m = 2 then 0 else place, ageBeyond m v.toNat (ageWarn m), ageBeyond m v.toNat (ageLimit m)⟩) ∧
    (∃ (m : Fin 3) (r : AgeReading) (s : State), s.Live ∧ s.ageing.get? m = some r ∧ s.bom.queue.length < 16 ∧ s.cycle = []) ∧
    (∃ (m : Fin 3) (s : State), s.Live ∧ s.ageing.get? m = none) ∧
    (∃ (m : Fin 3) (place : Fin 8) (v : BitVec 16) (s : State), s.Live ∧ s.ageing.get? m = none ∧ ageBeyond m v.toNat (ageWarn m) = true ∧ s.cycle = [] ∧ s.bom.queue.length < 16) :=
  ⟨⟨false, 3, 4, State.reset.wr F.BRG_STATUS_EP 1, by decide +kernel⟩,
    ⟨true, 3, 4, State.reset.wr F.BRG_STATUS_EP 1, by decide +kernel⟩,
    ⟨true, 3, 4, State.reset, by decide +kernel⟩,
    ⟨3000, State.reset, by decide +kernel⟩,
    ⟨2199, State.reset, by decide +kernel⟩,
    ⟨State.reset, by decide +kernel⟩,
    ⟨false, State.reset, by decide +kernel⟩,
    ⟨1, 2, 200, { State.reset with ageing := [(1, ⟨200, 2, true, false⟩)] }, by decide +kernel⟩,
    ⟨1, ⟨200, 2, true, false⟩, { State.reset with ageing := [(1, ⟨200, 2, true, false⟩)] }, by decide +kernel⟩,
    ⟨1, State.reset, by decide +kernel⟩,
    ⟨1, 2, 200, State.reset, by decide +kernel⟩⟩

theorem witness_StagingCommands :
    (∃ (data : Word) (s : State), s.Live ∧ s.rd F.ALM_STATUS_STATE < 2 ∧ s.rd F.ALM_STAGE_PTR_PTR < 0x20000) ∧
    (∃ (data : Word) (s : State), s.Live ∧ s.rd F.ALM_STATUS_STATE < 2 ∧ 0x20000 ≤ s.rd F.ALM_STAGE_PTR_PTR) ∧
    (∃ (data : Word) (s : State), s.Live ∧ 2 ≤ s.rd F.ALM_STATUS_STATE) ∧
    (∃ (ptr : BitVec 18) (s : State), s.Live) ∧
    (∃ (s : State), s.Live ∧ s.rd F.ALM_STATUS_STATE < 2) :=
  ⟨⟨0xAABBCCDD, State.reset.wr F.ALM_STAGE_PTR_PTR 0x1FFFF, by decide +kernel⟩,
    ⟨1, State.reset.wr F.ALM_STAGE_PTR_PTR 0x20000, by decide +kernel⟩,
    ⟨1, State.reset.wr F.ALM_STATUS_STATE 2, by decide +kernel⟩,
    ⟨0x20000, State.reset, by decide +kernel⟩,
    ⟨(State.reset.store stagingRegion 0 [1]).store 4 0 [1], by decide +kernel⟩⟩

theorem witness_AlmanacLoading :
    (∃ (s : State), s.Live ∧ s.rd F.ALM_STATUS_STATE < 2) ∧
    (∃ (code sect off : Nat) (s : State), s.Live ∧ s.alm.checking = some (.refused (some code) (some sect) (some off))) ∧
    (∃ (i : Image) (s : State), s.Live ∧ s.alm.checking = some (.passed i) ∧ s.rd F.GLB_HEALTH_ALM_OK = 0) ∧
    (∃ (i : Image) (s : State), s.Live ∧ s.alm.checking = some (.passed i) ∧ s.rd F.GLB_HEALTH_ALM_OK ≠ 0 ∧ s.harvestRuns = true ∧ (s.restarts i = false ∨ s.inService = true)) ∧
    (∃ (i : Image) (s : State), s.Live ∧ s.alm.checking = some (.passed i) ∧ s.rd F.GLB_HEALTH_ALM_OK ≠ 0 ∧ (s.harvestRuns = false ∨ s.restarts i = true ∧ s.inService = false) ∧ s.retest i = none) ∧
    (∃ (i : Image) (code : Nat) (s : State), s.Live ∧ s.alm.checking = some (.passed i) ∧ s.rd F.GLB_HEALTH_ALM_OK ≠ 0 ∧ s.harvestRuns = false ∧ s.retest i = some (code, none)) ∧
    (∃ (s : State), s.Live ∧ s.alm.checking = none) ∧
    (∃ (s : State), s.Live ∧ s.rd F.ALM_STATUS_STATE = 3) ∧
    (∃ (s : State), s.Live ∧ s.rd F.ALM_STATUS_STATE ≠ 3) ∧
    (∃ (i : Image) (s : State), s.Live ∧ s.alm.coming = some i ∧ s.rd F.ALM_STATUS_STATE = 4) :=
  ⟨⟨State.reset, by decide +kernel⟩,
    ⟨0x0101, 0, 4, { State.reset with alm := { checking := some (.refused (some 0x0101) (some 0) (some 4)) } }, by decide +kernel⟩,
    ⟨⟨[], [], [], true, 7, 1, 2, 0, []⟩, { State.reset with alm := { checking := some (.passed ⟨[], [], [], true, 7, 1, 2, 0, []⟩) } }, by decide +kernel⟩,
    ⟨⟨[], [], [], false, 7, 1, 2, 0, []⟩, (({ State.reset with alm := { checking := some (.passed ⟨[], [], [], false, 7, 1, 2, 0, []⟩) } }.wr F.GLB_HEALTH_ALM_OK 1).wr F.CRL_STATUS_HV_RUN 1).wr F.CRL_STATUS_ADMITTED 1, by decide +kernel⟩,
    ⟨⟨[], [], [], false, 7, 1, 2, 0, []⟩, { State.reset with alm := { checking := some (.passed ⟨[], [], [], false, 7, 1, 2, 0, []⟩) } }.wr F.GLB_HEALTH_ALM_OK 1, by decide +kernel⟩,
    ⟨⟨[], [(0x10, 3)], [], false, 7, 1, 2, 0, []⟩, 0x0145, ({ State.reset with alm := { checking := some (.passed ⟨[], [(0x10, 3)], [], false, 7, 1, 2, 0, []⟩) } }.wr F.GLB_HEALTH_ALM_OK 1).wr (F.PSL_Sn_CTL_EN 3) 1, by decide +kernel⟩,
    ⟨State.reset, by decide +kernel⟩,
    ⟨State.reset.wr F.ALM_STATUS_STATE 3, by decide +kernel⟩,
    ⟨State.reset, by decide +kernel⟩,
    ⟨⟨[], [], [], true, 7, 1, 2, 0, []⟩, { State.reset with alm := { coming := some ⟨[], [], [], true, 7, 1, 2, 0, []⟩ } }.wr F.ALM_STATUS_STATE 4, by decide +kernel⟩⟩

theorem witness_TimeCommands :
    (∃ (init : Initiator) (s : State), s.Live) ∧
    (∃ (s : State), s.Live ∧ s.rd F.TIM_CTL_ROLE ≠ 0 ∧ s.rd F.TIM_CTL_SOURCE = 0 ∧ s.rd F.TIM_SET_NS_NS < 1000000000) ∧
    (∃ (s : State), s.Live ∧ (s.rd F.TIM_CTL_ROLE = 0 ∨ s.rd F.TIM_CTL_SOURCE ≠ 0)) ∧
    (∃ (s : State), s.Live ∧ s.rd F.TIM_CTL_ROLE ≠ 0 ∧ s.rd F.TIM_CTL_SOURCE = 0 ∧ 1000000000 ≤ s.rd F.TIM_SET_NS_NS) ∧
    (∃ (s : State), s.Live ∧ (s.rd F.TIM_STATUS_SERVO = 1 ∨ s.rd F.TIM_STATUS_SERVO = 2) ∧ s.tim.freqs ≠ [] ∧ s.syncsSince s.tim.lastFed (s.rd F.TIM_SERVO3_HOLD_TMO) = true) ∧
    (∃ (s : State), s.Live ∧ ((s.rd F.TIM_STATUS_SERVO ≠ 1 ∧ s.rd F.TIM_STATUS_SERVO ≠ 2) ∨ s.syncsSince s.tim.lastFed (s.rd F.TIM_SERVO3_HOLD_TMO) = false)) ∧
    (∃ (s : State), s.Live ∧ s.tim.upstream.isSome = true ∧ s.syncsSince s.tim.firstSync 3 = true) ∧
    (∃ (m : Nat) (s : State), s.Live ∧ s.tim.ptp.parent = some m) ∧
    (∃ (s : State), s.Live ∧ s.tim.ptp.parent = none) :=
  ⟨⟨.bar0, { State.reset with tim := { counter := 0x123456789ABCDEF01234567 } }, by decide +kernel⟩,
    ⟨{ ((State.reset.wr F.TIM_CTL_ROLE 1).wr F.TIM_SET_NS_NS 999999999).wr (F.TLY_Sn_CFG_EN 3) 1 with tly := [(3, { ownPos := 7 })] }, by decide +kernel⟩,
    ⟨State.reset, by decide +kernel⟩,
    ⟨(State.reset.wr F.TIM_CTL_ROLE 1).wr F.TIM_SET_NS_NS 1000000000, by decide +kernel⟩,
    ⟨{ State.reset.wr F.TIM_STATUS_SERVO 2 with tim := { freqs := [10, 20, 30] } }, by decide +kernel⟩,
    ⟨State.reset, by decide +kernel⟩,
    ⟨{ State.reset with tim := { upstream := some true } }, by decide +kernel⟩,
    ⟨7, { State.reset with tim := { ptp := { parent := some 7 } } }, by decide +kernel⟩,
    ⟨State.reset, by decide +kernel⟩⟩

theorem witness_LinkDelays :
    (∃ (port : Fin 7) (s : State), s.Live ∧ portDown s port = false) ∧
    (∃ (port : Fin 7) (reqSeq : BitVec 16) (s : State), s.Live ∧ portDown s port = true) ∧
    (∃ (port : Fin 7) (reqSeq : BitVec 16) (s : State), s.Live ∧ portDown s port = false) ∧
    (∃ (port : Fin 7) (payload : List Byte) (s : State), s.Live ∧ (∀ a ∈ (s.tim.delays.getD port.val {}).asked, a.1 ≠ leAt (payload.map BitVec.toNat) 0 2)) ∧
    (∃ (port : Fin 7) (payload : List Byte) (q t1 : Nat) (d : DelayPort) (s : State), s.Live ∧ s.tim.delays.getD port.val {} = d ∧ d.asked.find? (fun a => a.1 == leAt (payload.map BitVec.toNat) 0 2) = some (q, t1) ∧ us16 10 < (ofFt96 (leAt (payload.map BitVec.toNat) 16 12) : Int) - ofFt96 (leAt (payload.map BitVec.toNat) 4 12)) ∧
    (∃ (port : Fin 7) (payload : List Byte) (q t1 v : Nat) (t2 t3 : Int) (d : DelayPort) (s : State), s.Live ∧ s.tim.delays.getD port.val {} = d ∧ d.asked.find? (fun a => a.1 == leAt (payload.map BitVec.toNat) 0 2) = some (q, t1) ∧ s.now ≤ t1 + us16 1000 ∧ ft96Valid (leAt (payload.map BitVec.toNat) 4 12) = true ∧ ft96Valid (leAt (payload.map BitVec.toNat) 16 12) = true ∧ ofFt96 (leAt (payload.map BitVec.toNat) 4 12) = t2 ∧ ofFt96 (leAt (payload.map BitVec.toNat) 16 12) = t3 ∧ t3 - t2 ≤ us16 10 ∧ roundDiv (((s.now : Int) - 256 * toSigned 32 (s.rd (F.TIM_Pn_RXCOR_RXCOR port)) - t1) - (t3 - t2)) 2 = v ∧ v ≤ us16 500) ∧
    (∃ (port : Fin 7) (q t1 : Nat) (l : List (Nat × Nat)) (d : DelayPort) (s : State), s.Live ∧ s.tim.delays.getD port.val {} = d ∧ d.asked = (q, t1) :: l ∧ t1 + us16 1000 ≤ s.now) ∧
    (∃ (port : Fin 7) (s : State), s.Live ∧ (∀ a ∈ (s.tim.delays.getD port.val {}).asked.head?, s.now < a.2 + us16 1000)) :=
  ⟨⟨2, (State.reset.wr (F.CRL_Pp_STATUS_STATE 2) 3), by decide +kernel⟩,
    ⟨2, 5, State.reset, by decide +kernel⟩,
    ⟨2, 5, (State.reset.wr (F.CRL_Pp_STATUS_STATE 2) 3), by decide +kernel⟩,
    ⟨1, [], State.reset, by decide +kernel⟩,
    ⟨1, (leBytes 2 7 ++ [0, 0] ++ leBytes 12 0 ++ leBytes 12 (ft96 (us16 20))).map (BitVec.ofNat 8), 7, 0, { asked := [(7, 0)] }, { State.reset with tim := { delays := [(1, { asked := [(7, 0)] })] } }, by decide +kernel⟩,
    ⟨1, (leBytes 2 7 ++ [0, 0] ++ leBytes 12 (ft96 (us16 5)) ++ leBytes 12 (ft96 (us16 15))).map (BitVec.ofNat 8), 7, 0, us16 5, us16 5, us16 15, { asked := [(7, 0)], bad := 3 }, { State.reset with tim := { delays := [(1, { asked := [(7, 0)], bad := 3 })], counter := us16 20 * 65536 } }, by decide +kernel⟩,
    ⟨1, 7, 0, [], { asked := [(7, 0)], bad := 2 }, { State.reset with tim := { delays := [(1, { asked := [(7, 0)], bad := 2 })], counter := us16 1000 * 65536 } }, by decide +kernel⟩,
    ⟨1, State.reset, by decide +kernel⟩⟩

theorem witness_SyncsAndServo :
    (∃ (s : State), s.Live ∧ s.almInForce = true ∧ s.rd F.TIM_CTL_ROLE ≠ 0 ∧ s.ringHub = true ∧ s.wrapE = false ∧ s.wrapW = false) ∧
    (∃ (port : Fin 8) (payload : List Byte) (corr : Int) (s : State), s.Live ∧ s.almInForce = true ∧ s.rd F.TIM_CTL_ROLE ≠ 0) ∧
    (∃ (payload : List Byte) (corr : Int) (s : State), s.Live ∧ s.almInForce = true ∧ s.rd F.TIM_CTL_ROLE = 0 ∧ s.ringHub = true ∧ s.rd (F.TIM_Pn_STAT_INVALID 1) = 0 ∧ ft96Valid (leAt (payload.map BitVec.toNat) 0 12) = true ∧ s.tim.upstream = some false) ∧
    (∃ (m : PtpMessage) (s : State), s.Live ∧ m.body = .management) ∧
    (∃ (m : PtpMessage) (s : State), s.Live ∧ m.body ≠ .management ∧ s.ptpTakes m = false) ∧
    (∃ (m : PtpMessage) (origin : BitVec 96) (corr d : Int) (s : State), s.Live ∧ m.body = .sync false origin corr ∧ s.ptpTakes m = true ∧ s.tim.ptp.parent = some m.source.toNat ∧ s.tim.ptp.delay = some d ∧ ft96Valid origin.toNat = true ∧ s.rd F.TIM_CTL_SOURCE = 1) ∧
    (∃ (m : PtpMessage) (d : PtpDataset) (utc : BitVec 16) (s : State), s.Live ∧ m.body = .announce d utc ∧ s.ptpTakes m = true ∧ d.steps.toNat < 255 ∧ m.source.toNat / 2 ^ 16 ≠ s.serial ∧ s.rd F.TIM_CTL_SOURCE = 2 ∧ s.tim.ptp.masters = [] ∧ s.tim.ptp.parent ≠ some m.source.toNat) :=
  ⟨⟨[0, 1, 2, 3].foldl (fun (s : State) p => s.wr (F.CRL_Pp_STATUS_STATE p) 3) (((State.reset.wr F.TIM_CTL_ROLE 1).wr F.CRL_CTL_RING_EN 1).wr F.GLB_HEALTH_ALM_OK 1), by decide +kernel⟩,
    ⟨1, [], 0, (State.reset.wr F.TIM_CTL_ROLE 1).wr F.GLB_HEALTH_ALM_OK 1, by decide +kernel⟩,
    ⟨(leBytes 12 (ft96 100000) ++ leBytes 8 0x1122334455667788 ++ [7, 0, 3, 0, 37, 0, 1, 0, 0, 0, 0, 0]).map (BitVec.ofNat 8), 50, { ((State.reset.wr F.CRL_CTL_RING_EN 1).wr F.GLB_HEALTH_ALM_OK 1).wr (F.TIM_Pn_STAT_INVALID 1) 0 with tim := { upstream := some false, counter := 70000000000000 } }, by decide +kernel⟩,
    ⟨⟨false, true, 0, 5, 0, .management⟩, State.reset, by decide +kernel⟩,
    ⟨⟨false, true, 0, 5, 0, .other⟩, State.reset, by decide +kernel⟩,
    ⟨⟨false, false, 0, 9, 4, .sync false 0x10000 5⟩, 0x10000, 5, 100, { (((((State.reset.wr F.TIM_CTL_ROLE 1).wr F.TIM_CTL_SOURCE 1).wr F.GLB_HEALTH_ALM_OK 1).wr (F.STT_Pk_STATUS_STATE 3) 3)) with tim := { counter := 700000000000, ptp := { parent := some 9, delay := some 100 } } }, by decide +kernel⟩,
    ⟨⟨true, false, 0, 2 ^ 16 * 3 + 1, 4, .announce ⟨128, 6, 0x21, 0x4E5D, 128, 77, 0⟩ 37⟩, ⟨128, 6, 0x21, 0x4E5D, 128, 77, 0⟩, 37, ((((State.reset.wr F.TIM_CTL_ROLE 1).wr F.TIM_CTL_SOURCE 2).wr F.GLB_HEALTH_ALM_OK 1).wr (F.STT_Pk_STATUS_STATE 3) 3), by decide +kernel⟩⟩

theorem witness_TallySamples :
    (∃ (slot : Fin 32) (x : TallySlot) (f : NextFit) (s : State), s.Live ∧ s.tly.getD slot.val {} = x ∧ x.next = some f ∧ f.state < 8) ∧
    (∃ (slot : Fin 32) (s : State), s.Live ∧ (s.tly.getD slot.val {}).next = none) ∧
    (∃ (payload : List Byte) (s : State), s.Live ∧ s.slotOf (leAt (payload.map BitVec.toNat) 0 1) = none) ∧
    (∃ (payload : List Byte) (n : Nat) (x : TallySample) (s : State), s.Live ∧ tallySample (payload.map BitVec.toNat) = x ∧ s.slotOf x.id = some n ∧ (s.tly.getD n {}).next = none ∧ x.owner ≠ s.slotOwner n ∧ s.bom.queue.length < 16 ∧ s.cycle = []) ∧
    (∃ (payload : List Byte) (n : Nat) (x : TallySample) (s : State), s.Live ∧ tallySample (payload.map BitVec.toNat) = x ∧ s.slotOf x.id = some n ∧ (s.tly.getD n {}).next = none ∧ x.owner = s.slotOwner n ∧ (ft96Valid x.ts = false ∨ s.now + ns16 50 < x.time) ∧ s.bom.queue.length < 16 ∧ s.cycle = []) ∧
    (∃ (payload : List Byte) (n : Nat) (x : TallySample) (y : TallySlot) (s : State), s.Live ∧ tallySample (payload.map BitVec.toNat) = x ∧ s.slotOf x.id = some n ∧ s.tly.getD n {} = y ∧ y.next = none ∧ y.held = [] ∧ y.refSseq = none ∧ s.rd (F.TLY_Sn_STATE_STATE n) = 0 ∧ x.owner = s.slotOwner n ∧ ft96Valid x.ts = true ∧ x.time ≤ s.now + ns16 50 ∧ s.now ≤ s.tim.cycleStart + us16 (s.rd (F.TLY_Sn_LATE_LATE n)) ∧ x.valid = true) ∧
    (∃ (slot : Fin 32) (x : TallySlot) (s : State), s.Live ∧ s.tly.getD slot.val {} = x ∧ s.bound slot = true ∧ x.next = none ∧ s.tim.cycleStart + us16 (s.rd (F.TLY_Sn_LATE_LATE slot)) ≤ s.now ∧ x.deadlinePassed = false ∧ x.fresh = true) ∧
    (∃ (slot : Fin 32) (x : TallySlot) (s : State), s.Live ∧ s.tly.getD slot.val {} = x ∧ s.bound slot = true ∧ x.next = none ∧ s.tim.cycleStart + us16 (s.rd (F.TLY_Sn_LATE_LATE slot)) ≤ s.now ∧ x.deadlinePassed = false ∧ x.fresh = false ∧ s.rd (F.TLY_Sn_STATE_STATE slot) = 2) ∧
    (∃ (slot : Fin 32) (s : State), s.Live ∧ (s.bound slot = false ∨ s.now < s.tim.cycleStart + us16 (s.rd (F.TLY_Sn_LATE_LATE slot)))) ∧
    (∃ (s : State), s.Live ∧ s.harvestRuns = true) ∧
    (∃ (n : Nat) (s : State), s.Live ∧ s.harvestRuns = false ∧ n < 32 ∧ s.bound n = true) :=
  ⟨⟨3, { next := some ⟨1, none, none, false⟩ }, ⟨1, none, none, false⟩, { State.reset with tly := [(3, { next := some ⟨1, none, none, false⟩ })] }, by decide +kernel⟩,
    ⟨3, State.reset, by decide +kernel⟩,
    ⟨[], State.reset, by decide +kernel⟩,
    ⟨[9, 1, 0, 0, 5, 0].map (BitVec.ofNat 8), 4, { id := 9, flags := 1, sseq := 0, owner := 5, pos := 0, ts := 0 }, (State.reset.wr (F.TLY_Sn_CFG_EN 4) 1).wr (F.TLY_Sn_CFG_TALLY_ID 4) 9, by decide +kernel⟩,
    ⟨([9, 1, 0, 0, 0, 0, 0, 0, 0, 0, 0, 0, 0, 0, 0, 0, 0, 0, 0, 0] ++ leBytes 12 (ft96 (ns16 51))).map (BitVec.ofNat 8), 4, { id := 9, flags := 1, sseq := 0, owner := 0, pos := 0, ts := ft96 (ns16 51) }, (State.reset.wr (F.TLY_Sn_CFG_EN 4) 1).wr (F.TLY_Sn_CFG_TALLY_ID 4) 9, by decide +kernel⟩,
    ⟨([9, 1, 0, 0, 0, 0, 0, 0, 0, 0, 0, 0, 0, 0, 0, 0, 0, 0, 0, 0] ++ leBytes 12 (ft96 (ns16 50))).map (BitVec.ofNat 8), 4, { id := 9, flags := 1, sseq := 0, owner := 0, pos := 0, ts := ft96 (ns16 50) }, {}, (State.reset.wr (F.TLY_Sn_CFG_EN 4) 1).wr (F.TLY_Sn_CFG_TALLY_ID 4) 9, by decide +kernel⟩,
    ⟨2, { fresh := true }, { (State.reset.wr (F.TLY_Sn_CFG_EN 2) 1).wr (F.TLY_Sn_LATE_LATE 2) 0 with tly := [(2, { fresh := true })] }, by decide +kernel⟩,
    ⟨2, {}, (((State.reset.wr (F.TLY_Sn_CFG_EN 2) 1).wr (F.TLY_Sn_LATE_LATE 2) 0).wr (F.TLY_Sn_STATE_STATE 2) 2), by decide +kernel⟩,
    ⟨2, State.reset, by decide +kernel⟩,
    ⟨(State.reset.wr F.CRL_STATUS_HV_RUN 1).wr F.CRL_STATUS_ADMITTED 1, by decide +kernel⟩,
    ⟨3, { ((State.reset.wr (F.TLY_Sn_CFG_EN 3) 1).wr (F.TLY_Sn_CFG_OWNER 3) 1).wr (F.TLY_Sn_CFG_SRC 3) 5 with tim := { counter := 70000000000000 }, tly := [(3, {vspeed := 4000000})] }, by decide +kernel⟩⟩

theorem witness_TallyQueries :
    (∃ (init : Initiator) (slot : Fin 32) (s : State), s.Live) ∧
    (∃ (init : Initiator) (slot : Fin 32) (dir : Fin 4) (s : State), s.Live) ∧
    (∃ (bank : Fin 3) (q : Query) (s : State), s.Live ∧ s.queries.get? bank.val = some q ∧ s.bound q.slot = false) ∧
    (∃ (bank : Fin 3) (q : Query) (s : State), s.Live ∧ s.queries.get? bank.val = some q ∧ s.bound q.slot = true ∧ q.op = 3 ∧ s.rd (F.TLY_Sn_STATE_STATE q.slot) = 0) ∧
    (∃ (bank : Fin 3) (q : Query) (f : Fit) (s : State), s.Live ∧ s.queries.get? bank.val = some q ∧ s.bound q.slot = true ∧ q.op = 1 ∧ ft96Valid q.arg = true ∧ s.rd (F.TLY_Sn_STATE_STATE q.slot) = 2 ∧ (s.tly.getD q.slot {}).fit = some f) ∧
    (∃ (bank : Fin 3) (q : Query) (f : Fit) (s : State), s.Live ∧ s.queries.get? bank.val = some q ∧ s.bound q.slot = true ∧ q.op = 3 ∧ s.rd (F.TLY_Sn_STATE_STATE q.slot) = 2 ∧ (s.tly.getD q.slot {}).fit = some f) ∧
    (∃ (bank : Fin 3) (q : Query) (f : Fit) (s : State), s.Live ∧ s.queries.get? bank.val = some q ∧ s.bound q.slot = true ∧ q.op = 2 ∧ q.dir ≠ 3 ∧ s.rd (F.TLY_Sn_STATE_STATE q.slot) = 2 ∧ (s.tly.getD q.slot {}).fit = some f) ∧
    (∃ (bank : Fin 3) (s : State), s.Live ∧ s.queries.get? bank.val = none) :=
  ⟨⟨.dma, 31, State.reset, by decide +kernel⟩,
    ⟨.bar0, 31, 2, State.reset, by decide +kernel⟩,
    ⟨1, ⟨1, 2, 0, 0⟩, { State.reset with queries := [(1, ⟨1, 2, 0, 0⟩)] }, by decide +kernel⟩,
    ⟨1, ⟨3, 2, 0, 0⟩, { State.reset.wr (F.TLY_Sn_CFG_EN 2) 1 with queries := [(1, ⟨3, 2, 0, 0⟩)] }, by decide +kernel⟩,
    ⟨1, ⟨1, 2, 0, 0⟩, ⟨0, 5, 0, 0⟩, { (State.reset.wr (F.TLY_Sn_CFG_EN 2) 1).wr (F.TLY_Sn_STATE_STATE 2) 2 with queries := [(1, ⟨1, 2, 0, 0⟩)], tly := [(2, { fit := some ⟨0, 5, 0, 0⟩ })] }, by decide +kernel⟩,
    ⟨1, ⟨3, 2, 0, 0⟩, ⟨9, 5, 3, -1⟩, { (State.reset.wr (F.TLY_Sn_CFG_EN 2) 1).wr (F.TLY_Sn_STATE_STATE 2) 2 with queries := [(1, ⟨3, 2, 0, 0⟩)], tly := [(2, { fit := some ⟨9, 5, 3, -1⟩ })] }, by decide +kernel⟩,
    ⟨1, ⟨2, 2, 0, 5⟩, ⟨0, 5, 0, 0⟩, { (State.reset.wr (F.TLY_Sn_CFG_EN 2) 1).wr (F.TLY_Sn_STATE_STATE 2) 2 with queries := [(1, ⟨2, 2, 0, 5⟩)], tly := [(2, { fit := some ⟨0, 5, 0, 0⟩ })] }, by decide +kernel⟩,
    ⟨1, State.reset, by decide +kernel⟩⟩

theorem witness_CalendarWrites :
    (∃ (init : Initiator) (off : BitVec 18) (data : List Byte) (e : CalEntry) (s : State), s.Live ∧ calForm off.toNat data.length true = true ∧ s.ent (off.toNat / 32) = e ∧ (e.live = false ∨ 0x1A ≤ off.toNat % 32)) ∧
    (∃ (init : Initiator) (off : BitVec 18) (data : List Byte) (e : CalEntry) (s : State), s.Live ∧ s.ent (off.toNat / 32) = e ∧ e.live = false ∧ off.toNat % 32 = 0 ∧ data.length = 32) ∧
    (∃ (init : Initiator) (off : BitVec 18) (data : List Byte) (enabled : Bool) (s : State), s.Live ∧ calForm off.toNat data.length enabled = false) ∧
    (∃ (init : Initiator) (off : BitVec 18) (data : List Byte) (s : State), s.Live ∧ calForm off.toNat data.length true = true ∧ (s.sch.entries.getD (off.toNat / 32) {}).live = true ∧ off.toNat % 32 < 0x1A) :=
  ⟨⟨.bar0, 0x48, [1, 2, 3, 4], {}, State.reset, by decide +kernel⟩,
    ⟨.bar0, 0x40, (List.range 32).map (BitVec.ofNat 8), {}, State.reset, by decide +kernel⟩,
    ⟨.bar0, 0x3C, [1, 2, 3, 4, 5, 6, 7, 8], true, State.reset, by decide +kernel⟩,
    ⟨.yarder, 0x58, [1, 2, 3, 4], { State.reset with sch := { entries := [(2, { state := 2 })] } }, by decide +kernel⟩⟩

theorem witness_CalendarCommands :
    (∃ (init : Initiator) (index : Fin 8192) (e : CalEntry) (s : State), s.Live ∧ s.sch.banks.getD (bankOf init) [] = [] ∧ s.ent index.val = e ∧ s.armCode index.val e = 0 ∧ e.tally = false ∧ s.now + s.window e < s.triggerTime e.trigger) ∧
    (∃ (init : Initiator) (index : Fin 8192) (s : State), s.Live ∧ s.sch.banks.getD (bankOf init) [] = [] ∧ (s.ent index.val).live = true) ∧
    (∃ (init : Initiator) (index : Fin 8192) (e : CalEntry) (s : State), s.Live ∧ s.sch.banks.getD (bankOf init) [] = [] ∧ s.ent index.val = e ∧ (e.state = 1 ∨ e.state = 2 ∨ (e.state = 3 ∧ s.clk < e.dueClk) ∨ (e.state = 5 ∧ s.marked (.entryFired index.val) = false))) ∧
    (∃ (init : Initiator) (index : Fin 8192) (e : CalEntry) (s : State), s.Live ∧ s.sch.banks.getD (bankOf init) [] = [] ∧ s.ent index.val = e ∧ e.state = 4 ∧ e.kind = 1 ∧ s.clk < e.trailClk) ∧
    (∃ (init : Initiator) (index : Fin 8192) (s : State), s.Live ∧ s.sch.banks.getD (bankOf init) [] = [] ∧ (s.ent index.val).live = false) ∧
    (∃ (bank : Fin 3) (op i c : Nat) (s : State), s.Live ∧ s.sch.banks.getD bank.val [] = [(op, i, some c)]) ∧
    (∃ (bank : Fin 3) (x : Nat × Nat × Option Nat) (op i : Nat) (c : Option Nat) (l : List (Nat × Nat × Option Nat)) (s : State), s.Live ∧ s.sch.banks.getD bank.val [] = x :: (op, i, c) :: l) ∧
    (∃ (bank : Fin 3) (s : State), s.Live ∧ s.sch.banks.getD bank.val [] = []) ∧
    (∃ (groups : Word) (s : State), s.Live ∧ (∀ i ∈ s.calIndexes, (s.ent i).inGroup groups.toNat = true → (s.ent i).live = true → (s.ent i).state < 3 ∨ ((s.ent i).state = 3 ∧ s.clk < (s.ent i).dueClk) ∨ ((s.ent i).state = 4 ∧ s.clk < (s.ent i).trailClk) ∨ ((s.ent i).state = 5 ∧ s.marked (.entryFired i) = false))) :=
  ⟨⟨.bar0, 5, { trigger := 65536000000, target := 0x1003, ctrl := 1 }, { ((State.reset.wr F.GLB_HEALTH_ALM_OK 1).wr (F.PSL_FLn_CFG_DIR 3) 1).wr (F.SCH_PARTn_SIZE 0) 100 with sch := { entries := [(5, { trigger := 65536000000, target := 0x1003, ctrl := 1 })] } }, by decide +kernel⟩,
    ⟨.bar0, 5, { State.reset with sch := { entries := [(5, { state := 1 })] } }, by decide +kernel⟩,
    ⟨.bar0, 5, { state := 3, dueClk := 1 }, { State.reset with sch := { entries := [(5, { state := 3, dueClk := 1 })] } }, by decide +kernel⟩,
    ⟨.bar0, 5, { state := 4, target := 0x1003, trailClk := 1 }, { State.reset.wr F.PSL_FL_OUT_LINES 8 with sch := { entries := [(5, { state := 4, target := 0x1003, trailClk := 1 })] } }, by decide +kernel⟩,
    ⟨.bar0, 5, State.reset, by decide +kernel⟩,
    ⟨2, 1, 5, 0x0602, { State.reset with sch := { banks := [(2, [(1, 5, some 0x0602)])] } }, by decide +kernel⟩,
    ⟨2, (1, 5, some 0x0602), 2, 6, none, [], { State.reset with sch := { banks := [(2, [(1, 5, some 0x0602), (2, 6, none)])] } }, by decide +kernel⟩,
    ⟨2, State.reset, by decide +kernel⟩,
    ⟨2, { State.reset with sch := { entries := [(4, { state := 2, group := 0x81 }), (5, { state := 2, group := 0x82 })] } }, by decide +kernel⟩⟩

theorem witness_CalendarEvents :
    (∃ (index : Fin 8192) (e : CalEntry) (s : State), s.Live ∧ s.ent index.val = e ∧ e.state = 2 ∧ e.kind = 1 ∧ e.action ≠ 3 ∧ e.inst ≤ s.now + s.window e ∧ s.now + ns16 100 ≤ e.inst ∧ s.twinIdle = false ∧ s.edges e.target + 1 ≤ 8) ∧
    (∃ (index : Fin 8192) (e : CalEntry) (s : State), s.Live ∧ s.ent index.val = e ∧ e.state = 2 ∧ e.kind = 1 ∧ e.action ≠ 3 ∧ e.inst ≤ s.now + s.window e ∧ s.now + ns16 100 ≤ e.inst ∧ s.twinIdle = false ∧ 8 < s.edges e.target + 1) ∧
    (∃ (index : Fin 8192) (e : CalEntry) (s : State), s.Live ∧ s.ent index.val = e ∧ e.state = 2 ∧ e.kind = 2 ∧ e.inst ≤ s.now + s.window e ∧ s.twinIdle = false ∧ s.feedSeen (e.unit / 8) = false ∧ s.now + ns16 400 ≤ e.inst) ∧
    (∃ (index : Fin 8192) (e : CalEntry) (s : State), s.Live ∧ s.ent index.val = e ∧ e.state = 2 ∧ 3 ≤ e.kind ∧ e.inst ≤ s.now + s.window e ∧ s.now + ns16 100 ≤ e.inst ∧ s.twinIdle = false) ∧
    (∃ (index : Fin 8192) (s : State), s.Live ∧ ((s.ent index.val).state ≠ 2 ∨ s.now + s.window (s.ent index.val) < (s.ent index.val).inst ∨ s.twinIdle = true)) ∧
    (∃ (index : Fin 8192) (e : CalEntry) (s : State), s.Live ∧ s.ent index.val = e ∧ e.state = 3 ∧ e.kind = 1 ∧ e.unit < 32 ∧ 1 ≤ e.action ∧ e.action ≤ 4 ∧ e.dropped = false ∧ e.dueClk ≤ s.clk ∧ s.twinIdle = false ∧ s.fastForced e.unit = false ∧ s.mergesAway e e.inst = false ∧ (s.edgesOf e.target).filter (fun x => edgeBefore x (e.dueClk, e.inst, index.val)) = []) ∧
    (∃ (index : Fin 8192) (e : CalEntry) (s : State), s.Live ∧ s.ent index.val = e ∧ e.state = 3 ∧ e.kind = 1 ∧ (e.action = 1 ∨ e.action = 2 ∨ e.action = 4) ∧ e.dropped = false ∧ e.dueClk ≤ s.clk ∧ s.twinIdle = false ∧ bit e.flags 2 = false ∧ s.fastForced e.unit = true ∧ s.mergesAway e e.inst = false ∧ (s.edgesOf e.target).filter (fun x => edgeBefore x (e.dueClk, e.inst, index.val)) = []) ∧
    (∃ (index : Fin 8192) (e : CalEntry) (s : State), s.Live ∧ s.ent index.val = e ∧ e.state = 3 ∧ e.kind = 2 ∧ (e.action = 1 ∨ e.action = 2 ∨ e.action = 4) ∧ e.dropped = false ∧ e.dueClk ≤ s.clk ∧ s.twinIdle = false ∧ bit e.flags 2 = false ∧ s.bankForced (e.unit / 8) = false ∧ s.feedSeen (e.unit / 8) = true ∧ s.rd (F.FLD_Bb_CFG_KSTATE (e.unit / 8)) = 0 ∧ s.rd (F.FLD_Ln_CFG_MODE e.unit) = 3 ∧ (s.edgesOf e.target).filter (fun x => edgeBefore x (e.dueClk, e.inst, index.val)) = []) ∧
    (∃ (index : Fin 8192) (e : CalEntry) (b : BufFrame) (s : State), s.Live ∧ s.ent index.val = e ∧ e.state = 3 ∧ e.kind = 4 ∧ e.action = 5 ∧ e.dueClk ≤ s.clk ∧ s.twinIdle = false ∧ bit e.flags 2 = false ∧ s.lqHead e.unit = some b) ∧
    (∃ (index : Fin 8192) (e : CalEntry) (s : State), s.Live ∧ s.ent index.val = e ∧ e.state = 3 ∧ e.kind = 4 ∧ e.action = 5 ∧ e.dueClk ≤ s.clk ∧ s.twinIdle = false ∧ bit e.flags 2 = false ∧ s.lqHead e.unit = none) ∧
    (∃ (index : Fin 8192) (s : State), s.Live ∧ ((s.ent index.val).state ≠ 3 ∨ s.clk < (s.ent index.val).dueClk ∨ s.twinIdle = true)) ∧
    (∃ (index : Fin 8192) (e : CalEntry) (s : State), s.Live ∧ s.ent index.val = e ∧ e.state = 4 ∧ e.kind = 1 ∧ e.unit < 32 ∧ e.dropped = false ∧ e.trailClk ≤ s.clk ∧ s.twinIdle = false ∧ s.fastForced e.unit = false ∧ s.mergesAway e (e.inst + ns16 e.param) = false ∧ (s.edgesOf e.target).filter (fun x => edgeBefore x (e.trailClk, e.inst + ns16 e.param, index.val)) = []) ∧
    (∃ (index : Fin 8192) (s : State), s.Live ∧ ((s.ent index.val).state ≠ 4 ∨ s.clk < (s.ent index.val).trailClk ∨ s.twinIdle = true)) ∧
    (∃ (index : Fin 8192) (e : CalEntry) (s : State), s.Live ∧ s.ent index.val = e ∧ (e.state = 1 ∨ e.state = 2) ∧ e.tally = true ∧ e.expiry ≠ 0 ∧ e.armed + us16 e.expiry ≤ s.now ∧ s.twinIdle = false) :=
  ⟨⟨5, { state := 2, target := 0x1003, ctrl := 1, inst := 6553600 }, { State.reset with sch := { entries := [(5, { state := 2, target := 0x1003, ctrl := 1, inst := 6553600 })] } }, by decide +kernel⟩,
    ⟨5, { state := 2, target := 0x1003, ctrl := 1, inst := 6553600 }, { State.reset with sch := { entries := (5, { state := 2, target := 0x1003, ctrl := 1, inst := 6553600 }) :: (List.range 8).map (fun k => (k + 10, { state := 3, target := 0x1003, ctrl := 1 })) } }, by decide +kernel⟩,
    ⟨5, { state := 2, target := 0x2003, ctrl := 1, inst := 26214400 }, { State.reset with sch := { entries := [(5, { state := 2, target := 0x2003, ctrl := 1, inst := 26214400 })] } }, by decide +kernel⟩,
    ⟨5, { state := 2, target := 0x4003, ctrl := 5, inst := 6553600 }, { State.reset with sch := { entries := [(5, { state := 2, target := 0x4003, ctrl := 5, inst := 6553600 })] } }, by decide +kernel⟩,
    ⟨5, State.reset, by decide +kernel⟩,
    ⟨5, { state := 3, target := 0x1003, ctrl := 3, dueClk := 9, param := 8 }, { State.reset with clk := 9, sch := { entries := [(5, { state := 3, target := 0x1003, ctrl := 3, dueClk := 9, param := 8 })] } }, by decide +kernel⟩,
    ⟨5, { state := 3, target := 0x1003, ctrl := 1, dueClk := 9 }, { (((State.reset.wr F.SLC_OUTMODE0_MODE 0x80).wr (F.SLC_Oo_M0_MASK 3) 1)) with clk := 9, sch := { entries := [(5, { state := 3, target := 0x1003, ctrl := 1, dueClk := 9 })] } }, by decide +kernel⟩,
    ⟨5, { state := 3, target := 0x2003, ctrl := 4, dueClk := 9 }, { ((((State.reset.wr F.FLD_STATUS_LINK 1).wr (F.CHK_Fn_STATUS_PG 0) 1).wr (F.FLD_Bb_CFG_KSTATE 0) 0).wr (F.FLD_Ln_CFG_MODE 3) 3) with clk := 9, sch := { entries := [(5, { state := 3, target := 0x2003, ctrl := 4, dueClk := 9 })] } }, by decide +kernel⟩,
    ⟨5, { state := 3, target := 0x4003, ctrl := 5, dueClk := 9 }, { id := 7, inPort := 8, outs := [2], frame := { typ := 3, tc := 5, dest := 1 }, cells := 1, guar := 1, lq := some 3 }, { State.reset with clk := 9, swc := { frames := [{ id := 7, inPort := 8, outs := [2], frame := { typ := 3, tc := 5, dest := 1 }, cells := 1, guar := 1, lq := some 3 }] }, sch := { entries := [(5, { state := 3, target := 0x4003, ctrl := 5, dueClk := 9 })] } }, by decide +kernel⟩,
    ⟨5, { state := 3, target := 0x4003, ctrl := 5, dueClk := 9 }, { State.reset with clk := 9, sch := { entries := [(5, { state := 3, target := 0x4003, ctrl := 5, dueClk := 9 })] } }, by decide +kernel⟩,
    ⟨5, State.reset, by decide +kernel⟩,
    ⟨5, { state := 4, target := 0x1003, ctrl := 3, trailClk := 9, param := 8 }, { State.reset.wr F.PSL_FL_OUT_LINES 8 with clk := 9, sch := { entries := [(5, { state := 4, target := 0x1003, ctrl := 3, trailClk := 9, param := 8 })] } }, by decide +kernel⟩,
    ⟨5, State.reset, by decide +kernel⟩,
    ⟨5, { state := 1, ctrl := 0x40, expiry := 1 }, { State.reset with tim := { counter := 70000000000000 }, sch := { entries := [(5, { state := 1, ctrl := 0x40, expiry := 1 })] } }, by decide +kernel⟩⟩

theorem witness_SluiceCommands :
    (∃ (line : Fin 32) (level : Bool) (s : State), s.Live ∧ (level = false ∨ bit (s.rd F.PSL_FL_IN_LINES) line.val = true ∨ s.rd (F.PSL_FLn_CFG_DIR line) ≠ 0)) ∧
    (∃ (line : Fin 32) (s : State), s.Live ∧ bit (s.rd F.PSL_FL_IN_LINES) line.val = false ∧ s.rd (F.PSL_FLn_CFG_DIR line) = 0) ∧
    (∃ (event : Fin 32) (s : State), s.Live ∧ (bit s.slc.events event.val = true ∨ s.eventTerm event.val = false)) ∧
    (∃ (event : Fin 32) (s : State), s.Live ∧ bit s.slc.events event.val = false ∧ s.eventTerm event.val = true ∧ (∀ i ∈ s.calIndexes, (s.ent i).inGroup (s.rd (F.SLC_Ee_GRP_GRP event)) = true → (s.ent i).live = true → (s.ent i).state < 3 ∨ ((s.ent i).state = 3 ∧ s.clk < (s.ent i).dueClk) ∨ ((s.ent i).state = 4 ∧ s.clk < (s.ent i).trailClk) ∨ ((s.ent i).state = 5 ∧ s.marked (.entryFired i) = false))) ∧
    (∃ (event : Fin 32) (s : State), s.Live ∧ bit s.slc.events event.val = true ∧ s.eventTerm event.val = false) ∧
    (∃ (events : Word) (s : State), s.Live) ∧
    (∃ (s : State), s.Live) ∧
    (∃ (f : Fld) (v : Nat) (s : State), s.Live ∧ s.slc.staged = [(f.key, (f.rst, v))] ∧ v < 2 ^ 32 ∧ f.lo < 32 ∧ f.key / 0x200000 = 7 ∧ f.key ≠ F.SLC_CTL_HOLD.key) ∧
    (∃ (s : State), s.Live ∧ (∀ c : Nat, s.slc.imageClk = some c → c + usClk (s.rd F.SLC_HWD_TMO) ≤ s.clk)) ∧
    (∃ (c : Nat) (s : State), s.Live ∧ s.slc.imageClk = some c ∧ s.clk < c + usClk (s.rd F.SLC_HWD_TMO)) :=
  ⟨⟨31, false, State.reset.wr F.PSL_FL_IN_LINES 0x80000000, by decide +kernel⟩,
    ⟨31, State.reset, by decide +kernel⟩,
    ⟨3, State.reset, by decide +kernel⟩,
    ⟨3, { (([0, 1].foldl (fun (s : State) k => s.wr (F.SLC_Tt_TRUE_LO_MASK k) 0) State.reset).wr (F.SLC_Ee_M0_MASK 3) 1).wr (F.SLC_Ee_GRP_GRP 3) 2 with sch := { entries := [(4, { state := 2, group := 0x81 }), (5, { state := 2, group := 0x82 })] } }, by decide +kernel⟩,
    ⟨3, { State.reset with slc := { events := 9 } }, by decide +kernel⟩,
    ⟨0xFF, { State.reset with slc := { events := 9, latched := 0xFFF } }, by decide +kernel⟩,
    ⟨{ State.reset.wr F.SLC_CTL_HOLD 1 with slc := { staged := [(F.SLC_OUTMODE0_MODE.key, (0, 5))] } }, by decide +kernel⟩,
    ⟨F.SLC_OUTMODE0_MODE, 5, { State.reset.wr F.SLC_CTL_HOLD 1 with slc := { staged := [(F.SLC_OUTMODE0_MODE.key, (0, 5))] } }, by decide +kernel⟩,
    ⟨{ State.reset with slc := { watchdog := false } }, ⟨by decide +kernel, by intro c h; cases h⟩⟩,
    ⟨1, { State.reset.wr F.SLC_HWD_TMO 100 with slc := { watchdog := false, imageClk := some 1 } }, by decide +kernel⟩⟩

theorem witness_HvLinkAndKeepers :
    (∃ (lanes : Fin 5) (s : State), s.Live ∧ s.hvLink = true) ∧
    (∃ (lanes : Fin 5) (s : State), s.Live ∧ 2 ≤ lanes.val ∧ s.chk.hvRunning = true ∧ s.hvLink = false ∧ s.fld.late = []) ∧
    (∃ (lanes : Fin 5) (s : State), s.Live ∧ s.hvLink = true) ∧
    (∃ (lanes : Fin 5) (s : State), s.Live ∧ s.hvLink = false) ∧
    (∃ (s : State), s.Live ∧ s.role = 0) ∧
    (∃ (s : State), s.Live) ∧
    (∃ (bank : Fin 16) (s : State), s.Live ∧ s.rd (F.FLD_Bb_CFG_KSTATE bank) = 1) ∧
    (∃ (bank : Fin 16) (s : State), s.Live ∧ s.rd (F.FLD_Bb_CFG_KSTATE bank) ≠ 0 ∧ s.role ≠ roleFenced ∧ s.hvLink = true ∧ s.rd F.FLD_STATUS_FW_OK ≠ 0 ∧ bit s.fld.applied bank.val = true ∧ s.rd F.FLD_STATUS_FENCE = 0) ∧
    (∃ (s : State), s.Live) ∧
    (∃ (s : State), s.Live ∧ s.chk.hvRunning = false) :=
  ⟨⟨1, { ((State.reset.wr F.FLD_STATUS_LINK 1).wr (F.FLD_Bb_CFG_KSTATE 2) 0) with chk := { hvRunning := true } }, by decide +kernel⟩,
    ⟨2, { State.reset with chk := { hvRunning := true } }, by decide +kernel⟩,
    ⟨2, State.reset.wr F.FLD_STATUS_LINK 1, by decide +kernel⟩,
    ⟨1, State.reset, by decide +kernel⟩,
    ⟨(State.reset.wr (F.FLD_Bb_CFG_KSTATE 2) 0).wr F.STT_STATUS_ROLE 0, by decide +kernel⟩,
    ⟨State.reset.wr F.FLD_STATUS_FENCE 1, by decide +kernel⟩,
    ⟨2, (State.reset.wr (F.FLD_Bb_CFG_KSTATE 2) 1), by decide +kernel⟩,
    ⟨2, { ((((State.reset.wr (F.FLD_Bb_CFG_KSTATE 2) 1).wr F.FLD_STATUS_LINK 1).wr F.FLD_STATUS_FW_OK 1).wr F.FLD_STATUS_FENCE 0).wr (F.FLD_Ln_CFG_MODE 17) 3 with fld := { applied := 0xFFFF, lines := [(17, { held := true })] } }, by decide +kernel⟩,
    ⟨{ State.reset.wr (F.FLD_Bb_CFG_KSTATE 2) 1 with chk := { hvRunning := true } }, by decide +kernel⟩,
    ⟨((((State.reset.wr (F.CHK_Fn_STATUS_FITTED 3) 1).wr (F.FLD_Bb_CFG_BEN 3) 1).wr (F.CHK_Fn_CTL_EN 3) 1).wr (F.CHK_Fn_STATUS_STATE 3) 0), by decide +kernel⟩⟩

theorem witness_LineCells :
    (∃ (line : Fin 128) (level : Bool) (s : State), s.Live ∧ s.lineInput line = true) ∧
    (∃ (line : Fin 128) (level : Bool) (s : State), s.Live) ∧
    (∃ (line : Fin 128) (s : State), s.Live ∧ s.lineInput line = true ∧ s.rd (F.FLD_Ln_CFG_WB_EN line) ≠ 0) ∧
    (∃ (line : Fin 128) (s : State), s.Live ∧ s.lineInput line = true) ∧
    (∃ (line : Fin 128) (l : FldLine) (s : State), s.Live ∧ s.line line = l ∧ s.rd (F.FLD_Ln_CFG_MODE line) = 5 ∧ (l.crossClk = none ∨ ∃ c, l.crossClk = some c ∧ c ≤ s.clk)) ∧
    (∃ (line : Fin 128) (c : Nat) (s : State), s.Live ∧ (s.line line).crossClk = some c ∧ s.clk < c) ∧
    (∃ (line : Fin 128) (thermal : Bool) (s : State), s.Live ∧ s.lineDrives line = true) ∧
    (∃ (init : Initiator) (k : Fin 4) (lines : BitVec 32) (s : State), s.Live ∧ s.hvLink = true) ∧
    (∃ (init : Initiator) (k : Fin 4) (lines : BitVec 32) (s : State), s.Live ∧ s.hvLink = false) ∧
    (∃ (line : Fin 128) (s : State), s.Live ∧ (s.line line).clearReq = false) ∧
    (∃ (line : Fin 128) (l : FldLine) (s : State), s.Live ∧ s.line line = l ∧ l.clearReq = true) ∧
    (∃ (line : Fin 128) (s : State), s.Live ∧ s.lineOut line = true ∧ s.rd (F.FLD_Ln_CFG_OL_EN line) ≠ 0) ∧
    (∃ (line : Fin 128) (s : State), s.Live ∧ s.nextRestore (line.val / 8) = some line.val ∧ s.feedOn (line.val / 8) = true) :=
  ⟨⟨127, true, State.reset.wr (F.FLD_Ln_CFG_MODE 127) 1, by decide +kernel⟩,
    ⟨127, true, State.reset, by decide +kernel⟩,
    ⟨64, (State.reset.wr (F.FLD_Ln_CFG_MODE 64) 1).wr (F.FLD_Ln_CFG_WB_EN 64) 1, by decide +kernel⟩,
    ⟨64, State.reset.wr (F.FLD_Ln_CFG_MODE 64) 1, by decide +kernel⟩,
    ⟨3, {}, State.reset.wr (F.FLD_Ln_CFG_MODE 3) 5, ⟨by decide +kernel, by decide +kernel, by decide +kernel, Or.inl rfl⟩⟩,
    ⟨3, 1, { State.reset with fld := { lines := [(3, { crossClk := some 1 })] } }, by decide +kernel⟩,
    ⟨33, true, State.reset.wr (F.FLD_Ln_CFG_MODE 33) 3, by decide +kernel⟩,
    ⟨.bar0, 1, 6, ((((State.reset.wr F.FLD_STATUS_LINK 1).wr (F.FLD_Bb_CFG_KSTATE 4) 0).wr (F.FLD_Ln_STAT_SC 33) 1).wr (F.FLD_Ln_STAT_SC 34) 1).wr (F.FLD_Ln_STAT_OT 34) 1, by decide +kernel⟩,
    ⟨.bar0, 1, 6, State.reset, by decide +kernel⟩,
    ⟨5, State.reset, by decide +kernel⟩,
    ⟨5, { clearReq := true }, { State.reset with fld := { lines := [(5, { clearReq := true })] } }, by decide +kernel⟩,
    ⟨64, (State.reset.wr (F.FLD_Ln_CFG_MODE 64) 3).wr (F.FLD_Ln_CFG_OL_EN 64) 1, by decide +kernel⟩,
    ⟨9, { ((State.reset.wr (F.CHK_Fn_STATUS_PG 1) 1).wr (F.FLD_Bb_CFG_RESTORE 1) 1).wr (F.FLD_Ln_CFG_SAFE 9) 1 with fld := { lines := [(9, { restore := true })] } }, by decide +kernel⟩⟩

theorem witness_FeedSequence :
    (∃ (feed : Fin 16) (s : State), s.Live ∧ s.feedState feed = 1 ∧ s.seated feed = true ∧ s.rd (F.CHK_Fn_STATUS_COOL feed) ≠ 0) ∧
    (∃ (feed : Fin 16) (s : State), s.Live ∧ s.feedState feed = 1 ∧ s.seated feed = true ∧ s.rd (F.CHK_Fn_STATUS_COOL feed) = 0 ∧ s.rail = true) ∧
    (∃ (feed : Fin 16) (second : Bool) (s : State), s.Live ∧ s.rd (F.CHK_Fn_STATUS_SEAT_EN feed) ≠ 0 ∧ 3 ≤ s.feedState feed ∧ s.feedState feed ≤ 7) ∧
    (∃ (feed : Fin 16) (second : Bool) (s : State), s.Live ∧ (s.feedState feed < 2 ∨ 8 < s.feedState feed ∨ s.rd (F.CHK_Fn_STATUS_SEAT_EN feed) = 0) ∧ s.marked (.feedCleared feed) = false) ∧
    (∃ (feed : Fin 16) (c : Nat) (s : State), s.Live ∧ s.feedState feed = 2 ∧ s.chk.removedClk.get? feed.val = some c ∧ c + 2500000000 ≤ s.clk) ∧
    (∃ (feed : Fin 16) (s : State), s.Live ∧ s.feedState feed = 2 ∧ s.chk.removedClk.get? feed.val = none) ∧
    (∃ (feed : Fin 16) (s : State), s.Live ∧ s.rd (F.CHK_Fn_STATUS_SEAT2 feed) = 0) ∧
    (∃ (feed : Fin 16) (s : State), s.Live ∧ s.feedState feed = 3) ∧
    (∃ (feed : Fin 16) (s : State), s.Live ∧ s.feedState feed = 4) ∧
    (∃ (feed : Fin 16) (s : State), s.Live ∧ s.feedState feed = 4) ∧
    (∃ (feed : Fin 16) (s : State), s.Live ∧ s.feedState feed = 5 ∧ s.rd (F.CHK_Fn_STATUS_FTMR feed) = 0) ∧
    (∃ (feed : Fin 16) (s : State), s.Live ∧ (s.feedState feed = 3 ∨ s.feedState feed = 4 ∨ s.feedState feed = 6 ∨ (s.feedState feed = 5 ∧ s.timerHeld feed = true))) ∧
    (∃ (feed : Fin 16) (s : State), s.Live ∧ s.feedState feed = 5 ∧ s.timerHeld feed = false) ∧
    (∃ (feed : Fin 16) (s : State), s.Live) ∧
    (∃ (feed : Fin 16) (s : State), s.Live) ∧
    (∃ (feed : Fin 16) (s : State), s.Live ∧ s.feedState feed = 7 ∧ s.seated feed = true ∧ s.rail = true) ∧
    (∃ (feed : Fin 16) (s : State), s.Live ∧ s.feedState feed = 6) :=
  ⟨⟨2, ((State.reset.wr (F.CHK_Fn_STATUS_STATE 2) 1).wr (F.CHK_Fn_STATUS_COOL 2) 1).wr (F.CHK_Fn_STATUS_SEAT_EN 2) 0, by decide +kernel⟩,
    ⟨2, (((State.reset.wr (F.CHK_Fn_STATUS_STATE 2) 1).wr (F.CHK_Fn_STATUS_COOL 2) 0).wr (F.CHK_Fn_STATUS_SEAT_EN 2) 0).wr F.CHK_SUP_A_ON 1, by decide +kernel⟩,
    ⟨2, true, ((State.reset.wr (F.CHK_Fn_STATUS_STATE 2) 6).wr (F.CHK_Fn_STATUS_SEAT_EN 2) 1).wr F.FLD_STATUS_LINK 1, by decide +kernel⟩,
    ⟨2, true, ((State.reset.wr (F.CHK_Fn_STATUS_STATE 2) 1).wr (F.CHK_Fn_STATUS_SEAT_EN 2) 1).wr (F.CHK_Fn_STATUS_SEAT2 2) 1, by decide +kernel⟩,
    ⟨2, 5, { (State.reset.wr (F.CHK_Fn_STATUS_STATE 2) 2) with clk := 2500000005, chk := { removedClk := [(2, 5)] } }, by decide +kernel⟩,
    ⟨2, (State.reset.wr (F.CHK_Fn_STATUS_STATE 2) 2), by decide +kernel⟩,
    ⟨2, State.reset.wr (F.CHK_Fn_STATUS_SEAT2 2) 0, by decide +kernel⟩,
    ⟨2, (State.reset.wr (F.CHK_Fn_STATUS_STATE 2) 3), by decide +kernel⟩,
    ⟨2, (State.reset.wr (F.CHK_Fn_STATUS_STATE 2) 4), by decide +kernel⟩,
    ⟨2, (State.reset.wr (F.CHK_Fn_STATUS_STATE 2) 4), by decide +kernel⟩,
    ⟨2, (State.reset.wr (F.CHK_Fn_STATUS_STATE 2) 5), by decide +kernel⟩,
    ⟨2, (State.reset.wr (F.CHK_Fn_STATUS_STATE 2) 6), by decide +kernel⟩,
    ⟨2, (State.reset.wr (F.CHK_Fn_STATUS_STATE 2) 5), by decide +kernel⟩,
    ⟨2, State.reset, by decide +kernel⟩,
    ⟨2, (State.reset.wr (F.CHK_Fn_STATUS_FTMR 2) 1), by decide +kernel⟩,
    ⟨2, ((State.reset.wr (F.CHK_Fn_STATUS_STATE 2) 7).wr (F.CHK_Fn_STATUS_SEAT_EN 2) 0).wr F.CHK_SUP_B_ON 1, by decide +kernel⟩,
    ⟨2, (State.reset.wr (F.CHK_Fn_STATUS_STATE 2) 6), by decide +kernel⟩⟩

theorem witness_FeedTrips :
    (∃ (feed : Fin 16) (s : State), s.Live ∧ s.feedState feed = 3 ∧ s.rd (F.CHK_Fn_STATUS_RETRY feed) + 1 ≤ s.rd (F.CHK_Fn_CFG1_RETRY_MAX feed)) ∧
    (∃ (feed : Fin 16) (s : State), s.Live ∧ (s.feedState feed = 5 ∨ s.feedState feed = 6) ∧ s.timerRuns feed = true ∧ s.rd (F.CHK_Fn_STATUS_RETRY feed) + 1 ≤ s.rd (F.CHK_Fn_CFG1_RETRY_MAX feed)) ∧
    (∃ (feed : Fin 16) (s : State), s.Live ∧ 3 ≤ s.feedState feed ∧ s.feedState feed ≤ 6 ∧ s.rd (F.CHK_Fn_CFG1_RETRY_MAX feed) < s.rd (F.CHK_Fn_STATUS_RETRY feed) + 1) ∧
    (∃ (s : State), s.Live ∧ s.rail = false) ∧
    (∃ (s : State), s.Live ∧ s.rail = true) ∧
    (∃ (init : Initiator) (feed : Fin 16) (s : State), s.Live ∧ s.hvLink = true ∧ (s.feedState feed = 9 ∨ (s.feedState feed = 8 ∧ s.marked (.contactOpened feed) = false))) ∧
    (∃ (init : Initiator) (feed : Fin 16) (s : State), s.Live ∧ s.hvLink = true ∧ s.feedState feed = 8 ∧ s.marked (.contactOpened feed) = true) ∧
    (∃ (init : Initiator) (feed : Fin 16) (s : State), s.Live ∧ s.hvLink = true ∧ (s.feedState feed < 8 ∨ 9 < s.feedState feed)) ∧
    (∃ (init : Initiator) (feed : Fin 16) (s : State), s.Live ∧ s.hvLink = false) :=
  ⟨⟨2, ((State.reset.wr (F.CHK_Fn_STATUS_STATE 2) 3).wr (F.CHK_Fn_CFG1_RETRY_MAX 2) 3).wr F.FLD_STATUS_LINK 1, by decide +kernel⟩,
    ⟨2, (((State.reset.wr (F.CHK_Fn_STATUS_STATE 2) 6).wr (F.CHK_Fn_CFG1_RETRY_MAX 2) 3).wr F.FLD_STATUS_LINK 1).wr (F.CHK_Fn_STATUS_FTMR 2) 1, by decide +kernel⟩,
    ⟨2, ((State.reset.wr (F.CHK_Fn_STATUS_STATE 2) 6).wr (F.CHK_Fn_CFG1_RETRY_MAX 2) 0).wr F.FLD_STATUS_LINK 1, by decide +kernel⟩,
    ⟨(State.reset.wr (F.CHK_Fn_STATUS_STATE 2) 6), by decide +kernel⟩,
    ⟨((List.range 16).foldl (fun (s : State) f => s.wr (F.CHK_Fn_STATUS_STATE f) 10) State.reset).wr F.CHK_SUP_A_ON 1, by decide +kernel⟩,
    ⟨.bar0, 15, (State.reset.wr (F.CHK_Fn_STATUS_STATE 15) 9).wr F.FLD_STATUS_LINK 1, by decide +kernel⟩,
    ⟨.bar0, 15, { (State.reset.wr (F.CHK_Fn_STATUS_STATE 15) 8).wr F.FLD_STATUS_LINK 1 with cycle := [.contactOpened 15], together := 0 }, by decide +kernel⟩,
    ⟨.bar0, 15, State.reset.wr F.FLD_STATUS_LINK 1, by decide +kernel⟩,
    ⟨.bar0, 15, State.reset, by decide +kernel⟩⟩

theorem witness_SuppliesAndTests :
    (∃ (b : Bool) (volts : BitVec 12) (s : State), s.Live ∧ s.rd (winF b) ≠ 0) ∧
    (∃ (b : Bool) (volts : BitVec 12) (s : State), s.Live ∧ s.rd (winF b) ≠ 0 ∧ s.rd (onF b) ≠ 0 ∧ volts.toNat ≤ 3200) ∧
    (∃ (b : Bool) (volts : BitVec 12) (s : State), s.Live ∧ s.rd (winF b) ≠ 0 ∧ 3200 < volts.toNat) ∧
    (∃ (b : Bool) (volts : BitVec 12) (s : State), s.Live ∧ s.rd (winF b) = 0) ∧
    (∃ (b : Bool) (s : State), s.Live ∧ s.rd (winF b) ≠ 0 ∧ s.rd (onF b) = 0) ∧
    (∃ (b : Bool) (s : State), s.Live ∧ s.rd (winF b) ≠ 0 ∧ s.rd (onF b) ≠ 0) ∧
    (∃ (b : Bool) (s : State), s.Live ∧ s.rd F.CHK_SUP_A_ON ≠ 0 ∧ s.rd F.CHK_SUP_B_ON ≠ 0) ∧
    (∃ (init : Initiator) (feeds : BitVec 16) (s : State), s.Live ∧ s.hvLink = true ∧ s.chk.calibrating = none) ∧
    (∃ (init : Initiator) (feeds : BitVec 16) (s : State), s.Live ∧ s.hvLink = true ∧ s.chk.calibrating = none ∧ s.role = 0) ∧
    (∃ (init : Initiator) (maint : Bool) (feeds : BitVec 16) (s : State), s.Live ∧ s.hvLink = true ∧ s.chk.calibrating.isSome = true) ∧
    (∃ (o : Int) (f : Fin 16) (m c : Nat) (s : State), s.Live ∧ s.chk.calibrating = some (m, c) ∧ bit m f.val = true ∧ -200 ≤ o ∧ o ≤ 200) ∧
    (∃ (o : Int) (f : Fin 16) (m c : Nat) (s : State), s.Live ∧ s.chk.calibrating = some (m, c) ∧ bit m f.val = true ∧ (o < -200 ∨ 200 < o)) ∧
    (∃ (init : Initiator) (banks : BitVec 16) (s : State), s.Live ∧ s.hvLink = true ∧ s.fld.loopback = none ∧ s.role = 0) ∧
    (∃ (init : Initiator) (maint : Bool) (banks : BitVec 16) (s : State), s.Live ∧ s.hvLink = true ∧ s.fld.loopback.isSome = true) ∧
    (∃ (init : Initiator) (banks : BitVec 16) (s : State), s.Live ∧ s.hvLink = true ∧ s.fld.loopback = none) ∧
    (∃ (init : Initiator) (maint : Bool) (banks : BitVec 16) (s : State), s.Live ∧ s.hvLink = false) ∧
    (∃ (m c : Nat) (levels : BitVec 128) (s : State), s.Live ∧ s.fld.loopback = some (m, c) ∧ (∀ n < 128, bit m (n / 8) = true → s.lineOut n = true → bit levels.toNat n = s.loopExpects n)) ∧
    (∃ (m c n : Nat) (levels : BitVec 128) (s : State), s.Live ∧ s.fld.loopback = some (m, c) ∧ n < 128 ∧ bit m (n / 8) = true ∧ s.lineOut n = true ∧ bit levels.toNat n ≠ s.loopExpects n) ∧
    (∃ (levels : BitVec 128) (offsets : List (Fin 16 × Int)) (s : State), s.Live) ∧
    (∃ (b : Bool) (s : State), s.Live ∧ (s.rd F.CHK_SUP_A_ON = 0 ∨ s.rd F.CHK_SUP_B_ON = 0)) ∧
    (∃ (s : State), s.Live) :=
  ⟨⟨true, 2400, State.reset.wr F.CHK_SUP_B_WIN 1, by decide +kernel⟩,
    ⟨true, 1700, (State.reset.wr F.CHK_SUP_B_WIN 1).wr F.CHK_SUP_B_ON 1, by decide +kernel⟩,
    ⟨true, 3300, State.reset.wr F.CHK_SUP_B_WIN 1, by decide +kernel⟩,
    ⟨true, 2400, State.reset, by decide +kernel⟩,
    ⟨false, State.reset.wr F.CHK_SUP_A_WIN 1, by decide +kernel⟩,
    ⟨false, (State.reset.wr F.CHK_SUP_A_WIN 1).wr F.CHK_SUP_A_ON 1, by decide +kernel⟩,
    ⟨false, (State.reset.wr F.CHK_SUP_B_ON 1).wr F.CHK_SUP_A_ON 1, by decide +kernel⟩,
    ⟨.bar0, 0x8001, State.reset.wr F.FLD_STATUS_LINK 1, by decide +kernel⟩,
    ⟨.bar0, 0x8001, State.reset.wr F.FLD_STATUS_LINK 1, by decide +kernel⟩,
    ⟨.bar0, false, 0x8001, { State.reset.wr F.FLD_STATUS_LINK 1 with chk := { calibrating := some (0, 0) } }, by decide +kernel⟩,
    ⟨-200, 3, 8, 0, { State.reset with chk := { calibrating := some (8, 0) } }, by decide +kernel⟩,
    ⟨201, 3, 8, 0, { State.reset with chk := { calibrating := some (8, 0) } }, by decide +kernel⟩,
    ⟨.bar0, 0x8001, State.reset.wr F.FLD_STATUS_LINK 1, by decide +kernel⟩,
    ⟨.bar0, false, 0x8001, { State.reset.wr F.FLD_STATUS_LINK 1 with fld := { loopback := some (0, 0) } }, by decide +kernel⟩,
    ⟨.bar0, 0x8001, State.reset.wr F.FLD_STATUS_LINK 1, by decide +kernel⟩,
    ⟨.bar0, false, 0x8001, State.reset, by decide +kernel⟩,
    ⟨3, 0, 0x10000, { State.reset with fld := { loopback := some (3, 0) } }, by decide +kernel⟩,
    ⟨3, 0, 15, 0, { State.reset.wr (F.FLD_Ln_CFG_MODE 15) 3 with fld := { loopback := some (3, 0) } }, by decide +kernel⟩,
    ⟨1, [], State.reset, by decide +kernel⟩,
    ⟨false, State.reset, by decide +kernel⟩,
    ⟨State.reset, by decide +kernel⟩⟩

theorem witness_SliceControl :
    (∃ (slice : Fin 48) (s : State), s.Live ∧ s.sliceRuns slice = true ∧ s.stopAhead slice = false ∧ (s.startMode slice = 1 ∨ (s.pers slice = 5 ∧ s.rd (F.PSL_SSI_P0_TRIG slice) = 1) ∨ (s.pers slice = 7 ∧ s.rd (F.PSL_PULSE_P5_RUN slice) ≠ 0)) ∧ (s.slice slice).start = false) ∧
    (∃ (slice : Fin 48) (s : State), s.Live ∧ s.sliceRuns slice = true ∧ s.stopAhead slice = false ∧ (s.startMode slice = 1 ∨ (s.pers slice = 5 ∧ s.rd (F.PSL_SSI_P0_TRIG slice) = 1) ∨ (s.pers slice = 7 ∧ s.rd (F.PSL_PULSE_P5_RUN slice) ≠ 0)) ∧ (s.slice slice).start = true) ∧
    (∃ (slice : Fin 48) (s : State), s.Live ∧ (s.sliceRuns slice = false ∨ s.stopAhead slice = true)) ∧
    (∃ (slice : Fin 48) (s : State), s.Live ∧ s.sliceRuns slice = true ∧ s.stopAhead slice = false ∧ s.pers slice = 6) ∧
    (∃ (slice : Fin 48) (s : State), s.Live ∧ s.sliceRuns slice = true ∧ s.stopAhead slice = false ∧ s.pers slice = 7 ∧ s.rd (F.PSL_PULSE_P5_RUN slice) = 0) ∧
    (∃ (slice : Fin 48) (s : State), s.Live ∧ s.rd (F.PSL_Sn_CTL_EN slice) = 0 ∧ s.pers slice ≠ 7 ∧ s.pers slice ≠ 8) ∧
    (∃ (slice : Fin 48) (s : State), s.Live ∧ s.rd (F.PSL_Sn_CTL_EN slice) = 0 ∧ s.pers slice = 8) ∧
    (∃ (slice : Fin 48) (en : Bool) (s : State), s.Live ∧ (s.rd (F.PSL_Sn_CTL_EN slice) ≠ 0) ↔ (en = true)) ∧
    (∃ (slice : Fin 48) (x : SliceState) (s : State), s.Live ∧ s.rd (F.PSL_Sn_CTL_EN slice) ≠ 0 ∧ s.endAhead slice = false ∧ s.slice slice = x ∧ x.flushRx = false ∧ x.flushTx = false ∧ x.rxBusy = false) ∧
    (∃ (slice : Fin 48) (x : SliceState) (s : State), s.Live ∧ s.rd (F.PSL_Sn_CTL_EN slice) ≠ 0 ∧ s.endAhead slice = false ∧ s.slice slice = x ∧ x.flushRx = false ∧ x.flushTx = false ∧ x.rxBusy = true ∧ x.dropping = false) ∧
    (∃ (slice : Fin 48) (x : SliceState) (s : State), s.Live ∧ s.slice slice = x ∧ x.flushRx = false ∧ x.flushTx = false) ∧
    (∃ (slice : Fin 48) (x : SliceState) (s : State), s.Live ∧ s.slice slice = x ∧ (x.flushRx = true ∨ x.flushTx = true)) ∧
    (∃ (slice : Fin 48) (x : SliceState) (s : State), s.Live ∧ s.slice slice = x ∧ x.flushRx = true ∧ x.flushTx = false ∧ x.rxBusy = false) ∧
    (∃ (slice : Fin 48) (x : SliceState) (s : State), s.Live ∧ s.slice slice = x ∧ x.flushTx = true ∧ x.flushRx = false ∧ x.sending = false ∧ s.cycle = []) ∧
    (∃ (slice : Fin 48) (x : SliceState) (s : State), s.Live ∧ s.slice slice = x ∧ ((x.flushRx = false ∧ x.flushTx = false) ∨ (x.rxBusy = false ∧ x.sending = false))) ∧
    (∃ (slice : Fin 48) (x : SliceState) (s : State), s.Live ∧ s.slice slice = x ∧ x.flushTx = true ∧ x.flushRx = false ∧ x.sending = true ∧ x.kept = [] ∧ s.endAhead slice = false) ∧
    (∃ (n k : Nat) (s : State), s.Live) :=
  ⟨⟨7, (sliceOn 7 1).wr (F.PSL_UART_P0_START_MODE 7) 1, by decide +kernel⟩,
    ⟨7, { (sliceOn 7 1).wr (F.PSL_UART_P0_START_MODE 7) 1 with slices := [(7, { start := true })] }, by decide +kernel⟩,
    ⟨7, State.reset, by decide +kernel⟩,
    ⟨7, (sliceOn 7 6).wr (F.PSL_QUAD_P2_COUNT_HI 7) 9, by decide +kernel⟩,
    ⟨7, (sliceOn 7 7).wr (F.PSL_PULSE_P4_DIR 7) 1, by decide +kernel⟩,
    ⟨7, State.reset.wr (F.PSL_Sn_CFG_PERS 7) 1, by decide +kernel⟩,
    ⟨7, State.reset.wr (F.PSL_Sn_CFG_PERS 7) 8, by decide +kernel⟩,
    ⟨7, false, State.reset, by decide +kernel⟩,
    ⟨7, {}, (State.reset.wr (F.PSL_Sn_CFG_PERS 7) 1).wr (F.PSL_Sn_CTL_EN 7) 1, by decide +kernel⟩,
    ⟨7, { fill := [65], rxBusy := true, stored := 1 }, { (State.reset.wr (F.PSL_Sn_CFG_PERS 7) 1).wr (F.PSL_Sn_CTL_EN 7) 1 with slices := [(7, { fill := [65], rxBusy := true, stored := 1 })] }, by decide +kernel⟩,
    ⟨7, {}, State.reset, by decide +kernel⟩,
    ⟨7, { flushRx := true }, { State.reset with slices := [(7, { flushRx := true })] }, by decide +kernel⟩,
    ⟨7, { flushRx := true, rx := [5], tx := [6] }, { State.reset with slices := [(7, { flushRx := true, rx := [5], tx := [6] })] }, by decide +kernel⟩,
    ⟨7, { flushTx := true, rx := [5], tx := [6] }, { State.reset with slices := [(7, { flushTx := true, rx := [5], tx := [6] })] }, by decide +kernel⟩,
    ⟨7, {}, State.reset, by decide +kernel⟩,
    ⟨7, { flushTx := true, sending := true, tx := [6] }, { State.reset with slices := [(7, { flushTx := true, sending := true, tx := [6] })] }, by decide +kernel⟩,
    ⟨7, 1, State.reset, by decide +kernel⟩⟩

theorem witness_FlumePorts :
    (∃ (init : Initiator) (slice : Fin 48) (off len : Nat) (x : SliceState) (s : State), s.Live ∧ bit s.ported slice.val = true ∧ portForm off len true = true ∧ off < 0x800 ∧ s.slice slice = x ∧ s.cycle = []) ∧
    (∃ (init : Initiator) (slice : Fin 48) (off len : Nat) (data : List Byte) (enabled : Bool) (s : State), s.Live ∧ bit s.ported slice.val = false) ∧
    (∃ (init : Initiator) (slice : Fin 48) (off len : Nat) (data : List Byte) (enabled : Bool) (s : State), s.Live ∧ bit s.ported slice.val = true) ∧
    (∃ (init : Initiator) (slice : Fin 48) (x : SliceState) (data : List Byte) (u : Nat) (s : State), s.Live ∧ bit s.ported slice.val = true ∧ s.slice slice = x ∧ data.length = 8 ∧ leAt (data.map BitVec.toNat) 0 8 = u ∧ bit u 63 = false ∧ bit u 61 = false ∧ bit u 60 = false ∧ bits u 56 3 ≠ 0 ∧ x.tx.length < 256) ∧
    (∃ (init : Initiator) (slice : Fin 48) (data : List Byte) (u : Nat) (s : State), s.Live ∧ bit s.ported slice.val = true ∧ data.length = 8 ∧ leAt (data.map BitVec.toNat) 0 8 = u ∧ bit u 63 = false ∧ (bit u 61 = true ∨ bit u 60 = true ∨ bits u 56 3 = 0)) ∧
    (∃ (init : Initiator) (slice : Fin 48) (data : List Byte) (u : Nat) (s : State), s.Live ∧ bit s.ported slice.val = true ∧ data.length = 8 ∧ leAt (data.map BitVec.toNat) 0 8 = u) :=
  ⟨⟨.bar0, 3, 8, 24, { rx := [5, 6] }, { State.reset with ported := 8, slices := [(3, { rx := [5, 6] })] }, by decide +kernel⟩,
    ⟨.bar0, 3, 0, 8, [1], true, State.reset, by decide +kernel⟩,
    ⟨.bar0, 3, 0, 8, [1], false, { State.reset with ported := 8 }, by decide +kernel⟩,
    ⟨.bar0, 3, {}, [0x41, 0x42, 0, 0, 0, 0, 0, 0x42], 0x4200000000004241, { State.reset with ported := 8 }, by decide +kernel⟩,
    ⟨.bar0, 3, [0x41, 0, 0, 0, 0, 0, 0, 0x61], 0x6100000000000041, { State.reset with ported := 8 }, by decide +kernel⟩,
    ⟨.bar0, 3, [0x41, 0, 0, 0, 0, 0, 0, 0x41], 0x4100000000000041, { State.reset with ported := 8, slices := [(3, { tx := List.replicate 256 0 })] }, by decide +kernel⟩⟩

theorem witness_SerialPersonalities :
    (∃ (slice : Fin 48) (char : BitVec 9) (bad brk : Bool) (x : SliceState) (s : State), s.Live ∧ s.sliceRuns slice = true ∧ s.pers slice = 1 ∧ s.slice slice = x ∧ s.padsOff slice = false ∧ x.fill = [] ∧ x.dropping = false ∧ x.rx.length < 255 ∧ s.par slice (F.PSL_UART_P0_DBITS slice) ≠ 4 ∧ s.par slice (F.PSL_UART_P0_DELIM_EN slice) = 0 ∧ s.par slice (F.PSL_UART_P2_LEN slice) = 0) ∧
    (∃ (slice : Fin 48) (char : BitVec 9) (x : SliceState) (s : State), s.Live ∧ s.sliceRuns slice = true ∧ s.pers slice = 1 ∧ s.slice slice = x ∧ s.padsOff slice = false ∧ x.fill = [] ∧ x.fillErr = false ∧ x.dropping = false ∧ x.kept = [] ∧ x.rx.length < 255 ∧ s.marked (.stopAfterEnd slice) = false ∧ s.par slice (F.PSL_UART_P0_DBITS slice) ≠ 4 ∧ s.par slice (F.PSL_UART_P0_DELIM_EN slice) ≠ 0 ∧ s.par slice (F.PSL_UART_P0_STRIP slice) = 0 ∧ s.par slice (F.PSL_UART_P0_DELIM slice) = char.toNat) ∧
    (∃ (slice : Fin 48) (x : SliceState) (s : State), s.Live ∧ s.sliceRuns slice = true ∧ s.pers slice = 1 ∧ s.slice slice = x ∧ s.par slice (F.PSL_UART_P0_GAP slice) ≠ 0 ∧ x.rxBusy = true ∧ x.dropping = false ∧ x.stored ≠ 0 ∧ x.fill ≠ [] ∧ x.fillErr = false ∧ x.kept = [] ∧ s.marked (.stopAfterEnd slice) = false) ∧
    (∃ (slice : Fin 48) (x : SliceState) (s : State), s.Live ∧ s.slice slice = x ∧ s.mayStart slice = true ∧ (s.pers slice = 1 ∨ s.pers slice = 2 ∨ s.pers slice = 4 ∨ s.pers slice = 8) ∧ x.whole = true) ∧
    (∃ (slice : Fin 48) (x : SliceState) (s : State), s.Live ∧ s.slice slice = x ∧ s.mayStart slice = true ∧ s.pers slice = 1 ∧ s.padsOff slice = false ∧ x.whole = false ∧ x.tx.length = 256) ∧
    (∃ (slice : Fin 48) (x : SliceState) (s : State), s.Live ∧ s.slice slice = x ∧ (s.mayStart slice = false ∨ (x.whole = false ∧ x.tx.length ≠ 256)) ∧ x.sending = false) ∧
    (∃ (slice : Fin 48) (x : SliceState) (i : Nat) (l : List Nat) (s : State), s.Live ∧ s.slice slice = x ∧ x.sending = true ∧ x.tx = i :: l ∧ itemEnd i = true ∧ x.kept = [] ∧ s.marked (.stopAfterEnd slice) = false ∧ ((s.pers slice = 1 ∧ s.padsOff slice = false) ∨ (s.pers slice = 8 ∧ s.iolLive slice = true))) ∧
    (∃ (slice : Fin 48) (miso : List Byte) (x : SliceState) (i : Nat) (l : List Nat) (s : State), s.Live ∧ s.slice slice = x ∧ s.mayStart slice = true ∧ s.pers slice = 2 ∧ s.padsOff slice = false ∧ x.tx = i :: l ∧ itemEnd i = true ∧ x.kept = []) ∧
    (∃ (slice : Fin 48) (b : Byte) (x : SliceState) (s : State), s.Live ∧ s.sliceRuns slice = true ∧ s.pers slice = 3 ∧ s.padsOff slice = false ∧ s.slice slice = x ∧ x.tx = []) ∧
    (∃ (slice : Fin 48) (b : Byte) (x : SliceState) (i : Nat) (l : List Nat) (c : Nat) (s : State), s.Live ∧ s.sliceRuns slice = true ∧ s.pers slice = 3 ∧ s.padsOff slice = false ∧ s.slice slice = x ∧ x.tx = i :: l ∧ itemEnd i = true ∧ itemBytes i = [c]) ∧
    (∃ (slice : Fin 48) (x : SliceState) (i : Nat) (l : List Nat) (s : State), s.Live ∧ s.mayStart slice = true ∧ s.pers slice = 4 ∧ s.padsOff slice = false ∧ s.slice slice = x ∧ x.tx = i :: l ∧ itemEnd i = true ∧ itemBytes i = [0xA0, 0x55] ∧ x.begun = [] ∧ x.kept = []) ∧
    (∃ (slice : Fin 48) (char : BitVec 9) (bad brk : Bool) (bs : List Byte) (s : State), s.Live ∧ s.sliceRuns slice = false) :=
  ⟨⟨7, 0x41, false, false, {}, sliceOn 7 1, by decide +kernel⟩,
    ⟨7, 0x0A, {}, ((sliceOn 7 1).wr (F.PSL_UART_P0_DELIM_EN 7) 1).wr (F.PSL_UART_P0_DELIM 7) 10, by decide +kernel⟩,
    ⟨7, { fill := [65, 66], rxBusy := true, stored := 2 }, { (sliceOn 7 1).wr (F.PSL_UART_P0_GAP 7) 4 with slices := [(7, { fill := [65, 66], rxBusy := true, stored := 2 })] }, by decide +kernel⟩,
    ⟨7, { tx := [2 ^ 62 + 2 ^ 56 + 65] }, { sliceOn 7 1 with slices := [(7, { tx := [2 ^ 62 + 2 ^ 56 + 65] })] }, by decide +kernel⟩,
    ⟨7, { tx := List.replicate 256 (2 ^ 56 + 65) }, { sliceOn 7 1 with slices := [(7, { tx := List.replicate 256 (2 ^ 56 + 65) })] }, by decide +kernel⟩,
    ⟨7, {}, sliceOn 7 1, by decide +kernel⟩,
    ⟨7, { sending := true, tx := [2 ^ 62 + 2 ^ 56 + 65, 9] }, 2 ^ 62 + 2 ^ 56 + 65, [9], { sliceOn 7 1 with slices := [(7, { sending := true, tx := [2 ^ 62 + 2 ^ 56 + 65, 9] })] }, by decide +kernel⟩,
    ⟨7, [1, 2], { tx := [2 ^ 62 + 2 ^ 57 + 65, 9] }, 2 ^ 62 + 2 ^ 57 + 65, [9], { sliceOn 7 2 with slices := [(7, { tx := [2 ^ 62 + 2 ^ 57 + 65, 9] })] }, by decide +kernel⟩,
    ⟨7, 0x55, {}, (sliceOn 7 3).wr (F.PSL_SPI_P0_FILL 7) 0xFF, by decide +kernel⟩,
    ⟨7, 0x55, { tx := [2 ^ 62 + 2 ^ 56 + 65, 9] }, 2 ^ 62 + 2 ^ 56 + 65, [9], 65, { sliceOn 7 3 with slices := [(7, { tx := [2 ^ 62 + 2 ^ 56 + 65, 9] })] }, by decide +kernel⟩,
    ⟨7, { tx := [2 ^ 62 + 2 ^ 57 + 0x55A0] }, 2 ^ 62 + 2 ^ 57 + 0x55A0, [], { sliceOn 7 4 with slices := [(7, { tx := [2 ^ 62 + 2 ^ 57 + 0x55A0] })] }, by decide +kernel⟩,
    ⟨7, 0x41, false, false, [], State.reset, by decide +kernel⟩⟩

theorem witness_EncodersAndPulses :
    (∃ (slice : Fin 48) (data : BitVec 64) (x : SliceState) (s : State), s.Live ∧ s.sliceRuns slice = true ∧ s.pers slice = 5 ∧ s.slice slice = x ∧ s.padsOff slice = false ∧ s.rd (F.PSL_SSI_P0_TRIG slice) ≠ 1 ∧ s.rd (F.PSL_SSI_P0_BITS slice) = 63 ∧ s.rd (F.PSL_SSI_P0_GRAY slice) = 0 ∧ s.rd (F.PSL_SSI_P0_FLUME slice) = 0) ∧
    (∃ (slice : Fin 48) (a b : Bool) (x : SliceState) (s : State), s.Live ∧ s.sliceRuns slice = true ∧ s.pers slice = 6 ∧ s.slice slice = x ∧ s.padsOff slice = false ∧ x.phaseA ≠ a ∧ x.phaseB ≠ b) ∧
    (∃ (slice : Fin 48) (x : SliceState) (s : State), s.Live ∧ s.sliceRuns slice = true ∧ s.pers slice = 6 ∧ s.slice slice = x ∧ s.padsOff slice = false ∧ s.rd (F.PSL_QUAD_P0_MODE slice) = 2 ∧ s.rd (F.PSL_QUAD_P0_INV_DIR slice) = 0 ∧ x.phaseA = false ∧ x.phaseB = false) ∧
    (∃ (slice : Fin 48) (s : State), s.Live ∧ s.sliceRuns slice = true ∧ s.pers slice = 6 ∧ s.padsOff slice = false ∧ s.rd (F.PSL_QUAD_P0_IDX slice) = 2) ∧
    (∃ (slice : Fin 48) (high : BitVec 32) (s : State), s.Live ∧ s.pers slice = 7 ∧ high.toNat < s.rd (F.PSL_PULSE_P1_PERIOD slice)) ∧
    (∃ (slice : Fin 48) (high : BitVec 32) (s : State), s.Live ∧ s.pers slice = 7 ∧ s.rd (F.PSL_PULSE_P1_PERIOD slice) ≤ high.toNat) ∧
    (∃ (slice : Fin 48) (high : Bool) (s : State), s.Live ∧ s.pers slice = 7 ∧ s.padsOff slice = false ∧ s.rd (F.PSL_PULSE_P0_GATE_EN slice) ≠ 0) ∧
    (∃ (slice : Fin 48) (s : State), s.Live ∧ s.sliceRuns slice = true ∧ s.pers slice = 7 ∧ s.rd (F.PSL_PULSE_P5_RUN slice) ≠ 0 ∧ (s.rd (F.PSL_PULSE_P0_MODE slice) = 1 ∨ s.rd (F.PSL_PULSE_P0_MODE slice) = 2) ∧ (s.slice slice).suspended = false ∧ (s.slice slice).start = false) ∧
    (∃ (slice : Fin 48) (high : Bool) (word : BitVec 32) (s : State), s.Live) :=
  ⟨⟨7, 0xFEDCBA9876543210, {}, ((sliceOn 7 5).wr (F.PSL_SSI_P0_BITS 7) 63).wr (F.PSL_SSI_P0_GRAY 7) 0, by decide +kernel⟩,
    ⟨7, true, true, {}, sliceOn 7 6, by decide +kernel⟩,
    ⟨7, {}, ((sliceOn 7 6).wr (F.PSL_QUAD_P0_MODE 7) 2).wr64 (F.PSL_QUAD_P1_COUNT_LO 7) (F.PSL_QUAD_P2_COUNT_HI 7) (2 ^ 64 - 1), by decide +kernel⟩,
    ⟨7, ((sliceOn 7 6).wr (F.PSL_QUAD_P0_IDX 7) 2).wr64 (F.PSL_QUAD_P1_COUNT_LO 7) (F.PSL_QUAD_P2_COUNT_HI 7) (2 ^ 64 - 1), by decide +kernel⟩,
    ⟨7, 9, (sliceOn 7 7).wr (F.PSL_PULSE_P1_PERIOD 7) 10, by decide +kernel⟩,
    ⟨7, 10, (sliceOn 7 7).wr (F.PSL_PULSE_P1_PERIOD 7) 10, by decide +kernel⟩,
    ⟨7, false, (sliceOn 7 7).wr (F.PSL_PULSE_P0_GATE_EN 7) 1, by decide +kernel⟩,
    ⟨7, (((sliceOn 7 7).wr (F.PSL_PULSE_P5_RUN 7) 1).wr (F.PSL_PULSE_P0_MODE 7) 1).wr (F.PSL_PULSE_P3_COUNT 7) 5, by decide +kernel⟩,
    ⟨7, true, 0, State.reset, by decide +kernel⟩⟩

theorem witness_IoLink :
    (∃ (slice : Fin 48) (s : State), s.Live ∧ s.sliceRuns slice = true ∧ s.pers slice = 8 ∧ s.iolFeed slice = false) ∧
    (∃ (slice : Fin 48) (s : State), s.Live ∧ s.sliceRuns slice = true ∧ s.pers slice = 8 ∧ s.rd (F.PSL_IOL_P3_STATE slice) = 8 ∧ s.iolFeed slice = true ∧ 3 ≤ s.rd (F.PSL_IOL_P0_MODE slice)) ∧
    (∃ (slice : Fin 48) (r : Fin 4) (s : State), s.Live ∧ s.sliceRuns slice = true ∧ s.pers slice = 8 ∧ s.rd (F.PSL_IOL_P3_STATE slice) = 3 ∧ s.iolLive slice = true ∧ (s.par slice (F.PSL_IOL_P0_MODE slice) ≠ 4 ∨ s.par slice (F.PSL_IOL_P0_COM slice) = r.val)) ∧
    (∃ (slice : Fin 48) (r : Option (Fin 4)) (s : State), s.Live ∧ (r = none ∨ s.iolLive slice = false ∨ s.rd (F.PSL_IOL_P3_STATE slice) ≠ 3)) ∧
    (∃ (slice : Fin 48) (vid : BitVec 16) (did : BitVec 24) (s : State), s.Live ∧ s.sliceRuns slice = true ∧ s.pers slice = 8 ∧ s.rd (F.PSL_IOL_P3_STATE slice) = 4 ∧ (s.par slice (F.PSL_IOL_P0_VALIDATE slice) = 0 ∨ (vid.toNat = s.par slice (F.PSL_IOL_P1_VID slice) ∧ did.toNat = s.par slice (F.PSL_IOL_P2_DID slice)))) ∧
    (∃ (slice : Fin 48) (vid : BitVec 16) (did : BitVec 24) (s : State), s.Live ∧ s.sliceRuns slice = true ∧ s.pers slice = 8 ∧ s.rd (F.PSL_IOL_P3_STATE slice) = 4 ∧ s.par slice (F.PSL_IOL_P0_VALIDATE slice) ≠ 0 ∧ (vid.toNat ≠ s.par slice (F.PSL_IOL_P1_VID slice) ∨ did.toNat ≠ s.par slice (F.PSL_IOL_P2_DID slice))) ∧
    (∃ (slice : Fin 48) (x : SliceState) (s : State), s.Live ∧ s.sliceRuns slice = true ∧ s.pers slice = 8 ∧ s.rd (F.PSL_IOL_P3_STATE slice) = 5 ∧ s.slice slice = x ∧ x.failures < 2) ∧
    (∃ (slice : Fin 48) (x : SliceState) (s : State), s.Live ∧ s.sliceRuns slice = true ∧ s.pers slice = 8 ∧ s.rd (F.PSL_IOL_P3_STATE slice) = 5 ∧ s.slice slice = x ∧ 2 ≤ x.failures) ∧
    (∃ (slice : Fin 48) (s : State), s.Live ∧ s.sliceRuns slice = true ∧ s.pers slice = 8 ∧ s.rd (F.PSL_IOL_P3_STATE slice) = 6) ∧
    (∃ (slice : Fin 48) (pd : List Byte) (x : SliceState) (s : State), s.Live ∧ s.sliceRuns slice = true ∧ s.pers slice = 8 ∧ s.rd (F.PSL_IOL_P3_STATE slice) = 5 ∧ s.iolLive slice = true ∧ s.slice slice = x) ∧
    (∃ (init : Initiator) (slice : Fin 48) (word : Word) (s : State), s.Live ∧ s.pers slice = 8 ∧ s.rd (F.PSL_IOL_P3_STATE slice) = 7 ∧ s.almInForce = true ∧ (s.slice slice).rxBusy = false ∧ (s.slice slice).sending = false ∧ word.toNat < 2 ^ 24 ∧ s.rd ⟨(F.PSL_IOL_P2_DID slice).off, 24, 8, 0⟩ = 0 ∧ s.marked (.loaded (F.PSL_IOL_P2_DID slice).key) = false) ∧
    (∃ (slice : Fin 48) (vid : BitVec 16) (did : BitVec 24) (pd : List Byte) (s : State), s.Live) :=
  ⟨⟨7, sliceOn 7 8, by decide +kernel⟩,
    ⟨7, ((fedOn 7).wr (F.PSL_IOL_P3_STATE 7) 8).wr (F.PSL_IOL_P0_MODE 7) 3, by decide +kernel⟩,
    ⟨7, 2, (fedOn 7).wr (F.PSL_IOL_P3_STATE 7) 3, by decide +kernel⟩,
    ⟨7, none, (fedOn 7).wr (F.PSL_IOL_P3_STATE 7) 3, by decide +kernel⟩,
    ⟨7, 2, 3, (((sliceOn 7 8).wr (F.PSL_IOL_P3_STATE 7) 4).wr (F.PSL_IOL_P1_VID 7) 2).wr (F.PSL_IOL_P2_DID 7) 3, by decide +kernel⟩,
    ⟨7, 2, 3, ((sliceOn 7 8).wr (F.PSL_IOL_P3_STATE 7) 4).wr (F.PSL_IOL_P0_VALIDATE 7) 1, by decide +kernel⟩,
    ⟨7, {}, (sliceOn 7 8).wr (F.PSL_IOL_P3_STATE 7) 5, by decide +kernel⟩,
    ⟨7, { failures := 2 }, { (sliceOn 7 8).wr (F.PSL_IOL_P3_STATE 7) 5 with slices := [(7, { failures := 2 })] }, by decide +kernel⟩,
    ⟨7, (sliceOn 7 8).wr (F.PSL_IOL_P3_STATE 7) 6, by decide +kernel⟩,
    ⟨7, [1, 2], { pdOut := [7] }, { ((fedOn 7).wr (F.PSL_IOL_P3_STATE 7) 5).wr (F.PSL_IOL_P0_PDIN 7) 2 with slices := [(7, { pdOut := [7] })] }, by decide +kernel⟩,
    ⟨.bar0, 7, 0x12345, ((sliceOn 7 8).wr (F.PSL_IOL_P3_STATE 7) 7).wr F.GLB_HEALTH_ALM_OK 1, by decide +kernel⟩,
    ⟨7, 1, 2, [], State.reset, by decide +kernel⟩⟩

theorem witness_CanSending :
    (∃ (channel : Fin 16) (j : Fin 32) (w : Nat) (x : CanState) (s : State), s.Live ∧ s.bufMode channel j = 1 ∧ s.bufWord channel j 0x0C = w ∧ s.canSt channel = x ∧ bit w 31 = false ∧ s.canEstate channel ≠ 2) ∧
    (∃ (channel : Fin 16) (j : Fin 32) (s : State), s.Live ∧ s.bufMode channel j = 1 ∧ s.statBit channel j 31 = false ∧ s.canEstate channel = 2 ∧ bit (s.bufWord channel j 4) 27 = false) ∧
    (∃ (channel : Fin 16) (j : Fin 32) (s : State), s.Live ∧ s.bufMode channel j = 1 ∧ s.statBit channel j 31 = true) ∧
    (∃ (channel : Fin 16) (j : Fin 32) (s : State), s.Live ∧ s.bufMode channel (32 + j) ≠ 1) ∧
    (∃ (channel : Fin 16) (x : CanState) (s : State), s.Live ∧ s.canSt channel = x ∧ s.rd (F.CAN_Cc_CTL_EN channel) ≠ 0 ∧ bit s.canned channel.val = true ∧ s.canEstate channel ≠ 2 ∧ x.sof = none) ∧
    (∃ (channel : Fin 16) (s : State), s.Live ∧ (s.rd (F.CAN_Cc_CTL_EN channel) = 0 ∨ bit s.canned channel.val = false ∨ s.canEstate channel = 2 ∨ (s.canSt channel).sof.isSome = true)) ∧
    (∃ (channel : Fin 16) (b : Nat) (sof : Nat) (f : CanFrame) (s : State), s.Live ∧ (s.canSt channel).attempt = some (.buffer b) ∧ (s.canSt channel).sof = some sof ∧ (s.canSt channel).deferred.get? b = none ∧ s.canListens channel = false ∧ s.bufFrame channel b = f ∧ (f.fdf = false ∨ f.brs = false ∨ s.rd (F.CAN_Cc_TDC_TDC_EN channel) = 0) ∧ b < 64) ∧
    (∃ (channel : Fin 16) (e : RemoteEntry) (x : CanState) (s : State), s.Live ∧ s.canSt channel = x ∧ x.attempt = some (.entry e.serial) ∧ x.remote.find? (fun y => y.serial == e.serial) = some e ∧ e.source = none ∧ s.canListens channel = false ∧ (e.frame.fdf = false ∨ e.frame.brs = false ∨ s.rd (F.CAN_Cc_TDC_TDC_EN channel) = 0)) ∧
    (∃ (channel : Fin 16) (s : State), s.Live ∧ (s.canSt channel).attempt.isSome = true ∧ s.canListens channel = true) ∧
    (∃ (channel : Fin 16) (arb err : Bool) (s : State), s.Live ∧ (s.canSt channel).attempt = none) ∧
    (∃ (channel : Fin 16) (err : Bool) (b : Nat) (x : CanState) (s : State), s.Live ∧ s.canSt channel = x ∧ x.attempt = some (.buffer b) ∧ s.rd (F.CAN_Cc_CTL_OSM channel) = 0 ∧ s.bufWord channel b 8 = 0) ∧
    (∃ (channel : Fin 16) (b : Nat) (arb err : Bool) (s : State), s.Live ∧ (arb = true ∨ err = true) ∧ (s.canSt channel).attempt = some (.buffer b) ∧ (s.canSt channel).deferred.get? b = none ∧ s.rd (F.CAN_Cc_CTL_OSM channel) ≠ 0 ∧ b < 64) ∧
    (∃ (channel : Fin 16) (buffer : Fin 64) (d : Nat) (s : State), s.Live ∧ s.bufMode channel buffer = 1 ∧ s.statBit channel buffer 31 = true ∧ s.canDeadline channel buffer = some d ∧ d ≤ s.clk ∧ (s.canSt channel).attempt ≠ some (.buffer buffer.val) ∧ (s.canSt channel).deferred.get? buffer.val = none ∧ s.together = 0) ∧
    (∃ (channel : Fin 16) (buffer : Fin 64) (s : State), s.Live ∧ (s.statBit channel buffer 31 = false ∨ s.bufWord channel buffer 8 = 0)) ∧
    (∃ (channel : Fin 16) (frame : CanFrame) (x : CanState) (s : State), s.Live ∧ s.canSt channel = x ∧ x.remote.length < 16) ∧
    (∃ (channel : Fin 16) (frame : CanFrame) (s : State), s.Live ∧ 16 ≤ (s.canSt channel).remote.length) ∧
    (∃ (channel : Fin 16) (buffer : Fin 64) (x : CanState) (s : State), s.Live ∧ s.canSt channel = x) :=
  ⟨⟨3, 5, 0, {}, canOn 3 5 4 0x40000000, by decide +kernel⟩,
    ⟨3, 5, (canOn 3 5 4 0x40000000).wr (F.CAN_Cc_STATUS_ESTATE 3) 2, by decide +kernel⟩,
    ⟨3, 5, (canOn 3 5 4 0x40000000).setBufWord 3 5 0x0C 0x80000000, by decide +kernel⟩,
    ⟨3, 5, canOn 3 5 4 0x40000000, by decide +kernel⟩,
    ⟨3, {}, (canOn 3 5 4 0x40000000).setBufWord 3 5 0x0C 0x80000000, by decide +kernel⟩,
    ⟨3, State.reset, by decide +kernel⟩,
    ⟨3, 5, 77, noFrame, { (canOn 3 5 4 0x40000000).setBufWord 3 5 0x0C 0x80000000 with cans := [(3, { attempt := some (.buffer 5), sof := some 77 })] }, by decide +kernel⟩,
    ⟨3, { frame := noFrame, serial := 4 }, { attempt := some (.entry 4), sof := some 77, remote := [{ frame := noFrame, serial := 4 }] }, { canOn 3 5 4 0x40000000 with cans := [(3, { attempt := some (.entry 4), sof := some 77, remote := [{ frame := noFrame, serial := 4 }] })] }, by decide +kernel⟩,
    ⟨3, { (canOn 3 5 4 0x40000000).wr (F.CAN_Cc_CTL_LOM 3) 1 with cans := [(3, { attempt := some (.buffer 5), sof := some 77 })] }, by decide +kernel⟩,
    ⟨3, true, false, State.reset, by decide +kernel⟩,
    ⟨3, true, 5, { attempt := some (.buffer 5), sof := some 77 }, { (canOn 3 5 4 0x40000000).setBufWord 3 5 0x0C 0x80000000 with cans := [(3, { attempt := some (.buffer 5), sof := some 77 })] }, by decide +kernel⟩,
    ⟨3, 5, false, true, { ((canOn 3 5 4 0x40000000).setBufWord 3 5 0x0C 0x80000000).wr (F.CAN_Cc_CTL_OSM 3) 1 with cans := [(3, { attempt := some (.buffer 5), sof := some 77 })] }, by decide +kernel⟩,
    ⟨3, 5, 11250, { (((canOn 3 5 4 0x40000000).setBufWord 3 5 0x0C 0x80000000).setBufWord 3 5 8 9) with clk := 11250, cans := [(3, { asked := [(5, 0)] })] }, by decide +kernel⟩,
    ⟨3, 5, State.reset, by decide +kernel⟩,
    ⟨3, noFrame, {}, State.reset, by decide +kernel⟩,
    ⟨3, noFrame, { State.reset with cans := [(3, { remote := List.replicate 16 { frame := noFrame } })] }, by decide +kernel⟩,
    ⟨3, 5, { copied := 32 }, { State.reset with cans := [(3, { copied := 32 })] }, by decide +kernel⟩⟩

theorem witness_CanReceiving :
    (∃ (channel : Fin 16) (head : CanHead) (data : List Byte) (frame : CanFrame) (sof : Nat) (b : Nat) (s : State), s.Live ∧ head.frame data = frame ∧ s.canReads channel frame = true ∧ (s.canSt channel).sof = some sof ∧ s.rd (F.CAN_Cc_STATUS_ABDRUN channel) = 0 ∧ s.canListens channel = true ∧ s.rxMatch channel frame = some b ∧ frame.data.length ≤ 64) ∧
    (∃ (channel : Fin 16) (head : CanHead) (data : List Byte) (frame : CanFrame) (sof : Nat) (k : Nat) (x : CanState) (s : State), s.Live ∧ head.frame data = frame ∧ s.canReads channel frame = true ∧ s.canSt channel = x ∧ x.sof = some sof ∧ s.rd (F.CAN_Cc_STATUS_ABDRUN channel) = 0 ∧ s.canListens channel = true ∧ s.rxMatch channel frame = none ∧ s.filterMatch channel frame = some k ∧ bit (s.filterAt channel k) 63 = false ∧ bit (s.filterAt channel k) 29 = false ∧ x.fifo0.length < 32) ∧
    (∃ (channel : Fin 16) (head : CanHead) (data : List Byte) (frame : CanFrame) (s : State), s.Live ∧ head.frame data = frame ∧ s.canReads channel frame = true ∧ s.rd (F.CAN_Cc_STATUS_ABDRUN channel) = 0 ∧ s.canListens channel = true ∧ s.rxMatch channel frame = none ∧ s.filterMatch channel frame = none) ∧
    (∃ (channel : Fin 16) (head : CanHead) (data : List Byte) (frame : CanFrame) (s : State), s.Live ∧ head.frame data = frame ∧ s.canReads channel frame = true ∧ s.rd (F.CAN_Cc_STATUS_ABDRUN channel) = 0 ∧ s.canListens channel = false ∧ s.rd (F.CAN_Cc_STATUS_REC channel) ≤ 127) ∧
    (∃ (channel : Fin 16) (head : CanHead) (data : List Byte) (frame : CanFrame) (s : State), s.Live ∧ head.frame data = frame ∧ (s.canSt channel).sof = none) ∧
    (∃ (channel : Fin 16) (head : CanHead) (data : List Byte) (frame : CanFrame) (s : State), s.Live ∧ head.frame data = frame ∧ s.canRuns channel = true ∧ s.canEstate channel ≠ 2 ∧ s.canHears channel = true ∧ (s.canSt channel).sof.isSome = true ∧ frame.fdf = true ∧ s.rd (F.CAN_Cc_CTL_FDOE channel) = 0) ∧
    (∃ (channel : Fin 16) (j : Fin 32) (s : State), s.Live ∧ s.marked (.rxStored channel j) = false) ∧
    (∃ (channel : Fin 16) (fifos : BitVec 2) (x : CanState) (s : State), s.Live ∧ s.canSt channel = x ∧ s.marked (.popped channel 0) = false ∧ s.marked (.popped channel 1) = false) ∧
    (∃ (init : Initiator) (channel : Fin 16) (b : Fin 64) (s : State), s.Live ∧ bit s.canned channel.val = true ∧ s.bufMode channel b = 1 ∧ s.statBit channel b 31 = true) ∧
    (∃ (init : Initiator) (channel : Fin 16) (b : Fin 64) (w : Word) (s : State), s.Live ∧ bit s.canned channel.val = true ∧ s.bufMode channel b ≠ 1 ∧ s.bufMode channel b ≠ 3 ∧ s.bom.poisoned = [] ∧ s.bom.injected = [] ∧ s.rd F.BOM_INJ_ARMED = 0) ∧
    (∃ (init : Initiator) (channel : Fin 16) (off : BitVec 14) (data : List Byte) (enabled : Bool) (s : State), s.Live) :=
  ⟨⟨3, { id := 5, dlc := 2 }, [7, 8], { id := 5, fdf := false, brs := false, esi := false, dlc := 2, data := [7, 8] }, 77, 5, { (((canOn 3 5 4 0x80000000).setBufWord 3 5 0 5).setBufWord 3 5 8 0x1FFFFFFF).wr (F.CAN_Cc_CTL_LOM 3) 1 with cans := [(3, { sof := some 77 })] }, by decide +kernel⟩,
    ⟨3, { id := 5, dlc := 2 }, [7, 8], { id := 5, fdf := false, brs := false, esi := false, dlc := 2, data := [7, 8] }, 77, 0, { sof := some 77 }, { ((canOn 3 5 4 0).store 2 (canFilt 3 0) (leBytes 4 0x80000005)).wr (F.CAN_Cc_CTL_LOM 3) 1 with cans := [(3, { sof := some 77 })] }, by decide +kernel⟩,
    ⟨3, { id := 5, dlc := 2 }, [7, 8], { id := 5, fdf := false, brs := false, esi := false, dlc := 2, data := [7, 8] }, { (canOn 3 5 4 0).wr (F.CAN_Cc_CTL_LOM 3) 1 with cans := [(3, { sof := some 77 })] }, by decide +kernel⟩,
    ⟨3, { id := 5, dlc := 2 }, [7, 8], { id := 5, fdf := false, brs := false, esi := false, dlc := 2, data := [7, 8] }, { canOn 3 5 4 0 with cans := [(3, { sof := some 77 })] }, by decide +kernel⟩,
    ⟨3, { id := 0 }, [], noFrame, State.reset, by decide +kernel⟩,
    ⟨3, { id := 0, fdf := true }, [], { noFrame with fdf := true }, { canOn 3 5 4 0 with cans := [(3, { sof := some 77 })] }, by decide +kernel⟩,
    ⟨3, 5, (canOn 3 5 0x0C 0x60000000), by decide +kernel⟩,
    ⟨3, 2, { fifo1 := [[1], [2]] }, { State.reset with cans := [(3, { fifo1 := [[1], [2]] })] }, by decide +kernel⟩,
    ⟨.bar0, 3, 5, (canOn 3 5 4 0x40000000).setBufWord 3 5 0x0C 0x80000000, by decide +kernel⟩,
    ⟨.bar0, 3, 5, 0x12345678, canOn 3 5 4 0x80000000, by decide +kernel⟩,
    ⟨.bar0, 3, 2, [1], true, canOn 3 5 4 0, by decide +kernel⟩⟩

theorem witness_CanStates :
    (∃ (channel : Fin 16) (lec : Fin 8) (dph : Bool) (s : State), s.Live ∧ s.canRuns channel = true ∧ lec.val ≠ 0 ∧ lec.val ≠ 7 ∧ s.rd (F.CAN_Cc_STATUS_ABDRUN channel) = 0 ∧ s.canListens channel = false ∧ s.canEstate channel = 0 ∧ s.rd (F.CAN_Cc_STATUS_REC channel) = 0 ∧ s.rd (F.CAN_Cc_STATUS_TEC channel) + 8 < 96 ∧ ((s.canSt channel).attempt.isSome = true ∨ (s.canSt channel).sof = none)) ∧
    (∃ (channel : Fin 16) (dph : Bool) (s : State), s.Live ∧ s.canRuns channel = true ∧ s.rd (F.CAN_Cc_STATUS_ABDRUN channel) = 0 ∧ s.canListens channel = false ∧ s.canEstate channel ≠ 2 ∧ 248 ≤ s.rd (F.CAN_Cc_STATUS_TEC channel) ∧ s.cycle = [] ∧ (∀ b < 64, s.bufMode channel b ≠ 1)) ∧
    (∃ (channel : Fin 16) (dph sending special : Bool) (s : State), s.Live ∧ s.canRuns channel = true ∧ s.rd (F.CAN_Cc_CTL_PXHD channel) = 0 ∧ s.rd (F.CAN_Cc_CTL_EN channel) ≠ 0) ∧
    (∃ (channel : Fin 16) (lec : Fin 8) (dph sending special : Bool) (s : State), s.Live ∧ (s.canRuns channel = false ∨ lec.val = 0)) ∧
    (∃ (channel : Fin 16) (s : State), s.Live ∧ s.canEstate channel = 2 ∧ s.rd (F.CAN_Cc_CTL_RECOV channel) ≠ 0) ∧
    (∃ (channel : Fin 16) (s : State), s.Live ∧ s.canEstate channel ≠ 2) ∧
    (∃ (channel : Fin 16) (sequences : BitVec 8) (s : State), s.Live ∧ s.canEstate channel = 2 ∧ (s.canSt channel).recovering = true ∧ s.rd (F.CAN_Cc_STATUS_RECSEQ channel) + sequences.toNat < 128) ∧
    (∃ (channel : Fin 16) (sequences : BitVec 8) (s : State), s.Live ∧ s.canEstate channel = 2 ∧ (s.canSt channel).recovering = true ∧ 128 ≤ s.rd (F.CAN_Cc_STATUS_RECSEQ channel) + sequences.toNat) ∧
    (∃ (channel : Fin 16) (s : State), s.Live ∧ s.canRuns channel = true) ∧
    (∃ (channel : Fin 16) (s : State), s.Live) ∧
    (∃ (channel : Fin 16) (lom : Bool) (x : CanState) (s : State), s.Live ∧ s.rd (F.CAN_Cc_STATUS_ABDRUN channel) = 0 ∧ s.canSt channel = x) ∧
    (∃ (channel : Fin 16) (s : State), s.Live ∧ s.rd (F.CAN_Cc_STATUS_ABDRUN channel) ≠ 0) ∧
    (∃ (channel : Fin 16) (s : State), s.Live ∧ s.rd (F.CAN_Cc_CTL_EN channel) = 0 ∧ (s.canSt channel).sof = none) ∧
    (∃ (channel : Fin 16) (s : State), s.Live ∧ s.rd (F.CAN_Cc_CTL_EN channel) ≠ 0 ∧ s.rd (F.CAN_Cc_STATUS_ABDRUN channel) = 0) ∧
    (∃ (init : Initiator) (channel : Fin 16) (s : State), s.Live ∧ s.rd (F.CAN_Cc_STATUS_ABDRUN channel) = 0 ∧ s.rd (F.CAN_Cc_CTL_EN channel) ≠ 0 ∧ s.rd (F.CAN_Cc_CTL_LOM channel) ≠ 0) ∧
    (∃ (init : Initiator) (channel : Fin 16) (s : State), s.Live ∧ s.rd (F.CAN_Cc_STATUS_ABDRUN channel) = 0) ∧
    (∃ (init : Initiator) (channel : Fin 16) (s : State), s.Live ∧ s.rd (F.CAN_Cc_STATUS_ABDRUN channel) ≠ 0) ∧
    (∃ (channel : Fin 16) (s : State), s.Live ∧ s.rd (F.CAN_Cc_STATUS_ABDRUN channel) ≠ 0 ∧ s.rd (F.CAN_Cc_ABD_STAT_CUR channel) < s.rd (F.CAN_Cc_ABD_CFG_NCAND channel) ∧ s.together = 0) ∧
    (∃ (channel : Fin 16) (s : State), s.Live ∧ s.rd (F.CAN_Cc_STATUS_ABDRUN channel) ≠ 0 ∧ s.rd (F.CAN_Cc_ABD_CFG_NCAND channel) ≤ s.rd (F.CAN_Cc_ABD_STAT_CUR channel) ∧ s.rd (F.CAN_Cc_ABD_CFG_PASSES channel) ≠ 0 ∧ s.rd (F.CAN_Cc_ABD_CFG_PASSES channel) ≤ s.rd (F.CAN_Cc_ABD_STAT_PASS channel) + 1 ∧ s.together = 0) ∧
    (∃ (channel : Fin 16) (head : CanHead) (data : List Byte) (frame : CanFrame) (k : Nat) (s : State), s.Live ∧ head.frame data = frame ∧ s.canReads channel frame = true ∧ s.rd (F.CAN_Cc_STATUS_ABDRUN channel) ≠ 0 ∧ s.rd (F.CAN_Cc_ABD_STAT_CUR channel) = k ∧ k < 8 ∧ s.rd (F.CAN_Cc_CANDk_DBT_REQ_FD channel k) = 0 ∧ s.rd (F.CAN_Cc_ABD_CFG_MATCH_N channel) ≤ (s.canSt channel).abdGood + 1 ∧ s.almInForce = true ∧ s.cycle = []) :=
  ⟨⟨3, 1, true, canOn 3 5 4 0, by decide +kernel⟩,
    ⟨3, true, (canOn 3 5 4 0).wr (F.CAN_Cc_STATUS_TEC 3) 248, by decide +kernel⟩,
    ⟨3, true, false, false, canOn 3 5 4 0, by decide +kernel⟩,
    ⟨3, 1, true, false, false, State.reset, by decide +kernel⟩,
    ⟨3, (State.reset.wr (F.CAN_Cc_STATUS_ESTATE 3) 2).wr (F.CAN_Cc_CTL_RECOV 3) 1, by decide +kernel⟩,
    ⟨3, State.reset, by decide +kernel⟩,
    ⟨3, 9, { State.reset.wr (F.CAN_Cc_STATUS_ESTATE 3) 2 with cans := [(3, { recovering := true })] }, by decide +kernel⟩,
    ⟨3, 128, { State.reset.wr (F.CAN_Cc_STATUS_ESTATE 3) 2 with cans := [(3, { recovering := true })] }, by decide +kernel⟩,
    ⟨3, canOn 3 5 4 0, by decide +kernel⟩,
    ⟨3, canOn 3 5 4 0, by decide +kernel⟩,
    ⟨3, true, {}, canOn 3 5 4 0, by decide +kernel⟩,
    ⟨3, (canOn 3 5 4 0).wr (F.CAN_Cc_STATUS_ABDRUN 3) 1, by decide +kernel⟩,
    ⟨3, State.reset, by decide +kernel⟩,
    ⟨3, { canOn 3 5 4 0 with cans := [(3, { sof := some 77 })] }, by decide +kernel⟩,
    ⟨.bar0, 3, (canOn 3 5 4 0).wr (F.CAN_Cc_CTL_LOM 3) 1, by decide +kernel⟩,
    ⟨.bar0, 3, canOn 3 5 4 0, by decide +kernel⟩,
    ⟨.bar0, 3, (canOn 3 5 4 0).wr (F.CAN_Cc_STATUS_ABDRUN 3) 1, by decide +kernel⟩,
    ⟨3, ((canOn 3 5 4 0).wr (F.CAN_Cc_STATUS_ABDRUN 3) 1).wr (F.CAN_Cc_ABD_CFG_NCAND 3) 1, by decide +kernel⟩,
    ⟨3, ((canOn 3 5 4 0).wr (F.CAN_Cc_STATUS_ABDRUN 3) 1).wr (F.CAN_Cc_ABD_CFG_PASSES 3) 1, by decide +kernel⟩,
    ⟨3, { id := 0 }, [], noFrame, 2, { ((((canOn 3 5 4 0).wr (F.CAN_Cc_STATUS_ABDRUN 3) 1).wr (F.CAN_Cc_ABD_STAT_CUR 3) 2).wr (F.CAN_Cc_ABD_CFG_MATCH_N 3) 1).wr (F.CAN_Cc_CANDk_NBT_NBRP 3 2) 5 with cans := [(3, { sof := some 77 })] }, by decide +kernel⟩⟩

theorem witness_SawyerControlFlow :
    (∃ (sawyer : Fin 128) (pads : BitVec 16) (n w : Nat) (cond target : Nat) (s : State), s.Live ∧ sawyer.val = n ∧ s.sawNext n = some (w, false, some (.br cond target)) ∧ sawSmask w = 0 ∧ cond ≠ 7 ∧ cond ≠ 8) ∧
    (∃ (sawyer : Fin 128) (pads : BitVec 16) (n w : Nat) (target : Nat) (s : State), s.Live ∧ sawyer.val = n ∧ s.sawNext n = some (w, false, some (.loop target)) ∧ sawSmask w = 0 ∧ s.rd (F.SAW_Sn_LC_LC n) = 0) ∧
    (∃ (sawyer : Fin 128) (pads : BitVec 16) (n w : Nat) (target : Nat) (s : State), s.Live ∧ sawyer.val = n ∧ s.sawNext n = some (w, false, some (.loop target)) ∧ sawSmask w = 0 ∧ s.rd (F.SAW_Sn_LC_LC n) ≠ 0) ∧
    (∃ (sawyer : Fin 128) (pads : BitVec 16) (n w : Nat) (index : Nat) (s : State), s.Live ∧ sawyer.val = n ∧ s.sawNext n = some (w, false, some (.wait 2 true false true index)) ∧ sawSmask w = 0 ∧ s.marked (.flagSet (n / 8) index) = false ∧ bit (s.rd (F.SAW_Gg_FLAGS_FLAGS (n / 8))) index = true) ∧
    (∃ (sawyer : Fin 128) (pads : BitVec 16) (n w : Nat) (clr : Bool) (index : Nat) (s : State), s.Live ∧ sawyer.val = n ∧ s.sawNext n = some (w, false, some (.wait 2 true false clr index)) ∧ sawSmask w = 0 ∧ bit (s.rd (F.SAW_Gg_FLAGS_FLAGS (n / 8))) index = false) ∧
    (∃ (sawyer : Fin 128) (pads : BitVec 16) (n w : Nat) (s : State), s.Live ∧ sawyer.val = n ∧ s.sawNext n = some (w, false, some (.nop)) ∧ sawSmask w = 0) ∧
    (∃ (sawyer : Fin 128) (pads : BitVec 16) (n w : Nat) (s : State), s.Live ∧ sawyer.val = n ∧ s.sawNext n = some (w, false, some (.halt)) ∧ sawSmask w = 0) ∧
    (∃ (sawyer : Fin 128) (pads : BitVec 16) (n w : Nat) (s : State), s.Live ∧ sawyer.val = n ∧ s.sawNext n = some (w, false, none) ∧ s.bom.queue.length < 16 ∧ s.cycle = []) ∧
    (∃ (sawyer : Fin 128) (pads : BitVec 16) (n w index : Nat) (s : State), s.Live ∧ sawyer.val = n ∧ s.sawState n = 2 ∧ s.sawFrozen n = false ∧ s.together = 0 ∧ s.sawFetch n = w ∧ decodeSaw w = some (.wait 2 true false false index) ∧ bit (s.rd (F.SAW_Gg_FLAGS_FLAGS (n / 8))) index = true) ∧
    (∃ (sawyer : Fin 128) (pads : BitVec 16) (n w : Nat) (s : State), s.Live ∧ sawyer.val = n ∧ s.sawState n = 2 ∧ s.sawFrozen n = false ∧ s.together = 0 ∧ s.sawFetch n = w ∧ decodeSaw w = some (.wait 1 true false false 3) ∧ (s.saw n).edge = true) ∧
    (∃ (sawyer : Fin 128) (pads : BitVec 16) (n : Nat) (s : State), s.Live ∧ sawyer.val = n ∧ s.sawDelaying n = true ∧ s.sawFrozen n = false ∧ s.rd (F.SAW_Sn_STATUS_INJ_PEND n) = 0 ∧ s.rd (F.SAW_Sn_CTL_EN n) ≠ 0) ∧
    (∃ (sawyer : Fin 128) (pads : BitVec 16) (n w : Nat) (s : State), s.Live ∧ sawyer.val = n ∧ s.sawNext n = some (w, true, some .nop) ∧ sawSmask w = 0 ∧ s.sawState n = 3) ∧
    (∃ (sawyer : Fin 128) (pads : BitVec 16) (n w : Nat) (s : State), s.Live ∧ sawyer.val = n ∧ s.sawNext n = some (w, true, none)) ∧
    (∃ (sawyer : Fin 128) (pads : BitVec 16) (s : State), s.Live ∧ s.sawNext sawyer = none ∧ s.sawDelaying sawyer = false) :=
  ⟨⟨9, 3, 9, 0x5000, 0, 5, sawOn 9 (0x5000), by decide +kernel⟩,
    ⟨9, 3, 9, 0x4005000, 5, sawOn 9 (0x4005000), by decide +kernel⟩,
    ⟨9, 3, 9, 0x4005000, 5, (sawOn 9 (0x4005000)).wr (F.SAW_Sn_LC_LC 9) 3, by decide +kernel⟩,
    ⟨9, 3, 9, 0x11503000, 3, (sawOn 9 (0x11503000)).wr (F.SAW_Gg_FLAGS_FLAGS 1) 8, by decide +kernel⟩,
    ⟨9, 3, 9, 0x11503000, true, 3, sawOn 9 (0x11503000), by decide +kernel⟩,
    ⟨9, 3, 9, 0xf8000000, sawOn 9 (0xf8000000), by decide +kernel⟩,
    ⟨9, 3, 9, 0xfc000000, sawOn 9 (0xfc000000), by decide +kernel⟩,
    ⟨9, 3, 9, 0xFFFFFFFF, sawOn 9 0xFFFFFFFF, by decide +kernel⟩,
    ⟨9, 3, 9, 0x11403000, 3, ((sawOn 9 (0x11403000)).wr (F.SAW_Gg_FLAGS_FLAGS 1) 8).wr (F.SAW_Sn_STATUS_STATE 9) 2, by decide +kernel⟩,
    ⟨9, 0, 9, 0x10c03000, { (sawOn 9 (0x10c03000)).wr (F.SAW_Sn_STATUS_STATE 9) 2 with saws := [(9, { edge := true })] }, by decide +kernel⟩,
    ⟨9, 3, 9, { sawOn 9 0 with saws := [(9, { delay := 3 })] }, by decide +kernel⟩,
    ⟨9, 3, 9, 0xf8000000, (((sawOn 9 0).wr (F.SAW_Sn_STATUS_STATE 9) 3).wr (F.SAW_Sn_INJ_WORD 9) 0xf8000000).wr (F.SAW_Sn_STATUS_INJ_PEND 9) 1, by decide +kernel⟩,
    ⟨9, 3, 9, 0xFFFFFFFF, (((sawOn 9 0).wr (F.SAW_Sn_STATUS_STATE 9) 3).wr (F.SAW_Sn_INJ_WORD 9) 0xFFFFFFFF).wr (F.SAW_Sn_STATUS_INJ_PEND 9) 1, by decide +kernel⟩,
    ⟨9, 3, State.reset, by decide +kernel⟩⟩

theorem witness_SawyerData :
    (∃ (sawyer : Fin 128) (pads : BitVec 16) (n w : Nat) (k : Nat) (s : State), s.Live ∧ sawyer.val = n ∧ s.sawNext n = some (w, false, some (.shi 1 k)) ∧ sawSmask w = 0 ∧ k < 32 ∧ s.rd (F.SAW_Sn_SHIFT_IN_RIGHT n) = 0) ∧
    (∃ (sawyer : Fin 128) (pads : BitVec 16) (n w : Nat) (k : Nat) (s : State), s.Live ∧ sawyer.val = n ∧ s.sawNext n = some (w, false, some (.shi 1 k)) ∧ sawSmask w = 0 ∧ k < 32 ∧ s.rd (F.SAW_Sn_SHIFT_IN_RIGHT n) ≠ 0) ∧
    (∃ (sawyer : Fin 128) (pads : BitVec 16) (n w : Nat) (k : Nat) (s : State), s.Live ∧ sawyer.val = n ∧ s.sawNext n = some (w, false, some (.sho 2 k)) ∧ sawSmask w = 0 ∧ k < 32 ∧ s.rd (F.SAW_Sn_SHIFT_OUT_RIGHT n) = 0 ∧ s.rd (F.SAW_Sn_OSR_VALUE n) < 2 ^ 32) ∧
    (∃ (sawyer : Fin 128) (pads : BitVec 16) (n w : Nat) (waitsp : Bool) (s : State), s.Live ∧ sawyer.val = n ∧ s.sawNext n = some (w, false, some (.send waitsp false)) ∧ sawSmask w = 0 ∧ (s.saw n).rx.length < 4) ∧
    (∃ (sawyer : Fin 128) (pads : BitVec 16) (n w : Nat) (s : State), s.Live ∧ sawyer.val = n ∧ s.sawNext n = some (w, false, some (.send true false)) ∧ sawSmask w = 0 ∧ (s.saw n).rx.length = 4 ∧ s.together = 0) ∧
    (∃ (sawyer : Fin 128) (pads : BitVec 16) (n w : Nat) (s : State), s.Live ∧ sawyer.val = n ∧ s.sawNext n = some (w, false, some (.send false false)) ∧ sawSmask w = 0 ∧ (s.saw n).rx.length = 4 ∧ s.together = 0) ∧
    (∃ (sawyer : Fin 128) (pads : BitVec 16) (n w : Nat) (waitdt : Bool) (v : Nat) (l : List Nat) (s : State), s.Live ∧ sawyer.val = n ∧ s.sawNext n = some (w, false, some (.take waitdt false)) ∧ sawSmask w = 0 ∧ (s.saw n).tx = v :: l) ∧
    (∃ (sawyer : Fin 128) (pads : BitVec 16) (n w : Nat) (s : State), s.Live ∧ sawyer.val = n ∧ s.sawNext n = some (w, false, some (.take true false)) ∧ sawSmask w = 0 ∧ (s.saw n).tx = [] ∧ s.together = 0) ∧
    (∃ (sawyer : Fin 128) (pads : BitVec 16) (n w : Nat) (x : Nat) (s : State), s.Live ∧ sawyer.val = n ∧ s.sawNext n = some (w, false, some (.copy 1 0 x)) ∧ sawSmask w = 0) ∧
    (∃ (sawyer : Fin 128) (pads : BitVec 16) (n w : Nat) (s : State), s.Live ∧ sawyer.val = n ∧ s.sawNext n = some (w, false, some (.copy 2 1 0)) ∧ sawSmask w = 0) ∧
    (∃ (sawyer : Fin 128) (pads : BitVec 16) (n w : Nat) (imm : Nat) (s : State), s.Live ∧ sawyer.val = n ∧ s.sawNext n = some (w, false, some (.ldi 0 imm)) ∧ sawSmask w = 0) ∧
    (∃ (sawyer : Fin 128) (pads : BitVec 16) (n w : Nat) (imm : Nat) (s : State), s.Live ∧ sawyer.val = n ∧ s.sawNext n = some (w, false, some (.ldi 3 imm)) ∧ sawSmask w = 0) ∧
    (∃ (sawyer : Fin 128) (pads : BitVec 16) (n w : Nat) (v b : Nat) (s : State), s.Live ∧ sawyer.val = n ∧ s.sawNext n = some (w, false, some (.pinset false 1 v)) ∧ sawSmask w = 0 ∧ s.rd (F.SAW_Sn_WIN_WBASE n) = b ∧ b < 16 ∧ s.sawPin n b < 0xC0) ∧
    (∃ (sawyer : Fin 128) (pads : BitVec 16) (n w : Nat) (imm : Nat) (s : State), s.Live ∧ sawyer.val = n ∧ s.sawNext n = some (w, false, some (.calc 0 imm)) ∧ sawSmask w = 0) ∧
    (∃ (sawyer : Fin 128) (pads : BitVec 16) (n w : Nat) (imm : Nat) (s : State), s.Live ∧ sawyer.val = n ∧ s.sawNext n = some (w, false, some (.calc 1 imm)) ∧ sawSmask w = 0 ∧ s.rd (F.SAW_Sn_Y_VALUE n) < 2 ^ 32) ∧
    (∃ (sawyer : Fin 128) (pads : BitVec 16) (n w : Nat) (k : Nat) (s : State), s.Live ∧ sawyer.val = n ∧ s.sawNext n = some (w, false, some (.calc 9 k)) ∧ sawSmask w = 0 ∧ 0 < k ∧ k < 32) ∧
    (∃ (sawyer : Fin 128) (pads : BitVec 16) (n w : Nat) (s : State), s.Live ∧ sawyer.val = n ∧ s.sawNext n = some (w, false, some (.post false)) ∧ sawSmask w = 0) ∧
    (∃ (sawyer : Fin 128) (pads : BitVec 16) (n w : Nat) (k : Nat) (s : State), s.Live ∧ sawyer.val = n ∧ s.sawNext n = some (w, false, some (.flag 0 k)) ∧ sawSmask w = 0 ∧ k < 8) ∧
    (∃ (sawyer : Fin 128) (pads : BitVec 16) (n w : Nat) (k : Nat) (s : State), s.Live ∧ sawyer.val = n ∧ s.sawNext n = some (w, false, some (.flag 2 k)) ∧ sawSmask w = 0) ∧
    (∃ (sawyer : Fin 128) (pads : BitVec 16) (n w : Nat) (s : State), s.Live ∧ sawyer.val = n ∧ s.sawNext n = some (w, false, some (.stamp)) ∧ sawSmask w = 0) :=
  ⟨⟨9, 3, 9, 0x20805000, 5, ((sawOn 9 (0x20805000)).wr (F.SAW_Sn_X_VALUE 9) 0x35).wr (F.SAW_Sn_SHIFT_IN_RIGHT 9) 0, by decide +kernel⟩,
    ⟨9, 3, 9, 0x20805000, 5, ((sawOn 9 (0x20805000)).wr (F.SAW_Sn_X_VALUE 9) 0x35).wr (F.SAW_Sn_SHIFT_IN_RIGHT 9) 1, by decide +kernel⟩,
    ⟨9, 3, 9, 0x25005000, 5, ((sawOn 9 (0x25005000)).wr (F.SAW_Sn_OSR_VALUE 9) 0xF8000001).wr (F.SAW_Sn_SHIFT_OUT_RIGHT 9) 0, by decide +kernel⟩,
    ⟨9, 3, 9, 0x32000000, true, (sawOn 9 (0x32000000)).wr (F.SAW_Sn_ISR_VALUE 9) 7, by decide +kernel⟩,
    ⟨9, 3, 9, 0x32000000, { sawOn 9 (0x32000000) with saws := [(9, { rx := [1, 2, 3, 4] })] }, by decide +kernel⟩,
    ⟨9, 3, 9, 0x30000000, { sawOn 9 (0x30000000) with saws := [(9, { rx := [1, 2, 3, 4] })] }, by decide +kernel⟩,
    ⟨9, 3, 9, 0x34000000, false, 1, [2, 3, 4], { sawOn 9 (0x34000000) with saws := [(9, { tx := [1, 2, 3, 4] })] }, by decide +kernel⟩,
    ⟨9, 3, 9, 0x36000000, sawOn 9 (0x36000000), by decide +kernel⟩,
    ⟨9, 3, 9, 0x40880000, 2, (sawOn 9 (0x40880000)).wr (F.SAW_Sn_X_VALUE 9) 0x80000003, by decide +kernel⟩,
    ⟨9, 3, 9, 0x41100000, (sawOn 9 (0x41100000)).wr (F.SAW_Sn_Y_VALUE 9) 0x80000003, by decide +kernel⟩,
    ⟨9, 3, 9, 0x50abc000, 0xABC, sawOn 9 (0x50abc000), by decide +kernel⟩,
    ⟨9, 3, 9, 0x53abc000, 0xABC, (sawOn 9 (0x53abc000)).wr (F.SAW_Sn_X_VALUE 9) 0x80000003, by decide +kernel⟩,
    ⟨9, 3, 9, 0x54001000, 1, 0, { sawOn 9 (0x54001000) with saws := [(9, { pins := [0] })] }, by decide +kernel⟩,
    ⟨9, 3, 9, 0x60000000, 0, ((sawOn 9 (0x60000000)).wr (F.SAW_Sn_X_VALUE 9) 0xFFFFFFFF).wr (F.SAW_Sn_Y_VALUE 9) 2, by decide +kernel⟩,
    ⟨9, 3, 9, 0x60400000, 0, ((sawOn 9 (0x60400000)).wr (F.SAW_Sn_X_VALUE 9) 1).wr (F.SAW_Sn_Y_VALUE 9) 2, by decide +kernel⟩,
    ⟨9, 3, 9, 0x62403000, 3, (sawOn 9 (0x62403000)).wr (F.SAW_Sn_X_VALUE 9) 0xFFFFFFF4, by decide +kernel⟩,
    ⟨9, 3, 9, 0x70000000, (sawOn 9 (0x70000000)).wr (F.SAW_Sn_X_VALUE 9) 0xFFFFFFFF, by decide +kernel⟩,
    ⟨9, 3, 9, 0x74003000, 3, sawOn 9 (0x74003000), by decide +kernel⟩,
    ⟨9, 3, 9, 0x76000000, 0, sawOn 9 (0x76000000), by decide +kernel⟩,
    ⟨9, 3, 9, 0x78000000, sawOn 9 (0x78000000), by decide +kernel⟩⟩

theorem witness_SawyerRegisters :
    (∃ (sawyer : Fin 128) (s : State), s.Live ∧ s.sawState sawyer = 0 ∧ (s.saw sawyer).used = true) ∧
    (∃ (sawyer : Fin 128) (s : State), s.Live ∧ (s.sawState sawyer = 1 ∨ s.sawState sawyer = 2) ∧ s.sawDelaying sawyer = false) ∧
    (∃ (init : Initiator) (sawyer : Fin 128) (word : Word) (s : State), s.Live ∧ s.rd (F.SAW_Sn_STATUS_INJ_PEND sawyer) = 0) ∧
    (∃ (init : Initiator) (sawyer : Fin 128) (word : Word) (s : State), s.Live ∧ s.rd (F.SAW_Sn_STATUS_INJ_PEND sawyer) ≠ 0) ∧
    (∃ (sawyer : Fin 128) (word : Word) (x : SawState) (s : State), s.Live ∧ s.marked (.txfTaken sawyer.val) = false ∧ s.saw sawyer = x ∧ x.tx.length < 4) ∧
    (∃ (sawyer : Fin 128) (word : Word) (s : State), s.Live ∧ s.marked (.txfTaken sawyer.val) = false ∧ 4 ≤ (s.saw sawyer).tx.length) ∧
    (∃ (sawyer : Fin 128) (x : SawState) (w : Nat) (l : List Nat) (s : State), s.Live ∧ s.marked (.sawSent sawyer.val) = false ∧ s.saw sawyer = x ∧ x.rx = w :: l) ∧
    (∃ (sawyer : Fin 128) (s : State), s.Live ∧ s.marked (.sawSent sawyer.val) = false ∧ (s.saw sawyer).rx = []) ∧
    (∃ (sawyer : Fin 128) (word : Word) (s : State), s.Live ∧ s.marked (.dropHarvested sawyer.val) = false) ∧
    (∃ (grove : Fin 16) (flags : BitVec 8) (s : State), s.Live ∧ s.cycle = []) ∧
    (∃ (init : Initiator) (grove : Fin 16) (clean : Bool) (k : Fin 8) (s : State), s.Live ∧ s.reloads.get? grove.val = none ∧ (s.saw (8 * grove.val + k.val)).used = true) ∧
    (∃ (init : Initiator) (grove : Fin 16) (mask : BitVec 8) (clean : Bool) (k : Nat) (s : State), s.Live ∧ s.reloads.get? grove.val = none ∧ k < 8 ∧ bit mask.toNat k = true ∧ (s.saw (8 * grove.val + k)).used = false) ∧
    (∃ (grove : Fin 16) (mask : Nat) (s : State), s.Live ∧ s.reloads.get? grove.val = some (mask, false) ∧ (∀ k < 8, bit mask k = true → s.sawDelaying (8 * grove.val + k) = false)) ∧
    (∃ (init : Initiator) (off : BitVec 15) (data : List Byte) (enabled : Bool) (s : State), s.Live ∧ groveForm off.toNat data.length enabled = true ∧ s.bom.poisoned = [] ∧ s.bom.injected = [] ∧ s.rd F.BOM_INJ_ARMED = 0) ∧
    (∃ (init : Initiator) (off : BitVec 15) (data : List Byte) (enabled : Bool) (s : State), s.Live ∧ groveForm off.toNat data.length enabled = false) :=
  ⟨⟨9, { State.reset with saws := [(9, { used := true })] }, by decide +kernel⟩,
    ⟨9, sawOn 9 0, by decide +kernel⟩,
    ⟨.bar0, 9, 5, State.reset, by decide +kernel⟩,
    ⟨.bar0, 9, 5, State.reset.wr (F.SAW_Sn_STATUS_INJ_PEND 9) 1, by decide +kernel⟩,
    ⟨9, 5, {}, State.reset, by decide +kernel⟩,
    ⟨9, 5, { State.reset with saws := [(9, { tx := [1, 2, 3, 4] })] }, by decide +kernel⟩,
    ⟨9, { rx := [1, 2] }, 1, [2], { State.reset with saws := [(9, { rx := [1, 2] })] }, by decide +kernel⟩,
    ⟨9, State.reset, by decide +kernel⟩,
    ⟨9, 5, State.reset, by decide +kernel⟩,
    ⟨9, 5, State.reset, by decide +kernel⟩,
    ⟨.bar0, 1, true, 3, { State.reset with saws := [(11, { used := true })] }, by decide +kernel⟩,
    ⟨.bar0, 1, 8, true, 3, State.reset, by decide +kernel⟩,
    ⟨1, 8, { (State.reset.wr (F.SAW_Sn_PROG_ENTRY 11) 5).wr (F.SAW_Sn_CTL_EN 11) 1 with reloads := [(1, (8, false))] }, by decide +kernel⟩,
    ⟨.bar0, 0x7FC, [1, 2, 3, 4], true, State.reset, by decide +kernel⟩,
    ⟨.bar0, 0x7FC, [1, 2, 3, 4, 5, 6, 7, 8], true, State.reset, by decide +kernel⟩⟩

theorem witness_RingPorts :
    (∃ (port : Fin 8) (s : State), s.Live ∧ portUsed s port = true ∧ portDown s port = true ∧ (port.val = 4 → s.stt.resigning = false)) ∧
    (∃ (port : Fin 4) (s : State), s.Live ∧ portSettle s port = true ∧ (s.admitted && (s.mac port).helloAdmitted) = false ∧ s.cutNow port.val = false) ∧
    (∃ (port : Fin 4) (s : State), s.Live ∧ portSettle s port = true ∧ (s.admitted = true ∧ (s.mac port).helloAdmitted = true ∨ s.cutNow port.val = true)) ∧
    (∃ (port : Fin 8) (s : State), s.Live ∧ portSettle s port = true ∧ 4 ≤ port.val) ∧
    (∃ (port : Fin 4) (cause : LinkCause) (s : State), s.Live ∧ portUp s port = true) ∧
    (∃ (port : Fin 4) (s : State), s.Live ∧ portSettle s port = true) ∧
    (∃ (port : Fin 8) (s : State), s.Live ∧ portUp s port = true ∧ 4 ≤ port.val ∧ s.ringHub = true ∧ s.together = 0) ∧
    (∃ (port : Fin 7) (s : State), s.Live ∧ portUsed s port = true) ∧
    (∃ (port : Fin 7) (s : State), s.Live ∧ portUsed s port = true ∧ (s.mac port).unacked ≠ 0) ∧
    (∃ (port : Fin 7) (s : State), s.Live ∧ (s.mac port).replay ≠ [] ∧ s.rd (portHbF port) ≠ 0 ∧ portUp s port = true) ∧
    (∃ (port : Fin 4) (s : State), s.Live) ∧
    (∃ (s : State), s.Live) :=
  ⟨⟨2, (State.reset.wr (F.CRL_Pp_CFG_USED 2) 1).wr (portLfF 2) 1, by decide +kernel⟩,
    ⟨2, State.reset.wr (portStateF 2) 1, by decide +kernel⟩,
    ⟨2, { (State.reset.wr (portStateF 2) 1).wr F.CRL_STATUS_ADMITTED 1 with ring := { macs := [(2, { helloAdmitted := true })] } }, by decide +kernel⟩,
    ⟨5, State.reset.wr (portStateF 5) 1, by decide +kernel⟩,
    ⟨2, .localFault, (State.reset.wr F.CRL_CTL_RING_EN 1).wr (portStateF 2) 3, by decide +kernel⟩,
    ⟨2, State.reset.wr (portStateF 2) 1, by decide +kernel⟩,
    ⟨5, (State.reset.wr F.CRL_CTL_RING_EN 1).wr (portStateF 5) 3, by decide +kernel⟩,
    ⟨2, State.reset.wr (F.CRL_Pp_CFG_USED 2) 1, by decide +kernel⟩,
    ⟨2, { State.reset.wr (F.CRL_Pp_CFG_USED 2) 1 with ring := { macs := [(2, { unacked := 5 })] } }, by decide +kernel⟩,
    ⟨2, { (State.reset.wr (portStateF 2) 3).wr (portHbF 2) 1 with ring := { macs := [(2, { replay := [sentOn 2 0 { typ := 5, tc := 4, dest := 12 }] })] } }, by decide +kernel⟩,
    ⟨3, { State.reset with ring := { macs := [(3, { draining := true })] } }, by decide +kernel⟩,
    ⟨State.reset.wr F.CRL_STATUS_HV_RUN 1, by decide +kernel⟩⟩

theorem witness_RingHops :
    (∃ (w : WireFrame) (s : State), s.Live ∧ portUp s 1 = true ∧ portUp s 0 = true ∧ portUp s 2 = true ∧ w.ours = true ∧ w.fcs = .good ∧ w.hcrcGood = true ∧ w.reservedSet = false ∧ w.frame.hopSeq = (s.mac 1).rxExp ∧ w.frame.typ = 5 ∧ w.frame.tc ≤ 5 ∧ w.frame.dup = false ∧ w.len = w.frame.payload.length ∧ w.len ≤ 2048 ∧ 2 ≤ w.frame.src / 4 ∧ w.frame.src / 4 ≠ s.rd F.GLB_POS_STATION ∧ s.epochFits w.frame = true ∧ w.frame.dest / 4 ≠ s.rd F.GLB_POS_STATION ∧ (s.ring.posmap.get? (w.frame.dest / 4)).isSome = true ∧ w.frame.dest / 4 ≠ 0 ∧ w.frame.dest / 4 ≠ 1023 ∧ w.frame.corr ≤ (ns16 (1000 * s.rd F.CRL_TMO0_MAXAGE) : Nat) ∧ (s.mac 1).unacked < 31) ∧
    (∃ (port : Fin 3) (w : WireFrame) (x : Window) (s : State), s.Live ∧ portUp s port = true ∧ port.val ≠ 0 ∧ s.admitted = true ∧ s.quarantined = false ∧ w.ours = true ∧ w.fcs = .good ∧ w.hcrcGood = true ∧ w.reservedSet = false ∧ w.frame.hopSeq = (s.mac port).rxExp ∧ w.frame.typ = 5 ∧ w.frame.kslot = 0 ∧ w.frame.tc ≤ 5 ∧ w.frame.dup = false ∧ w.len = w.frame.payload.length ∧ w.len ≤ 2048 ∧ 2 ≤ w.frame.src / 4 ∧ w.frame.src / 4 ≠ s.rd F.GLB_POS_STATION ∧ s.epochFits w.frame = true ∧ w.frame.dest = s.self ∧ (s.ring.posmap.get? (s.rd F.GLB_POS_STATION)).isSome = true ∧ 1 ≤ s.rd F.GLB_POS_STATION ∧ s.rd F.GLB_POS_HUBPOS < 4 ∧ w.frame.corr ≤ (ns16 (1000 * s.rd F.CRL_TMO0_MAXAGE) : Nat) ∧ (s.mac port).unacked < 31 ∧ Window.judge (s.ring.windows.get? (windowKey w.frame)) w.frame.flowSeq = .accept x) ∧
    (∃ (port : Fin 7) (w : WireFrame) (s : State), s.Live ∧ w.ours = true ∧ w.fcs = .good ∧ w.hcrcGood = true ∧ w.frame.hopSeq ≠ (s.mac port).rxExp ∧ newer 16 w.frame.hopSeq (s.mac port).rxExp = false) ∧
    (∃ (port : Fin 7) (w : WireFrame) (s : State), s.Live ∧ portUp s port = true ∧ w.ours = true ∧ (w.fcs = .bad ∧ w.frame.hopSeq ≠ (s.mac port).rxExp ∨ w.fcs = .good ∧ w.hcrcGood = false ∨ w.fcs = .bad ∧ w.hcrcGood = false) ∧ s.nakOpen port = false) ∧
    (∃ (port : Fin 4) (w : WireFrame) (s : State), s.Live ∧ portUp s port = true ∧ w.ours = true ∧ w.fcs = .stomped ∧ w.frame.hopSeq ≠ (s.mac port).rxExp) ∧
    (∃ (port : Fin 7) (s : State), s.Live ∧ (s.mac port).nakClk.isSome = true) ∧
    (∃ (port : Fin 7) (info : LinkInfo) (s : State), s.Live ∧ portUsed s port = true ∧ info.nak = none ∧ s.ringHub = true) ∧
    (∃ (port : Fin 7) (info : LinkInfo) (n : Nat) (s : State), s.Live ∧ portUsed s port = true ∧ info.nak = some n ∧ s.downAhead port = false ∧ s.ringHub = true ∧ (s.mac port).nakCount = 0) ∧
    (∃ (port : Fin 7) (info : LinkInfo) (n : Nat) (s : State), s.Live ∧ portUsed s port = true ∧ portUp s port = true ∧ info.nak = some n ∧ s.downAhead port = false ∧ (s.mac port).naked = n ∧ (s.mac port).nakCount = 7) ∧
    (∃ (port : Fin 16) (frame : Frame) (outs : List Nat) (d : Bool) (s : State), s.Live ∧ port.val < 14 ∧ s.quarantined = false ∧ frame.kslot = 0 ∧ s.route frame = .ok (outs, d) ∧ outs ≠ []) ∧
    (∃ (port : Fin 16) (frame : Frame) (s : State), s.Live ∧ 14 ≤ port.val) ∧
    (∃ (port : Fin 16) (frame : Frame) (s : State), s.Live ∧ port.val < 14 ∧ s.quarantined = false ∧ s.route frame = .error 0x1004) ∧
    (∃ (w : WireFrame) (x : Window) (s : State), s.Live ∧ portUsed s 7 = true ∧ s.admitted = true ∧ s.quarantined = false ∧ w.ours = true ∧ w.fcs = .good ∧ w.hcrcGood = true ∧ w.reservedSet = false ∧ w.frame.typ = 5 ∧ w.frame.kslot = 0 ∧ w.frame.tc ≤ 5 ∧ w.frame.dup = false ∧ w.len = w.frame.payload.length ∧ w.len ≤ 2048 ∧ 2 ≤ w.frame.src / 4 ∧ s.epochFits w.frame = true ∧ w.frame.dest = s.self ∧ (s.ring.posmap.get? (s.rd F.GLB_POS_STATION)).isSome = true ∧ 1 ≤ s.rd F.GLB_POS_STATION ∧ s.rd F.GLB_POS_HUBPOS < 4 ∧ w.frame.corr ≤ (ns16 (1000 * s.rd F.CRL_TMO0_MAXAGE) : Nat) ∧ Window.judge (s.ring.windows.get? (windowKey w.frame)) w.frame.flowSeq = .accept x) ∧
    (∃ (w : WireFrame) (s : State), s.Live ∧ portUsed s 7 = true ∧ (w.ours = false ∨ w.fcs ≠ .good ∨ w.hcrcGood = false)) :=
  ⟨⟨{ frame := { typ := 5, tc := 4, dest := 12, src := 20, payload := [1, 2] }, len := 2 }, { ((State.reset.wr (portStateF 0) 3).wr (portStateF 1) 3).wr (portStateF 2) 3 with ring := { posmap := [(3, 1)] } }, by decide +kernel⟩,
    ⟨1, { frame := { typ := 5, tc := 4, dest := 12, src := 20, flowSeq := 8, payload := [1, 2] }, len := 2 }, ⟨8, 0⟩, { ((State.reset.wr (portStateF 1) 3).wr F.CRL_STATUS_ADMITTED 1).wr F.GLB_POS_STATION 3 with ring := { posmap := [(3, 1)] } }, by decide +kernel⟩,
    ⟨2, { frame := { typ := 5, tc := 4, dest := 12, hopSeq := 65535 }, len := 0 }, State.reset.wr (portStateF 2) 3, by decide +kernel⟩,
    ⟨2, { frame := { typ := 5, tc := 4, dest := 12, hopSeq := 3 }, fcs := .bad, len := 0 }, State.reset.wr (portStateF 2) 3, by decide +kernel⟩,
    ⟨2, { frame := { typ := 5, tc := 4, dest := 12, hopSeq := 3 }, fcs := .stomped, len := 0 }, State.reset.wr (portStateF 2) 3, by decide +kernel⟩,
    ⟨2, { State.reset with ring := { macs := [(2, { rxExp := 7, nakClk := some 0 })] } }, by decide +kernel⟩,
    ⟨2, { ack := 4, admitted := true, serial := 9 }, { (State.reset.wr F.CRL_CTL_RING_EN 1).wr (F.CRL_Pp_CFG_USED 2) 1 with ring := { macs := [(2, { replay := [sentOn 2 4 { typ := 5, tc := 4, dest := 12 }, sentOn 2 5 { typ := 5, tc := 4, dest := 12 }] })] } }, by decide +kernel⟩,
    ⟨2, { ack := 4, nak := some 5, admitted := true, serial := 9 }, 5, { (State.reset.wr F.CRL_CTL_RING_EN 1).wr (F.CRL_Pp_CFG_USED 2) 1 with ring := { macs := [(2, { replay := [sentOn 2 4 { typ := 5, tc := 4, dest := 12 }, sentOn 2 5 { typ := 5, tc := 4, dest := 12 }] })] } }, by decide +kernel⟩,
    ⟨2, { ack := 4, nak := some 5, admitted := true, serial := 9 }, 5, { ((State.reset.wr F.CRL_CTL_RING_EN 1).wr (F.CRL_Pp_CFG_USED 2) 1).wr (portStateF 2) 3 with ring := { macs := [(2, { naked := 5, nakCount := 7, replay := [sentOn 2 5 { typ := 5, tc := 4, dest := 12 }] })] } }, by decide +kernel⟩,
    ⟨8, { typ := 5, tc := 6, dest := 12 }, [0, 3], false, ((((State.reset.wr F.CRL_CTL_RING_EN 1).wr (portStateF 0) 3).wr (portStateF 1) 3).wr (portStateF 2) 3).wr (portStateF 3) 3, ⟨by decide, by decide +kernel, by decide +kernel, rfl, rfl, by decide⟩⟩,
    ⟨14, { typ := 5, tc := 4, dest := 12 }, State.reset, by decide +kernel⟩,
    ⟨8, { typ := 5, tc := 4, dest := 12 }, State.reset.wr F.CRL_CTL_RING_EN 1, ⟨by decide, by decide +kernel, by decide +kernel, rfl⟩⟩,
    ⟨{ frame := { typ := 5, tc := 4, dest := 12, src := 20, flowSeq := 8, payload := [1, 2] }, len := 2 }, ⟨8, 0⟩, { ((State.reset.wr (F.STT_Pk_CFG_USED 3) 1).wr F.CRL_STATUS_ADMITTED 1).wr F.GLB_POS_STATION 3 with ring := { posmap := [(3, 1)] } }, by decide +kernel⟩,
    ⟨{ frame := { typ := 5, tc := 4, dest := 12 }, fcs := .bad, len := 0 }, State.reset.wr (F.STT_Pk_CFG_USED 3) 1, by decide +kernel⟩⟩

theorem witness_Admission :
    (∃ (s : State), s.Live ∧ s.ringHub = true ∧ s.admitted = false ∧ s.rd F.GLB_POS_STATION = 0 ∧ s.rd F.CRL_CTL_HEAD = 0 ∧ s.wrapE = false ∧ s.ring.posmap.get? 1 = none) ∧
    (∃ (info : JoinInfo) (expected : Bool) (hub : JoinHub) (sid : Nat) (s : State), s.Live ∧ s.rd F.CRL_CTL_HEAD ≠ 0 ∧ info.hubs.find? (fun x => x.pos == info.ringPos) = some hub ∧ hub.serial ≠ s.serial ∧ s.ring.head.roster.get? hub.serial = none ∧ freeStation s.ring.head.roster = some sid ∧ info.hubs.any (fun x => s.ring.head.hubs.any (fun p => p.2.serial == x.serial && p.1 / 4 != sid)) = false ∧ s.trainFits ((s.ring.head.hubs.filter (fun p => p.1 / 4 != sid && p.1 / 4 != 1)).map (fun p => slotLen p.2) ++ info.hubs.map slotLen) (info.stepsA + info.stepsB + 2) = true ∧ info.station ≠ sid ∧ s.ring.coming = none ∧ s.rd F.CRL_EPOCH_CUR < 65536) ∧
    (∃ (info : JoinInfo) (hub : JoinHub) (sid : Nat) (s : State), s.Live ∧ s.rd F.CRL_CTL_HEAD ≠ 0 ∧ info.hubs.find? (fun x => x.pos == info.ringPos) = some hub ∧ hub.serial ≠ s.serial ∧ s.ring.head.roster.get? hub.serial = some sid ∧ sid ≠ 1 ∧ info.hubs.any (fun x => s.ring.head.hubs.any (fun p => p.2.serial == x.serial && p.1 / 4 != sid)) = false ∧ s.trainFits ((s.ring.head.hubs.filter (fun p => p.1 / 4 != sid && p.1 / 4 != 1)).map (fun p => slotLen p.2) ++ info.hubs.map slotLen) (info.stepsA + info.stepsB + 2) = true ∧ s.granted info sid = true) ∧
    (∃ (info : JoinInfo) (expected : Bool) (hub : JoinHub) (sid : Nat) (s : State), s.Live ∧ s.rd F.CRL_CTL_HEAD ≠ 0 ∧ info.hubs.find? (fun x => x.pos == info.ringPos) = some hub ∧ hub.serial ≠ s.serial ∧ s.ring.head.roster.get? hub.serial = some sid ∧ info.hubs.any (fun x => s.ring.head.hubs.any (fun p => p.2.serial == x.serial && p.1 / 4 != sid)) = true) ∧
    (∃ (station : Fin 1023) (epoch : BitVec 16) (serial : BitVec 64) (s : State), s.Live ∧ s.ringHub = true ∧ serial.toNat = s.serial) ∧
    (∃ (station : Fin 1023) (epoch code : BitVec 16) (serial : BitVec 64) (s : State), s.Live ∧ s.ringHub = true ∧ serial.toNat ≠ s.serial) ∧
    (∃ (epoch : BitVec 16) (s : State), s.Live ∧ s.admitted = true ∧ s.quarantined = true) ∧
    (∃ (code : BitVec 16) (serial : BitVec 64) (s : State), s.Live ∧ (s.ringHub = true → serial.toNat = s.serial)) ∧
    (∃ (station : Fin 1023) (port : Fin 4) (serial : BitVec 64) (c : Nat) (s : State), s.Live ∧ s.rd F.CRL_CTL_HEAD ≠ 0 ∧ s.ring.head.linkAt station port = some c ∧ s.ring.head.roster.get? serial.toNat = none ∧ c ∉ s.ring.head.cuts ∧ s.ring.coming = none ∧ s.rd F.CRL_EPOCH_CUR < 65536) ∧
    (∃ (station other : Fin 1023) (port far : Fin 4) (serial : BitVec 64) (c : Nat) (s : State), s.Live ∧ s.rd F.CRL_CTL_HEAD ≠ 0 ∧ s.ring.head.linkAt station port = some c ∧ s.ring.head.linkAt other far = some c ∧ far.val % 2 ≠ port.val % 2 ∧ other.val * 4 + far.val ∈ s.ring.head.readies ∧ s.ring.head.downs.erase (station.val * 4 + port.val) = [] ∧ c ∈ s.ring.head.cuts ∧ s.ring.coming = none ∧ s.rd F.CRL_EPOCH_CUR < 65536) :=
  ⟨⟨((State.reset.wr F.CRL_CTL_RING_EN 1).wr (portStateF 0) 3).wr (portStateF 2) 3, by decide +kernel⟩,
    ⟨{ ringPos := 1, station := 0, epochHeld := 0, stepsA := 0, stepsB := 0, hubs := [{ serial := 77, pos := 1, flags := 0, inLen := 8, outLen := 8, hash := [] }] }, false, { serial := 77, pos := 1, flags := 0, inLen := 8, outLen := 8, hash := [] }, 2, (State.reset.wr F.CRL_CTL_RING_EN 1).wr F.CRL_CTL_HEAD 1, by decide +kernel⟩,
    ⟨{ ringPos := 1, station := 2, epochHeld := 0, stepsA := 0, stepsB := 0, hubs := [{ serial := 77, pos := 1, flags := 0, inLen := 8, outLen := 8, hash := [] }] }, { serial := 77, pos := 1, flags := 0, inLen := 8, outLen := 8, hash := [] }, 2, { (State.reset.wr F.CRL_CTL_RING_EN 1).wr F.CRL_CTL_HEAD 1 with ring := { head := { roster := [(77, 2)], positions := [(2, 1)], hubs := [(9, { serial := 77, pos := 1, flags := 0, inLen := 8, outLen := 8, hash := [] })] } } }, by decide +kernel⟩,
    ⟨{ ringPos := 1, station := 0, epochHeld := 0, stepsA := 0, stepsB := 0, hubs := [{ serial := 77, pos := 1, flags := 0, inLen := 8, outLen := 8, hash := [] }] }, false, { serial := 77, pos := 1, flags := 0, inLen := 8, outLen := 8, hash := [] }, 2, { (State.reset.wr F.CRL_CTL_RING_EN 1).wr F.CRL_CTL_HEAD 1 with ring := { head := { roster := [(77, 2)], hubs := [(13, { serial := 77, pos := 1, flags := 0, inLen := 8, outLen := 8, hash := [] })] } } }, by decide +kernel⟩,
    ⟨5, 3, 0, { (State.reset.wr F.CRL_CTL_RING_EN 1).wr F.CRL_STATUS_QUAR 1 with ring := { flowTx := [(4, 7)] } }, by decide +kernel⟩,
    ⟨5, 3, 4, 1, State.reset.wr F.CRL_CTL_RING_EN 1, by decide +kernel⟩,
    ⟨3, (State.reset.wr F.CRL_STATUS_ADMITTED 1).wr F.CRL_STATUS_QUAR 1, by decide +kernel⟩,
    ⟨3, 9, State.reset, by decide +kernel⟩,
    ⟨2, 0, 5, 1, { (State.reset.wr F.CRL_CTL_RING_EN 1).wr F.CRL_CTL_HEAD 1 with ring := { head := { positions := [(1, 0), (2, 1)], hops := 2 } } }, by decide +kernel⟩,
    ⟨2, 1, 1, 0, 5, 0, { (State.reset.wr F.CRL_CTL_RING_EN 1).wr F.CRL_CTL_HEAD 1 with ring := { head := { positions := [(1, 0), (2, 1)], hops := 2, cuts := [0], readies := [4] } } }, by decide +kernel⟩⟩

theorem witness_Epochs :
    (∃ (info : EpochInfo) (s : State), s.Live ∧ epochNewer info.newEpoch (s.rd F.CRL_EPOCH_CUR) = true ∧ info.prevEpoch = s.rd F.CRL_EPOCH_CUR ∧ s.ring.coming ≠ some info) ∧
    (∃ (info : EpochInfo) (s : State), s.Live ∧ epochNewer info.newEpoch (s.rd F.CRL_EPOCH_CUR) = true ∧ info.prevEpoch ≠ s.rd F.CRL_EPOCH_CUR) ∧
    (∃ (info : EpochInfo) (s : State), s.Live ∧ epochNewer info.newEpoch (s.rd F.CRL_EPOCH_CUR) = false) ∧
    (∃ (e : EpochInfo) (s : State), s.Live ∧ s.ring.coming = some e ∧ s.rd F.CRL_CTL_HEAD = 0 ∧ e.kepTx = s.rd F.CRL_KEY_TX ∧ e.kepTx < 16 ∧ e.kepNext = 0xFF) ∧
    (∃ (e : EpochInfo) (s : State), s.Live ∧ s.ring.coming = some e ∧ s.rd F.CRL_CTL_HEAD = 0 ∧ e.kepTx ≠ s.rd F.CRL_KEY_TX ∧ e.kepTx < 16 ∧ e.kepNext = 0xFF) ∧
    (∃ (e : EpochInfo) (s : State), s.Live ∧ s.ring.coming = some e ∧ s.rd F.CRL_CTL_HEAD = 0 ∧ e.kepTx = s.rd F.CRL_KEY_TX ∧ e.kepNext < 16 ∧ s.rd F.CRL_KEY_NEXT_VALID = 0) ∧
    (∃ (e : EpochInfo) (s : State), s.Live ∧ s.ring.head.announced = some e ∧ s.rd F.CRL_CTL_HEAD ≠ 0 ∧ s.ring.coming = none) ∧
    (∃ (s : State), s.Live) :=
  ⟨⟨{ newEpoch := 1, prevEpoch := 0, effectCycle := 4, hper := 4000, happly := 1000, hlaunch := 8, hops := 2, cut0 := 0xFFFF, cut1 := 0xFFFF, drain := 1, kepTx := 0, kepNext := 255, resets := [3], posmap := [(1, 0)] }, { State.reset with ring := { windows := [(100, ⟨1, 0⟩), (300, ⟨1, 0⟩)] } }, by decide +kernel⟩,
    ⟨{ newEpoch := 3, prevEpoch := 2, effectCycle := 4, hper := 4000, happly := 1000, hlaunch := 8, hops := 2, cut0 := 0xFFFF, cut1 := 0xFFFF, drain := 1, kepTx := 0, kepNext := 255, resets := [3], posmap := [(1, 0)] }, State.reset.wr F.CRL_STATUS_ADMITTED 1, by decide +kernel⟩,
    ⟨{ newEpoch := 0, prevEpoch := 2, effectCycle := 4, hper := 4000, happly := 1000, hlaunch := 8, hops := 2, cut0 := 0xFFFF, cut1 := 0xFFFF, drain := 1, kepTx := 0, kepNext := 255, resets := [3], posmap := [(1, 0)] }, State.reset, by decide +kernel⟩,
    ⟨{ newEpoch := 1, prevEpoch := 0, effectCycle := 4, hper := 4000, happly := 1000, hlaunch := 8, hops := 2, cut0 := 0xFFFF, cut1 := 0xFFFF, drain := 1, kepTx := 0, kepNext := 255, resets := [3], posmap := [(1, 0), (3, 1)] }, { (State.reset.wr F.GLB_POS_STATION 3).wr (portStateF 0) 2 with ring := { cuts := [1], coming := some { newEpoch := 1, prevEpoch := 0, effectCycle := 4, hper := 4000, happly := 1000, hlaunch := 8, hops := 2, cut0 := 0xFFFF, cut1 := 0xFFFF, drain := 1, kepTx := 0, kepNext := 255, resets := [3], posmap := [(1, 0), (3, 1)] } } }, by decide +kernel⟩,
    ⟨{ newEpoch := 1, prevEpoch := 0, effectCycle := 4, hper := 4000, happly := 1000, hlaunch := 8, hops := 2, cut0 := 0xFFFF, cut1 := 0xFFFF, drain := 1, kepTx := 3, kepNext := 255, resets := [3], posmap := [(1, 0), (3, 1)] }, { State.reset with swc := { frames := [{ id := 1, inPort := 8, outs := [10], cells := 1, guar := 1, hold := some 4, frame := { typ := 5, tc := 4, dest := 12 } }] }, ring := { coming := some { newEpoch := 1, prevEpoch := 0, effectCycle := 4, hper := 4000, happly := 1000, hlaunch := 8, hops := 2, cut0 := 0xFFFF, cut1 := 0xFFFF, drain := 1, kepTx := 3, kepNext := 255, resets := [3], posmap := [(1, 0), (3, 1)] } } }, by decide +kernel⟩,
    ⟨{ newEpoch := 1, prevEpoch := 0, effectCycle := 4, hper := 4000, happly := 1000, hlaunch := 8, hops := 2, cut0 := 0xFFFF, cut1 := 0xFFFF, drain := 1, kepTx := 0, kepNext := 1, resets := [3], posmap := [(1, 0), (3, 1)] }, { State.reset with ring := { coming := some { newEpoch := 1, prevEpoch := 0, effectCycle := 4, hper := 4000, happly := 1000, hlaunch := 8, hops := 2, cut0 := 0xFFFF, cut1 := 0xFFFF, drain := 1, kepTx := 0, kepNext := 1, resets := [3], posmap := [(1, 0), (3, 1)] } } }, by decide +kernel⟩,
    ⟨{ newEpoch := 1, prevEpoch := 0, effectCycle := 4, hper := 4000, happly := 1000, hlaunch := 8, hops := 2, cut0 := 0xFFFF, cut1 := 0xFFFF, drain := 1, kepTx := 3, kepNext := 255, resets := [3], posmap := [(1, 0), (3, 1)] }, { (State.reset.wr F.CRL_CTL_RING_EN 1).wr F.CRL_CTL_HEAD 1 with ring := { head := { announced := some { newEpoch := 1, prevEpoch := 0, effectCycle := 4, hper := 4000, happly := 1000, hlaunch := 8, hops := 2, cut0 := 0xFFFF, cut1 := 0xFFFF, drain := 1, kepTx := 3, kepNext := 255, resets := [3], posmap := [(1, 0), (3, 1)] } } } }, by decide +kernel⟩,
    ⟨{ State.reset with ring := { grace := true } }, by decide +kernel⟩⟩

theorem witness_Rekey :
    (∃ (init : Initiator) (s : State), s.Live ∧ s.rd F.CRL_CTL_HEAD ≠ 0 ∧ s.ring.head.kepNext = none ∧ s.rd F.CRL_STATUS_REKEY = 0 ∧ s.ring.coming = none ∧ s.rd F.CRL_EPOCH_CUR < 65536) ∧
    (∃ (init : Initiator) (s : State), s.Live ∧ (s.rd F.CRL_CTL_HEAD = 0 ∨ s.ring.head.kepNext ≠ none ∨ s.rd F.CRL_STATUS_REKEY ≠ 0)) ∧
    (∃ (s : State), s.Live ∧ s.rd F.CRL_CTL_HEAD ≠ 0 ∧ s.rd F.CRL_STATUS_REKEY ≠ 0) ∧
    (∃ (s : State), s.Live ∧ s.rd F.CRL_CTL_HEAD ≠ 0 ∧ s.rd F.CRL_STATUS_REKEY = 0 ∧ s.ring.head.kepNext = none) ∧
    (∃ (hub : Fin 4096) (kepoch : Fin 16) (s : State), s.Live ∧ s.rd F.CRL_CTL_HEAD ≠ 0 ∧ s.ring.head.kepNext = some kepoch.val ∧ s.ring.head.hubs.all (fun p => p.1 == hub.val || s.ring.head.rekeyed.contains p.1) = true ∧ s.ring.coming = none ∧ s.rd F.CRL_EPOCH_CUR < 65536 ∧ (s.rd F.CRL_EPOCH_CUR + 1 + 65536 - s.ring.head.switchEpoch % 65536) % 65536 < 32768) ∧
    (∃ (hub : Fin 4096) (kepoch : Fin 16) (s : State), s.Live ∧ s.rd F.CRL_CTL_HEAD ≠ 0 ∧ s.ring.head.kepNext = some kepoch.val ∧ s.ring.head.hubs.any (fun p => p.1 != hub.val && !s.ring.head.rekeyed.contains p.1) = true) ∧
    (∃ (k : Nat) (s : State), s.Live ∧ s.rd F.CRL_CTL_HEAD ≠ 0 ∧ s.ring.head.kepNext = some k ∧ s.ring.coming = none ∧ s.rd F.CRL_EPOCH_CUR < 65536 ∧ (s.rd F.CRL_EPOCH_CUR + 1 + 65536 - s.ring.head.switchEpoch % 65536) % 65536 < 32768) ∧
    (∃ (s : State), s.Live ∧ s.ring.preparing = true ∧ s.tlatch = false) ∧
    (∃ (s : State), s.Live ∧ s.ring.oldKeys = true) :=
  ⟨⟨.yarder, (State.reset.wr F.CRL_CTL_RING_EN 1).wr F.CRL_CTL_HEAD 1, by decide +kernel⟩,
    ⟨.tc4, State.reset, by decide +kernel⟩,
    ⟨(State.reset.wr F.CRL_STATUS_REKEY 1).wr F.CRL_CTL_HEAD 1, by decide +kernel⟩,
    ⟨State.reset.wr F.CRL_CTL_HEAD 1, by decide +kernel⟩,
    ⟨9, 1, { State.reset.wr F.CRL_CTL_HEAD 1 with ring := { head := { kepNext := some 1, rekeyed := [4], hubs := [(4, { serial := 1, pos := 0, flags := 0, inLen := 8, outLen := 8, hash := [] }), (9, { serial := 77, pos := 1, flags := 0, inLen := 8, outLen := 8, hash := [] })] } } }, by decide +kernel⟩,
    ⟨9, 1, { State.reset.wr F.CRL_CTL_HEAD 1 with ring := { head := { kepNext := some 1, hubs := [(4, { serial := 1, pos := 0, flags := 0, inLen := 8, outLen := 8, hash := [] }), (9, { serial := 77, pos := 1, flags := 0, inLen := 8, outLen := 8, hash := [] })] } } }, by decide +kernel⟩,
    ⟨1, { State.reset.wr F.CRL_CTL_HEAD 1 with ring := { head := { kepNext := some 1, hubs := [(9, { serial := 77, pos := 1, flags := 0, inLen := 8, outLen := 8, hash := [] })] } } }, by decide +kernel⟩,
    ⟨{ State.reset with ring := { preparing := true } }, by decide +kernel⟩,
    ⟨{ State.reset with ring := { oldKeys := true } }, by decide +kernel⟩⟩

theorem witness_HarvestCycle :
    (∃ (s : State), s.Live ∧ s.timeRuns = true ∧ s.ring.harvest.cycle < s.cycleAt ∧ s.admitted = true ∧ s.rd F.CRL_STATUS_HV_RUN = 0 ∧ s.ring.coming = none) ∧
    (∃ (images : List (Nat × List Byte)) (s : State), s.Live ∧ s.rd F.CRL_CTL_HEAD ≠ 0 ∧ s.ring.head.trainOpen = false ∧ s.ring.harvest.closed = false) ∧
    (∃ (img : List Nat) (s : State), s.Live ∧ s.ring.harvest.closed = false ∧ s.ring.harvest.start + ns16 (250 * s.rd F.CRL_HAPPLY_VALUE) ≤ s.now ∧ s.ring.released = false ∧ s.ring.harvest.staged = some img ∧ s.drives = true ∧ s.role = roleNone ∧ s.alm.coming = none ∧ s.alm.points = []) ∧
    (∃ (s : State), s.Live ∧ s.ring.harvest.closed = false ∧ s.ring.harvest.start + ns16 (250 * s.rd F.CRL_HAPPLY_VALUE) ≤ s.now ∧ s.ring.harvest.staged = none ∧ s.ring.harvest.written = false ∧ s.admitted = true ∧ s.ring.released = true ∧ s.quarantined = true ∧ s.role = roleNone ∧ s.alm.coming = none) ∧
    (∃ (s : State), s.Live ∧ s.rd F.CRL_CTL_HEAD ≠ 0 ∧ s.ring.head.trainOpen = true ∧ s.ring.harvest.closed = true) :=
  ⟨⟨{ (State.reset.wr F.CRL_STATUS_ADMITTED 1).wr F.TIM_STATUS_SERVO 2 with tim := { counter := 65536 * 65536 * 2000000 }, alm := { inLen := 8 } }, by decide +kernel⟩,
    ⟨[(4, [1, 2])], { (State.reset.wr F.CRL_CTL_HEAD 1).wr F.GLB_POS_STATION 1 with ring := { harvest := { closed := false } }, alm := { outLen := 2 } }, by decide +kernel⟩,
    ⟨[1, 2], { State.reset with ring := { harvest := { closed := false, staged := some [1, 2] } }, alm := { outLen := 2 }, tim := { counter := 65536 * 65536 * 2000000 } }, by decide +kernel⟩,
    ⟨{ (State.reset.wr F.CRL_STATUS_ADMITTED 1).wr F.CRL_STATUS_QUAR 1 with ring := { released := true, harvest := { closed := false } }, tim := { counter := 65536 * 65536 * 2000000 } }, by decide +kernel⟩,
    ⟨{ State.reset.wr F.CRL_CTL_HEAD 1 with ring := { harvest := { cycle := 7 }, head := { trainOpen := true, hubs := [(9, { serial := 77, pos := 1, flags := 0, inLen := 8, outLen := 8, hash := [] })] } } }, by decide +kernel⟩⟩

theorem witness_CommandsServed :
    (∃ (f : Frame) (s : State), s.Live ∧ f.typ = 5 ∧ cmdOp f = 1 ∧ cmdFits f = true ∧ f.tc ≠ 7 ∧ cmdB1 f % 2 = 0 ∧ cmdFa f / 2 ^ 40 % 16 = 4 ∧ cmdFa f % 2 ^ 40 + cmdBytes f ≤ 0x400000 ∧ s.bom.injected = [] ∧ s.bom.poisoned = []) ∧
    (∃ (f : Frame) (s : State), s.Live ∧ f.typ = 5 ∧ cmdOp f = 1 ∧ cmdFits f = true ∧ f.tc ≠ 7 ∧ cmdB1 f % 2 = 1 ∧ s.pageP (s.cmdPlace f) = false) ∧
    (∃ (f : Frame) (s : State), s.Live ∧ f.typ = 5 ∧ cmdOp f = 2 ∧ cmdFits f = true ∧ f.tc ≠ 7 ∧ cmdFa f / 2 ^ 40 % 16 = 4 ∧ cmdFa f % 2 ^ 40 + cmdBytes f ≤ 0x400000 ∧ s.bom.injected = [] ∧ s.bom.poisoned = [] ∧ s.rd F.BOM_INJ_ARMED = 0) ∧
    (∃ (f : Frame) (s : State), s.Live ∧ f.typ = 5 ∧ cmdOp f = 3 ∧ cmdFits f = true ∧ cmdFa f / 2 ^ 40 % 16 = 4 ∧ cmdFa f % 2 ^ 40 + cmdBytes f ≤ 0x400000 ∧ s.bom.injected = [] ∧ s.bom.poisoned = [] ∧ s.rd F.BOM_INJ_ARMED = 0) ∧
    (∃ (f : Frame) (s : State), s.Live ∧ f.typ = 5 ∧ cmdOp f = 3 ∧ cmdFits f = true ∧ cmdFa f / 2 ^ 40 % 16 = 5 ∧ cmdFa f % 2 ^ 40 + cmdBytes f ≤ 0x100000) ∧
    (∃ (f : Frame) (b : Bool) (s : State), s.Live ∧ f.typ = 5 ∧ cmdOp f = 4 ∧ cmdFits f = true ∧ f.tc ≠ 7 ∧ s.brg.sems.get? (s.cmdPlace f / 4096) = none ∧ s.brg.sems.length < 32 ∧ (s.semsOf (lockWho f)).length < 4 ∧ s.brg.waits.get? (lockWho f) ≠ some (s.cmdPlace f / 4096, true)) ∧
    (∃ (f : Frame) (holder : Nat) (b : Bool) (s : State), s.Live ∧ f.typ = 5 ∧ cmdOp f = 4 ∧ cmdFits f = true ∧ f.tc ≠ 7 ∧ s.brg.sems.get? (s.cmdPlace f / 4096) = some holder ∧ holder ≠ lockWho f ∧ leAt (cmdData f) 0 7 < 4096 ∧ s.brg.waits.get? (lockWho f) ≠ some (s.cmdPlace f / 4096, true)) ∧
    (∃ (f : Frame) (holder held : Nat) (s : State), s.Live ∧ f.typ = 5 ∧ cmdOp f = 4 ∧ cmdFits f = true ∧ f.tc ≠ 7 ∧ s.brg.sems.get? (s.cmdPlace f / 4096) = some holder ∧ holder ≠ lockWho f ∧ held = leAt (cmdData f) 0 7 / 4096 ∧ held ≠ 0 ∧ s.brg.waits.get? (lockWho f) ≠ some (s.cmdPlace f / 4096, true)) ∧
    (∃ (f : Frame) (s : State), s.Live ∧ f.typ = 5 ∧ cmdOp f = 5 ∧ cmdFits f = true ∧ f.tc ≠ 7 ∧ s.brg.sems.get? (s.cmdPlace f / 4096) = some (lockWho f)) ∧
    (∃ (f : Frame) (s : State), s.Live ∧ f.typ = 5 ∧ cmdOp f = 5 ∧ cmdFits f = true ∧ f.tc ≠ 7 ∧ s.brg.sems.get? (s.cmdPlace f / 4096) ≠ some (lockWho f)) ∧
    (∃ (f : Frame) (n off : Nat) (s : State), s.Live ∧ f.typ = 5 ∧ cmdOp f = 6 ∧ cmdFits f = true ∧ f.tc ≠ 7 ∧ n = atomicSize (cmdB1 f / 2) ∧ off = cmdFa f % 2 ^ 40 ∧ cmdFa f / 2 ^ 40 % 16 = 4 ∧ off % n = 0 ∧ off + n ≤ 0x400000 ∧ s.brg.sems.get? (s.cmdPlace f / 4096) = none ∧ s.bom.injected = [] ∧ s.bom.poisoned = [] ∧ s.rd F.BOM_INJ_ARMED = 0) ∧
    (∃ (f : Frame) (s : State), s.Live ∧ f.typ = 5 ∧ cmdOp f = 6 ∧ cmdFits f = true ∧ f.tc ≠ 7 ∧ (cmdFa f / 2 ^ 40 % 16 ≠ 4 ∨ cmdFa f % atomicSize (cmdB1 f / 2) ≠ 0)) ∧
    (∃ (f : Frame) (s : State), s.Live ∧ f.typ = 5 ∧ cmdOp f = 1 ∧ cmdFits f = false) ∧
    (∃ (f : Frame) (s : State), s.Live ∧ f.typ = 5 ∧ cmdOp f = 1 ∧ cmdFits f = true ∧ f.tc = 7) :=
  ⟨⟨cmdTo 1 0 8 (4 * 2 ^ 40 + 0x100) [], State.reset.store 4 0x100 [1, 2, 3], by decide +kernel⟩,
    ⟨cmdTo 1 1 8 (4 * 2 ^ 40 + 0x100) [], State.reset, by decide +kernel⟩,
    ⟨cmdTo 2 0 2 (4 * 2 ^ 40 + 0x100) [7, 8], State.reset, by decide +kernel⟩,
    ⟨cmdTo 3 0 2 (4 * 2 ^ 40 + 0x100) [7, 8], State.reset, by decide +kernel⟩,
    ⟨cmdTo 3 0 2 (5 * 2 ^ 40 + 0x100) [7, 8], State.reset, by decide +kernel⟩,
    ⟨cmdTo 4 0 16 (4 * 2 ^ 40 + 0x1000) (List.replicate 16 0), false, State.reset, by decide +kernel⟩,
    ⟨cmdTo 4 0 16 (4 * 2 ^ 40 + 0x1000) (List.replicate 16 0), 77, false, { State.reset with brg := { sems := [(2 ^ 30 + 1, 77)] } }, by decide +kernel⟩,
    ⟨cmdTo 4 0 16 (4 * 2 ^ 40 + 0x1000) ([0, 0x20, 0, 0, 0, 4, 0, 0] ++ List.replicate 8 0), 77, 2 ^ 30 + 2, { State.reset with brg := { sems := [(2 ^ 30 + 1, 77)] } }, by decide +kernel⟩,
    ⟨cmdTo 5 0 16 (4 * 2 ^ 40 + 0x1000) (List.replicate 16 0), { State.reset with brg := { sems := [(2 ^ 30 + 1, 40)] } }, by decide +kernel⟩,
    ⟨cmdTo 5 0 16 (4 * 2 ^ 40 + 0x1000) (List.replicate 16 0), State.reset, by decide +kernel⟩,
    ⟨cmdTo 6 0 4 (4 * 2 ^ 40 + 0x100) [1, 0, 0, 0], 4, 0x100, State.reset.store 4 0x100 [255, 1], by decide +kernel⟩,
    ⟨cmdTo 6 0 4 (4 * 2 ^ 40 + 0x102) [1, 0, 0, 0], State.reset, by decide +kernel⟩,
    ⟨cmdTo 1 0 0 (4 * 2 ^ 40 + 0x100) [], State.reset, by decide +kernel⟩,
    ⟨{ cmdTo 1 0 8 (4 * 2 ^ 40 + 0x100) [] with tc := 7 }, State.reset, by decide +kernel⟩⟩

theorem witness_AnswersAndTunnels :
    (∃ (f : Frame) (b : Fin 3) (r : SrdRun) (s : State), s.Live ∧ f.typ = 6 ∧ 16 ≤ f.payload.length ∧ s.brg.quarantined.contains (cmdTag f) = false ∧ s.brg.tags.get? (cmdTag f) = some (.srd b) ∧ s.brg.srd.get? b = some r ∧ r.op = 1 ∧ leAt f.payload 6 2 = 0) ∧
    (∃ (f : Frame) (s : State), s.Live ∧ f.typ = 6 ∧ 16 ≤ f.payload.length ∧ s.brg.quarantined.contains (cmdTag f) = true) ∧
    (∃ (f : Frame) (b : Fin 3) (r : SrdRun) (s : State), s.Live ∧ f.typ = 7 ∧ 16 ≤ f.payload.length ∧ leAt f.payload 0 2 ≠ 0x1013 ∧ f.payload.getD 2 0 = 5 ∧ s.nakedPost f = none ∧ s.brg.tags.get? (f.payload.getD 3 0) = some (.srd b) ∧ s.brg.srd.get? b = some r ∧ r.op ≠ 6) ∧
    (∃ (f : Frame) (p : Posted) (s : State), s.Live ∧ f.typ = 7 ∧ 16 ≤ f.payload.length ∧ leAt f.payload 0 2 ≠ 0x1013 ∧ f.payload.getD 2 0 = 5 ∧ s.nakedPost f = some p ∧ p.who < 4 ∧ s.rd F.BRG_PWERR_CAPT = 0) ∧
    (∃ (f : Frame) (s : State), s.Live ∧ f.typ = 7 ∧ 16 ≤ f.payload.length ∧ leAt f.payload 0 2 = 0x1013 ∧ f.src / 4 = 1 ∧ f.payload.getD 2 0 % 16 ≠ 5) ∧
    (∃ (tag : Fin 256) (slot : Nat) (s : State), s.Live ∧ s.brg.tags.get? tag = some (.prefetch slot) ∧ s.slotReaders slot = []) ∧
    (∃ (tag : Fin 256) (b : Fin 3) (r : SrdRun) (s : State), s.Live ∧ s.brg.tags.get? tag = some (.srd b) ∧ s.brg.srd.get? b = some r ∧ r.op = 1) ∧
    (∃ (tag : Fin 256) (s : State), s.Live) ∧
    (∃ (r : Request) (l : List Request) (tag : Nat) (s : State), s.Live ∧ s.brg.waiting = r :: l ∧ s.freeTag r.use.isDma = some tag ∧ (State.sendTagged { s with brg := { s.brg with waiting := l } } tag r).2 = 0) ∧
    (∃ (f : Frame) (unit : Fin 16) (x : CanFrame) (s : State), s.Live ∧ 4 ≤ f.payload.length ∧ leAt f.payload 2 2 = 0 ∧ f.payload.getD 0 0 = 1 ∧ f.payload.getD 1 0 = unit.val ∧ canElement f.payload = some x ∧ bit s.canned unit = true ∧ (s.canSt unit).remote.length < 16) ∧
    (∃ (f : Frame) (unit : Fin 48) (item : Nat) (s : State), s.Live ∧ f.typ = 8 ∧ f.payload = [2, unit.val, 0, 0] ++ leBytes 8 item ∧ item < 2 ^ 64 ∧ bit s.ported unit = true ∧ bit item 63 = false ∧ bit item 61 = false ∧ bit item 60 = false ∧ itemCount item ≠ 0 ∧ (s.slice unit).tx.length < flumeItems) ∧
    (∃ (f : Frame) (s : State), s.Live ∧ (f.typ = 8 ∧ bit s.canned (f.payload.getD 1 0) = false ∨ f.typ = 9 ∧ bit s.canned (f.payload.getD 1 0) = false) ∧ 4 ≤ f.payload.length ∧ leAt f.payload 2 2 = 0 ∧ f.payload.getD 0 0 = 1 ∧ (canElement f.payload).isSome = true) ∧
    (∃ (f : Frame) (s : State), s.Live ∧ f.typ = 0xA ∧ s.rd F.CRL_CTL_HEAD ≠ 0 ∧ leAt f.payload 0 2 ≤ 63 ∧ f.payload.length = 16 + 32 * leAt f.payload 0 2) :=
  ⟨⟨{ typ := 6, tc := 4, dest := 0, src := 20, payload := rspPayload 1 9 0 [1, 2, 3, 4] }, 1, { op := 1, b1 := 0, bytes := 4, fa := 20 * 2 ^ 44, data := [] }, { State.reset with brg := { tags := [(9, .srd 1)], srd := [(1, { op := 1, b1 := 0, bytes := 4, fa := 20 * 2 ^ 44, data := [] })] } }, by decide +kernel⟩,
    ⟨{ typ := 6, tc := 4, dest := 0, src := 20, payload := rspPayload 1 9 0 [1, 2, 3, 4] }, { State.reset with brg := { quarantined := [9] } }, by decide +kernel⟩,
    ⟨{ typ := 7, tc := 4, dest := 0, src := 20, payload := leBytes 2 0x1201 ++ [5, 9] ++ List.replicate 12 0 }, 1, { op := 1, b1 := 0, bytes := 4, fa := 20 * 2 ^ 44, data := [] }, { State.reset with brg := { tags := [(9, .srd 1)], srd := [(1, { op := 1, b1 := 0, bytes := 4, fa := 20 * 2 ^ 44, data := [] })] } }, by decide +kernel⟩,
    ⟨{ typ := 7, tc := 4, dest := 0, src := 20, payload := leBytes 2 0x0004 ++ [5, 0, 8, 0, 0, 0] ++ List.replicate 8 0 }, ⟨1, 20, 4, 8, 20 * 2 ^ 44 + 0x10⟩, { State.reset with brg := { posted := [⟨1, 20, 4, 8, 20 * 2 ^ 44 + 0x10⟩] } }, by decide +kernel⟩,
    ⟨{ typ := 7, tc := 4, dest := 0, src := 4, payload := leBytes 2 0x1013 ++ List.replicate 14 0 }, State.reset, by decide +kernel⟩,
    ⟨9, 3, { State.reset with brg := { tags := [(9, .prefetch 3)], slots := [(3, { fa := 20 * 2 ^ 44, len := 64, window := 1, poll := false })] } }, by decide +kernel⟩,
    ⟨9, 1, { op := 1, b1 := 0, bytes := 4, fa := 20 * 2 ^ 44, data := [] }, { State.reset with brg := { tags := [(9, .srd 1)], srd := [(1, { op := 1, b1 := 0, bytes := 4, fa := 20 * 2 ^ 44, data := [] })] } }, by decide +kernel⟩,
    ⟨9, { State.reset with brg := { quarantined := [9] } }, by decide +kernel⟩,
    ⟨{ use := .srd 1, op := 1, bytes := 4, fa := 20 * 2 ^ 44 }, [], 0, { (((State.reset.wr F.CRL_CTL_RING_EN 1).wr (portStateF 0) 3).wr (portStateF 2) 3).wr F.GLB_POS_STATION 3 with ring := { posmap := [(3, 1), (5, 2)] }, brg := { waiting := [{ use := .srd 1, op := 1, bytes := 4, fa := 20 * 2 ^ 44 }] } }, by decide +kernel⟩,
    ⟨{ typ := 8, tc := 5, dest := 0, src := 20, payload := canPayload 3 { id := 5, dlc := 1, data := [7] } 1 0 }, 3, { id := 5, dlc := 1, data := [7] }, { State.reset with canned := 8 }, by decide +kernel⟩,
    ⟨{ typ := 8, tc := 5, dest := 0, src := 20, payload := [2, 7, 0, 0] ++ leBytes 8 (2 ^ 62 + 2 ^ 56 + 65) }, 7, 2 ^ 62 + 2 ^ 56 + 65, { State.reset with ported := 128 }, by decide +kernel⟩,
    ⟨{ typ := 9, tc := 7, dest := 0, src := 20, payload := canPayload 3 { id := 5, dlc := 1, data := [7] } 1 0 }, State.reset, by decide +kernel⟩,
    ⟨{ typ := 0xA, tc := 2, dest := 4, src := 20, payload := [1, 0] ++ List.replicate 46 5 }, State.reset.wr F.CRL_CTL_HEAD 1, by decide +kernel⟩⟩

theorem witness_HostRequests :
    (∃ (enabled : Bool) (tag : BitVec 10) (off : BitVec 32) (len : Nat) (n fa : Nat) (s : State), s.Live ∧ s.rd F.BRG_STATUS_EP ≠ 0 ∧ s.window? off.toNat = some (n, fa) ∧ fa / 2 ^ 46 ≠ 1023 ∧ fa / 2 ^ 44 = s.self ∧ fa / 2 ^ 40 % 16 = 4 ∧ fa % 2 ^ 40 + len ≤ 0x400000 ∧ s.brg.slots = [] ∧ s.rd (F.BRG_Wn_CFG_POLL n) = 0 ∧ s.rd (F.BRG_Wn_CFG_P n) = 0 ∧ s.bom.injected = [] ∧ s.bom.poisoned = []) ∧
    (∃ (enabled : Bool) (tag : BitVec 10) (off : BitVec 32) (len : Nat) (n fa q : Nat) (s : State), s.Live ∧ s.rd F.BRG_STATUS_EP ≠ 0 ∧ s.window? off.toNat = some (n, fa) ∧ fa / 2 ^ 46 ≠ 1023 ∧ fa / 2 ^ 46 ≠ s.rd F.GLB_POS_STATION ∧ fa / 2 ^ 44 ≠ s.self ∧ 1 ≤ len ∧ len ≤ 2032 ∧ s.brg.slots = [] ∧ s.rd (F.BRG_Wn_CFG_POLL n) = 0 ∧ s.rd (F.BRG_Wn_CFG_P n) = 0 ∧ s.ringHub = false ∧ s.uplink = some q ∧ s.quarantined = false ∧ s.brg.waiting = [] ∧ s.brg.tags = [] ∧ s.brg.quarantined = []) ∧
    (∃ (enabled : Bool) (tag : BitVec 10) (off : BitVec 32) (len : Nat) (kind : Fin 6) (data : BitVec 128) (s : State), s.Live ∧ s.rd F.BRG_STATUS_EP ≠ 0 ∧ s.window? off.toNat = none) ∧
    (∃ (off : BitVec 32) (data : List Byte) (n fa : Nat) (s : State), s.Live ∧ s.rd F.BRG_STATUS_EP ≠ 0 ∧ s.window? off.toNat = some (n, fa) ∧ fa / 2 ^ 46 ≠ 1023 ∧ fa / 2 ^ 44 = s.self ∧ fa / 2 ^ 40 % 16 = 4 ∧ fa % 2 ^ 40 + data.length ≤ 0x400000 ∧ s.bom.injected = [] ∧ s.bom.poisoned = [] ∧ s.rd F.BOM_INJ_ARMED = 0) ∧
    (∃ (off : BitVec 32) (x y : Byte) (n fa : Nat) (s : State), s.Live ∧ s.rd F.BRG_STATUS_EP ≠ 0 ∧ s.window? off.toNat = some (n, fa) ∧ fa / 2 ^ 46 ≠ 1023 ∧ fa / 2 ^ 44 = s.self ∧ fa / 2 ^ 40 % 16 = 4 ∧ fa % 2 ^ 40 + 3 ≤ 0x400000 ∧ s.bom.injected = [] ∧ s.bom.poisoned = [] ∧ s.rd F.BOM_INJ_ARMED = 0) ∧
    (∃ (off : BitVec 32) (data : List Byte) (n fa q : Nat) (s : State), s.Live ∧ s.rd F.BRG_STATUS_EP ≠ 0 ∧ s.window? off.toNat = some (n, fa) ∧ fa / 2 ^ 46 ≠ 1023 ∧ fa / 2 ^ 46 ≠ s.rd F.GLB_POS_STATION ∧ fa / 2 ^ 44 ≠ s.self ∧ s.ringHub = false ∧ s.uplink = some q ∧ s.quarantined = false) ∧
    (∃ (off : BitVec 32) (data : List Byte) (s : State), s.Live ∧ s.rd F.BRG_STATUS_EP ≠ 0 ∧ s.window? off.toNat = none ∧ s.rd F.BRG_PWERR_CAPT = 0) ∧
    (∃ (tag : BitVec 10) (kind : Fin 6) (off : BitVec 32) (data : BitVec 128) (n fa m : Nat) (s : State), s.Live ∧ s.rd F.BRG_STATUS_EP ≠ 0 ∧ s.window? off.toNat = some (n, fa) ∧ fa / 2 ^ 46 ≠ 1023 ∧ fa / 2 ^ 44 = s.self ∧ fa / 2 ^ 40 % 16 = 4 ∧ m = atomicSize kind ∧ fa % m = 0 ∧ fa % 2 ^ 40 + m ≤ 0x400000 ∧ s.brg.sems.get? (fa / 4096) = none ∧ s.brg.hostAtomics = [] ∧ (∀ r ∈ s.brg.backoff, r < 3) ∧ s.bom.injected = [] ∧ s.bom.poisoned = [] ∧ s.rd F.BOM_INJ_ARMED = 0) ∧
    (∃ (dw : BitVec 24) (tag : BitVec 10) (w : Nat) (s : State), s.Live ∧ s.rd F.BRG_STATUS_EP ≠ 0 ∧ (s.localRead .bar0 0 (4 * dw.toNat) 4).answer = .data [w]) ∧
    (∃ (dw : BitVec 24) (tag : BitVec 10) (word : Word) (s : State), s.Live ∧ s.rd F.BRG_STATUS_EP ≠ 0) ∧
    (∃ (dw : BitVec 24) (dws tag : BitVec 10) (be : BitVec 4) (s : State), s.Live ∧ s.rd F.BRG_STATUS_EP ≠ 0 ∧ (dws ≠ 1 ∨ be ≠ 0xF)) ∧
    (∃ (tag : BitVec 10) (s : State), s.Live ∧ s.rd F.BRG_STATUS_EP ≠ 0) ∧
    (∃ (slot : Fin 16) (x : PrefetchSlot) (sid : Nat) (l : SMap PrefetchSlot) (s : State), s.Live ∧ s.brg.slots.drop slot = (sid, x) :: l ∧ x.data.isSome = true) :=
  ⟨⟨true, 5, 0x10000100, 8, 1, 4 * 2 ^ 40 + 0x100, (((State.reset.wr F.BRG_STATUS_EP 1).wr (F.BRG_Wn_CFG_EN 1) 1).wr (F.BRG_Wn_BASE_HI_BASE 1) 0x400).store 4 0x100 [1, 2, 3], by decide +kernel⟩,
    ⟨true, 5, 0x10000100, 8, 1, 20 * 2 ^ 44 + 0x100, 5, (((((State.reset.wr F.BRG_STATUS_EP 1).wr (F.BRG_Wn_CFG_EN 1) 1).wr (F.BRG_Wn_BASE_HI_BASE 1) (20 * 2 ^ 12)).wr F.SWC_UPLINK_VALID 1).wr F.SWC_UPLINK_PORT 5), by decide +kernel⟩,
    ⟨true, 5, 0x10000100, 8, 2, 1, State.reset.wr F.BRG_STATUS_EP 1, by decide +kernel⟩,
    ⟨0x10000100, [1, 2], 1, 4 * 2 ^ 40 + 0x100, ((State.reset.wr F.BRG_STATUS_EP 1).wr (F.BRG_Wn_CFG_EN 1) 1).wr (F.BRG_Wn_BASE_HI_BASE 1) 0x400, by decide +kernel⟩,
    ⟨0x10000100, 1, 2, 1, 4 * 2 ^ 40 + 0x100, ((State.reset.wr F.BRG_STATUS_EP 1).wr (F.BRG_Wn_CFG_EN 1) 1).wr (F.BRG_Wn_BASE_HI_BASE 1) 0x400, by decide +kernel⟩,
    ⟨0x10000100, [1, 2], 1, 20 * 2 ^ 44 + 0x100, 5, (((((State.reset.wr F.BRG_STATUS_EP 1).wr (F.BRG_Wn_CFG_EN 1) 1).wr (F.BRG_Wn_BASE_HI_BASE 1) (20 * 2 ^ 12)).wr F.SWC_UPLINK_VALID 1).wr F.SWC_UPLINK_PORT 5), by decide +kernel⟩,
    ⟨0x10000100, [1, 2], State.reset.wr F.BRG_STATUS_EP 1, by decide +kernel⟩,
    ⟨5, 0, 0x10000100, 3, 1, 4 * 2 ^ 40 + 0x100, 4, (((State.reset.wr F.BRG_STATUS_EP 1).wr (F.BRG_Wn_CFG_EN 1) 1).wr (F.BRG_Wn_BASE_HI_BASE 1) 0x400).store 4 0x100 [255], by decide +kernel⟩,
    ⟨7, 5, 0, State.reset.wr F.BRG_STATUS_EP 1, by decide +kernel⟩,
    ⟨7, 5, 3, State.reset.wr F.BRG_STATUS_EP 1, by decide +kernel⟩,
    ⟨7, 2, 5, 15, State.reset.wr F.BRG_STATUS_EP 1, by decide +kernel⟩,
    ⟨5, State.reset.wr F.BRG_STATUS_EP 1, by decide +kernel⟩,
    ⟨0, { fa := 20 * 2 ^ 44, len := 64, window := 1, poll := false, data := some [] }, 3, [], { State.reset with brg := { slots := [(3, { fa := 20 * 2 ^ 44, len := 64, window := 1, poll := false, data := some [] })] } }, by decide +kernel⟩⟩

theorem witness_SrdCommands :
    (∃ (init : Initiator) (bytes : Fin 16) (b fa : Nat) (s : State), s.Live ∧ b = bankOf init ∧ s.brg.srd.get? b = none ∧ 1 ≤ bytes.val ∧ bytes.val ≤ 8 ∧ fa = s.rd64 (F.BRG_SRD_ADDR_LO_ADDR b) (F.BRG_SRD_ADDR_HI_ADDR b) % 2 ^ 56 ∧ fa / 2 ^ 46 ≠ 1023 ∧ fa / 2 ^ 44 = s.self ∧ fa / 2 ^ 40 % 16 = 4 ∧ fa % 2 ^ 40 + bytes.val ≤ 0x400000 ∧ s.bom.injected = [] ∧ s.bom.poisoned = []) ∧
    (∃ (init : Initiator) (bytes : Fin 16) (b fa q : Nat) (s : State), s.Live ∧ b = bankOf init ∧ s.brg.srd.get? b = none ∧ 1 ≤ bytes.val ∧ bytes.val ≤ 8 ∧ fa = s.rd64 (F.BRG_SRD_ADDR_LO_ADDR b) (F.BRG_SRD_ADDR_HI_ADDR b) % 2 ^ 56 ∧ fa / 2 ^ 46 ≠ 1023 ∧ fa / 2 ^ 46 ≠ s.rd F.GLB_POS_STATION ∧ fa / 2 ^ 44 ≠ s.self ∧ s.ringHub = false ∧ s.uplink = some q ∧ s.quarantined = false ∧ s.brg.waiting = [] ∧ s.brg.tags = [] ∧ s.brg.quarantined = []) ∧
    (∃ (init : Initiator) (bytes : Fin 16) (b fa : Nat) (s : State), s.Live ∧ b = bankOf init ∧ s.brg.srd.get? b = none ∧ 1 ≤ bytes.val ∧ bytes.val ≤ 8 ∧ fa = s.rd64 (F.BRG_SRD_ADDR_LO_ADDR b) (F.BRG_SRD_ADDR_HI_ADDR b) % 2 ^ 56 ∧ fa / 2 ^ 46 ≠ 1023 ∧ fa / 2 ^ 44 = s.self ∧ fa / 2 ^ 40 % 16 = 4 ∧ fa % 2 ^ 40 + bytes.val ≤ 0x400000 ∧ s.bom.injected = [] ∧ s.bom.poisoned = [] ∧ s.rd F.BOM_INJ_ARMED = 0) ∧
    (∃ (init : Initiator) (bytes : Fin 16) (b fa : Nat) (s : State), s.Live ∧ b = bankOf init ∧ s.brg.srd.get? b = none ∧ 1 ≤ bytes.val ∧ bytes.val ≤ 8 ∧ fa = s.rd64 (F.BRG_SRD_ADDR_LO_ADDR b) (F.BRG_SRD_ADDR_HI_ADDR b) % 2 ^ 56 ∧ fa / 2 ^ 46 ≠ 1023 ∧ fa / 2 ^ 44 = s.self ∧ fa / 2 ^ 40 % 16 = 4 ∧ fa % 2 ^ 40 + bytes.val ≤ 0x400000 ∧ s.bom.injected = [] ∧ s.bom.poisoned = [] ∧ s.rd F.BOM_INJ_ARMED = 0) ∧
    (∃ (init : Initiator) (holderWaits : Bool) (b page : Nat) (s : State), s.Live ∧ b = bankOf init ∧ b < 2 ∧ s.brg.srd.get? b = none ∧ page = s.rd64 (F.BRG_SRD_ADDR_LO_ADDR b) (F.BRG_SRD_ADDR_HI_ADDR b) % 2 ^ 56 / 4096 ∧ page / 2 ^ 34 ≠ 1023 ∧ page / 2 ^ 32 = s.self ∧ s.brg.sems.get? page = none ∧ s.brg.sems.length < 32 ∧ (s.semsOf (2 * s.self + b)).length < 4 ∧ s.brg.waits.get? (2 * s.self + b) ≠ some (page, true) ∧ s.brg.lost.contains b = false) ∧
    (∃ (init : Initiator) (holderWaits : Bool) (b page holder : Nat) (s : State), s.Live ∧ b = bankOf init ∧ b < 2 ∧ s.brg.srd.get? b = none ∧ page = s.rd64 (F.BRG_SRD_ADDR_LO_ADDR b) (F.BRG_SRD_ADDR_HI_ADDR b) % 2 ^ 56 / 4096 ∧ page / 2 ^ 34 ≠ 1023 ∧ page / 2 ^ 32 = s.self ∧ s.brg.sems.get? page = some holder ∧ holder ≠ 2 * s.self + b ∧ s.locksOf b = [] ∧ s.brg.waits.get? (2 * s.self + b) ≠ some (page, true) ∧ s.brg.lost.contains b = false ∧ 1 < s.rd F.BRG_LOCKCFG_LOCK_TRIES) ∧
    (∃ (init : Initiator) (b page : Nat) (s : State), s.Live ∧ b = bankOf init ∧ b < 2 ∧ s.brg.srd.get? b = none ∧ page = s.rd64 (F.BRG_SRD_ADDR_LO_ADDR b) (F.BRG_SRD_ADDR_HI_ADDR b) % 2 ^ 56 / 4096 ∧ page / 2 ^ 34 ≠ 1023 ∧ page / 2 ^ 32 = s.self ∧ s.brg.sems.get? page = some (2 * s.self + b)) ∧
    (∃ (init : Initiator) (kind : Fin 8) (b fa m : Nat) (s : State), s.Live ∧ b = bankOf init ∧ s.brg.srd.get? b = none ∧ kind.val < 5 ∧ m = atomicSize kind ∧ fa = s.rd64 (F.BRG_SRD_ADDR_LO_ADDR b) (F.BRG_SRD_ADDR_HI_ADDR b) % 2 ^ 56 ∧ fa / 2 ^ 46 ≠ 1023 ∧ fa / 2 ^ 44 = s.self ∧ fa / 2 ^ 40 % 16 = 4 ∧ fa % m = 0 ∧ fa % 2 ^ 40 + m ≤ 0x400000 ∧ s.brg.sems.get? (fa / 4096) = none ∧ s.bom.injected = [] ∧ s.bom.poisoned = [] ∧ s.rd F.BOM_INJ_ARMED = 0) ∧
    (∃ (init : Initiator) (kind : Fin 8) (b : Nat) (s : State), s.Live ∧ b = bankOf init ∧ s.brg.srd.get? b = none ∧ 5 ≤ kind.val) ∧
    (∃ (init : Initiator) (bytes : Fin 16) (r : SrdRun) (s : State), s.Live ∧ s.brg.srd.get? (bankOf init) = some r ∧ s.rd F.GLB_ACC_ERR_CAPT = 0) ∧
    (∃ (who : Nat) (holderWaits : Bool) (s : State), s.Live ∧ s.brg.backoff.contains who = false) ∧
    (∃ (who page : Nat) (holderWaits : Bool) (r : SrdRun) (s : State), s.Live ∧ who < 2 ∧ s.brg.backoff.contains who = true ∧ s.brg.srd.get? who = some r ∧ r.op = 4 ∧ page = r.fa / 4096 ∧ r.fa / 2 ^ 46 ≠ 1023 ∧ r.fa / 2 ^ 44 = s.self ∧ s.brg.sems.get? page = none ∧ s.brg.sems.length < 32 ∧ (s.semsOf (2 * s.self + who)).length < 4 ∧ s.brg.waits.get? (2 * s.self + who) ≠ some (page, true) ∧ s.brg.lost.contains who = false) ∧
    (∃ (page : BitVec 44) (holder : Nat) (s : State), s.Live ∧ s.brg.sems.get? page.toNat = some holder ∧ holder / 2 ≠ s.self) :=
  ⟨⟨.bar0, 8, 1, 4 * 2 ^ 40 + 0x100, ((State.reset.wr (F.BRG_SRD_ADDR_LO_ADDR 1) 0x100).wr (F.BRG_SRD_ADDR_HI_ADDR 1) 0x400).store 4 0x100 [1, 2, 3], by decide +kernel⟩,
    ⟨.bar0, 8, 1, 20 * 2 ^ 44 + 0x100, 5, (((State.reset.wr (F.BRG_SRD_ADDR_LO_ADDR 1) 0x100).wr (F.BRG_SRD_ADDR_HI_ADDR 1) (20 * 2 ^ 12)).wr F.SWC_UPLINK_VALID 1).wr F.SWC_UPLINK_PORT 5, by decide +kernel⟩,
    ⟨.bar0, 3, 1, 4 * 2 ^ 40 + 0x100, ((State.reset.wr (F.BRG_SRD_ADDR_LO_ADDR 1) 0x100).wr (F.BRG_SRD_ADDR_HI_ADDR 1) 0x400).wr (F.BRG_SRD_WDATA_LO_WDATA 1) 0x12345678, by decide +kernel⟩,
    ⟨.bar0, 3, 1, 4 * 2 ^ 40 + 0x100, ((State.reset.wr (F.BRG_SRD_ADDR_LO_ADDR 1) 0x100).wr (F.BRG_SRD_ADDR_HI_ADDR 1) 0x400).wr (F.BRG_SRD_WDATA_LO_WDATA 1) 0x12345678, by decide +kernel⟩,
    ⟨.bar0, false, 1, 2 ^ 30 + 5, (State.reset.wr (F.BRG_SRD_ADDR_LO_ADDR 1) 0x5000).wr (F.BRG_SRD_ADDR_HI_ADDR 1) 0x400, by decide +kernel⟩,
    ⟨.bar0, false, 1, 2 ^ 30 + 5, 77, { (State.reset.wr (F.BRG_SRD_ADDR_LO_ADDR 1) 0x5000).wr (F.BRG_SRD_ADDR_HI_ADDR 1) 0x400 with brg := { sems := [(2 ^ 30 + 5, 77)] } }, by decide +kernel⟩,
    ⟨.bar0, 1, 2 ^ 30 + 5, { (State.reset.wr (F.BRG_SRD_ADDR_LO_ADDR 1) 0x5000).wr (F.BRG_SRD_ADDR_HI_ADDR 1) 0x400 with brg := { sems := [(2 ^ 30 + 5, 1)], locks := [(1, [2 ^ 30 + 5])] } }, by decide +kernel⟩,
    ⟨.bar0, 0, 1, 4 * 2 ^ 40 + 0x100, 4, (((State.reset.wr (F.BRG_SRD_ADDR_LO_ADDR 1) 0x100).wr (F.BRG_SRD_ADDR_HI_ADDR 1) 0x400).wr (F.BRG_SRD_WDATA_LO_WDATA 1) 3).store 4 0x100 [255, 2], by decide +kernel⟩,
    ⟨.bar0, 6, 1, State.reset, by decide +kernel⟩,
    ⟨.bar0, 8, { op := 1, b1 := 0, bytes := 4, fa := 20 * 2 ^ 44, data := [] }, { State.reset with brg := { srd := [(1, { op := 1, b1 := 0, bytes := 4, fa := 20 * 2 ^ 44, data := [] })] } }, by decide +kernel⟩,
    ⟨1, false, { State.reset with brg := { lost := [1] } }, by decide +kernel⟩,
    ⟨1, 2 ^ 30 + 5, false, { op := 4, b1 := 0, bytes := 16, fa := 4 * 2 ^ 40 + 0x5000, data := [], tries := 3 }, { State.reset with brg := { backoff := [1], srd := [(1, { op := 4, b1 := 0, bytes := 16, fa := 4 * 2 ^ 40 + 0x5000, data := [], tries := 3 })] } }, by decide +kernel⟩,
    ⟨0x40000005, 77, { State.reset with brg := { sems := [(2 ^ 30 + 5, 77)] } }, by decide +kernel⟩⟩

theorem witness_SwitchCore :
    (∃ (port : Fin 16) (a : Arrival) (l : List Arrival) (g : Nat) (b : BufFrame) (s : State), s.Live ∧ s.swc.arrivals = a :: l ∧ a.inPort = port.val ∧ a.lq = none ∧ State.room { s with swc := { s.swc with arrivals := l } } a.frame.tc (cellsOf (frameLen a.frame)) = some g ∧ s.anPort = none ∧ s.together = 0 ∧ b = { id := s.swc.nextId, inPort := a.inPort, outs := a.outs, cells := cellsOf (frameLen a.frame), guar := g, dual := a.dual, ingress := a.ingress, frame := a.frame }) ∧
    (∃ (port : Fin 16) (a : Arrival) (l : List Arrival) (s : State), s.Live ∧ s.swc.arrivals = a :: l ∧ a.inPort = port.val ∧ port.val < 8 ∧ a.lq = none ∧ a.frame.tc = 0 ∧ State.room { s with swc := { s.swc with arrivals := l } } 0 (cellsOf (frameLen a.frame)) = none ∧ s.ceiling 0 < s.usedCells 0 + cellsOf (frameLen a.frame) ∧ s.together = 0) ∧
    (∃ (port : Fin 16) (s : State), s.Live ∧ takeArrival port s.swc.arrivals = none ∧ s.together = 0) ∧
    (∃ (port : Fin 7) (b : BufFrame) (s : State), s.Live ∧ s.swc.frames = [b] ∧ b.outs = [port.val] ∧ b.leaving = [] ∧ b.hold = none ∧ b.lq = none ∧ b.mirror = false ∧ b.dual = false ∧ b.launched = none ∧ b.cut = [] ∧ b.frame.typ ≠ 2 ∧ s.nakAhead port = false ∧ 4 ≤ b.frame.tc ∧ b.frame.tc ≤ 7 ∧ 8 ≤ b.inPort ∧ b.inPort < 16 ∧ portUp s port = true ∧ s.replayBytes port + frameLen b.frame ≤ replaySize port ∧ (s.mac port).draining = false ∧ s.swc.windows = [] ∧ s.anPort = none) ∧
    (∃ (port : Fin 16) (s : State), s.Live ∧ s.outputBusy port = true) ∧
    (∃ (port : Fin 16) (s : State), s.Live ∧ s.marked (.sent port.val) = true) ∧
    (∃ (port : Fin 16) (s : State), s.Live ∧ s.marked (.sent port.val) = false) ∧
    (∃ (queue : Fin 16) (frame : Frame) (g : Nat) (s : State), s.Live ∧ s.rd (F.SWC_LQq_CFG_EN queue) ≠ 0 ∧ s.lqDepth queue < 64 ∧ frame.kslot = 0 ∧ s.room 5 (cellsOf (frameLen frame)) = some g ∧ s.anPort = none) ∧
    (∃ (queue : Fin 16) (frame : Frame) (s : State), s.Live ∧ (s.rd (F.SWC_LQq_CFG_EN queue) = 0 ∨ 64 ≤ s.lqDepth queue)) ∧
    (∃ (slot : Fin 256) (b : BufFrame) (s : State), s.Live ∧ s.swc.frames.find? (fun b => b.outs.contains 10 && b.leaving.isEmpty && b.hold.isNone && b.frame.kslot == slot.val) = some b ∧ s.slotHolds slot = true) ∧
    (∃ (index : Fin 8192) (s : State), s.Live ∧ ((s.ent index).state = cCommitted ∨ (s.ent index).state = cArmed) ∧ (s.ent index).kind = 4 ∧ s.windowDue (s.rd (F.SWC_LQq_CFG_PORT (s.ent index).unit)) index.val = true ∧ s.swc.windows = []) :=
  ⟨⟨1, { inPort := 1, outs := [0], frame := { typ := 5, tc := 4, dest := 12 } }, [], 1, { id := 0, inPort := 1, outs := [0], cells := 1, guar := 1, frame := { typ := 5, tc := 4, dest := 12 } }, { (State.reset.wr (F.SWC_Cc_GUAR_GUAR 4) 8).wr (portStateF 0) 3 with swc := { arrivals := [{ inPort := 1, outs := [0], frame := { typ := 5, tc := 4, dest := 12 } }] } }, by decide +kernel⟩,
    ⟨1, { inPort := 1, outs := [0], frame := { typ := 5, tc := 0, dest := 12 } }, [], { (State.reset.wr (F.SWC_Cc_GUAR_GUAR 0) 0).wr (F.SWC_Cc_MAX_MAX 0) 0 with swc := { arrivals := [{ inPort := 1, outs := [0], frame := { typ := 5, tc := 0, dest := 12 } }] } }, by decide +kernel⟩,
    ⟨1, State.reset, by decide +kernel⟩,
    ⟨0, { id := 3, inPort := 8, outs := [0], cells := 1, guar := 1, frame := { typ := 5, tc := 4, dest := 12 } }, { State.reset.wr (portStateF 0) 3 with swc := { frames := [{ id := 3, inPort := 8, outs := [0], cells := 1, guar := 1, frame := { typ := 5, tc := 4, dest := 12 } }] }, ring := { macs := [(0, { txNext := 65535 })] } }, by decide +kernel⟩,
    ⟨0, { State.reset with swc := { frames := [{ id := 3, inPort := 8, outs := [0], leaving := [0], cells := 1, guar := 1, frame := { typ := 5, tc := 4, dest := 12 } }] } }, by decide +kernel⟩,
    ⟨0, { State.reset with cycle := [.sent 0] }, by decide +kernel⟩,
    ⟨0, { State.reset with swc := { frames := [{ id := 3, inPort := 8, outs := [0], leaving := [0], cells := 1, guar := 1, frame := { typ := 5, tc := 4, dest := 12 } }] } }, by decide +kernel⟩,
    ⟨2, { typ := 5, tc := 4, dest := 12 }, 1, (State.reset.wr (F.SWC_LQq_CFG_EN 2) 1).wr (F.SWC_Cc_GUAR_GUAR 5) 8, by decide +kernel⟩,
    ⟨2, { typ := 5, tc := 4, dest := 12 }, State.reset, by decide +kernel⟩,
    ⟨7, { id := 4, inPort := 8, outs := [10], cells := 1, guar := 1, frame := { typ := 5, tc := 4, dest := 12, kslot := 7 } }, { State.reset with swc := { frames := [{ id := 3, inPort := 8, outs := [10], cells := 1, guar := 1, hold := some 7, frame := { typ := 5, tc := 4, dest := 12, kslot := 7 } }, { id := 4, inPort := 8, outs := [10], cells := 1, guar := 1, frame := { typ := 5, tc := 4, dest := 12, kslot := 7 } }] } }, by decide +kernel⟩,
    ⟨3, { State.reset with sch := { entries := [(3, { state := cArmed, target := 0x4002 })] } }, by decide +kernel⟩⟩

theorem witness_DmaContexts :
    (∃ (context tail : Fin 4096) (s : State), s.Live ∧ context.val ≠ 0 ∧ s.ctxState context = xIdle ∧ s.ctx context 0x1A 2 ≠ tail.val) ∧
    (∃ (context tail : Fin 4096) (s : State), s.Live ∧ (context.val = 0 ∨ s.ctxState context = xOff)) ∧
    (∃ (init : Initiator) (context : Fin 4096) (s : State), s.Live ∧ context.val ≠ 0 ∧ s.ctxState context = xOff ∧ s.ctxValid context = true) ∧
    (∃ (init : Initiator) (context : Fin 4096) (s : State), s.Live ∧ s.ctxState context ≠ xOff ∧ s.ctxState context ≠ xFaulted) ∧
    (∃ (init : Initiator) (context : Fin 4096) (s : State), s.Live ∧ s.ctxState context = xFaulted) ∧
    (∃ (init : Initiator) (context : Fin 4096) (s : State), s.Live ∧ (s.ctxState context = xIdle ∨ s.ctxState context = xReady ∨ s.ctxState context = xFaulted ∨ s.ctxState context = xError) ∧ s.ctx context 0x1A 2 = s.ctx context 0x1C 2) ∧
    (∃ (init : Initiator) (context : Fin 4096) (s : State), s.Live ∧ s.ctxState context = xRunning) ∧
    (∃ (init : Initiator) (context : Fin 4096) (s : State), s.Live ∧ (s.ctxState context = xIdle ∨ s.ctxState context = xError)) ∧
    (∃ (init : Initiator) (context : Fin 4096) (s : State), s.Live ∧ s.ctxState context ≠ xIdle ∧ s.ctxState context ≠ xError) ∧
    (∃ (init : Initiator) (context : Fin 4096) (s : State), s.Live) ∧
    (∃ (init : Initiator) (off : BitVec 18) (data : List Byte) (s : State), s.Live ∧ ctxForm off.toNat data.length = true ∧ s.ctxState (off.toNat / 64) = xOff ∧ s.bom.injected = [] ∧ s.bom.poisoned = [] ∧ s.rd F.BOM_INJ_ARMED = 0) ∧
    (∃ (init : Initiator) (off : BitVec 18) (data : List Byte) (s : State), s.Live ∧ (ctxForm off.toNat data.length = false ∨ s.ctxState (off.toNat / 64) ≠ xOff)) ∧
    (∃ (engine : Fin 16) (x : Engine) (s : State), s.Live ∧ s.dmx.engines.get? engine = some x ∧ x.ctx < 4096 ∧ s.ctxState x.ctx = xSaving ∧ x.reading = false ∧ s.dmx.aborts.get? x.ctx = none ∧ s.dmx.held.get? x.ctx = none) ∧
    (∃ (s : State), s.Live) :=
  ⟨⟨5, 1, ctxOn 5 1 7 0 0, by decide +kernel⟩,
    ⟨5, 1, State.reset, by decide +kernel⟩,
    ⟨.bar0, 5, ctxOn 5 0 7 0 0, by decide +kernel⟩,
    ⟨.bar0, 5, ctxOn 5 1 7 0 0, by decide +kernel⟩,
    ⟨.bar0, 5, ctxOn 5 5 7 0 0, by decide +kernel⟩,
    ⟨.bar0, 5, ctxOn 5 2 7 3 3, by decide +kernel⟩,
    ⟨.bar0, 5, ctxOn 5 3 7 3 3, by decide +kernel⟩,
    ⟨.bar0, 5, ctxOn 5 6 7 3 3, by decide +kernel⟩,
    ⟨.bar0, 5, ctxOn 5 2 7 3 3, by decide +kernel⟩,
    ⟨.bar0, 5, { State.reset with dmx := { cache := [⟨5, 1, false, 4096, true, true, false⟩, ⟨5, 2, false, 4096, true, true, true⟩] } }, by decide +kernel⟩,
    ⟨.bar0, 0x140, [1, 2, 3, 255], State.reset, by decide +kernel⟩,
    ⟨.bar0, 0x140, [1, 2, 3, 255], ctxOn 5 1 7 0 0, by decide +kernel⟩,
    ⟨3, { ctx := 5 }, { ctxOn 5 4 7 0 0 with dmx := { engines := [(3, { ctx := 5 })] } }, by decide +kernel⟩,
    ⟨{ State.reset with dmx := { queue := [[1], [2]] } }, by decide +kernel⟩⟩

theorem witness_DmaEngines :
    (∃ (engine : Fin 16) (c : Nat) (s : State), s.Live ∧ bit (s.rd F.DMX_CTL_ENG_EN) engine = true ∧ s.dmx.engines.get? engine = none ∧ s.topReady = some c ∧ c < 4096) ∧
    (∃ (engine : Fin 16) (x : Engine) (c : Nat) (s : State), s.Live ∧ s.dmx.engines.get? engine = some x ∧ x.ctx < 4096 ∧ s.ctxState x.ctx = xRunning ∧ bit (s.rd F.DMX_CTL_ENG_EN) engine = true ∧ s.topReady = some c ∧ s.engineFree = false ∧ s.outranks c x.ctx = true ∧ s.lowRunning = some x.ctx) ∧
    (∃ (engine : Fin 16) (x : Engine) (s : State), s.Live ∧ s.dmx.engines.get? engine = some x ∧ s.ctxState x.ctx = xRunning ∧ bit (s.rd F.DMX_CTL_ENG_EN) engine = false) ∧
    (∃ (engine : Fin 16) (host : List Byte) (x : Engine) (s : State), s.Live ∧ s.dmx.engines.get? engine = some x ∧ s.ctxState x.ctx = xRunning ∧ x.fetched = false ∧ s.ctx x.ctx 0x1A 2 ≠ s.ctx x.ctx 0x1C 2 ∧ s.ownBad (s.descFa x.ctx (s.ctx x.ctx 0x1A 2)) 32 = none ∧ s.descCode x.ctx (s.descBytes x.ctx (host.map BitVec.toNat)) = 0) ∧
    (∃ (engine : Fin 16) (host : List Byte) (x : Engine) (code : Nat) (s : State), s.Live ∧ s.dmx.engines.get? engine = some x ∧ x.ctx < 4096 ∧ s.ctxState x.ctx = xRunning ∧ x.fetched = false ∧ s.ctx x.ctx 0x1A 2 ≠ s.ctx x.ctx 0x1C 2 ∧ s.ownBad (s.descFa x.ctx (s.ctx x.ctx 0x1A 2)) 32 = none ∧ s.descCode x.ctx (s.descBytes x.ctx (host.map BitVec.toNat)) = code ∧ code ≠ 0 ∧ s.engineOf x.ctx = some engine.val ∧ s.descFa x.ctx (s.ctx x.ctx 0x1A 2) / 2 ^ 40 % 16 = 4) ∧
    (∃ (engine : Fin 16) (host : List Byte) (x : Engine) (code : Nat) (s : State), s.Live ∧ s.dmx.engines.get? engine = some x ∧ x.ctx < 4096 ∧ s.ctxState x.ctx = xRunning ∧ x.fetched = false ∧ s.ctx x.ctx 0x1A 2 ≠ s.ctx x.ctx 0x1C 2 ∧ s.ownBad (s.descFa x.ctx (s.ctx x.ctx 0x1A 2)) 32 = some code ∧ s.engineOf x.ctx = some engine.val) ∧
    (∃ (context : Fin 4096) (s : State), s.Live ∧ s.ctxState context = xRunning ∧ s.together = 0 ∧ s.descFa context (s.ctx context 0x1A 2) % 2 ^ 40 + 32 ≤ 0x400000 ∧ s.ctxLen context ≠ 0 ∧ s.ctxAcked context = s.ctxLen context ∧ s.ctxDctl context = 0 ∧ s.descFa context (s.ctx context 0x1A 2) / 2 ^ 40 % 16 = 4 ∧ s.engineOf context = none) ∧
    (∃ (engine : Fin 16) (dest : Bool) (given1 given2 : Option (BitVec 64)) (x : Engine) (tr : Translation) (s : State), s.Live ∧ s.dmx.engines.get? engine = some x ∧ s.ctxState x.ctx = xRunning ∧ x.fetched = true ∧ s.sideVirtual x.ctx dest = true ∧ s.ctxDone x.ctx < s.ctxLen x.ctx ∧ s.lookup x.ctx (s.sideAddr x.ctx dest) = none ∧ s.dmx.held.get? x.ctx = none ∧ (s.walk x.ctx (s.sideAddr x.ctx dest) dest (given1.map BitVec.toNat) (given2.map BitVec.toNat)).toOption = some tr ∧ s.dmx.cache.length < 512) ∧
    (∃ (engine : Fin 16) (dest : Bool) (given1 given2 : Option (BitVec 64)) (x : Engine) (cause : Nat) (s : State), s.Live ∧ s.dmx.engines.get? engine = some x ∧ s.ctxState x.ctx = xRunning ∧ x.fetched = true ∧ s.sideVirtual x.ctx dest = true ∧ s.ctxDone x.ctx < s.ctxLen x.ctx ∧ s.lookup x.ctx (s.sideAddr x.ctx dest) = none ∧ s.dmx.held.get? x.ctx = none ∧ (match s.walk x.ctx (s.sideAddr x.ctx dest) dest (given1.map BitVec.toNat) (given2.map BitVec.toNat) with | .error k => some k | .ok _ => none) = some cause) ∧
    (∃ (engine : Fin 16) (dest : Bool) (given1 given2 : Option (BitVec 64)) (x : Engine) (va cause : Nat) (s : State), s.Live ∧ s.dmx.engines.get? engine = some x ∧ s.aheadPage x.ctx dest = some va ∧ x.fetched = true ∧ s.sideVirtual x.ctx dest = true ∧ s.lookup x.ctx va = none ∧ s.dmx.held.get? x.ctx = none ∧ (match s.walk x.ctx va dest (given1.map BitVec.toNat) (given2.map BitVec.toNat) with | .error k => some k | .ok _ => none) = some cause) ∧
    (∃ (engine : Fin 16) (x : Engine) (f : HeldFault) (s : State), s.Live ∧ s.dmx.engines.get? engine = some x ∧ x.ctx < 4096 ∧ s.dmx.held.get? x.ctx = some f ∧ s.ctxState x.ctx = xRunning ∧ f.va / 4096 ≤ s.sideAddr x.ctx f.dest / 4096 ∧ s.dmx.queue.length < 64 ∧ f.cause < 256 ∧ s.together = 0) ∧
    (∃ (tag : Fin 256) (c : Fin 4096) (n : Nat) (s : State), s.Live ∧ s.brg.tags.get? tag = some (.dmaWrite c n)) ∧
    (∃ (context : Fin 4096) (s : State), s.Live ∧ (s.ctxState context = xReady ∨ s.ctxState context = xRunning ∨ s.ctxState context = xSaving) ∧ s.ctxTc context < 4 ∧ s.ctxAcked context < s.ctxDone context ∧ s.dmx.retries.getD context 0 < s.rd F.DMX_TMO_DMA_RETRY) :=
  ⟨⟨3, 5, ctxOn 5 2 7 0 1, by decide +kernel⟩,
    ⟨3, { ctx := 6 }, 5, { ((ctxOn 6 3 7 0 1).store 6 (64 * 5) (leBytes 4 (2 * 2 ^ 28 + 2 * 2 ^ 24))).wr F.DMX_CTL_ENG_EN 8 with dmx := { engines := [(3, { ctx := 6 })] } }, by decide +kernel⟩,
    ⟨3, { ctx := 6 }, { (ctxOn 6 3 7 0 1).wr F.DMX_CTL_ENG_EN 1 with dmx := { engines := [(3, { ctx := 6 })] } }, by decide +kernel⟩,
    ⟨3, [], { ctx := 5 }, { (ctxOn 5 3 7 0 1).store 4 0x1000 (leBytes 8 (4 * 2 ^ 40) ++ leBytes 8 (4 * 2 ^ 40 + 0x100) ++ leBytes 4 64) with dmx := { engines := [(3, { ctx := 5 })] } }, by decide +kernel⟩,
    ⟨3, [], { ctx := 5 }, 0x1306, { ctxOn 5 3 7 0 1 with dmx := { engines := [(3, { ctx := 5 })] } }, by decide +kernel⟩,
    ⟨3, [], { ctx := 5 }, 0x0005, { (ctxOn 5 3 7 0 1).store 6 (64 * 5 + 0x10) (leBytes 8 (4 * 2 ^ 40 + 0x500000)) with dmx := { engines := [(3, { ctx := 5 })] } }, by decide +kernel⟩,
    ⟨5, (ctxOn 5 3 7 0 1).store 6 (64 * 5 + 0x30) (leBytes 4 64 ++ leBytes 4 0 ++ leBytes 4 64 ++ leBytes 4 64), by decide +kernel⟩,
    ⟨3, false, some 0x40000020000B, none, { ctx := 5, fetched := true }, ⟨5, 0, true, 0x400000200000, true, false, false⟩, { (ctxOn 5 3 7 0 1).store 6 (64 * 5 + 0x20) (leBytes 16 0 ++ leBytes 4 64 ++ leBytes 4 (2 ^ 31)) with dmx := { engines := [(3, { ctx := 5, fetched := true })] } }, by decide +kernel⟩,
    ⟨3, false, none, none, { ctx := 5, fetched := true }, 3, { (ctxOn 5 3 7 0 1).store 6 (64 * 5 + 0x20) (leBytes 16 0 ++ leBytes 4 64 ++ leBytes 4 (2 ^ 31)) with dmx := { engines := [(3, { ctx := 5, fetched := true })] } }, by decide +kernel⟩,
    ⟨3, false, none, none, { ctx := 5, fetched := true }, 4096, 3, { (ctxOn 5 3 7 0 1).store 6 (64 * 5 + 0x20) (leBytes 8 3840 ++ leBytes 8 0 ++ leBytes 4 4096 ++ leBytes 4 (2 ^ 31)) with dmx := { engines := [(3, { ctx := 5, fetched := true })], cache := [⟨5, 0, false, 4096, true, true, false⟩] } }, by decide +kernel⟩,
    ⟨3, { ctx := 5 }, ⟨3, false, false, 0⟩, { ctxOn 5 3 7 0 1 with dmx := { engines := [(3, { ctx := 5 })], held := [(5, ⟨3, false, false, 0⟩)] } }, by decide +kernel⟩,
    ⟨9, 5, 64, { (ctxOn 5 3 7 0 1).store 6 (64 * 5 + 0x38) (leBytes 4 128) with brg := { tags := [(9, .dmaWrite 5 64)] } }, by decide +kernel⟩,
    ⟨5, (ctxOn 5 3 7 0 1).store 6 (64 * 5 + 0x38) (leBytes 4 128 ++ leBytes 4 64), by decide +kernel⟩⟩

theorem witness_KeyCommands :
    (∃ (init : Initiator) (slot record : Fin 256) (b : Nat) (s : State), s.Live ∧ b = bankOf init ∧ s.sec.cmds.get? b = none) ∧
    (∃ (init : Initiator) (record : Fin 256) (b : Nat) (s : State), s.Live ∧ b = bankOf init ∧ s.sec.cmds.get? b = none) ∧
    (∃ (init : Initiator) (record : Fin 256) (b : Nat) (s : State), s.Live ∧ b = bankOf init ∧ s.sec.cmds.get? b = none) ∧
    (∃ (init : Initiator) (slot : Fin 256) (b : Nat) (s : State), s.Live ∧ b = bankOf init ∧ s.sec.cmds.get? b = none) ∧
    (∃ (init : Initiator) (b : Nat) (s : State), s.Live ∧ b = bankOf init ∧ s.sec.cmds.get? b = none) ∧
    (∃ (init : Initiator) (b : Nat) (s : State), s.Live ∧ b = bankOf init ∧ s.sec.cmds.get? b = none) ∧
    (∃ (init : Initiator) (r : KeyRun) (s : State), s.Live ∧ s.sec.cmds.get? (bankOf init) = some r ∧ s.rd F.GLB_ACC_ERR_CAPT = 0) ∧
    (∃ (word : Fin 64) (data : Word) (s : State), s.Live) ∧
    (∃ (bank : Fin 3) (record slot : Nat) (s : State), s.Live ∧ s.sec.cmds.get? bank = some ⟨2, record, slot⟩ ∧ 1 ≤ slot ∧ slot ≤ 255 ∧ s.slotValid slot = false ∧ s.tlatch = false ∧ hasRoot s.lc = true ∧ s.rd F.KEY_STATUS_ROOT_OK ≠ 0 ∧ s.blobForm (s.stageBytes.take 104) = true ∧ leAt s.stageBytes 5 1 = s.lc ∧ leAt s.stageBytes 0x14 1 = 0xFF ∧ s.sec.refs = [] ∧ s.together = 0 ∧ s.marked .zeroedAll = false) ∧
    (∃ (bank : Fin 3) (record slot : Nat) (s : State), s.Live ∧ s.sec.cmds.get? bank = some ⟨2, record, slot⟩ ∧ s.lc ≠ lcScrapped ∧ s.together = 0 ∧ s.marked .zeroedAll = true) ∧
    (∃ (bank : Fin 3) (record slot : Nat) (s : State), s.Live ∧ s.sec.cmds.get? bank = some ⟨1, record, slot⟩ ∧ 1 ≤ slot ∧ slot ≤ 255 ∧ s.slotValid slot = false ∧ s.tlatch = false ∧ hasRoot s.lc = true ∧ s.rd F.KEY_STATUS_ROOT_OK ≠ 0 ∧ s.blobWinner record = none ∧ s.together = 0 ∧ s.marked .zeroedAll = false) ∧
    (∃ (bank : Fin 3) (record slot op code : Nat) (s : State), s.Live ∧ s.sec.cmds.get? bank = some ⟨op, record, slot⟩ ∧ (op = 1 ∧ slot = 0 ∧ code = 0x1501 ∨ op = 2 ∧ slot = 0 ∧ code = 0x1501 ∨ op = 5 ∧ slot = 0 ∧ code = 0x1501 ∨ op = 2 ∧ slot ≠ 0 ∧ s.slotValid slot = true ∧ code = 0x150A ∨ op = 3 ∧ s.tlatch = true ∧ code = 0x1506) ∧ s.lc ≠ lcScrapped ∧ s.together = 0 ∧ s.marked .zeroedAll = false) ∧
    (∃ (bank : Fin 3) (record slot : Nat) (s : State), s.Live ∧ s.sec.cmds.get? bank = some ⟨5, record, slot⟩ ∧ 1 ≤ slot ∧ slot ≤ 255 ∧ s.lc ≠ lcScrapped ∧ s.swc.frames.all (fun b => b.hold.isNone) = true ∧ s.together = 0) ∧
    (∃ (bank : Fin 3) (record slot : Nat) (s : State), s.Live ∧ s.sec.cmds.get? bank = some ⟨6, record, slot⟩ ∧ s.lc ≠ lcScrapped ∧ s.together = 0) ∧
    (∃ (bank : Fin 3) (record slot : Nat) (s : State), s.Live ∧ s.sec.cmds.get? bank = some ⟨4, record, slot⟩ ∧ (s.lc = lcProvision ∨ s.lc = lcRma) ∧ s.tlatch = false ∧ s.rd F.KEY_STATUS_ROOT_OK ≠ 0 ∧ s.blobForm s.stageBytes = true ∧ leAt s.stageBytes 0x14 1 = 0xFF ∧ (leAt s.stageBytes 5 1 = s.lc ∨ leAt s.stageBytes 5 1 = s.lc + 1) ∧ s.together = 0) ∧
    (∃ (bank : Fin 3) (record slot : Nat) (s : State), s.Live ∧ s.sec.cmds.get? bank = some ⟨4, record, slot⟩ ∧ (s.lc = lcBlank ∨ s.lc = lcDeployed ∨ s.lc = lcRedeployed) ∧ s.together = 0) ∧
    (∃ (bank : Fin 3) (record slot : Nat) (s : State), s.Live ∧ s.sec.cmds.get? bank = some ⟨7, record, slot⟩ ∧ s.lc = lcBlank ∧ s.recordFits s.stageBytes 0xA14C5452 = true ∧ leAt s.stageBytes 4 1 = lcBlank ∧ leAt s.stageBytes 5 1 = lcProvision ∧ leAt s.stageBytes 6 1 = 0 ∧ leAt s.stageBytes 0x20 16 = 0 ∧ s.together = 0) ∧
    (∃ (bank : Fin 3) (record slot : Nat) (s : State), s.Live ∧ s.sec.cmds.get? bank = some ⟨7, record, slot⟩ ∧ s.lc ≠ lcScrapped ∧ s.recordFits s.stageBytes 0xA14C5452 = false ∧ s.together = 0) :=
  ⟨⟨.bar0, 7, 9, 1, State.reset, by decide +kernel⟩,
    ⟨.bar0, 9, 1, State.reset, by decide +kernel⟩,
    ⟨.bar0, 9, 1, State.reset, by decide +kernel⟩,
    ⟨.bar0, 9, 1, State.reset, by decide +kernel⟩,
    ⟨.bar0, 1, State.reset, by decide +kernel⟩,
    ⟨.bar0, 1, State.reset, by decide +kernel⟩,
    ⟨.bar0, ⟨7, 0, 0⟩, { State.reset with sec := { cmds := [(1, ⟨7, 0, 0⟩)] } }, by decide +kernel⟩,
    ⟨5, 0xFFFFFFFF, State.reset, by decide +kernel⟩,
    ⟨1, 0, 7, { keyStaged 1 (blobWord 1 1) with sec := { cmds := [(1, ⟨2, 0, 7⟩)] } }, by decide +kernel⟩,
    ⟨1, 0, 7, { keyStaged 1 (blobWord 1 1) with sec := { cmds := [(1, ⟨2, 0, 7⟩)] }, cycle := [.zeroedAll] }, by decide +kernel⟩,
    ⟨1, 0, 7, { keyStaged 1 (blobWord 1 1) with sec := { cmds := [(1, ⟨1, 0, 7⟩)] } }, by decide +kernel⟩,
    ⟨1, 0, 0, 5, 0x1501, { keyStaged 1 (blobWord 1 1) with sec := { cmds := [(1, ⟨5, 0, 0⟩)] } }, by decide +kernel⟩,
    ⟨1, 0, 7, { keyOn 7 1 0 with sec := { slots := [(7, { key := 5 })], cmds := [(1, ⟨5, 0, 7⟩)] } }, by decide +kernel⟩,
    ⟨1, 0, 7, { keyOn 7 1 0 with sec := { slots := [(7, { key := 5 })], cmds := [(1, ⟨6, 0, 7⟩)] } }, by decide +kernel⟩,
    ⟨1, 9, 0, { keyStaged 1 (blobWord 2 1) with sec := { cmds := [(1, ⟨4, 9, 0⟩)] } }, by decide +kernel⟩,
    ⟨1, 9, 0, { keyStaged 2 (blobWord 2 1) with sec := { cmds := [(1, ⟨4, 9, 0⟩)] } }, by decide +kernel⟩,
    ⟨1, 9, 0, { keyStaged 0 (fun n => [0xA14C5452, 0x100].getD n 0) with sec := { cmds := [(1, ⟨7, 9, 0⟩)] } }, by decide +kernel⟩,
    ⟨1, 9, 0, { keyStaged 0 (fun n => [0xA14C5453, 0x100].getD n 0) with sec := { cmds := [(1, ⟨7, 9, 0⟩)] } }, by decide +kernel⟩⟩

theorem witness_CipherAndTamper :
    (∃ (init : Initiator) (slot : Fin 256) (b : Nat) (s : State), s.Live ∧ b = bankOf init ∧ s.sec.ops.get? b = none) ∧
    (∃ (init : Initiator) (slot : Fin 256) (b : Nat) (s : State), s.Live ∧ b = bankOf init ∧ s.sec.ops.get? b = none) ∧
    (∃ (init : Initiator) (slot : Fin 256) (o : HostOp) (s : State), s.Live ∧ s.sec.ops.get? (bankOf init) = some o ∧ s.rd F.GLB_ACC_ERR_CAPT = 0) ∧
    (∃ (bank : Fin 3) (o : HostOp) (nonce : List Nat) (s : State), s.Live ∧ s.sec.ops.get? bank = some o ∧ o.op = 1 ∧ s.lc ≠ lcScrapped ∧ o.len ≤ 16384 ∧ o.aad ≤ 1024 ∧ o.src % 16 = 0 ∧ o.dst % 16 = 0 ∧ o.src + o.aad + o.len ≤ 0x400000 ∧ o.dst + o.len ≤ 0x400000 ∧ 1 ≤ o.slot ∧ s.slotValid o.slot = true ∧ s.slotAttr o.slot = encOnly ∧ (s.keySlot o.slot).uses < limitOf (s.rd (F.KEY_Sn_LIMIT_LIMIT o.slot)) ∧ nonce = [1] ++ bytesAt (leBytes 8 s.serial) 0 7 ++ beBytes 4 (s.keySlot o.slot).uses ∧ s.together = 0) ∧
    (∃ (bank : Fin 3) (o : HostOp) (s : State), s.Live ∧ s.sec.ops.get? bank = some o ∧ o.op = 2 ∧ s.lc ≠ lcScrapped ∧ o.len ≤ 16384 ∧ o.aad ≤ 1024 ∧ o.src % 16 = 0 ∧ o.dst % 16 = 0 ∧ o.src + o.aad + o.len ≤ 0x400000 ∧ o.dst + o.len ≤ 0x400000 ∧ 1 ≤ o.slot ∧ s.slotValid o.slot = true ∧ s.slotAttr o.slot = decOnly ∧ (s.keySlot o.slot).uses < limitOf (s.rd (F.KEY_Sn_LIMIT_LIMIT o.slot)) ∧ s.together = 0) ∧
    (∃ (bank : Fin 3) (o : HostOp) (s : State), s.Live ∧ s.sec.ops.get? bank = some o ∧ s.lc ≠ lcScrapped ∧ o.len ≤ 16384 ∧ o.aad ≤ 1024 ∧ o.src % 16 = 0 ∧ o.dst % 16 = 0 ∧ o.src + o.aad + o.len ≤ 0x400000 ∧ o.dst + o.len ≤ 0x400000 ∧ (o.slot = 0 ∨ s.slotValid o.slot = false) ∧ s.together = 0) ∧
    (∃ (b : BufFrame) (s : State), s.Live ∧ s.rd F.CPH_CTL_CORE_EN ≠ 0 ∧ s.swc.frames = [b] ∧ b.outs = [10] ∧ b.leaving = [] ∧ b.hold = none ∧ b.frame.tc = 4 ∧ b.frame.tag = [] ∧ s.tlatch = false ∧ s.slotValid b.frame.kslot = true ∧ s.slotAttr b.frame.kslot = deriveOnly ∧ s.slotDattr b.frame.kslot = encOnly ∧ s.bankOfEpoch b.frame.kslot (s.rd F.CRL_KEY_TX) = some 0 ∧ (s.keySlot b.frame.kslot).use0 + 1 < warnAt (limitOf (s.rd (F.KEY_Sn_LIMIT_LIMIT b.frame.kslot))) ∧ s.ringHub = false ∧ s.uplink = some 5 ∧ b.frame.dest / 4 ≠ s.rd F.GLB_POS_STATION ∧ b.frame.dest ≠ s.self ∧ s.together = 0 ∧ b.frame.dest / 4 ≠ 1023) ∧
    (∃ (b : BufFrame) (s : State), s.Live ∧ s.rd F.CPH_CTL_CORE_EN ≠ 0 ∧ s.nextJob = some b ∧ b.frame.tag ≠ [] ∧ s.slotValid b.frame.kslot = false ∧ s.together = 0) ∧
    (∃ (active : BitVec 8) (k : Fin 8) (s : State), s.voided = false ∧ s.pwr.vbat = false ∧ s.pwr.standby = false ∧ s.almInForce = true ∧ s.rd F.VGL_STATUS_ACTIVE = 0 ∧ active.toNat = 2 ^ k.val ∧ bit s.tamperEn k = true ∧ s.tlatch = false) ∧
    (∃ (active : BitVec 8) (s : State), s.voided = false ∧ (∀ k < 8, bit active.toNat k = true → bit (s.rd F.VGL_STATUS_ACTIVE) k = true ∨ bit s.watched k = false)) ∧
    (∃ (s : State), s.Live ∧ s.rd F.VGL_STATUS_TSAFE ≠ 0) ∧
    (∃ (init : Initiator) (en : BitVec 8) (s : State), s.Live ∧ (∀ k < 8, bit s.tamperEn k = true → bit en.toNat k = true)) ∧
    (∃ (init : Initiator) (en : BitVec 8) (k : Nat) (s : State), s.Live ∧ k < 8 ∧ bit s.tamperEn k = true ∧ bit en.toNat k = false) :=
  ⟨⟨.bar0, 7, 1, State.reset, by decide +kernel⟩,
    ⟨.bar0, 7, 1, State.reset, by decide +kernel⟩,
    ⟨.bar0, 7, ⟨1, 7, 0, 0, 0, 0, [], []⟩, { State.reset with sec := { ops := [(1, ⟨1, 7, 0, 0, 0, 0, [], []⟩)] } }, by decide +kernel⟩,
    ⟨1, ⟨1, 7, 0, 64, 0, 16, [], []⟩, [1] ++ List.replicate 11 0, { keyOn 7 1 0 with sec := { slots := [(7, { key := 5 })], ops := [(1, ⟨1, 7, 0, 64, 0, 16, [], []⟩)] } }, by decide +kernel⟩,
    ⟨1, ⟨2, 7, 0, 64, 0, 16, [], []⟩, { keyOn 7 2 0 with sec := { slots := [(7, { key := 5 })], ops := [(1, ⟨2, 7, 0, 64, 0, 16, [], []⟩)] } }, by decide +kernel⟩,
    ⟨1, ⟨2, 7, 0, 64, 0, 16, [], []⟩, { State.reset with sec := { ops := [(1, ⟨2, 7, 0, 64, 0, 16, [], []⟩)] } }, by decide +kernel⟩,
    ⟨{ id := 3, inPort := 8, outs := [10], cells := 1, guar := 1, frame := { typ := 5, tc := 4, dest := 12, kslot := 7, payload := [1, 2] } }, { (((keyOn 7 4 1).wr (F.KEY_Sn_INFO_E0V 7) 1).wr F.SWC_UPLINK_VALID 1).wr F.SWC_UPLINK_PORT 5 with swc := { frames := [{ id := 3, inPort := 8, outs := [10], cells := 1, guar := 1, frame := { typ := 5, tc := 4, dest := 12, kslot := 7, payload := [1, 2] } }] } }, by decide +kernel⟩,
    ⟨{ id := 3, inPort := 1, outs := [10], cells := 1, guar := 1, frame := { typ := 5, tc := 4, dest := 12, kslot := 7, payload := [1, 2], tag := [1] } }, { State.reset with swc := { frames := [{ id := 3, inPort := 1, outs := [10], cells := 1, guar := 1, frame := { typ := 5, tc := 4, dest := 12, kslot := 7, payload := [1, 2], tag := [1] } }] } }, by decide +kernel⟩,
    ⟨1, 0, { ((keyOn 7 1 0).wr F.VGL_TCFG_EN 1).wr F.GLB_HEALTH_ALM_OK 1 with sec := { slots := [(7, { key := 5 })], cmds := [(1, ⟨6, 0, 7⟩)] } }, by decide +kernel⟩,
    ⟨1, State.reset, by decide +kernel⟩,
    ⟨State.reset.wr F.VGL_STATUS_TSAFE 1, by decide +kernel⟩,
    ⟨.bar0, 3, State.reset.wr F.VGL_TCFG_EN 1, by decide +kernel⟩,
    ⟨.bar0, 2, 0, State.reset.wr F.VGL_TCFG_EN 1, by decide +kernel⟩⟩

theorem witness_StitchAndTwins :
    (∃ (s : State), s.Live ∧ s.ringHub = false ∧ s.uplink.isSome = true ∧ s.admitted = false) ∧
    (∃ (hub : JoinHub) (s : State), s.Live ∧ s.ringHub = true ∧ hub.pos < 4 ∧ hub.pos ≠ s.rd F.GLB_POS_HUBPOS ∧ s.admitted = false) ∧
    (∃ (hub : JoinHub) (s : State), s.Live ∧ s.ringHub = true ∧ hub.pos < 4 ∧ hub.pos ≠ s.rd F.GLB_POS_HUBPOS ∧ s.admitted = true ∧ s.stt.records.get? hub.pos = none) ∧
    (∃ (pos : Fin 4) (s : State), s.Live) ∧
    (∃ (payload : List Byte) (d : SlotData) (s : State), s.Live ∧ s.ringHub = true ∧ leAt (payload.map BitVec.toNat) 0 4 = s.ring.harvest.cycle % 2 ^ 32 ∧ leAt (payload.map BitVec.toNat) 4 1 = 2 ∧ parseSlots 1 ((payload.map BitVec.toNat).drop 8) = some [d] ∧ d.hub / 4 = s.rd F.GLB_POS_STATION) ∧
    (∃ (payload : List Byte) (d : SlotData) (s : State), s.Live ∧ s.ringHub = false ∧ leAt (payload.map BitVec.toNat) 4 1 = 3 ∧ parseSlots 1 ((payload.map BitVec.toNat).drop 8) = some [d] ∧ d.hub = s.self ∧ bit d.flags 0 = true ∧ s.ring.harvest.staged = none) ∧
    (∃ (rs : List (Nat × Nat × List Nat)) (s : State), s.Live ∧ s.role = roleSync ∧ s.copyBegun = true ∧ s.stt.committed ≠ some s.stt.boundary ∧ s.cpRecords 64 (cpOffset s.stt.boundary) = some rs ∧ rs.getLast?.elim 0 (·.2.1) = rs.length ∧ s.stt.boundary < 2 ^ 32) ∧
    (∃ (reason : Fin 16) (s : State), s.Live ∧ s.role = roleSync ∧ s.stt.claim = none ∧ [1, 3, 5].contains reason.val = true) ∧
    (∃ (s : State), s.Live ∧ s.role = roleSync ∧ s.stt.claim = none ∧ s.ringHub = true ∧ s.quarantined = false ∧ s.wrapE = false ∧ s.wrapW = false ∧ s.stt.referee / 4 ≠ s.rd F.GLB_POS_STATION ∧ s.stt.referee / 4 ≠ 1023 ∧ s.stt.referee ≠ s.self) ∧
    (∃ (reason n : Nat) (s : State), s.Live ∧ s.stt.claim = some (reason, n)) ∧
    (∃ (s : State), s.Live ∧ s.role = roleUnsync ∧ s.copyBegun = false) ∧
    (∃ (init : Initiator) (word : Word) (s : State), s.Live ∧ s.rd F.STT_STATUS_REF = 0) ∧
    (∃ (init : Initiator) (word : Word) (s : State), s.Live ∧ s.rd F.STT_STATUS_REF = 1 ∧ 64 ≤ s.stt.refq.length) ∧
    (∃ (init : Initiator) (word : Word) (st pos reason : Nat) (s : State), s.Live ∧ s.rd F.STT_STATUS_REF = 1 ∧ s.stt.refq.length < 64 ∧ st = bits word.toNat 16 10 ∧ pos = bits word.toNat 14 2 ∧ reason = bits word.toNat 8 4 ∧ ((bit (s.pairByte st 0) 0 = false ∨ ([1, 3, 5].contains reason = true ∧ pos ≠ s.pairStandby st)))) ∧
    (∃ (init : Initiator) (word : Word) (st pos reason : Nat) (s : State), s.Live ∧ s.rd F.STT_STATUS_REF = 1 ∧ s.stt.refq.length < 64 ∧ st = bits word.toNat 16 10 ∧ pos = bits word.toNat 14 2 ∧ reason = bits word.toNat 8 4 ∧ bit (s.pairByte st 0) 0 = true ∧ (([1, 3, 5].contains reason = true → pos = s.pairStandby st))) ∧
    (∃ (init : Initiator) (word : Word) (st pos : Nat) (s : State), s.Live ∧ s.rd F.STT_STATUS_REF = 1 ∧ s.stt.refq.length < 64 ∧ st = bits word.toNat 16 10 ∧ pos = bits word.toNat 14 2 ∧ [1, 3, 5].contains (bits word.toNat 8 4) = true ∧ bit (s.pairByte st 0) 0 = true ∧ bit (s.pairByte st 0) 1 = true ∧ bit word.toNat 7 = true ∧ pos = s.pairStandby st) ∧
    (∃ (init : Initiator) (word : Word) (s : State), s.Live ∧ s.rd F.STT_STATUS_REF = 1) ∧
    (∃ (s : State), s.Live) ∧
    (∃ (r : Fin 4096) (s : State), s.Live ∧ s.stt.referee = r ∧ s.role = roleSync) ∧
    (∃ (r : Fin 4096) (c : Fin 1024) (item : List Nat) (s : State), s.Live ∧ s.stt.referee = r ∧ s.role = roleSync ∧ s.stt.shadow = [(cpKey cpContext c, item)] ∧ s.bom.queue = [] ∧ bits (leAt item 8 4) 28 4 ≠ 0) ∧
    (∃ (r : Fin 4096) (s : State), s.Live ∧ s.stt.referee = r ∧ s.role = roleUnsync ∧ s.stt.claim = none) ∧
    (∃ (src named : Fin 4096) (s : State), s.Live ∧ ¬ (src.val = s.stt.referee ∧ named.val = s.stt.referee)) ∧
    (∃ (s : State), s.Live ∧ s.role = roleTaking ∧ s.stt.grantImage = none ∧ s.alm.points.filter (fun (p : Point) => p.output && p.kind == 5) = []) ∧
    (∃ (r : Fin 4096) (s : State), s.Live ∧ s.stt.referee = r ∧ s.role = roleActive) ∧
    (∃ (r : Fin 4096) (s : State), s.Live ∧ s.stt.referee = r ∧ s.role ≠ roleActive ∧ s.role ≠ roleTaking) ∧
    (∃ (r : Fin 4096) (s : State), s.Live ∧ s.stt.referee = r ∧ s.role = roleUnsync) ∧
    (∃ (r : Fin 4096) (s : State), s.Live ∧ s.stt.referee = r) ∧
    (∃ (s : State), s.Live) ∧
    (∃ (init : Initiator) (s : State), s.Live ∧ s.role ≠ roleActive) ∧
    (∃ (init : Initiator) (s : State), s.Live ∧ s.role = roleActive ∧ portDown s 4 = false) ∧
    (∃ (b : Fin 16) (port : Fin 8) (s : State), s.Live ∧ ((s.role = roleUnsync ∨ s.role = roleSync))) ∧
    (∃ (bank : Option (Fin 16)) (port : Fin 8) (s : State), s.Live ∧ s.role ≠ roleUnsync ∧ s.role ≠ roleSync) :=
  ⟨⟨State.reset.wr F.SWC_UPLINK_VALID 1, by decide +kernel⟩,
    ⟨⟨9, 2, 1, 8, 8, []⟩, State.reset.wr F.CRL_CTL_RING_EN 1, by decide +kernel⟩,
    ⟨⟨9, 2, 1, 8, 8, []⟩, (State.reset.wr F.CRL_CTL_RING_EN 1).wr F.CRL_STATUS_ADMITTED 1, by decide +kernel⟩,
    ⟨2, State.reset, by decide +kernel⟩,
    ⟨[0, 0, 0, 0, 2, 0, 1, 0, 2, 0, 8, 0, 0, 0, 4, 0, 4, 0, 0, 0, 0, 0, 0, 0, 1, 2, 3, 4, 0, 0, 0, 0], ⟨2, 0, 4, 4, [1, 2, 3, 4, 0, 0, 0, 0]⟩, State.reset.wr F.CRL_CTL_RING_EN 1, by decide +kernel⟩,
    ⟨[0, 0, 0, 0, 3, 0, 1, 0, 0, 0, 8, 0, 4, 0, 0, 0, 1, 0, 0, 0, 0, 0, 0, 0, 1, 2, 3, 4, 0, 0, 0, 0], ⟨0, 4, 0, 1, [1, 2, 3, 4, 0, 0, 0, 0]⟩, State.reset, by decide +kernel⟩,
    ⟨[(1, 1, List.replicate 48 0), (0xF, 2, [])], { (State.reset.wr F.STT_STATUS_ROLE 2).store 4 0x300000 ([1, 0, 1, 0, 48, 0, 0, 0] ++ List.replicate 48 0 ++ [15, 0, 2, 0, 0, 0, 0, 0]) with stt := { committed := some 7 } }, by decide +kernel⟩,
    ⟨3, State.reset.wr F.STT_STATUS_ROLE 2, by decide +kernel⟩,
    ⟨{ ((((State.reset.wr F.STT_STATUS_ROLE 2).wr F.CRL_CTL_RING_EN 1).wr (portStateF 0) 3).wr (portStateF 2) 3 |>.wr (portStateF 1) 3).wr (portStateF 3) 3 with stt := { referee := 4 } }, by decide +kernel⟩,
    ⟨1, 19, { State.reset with stt := { claim := some (1, 19) } }, by decide +kernel⟩,
    ⟨State.reset.wr F.STT_STATUS_ROLE 1, by decide +kernel⟩,
    ⟨.tc4, 0x10001080, State.reset, by decide +kernel⟩,
    ⟨.tc4, 0x10001080, { State.reset.wr F.STT_STATUS_REF 1 with stt := { refq := List.replicate 64 (0, 0, 0) } }, by decide +kernel⟩,
    ⟨.tc4, 0x10051180, 5, 0, 1, State.reset.wr F.STT_STATUS_REF 1, by decide +kernel⟩,
    ⟨.tc4, 0x10054180, 5, 1, 1, (State.reset.wr F.STT_STATUS_REF 1).store 4 80 [3, 4], by decide +kernel⟩,
    ⟨.tc4, 0x10054180, 5, 1, (State.reset.wr F.STT_STATUS_REF 1).store 4 80 [3, 4], by decide +kernel⟩,
    ⟨.bar0, 0x10144000, State.reset.wr F.STT_STATUS_REF 1, by decide +kernel⟩,
    ⟨State.reset, by decide +kernel⟩,
    ⟨0, State.reset.wr F.STT_STATUS_ROLE 2, by decide +kernel⟩,
    ⟨0, 9, [9, 0, 0, 0, 0, 0, 0, 0, 0, 0, 0, 0x20] ++ List.replicate 36 1, { State.reset.wr F.STT_STATUS_ROLE 2 with stt := { shadow := [(cpKey cpContext 9, [9, 0, 0, 0, 0, 0, 0, 0, 0, 0, 0, 0x20] ++ List.replicate 36 1)] } }, by decide +kernel⟩,
    ⟨0, State.reset.wr F.STT_STATUS_ROLE 1, by decide +kernel⟩,
    ⟨0, 1, State.reset.wr F.STT_STATUS_ROLE 2, by decide +kernel⟩,
    ⟨{ State.reset.wr F.STT_STATUS_ROLE 3 with stt := { committed := some 9, grantTime := 5 * 2 ^ 80 } }, by decide +kernel⟩,
    ⟨0, State.reset.wr F.STT_STATUS_ROLE 4, by decide +kernel⟩,
    ⟨0, State.reset, by decide +kernel⟩,
    ⟨0, { State.reset.wr F.STT_STATUS_ROLE 1 with stt := { starts := 4 } }, by decide +kernel⟩,
    ⟨0, { State.reset.wr F.STT_STATUS_ROLE 2 with stt := { claim := some (1, 1) } }, by decide +kernel⟩,
    ⟨{ State.reset with slc := { fence := some (1, 1) } }, by decide +kernel⟩,
    ⟨.bar0, State.reset.wr F.STT_STATUS_ROLE 2, by decide +kernel⟩,
    ⟨.bar0, (State.reset.wr F.STT_STATUS_ROLE 4).wr (portStateF 4) 3, by decide +kernel⟩,
    ⟨3, 5, State.reset.wr F.STT_STATUS_ROLE 2, by decide +kernel⟩,
    ⟨none, 5, State.reset, by decide +kernel⟩⟩

theorem witness_FaultsAndBoom :
    (∃ (subsys : Fin 27) (cls : Fin 7) (s : State), s.Live ∧ assigned subsys = true ∧ classGiven subsys cls = true ∧ s.reaction subsys cls = 0 ∧ s.rd F.BOM_FIRST_CAPT = 0 ∧ s.together = 0) ∧
    (∃ (subsys : Fin 27) (cls : Fin 7) (unit : Option (Fin 256)) (s : State), s.Live ∧ assigned subsys = true ∧ classGiven subsys cls = true ∧ s.reaction subsys cls = 2 ∧ s.rd F.BOM_FIRST_CAPT ≠ 0 ∧ s.together = 0 ∧ s.cycle = [] ∧ s.bom.queue.length < 16) ∧
    (∃ (cls : Fin 7) (u : Fin 16) (s : State), s.Live ∧ classGiven 0x13 cls = true ∧ s.reaction 0x13 cls = 3 ∧ s.cycle = [] ∧ s.bom.queue.length < 16) ∧
    (∃ (subsys : Fin 27) (cls : Fin 7) (unit : Option (Fin 256)) (s : State), s.Live ∧ (assigned subsys && classGiven subsys cls) = false) ∧
    (∃ (region : Fin 18) (off : BitVec 40) (s : State), s.Live ∧ s.bom.injected.get? (wordOf (memAddr region off.toNat)) = none) ∧
    (∃ (region : Fin 18) (off : BitVec 40) (n : Nat) (s : State), s.Live ∧ s.bom.injected.get? (wordOf (memAddr region off.toNat)) = some n) ∧
    (∃ (pair : Fin 2) (s : State), s.Live) ∧
    (∃ (subsys : BitVec 5) (double : Bool) (s : State), s.Live) ∧
    (∃ (init : Initiator) (s : State), s.Live ∧ s.bom.test = none) ∧
    (∃ (init : Initiator) (s : State), s.Live ∧ s.bom.test = none) ∧
    (∃ (init : Initiator) (port : Fin 8) (maint : Bool) (s : State), s.Live ∧ s.bom.test = none) ∧
    (∃ (init : Initiator) (op port : Nat) (s : State), s.Live ∧ s.bom.test = some (op, port, false) ∧ s.rd F.GLB_ACC_ERR_CAPT = 0) ∧
    (∃ (failed : Bool) (memory : Fin 27) (op port : Nat) (s : State), s.Live ∧ s.bom.test = some (op, port, false) ∧ 1 ≤ op ∧ op ≤ 3 ∧ port < 8) ∧
    (∃ (memory : Fin 27) (op port : Nat) (s : State), s.Live ∧ s.bom.test = some (op, port, true) ∧ op = 3) ∧
    (∃ (s : State), s.Live ∧ s.rd F.BOM_CTL_BG_EN = 1 ∧ s.bom.test = none ∧ s.bom.rotation ≤ 1) ∧
    (∃ (r : BoomRec) (l : List BoomRec) (s : State), s.Live ∧ s.bom.queue = r :: l ∧ r.kind < 256 ∧ r.flags < 256 ∧ s.rd F.BOM_WPTR_INDEX < 2 ^ 32) ∧
    (∃ (n : Fin 8) (r : BoomRec) (l : List BoomRec) (s : State), s.Live ∧ s.bom.queue = r :: l ∧ s.rd (F.BOM_MARKn_ST_ST n) = 1 ∧ s.rd F.BOM_WPTR_INDEX = s.rd (F.BOM_MARKn_IDX_INDEX n) + 32768 ∧ s.rd F.BOM_WPTR_INDEX + 1 < 2 ^ 32) ∧
    (∃ (n : Fin 8) (s : State), s.Live ∧ s.bom.queue.length < 16 ∧ s.together = 0 ∧ s.cycle = []) ∧
    (∃ (n : Fin 8) (s : State), s.Live) ∧
    (∃ (n : Fin 8) (s : State), s.Live) ∧
    (∃ (unit code : BitVec 16) (s : State), s.Live ∧ s.bom.queue.length < 16 ∧ s.cycle = []) ∧
    (∃ (unit code : BitVec 16) (s : State), s.Live ∧ s.bom.queue.length = 16 ∧ s.cycle = []) ∧
    (∃ (next i : Nat) (l : List Nat) (s : State), s.Live ∧ s.rd F.BOM_CTL_STREAM_EN = 1 ∧ oldestOf s.wptrNext ≤ s.rd F.BOM_SCUR_INDEX ∧ s.eventDue (i :: l) = true ∧ s.streamFrom 32769 63 (s.rd F.BOM_SCUR_INDEX) = (next, i :: l)) ∧
    (∃ (init : Initiator) (off : BitVec 20) (len : Nat) (en : Bool) (s : State), s.Live ∧ off.toNat + len ≤ 0x100000 ∧ s.cycle = []) ∧
    (∃ (init : Initiator) (s : State), s.Live ∧ s.bom.injected = [] ∧ s.bom.poisoned = [memAddr 5 0x48] ∧ s.cycle = []) :=
  ⟨⟨0x11, 2, State.reset.wr (F.BOM_REACTs_REACT 0x11) 0, by decide +kernel⟩,
    ⟨0x11, 1, none, (State.reset.wr F.BOM_FIRST_CAPT 1).wr (F.BOM_REACTs_REACT 0x11) 0, by decide +kernel⟩,
    ⟨2, 5, State.reset.wr (F.BOM_REACTs_REACT 0x13) 0x3FFF, by decide +kernel⟩,
    ⟨0x11, 3, none, State.reset, by decide +kernel⟩,
    ⟨4, 0x123, State.reset, by decide +kernel⟩,
    ⟨4, 0x123, 2, { State.reset.wr (F.BOM_REACTs_REACT 0) 0 with bom := { injected := [(4 * 2 ^ 40 + 0x120, 2)] } }, by decide +kernel⟩,
    ⟨1, State.reset, by decide +kernel⟩,
    ⟨3, true, State.reset.wr F.BOM_INJ_ARMED 1, by decide +kernel⟩,
    ⟨.bar0, State.reset, by decide +kernel⟩,
    ⟨.bar0, State.reset, by decide +kernel⟩,
    ⟨.bar0, 2, false, (State.reset.wr (F.CRL_Pp_CFG_USED 2) 1).wr (portStateF 2) 3, by decide +kernel⟩,
    ⟨.bar0, 3, 0, { State.reset with bom := { test := some (3, 0, false) } }, by decide +kernel⟩,
    ⟨true, 0x10, 1, 0, { State.reset with bom := { test := some (1, 0, false) } }, by decide +kernel⟩,
    ⟨0, 3, 0, { State.reset with bom := { test := some (3, 0, true), bgFailed := 3 } }, by decide +kernel⟩,
    ⟨State.reset.wr F.BOM_CTL_BG_EN 1, by decide +kernel⟩,
    ⟨⟨0x1A10, 1, 0, 3, 0, 77, 0⟩, [], { State.reset.wr F.BOM_WPTR_INDEX 32769 with bom := { queue := [⟨0x1A10, 1, 0, 3, 0, 77, 0⟩] } }, by decide +kernel⟩,
    ⟨2, ⟨0x1A10, 1, 0, 3, 0, 77, 0⟩, [], { (State.reset.wr F.BOM_WPTR_INDEX 32768).wr (F.BOM_MARKn_ST_ST 2) 1 with bom := { queue := [⟨0x1A10, 1, 0, 3, 0, 77, 0⟩] } }, by decide +kernel⟩,
    ⟨3, State.reset.wr F.BOM_WPTR_INDEX 40, by decide +kernel⟩,
    ⟨3, State.reset.wr (F.BOM_MARKn_ST_ST 3) 1, by decide +kernel⟩,
    ⟨3, (State.reset.wr (F.BOM_MARKn_ST_ST 3) 2).wr F.BOM_WPTR_INDEX 40000, by decide +kernel⟩,
    ⟨3, 0x1234, State.reset.wr F.BOM_FWREC_DATA_LO_DATA 5, by decide +kernel⟩,
    ⟨3, 0x1234, { State.reset with bom := { queue := List.replicate 16 ⟨1, 1, 0, 3, 0, 77, 0⟩ } }, by decide +kernel⟩,
    ⟨1, 0, [], ((State.reset.wr F.BOM_CTL_STREAM_EN 1).wr F.BOM_STREAM_KIND 0x3F |>.wr F.BOM_WPTR_INDEX 1).store 5 18 [1], by decide +kernel⟩,
    ⟨.bar0, 0x40, 32, true, State.reset.store 5 0x41 [7], by decide +kernel⟩,
    ⟨.bar0, { State.reset with bom := { poisoned := [memAddr 5 0x48] } }, by decide +kernel⟩⟩

theorem witness_PowerAndStandby :
    (∃ (slice : Fin 64) (st : Nat) (s : State), s.Live ∧ s.power slice = pRun ∧ s.rousedNow slice = false ∧ s.powerHeld slice = false ∧ s.rd F.PWR_CTL_GOV_EN = 1 ∧ s.sleepState slice = some st ∧ 1 ≤ st ∧ st ≤ 3) ∧
    (∃ (slice : Fin 64) (s : State), s.Live ∧ s.power slice = pRun ∧ s.rousedNow slice = false ∧ s.powerHeld slice = true) ∧
    (∃ (slice : Fin 64) (s : State), s.Live ∧ s.power slice = pRun ∧ s.powerHeld slice = false ∧ ((s.rd F.PWR_CTL_GOV_EN = 0 ∨ s.sleepState slice = none))) ∧
    (∃ (slice : Fin 64) (d : Nat) (s : State), s.Live ∧ s.deepest slice = some d) ∧
    (∃ (slice : Fin 64) (s : State), s.Live ∧ s.powerHeld slice = false ∧ s.power slice ≠ pRun ∧ s.pwr.waking.contains slice.val = false) ∧
    (∃ (slice : Fin 64) (pin : Fin 16) (s : State), s.Live) ∧
    (∃ (slice : Fin 64) (s : State), s.Live ∧ s.pwr.waking.contains slice.val = true ∧ s.pwr.held = [] ∧ ((s.power slice = pDoze ∨ (s.power slice = pNap ∧ s.napStale slice = false)))) ∧
    (∃ (slice : Fin 64) (s : State), s.Live ∧ s.pwr.waking.contains slice.val = true ∧ s.pwr.held = [] ∧ s.power slice = pHibernate ∧ powerPorts slice = [] ∧ (s.reloadList slice).2 = false) ∧
    (∃ (slice : Fin 64) (s : State), s.Live ∧ s.pwr.waking.contains slice.val = true ∧ s.pwr.held = [] ∧ s.power slice = pNap ∧ s.napStale slice = true ∧ powerPorts slice = [] ∧ (s.reloadList slice).2 = false) ∧
    (∃ (slice : Fin 64) (h : HeldTrigger) (s : State), s.Live ∧ s.pwr.waking.contains slice.val = true ∧ s.pwr.held = [h] ∧ h.slice = slice.val ∧ h.kind = 6 ∧ s.bom.queue.length < 16 ∧ s.cycle = [] ∧ s.power slice = pDoze) ∧
    (∃ (init : Initiator) (slice : Fin 64) (off : BitVec 22) (s : State), s.Live ∧ s.listValid slice off.toNat = true) ∧
    (∃ (init : Initiator) (slice : Fin 64) (off : BitVec 22) (s : State), s.Live ∧ s.listValid slice off.toNat = false ∧ s.rd F.GLB_ACC_ERR_CAPT = 0) ∧
    (∃ (s : State), s.Live ∧ (((∃ p : Fin 7, portDown s p = false) ∨ s.role = roleActive ∨ s.role = roleTaking))) ∧
    (∃ (s : State), s.Live ∧ (∀ p : Fin 7, portDown s p = true) ∧ s.role ≠ roleActive ∧ s.role ≠ roleTaking) :=
  ⟨⟨32, 2, ((State.reset.wr (F.PWR_Sn_STAT_STATE 32) 0).wr F.PWR_CTL_GOV_EN 1).wr (F.PWR_Sn_CFG_MAXST 32) 3, by decide +kernel⟩,
    ⟨3, State.reset.wr (F.PWR_Sn_STAT_STATE 3) 0, by decide +kernel⟩,
    ⟨32, State.reset.wr (F.PWR_Sn_STAT_STATE 32) 0, by decide +kernel⟩,
    ⟨32, 2, State.reset, by decide +kernel⟩,
    ⟨32, State.reset.wr (F.PWR_Sn_STAT_STATE 32) 2, by decide +kernel⟩,
    ⟨3, 1, State.reset, by decide +kernel⟩,
    ⟨32, { State.reset.wr (F.PWR_Sn_STAT_STATE 32) 2 with pwr := { waking := [32] } }, by decide +kernel⟩,
    ⟨32, { State.reset.wr (F.PWR_Sn_STAT_STATE 32) 3 with pwr := { waking := [32] } }, by decide +kernel⟩,
    ⟨32, { State.reset.wr (F.PWR_Sn_STAT_STATE 32) 2 with pwr := { waking := [32], stamps := [(32, 9)] } }, by decide +kernel⟩,
    ⟨3, ⟨3, 100, 6, 13, 0⟩, { State.reset.wr (F.PWR_Sn_STAT_STATE 3) 1 with clk := 200, pwr := { waking := [3], held := [⟨3, 100, 6, 13, 0⟩] } }, by decide +kernel⟩,
    ⟨.yarder, 3, 0x20, State.reset.store 4 0x100 [0x44, 0x4C, 0x52, 0xA1, 3, 0, 0, 0], by decide +kernel⟩,
    ⟨.yarder, 3, 0x20, State.reset.wr (F.PWR_Sn_STAT_LISTOK 3) 1, by decide +kernel⟩,
    ⟨State.reset.wr (portStateF 1) 3, by decide +kernel⟩,
    ⟨{ (State.reset.wr (F.PSL_Sn_CTL_EN 5) 1).wr (F.SAW_Sn_CTL_EN 7) 1 with bom := { queue := [⟨0x1A10, 1, 0, 3, 0, 77, 0⟩] } }, by decide +kernel⟩⟩

theorem witness_BootUpdateRecovery :
    (∃ (s : State), s.Live ∧ s.rd F.UPD_BOOT_STAGE = 0 ∧ s.rd F.VGL_STATUS_TLATCH = 0 ∧ setBits (Nat.land (s.rd F.VGL_STATUS_ACTIVE) s.tamperEn) 8 = []) ∧
    (∃ (s : State), s.Live ∧ s.rd F.UPD_BOOT_STAGE = 0 ∧ s.rd F.VGL_STATUS_TLATCH = 1) ∧
    (∃ (s : State), s.Live ∧ s.rd F.UPD_BOOT_STAGE = 1 ∧ 2 ≤ s.rd F.UPD_BOOT_BOOT_SRC) ∧
    (∃ (s : State), s.Live ∧ s.rd F.UPD_BOOT_STAGE = 1 ∧ s.rd F.UPD_BOOT_BOOT_SRC < 2) ∧
    (∃ (s : State), s.Live ∧ leAt (s.imageHead flashRegion 0 1) 0 4 ≠ 0xA1494D47) ∧
    (∃ (s : State), s.Live ∧ s.rd F.UPD_BOOT_STAGE = 3 ∧ s.rd F.UPD_BOOT_BOOT_SRC = 1) ∧
    (∃ (s : State), s.Live ∧ s.rd F.UPD_BOOT_STAGE = 3 ∧ s.rd F.UPD_BOOT_BOOT_SRC ≠ 1) ∧
    (∃ (init : Initiator) (cls : Fin 8) (s : State), s.Live ∧ s.upd.loading = none) ∧
    (∃ (init : Initiator) (cls : Fin 8) (l : Nat × Nat) (s : State), s.Live ∧ s.upd.loading = some l ∧ s.rd F.GLB_ACC_ERR_CAPT = 0) ∧
    (∃ (c off code : Nat) (s : State), s.Live ∧ s.upd.loading = some (c, off) ∧ s.imageCode 4 off c = some code ∧ code < 65536) ∧
    (∃ (off : Nat) (s : State), s.Live ∧ s.upd.loading = some (3, off)) ∧
    (∃ (off : Nat) (s : State), s.Live ∧ s.upd.loading = some (5, off)) ∧
    (∃ (block : BitVec 22) (bad : Option (Fin 6)) (s : State), s.Live ∧ s.upd.stumpLocked = true ∧ s.countBad (s.le 4 block.toNat 4) = false) ∧
    (∃ (block : BitVec 22) (bad : Option (Fin 6)) (s : State), s.Live ∧ s.upd.stumpLocked = true ∧ s.countBad (s.le 4 block.toNat 4) = true) ∧
    (∃ (block : BitVec 22) (bad : Option (Fin 6)) (s : State), s.Live ∧ s.upd.stumpLocked = false) ∧
    (∃ (block : BitVec 22) (c floor : Nat) (s : State), s.Live ∧ s.upd.stumpLocked = true ∧ c = s.le 4 block.toNat 4 ∧ floor = s.le 4 (block.toNat + 4) 4 ∧ 1 ≤ c ∧ c ≤ 5 ∧ s.rd (F.UPD_SVNc_FLOOR (c - 1)) ≠ 255) ∧
    (∃ (s : State), s.Live ∧ s.upd.stumpLocked = true) ∧
    (∃ (s : State), s.Live ∧ s.rd F.UPD_BOOT_STAGE = 4 ∧ s.rd F.CRL_STATUS_QUAR = 0 ∧ s.flashSections = none) ∧
    (∃ (s : State), s.Live ∧ s.rd F.UPD_BOOT_STAGE ≠ 4) ∧
    (∃ (r : Nat × Nat) (b : List Nat) (s : State), s.Live ∧ s.rd F.UPD_BOOT_STAGE = 4 ∧ s.rd F.UPD_BOOT_BOOT_SRC ≠ 1 ∧ b = ((List.range 8).map (fun n => leBytes 4 (s.rd (F.UPD_MBOX_ARG n)))).flatten ∧ s.countBad (leAt b 0 4) = false ∧ s.installRefused (installEntries b) = some r) ∧
    (∃ (s : State), s.Live ∧ ((s.rd F.UPD_BOOT_STAGE = 2 ∨ s.rd F.UPD_BOOT_STAGE = 7))) ∧
    (∃ (code : Nat) (a : List Nat) (l : List (List Nat)) (s : State), s.Live) ∧
    (∃ (uart : Bool) (seq : Byte) (baud : Word) (s : State), s.Live ∧ s.rd F.UPD_BOOT_STAGE = 2 ∧ ((∀ l : Nat × List (List Nat), s.upd.last = some l → l.1 ≠ seq.toNat))) ∧
    (∃ (uart : Bool) (seq cls mode : Byte) (total : Word) (s : State), s.Live ∧ s.rd F.UPD_BOOT_STAGE = 2 ∧ ((∀ l : Nat × List (List Nat), s.upd.last = some l → l.1 ≠ seq.toNat)) ∧ 1 ≤ cls.toNat ∧ cls.toNat ≤ 5 ∧ mode.toNat ≤ 1 ∧ ((mode.toNat = 0 → s.rd F.UPD_BOOT_BOOT_SRC ≠ 2))) ∧
    (∃ (uart : Bool) (seq : Byte) (off : Word) (data : List Byte) (d : Download) (s : State), s.Live ∧ s.rd F.UPD_BOOT_STAGE = 2 ∧ ((∀ l : Nat × List (List Nat), s.upd.last = some l → l.1 ≠ seq.toNat)) ∧ s.upd.download = some d ∧ off.toNat = d.got ∧ 1 ≤ data.length ∧ data.length ≤ 1024 ∧ d.got + data.length ≤ d.total) ∧
    (∃ (uart : Bool) (seq : Byte) (d : Download) (s : State), s.Live ∧ s.rd F.UPD_BOOT_STAGE = 2 ∧ ((∀ l : Nat × List (List Nat), s.upd.last = some l → l.1 ≠ seq.toNat)) ∧ s.upd.download = some d ∧ d.got = d.total ∧ d.mode = 1) ∧
    (∃ (uart : Bool) (seq : Byte) (d : Download) (s : State), s.Live ∧ s.rd F.UPD_BOOT_STAGE = 2 ∧ ((∀ l : Nat × List (List Nat), s.upd.last = some l → l.1 ≠ seq.toNat)) ∧ s.upd.download = some d ∧ d.mode = 1) ∧
    (∃ (uart : Bool) (seq : Byte) (s : State), s.Live ∧ s.rd F.UPD_BOOT_STAGE = 7 ∧ ((∀ l : Nat × List (List Nat), s.upd.last = some l → l.1 ≠ seq.toNat))) ∧
    (∃ (uart : Bool) (seq cls mode : Byte) (total off : Word) (data : List Byte) (s : State), s.Live ∧ s.rd F.UPD_BOOT_STAGE = 7 ∧ ((∀ l : Nat × List (List Nat), s.upd.last = some l → l.1 ≠ seq.toNat))) ∧
    (∃ (uart : Bool) (seq : Byte) (record : List Byte) (s : State), s.Live ∧ s.inRecovery = true ∧ ((∀ l : Nat × List (List Nat), s.upd.last = some l → l.1 ≠ seq.toNat)) ∧ ((leAt (record.map (·.toNat)) 0 4 = 0xA14C5452 → record.length ≠ 144))) ∧
    (∃ (seq : Byte) (l : List (List Nat)) (total : Word) (s : State), s.Live ∧ s.inRecovery = true ∧ s.upd.last = some (seq.toNat, l)) :=
  ⟨⟨State.reset, by decide +kernel⟩,
    ⟨(State.reset.wr F.VGL_STATUS_TLATCH 1).wr F.VGL_TLOG_CODE 0x1811, by decide +kernel⟩,
    ⟨(State.reset.wr F.UPD_BOOT_STAGE 1).wr F.UPD_BOOT_BOOT_SRC 3, by decide +kernel⟩,
    ⟨State.reset.wr F.UPD_BOOT_STAGE 1, by decide +kernel⟩,
    ⟨State.reset, by decide +kernel⟩,
    ⟨(State.reset.wr F.UPD_BOOT_STAGE 3).wr F.UPD_BOOT_BOOT_SRC 1, by decide +kernel⟩,
    ⟨State.reset.wr F.UPD_BOOT_STAGE 3, by decide +kernel⟩,
    ⟨.bar0, 3, State.reset.wr F.UPD_ELOAD_SRC_OFFSET 0x1000, by decide +kernel⟩,
    ⟨.bar0, 3, (5, 0), { State.reset with upd := { loading := some (5, 0) } }, by decide +kernel⟩,
    ⟨3, 0x1000, 0x1901, { State.reset with upd := { loading := some (3, 0x1000) } }, by decide +kernel⟩,
    ⟨0x1000, { State.reset with upd := { loading := some (3, 0x1000) } }, by decide +kernel⟩,
    ⟨0x1000, { State.reset with upd := { loading := some (5, 0x1000) } }, by decide +kernel⟩,
    ⟨0x100, none, { State.reset.store 4 0x100 [1, 0, 0, 0, 3, 0, 0, 0, 0, 0x10] with upd := { stumpLocked := true } }, by decide +kernel⟩,
    ⟨0x100, none, { State.reset with upd := { stumpLocked := true } }, by decide +kernel⟩,
    ⟨0x100, none, State.reset, by decide +kernel⟩,
    ⟨0x100, 2, 3, { State.reset.store 4 0x100 [2, 0, 0, 0, 3] with upd := { stumpLocked := true } }, by decide +kernel⟩,
    ⟨{ State.reset with upd := { stumpLocked := true } }, by decide +kernel⟩,
    ⟨State.reset.wr F.UPD_BOOT_STAGE 4, by decide +kernel⟩,
    ⟨State.reset, by decide +kernel⟩,
    ⟨(0x1901, 3), [1, 0, 0, 0, 3, 0, 0, 0, 0, 0x10, 0, 0] ++ List.replicate 20 0, (((State.reset.wr F.UPD_BOOT_STAGE 4).wr (F.UPD_MBOX_ARG 0) 1).wr (F.UPD_MBOX_ARG 1) 3).wr (F.UPD_MBOX_ARG 2) 0x1000, by decide +kernel⟩,
    ⟨State.reset.wr F.UPD_BOOT_STAGE 2, by decide +kernel⟩,
    ⟨5, [1, 2, 3, 4, 5], [[1]], State.reset, by decide +kernel⟩,
    ⟨true, 5, 230400, State.reset.wr F.UPD_BOOT_STAGE 2, by decide +kernel, by decide +kernel, by intro l h; simp [State.reset, State.wr] at h⟩,
    ⟨true, 5, 2, 1, 100, State.reset.wr F.UPD_BOOT_STAGE 2, by decide +kernel, by decide +kernel, by (intro l h; simp [State.reset, State.wr] at h), by decide, by decide, by decide, by decide +kernel⟩,
    ⟨true, 5, 3, [1, 2], ⟨2, 1, 100, 3⟩, { State.reset.wr F.UPD_BOOT_STAGE 2 with upd := { download := some ⟨2, 1, 100, 3⟩ } }, by decide +kernel, by decide +kernel, by (intro l h; simp at h), rfl, by decide, by decide, by decide, by decide⟩,
    ⟨true, 5, ⟨2, 1, 3, 3⟩, { State.reset.wr F.UPD_BOOT_STAGE 2 with upd := { download := some ⟨2, 1, 3, 3⟩ } }, by decide +kernel, by decide +kernel, by (intro l h; simp at h), rfl, by decide, by decide⟩,
    ⟨true, 5, ⟨2, 1, 3, 3⟩, { State.reset.wr F.UPD_BOOT_STAGE 2 with upd := { download := some ⟨2, 1, 3, 3⟩ } }, by decide +kernel, by decide +kernel, by (intro l h; simp at h), rfl, by decide⟩,
    ⟨true, 5, State.reset.wr F.UPD_BOOT_STAGE 7, by decide +kernel, by decide +kernel, by intro l h; simp [State.reset, State.wr] at h⟩,
    ⟨true, 5, 1, 1, 4, 0, [1], State.reset.wr F.UPD_BOOT_STAGE 7, by decide +kernel, by decide +kernel, by intro l h; simp [State.reset, State.wr] at h⟩,
    ⟨true, 5, [1, 2, 3], State.reset.wr F.UPD_BOOT_STAGE 7, by decide +kernel, by decide +kernel, by (intro l h; simp [State.reset, State.wr] at h), by decide⟩,
    ⟨5, [[1]], 5, { State.reset.wr F.UPD_BOOT_STAGE 2 with upd := { last := some (5, [[1]]) } }, by decide +kernel⟩⟩

end Sys2Proof.Tests
end

section
/-!
PROOFS. The controls of the hub: the drift acknowledgement (R67), the release of pair 1 (R15) and register accesses through BAR0 (R315).
-/

namespace Sys2Proof.Machine

variable (s : State)

/-! Drift acknowledgement -/

theorem exec_driftAck : exec .driftAck s = execDriftAck s := rfl

theorem exec_driftAck_live (h : s.Live) : exec .driftAck s = .next (s.settle s.driftAck.ack) := by
  rw [exec_driftAck, execDriftAck, guarded_next s _ h.1 h.2]

theorem State.driftAck_of_unmarked (h : s.marked .departed = false) :
    s.driftAck = (s.wr F.GLB_HEALTH_DRIFT 0).wr F.ALM_DRIFT_ADDR_VALID 0 := by
  simp only [State.driftAck, h, Bool.false_eq_true, if_false, State.endDrift]

theorem State.driftAck_of_marked (h : s.marked .departed = true) : s.driftAck = s := by
  simp only [State.driftAck, h, if_true]

/-! Writes of reserved fields (R36) -/

/-- A reserved field takes its part of a word and changes no field but itself; whether the guarantees are void then is left open. -/
theorem State.putField_rwb_frame (block : Nat) (f : FRow) (place word : Nat) (hf : f.acc = .rwb) :
    (s.putField block f place word).answer = s.answer ∧ (s.putField block f place word).mem = s.mem ∧
      (s.putField block f place word).staged = s.staged ∧
      ∀ g : Fld, g.key ≠ (f.fld place).key → (s.putField block f place word).rd g = s.rd g := by
  simp only [State.putField, hf]
  split
  · exact ⟨rfl, rfl, rfl, fun _ _ => rfl⟩
  · exact ⟨rfl, rfl, rfl, fun g hg => State.rd_wr_ne s _ g _ hg⟩

/-- A reserved field written with the value it holds: nothing changes. -/
theorem State.putField_rwb_of_eq (block : Nat) (f : FRow) (place word : Nat) (hf : f.acc = .rwb)
    (h : s.rd (f.fld place) = f.of word) : s.putField block f place word = s := by
  simp only [State.putField, hf, h, if_true]

/-! GLB_CTL and the release of pair 1 -/

/-- Bits 1 to 31 of GLB_CTL, which are reserved. -/
def glbCtlReserved : FRow := ⟨1, 31, .rwb, 0, .run, 0, 0x7fffffff⟩

/-- The row of GLB_CTL. -/
def glbCtlRow : RRow := ⟨F.GLB_CTL_PAIR1_REL.off, 1, 0, 1, 0, .plain, [⟨0, 1, .rw, 0, .run, 0, 1⟩, glbCtlReserved]⟩

theorem glbCtlReserved_fld : glbCtlReserved.fld F.GLB_CTL_PAIR1_REL.off = ⟨F.GLB_CTL_PAIR1_REL.off, 1, 31, 0⟩ := by decide

theorem glbCtlReserved_key : (glbCtlReserved.fld F.GLB_CTL_PAIR1_REL.off).key = F.GLB_CTL_PAIR1_REL.key + 1 := by decide

theorem State.findRow_glbCtl : findRow F.GLB_CTL_PAIR1_REL.off (s.persAt F.GLB_CTL_PAIR1_REL.off) = some glbCtlRow := by
  have hp : s.persAt F.GLB_CTL_PAIR1_REL.off = 0 := rfl
  rw [hp]
  decide

/-- GLB_CTL lies in the main die, and 1 is in the range of PAIR1_REL whether or not an Almanac is in force. -/
theorem State.writeRefused_glbCtl : s.writeRefused F.GLB_CTL_PAIR1_REL.off 1 glbCtlRow = none := by
  have hhv : hvWritten (F.GLB_CTL_PAIR1_REL.off / 0x10000) glbCtlRow = false := by decide
  have hrange : ∀ inForce, glbCtlRow.fields.any (fun f => f.outside inForce 1) = false := by decide
  have hclass : glbCtlRow.fields.any (fun f => f.acc == .rw && f.cls == .a) = false := by decide
  have hparam : isParam F.GLB_CTL_PAIR1_REL.off = false := by decide
  simp only [State.writeRefused, hhv, hrange, hclass, hparam, Bool.and_false, Bool.false_and, Bool.false_eq_true, if_false]
  rfl

/-- Writing 1 to GLB_CTL: its reserved bits meet the 0 written to them, and PAIR1_REL is set. -/
theorem State.wordWrite_pair1Rel (init : Initiator) :
    s.wordWrite init F.GLB_CTL_PAIR1_REL.off 1 =
      (s.ack.putField 0 glbCtlReserved F.GLB_CTL_PAIR1_REL.off 1).raise F.GLB_CTL_PAIR1_REL := by
  rw [s.wordWrite_perform init _ 1 glbCtlRow (by decide) (by decide) (by decide) s.findRow_glbCtl s.writeRefused_glbCtl (by decide),
    State.regPerform_single _ _ _ _ _ _ _ (by decide) (by decide)]
  rfl

theorem exec_pair1Release (init : Initiator) : exec (.pair1Release init) s = execPair1Release init s := rfl

theorem exec_pair1Release_live (init : Initiator) (h : s.Live) :
    exec (.pair1Release init) s =
      .next (s.settle ((s.ack.putField 0 glbCtlReserved F.GLB_CTL_PAIR1_REL.off 1).raise F.GLB_CTL_PAIR1_REL)) := by
  rw [exec_pair1Release, execPair1Release, guarded_next s _ h.1 h.2, State.wordWrite_pair1Rel]

/-- Releasing pair 1 sets PAIR1_REL and leaves alone every field outside GLB_CTL's two. -/
theorem exec_pair1Release_frame (init : Initiator) (h : s.Live) :
    ∃ t, exec (.pair1Release init) s = .next t ∧ t.rd F.GLB_CTL_PAIR1_REL = 1 ∧ t.answer = .done ∧ t.mem = s.mem ∧
      t.staged = s.staged ∧
      ∀ g : Fld, g.key ≠ F.GLB_CTL_PAIR1_REL.key → g.key ≠ F.GLB_CTL_PAIR1_REL.key + 1 → t.rd g = s.rd g := by
  obtain ⟨hanswer, hmem, hstaged, hrd⟩ :=
    s.ack.putField_rwb_frame 0 glbCtlReserved F.GLB_CTL_PAIR1_REL.off 1 rfl
  refine ⟨_, exec_pair1Release_live s init h, ?_, hanswer, hmem, hstaged, fun g hg hres => ?_⟩
  · rw [State.settle_rd, State.rd_raise_same]
    rfl
  · rw [State.settle_rd, State.rd_raise_ne _ _ _ hg, hrd g (by rwa [glbCtlReserved_key]), State.rd_ack]

/-- With its reserved bits 0, PAIR1_REL is all of GLB_CTL that a release changes. -/
theorem exec_pair1Release_of_reserved_zero (init : Initiator) (h : s.Live)
    (hres : s.rd ⟨F.GLB_CTL_PAIR1_REL.off, 1, 31, 0⟩ = 0) :
    exec (.pair1Release init) s = .next (s.settle (s.ack.raise F.GLB_CTL_PAIR1_REL)) := by
  have hzero : s.ack.rd (glbCtlReserved.fld F.GLB_CTL_PAIR1_REL.off) = glbCtlReserved.of 1 := by
    rw [State.rd_ack, glbCtlReserved_fld, hres]
    rfl
  rw [exec_pair1Release_live s init h, State.putField_rwb_of_eq _ _ _ _ _ rfl hzero]

/-! BAR0 -/

theorem State.complete_ok (tag : Nat) (bs : List Nat) : s.complete tag cplOk bs = s.emit (.completion tag cplOk bs) := rfl

/-- What a register read through region 0 gives: the four bytes of its word. -/
theorem State.outcome_of_data (l : List Nat) (h : s.answer = .data l) : s.outcome 0 = .ok (leBytes 4 (l.headD 0)) := by
  simp only [State.outcome, h, if_true]

theorem exec_bar0Access (dw : BitVec 24) (dws : BitVec 10) (be : BitVec 4) (tag : BitVec 10) (word : Option Word) :
    exec (.bar0Access dw dws be tag word) s = execBar0Access dw dws be tag word s := rfl

/-- A well-formed write of an active endpoint is the register write of the same word. -/
theorem exec_bar0Access_write (dw : BitVec 24) (tag : BitVec 10) (w : Word) (h : s.Live) (he : s.on F.BRG_STATUS_EP = true) :
    exec (.bar0Access dw 1 0xF tag (some w)) s = .next (s.settle (s.wordWrite .bar0 (4 * dw.toNat) w.toNat)) := by
  rw [exec_bar0Access, execBar0Access, guarded_next s _ h.1 h.2]
  simp only [he, Bool.not_true, Bool.false_eq_true, if_false, BEq.rfl, Bool.and_self, if_true]

/-- A well-formed read of an active endpoint that the register answers completes with its word. -/
theorem exec_bar0Access_read (dw : BitVec 24) (tag : BitVec 10) (l : List Nat) (h : s.Live) (he : s.on F.BRG_STATUS_EP = true)
    (hl : (s.regRead .bar0 (4 * dw.toNat)).answer = .data l) :
    exec (.bar0Access dw 1 0xF tag none) s =
      .next (s.settle ((s.regRead .bar0 (4 * dw.toNat)).emit (.completion tag.toNat cplOk (leBytes 4 (l.headD 0))))) := by
  have hread : s.localRead .bar0 0 (4 * dw.toNat) 4 = s.regRead .bar0 (4 * dw.toNat) :=
    s.localRead_word .bar0 _ (by omega) (by have := dw.isLt; omega)
  rw [exec_bar0Access, execBar0Access, guarded_next s _ h.1 h.2]
  simp only [he, Bool.not_true, Bool.false_eq_true, if_false, BEq.rfl, Bool.and_self, if_true, hread, State.outcome_of_data _ l hl,
    State.complete_ok]

/-- Settles O12, clause by clause: what a drift acknowledgement does alone and beside a departing write, what a release of pair 1 changes,
and what well-formed accesses through BAR0 come to. -/
theorem hubControls : Obligations.HubControls :=
  ⟨fun s h hm => by rw [exec_driftAck_live s h, State.driftAck_of_unmarked s hm],
    fun s h hm => by rw [exec_driftAck_live s h, State.driftAck_of_marked s hm],
    fun init s => exec_pair1Release_frame s init,
    fun init s => exec_pair1Release_of_reserved_zero s init,
    fun dw tag w s => exec_bar0Access_write s dw tag w,
    fun dw tag l s => exec_bar0Access_read s dw tag l⟩

end Sys2Proof.Machine
end

section
/-!
PROOFS. Reads of register fields over writes of other places, as the harvest and the loader need them: what stays outside a list of
offsets or a list of fields, and the write of several fields in turn.
-/

namespace Sys2Proof.Machine

variable (s : State)

/-! Frames of the register file -/

/-- Every register field outside the listed offsets holds what it held. -/
def State.SameOffs (s t : State) (offs : List Nat) : Prop := ∀ g : Fld, g.lo < 32 → g.off ∉ offs → t.rd g = s.rd g

theorem Fld.key_ne_of_off_ne (f g : Fld) (h : g.off ≠ f.off) (hf : f.lo < 32) (hg : g.lo < 32) : g.key ≠ f.key := by
  simp only [Fld.key]
  omega

variable {s} {t u : State}

theorem State.SameOffs.refl (offs : List Nat) : s.SameOffs s offs := fun _ _ _ => rfl

theorem State.SameOffs.wr {offs : List Nat} (h : s.SameOffs t offs) (f : Fld) (v : Nat) (hf : f.off ∈ offs) (hlo : f.lo < 32) :
    s.SameOffs (t.wr f v) offs := fun g hg hoff => by
  have hne : g.off ≠ f.off := fun e => hoff (e ▸ hf)
  rw [State.rd_wr_ne _ _ _ _ (Fld.key_ne_of_off_ne f g hne hlo hg), h g hg hoff]

theorem State.SameRegs.refl (fs : List Fld) : s.SameRegs s fs := fun _ _ => rfl

theorem State.SameRegs.of_regs {fs : List Fld} (h : t.regs = s.regs) : s.SameRegs t fs := fun g _ => State.rd_congr s t g h

theorem State.SameRegs.trans {fs : List Fld} (h : s.SameRegs t fs) (k : t.SameRegs u fs) : s.SameRegs u fs :=
  fun g hg => (k g hg).trans (h g hg)

theorem State.SameRegs.mono {fs gs : List Fld} (h : s.SameRegs t fs) (hs : ∀ f ∈ fs, f ∈ gs) : s.SameRegs t gs :=
  fun g hg => h g fun hk => hg (List.map_subset Fld.key hs hk)

theorem State.SameRegs.wr {fs : List Fld} (h : s.SameRegs t fs) (f : Fld) (v : Nat) (hf : f ∈ fs) : s.SameRegs (t.wr f v) fs :=
  fun g hg => by
    have hne : g.key ≠ f.key := fun e => hg (e ▸ List.mem_map_of_mem hf)
    rw [State.rd_wr_ne _ _ _ _ hne, h g hg]

/-! Several writes in turn -/

variable (s)

/-- Fields of distinct places, one for each number of a list, take values that do not depend on the state. -/
theorem State.rd_foldl_wr (f : Nat → Fld) (v : Nat → Nat) (hf : ∀ i j, (f i).key = (f j).key → i = j) (n : Nat) (l : List Nat) :
    (l.foldl (fun t k => t.wr (f k) (v k)) s).rd (f n) = if n ∈ l then v n % 2 ^ (f n).w else s.rd (f n) := by
  induction l generalizing s with
  | nil => rfl
  | cons k l ih =>
    rw [List.foldl_cons, ih]
    by_cases hk : n = k
    · subst hk
      simp
    · have hne : (f n).key ≠ (f k).key := fun e => hk (hf n k e)
      simp [hk, State.rd_wr_ne _ _ _ _ hne]

end Sys2Proof.Machine
end

section
/-! PROOFS. Staging an Almanac image (R57, R69). -/

namespace Sys2Proof

/-- A look-up after the entries under some keys were dropped. -/
theorem SMap.get?_filter_key {α : Type} (p : Nat → Bool) (m : SMap α) (k : Nat) :
    SMap.get? (m.filter (fun c => p c.1)) k = if p k then SMap.get? m k else none := by
  induction m with
  | nil => simp [SMap.get?]
  | cons c m ih =>
    obtain ⟨j, a⟩ := c
    by_cases hj : j = k
    · subst hj
      cases hp : p j <;> simp [SMap.get?, ih, hp]
    · cases hp : p j <;> simp [SMap.get?, ih, hp, hj]

end Sys2Proof

namespace Sys2Proof.Machine

variable (s : State)

/-- A byte read after the cells at some addresses were dropped. -/
theorem Mem.get_filter_addr (p : Nat → Bool) (m : List Host.Cell) (a : Nat) :
    Mem.get (m.filter (fun c => p c.1)) a = if p a then Mem.get m a else 0 := by
  simp only [Mem.get, SMap.getD, SMap.get?_filter_key]
  split <;> rfl

/-! The loader's states -/

theorem State.almBusy_iff : s.almBusy = true ↔ 2 ≤ s.rd F.ALM_STATUS_STATE := by
  simp only [State.almBusy, decide_eq_true_eq]
  rfl

theorem State.almBusy_of_lt (h : s.rd F.ALM_STATUS_STATE < 2) : s.almBusy = false := by
  rw [Bool.eq_false_iff, ne_eq, State.almBusy_iff]
  omega

/-! What the writes of the staging registers come to -/

theorem State.stageData_busy (w : Nat) (h : s.almBusy = true) : s.stageData w = s.raise F.ALM_IRQ_WR_BUSY := by
  simp only [State.stageData, h, if_true, State.almIgnored]

theorem State.stageData_beyond (w : Nat) (h : s.almBusy = false) (hp : 0x20000 ≤ s.rd F.ALM_STAGE_PTR_PTR) :
    s.stageData w = s.raise F.ALM_IRQ_STAGE_OVR := by
  simp only [State.stageData, h, hp, if_true, Bool.false_eq_true, if_false]

theorem State.stageData_stored (w : Nat) (h : s.almBusy = false) (hp : s.rd F.ALM_STAGE_PTR_PTR < 0x20000) :
    s.stageData w = (s.store stagingRegion (4 * s.rd F.ALM_STAGE_PTR_PTR) (leBytes 4 w)).wr F.ALM_STAGE_PTR_PTR
      (s.rd F.ALM_STAGE_PTR_PTR + 1) := by
  simp only [State.stageData, h, Nat.not_le.2 hp, Bool.false_eq_true, if_false]

theorem State.clrStage_busy (h : s.almBusy = true) : s.clrStage = s.raise F.ALM_IRQ_WR_BUSY := by
  simp only [State.clrStage, h, if_true, State.almIgnored]

theorem State.clrStage_idle (h : s.almBusy = false) :
    s.clrStage = { s with mem := s.mem.filter (fun c => c.1 / 2 ^ 40 != stagingRegion) }.wr F.ALM_STAGE_PTR_PTR 0 := by
  simp only [State.clrStage, h, Bool.false_eq_true, if_false]

theorem State.almEnable_busy (h : s.almBusy = true) : s.almEnable = s.raise F.ALM_IRQ_WR_BUSY := by
  simp only [State.almEnable, h, if_true, State.almIgnored]

/-- The staging RAM reads 0 after CLR_STAGE, and every other memory as before. -/
theorem State.clrStage_mem (h : s.almBusy = false) (a : Nat) :
    Mem.get s.clrStage.mem a = if a / 2 ^ 40 = stagingRegion then 0 else Mem.get s.mem a := by
  rw [State.clrStage_idle s h, State.wr_mem, Mem.get_filter_addr (fun k => k / 2 ^ 40 != stagingRegion)]
  simp only [bne_iff_ne, ne_eq, ite_not]

theorem State.clrStage_rd_ptr (h : s.almBusy = false) : s.clrStage.rd F.ALM_STAGE_PTR_PTR = 0 := by
  rw [State.clrStage_idle s h, State.rd_wr_same]
  rfl

theorem State.clrStage_rd_ne (h : s.almBusy = false) (g : Fld) (hg : g.key ≠ F.ALM_STAGE_PTR_PTR.key) :
    s.clrStage.rd g = s.rd g := by
  rw [State.clrStage_idle s h, State.rd_wr_ne _ _ _ _ hg]
  rfl

/-! The commands -/

theorem exec_almStageDataWrite_live (data : Word) (h : s.Live) :
    exec (.almStageDataWrite data) s = .next (s.settle (s.stageData data.toNat).ack) :=
  guarded_next s (fun s => (s.stageData data.toNat).ack) h.1 h.2

theorem exec_almStagePtrWrite_live (ptr : BitVec 18) (h : s.Live) :
    exec (.almStagePtrWrite ptr) s = .next (s.settle (s.stagePtr ptr.toNat).ack) :=
  guarded_next s (fun s => (s.stagePtr ptr.toNat).ack) h.1 h.2

theorem exec_clrStage_live (h : s.Live) : exec .clrStage s = .next (s.settle s.clrStage.ack) :=
  guarded_next s (fun s => s.clrStage.ack) h.1 h.2

theorem exec_almanacEnable_live (h : s.Live) : exec .almanacEnable s = .next (s.settle s.almEnable.ack) :=
  guarded_next s (fun s => s.almEnable.ack) h.1 h.2

/-- While the loader works on an image, the writes that would change it set WR_BUSY alone. -/
theorem exec_staging_busy (data : Word) (h : s.Live) (hb : 2 ≤ s.rd F.ALM_STATUS_STATE) :
    exec (.almStageDataWrite data) s = .next (s.settle ((s.raise F.ALM_IRQ_WR_BUSY).ack)) ∧
      exec .clrStage s = .next (s.settle ((s.raise F.ALM_IRQ_WR_BUSY).ack)) ∧
      exec .almanacEnable s = .next (s.settle ((s.raise F.ALM_IRQ_WR_BUSY).ack)) := by
  have busy := s.almBusy_iff.2 hb
  refine ⟨?_, ?_, ?_⟩
  · rw [exec_almStageDataWrite_live s data h, State.stageData_busy s _ busy]
  · rw [exec_clrStage_live s h, State.clrStage_busy s busy]
  · rw [exec_almanacEnable_live s h, State.almEnable_busy s busy]

theorem exec_clrStage_idle (h : s.Live) (hb : s.rd F.ALM_STATUS_STATE < 2) :
    ∃ t, exec .clrStage s = .next t ∧ t.rd F.ALM_STAGE_PTR_PTR = 0 ∧ t.answer = .done ∧
      (∀ a : Nat, Mem.get t.mem a = if a / 2 ^ 40 = stagingRegion then 0 else Mem.get s.mem a) ∧
      (∀ g : Fld, g.key ≠ F.ALM_STAGE_PTR_PTR.key → t.rd g = s.rd g) := by
  have idle := s.almBusy_of_lt hb
  exact ⟨_, exec_clrStage_live s h, s.clrStage_rd_ptr idle, rfl, s.clrStage_mem idle, s.clrStage_rd_ne idle⟩

/-- Settles O15, by what each staging write comes to while the loader is idle and while it works on an image. -/
theorem stagingCommands : Obligations.StagingCommands :=
  ⟨fun data s h hb hp => by
      rw [exec_almStageDataWrite_live s data h, State.stageData_stored s _ (s.almBusy_of_lt hb) hp],
    fun data s h hb hp => by
      rw [exec_almStageDataWrite_live s data h, State.stageData_beyond s _ (s.almBusy_of_lt hb) hp],
    fun data s h hb => exec_staging_busy s data h hb,
    fun ptr s h => exec_almStagePtrWrite_live s ptr h,
    fun s h hb => exec_clrStage_idle s h hb⟩

end Sys2Proof.Machine
end

section
/-!
PROOFS. What originating and placing a frame touches: the FLOWSEQ of its class, the frames that wait to be placed, what was sent, and at
most the count of unreachable destinations (R257, R267, R298).
-/

namespace Sys2Proof.Machine

/-- t comes from s by frames on their way: nothing else changes but the register fields listed. -/
structure State.Sends (fs : List Fld) (s t : State) : Prop where
  frame : t = { s with regs := t.regs, egress := t.egress, ring := { s.ring with flowTx := t.ring.flowTx },
                       swc := { s.swc with arrivals := t.swc.arrivals } }
  regs : s.SameRegs t fs

variable {fs gs : List Fld} {s t u : State}

theorem State.Sends.refl (fs : List Fld) (s : State) : State.Sends fs s s := ⟨rfl, State.SameRegs.refl fs⟩

theorem State.Sends.trans (h : State.Sends fs s t) (k : State.Sends fs t u) : State.Sends fs s u :=
  ⟨k.frame.trans (by rw [h.frame]), h.regs.trans k.regs⟩

theorem State.Sends.mono (h : State.Sends fs s t) (hs : ∀ f ∈ fs, f ∈ gs) : State.Sends gs s t := ⟨h.frame, h.regs.mono hs⟩

/-! What sends leave alone -/

theorem State.Sends.alm (h : State.Sends fs s t) : t.alm = s.alm := by rw [h.frame]
theorem State.Sends.mem (h : State.Sends fs s t) : t.mem = s.mem := by rw [h.frame]
theorem State.Sends.head (h : State.Sends fs s t) : t.ring.head = s.ring.head := by rw [h.frame]
theorem State.Sends.harvest (h : State.Sends fs s t) : t.ring.harvest = s.ring.harvest := by rw [h.frame]
theorem State.Sends.coming (h : State.Sends fs s t) : t.ring.coming = s.ring.coming := by rw [h.frame]

/-! The operations -/

variable (s)

theorem State.emit_sends (o : Out) : State.Sends [] s (s.emit o) := ⟨rfl, State.SameRegs.refl []⟩

theorem State.arrive_sends (a : Arrival) : State.Sends [] s (s.arrive a) := ⟨rfl, State.SameRegs.refl []⟩

theorem State.stampFrame_sends (f : Frame) : State.Sends [] s (s.stampFrame f).1 := ⟨rfl, State.SameRegs.refl []⟩

theorem State.toOutputs_sends (p : Nat) (f : Frame) (outs : List Nat) (undo : Option (Nat × Option Window)) :
    State.Sends [] s (s.toOutputs p f outs undo) := by
  unfold State.toOutputs
  split
  · exact State.Sends.refl [] s
  · exact s.arrive_sends _

/-- A frame stamped and given to outputs. -/
theorem State.stampedOutputs_sends (f : Frame) (p : Nat) (outs : List Nat) (undo : Option (Nat × Option Window)) :
    State.Sends [] s ((s.stampFrame f).1.toOutputs p (s.stampFrame f).2 outs undo) :=
  (s.stampFrame_sends f).trans (State.toOutputs_sends _ p _ outs undo)

theorem State.deliver_sends (p : Nat) (f : Frame) (undo : Option (Nat × Option Window)) : State.Sends [] s (s.deliver p f undo) := by
  unfold State.deliver
  split
  · exact s.arrive_sends _
  · exact s.emit_sends _

theorem State.unreachable_sends (code : Nat) : State.Sends [F.CRL_CNT2_UNREACH] s (s.unreachable code) := by
  unfold State.unreachable
  split
  · exact ⟨rfl, (State.SameRegs.refl _).wr _ _ (List.mem_singleton_self _)⟩
  · exact State.Sends.refl _ s

theorem State.originate_sends (p : Nat) (f : Frame) (lq : Option Nat) :
    State.Sends [F.CRL_CNT2_UNREACH] s (s.originate p f lq).1 := by
  unfold State.originate
  split
  · exact State.Sends.refl _ s
  · split
    · exact s.unreachable_sends _
    · rename_i outs d _
      have stamped := (s.stampFrame_sends { f with ringB := d }).mono (gs := [F.CRL_CNT2_UNREACH]) (by simp)
      dsimp only
      split
      · dsimp only
        split
        · exact stamped.trans ((State.emit_sends _ _).mono (by simp))
        · exact stamped
      · exact stamped.trans ((State.arrive_sends _ _).mono (by simp))

theorem State.send_sends (p : Nat) (f : Frame) : State.Sends [F.CRL_CNT2_UNREACH] s (s.send p f) := s.originate_sends p f none

theorem State.sendPosted_sends (p tc dest region off : Nat) (data : List Nat) :
    State.Sends [F.CRL_CNT2_UNREACH] s (s.sendPosted p tc dest region off data) := s.send_sends p _

theorem State.toHead_sends (payload : List Nat) : State.Sends [F.CRL_CNT2_UNREACH] s (s.toHead payload) := by
  unfold State.toHead
  split
  · exact (s.deliver_sends _ _ _).mono (by simp)
  · exact s.send_sends _ _

end Sys2Proof.Machine
end

section
/-!
PROOFS. What leaves the Almanac beside its registers alone: refused frames' reports, key slots and their loading, and Boom records.
-/

namespace Sys2Proof.Machine

variable (s : State)

theorem State.sendNak_alm (f : Frame) (code : Nat) : (s.sendNak f code).alm = s.alm := by
  unfold State.sendNak
  split
  · rfl
  · dsimp only
    split
    · split
      · rfl
      · exact (State.send_sends _ _ _).alm
    · exact (State.send_sends _ _ _).alm

theorem State.report_alm (f : Frame) (code : Nat) : (s.report f code).alm = s.alm := by
  unfold State.report
  split
  · exact (s.deliver_sends _ _ _).alm
  · exact s.sendNak_alm f code

/-- A fold of operations that leave the Almanac alone leaves it alone. -/
theorem State.foldl_alm {α : Type} (f : State → α → State) (l : List α) (h : ∀ t a, (f t a).alm = t.alm) :
    (l.foldl f s).alm = s.alm :=
  List.foldlRecOn (motive := fun t : State => t.alm = s.alm) l f rfl fun t ht a _ => (h t a).trans ht

theorem State.discardHeld_alm (slot : Option Nat) : (s.discardHeld slot).alm = s.alm := by
  unfold State.discardHeld
  exact State.foldl_alm _ _ _ fun t b => t.report_alm b.frame 0x1105

theorem State.endHostOps_alm (slot : Option Nat) (code : Nat) : (s.endHostOps slot code).alm = s.alm := by
  unfold State.endHostOps
  refine State.foldl_alm _ _ _ fun t p => ?_
  simp only [State.bump_alm, State.raise_alm, State.resDone_alm]

theorem State.emptySlot_alm (n : Nat) : (s.emptySlot n).alm = s.alm := by
  simp only [State.emptySlot, State.wr_alm, State.wr64_alm]

theorem State.zeroSlot_alm (n : Nat) : (s.zeroSlot n).alm = s.alm := by
  rw [State.zeroSlot, State.discardHeld_alm, State.endHostOps_alm, State.emptySlot_alm]

theorem State.zeroSlots_alm : s.zeroSlots.alm = s.alm := s.foldl_alm _ _ State.zeroSlot_alm

theorem State.loadBlob_alm (slot record : Nat) (b : List Nat) : (s.loadBlob slot record b).1.alm = s.alm := by
  unfold State.loadBlob
  split <;> rfl

theorem State.loadKey_alm (slot : Nat) (record : Option Nat) : (s.loadKey slot record).1.alm = s.alm := by
  unfold State.loadKey
  iterate 4
    split
    · rfl
  split
  · exact s.loadBlob_alm _ _ _
  · split
    · rfl
    · exact s.loadBlob_alm _ _ _

theorem State.boom_alm (r : BoomRec) : (s.boom r).alm = s.alm := by
  unfold State.boom
  dsimp only
  split <;> rfl

theorem State.loadSecurity_alm (x : Section) : (s.loadSecurity x).alm = s.alm := by
  refine (State.foldl_alm _ _ _ fun t r => ?_).trans (State.zeroSlots_alm _)
  dsimp only
  split
  · exact t.loadKey_alm _ _
  · exact (State.boom_alm _ _).trans (t.loadKey_alm _ _)

/-- A field that departs takes the Almanac's value again. -/
def State.endDeparture (s : State) (k : Nat) : State :=
  match fldOfKey k with
  | some f => s.wr f (s.almValue f)
  | none => s

theorem State.endDeparture_alm (k : Nat) : (s.endDeparture k).alm = s.alm := by
  unfold State.endDeparture
  split <;> rfl

theorem State.endDepartures_eq (keys : List Nat) :
    s.endDepartures keys = (keys.foldl State.endDeparture s).setDeparting
      ((keys.foldl State.endDeparture s).alm.departing.filter (fun k => !(keys.contains k))) := rfl

/-- When every departure ends, none is left. -/
theorem State.endDepartures_departing : (s.endDepartures s.alm.departing).alm.departing = [] := by
  rw [State.endDepartures_eq, State.foldl_alm s _ _ State.endDeparture_alm]
  simp [State.setDeparting]

end Sys2Proof.Machine
end

section
/-! PROOFS. Checking, refusing, taking and withdrawing an Almanac image (R57, R58, R60, R61, R481). -/

namespace Sys2Proof.Machine

variable (s : State)

/-! The Almanac beside its registers -/

/-- The Almanac beside its registers changes. -/
def State.setAlm (s : State) (a : AlmState) : State := { s with alm := a }

@[simp] theorem State.setAlm_alm (a : AlmState) : (s.setAlm a).alm = a := rfl
@[simp] theorem State.setAlm_mem (a : AlmState) : (s.setAlm a).mem = s.mem := rfl
@[simp] theorem State.rd_setAlm (a : AlmState) (f : Fld) : (s.setAlm a).rd f = s.rd f := rfl

theorem State.SameOffs.setAlm {s t : State} {offs : List Nat} (h : s.SameOffs t offs) (a : AlmState) : s.SameOffs (t.setAlm a) offs := h

/-- No image is coming. -/
def AlmState.withoutComing (a : AlmState) : AlmState := { a with coming := none, switched := false }

theorem State.almInForce_iff : s.almInForce = true ↔ s.rd F.GLB_HEALTH_ALM_OK ≠ 0 := by
  simp only [State.almInForce, State.on, bne_iff_ne]

theorem State.almInForce_of_ne (h : s.rd F.GLB_HEALTH_ALM_OK ≠ 0) : s.almInForce = true := s.almInForce_iff.2 h

theorem State.almInForce_of_eq (h : s.rd F.GLB_HEALTH_ALM_OK = 0) : s.almInForce = false := by
  rw [Bool.eq_false_iff, ne_eq, State.almInForce_iff, h]
  exact fun hne => hne rfl

/-! ENABLE -/

theorem State.almEnable_idle (h : s.almBusy = false) :
    s.almEnable = (((((((s.toAlm aChecking).wr F.ALM_STATUS_SEQ (s.rd F.ALM_STATUS_SEQ + 1)).wr F.ALM_STATUS_ACCEPTED 0).wr
      F.ALM_STATUS_CODE 0).wr F.ALM_ERR_SECT_SECT 0).wr F.ALM_ERR_OFF_OFF 0).setAlm { s.alm with checking := some s.almCheck }) := by
  simp only [State.almEnable, h, Bool.false_eq_true, if_false]
  rfl

/-- The registers of the loader's result: ALM_STATUS, ALM_ERR_SECT and ALM_ERR_OFF. -/
def almResultOffs : List Nat := [F.ALM_STATUS_STATE.off, F.ALM_ERR_SECT_SECT.off, F.ALM_ERR_OFF_OFF.off]

theorem State.almEnable_frame (h : s.almBusy = false) : s.SameOffs s.almEnable almResultOffs := by
  rw [State.almEnable_idle s h]
  have start : s.SameOffs s almResultOffs := State.SameOffs.refl _
  exact ((((((start.wr F.ALM_STATUS_STATE _ (by decide) (by decide)).wr F.ALM_STATUS_SEQ _ (by decide) (by decide)).wr
    F.ALM_STATUS_ACCEPTED 0 (by decide) (by decide)).wr F.ALM_STATUS_CODE 0 (by decide) (by decide)).wr
    F.ALM_ERR_SECT_SECT 0 (by decide) (by decide)).wr F.ALM_ERR_OFF_OFF 0 (by decide) (by decide)).setAlm _

theorem exec_almanacEnable_idle (h : s.Live) (hb : s.rd F.ALM_STATUS_STATE < 2) :
    ∃ t, exec .almanacEnable s = .next t ∧ t.alm = { s.alm with checking := some s.almCheck } ∧ t.rd F.ALM_STATUS_STATE = 2 ∧
      t.rd F.ALM_STATUS_SEQ = (s.rd F.ALM_STATUS_SEQ + 1) % 2 ^ F.ALM_STATUS_SEQ.w ∧ t.rd F.ALM_STATUS_ACCEPTED = 0 ∧
      t.rd F.ALM_STATUS_CODE = 0 ∧ t.rd F.ALM_ERR_SECT_SECT = 0 ∧ t.rd F.ALM_ERR_OFF_OFF = 0 ∧ t.answer = .done ∧ t.mem = s.mem ∧
      (∀ g : Fld, g.off ≠ F.ALM_STATUS_STATE.off → g.off ≠ F.ALM_ERR_SECT_SECT.off → g.off ≠ F.ALM_ERR_OFF_OFF.off → g.lo < 32 →
        t.rd g = s.rd g) := by
  have idle := s.almBusy_of_lt hb
  refine ⟨_, exec_almanacEnable_live s h, ?_, ?_, ?_, ?_, ?_, ?_, ?_, rfl, ?_, fun g h1 h2 h3 hg => ?_⟩
  case refine_9 => exact s.almEnable_frame idle g hg (by simp [almResultOffs, h1, h2, h3])
  all_goals
    rw [State.almEnable_idle s idle]
    simp (disch := decide) only [State.settle_rd, State.settle_alm, State.settle_mem, State.rd_ack, State.ack_alm, State.ack_mem,
      State.rd_setAlm, State.setAlm_alm, State.setAlm_mem, State.rd_wr_ne, State.rd_wr_same, State.wr_mem, State.toAlm]
  · rfl
  all_goals rfl

/-! A field that takes a value or a free one -/

theorem State.rd_wrOrFree_ne (f g : Fld) (v : Option Nat) (l : List Nat) (h : g.key ≠ f.key) :
    (s.wrOrFree f v l).rd g = s.rd g := by
  unfold State.wrOrFree
  split
  · exact State.rd_wr_ne _ _ _ _ h
  · exact State.rd_wr_ne _ _ _ _ h

theorem State.wrOrFree_alm (f : Fld) (v : Option Nat) (l : List Nat) : (s.wrOrFree f v l).alm = s.alm := by
  unfold State.wrOrFree
  split <;> rfl

theorem State.wrOrFree_mem (f : Fld) (v : Option Nat) (l : List Nat) : (s.wrOrFree f v l).mem = s.mem := by
  unfold State.wrOrFree
  split <;> rfl

theorem State.wrOrFree_some (f : Fld) (n : Nat) (l : List Nat) : s.wrOrFree f (some n) l = s.wr f n := rfl

theorem State.SameOffs.wrOrFree {s t : State} {offs : List Nat} (h : s.SameOffs t offs) (f : Fld) (v : Option Nat) (l : List Nat)
    (hf : f.off ∈ offs) (hlo : f.lo < 32) : s.SameOffs (t.wrOrFree f v l) offs := fun g hg hoff =>
  (t.rd_wrOrFree_ne f g v l (Fld.key_ne_of_off_ne f g (fun e => hoff (e ▸ hf)) hlo hg)).trans (h g hg hoff)

/-! A refused image -/

/-- What a refusal writes before the loader's state: the code, its place and ACCEPTED. -/
def State.refusal (s : State) (code sect off : Option Nat) : State :=
  (((s.wrOrFree F.ALM_STATUS_CODE code almCodes).wrOrFree F.ALM_ERR_SECT_SECT sect).wrOrFree F.ALM_ERR_OFF_OFF off).wr
    F.ALM_STATUS_ACCEPTED 0

theorem State.rd_refusal_ne (code sect off : Option Nat) (g : Fld) (hc : g.key ≠ F.ALM_STATUS_CODE.key)
    (hs : g.key ≠ F.ALM_ERR_SECT_SECT.key) (ho : g.key ≠ F.ALM_ERR_OFF_OFF.key) (ha : g.key ≠ F.ALM_STATUS_ACCEPTED.key) :
    (s.refusal code sect off).rd g = s.rd g := by
  rw [State.refusal, State.rd_wr_ne _ _ _ _ ha, State.rd_wrOrFree_ne _ _ _ _ _ ho, State.rd_wrOrFree_ne _ _ _ _ _ hs,
    State.rd_wrOrFree_ne _ _ _ _ _ hc]

theorem State.refusal_alm (code sect off : Option Nat) : (s.refusal code sect off).alm = s.alm := by
  simp only [State.refusal, State.wr_alm, State.wrOrFree_alm]

theorem State.refusal_mem (code sect off : Option Nat) : (s.refusal code sect off).mem = s.mem := by
  simp only [State.refusal, State.wr_mem, State.wrOrFree_mem]

/-- With a structure in force the loader goes back to IDLE, without one to NONE (R58). -/
theorem State.almRefuse_eq (code sect off : Option Nat) :
    s.almRefuse code sect off =
      ((((s.refusal code sect off).setAlm s.alm.withoutComing).toAlm (if s.rd F.GLB_HEALTH_ALM_OK ≠ 0 then 1 else 0)).raise
        F.ALM_IRQ_DONE).raise F.ALM_IRQ_REFUSED := by
  have hok : (s.refusal code sect off).rd F.GLB_HEALTH_ALM_OK = s.rd F.GLB_HEALTH_ALM_OK :=
    s.rd_refusal_ne code sect off _ (by decide) (by decide) (by decide) (by decide)
  have hstate : (if ((s.refusal code sect off).setAlm (s.refusal code sect off).alm.withoutComing).almInForce then aIdle else aNone) =
      if s.rd F.GLB_HEALTH_ALM_OK ≠ 0 then 1 else 0 := by
    simp only [State.almInForce_iff, State.rd_setAlm, hok, aIdle, aNone]
  rw [← hstate, ← State.refusal_alm s code sect off]
  rfl

/-- The registers that a refusal writes: ALM_STATUS, ALM_IRQ, ALM_ERR_SECT and ALM_ERR_OFF. -/
def almRefusalOffs : List Nat := [F.ALM_STATUS_STATE.off, F.ALM_IRQ_DONE.off, F.ALM_ERR_SECT_SECT.off, F.ALM_ERR_OFF_OFF.off]

theorem State.almRefuse_frame (code sect off : Option Nat) : s.SameOffs (s.almRefuse code sect off) almRefusalOffs := by
  rw [State.almRefuse_eq]
  have start : s.SameOffs s almRefusalOffs := State.SameOffs.refl _
  have written := ((((start.wrOrFree F.ALM_STATUS_CODE code almCodes (by decide) (by decide)).wrOrFree F.ALM_ERR_SECT_SECT sect []
    (by decide) (by decide)).wrOrFree F.ALM_ERR_OFF_OFF off [] (by decide) (by decide)).wr F.ALM_STATUS_ACCEPTED 0 (by decide)
    (by decide)).setAlm s.alm.withoutComing
  exact ((written.wr F.ALM_STATUS_STATE _ (by decide) (by decide)).wr F.ALM_IRQ_DONE 1 (by decide) (by decide)).wr
    F.ALM_IRQ_REFUSED 1 (by decide) (by decide)

theorem State.almRefuse_alm (code sect off : Option Nat) : (s.almRefuse code sect off).alm = s.alm.withoutComing := by
  rw [State.almRefuse_eq]
  rfl

theorem State.almRefuse_mem (code sect off : Option Nat) : (s.almRefuse code sect off).mem = s.mem := by
  simp only [State.almRefuse_eq, State.raise_mem, State.toAlm, State.wr_mem, State.setAlm_mem, State.refusal_mem]

theorem State.almRefuse_state (code sect off : Option Nat) :
    (s.almRefuse code sect off).rd F.ALM_STATUS_STATE = if s.rd F.GLB_HEALTH_ALM_OK ≠ 0 then 1 else 0 := by
  rw [State.almRefuse_eq, State.rd_raise_ne _ _ _ (by decide), State.rd_raise_ne _ _ _ (by decide), State.toAlm, State.rd_wr_same]
  split <;> rfl

/-- A field that a refusal writes before the loader's state. -/
theorem State.almRefuse_rd (code sect off : Option Nat) (g : Fld) (hs : g.key ≠ F.ALM_STATUS_STATE.key)
    (hd : g.key ≠ F.ALM_IRQ_DONE.key) (hr : g.key ≠ F.ALM_IRQ_REFUSED.key) :
    (s.almRefuse code sect off).rd g = (s.refusal code sect off).rd g := by
  rw [State.almRefuse_eq, State.rd_raise_ne _ _ _ hr, State.rd_raise_ne _ _ _ hd, State.toAlm, State.rd_wr_ne _ _ _ _ hs,
    State.rd_setAlm]

theorem State.almRefuse_accepted (code sect off : Option Nat) : (s.almRefuse code sect off).rd F.ALM_STATUS_ACCEPTED = 0 := by
  rw [State.almRefuse_rd _ _ _ _ _ (by decide) (by decide) (by decide), State.refusal, State.rd_wr_same]
  rfl

theorem State.almRefuse_code (code : Nat) (sect off : Option Nat) :
    (s.almRefuse (some code) sect off).rd F.ALM_STATUS_CODE = code % 2 ^ 16 := by
  rw [State.almRefuse_rd _ _ _ _ _ (by decide) (by decide) (by decide), State.refusal, State.rd_wr_ne _ _ _ _ (by decide),
    State.rd_wrOrFree_ne _ _ _ _ _ (by decide), State.rd_wrOrFree_ne _ _ _ _ _ (by decide), State.wrOrFree_some, State.rd_wr_same]
  rfl

theorem State.almRefuse_sect (code off : Option Nat) (sect : Nat) :
    (s.almRefuse code (some sect) off).rd F.ALM_ERR_SECT_SECT = sect % 2 ^ F.ALM_ERR_SECT_SECT.w := by
  rw [State.almRefuse_rd _ _ _ _ _ (by decide) (by decide) (by decide), State.refusal, State.rd_wr_ne _ _ _ _ (by decide),
    State.rd_wrOrFree_ne _ _ _ _ _ (by decide), State.wrOrFree_some, State.rd_wr_same]

theorem State.almRefuse_off (code sect : Option Nat) (off : Nat) :
    (s.almRefuse code sect (some off)).rd F.ALM_ERR_OFF_OFF = off % 2 ^ F.ALM_ERR_OFF_OFF.w := by
  rw [State.almRefuse_rd _ _ _ _ _ (by decide) (by decide) (by decide), State.refusal, State.rd_wr_ne _ _ _ _ (by decide),
    State.wrOrFree_some, State.rd_wr_same]

theorem State.almRefuse_done (code sect off : Option Nat) : (s.almRefuse code sect off).rd F.ALM_IRQ_DONE = 1 := by
  rw [State.almRefuse_eq, State.rd_raise_ne _ _ _ (by decide), State.rd_raise_same]
  rfl

theorem State.almRefuse_refused (code sect off : Option Nat) : (s.almRefuse code sect off).rd F.ALM_IRQ_REFUSED = 1 := by
  rw [State.almRefuse_eq, State.rd_raise_same]
  rfl

/-! An image taken -/

/-- An image is taken, into the state of the loader given. -/
def State.almTaken (s : State) (i : Image) (st : Nat) : State :=
  (((s.toAlm st).wr F.ALM_STATUS_ACCEPTED 1).raise F.ALM_IRQ_DONE).setAlm { s.alm with coming := some i, switched := false }

theorem State.almTaken_alm (i : Image) (st : Nat) : (s.almTaken i st).alm = { s.alm with coming := some i, switched := false } := rfl

theorem State.almTaken_mem (i : Image) (st : Nat) : (s.almTaken i st).mem = s.mem := rfl

theorem State.almTaken_state (i : Image) (st : Nat) : (s.almTaken i st).rd F.ALM_STATUS_STATE = st % 2 ^ F.ALM_STATUS_STATE.w := by
  rw [State.almTaken, State.rd_setAlm, State.rd_raise_ne _ _ _ (by decide), State.rd_wr_ne _ _ _ _ (by decide), State.toAlm,
    State.rd_wr_same]

theorem State.almTaken_accepted (i : Image) (st : Nat) : (s.almTaken i st).rd F.ALM_STATUS_ACCEPTED = 1 := by
  rw [State.almTaken, State.rd_setAlm, State.rd_raise_ne _ _ _ (by decide), State.rd_wr_same]
  rfl

theorem State.almTaken_done (i : Image) (st : Nat) : (s.almTaken i st).rd F.ALM_IRQ_DONE = 1 := by
  rw [State.almTaken, State.rd_setAlm, State.rd_raise_same]
  rfl

/-! The end of the check -/

/-- The check is over. -/
def State.unchecked (s : State) : State := s.setAlm { s.alm with checking := none }

@[simp] theorem State.rd_unchecked (f : Fld) : s.unchecked.rd f = s.rd f := rfl
@[simp] theorem State.unchecked_mem : s.unchecked.mem = s.mem := rfl
@[simp] theorem State.unchecked_alm : s.unchecked.alm = { s.alm with checking := none } := rfl

theorem State.checkDone_idle (h : s.alm.checking = none) : s.checkDone = s := by
  simp only [State.checkDone, h]

theorem State.checkDone_refused (code sect off : Option Nat) (h : s.alm.checking = some (.refused code sect off)) :
    s.checkDone = s.unchecked.almRefuse code sect off := by
  simp only [State.checkDone, h]
  rfl

/-- What becomes of an image that need not wait: it is tested again at once, and refused or taken (R61). -/
def State.imageDue (s : State) (i : Image) : State :=
  match s.retest i with
  | some (code, p) => s.unchecked.almRefuse (some code) (p.map (·.1)) (p.map (·.2))
  | none => s.unchecked.almTaken i aApplying

theorem State.imageDue_passes (i : Image) (h : s.retest i = none) : s.imageDue i = s.unchecked.almTaken i aApplying := by
  simp only [State.imageDue, h]

theorem State.imageDue_fails (i : Image) (code : Nat) (h : s.retest i = some (code, none)) :
    s.imageDue i = s.unchecked.almRefuse (some code) none none := by
  simp only [State.imageDue, h, Option.map_none]

theorem State.checkDone_passed (i : Image) (h : s.alm.checking = some (.passed i)) :
    s.checkDone =
      if !s.almInForce then s.unchecked.almTaken i aApplying
      else if s.harvestRuns && !(s.restarts i && !s.inService) then s.unchecked.almTaken i aPending
      else s.imageDue i := by
  simp only [State.checkDone, h]
  rfl

theorem State.checkDone_first (i : Image) (h : s.alm.checking = some (.passed i)) (ho : s.almInForce = false) :
    s.checkDone = s.unchecked.almTaken i aApplying := by
  simp only [s.checkDone_passed i h, ho, Bool.not_false, if_true]

theorem State.checkDone_pending (i : Image) (h : s.alm.checking = some (.passed i)) (ho : s.almInForce = true)
    (hr : s.harvestRuns = true) (hs : s.restarts i = false ∨ s.inService = true) :
    s.checkDone = s.unchecked.almTaken i aPending := by
  have hwait : (s.harvestRuns && !(s.restarts i && !s.inService)) = true := by
    rcases hs with hs | hs <;> simp [hr, hs]
  simp only [s.checkDone_passed i h, ho, hwait, Bool.not_true, Bool.false_eq_true, if_false, if_true]

theorem State.checkDone_due (i : Image) (h : s.alm.checking = some (.passed i)) (ho : s.almInForce = true)
    (hs : s.harvestRuns = false ∨ s.restarts i = true ∧ s.inService = false) :
    s.checkDone = s.imageDue i := by
  have hdue : (s.harvestRuns && !(s.restarts i && !s.inService)) = false := by
    rcases hs with hs | ⟨hs, hv⟩
    · simp [hs]
    · simp [hs, hv]
  simp only [s.checkDone_passed i h, ho, hdue, Bool.not_true, Bool.false_eq_true, if_false]

theorem exec_almanacCheckDone_live (h : s.Live) : exec .almanacCheckDone s = .next (s.settle s.checkDone) :=
  guarded_next s (fun s => s.checkDone) h.1 h.2

theorem exec_checkDone_refused (code sect off : Nat) (h : s.Live)
    (hv : s.alm.checking = some (.refused (some code) (some sect) (some off))) :
    ∃ t, exec .almanacCheckDone s = .next t ∧ t.alm = { s.alm with checking := none, coming := none, switched := false } ∧
      t.rd F.ALM_STATUS_STATE = (if s.rd F.GLB_HEALTH_ALM_OK ≠ 0 then 1 else 0) ∧ t.rd F.ALM_STATUS_CODE = code % 2 ^ 16 ∧
      t.rd F.ALM_STATUS_ACCEPTED = 0 ∧ t.rd F.ALM_IRQ_DONE = 1 ∧ t.rd F.ALM_IRQ_REFUSED = 1 ∧ t.mem = s.mem ∧
      t.rd F.ALM_ERR_SECT_SECT = sect % 2 ^ F.ALM_ERR_SECT_SECT.w ∧ t.rd F.ALM_ERR_OFF_OFF = off % 2 ^ F.ALM_ERR_OFF_OFF.w ∧
      (∀ g : Fld, g.off ≠ F.ALM_STATUS_STATE.off → g.off ≠ F.ALM_IRQ_DONE.off → g.off ≠ F.ALM_ERR_SECT_SECT.off →
        g.off ≠ F.ALM_ERR_OFF_OFF.off → g.lo < 32 → t.rd g = s.rd g) := by
  refine ⟨_, exec_almanacCheckDone_live s h, ?_⟩
  simp only [State.settle_rd, State.settle_alm, State.settle_mem, s.checkDone_refused _ _ _ hv, State.almRefuse_alm,
    State.almRefuse_state, State.almRefuse_code, State.almRefuse_accepted, State.almRefuse_done, State.almRefuse_refused,
    State.almRefuse_mem, State.almRefuse_sect, State.almRefuse_off, State.rd_unchecked, State.unchecked_mem, State.unchecked_alm,
    AlmState.withoutComing, true_and]
  exact ⟨rfl, fun g h1 h2 h3 h4 hg => s.unchecked.almRefuse_frame _ _ _ g hg (by simp [almRefusalOffs, h1, h2, h3, h4])⟩

/-- Wherever the end of a check takes the image, it stands there, accepted. -/
theorem exec_checkDone_taken (i : Image) (st : Nat) (h : s.Live) (hst : st < 8) (ht : s.checkDone = s.unchecked.almTaken i st) :
    ∃ t, exec .almanacCheckDone s = .next t ∧ t.alm = { s.alm with checking := none, coming := some i, switched := false } ∧
      t.rd F.ALM_STATUS_STATE = st ∧ t.rd F.ALM_STATUS_ACCEPTED = 1 ∧ t.rd F.ALM_IRQ_DONE = 1 ∧ t.mem = s.mem := by
  refine ⟨_, exec_almanacCheckDone_live s h, ?_⟩
  have hmod : st % 2 ^ F.ALM_STATUS_STATE.w = st := Nat.mod_eq_of_lt hst
  simp only [State.settle_rd, State.settle_alm, State.settle_mem, ht, State.almTaken_alm, State.almTaken_state, hmod,
    State.almTaken_accepted, State.almTaken_done, State.almTaken_mem, State.unchecked_mem, State.unchecked_alm, true_and]

/-- An image that the second test refuses: what the check found is withdrawn, and the structure in force stays. -/
theorem exec_checkDone_retestRefused (i : Image) (code : Nat) (h : s.Live) (hv : s.alm.checking = some (.passed i))
    (ho : s.rd F.GLB_HEALTH_ALM_OK ≠ 0) (hr : s.harvestRuns = false) (ht : s.retest i = some (code, none)) :
    ∃ t, exec .almanacCheckDone s = .next t ∧ t.alm = { s.alm with checking := none, coming := none, switched := false } ∧
      t.rd F.ALM_STATUS_STATE = 1 ∧ t.rd F.ALM_STATUS_ACCEPTED = 0 ∧ t.rd F.ALM_STATUS_CODE = code % 2 ^ 16 ∧
      t.rd F.ALM_IRQ_REFUSED = 1 ∧ t.mem = s.mem := by
  refine ⟨_, exec_almanacCheckDone_live s h, ?_⟩
  simp only [State.settle_rd, State.settle_alm, State.settle_mem, s.checkDone_due i hv (s.almInForce_of_ne ho) (.inl hr),
    s.imageDue_fails i code ht, State.almRefuse_alm, State.almRefuse_state, State.almRefuse_code, State.almRefuse_accepted,
    State.almRefuse_refused, State.almRefuse_mem, State.rd_unchecked, State.unchecked_mem, State.unchecked_alm,
    AlmState.withoutComing, ho, ne_eq, not_false_eq_true, if_true, true_and]

/-! CANCEL -/

theorem State.almCancel_pending (h : s.rd F.ALM_STATUS_STATE = 3) :
    s.almCancel = ((((s.setAlm s.alm.withoutComing).toAlm aIdle).wr F.ALM_STATUS_ACCEPTED 0).wr F.ALM_STATUS_CODE 0x0148).raise
      F.ALM_IRQ_REFUSED := by
  have hp : ¬ s.almState ≠ aPending := fun hne => hne h
  simp only [State.almCancel, hp, if_false]
  rfl

theorem State.almCancel_other (h : s.rd F.ALM_STATUS_STATE ≠ 3) : s.almCancel = s := by
  have hp : s.almState ≠ aPending := h
  simp only [State.almCancel, hp, ne_eq, not_false_eq_true, if_true]

theorem exec_almanacCancel_live (h : s.Live) : exec .almanacCancel s = .next (s.settle s.almCancel.ack) :=
  guarded_next s (fun s => s.almCancel.ack) h.1 h.2

theorem exec_almanacCancel_pending (h : s.Live) (hp : s.rd F.ALM_STATUS_STATE = 3) :
    ∃ t, exec .almanacCancel s = .next t ∧ t.alm = { s.alm with coming := none, switched := false } ∧ t.rd F.ALM_STATUS_STATE = 1 ∧
      t.rd F.ALM_STATUS_ACCEPTED = 0 ∧ t.rd F.ALM_STATUS_CODE = 0x0148 ∧ t.rd F.ALM_IRQ_REFUSED = 1 ∧ t.answer = .done ∧ t.mem = s.mem ∧
      (∀ g : Fld, g.off ≠ F.ALM_STATUS_STATE.off → g.off ≠ F.ALM_IRQ_REFUSED.off → g.lo < 32 → t.rd g = s.rd g) := by
  have hframe : s.SameOffs s.almCancel [F.ALM_STATUS_STATE.off, F.ALM_IRQ_REFUSED.off] := by
    rw [s.almCancel_pending hp]
    exact ((((State.SameOffs.refl _).setAlm _).wr F.ALM_STATUS_STATE aIdle (by decide) (by decide)).wr F.ALM_STATUS_ACCEPTED 0
      (by decide) (by decide)).wr F.ALM_STATUS_CODE 0x0148 (by decide) (by decide) |>.wr F.ALM_IRQ_REFUSED 1 (by decide) (by decide)
  refine ⟨_, exec_almanacCancel_live s h, ?_, ?_, ?_, ?_, ?_, rfl, ?_, fun g h1 h2 hg => hframe g hg (by simp [h1, h2])⟩
  all_goals
    rw [s.almCancel_pending hp]
    simp (disch := decide) only [State.settle_rd, State.settle_alm, State.settle_mem, State.rd_ack, State.ack_alm, State.ack_mem,
      State.setAlm_alm, State.setAlm_mem, State.rd_raise_ne, State.rd_raise_same, State.rd_wr_ne, State.rd_wr_same,
      State.wr_mem, State.wr_alm, State.raise_mem, State.raise_alm, State.toAlm]
  all_goals rfl

end Sys2Proof.Machine
end

section
/-! PROOFS. The application of an Almanac: what the registers and the structure show afterwards (R50, R68, R280, R481). -/

namespace Sys2Proof.Machine

variable {s t u : State} {bs : List Nat}

/-! Blocks left alone -/

theorem State.SameBlocks.refl (bs : List Nat) (s : State) : s.SameBlocks s bs := fun _ _ => rfl

theorem State.SameBlocks.trans (h : s.SameBlocks t bs) (k : t.SameBlocks u bs) : s.SameBlocks u bs :=
  fun g hg => (k g hg).trans (h g hg)

theorem State.SameBlocks.wr (h : s.SameBlocks t bs) (f : Fld) (v : Nat) (hf : f.key / 0x200000 % 0x1000 ∈ bs) :
    s.SameBlocks (t.wr f v) bs := fun g hg => by
  have hne : g.key ≠ f.key := fun e => hg (e ▸ hf)
  rw [State.rd_wr_ne _ _ _ _ hne, h g hg]

theorem State.SameRegs.blocks {fs : List Fld} (h : s.SameRegs t fs) (hf : ∀ f ∈ fs, f.key / 0x200000 % 0x1000 ∈ bs) :
    s.SameBlocks t bs := fun g hg => h g fun hk => by
  obtain ⟨f, hm, he⟩ := List.mem_map.1 hk
  exact hg (he ▸ hf f hm)

variable (s)

/-! What follows the new structure -/

/-- Of the registers only those of PWR changed, and the Almanac is as it was. -/
structure State.OnlyPower (s t : State) : Prop where
  regs : s.SameBlocks t [23]
  alm : t.alm = s.alm

variable {s} in
/-- The state registers of the 64 power slices lie in block 23. -/
theorem State.OnlyPower.wr (h : s.OnlyPower t) (n : Nat) (hn : n < 64) (f : Fld) (hf : f.off = 0x170104 + 0x10 * n) (hlo : f.lo < 32)
    (v : Nat) : s.OnlyPower (t.wr f v) := by
  refine ⟨h.regs.wr f v (List.mem_singleton.2 ?_), h.alm⟩
  simp only [Fld.key, hf]
  omega

/-- Power slices whose units changed: their own registers show it. -/
theorem State.powerChanged_onlyPower (was : List Nat) (ports : List (Nat × Nat)) : s.OnlyPower (s.powerChanged was ports) := by
  unfold State.powerChanged
  refine List.foldlRecOn (motive := s.OnlyPower) _ _ ⟨State.SameBlocks.refl _ s, rfl⟩ fun t ht n hn => ?_
  have hn : n < 64 := List.mem_range.1 hn
  have stale : s.OnlyPower (if ports.any (fun p => powerOf p == some n) then
      (t.wr (F.PWR_Sn_STAT_RSEQ n) (t.rd (F.PWR_Sn_STAT_RSEQ n) + 1)).wr (F.PWR_Sn_STAT_LISTOK n) 0 else t) := by
    split
    · exact (ht.wr n hn _ rfl (show 8 < 32 by decide) _).wr n hn _ rfl (show 28 < 32 by decide) _
    · exact ht
  dsimp only
  generalize (if ports.any (fun p => powerOf p == some n) then
    (t.wr (F.PWR_Sn_STAT_RSEQ n) (t.rd (F.PWR_Sn_STAT_RSEQ n) + 1)).wr (F.PWR_Sn_STAT_LISTOK n) 0 else t) = x at stale ⊢
  split
  · exact stale.wr n hn _ rfl (show 30 < 32 by decide) _
  · split
    · exact stale.wr n hn _ rfl (show 30 < 32 by decide) _
    · exact stale

theorem State.joinSend_frame : s.SameRegs s.joinSend [F.CRL_CNT2_UNREACH] ∧ s.joinSend.alm = s.alm := by
  have sent := State.toHead_sends { s with stt := { s.stt with carried := s.stt.records.map Prod.fst } }
    (State.joinPayload { s with stt := { s.stt with carried := s.stt.records.map Prod.fst } }
      (State.joinHubs { s with stt := { s.stt with carried := s.stt.records.map Prod.fst } }))
  exact ⟨sent.regs, sent.alm⟩

/-- The JOIN after an application. -/
theorem State.joinAfter_frame : s.SameRegs s.joinAfter [F.CRL_CNT2_UNREACH] ∧ s.joinAfter.alm = s.alm := by
  unfold State.joinAfter
  split
  · exact ⟨State.SameRegs.refl _, rfl⟩
  · split
    · exact s.joinSend_frame
    · split
      · exact ⟨(s.toHead_sends _).regs, (s.toHead_sends _).alm⟩
      · exact ⟨State.SameRegs.refl _, rfl⟩

/-! The structure in force -/

theorem State.inForceNow_rd (i : Image) (f : Fld) : (s.inForceNow i).rd f = s.rd f := rfl

theorem State.driftAfter_alm (full : Bool) : (s.driftAfter full).alm = s.alm := by
  unfold State.driftAfter
  split <;> rfl

theorem State.driftAfter_rd_ne (full : Bool) (g : Fld) (hd : g.key ≠ F.GLB_HEALTH_DRIFT.key) (hv : g.key ≠ F.ALM_DRIFT_ADDR_VALID.key) :
    (s.driftAfter full).rd g = s.rd g := by
  unfold State.driftAfter
  split
  · rw [State.endDrift, State.rd_wr_ne _ _ _ _ hv, State.rd_wr_ne _ _ _ _ hd]
  · exact State.rd_raise_ne _ _ _ hd

/-- After a full application no departure is left to show. -/
theorem State.driftAfter_full :
    (s.driftAfter true).rd F.GLB_HEALTH_DRIFT = 0 ∧ (s.driftAfter true).rd F.ALM_DRIFT_ADDR_VALID = 0 := by
  have hend : s.driftAfter true = s.endDrift := rfl
  rw [hend, State.endDrift, State.rd_wr_same, State.rd_wr_ne _ _ _ _ (by decide), State.rd_wr_same]
  exact ⟨rfl, rfl⟩

/-- The registers of the structure hash. -/
theorem digest_key_eq (n : Nat) : (F.ALM_HASH_DIGEST n).key = 0x200800 + 128 * n := by
  simp only [Fld.key, F.ALM_HASH_DIGEST]
  omega

theorem digest_key_injective (i j : Nat) (h : (F.ALM_HASH_DIGEST i).key = (F.ALM_HASH_DIGEST j).key) : i = j := by
  rw [digest_key_eq, digest_key_eq] at h
  omega

/-- They lie behind the other registers of GLB and ALM. -/
theorem digest_key_ne (n : Nat) (f : Fld) (hf : f.key < 0x200800) : (F.ALM_HASH_DIGEST n).key ≠ f.key := by
  rw [digest_key_eq]
  omega

theorem State.showStructure_digest (i : Image) (n : Nat) (hn : n < 12) :
    (s.showStructure i).rd (F.ALM_HASH_DIGEST n) = leAt i.hash (4 * n) 4 % 2 ^ 32 := by
  have apart := digest_key_ne n
  rw [State.showStructure, State.rd_raise_ne _ _ _ (apart _ (by decide)), State.rd_wr_ne _ _ _ _ (apart _ (by decide)),
    State.rd_wr_ne _ _ _ _ (apart _ (by decide)), State.rd_wr_ne _ _ _ _ (apart _ (by decide)),
    State.rd_wr_ne _ _ _ _ (apart _ (by decide)), State.rd_foldl_wr _ _ _ digest_key_injective, if_pos (List.mem_range.2 hn)]
  rfl

theorem State.showStructure_rd (i : Image) :
    (s.showStructure i).rd F.GLB_HEALTH_ALM_OK = 1 ∧ (s.showStructure i).rd F.ALM_VERSION_VERSION = i.version % 2 ^ 32 ∧
      (s.showStructure i).rd F.ALM_KIND_SVN = i.svn % 256 ∧ (s.showStructure i).rd F.ALM_KIND_SCHEMA = i.schema % 65536 ∧
      (s.showStructure i).rd F.GLB_HEALTH_ALM_HASH = (leAt i.hash 46 1 * 256 + leAt i.hash 47 1) % 65536 := by
  simp (disch := decide) only [State.showStructure, State.rd_raise_ne, State.rd_raise_same, State.rd_wr_ne, State.rd_wr_same]
  exact ⟨rfl, rfl, rfl, rfl, rfl⟩

/-! ALMANAC_APPLIED -/

/-- Once an image's sections are loaded: the structure shows, DRIFT follows, the power slices are set, and the loader is idle. -/
def State.concluded (s : State) (i : Image) (held : List Nat) (ports : List (Nat × Nat)) : State :=
  (((((s.showStructure i).inForceNow i).driftAfter i.full).powerChanged held ports).toAlm aIdle).raise F.ALM_IRQ_APPLIED

/-- An application loads an image's sections in some way, which after a full one leaves no departure, and concludes. -/
theorem State.almApplied_applying (i : Image) (hc : s.alm.coming = some i) (hs : s.rd F.ALM_STATUS_STATE = 4) :
    ∃ (x : State) (held : List Nat) (ports : List (Nat × Nat)),
      (i.full = true → x.alm.departing = []) ∧ s.almApplied = (x.concluded i held ports).joinAfter := by
  have hap : ¬ s.almState ≠ aApplying := fun hne => hne hs
  simp only [State.almApplied, hc, hap, if_false]
  refine ⟨_, _, _, fun hfull => ?_, rfl⟩
  rw [if_pos hfull, State.loadSecurity_alm, State.endDepartures_departing]

/-- What the concluding steps after DRIFT leave alone: the registers of other blocks, but for the loader's state and APPLIED. -/
theorem State.concluded_joinAfter_rd (i : Image) (held : List Nat) (ports : List (Nat × Nat)) (g : Fld)
    (hg : g.key / 0x200000 % 0x1000 ∉ [16, 23]) (hs : g.key ≠ F.ALM_STATUS_STATE.key) (ha : g.key ≠ F.ALM_IRQ_APPLIED.key) :
    (s.concluded i held ports).joinAfter.rd g = (((s.showStructure i).inForceNow i).driftAfter i.full).rd g := by
  have hjoin : g.key ∉ [F.CRL_CNT2_UNREACH].map Fld.key := fun hm => hg (by rw [List.mem_singleton.1 hm]; decide)
  have hpower : g.key / 0x200000 % 0x1000 ∉ [23] := fun hm => hg (List.mem_cons_of_mem 16 hm)
  rw [(State.joinAfter_frame _).1 g hjoin, State.concluded, State.rd_raise_ne _ _ _ ha, State.toAlm, State.rd_wr_ne _ _ _ _ hs,
    (State.powerChanged_onlyPower _ held ports).regs g hpower]

/-- A register of the structure in force, which DRIFT does not touch either, reads as it was shown. -/
theorem State.concluded_joinAfter_shown (i : Image) (held : List Nat) (ports : List (Nat × Nat)) (g : Fld)
    (hg : g.key / 0x200000 % 0x1000 ∉ [16, 23]) (hs : g.key ≠ F.ALM_STATUS_STATE.key) (ha : g.key ≠ F.ALM_IRQ_APPLIED.key)
    (hd : g.key ≠ F.GLB_HEALTH_DRIFT.key) (hv : g.key ≠ F.ALM_DRIFT_ADDR_VALID.key) :
    (s.concluded i held ports).joinAfter.rd g = (s.showStructure i).rd g := by
  rw [s.concluded_joinAfter_rd i held ports g hg hs ha, State.driftAfter_rd_ne _ _ _ hd hv, State.inForceNow_rd]

theorem State.concluded_joinAfter_digest (i : Image) (held : List Nat) (ports : List (Nat × Nat)) (n : Nat) (hn : n < 12) :
    (s.concluded i held ports).joinAfter.rd (F.ALM_HASH_DIGEST n) = leAt i.hash (4 * n) 4 % 2 ^ 32 := by
  have apart := digest_key_ne n
  have hblock : (F.ALM_HASH_DIGEST n).key / 0x200000 % 0x1000 = 1 := by
    rw [digest_key_eq]
    omega
  rw [s.concluded_joinAfter_shown i held ports _ (by rw [hblock]; decide) (apart _ (by decide)) (apart _ (by decide))
    (apart _ (by decide)) (apart _ (by decide)), s.showStructure_digest i n hn]

/-- The loader is idle again, and APPLIED is set. -/
theorem State.concluded_joinAfter_loader (i : Image) (held : List Nat) (ports : List (Nat × Nat)) :
    (s.concluded i held ports).joinAfter.rd F.ALM_STATUS_STATE = 1 ∧ (s.concluded i held ports).joinAfter.rd F.ALM_IRQ_APPLIED = 1 := by
  rw [(State.joinAfter_frame _).1 _ (by decide), (State.joinAfter_frame _).1 _ (by decide), State.concluded,
    State.rd_raise_ne _ _ _ (by decide), State.toAlm, State.rd_wr_same, State.rd_raise_same]
  exact ⟨rfl, rfl⟩

theorem State.showStructure_alm (i : Image) : (s.showStructure i).alm = s.alm := by
  simp only [State.showStructure, State.raise_alm, State.wr_alm]
  exact s.foldl_alm _ _ fun _ _ => rfl

theorem State.concluded_joinAfter_alm (i : Image) (held : List Nat) (ports : List (Nat × Nat)) :
    (s.concluded i held ports).joinAfter.alm = ((s.showStructure i).inForceNow i).alm := by
  rw [(State.joinAfter_frame _).2, State.concluded, State.raise_alm, State.toAlm, State.wr_alm,
    (State.powerChanged_onlyPower _ held ports).alm, State.driftAfter_alm]

theorem State.inForceNow_alm (i : Image) :
    (s.inForceNow i).alm.force = i.sections ∧ (s.inForceNow i).alm.coming = none ∧
      (s.inForceNow i).alm.departing = s.alm.departing := ⟨rfl, rfl, rfl⟩

theorem exec_almanacApplied_live (h : s.Live) : exec .almanacApplied s = .next (s.settle s.almApplied) :=
  guarded_next s (fun s => s.almApplied) h.1 h.2

theorem exec_almanacApplied_applying (i : Image) (h : s.Live) (hc : s.alm.coming = some i) (hs : s.rd F.ALM_STATUS_STATE = 4) :
    ∃ t, exec .almanacApplied s = .next t ∧ t.alm.force = i.sections ∧ t.alm.coming = none ∧ t.rd F.ALM_STATUS_STATE = 1 ∧
      t.rd F.GLB_HEALTH_ALM_OK = 1 ∧ t.rd F.ALM_IRQ_APPLIED = 1 ∧ t.rd F.ALM_VERSION_VERSION = i.version % 2 ^ 32 ∧
      t.rd F.ALM_KIND_SVN = i.svn % 256 ∧ t.rd F.ALM_KIND_SCHEMA = i.schema % 65536 ∧
      (∀ n < 12, t.rd (F.ALM_HASH_DIGEST n) = leAt i.hash (4 * n) 4 % 2 ^ 32) ∧
      t.rd F.GLB_HEALTH_ALM_HASH = (leAt i.hash 46 1 * 256 + leAt i.hash 47 1) % 65536 ∧
      (i.full = true → t.alm.departing = [] ∧ t.rd F.GLB_HEALTH_DRIFT = 0 ∧ t.rd F.ALM_DRIFT_ADDR_VALID = 0) := by
  obtain ⟨x, held, ports, hfull, happ⟩ := s.almApplied_applying i hc hs
  obtain ⟨hok, hversion, hsvn, hschema, hhash⟩ := x.showStructure_rd i
  obtain ⟨hidle, happlied⟩ := x.concluded_joinAfter_loader i held ports
  obtain ⟨hforce, hcoming, hdeparting⟩ := (x.showStructure i).inForceNow_alm i
  have shown := x.concluded_joinAfter_shown i held ports
  refine ⟨_, exec_almanacApplied_live s h, ?_⟩
  simp only [State.settle_rd, State.settle_alm, happ, x.concluded_joinAfter_alm]
  refine ⟨hforce, hcoming, hidle, ?_, happlied, ?_, ?_, ?_, x.concluded_joinAfter_digest i held ports, ?_, fun hf => ?_⟩
  · rw [shown _ (by decide) (by decide) (by decide) (by decide) (by decide), hok]
  · rw [shown _ (by decide) (by decide) (by decide) (by decide) (by decide), hversion]
  · rw [shown _ (by decide) (by decide) (by decide) (by decide) (by decide), hsvn]
  · rw [shown _ (by decide) (by decide) (by decide) (by decide) (by decide), hschema]
  · rw [shown _ (by decide) (by decide) (by decide) (by decide) (by decide), hhash]
  · obtain ⟨hdrift, hvalid⟩ := ((x.showStructure i).inForceNow i).driftAfter_full
    refine ⟨by rw [hdeparting, State.showStructure_alm, hfull hf], ?_, ?_⟩
    · rw [x.concluded_joinAfter_rd i held ports _ (by decide) (by decide) (by decide), hf, hdrift]
    · rw [x.concluded_joinAfter_rd i held ports _ (by decide) (by decide) (by decide), hf, hvalid]

/-- Settles O16, clause by clause: ENABLE, the ways in which a check ends, CANCEL and application. -/
theorem almanacLoading : Obligations.AlmanacLoading :=
  ⟨fun s h hb => exec_almanacEnable_idle s h hb,
    fun code sect off s h hv => exec_checkDone_refused s code sect off h hv,
    fun i s h hv ho => exec_checkDone_taken s i 4 h (by decide) (s.checkDone_first i hv (s.almInForce_of_eq ho)),
    fun i s h hv ho hr hs => exec_checkDone_taken s i 3 h (by decide) (s.checkDone_pending i hv (s.almInForce_of_ne ho) hr hs),
    fun i s h hv ho hs ht => exec_checkDone_taken s i 4 h (by decide)
      ((s.checkDone_due i hv (s.almInForce_of_ne ho) hs).trans (s.imageDue_passes i ht)),
    fun i code s h hv ho hr ht => exec_checkDone_retestRefused s i code h hv ho hr ht,
    fun s h hv => by rw [exec_almanacCheckDone_live s h, s.checkDone_idle hv],
    fun s h hp => exec_almanacCancel_pending s h hp,
    fun s h hp => by rw [exec_almanacCancel_live s h, s.almCancel_other hp],
    fun i s h hc hs => exec_almanacApplied_applying s i h hc hs⟩

end Sys2Proof.Machine
end

section
/-! PROOFS. The harvest cycle on a hub: its start and its boundary (R54, R273, R276). -/

namespace Sys2Proof.Machine

variable (s : State)

/-! The cycle start -/

theorem State.sendStitchInput_sends (img : List Nat) : State.Sends [] s (s.sendStitchInput img) := by
  unfold State.sendStitchInput
  split
  · exact State.Sends.refl [] s
  · exact s.stampedOutputs_sends _ _ _ none

theorem State.headEpochs_none (h : s.ring.coming = none) : s.headEpochs = s := by
  simp only [State.headEpochs, h]

/-- The harvest's record at the start of cycle k, with what was sampled. -/
def HarvestState.opened (h : HarvestState) (k start : Nat) (img : List Nat) : HarvestState :=
  { h with cycle := k, start := start, sampled := img, staged := none, closed := false, images := [], passedOn := [] }

/-- A cycle has started. -/
def State.cycleBegun (s : State) (k : Nat) (img : List Nat) : State :=
  (s.setHarvest (s.ring.harvest.opened k (k * s.hper) img)).wr F.CRL_HCYCLE_CYCLE k

/-- The image it sampled stands in the harvest memory. -/
def State.cycleOpened (s : State) (k : Nat) (img : List Nat) : State := (s.cycleBegun k img).store 1 0 img

/-- A slot whose position an input point asks for has none: its value is free, and drawn. -/
def State.drawnForPoints (s : State) : State :=
  if s.alm.points.any (fun (p : Point) => !p.output && p.kind == 6 && (s.slotPos p.unit s.now).isNone) then s.draw else s

theorem State.drawnForPoints_eq : s.drawnForPoints = { s with freeCtr := s.drawnForPoints.freeCtr } := by
  unfold State.drawnForPoints
  split <;> rfl

theorem State.cycleOpened_frame (k : Nat) (img : List Nat) :
    s.cycleOpened k img = { s with
      regs := (s.cycleOpened k img).regs
      mem := (s.store 1 0 img).mem
      ring := { s.ring with harvest := s.ring.harvest.opened k (k * s.hper) img } } := rfl

theorem State.cycleBegun_rd_ne (k : Nat) (img : List Nat) (g : Fld) (h : g.key ≠ F.CRL_HCYCLE_CYCLE.key) :
    (s.cycleBegun k img).rd g = s.rd g := by
  rw [State.cycleBegun, State.rd_wr_ne _ _ _ _ h]
  rfl

theorem State.cycleOpened_rd_ne (k : Nat) (img : List Nat) (g : Fld) (h : g.key ≠ F.CRL_HCYCLE_CYCLE.key) :
    (s.cycleOpened k img).rd g = s.rd g := s.cycleBegun_rd_ne k img g h

theorem State.cycleBegun_admitted (k : Nat) (img : List Nat) : (s.cycleBegun k img).admitted = s.admitted := by
  simp only [State.admitted, State.on, s.cycleBegun_rd_ne k img F.CRL_STATUS_ADMITTED (by decide)]

theorem State.drawnForPoints_rd (g : Fld) : s.drawnForPoints.rd g = s.rd g := by
  rw [s.drawnForPoints_eq]
  rfl

/-- While the harvest does not run and no epoch is coming, a cycle start ends with what it sampled and sent. -/
theorem State.cycleStart_rest (h : s.rd F.CRL_STATUS_HV_RUN = 0) (hc : s.ring.coming = none) :
    (if s.harvestRuns then s.tallyCycle else s).headEpochs = s := by
  have hrun : s.harvestRuns = false := by simp only [State.harvestRuns, State.on, h, bne_self_eq_false, Bool.false_and]
  rw [hrun, if_neg Bool.false_ne_true, s.headEpochs_none hc]

/-- The start of a cycle on an admitted hub, in its parts. -/
theorem State.cycleStart_eq (k : Nat) (ha : s.admitted = true) :
    s.cycleStart k =
      let x := if (s.cycleBegun k s.inputImage).admitted then
          (s.cycleOpened k s.inputImage).drawnForPoints.sendStitchInput s.inputImage else s.cycleBegun k s.inputImage
      (if x.harvestRuns then x.tallyCycle else x).headEpochs := by
  unfold State.cycleStart
  dsimp only
  rw [if_pos ha]
  rfl

/-- On an admitted hub whose harvest does not run yet, with no epoch coming, a cycle start samples and no more. -/
theorem State.cycleStart_admitted (k : Nat) (ha : s.admitted = true) (hr : s.rd F.CRL_STATUS_HV_RUN = 0) (hc : s.ring.coming = none) :
    s.cycleStart k = (s.cycleOpened k s.inputImage).drawnForPoints.sendStitchInput s.inputImage := by
  have sent := (s.cycleOpened k s.inputImage).drawnForPoints.sendStitchInput_sends s.inputImage
  have hrun : ((s.cycleOpened k s.inputImage).drawnForPoints.sendStitchInput s.inputImage).rd F.CRL_STATUS_HV_RUN = 0 := by
    rw [sent.regs _ List.not_mem_nil, State.drawnForPoints_rd, State.cycleOpened_rd_ne _ _ _ _ (by decide), hr]
  have hcoming : ((s.cycleOpened k s.inputImage).drawnForPoints.sendStitchInput s.inputImage).ring.coming = none := by
    rw [sent.coming, State.drawnForPoints_eq]
    exact hc
  rw [s.cycleStart_eq k ha, if_pos ((s.cycleBegun_admitted k _).trans ha), State.cycleStart_rest _ hrun hcoming]

theorem exec_harvestCycleStart_live (h : s.Live) (ht : s.timeRuns = true) (hk : s.ring.harvest.cycle < s.cycleAt) :
    exec .harvestCycleStart s = .next (s.settle (s.cycleStart s.cycleAt)) :=
  (guarded_next s (fun s => if s.timeRuns ∧ s.ring.harvest.cycle < s.cycleAt then s.cycleStart s.cycleAt else s) h.1 h.2).trans
    (by rw [if_pos ⟨ht, hk⟩])

theorem exec_harvestCycleStart_admitted (h : s.Live) (ht : s.timeRuns = true) (hk : s.ring.harvest.cycle < s.cycleAt)
    (ha : s.admitted = true) (hr : s.rd F.CRL_STATUS_HV_RUN = 0) (hc : s.ring.coming = none) :
    ∃ t, exec .harvestCycleStart s = .next t ∧ t.rd F.CRL_HCYCLE_CYCLE = s.cycleAt % 2 ^ 32 ∧ t.mem = (s.store 1 0 s.inputImage).mem ∧
      t.ring.harvest = { s.ring.harvest with cycle := s.cycleAt, start := s.cycleAt * s.hper, sampled := s.inputImage, staged := none,
                                             closed := false, images := [], passedOn := [] } ∧
      s.SameRegs t [F.CRL_HCYCLE_CYCLE] ∧
      t = { s.noted t with mem := t.mem, freeCtr := t.freeCtr, ring := t.ring, swc := { s.swc with arrivals := t.swc.arrivals } } := by
  refine ⟨_, exec_harvestCycleStart_live s h ht hk, ?_⟩
  rw [s.cycleStart_admitted s.cycleAt ha hr hc]
  have openedFrame := s.cycleOpened_frame s.cycleAt s.inputImage
  have openedRd := s.cycleOpened_rd_ne s.cycleAt s.inputImage
  have openedCycle : (s.cycleOpened s.cycleAt s.inputImage).rd F.CRL_HCYCLE_CYCLE = s.cycleAt % 2 ^ F.CRL_HCYCLE_CYCLE.w := by
    rw [State.cycleOpened, State.rd_store, State.cycleBegun, State.rd_wr_same]
  generalize s.cycleOpened s.cycleAt s.inputImage = c at openedFrame openedRd openedCycle ⊢
  have drawnFrame := c.drawnForPoints_eq
  have drawnRd := c.drawnForPoints_rd
  have sent := c.drawnForPoints.sendStitchInput_sends s.inputImage
  generalize c.drawnForPoints = d at drawnFrame drawnRd sent ⊢
  generalize d.sendStitchInput s.inputImage = u at sent ⊢
  refine ⟨?_, ?_, ?_, fun g hg => ?_, ?_⟩
  · rw [State.settle_rd, sent.regs _ List.not_mem_nil, drawnRd, openedCycle]
    rfl
  · rw [State.settle_mem, sent.mem, drawnFrame, openedFrame]
  · rw [State.settle_ring, sent.harvest, drawnFrame, openedFrame]
    rfl
  · have hne : g.key ≠ F.CRL_HCYCLE_CYCLE.key := fun e => hg (List.mem_singleton.2 e)
    rw [State.settle_rd, sent.regs g List.not_mem_nil, drawnRd, openedRd g hne]
  · rw [sent.frame, drawnFrame, openedFrame]
    rfl

/-! The boundary -/

@[simp] theorem State.rd_mark (m : Mark) (f : Fld) : (s.mark m).rd f = s.rd f := rfl
@[simp] theorem State.rd_setStt (x : SttState) (f : Fld) : (s.setStt x).rd f = s.rd f := rfl

/-- With no output point an image taken only stands in the harvest memory, and S63 falls. -/
theorem State.applyImage_noPoints (img : List Nat) (h : s.alm.points = []) :
    s.applyImage img = { s.store 1 0x400 (bytesAt img 0 s.alm.outLen) with
                         slc := { s.slc with watchdog := false, imageClk := some s.clk } } := by
  simp only [State.applyImage, State.canTargets, State.store_alm, h, List.filter_nil, List.map_nil, List.eraseDups_nil, List.foldl_nil]
  rfl

theorem State.grantAhead_of_roleNone (h : s.role = roleNone) : s.grantAhead = false := by
  simp only [State.grantAhead, State.standby, h]
  rfl

/-- A hub that is no twin and drives applies the image taken. -/
theorem State.outputBoundary_staged (img : List Nat) (hs : s.ring.harvest.staged = some img) (hr : s.role = roleNone)
    (hd : s.drives = true) :
    s.outputBoundary = (s.setHarvest { s.ring.harvest with staged := none, written := false }).applyImage img := by
  have hrole : (s.setHarvest { s.ring.harvest with staged := none, written := false }).role = roleNone := hr
  have htaking : ¬ ((s.setHarvest { s.ring.harvest with staged := none, written := false }).role = roleTaking ∨
      (s.setHarvest { s.ring.harvest with staged := none, written := false }).grantAhead = true) := by
    rw [State.grantAhead_of_roleNone _ hrole, hrole]
    decide
  have hdrives : (s.setHarvest { s.ring.harvest with staged := none, written := false }).drives = true := hd
  simp only [State.outputBoundary, hs, htaking, hdrives, if_false, if_true]

/-- An admitted hub that took no image, and to which none was written, counts a miss. -/
theorem State.outputBoundary_missed (hs : s.ring.harvest.staged = none) (hw : s.ring.harvest.written = false) (ha : s.admitted = true) :
    s.outputBoundary = (s.bump F.CRL_HCNT_MISS).raise F.CRL_IRQ_HMISS := by
  simp only [State.outputBoundary, hs, hw, ha, if_true, Bool.false_eq_true, false_and, if_false]

theorem State.twinBoundary_of_roleNone (cycle : Nat) (h : s.role = roleNone) :
    s.twinBoundary cycle = s.setStt { s.stt with boundary := cycle } := by
  simp only [State.twinBoundary, h]
  rfl

theorem State.almBoundary_none (h : s.alm.coming = none) : s.almBoundary = s := by
  simp only [State.almBoundary, h]

/-- This cycle's boundary has passed, and a RELEASE that waited for it waits no more. -/
def State.boundaryClosed (s : State) : State :=
  { s with ring := { s.ring with released := false, harvest := { s.ring.harvest with closed := true } } }

@[simp] theorem State.rd_boundaryClosed (f : Fld) : s.boundaryClosed.rd f = s.rd f := rfl

/-- The boundary on a hub that is no twin, and for whose Almanac no image waits. -/
theorem State.harvestBoundary_plain (x : State) (hx : (if s.ring.released && s.admitted then s.leaveQuarantine else s) = x)
    (hr : x.boundaryClosed.outputBoundary.role = roleNone) (hc : x.boundaryClosed.outputBoundary.alm.coming = none) :
    s.harvestBoundary = (x.boundaryClosed.outputBoundary.mark .boundaryPassed).setStt
      { x.boundaryClosed.outputBoundary.stt with boundary := x.ring.harvest.cycle } := by
  have heq : s.harvestBoundary = ((x.boundaryClosed.outputBoundary.mark .boundaryPassed).twinBoundary
      x.ring.harvest.cycle).almBoundary := by
    rw [← hx]
    rfl
  have hrole : (x.boundaryClosed.outputBoundary.mark .boundaryPassed).role = roleNone := hr
  rw [heq, State.twinBoundary_of_roleNone _ _ hrole]
  exact State.almBoundary_none _ hc

theorem exec_harvestBoundary_due (h : s.Live) (ho : s.ring.harvest.closed = false)
    (hd : s.ring.harvest.start + ns16 (250 * s.rd F.CRL_HAPPLY_VALUE) ≤ s.now) :
    exec .harvestBoundary s = .next (s.settle s.harvestBoundary) :=
  (guarded_next s (fun s =>
    if !s.ring.harvest.closed ∧ s.ring.harvest.start + ns16 (250 * s.rd F.CRL_HAPPLY_VALUE) ≤ s.now then s.harvestBoundary else s)
    h.1 h.2).trans (by rw [if_pos ⟨by rw [ho]; rfl, hd⟩])

/-- A boundary that applies the image taken, on a hub without output points. -/
theorem exec_harvestBoundary_applied (img : List Nat) (h : s.Live) (ho : s.ring.harvest.closed = false)
    (hd : s.ring.harvest.start + ns16 (250 * s.rd F.CRL_HAPPLY_VALUE) ≤ s.now) (hrel : s.ring.released = false)
    (hs : s.ring.harvest.staged = some img) (hdr : s.drives = true) (hr : s.role = roleNone) (hc : s.alm.coming = none)
    (hp : s.alm.points = []) :
    ∃ t, exec .harvestBoundary s = .next t ∧
      t.ring.harvest = { s.ring.harvest with closed := true, staged := none, written := false } ∧
      t.mem = (s.store 1 0x400 (bytesAt img 0 s.alm.outLen)).mem ∧
      t.slc = { s.slc with watchdog := false, imageClk := some s.clk } ∧ t.regs = s.regs ∧
      t.stt = { s.stt with boundary := s.ring.harvest.cycle } ∧
      t = { s with egress := t.egress, cycle := t.cycle, together := t.together, mem := t.mem,
                   ring := { s.ring with released := false, harvest := t.ring.harvest }, slc := t.slc, stt := t.stt } := by
  have hquar : (if s.ring.released && s.admitted then s.leaveQuarantine else s) = s := by
    rw [hrel, Bool.false_and, if_neg Bool.false_ne_true]
  have hout := (s.boundaryClosed.outputBoundary_staged img hs hr hdr).trans (State.applyImage_noPoints _ img hp)
  refine ⟨_, exec_harvestBoundary_due s h ho hd, ?_⟩
  rw [s.harvestBoundary_plain s hquar (by rw [hout]; exact hr) (by rw [hout]; exact hc), hout]
  refine ⟨rfl, rfl, rfl, ?_, rfl, ?_⟩
  all_goals dsimp only [State.settle, State.setStt, State.mark, State.store, State.setHarvest, State.boundaryClosed]

theorem State.leaveQuarantine_of_quarantined (h : s.quarantined = true) :
    s.leaveQuarantine = (s.wr F.CRL_STATUS_QUAR 0).raise F.CRL_IRQ_RELEASE := by
  rw [State.leaveQuarantine, if_pos h]

/-- A boundary that ends a quarantine and counts a miss. -/
theorem exec_harvestBoundary_missed (h : s.Live) (ho : s.ring.harvest.closed = false)
    (hd : s.ring.harvest.start + ns16 (250 * s.rd F.CRL_HAPPLY_VALUE) ≤ s.now) (hs : s.ring.harvest.staged = none)
    (hw : s.ring.harvest.written = false) (ha : s.admitted = true) (hrel : s.ring.released = true) (hq : s.quarantined = true)
    (hr : s.role = roleNone) (hc : s.alm.coming = none) :
    ∃ t, exec .harvestBoundary s = .next t ∧ t.quarantined = false ∧ t.rd F.CRL_IRQ_RELEASE = 1 ∧
      t.rd F.CRL_HCNT_MISS = satAdd 16 (s.rd F.CRL_HCNT_MISS) 1 % 65536 ∧ t.rd F.CRL_IRQ_HMISS = 1 ∧ t.ring.harvest.closed = true ∧
      t.ring.released = false ∧ t.mem = s.mem ∧
      s.SameRegs t [F.CRL_STATUS_QUAR, F.CRL_IRQ_RELEASE, F.CRL_HCNT_MISS, F.CRL_IRQ_HMISS] := by
  have hquar : (if s.ring.released && s.admitted then s.leaveQuarantine else s) = (s.wr F.CRL_STATUS_QUAR 0).raise F.CRL_IRQ_RELEASE := by
    rw [hrel, ha, Bool.and_self, if_pos rfl, s.leaveQuarantine_of_quarantined hq]
  have hleft (g : Fld) (h1 : g.key ≠ F.CRL_STATUS_QUAR.key) (h2 : g.key ≠ F.CRL_IRQ_RELEASE.key) :
      ((s.wr F.CRL_STATUS_QUAR 0).raise F.CRL_IRQ_RELEASE).boundaryClosed.rd g = s.rd g :=
    (State.rd_raise_ne _ _ _ h2).trans (State.rd_wr_ne _ _ _ _ h1)
  have hadm : ((s.wr F.CRL_STATUS_QUAR 0).raise F.CRL_IRQ_RELEASE).boundaryClosed.admitted = true := by
    rw [← ha, State.admitted, State.admitted, State.on, State.on, hleft _ (by decide) (by decide)]
  have hout := ((s.wr F.CRL_STATUS_QUAR 0).raise F.CRL_IRQ_RELEASE).boundaryClosed.outputBoundary_missed hs hw hadm
  have hrole : (((s.wr F.CRL_STATUS_QUAR 0).raise F.CRL_IRQ_RELEASE).boundaryClosed.bump F.CRL_HCNT_MISS |>.raise
      F.CRL_IRQ_HMISS).role = roleNone := by
    rw [← hr, State.role, State.role, State.rd_raise_ne _ _ _ (by decide), State.rd_bump_ne _ _ _ _ (by decide),
      hleft _ (by decide) (by decide)]
  refine ⟨_, exec_harvestBoundary_due s h ho hd, ?_⟩
  rw [s.harvestBoundary_plain _ hquar (by rw [hout]; exact hrole) (by rw [hout]; exact hc), hout]
  simp only [State.SameRegs, State.quarantined, State.on, State.settle_rd, State.rd_setStt, State.rd_mark]
  refine ⟨?_, ?_, ?_, ?_, rfl, rfl, rfl, fun g hg => ?_⟩
  · rw [State.rd_raise_ne _ _ _ (by decide), State.rd_bump_ne _ _ _ _ (by decide), State.rd_boundaryClosed,
      State.rd_raise_ne _ _ _ (by decide), State.rd_wr_same]
    rfl
  · rw [State.rd_raise_ne _ _ _ (by decide), State.rd_bump_ne _ _ _ _ (by decide), State.rd_boundaryClosed, State.rd_raise_same]
    rfl
  · rw [State.rd_raise_ne _ _ _ (by decide), State.rd_bump_same, hleft _ (by decide) (by decide)]
    rfl
  · rw [State.rd_raise_same]
    rfl
  · simp only [List.map_cons, List.map_nil, List.mem_cons, List.not_mem_nil, or_false, not_or] at hg
    obtain ⟨hquar, hrelease, hcount, hmiss⟩ := hg
    rw [State.rd_raise_ne _ _ _ hmiss, State.rd_bump_ne _ _ _ _ hcount, hleft g hquar hrelease]

end Sys2Proof.Machine
end

section
/-! PROOFS. The launch of a train at the head (R274). -/

namespace Sys2Proof.Machine

/-- t comes from s by a train's frames and stitched hubs' images on their way: of the harvest's record only the positions served change. -/
structure State.Launches (s t : State) : Prop where
  frame : t = { s with regs := t.regs, egress := t.egress, swc := { s.swc with arrivals := t.swc.arrivals },
                       ring := { s.ring with flowTx := t.ring.flowTx,
                                             harvest := { s.ring.harvest with passedOn := t.ring.harvest.passedOn } } }
  regs : s.SameRegs t []

section Relation

variable {s t u : State}

theorem State.Launches.refl (s : State) : s.Launches s := ⟨rfl, State.SameRegs.refl []⟩

theorem State.Launches.trans (h : s.Launches t) (k : t.Launches u) : s.Launches u :=
  ⟨k.frame.trans (by rw [h.frame]), h.regs.trans k.regs⟩

theorem State.Launches.foldl {α : Type} (f : State → α → State) (l : List α) (s : State) (h : ∀ t a, State.Launches t (f t a)) :
    s.Launches (l.foldl f s) :=
  List.foldlRecOn (motive := s.Launches) l f (State.Launches.refl s) fun t ht a _ => ht.trans (h t a)

theorem State.Sends.launches (h : State.Sends [] s t) : s.Launches t :=
  ⟨h.frame.trans (by rw [h.frame]), h.regs⟩

theorem State.Launches.head (h : s.Launches t) : t.ring.head = s.ring.head := by rw [h.frame]
theorem State.Launches.staged (h : s.Launches t) : t.ring.harvest.staged = s.ring.harvest.staged := by rw [h.frame]

end Relation

variable (s : State)

theorem State.sendStitchOutput_launches (pos : Nat) (d : SlotData) : s.Launches (s.sendStitchOutput pos d) := by
  unfold State.sendStitchOutput
  split
  · exact State.Launches.refl s
  · exact (s.stampedOutputs_sends _ 11 _ none).launches.trans ⟨rfl, State.SameRegs.refl []⟩

theorem State.launchFrame_launches (f : Frame) (ringB : Bool) (payload : List Nat) : s.Launches (s.launchFrame f ringB payload) :=
  (s.toOutputs_sends _ _ _ _).launches

/-- The output image that host memory held for a hub. -/
def hubImage (images : List (Nat × List Byte)) (hub : Nat) : Option (List Nat) :=
  (images.find? (fun p => p.1 == hub)).map (fun p => p.2.map BitVec.toNat)

/-- The slots of the train, with the output images read. -/
def State.launchSlots (s : State) (images : List (Nat × List Byte)) : List SlotData :=
  s.trainHubs.map (fun p => headSlot p.1 p.2 (hubImage images p.1))

/-- A train of so many frames is open, and seen where it has a slot. -/
def State.launchSeen (s : State) (slots : List SlotData) (len : Nat) : State :=
  let x := s.setHead { s.ring.head with returned := [], framesBack := [], trainLen := len, trainOpen := true }
  if slots.isEmpty then x else x.trainSeen

/-- The output image of the head's own hub is taken. -/
def State.launchStaged (s : State) (h : HarvestState) (images : List (Nat × List Byte)) : State :=
  match hubImage images s.self with
  | some bs => s.setHarvest { h with staged := some (bytesAt bs 0 s.alm.outLen) }
  | none => s

/-- The output image of another hub of the head's station goes on over its stitch link. -/
def State.launchStitched (images : List (Nat × List Byte)) (s : State) (p : Nat × JoinHub) : State :=
  match hubImage images p.1 with
  | some bs => s.sendStitchOutput (p.1 % 4) (headSlot p.1 p.2 (some bs))
  | none => s

/-- A train's frame of one number leaves on its ring, if the train has one. -/
def State.launchNth (s : State) (f : Frame) (ringB : Bool) (l : List (List Nat)) (k : Nat) : State :=
  match l[k]? with
  | some x => s.launchFrame f ringB x
  | none => s

/-- Both trains' frames of one number share a FLOWSEQ. -/
def State.launchFrames (a b : List (List Nat)) (s : State) (k : Nat) : State :=
  let (s, f) := s.stampFrame { typ := 1, tc := 6, dup := true, dest := 1023 * 4 }
  (s.launchNth f false a k).launchNth f true b k

/-- The head launches both trains. -/
def State.launched (s : State) (images : List (Nat × List Byte)) : State :=
  let slots := s.launchSlots images
  let a := trainOf s.ring.harvest.cycle 0 slots
  let b := trainOf s.ring.harvest.cycle 1 (stationsDown slots)
  let x := (s.launchSeen slots (a.length + b.length)).launchStaged s.ring.harvest images
  let x := (s.ring.head.hubs.filter (fun p => p.1 / 4 == 1 && p.1 != x.self)).foldl (State.launchStitched images) x
  (List.range (max a.length b.length)).foldl (State.launchFrames a b) x

theorem execHarvestLaunch_eq (images : List (Nat × List Byte)) :
    execHarvestLaunch images s = guarded s (fun s =>
      if !(s.on F.CRL_CTL_HEAD) || s.ring.head.trainOpen || s.ring.harvest.closed then s else s.launched images) := rfl

theorem State.launchStitched_launches (images : List (Nat × List Byte)) (p : Nat × JoinHub) :
    s.Launches (s.launchStitched images p) := by
  unfold State.launchStitched
  split
  · exact s.sendStitchOutput_launches _ _
  · exact State.Launches.refl s

theorem State.launchNth_launches (f : Frame) (ringB : Bool) (l : List (List Nat)) (k : Nat) :
    s.Launches (s.launchNth f ringB l k) := by
  unfold State.launchNth
  split
  · exact s.launchFrame_launches f ringB _
  · exact State.Launches.refl s

theorem State.launchFrames_launches (a b : List (List Nat)) (k : Nat) : s.Launches (s.launchFrames a b k) :=
  ((s.stampFrame_sends _).launches.trans (State.launchNth_launches _ _ false a k)).trans (State.launchNth_launches _ _ true b k)

/-- After the train is opened and the own image taken, a launch only sends. -/
theorem State.launched_launches (images : List (Nat × List Byte)) :
    ∃ len, ((s.launchSeen (s.launchSlots images) len).launchStaged s.ring.harvest images).Launches (s.launched images) :=
  ⟨_, (State.Launches.foldl _ _ _ fun t p => t.launchStitched_launches images p).trans
    (State.Launches.foldl _ _ _ fun t k => t.launchFrames_launches _ _ k)⟩

/-! The train opened, and the own image taken -/

theorem State.launchSeen_frame (slots : List SlotData) (len : Nat) :
    s.launchSeen slots len = { s with
      regs := (s.launchSeen slots len).regs
      ring := { s.ring with head := { s.ring.head with returned := [], framesBack := [], trainLen := len, trainOpen := true } } } := by
  unfold State.launchSeen
  split <;> rfl

theorem State.launchSeen_regs (slots : List SlotData) (len : Nat) : s.SameRegs (s.launchSeen slots len) [F.CRL_STATUS_HV_RUN] := by
  unfold State.launchSeen
  split
  · exact State.SameRegs.of_regs rfl
  · exact fun g hg => State.rd_raise_ne _ _ _ fun e => hg (List.mem_singleton.2 e)

theorem State.launchSeen_hvRun (slots : List SlotData) (len : Nat) (h : slots ≠ []) :
    (s.launchSeen slots len).rd F.CRL_STATUS_HV_RUN = 1 := by
  have hne : ¬ slots.isEmpty = true := fun he => h (List.isEmpty_iff.1 he)
  rw [State.launchSeen, if_neg hne, State.trainSeen, State.rd_raise_same]
  rfl

theorem State.launchSeen_self (slots : List SlotData) (len : Nat) : (s.launchSeen slots len).self = s.self := by
  simp only [State.self, (s.launchSeen_regs slots len) F.GLB_POS_STATION (by decide),
    (s.launchSeen_regs slots len) F.GLB_POS_HUBPOS (by decide)]

theorem State.launchStaged_frame (h : HarvestState) (images : List (Nat × List Byte)) (hh : h = s.ring.harvest) :
    s.launchStaged h images = { s with ring := { s.ring with
      harvest := { s.ring.harvest with staged := (s.launchStaged h images).ring.harvest.staged } } } := by
  subst hh
  unfold State.launchStaged
  split <;> rfl

theorem State.launchStaged_some (h : HarvestState) (images : List (Nat × List Byte)) (p : Nat × List Byte)
    (hi : images.find? (fun q => q.1 == s.self) = some p) :
    (s.launchStaged h images).ring.harvest.staged = some (bytesAt (p.2.map BitVec.toNat) 0 s.alm.outLen) := by
  simp only [State.launchStaged, hubImage, hi, Option.map_some]
  rfl

theorem State.launchStaged_none (h : HarvestState) (images : List (Nat × List Byte))
    (hi : images.find? (fun q => q.1 == s.self) = none) : s.launchStaged h images = s := by
  simp only [State.launchStaged, hubImage, hi, Option.map_none]

theorem exec_harvestLaunch_launched (images : List (Nat × List Byte)) (h : s.Live) (hh : s.rd F.CRL_CTL_HEAD ≠ 0)
    (ht : s.ring.head.trainOpen = false) (hc : s.ring.harvest.closed = false) :
    exec (.harvestLaunch images) s = .next (s.settle (s.launched images)) := by
  have hexec : exec (.harvestLaunch images) s = execHarvestLaunch images s := rfl
  have hon : s.on F.CRL_CTL_HEAD = true := by rwa [State.on, bne_iff_ne]
  rw [hexec, execHarvestLaunch_eq, guarded_next s _ h.1 h.2, hon, ht, hc]
  rfl

/-- The head's launch. -/
theorem exec_harvestLaunch_opens (images : List (Nat × List Byte)) (h : s.Live) (hh : s.rd F.CRL_CTL_HEAD ≠ 0)
    (ht : s.ring.head.trainOpen = false) (hc : s.ring.harvest.closed = false) :
    ∃ t, exec (.harvestLaunch images) s = .next t ∧ t.ring.head.trainOpen = true ∧ t.ring.head.returned = [] ∧
      t.ring.head.framesBack = [] ∧
      (∀ bs, images.find? (fun p => p.1 == s.self) = some (s.self, bs) →
        t.ring.harvest.staged = some (bytesAt (bs.map BitVec.toNat) 0 s.alm.outLen)) ∧
      (images.find? (fun p => p.1 == s.self) = none → t.ring.harvest.staged = s.ring.harvest.staged) ∧
      s.SameRegs t [F.CRL_STATUS_HV_RUN] ∧ (s.trainHubs ≠ [] → t.rd F.CRL_STATUS_HV_RUN = 1) ∧
      t = { s.noted t with ring := t.ring, swc := { s.swc with arrivals := t.swc.arrivals } } := by
  obtain ⟨len, launches⟩ := s.launched_launches images
  refine ⟨_, exec_harvestLaunch_launched s images h hh ht hc, ?_⟩
  have seenFrame := s.launchSeen_frame (s.launchSlots images) len
  have seenRegs := s.launchSeen_regs (s.launchSlots images) len
  have seenSelf := s.launchSeen_self (s.launchSlots images) len
  have seenRun := s.launchSeen_hvRun (s.launchSlots images) len
  generalize s.launchSeen (s.launchSlots images) len = x at launches seenFrame seenRegs seenSelf seenRun
  have stagedFrame := x.launchStaged_frame s.ring.harvest images (by rw [seenFrame])
  have stagedSome := x.launchStaged_some s.ring.harvest images
  have stagedNone := x.launchStaged_none s.ring.harvest images
  rw [seenSelf] at stagedSome stagedNone
  generalize x.launchStaged s.ring.harvest images = y at launches stagedFrame stagedSome stagedNone
  generalize s.launched images = u at launches ⊢
  have hhead : u.ring.head = { s.ring.head with returned := [], framesBack := [], trainLen := len, trainOpen := true } := by
    rw [launches.head, stagedFrame, seenFrame]
  have hregs : s.SameRegs u [F.CRL_STATUS_HV_RUN] :=
    (seenRegs.trans (State.SameRegs.of_regs (by rw [stagedFrame]))).trans (launches.regs.mono (by simp))
  refine ⟨by rw [State.settle_ring, hhead], by rw [State.settle_ring, hhead], by rw [State.settle_ring, hhead],
    fun bs hbs => ?_, fun hnone => ?_, hregs, fun hhubs => ?_, ?_⟩
  · rw [State.settle_ring, launches.staged, stagedSome (s.self, bs) hbs, seenFrame]
  · rw [State.settle_ring, launches.staged, stagedNone hnone, seenFrame]
  · rw [State.settle_rd, launches.regs _ List.not_mem_nil, State.rd_congr x y _ (by rw [stagedFrame])]
    exact seenRun fun he => hhubs (List.map_eq_nil_iff.1 he)
  · rw [launches.frame, stagedFrame, seenFrame]
    rfl

end Sys2Proof.Machine
end

section
/-! PROOFS. The completion of a harvest cycle at the head (R277, R283, R334, R335, R401). -/

namespace Sys2Proof.Machine

/-- t comes from s by what the head does about its ring: of the register file only the listed fields change, and no train is opened. -/
structure State.HeadActs (fs : List Fld) (s t : State) : Prop where
  frame : t = { s.noted t with ring := t.ring, swc := { s.swc with arrivals := t.swc.arrivals }, brg := t.brg, stt := t.stt }
  regs : s.SameRegs t fs
  shut : s.ring.head.trainOpen = false → t.ring.head.trainOpen = false

section Relation

variable {fs gs : List Fld} {s t u : State}

theorem State.HeadActs.refl (fs : List Fld) (s : State) : State.HeadActs fs s s := ⟨rfl, State.SameRegs.refl fs, id⟩

theorem State.HeadActs.trans (h : State.HeadActs fs s t) (k : State.HeadActs fs t u) : State.HeadActs fs s u :=
  ⟨k.frame.trans (by rw [h.frame]; rfl), h.regs.trans k.regs, fun hs => k.shut (h.shut hs)⟩

theorem State.HeadActs.mono (h : State.HeadActs fs s t) (hs : ∀ f ∈ fs, f ∈ gs) : State.HeadActs gs s t :=
  ⟨h.frame, h.regs.mono hs, h.shut⟩

theorem State.HeadActs.foldl {α : Type} (f : State → α → State) (l : List α) (s : State) (h : ∀ t a, State.HeadActs fs t (f t a)) :
    State.HeadActs fs s (l.foldl f s) :=
  List.foldlRecOn (motive := State.HeadActs fs s) l f (State.HeadActs.refl fs s) fun t ht a _ => ht.trans (h t a)

theorem State.HeadActs.ite {p : Prop} [Decidable p] (h : State.HeadActs fs s t) (k : State.HeadActs fs s u) :
    State.HeadActs fs s (if p then t else u) := by
  split
  · exact h
  · exact k

theorem State.Sends.headActs (h : State.Sends fs s t) : State.HeadActs fs s t :=
  ⟨h.frame.trans (by rw [h.frame]; rfl), h.regs, fun hs => by rw [h.head, hs]⟩

/-- The end of the command: only what was sent and the notes of the cycle change. -/
theorem State.HeadActs.settle (h : State.HeadActs fs s t) (a : State) : State.HeadActs fs s (a.settle t) :=
  h.trans ⟨rfl, State.SameRegs.refl fs, id⟩

end Relation

variable (s : State)

theorem State.setStt_headActs (fs : List Fld) (x : SttState) : State.HeadActs fs s (s.setStt x) :=
  ⟨rfl, State.SameRegs.of_regs rfl, id⟩

theorem State.setHead_headActs (fs : List Fld) (x : HeadState) (hx : s.ring.head.trainOpen = false → x.trainOpen = false) :
    State.HeadActs fs s (s.setHead x) := ⟨rfl, State.SameRegs.of_regs rfl, hx⟩

/-- What is sent, and what the bridge keeps of the images, change. -/
theorem State.reported_headActs (fs : List Fld) (egress : List Out) (brg : BrgState) :
    State.HeadActs fs s { s with egress := egress, brg := brg } := ⟨rfl, State.SameRegs.of_regs rfl, id⟩

/-! A station lost -/

/-- An EPOCH that follows the epoch in force is taken or ignored; its stations' windows are cleared. -/
theorem State.epochReceived_headActs (e : EpochInfo) (he : e.prevEpoch = s.rd F.CRL_EPOCH_CUR) :
    State.HeadActs [] s (s.epochReceived e) := by
  have hstale : ¬ e.prevEpoch ≠ s.rd F.CRL_EPOCH_CUR := fun hne => hne he
  unfold State.epochReceived
  dsimp only
  rw [if_neg hstale]
  split
  · exact State.HeadActs.refl [] s
  · split
    · exact State.HeadActs.refl [] s
    · have taken : State.HeadActs [] s { s with ring := { s.ring with coming := some e } } := ⟨rfl, State.SameRegs.refl [], id⟩
      exact taken.trans (State.HeadActs.foldl _ _ _ fun t st => ⟨rfl, State.SameRegs.refl [], id⟩)

theorem State.announce_headActs : State.HeadActs [] s s.announce := by
  unfold State.announce
  dsimp only
  split
  · exact s.setHead_headActs [] _ id
  · refine (s.setHead_headActs [] _ fun hs => ?_).trans (State.epochReceived_headActs _ _ rfl)
    dsimp only
    split <;> exact hs

theorem State.stationLost_headActs (station : Nat) : State.HeadActs [] s (s.stationLost station) := by
  unfold State.stationLost
  dsimp only
  split
  · exact State.HeadActs.refl [] s
  · refine State.HeadActs.trans (s.setHead_headActs [] _ ?_) (State.announce_headActs _)
    exact id

theorem State.countMissed_headActs (l : List (Nat × Nat × List Nat)) : State.HeadActs [] s (s.countMissed l) := by
  unfold State.countMissed
  dsimp only
  refine State.HeadActs.trans (s.setHead_headActs [] _ ?_) (State.HeadActs.foldl _ _ _ fun t station => t.stationLost_headActs station)
  exact id

/-! The referee's watch -/

theorem State.refCmd_sends (op station pos : Nat) : State.Sends [F.CRL_CNT2_UNREACH] s (s.refCmd op station pos) :=
  s.sendPosted_sends _ _ _ _ _ _

theorem State.missWatch_headActs (l : List (Nat × Nat × List Nat)) : State.HeadActs [F.CRL_CNT2_UNREACH] s (s.missWatch l) := by
  unfold State.missWatch
  split
  · exact State.HeadActs.refl _ s
  · refine State.HeadActs.foldl _ _ _ fun t id => ?_
    dsimp only
    split
    · exact State.HeadActs.refl _ t
    · refine State.HeadActs.trans (t.setStt_headActs _ _) (State.HeadActs.ite ?_ (State.HeadActs.refl _ _))
      exact (State.refCmd_sends _ _ _ _).headActs

/-! What goes to host memory -/

/-- Only what was sent grows. -/
def State.Emits (s t : State) : Prop := t = { s with egress := t.egress }

theorem State.Emits.trans {s t u : State} (h : s.Emits t) (k : t.Emits u) : s.Emits u := Eq.trans k (by rw [h])

theorem State.Emits.foldl {α : Type} (f : State → α → State) (l : List α) (s : State) (h : ∀ t a, State.Emits t (f t a)) :
    s.Emits (l.foldl f s) :=
  List.foldlRecOn (motive := s.Emits) l f rfl fun t ht a _ => State.Emits.trans ht (h t a)

theorem State.toHost_emits (addr : Nat) (bs : List Nat) : s.Emits (s.toHost addr bs) := by
  unfold State.toHost
  split <;> rfl

theorem State.writeInputs_emits (buf : Nat) (l : List (Nat × Nat × List Nat)) : s.Emits (s.writeInputs buf l) := by
  unfold State.writeInputs
  refine (State.Emits.foldl _ _ _ fun t x => ?_).trans (State.toHost_emits _ _ _)
  split
  · exact rfl
  · exact t.toHost_emits _ _

theorem State.groupVectors_emits (old : List Nat) : s.Emits (s.groupVectors old) := by
  unfold State.groupVectors
  refine State.Emits.foldl _ _ _ fun t g => ?_
  split <;> rfl

theorem State.writeAttention_frame (buf : Nat) (l : List (Nat × Nat × List Nat)) :
    s.writeAttention buf l = { s with egress := (s.writeAttention buf l).egress, brg := (s.writeAttention buf l).brg } := by
  unfold State.writeAttention
  dsimp only
  rw [s.toHost_emits]
  rfl

/-! The cycle record -/

/-- The counts of a completed cycle, and HDONE. -/
def State.cycleCounted (s : State) (fresh missed cycle : Nat) : State :=
  (((s.wr F.CRL_HDONE_FRESH fresh).wr F.CRL_HDONE_MISSED missed).wr F.CRL_HDONE_CYC_CYCLE cycle).raise F.CRL_IRQ_HDONE

/-- The hubs MISSED in a cycle. -/
def missedCount (l : List (Nat × Nat × List Nat)) : Nat := (l.filter (fun x => x.2.1 == 2)).length

theorem State.writeRecord_emits (buf : Nat) (l : List (Nat × Nat × List Nat)) :
    (s.cycleCounted (l.length - missedCount l) (missedCount l) (s.ring.harvest.cycle % 2 ^ 32)).Emits (s.writeRecord buf l) := by
  unfold State.writeRecord
  dsimp only
  rw [s.toHost_emits]
  split <;> rfl

/-- The head's images, attention map and record, and the vectors of a completed cycle. -/
def State.cycleReported (s : State) : State :=
  (((s.writeInputs (s.ring.harvest.cycle % 2) s.cycleResults).writeAttention (s.ring.harvest.cycle % 2) s.cycleResults).writeRecord
    (s.ring.harvest.cycle % 2) s.cycleResults).groupVectors s.brg.attention

/-- The train is closed. -/
def State.trainClosed (s : State) : State := s.setHead { s.ring.head with trainOpen := false }

theorem State.cycleComplete_eq :
    s.cycleComplete = (s.cycleReported.trainClosed.missWatch s.cycleResults).countMissed s.cycleResults := by
  simp only [State.cycleComplete, State.cycleReported, State.trainClosed]

/-- In the hub itself a report leaves the counts, HDONE and the attention bits kept. -/
theorem State.cycleReported_frame :
    ∃ egress brg, s.cycleReported =
      { s.cycleCounted (s.cycleResults.length - missedCount s.cycleResults) (missedCount s.cycleResults)
          (s.ring.harvest.cycle % 2 ^ 32) with egress := egress, brg := brg } := by
  unfold State.cycleReported
  generalize s.cycleResults = l
  obtain ⟨e1, h1⟩ : ∃ e, s.writeInputs (s.ring.harvest.cycle % 2) l = { s with egress := e } := ⟨_, s.writeInputs_emits _ l⟩
  rw [h1]
  obtain ⟨e2, b, h2⟩ : ∃ e b, State.writeAttention { s with egress := e1 } (s.ring.harvest.cycle % 2) l =
    { s with egress := e, brg := b } := ⟨_, _, State.writeAttention_frame { s with egress := e1 } _ l⟩
  rw [h2]
  obtain ⟨e3, h3⟩ : ∃ e, State.writeRecord { s with egress := e2, brg := b } (s.ring.harvest.cycle % 2) l =
      { s.cycleCounted (l.length - missedCount l) (missedCount l) (s.ring.harvest.cycle % 2 ^ 32) with egress := e, brg := b } :=
    ⟨_, State.writeRecord_emits { s with egress := e2, brg := b } _ l⟩
  rw [h3]
  exact ⟨_, b, State.groupVectors_emits _ _⟩

/-- The fields in which a completed cycle shows. -/
def hdoneFields : List Fld := [F.CRL_IRQ_HDONE, F.CRL_HDONE_MISSED, F.CRL_HDONE_FRESH, F.CRL_HDONE_CYC_CYCLE]

theorem State.cycleCounted_regs (fresh missed cycle : Nat) : s.SameRegs (s.cycleCounted fresh missed cycle) hdoneFields :=
  ((((State.SameRegs.refl _).wr F.CRL_HDONE_FRESH _ (by simp [hdoneFields])).wr F.CRL_HDONE_MISSED _ (by simp [hdoneFields])).wr
    F.CRL_HDONE_CYC_CYCLE _ (by simp [hdoneFields])).wr F.CRL_IRQ_HDONE 1 (by simp [hdoneFields])

theorem State.cycleCounted_rd (fresh missed cycle : Nat) :
    (s.cycleCounted fresh missed cycle).rd F.CRL_IRQ_HDONE = 1 ∧
      (s.cycleCounted fresh missed cycle).rd F.CRL_HDONE_MISSED = missed % 4096 ∧
      (s.cycleCounted fresh missed cycle).rd F.CRL_HDONE_FRESH = fresh % 4096 ∧
      (s.cycleCounted fresh missed cycle).rd F.CRL_HDONE_CYC_CYCLE = cycle % 2 ^ 32 := by
  simp (disch := decide) only [State.cycleCounted, State.rd_raise_ne, State.rd_raise_same, State.rd_wr_ne, State.rd_wr_same]
  exact ⟨rfl, rfl, rfl, rfl⟩

/-- Up to the closing of the train, and what follows it. -/
theorem State.cycleComplete_headActs :
    State.HeadActs hdoneFields s s.cycleReported.trainClosed ∧
      State.HeadActs [F.CRL_CNT2_UNREACH] s.cycleReported.trainClosed s.cycleComplete := by
  constructor
  · obtain ⟨egress, brg, hrep⟩ := s.cycleReported_frame
    have counted (fresh missed cycle : Nat) : State.HeadActs hdoneFields s (s.cycleCounted fresh missed cycle) :=
      ⟨rfl, s.cycleCounted_regs _ _ _, id⟩
    have reported : State.HeadActs hdoneFields s s.cycleReported := by
      rw [hrep]
      exact (counted _ _ _).trans (State.reported_headActs _ _ _ _)
    exact reported.trans (State.setHead_headActs _ _ _ fun _ => rfl)
  · rw [s.cycleComplete_eq]
    exact (State.missWatch_headActs _ _).trans ((State.countMissed_headActs _ _).mono (by simp))

theorem exec_harvestCycleComplete_closed (h : s.Live) (hh : s.rd F.CRL_CTL_HEAD ≠ 0) (ht : s.ring.head.trainOpen = true)
    (hc : s.ring.harvest.closed = true) : exec .harvestCycleComplete s = .next (s.settle s.cycleComplete) := by
  have hexec : exec .harvestCycleComplete s = execHarvestCycleComplete s := rfl
  have hon : s.on F.CRL_CTL_HEAD = true := by rwa [State.on, bne_iff_ne]
  rw [hexec, execHarvestCycleComplete, guarded_next s _ h.1 h.2, if_pos ⟨hon, ht, .inr hc⟩]

/-- The head completes a cycle whose boundary has passed. -/
theorem exec_harvestCycleComplete_counts (h : s.Live) (hh : s.rd F.CRL_CTL_HEAD ≠ 0) (ht : s.ring.head.trainOpen = true)
    (hc : s.ring.harvest.closed = true) :
    ∃ t, exec .harvestCycleComplete s = .next t ∧ t.ring.head.trainOpen = false ∧ t.rd F.CRL_IRQ_HDONE = 1 ∧
      t.rd F.CRL_HDONE_MISSED = (s.cycleResults.filter (fun x => x.2.1 == 2)).length % 4096 ∧
      t.rd F.CRL_HDONE_FRESH = (s.cycleResults.length - (s.cycleResults.filter (fun x => x.2.1 == 2)).length) % 4096 ∧
      t.rd F.CRL_HDONE_CYC_CYCLE = s.ring.harvest.cycle % 2 ^ 32 ∧
      s.SameRegs t [F.CRL_IRQ_HDONE, F.CRL_HDONE_MISSED, F.CRL_HDONE_FRESH, F.CRL_HDONE_CYC_CYCLE, F.CRL_CNT2_UNREACH] ∧
      t = { s.noted t with ring := t.ring, swc := { s.swc with arrivals := t.swc.arrivals }, brg := t.brg, stt := t.stt } := by
  obtain ⟨before, after⟩ := s.cycleComplete_headActs
  have whole := ((before.mono (gs := hdoneFields ++ [F.CRL_CNT2_UNREACH]) fun _ hf => List.mem_append_left _ hf).trans (after.mono (by simp))).settle s
  obtain ⟨egress, brg, hrep⟩ := s.cycleReported_frame
  obtain ⟨hdone, hmissed, hfresh, hcycle⟩ := s.cycleCounted_rd (s.cycleResults.length - missedCount s.cycleResults)
    (missedCount s.cycleResults) (s.ring.harvest.cycle % 2 ^ 32)
  have shown (g : Fld) (hg : g.key ∉ [F.CRL_CNT2_UNREACH].map Fld.key) :
      (s.settle s.cycleComplete).rd g = (s.cycleCounted (s.cycleResults.length - missedCount s.cycleResults)
        (missedCount s.cycleResults) (s.ring.harvest.cycle % 2 ^ 32)).rd g := by
    rw [State.settle_rd, after.regs g hg, hrep]
    rfl
  refine ⟨_, exec_harvestCycleComplete_closed s h hh ht hc, after.shut rfl, ?_, ?_, ?_, ?_, whole.regs, whole.frame⟩
  · rw [shown _ (by decide), hdone]
  · rw [shown _ (by decide), hmissed]
    rfl
  · rw [shown _ (by decide), hfresh]
    rfl
  · rw [shown _ (by decide), hcycle, Nat.mod_mod]

/-- Settles O47, clause by clause: the start of a cycle, its launch at the head, its boundary with and without an image taken, and its
completion. -/
theorem harvestCycle : Obligations.HarvestCycle :=
  ⟨fun s h ht hk ha hr hc => exec_harvestCycleStart_admitted s h ht hk ha hr hc,
    fun images s h hh ht hc => exec_harvestLaunch_opens s images h hh ht hc,
    fun img s h ho hd hrel hs hdr hr hc hp => exec_harvestBoundary_applied s img h ho hd hrel hs hdr hr hc hp,
    fun s h ho hd hs hw ha hrel hq hr hc => exec_harvestBoundary_missed s h ho hd hs hw ha hrel hq hr hc,
    fun s h hh ht hc => exec_harvestCycleComplete_counts s h hh ht hc⟩

end Sys2Proof.Machine
end
